-- ==== Sys2Proof/Word.lean ====
section
/-! DEFINITION. The byte and word types of the package (R1: little-endian, bits numbered from 0). -/

namespace Sys2Proof

/-- One byte of package memory, of a record, a descriptor, a table or a packet (R1). -/
abbrev Byte := BitVec 8

/-- A 32-bit word: a descriptor word (R55), a binary32 value (R81), the data half of a stored word (R243). -/
abbrev Word := BitVec 32

/-- A 64-bit word: a fingerprint seed, a generator seed or counter (R170), an atomic operand (R342). -/
abbrev DWord := BitVec 64

/-- The 40 bits held for one 32-bit word in every memory of the package (R243). -/
abbrev StoredWord := BitVec 40

/-- A byte string: a BLOB or DOMAIN value (R381), a record, a packet body. -/
abbrev Bytes := List Byte

end Sys2Proof
end

