-- ==== Sys2Proof/Machine/Records.lean ====
section
/-! DEFINITION. The records that commands carry to the package: packets of the fabric and of the host die,
messages, notices, dictionary requests, and the physical outcomes that a phase, a test or a monitor delivers. -/

namespace Sys2Proof

/-- A packet of the memory-semantic layer: the route header of R320 with word 3 and the transaction unit of R336.
`reserved` is the sum of every checked reserved field (0 when all are zero). -/
structure Packet where
  /-- Logical package id of the destination (10 bits). -/
  dest : Nat := 0
  /-- Logical package id of the source (10 bits). -/
  src : Nat := 0
  /-- 0 request, 1 response, 2 collective, 3 control. -/
  cls : Nat := 0
  /-- Detours taken, 0–2. -/
  detours : Nat := 0
  /-- Dimension to finish first: 0 none, 1 X, 2 Y, 3 Z. -/
  prio : Nat := 0
  /-- Set on crossing the dateline of the current ring. -/
  dateline : Bool := false
  /-- Every checked reserved field, summed. -/
  reserved : Nat := 0
  /-- Model version of the payload; 0xFFFF for none. -/
  version : Nat := 0xFFFF
  /-- TYPE of R337, or 0x80–0x82 of R330. -/
  type : Nat := 0
  /-- Packet length in 16-byte units. -/
  len : Nat := 2
  /-- Step number: the audit epoch of the payload. -/
  step : Nat := 0
  /-- Source package's start count modulo 256. -/
  incarnation : Nat := 0
  /-- Transaction sequence number, modulo 2^24. -/
  tseq : Nat := 0
  /-- Local address at the destination, 46 bits. -/
  addr : Nat := 0
  /-- ATOMIC: false 32 bits, true 64 bits. -/
  asize : Bool := false
  /-- ATOMIC operation of R342. -/
  aop : Nat := 0
  /-- WRITE: every word covered is written as poisoned. -/
  poison : Bool := false
  /-- A flagged transaction (R346). -/
  flag : Bool := false
  /-- Source unit of R335. -/
  srcUnit : Nat := 0
  /-- Source's tag. -/
  tag : Nat := 0
  /-- BYTES of R336. -/
  bytes : Nat := 0
  /-- Lowest TSEQ the source still awaits. -/
  floor : Nat := 0
  /-- STATUS of an ERROR response. -/
  status : Nat := 0
  /-- Data units, cut to the bytes that count. -/
  data : Bytes := []
  deriving DecidableEq, Repr

/-- The state of one request as the lead sends it to its deputy (R185): what the lead's scheduler holds of it at the boundary. -/
structure RequestState where
  handle : Nat := 0
  sequence : Nat := 0
  record : Bytes := []
  version : Nat := 0
  promptDone : Nat := 0
  generated : Nat := 0
  committed : Nat := 0
  lastToken : Nat := 0
  drafts : List Nat := []
  cancelled : Bool := false
  given : Option Nat := none
  parked : Bool := false
  deriving DecidableEq, Repr

/-- A stream as the lead sends it to its deputy (R185, R233): the bytes 0 to 31 in force, the bound request, and its counts. -/
structure StreamState where
  stream : Nat := 0
  bound : Option Nat := none
  head : Bytes := []
  emitted : Nat := 0
  playedUs : Nat := 0
  reportNs : Nat := 0
  state : Nat := 0
  level : Nat := 0
  deriving DecidableEq, Repr

/-- A step notice of the scheduling lead (R198); `drained` carries the lead's decision of R282, and `levels` (tenant, bucket level),
`states` and `streams` what the lead appends for its deputy (R185, R233). -/
structure StepNotice where
  step : Nat := 0
  config : Nat := 0
  hasGen : Bool := false
  hasPre : Bool := false
  genLength : Nat := 0
  preLength : Nat := 0
  drained : Bool := false
  levels : List (Nat × Int) := []
  states : List RequestState := []
  streams : List StreamState := []
  deriving DecidableEq, Repr

/-- A row sent to an expert's home router (R151): its step, layer, expert and source, its rank within the
source's share, and its return tag (LT row, plane, gate), with the row's bytes. -/
structure DispatchedRow where
  step : Nat := 0
  layer : Nat := 0
  expert : Nat := 0
  source : Nat := 0
  rank : Nat := 0
  ltRow : Nat := 0
  plane : Nat := 0
  gate : Word := 0
  data : Bytes := []
  deriving DecidableEq, Repr

/-- A source's end notice for one expert (R151, R152). -/
structure EndNotice where
  step : Nat := 0
  layer : Nat := 0
  expert : Nat := 0
  source : Nat := 0
  count : Nat := 0
  deriving DecidableEq, Repr

/-- What a dispatch stores at an expert's home (R151). -/
inductive RouteItem where
  | row (row : DispatchedRow)
  | notice (notice : EndNotice)
  deriving DecidableEq, Repr

/-- Layer, expert and source of a row or a notice (R151). -/
def RouteItem.layer : RouteItem → Nat
  | .row r => r.layer
  | .notice n => n.layer
def RouteItem.expert : RouteItem → Nat
  | .row r => r.expert
  | .notice n => n.expert
def RouteItem.source : RouteItem → Nat
  | .row r => r.source
  | .notice n => n.source

/-- A message between Tier Managers (R256). -/
structure TmMessage where
  type : Nat := 0
  version : Nat := 1
  sender : Nat := 0
  sequence : Nat := 0
  units : Nat := 0
  graceMs : Nat := 0
  deadlineNs : Nat := 0
  unitList : List Nat := []
  reserved : Nat := 0
  deriving DecidableEq, Repr

/-- What a load reads from its source before it copies slices (R274 steps 1 to 3): header and manifest bytes
(`none`: the read completed with an error), the signature block's bytes, and whether both signatures of the signature block verify. -/
structure ImageHead where
  header : Option Bytes := none
  manifest : Option Bytes := none
  signature : Bytes := []
  signatureVerifies : Bool := false
  sourceResident : Bool := true
  deriving DecidableEq, Repr

/-- What the read of a shard slice comes back with (R274): its bytes, an error, or, where the source is a neighbour, its answer that
it does not hold the version resident at the position. -/
inductive SliceRead where
  | good (data : Bytes)
  | failed
  | lacks
  deriving DecidableEq, Repr

/-- A partner's capability record (R314). -/
structure Capability where
  release : Nat := 0
  lowest : Nat := 0
  highest : Nat := 0
  x : Nat := 0
  y : Nat := 0
  z : Nat := 0
  link : Nat := 0
  full : Bool := false
  licensed : Bool := true
  deriving DecidableEq, Repr

/-- A suspect notice (R324): the sender whose every link in `direction` is down, and the neighbour there.
Directions: 0 X+, 1 X−, 2 Y+, 3 Y−, 4 Z+, 5 Z−. -/
structure SuspectNotice where
  sender : Nat := 0
  direction : Nat := 0
  neighbour : Nat := 0
  linksBack : Bool := false
  deriving DecidableEq, Repr

/-- Header of a collective packet (R330), with STEP and VERSION of its route header. -/
structure CollHeader where
  group : Nat := 0
  mode : Nat := 0
  dimension : Nat := 0
  occurrence : Nat := 0
  sender : Nat := 0
  line : Nat := 0
  element : Nat := 0
  step : Nat := 0
  version : Nat := 0
  deriving DecidableEq, Repr

/-- A rack message (R372): header fields, body, and whether its tag verifies under the key of `keyEpoch`. -/
structure RackMessage where
  magic : Nat := 0xC1A7
  version : Nat := 1
  type : Nat := 1
  sender : Nat := 0xFFFF
  bodyBytes : Nat := 0
  sequence : Nat := 0
  timeNs : Nat := 0
  step : Nat := 0
  keyEpoch : Nat := 0
  reserved : Nat := 0
  tagVerifies : Bool := true
  body : Bytes := []
  deriving DecidableEq, Repr

/-- A poison notice (R442). -/
structure PoisonRecord where
  step : Nat := 0
  rackId : Nat := 0
  sender : Nat := 0
  cause : Nat := 0
  region : Nat := 0xFF
  block : Nat := 0xFF
  descriptor : Nat := 0
  tile : Nat := 0
  reserved : Nat := 0
  deriving DecidableEq, Repr

/-- An audit report (R442): verdict 0 clean, 1 rolled back, 2 departing. -/
structure ReportRecord where
  step : Nat := 0
  sender : Nat := 0
  verdict : Nat := 0
  audited : Nat := 0
  unaudited : Nat := 0
  disagreements : Nat := 0
  reserved : Nat := 0
  deriving DecidableEq, Repr

/-- One unit that a structural test or a training found bad: unit kind and number as in R454. -/
structure FailedUnit where
  kind : Nat := 0
  unit : Nat := 0
  status : Nat := 0
  deriving DecidableEq, Repr

/-- The physical outcome of a start phase (R466): its length; the firmware attempts of R469 in order (0 verified,
1 signatures failed, 2 epoch low, 3 seal failed); whether the identity was regenerated (R471); whether every
pattern chunk matched (R473); units failing the structural test (R474) or training (R477); the DIMM in each
DDR5 channel in GiB (R242); the UCIe modules and management ports that trained (masks), their rate and FEC (two bits a port); whether a reference frame was
decoded and its tick (R485). -/
structure PhaseResult where
  ms : Nat := 0
  attempts : List Nat := []
  identityOk : Bool := true
  patternsOk : Bool := true
  dieFault : Bool := false
  failures : List FailedUnit := []
  trainingFailures : List FailedUnit := []
  dimmGiB : List Nat := []
  modulesUp : Nat := 0xF
  moduleRate : Nat := 32
  portsUp : Nat := 3
  portFec : Nat := 0
  firmwareRelease : Nat := 0
  firmwareEpoch : Nat := 0
  frameTick : Option Nat := none
  flashAnswers : Nat := 3
  flashRepaired : Nat := 0
  deriving DecidableEq, Repr

/-- The verdict of verifying both copies of the inactive firmware slot (R506, R508). -/
structure FirmwareVerdict where
  verified : Bool := false
  raiseEpoch : Bool := false
  epoch : Nat := 0
  deriving DecidableEq, Repr

/-- A dictionary request as it reaches the server (R391, R392, R400): transport 0 port 0, 1 port 1, 2 sideband;
`client` the client's address and port; `tagVerifies` whether the datagram's AES-256-GCM tag verifies. For the writes that need one: what a
load reads (R274), whether a licence's signatures verify (R512), the verdict on a firmware slot (R508). -/
structure DapRequest where
  session : Nat := 0
  transport : Nat := 0
  client : Nat := 0
  sequence : Nat := 0
  tagVerifies : Bool := true
  requestId : Nat := 0
  reserved : Nat := 0
  type : Nat := 0
  subindex : Nat := 0
  index : Nat := 0
  length : Nat := 0
  arg : Nat := 0
  arg2 : Nat := 0
  data : Bytes := []
  image : ImageHead := {}
  signaturesVerify : Bool := false
  verdict : FirmwareVerdict := {}
  deriving DecidableEq, Repr

/-- One reading of every monitor (R490): input, and per region four temperatures in 1/16 °C, core and SRAM
voltages in mV, process speed in ppm, power in W; die monitors as bytes in the layout of 0x7030. -/
structure MonitorReadings where
  inputMv : Nat := 0
  inputMa : Nat := 0
  inputW : Nat := 0
  averageW : Nat := 0
  temps : List (List Int) := []
  volts : List (Nat × Nat) := []
  process : List Int := []
  powerW : List Nat := []
  dieMonitors : Bytes := []
  deriving DecidableEq, Repr

end Sys2Proof
end

