-- ==== Sys2Proof/Syntax.lean ====
section
/-! DEFINITION. The commands of the package: one constructor for each row of spec/opcode_table.json, in the
table's order, with the operands that the row's rule gives it. Units that the package numbers (R3) are bounded by
their type; byte strings are what a write, a packet or a reader delivers. -/

namespace Sys2Proof

/-- A command to the package: an operation or an event of spec/opcode_table.json. `pp` is a partition. -/
inductive Instr where
  | stepBoundary (pp : Fin 12)
  | stepNoticeArrival (pp : Fin 12) (notice : StepNotice)
  | descriptorReadComplete (block : Fin 96) (readOk : Bool)
  | passWaitsMet (block : Fin 96)
  | passComplete (block : Fin 96)
  | badOperandWord (block : Fin 96) (sramUncorrectable : Bool) (completion : Nat) (address : Nat)
  | cellCorrectedError (cell : Fin 768)
  | cellUncorrectable (cell : Fin 768)
  | cellResetComplete (cell : Fin 768)
  | stageFault (block : Fin 96) (tile : Nat)
  | handshakeTimeout (region : Fin 12)
  | regionControlFault (region : Fin 12)
  | markGapExceeded (block : Fin 96)
  | cellHideWrite (region : Fin 12) (cell : Fin 64) (value : Byte)
  | countersClear (index : BitVec 16) (value : Byte)
  | recipeOverrideWrite (pp : Fin 12) (data : Bytes)
  | layerTableWrite (pp : Fin 12) (data : Bytes)
  | routerLayerTableWrite (pp : Fin 12) (data : Bytes)
  | dispatchedRowArrival (pp : Fin 12) (row : DispatchedRow)
  | endNoticeArrival (pp : Fin 12) (notice : EndNotice)
  | intakeCounterAdd (pp : Fin 12) (n : DWord)
  | intakeReset (pp : Fin 12) (value : Byte)
  | cancelWord (pp : Fin 12) (word : DWord)
  | cancelNoticeArrival (pp : Fin 12) (step : Nat) (genRows preRows : List Nat)
  | completionConsumedStore (pp : Fin 12) (n : DWord)
  | tokenRecordForward (pp : Fin 12) (package : Nat) (record : Bytes)
  | samplerCountArrival (pp : Fin 12) (package step count : Nat)
  | lengthTableArrival (pp : Fin 12) (engine : Fin 2) (step : Nat) (table tokens : Bytes)
  | tenantTableWrite (pp : Fin 12) (data : Bytes)
  | engineConfigsWrite (pp : Fin 12) (data : Bytes)
  | hostWriteRetry (pp : Fin 12)
  | playHeadReport (pp : Fin 12) (stream : BitVec 16) (word : DWord)
  | ringTableWrite (pp : Fin 12) (data : Bytes)
  | emitConsumedStore (pp : Fin 12) (ring : Fin 16) (n : DWord)
  | scrubPass (ddr : Bool) (unit : Fin 16)
  | channelFailure (ddr : Bool) (unit : Fin 16) (channel : Fin 32)
  | poisonFillComplete (stack : Fin 12)
  | failChannelWrite (ddr : Bool) (unit : Fin 16) (value : Byte)
  | pageCopyComplete (source : Nat)
  | fixedRangesWrite (pp : Fin 12) (data : Bytes)
  | spillPoolWrite (pp : Fin 12) (size : Bool) (value : DWord)
  | advertTimer
  | advert (message : TmMessage)
  | borrow (message : TmMessage)
  | grant (message : TmMessage)
  | refuse (message : TmMessage)
  | reclaim (message : TmMessage)
  | release (message : TmMessage)
  | reclaimDeadline (lender : Nat) (unit : Nat)
  | unitIdleRelease (lender : Nat) (unit : Nat)
  | unitPoisonFillDone (unit : Nat)
  | reclaimUnitsWrite (count : BitVec 16)
  | loadCommand (data : Bytes) (image : ImageHead)
  | sliceLanded (job : Fin 2) (shard slice : Nat) (data : SliceRead)
  | unloadWrite (value : Word)
  | switchWrite (pp : Fin 12) (data : Bytes)
  | dmaStart (channel : Fin 256)
  | dmaStop (channel : Fin 256)
  | dmaResume (channel : Fin 256)
  | dmaAbort (channel : Fin 256)
  | dmaProducedAdd (channel : Fin 256) (n : DWord)
  | dmaDstConsumedStore (channel : Fin 256) (n : DWord)
  | dmaPieceComplete (channel : Fin 256) (piece : Nat)
  | dmaPieceError (channel : Fin 256) (piece : Nat) (side : Fin 2) (address status : Nat)
  | dmaRetryTimer (channel : Fin 256) (piece : Nat)
  | dmaHaltDrainTimeout (channel : Fin 256)
  | dmaStopDrained (channel : Fin 256)
  | controlRegisterWrite (address : Nat) (wide : Bool) (value : DWord) (firmware : Bool)
  | flitReceive (link : Fin 24) (flit : Bytes)
  | replayTimeout (link : Fin 24)
  | ackIdleTimer (link : Fin 24)
  | laneFailure (link : Fin 24) (lane : Fin 8)
  | laneRetrainComplete (link : Fin 24) (lane : Fin 8) (passed : Bool)
  | linkTrainingComplete (link : Fin 24) (passed : Byte)
  | capabilityRecord (link : Fin 24) (record : Capability)
  | profileChange (link : Fin 24) (partnerFull : Bool)
  | axisRemapWrite (dimension : Fin 3) (value : BitVec 16)
  | linkHoldWrite (link : Fin 24) (value : Byte)
  | laneRetrainWrite (link : Fin 24) (lane : Fin 8) (value : Byte)
  | suspectNotice (link : Fin 24) (notice : SuspectNotice)
  | returnNotice (link : Fin 24) (package : Nat)
  | departureNotice (link : Fin 24) (package : Nat)
  | departureLinkPark
  | collectiveGroupsWrite (pp : Fin 12) (data : Bytes)
  | collPartial (pp : Fin 12) (header : CollHeader) (data : Bytes)
  | collGather (pp : Fin 12) (header : CollHeader) (data : Bytes)
  | collAbort (pp : Fin 12) (header : CollHeader)
  | read (packet : Packet)
  | write (packet : Packet)
  | atomic (packet : Packet)
  | counterInc (packet : Packet)
  | retire (packet : Packet)
  | readData (packet : Packet)
  | done (packet : Packet)
  | atomicResult (packet : Packet)
  | error (packet : Packet)
  | responseTimeout (dest tag : Nat)
  | windowTableWrite (data : Bytes)
  | hostFenceReset (mask : DWord)
  | asyncCopyComplete (slot : Fin 256) (status : Nat)
  | ucieModuleDown (module : Fin 4)
  | ucieModuleRestored (module : Fin 4) (rate repaired : Nat)
  | hostDieLoss
  | hostRequest (packet : Packet)
  | sidebandFrame (payloads : Bytes)
  | eventRingAnnounce
  | eventConsumedStore (n : DWord)
  | mgmtLinkLoss (port : Fin 2)
  | cap (port : Fin 2) (message : RackMessage)
  | digest (port : Fin 2) (message : RackMessage)
  | replica (port : Fin 2) (message : RackMessage)
  | telemetryPeriod
  | hello (transport : Fin 3) (client : Nat) (datagram : Bytes)
  | finish (session transport client sequence : Nat) (tagVerifies signaturesVerify : Bool)
  | dapRead (request : DapRequest)
  | dapWrite (request : DapRequest)
  | readSegment (request : DapRequest)
  | writeBegin (request : DapRequest)
  | writeSegment (request : DapRequest)
  | writeCommit (request : DapRequest)
  | writeAbandon (request : DapRequest)
  | domainWrite (request : DapRequest)
  | readPending (request : DapRequest)
  | describe (request : DapRequest)
  | next (request : DapRequest)
  | keepalive (request : DapRequest)
  | close (session transport client sequence : Nat) (tagVerifies : Bool)
  | dapHandshakeTimeout (session : Nat)
  | sessionIdleTimeout (session : Nat)
  | transferIdleTimeout (session transfer : Nat)
  | sessionCloseWrite (session : Word)
  | credentialsWrite (data : Bytes)
  | partitionStart (pp : Fin 12)
  | partitionStop (pp : Fin 12)
  | partitionPause (pp : Fin 12)
  | partitionResume (pp : Fin 12)
  | partitionPreempt (pp : Fin 12)
  | preemptSaveComplete (pp : Fin 12)
  | partitionReset (pp : Fin 12)
  | resetPhaseComplete (pp : Fin 12) (failures : List FailedUnit) (retireUnanswered : List Nat)
  | resetNoticeArrival (pp : Fin 12)
  | stepWatchdogExpiry (pp : Fin 12)
  | regulatorRefill
  | regionMaskWrite (pp : Fin 12) (mask : BitVec 16)
  | auditTileComputed (pp : Fin 12) (block : Fin 96) (descriptor tile : Nat) (fingerprint : Option Bytes)
  | arbiterResult (pp : Fin 12) (block : Fin 96) (descriptor tile : Nat) (fingerprint : Option Bytes)
  | poisonNotice (pp : Fin 12) (record : PoisonRecord)
  | auditReport (pp : Fin 12) (record : ReportRecord)
  | recutComplete (pp : Fin 12) (package : Nat)
  | digestTimeout (record : Fin 16) (round : Nat)
  | drydownStart (causingUnit : Option FailedUnit)
  | drydownStageComplete
  | declareLostWrite (data : Bytes)
  | packageFlagClear (value : Byte)
  | requalifyTimer
  | powerOnStart
  | startPhaseComplete (result : PhaseResult)
  | ddrFillComplete (channel : Fin 16)
  | btRestart (value : Byte)
  | defectRemove (index : BitVec 16)
  | firmwareCommit (value : Byte) (verdict : FirmwareVerdict)
  | licenceInstall (data : Bytes) (signaturesVerify : Bool)
  | licenceRemove (index : Byte)
  | licenceExpired (index : Nat)
  | attestNonce (nonce : Bytes)
  | rackKeyInstall (data : Bytes)
  | customerKeysWrite (data : Bytes)
  | refSyncFrame (tick : DWord)
  | rackTick (pulse : Bool)
  | referenceLost (rclkStopped : Bool)
  | refFrameWaitExpiry
  | monitorSample (readings : MonitorReadings)
  | ageingCheck (slowIslands : List Nat)
  | slowRegulatorTick (projectedW : Nat)
  | fastClamp (limit : Fin 6) (referenceW : Nat)
  | rackCapWrite (watts : Word)
  | capExpired
  | powerResume
  | sagWarning
  | sagCleared
  | sagReset
  | overvoltageReset
  | droopStretch (island : Fin 14) (sixPercent : Bool)
  | thermalThrottle (island : Fin 14) (hundredDegrees : Bool)
  | thermalTrip
  | pwrEnLow
  | pkgReset
  | flashTake
  | pauseRequest (pp : Fin 12) (package : Nat) (withdraw : Bool)
  | mgmtPortUp (port : Fin 2) (fec : Fin 3)
  | droopRecovery (island : Fin 14)
  deriving DecidableEq, Repr

end Sys2Proof
end

