-- ==== Sys2Proof/Machine/Tables.lean ====
section
/-! DEFINITION. Sparse tables keyed by a number, in rising order of their keys, and the plain operations over byte
strings that every record of the package is read and written with (R1: little-endian). -/

namespace Sys2Proof.Machine

/-- A sparse table: pairs of a key and a value, keys rising; an absent key stands for a default the reader names. -/
abbrev Tbl (α : Type) := List (Nat × α)

/-- The value under a key, if any. -/
def tfind {α : Type} : Tbl α → Nat → Option α
  | [], _ => none
  | (k, v) :: t, key => if k = key then some v else tfind t key

/-- The value under a key, or the default. -/
def tget {α : Type} (t : Tbl α) (key : Nat) (dflt : α) : α := (tfind t key).getD dflt

/-- Puts a value under a key. -/
def tput {α : Type} : Tbl α → Nat → α → Tbl α
  | [], key, v => [(key, v)]
  | (k, w) :: t, key, v =>
    if key < k then (key, v) :: (k, w) :: t
    else if key = k then (key, v) :: t
    else (k, w) :: tput t key v

/-- Removes a key. -/
def tdel {α : Type} (t : Tbl α) (key : Nat) : Tbl α := t.filter (fun e => e.1 != key)

/-- Changes the value under a key, starting from the default where there is none. -/
def tmod {α : Type} (t : Tbl α) (key : Nat) (dflt : α) (f : α → α) : Tbl α := tput t key (f (tget t key dflt))

/-- `n` bytes of a number, least significant first (R1). -/
def leBytes : (n : Nat) → Nat → Bytes
  | 0, _ => []
  | n + 1, v => BitVec.ofNat 8 v :: leBytes n (v / 256)

/-- The number that bytes spell, least significant first (R1). -/
def leNat : Bytes → Nat
  | [] => 0
  | b :: t => b.toNat + 256 * leNat t

/-- `n` bytes of a string from an offset, as a number; bytes beyond its end count as zero. -/
def leAt (b : Bytes) (offset n : Nat) : Nat := leNat ((b.drop offset).take n)

/-- `n` bytes of a string from an offset. -/
def slice (b : Bytes) (offset n : Nat) : Bytes := (b.drop offset).take n

/-- Bit `i` of a number. -/
def bit (v i : Nat) : Bool := v.testBit i

/-- Bits [high:low] of a number. -/
def bits (v high low : Nat) : Nat := (v >>> low) % 2 ^ (high - low + 1)

/-- A byte string cut or padded with zeros to a length. -/
def padTo (b : Bytes) (n : Nat) : Bytes := b.take n ++ List.replicate (n - b.length) 0

/-- Places bytes over a string from an offset (its length unchanged when they fit). -/
def overlay (b : Bytes) (offset : Nat) (new : Bytes) : Bytes :=
  b.take offset ++ new ++ b.drop (offset + new.length)

/-- Consecutive records of a length, the last dropped when it is short; `fuel` bounds their number. -/
def chunks (size : Nat) : (fuel : Nat) → Bytes → List Bytes
  | 0, _ => []
  | fuel + 1, b => if size = 0 ∨ b.length < size then [] else b.take size :: chunks size fuel (b.drop size)

/-- The records of `size` bytes that a byte string holds. -/
def records (size : Nat) (b : Bytes) : List Bytes := chunks size (b.length / size) b

/-- Rounds up to a multiple. -/
def alignUp (n m : Nat) : Nat := (n + m - 1) / m * m

/-- Whether a number is a power of two. -/
def isPow2 (n : Nat) : Bool := n != 0 && (n &&& (n - 1)) == 0

/-- All bytes zero. -/
def allZero (b : Bytes) : Bool := b.all (· == 0)

/-- ASCII bytes of a string. -/
def asciiBytes (s : String) : Bytes := s.toList.map (fun c => BitVec.ofNat 8 c.toNat)

end Sys2Proof.Machine
end

