-- ==== Sys2Proof/Machine/Formats.lean ====
section
/-! DEFINITION. Chapters 3 to 5: sizes of lines, tiles and scale areas, and the granularities of each format
(R59, R84 to R88, R116). Format codes are those of R59. -/

namespace Sys2Proof.Machine

/-- Bytes of `n` elements of a line (R81, R87). K3, K2 and KT lines, which only a COPY writes, pack as in a tile's
groups of 16 and KT's five digits a byte (assumption 15). -/
def elemBytes (fmt n : Nat) : Nat :=
  match fmt with
  | 1 => (n + 1) / 2
  | 2 => (3 * n + 7) / 8
  | 3 => (n + 3) / 4
  | 4 => (n + 4) / 5
  | 5 | 6 | 7 | 8 | 12 => n
  | 9 | 10 => 2 * n
  | 11 | 13 => 4 * n
  | _ => 0

/-- Bytes of a line of INNER units of 16 elements (R58, R87). -/
def fmtLineBytes (fmt inner : Nat) : Nat := elemBytes fmt (inner * 16)

/-- Formats with separate scales (R58). -/
def hasScales (fmt : Nat) : Bool := [1, 2, 3, 4, 5, 6, 12].contains fmt

/-- Element bytes of a weight tile (R86). -/
def tileBytes (fmt : Nat) : Nat :=
  match fmt with
  | 1 => 16384
  | 2 => 12288
  | 3 => 8192
  | 4 => 6656
  | 5 | 6 => 32768
  | 9 => 65536
  | _ => 0

/-- Scale bytes of a weight tile (R86). -/
def tileScaleBytes (fmt : Nat) : Nat :=
  match fmt with
  | 1 | 2 | 3 | 4 => 2176
  | 5 | 6 => 1024
  | _ => 0

/-- Scale pitch P of a line of INNER units (R87). -/
def lineScaleBytes (fmt inner : Nat) : Nat :=
  if hasScales fmt then alignUp ((inner * 16 + 15) / 16 + (inner * 16 + 255) / 256) 64 else 0

/-- Granularity in elements that a QGRAN value gives a format (R84); 0 where it is not accepted. -/
def granOf (fmt qgran : Nat) : Nat :=
  match fmt, qgran with
  | 1, 0 | 1, 1 => 16
  | 1, 2 => 32
  | 2, 0 | 3, 0 | 4, 0 => 16
  | 5, 0 | 5, 2 | 6, 0 | 6, 2 => 32
  | 5, 1 | 6, 1 => 16
  | 5, 3 | 6, 3 => 256
  | 12, 0 => 32
  | _, _ => 0

/-- Granularity in elements that a scale header's byte 1 names (R87, R88); 0 where it is not accepted. -/
def headerGran (fmt g : Nat) : Nat :=
  match fmt, g with
  | 2, 1 | 3, 1 | 4, 1 => 16
  | 12, 2 => 32
  | 1, 1 | 1, 2 | 5, 1 | 5, 2 | 5, 3 | 6, 1 | 6, 2 | 6, 3 => granOf fmt g
  | _, _ => 0

/-- QGRAN value from 1 to 3 that names a granularity (R87). -/
def granCode (g : Nat) : Nat := if g = 16 then 1 else if g = 32 then 2 else 3

/-- The 64-byte scale header (R87). -/
def scaleHeader (fmt qgran : Nat) : Bytes :=
  leBytes 1 fmt ++ leBytes 1 (granCode (granOf fmt qgran)) ++ List.replicate 62 0

/-- QGRAN values accepted for slot D's format (R84). -/
def qgranOk (fmt qgran : Nat) : Bool := if hasScales fmt then granOf fmt qgran != 0 else qgran == 0

end Sys2Proof.Machine
end

