-- ==== Sys2Proof/Config.lean ====
section
/-! DEFINITION. What one implementation or the world outside the package fixes, and every free value: constants
without a body, so that nothing proved of the model can rest on a value of theirs. -/

namespace Sys2Proof.Config

/-- The errors with which the host die answers a read (R364): an address it refuses, an uncorrectable word, a poisoned word. -/
inductive HostError where
  | refused
  | uncorrectable
  | poisoned
  deriving DecidableEq, Repr, Inhabited

/-- FREE VALUE (assumption 4). The 32-bit word that the host die answers to the package's n-th read of host
memory, at this host-memory address, or its error (R364). -/
opaque hostRead : (n address : Nat) → Except HostError Word

/-- FREE VALUE (assumption 4). The byte that another package answers to this package's n-th fabric read at this
fabric address; an error status when the read completes with an error (R341, R352). -/
opaque remoteRead : (n address : Nat) → Except Nat Byte

/-- FREE VALUE (assumption 5). Stands for the correctly rounded result of a reference function of R96 where the
model's bounded search has not separated two neighbouring values; `which` names the function. -/
opaque undecidedRounding : (which : Nat) → Word → Word

/-- FREE VALUE (assumption 6). What an undefined byte of package memory holds, for the n-th such value: block SRAM and operand buffers
outside the named live ranges after a resume (R78), an operand buffer that a pass has filled (R21, R32), a capture ring (R435). -/
opaque undefinedByte : (n : Nat) → Byte

/-- FREE VALUE (assumption 7). A random number of the package: nonces and keys of a handshake (R394). -/
opaque random : (n : Nat) → Byte

/-- Implementation constant (R504). The 256-bit identity seed that the silicon gives. -/
opaque identitySeed : Bytes

/-- Published standards, uninterpreted (R504; assumption 8): the public key of an Ed25519 private seed, and that of the key pair that ML-DSA-65
generates from a seed. -/
opaque ed25519Public : Bytes → Bytes
opaque mldsaPublic : Bytes → Bytes

/-- Implementation constant (R505). The identity certificate in the helper data area. -/
opaque identityCertificate : Bytes

/-- FREE VALUES (assumption 8). The Ed25519 and the ML-DSA-65 signature of a message under a private seed (R394, R516); the two algorithms
are published standards and stay uninterpreted. -/
opaque signEd25519 : (seed message : Bytes) → Bytes
opaque signMldsa : (seed message : Bytes) → Bytes

/-- Published standards, uninterpreted (R394, R395; assumption 8): the X25519 public key of a private one, the X25519 secret of a private key
and the other end's public key, and ML-KEM-768 encapsulation for a key with given random bytes: ciphertext and secret. -/
opaque x25519Public : Bytes → Bytes
opaque x25519 : (own peer : Bytes) → Bytes
opaque kemEncapsulate : (key random : Bytes) → Bytes × Bytes

/-- A published standard, uninterpreted (R392; assumption 8): AES-256-GCM, the ciphertext followed by the 16-byte tag. -/
opaque aesGcm : (key nonce additional plain : Bytes) → Bytes

/-- Implementation constant (R412). Serial number marked on the lid (0x1004). -/
opaque serialNumber : Nat

/-- Whether the load that a neighbour runs from this package has ended, by the time since its last read (R278, R286): the package sees
only the reads, and the spec says no more of the end (assumption 19). -/
opaque neighbourLoadEnds : (package version sinceNs : Nat) → Bool

/-- Whether a neighbour's load from this package is a full-rate one (R276, assumption 19). -/
opaque neighbourLoadFull : (package version : Nat) → Bool

/-- Implementation constant (R412). MAC address of a management port, 6 bytes derived from the serial number. -/
opaque macAddress : (port : Nat) → Bytes

/-- Implementation constant (R412). Silicon stepping (0x1005), ASCII. -/
opaque siliconStep : Bytes

/-- Implementation constant (R410): the dictionary protocol level of the firmware release. -/
opaque protocolLevel : Nat

/-- Implementation constant (R314, 0x5417): the fabric protocol level of the firmware release. -/
opaque fabricLevel : Nat

end Sys2Proof.Config
end

