-- ==== Sys2Proof/Machine/Fp.lean ====
section
/-! DEFINITION. Chapter 4: the values of the element formats, their rounding, and the binary32 operations and
reference functions of the pipeline. Values are exact; every rounding happens in one place. -/

namespace Sys2Proof.Machine

/-- An exact value: NaN, an infinity, or ± m × 2^e. -/
inductive Num where
  | nan
  | inf (neg : Bool)
  | fin (neg : Bool) (m : Nat) (e : Int)
  deriving DecidableEq, Repr

/-- A binary format without scales (R81, R89, R90): precision, exponent of the lowest subnormal bit, largest finite
magnitude code, what a finite overflow and an infinity become, whether the format holds infinities, the canonical NaN,
and the place of the sign. -/
structure Fmt where
  p : Nat
  qmin : Int
  maxCode : Nat
  overflow : Nat
  infCode : Nat
  hasInf : Bool
  nanCode : Nat
  signBit : Nat
  deriving DecidableEq, Repr

/-- binary32, BF16, binary16, E4M3, E5M2 and K4 (R81, R82, R90). -/
def f32 : Fmt := ⟨24, -149, 0x7F7FFFFF, 0x7F800000, 0x7F800000, true, 0x7FC00000, 31⟩
def bf16 : Fmt := ⟨8, -133, 0x7F7F, 0x7F80, 0x7F80, true, 0x7FC0, 15⟩
def f16 : Fmt := ⟨11, -24, 0x7BFF, 0x7C00, 0x7C00, true, 0x7E00, 15⟩
def e4m3 : Fmt := ⟨4, -9, 0x7E, 0x7E, 0x7E, false, 0x7F, 7⟩
def e5m2 : Fmt := ⟨3, -16, 0x7B, 0x7B, 0x7C, true, 0x7E, 7⟩
def k4 : Fmt := ⟨2, -1, 7, 7, 7, false, 7, 3⟩

/-- The exact value of a code (R81 to R83). -/
def Fmt.dec (f : Fmt) (code : Nat) : Num :=
  let mag := code % 2 ^ f.signBit
  let neg := code.testBit f.signBit
  if f.maxCode < mag then (if f.hasInf && mag == f.infCode then .inf neg else .nan)
  else
    let half := 2 ^ (f.p - 1)
    let x := mag / half
    if x = 0 then .fin neg mag f.qmin else .fin neg (half + mag % half) (f.qmin + x - 1)

/-- Code of the magnitude num / den × 2^e, before overflow: to nearest, ties to even (R89), or upwards (R93). -/
def roundMag (p : Nat) (qmin : Int) (num den : Nat) (e : Int) (up : Bool) : Nat :=
  if num = 0 then 0
  else
    let l0 : Int := (num.log2 : Int) - (den.log2 : Int)
    let reached := if 0 ≤ l0 then decide (den * 2 ^ l0.toNat ≤ num) else decide (den ≤ num * 2 ^ (-l0).toNat)
    let top := e + (if reached then l0 else l0 - 1)
    let q := max (top - ((p : Int) - 1)) qmin
    let s := q - e
    let n := if s < 0 then num * 2 ^ (-s).toNat else num
    let d := if 0 < s then den * 2 ^ s.toNat else den
    let m := n / d
    let r := n % d
    let up1 := if up then decide (0 < r) else decide (d < 2 * r) || (2 * r == d && m % 2 == 1)
    (q - qmin).toNat * 2 ^ (p - 1) + (if up1 then m + 1 else m)

/-- Sign of a value. -/
def Num.neg : Num → Bool
  | .nan => false
  | .inf n => n
  | .fin n _ _ => n

/-- Rounds num / den × 2^e with a sign into a format (R89, R90). -/
def Fmt.encRat (f : Fmt) (neg : Bool) (num den : Nat) (e : Int) : Nat :=
  let c := roundMag f.p f.qmin num den e false
  (if neg then 2 ^ f.signBit else 0) + (if f.maxCode < c then f.overflow else c)

/-- Rounds an exact value into a format (R89, R90). -/
def Fmt.enc (f : Fmt) : Num → Nat
  | .nan => f.nanCode
  | .inf n => (if n then 2 ^ f.signBit else 0) + f.infCode
  | .fin n m e => f.encRat n m 1 e

/-- A binary32 word's value. -/
def val (w : Word) : Num := f32.dec w.toNat

/-- Rounding to binary32 (R89). -/
def rnd (x : Num) : Word := BitVec.ofNat 32 (f32.enc x)

/-- The canonical binary32 NaN (R89), ±0, 1 and ±infinity. -/
def nan32 : Word := 0x7FC00000#32
def zero32 : Word := 0#32
def one32 : Word := 0x3F800000#32
def inf32 (neg : Bool) : Word := if neg then 0xFF800000#32 else 0x7F800000#32

/-- Sum of two exact values; a zero sum is −0 only when both are (IEEE 754). -/
def Num.add : Num → Num → Num
  | .nan, _ => .nan
  | _, .nan => .nan
  | .inf a, .inf b => if a = b then .inf a else .nan
  | .inf a, _ => .inf a
  | _, .inf b => .inf b
  | .fin a m e, .fin b k g =>
    let q := min e g
    let x : Int := (if a then -1 else 1) * ((m * 2 ^ (e - q).toNat : Nat) : Int)
    let y : Int := (if b then -1 else 1) * ((k * 2 ^ (g - q).toNat : Nat) : Int)
    if x + y = 0 then .fin (a && b) 0 q else .fin (decide (x + y < 0)) (x + y).natAbs q

/-- Product of two exact values. -/
def Num.mul : Num → Num → Num
  | .nan, _ => .nan
  | _, .nan => .nan
  | .inf a, .inf b => .inf (a != b)
  | .inf a, .fin b k _ => if k = 0 then .nan else .inf (a != b)
  | .fin a m _, .inf b => if m = 0 then .nan else .inf (a != b)
  | .fin a m e, .fin b k g => .fin (a != b) (m * k) (e + g)

/-- Negation. -/
def Num.opp : Num → Num
  | .nan => .nan
  | .inf n => .inf (!n)
  | .fin n m e => .fin (!n) m e

/-- binary32 addition, subtraction and multiplication, each rounded once (R89, R96). -/
def fadd (a b : Word) : Word := rnd ((val a).add (val b))
def fsub (a b : Word) : Word := rnd ((val a).add (val b).opp)
def fmul (a b : Word) : Word := rnd ((val a).mul (val b))

/-- Whether a word is a NaN, and whether it is neither NaN nor infinite. -/
def isNaN (w : Word) : Bool := decide (0x7F800000 < w.toNat % 2 ^ 31)
def isFinite (w : Word) : Bool := decide (w.toNat % 2 ^ 31 < 0x7F800000)

/-- Order of the words that are not NaN, +0 above −0 (R96). -/
def fkey (w : Word) : Int := if w.msb then -((w.toNat % 2 ^ 31 : Nat) : Int) - 1 else ((w.toNat : Nat) : Int)

/-- Maximum and minimum of R96: NaN when an operand is NaN, +0 above −0. -/
def fmax (a b : Word) : Word := if isNaN a || isNaN b then nan32 else if fkey a < fkey b then b else a
def fmin (a b : Word) : Word := if isNaN a || isNaN b then nan32 else if fkey b < fkey a then b else a

/-- Numerical comparison a < b of words that are not NaN; zeros are equal. -/
def flt (a b : Word) : Bool :=
  match val a, val b with
  | .nan, _ => false
  | _, .nan => false
  | x, y => match x.add y.opp with
    | .nan => false
    | .inf n => n
    | .fin n m _ => n && m != 0

/-- Bits of an integer square root, highest first. -/
def isqrtFrom : (bits : Nat) → (n r : Nat) → Nat
  | 0, _, r => r
  | k + 1, n, r => isqrtFrom k n (if (r + 2 ^ k) * (r + 2 ^ k) ≤ n then r + 2 ^ k else r)

/-- Integer square root. -/
def isqrt (n : Nat) : Nat := isqrtFrom (n.log2 / 2 + 1) n 0

/-- RECIP (R96): the binary32 value nearest 1 / x. -/
def frecip (w : Word) : Word :=
  match val w with
  | .nan => nan32
  | .inf n => if n then 0x80000000#32 else zero32
  | .fin n m e => if m = 0 then inf32 n else BitVec.ofNat 32 (f32.encRat n 1 m (-e))

/-- RSQRT (R96): the binary32 value nearest 1 / √x. The root is taken to more than 64 bits, with a sticky bit below. -/
def frsqrt (w : Word) : Word :=
  match val w with
  | .nan => nan32
  | .inf n => if n then nan32 else zero32
  | .fin n m e =>
    if m = 0 then inf32 n
    else if n then nan32
    else
      let m' := if e % 2 = 0 then m else 2 * m
      let e' := if e % 2 = 0 then e else e - 1
      let k : Nat := 96
      let t := isqrt (2 ^ (2 * k) / m')
      let sticky := if t * t * m' = 2 ^ (2 * k) then 0 else 1
      BitVec.ofNat 32 (f32.encRat false (2 * t + sticky) 1 (-(e' / 2) - (k : Int) - 1))

/-- Fraction bits of the fixed-point values below. -/
def fixBits : Nat := 640

/-- Sum of the terms t, t·r/1, t·r²/(1·2), … in fixed point, `fuel` of them from index `k`. -/
def expSeries : (fuel k : Nat) → (term r : Nat) → Nat
  | 0, _, _, _ => 0
  | fuel + 1, k, term, r => term + expSeries fuel (k + 1) (term * r / 2 ^ fixBits / (k + 1)) r

/-- Repeated squaring in fixed point. -/
def squareFix : Nat → Nat → Nat
  | 0, x => x
  | n + 1, x => squareFix n (x * x / 2 ^ fixBits)

/-- e^(num × 2^e) in fixed point for a value from 0 to below 256, with relative error below 2^(64 − fixBits): the
argument is divided by 2^32, summed as a series, and squared 32 times. -/
def expFix (num : Nat) (e : Int) : Nat :=
  let s := e + fixBits - 32
  let r := if s < 0 then num / 2 ^ (-s).toNat else num * 2 ^ s.toNat
  squareFix 32 (expSeries 40 0 (2 ^ fixBits) r)

/-- Relative slack taken for a fixed-point value: 2^−512 of it, far above its error. -/
def slack (a : Nat) : Nat := a / 2 ^ 512 + 2

/-- The word both ends of an interval round to; where they differ, the value stays free (assumption 5). -/
def decideRounding (which : Nat) (x lo hi : Word) : Word := if lo = hi then lo else Config.undecidedRounding which x

/-- Rounds sign × num × 2^e × (a / 2^fixBits ± slack). -/
def roundApprox (which : Nat) (x : Word) (neg : Bool) (num : Nat) (e : Int) (a : Nat) : Word :=
  let f := fun b => BitVec.ofNat 32 (f32.encRat neg (num * b) 1 (e - fixBits))
  decideRounding which x (f (a - slack a)) (f (a + slack a))

/-- Whether m × 2^e reaches 2^n. -/
def reaches (m : Nat) (e : Int) (n : Nat) : Bool := decide ((n : Int) ≤ (m.log2 : Int) + e)

/-- EXP (R96). From 128 on the value is above the binary32 range, below −128 it is under half its smallest value. -/
def fexp (w : Word) : Word :=
  match val w with
  | .nan => nan32
  | .inf n => if n then zero32 else inf32 false
  | .fin n m e =>
    if m = 0 then one32
    else if reaches m e 7 then (if n then zero32 else inf32 false)
    else
      let a := expFix m e
      roundApprox 0 w false 1 0 (if n then 2 ^ (2 * fixBits) / a else a)

/-- SILU (R96): x / (1 + e^−x). Beyond ±128 the factor differs from 1 or 0 by less than any rounding sees. -/
def fsilu (w : Word) : Word :=
  match val w with
  | .nan => nan32
  | .inf n => if n then 0x80000000#32 else inf32 false
  | .fin n m e =>
    if m = 0 then w
    else if reaches m e 7 then (if n then 0x80000000#32 else w)
    else
      let a := expFix m e
      let one := 2 ^ fixBits
      roundApprox 1 w n m e (if n then one * one / (one + a) else one * a / (one + a))

/-- 1 / (1 + e^−x) (R144). Beyond ±128 it differs from 1 or 0 by less than any rounding sees. -/
def fsigmoid (w : Word) : Word :=
  match val w with
  | .nan => nan32
  | .inf n => if n then zero32 else one32
  | .fin n m e =>
    if m = 0 then 0x3F000000#32
    else if reaches m e 7 then (if n then zero32 else one32)
    else
      let a := expFix m e
      let one := 2 ^ fixBits
      roundApprox 3 w false 1 0 (if n then one * one / (one + a) else one * a / (one + a))

/-- arctan (1 / n) in fixed point: `fuel` terms of its series. -/
def atanInv : (fuel k : Nat) → (term n : Nat) → Int
  | 0, _, _, _ => 0
  | fuel + 1, k, term, n =>
    (if k % 2 = 0 then 1 else -1) * ((term / (2 * k + 1) : Nat) : Int) + atanInv fuel (k + 1) (term / (n * n)) n

/-- π in fixed point: 16 arctan (1/5) − 4 arctan (1/239). -/
def piFix : Nat := (16 * atanInv 160 0 (2 ^ fixBits / 5) 5 - 4 * atanInv 60 0 (2 ^ fixBits / 239) 239).toNat

/-- Sum of x, x³/3, x⁵/(3·5), … in fixed point, `fuel` terms from index `k`; `sq` is x². -/
def phiSeries : (fuel k : Nat) → (term sq : Nat) → Nat
  | 0, _, _, _ => 0
  | fuel + 1, k, term, sq => term + phiSeries fuel (k + 1) (term * sq / 2 ^ fixBits / (2 * k + 3)) sq

/-- GELU (R96): x / 2 × (1 + erf (x / √2)) = x × Φ(x), with Φ(|x|) − 1/2 = e^(−x²/2) / √(2π) × Σ |x|^(2k+1) / (1·3·…). -/
def fgelu (w : Word) : Word :=
  match val w with
  | .nan => nan32
  | .inf n => if n then 0x80000000#32 else inf32 false
  | .fin n m e =>
    if m = 0 then w
    else if reaches m e 4 then (if n then 0x80000000#32 else w)
    else
      let s := e + fixBits
      let x := if s < 0 then m / 2 ^ (-s).toNat else m * 2 ^ s.toNat
      let series := phiSeries 1200 0 x (x * x / 2 ^ fixBits)
      let a := expFix (m * m) (2 * e - 1)
      let root := isqrt (2 * piFix * 2 ^ fixBits)
      let half := 2 ^ (fixBits - 1)
      let d := series * 2 ^ fixBits / a * 2 ^ fixBits / root
      let y := if n then half - d else half + d
      let f := fun b => BitVec.ofNat 32 (f32.encRat n (m * b) 1 (e - fixBits))
      decideRounding 2 w (f (y - 2 ^ 160)) (f (y + 2 ^ 160))

/-- RELU and CLAMP (R63, R96). -/
def frelu (w : Word) : Word := fmax w zero32
def fclamp (w lo hi : Word) : Word := fmin (fmax w lo) hi

/-- The binary32 value of a binary16 immediate (R63). -/
def immWord (h : Nat) : Word := rnd (f16.dec h)

/-- The binary32 value nearest an integer. -/
def fofInt (i : Int) : Word := rnd (.fin (decide (i < 0)) i.natAbs 0)

/-- Magnitude code of a word. -/
def mag (w : Word) : Nat := w.toNat % 2 ^ 31

/-- Magnitude of a finite word as m × 2^e. -/
def magOf (w : Word) : Nat × Int :=
  match val w with
  | .fin _ m e => (m, e)
  | _ => (0, 0)

/-- Pairs of neighbours added, each sum rounded (R29). -/
def addPairs : List Word → List Word
  | a :: b :: t => fadd a b :: addPairs t
  | l => l

/-- Levels of adjacent additions. -/
def addLevels : Nat → List Word → List Word
  | 0, l => l
  | n + 1, l => addLevels n (addPairs l)

/-- Sum of a chunk of up to 256 values, the missing ones +0, over eight levels (R29). -/
def chunkSum (l : List Word) : Word := (addLevels 8 (l ++ List.replicate (256 - l.length) zero32)).headD zero32

/-- Chunks of 256 values of a row. -/
def chunks256 : (fuel : Nat) → List Word → List (List Word)
  | 0, _ => []
  | fuel + 1, l => if l.isEmpty then [] else l.take 256 :: chunks256 fuel (l.drop 256)

/-- Adds the rest to the first in order, each sum rounded; nothing to add is +0. -/
def addUp : List Word → Word
  | [] => zero32
  | a :: t => t.foldl fadd a

/-- The sum of a row (R29): chunk sums added in ascending chunk order. -/
def rowSum (l : List Word) : Word := addUp ((chunks256 (l.length / 256 + 1) l).map chunkSum)

/-- The maximum of a row (R29, R96). -/
def rowMax : List Word → Word
  | [] => inf32 true
  | a :: t => t.foldl fmax a

/-- Softmax of a row with its maximum and sum (R97, R126). -/
def softmaxRow (x : List Word) : List Word × Word × Word :=
  let m := rowMax x
  if x.any (fun w => isNaN w || w == inf32 false) then (x.map (fun _ => nan32), m, nan32)
  else if m = inf32 true then (x.map (fun _ => zero32), m, zero32)
  else
    let t := x.map (fun w => fexp (fsub w m))
    let s := rowSum t
    let r := frecip s
    (t.map (fun w => fmul w r), m, s)

/-- 1 / l rounded (R97). -/
def invLen (l : Nat) : Word := frecip (fofInt l)

/-- RMS normalisation (R97). -/
def rmsRow (x gain : List Word) (eps : Word) : List Word :=
  let ms := fmul (rowSum (x.map (fun w => fmul w w))) (invLen x.length)
  let v := frsqrt (fadd ms eps)
  (x.zip gain).map (fun e => fmul (fmul e.1 v) e.2)

/-- Layer normalisation (R97). -/
def layerRow (x gain bias : List Word) (eps : Word) : List Word :=
  let inv := invLen x.length
  let mu := fmul (rowSum x) inv
  let d := x.map (fun w => fsub w mu)
  let v := frsqrt (fadd (fmul (rowSum (d.map (fun w => fmul w w))) inv) eps)
  (d.zip (gain.zip bias)).map (fun e => fadd (fmul (fmul e.1 v) e.2.1) e.2.2)

/-- One epilogue operation of R63 on one value; `c` is the value of the epilogue operand. -/
def epilogueOp (op : Nat) (x c imm0 imm1 : Word) : Word :=
  match op with
  | 1 | 2 => fadd x c
  | 3 | 4 => fmul x c
  | 5 => fadd x imm0
  | 6 => fmul x imm0
  | 7 => fclamp x imm0 imm1
  | 8 => fsilu x
  | 9 => fgelu x
  | 10 => fexp x
  | 11 => frecip x
  | 12 => frsqrt x
  | 13 => frelu x
  | _ => x

/-- Sign of element j under a seed: true for −1 (R98). -/
def rotSign (seed j : Nat) : Bool :=
  let x := (seed * 0x2C1B3C6D + j * 0x297A2D39) % 2 ^ 32
  let x := x ^^^ (x / 2 ^ 15)
  let x := (x * 0x5B4F1E27) % 2 ^ 32
  let x := x ^^^ (x / 2 ^ 13)
  x / 2 ^ 31 == 1

/-- One butterfly level of distance `d` on a chunk (R99). -/
def butterfly (d : Nat) (x : List Word) : List Word :=
  let a := x.toArray
  (List.range x.length).map (fun i =>
    if i / d % 2 = 0 then fadd (a.getD i zero32) (a.getD (i + d) zero32)
    else fsub (a.getD (i - d) zero32) (a.getD i zero32))

/-- The rotation of a line with chunks of n elements (R98, R99). -/
def rotateLine (n seed : Nat) (x : List Word) : List Word :=
  if n = 0 then x
  else
    let signed := x.zipIdx.map (fun e => if rotSign seed e.2 then e.1 ^^^ 0x80000000#32 else e.1)
    let c := frsqrt (fofInt n)
    (List.range (x.length / n)).flatMap (fun k =>
      ((List.range n.log2).foldl (fun l s => butterfly (2 ^ s) l) ((signed.drop (k * n)).take n)).map (fun y => fmul y c))

end Sys2Proof.Machine
end

