-- ==== Sys2Proof/Machine/Entries.lean ====
section
/-! DEFINITION. The object dictionary's entries (R380 to R389): one constant for each row of the spec's entry tables,
with its index, subindex range, type, access right, apply class, default and stated range. -/

namespace Sys2Proof.Machine

/-- Types of R381. -/
inductive EType where
  | u8 | u16 | u32 | u64 | i32 | f32 | string | blob | domain
  deriving DecidableEq, Repr

/-- Access rights of R382. -/
inductive Access where
  | ro | wo | rw
  deriving DecidableEq, Repr

/-- Apply classes of R383. -/
inductive Apply where
  | none | i | b | s | k
  deriving DecidableEq, Repr

/-- What a subindex selects (R389). -/
inductive UnitKind where
  | package | partition | region | block | cell | channel | link | lane | dimension | module | source | port
  deriving DecidableEq, Repr

/-- One entry of the dictionary: `span` consecutive indexes from `index`, `subs` subindexes each (R380, R389);
`lo`, `hi`, `step`, `pow2` the stated range of a scalar; `kept` as in R387. -/
structure Entry where
  index : Nat
  span : Nat := 1
  subs : Nat := 1
  unit : UnitKind := .package
  name : String
  type : EType
  access : Access
  apply : Apply := .none
  dflt : Nat := 0
  lo : Nat := 0
  hi : Nat := 18446744073709551615
  step : Nat := 1
  pow2 : Bool := false
  kept : Bool := false
  deriving DecidableEq, Repr

/-- 0x1000:00 `mp_device_type` (R412). -/
def Ix.mpDeviceType : Entry := { index := 0x1000, unit := .package, name := "mp_device_type", type := .u32, access := .ro, dflt := 37910 }
/-- 0x1001:00 `mp_vendor_name` (R412). -/
def Ix.mpVendorName : Entry := { index := 0x1001, unit := .package, name := "mp_vendor_name", type := .string, access := .ro }
/-- 0x1002:00 `mp_product_name` (R412). -/
def Ix.mpProductName : Entry := { index := 0x1002, unit := .package, name := "mp_product_name", type := .string, access := .ro }
/-- 0x1003:00 `mp_part_number` (R412). -/
def Ix.mpPartNumber : Entry := { index := 0x1003, unit := .package, name := "mp_part_number", type := .string, access := .ro }
/-- 0x1004:00 `mp_serial_number` (R412). -/
def Ix.mpSerialNumber : Entry := { index := 0x1004, unit := .package, name := "mp_serial_number", type := .u64, access := .ro }
/-- 0x1005:00 `mp_silicon_step` (R412). -/
def Ix.mpSiliconStep : Entry := { index := 0x1005, unit := .package, name := "mp_silicon_step", type := .string, access := .ro }
/-- 0x1006:00 `mp_firmware_release` (R412). -/
def Ix.mpFirmwareRelease : Entry := { index := 0x1006, unit := .package, name := "mp_firmware_release", type := .u32, access := .ro }
/-- 0x1007:00 `mp_protocol_level` (R412). -/
def Ix.mpProtocolLevel : Entry := { index := 0x1007, unit := .package, name := "mp_protocol_level", type := .u16, access := .ro }
/-- 0x1008:00 `mp_start_count` (R412). -/
def Ix.mpStartCount : Entry := { index := 0x1008, unit := .package, name := "mp_start_count", type := .u32, access := .ro }
/-- 0x1010:pt `mp_port_state` (R412). -/
def Ix.mpPortState : Entry := { index := 0x1010, subs := 2, unit := .port, name := "mp_port_state", type := .u8, access := .ro }
/-- 0x1011:pt `mp_port_fec` (R412). -/
def Ix.mpPortFec : Entry := { index := 0x1011, subs := 2, unit := .port, name := "mp_port_fec", type := .u8, access := .ro }
/-- 0x1012:pt `mp_mac_address` (R412). -/
def Ix.mpMacAddress : Entry := { index := 0x1012, subs := 2, unit := .port, name := "mp_mac_address", type := .blob, access := .ro }
/-- 0x1013:pt `mp_ipv6_address` (R412). -/
def Ix.mpIpv6Address : Entry := { index := 0x1013, subs := 2, unit := .port, name := "mp_ipv6_address", type := .blob, access := .rw, apply := .k, kept := true }
/-- 0x1014:pt `mp_vlan` (R412). -/
def Ix.mpVlan : Entry := { index := 0x1014, subs := 2, unit := .port, name := "mp_vlan", type := .u16, access := .rw, apply := .k, kept := true }
/-- 0x1015:00 `mp_multicast_groups` (R412). -/
def Ix.mpMulticastGroups : Entry := { index := 0x1015, unit := .package, name := "mp_multicast_groups", type := .blob, access := .rw, apply := .k, kept := true }
/-- 0x1016:00 `mp_rack_destination` (R412). -/
def Ix.mpRackDestination : Entry := { index := 0x1016, unit := .package, name := "mp_rack_destination", type := .blob, access := .rw, apply := .k, kept := true }
/-- 0x1017:00 `mp_telemetry_destination` (R412). -/
def Ix.mpTelemetryDestination : Entry := { index := 0x1017, unit := .package, name := "mp_telemetry_destination", type := .blob, access := .rw, apply := .i, kept := true }
/-- 0x1018:00 `mp_telemetry_period_ms` (R412). -/
def Ix.mpTelemetryPeriodMs : Entry := { index := 0x1018, unit := .package, name := "mp_telemetry_period_ms", type := .u32, access := .rw, apply := .i, dflt := 1000, lo := 10, hi := 60000 }
/-- 0x1019:00 `mp_telemetry_list` (R412). -/
def Ix.mpTelemetryList : Entry := { index := 0x1019, unit := .package, name := "mp_telemetry_list", type := .blob, access := .rw, apply := .i, kept := true }
/-- 0x101A:pt `mp_rx_datagrams` (R412). -/
def Ix.mpRxDatagrams : Entry := { index := 0x101A, subs := 2, unit := .port, name := "mp_rx_datagrams", type := .u64, access := .ro }
/-- 0x101B:pt `mp_rx_dropped` (R412). -/
def Ix.mpRxDropped : Entry := { index := 0x101B, subs := 2, unit := .port, name := "mp_rx_dropped", type := .u64, access := .ro }
/-- 0x101C:pt `mp_tx_datagrams` (R412). -/
def Ix.mpTxDatagrams : Entry := { index := 0x101C, subs := 2, unit := .port, name := "mp_tx_datagrams", type := .u64, access := .ro }
/-- 0x1020:00 `mp_session_limit` (R412). -/
def Ix.mpSessionLimit : Entry := { index := 0x1020, unit := .package, name := "mp_session_limit", type := .u8, access := .rw, apply := .i, dflt := 32, lo := 1, hi := 32 }
/-- 0x1021:00 `mp_session_idle_s` (R412). -/
def Ix.mpSessionIdleS : Entry := { index := 0x1021, unit := .package, name := "mp_session_idle_s", type := .u16, access := .rw, apply := .i, dflt := 60, lo := 10, hi := 3600 }
/-- 0x1022:00 `mp_sessions` (R412). -/
def Ix.mpSessions : Entry := { index := 0x1022, unit := .package, name := "mp_sessions", type := .blob, access := .ro }
/-- 0x1023:00 `mp_session_close` (R412). -/
def Ix.mpSessionClose : Entry := { index := 0x1023, unit := .package, name := "mp_session_close", type := .u32, access := .wo, apply := .k }
/-- 0x1024:00 `mp_credentials` (R412). -/
def Ix.mpCredentials : Entry := { index := 0x1024, unit := .package, name := "mp_credentials", type := .blob, access := .rw, apply := .k, kept := true }
/-- 0x1025:00 `mp_requests_served` (R412). -/
def Ix.mpRequestsServed : Entry := { index := 0x1025, unit := .package, name := "mp_requests_served", type := .u64, access := .ro }
/-- 0x1026:00 `mp_auth_failures` (R412). -/
def Ix.mpAuthFailures : Entry := { index := 0x1026, unit := .package, name := "mp_auth_failures", type := .u32, access := .ro }
/-- 0x1027:00 `mp_aborts_sent` (R412). -/
def Ix.mpAbortsSent : Entry := { index := 0x1027, unit := .package, name := "mp_aborts_sent", type := .u64, access := .ro }
/-- 0x1028:00 `mp_rack_dropped` (R412). -/
def Ix.mpRackDropped : Entry := { index := 0x1028, unit := .package, name := "mp_rack_dropped", type := .blob, access := .ro }
/-- 0x1029:00 `mp_last_status` (R412). -/
def Ix.mpLastStatus : Entry := { index := 0x1029, unit := .package, name := "mp_last_status", type := .u16, access := .ro }
/-- 0x1030:00 `mp_counters_clear` (R412). -/
def Ix.mpCountersClear : Entry := { index := 0x1030, unit := .package, name := "mp_counters_clear", type := .u8, access := .wo, apply := .i, lo := 1, hi := 1 }
/-- The entries of spec/16_object_dictionary.md. -/
def mpEntries : List Entry :=
  [Ix.mpDeviceType, Ix.mpVendorName, Ix.mpProductName, Ix.mpPartNumber, Ix.mpSerialNumber,
   Ix.mpSiliconStep, Ix.mpFirmwareRelease, Ix.mpProtocolLevel, Ix.mpStartCount, Ix.mpPortState,
   Ix.mpPortFec, Ix.mpMacAddress, Ix.mpIpv6Address, Ix.mpVlan, Ix.mpMulticastGroups,
   Ix.mpRackDestination, Ix.mpTelemetryDestination, Ix.mpTelemetryPeriodMs, Ix.mpTelemetryList, Ix.mpRxDatagrams,
   Ix.mpRxDropped, Ix.mpTxDatagrams, Ix.mpSessionLimit, Ix.mpSessionIdleS, Ix.mpSessions,
   Ix.mpSessionClose, Ix.mpCredentials, Ix.mpRequestsServed, Ix.mpAuthFailures, Ix.mpAbortsSent,
   Ix.mpRackDropped, Ix.mpLastStatus, Ix.mpCountersClear]

/-- 0x2000:rr `region_state` (R50). -/
def Ix.regionState : Entry := { index := 0x2000, subs := 12, unit := .region, name := "region_state", type := .u8, access := .ro }
/-- 0x2001:rr `region_last_status` (R50). -/
def Ix.regionLastStatus : Entry := { index := 0x2001, subs := 12, unit := .region, name := "region_last_status", type := .u16, access := .ro }
/-- 0x2002:rr `region_foreign_weight` (R50). -/
def Ix.regionForeignWeight : Entry := { index := 0x2002, subs := 12, unit := .region, name := "region_foreign_weight", type := .u8, access := .rw, apply := .i, dflt := 2, lo := 1, hi := 8 }
/-- 0x2003:rr `region_logical_block_map` (R50). -/
def Ix.regionLogicalBlockMap : Entry := { index := 0x2003, subs := 12, unit := .region, name := "region_logical_block_map", type := .u32, access := .ro, dflt := 1985229328 }
/-- 0x2004:rr `region_handshake_timeout_ns` (R50). -/
def Ix.regionHandshakeTimeoutNs : Entry := { index := 0x2004, subs := 12, unit := .region, name := "region_handshake_timeout_ns", type := .u32, access := .rw, apply := .s, dflt := 2000, lo := 500, hi := 10000 }
/-- 0x2010:bb `block_state` (R50). -/
def Ix.blockState : Entry := { index := 0x2010, subs := 96, unit := .block, name := "block_state", type := .u8, access := .ro }
/-- 0x2011:bb `block_hidden_cells` (R50). -/
def Ix.blockHiddenCells : Entry := { index := 0x2011, subs := 96, unit := .block, name := "block_hidden_cells", type := .u8, access := .ro }
/-- 0x2012:bb `block_pass_pointer` (R50). -/
def Ix.blockPassPointer : Entry := { index := 0x2012, subs := 96, unit := .block, name := "block_pass_pointer", type := .u64, access := .ro }
/-- 0x2013:bb `block_last_status` (R50). -/
def Ix.blockLastStatus : Entry := { index := 0x2013, subs := 96, unit := .block, name := "block_last_status", type := .u16, access := .ro }
/-- 0x2014:bb `block_stage_faults` (R50). -/
def Ix.blockStageFaults : Entry := { index := 0x2014, subs := 96, unit := .block, name := "block_stage_faults", type := .u32, access := .ro }
/-- 0x2015:bb `block_tile_reexecutions` (R50). -/
def Ix.blockTileReexecutions : Entry := { index := 0x2015, subs := 96, unit := .block, name := "block_tile_reexecutions", type := .u32, access := .ro }
/-- 0x2016:bb `block_sram_corrected` (R50). -/
def Ix.blockSramCorrected : Entry := { index := 0x2016, subs := 96, unit := .block, name := "block_sram_corrected", type := .u32, access := .ro }
/-- 0x2017:bb `block_busy_aclk` (R50). -/
def Ix.blockBusyAclk : Entry := { index := 0x2017, subs := 96, unit := .block, name := "block_busy_aclk", type := .u64, access := .ro }
/-- 0x2018:bb `block_mac_issued` (R50). -/
def Ix.blockMacIssued : Entry := { index := 0x2018, subs := 96, unit := .block, name := "block_mac_issued", type := .u64, access := .ro }
/-- 0x2019:bb `block_sram_stall_aclk` (R50). -/
def Ix.blockSramStallAclk : Entry := { index := 0x2019, subs := 96, unit := .block, name := "block_sram_stall_aclk", type := .u64, access := .ro }
/-- 0x201A:bb `block_halt_on_stage_fault` (R50). -/
def Ix.blockHaltOnStageFault : Entry := { index := 0x201A, subs := 96, unit := .block, name := "block_halt_on_stage_fault", type := .u8, access := .rw, apply := .k, hi := 1 }
/-- 0x2100+rr:cc `cell_corrected_count` (R50). -/
def Ix.cellCorrectedCount : Entry := { index := 0x2100, span := 12, subs := 64, unit := .cell, name := "cell_corrected_count", type := .u32, access := .ro }
/-- 0x2110+rr:cc `cell_uncorrectable_count` (R50). -/
def Ix.cellUncorrectableCount : Entry := { index := 0x2110, span := 12, subs := 64, unit := .cell, name := "cell_uncorrectable_count", type := .u16, access := .ro }
/-- 0x2120+rr:cc `cell_state` (R50). -/
def Ix.cellState : Entry := { index := 0x2120, span := 12, subs := 64, unit := .cell, name := "cell_state", type := .u8, access := .ro }
/-- 0x2130+rr:cc `cell_hide` (R50). -/
def Ix.cellHide : Entry := { index := 0x2130, span := 12, subs := 64, unit := .cell, name := "cell_hide", type := .u8, access := .rw, apply := .k, hi := 1 }
/-- 0x2200:00 `tp_corrected_alert_count` (R50). -/
def Ix.tpCorrectedAlertCount : Entry := { index := 0x2200, unit := .package, name := "tp_corrected_alert_count", type := .u32, access := .rw, apply := .i, dflt := 1000 }
/-- 0x2201:00 `tp_corrected_alert_window_s` (R50). -/
def Ix.tpCorrectedAlertWindowS : Entry := { index := 0x2201, unit := .package, name := "tp_corrected_alert_window_s", type := .u32, access := .rw, apply := .i, dflt := 3600, lo := 60, hi := 86400 }
/-- 0x2202:00 `tp_runtime_hide_enable` (R50). -/
def Ix.tpRuntimeHideEnable : Entry := { index := 0x2202, unit := .package, name := "tp_runtime_hide_enable", type := .u8, access := .rw, apply := .s, dflt := 1, hi := 1 }
/-- 0x2204:00 `tp_sram_starvation_aclk` (R50). -/
def Ix.tpSramStarvationAclk : Entry := { index := 0x2204, unit := .package, name := "tp_sram_starvation_aclk", type := .u8, access := .rw, apply := .s, dflt := 16, lo := 4, hi := 64 }
/-- 0x2205:00 `tp_counters_clear` (R50). -/
def Ix.tpCountersClear : Entry := { index := 0x2205, unit := .package, name := "tp_counters_clear", type := .u8, access := .wo, apply := .i, lo := 1, hi := 1 }
/-- The entries of spec/02_tensor_pipeline.md. -/
def tpEntries : List Entry :=
  [Ix.regionState, Ix.regionLastStatus, Ix.regionForeignWeight, Ix.regionLogicalBlockMap, Ix.regionHandshakeTimeoutNs,
   Ix.blockState, Ix.blockHiddenCells, Ix.blockPassPointer, Ix.blockLastStatus, Ix.blockStageFaults,
   Ix.blockTileReexecutions, Ix.blockSramCorrected, Ix.blockBusyAclk, Ix.blockMacIssued, Ix.blockSramStallAclk,
   Ix.blockHaltOnStageFault, Ix.cellCorrectedCount, Ix.cellUncorrectableCount, Ix.cellState, Ix.cellHide,
   Ix.tpCorrectedAlertCount, Ix.tpCorrectedAlertWindowS, Ix.tpRuntimeHideEnable, Ix.tpSramStarvationAclk, Ix.tpCountersClear]

/-- 0x2400:pp `qr_sat_threshold_ppm` (R110). -/
def Ix.qrSatThresholdPpm : Entry := { index := 0x2400, subs := 12, unit := .partition, name := "qr_sat_threshold_ppm", type := .u32, access := .rw, apply := .b, dflt := 1000 }
/-- 0x2401:pp `qr_ftz_threshold_ppm` (R110). -/
def Ix.qrFtzThresholdPpm : Entry := { index := 0x2401, subs := 12, unit := .partition, name := "qr_ftz_threshold_ppm", type := .u32, access := .rw, apply := .b, dflt := 150000 }
/-- 0x2402:pp `qr_alert_enable` (R110). -/
def Ix.qrAlertEnable : Entry := { index := 0x2402, subs := 12, unit := .partition, name := "qr_alert_enable", type := .u8, access := .rw, apply := .i, dflt := 1, hi := 1 }
/-- 0x2403:pp `qr_alert_head` (R110). -/
def Ix.qrAlertHead : Entry := { index := 0x2403, subs := 12, unit := .partition, name := "qr_alert_head", type := .u32, access := .ro }
/-- 0x2404:pp `qr_alert_log` (R110). -/
def Ix.qrAlertLog : Entry := { index := 0x2404, subs := 12, unit := .partition, name := "qr_alert_log", type := .blob, access := .ro }
/-- 0x2408:pp `qr_recipe_overrides` (R110). -/
def Ix.qrRecipeOverrides : Entry := { index := 0x2408, subs := 12, unit := .partition, name := "qr_recipe_overrides", type := .blob, access := .rw, apply := .b }
/-- 0x2409:pp `qr_recipe_generation` (R110). -/
def Ix.qrRecipeGeneration : Entry := { index := 0x2409, subs := 12, unit := .partition, name := "qr_recipe_generation", type := .u32, access := .ro }
/-- 0x240A:pp `qr_recipe_active_count` (R110). -/
def Ix.qrRecipeActiveCount : Entry := { index := 0x240A, subs := 12, unit := .partition, name := "qr_recipe_active_count", type := .u16, access := .ro }
/-- 0x2410:bb `block_quantised_count` (R110). -/
def Ix.blockQuantisedCount : Entry := { index := 0x2410, subs := 96, unit := .block, name := "block_quantised_count", type := .u64, access := .ro }
/-- 0x2411:bb `block_saturated_count` (R110). -/
def Ix.blockSaturatedCount : Entry := { index := 0x2411, subs := 96, unit := .block, name := "block_saturated_count", type := .u64, access := .ro }
/-- 0x2412:bb `block_flushed_count` (R110). -/
def Ix.blockFlushedCount : Entry := { index := 0x2412, subs := 96, unit := .block, name := "block_flushed_count", type := .u64, access := .ro }
/-- 0x2413:bb `block_alert_count` (R110). -/
def Ix.blockAlertCount : Entry := { index := 0x2413, subs := 96, unit := .block, name := "block_alert_count", type := .u32, access := .ro }
/-- 0x2420:00 `qr_counters_clear` (R110). -/
def Ix.qrCountersClear : Entry := { index := 0x2420, unit := .package, name := "qr_counters_clear", type := .u8, access := .wo, apply := .i, lo := 1, hi := 1 }
/-- The entries of spec/04_narrow_arithmetic.md. -/
def qrEntries : List Entry :=
  [Ix.qrSatThresholdPpm, Ix.qrFtzThresholdPpm, Ix.qrAlertEnable, Ix.qrAlertHead, Ix.qrAlertLog,
   Ix.qrRecipeOverrides, Ix.qrRecipeGeneration, Ix.qrRecipeActiveCount, Ix.blockQuantisedCount, Ix.blockSaturatedCount,
   Ix.blockFlushedCount, Ix.blockAlertCount, Ix.qrCountersClear]

/-- 0x2800:pp `ak_layer_table` (R137). -/
def Ix.akLayerTable : Entry := { index := 0x2800, subs := 12, unit := .partition, name := "ak_layer_table", type := .blob, access := .rw, apply := .b }
/-- 0x2801:pp `ak_page_pool_base` (R137). -/
def Ix.akPagePoolBase : Entry := { index := 0x2801, subs := 12, unit := .partition, name := "ak_page_pool_base", type := .u64, access := .rw, apply := .s, hi := 18446744073709551615, step := 4096 }
/-- 0x2802:pp `ak_page_pool_bytes` (R137). -/
def Ix.akPagePoolBytes : Entry := { index := 0x2802, subs := 12, unit := .partition, name := "ak_page_pool_bytes", type := .u64, access := .rw, apply := .s }
/-- 0x2803:pp `ak_page_slot_bytes` (R137). -/
def Ix.akPageSlotBytes : Entry := { index := 0x2803, subs := 12, unit := .partition, name := "ak_page_slot_bytes", type := .u32, access := .rw, apply := .s, dflt := 36928, lo := 4224, hi := 69696, step := 64 }
/-- 0x2804:pp `ak_pages_free` (R137). -/
def Ix.akPagesFree : Entry := { index := 0x2804, subs := 12, unit := .partition, name := "ak_pages_free", type := .u32, access := .ro }
/-- 0x2805:pp `ak_pages_in_use` (R137). -/
def Ix.akPagesInUse : Entry := { index := 0x2805, subs := 12, unit := .partition, name := "ak_pages_in_use", type := .u32, access := .ro }
/-- 0x2806:pp `ak_decay` (R137). -/
def Ix.akDecay : Entry := { index := 0x2806, subs := 12, unit := .partition, name := "ak_decay", type := .f32, access := .rw, apply := .b, dflt := 1064828928 }
/-- 0x2807:pp `ak_evict_threshold` (R137). -/
def Ix.akEvictThreshold : Entry := { index := 0x2807, subs := 12, unit := .partition, name := "ak_evict_threshold", type := .f32, access := .rw, apply := .b }
/-- 0x2808:pp `ak_page_budget` (R137). -/
def Ix.akPageBudget : Entry := { index := 0x2808, subs := 12, unit := .partition, name := "ak_page_budget", type := .u32, access := .rw, apply := .b, dflt := 4294967295 }
/-- 0x2809:pp `ak_protected_first_pages` (R137). -/
def Ix.akProtectedFirstPages : Entry := { index := 0x2809, subs := 12, unit := .partition, name := "ak_protected_first_pages", type := .u16, access := .rw, apply := .b, dflt := 1 }
/-- 0x280A:pp `ak_protected_recent_pages` (R137). -/
def Ix.akProtectedRecentPages : Entry := { index := 0x280A, subs := 12, unit := .partition, name := "ak_protected_recent_pages", type := .u16, access := .rw, apply := .b, dflt := 4 }
/-- 0x2810:pp `ak_pages_converted` (R137). -/
def Ix.akPagesConverted : Entry := { index := 0x2810, subs := 12, unit := .partition, name := "ak_pages_converted", type := .u64, access := .ro }
/-- 0x2811:pp `ak_pages_evicted` (R137). -/
def Ix.akPagesEvicted : Entry := { index := 0x2811, subs := 12, unit := .partition, name := "ak_pages_evicted", type := .u64, access := .ro }
/-- 0x2812:pp `ak_tentative_dropped` (R137). -/
def Ix.akTentativeDropped : Entry := { index := 0x2812, subs := 12, unit := .partition, name := "ak_tentative_dropped", type := .u64, access := .ro }
/-- 0x2813:pp `ak_rows_deferred` (R137). -/
def Ix.akRowsDeferred : Entry := { index := 0x2813, subs := 12, unit := .partition, name := "ak_rows_deferred", type := .u64, access := .ro }
/-- 0x2814:pp `ak_last_status` (R137). -/
def Ix.akLastStatus : Entry := { index := 0x2814, subs := 12, unit := .partition, name := "ak_last_status", type := .u16, access := .ro }
/-- 0x2815:pp `ak_double_contributions` (R137). -/
def Ix.akDoubleContributions : Entry := { index := 0x2815, subs := 12, unit := .partition, name := "ak_double_contributions", type := .u32, access := .ro }
/-- 0x2820:00 `ak_counters_clear` (R137). -/
def Ix.akCountersClear : Entry := { index := 0x2820, unit := .package, name := "ak_counters_clear", type := .u8, access := .wo, apply := .i, lo := 1, hi := 1 }
/-- The entries of spec/05_attention_kv.md. -/
def akEntries : List Entry :=
  [Ix.akLayerTable, Ix.akPagePoolBase, Ix.akPagePoolBytes, Ix.akPageSlotBytes, Ix.akPagesFree,
   Ix.akPagesInUse, Ix.akDecay, Ix.akEvictThreshold, Ix.akPageBudget, Ix.akProtectedFirstPages,
   Ix.akProtectedRecentPages, Ix.akPagesConverted, Ix.akPagesEvicted, Ix.akTentativeDropped, Ix.akRowsDeferred,
   Ix.akLastStatus, Ix.akDoubleContributions, Ix.akCountersClear]

/-- 0x2C00:pp `er_layer_table` (R161). -/
def Ix.erLayerTable : Entry := { index := 0x2C00, subs := 12, unit := .partition, name := "er_layer_table", type := .blob, access := .rw, apply := .b }
/-- 0x2C01:pp `er_layer_generation` (R161). -/
def Ix.erLayerGeneration : Entry := { index := 0x2C01, subs := 12, unit := .partition, name := "er_layer_generation", type := .u32, access := .ro }
/-- 0x2C02:pp `er_choices_routed` (R161). -/
def Ix.erChoicesRouted : Entry := { index := 0x2C02, subs := 12, unit := .partition, name := "er_choices_routed", type := .u64, access := .ro }
/-- 0x2C03:pp `er_overflowed` (R161). -/
def Ix.erOverflowed : Entry := { index := 0x2C03, subs := 12, unit := .partition, name := "er_overflowed", type := .u64, access := .ro }
/-- 0x2C04:pp `er_redirected` (R161). -/
def Ix.erRedirected : Entry := { index := 0x2C04, subs := 12, unit := .partition, name := "er_redirected", type := .u64, access := .ro }
/-- 0x2C05:pp `er_skipped` (R161). -/
def Ix.erSkipped : Entry := { index := 0x2C05, subs := 12, unit := .partition, name := "er_skipped", type := .u64, access := .ro }
/-- 0x2C06:pp `er_ties` (R161). -/
def Ix.erTies : Entry := { index := 0x2C06, subs := 12, unit := .partition, name := "er_ties", type := .u64, access := .ro }
/-- 0x2C07:pp `er_unscorable` (R161). -/
def Ix.erUnscorable : Entry := { index := 0x2C07, subs := 12, unit := .partition, name := "er_unscorable", type := .u64, access := .ro }
/-- 0x2C08:pp `er_compaction_bytes` (R161). -/
def Ix.erCompactionBytes : Entry := { index := 0x2C08, subs := 12, unit := .partition, name := "er_compaction_bytes", type := .u64, access := .ro }
/-- 0x2C09:pp `er_overflow_event_enable` (R161). -/
def Ix.erOverflowEventEnable : Entry := { index := 0x2C09, subs := 12, unit := .partition, name := "er_overflow_event_enable", type := .u8, access := .rw, apply := .i, hi := 1 }
/-- 0x2C0A:pp `er_last_status` (R161). -/
def Ix.erLastStatus : Entry := { index := 0x2C0A, subs := 12, unit := .partition, name := "er_last_status", type := .u16, access := .ro }
/-- 0x2C10:00 `er_counters_clear` (R161). -/
def Ix.erCountersClear : Entry := { index := 0x2C10, unit := .package, name := "er_counters_clear", type := .u8, access := .wo, apply := .i, lo := 1, hi := 1 }
/-- The entries of spec/06_expert_routing.md. -/
def erEntries : List Entry :=
  [Ix.erLayerTable, Ix.erLayerGeneration, Ix.erChoicesRouted, Ix.erOverflowed, Ix.erRedirected,
   Ix.erSkipped, Ix.erTies, Ix.erUnscorable, Ix.erCompactionBytes, Ix.erOverflowEventEnable,
   Ix.erLastStatus, Ix.erCountersClear]

/-- 0x3000:pp `sv_record_base` (R183). -/
def Ix.svRecordBase : Entry := { index := 0x3000, subs := 12, unit := .partition, name := "sv_record_base", type := .u64, access := .rw, apply := .s, hi := 18446744073709551615, step := 64 }
/-- 0x3001:pp `sv_draft_version` (R183). -/
def Ix.svDraftVersion : Entry := { index := 0x3001, subs := 12, unit := .partition, name := "sv_draft_version", type := .u32, access := .rw, apply := .b, dflt := 4294967295 }
/-- 0x3002:pp `sv_sampler_blocks` (R183). -/
def Ix.svSamplerBlocks : Entry := { index := 0x3002, subs := 12, unit := .partition, name := "sv_sampler_blocks", type := .blob, access := .rw, apply := .b }
/-- 0x3003:pp `sv_max_draft_depth` (R183). -/
def Ix.svMaxDraftDepth : Entry := { index := 0x3003, subs := 12, unit := .partition, name := "sv_max_draft_depth", type := .u8, access := .rw, apply := .b, dflt := 4, lo := 1, hi := 8 }
/-- 0x3010:pp `sv_tokens_sampled` (R183). -/
def Ix.svTokensSampled : Entry := { index := 0x3010, subs := 12, unit := .partition, name := "sv_tokens_sampled", type := .u64, access := .ro }
/-- 0x3011:pp `sv_candidates_verified` (R183). -/
def Ix.svCandidatesVerified : Entry := { index := 0x3011, subs := 12, unit := .partition, name := "sv_candidates_verified", type := .u64, access := .ro }
/-- 0x3012:pp `sv_candidates_accepted` (R183). -/
def Ix.svCandidatesAccepted : Entry := { index := 0x3012, subs := 12, unit := .partition, name := "sv_candidates_accepted", type := .u64, access := .ro }
/-- 0x3013:pp `sv_bonus_tokens` (R183). -/
def Ix.svBonusTokens : Entry := { index := 0x3013, subs := 12, unit := .partition, name := "sv_bonus_tokens", type := .u64, access := .ro }
/-- 0x3014:pp `sv_residual_samples` (R183). -/
def Ix.svResidualSamples : Entry := { index := 0x3014, subs := 12, unit := .partition, name := "sv_residual_samples", type := .u64, access := .ro }
/-- 0x3015:pp `sv_nan_logits` (R183). -/
def Ix.svNanLogits : Entry := { index := 0x3015, subs := 12, unit := .partition, name := "sv_nan_logits", type := .u64, access := .ro }
/-- 0x3016:pp `sv_mask_empty` (R183). -/
def Ix.svMaskEmpty : Entry := { index := 0x3016, subs := 12, unit := .partition, name := "sv_mask_empty", type := .u32, access := .ro }
/-- 0x3017:pp `sv_draft_truncated` (R183). -/
def Ix.svDraftTruncated : Entry := { index := 0x3017, subs := 12, unit := .partition, name := "sv_draft_truncated", type := .u64, access := .ro }
/-- 0x3018:pp `sv_last_status` (R183). -/
def Ix.svLastStatus : Entry := { index := 0x3018, subs := 12, unit := .partition, name := "sv_last_status", type := .u16, access := .ro }
/-- 0x3020:00 `sv_counters_clear` (R183). -/
def Ix.svCountersClear : Entry := { index := 0x3020, unit := .package, name := "sv_counters_clear", type := .u8, access := .wo, apply := .i, lo := 1, hi := 1 }
/-- The entries of spec/07_sampling_speculation.md. -/
def svEntries : List Entry :=
  [Ix.svRecordBase, Ix.svDraftVersion, Ix.svSamplerBlocks, Ix.svMaxDraftDepth, Ix.svTokensSampled,
   Ix.svCandidatesVerified, Ix.svCandidatesAccepted, Ix.svBonusTokens, Ix.svResidualSamples, Ix.svNanLogits,
   Ix.svMaskEmpty, Ix.svDraftTruncated, Ix.svLastStatus, Ix.svCountersClear]

/-- 0x3400:pp `sc_lead_package` (R217). -/
def Ix.scLeadPackage : Entry := { index := 0x3400, subs := 12, unit := .partition, name := "sc_lead_package", type := .u16, access := .rw, apply := .s, dflt := 65535 }
/-- 0x3401:pp `sc_deputy_package` (R217). -/
def Ix.scDeputyPackage : Entry := { index := 0x3401, subs := 12, unit := .partition, name := "sc_deputy_package", type := .u16, access := .rw, apply := .s, dflt := 65535 }
/-- 0x3402:pp `sc_engine_configs` (R217). -/
def Ix.scEngineConfigs : Entry := { index := 0x3402, subs := 12, unit := .partition, name := "sc_engine_configs", type := .blob, access := .rw, apply := .b }
/-- 0x3403:pp `sc_active_config` (R217). -/
def Ix.scActiveConfig : Entry := { index := 0x3403, subs := 12, unit := .partition, name := "sc_active_config", type := .u8, access := .ro }
/-- 0x3404:pp `sc_intake_base` (R217). -/
def Ix.scIntakeBase : Entry := { index := 0x3404, subs := 12, unit := .partition, name := "sc_intake_base", type := .u64, access := .rw, apply := .s, hi := 18446744073709551615, step := 64 }
/-- 0x3405:pp `sc_intake_slots` (R217). -/
def Ix.scIntakeSlots : Entry := { index := 0x3405, subs := 12, unit := .partition, name := "sc_intake_slots", type := .u32, access := .rw, apply := .s, dflt := 4096, lo := 256, hi := 65536, pow2 := true }
/-- 0x3406:pp `sc_intake_published` (R217). -/
def Ix.scIntakePublished : Entry := { index := 0x3406, subs := 12, unit := .partition, name := "sc_intake_published", type := .u64, access := .ro }
/-- 0x3407:pp `sc_intake_consumed` (R217). -/
def Ix.scIntakeConsumed : Entry := { index := 0x3407, subs := 12, unit := .partition, name := "sc_intake_consumed", type := .u64, access := .ro }
/-- 0x3408:pp `sc_intake_consumed_addr` (R217). -/
def Ix.scIntakeConsumedAddr : Entry := { index := 0x3408, subs := 12, unit := .partition, name := "sc_intake_consumed_addr", type := .u64, access := .rw, apply := .s }
/-- 0x3409:pp `sc_intake_per_boundary` (R217). -/
def Ix.scIntakePerBoundary : Entry := { index := 0x3409, subs := 12, unit := .partition, name := "sc_intake_per_boundary", type := .u16, access := .rw, apply := .b, dflt := 1024, lo := 1, hi := 4096 }
/-- 0x340A:pp `sc_intake_reset` (R217). -/
def Ix.scIntakeReset : Entry := { index := 0x340A, subs := 12, unit := .partition, name := "sc_intake_reset", type := .u8, access := .wo, apply := .i, lo := 1, hi := 1 }
/-- 0x340B:pp `sc_slab_base` (R217). -/
def Ix.scSlabBase : Entry := { index := 0x340B, subs := 12, unit := .partition, name := "sc_slab_base", type := .u64, access := .rw, apply := .s, hi := 18446744073709551615, step := 64 }
/-- 0x340C:pp `sc_slab_slot_bytes` (R217). -/
def Ix.scSlabSlotBytes : Entry := { index := 0x340C, subs := 12, unit := .partition, name := "sc_slab_slot_bytes", type := .u32, access := .rw, apply := .s, dflt := 8192, lo := 8192, hi := 4294967295, step := 64 }
/-- 0x340D:pp `sc_slab_slots` (R217). -/
def Ix.scSlabSlots : Entry := { index := 0x340D, subs := 12, unit := .partition, name := "sc_slab_slots", type := .u32, access := .rw, apply := .s, lo := 1, hi := 65536 }
/-- 0x340E:pp `sc_vocab` (R217). -/
def Ix.scVocab : Entry := { index := 0x340E, subs := 12, unit := .partition, name := "sc_vocab", type := .u32, access := .rw, apply := .s, dflt := 65536, lo := 16, hi := 262144 }
/-- 0x340F:pp `sc_table_area_base` (R217). -/
def Ix.scTableAreaBase : Entry := { index := 0x340F, subs := 12, unit := .partition, name := "sc_table_area_base", type := .u64, access := .rw, apply := .s, hi := 18446744073709551615, step := 65536 }
/-- 0x3410:pp `sc_gen_tiles_max` (R217). -/
def Ix.scGenTilesMax : Entry := { index := 0x3410, subs := 12, unit := .partition, name := "sc_gen_tiles_max", type := .u16, access := .rw, apply := .b, dflt := 4095, lo := 1, hi := 4095 }
/-- 0x3411:pp `sc_prefill_tiles_max` (R217). -/
def Ix.scPrefillTilesMax : Entry := { index := 0x3411, subs := 12, unit := .partition, name := "sc_prefill_tiles_max", type := .u16, access := .rw, apply := .b, dflt := 4095, lo := 1, hi := 4095 }
/-- 0x3412:pp `sc_prefill_row_tokens` (R217). -/
def Ix.scPrefillRowTokens : Entry := { index := 0x3412, subs := 12, unit := .partition, name := "sc_prefill_row_tokens", type := .u16, access := .rw, apply := .b, dflt := 4096, lo := 16, hi := 16384, step := 16 }
/-- 0x3413:pp `sc_chunk_tokens` (R217). -/
def Ix.scChunkTokens : Entry := { index := 0x3413, subs := 12, unit := .partition, name := "sc_chunk_tokens", type := .u16, access := .rw, apply := .b, dflt := 512, lo := 64, hi := 2048, step := 16 }
/-- 0x3414:pp `sc_split_hysteresis_pm` (R217). -/
def Ix.scSplitHysteresisPm : Entry := { index := 0x3414, subs := 12, unit := .partition, name := "sc_split_hysteresis_pm", type := .u16, access := .rw, apply := .b, dflt := 100, hi := 1000 }
/-- 0x3415:pp `sc_split_hold_steps` (R217). -/
def Ix.scSplitHoldSteps : Entry := { index := 0x3415, subs := 12, unit := .partition, name := "sc_split_hold_steps", type := .u16, access := .rw, apply := .b, dflt := 8, lo := 1, hi := 65535 }
/-- 0x3416:pp `sc_split_wake_config` (R217). -/
def Ix.scSplitWakeConfig : Entry := { index := 0x3416, subs := 12, unit := .partition, name := "sc_split_wake_config", type := .u8, access := .rw, apply := .b, dflt := 1 }
/-- 0x3417:pp `sc_runway_ahead_ms` (R217). -/
def Ix.scRunwayAheadMs : Entry := { index := 0x3417, subs := 12, unit := .partition, name := "sc_runway_ahead_ms", type := .u32, access := .rw, apply := .b, dflt := 2000, lo := 1, hi := 600000 }
/-- 0x3418:pp `sc_budget_override` (R217). -/
def Ix.scBudgetOverride : Entry := { index := 0x3418, subs := 12, unit := .partition, name := "sc_budget_override", type := .u8, access := .rw, apply := .b, dflt := 1, hi := 1 }
/-- 0x3419:pp `sc_sampler_packages` (R217). -/
def Ix.scSamplerPackages : Entry := { index := 0x3419, subs := 12, unit := .partition, name := "sc_sampler_packages", type := .blob, access := .rw, apply := .b }
/-- 0x341A:pp `sc_completion_base` (R217). -/
def Ix.scCompletionBase : Entry := { index := 0x341A, subs := 12, unit := .partition, name := "sc_completion_base", type := .u64, access := .rw, apply := .s, hi := 18446744073709551615, step := 64 }
/-- 0x341B:pp `sc_completion_slots` (R217). -/
def Ix.scCompletionSlots : Entry := { index := 0x341B, subs := 12, unit := .partition, name := "sc_completion_slots", type := .u32, access := .rw, apply := .s, dflt := 4096, lo := 64, hi := 65536, pow2 := true }
/-- 0x341C:pp `sc_completion_counter_addr` (R217). -/
def Ix.scCompletionCounterAddr : Entry := { index := 0x341C, subs := 12, unit := .partition, name := "sc_completion_counter_addr", type := .u64, access := .rw, apply := .s, hi := 18446744073709551615, step := 8 }
/-- 0x3420:pp `sc_tenant_table` (R217). -/
def Ix.scTenantTable : Entry := { index := 0x3420, subs := 12, unit := .partition, name := "sc_tenant_table", type := .blob, access := .rw, apply := .b }
/-- 0x3421:pp `sc_tenant_select` (R217). -/
def Ix.scTenantSelect : Entry := { index := 0x3421, subs := 12, unit := .partition, name := "sc_tenant_select", type := .u16, access := .rw, apply := .i }
/-- 0x3422:pp `sc_tenant_state` (R217). -/
def Ix.scTenantState : Entry := { index := 0x3422, subs := 12, unit := .partition, name := "sc_tenant_state", type := .blob, access := .ro }
/-- 0x3423:pp `sc_row_mask` (R217). -/
def Ix.scRowMask : Entry := { index := 0x3423, subs := 12, unit := .partition, name := "sc_row_mask", type := .blob, access := .ro }
/-- 0x3430:pp `sc_requests_running` (R217). -/
def Ix.scRequestsRunning : Entry := { index := 0x3430, subs := 12, unit := .partition, name := "sc_requests_running", type := .u32, access := .ro }
/-- 0x3431:pp `sc_requests_queued` (R217). -/
def Ix.scRequestsQueued : Entry := { index := 0x3431, subs := 12, unit := .partition, name := "sc_requests_queued", type := .u32, access := .ro }
/-- 0x3432:pp `sc_admitted` (R217). -/
def Ix.scAdmitted : Entry := { index := 0x3432, subs := 12, unit := .partition, name := "sc_admitted", type := .u64, access := .ro }
/-- 0x3433:pp `sc_rejected` (R217). -/
def Ix.scRejected : Entry := { index := 0x3433, subs := 12, unit := .partition, name := "sc_rejected", type := .u64, access := .ro }
/-- 0x3434:pp `sc_cancelled` (R217). -/
def Ix.scCancelled : Entry := { index := 0x3434, subs := 12, unit := .partition, name := "sc_cancelled", type := .u64, access := .ro }
/-- 0x3435:pp `sc_completed` (R217). -/
def Ix.scCompleted : Entry := { index := 0x3435, subs := 12, unit := .partition, name := "sc_completed", type := .u64, access := .ro }
/-- 0x3436:pp `sc_rows_budget_held` (R217). -/
def Ix.scRowsBudgetHeld : Entry := { index := 0x3436, subs := 12, unit := .partition, name := "sc_rows_budget_held", type := .u64, access := .ro }
/-- 0x3437:pp `sc_split_changes` (R217). -/
def Ix.scSplitChanges : Entry := { index := 0x3437, subs := 12, unit := .partition, name := "sc_split_changes", type := .u32, access := .ro }
/-- 0x3438:pp `sc_last_status` (R217). -/
def Ix.scLastStatus : Entry := { index := 0x3438, subs := 12, unit := .partition, name := "sc_last_status", type := .u16, access := .ro }
/-- 0x3440:00 `sc_counters_clear` (R217). -/
def Ix.scCountersClear : Entry := { index := 0x3440, unit := .package, name := "sc_counters_clear", type := .u8, access := .wo, apply := .i, lo := 1, hi := 1 }
/-- The entries of spec/08_serving_scheduler.md. -/
def scEntries : List Entry :=
  [Ix.scLeadPackage, Ix.scDeputyPackage, Ix.scEngineConfigs, Ix.scActiveConfig, Ix.scIntakeBase,
   Ix.scIntakeSlots, Ix.scIntakePublished, Ix.scIntakeConsumed, Ix.scIntakeConsumedAddr, Ix.scIntakePerBoundary,
   Ix.scIntakeReset, Ix.scSlabBase, Ix.scSlabSlotBytes, Ix.scSlabSlots, Ix.scVocab,
   Ix.scTableAreaBase, Ix.scGenTilesMax, Ix.scPrefillTilesMax, Ix.scPrefillRowTokens, Ix.scChunkTokens,
   Ix.scSplitHysteresisPm, Ix.scSplitHoldSteps, Ix.scSplitWakeConfig, Ix.scRunwayAheadMs, Ix.scBudgetOverride,
   Ix.scSamplerPackages, Ix.scCompletionBase, Ix.scCompletionSlots, Ix.scCompletionCounterAddr, Ix.scTenantTable,
   Ix.scTenantSelect, Ix.scTenantState, Ix.scRowMask, Ix.scRequestsRunning, Ix.scRequestsQueued,
   Ix.scAdmitted, Ix.scRejected, Ix.scCancelled, Ix.scCompleted, Ix.scRowsBudgetHeld,
   Ix.scSplitChanges, Ix.scLastStatus, Ix.scCountersClear]

/-- 0x3800:pp `se_stream_base` (R235). -/
def Ix.seStreamBase : Entry := { index := 0x3800, subs := 12, unit := .partition, name := "se_stream_base", type := .u64, access := .rw, apply := .s, hi := 18446744073709551615, step := 64 }
/-- 0x3801:pp `se_stream_count` (R235). -/
def Ix.seStreamCount : Entry := { index := 0x3801, subs := 12, unit := .partition, name := "se_stream_count", type := .u32, access := .rw, apply := .s, hi := 65536 }
/-- 0x3802:pp `se_audit_lag` (R235). -/
def Ix.seAuditLag : Entry := { index := 0x3802, subs := 12, unit := .partition, name := "se_audit_lag", type := .u8, access := .rw, apply := .b, dflt := 1, hi := 1 }
/-- 0x3803:pp `se_warn_ms` (R235). -/
def Ix.seWarnMs : Entry := { index := 0x3803, subs := 12, unit := .partition, name := "se_warn_ms", type := .u32, access := .rw, apply := .b, dflt := 500, lo := 1, hi := 600000 }
/-- 0x3804:pp `se_critical_ms` (R235). -/
def Ix.seCriticalMs : Entry := { index := 0x3804, subs := 12, unit := .partition, name := "se_critical_ms", type := .u32, access := .rw, apply := .b, dflt := 150 }
/-- 0x3805:pp `se_predict_margin_ms` (R235). -/
def Ix.sePredictMarginMs : Entry := { index := 0x3805, subs := 12, unit := .partition, name := "se_predict_margin_ms", type := .u32, access := .rw, apply := .b, dflt := 20, hi := 60000 }
/-- 0x3806:pp `se_ring_table` (R235). -/
def Ix.seRingTable : Entry := { index := 0x3806, subs := 12, unit := .partition, name := "se_ring_table", type := .blob, access := .rw, apply := .s }
/-- 0x3807:pp `se_step_estimate_ns` (R235). -/
def Ix.seStepEstimateNs : Entry := { index := 0x3807, subs := 12, unit := .partition, name := "se_step_estimate_ns", type := .u64, access := .ro }
/-- 0x3810:pp `se_tokens_emitted` (R235). -/
def Ix.seTokensEmitted : Entry := { index := 0x3810, subs := 12, unit := .partition, name := "se_tokens_emitted", type := .u64, access := .ro }
/-- 0x3811:pp `se_entries_written` (R235). -/
def Ix.seEntriesWritten : Entry := { index := 0x3811, subs := 12, unit := .partition, name := "se_entries_written", type := .u64, access := .ro }
/-- 0x3812:pp `se_corrections` (R235). -/
def Ix.seCorrections : Entry := { index := 0x3812, subs := 12, unit := .partition, name := "se_corrections", type := .u64, access := .ro }
/-- 0x3813:pp `se_underruns_predicted` (R235). -/
def Ix.seUnderrunsPredicted : Entry := { index := 0x3813, subs := 12, unit := .partition, name := "se_underruns_predicted", type := .u64, access := .ro }
/-- 0x3814:pp `se_underruns` (R235). -/
def Ix.seUnderruns : Entry := { index := 0x3814, subs := 12, unit := .partition, name := "se_underruns", type := .u64, access := .ro }
/-- 0x3815:pp `se_tokens_truncated` (R235). -/
def Ix.seTokensTruncated : Entry := { index := 0x3815, subs := 12, unit := .partition, name := "se_tokens_truncated", type := .u64, access := .ro }
/-- 0x3816:pp `se_ring_full_events` (R235). -/
def Ix.seRingFullEvents : Entry := { index := 0x3816, subs := 12, unit := .partition, name := "se_ring_full_events", type := .u32, access := .ro }
/-- 0x3817:pp `se_last_status` (R235). -/
def Ix.seLastStatus : Entry := { index := 0x3817, subs := 12, unit := .partition, name := "se_last_status", type := .u16, access := .ro }
/-- 0x3818:pp `se_stream_select` (R235). -/
def Ix.seStreamSelect : Entry := { index := 0x3818, subs := 12, unit := .partition, name := "se_stream_select", type := .u32, access := .rw, apply := .i }
/-- 0x3819:pp `se_stream_state` (R235). -/
def Ix.seStreamState : Entry := { index := 0x3819, subs := 12, unit := .partition, name := "se_stream_state", type := .blob, access := .ro }
/-- 0x3820:00 `se_counters_clear` (R235). -/
def Ix.seCountersClear : Entry := { index := 0x3820, unit := .package, name := "se_counters_clear", type := .u8, access := .wo, apply := .i, lo := 1, hi := 1 }
/-- The entries of spec/09_stream_egress.md. -/
def seEntries : List Entry :=
  [Ix.seStreamBase, Ix.seStreamCount, Ix.seAuditLag, Ix.seWarnMs, Ix.seCriticalMs,
   Ix.sePredictMarginMs, Ix.seRingTable, Ix.seStepEstimateNs, Ix.seTokensEmitted, Ix.seEntriesWritten,
   Ix.seCorrections, Ix.seUnderrunsPredicted, Ix.seUnderruns, Ix.seTokensTruncated, Ix.seRingFullEvents,
   Ix.seLastStatus, Ix.seStreamSelect, Ix.seStreamState, Ix.seCountersClear]

/-- 0x4000:pp `wm_version_current` (R288). -/
def Ix.wmVersionCurrent : Entry := { index := 0x4000, subs := 12, unit := .partition, name := "wm_version_current", type := .u16, access := .ro, dflt := 65535 }
/-- 0x4001:pp `wm_switch` (R288). -/
def Ix.wmSwitch : Entry := { index := 0x4001, subs := 12, unit := .partition, name := "wm_switch", type := .blob, access := .rw, apply := .b }
/-- 0x4002:pp `wm_version_armed` (R288). -/
def Ix.wmVersionArmed : Entry := { index := 0x4002, subs := 12, unit := .partition, name := "wm_version_armed", type := .u16, access := .ro, dflt := 65535 }
/-- 0x4003:pp `wm_parked_requests` (R288). -/
def Ix.wmParkedRequests : Entry := { index := 0x4003, subs := 12, unit := .partition, name := "wm_parked_requests", type := .u32, access := .ro }
/-- 0x4004:pp `wm_refill_packages` (R288). -/
def Ix.wmRefillPackages : Entry := { index := 0x4004, subs := 12, unit := .partition, name := "wm_refill_packages", type := .blob, access := .rw, apply := .i }
/-- 0x4005:pp `wm_refill_host_addr` (R288). -/
def Ix.wmRefillHostAddr : Entry := { index := 0x4005, subs := 12, unit := .partition, name := "wm_refill_host_addr", type := .u64, access := .rw, apply := .i }
/-- 0x4010:00 `wm_load_command` (R288). -/
def Ix.wmLoadCommand : Entry := { index := 0x4010, unit := .package, name := "wm_load_command", type := .blob, access := .wo, apply := .i }
/-- 0x4011:00 `wm_load_status` (R288). -/
def Ix.wmLoadStatus : Entry := { index := 0x4011, unit := .package, name := "wm_load_status", type := .blob, access := .ro }
/-- 0x4012:00 `wm_unload` (R288). -/
def Ix.wmUnload : Entry := { index := 0x4012, unit := .package, name := "wm_unload", type := .u32, access := .wo, apply := .i }
/-- 0x4013:00 `wm_background_gbs` (R288). -/
def Ix.wmBackgroundGbs : Entry := { index := 0x4013, unit := .package, name := "wm_background_gbs", type := .u16, access := .rw, apply := .i, dflt := 256, lo := 16, hi := 1024 }
/-- 0x4014:00 `wm_require_signature` (R288). -/
def Ix.wmRequireSignature : Entry := { index := 0x4014, unit := .package, name := "wm_require_signature", type := .u8, access := .rw, apply := .k, hi := 1 }
/-- 0x4015:00 `wm_registry` (R288). -/
def Ix.wmRegistry : Entry := { index := 0x4015, unit := .package, name := "wm_registry", type := .blob, access := .ro }
/-- 0x4016:00 `wm_serve_gbs` (R288). -/
def Ix.wmServeGbs : Entry := { index := 0x4016, unit := .package, name := "wm_serve_gbs", type := .u16, access := .rw, apply := .i, dflt := 1600, lo := 16, hi := 9600 }
/-- 0x4017:00 `wm_evict_enable` (R288). -/
def Ix.wmEvictEnable : Entry := { index := 0x4017, unit := .package, name := "wm_evict_enable", type := .u8, access := .rw, apply := .i, dflt := 1, hi := 1 }
/-- 0x4018:00 `wm_last_status` (R288). -/
def Ix.wmLastStatus : Entry := { index := 0x4018, unit := .package, name := "wm_last_status", type := .u16, access := .ro }
/-- 0x4020:00 `wm_bytes_loaded` (R288). -/
def Ix.wmBytesLoaded : Entry := { index := 0x4020, unit := .package, name := "wm_bytes_loaded", type := .u64, access := .ro }
/-- 0x4021:00 `wm_digest_failures` (R288). -/
def Ix.wmDigestFailures : Entry := { index := 0x4021, unit := .package, name := "wm_digest_failures", type := .u32, access := .ro }
/-- 0x4022:00 `wm_switches` (R288). -/
def Ix.wmSwitches : Entry := { index := 0x4022, unit := .package, name := "wm_switches", type := .u32, access := .ro }
/-- 0x4023:00 `wm_evictions` (R288). -/
def Ix.wmEvictions : Entry := { index := 0x4023, unit := .package, name := "wm_evictions", type := .u32, access := .ro }
/-- 0x4030:00 `wm_counters_clear` (R288). -/
def Ix.wmCountersClear : Entry := { index := 0x4030, unit := .package, name := "wm_counters_clear", type := .u8, access := .wo, apply := .i, lo := 1, hi := 1 }
/-- The entries of spec/11_model_store.md. -/
def wmEntries : List Entry :=
  [Ix.wmVersionCurrent, Ix.wmSwitch, Ix.wmVersionArmed, Ix.wmParkedRequests, Ix.wmRefillPackages,
   Ix.wmRefillHostAddr, Ix.wmLoadCommand, Ix.wmLoadStatus, Ix.wmUnload, Ix.wmBackgroundGbs,
   Ix.wmRequireSignature, Ix.wmRegistry, Ix.wmServeGbs, Ix.wmEvictEnable, Ix.wmLastStatus,
   Ix.wmBytesLoaded, Ix.wmDigestFailures, Ix.wmSwitches, Ix.wmEvictions, Ix.wmCountersClear]

/-- 0x4400:pp `tm_fixed_ranges` (R267). -/
def Ix.tmFixedRanges : Entry := { index := 0x4400, subs := 12, unit := .partition, name := "tm_fixed_ranges", type := .blob, access := .rw, apply := .s }
/-- 0x4401:pp `tm_spill_base` (R267). -/
def Ix.tmSpillBase : Entry := { index := 0x4401, subs := 12, unit := .partition, name := "tm_spill_base", type := .u64, access := .rw, apply := .s, hi := 18446744073709551615, step := 4096 }
/-- 0x4402:pp `tm_spill_bytes` (R267). -/
def Ix.tmSpillBytes : Entry := { index := 0x4402, subs := 12, unit := .partition, name := "tm_spill_bytes", type := .u64, access := .rw, apply := .s }
/-- 0x4403:00 `tm_t0_low_water_pm` (R267). -/
def Ix.tmT0LowWaterPm : Entry := { index := 0x4403, unit := .package, name := "tm_t0_low_water_pm", type := .u16, access := .rw, apply := .i, dflt := 50, lo := 1, hi := 500 }
/-- 0x4404:00 `tm_t0_high_water_pm` (R267). -/
def Ix.tmT0HighWaterPm : Entry := { index := 0x4404, unit := .package, name := "tm_t0_high_water_pm", type := .u16, access := .rw, apply := .i, dflt := 100, hi := 900 }
/-- 0x4405:00 `tm_t1_low_water_pm` (R267). -/
def Ix.tmT1LowWaterPm : Entry := { index := 0x4405, unit := .package, name := "tm_t1_low_water_pm", type := .u16, access := .rw, apply := .i, dflt := 30, lo := 1, hi := 500 }
/-- 0x4406:00 `tm_t1_high_water_pm` (R267). -/
def Ix.tmT1HighWaterPm : Entry := { index := 0x4406, unit := .package, name := "tm_t1_high_water_pm", type := .u16, access := .rw, apply := .i, dflt := 60, hi := 900 }
/-- 0x4407:00 `tm_promote_enable` (R267). -/
def Ix.tmPromoteEnable : Entry := { index := 0x4407, unit := .package, name := "tm_promote_enable", type := .u8, access := .rw, apply := .i, dflt := 1, hi := 1 }
/-- 0x4408:00 `tm_lend_enable` (R267). -/
def Ix.tmLendEnable : Entry := { index := 0x4408, unit := .package, name := "tm_lend_enable", type := .u8, access := .rw, apply := .i, hi := 1 }
/-- 0x4409:00 `tm_lend_max_gib` (R267). -/
def Ix.tmLendMaxGib : Entry := { index := 0x4409, unit := .package, name := "tm_lend_max_gib", type := .u16, access := .rw, apply := .i, hi := 2048 }
/-- 0x440A:00 `tm_reclaim_grace_ms` (R267). -/
def Ix.tmReclaimGraceMs : Entry := { index := 0x440A, unit := .package, name := "tm_reclaim_grace_ms", type := .u16, access := .rw, apply := .i, dflt := 50, lo := 10, hi := 1000 }
/-- 0x440B:00 `tm_borrow_enable` (R267). -/
def Ix.tmBorrowEnable : Entry := { index := 0x440B, unit := .package, name := "tm_borrow_enable", type := .u8, access := .rw, apply := .i, hi := 1 }
/-- 0x440C:00 `tm_borrow_max_gib` (R267). -/
def Ix.tmBorrowMaxGib : Entry := { index := 0x440C, unit := .package, name := "tm_borrow_max_gib", type := .u16, access := .rw, apply := .i, hi := 1280 }
/-- 0x440D:00 `tm_lend_radius_hops` (R267). -/
def Ix.tmLendRadiusHops : Entry := { index := 0x440D, unit := .package, name := "tm_lend_radius_hops", type := .u8, access := .rw, apply := .i, dflt := 2, lo := 1, hi := 8 }
/-- 0x440E:00 `tm_commits_per_boundary` (R267). -/
def Ix.tmCommitsPerBoundary : Entry := { index := 0x440E, unit := .package, name := "tm_commits_per_boundary", type := .u16, access := .rw, apply := .b, dflt := 4096, lo := 256, hi := 65535 }
/-- 0x4410:00 `tm_t0_free_bytes` (R267). -/
def Ix.tmT0FreeBytes : Entry := { index := 0x4410, unit := .package, name := "tm_t0_free_bytes", type := .u64, access := .ro }
/-- 0x4411:00 `tm_t1_free_bytes` (R267). -/
def Ix.tmT1FreeBytes : Entry := { index := 0x4411, unit := .package, name := "tm_t1_free_bytes", type := .u64, access := .ro }
/-- 0x4412:00 `tm_t2_mapped_bytes` (R267). -/
def Ix.tmT2MappedBytes : Entry := { index := 0x4412, unit := .package, name := "tm_t2_mapped_bytes", type := .u64, access := .ro }
/-- 0x4413:00 `tm_lent_bytes` (R267). -/
def Ix.tmLentBytes : Entry := { index := 0x4413, unit := .package, name := "tm_lent_bytes", type := .u64, access := .ro }
/-- 0x4414:00 `tm_moves_committed` (R267). -/
def Ix.tmMovesCommitted : Entry := { index := 0x4414, unit := .package, name := "tm_moves_committed", type := .u64, access := .ro }
/-- 0x4415:00 `tm_moves_abandoned` (R267). -/
def Ix.tmMovesAbandoned : Entry := { index := 0x4415, unit := .package, name := "tm_moves_abandoned", type := .u64, access := .ro }
/-- 0x4416:00 `tm_bytes_moved` (R267). -/
def Ix.tmBytesMoved : Entry := { index := 0x4416, unit := .package, name := "tm_bytes_moved", type := .u64, access := .ro }
/-- 0x4417:00 `tm_loss_head` (R267). -/
def Ix.tmLossHead : Entry := { index := 0x4417, unit := .package, name := "tm_loss_head", type := .u32, access := .ro }
/-- 0x4418:00 `tm_loss_log` (R267). -/
def Ix.tmLossLog : Entry := { index := 0x4418, unit := .package, name := "tm_loss_log", type := .blob, access := .ro }
/-- 0x4419:00 `tm_lend_table` (R267). -/
def Ix.tmLendTable : Entry := { index := 0x4419, unit := .package, name := "tm_lend_table", type := .blob, access := .ro }
/-- 0x441A:00 `tm_reclaim_units` (R267). -/
def Ix.tmReclaimUnits : Entry := { index := 0x441A, unit := .package, name := "tm_reclaim_units", type := .u16, access := .wo, apply := .i }
/-- 0x441B:00 `tm_last_status` (R267). -/
def Ix.tmLastStatus : Entry := { index := 0x441B, unit := .package, name := "tm_last_status", type := .u16, access := .ro }
/-- 0x4420:00 `tm_counters_clear` (R267). -/
def Ix.tmCountersClear : Entry := { index := 0x4420, unit := .package, name := "tm_counters_clear", type := .u8, access := .wo, apply := .i, lo := 1, hi := 1 }
/-- 0x4800:rr `hb_stack_state` (R268). -/
def Ix.hbStackState : Entry := { index := 0x4800, subs := 12, unit := .region, name := "hb_stack_state", type := .u8, access := .ro }
/-- 0x4801:rr `hb_failed_channel` (R268). -/
def Ix.hbFailedChannel : Entry := { index := 0x4801, subs := 12, unit := .region, name := "hb_failed_channel", type := .u8, access := .ro, dflt := 255 }
/-- 0x4802:rr `hb_corrected` (R268). -/
def Ix.hbCorrected : Entry := { index := 0x4802, subs := 12, unit := .region, name := "hb_corrected", type := .u64, access := .ro }
/-- 0x4803:rr `hb_uncorrectable` (R268). -/
def Ix.hbUncorrectable : Entry := { index := 0x4803, subs := 12, unit := .region, name := "hb_uncorrectable", type := .u64, access := .ro }
/-- 0x4804:rr `hb_poison_reads` (R268). -/
def Ix.hbPoisonReads : Entry := { index := 0x4804, subs := 12, unit := .region, name := "hb_poison_reads", type := .u64, access := .ro }
/-- 0x4805:rr `hb_scrub_period_h` (R268). -/
def Ix.hbScrubPeriodH : Entry := { index := 0x4805, subs := 12, unit := .region, name := "hb_scrub_period_h", type := .u16, access := .rw, apply := .i, dflt := 24, hi := 720 }
/-- 0x4806:rr `hb_bytes_moved` (R268). -/
def Ix.hbBytesMoved : Entry := { index := 0x4806, subs := 12, unit := .region, name := "hb_bytes_moved", type := .u64, access := .ro }
/-- 0x4807:00 `hb_channel_fail_lines` (R268). -/
def Ix.hbChannelFailLines : Entry := { index := 0x4807, unit := .package, name := "hb_channel_fail_lines", type := .u8, access := .rw, apply := .i, dflt := 4, lo := 2, hi := 64 }
/-- 0x4808:00 `hb_channel_fail_window_ms` (R268). -/
def Ix.hbChannelFailWindowMs : Entry := { index := 0x4808, unit := .package, name := "hb_channel_fail_window_ms", type := .u16, access := .rw, apply := .i, dflt := 1000, lo := 10, hi := 60000 }
/-- 0x4810+rr:ch `hb_channel_corrected` (R268). -/
def Ix.hbChannelCorrected : Entry := { index := 0x4810, span := 12, subs := 32, unit := .channel, name := "hb_channel_corrected", type := .u32, access := .ro }
/-- 0x4820+rr:ch `hb_channel_state` (R268). -/
def Ix.hbChannelState : Entry := { index := 0x4820, span := 12, subs := 32, unit := .channel, name := "hb_channel_state", type := .u8, access := .ro }
/-- 0x4830:rr `hb_fail_channel` (R268). -/
def Ix.hbFailChannel : Entry := { index := 0x4830, subs := 12, unit := .region, name := "hb_fail_channel", type := .u8, access := .wo, apply := .k, hi := 31 }
/-- 0x4840:00 `hb_counters_clear` (R268). -/
def Ix.hbCountersClear : Entry := { index := 0x4840, unit := .package, name := "hb_counters_clear", type := .u8, access := .wo, apply := .i, lo := 1, hi := 1 }
/-- 0x4C00:cc `dd_channel_state` (R269). -/
def Ix.ddChannelState : Entry := { index := 0x4C00, subs := 16, unit := .channel, name := "dd_channel_state", type := .u8, access := .ro }
/-- 0x4C01:cc `dd_dimm_bytes` (R269). -/
def Ix.ddDimmBytes : Entry := { index := 0x4C01, subs := 16, unit := .channel, name := "dd_dimm_bytes", type := .u64, access := .ro }
/-- 0x4C02:cc `dd_corrected` (R269). -/
def Ix.ddCorrected : Entry := { index := 0x4C02, subs := 16, unit := .channel, name := "dd_corrected", type := .u64, access := .ro }
/-- 0x4C03:cc `dd_uncorrectable` (R269). -/
def Ix.ddUncorrectable : Entry := { index := 0x4C03, subs := 16, unit := .channel, name := "dd_uncorrectable", type := .u64, access := .ro }
/-- 0x4C04:cc `dd_poison_reads` (R269). -/
def Ix.ddPoisonReads : Entry := { index := 0x4C04, subs := 16, unit := .channel, name := "dd_poison_reads", type := .u64, access := .ro }
/-- 0x4C05:cc `dd_retries` (R269). -/
def Ix.ddRetries : Entry := { index := 0x4C05, subs := 16, unit := .channel, name := "dd_retries", type := .u64, access := .ro }
/-- 0x4C06:00 `dd_scrub_period_h` (R269). -/
def Ix.ddScrubPeriodH : Entry := { index := 0x4C06, unit := .package, name := "dd_scrub_period_h", type := .u16, access := .rw, apply := .i, dflt := 24, hi := 720 }
/-- 0x4C07:00 `dd_retry_limit` (R269). -/
def Ix.ddRetryLimit : Entry := { index := 0x4C07, unit := .package, name := "dd_retry_limit", type := .u8, access := .rw, apply := .s, dflt := 3, lo := 1, hi := 8 }
/-- 0x4C08:00 `dd_channel_fail_lines` (R269). -/
def Ix.ddChannelFailLines : Entry := { index := 0x4C08, unit := .package, name := "dd_channel_fail_lines", type := .u8, access := .rw, apply := .i, dflt := 4, lo := 2, hi := 64 }
/-- 0x4C09:00 `dd_channel_fail_window_ms` (R269). -/
def Ix.ddChannelFailWindowMs : Entry := { index := 0x4C09, unit := .package, name := "dd_channel_fail_window_ms", type := .u16, access := .rw, apply := .i, dflt := 1000, lo := 10, hi := 60000 }
/-- 0x4C0A:cc `dd_fail_channel` (R269). -/
def Ix.ddFailChannel : Entry := { index := 0x4C0A, subs := 16, unit := .channel, name := "dd_fail_channel", type := .u8, access := .wo, apply := .k, lo := 1, hi := 1 }
/-- 0x4C10:00 `dd_counters_clear` (R269). -/
def Ix.ddCountersClear : Entry := { index := 0x4C10, unit := .package, name := "dd_counters_clear", type := .u8, access := .wo, apply := .i, lo := 1, hi := 1 }
/-- The entries of spec/10_memory_tiers.md. -/
def tmEntries : List Entry :=
  [Ix.tmFixedRanges, Ix.tmSpillBase, Ix.tmSpillBytes, Ix.tmT0LowWaterPm, Ix.tmT0HighWaterPm,
   Ix.tmT1LowWaterPm, Ix.tmT1HighWaterPm, Ix.tmPromoteEnable, Ix.tmLendEnable, Ix.tmLendMaxGib,
   Ix.tmReclaimGraceMs, Ix.tmBorrowEnable, Ix.tmBorrowMaxGib, Ix.tmLendRadiusHops, Ix.tmCommitsPerBoundary,
   Ix.tmT0FreeBytes, Ix.tmT1FreeBytes, Ix.tmT2MappedBytes, Ix.tmLentBytes, Ix.tmMovesCommitted,
   Ix.tmMovesAbandoned, Ix.tmBytesMoved, Ix.tmLossHead, Ix.tmLossLog, Ix.tmLendTable,
   Ix.tmReclaimUnits, Ix.tmLastStatus, Ix.tmCountersClear, Ix.hbStackState, Ix.hbFailedChannel,
   Ix.hbCorrected, Ix.hbUncorrectable, Ix.hbPoisonReads, Ix.hbScrubPeriodH, Ix.hbBytesMoved,
   Ix.hbChannelFailLines, Ix.hbChannelFailWindowMs, Ix.hbChannelCorrected, Ix.hbChannelState, Ix.hbFailChannel,
   Ix.hbCountersClear, Ix.ddChannelState, Ix.ddDimmBytes, Ix.ddCorrected, Ix.ddUncorrectable,
   Ix.ddPoisonReads, Ix.ddRetries, Ix.ddScrubPeriodH, Ix.ddRetryLimit, Ix.ddChannelFailLines,
   Ix.ddChannelFailWindowMs, Ix.ddFailChannel, Ix.ddCountersClear]

/-- 0x5000:ch `dm_channel_state` (R305). -/
def Ix.dmChannelState : Entry := { index := 0x5000, subs := 256, unit := .channel, name := "dm_channel_state", type := .u8, access := .ro }
/-- 0x5001:ch `dm_channel_partition` (R305). -/
def Ix.dmChannelPartition : Entry := { index := 0x5001, subs := 256, unit := .channel, name := "dm_channel_partition", type := .u8, access := .rw, apply := .s, dflt := 255 }
/-- 0x5002:ch `dm_channel_slot_limit` (R305). -/
def Ix.dmChannelSlotLimit : Entry := { index := 0x5002, subs := 256, unit := .channel, name := "dm_channel_slot_limit", type := .u16, access := .rw, apply := .s, dflt := 16, lo := 2, hi := 1024 }
/-- 0x5003:ch `dm_channel_retry_limit` (R305). -/
def Ix.dmChannelRetryLimit : Entry := { index := 0x5003, subs := 256, unit := .channel, name := "dm_channel_retry_limit", type := .u8, access := .rw, apply := .s, dflt := 3, hi := 15 }
/-- 0x5004:ch `dm_channel_last_status` (R305). -/
def Ix.dmChannelLastStatus : Entry := { index := 0x5004, subs := 256, unit := .channel, name := "dm_channel_last_status", type := .u16, access := .ro }
/-- 0x5005:ch `dm_channel_fault` (R305). -/
def Ix.dmChannelFault : Entry := { index := 0x5005, subs := 256, unit := .channel, name := "dm_channel_fault", type := .blob, access := .ro }
/-- 0x5006:ch `dm_channel_bytes` (R305). -/
def Ix.dmChannelBytes : Entry := { index := 0x5006, subs := 256, unit := .channel, name := "dm_channel_bytes", type := .u64, access := .ro }
/-- 0x5007:ch `dm_channel_retries` (R305). -/
def Ix.dmChannelRetries : Entry := { index := 0x5007, subs := 256, unit := .channel, name := "dm_channel_retries", type := .u32, access := .ro }
/-- 0x5008:ch `dm_channel_pauses` (R305). -/
def Ix.dmChannelPauses : Entry := { index := 0x5008, subs := 256, unit := .channel, name := "dm_channel_pauses", type := .u32, access := .ro }
/-- 0x5009:ch `dm_channel_poison_passed` (R305). -/
def Ix.dmChannelPoisonPassed : Entry := { index := 0x5009, subs := 256, unit := .channel, name := "dm_channel_poison_passed", type := .u32, access := .ro }
/-- 0x5010:00 `dm_pool_free_slots` (R305). -/
def Ix.dmPoolFreeSlots : Entry := { index := 0x5010, unit := .package, name := "dm_pool_free_slots", type := .u16, access := .ro, dflt := 4096 }
/-- 0x5011:00 `dm_pool_grant_waits` (R305). -/
def Ix.dmPoolGrantWaits : Entry := { index := 0x5011, unit := .package, name := "dm_pool_grant_waits", type := .u64, access := .ro }
/-- 0x5020:00 `dm_counters_clear` (R305). -/
def Ix.dmCountersClear : Entry := { index := 0x5020, unit := .package, name := "dm_counters_clear", type := .u8, access := .wo, apply := .i, lo := 1, hi := 1 }
/-- The entries of spec/12_dma.md. -/
def dmEntries : List Entry :=
  [Ix.dmChannelState, Ix.dmChannelPartition, Ix.dmChannelSlotLimit, Ix.dmChannelRetryLimit, Ix.dmChannelLastStatus,
   Ix.dmChannelFault, Ix.dmChannelBytes, Ix.dmChannelRetries, Ix.dmChannelPauses, Ix.dmChannelPoisonPassed,
   Ix.dmPoolFreeSlots, Ix.dmPoolGrantWaits, Ix.dmCountersClear]

/-- 0x5400:00 `tf_torus_size` (R334). -/
def Ix.tfTorusSize : Entry := { index := 0x5400, unit := .package, name := "tf_torus_size", type := .u32, access := .rw, apply := .s, dflt := 65796 }
/-- 0x5401:00 `tf_physical_coord` (R334). -/
def Ix.tfPhysicalCoord : Entry := { index := 0x5401, unit := .package, name := "tf_physical_coord", type := .u32, access := .ro }
/-- 0x5402:dd `tf_axis_remap` (R334). -/
def Ix.tfAxisRemap : Entry := { index := 0x5402, subs := 3, unit := .dimension, name := "tf_axis_remap", type := .u16, access := .rw, apply := .i }
/-- 0x5403:00 `tf_logical_coord` (R334). -/
def Ix.tfLogicalCoord : Entry := { index := 0x5403, unit := .package, name := "tf_logical_coord", type := .u32, access := .ro }
/-- 0x5404:00 `tf_package_id` (R334). -/
def Ix.tfPackageId : Entry := { index := 0x5404, unit := .package, name := "tf_package_id", type := .u16, access := .ro }
/-- 0x5410:00 `tf_profile` (R334). -/
def Ix.tfProfile : Entry := { index := 0x5410, unit := .package, name := "tf_profile", type := .u8, access := .rw, apply := .i, hi := 1 }
/-- 0x5411:00 `tf_min_lanes` (R334). -/
def Ix.tfMinLanes : Entry := { index := 0x5411, unit := .package, name := "tf_min_lanes", type := .u8, access := .rw, apply := .i, dflt := 2, lo := 1, hi := 8 }
/-- 0x5412:00 `tf_violation_threshold` (R334). -/
def Ix.tfViolationThreshold : Entry := { index := 0x5412, unit := .package, name := "tf_violation_threshold", type := .u16, access := .rw, apply := .i, dflt := 64, lo := 1, hi := 65535 }
/-- 0x5413:00 `tf_violation_window_us` (R334). -/
def Ix.tfViolationWindowUs : Entry := { index := 0x5413, unit := .package, name := "tf_violation_window_us", type := .u32, access := .rw, apply := .i, dflt := 1000, lo := 10, hi := 1000000 }
/-- 0x5414:00 `tf_replay_timeout_ns` (R334). -/
def Ix.tfReplayTimeoutNs : Entry := { index := 0x5414, unit := .package, name := "tf_replay_timeout_ns", type := .u32, access := .rw, apply := .s, dflt := 5000, lo := 1000, hi := 50000 }
/-- 0x5415:00 `tf_replay_rounds` (R334). -/
def Ix.tfReplayRounds : Entry := { index := 0x5415, unit := .package, name := "tf_replay_rounds", type := .u8, access := .rw, apply := .s, dflt := 3, lo := 1, hi := 8 }
/-- 0x5416:00 `tf_lane_degrade_ppb` (R334). -/
def Ix.tfLaneDegradePpb : Entry := { index := 0x5416, unit := .package, name := "tf_lane_degrade_ppb", type := .u32, access := .rw, apply := .i, dflt := 100000 }
/-- 0x5417:00 `tf_protocol_level` (R334). -/
def Ix.tfProtocolLevel : Entry := { index := 0x5417, unit := .package, name := "tf_protocol_level", type := .u16, access := .ro }
/-- 0x5418:00 `tf_profile_active` (R334). -/
def Ix.tfProfileActive : Entry := { index := 0x5418, unit := .package, name := "tf_profile_active", type := .u8, access := .ro }
/-- 0x5420:pp `tf_collective_groups` (R334). -/
def Ix.tfCollectiveGroups : Entry := { index := 0x5420, subs := 12, unit := .partition, name := "tf_collective_groups", type := .blob, access := .rw, apply := .b }
/-- 0x5430:ll `tf_link_state` (R334). -/
def Ix.tfLinkState : Entry := { index := 0x5430, subs := 24, unit := .link, name := "tf_link_state", type := .u8, access := .ro }
/-- 0x5431:ll `tf_link_lanes` (R334). -/
def Ix.tfLinkLanes : Entry := { index := 0x5431, subs := 24, unit := .link, name := "tf_link_lanes", type := .u16, access := .ro }
/-- 0x5432:ll `tf_link_partner` (R334). -/
def Ix.tfLinkPartner : Entry := { index := 0x5432, subs := 24, unit := .link, name := "tf_link_partner", type := .u32, access := .ro }
/-- 0x5433:ll `tf_link_crc_errors` (R334). -/
def Ix.tfLinkCrcErrors : Entry := { index := 0x5433, subs := 24, unit := .link, name := "tf_link_crc_errors", type := .u64, access := .ro }
/-- 0x5434:ll `tf_link_replays` (R334). -/
def Ix.tfLinkReplays : Entry := { index := 0x5434, subs := 24, unit := .link, name := "tf_link_replays", type := .u64, access := .ro }
/-- 0x5435:ll `tf_link_violations` (R334). -/
def Ix.tfLinkViolations : Entry := { index := 0x5435, subs := 24, unit := .link, name := "tf_link_violations", type := .u32, access := .ro }
/-- 0x5436:ll `tf_link_fec_corrected` (R334). -/
def Ix.tfLinkFecCorrected : Entry := { index := 0x5436, subs := 24, unit := .link, name := "tf_link_fec_corrected", type := .u64, access := .ro }
/-- 0x5437:ll `tf_link_fec_uncorrectable` (R334). -/
def Ix.tfLinkFecUncorrectable : Entry := { index := 0x5437, subs := 24, unit := .link, name := "tf_link_fec_uncorrectable", type := .u64, access := .ro }
/-- 0x5438:ll `tf_link_flits` (R334). -/
def Ix.tfLinkFlits : Entry := { index := 0x5438, subs := 24, unit := .link, name := "tf_link_flits", type := .u64, access := .ro }
/-- 0x5439:ll `tf_link_down_count` (R334). -/
def Ix.tfLinkDownCount : Entry := { index := 0x5439, subs := 24, unit := .link, name := "tf_link_down_count", type := .u32, access := .ro }
/-- 0x543B:ll `tf_link_hold` (R334). -/
def Ix.tfLinkHold : Entry := { index := 0x543B, subs := 24, unit := .link, name := "tf_link_hold", type := .u8, access := .rw, apply := .k, hi := 1 }
/-- 0x5440:00 `tf_holes` (R334). -/
def Ix.tfHoles : Entry := { index := 0x5440, unit := .package, name := "tf_holes", type := .blob, access := .ro }
/-- 0x5441:00 `tf_detoured` (R334). -/
def Ix.tfDetoured : Entry := { index := 0x5441, unit := .package, name := "tf_detoured", type := .u64, access := .ro }
/-- 0x5442:00 `tf_unreachable` (R334). -/
def Ix.tfUnreachable : Entry := { index := 0x5442, unit := .package, name := "tf_unreachable", type := .u64, access := .ro }
/-- 0x5443:00 `tf_collectives_run` (R334). -/
def Ix.tfCollectivesRun : Entry := { index := 0x5443, unit := .package, name := "tf_collectives_run", type := .u64, access := .ro }
/-- 0x5444:00 `tf_last_status` (R334). -/
def Ix.tfLastStatus : Entry := { index := 0x5444, unit := .package, name := "tf_last_status", type := .u16, access := .ro }
/-- 0x5460+ll:ln `tf_lane_state` (R334). -/
def Ix.tfLaneState : Entry := { index := 0x5460, span := 24, subs := 8, unit := .lane, name := "tf_lane_state", type := .u8, access := .ro }
/-- 0x5480+ll:ln `tf_lane_retrain` (R334). -/
def Ix.tfLaneRetrain : Entry := { index := 0x5480, span := 24, subs := 8, unit := .lane, name := "tf_lane_retrain", type := .u8, access := .wo, apply := .k, lo := 1, hi := 1 }
/-- 0x54A0:00 `tf_counters_clear` (R334). -/
def Ix.tfCountersClear : Entry := { index := 0x54A0, unit := .package, name := "tf_counters_clear", type := .u8, access := .wo, apply := .i, lo := 1, hi := 1 }
/-- The entries of spec/13_tensor_fabric.md. -/
def tfEntries : List Entry :=
  [Ix.tfTorusSize, Ix.tfPhysicalCoord, Ix.tfAxisRemap, Ix.tfLogicalCoord, Ix.tfPackageId,
   Ix.tfProfile, Ix.tfMinLanes, Ix.tfViolationThreshold, Ix.tfViolationWindowUs, Ix.tfReplayTimeoutNs,
   Ix.tfReplayRounds, Ix.tfLaneDegradePpb, Ix.tfProtocolLevel, Ix.tfProfileActive, Ix.tfCollectiveGroups,
   Ix.tfLinkState, Ix.tfLinkLanes, Ix.tfLinkPartner, Ix.tfLinkCrcErrors, Ix.tfLinkReplays,
   Ix.tfLinkViolations, Ix.tfLinkFecCorrected, Ix.tfLinkFecUncorrectable, Ix.tfLinkFlits, Ix.tfLinkDownCount,
   Ix.tfLinkHold, Ix.tfHoles, Ix.tfDetoured, Ix.tfUnreachable, Ix.tfCollectivesRun,
   Ix.tfLastStatus, Ix.tfLaneState, Ix.tfLaneRetrain, Ix.tfCountersClear]

/-- 0x5800:00 `ms_window_table` (R360). -/
def Ix.msWindowTable : Entry := { index := 0x5800, unit := .package, name := "ms_window_table", type := .blob, access := .rw, apply := .k }
/-- 0x5801:00 `ms_window_count` (R360). -/
def Ix.msWindowCount : Entry := { index := 0x5801, unit := .package, name := "ms_window_count", type := .u16, access := .ro }
/-- 0x5802:00 `ms_response_timeout_us` (R360). -/
def Ix.msResponseTimeoutUs : Entry := { index := 0x5802, unit := .package, name := "ms_response_timeout_us", type := .u32, access := .rw, apply := .s, dflt := 40, lo := 20, hi := 10000 }
/-- 0x5803:00 `ms_resend_limit` (R360). -/
def Ix.msResendLimit : Entry := { index := 0x5803, unit := .package, name := "ms_resend_limit", type := .u8, access := .rw, apply := .s, dflt := 2, hi := 7 }
/-- 0x5804:00 `ms_violation_head` (R360). -/
def Ix.msViolationHead : Entry := { index := 0x5804, unit := .package, name := "ms_violation_head", type := .u32, access := .ro }
/-- 0x5805:00 `ms_violation_log` (R360). -/
def Ix.msViolationLog : Entry := { index := 0x5805, unit := .package, name := "ms_violation_log", type := .blob, access := .ro }
/-- 0x5806:00 `ms_dedup_pairs` (R360). -/
def Ix.msDedupPairs : Entry := { index := 0x5806, unit := .package, name := "ms_dedup_pairs", type := .u16, access := .ro }
/-- 0x5807:pp `ms_broken_fences` (R360). -/
def Ix.msBrokenFences : Entry := { index := 0x5807, subs := 12, unit := .partition, name := "ms_broken_fences", type := .u16, access := .ro }
/-- 0x5808:ss `ms_host_source_partition` (R360). -/
def Ix.msHostSourcePartition : Entry := { index := 0x5808, subs := 64, unit := .source, name := "ms_host_source_partition", type := .u8, access := .rw, apply := .s, dflt := 255 }
/-- 0x5809:00 `ms_host_fence_reset` (R360). -/
def Ix.msHostFenceReset : Entry := { index := 0x5809, unit := .package, name := "ms_host_fence_reset", type := .u64, access := .wo, apply := .i }
/-- 0x5810:00 `ms_transactions_sent` (R360). -/
def Ix.msTransactionsSent : Entry := { index := 0x5810, unit := .package, name := "ms_transactions_sent", type := .u64, access := .ro }
/-- 0x5811:00 `ms_resends` (R360). -/
def Ix.msResends : Entry := { index := 0x5811, unit := .package, name := "ms_resends", type := .u64, access := .ro }
/-- 0x5812:00 `ms_duplicates_discarded` (R360). -/
def Ix.msDuplicatesDiscarded : Entry := { index := 0x5812, unit := .package, name := "ms_duplicates_discarded", type := .u64, access := .ro }
/-- 0x5813:00 `ms_timeouts` (R360). -/
def Ix.msTimeouts : Entry := { index := 0x5813, unit := .package, name := "ms_timeouts", type := .u64, access := .ro }
/-- 0x5814:00 `ms_destination_lost` (R360). -/
def Ix.msDestinationLost : Entry := { index := 0x5814, unit := .package, name := "ms_destination_lost", type := .u64, access := .ro }
/-- 0x5815:00 `ms_flags_withheld` (R360). -/
def Ix.msFlagsWithheld : Entry := { index := 0x5815, unit := .package, name := "ms_flags_withheld", type := .u64, access := .ro }
/-- 0x5816:00 `ms_window_misses` (R360). -/
def Ix.msWindowMisses : Entry := { index := 0x5816, unit := .package, name := "ms_window_misses", type := .u64, access := .ro }
/-- 0x5817:00 `ms_errors_sent` (R360). -/
def Ix.msErrorsSent : Entry := { index := 0x5817, unit := .package, name := "ms_errors_sent", type := .u64, access := .ro }
/-- 0x5818:00 `ms_last_status` (R360). -/
def Ix.msLastStatus : Entry := { index := 0x5818, unit := .package, name := "ms_last_status", type := .u16, access := .ro }
/-- 0x5820:00 `ms_counters_clear` (R360). -/
def Ix.msCountersClear : Entry := { index := 0x5820, unit := .package, name := "ms_counters_clear", type := .u8, access := .wo, apply := .i, lo := 1, hi := 1 }
/-- The entries of spec/14_memory_semantics.md. -/
def msEntries : List Entry :=
  [Ix.msWindowTable, Ix.msWindowCount, Ix.msResponseTimeoutUs, Ix.msResendLimit, Ix.msViolationHead,
   Ix.msViolationLog, Ix.msDedupPairs, Ix.msBrokenFences, Ix.msHostSourcePartition, Ix.msHostFenceReset,
   Ix.msTransactionsSent, Ix.msResends, Ix.msDuplicatesDiscarded, Ix.msTimeouts, Ix.msDestinationLost,
   Ix.msFlagsWithheld, Ix.msWindowMisses, Ix.msErrorsSent, Ix.msLastStatus, Ix.msCountersClear]

/-- 0x5C00:mm `hi_module_state` (R379). -/
def Ix.hiModuleState : Entry := { index := 0x5C00, subs := 4, unit := .module, name := "hi_module_state", type := .u8, access := .ro }
/-- 0x5C01:mm `hi_module_rate` (R379). -/
def Ix.hiModuleRate : Entry := { index := 0x5C01, subs := 4, unit := .module, name := "hi_module_rate", type := .u8, access := .ro }
/-- 0x5C02:mm `hi_module_crc_errors` (R379). -/
def Ix.hiModuleCrcErrors : Entry := { index := 0x5C02, subs := 4, unit := .module, name := "hi_module_crc_errors", type := .u64, access := .ro }
/-- 0x5C03:mm `hi_module_retries` (R379). -/
def Ix.hiModuleRetries : Entry := { index := 0x5C03, subs := 4, unit := .module, name := "hi_module_retries", type := .u64, access := .ro }
/-- 0x5C04:mm `hi_module_repaired_lanes` (R379). -/
def Ix.hiModuleRepairedLanes : Entry := { index := 0x5C04, subs := 4, unit := .module, name := "hi_module_repaired_lanes", type := .u8, access := .ro }
/-- 0x5C05:mm `hi_module_down_count` (R379). -/
def Ix.hiModuleDownCount : Entry := { index := 0x5C05, subs := 4, unit := .module, name := "hi_module_down_count", type := .u32, access := .ro }
/-- 0x5C06:mm `hi_module_hold` (R379). -/
def Ix.hiModuleHold : Entry := { index := 0x5C06, subs := 4, unit := .module, name := "hi_module_hold", type := .u8, access := .rw, apply := .k, hi := 1 }
/-- 0x5C08:00 `hi_min_rate` (R379). -/
def Ix.hiMinRate : Entry := { index := 0x5C08, unit := .package, name := "hi_min_rate", type := .u8, access := .rw, apply := .s, dflt := 32 }
/-- 0x5C09:00 `hi_retry_rounds` (R379). -/
def Ix.hiRetryRounds : Entry := { index := 0x5C09, unit := .package, name := "hi_retry_rounds", type := .u8, access := .rw, apply := .s, dflt := 3, lo := 1, hi := 8 }
/-- 0x5C0F:00 `hi_event_ring_enable` (R379). -/
def Ix.hiEventRingEnable : Entry := { index := 0x5C0F, unit := .package, name := "hi_event_ring_enable", type := .u8, access := .rw, apply := .i, hi := 1 }
/-- 0x5C10:00 `hi_event_ring_base` (R379). -/
def Ix.hiEventRingBase : Entry := { index := 0x5C10, unit := .package, name := "hi_event_ring_base", type := .u64, access := .rw, apply := .s, hi := 18446744073709551615, step := 64 }
/-- 0x5C11:00 `hi_event_ring_slots` (R379). -/
def Ix.hiEventRingSlots : Entry := { index := 0x5C11, unit := .package, name := "hi_event_ring_slots", type := .u32, access := .rw, apply := .s, dflt := 1024, lo := 64, hi := 65536, pow2 := true }
/-- 0x5C12:00 `hi_event_counter_addr` (R379). -/
def Ix.hiEventCounterAddr : Entry := { index := 0x5C12, unit := .package, name := "hi_event_counter_addr", type := .u64, access := .rw, apply := .s, hi := 18446744073709551615, step := 8 }
/-- 0x5C13:00 `hi_event_mask` (R379). -/
def Ix.hiEventMask : Entry := { index := 0x5C13, unit := .package, name := "hi_event_mask", type := .u32, access := .rw, apply := .i }
/-- 0x5C14:00 `hi_events_written` (R379). -/
def Ix.hiEventsWritten : Entry := { index := 0x5C14, unit := .package, name := "hi_events_written", type := .u64, access := .ro }
/-- 0x5C15:00 `hi_events_dropped` (R379). -/
def Ix.hiEventsDropped : Entry := { index := 0x5C15, unit := .package, name := "hi_events_dropped", type := .u64, access := .ro }
/-- 0x5C16:00 `hi_host_reads` (R379). -/
def Ix.hiHostReads : Entry := { index := 0x5C16, unit := .package, name := "hi_host_reads", type := .u64, access := .ro }
/-- 0x5C17:00 `hi_host_writes` (R379). -/
def Ix.hiHostWrites : Entry := { index := 0x5C17, unit := .package, name := "hi_host_writes", type := .u64, access := .ro }
/-- 0x5C18:00 `hi_host_errors` (R379). -/
def Ix.hiHostErrors : Entry := { index := 0x5C18, unit := .package, name := "hi_host_errors", type := .u64, access := .ro }
/-- 0x5C19:00 `hi_host_requests` (R379). -/
def Ix.hiHostRequests : Entry := { index := 0x5C19, unit := .package, name := "hi_host_requests", type := .u64, access := .ro }
/-- 0x5C1A:00 `hi_sideband_dropped` (R379). -/
def Ix.hiSidebandDropped : Entry := { index := 0x5C1A, unit := .package, name := "hi_sideband_dropped", type := .u32, access := .ro }
/-- 0x5C1B:00 `hi_last_status` (R379). -/
def Ix.hiLastStatus : Entry := { index := 0x5C1B, unit := .package, name := "hi_last_status", type := .u16, access := .ro }
/-- 0x5C20:00 `hi_counters_clear` (R379). -/
def Ix.hiCountersClear : Entry := { index := 0x5C20, unit := .package, name := "hi_counters_clear", type := .u8, access := .wo, apply := .i, lo := 1, hi := 1 }
/-- The entries of spec/15_host_management.md. -/
def hiEntries : List Entry :=
  [Ix.hiModuleState, Ix.hiModuleRate, Ix.hiModuleCrcErrors, Ix.hiModuleRetries, Ix.hiModuleRepairedLanes,
   Ix.hiModuleDownCount, Ix.hiModuleHold, Ix.hiMinRate, Ix.hiRetryRounds, Ix.hiEventRingEnable,
   Ix.hiEventRingBase, Ix.hiEventRingSlots, Ix.hiEventCounterAddr, Ix.hiEventMask, Ix.hiEventsWritten,
   Ix.hiEventsDropped, Ix.hiHostReads, Ix.hiHostWrites, Ix.hiHostErrors, Ix.hiHostRequests,
   Ix.hiSidebandDropped, Ix.hiLastStatus, Ix.hiCountersClear]

/-- 0x6000:pp `pc_region_mask` (R431). -/
def Ix.pcRegionMask : Entry := { index := 0x6000, subs := 12, unit := .partition, name := "pc_region_mask", type := .u16, access := .rw, apply := .s }
/-- 0x6001:pp `pc_rack_partition` (R431). -/
def Ix.pcRackPartition : Entry := { index := 0x6001, subs := 12, unit := .partition, name := "pc_rack_partition", type := .blob, access := .rw, apply := .s }
/-- 0x6002:pp `pc_command` (R431). -/
def Ix.pcCommand : Entry := { index := 0x6002, subs := 12, unit := .partition, name := "pc_command", type := .u8, access := .wo, apply := .i }
/-- 0x6003:pp `pc_program_table_base` (R431). -/
def Ix.pcProgramTableBase : Entry := { index := 0x6003, subs := 12, unit := .partition, name := "pc_program_table_base", type := .u64, access := .rw, apply := .s }
/-- 0x6004:pp `pc_step_watchdog_us` (R431). -/
def Ix.pcStepWatchdogUs : Entry := { index := 0x6004, subs := 12, unit := .partition, name := "pc_step_watchdog_us", type := .u32, access := .rw, apply := .b, dflt := 20000, lo := 100, hi := 10000000 }
/-- 0x6005:pp `pc_share` (R431). -/
def Ix.pcShare : Entry := { index := 0x6005, subs := 12, unit := .partition, name := "pc_share", type := .u16, access := .rw, apply := .i, dflt := 100, lo := 1, hi := 10000 }
/-- 0x6006:pp `pc_regulators` (R431). -/
def Ix.pcRegulators : Entry := { index := 0x6006, subs := 12, unit := .partition, name := "pc_regulators", type := .blob, access := .rw, apply := .b }
/-- 0x6007:pp `pc_auto_start` (R431). -/
def Ix.pcAutoStart : Entry := { index := 0x6007, subs := 12, unit := .partition, name := "pc_auto_start", type := .u8, access := .rw, apply := .i, dflt := 1, hi := 1 }
/-- 0x6008:pp `pc_state` (R431). -/
def Ix.pcState : Entry := { index := 0x6008, subs := 12, unit := .partition, name := "pc_state", type := .u8, access := .ro }
/-- 0x6009:pp `pc_last_status` (R431). -/
def Ix.pcLastStatus : Entry := { index := 0x6009, subs := 12, unit := .partition, name := "pc_last_status", type := .u16, access := .ro }
/-- 0x600A:pp `pc_step_number` (R431). -/
def Ix.pcStepNumber : Entry := { index := 0x600A, subs := 12, unit := .partition, name := "pc_step_number", type := .u32, access := .ro }
/-- 0x6010:pp `pc_engine_ns` (R431). -/
def Ix.pcEngineNs : Entry := { index := 0x6010, subs := 12, unit := .partition, name := "pc_engine_ns", type := .u64, access := .ro }
/-- 0x6011:pp `pc_steps_completed` (R431). -/
def Ix.pcStepsCompleted : Entry := { index := 0x6011, subs := 12, unit := .partition, name := "pc_steps_completed", type := .u64, access := .ro }
/-- 0x6012:pp `pc_steps_failed` (R431). -/
def Ix.pcStepsFailed : Entry := { index := 0x6012, subs := 12, unit := .partition, name := "pc_steps_failed", type := .u64, access := .ro }
/-- 0x6013:pp `pc_resets` (R431). -/
def Ix.pcResets : Entry := { index := 0x6013, subs := 12, unit := .partition, name := "pc_resets", type := .u32, access := .ro }
/-- 0x6014:pp `pc_preemptions` (R431). -/
def Ix.pcPreemptions : Entry := { index := 0x6014, subs := 12, unit := .partition, name := "pc_preemptions", type := .u32, access := .ro }
/-- 0x6015:pp `pc_regulator_wait_ns` (R431). -/
def Ix.pcRegulatorWaitNs : Entry := { index := 0x6015, subs := 12, unit := .partition, name := "pc_regulator_wait_ns", type := .blob, access := .ro }
/-- 0x6016:pp `pc_reset_duration_us` (R431). -/
def Ix.pcResetDurationUs : Entry := { index := 0x6016, subs := 12, unit := .partition, name := "pc_reset_duration_us", type := .u32, access := .ro }
/-- 0x6018:00 `pc_region_owner` (R431). -/
def Ix.pcRegionOwner : Entry := { index := 0x6018, unit := .package, name := "pc_region_owner", type := .blob, access := .ro }
/-- 0x6020:00 `pc_counters_clear` (R431). -/
def Ix.pcCountersClear : Entry := { index := 0x6020, unit := .package, name := "pc_counters_clear", type := .u8, access := .wo, apply := .i, lo := 1, hi := 1 }
/-- The entries of spec/17_partitions_reset.md. -/
def pcEntries : List Entry :=
  [Ix.pcRegionMask, Ix.pcRackPartition, Ix.pcCommand, Ix.pcProgramTableBase, Ix.pcStepWatchdogUs,
   Ix.pcShare, Ix.pcRegulators, Ix.pcAutoStart, Ix.pcState, Ix.pcLastStatus,
   Ix.pcStepNumber, Ix.pcEngineNs, Ix.pcStepsCompleted, Ix.pcStepsFailed, Ix.pcResets,
   Ix.pcPreemptions, Ix.pcRegulatorWaitNs, Ix.pcResetDurationUs, Ix.pcRegionOwner, Ix.pcCountersClear]

/-- 0x6400:pp `ru_last_closed_step` (R464). -/
def Ix.ruLastClosedStep : Entry := { index := 0x6400, subs := 12, unit := .partition, name := "ru_last_closed_step", type := .u32, access := .ro }
/-- 0x6401:pp `ru_audit_seed` (R464). -/
def Ix.ruAuditSeed : Entry := { index := 0x6401, subs := 12, unit := .partition, name := "ru_audit_seed", type := .u64, access := .rw, apply := .b }
/-- 0x6402:pp `ru_rollback_limit` (R464). -/
def Ix.ruRollbackLimit : Entry := { index := 0x6402, subs := 12, unit := .partition, name := "ru_rollback_limit", type := .u8, access := .rw, apply := .b, dflt := 3, lo := 1, hi := 8 }
/-- 0x6403:pp `ru_drain_on_confirmed` (R464). -/
def Ix.ruDrainOnConfirmed : Entry := { index := 0x6403, subs := 12, unit := .partition, name := "ru_drain_on_confirmed", type := .u8, access := .rw, apply := .k, dflt := 1, hi := 1 }
/-- 0x6404:pp `ru_capture_base` (R464). -/
def Ix.ruCaptureBase : Entry := { index := 0x6404, subs := 12, unit := .partition, name := "ru_capture_base", type := .u64, access := .rw, apply := .s, hi := 18446744073709551615, step := 4096 }
/-- 0x6405:pp `ru_capture_bytes` (R464). -/
def Ix.ruCaptureBytes : Entry := { index := 0x6405, subs := 12, unit := .partition, name := "ru_capture_bytes", type := .u64, access := .rw, apply := .s, hi := 18446744073709551615, step := 4096 }
/-- 0x6420:pp `audit_fraction` (R464). -/
def Ix.auditFraction : Entry := { index := 0x6420, subs := 12, unit := .partition, name := "audit_fraction", type := .u8, access := .rw, apply := .b, dflt := 2 }
/-- 0x6421:pp `ru_tiles_audited` (R464). -/
def Ix.ruTilesAudited : Entry := { index := 0x6421, subs := 12, unit := .partition, name := "ru_tiles_audited", type := .u64, access := .ro }
/-- 0x6422:pp `ru_tiles_unaudited` (R464). -/
def Ix.ruTilesUnaudited : Entry := { index := 0x6422, subs := 12, unit := .partition, name := "ru_tiles_unaudited", type := .u64, access := .ro }
/-- 0x6423:pp `ru_disagreements` (R464). -/
def Ix.ruDisagreements : Entry := { index := 0x6423, subs := 12, unit := .partition, name := "ru_disagreements", type := .u64, access := .ro }
/-- 0x6424:pp `ru_confirmed_wrong` (R464). -/
def Ix.ruConfirmedWrong : Entry := { index := 0x6424, subs := 12, unit := .partition, name := "ru_confirmed_wrong", type := .u32, access := .ro }
/-- 0x6425:pp `ru_auditor_outvoted` (R464). -/
def Ix.ruAuditorOutvoted : Entry := { index := 0x6425, subs := 12, unit := .partition, name := "ru_auditor_outvoted", type := .u32, access := .ro }
/-- 0x6426:pp `ru_rollbacks` (R464). -/
def Ix.ruRollbacks : Entry := { index := 0x6426, subs := 12, unit := .partition, name := "ru_rollbacks", type := .u32, access := .ro }
/-- 0x6427:pp `ru_audit_tail_ns` (R464). -/
def Ix.ruAuditTailNs : Entry := { index := 0x6427, subs := 12, unit := .partition, name := "ru_audit_tail_ns", type := .u64, access := .ro }
/-- 0x6428:pp `ru_last_status` (R464). -/
def Ix.ruLastStatus : Entry := { index := 0x6428, subs := 12, unit := .partition, name := "ru_last_status", type := .u16, access := .ro }
/-- 0x6430:00 `ru_digest_period_steps` (R464). -/
def Ix.ruDigestPeriodSteps : Entry := { index := 0x6430, unit := .package, name := "ru_digest_period_steps", type := .u16, access := .rw, apply := .i, dflt := 16, lo := 1, hi := 65535 }
/-- 0x6431:00 `ru_replica_table` (R464). -/
def Ix.ruReplicaTable : Entry := { index := 0x6431, unit := .package, name := "ru_replica_table", type := .blob, access := .rw, apply := .k, kept := true }
/-- 0x6432:00 `ru_digest_rounds` (R464). -/
def Ix.ruDigestRounds : Entry := { index := 0x6432, unit := .package, name := "ru_digest_rounds", type := .u64, access := .ro }
/-- 0x6433:00 `ru_digest_mismatches` (R464). -/
def Ix.ruDigestMismatches : Entry := { index := 0x6433, unit := .package, name := "ru_digest_mismatches", type := .u32, access := .ro }
/-- 0x6434:00 `ru_digest_timeout_ms` (R464). -/
def Ix.ruDigestTimeoutMs : Entry := { index := 0x6434, unit := .package, name := "ru_digest_timeout_ms", type := .u16, access := .rw, apply := .i, dflt := 100, lo := 10, hi := 10000 }
/-- 0x6435:00 `ru_digest_peers_missed` (R464). -/
def Ix.ruDigestPeersMissed : Entry := { index := 0x6435, unit := .package, name := "ru_digest_peers_missed", type := .u64, access := .ro }
/-- 0x6440:00 `ru_history` (R464). -/
def Ix.ruHistory : Entry := { index := 0x6440, unit := .package, name := "ru_history", type := .domain, access := .ro }
/-- 0x6441:00 `ru_history_count` (R464). -/
def Ix.ruHistoryCount : Entry := { index := 0x6441, unit := .package, name := "ru_history_count", type := .u32, access := .ro }
/-- 0x6442:00 `ru_package_flag` (R464). -/
def Ix.ruPackageFlag : Entry := { index := 0x6442, unit := .package, name := "ru_package_flag", type := .u8, access := .ro, kept := true }
/-- 0x6443:00 `ru_package_flag_clear` (R464). -/
def Ix.ruPackageFlagClear : Entry := { index := 0x6443, unit := .package, name := "ru_package_flag_clear", type := .u8, access := .wo, apply := .k, lo := 1, hi := 1 }
/-- 0x6444:00 `ru_requalify_remaining_s` (R464). -/
def Ix.ruRequalifyRemainingS : Entry := { index := 0x6444, unit := .package, name := "ru_requalify_remaining_s", type := .u32, access := .ro }
/-- 0x6450:00 `ru_drydown` (R464). -/
def Ix.ruDrydown : Entry := { index := 0x6450, unit := .package, name := "ru_drydown", type := .u8, access := .wo, apply := .k, lo := 1, hi := 1 }
/-- 0x6451:00 `ru_drydown_state` (R464). -/
def Ix.ruDrydownState : Entry := { index := 0x6451, unit := .package, name := "ru_drydown_state", type := .u8, access := .ro }
/-- 0x6452:00 `ru_declare_lost` (R464). -/
def Ix.ruDeclareLost : Entry := { index := 0x6452, unit := .package, name := "ru_declare_lost", type := .blob, access := .wo, apply := .i }
/-- 0x6460:00 `ru_counters_clear` (R464). -/
def Ix.ruCountersClear : Entry := { index := 0x6460, unit := .package, name := "ru_counters_clear", type := .u8, access := .wo, apply := .i, lo := 1, hi := 1 }
/-- The entries of spec/18_reliability.md. -/
def ruEntries : List Entry :=
  [Ix.ruLastClosedStep, Ix.ruAuditSeed, Ix.ruRollbackLimit, Ix.ruDrainOnConfirmed, Ix.ruCaptureBase,
   Ix.ruCaptureBytes, Ix.auditFraction, Ix.ruTilesAudited, Ix.ruTilesUnaudited, Ix.ruDisagreements,
   Ix.ruConfirmedWrong, Ix.ruAuditorOutvoted, Ix.ruRollbacks, Ix.ruAuditTailNs, Ix.ruLastStatus,
   Ix.ruDigestPeriodSteps, Ix.ruReplicaTable, Ix.ruDigestRounds, Ix.ruDigestMismatches, Ix.ruDigestTimeoutMs,
   Ix.ruDigestPeersMissed, Ix.ruHistory, Ix.ruHistoryCount, Ix.ruPackageFlag, Ix.ruPackageFlagClear,
   Ix.ruRequalifyRemainingS, Ix.ruDrydown, Ix.ruDrydownState, Ix.ruDeclareLost, Ix.ruCountersClear]

/-- 0x6800:00 `bt_start_state` (R482). -/
def Ix.btStartState : Entry := { index := 0x6800, unit := .package, name := "bt_start_state", type := .u8, access := .ro }
/-- 0x6801:00 `bt_start_kind` (R482). -/
def Ix.btStartKind : Entry := { index := 0x6801, unit := .package, name := "bt_start_kind", type := .u8, access := .ro }
/-- 0x6802:00 `bt_start_phase_ms` (R482). -/
def Ix.btStartPhaseMs : Entry := { index := 0x6802, unit := .package, name := "bt_start_phase_ms", type := .blob, access := .ro }
/-- 0x6803:00 `bt_start_total_ms` (R482). -/
def Ix.btStartTotalMs : Entry := { index := 0x6803, unit := .package, name := "bt_start_total_ms", type := .u32, access := .ro }
/-- 0x6804:00 `bt_firmware_source` (R482). -/
def Ix.btFirmwareSource : Entry := { index := 0x6804, unit := .package, name := "bt_firmware_source", type := .u8, access := .ro }
/-- 0x6805:00 `bt_boot_attempts` (R482). -/
def Ix.btBootAttempts : Entry := { index := 0x6805, unit := .package, name := "bt_boot_attempts", type := .u8, access := .ro }
/-- 0x6806:00 `bt_next_test` (R482). -/
def Ix.btNextTest : Entry := { index := 0x6806, unit := .package, name := "bt_next_test", type := .u8, access := .rw, apply := .k, hi := 1, kept := true }
/-- 0x6807:00 `bt_last_test` (R482). -/
def Ix.btLastTest : Entry := { index := 0x6807, unit := .package, name := "bt_last_test", type := .u8, access := .ro }
/-- 0x6808:00 `bt_usable_cells` (R482). -/
def Ix.btUsableCells : Entry := { index := 0x6808, unit := .package, name := "bt_usable_cells", type := .u16, access := .ro }
/-- 0x6809:00 `bt_hidden_blocks` (R482). -/
def Ix.btHiddenBlocks : Entry := { index := 0x6809, unit := .package, name := "bt_hidden_blocks", type := .blob, access := .ro }
/-- 0x680A:00 `bt_hidden_regions` (R482). -/
def Ix.btHiddenRegions : Entry := { index := 0x680A, unit := .package, name := "bt_hidden_regions", type := .u16, access := .ro }
/-- 0x680C:00 `bt_defect_list` (R482). -/
def Ix.btDefectList : Entry := { index := 0x680C, unit := .package, name := "bt_defect_list", type := .domain, access := .ro }
/-- 0x680D:00 `bt_defect_count` (R482). -/
def Ix.btDefectCount : Entry := { index := 0x680D, unit := .package, name := "bt_defect_count", type := .u16, access := .ro }
/-- 0x680E:00 `bt_defect_remove` (R482). -/
def Ix.btDefectRemove : Entry := { index := 0x680E, unit := .package, name := "bt_defect_remove", type := .u16, access := .wo, apply := .k }
/-- 0x680F:00 `bt_new_defects` (R482). -/
def Ix.btNewDefects : Entry := { index := 0x680F, unit := .package, name := "bt_new_defects", type := .u16, access := .ro }
/-- 0x6810:00 `bt_restart` (R482). -/
def Ix.btRestart : Entry := { index := 0x6810, unit := .package, name := "bt_restart", type := .u8, access := .wo, apply := .k, lo := 1, hi := 2 }
/-- 0x6811:00 `bt_flash_state` (R482). -/
def Ix.btFlashState : Entry := { index := 0x6811, unit := .package, name := "bt_flash_state", type := .blob, access := .ro }
/-- 0x6812:00 `bt_powered_s` (R482). -/
def Ix.btPoweredS : Entry := { index := 0x6812, unit := .package, name := "bt_powered_s", type := .u32, access := .ro }
/-- 0x6813:00 `bt_last_status` (R482). -/
def Ix.btLastStatus : Entry := { index := 0x6813, unit := .package, name := "bt_last_status", type := .u16, access := .ro }
/-- The entries of spec/19_bringup.md. -/
def btEntries : List Entry :=
  [Ix.btStartState, Ix.btStartKind, Ix.btStartPhaseMs, Ix.btStartTotalMs, Ix.btFirmwareSource,
   Ix.btBootAttempts, Ix.btNextTest, Ix.btLastTest, Ix.btUsableCells, Ix.btHiddenBlocks,
   Ix.btHiddenRegions, Ix.btDefectList, Ix.btDefectCount, Ix.btDefectRemove, Ix.btNewDefects,
   Ix.btRestart, Ix.btFlashState, Ix.btPoweredS, Ix.btLastStatus]

/-- 0x6900:00 `bt_identity_digest` (R519). -/
def Ix.btIdentityDigest : Entry := { index := 0x6900, unit := .package, name := "bt_identity_digest", type := .blob, access := .ro }
/-- 0x6901:00 `bt_identity_ed25519` (R519). -/
def Ix.btIdentityEd25519 : Entry := { index := 0x6901, unit := .package, name := "bt_identity_ed25519", type := .blob, access := .ro }
/-- 0x6902:00 `bt_identity_mldsa` (R519). -/
def Ix.btIdentityMldsa : Entry := { index := 0x6902, unit := .package, name := "bt_identity_mldsa", type := .blob, access := .ro }
/-- 0x6903:00 `bt_identity_certificate` (R519). -/
def Ix.btIdentityCertificate : Entry := { index := 0x6903, unit := .package, name := "bt_identity_certificate", type := .blob, access := .ro }
/-- 0x6910:00 `bt_customer_keys` (R519). -/
def Ix.btCustomerKeys : Entry := { index := 0x6910, unit := .package, name := "bt_customer_keys", type := .blob, access := .rw, apply := .k, kept := true }
/-- 0x6912:00 `bt_rack_key` (R519). -/
def Ix.btRackKey : Entry := { index := 0x6912, unit := .package, name := "bt_rack_key", type := .blob, access := .wo, apply := .k, kept := true }
/-- 0x6913:00 `bt_rack_key_epoch` (R519). -/
def Ix.btRackKeyEpoch : Entry := { index := 0x6913, unit := .package, name := "bt_rack_key_epoch", type := .u32, access := .ro }
/-- 0x6914:00 `bt_licence_install` (R519). -/
def Ix.btLicenceInstall : Entry := { index := 0x6914, unit := .package, name := "bt_licence_install", type := .blob, access := .wo, apply := .k }
/-- 0x6915:00 `bt_licence_remove` (R519). -/
def Ix.btLicenceRemove : Entry := { index := 0x6915, unit := .package, name := "bt_licence_remove", type := .u8, access := .wo, apply := .k, hi := 15 }
/-- 0x6916:00 `bt_licences` (R519). -/
def Ix.btLicences : Entry := { index := 0x6916, unit := .package, name := "bt_licences", type := .blob, access := .ro }
/-- 0x6917:00 `bt_features_granted` (R519). -/
def Ix.btFeaturesGranted : Entry := { index := 0x6917, unit := .package, name := "bt_features_granted", type := .u16, access := .ro }
/-- 0x6920:00 `bt_firmware_slot` (R519). -/
def Ix.btFirmwareSlot : Entry := { index := 0x6920, unit := .package, name := "bt_firmware_slot", type := .domain, access := .rw, apply := .k }
/-- 0x6921:00 `bt_firmware_commit` (R519). -/
def Ix.btFirmwareCommit : Entry := { index := 0x6921, unit := .package, name := "bt_firmware_commit", type := .u8, access := .wo, apply := .k, lo := 1, hi := 1 }
/-- 0x6922:00 `bt_security_epoch` (R519). -/
def Ix.btSecurityEpoch : Entry := { index := 0x6922, unit := .package, name := "bt_security_epoch", type := .u32, access := .ro }
/-- 0x6930:00 `bt_attest_nonce` (R519). -/
def Ix.btAttestNonce : Entry := { index := 0x6930, unit := .package, name := "bt_attest_nonce", type := .blob, access := .wo, apply := .i }
/-- 0x6931:00 `bt_attest_report` (R519). -/
def Ix.btAttestReport : Entry := { index := 0x6931, unit := .package, name := "bt_attest_report", type := .blob, access := .ro }
/-- The entries of spec/21_security_licences.md. -/
def idEntries : List Entry :=
  [Ix.btIdentityDigest, Ix.btIdentityEd25519, Ix.btIdentityMldsa, Ix.btIdentityCertificate, Ix.btCustomerKeys,
   Ix.btRackKey, Ix.btRackKeyEpoch, Ix.btLicenceInstall, Ix.btLicenceRemove, Ix.btLicences,
   Ix.btFeaturesGranted, Ix.btFirmwareSlot, Ix.btFirmwareCommit, Ix.btSecurityEpoch, Ix.btAttestNonce,
   Ix.btAttestReport]

/-- 0x7000:00 `pw_input_voltage_mv` (R503). -/
def Ix.pwInputVoltageMv : Entry := { index := 0x7000, unit := .package, name := "pw_input_voltage_mv", type := .u32, access := .ro }
/-- 0x7001:00 `pw_input_current_ma` (R503). -/
def Ix.pwInputCurrentMa : Entry := { index := 0x7001, unit := .package, name := "pw_input_current_ma", type := .u32, access := .ro }
/-- 0x7002:00 `pw_input_power_w` (R503). -/
def Ix.pwInputPowerW : Entry := { index := 0x7002, unit := .package, name := "pw_input_power_w", type := .u32, access := .ro }
/-- 0x7003:00 `pw_average_power_w` (R503). -/
def Ix.pwAveragePowerW : Entry := { index := 0x7003, unit := .package, name := "pw_average_power_w", type := .u32, access := .ro }
/-- 0x7004:00 `pw_avg_limit_w` (R503). -/
def Ix.pwAvgLimitW : Entry := { index := 0x7004, unit := .package, name := "pw_avg_limit_w", type := .u32, access := .rw, apply := .i, dflt := 2800, lo := 1000, hi := 2800, kept := true }
/-- 0x7005:00 `pw_avg_window_ms` (R503). -/
def Ix.pwAvgWindowMs : Entry := { index := 0x7005, unit := .package, name := "pw_avg_window_ms", type := .u32, access := .rw, apply := .i, dflt := 2000, lo := 500, hi := 10000, kept := true }
/-- 0x7006:00 `pw_rack_cap_w` (R503). -/
def Ix.pwRackCapW : Entry := { index := 0x7006, unit := .package, name := "pw_rack_cap_w", type := .u32, access := .rw, apply := .i, dflt := 2800 }
/-- 0x7007:00 `pw_cap_epoch` (R503). -/
def Ix.pwCapEpoch : Entry := { index := 0x7007, unit := .package, name := "pw_cap_epoch", type := .u32, access := .ro }
/-- 0x7008:00 `pw_cap_hold_ms` (R503). -/
def Ix.pwCapHoldMs : Entry := { index := 0x7008, unit := .package, name := "pw_cap_hold_ms", type := .u32, access := .ro }
/-- 0x7009:00 `pw_cap_fallback_w` (R503). -/
def Ix.pwCapFallbackW : Entry := { index := 0x7009, unit := .package, name := "pw_cap_fallback_w", type := .u32, access := .rw, apply := .i }
/-- 0x700A:00 `pw_cap_state` (R503). -/
def Ix.pwCapState : Entry := { index := 0x700A, unit := .package, name := "pw_cap_state", type := .u8, access := .ro }
/-- 0x700B:00 `pw_cap_achieved_w` (R503). -/
def Ix.pwCapAchievedW : Entry := { index := 0x700B, unit := .package, name := "pw_cap_achieved_w", type := .u32, access := .ro }
/-- 0x700C:00 `pw_sag_warn_mv` (R503). -/
def Ix.pwSagWarnMv : Entry := { index := 0x700C, unit := .package, name := "pw_sag_warn_mv", type := .u32, access := .rw, apply := .i, dflt := 50000, lo := 48000, hi := 54000, kept := true }
/-- 0x700D:00 `pw_sag_power_w` (R503). -/
def Ix.pwSagPowerW : Entry := { index := 0x700D, unit := .package, name := "pw_sag_power_w", type := .u32, access := .rw, apply := .i, dflt := 2000, lo := 800, hi := 2800, kept := true }
/-- 0x700E:00 `pw_power_paused` (R503). -/
def Ix.pwPowerPaused : Entry := { index := 0x700E, unit := .package, name := "pw_power_paused", type := .u16, access := .ro }
/-- 0x7010:00 `pw_throttle_reasons` (R503). -/
def Ix.pwThrottleReasons : Entry := { index := 0x7010, unit := .package, name := "pw_throttle_reasons", type := .blob, access := .ro }
/-- 0x7011:00 `pw_rack_time_ns` (R503). -/
def Ix.pwRackTimeNs : Entry := { index := 0x7011, unit := .package, name := "pw_rack_time_ns", type := .u64, access := .ro }
/-- 0x7012:00 `pw_rack_tick` (R503). -/
def Ix.pwRackTick : Entry := { index := 0x7012, unit := .package, name := "pw_rack_tick", type := .u64, access := .ro }
/-- 0x7013:00 `pw_ref_state` (R503). -/
def Ix.pwRefState : Entry := { index := 0x7013, unit := .package, name := "pw_ref_state", type := .u8, access := .ro }
/-- 0x7020:rr `pw_region_temp` (R503). -/
def Ix.pwRegionTemp : Entry := { index := 0x7020, subs := 12, unit := .region, name := "pw_region_temp", type := .blob, access := .ro }
/-- 0x7021:rr `pw_region_voltage` (R503). -/
def Ix.pwRegionVoltage : Entry := { index := 0x7021, subs := 12, unit := .region, name := "pw_region_voltage", type := .blob, access := .ro }
/-- 0x7022:rr `pw_region_process` (R503). -/
def Ix.pwRegionProcess : Entry := { index := 0x7022, subs := 12, unit := .region, name := "pw_region_process", type := .i32, access := .ro }
/-- 0x7023:rr `pw_island_freq_khz` (R503). -/
def Ix.pwIslandFreqKhz : Entry := { index := 0x7023, subs := 12, unit := .region, name := "pw_island_freq_khz", type := .u32, access := .ro }
/-- 0x7024:rr `pw_island_stretch_ns` (R503). -/
def Ix.pwIslandStretchNs : Entry := { index := 0x7024, subs := 12, unit := .region, name := "pw_island_stretch_ns", type := .u64, access := .ro }
/-- 0x7025:rr `pw_region_power_w` (R503). -/
def Ix.pwRegionPowerW : Entry := { index := 0x7025, subs := 12, unit := .region, name := "pw_region_power_w", type := .u32, access := .ro }
/-- 0x7030:00 `pw_die_monitors` (R503). -/
def Ix.pwDieMonitors : Entry := { index := 0x7030, unit := .package, name := "pw_die_monitors", type := .blob, access := .ro }
/-- 0x7031:00 `pw_last_status` (R503). -/
def Ix.pwLastStatus : Entry := { index := 0x7031, unit := .package, name := "pw_last_status", type := .u16, access := .ro }
/-- 0x7040:00 `pw_counters_clear` (R503). -/
def Ix.pwCountersClear : Entry := { index := 0x7040, unit := .package, name := "pw_counters_clear", type := .u8, access := .wo, apply := .i, lo := 1, hi := 1 }
/-- The entries of spec/20_power_thermal.md. -/
def pwEntries : List Entry :=
  [Ix.pwInputVoltageMv, Ix.pwInputCurrentMa, Ix.pwInputPowerW, Ix.pwAveragePowerW, Ix.pwAvgLimitW,
   Ix.pwAvgWindowMs, Ix.pwRackCapW, Ix.pwCapEpoch, Ix.pwCapHoldMs, Ix.pwCapFallbackW,
   Ix.pwCapState, Ix.pwCapAchievedW, Ix.pwSagWarnMv, Ix.pwSagPowerW, Ix.pwPowerPaused,
   Ix.pwThrottleReasons, Ix.pwRackTimeNs, Ix.pwRackTick, Ix.pwRefState, Ix.pwRegionTemp,
   Ix.pwRegionVoltage, Ix.pwRegionProcess, Ix.pwIslandFreqKhz, Ix.pwIslandStretchNs, Ix.pwRegionPowerW,
   Ix.pwDieMonitors, Ix.pwLastStatus, Ix.pwCountersClear]

/-- Every entry of the dictionary, in ascending index (R388). -/
def entries : List Entry :=
  mpEntries ++ tpEntries ++ qrEntries ++ akEntries ++ erEntries ++ svEntries ++ scEntries ++ seEntries ++ wmEntries ++ tmEntries ++ dmEntries ++ tfEntries ++ msEntries ++ hiEntries ++ pcEntries ++ ruEntries ++ btEntries ++ idEntries ++ pwEntries

end Sys2Proof.Machine
end

