-- ==== Sys2Proof/Machine/Sha.lean ====
section
/-! DEFINITION. The two published functions the package computes over byte strings: CRC-32 (R308) and SHA-256, which
the spec names by its standard (assumption 9). -/

namespace Sys2Proof.Machine

/-- One bit of the reflected CRC-32 of R308. -/
def crcBit (c : BitVec 32) : BitVec 32 := if c.getLsbD 0 then (c >>> 1) ^^^ 0xEDB88320#32 else c >>> 1

/-- One byte of the CRC-32 of R308. -/
def crcByte (c : BitVec 32) (b : Byte) : BitVec 32 :=
  crcBit (crcBit (crcBit (crcBit (crcBit (crcBit (crcBit (crcBit (c ^^^ b.setWidth 32))))))))

/-- The CRC-32 of R308: initial value and final inversion all ones. -/
def crc32 (b : Bytes) : BitVec 32 := ~~~ (b.foldl crcByte 0xFFFFFFFF#32)

/-- Round constants of SHA-256. -/
def shaK : List (BitVec 32) :=
  [0x428a2f98#32, 0x71374491#32, 0xb5c0fbcf#32, 0xe9b5dba5#32, 0x3956c25b#32, 0x59f111f1#32, 0x923f82a4#32, 0xab1c5ed5#32,
   0xd807aa98#32, 0x12835b01#32, 0x243185be#32, 0x550c7dc3#32, 0x72be5d74#32, 0x80deb1fe#32, 0x9bdc06a7#32, 0xc19bf174#32,
   0xe49b69c1#32, 0xefbe4786#32, 0x0fc19dc6#32, 0x240ca1cc#32, 0x2de92c6f#32, 0x4a7484aa#32, 0x5cb0a9dc#32, 0x76f988da#32,
   0x983e5152#32, 0xa831c66d#32, 0xb00327c8#32, 0xbf597fc7#32, 0xc6e00bf3#32, 0xd5a79147#32, 0x06ca6351#32, 0x14292967#32,
   0x27b70a85#32, 0x2e1b2138#32, 0x4d2c6dfc#32, 0x53380d13#32, 0x650a7354#32, 0x766a0abb#32, 0x81c2c92e#32, 0x92722c85#32,
   0xa2bfe8a1#32, 0xa81a664b#32, 0xc24b8b70#32, 0xc76c51a3#32, 0xd192e819#32, 0xd6990624#32, 0xf40e3585#32, 0x106aa070#32,
   0x19a4c116#32, 0x1e376c08#32, 0x2748774c#32, 0x34b0bcb5#32, 0x391c0cb3#32, 0x4ed8aa4a#32, 0x5b9cca4f#32, 0x682e6ff3#32,
   0x748f82ee#32, 0x78a5636f#32, 0x84c87814#32, 0x8cc70208#32, 0x90befffa#32, 0xa4506ceb#32, 0xbef9a3f7#32, 0xc67178f2#32]

/-- The eight working words of SHA-256. -/
structure ShaState where
  a : BitVec 32 := 0x6a09e667#32
  b : BitVec 32 := 0xbb67ae85#32
  c : BitVec 32 := 0x3c6ef372#32
  d : BitVec 32 := 0xa54ff53a#32
  e : BitVec 32 := 0x510e527f#32
  f : BitVec 32 := 0x9b05688c#32
  g : BitVec 32 := 0x1f83d9ab#32
  h : BitVec 32 := 0x5be0cd19#32
  deriving DecidableEq, Repr

/-- One round of SHA-256 with its constant and schedule word. -/
def shaRound (s : ShaState) (kw : BitVec 32 × BitVec 32) : ShaState :=
  let s1 := s.e.rotateRight 6 ^^^ s.e.rotateRight 11 ^^^ s.e.rotateRight 25
  let ch := (s.e &&& s.f) ^^^ (~~~ s.e &&& s.g)
  let t1 := s.h + s1 + ch + kw.1 + kw.2
  let s0 := s.a.rotateRight 2 ^^^ s.a.rotateRight 13 ^^^ s.a.rotateRight 22
  let maj := (s.a &&& s.b) ^^^ (s.a &&& s.c) ^^^ (s.b &&& s.c)
  let t2 := s0 + maj
  { a := t1 + t2, b := s.a, c := s.b, d := s.c, e := s.d + t1, f := s.e, g := s.f, h := s.g }

/-- The next schedule word from the last sixteen (the newest first). -/
def shaNext (w : List (BitVec 32)) : BitVec 32 :=
  let w2 := w.getD 1 0
  let w7 := w.getD 6 0
  let w15 := w.getD 14 0
  let w16 := w.getD 15 0
  let s0 := w15.rotateRight 7 ^^^ w15.rotateRight 18 ^^^ (w15 >>> 3)
  let s1 := w2.rotateRight 17 ^^^ w2.rotateRight 19 ^^^ (w2 >>> 10)
  w16 + s0 + w7 + s1

/-- Extends the schedule, newest word first, by `n` words. -/
def shaExtend : Nat → List (BitVec 32) → List (BitVec 32)
  | 0, w => w
  | n + 1, w => shaExtend n (shaNext w :: w)

/-- A 32-bit word in the standard's big-endian order. -/
def beWord (b : Bytes) : BitVec 32 := b.foldl (fun w x => (w <<< 8) ||| x.setWidth 32) 0

/-- One 64-byte block of SHA-256. -/
def shaBlock (s : ShaState) (block : Bytes) : ShaState :=
  let w := shaExtend 48 ((records 4 block).map beWord).reverse
  let r := (shaK.zip w.reverse).foldl shaRound s
  { a := s.a + r.a, b := s.b + r.b, c := s.c + r.c, d := s.d + r.d,
    e := s.e + r.e, f := s.f + r.f, g := s.g + r.g, h := s.h + r.h }

/-- The `n` bytes of a number, most significant first. -/
def beBytes (n v : Nat) : Bytes := (leBytes n v).reverse

/-- The standard's padding of a message. -/
def shaPad (b : Bytes) : Bytes :=
  b ++ (0x80#8 :: List.replicate ((119 - b.length % 64) % 64) 0) ++ beBytes 8 (b.length * 8)

/-- SHA-256 of a byte string: 32 bytes. -/
def sha256 (b : Bytes) : Bytes :=
  let s := (records 64 (shaPad b)).foldl shaBlock {}
  [s.a, s.b, s.c, s.d, s.e, s.f, s.g, s.h].flatMap (fun w => beBytes 4 w.toNat)

/-- HMAC with SHA-256 under a key of at most 64 bytes. -/
def hmac256 (key b : Bytes) : Bytes :=
  let k := padTo key 64
  sha256 (k.map (· ^^^ 0x5C#8) ++ sha256 (k.map (· ^^^ 0x36#8) ++ b))

/-- HKDF's expansion: `n` blocks from number `i` on, each behind the one before it. -/
def hkdfBlocks (prk info : Bytes) : (n i : Nat) → (before : Bytes) → Bytes
  | 0, _, _ => []
  | n + 1, i, before =>
    let t := hmac256 prk (before ++ info ++ leBytes 1 i)
    t ++ hkdfBlocks prk info n (i + 1) t

/-- HKDF with SHA-256: `n` bytes. -/
def hkdf256 (salt material info : Bytes) (n : Nat) : Bytes :=
  (hkdfBlocks (hmac256 salt material) info ((n + 31) / 32) 1 []).take n

end Sys2Proof.Machine
end

