-- ==== Sys2Proof/Machine/State.lean ====
section
/-! DEFINITION. The state of the package as plain data: every register, table, queue, buffer, counter, mode and pin
the spec names. Scalar dictionary entries have their home in `Dict.vals` under index × 256 + subindex; every other
piece of state has a field of its own below. A field's default is its value at reset. -/

namespace Sys2Proof.Machine

/-- Why a step could stop with a fault. No command of the package stops so: an access to an absent address is
answered with a status (R239), and the model raises no fault. Safe: the type has no raising arm in use. -/
inductive Fault where
  /-- Kept for the host's interface; no meaning raises it (safe). -/
  | noneRaised
  deriving DecidableEq, Repr

/-- Why a step could be refused. -/
inductive Refusal where
  /-- Raised by an arm of `exec` whose command has no meaning in the model yet (safe). -/
  | notModelled (mnemonic : String)
  deriving DecidableEq, Repr

/-- A value of a dictionary entry (R381): a scalar, or the bytes of a STRING, BLOB or DOMAIN. -/
inductive DVal where
  | num (n : Nat)
  | bytes (b : Bytes)
  deriving DecidableEq, Repr

/-- The object dictionary: values in force that differ from the default, waiting shadows (R385), generations (R404),
and, for the package-wide class B entry, the value in force in each partition (R385). Keys: index × 256 + subindex. -/
structure Dict where
  vals : Tbl DVal := []
  shadows : Tbl DVal := []
  gens : Tbl Nat := []
  perPartition : Tbl Nat := []
  deriving DecidableEq, Repr

/-- Package memory (R237, R243): bytes that differ from zero, addresses rising; the stored 40-bit words that differ from
what their bytes and the fills make them, under address / 4; and the ranges that a poison fill has passed over (R258, R261),
whose words are poisoned where no entry says otherwise; and ranges whose bytes are undefined (R78: after a resume; R32: an operand
buffer that a pass has filled), numbered for the free values that stand for them. -/
structure Mem where
  data : List Host.Cell := []
  raw : Tbl StoredWord := []
  fills : List (Nat × Nat) := []
  stale : List (Nat × Nat × Nat) := []
  /-- Ranges made undefined so far: the model's own field, which numbers their free values. -/
  staleNo : Nat := 0
  deriving DecidableEq, Repr

/-- What becomes of a transaction's completion (R346, R351, R353). -/
inductive Purpose where
  /-- A store with nothing further to do. -/
  | plain
  /-- A pass's completion increment (R68), by its block and descriptor index. -/
  | signal (block descriptor : Nat)
  /-- An entry of the event ring or its counter's add (R369). -/
  | event
  /-- One side of a DMA piece's line (R299): 0 source, 1 destination. -/
  | dmaPiece (channel piece side : Nat)
  /-- A write of an asynchronous copy slot (R344). -/
  | copySlot (slot : Nat)
  /-- A write of serving state to host memory (R536), of SC (false) or SE (true). -/
  | serving (pp : Nat) (egress : Bool)
  /-- A RETIRE that resets the fence of a source (R354). -/
  | retire (source : Nat)
  /-- A request of the host die carried into the fabric (R363); its answer goes back to this source and tag. -/
  | hostRequest (srcUnit tag : Nat)
  /-- A row or an end notice of a dispatch (R151), by its pass. -/
  | route (pp block descriptor : Nat) (item : RouteItem)
  /-- A WRITE of another package that waits for a frontier or for the lender of its T2 unit (R261, R257); the request answered. -/
  | reply (request : Packet)
  deriving DecidableEq, Repr

/-- A transaction outstanding at this package, or a flagged one waiting at its source (`sent = false`). -/
structure Txn where
  /-- Source number of R335. -/
  source : Nat := 0
  /-- Partition whose source it is; 0xFF for a firmware source. -/
  partition : Nat := 0xFF
  /-- Destination package; `toHost` for host memory. -/
  dest : Nat := 0
  toHost : Bool := false
  /-- TYPE of R337. -/
  type : Nat := 1
  addr : Nat := 0
  data : Bytes := []
  /-- BYTES of R336: length, increment, or 4 × listed TSEQs. -/
  bytes : Nat := 0
  flag : Bool := false
  poison : Bool := false
  step : Nat := 0
  asize : Bool := false
  aop : Nat := 0
  tag : Nat := 0
  tseq : Nat := 0
  sent : Bool := true
  /-- The T2 address of this package that a store to a lender came through; 0 for none (R257). -/
  via : Nat := 0
  /-- A second source whose earlier stores a flagged transaction waits for (R68: the region's router of a block's ROUTE passes). -/
  behind : Option Nat := none
  resends : Nat := 0
  purpose : Purpose := .plain
  deriving DecidableEq, Repr

/-- One de-duplication entry of a sequence pair (R348): marked TSEQs at or above the floor with the answer each got:
`none` DONE, a previous value for an atomic, or an error status. -/
structure Dedup where
  incarnation : Nat := 0
  floor : Nat := 0
  marked : List Nat := []
  results : List (Nat × DWord) := []
  errors : List (Nat × Nat) := []
  deriving DecidableEq, Repr

/-- One entry of the violation log (R357). -/
structure Violation where
  timeNs : Nat := 0
  step : Nat := 0
  kind : Nat := 0
  port : Nat := 0xFF
  partner : Nat := 0xFFFF
  status : Nat := 0
  repeats : Nat := 0
  header : Bytes := []
  deriving DecidableEq, Repr

/-- An asynchronous copy slot (R344): whether it runs, whose copy it holds, the writes it will make
(address, bytes) and the W1 signal: destination package, counter address and increment. -/
structure CopySlot where
  busy : Bool := false
  partition : Nat := 0
  block : Nat := 0
  descriptor : Nat := 0
  step : Nat := 0
  writes : List (Nat × Bytes) := []
  signal : Option (Nat × Nat × Nat) := none
  deriving DecidableEq, Repr

/-- State of the memory-semantic layer (R335 to R360). -/
structure Ms where
  /-- Last TSEQ given, under destination × 2 + X-die; destination 1,024 is the host die (R348, R364). -/
  tseq : Tbl Nat := []
  /-- Transactions outstanding or waiting, oldest first. -/
  txns : List Txn := []
  /-- Completions at the source that have not been acted on yet: the transaction and its status. -/
  failed : List (Txn × Nat) := []
  /-- Next TAG of R336. -/
  nextTag : Nat := 0
  /-- Sources with a broken fence (R353). -/
  broken : List Nat := []
  /-- TSEQs whose outcome is unresolved (R354): source, destination, TSEQ. -/
  unresolved : List (Nat × Nat × Nat) := []
  /-- De-duplication entries under source package × 2 + X-die (R348). -/
  dedup : Tbl Dedup := []
  /-- The last 64 violation entries, oldest first (R357). -/
  violations : List Violation := []
  /-- Copy slots 0–255 (R344). -/
  slots : Tbl CopySlot := []
  /-- Reads of host memory and of other packages so far: the model's own fields, which number the free values of
  `Config.hostRead` and `Config.remoteRead`. -/
  hostReads : Nat := 0
  remoteReads : Nat := 0
  deriving DecidableEq, Repr

/-- One entry of the event ring (R368). -/
structure EventEntry where
  timeNs : Nat := 0
  step : Nat := 0
  code : Nat := 0
  partition : Nat := 0xFF
  unit : Nat := 0xFFFFFFFF
  detail : Nat := 0
  deriving DecidableEq, Repr

/-- State of the Host Interface beside its entries (R368, R369). -/
structure Hi where
  /-- Events waiting for room or for the ring to be enabled, oldest first, at most 1,024. -/
  queue : List EventEntry := []
  /-- Sequence number of the next entry. -/
  seq : Nat := 0
  /-- Entries written since the last flagged add. -/
  unannounced : Nat := 0
  /-- Events dropped since the last 0x0F07 entry. -/
  unreported : Nat := 0
  /-- EVENT_CONSUMED, control-window address 0x3FF0_0200_0000 (R369). -/
  consumed : Nat := 0
  deriving DecidableEq, Repr

/-- A RESPONSE body (R400). -/
structure Response where
  requestId : Nat := 0
  abort : Nat := 0
  status : Nat := 0
  type : Nat := 0
  pending : Bool := false
  generation : Nat := 0
  total : Nat := 0
  data : Bytes := []
  deriving DecidableEq, Repr

/-- An open transfer of a session (R403): its entry, total length, the segments placed, newest last, and the time of the
last one. -/
structure Transfer where
  number : Nat := 0
  index : Nat := 0
  subindex : Nat := 0
  total : Nat := 0
  segments : List (Nat × Bytes) := []
  lastNs : Nat := 0
  deriving DecidableEq, Repr

/-- An open session (R390 to R408): `highest` and `seen` the accepted sequence window of R399, `lastNs` the time of its last accepted
datagram. -/
structure Session where
  number : Nat := 0
  role : Nat := 1
  transport : Nat := 2
  client : Nat := 0
  credential : Nat := 0xFFFF
  level : Nat := 0
  /-- The 88 key bytes of R395: client and package direction key, client and package IV. -/
  keys : Bytes := []
  highest : Nat := 0
  seen : List Nat := []
  anySeen : Bool := false
  sendSequence : Nat := 0
  lastNs : Nat := 0
  requests : Nat := 0
  highestId : Nat := 0
  responses : List Response := []
  transfers : List Transfer := []
  deriving DecidableEq, Repr

/-- A handshake in progress (R393, R396). -/
structure Handshake where
  number : Nat := 0
  transport : Nat := 2
  client : Nat := 0
  role : Nat := 1
  credential : Nat := 0xFFFF
  level : Nat := 0
  /-- Transcript hash T of R394. -/
  transcript : Bytes := []
  /-- The X25519 and the ML-KEM-768 secret, and the 88 bytes made of them (R395). -/
  x25519Secret : Bytes := []
  kemSecret : Bytes := []
  keys : Bytes := []
  helloNs : Nat := 0
  sendSequence : Nat := 0
  deriving DecidableEq, Repr

/-- State of the dictionary server and of the rack messages (R372, R373, R390 to R408). -/
structure Mp where
  sessions : List Session := []
  handshakes : List Handshake := []
  /-- Number given to the next session or handshake. -/
  nextSession : Nat := 1
  /-- Number given to the next transfer. -/
  nextTransfer : Nat := 1
  /-- Last accepted `sequence` under (sender × 256 + type) × 2^32 + key epoch (R373). -/
  rackSeen : Tbl Nat := []
  /-- Last `sequence` sent, by message type (R372). -/
  rackSent : Tbl Nat := []
  /-- Rack messages dropped for header, tag or epoch, sequence, and sender (0x1028). -/
  rackDropped : List Nat := [0, 0, 0, 0]
  /-- REPLICA messages counted by their receiver (R452). -/
  replicasSeen : Nat := 0
  /-- Random bytes drawn so far: the model's own field, numbering the free values of `Config.random`. -/
  randomDrawn : Nat := 0
  deriving DecidableEq, Repr

/-- State of the Partition Controller in one partition (R415 to R429) beside its entries. -/
structure PcPart where
  /-- A PAUSE, a STOP or a power pause waits for the next step boundary (R415, R496). -/
  pausePending : Bool := false
  stopPending : Bool := false
  powerPending : Bool := false
  /-- Paused by the power controller (R496). -/
  powerPaused : Bool := false
  /-- Actions 3 to 6 of the boundary wait for RESUME (R416). -/
  heldActions : Bool := false
  /-- Actions 1 to 4 of the boundary are done and action 5 waits for room in the hold queue (R232); the drained condition as action 4
  found it (R282). -/
  heldFive : Bool := false
  heldDrained : Bool := false
  /-- A step runs, its rack time of start, and the status that failed it, if any (R73, R418). -/
  stepRunning : Bool := false
  /-- No step has run since START (R486). -/
  firstStep : Bool := true
  /-- A step has had a number since the package start (R486). -/
  numbered : Bool := false
  /-- What a block reported last to the Partition Controller: block, status, operand address (R46, R73). -/
  blockReport : Option (Nat × Nat × Nat) := none
  stepStartNs : Nat := 0
  stepFailed : Option Nat := none
  /-- Time spent in states 4 and 5 during the step, and when they were entered (R418). -/
  excludedNs : Nat := 0
  excludedFrom : Nat := 0
  /-- The step that last failed by the watchdog (R418). -/
  watchdogStep : Option Nat := none
  /-- Members whose pause requests the lead holds (R496). -/
  pauseRequests : List Nat := []
  /-- Phase of the partition reset, 0 outside one, and when it began (R425). -/
  resetPhase : Nat := 0
  resetStartNs : Nat := 0
  resetFault : Bool := false
  /-- Signed credits in bytes, under resource × 16 + target region (R420); absent: full. -/
  credit : Tbl Int := []
  /-- Wait times in ns of the five resources (0x6015). -/
  waitNs : List Nat := [0, 0, 0, 0, 0]
  deriving DecidableEq, Repr

/-- One audit vote (R436 to R438): the tile, the producing block, its fingerprint, the auditor's, and the capture's
length; `fromArbiter` once the capture has gone to the arbiter region. -/
structure Vote where
  block : Nat := 0
  descriptor : Nat := 0
  tile : Nat := 0
  original : Bytes := []
  auditor : Option Bytes := none
  auditorBlock : Nat := 0
  fromArbiter : Bool := false
  captureBytes : Nat := 0
  deriving DecidableEq, Repr

/-- State of the Reliability Unit in one partition (R433 to R447) beside its entries. -/
structure RuPart where
  votes : List Vote := []
  /-- Bytes of the capture ring in use (R435). -/
  captureUsed : Nat := 0
  /-- Tiles of the running step: audited, unaudited, disagreements (R441, R442). -/
  stepAudited : Nat := 0
  stepUnaudited : Nat := 0
  stepDisagreements : Nat := 0
  /-- This member's report for the step has been sent (R441). -/
  reported : Bool := false
  /-- Rack time at which this member's last LAST pass completed (R441). -/
  lastPassNs : Nat := 0
  /-- Reports held at the lead for the running step (R441, R445). -/
  reports : List ReportRecord := []
  /-- First recorded cause of the step's rollback (R443). -/
  poison : Option PoisonRecord := none
  /-- The step last rolled back and how often (R445). -/
  rolledStep : Nat := 0
  rolledTimes : Nat := 0
  /-- The running step recomputes a rolled-back one (R445). -/
  recomputing : Bool := false
  /-- Members whose re-cut the lead waits for (R447). -/
  recut : List Nat := []
  /-- POISON and REPORT as last written (R442). -/
  poisonRegister : Bytes := []
  reportRegister : Bytes := []
  deriving DecidableEq, Repr

/-- One replica round (R451): the table record, the round, own digests by digest-table index, each peer's, the parts of its message
that are here (peer, part), and the peers whose every part is. -/
structure ReplicaRound where
  record : Nat := 0
  round : Nat := 0
  step : Nat := 0
  own : List (Nat × Bytes) := []
  peers : List (Nat × Nat × Bytes) := []
  parts : List (Nat × Nat) := []
  arrived : List Nat := []
  deriving DecidableEq, Repr

/-- State of the Reliability Unit that belongs to the package (R451, R456, R458) beside its entries. -/
structure Ru where
  rounds : List ReplicaRound := []
  /-- DIGEST bodies of rounds that this package has not started, with their senders (R451). -/
  digestsHeld : List (Nat × Bytes) := []
  /-- The unit that caused the Drydown, as unit kind and number (R455). -/
  causingUnit : Option FailedUnit := none
  /-- The Drydown follows a host-die loss, so stage 6 restarts the package (R366). -/
  restartWhenDrained : Bool := false
  /-- Seconds of steps without disagreement while requalifying (R456). -/
  requalifySeconds : Nat := 0
  deriving DecidableEq, Repr

/-- A loan (R255 to R258, 0x4419): the borrowing partition, the partner, the lender's unit number, the borrower's T2 slot (none when this package
lends), the state (0 active, 1 reclaiming, 2 filling) and the deadline. -/
structure Loan where
  partition : Nat := 0xFF
  partner : Nat := 0
  unit : Nat := 0
  slot : Option Nat := none
  state : Nat := 0
  deadlineNs : Nat := 0
  deriving DecidableEq, Repr

/-- A page move (R252): the page's partition, request handle, layer, KV head and index, its vector entry's address, the
source and destination slots, whether the copy has completed, the lines written during the copy, and its class
(0 reclaim, 1 promotion, 2 demotion). -/
structure Move where
  partition : Nat := 0
  handle : Nat := 0
  layer : Nat := 0
  head : Nat := 0
  page : Nat := 0
  entryAddr : Nat := 0
  source : Nat := 0
  dest : Nat := 0
  copied : Bool := false
  dirty : List Nat := []
  cls : Nat := 2
  deriving DecidableEq, Repr

/-- State of the Tier Manager and of the memory controllers beside their entries. -/
structure Tm where
  loans : List Loan := []
  /-- T2 slots that answer 0x0905 or 0x0906 since their unit was withdrawn or its lender lost (R258, R259). -/
  withdrawn : Tbl Nat := []
  moves : List Move := []
  /-- TM messages in the mailbox, oldest first, at most 256, with the time each arrived (R256; assumption 20). -/
  mailbox : List (Nat × TmMessage) := []
  /-- BORROWs not answered: sequence, lender, partition, units (R257). -/
  wanted : List (Nat × Nat × Nat × Nat) := []
  /-- Units each neighbour last offered (R257), messages sent, and the units last advertised. -/
  offers : Tbl Nat := []
  sequence : Nat := 0
  advertised : Nat := 0
  /-- The last 64 loss records, oldest first (R264). -/
  losses : List Bytes := []
  /-- Frontier of a stack's poison fill in bytes of the stack, absent when none runs (R261). -/
  poisonFill : Tbl Nat := []
  /-- Channels whose zero fill still runs (R478): frontier in bytes of the channel; the granules in each skip list. -/
  zeroFill : Tbl Nat := []
  skip : Tbl (List Nat) := []
  /-- Writes held until a frontier passes, oldest first, as transactions of this package to itself (R261, R478). -/
  held : List Txn := []
  /-- Status that training left on a DDR5 channel: 0x0B03 for a DIMM that is not supported (R242). -/
  channelStatus : Tbl Nat := []
  /-- Distinct bad lines of a channel with the time each was found (R260), under 0x000 + stack × 32 + channel for HBM4
  and 0x400 + channel for DDR5. -/
  badLines : Tbl (List (Nat × Nat)) := []
  deriving DecidableEq, Repr
/-- A DMA piece in flight (R290): its number (source line × pieces per line + index), its slot of the pool, whether its read has landed,
its words not written yet (position in the byte stream; none for poison), the attempts made at the access that failed, whether it waits for
its retry timer, and the writes to be repeated (address, poison, bytes; R299). -/
structure Piece where
  number : Nat := 0
  slot : Nat := 0
  writing : Bool := false
  words : List (Nat × Option Bytes) := []
  attempts : Nat := 0
  retrying : Bool := false
  again : List (Nat × Bool × Bytes) := []
  deriving DecidableEq, Repr

/-- A fault of a channel (0x5005): source line, address, status, side, attempts; with the status it halts with. -/
structure DmaFault where
  line : Nat := 0
  addr : Nat := 0
  status : Nat := 0
  side : Nat := 0
  attempts : Nat := 0
  haltStatus : Nat := 0
  deriving DecidableEq, Repr

/-- A DMA channel (R292): descriptor registers at offsets 0x00 to 0x50 as written, PRODUCED, DST_CONSUMED, CONSUMED and
WRITTEN, the WRITTEN of its last signal, the number of the next piece to issue, pieces in flight, pieces delivered beyond
CONSUMED, the fault a halt under way has recorded, and whether it waits for a slot. -/
structure Channel where
  regs : Tbl Nat := []
  produced : Nat := 0
  dstConsumed : Nat := 0
  consumed : Nat := 0
  written : Nat := 0
  signalled : Nat := 0
  nextPiece : Nat := 0
  pieces : List Piece := []
  delivered : List Nat := []
  halting : Option DmaFault := none
  waiting : Bool := false
  deriving DecidableEq, Repr

/-- State of the DMA engine (R289 to R303) beside its entries: channels, the channel last granted a slot, and
for the deficit round robin of R421 the partition whose turn it is and the bytes that each may still be granted. -/
structure Dm where
  channels : Tbl Channel := []
  lastServed : Nat := 255
  turn : Nat := 0
  deficit : Tbl Nat := []
  deriving DecidableEq, Repr

/-- The link layer of one fabric link (R308 to R316): next sequence expected and next to send, unacknowledged flits with
their sequences, packets that wait for credits or for room in the replay buffer, packets in unacknowledged flits under
the sequence of their last flit, credits held per virtual channel, credits owed to the partner, whether a NAK has been sent in this replay
round, flits accepted since the last ACK, consecutive replay rounds without an acknowledgement, times of recent malformed
flits, the last quarantine, the packet being assembled on each virtual channel, the partner's last record, failed
retrainings of each lane, which of the lit lanes takes the next 32-byte unit (R307), the last sequence seen in a flit whose CRC was right
(R309), credits of class 2 withheld per virtual channel (R330), and whether R314's check holds the link down. -/
structure Link where
  rxNext : Nat := 1
  txNext : Nat := 1
  unacked : List (Nat × Bytes) := []
  queue : List Packet := []
  sending : List (Nat × Packet) := []
  credits : Tbl Nat := []
  owed : Tbl Nat := []
  nakSent : Bool := false
  sinceAck : Nat := 0
  rounds : Nat := 0
  violations : List Nat := []
  quarantineNs : Option Nat := none
  assembly : Tbl Bytes := []
  partner : Option Capability := none
  laneTries : Tbl Nat := []
  turn : Nat := 0
  rxLast : Option Nat := none
  kept : Tbl Nat := []
  misfit : Bool := false
  deriving DecidableEq, Repr

/-- A run of at most 128 elements of one line in a collective (R330): line, first element, the dimension it is to be
reduced along or gathered along next, and its values. -/
structure CollBlock where
  line : Nat := 0
  off : Nat := 0
  dim : Nat := 0
  words : List Word := []
  deriving DecidableEq, Repr

/-- A collective that a member runs (R327 to R330): its block and descriptor, the group, mode, operation, occurrence,
step and version, this member's rank in each dimension, the extents and which of the dimensions are rings (R329), lines and elements
per line of slot A and its bytes per element, the blocks in reduction, those gathered under their plane, and partial values that its
stage has not reached, under the sender's rank in their dimension. -/
structure Coll where
  pp : Nat := 0
  block : Nat := 0
  group : Nat := 0
  mode : Nat := 0
  op : Nat := 0
  occurrence : Nat := 0
  step : Nat := 0
  version : Nat := 0
  rank : List Nat := []
  extents : List Nat := []
  rings : List Bool := []
  lines : Nat := 0
  /-- Lines of slot A that are real and not masked as the pass entered Fetch (R31). -/
  rows : List Nat := []
  elems : Nat := 0
  width : Nat := 4
  reducing : List CollBlock := []
  gathered : List (Nat × CollBlock) := []
  early : List (Nat × CollBlock) := []
  deriving DecidableEq, Repr

/-- A collective packet that waits for its occurrence to start (R330). -/
structure CollPacket where
  pp : Nat := 0
  type : Nat := 0
  header : CollHeader := {}
  data : Bytes := []
  /-- Link and virtual channel that it came by, whose credits are withheld while it is held (R330), and its package. -/
  via : Option (Nat × Nat × Nat) := none
  deriving DecidableEq, Repr

/-- State of the Tensor Fabric beside its entries: holes in ascending order (R324), departed packages (R325), links, the
suspect notices in force (sender, direction), packets of this package not routed yet, running collectives, packets held for
a later occurrence, REDUCE passes per block and group in the step, partitions whose
rollback of cause 5 has not been closed clean (R317), whether this package departs (R325), and after a remap the link that is retraining and
those that still have to (R319, R332). -/
structure Tf where
  holes : List Nat := []
  departed : List Nat := []
  links : Tbl Link := []
  suspects : List (Nat × Nat) := []
  outgoing : List Packet := []
  colls : List Coll := []
  heldColl : List CollPacket := []
  occurrences : Tbl Nat := []
  memberLost : List Nat := []
  departing : Bool := false
  retraining : Option Nat := none
  toRetrain : List Nat := []
  deriving DecidableEq, Repr

/-- A shard of this package's position (R271): region, length, target address, its first index in the digest table, and the digests of its slices. -/
structure Shard where
  region : Nat := 0
  bytes : Nat := 0
  target : Nat := 0
  digestIndex : Nat := 0
  digests : List Bytes := []
  deriving DecidableEq, Repr

/-- A version of the registry (R277): its state there (0 loading, 1 resident, 2 damaged, 3 evicting), the extents of its
shards and of its stored header (absent until step 6 of R274), the slices lost (shard, slice), and the job time. -/
structure Version where
  version : Nat := 0
  position : Nat := 0
  state : Nat := 0
  draft : Bool := false
  signed : Bool := false
  imageId : Nat := 0
  shards : List Shard := []
  stored : Option (Nat × Nat) := none
  lastUse : Nat := 0xFFFFFFFF
  loadMs : Nat := 0
  lost : List (Nat × Nat) := []
  deriving DecidableEq, Repr

/-- A load or refill job (R273, R280): its state (0 idle, 1 running, 2 done, 3 failed), tag, version and status, the
neighbours it reads from, the bytes to store in step 6, slices landed and slices fetched once more (shard, slice), those
it has to bring, the neighbour that each is read from (shard, slice, package; R275), those that failed their digest, and the bytes copied. -/
structure Job where
  state : Nat := 0
  tag : Nat := 0
  version : Nat := 0
  status : Nat := 0
  sources : List Nat := []
  stored : Bytes := []
  refill : Bool := false
  fullRate : Bool := false
  startNs : Nat := 0
  todo : List (Nat × Nat) := []
  landed : List (Nat × Nat) := []
  refetched : List (Nat × Nat) := []
  dealt : List (Nat × Nat × Nat) := []
  mismatched : List (Nat × Nat) := []
  copied : Nat := 0
  toCopy : Nat := 0
  deriving DecidableEq, Repr

/-- An armed switch in force (R281 to R283) with the writes held for it: entry key and value. -/
structure Arm where
  applyStep : Nat := 0
  version : Nat := 0
  drained : Bool := false
  held : List (Nat × DVal) := []
  deriving DecidableEq, Repr

/-- State of the Weight and Model Store beside its entries: versions in ascending order, the two jobs, the arm of each partition, and the
versions that neighbours load from this package (version, package, time of its last read; R278). -/
structure Wm where
  versions : List Version := []
  jobs : List Job := [{}, {}]
  arms : Tbl Arm := []
  serving : List (Nat × Nat × Nat) := []
  deriving DecidableEq, Repr

/-- A slot or a run of slots of a partition's page pool (R117, R119, R134): what it holds for a request. Kind 0 is a KV
page of a layer and KV head, 1 a page directory, 2 a page vector. `reserved` until a pass appends to it; `born` the step
that allocated it; `lost` when its tier has reported it lost (R264). -/
structure KvSlot where
  handle : Nat := 0
  kind : Nat := 0
  layer : Nat := 0
  head : Nat := 0
  page : Nat := 0
  addr : Nat := 0
  slots : Nat := 1
  reserved : Bool := false
  born : Nat := 0
  lost : Bool := false
  deriving DecidableEq, Repr

/-- State of the Attention and KV Manager in one partition: allocations of the pool, the evicted pages by handle, layer,
head and page, and the step in which event 0x0310 was last raised (R131). -/
structure AkPart where
  slots : List KvSlot := []
  evicted : List (Nat × Nat × Nat × Nat) := []
  convertedStep : Option Nat := none
  deriving DecidableEq, Repr

/-- Receipt of one expert's rows at its home router in one step (R151 to R155): notices as source and count, rows as
they arrived, the tags in compacted order once every notice is in, and whether its PHASE 1 pass has completed. -/
structure Receipt where
  layer : Nat := 0
  expert : Nat := 0
  step : Nat := 0
  notices : List (Nat × Nat) := []
  rows : List DispatchedRow := []
  tags : List DispatchedRow := []
  compacted : Bool := false
  returned : Bool := false
  deriving DecidableEq, Repr

/-- State of the Expert Router in one partition: receipts, and the rows and notices of the next step that wait (R153); the
steps whose first overflow and first wholly skipped row have been reported (R160). -/
structure ErPart where
  receipts : List Receipt := []
  heldRows : List DispatchedRow := []
  heldNotices : List EndNotice := []
  heldReturns : List Packet := []
  overflowStep : Option Nat := none
  skippedStep : Option Nat := none
  deriving DecidableEq, Repr

/-- The working state of a request that the running step has touched (R164, R165): its record as first read, the
grammar state, the count and state of the draft chain (whose tokens stand in the draft area, R176), its start position, the step
tokens in order, the emitted ones, and the accepted count of a verify row. -/
structure Work where
  handle : Nat := 0
  record : Bytes := []
  grammar : Nat := 0
  chain : Nat := 0
  chainState : Nat := 0
  draftStart : Nat := 0
  tokens : List Nat := []
  emitted : List Nat := []
  accepted : Option Nat := none
  deriving DecidableEq, Repr

/-- State of the Sampler and Verifier in one partition: working states, and the steps in which its once-per-step events were last
raised (R167, R175). -/
structure SvPart where
  working : List Work := []
  nanStep : Option Nat := none
  truncatedStep : Option Nat := none
  deriving DecidableEq, Repr

/-- A request of the lead's scheduler (R189 to R213): its slot and handle, its intake record, prompt tokens processed,
tokens counted toward `tokens_generated`, positions committed, the last token and the committed draft chain, whether it
is cancelled, the final status and reason once it has ended, the final status another unit has given it, the tokens of the
running step that count toward `tokens_generated`, whether its stop token went out, whether its final record has been queued, and
whether an immediate switch has parked it (R284). -/
structure Req where
  handle : Nat := 0
  sequence : Nat := 0
  record : Bytes := []
  version : Nat := 0
  promptDone : Nat := 0
  generated : Nat := 0
  committed : Nat := 0
  lastToken : Nat := 0
  drafts : List Nat := []
  cancelled : Bool := false
  ended : Option (Nat × Nat) := none
  given : Option Nat := none
  stepTokens : Nat := 0
  stopHit : Bool := false
  finalQueued : Bool := false
  parked : Bool := false
  deriving DecidableEq, Repr

/-- A tenant's bucket and account (R202, R203). -/
structure Tenant where
  level : Int := 0
  remainder : Nat := 0
  refillNs : Nat := 0
  engineNs : Nat := 0
  vtime : Nat := 0
  valid : Bool := false
  deriving DecidableEq, Repr

/-- A completion record waiting or being written (R212), with its handle, whether it is final. -/
structure Completion where
  handle : Nat := 0xFFFFFFFF
  final : Bool := false
  bytes : Bytes := []
  deriving DecidableEq, Repr

/-- A write of serving state to host memory that waits for its retry (R536): address, bytes, or a flagged add. -/
structure HostWrite where
  addr : Nat := 0
  bytes : Bytes := []
  add : Nat := 0
  deriving DecidableEq, Repr

/-- State of the Serving Scheduler in one partition beside its entries: COMPLETION_CONSUMED, requests, slot generations,
tenants, the accepted cancel words not yet answered and the unread sequences they mark, whether intake has stopped on an
overrun, the tables of the step per engine (empty: no table), the engine's row masks as sets of rows, cancel notices
for tables that have not arrived, the notice of a step about to start and that of the step last started, records forwarded for the step
and counts from the listed packages, the completion queue, its sequence and the number written since the last add, the
refused host writes, the measures that action 5 uses, the status of a write of serving state into package memory that
failed (R536), the last use of each request (R251), the rows left out of the running step as ineligible (R217), and on the deputy the
tenant levels, request states and streams of the lead's last notice (R185, R233). -/
structure ScPart where
  completionConsumed : Nat := 0
  requests : List Req := []
  generations : Tbl Nat := []
  tenants : Tbl Tenant := []
  cancelWords : List Nat := []
  answers : List Completion := []
  marked : List Nat := []
  overrun : Bool := false
  tables : List Bytes := [[], []]
  tokens : List Bytes := [[], []]
  tableSteps : List Nat := [0, 0]
  masks : List (List Nat) := [[], []]
  notices : List (Nat × List Nat × List Nat) := []
  starting : Option StepNotice := none
  running : StepNotice := {}
  forwarded : List (Nat × Bytes) := []
  counts : List (Nat × Nat) := []
  ownCount : Nat := 0
  countSent : Bool := false
  completions : List Completion := []
  completionSeq : Nat := 0
  ringFullRaised : Bool := false
  /-- The lead's notice to itself has arrived while its step could not start (R280, R416). -/
  noticed : Bool := false
  refused : List HostWrite := []
  refusedRaised : Bool := false
  sinceChange : Nat := 0
  genEndNs : Nat := 0
  preEndNs : Nat := 0
  preRan : Bool := false
  resetPending : Bool := false
  writeFailed : Option Nat := none
  lastUse : Tbl Nat := []
  deputyLevels : List (Nat × Int) := []
  deputyStates : List RequestState := []
  deputyStreams : List StreamState := []
  budgetHeld : Nat := 0
  deriving DecidableEq, Repr

/-- What Stream Egress keeps of a stream (R218 to R224): bytes 0 to 31 as copied at its binding, the bound request, the
state fields of bytes 32 to 61, whether playback runs, whether its record was last read with VALID, and the
conditions whose events stand (0x0712, and the level last reported). -/
structure Stream where
  head : Bytes := []
  bound : Option Nat := none
  emitted : Nat := 0
  playedUs : Nat := 0
  reportNs : Nat := 0
  playing : Bool := false
  runwayMs : Nat := 0
  state : Nat := 0
  level : Nat := 0
  known : Bool := false
  validSeen : Bool := false
  predicted : Bool := false
  fresh : Bool := false
  deriving DecidableEq, Repr

/-- An emission entry on its way (R226): its ring, kind and bytes. -/
structure Entry64 where
  ring : Nat := 0
  kind : Nat := 0
  bytes : Bytes := []
  deriving DecidableEq, Repr

/-- The tokens a stream received under lag 0 from a step not yet closed (R230): stream (0xFFFFFFFF for a request without one), handle,
first index, tokens. -/
structure Lag0 where
  stream : Nat := 0
  handle : Nat := 0
  first : Nat := 0
  tokens : List Nat := []
  deriving DecidableEq, Repr

/-- State of Stream Egress in one partition beside its entries: streams, EMIT_CONSUMED and the next sequence of each
ring, the hold queue (R231) and the entries waiting outside it (R232), the rings with event 0x0715 standing, the lag-0
tokens of the running step and of the attempt that was rolled back, whether the step runs under lag 0, and the host
writes held for retry (R536). -/
structure SePart where
  streams : Tbl Stream := []
  consumed : Tbl Nat := []
  sequences : Tbl Nat := []
  hold : List Entry64 := []
  waiting : List Entry64 := []
  fullRings : List Nat := []
  lag0 : List Lag0 := []
  voided : List Lag0 := []
  stepLag0 : Bool := false
  refused : List HostWrite := []
  refusedRaised : Bool := false
  haveEstimate : Bool := false
  deriving DecidableEq, Repr


/-- A fault-history record (R454). -/
structure HistRecord where
  timeNs : Nat := 0
  poweredS : Nat := 0
  step : Nat := 0
  kind : Nat := 0
  origin : Nat := 0
  unit : Nat := 0
  status : Nat := 0
  permanent : Bool := false
  startCount : Nat := 0
  deriving DecidableEq, Repr

/-- What the package sends to the world outside: newest last. -/
inductive Out where
  /-- A request or response of the memory-semantic layer to the host die. -/
  | packet (packet : Packet)
  /-- A flit on a link (R308, R309), and the lane that carries each of its eight 32-byte units (R307). -/
  | flit (link : Nat) (flit : Bytes) (lanes : List Nat)
  /-- The capability record that this end of a link sends in training's stage 5 (R314). -/
  | capability (link : Nat) (record : Capability)
  /-- A control-class notice of the fabric: kind (1 suspect, 2 return, 3 departure, 4 links back), link, package and direction. -/
  | notice (kind link package direction : Nat)
  /-- A reset notice to a member (R426). -/
  | resetNotice (package pp : Nat)
  /-- A poison notice or an audit report to a member (R442). -/
  | poison (package pp : Nat) (record : PoisonRecord)
  | report (package pp : Nat) (record : ReportRecord)
  /-- A slice that a load reads from a neighbour (R275): the package, the job, the shard and the slice of it. -/
  | sliceRead (package job shard slice : Nat)
  /-- A step notice and an engine's length table and tokens, sent along the tree (R198). -/
  | stepNotice (package pp : Nat) (notice : StepNotice)
  | lengthTable (package pp engine step : Nat) (table tokens : Bytes)
  /-- A cancel notice along the tree (R200). -/
  | cancelNotice (package pp step : Nat) (genRows preRows : List Nat)
  /-- A token record or a count of records to the lead (R193). -/
  | tokenRecord (package pp : Nat) (record : Bytes)
  | samplerCount (package pp step count : Nat)
  /-- A dispatched row or an end notice to an expert's home router on another package, under the packet of its store (R151). -/
  | routeStore (packet : Packet) (pp : Nat) (item : RouteItem)
  /-- The completion of a row or a notice of another package (R151, R153): status 0, or that of its refusal. -/
  | routeAnswer (package pp : Nat) (item : RouteItem) (status : Nat)
  /-- A pause request or its withdrawal to a lead (R496). -/
  | pauseRequest (package pp : Nat) (withdraw : Bool)
  /-- A rack message (R372) on the port in use. -/
  | rackMessage (port : Nat) (message : RackMessage)
  /-- An answer of the dictionary server in a session (R400), an ERROR datagram, a HELLO_REPLY, a CLOSE. -/
  | response (session : Nat) (response : Response) (datagram : Bytes)
  | errorDatagram (transport client session abort : Nat)
  | helloReply (session : Nat) (message : Bytes)
  | close (session : Nat) (datagram : Bytes)
  /-- The answer to a write that reached its entry as a command of its own: abort and status (R406). -/
  | answer (index subindex abort status : Nat) (pending : Bool)
  /-- A sideband datagram handed to the dictionary server (R367). -/
  | datagram (bytes : Bytes)
  deriving DecidableEq, Repr

/-- A live range of a mark (R75): offset in block SRAM, length, offset in the save area. -/
structure LiveRange where
  src : Nat := 0
  length : Nat := 0
  save : Nat := 0
  deriving DecidableEq, Repr

/-- Counts of one narrow-format stage of a pass (R101): elements quantised, saturated, flushed. -/
structure QCount where
  quantised : Nat := 0
  saturated : Nat := 0
  flushed : Nat := 0
  deriving DecidableEq, Repr

/-- A pass in flight (R30): its descriptor index and 128 bytes as decoded with overrides applied, whether its waits
have been met and when, and what its Emit will make visible: writes (address, bytes), the status a stopped pass raises, its
live ranges (R76), the counts of the Rotate and the Quantise stage, fingerprints of audited tiles (tile, bytes, capture
length), the tiles that found no room, dispatched rows, end notices and increments held until Emit, token records
for the scheduler, pool slots that its append fills, and what it adds to the scores of pages (R132). -/
structure Pass where
  index : Nat := 0
  words : Bytes := []
  running : Bool := false
  startNs : Nat := 0
  writes : List (Nat × Bytes) := []
  ranges : List LiveRange := []
  markNumber : Nat := 0
  rotate : QCount := {}
  quantise : QCount := {}
  audited : List (Nat × Bytes × Nat) := []
  unaudited : Nat := 0
  sends : List (Nat × Nat × RouteItem) := []
  increments : List (Nat × Nat × Nat × Nat) := []
  records : List Bytes := []
  appended : List KvSlot := []
  scores : List (Nat × Word) := []
  deriving DecidableEq, Repr

/-- State of one logical block's step program (R51 to R80), with its host's faults in the running pass. -/
structure Blk where
  /-- What the step program does: 0 idle, 1 running, 2 waiting on a counter, 3 stopped with a status (R50). -/
  act : Nat := 0
  /-- Program table entry as read at the step start (R51, R52). -/
  base : Nat := 0
  count : Nat := 0
  version : Nat := 0
  saveBase : Nat := 0
  saveSize : Nat := 0
  /-- Index of the next descriptor to fetch, and `program_base` of the previous step (R53, R70). -/
  index : Nat := 0
  prevBase : Option Nat := none
  /-- The 64 arrival counters, their pending tallies, and the step ordinal p (R67, R69). -/
  counters : Tbl Nat := []
  tallies : Tbl Nat := []
  p : Nat := 0
  /-- The step the block runs, or none between a clear and its first step start (R70); the last step the partition
  started before the clear. -/
  step : Option Nat := none
  beforeClear : Option Nat := none
  /-- Counters, tallies and p at the start of the step (R71). -/
  snapCounters : Tbl Nat := []
  snapTallies : Tbl Nat := []
  snapP : Nat := 0
  /-- Passes in flight, at most two, the earlier first (R30), and behind them the descriptors read ahead (R53). -/
  passes : List Pass := []
  /-- The code with which the descriptor behind the pass in flight fails once that pass has completed (R73). -/
  rejected : Option Nat := none
  /-- The LAST pass has been fetched; the LAST pass has completed (R54). -/
  lastFetched : Bool := false
  stepDone : Bool := false
  /-- Marks completed in the step, and whether event 0x0158 was raised for the gap (R74, R77). -/
  marks : Nat := 0
  gapRaised : Bool := false
  /-- Mark at which a preemption stops the block, and whether it has saved and reported, and the ranges it saved (R78). -/
  stopAt : Option Nat := none
  reported : Bool := false
  saved : List LiveRange := []
  /-- Uncorrectable errors of each cell, and re-executions of each tile, in the running pass (R43, R44). -/
  cellErrors : Tbl Nat := []
  /-- Rack time up to which the block's time with a pass in flight has been counted (R50, R422): the model's own field. -/
  busyUntil : Nat := 0
  reexecs : Tbl Nat := []
  deriving DecidableEq, Repr

/-- State of the Tensor Pipeline beside its entries: fenced regions (R45), logical blocks, per global cell the times of its
corrected errors within the alert window (R42), per host the logical block whose pass completed last there (R41), and the
blocks hidden at runtime (R43). -/
structure Tp where
  fenced : List Nat := []
  blocks : Tbl Blk := []
  corrected : Tbl (List Nat) := []
  lastRan : Tbl Nat := []
  hiddenAtRun : List Nat := []
  deriving DecidableEq, Repr

/-- Rack time (R483 to R485): whether a count runs, the counted tick, RCLK cycles since its pulse, whether a tick
number was adopted from a frame, the tick the rack itself has reached while the count is held back, and REF_SYNC
pulses missed in a row. -/
structure Clock where
  running : Bool := false
  tick : Nat := 0
  rclk : Nat := 0
  adopted : Bool := false
  heldFor : Option Nat := none
  missed : Nat := 0
  deriving DecidableEq, Repr

/-- The contacts of R527 and R528 that hold a level: outputs asserted low as `true`, whether the package has taken
the flash (R529), and the tray position (R527: open contacts read 1). -/
structure Pins where
  readyReleased : Bool := false
  bootFail : Bool := false
  alert : Bool := false
  thermtrip : Bool := false
  flashTaken : Bool := false
  posX : Nat := 3
  posY : Nat := 15
  posZ : Nat := 15
  deriving DecidableEq, Repr

/-- A record of the defect list (R475). -/
structure Defect where
  kind : Nat := 0
  origin : Nat := 0
  unit : Nat := 0
  startCount : Nat := 0
  poweredS : Nat := 0
  status : Nat := 0
  deriving DecidableEq, Repr

/-- Mirrored flash, which a package reset keeps (R467, R468): kept entries (R387) under index × 256 + subindex, the
fault history oldest first (R454), the defect list (R475), stored licences (R511), the two firmware slots, the boot
selector's active slot, minimum epoch and attempt log (R507), the rack keys with their epochs, newest first (R510),
and events to raise at the next start (R469, R489, R499). -/
structure Flash where
  kept : Tbl DVal := []
  history : List HistRecord := []
  defects : List Defect := []
  licences : List Bytes := []
  slotA : Bytes := []
  slotB : Bytes := []
  activeSlot : Nat := 0
  minEpoch : Nat := 0
  attemptLog : List (Nat × Nat) := []
  rackKeys : List (Nat × Bytes) := []
  pendingEvents : List Nat := []
  /-- The next start counts as a sag start: a thermal trip met a sag reset (R532). -/
  sagNext : Bool := false
  /-- Generations of the copies of each area on FLASH 0 and FLASH 1 (R467), by the area's place in R468's table. -/
  generations : Tbl (Nat × Nat) := []
  deriving DecidableEq, Repr

/-- State of the Boot, Test and Trust Controller beside its entries: the phase running, 0 while off and 9 once ready
(R466; `bt_start_state` shows phase 8 as 7), its phase durations, the wait for a REF_SYNC frame (R485), whether the
test is the full one, the state of both flash devices (R467), cells hidden at runtime that the test returned,
licences marked expired (R515), the rack key epoch waiting for its tick (R510), the attestation report (R516), powered
milliseconds of the running second (R455), the running firmware's body digest, and when the package became ready. -/
structure Bt where
  phase : Nat := 0
  phaseMs : List Nat := []
  waitingFrame : Bool := false
  fullTest : Bool := true
  deviceState : List Nat := [0, 0]
  expired : List Nat := []
  pendingRackKey : Option (Nat × Bytes) := none
  report : Bytes := []
  poweredMs : Nat := 0
  firmwareDigest : Bytes := []
  readyNs : Option Nat := none
  /-- What phase 3 derives from the silicon (R504): the private seeds of the identity key pairs, and the sealing key. -/
  edSeed : Bytes := []
  mldsaSeed : Bytes := []
  sealKey : Bytes := []
  deriving DecidableEq, Repr

/-- One throttle reason's record (R500). -/
structure Reason where
  cumulativeNs : Nat := 0
  lastStartNs : Nat := 0
  lastDurationNs : Nat := 0
  active : Bool := false
  deriving DecidableEq, Repr

/-- State of the Power, Clock and Health Controller beside its entries (R487 to R500): a cap accepted and not yet in
force with its epoch and hold, when the cap in force was accepted, the reference power, the clamp (active, its limit,
issue slots j of 16, depth left in 1/32), the sag warning, per island the frequency in 1/32 of nominal, the thermal
answer (0 none, 1 at 95 °C, 2 at 100 °C), the droop stretch in per cent and when it began, the raise of the core
setpoint since phase 1 in mV (R491), per partition the last clamped power, when a partition was last resumed, when the
monitors were last read, and the six throttle reasons. -/
structure Pw where
  capPending : Option (Nat × Option Nat × Nat) := none
  capAcceptedNs : Nat := 0
  referenceW : Nat := 0
  clampActive : Bool := false
  clampLimitW : Nat := 0
  clampIssue : Nat := 16
  clampDepth : Nat := 0
  sagActive : Bool := false
  freq32 : Tbl Nat := []
  /-- Rate each island may run at for heat (R499), in 1/32 of nominal; the lower of both rates holds (R501). -/
  heat32 : Tbl Nat := []
  thermal : Tbl Nat := []
  droop : Tbl (Nat × Nat) := []
  setpointMv : Tbl Nat := []
  clampedW : Tbl Nat := []
  lastResumeNs : Nat := 0
  everResumed : Bool := false
  monitorsNs : Nat := 0
  /-- A tick number has been adopted from a frame since the start (R485). -/
  tickAdopted : Bool := false
  reasons : List Reason := [{}, {}, {}, {}, {}, {}]
  deriving DecidableEq, Repr

/-- What one partition holds in each subsystem. -/
structure Part where
  pc : PcPart := {}
  ru : RuPart := {}
  ak : AkPart := {}
  er : ErPart := {}
  sv : SvPart := {}
  sc : ScPart := {}
  se : SePart := {}
  deriving DecidableEq, Repr

/-- The package. -/
structure Pkg where
  /-- Rack time in ns when the command in progress began: the model's own field, copied from the clock. -/
  now : Nat := 0
  dict : Dict := {}
  mem : Mem := {}
  /-- Everything sent outward so far, newest last: the model's own record of the package's outputs. -/
  out : List Out := []
  ms : Ms := {}
  hi : Hi := {}
  mp : Mp := {}
  parts : Tbl Part := []
  ru : Ru := {}
  tf : Tf := {}
  tp : Tp := {}
  tm : Tm := {}
  wm : Wm := {}
  dm : Dm := {}
  bt : Bt := {}
  pw : Pw := {}
  flash : Flash := {}
  pins : Pins := {}
  deriving DecidableEq, Repr

/-- The machine: commands waiting, first in first out, the rack clock, and the package. -/
structure State where
  pending : List Instr := []
  clock : Clock := {}
  pkg : Pkg := {}
  deriving DecidableEq, Repr

/-- The machine right after reset: an unpowered package before its first start (assumption 1). -/
def State.reset : State := {}

end Sys2Proof.Machine
end

