-- ==== Sys2Proof/Machine/Ops.lean ====
section
/-! DEFINITION. The named operations every subsystem shares: reading and writing dictionary entries, sending a
transaction, raising an event, recording fault history and logging a violation. -/

namespace Sys2Proof.Machine

/-- Rack time in ns (R483). -/
def Clock.ns (c : Clock) : Nat := c.tick * 1000000 + 10 * c.rclk

/-- Width in bits of a scalar type (R381); 0 for the others. -/
def EType.width : EType → Nat
  | .u8 => 8
  | .u16 => 16
  | .u32 | .i32 | .f32 => 32
  | .u64 => 64
  | .string | .blob | .domain => 0

/-- Type code of R381. -/
def EType.code : EType → Nat
  | .u8 => 1
  | .u16 => 2
  | .u32 => 3
  | .u64 => 4
  | .i32 => 5
  | .f32 => 6
  | .string => 7
  | .blob => 8
  | .domain => 9

/-- Where the value of an entry is kept: (index + u) × 256 + subindex. -/
def keyAt (e : Entry) (u sub : Nat) : Nat := (e.index + u) * 256 + sub

/-- The scalar a kept value spells; a byte string spells nothing. -/
def DVal.num? : DVal → Option Nat
  | .num n => some n
  | .bytes _ => none

/-- The byte string a kept value spells. -/
def DVal.bytes? : DVal → Option Bytes
  | .num _ => none
  | .bytes b => some b

/-- The scalar in force at `base + u : sub` (R382), its default when nothing was written. -/
def rdAt (p : Pkg) (e : Entry) (u sub : Nat) : Nat := ((tfind p.dict.vals (keyAt e u sub)).bind DVal.num?).getD e.dflt

/-- The scalar in force at `e : sub`. -/
def rd (p : Pkg) (e : Entry) (sub : Nat) : Nat := rdAt p e 0 sub

/-- Puts a scalar, cut to its type's width (assumption 10). -/
def wrAt (p : Pkg) (e : Entry) (u sub v : Nat) : Pkg :=
  { p with dict := { p.dict with vals := tput p.dict.vals (keyAt e u sub) (.num (v % 2 ^ e.type.width)) } }

/-- Puts a scalar at `e : sub`. -/
def wr (p : Pkg) (e : Entry) (sub v : Nat) : Pkg := wrAt p e 0 sub v

/-- Adds to a counter (assumption 10: it wraps at its width). -/
def bumpAt (p : Pkg) (e : Entry) (u sub n : Nat) : Pkg := wrAt p e u sub (rdAt p e u sub + n)

/-- Adds to a counter at `e : sub`. -/
def bump (p : Pkg) (e : Entry) (sub n : Nat) : Pkg := bumpAt p e 0 sub n

/-- The bytes in force of a STRING, BLOB or DOMAIN entry; empty when nothing was written. -/
def rdB (p : Pkg) (e : Entry) (sub : Nat) : Bytes := ((tfind p.dict.vals (keyAt e 0 sub)).bind DVal.bytes?).getD []

/-- Generation of an entry (R404). -/
def genOf (p : Pkg) (e : Entry) (sub : Nat) : Nat := tget p.dict.gens (keyAt e 0 sub) 0

/-- Puts a byte string; the generation rises by 1 when the value changes (R404). -/
def wrB (p : Pkg) (e : Entry) (sub : Nat) (b : Bytes) : Pkg :=
  if rdB p e sub = b then p
  else { p with dict := { p.dict with
           vals := tput p.dict.vals (keyAt e 0 sub) (.bytes b),
           gens := tput p.dict.gens (keyAt e 0 sub) ((genOf p e sub + 1) % 2 ^ 32) } }

/-- Raises the generation of an entry whose bytes are formed from other state (R404). -/
def touch (p : Pkg) (e : Entry) (sub : Nat) : Pkg :=
  { p with dict := { p.dict with gens := tput p.dict.gens (keyAt e 0 sub) ((genOf p e sub + 1) % 2 ^ 32) } }

/-- An area of flash has been written (R467): both devices' copies take the next generation, but for a device that does not answer. -/
def wroteFlash (p : Pkg) (area : Nat) : Pkg :=
  let g := tget p.flash.generations area (0, 0)
  let n := max g.1 g.2 + 1
  let up := fun (d : Nat) => p.bt.deviceState.getD d 0 != 2
  { p with flash := { p.flash with generations := tput p.flash.generations area (if up 0 then n else g.1, if up 1 then n else g.2) } }

/-- Areas of flash (R468): the boot selector, the defect list, the fault history, the kept entries, the licences, the training records and the
firmware slots. -/
def areaSelector : Nat := 1
def areaDefects : Nat := 3
def areaHistory : Nat := 4
def areaKept : Nat := 5
def areaLicences : Nat := 6
def areaTraining : Nat := 7
def areaSlot (b : Bool) : Nat := if b then 9 else 8

/-- Stores a value in flash under its entry (R387, entries marked Kept). -/
def keep (p : Pkg) (e : Entry) (sub : Nat) (v : DVal) : Pkg :=
  wroteFlash { p with flash := { p.flash with kept := tput p.flash.kept (keyAt e 0 sub) v } } areaKept

/-- Puts a kept scalar: in force and in flash (R387). -/
def wrKept (p : Pkg) (e : Entry) (sub v : Nat) : Pkg := keep (wr p e sub v) e sub (.num (v % 2 ^ e.type.width))

/-- Records the last status of a subsystem. -/
def last (p : Pkg) (e : Entry) (sub status : Nat) : Pkg := wr p e sub status

/-- Appends to what the package has sent outward. -/
def emit (p : Pkg) (o : Out) : Pkg := { p with out := p.out ++ [o] }

/-- Hands a packet to the host die, or to the router (R322). -/
def launch (p : Pkg) (toHost : Bool) (k : Packet) : Pkg :=
  if toHost then emit p (.packet k) else { p with tf := { p.tf with outgoing := p.tf.outgoing ++ [k] } }

/-- What a partition holds. -/
def part (p : Pkg) (pp : Nat) : Part := tget p.parts pp {}

/-- Changes what a partition holds. -/
def modPart (p : Pkg) (pp : Nat) (f : Part → Part) : Pkg := { p with parts := tmod p.parts pp {} f }

/-- Changes the Partition Controller's state of a partition. -/
def modPc (p : Pkg) (pp : Nat) (f : PcPart → PcPart) : Pkg := modPart p pp (fun q => { q with pc := f q.pc })

/-- Changes the Reliability Unit's state of a partition. -/
def modRu (p : Pkg) (pp : Nat) (f : RuPart → RuPart) : Pkg := modPart p pp (fun q => { q with ru := f q.ru })

/-- The package's own logical id (0x5404). -/
def ownId (p : Pkg) : Nat := rd p Ix.tfPackageId 0

/-- Bits [7:0] of the start count: INCARNATION of R336. -/
def incarnation (p : Pkg) : Nat := rd p Ix.mpStartCount 0 % 256

/-- Whether the package is powered and started (`bt_start_state` is not 0, assumption 1). -/
def powered (p : Pkg) : Bool := rd p Ix.btStartState 0 != 0

/-- State of R415. -/
def pcState (p : Pkg) (pp : Nat) : Nat := rd p Ix.pcState pp

/-- Enters a state of R415. -/
def setPcState (p : Pkg) (pp st : Nat) : Pkg := wr p Ix.pcState pp st

/-- Step number of a partition (0x600A). -/
def stepOf (p : Pkg) (pp : Nat) : Nat := rd p Ix.pcStepNumber pp

/-- Regions of a partition, ascending (R413). -/
def regionsOf (p : Pkg) (pp : Nat) : List Nat :=
  (List.range 12).filter (fun r => bit (rd p Ix.pcRegionMask pp) r)

/-- Partition that holds a region, if any (R413). -/
def partOfRegion (p : Pkg) (r : Nat) : Option Nat :=
  (List.range 12).find? (fun pp => bit (rd p Ix.pcRegionMask pp) r)

/-- Whether a region is hidden (0x680A). -/
def regionHidden (p : Pkg) (r : Nat) : Bool := bit (rd p Ix.btHiddenRegions 0) r

/-- Whether a feature of R513 is granted. -/
def granted (p : Pkg) (feature : Nat) : Bool := bit (rd p Ix.btFeaturesGranted 0) feature

/-- X-die that a source sends through (R348; assumption 11). -/
def xdieOf (source : Nat) : Nat :=
  if source < 0x60 then (if source < 48 then 0 else 1)
  else if source < 0x90 then (if source - 0x80 < 6 then 0 else 1)
  else if source = 0x96 ∨ source = 0x97 then 0
  else if source < 0x100 then 1
  else if source < 0x200 then (source - 0x100) / 128
  else if source < 0x300 then (source - 0x200) / 32
  else (source - 0x300) / 128

/-- Destination under which TSEQs are counted: the host die counts as one (R364). -/
def Txn.destKey (t : Txn) : Nat := (if t.toHost then 1024 else t.dest) * 2 + xdieOf t.source

/-- WRITE, ATOMIC and COUNTER_INC count as stores (R345). -/
def Txn.isStore (t : Txn) : Bool := t.type == 1 || t.type == 2 || t.type == 3

/-- Whether a UCIe module is up (R379). -/
def moduleUp (p : Pkg) (m : Nat) : Bool := rd p Ix.hiModuleState m == 2 || rd p Ix.hiModuleState m == 3

/-- Whether any module is up (R366). -/
def anyModuleUp (p : Pkg) : Bool := (List.range 4).any (moduleUp p)

/-- The packet of a transaction (R336, R362). -/
def packetOf (p : Pkg) (floor : Nat) (t : Txn) : Packet :=
  let carried := if t.type = 0 ∨ t.type = 3 then [] else t.data
  { dest := if t.toHost then ownId p else t.dest, src := ownId p, type := t.type,
    len := 2 + (carried.length + 15) / 16, step := t.step, incarnation := incarnation p, tseq := t.tseq,
    addr := t.addr, asize := t.asize, aop := t.aop, poison := t.poison, flag := t.flag, srcUnit := t.source,
    tag := t.tag, bytes := t.bytes, floor := floor, data := carried }

/-- Parts of a write at boundaries of `g` bytes; `n` bounds their number. -/
def cut (g : Nat) : (n : Nat) → (a : Nat) → Bytes → List (Nat × Bytes)
  | 0, _, _ => []
  | n + 1, a, b =>
    if b.isEmpty then []
    else
      let k := g - a % g
      (a, b.take k) :: cut g n (a + k) (b.drop k)

/-- Pieces of a write to another package: none crosses a 256-byte boundary (R336). -/
def pieces (a : Nat) (b : Bytes) : List (Nat × Bytes) := cut 256 (b.length / 256 + 2) a b

/-- Lowest TSEQ still awaited toward a destination, modulo 2^24 (FLOOR of R336): the one farthest behind `own`. -/
def floorOf (txns : List Txn) (key own : Nat) : Nat :=
  let behind := fun (s : Nat) => (own + 2 ^ 24 - s) % 2 ^ 24
  ((txns.filter (fun u => u.sent && u.destKey == key && u.type != 0)).map (·.tseq)).foldl
    (fun m s => if behind m < behind s then s else m) own

/-- Whether a waiting transaction may go, behind those before it: a flagged one waits for every earlier store of its
source, and of the second source it names (R68, R346), and 4,096 non-idempotent transactions and 256 atomics may be outstanding to one destination (R348). -/
def mayGo (before : List Txn) (t : Txn) : Bool :=
  !(t.flag && before.any (fun u => (u.source == t.source || t.behind == some u.source) && (u.isStore || u.flag)))
  && (t.type == 0 || decide ((before.filter (fun u => u.sent && u.destKey == t.destKey && u.type != 0)).length < 4096))
  && !(t.type == 2 && decide (256 ≤ (before.filter (fun u => u.sent && u.destKey == t.destKey && u.type == 2)).length))

/-- Hands a transaction's packet on: a row or an end notice with what it carries (R151; assumption 166), any other to the host die or the
router. -/
def launchTxn (p : Pkg) (t : Txn) (k : Packet) : Pkg :=
  match t.purpose with
  | .route pp _ _ item => emit p (.routeStore k pp item)
  | _ => launch p t.toHost k

/-- Sends one transaction: gives it its TSEQ and counts it (R348, 0x5810, 0x5C16, 0x5C17). -/
def transmit (p : Pkg) (before : List Txn) (t : Txn) : Pkg × Txn :=
  let seq := if t.type = 0 then 0 else (tget p.ms.tseq t.destKey 0 + 1) % 2 ^ 24
  let t := { t with sent := true, tseq := seq }
  let p := if t.type = 0 then p else { p with ms := { p.ms with tseq := tput p.ms.tseq t.destKey seq } }
  let p := bump p Ix.msTransactionsSent 0 1
  let p := if !t.toHost then p else if t.type = 0 then bump p Ix.hiHostReads 0 1 else bump p Ix.hiHostWrites 0 1
  (launchTxn p t (packetOf p (floorOf before t.destKey seq) t), t)

/-- Completes a transaction at its source without an answer: the status waits to be acted on. Status 0: a transaction to
this package itself, which may now take effect. -/
def completeHere (p : Pkg) (t : Txn) (status : Nat) : Pkg :=
  { p with ms := { p.ms with failed := p.ms.failed ++ [(t, status)] } }

/-- Whether a flagged transaction waits for a write of its source that is not outstanding: held for a fill's frontier (R261, R478), or repeated
by its DMA channel (R299, R346, R353). -/
def behindHeld (p : Pkg) (t : Txn) : Bool :=
  t.flag && (p.tm.held.any (fun u => u.source == t.source || t.behind == some u.source)
    || (decide (0x100 ≤ t.source) && decide (t.source < 0x200)
        && (tget p.dm.channels (t.source - 0x100) {}).pieces.any (fun x => x.writing && x.attempts != 0)))

/-- One waiting transaction considered, behind those already gone through (R346, R353). -/
def pumpOne (acc : Pkg × List Txn) (t : Txn) : Pkg × List Txn :=
  if t.sent || behindHeld acc.1 t then (acc.1, acc.2 ++ [t])
  else if t.flag && acc.1.ms.broken.contains t.source && t.type != 4 then (completeHere acc.1 t 0x0E02, acc.2)
  else if mayGo acc.2 t && !t.toHost && t.dest == ownId acc.1 then (completeHere acc.1 t 0, acc.2)
  else if mayGo acc.2 t then
    let r := transmit acc.1 acc.2 t
    (r.1, acc.2 ++ [r.2])
  else (acc.1, acc.2 ++ [t])

/-- Sends every waiting transaction that may go, oldest first. -/
def pump (p : Pkg) : Pkg :=
  let r := p.ms.txns.foldl pumpOne (p, [])
  { r.1 with ms := { r.1.ms with txns := r.2 } }

/-- Issues a transaction to another package or to host memory: completes at once with 0x0E01 toward a hole (R352),
with 0x0F05 when no module is up (R366), and is otherwise sent or held (R346). -/
def send (p : Pkg) (t : Txn) : Pkg :=
  if t.toHost && !anyModuleUp p then completeHere p t 0x0F05
  else if !t.toHost && p.tf.holes.contains t.dest then completeHere p t 0x0E01
  else
    let t := { t with sent := false, tag := p.ms.nextTag }
    pump { p with ms := { p.ms with txns := p.ms.txns ++ [t], nextTag := (p.ms.nextTag + 1) % 2 ^ 16 } }

/-- A store to host memory (R362), at most 256 bytes a packet (R336). -/
def hostStore (p : Pkg) (source partition addr : Nat) (data : Bytes) (step : Nat) (purpose : Purpose) : Pkg :=
  send p { source, partition, toHost := true, type := 1, addr, data, bytes := data.length, step, purpose }

/-- A flagged 64-bit add to a word of host memory (R342, R346). -/
def hostFlaggedAdd (p : Pkg) (source partition addr n step : Nat) (purpose : Purpose) : Pkg :=
  send p { source, partition, toHost := true, type := 2, asize := true, aop := 0, addr, data := padTo (leBytes 8 n) 16,
           flag := true, step, purpose }

/-- A flagged store to host memory (R346). -/
def hostFlaggedStore (p : Pkg) (source partition addr : Nat) (data : Bytes) (step : Nat) (purpose : Purpose) : Pkg :=
  send p { source, partition, toHost := true, type := 1, addr, data, bytes := data.length, flag := true, step, purpose }

/-- Status of an error of the host die (R364). -/
def hostErrorStatus : Config.HostError → Nat
  | .refused => 0x0F01
  | .uncorrectable => 0x0F02
  | .poisoned => 0x0FE4

/-- One 32-bit word read from host memory: a free value numbered by the reads so far (R362, R364, assumption 4); with every module
down it completes at once with 0x0F05 (R366). -/
def hostReadWord (p : Pkg) (addr : Nat) : Except Nat Word × Pkg :=
  if anyModuleUp p then
    let next := { p with ms := { p.ms with hostReads := p.ms.hostReads + 1 } }
    match Config.hostRead p.ms.hostReads addr with
    | .ok w => (.ok w, next)
    | .error e => (.error (hostErrorStatus e), next)
  else (.error 0x0F05, p)

/-- Counts the READs that a range of host memory takes (0x5C16): none crosses a 256-byte boundary (R336). -/
def countHostReads (p : Pkg) (addr n : Nat) : Pkg :=
  if n = 0 then p else bump p Ix.hiHostReads 0 ((addr + n - 1) / 256 - addr / 256 + 1)

/-- Shows reads of host memory that failed, by address and status, oldest first (0x5C18, 0x5C1B): the host die answers a READ once, and
with no module up it answers none (R366). -/
def noteHostErrors (p : Pkg) (errors : List (Nat × Nat)) : Pkg :=
  match errors.getLast? with
  | none => p
  | some e =>
    let given := errors.filter (fun e => e.2 != 0x0F05)
    last (bump p Ix.hiHostErrors 0 ((given.map (fun e => e.1 / 256)).eraseDups).length) Ix.hiLastStatus 0 e.2

/-- Bytes of an event entry (R368). -/
def EventEntry.bytes (e : EventEntry) : Bytes :=
  leBytes 8 e.timeNs ++ leBytes 4 e.step ++ leBytes 2 e.code ++ leBytes 1 e.partition ++ [0] ++ leBytes 4 e.unit
    ++ leBytes 4 0 ++ leBytes 8 e.detail

/-- Source of the event ring's writes (assumption 12). -/
def eventSource : Nat := 0x096

/-- Adds the batch written so far to the host's event counter with one flagged add (R369). -/
def announceEvents (p : Pkg) : Pkg :=
  if p.hi.unannounced = 0 then p
  else
    let n := p.hi.unannounced
    hostFlaggedAdd { p with hi := { p.hi with unannounced := 0 } } eventSource 0xFF (rd p Ix.hiEventCounterAddr 0) n 0 .event

/-- Whether sequence `seq` may be written: the ring is enabled and has room (R369), and a module is up (assumption 18). -/
def eventRoom (p : Pkg) : Bool :=
  rd p Ix.hiEventRingEnable 0 == 1 && anyModuleUp p && decide (p.hi.seq < p.hi.consumed + rd p Ix.hiEventRingSlots 0)

/-- Writes one entry at its slot; a batch of 64 is announced (R368, R369). -/
def putEvent (p : Pkg) (e : EventEntry) : Pkg :=
  let slot := p.hi.seq % rd p Ix.hiEventRingSlots 0
  let p' := hostStore p eventSource 0xFF (rd p Ix.hiEventRingBase 0 + slot * 32) e.bytes e.step .event
  let p' := bump { p' with hi := { p'.hi with seq := p.hi.seq + 1, unannounced := p.hi.unannounced + 1 } } Ix.hiEventsWritten 0 1
  if p'.hi.unannounced ≥ 64 then announceEvents p' else p'

/-- Writes waiting events while there is room, `fuel` bounding their number; entries dropped are first reported by
one entry with code 0x0F07 (R369). -/
def drainEvents : (fuel : Nat) → Pkg → Pkg
  | 0, p => p
  | fuel + 1, p =>
    if !eventRoom p then p
    else if p.hi.unreported ≠ 0 then
      let e : EventEntry := { timeNs := p.now, code := 0x0F07, detail := p.hi.unreported }
      drainEvents fuel (putEvent { p with hi := { p.hi with unreported := 0 } } e)
    else match p.hi.queue with
      | [] => p
      | e :: rest => drainEvents fuel (putEvent { p with hi := { p.hi with queue := rest } } e)

/-- Raises an event for a step (R368, R369): masked by subsystem, written in order, queued while the ring is full or disabled,
dropped and counted when the queue of 1,024 is full. -/
def raiseStep (p : Pkg) (step code partition unit detail : Nat) : Pkg :=
  if bit (rd p Ix.hiEventMask 0) (code / 256) then p
  else
    let e : EventEntry := { timeNs := p.now, step, code, partition, unit, detail }
    if p.hi.queue.length ≥ 1024 then
      bump { p with hi := { p.hi with unreported := p.hi.unreported + 1 } } Ix.hiEventsDropped 0 1
    else drainEvents 2 { p with hi := { p.hi with queue := p.hi.queue ++ [e] } }

/-- Raises an event for the step that its partition is at, 0 for none (R368). -/
def raise (p : Pkg) (code partition unit detail : Nat) : Pkg :=
  raiseStep p (if partition < 12 then stepOf p partition else 0) code partition unit detail

/-- An event that names nothing more. -/
def raise0 (p : Pkg) (code : Nat) : Pkg := raise p code 0xFF 0xFFFFFFFF 0

/-- An event whose code is also the last status of its subsystem, shown in entry `e` (assumption 137). -/
def raiseAs (p : Pkg) (e : Entry) (sub code partition unit detail : Nat) : Pkg :=
  raise (last p e sub code) code partition unit detail

/-- An event of the Reliability Unit in a partition (R463). -/
def raiseRu (p : Pkg) (pp code unit detail : Nat) : Pkg := raiseAs p Ix.ruLastStatus pp code pp unit detail

/-- An event of the Power, Clock and Health Controller (R502). -/
def raisePw (p : Pkg) (code partition unit : Nat) : Pkg := raiseAs p Ix.pwLastStatus 0 code partition unit 0

/-- Whether two powered times lie within 30 days of each other (R455). -/
def within30Days (a b : Nat) : Bool := decide (max a b - min a b ≤ 2592000)

/-- Whether the history makes a unit permanent (R455). -/
def unitPermanent (h : List HistRecord) (kind unit : Nat) : Bool :=
  let mine := h.filter (fun r => r.kind == kind && r.unit == unit)
  mine.any (fun r => r.origin == 2)
  || (mine.zipIdx).any (fun a => (mine.zipIdx).any (fun b => decide (a.2 < b.2) && within30Days a.1.poweredS b.1.poweredS))

/-- Removes the first record that satisfies a test. -/
def dropFirst (f : HistRecord → Bool) : List HistRecord → List HistRecord
  | [] => []
  | r :: t => if f r then t else r :: dropFirst f t

/-- Makes room in a full history (R454): the oldest transient record older than 30 powered days, then the oldest
transient record; nothing when only permanent records remain. -/
def makeRoom (now : Nat) (h : List HistRecord) : Option (List HistRecord) :=
  if h.length < 16384 then some h
  else if h.any (fun r => !r.permanent && decide (r.poweredS + 2592000 < now)) then
    some (dropFirst (fun r => !r.permanent && decide (r.poweredS + 2592000 < now)) h)
  else if h.any (fun r => !r.permanent) then some (dropFirst (fun r => !r.permanent) h)
  else none

/-- Step of the partition that owns a region; 0 where none does. -/
def stepOfRegion (p : Pkg) (r : Nat) : Nat :=
  match partOfRegion p r with
  | some pp => stepOf p pp
  | none => 0

/-- Records one fault-history event in mirrored flash (R453, R454). -/
def recordHistory (p : Pkg) (kind origin unit status step : Nat) : Pkg :=
  let s := rd p Ix.btPoweredS 0
  let r : HistRecord := { timeNs := p.now, poweredS := s, step, kind, origin, unit, status,
                          startCount := rd p Ix.mpStartCount 0 }
  match makeRoom s p.flash.history with
  | none => raise0 p 0x120F
  | some h =>
    let perm := unitPermanent (h ++ [r]) kind unit
    let h' := h ++ [{ r with permanent := perm }]
    touch (wr (wroteFlash { p with flash := { p.flash with history := h' } } areaHistory) Ix.ruHistoryCount 0 h'.length) Ix.ruHistory 0

/-- Logs a violation (R357): a repeat of the newest entry's kind, partner and status within 1 ms is folded into it;
each new entry raises event 0x0E10. -/
def logViolation (p : Pkg) (kind port partner status step : Nat) (header : Bytes) : Pkg :=
  let v : Violation := { timeNs := p.now, step, kind, port, partner, status, header }
  match p.ms.violations.getLast? with
  | some w =>
    if w.kind = kind ∧ w.partner = partner ∧ w.status = status ∧ p.now ≤ w.timeNs + 1000000 then
      touch { p with ms := { p.ms with violations :=
        p.ms.violations.dropLast ++ [{ w with repeats := (w.repeats + 1) % 65536 }] } } Ix.msViolationLog 0
    else
      raiseAs (touch (bump { p with ms := { p.ms with violations :=
        (if p.ms.violations.length ≥ 64 then p.ms.violations.drop 1 else p.ms.violations) ++ [v] } }
        Ix.msViolationHead 0 1) Ix.msViolationLog 0) Ix.msLastStatus 0 0x0E10 0xFF 0xFFFFFFFF 0
  | none =>
    raiseAs (touch (bump { p with ms := { p.ms with violations := [v] } } Ix.msViolationHead 0 1) Ix.msViolationLog 0) Ix.msLastStatus 0 0x0E10 0xFF 0xFFFFFFFF 0

/-- First 12 bytes of a packet's route header (R320, R357): words 0 to 2, reserved fields as zero. -/
def routeHeader (k : Packet) : Bytes :=
  leBytes 4 (k.dest * 2 ^ 22 + k.src * 2 ^ 12 + k.cls * 2 ^ 10 + k.detours * 2 ^ 8 + k.prio * 2 ^ 6 + (if k.dateline then 32 else 0))
    ++ leBytes 4 (k.version * 65536 + k.type * 256 + k.len) ++ leBytes 4 k.step

/-- The answer to a dictionary write (R400, R406). -/
structure Answer where
  abort : Nat := 0
  status : Nat := 0
  pending : Bool := false
  deriving DecidableEq, Repr

/-- Accepted. -/
def accepted : Answer := {}

/-- VALUE_INVALID with the owner's code (R406). -/
def invalid (status : Nat) : Answer := { abort := 6, status }

/-- A write refused: nothing changes (R405). -/
def refuse (p : Pkg) (a : Answer) : Pkg × Answer := (p, a)

/-- Sends the answer of a write that reached its entry as a command of its own. -/
def answered (e : Entry) (sub : Nat) (r : Pkg × Answer) : Pkg :=
  emit r.1 (.answer e.index sub r.2.abort r.2.status r.2.pending)

/-- Whether the partition is a rack partition: its record of R414 is not empty. -/
def isRack (p : Pkg) (pp : Nat) : Bool := (rdB p Ix.pcRackPartition pp).length == 16

/-- Scheduling lead of a partition (R184): this package for a package partition; for a rack partition the package that 0x3400 names,
this one when 0xFFFF. -/
def leadOf (p : Pkg) (pp : Nat) : Nat :=
  if isRack p pp = false ∨ rd p Ix.scLeadPackage pp = 0xFFFF then ownId p else rd p Ix.scLeadPackage pp

/-- Whether this package is the partition's lead (R184). -/
def isLead (p : Pkg) (pp : Nat) : Bool := leadOf p pp == ownId p

/-- Package id of a torus position (R3). -/
def idOf (x y z : Nat) : Nat := z * 64 + y * 4 + x

/-- Ring sizes X, Y and Z of the torus (0x5400). -/
def torus (p : Pkg) : Nat × Nat × Nat :=
  (rd p Ix.tfTorusSize 0 % 256, rd p Ix.tfTorusSize 0 / 256 % 256, rd p Ix.tfTorusSize 0 / 65536 % 256)

/-- Members of a partition as logical package ids (R414): the block of the torus, each coordinate modulo its ring; a
package partition's only member is this package. -/
def membersOf (p : Pkg) (pp : Nat) : List Nat :=
  if !isRack p pp then [ownId p]
  else
    let b := rdB p Ix.pcRackPartition pp
    let o := leAt b 2 2
    let t := torus p
    (List.range (leAt b 6 1)).flatMap (fun k => (List.range (leAt b 5 1)).flatMap (fun j =>
      (List.range (leAt b 4 1)).map (fun i =>
        idOf ((o % 4 + i) % max 1 t.1) ((o / 4 % 16 + j) % max 1 t.2.1) ((o / 64 + k) % max 1 t.2.2))))

/-- A command's meaning that touches the package alone. An unpowered package takes no command (assumption 1). -/
def onPkg (f : Pkg → Pkg) (s : State) : Host.Outcome State Fault Refusal :=
  .next { s with pkg := if powered s.pkg then f { s.pkg with now := s.clock.ns } else s.pkg }

/-- A command's meaning that touches the clock and the package. -/
def onClock (f : Clock → Pkg → Clock × Pkg) (s : State) : Host.Outcome State Fault Refusal :=
  if powered s.pkg then
    let r := f s.clock { s.pkg with now := s.clock.ns }
    .next { s with clock := r.1, pkg := r.2 }
  else .next s

end Sys2Proof.Machine
end

