-- ==== Sys2Proof/Machine/TpOps.lean ====
section
/-! DEFINITION. Chapters 2 and 3: units and their hiding, arrival counters, and the state of a block's step program. -/

namespace Sys2Proof.Machine

/-- State of a logical block. -/
def blk (p : Pkg) (b : Nat) : Blk := tget p.tp.blocks b {}

/-- Changes the state of a logical block. -/
def modBlk (p : Pkg) (b : Nat) (f : Blk → Blk) : Pkg := { p with tp := { p.tp with blocks := tmod p.tp.blocks b {} f } }

/-- Whether a block is hidden, itself or with its region (R41). -/
def blockHidden (p : Pkg) (b : Nat) : Bool := rd p Ix.blockState b == 4 || regionHidden p (b / 8)

/-- Whether a cell (global number) is hidden (0x2120: 1 at start, 2 at runtime, 4 by service). -/
def cellHidden (p : Pkg) (c : Nat) : Bool :=
  let s := rdAt p Ix.cellState (c / 64) (c % 64)
  s == 1 || s == 2 || s == 4

/-- Global blocks of a region. -/
def blocksOfRegion (r : Nat) : List Nat := (List.range 8).map (fun j => r * 8 + j)

/-- Global logical blocks of a partition, ascending. -/
def blocksOf (p : Pkg) (pp : Nat) : List Nat := (regionsOf p pp).flatMap blocksOfRegion

/-- Partition that a block belongs to: its region's (R38). -/
def partOfBlock (p : Pkg) (b : Nat) : Option Nat := partOfRegion p (b / 8)

/-- `region_state` (0x2000): hidden and fenced take precedence over the partition's state. -/
def regionState (p : Pkg) (r : Nat) : Nat :=
  if regionHidden p r then 3
  else if p.tp.fenced.contains r then 2
  else match partOfRegion p r with
    | none => 1
    | some pp =>
      let s := pcState p pp
      if s = 6 then 4
      else if s = 0 ∨ s = 1 ∨ s = 7 then 1
      else if (blocksOfRegion r).any (fun b => rd p Ix.blockState b == 4) then 5 else 0

/-- Deals guests to usable hosts, both ascending (R41): bits [4j+3:4j] name the host of logical block j. -/
def foldMap (p : Pkg) (r : Nat) : Nat :=
  if regionHidden p r then 0xFFFFFFFF
  else
    let usable := (List.range 8).filter (fun j => rd p Ix.blockState (r * 8 + j) != 4)
    let guests := (List.range 8).filter (fun j => rd p Ix.blockState (r * 8 + j) == 4)
    (List.range 8).foldl (fun m j =>
      let host := if usable.contains j then j else usable.getD (guests.idxOf j) 15
      m + host * 2 ^ (4 * j)) 0

/-- Usable cells (0x6808): not hidden themselves, with their block or with their region. -/
def usableCells (p : Pkg) : Nat :=
  ((List.range 768).filter (fun c =>
    !regionHidden p (c / 64) && rd p Ix.blockState (c / 8) != 4 && !cellHidden p c)).length

/-- Shows the hidden blocks and the usable cells (0x6809, 0x6808, 0x6018) after a change (R10). -/
def showHidden (p : Pkg) : Pkg :=
  let p := wr p Ix.btUsableCells 0 (usableCells p)
  let hidden := (List.range 96).foldl (fun m b => if blockHidden p b then m + 2 ^ b else m) 0
  touch (wrB p Ix.btHiddenBlocks 0 (leBytes 12 hidden)) Ix.pcRegionOwner 0

/-- Shows a region's map (0x2003) with the units that are hidden. -/
def showUnits (p : Pkg) (r : Nat) : Pkg := showHidden (wr p Ix.regionLogicalBlockMap r (foldMap p r))

/-- Physical host of a logical block (R41, 0x2003); none in a hidden region. -/
def hostOf (p : Pkg) (b : Nat) : Option Nat :=
  let h := bits (rd p Ix.regionLogicalBlockMap (b / 8)) (4 * (b % 8) + 3) (4 * (b % 8))
  if h < 8 then some (b / 8 * 8 + h) else none

/-- Logical blocks that a block hosts, ascending: its own and at most one guest (R41). -/
def hosted (p : Pkg) (h : Nat) : List Nat := (blocksOfRegion (h / 8)).filter (fun b => hostOf p b == some h)

/-- The other logical block on the host of a logical block, if any (R41). -/
def otherOf (p : Pkg) (b : Nat) : Option Nat := (hostOf p b).bind (fun h => (hosted p h).find? (· != b))

/-- `block_state` of a physical block (0x2010). DESIGN CHOICE (assumption 152) on a host: 3 where its own program has stopped, 5 while
one of its two programs runs, 2 while one waits and none runs, otherwise 0. -/
def shownState (p : Pkg) (h : Nat) : Nat :=
  if rd p Ix.blockState h = 4 then 4
  else if (blk p h).act = 3 then 3
  else
    let l := (hosted p h).map (fun b => (blk p b).act)
    if l.length ≤ 1 then (blk p h).act
    else if l.contains 1 then 5 else if l.contains 2 then 2 else 0

/-- Shows a physical block's state. -/
def showBlock (p : Pkg) (h : Nat) : Pkg := wr p Ix.blockState h (shownState p h)

/-- A logical block's program goes into a state, which its host shows. -/
def setAct (p : Pkg) (b st : Nat) : Pkg :=
  let p := modBlk p b (fun k => { k with act := st })
  match hostOf p b with
  | none => p
  | some h => if h = b then showBlock p b else showBlock (showBlock p b) h

/-- Hides a region (R41, R474). -/
def hideRegion (p : Pkg) (r : Nat) : Pkg :=
  let m := rd p Ix.btHiddenRegions 0
  showUnits (if bit m r then p else wr p Ix.btHiddenRegions 0 (m + 2 ^ r)) r

/-- Number of hidden blocks of a region. -/
def hiddenBlocks (p : Pkg) (r : Nat) : Nat := ((blocksOfRegion r).filter (fun b => rd p Ix.blockState b == 4)).length

/-- A block hidden at start, by training or by a test (R41, R474): its region folds, and with more than four hidden blocks the region is hidden as a whole. -/
def hideBlock (p : Pkg) (b : Nat) : Pkg :=
  let p := wr p Ix.blockState b 4
  if 4 < hiddenBlocks p (b / 8) then hideRegion p (b / 8) else showUnits p (b / 8)

/-- A block hidden at runtime (R43): its region folds from the partition's next step; with more than four hidden blocks the region is
hidden as a whole. A region that no partition owns has no step to wait for. -/
def hideAtRun (p : Pkg) (b : Nat) : Pkg :=
  let p := wr { p with tp := { p.tp with hiddenAtRun := p.tp.hiddenAtRun ++ [b] } } Ix.blockState b 4
  if 4 < hiddenBlocks p (b / 8) then hideRegion p (b / 8)
  else if (partOfRegion p (b / 8)).isNone then showUnits p (b / 8)
  else showHidden p

/-- Hidden cells of a block (0x2011). -/
def hiddenCellCount (p : Pkg) (b : Nat) : Nat := ((List.range 8).filter (fun c => bit (rd p Ix.blockHiddenCells b) c)).length

/-- Hides a cell with a state of 0x2120; a block with more than two hidden cells is hidden as a whole (R10). -/
def hideCell (p : Pkg) (c state : Nat) : Pkg :=
  let b := c / 8
  let p := wrAt p Ix.cellState (c / 64) (c % 64) state
  let m := rd p Ix.blockHiddenCells b
  let p := if bit m (c % 8) then p else wr p Ix.blockHiddenCells b (m + 2 ^ (c % 8))
  if 2 < hiddenCellCount p b then hideBlock p b else showHidden p

/-- Hides a unit at start (R474): a cell, a block or a region; channels and lanes are left out by training (R477). -/
def hideUnit (p : Pkg) (kind unit : Nat) : Pkg :=
  match kind with
  | 1 => hideCell p unit 1
  | 2 => hideBlock p unit
  | 3 => hideRegion p unit
  | _ => p

/-- Counts a block's time with a pass in flight up to now (0x2017, 0x6010; R422), before its passes change. -/
def countBusy (p : Pkg) (b : Nat) : Pkg :=
  match (blk p b).passes.filter (·.running) with
  | [] => p
  | q :: _ =>
    let d := p.now - max q.startNs (blk p b).busyUntil
    let p := bump (modBlk p b (fun k => { k with busyUntil := p.now })) Ix.blockBusyAclk b (d * 21 / 20)
    match partOfBlock p b with
    | some pp => bump p Ix.pcEngineNs pp d
    | none => p

/-- Stops a block with a status (R73): state 3; the pass pointer stays on the failing descriptor. -/
def stopBlock (p : Pkg) (b status : Nat) : Pkg :=
  let p := setAct (countBusy p b) b 3
  wr (wr (modBlk p b (fun k => { k with passes := [], rejected := none })) Ix.blockLastStatus b status) Ix.regionLastStatus (b / 8) status

/-- Abandons a block's passes (R425 phase 1, R444 step 1). -/
def idleBlock (p : Pkg) (b : Nat) : Pkg :=
  let p := countBusy p b
  let p := if (blk p b).act = 3 then p else setAct p b 0
  modBlk p b (fun k => { k with passes := [], rejected := none, lastFetched := true, stopAt := none, cellErrors := [], reexecs := [] })

/-- Clears one block's counters, tallies and p (R70): it has no current step until its next step start. -/
def clearBlock (last : Option Nat) (p : Pkg) (b : Nat) : Pkg :=
  let p := setAct p b 0
  modBlk p b (fun k => { k with
    counters := [], tallies := [], p := 0, step := none, beforeClear := last, prevBase := none, passes := [], rejected := none,
    stopAt := none, reported := false, stepDone := false, lastFetched := true, marks := 0 })

/-- Clears counters, tallies and p of every block of a partition (R70, R416). -/
def clearStepState (p : Pkg) (pp : Nat) : Pkg := (blocksOf p pp).foldl (clearBlock (if (part p pp).pc.numbered then some (stepOf p pp) else none)) p

/-- Clears the blocks of regions that pass to a new owner (R428). -/
def clearRegionBlocks (p : Pkg) (rs : List Nat) : Pkg := (rs.flatMap blocksOfRegion).foldl (clearBlock none) p

/-- Restores a block's counters, tallies and p to the start of the rolled-back step (R71). -/
def restoreBlock (p : Pkg) (b : Nat) : Pkg :=
  modBlk p b (fun k => { k with counters := k.snapCounters, tallies := k.snapTallies, p := k.snapP, passes := [], rejected := none })

/-- Whether step `a` lies ahead of step `b` under the modular comparison of R67. -/
def stepAhead (a b : Nat) : Bool := a != b && decide ((a + 2 ^ 32 - b) % 2 ^ 32 < 2 ^ 31)

/-- Adds to a pending tally (R69): an increment that would take it above 65,535 is refused with 0x0E0C and event
0x0157. -/
def addTally (p : Pkg) (b idx n : Nat) : Pkg × Nat :=
  let t := tget (blk p b).tallies idx 0
  if 65535 < t + n then (raiseAs p Ix.regionLastStatus (b / 8) 0x0157 ((partOfBlock p b).getD 0xFF) b 0, 0x0E0C)
  else (modBlk p b (fun k => { k with tallies := tput k.tallies idx (t + n) }), 0)

/-- Applies an increment of `n` to counter `idx` of block `b`, tagged with a step (R69 to R71); the answer is 0 or the
status of the error completion. Increments of a step being rolled back are discarded until it starts again. -/
def incCounter (p : Pkg) (b idx n step : Nat) (rolledBack : Bool) : Pkg × Nat :=
  let k := blk p b
  match k.step with
  | none =>
    match k.beforeClear with
    | some c => if stepAhead step c then addTally p b idx n else (p, 0)
    | none => addTally p b idx n
  | some s =>
    if step = (s + 1) % 2 ^ 32 then addTally p b idx n
    else if stepAhead step s then (raiseAs p Ix.regionLastStatus (b / 8) 0x0157 ((partOfBlock p b).getD 0xFF) b 0, 0x0E0B)
    else if step = s ∧ rolledBack = true then (p, 0)
    else match k.beforeClear with
      | some c =>
        if stepAhead step c then
          (modBlk p b (fun k => { k with counters := tput k.counters idx ((tget k.counters idx 0 + n) % 2 ^ 32) }), 0)
        else (p, 0)
      | none => (modBlk p b (fun k => { k with counters := tput k.counters idx ((tget k.counters idx 0 + n) % 2 ^ 32) }), 0)

/-- Whether a wait is met (R67). -/
def waitMet (counter stride offset p : Nat) : Bool :=
  decide ((counter + 2 ^ 32 - (stride * p + offset) % 2 ^ 32) % 2 ^ 32 < 2 ^ 31)

/-- Adds the pending tallies to the counters (R69, R70). -/
def addTallies (k : Blk) : Blk :=
  { k with counters := k.tallies.foldl (fun c e => tput c e.1 ((tget c e.1 0 + e.2) % 2 ^ 32)) k.counters, tallies := [] }

/-- A block's counters at a step start (R70): cleared and given the tallies when the entry asks for a clear and names
another program, or at the first step after a clear; otherwise the tallies are added and p rises by 1. The values are
kept for a rollback (R71); a recomputation starts from them. -/
def startCounters (k : Blk) (step base : Nat) (clearFlag recompute : Bool) : Blk :=
  let k' :=
    if recompute then k
    else if k.step.isNone then addTallies { k with p := 0 }
    else if clearFlag && k.prevBase != some base then
      addTallies { k with counters := [], p := 0, beforeClear := some ((step + 2 ^ 32 - 1) % 2 ^ 32) }
    else addTallies { k with p := (k.p + 1) % 2 ^ 32 }
  { k' with step := some step, prevBase := some base, snapCounters := k'.counters, snapTallies := k'.tallies, snapP := k'.p,
            index := 0, passes := [], rejected := none, lastFetched := false, stepDone := false, marks := 0, gapRaised := false, stopAt := none,
            reported := false, cellErrors := [], reexecs := [] }

/-- Whether every usable logical block of the partition has completed its LAST pass (R441). -/
def lastPassesDone (p : Pkg) (pp : Nat) : Bool := (blocksOf p pp).all (fun b => regionHidden p (b / 8) || (blk p b).stepDone)

/-- Chooses the mark of a preemption (R78): the highest count completed plus 1, sent to every block. A block with no pass to come has
nothing to save. -/
def beginPreempt (p : Pkg) (pp : Nat) : Pkg :=
  let n := ((blocksOf p pp).map (fun b => (blk p b).marks)).foldl max 0 + 1
  (blocksOf p pp).foldl (fun p b => modBlk p b (fun k => { k with stopAt := some n, reported := k.stepDone || !(part p pp).pc.stepRunning })) p

/-- The work of a pass is taken back (R78): a pass that lies behind the mark at which its block stops runs again after the resume. -/
def dropPass (pp : Nat) (p : Pkg) (q : Pass) : Pkg :=
  modRu p pp (fun r => { r with captureUsed := r.captureUsed - (q.audited.map (·.2.2)).sum })

/-- Whether every block of a preempted partition has reported and every asynchronous copy has completed (R78). -/
def preemptSaved (p : Pkg) (pp : Nat) : Bool :=
  (blocksOf p pp).all (fun b =>
    let k := blk p b
    regionHidden p (b / 8) || k.stopAt.isNone || k.reported || k.stepDone || k.act == 3)
  && p.ms.slots.all (fun e => !(e.2.busy && e.2.partition == pp))

/-- Discards a preempted partition's saved state (R416, R462): blocks are idle and the step is over. -/
def discardSaved (p : Pkg) (pp : Nat) : Pkg := (blocksOf p pp).foldl idleBlock p

end Sys2Proof.Machine
end

