-- ==== Sys2Proof/Machine/WordCode.lean ====
section
/-! DEFINITION. The word code that guards every memory of the package (R243 to R245). -/

namespace Sys2Proof.Machine

/-- q_i: the integers from 3 to 38 that are not powers of two, ascending (R243). -/
def codePositions : List Nat :=
  [3, 5, 6, 7, 9, 10, 11, 12, 13, 14, 15, 17, 18, 19, 20, 21, 22, 23, 24, 25, 26, 27, 28, 29, 30, 31, 33, 34, 35, 36, 37, 38]

/-- Data bits that check bit k covers, as a mask (R243). -/
def checkMask (k : Nat) : Word :=
  BitVec.ofNat 32 ((codePositions.zipIdx).foldl (fun m e => if e.1.testBit k then m + 2 ^ e.2 else m) 0)

/-- Parity of the low `n` bits. -/
def parity {w : Nat} (v : BitVec w) : Nat → Bool
  | 0 => false
  | n + 1 => (v.getLsbD n) != parity v n

/-- Check bits 5 to 0 of a data word (R243). -/
def checkBits (d : Word) : BitVec 6 :=
  BitVec.ofNat 6 ((List.range 6).foldl (fun m k => if parity (d &&& checkMask k) 32 then m + 2 ^ k else m) 0)

/-- The stored word of clean data (R243): POISON 0, PAR, CHK, DATA. -/
def encodeWord (d : Word) : StoredWord :=
  let c := checkBits d
  let par := parity d 32 != parity c 6
  BitVec.ofNat 40 (d.toNat + c.toNat * 2 ^ 32 + (if par then 2 ^ 38 else 0))

/-- A poisoned word as it is written (R245). -/
def poisonWord : StoredWord := 0xFF00000000#40

/-- What a reader finds (R244, R245): data, with whether it was corrected; poison, with whether the pattern needed a
correction; or an uncorrectable word. -/
inductive Decoded where
  | data (d : Word) (corrected : Bool)
  | poisoned (corrected : Bool)
  | uncorrectable
  deriving DecidableEq, Repr

/-- Decoding of bits [38:0] (R244). -/
def decodeClean (s : StoredWord) : Decoded :=
  let d := s.setWidth 32
  let chk := (s >>> 32).setWidth 6
  let syn := (checkBits d ^^^ chk).toNat
  let e := parity s 39
  if !e then (if syn = 0 then .data d false else .uncorrectable)
  else if syn = 0 ∨ isPow2 syn = true then .data d true
  else match codePositions.idxOf? syn with
    | some i => .data (d ^^^ (1#32 <<< i)) true
    | none => .uncorrectable

/-- Number of ones among the low `n` bits. -/
def ones {w : Nat} (v : BitVec w) : Nat → Nat
  | 0 => 0
  | n + 1 => ones v n + (if v.getLsbD n then 1 else 0)

/-- Poison recognition, then decoding (R245). -/
def decodeWord (s : StoredWord) : Decoded :=
  let low := s.setWidth 39
  let dist := ones (low ^^^ 0x7F00000000#39) 39
  if s.getLsbD 39 then
    if dist ≤ 1 then .poisoned (dist == 1)
    else match decodeClean s with
      | .data d _ => .data d true
      | _ => .uncorrectable
  else if dist = 0 then .poisoned true
  else decodeClean s

end Sys2Proof.Machine
end

