-- ==== Sys2Proof/Machine/Memory.lean ====
section
/-! DEFINITION. Chapter 10: the local address map, package memory in canonical form, and reads and writes of it with
the answers of R239 and R246. -/

namespace Sys2Proof.Machine

/-- Puts a byte; a byte equal to what an unlisted address reads as (zero) is not listed. -/
def setByte : List Host.Cell → Nat → Byte → List Host.Cell
  | [], a, b => if b = 0 then [] else [(a, b)]
  | (k, w) :: t, a, b =>
    if a < k then (if b = 0 then (k, w) :: t else (a, b) :: (k, w) :: t)
    else if k = a then (if b = 0 then t else (a, b) :: t)
    else (k, w) :: setByte t a b

/-- The byte at an address: zero where nothing is listed (R478; assumption 14 for SRAM). -/
def getByte : List Host.Cell → Nat → Byte
  | [], _ => 0
  | (k, w) :: t, a => if k = a then w else getByte t a

/-- Puts consecutive bytes. -/
def setBytes (c : List Host.Cell) (a : Nat) : Bytes → List Host.Cell
  | [] => c
  | b :: t => setBytes (setByte c a b) (a + 1) t

/-- Reads consecutive bytes. -/
def getBytes (c : List Host.Cell) (a n : Nat) : Bytes := (List.range n).map (fun i => getByte c (a + i))

/-- What is left of an undefined range when a range is written. -/
def cutStale (a n : Nat) (s : Nat × Nat × Nat) : List (Nat × Nat × Nat) :=
  if s.1 < a + n ∧ a < s.1 + s.2.1 then
    (if s.1 < a then [(s.1, a - s.1, s.2.2)] else [])
    ++ (if a + n < s.1 + s.2.1 then [(a + n, s.1 + s.2.1 - (a + n), s.2.2)] else [])
  else [s]

/-- Takes a written range out of the undefined ranges. -/
def Mem.defined (m : Mem) (a n : Nat) : Mem := if m.stale.isEmpty then m else { m with stale := m.stale.flatMap (cutStale a n) }

/-- A byte as it lies in memory: undefined in a range that a resume or a pass's fills left so (R32, R78), a free value (assumption 6). -/
def memByte (m : Mem) (a : Nat) : Byte :=
  match m.stale.find? (fun s => decide (s.1 ≤ a) && decide (a < s.1 + s.2.1)) with
  | some s => Config.undefinedByte (s.2.2 * 2 ^ 46 + a)
  | none => getByte m.data a

/-- Bytes as they lie in memory. -/
def rawBytes (m : Mem) (a n : Nat) : Bytes :=
  if m.stale.all (fun s => decide (s.1 + s.2.1 ≤ a) || decide (a + n ≤ s.1)) then getBytes m.data a n else (List.range n).map (fun i => memByte m (a + i))

/-- Keys of a list rise strictly. -/
def keysRise {α : Type} : List (Nat × α) → Bool
  | [] => true
  | [_] => true
  | a :: b :: t => decide (a.1 < b.1) && keysRise (b :: t)

/-- The canonical form: addresses rise, no listed byte is zero, and the words listed beside them rise too. -/
def Memory.wf (m : Mem) : Bool := keysRise m.data && m.data.all (fun c => c.2 != 0) && keysRise m.raw

/-- DATA of the word at word address `w` (address / 4), as the listed bytes spell it. -/
def dataWord (m : Mem) (w : Nat) : Word := BitVec.ofNat 32 (leNat (rawBytes m (4 * w) 4))

/-- Whether a poison fill has passed over a word (R258, R261). -/
def inFill (m : Mem) (w : Nat) : Bool := m.fills.any (fun f => decide (f.1 ≤ 4 * w) && decide (4 * w < f.1 + f.2))

/-- The stored 40 bits of a word whose bytes spell `d` where no entry says otherwise. -/
def plainWord (m : Mem) (w : Nat) (d : Word) : StoredWord := if inFill m w then poisonWord else encodeWord d

/-- The stored 40 bits of a word (R243). -/
def storedWord (m : Mem) (w : Nat) : StoredWord := (tfind m.raw w).getD (plainWord m w (dataWord m w))

/-- Stores 40 bits as they are; what the bytes and the fills make it needs no entry of its own. -/
def storeWord (m : Mem) (w : Nat) (s : StoredWord) : Mem :=
  let d := s.setWidth 32
  { m.defined (4 * w) 4 with
           data := setBytes m.data (4 * w) (leBytes 4 d.toNat),
           raw := if s = plainWord m w d then tdel m.raw w else tput m.raw w s }

/-- Writes a word as poisoned (R245, R246). -/
def poisonAt (m : Mem) (w : Nat) : Mem := storeWord m w poisonWord

/-- Writes bytes over clean words. -/
def putBytes (m : Mem) (a : Nat) (b : Bytes) : Mem := { m.defined a b.length with data := setBytes m.data a b }

/-- Words that a range touches. -/
def wordsOf (a n : Nat) : List Nat := if n = 0 then [] else (List.range ((a + n - 1) / 4 - a / 4 + 1)).map (fun i => a / 4 + i)

/-- Words that a range touches and whose stored bits are not those of clean data. -/
def badWords (m : Mem) (a n : Nat) : Tbl StoredWord :=
  if m.fills.any (fun f => decide (f.1 < a + n) && decide (a < f.1 + f.2)) then
    (wordsOf a n).filterMap (fun w =>
      let s := storedWord m w
      if s = encodeWord (dataWord m w) then none else some (w, s))
  else m.raw.filter (fun e => decide (a / 4 ≤ e.1) && decide (e.1 * 4 < a + n))

/-- Prepares a touched bad word for a write (R246): wholly covered it is replaced; partly covered, a correctable word
is corrected before the merge and any other is written as poisoned. -/
def prepareWord (a n : Nat) (m : Mem) (e : Nat × StoredWord) : Mem :=
  if a ≤ e.1 * 4 ∧ e.1 * 4 + 4 ≤ a + n then storeWord m e.1 (encodeWord 0)
  else match decodeWord e.2 with
    | .data d _ => storeWord m e.1 (encodeWord d)
    | _ => poisonAt m e.1

/-- Bytes of a write that fall into words it does not poison; a word's bytes go in with its clean encoding. -/
def writeAround (m : Mem) (a : Nat) (b : Bytes) : Mem :=
  if m.raw.isEmpty && m.fills.isEmpty then putBytes m a b
  else (wordsOf a b.length).foldl (fun m w =>
    match decodeWord (storedWord m w) with
    | .data d _ =>
      let new := (List.range 4).map (fun i =>
        if a ≤ 4 * w + i ∧ 4 * w + i < a + b.length then b.getD (4 * w + i - a) 0 else (leBytes 4 d.toNat).getD i 0)
      storeWord m w (encodeWord (BitVec.ofNat 32 (leNat new)))
    | _ => m) m

/-- A store of bytes (R246): partial words are read, merged and encoded again. -/
def memWrite (m : Mem) (a : Nat) (b : Bytes) : Mem :=
  writeAround ((badWords m a b.length).foldl (prepareWord a b.length) m) a b

/-- A store of poison: every word the range touches is written as poisoned (R246, R336). -/
def memPoison (m : Mem) (a n : Nat) : Mem :=
  (wordsOf a n).foldl poisonAt m

/-- Bytes of a range after correction. -/
def memBytes (m : Mem) (a n : Nat) : Bytes :=
  let bad := badWords m a n
  if bad.isEmpty then rawBytes m a n
  else (List.range n).map (fun i =>
    match tfind bad ((a + i) / 4) with
    | none => memByte m (a + i)
    | some s => match decodeWord s with
      | .data d _ => (leBytes 4 d.toNat).getD ((a + i) % 4) 0
      | _ => 0)

/-- Fills a range with the poison pattern (R258, R261). -/
def memFill (m : Mem) (a n : Nat) : Mem :=
  { data := m.data.filter (fun c => !(decide (a ≤ c.1) && decide (c.1 < a + n))),
    raw := m.raw.filter (fun c => !(decide (a ≤ c.1 * 4) && decide (c.1 * 4 < a + n))),
    fills := m.fills.filter (fun f => f != (a, n)) ++ [(a, n)], stale := m.stale, staleNo := m.staleNo }

/-- Zeroes a range that no fill has passed over. -/
def memZero (m : Mem) (a n : Nat) : Mem :=
  { m.defined a n with
    data := m.data.filter (fun c => !(decide (a ≤ c.1) && decide (c.1 < a + n))),
    raw := m.raw.filter (fun c => !(decide (a / 4 ≤ c.1) && decide (c.1 * 4 < a + n))) }

/-- Makes a range undefined (R32, R78): its bytes are free values from now on until they are written. -/
def memUndefine (m : Mem) (a n : Nat) : Mem :=
  let m := memZero m a n
  { m with stale := m.stale ++ [(a, n, m.staleNo)], staleNo := m.staleNo + 1 }

/-- Where an address lies (R34, R236). -/
inductive Place where
  | t0 (stack offset : Nat)
  | t1 (channel offset : Nat)
  | t2 (slot offset : Nat)
  | sram (block offset : Nat)
  | control (offset : Nat)
  | absent
  deriving DecidableEq, Repr

/-- The local address map (R236, R34, R242). -/
def place (a : Nat) : Place :=
  if a < 0x00C000000000 then .t0 (a / 0x001000000000) (a % 0x001000000000)
  else if 0x010000000000 ≤ a ∧ a < 0x030000000000 then
    .t1 ((a - 0x010000000000) / 0x002000000000) ((a - 0x010000000000) % 0x002000000000)
  else if 0x040000000000 ≤ a ∧ a < 0x054000000000 then
    .t2 ((a - 0x040000000000) / 0x40000000) ((a - 0x040000000000) % 0x40000000)
  else if 0x3F0000000000 ≤ a ∧ a < 0x3F0060000000 then
    .sram ((a - 0x3F0000000000) / 0x01000000) ((a - 0x3F0000000000) % 0x01000000)
  else if 0x3FF000000000 ≤ a ∧ a ≤ 0x3FFFFFFFFFFF then .control (a - 0x3FF000000000)
  else .absent

/-- Number of a range of R236: ranges of one table row share it; 9 for absent. -/
def rangeNo (a : Nat) : Nat :=
  match place a with
  | .t0 _ _ => 0
  | .t1 _ _ => 1
  | .t2 _ _ => 2
  | .sram _ _ => 3
  | .control _ => 4
  | .absent => 9

/-- Whether an extent lies inside one range of the map (R72, 0x0149). -/
def inOneRange (a n : Nat) : Bool := rangeNo a != 9 && (n == 0 || rangeNo (a + n - 1) == rangeNo a)

/-- Address of block SRAM offset 0 of a block (R34). -/
def sramBase (b : Nat) : Nat := 0x3F0000000000 + b * 0x01000000

/-- Cell whose operand buffer holds an SRAM offset (R34). -/
def bufferCell (offset : Nat) : Option Nat := if offset < 0x00C00000 then none else some ((offset - 0x00C00000) / 0x00080000)

/-- Whether a physical block has a pass in flight, of its own program or of its guest's (R30, R35, R41). -/
def passInFlight (p : Pkg) (h : Nat) : Bool := (hosted p h).any (fun b => (blk p b).passes.any (·.running))

/-- Records of the window table (R339). -/
def windowRecords (p : Pkg) : List Bytes := records 32 (rdB p Ix.msWindowTable 0)

/-- The T2 window record that an address lies in (R339). -/
def t2Window (p : Pkg) (a : Nat) : Option Bytes :=
  (windowRecords p).find? (fun b => leAt b 0 1 == 2 && decide (leAt b 8 8 ≤ a) && decide (a < leAt b 8 8 + leAt b 16 8))

/-- Status that an access of one kind of place meets before any word is touched, 0 for none (R35, R45, R239, R261 to
R263, R258, R259); `outside` for an access that comes from outside the block or region. -/
def accessStatus (p : Pkg) (a : Nat) (write outside : Bool) : Nat :=
  match place a with
  | .t0 s off =>
    if outside && p.tp.fenced.contains s then 0x0106
    else if regionHidden p s then 0x0901
    else
      let st := rd p Ix.hbStackState s
      if st = 4 then 0x0901
      else if (st = 2 ∨ st = 3) ∧ 62 * 2 ^ 30 ≤ off then 0x0901
      else if write then 0
      else match tfind p.tm.poisonFill s with
        | some f => if f ≤ off then 0x0A03 else 0
        | none => 0
  | .t1 c off =>
    if rd p Ix.ddChannelState c = 3 then 0x0B02
    else if rd p Ix.ddDimmBytes c ≤ off then 0x0901 else 0
  | .t2 w _ =>
    if p.tm.loans.any (fun l => l.slot == some w) then
      match t2Window p a with
      | some b => if bit (leAt b 4 1) (if write then 1 else 0) then 0 else 0x0E03
      | none => 0x0E03
    else (tfind p.tm.withdrawn w).getD 0x0901
  | .sram b off =>
    if outside && p.tp.fenced.contains (b / 8) then 0x0106
    else if blockHidden p b then 0x0107
    else match bufferCell off with
      | none => 0
      | some c => if cellHidden p (b * 8 + c) then 0x0107 else if outside && passInFlight p b then 0x01E0 else 0
  | .control _ => 0x0E05
  | .absent => 0x0901

/-- Status of a poisoned and of an uncorrectable word at an address (R46, R246). -/
def poisonStatus (a : Nat) : Nat :=
  match place a with
  | .t0 _ _ => 0x0AE4
  | .t1 _ _ => 0x0BE4
  | _ => 0x01E4
def badStatus (a : Nat) : Nat :=
  match place a with
  | .t0 _ _ => 0x0A01
  | .t1 _ _ => 0x0B01
  | _ => 0x0103

/-- HBM4 channel of a stack offset (R240, R261): 32 channels in full mode, the 31 working ones in degraded mode. -/
def hbChannel (p : Pkg) (stack offset : Nat) : Nat :=
  if rd p Ix.hbStackState stack = 0 ∨ rd p Ix.hbFailedChannel stack = 0xFF then offset / 256 % 32
  else
    let i := offset / 256 % 31
    if i < rd p Ix.hbFailedChannel stack then i else i + 1

/-- One more corrected error of a cell (R42): a rise by `tp_corrected_alert_count` within the window raises event 0x0110; the errors
weighed then weigh no more (DESIGN CHOICE, assumption 175). -/
def countCorrected (p : Pkg) (cell : Nat) : Pkg :=
  let p := bumpAt p Ix.cellCorrectedCount (cell / 64) (cell % 64) 1
  let recent := (tget p.tp.corrected cell []).filter (fun t => decide (p.now ≤ t + rd p Ix.tpCorrectedAlertWindowS 0 * 1000000000)) ++ [p.now]
  if rd p Ix.tpCorrectedAlertCount 0 ≤ recent.length then
    raiseAs { p with tp := { p.tp with corrected := tdel p.tp.corrected cell } } Ix.regionLastStatus (cell / 64) 0x0110
      ((partOfBlock p (cell / 8)).getD 0xFF) cell 0
  else { p with tp := { p.tp with corrected := tput p.tp.corrected cell recent } }

/-- Counts one word found corrected, uncorrectable or poisoned (0x4802 to 0x4804, 0x4810, 0x4C02 to 0x4C04, 0x2016,
0x2100, 0x2110). -/
def countWord (p : Pkg) (a kind : Nat) : Pkg :=
  match place a, kind with
  | .t0 s off, 0 => bumpAt (bump p Ix.hbCorrected s 1) Ix.hbChannelCorrected s (hbChannel p s off) 1
  | .t0 s _, 1 => bump p Ix.hbUncorrectable s 1
  | .t0 s _, _ => bump p Ix.hbPoisonReads s 1
  | .t1 c _, 0 => bump p Ix.ddCorrected c 1
  | .t1 c _, 1 => bump p Ix.ddUncorrectable c 1
  | .t1 c _, _ => bump p Ix.ddPoisonReads c 1
  | .sram b off, 0 => match bufferCell off with
    | none => bump p Ix.blockSramCorrected b 1
    | some c => countCorrected p (b * 8 + c)
  | .sram b off, 1 => match bufferCell off with
    | none => p
    | some c => bumpAt p Ix.cellUncorrectableCount (b / 8) (b % 8 * 8 + c) 1
  | _, _ => p

/-- A bad line of a channel, with the time it was found (R260). -/
def noteBadLine (p : Pkg) (a : Nat) : Pkg :=
  let key := match place a with
    | .t0 s off => some (s * 32 + hbChannel p s off)
    | .t1 c _ => some (0x400 + c)
    | _ => none
  match key with
  | none => p
  | some k =>
    let l := (tget p.tm.badLines k []).filter (fun e => e.1 != a / 64)
    { p with tm := { p.tm with badLines := tput p.tm.badLines k (l ++ [(a / 64, p.now)]) } }

/-- One touched bad word of a read (R244 to R246): counted; an uncorrectable one is rewritten as poisoned; the first
error is the read's status. -/
def readBad (acc : Pkg × Nat) (e : Nat × StoredWord) : Pkg × Nat :=
  let a := e.1 * 4
  match decodeWord e.2 with
  | .data _ corrected => (if corrected then countWord acc.1 a 0 else acc.1, acc.2)
  | .poisoned corrected =>
    let p := countWord acc.1 a 2
    (if corrected then countWord p a 0 else p, if acc.2 = 0 then poisonStatus a else acc.2)
  | .uncorrectable =>
    let p := noteBadLine (countWord acc.1 a 1) a
    ({ p with mem := poisonAt p.mem e.1 }, if acc.2 = 0 then badStatus a else acc.2)

/-- Bytes moved by a stack (0x4806). -/
def countMoved (p : Pkg) (a n : Nat) : Pkg :=
  match place a with
  | .t0 s _ => bump p Ix.hbBytesMoved s n
  | _ => p

/-- One byte of another package's answer: a free value numbered by the reads so far (assumption 4). An error that names no status is
the one of no answer, 0x0E0A; so is one outside the codes of R4, whose high byte is 0x01 to 0x14. -/
def remoteByte (acc : Pkg × Except Nat Bytes) (a : Nat) : Pkg × Except Nat Bytes :=
  let p := { acc.1 with ms := { acc.1.ms with remoteReads := acc.1.ms.remoteReads + 1 } }
  match acc.2, Config.remoteRead acc.1.ms.remoteReads a with
  | .ok l, .ok b => (p, .ok (l ++ [b]))
  | .ok _, .error s => (p, .error (if 1 ≤ s / 256 ∧ s / 256 ≤ 0x14 then s else 0x0E0A))
  | .error s, _ => (p, .error s)

/-- Reads bytes of another package (R338, R341); one that is a hole is lost (R352). -/
def remoteRead (p : Pkg) (a n : Nat) : Pkg × Except Nat Bytes :=
  if p.tf.holes.contains (a / 2 ^ 46 % 1024) then (p, .error 0x0E01)
  else (List.range n).foldl (fun acc i => remoteByte acc (a + i)) (p, .ok [])

/-- The lender's address that a T2 address stands for (R257, R339): lender package and its local T1 address. -/
def t2Target (p : Pkg) (a : Nat) : Option (Nat × Nat) :=
  match place a with
  | .t2 _ _ => (t2Window p a).map (fun b => (leAt b 2 2, leAt b 24 8 + (a - leAt b 8 8)))
  | _ => none

/-- A status of the Tensor Pipeline that an access meets is the last one raised in its region (R48, R50). -/
def noteAccess (p : Pkg) (a status : Nat) : Pkg :=
  if status / 256 ≠ 1 then p
  else match place a with
    | .t0 s _ => last p Ix.regionLastStatus s status
    | .sram b _ => last p Ix.regionLastStatus (b / 8) status
    | _ => p

/-- Addresses at which the answer of R239 to an access of `n` bytes can change: no place, stack, DIMM, T2 window, block SRAM or operand
buffer begins or ends between them. -/
def rangeParts (a n : Nat) : List Nat :=
  let g := if rangeNo a = 2 then 0x1000 else 0x80000
  a :: (List.range ((a + n - 1) / g - a / g)).map (fun i => (a / g + 1 + i) * g)

/-- The first status that an access of `n` bytes meets, 0 for none (R239). -/
def rangeStatus (p : Pkg) (a n : Nat) (write outside : Bool) : Nat :=
  (rangeParts a n).foldl (fun st x => if st = 0 then accessStatus p x write outside else st) 0

/-- Reads T2 at its lenders, at most 256 bytes a READ (R257, R336). -/
def loadT2 (p : Pkg) (a n : Nat) : Pkg × Except Nat Bytes :=
  (pieces a (List.replicate n 0)).foldl (fun acc c => match acc.2, t2Target acc.1 c.1 with
    | .ok l, some (q, t) =>
      let r := remoteRead acc.1 (q * 2 ^ 46 + t) c.2.length
      (r.1, r.2.map (l ++ ·))
    | .ok _, none => (acc.1, .error 0x0E03)
    | .error _, _ => acc) (p, .ok [])

/-- Reads local memory (R239, R246): the bytes, or the status of the access. T2 is read at its lender. -/
def loadLocal (p : Pkg) (a n : Nat) (outside : Bool) : Pkg × Except Nat Bytes :=
  let st := rangeStatus p a n false outside
  if st ≠ 0 then (noteAccess p a st, .error st)
  else if rangeNo a = 2 then loadT2 p a n
  else
      let r := (badWords p.mem a n).foldl readBad (countMoved p a n, 0)
      if r.2 ≠ 0 then (noteAccess r.1 a r.2, .error r.2) else (r.1, .ok (memBytes p.mem a n))

/-- Whether a write must wait for a fill frontier (R261, R478). -/
def mustHold (p : Pkg) (a : Nat) : Bool :=
  match place a with
  | .t0 s off => match tfind p.tm.poisonFill s with
    | some f => decide (f ≤ off)
    | none => false
  | .t1 c off => match tfind p.tm.zeroFill c with
    | some f => decide (f ≤ off) && !(tget p.tm.skip c []).contains (off / 4096)
        && decide (4096 ≤ (tget p.tm.skip c []).length)
    | none => false
  | _ => false

/-- Enters a granule written above a zero fill's frontier in the channel's skip list (R478). -/
def enterSkip (p : Pkg) (a : Nat) : Pkg :=
  match place a with
  | .t1 c off => match tfind p.tm.zeroFill c with
    | some f =>
      let l := tget p.tm.skip c []
      if f ≤ off ∧ !l.contains (off / 4096) then { p with tm := { p.tm with skip := tput p.tm.skip c (l ++ [off / 4096]) } } else p
    | none => p
  | _ => p

/-- Marks the lines of a page being copied that a write touches (R252). -/
def markDirty (p : Pkg) (a n : Nat) : Pkg :=
  if p.tm.moves.isEmpty then p
  else
    let touch := fun (m : Move) =>
      let size := rd p Ix.akPageSlotBytes m.partition
      if m.source < a + n ∧ a < m.source + size then
        { m with dirty := m.dirty ++ ((List.range ((a + n - 1) / 64 - a / 64 + 1)).map (fun i => a / 64 + i)).filter
                   (fun l => decide (m.source ≤ 64 * l) && decide (64 * l < m.source + size) && !m.dirty.contains l) }
      else m
    { p with tm := { p.tm with moves := p.tm.moves.map touch } }

/-- Performs a store whose place is known to exist. -/
def storeNow (p : Pkg) (a : Nat) (b : Bytes) (poison : Bool) : Pkg :=
  let p := markDirty (countMoved (enterSkip p a) a b.length) a b.length
  { p with mem := if poison then memPoison p.mem a b.length else memWrite p.mem a b }

/-- Whether a write to a place completes later: held for a frontier (R261, R478), or sent to the lender of a T2 unit (R257). -/
def defers (p : Pkg) (a : Nat) : Bool := rangeNo a == 2 || mustHold p a

/-- One part of a store, within one 4 KiB granule: performed, or held (R261, R478). -/
def storePart (t : Txn) (p : Pkg) (w : Nat × Bytes) : Pkg :=
  if mustHold p w.1 then { p with tm := { p.tm with held := p.tm.held ++ [{ t with addr := w.1, data := w.2, bytes := w.2.length }] } }
  else storeNow p w.1 w.2 t.poison

/-- One part of a store to T2, within 256 bytes, sent to its lender (R257, R336). -/
def sendPart (t : Txn) (p : Pkg) (w : Nat × Bytes) : Pkg :=
  match t2Target p w.1 with
  | some (q, a) => send p { t with dest := q, addr := a, data := w.2, bytes := w.2.length, via := w.1 }
  | none => p

/-- Writes local memory (R239, R246): the status of the access, 0 when the write is performed, held for a frontier or sent to the lender of a
T2 unit. A write that is not performed at once completes later with the given purpose. -/
def storeLocal (p : Pkg) (a : Nat) (b : Bytes) (poison outside : Bool) (source partition step : Nat) (purpose : Purpose := .plain) : Pkg × Nat :=
  let st := rangeStatus p a b.length true outside
  let t : Txn := { source, partition, dest := ownId p, type := 1, poison, step, purpose }
  if st ≠ 0 then (noteAccess p a st, st)
  else if rangeNo a = 2 then ((pieces a b).foldl (sendPart t) (markDirty p a b.length), 0)
  else if p.tm.zeroFill.isEmpty && p.tm.poisonFill.isEmpty then (storeNow p a b poison, 0)
  else ((cut 4096 (b.length / 4096 + 2) a b).foldl (storePart t) p, 0)

/-- Zeroes block SRAM and operand buffers of regions (R425 phase 7, R428). -/
def zeroSram (p : Pkg) (rs : List Nat) : Pkg :=
  (rs.flatMap blocksOfRegion).foldl (fun p b => { p with mem := memZero p.mem (sramBase b) 0x01000000 }) p

end Sys2Proof.Machine
end

