-- ==== Sys2Proof/Machine/AkOps.lean ====
section
/-! DEFINITION. Chapter 5: the layer table, the page pool with its directories and vectors, and the manager's work on
pages outside a pass: reservation, commit, rollback, eviction and freeing (R111, R117 to R122, R133, R134). -/

namespace Sys2Proof.Machine

/-- Changes the Attention and KV Manager's, the Expert Router's, the Sampler's, the Scheduler's and Stream Egress's state
of a partition. -/
def modAk (p : Pkg) (pp : Nat) (f : AkPart → AkPart) : Pkg := modPart p pp (fun q => { q with ak := f q.ak })
def modEr (p : Pkg) (pp : Nat) (f : ErPart → ErPart) : Pkg := modPart p pp (fun q => { q with er := f q.er })
def modSv (p : Pkg) (pp : Nat) (f : SvPart → SvPart) : Pkg := modPart p pp (fun q => { q with sv := f q.sv })
def modSc (p : Pkg) (pp : Nat) (f : ScPart → ScPart) : Pkg := modPart p pp (fun q => { q with sc := f q.sc })
def modSe (p : Pkg) (pp : Nat) (f : SePart → SePart) : Pkg := modPart p pp (fun q => { q with se := f q.se })

/-- A layer record (R111); all zero where the table has none. -/
structure Layer where
  qHeads : Nat := 0
  kvHeads : Nat := 0
  dim : Nat := 0
  format : Nat := 0
  flags : Nat := 0
  first : Nat := 0
  localHeads : Nat := 0
  rotation : Nat := 0
  deriving DecidableEq, Repr

/-- Reads a layer record. -/
def layerOf (b : Bytes) : Layer :=
  { qHeads := leAt b 0 1, kvHeads := leAt b 1 1, dim := leAt b 2 2, format := leAt b 4 1, flags := leAt b 5 1, first := leAt b 6 1,
    localHeads := leAt b 7 1, rotation := leAt b 8 4 }

/-- The layer records in force (R111). -/
def layersOf (p : Pkg) (pp : Nat) : List Layer := (records 16 (rdB p Ix.akLayerTable pp)).map layerOf

/-- Record i, if ATTEND passes and appends may name it (R111). -/
def layerAt (p : Pkg) (pp i : Nat) : Option Layer :=
  match (layersOf p pp)[i]? with
  | some l => if l.qHeads = 0 then none else some l
  | none => none

/-- Bytes per head row of a tag (R117). -/
def headRow (tag dim : Nat) : Nat := if tag = 0xC then dim else dim / 2

/-- Bytes of a page (R117). -/
def pageBytes (tag dim : Nat) : Nat := 4160 + 128 * headRow tag dim

/-- Offsets in a page of key and value rows and scale rows (R117). -/
def rowOffset (tag dim t : Nat) (value : Bool) : Nat :=
  (if value then 2112 + 64 * headRow tag dim else 64) + t * headRow tag dim
def scaleOffset (tag dim t : Nat) (value : Bool) : Nat :=
  (if value then 2112 + 128 * headRow tag dim else 64 + 64 * headRow tag dim) + t * 32

/-- Whether ROT_SIZE of a W28-form word names at most D elements (R112). -/
def rotationFits (w28 dim : Nat) : Bool :=
  bits w28 31 29 == 0 || (decide (bits w28 31 29 ≤ 5) && decide (32 * 2 ^ bits w28 31 29 ≤ dim))

/-- One record of a layer table that is in range (R111, R112, R117). An unused record, `q_heads` 0, holds nothing that is
used; only its reserved fields are checked. -/
def layerOk (slot : Nat) (b : Bytes) : Bool :=
  let l := layerOf b
  allZero (slice b 12 4) && decide (l.flags < 2) && bits l.rotation 28 28 == 0 &&
  (l.qHeads == 0 ||
    (decide (l.qHeads ≤ 128) && decide (1 ≤ l.kvHeads) && decide (l.kvHeads ≤ 128) && l.qHeads % l.kvHeads == 0
     && [64, 128, 256].contains l.dim && [0xC, 1].contains l.format && decide (1 ≤ l.localHeads) && decide (l.localHeads ≤ 128)
     && decide (l.first + l.localHeads ≤ l.kvHeads) && rotationFits l.rotation l.dim
     && decide (pageBytes l.format l.dim ≤ slot)))

/-- Whether a write of the layer table is accepted (R112). -/
def layerTableOk (p : Pkg) (pp : Nat) (b : Bytes) : Bool :=
  b.length % 16 == 0 && decide (b.length ≤ 16384) && (records 16 b).all (layerOk (rd p Ix.akPageSlotBytes pp))

/-- Slots of the pool (R137). -/
def poolSlots (p : Pkg) (pp : Nat) : Nat := rd p Ix.akPagePoolBytes pp / max 1 (rd p Ix.akPageSlotBytes pp)

/-- Address of slot i of the pool. -/
def slotAddr (p : Pkg) (pp i : Nat) : Nat := rd p Ix.akPagePoolBase pp + i * rd p Ix.akPageSlotBytes pp

/-- Slots of the pool taken by allocations and by the destinations of moves (R252). -/
def takenSlots (p : Pkg) (pp : Nat) : List Nat :=
  let base := rd p Ix.akPagePoolBase pp
  let size := max 1 (rd p Ix.akPageSlotBytes pp)
  let inPool := fun (a : Nat) => decide (base ≤ a) && decide (a < base + poolSlots p pp * size)
  ((part p pp).ak.slots.filter (fun s => inPool s.addr)).flatMap (fun s => (List.range s.slots).map (fun i => (s.addr - base) / size + i))
  ++ ((p.tm.moves.filter (fun m => m.partition == pp && inPool m.dest)).map (fun m => (m.dest - base) / size))

/-- Free slots of the pool (0x2804). -/
def freeSlots (p : Pkg) (pp : Nat) : Nat := poolSlots p pp - (takenSlots p pp).length

/-- The lowest run of `n` free slots of the pool. -/
def freeRun (p : Pkg) (pp n : Nat) : Option Nat :=
  let taken := takenSlots p pp
  ((List.range (poolSlots p pp + 1 - n)).find? (fun i => (List.range n).all (fun j => !taken.contains (i + j)))).map (slotAddr p pp)

/-- Shows the pool's use (0x2804, 0x2805). -/
def showPool (p : Pkg) (pp : Nat) : Pkg :=
  wr (wr p Ix.akPagesFree pp (freeSlots p pp)) Ix.akPagesInUse pp ((part p pp).ak.slots.map (·.slots)).sum

/-- Reads bytes the manager keeps in package memory; zeros where the access fails. -/
def kvRead (p : Pkg) (a n : Nat) : Bytes := ((loadLocal p a n false).2.toOption).getD (List.replicate n 0)

/-- Writes bytes the manager keeps in package memory. -/
def kvWrite (p : Pkg) (a : Nat) (b : Bytes) : Pkg := (storeLocal p a b false false 0x092 0xFF 0).1

/-- The page of a request, layer, KV head and index, if it is allocated. -/
def findPage (p : Pkg) (pp handle layer head page : Nat) : Option KvSlot :=
  (part p pp).ak.slots.find? (fun s => s.kind == 0 && s.handle == handle && s.layer == layer && s.head == head && s.page == page)

/-- The directory and a vector of a request. -/
def findDir (p : Pkg) (pp handle : Nat) : Option KvSlot :=
  (part p pp).ak.slots.find? (fun s => s.kind == 1 && s.handle == handle)
def findVector (p : Pkg) (pp handle layer head : Nat) : Option KvSlot :=
  (part p pp).ak.slots.find? (fun s => s.kind == 2 && s.handle == handle && s.layer == layer && s.head == head)

/-- Live pages of a request: allocated and appended to. -/
def livePages (p : Pkg) (pp handle : Nat) : List KvSlot :=
  (part p pp).ak.slots.filter (fun s => s.kind == 0 && s.handle == handle && !s.reserved)

/-- Bytes of a request's directory: entry layer × `kv_heads` + head for every layer (R119). -/
def directoryBytes (p : Pkg) (pp : Nat) : Nat :=
  ((layersOf p pp).zipIdx.map (fun e => if e.1.qHeads = 0 then 0 else (e.2 + 1) * e.1.kvHeads * 16)).foldl max 0

/-- Address of a directory entry (R119). -/
def dirEntry (dir : Nat) (l : Layer) (layer head : Nat) : Nat := dir + (layer * l.kvHeads + head) * 16

/-- Rewrites a vector entry: address with VALID, 3 with no address for an evicted page (assumption 16), 0 for none. -/
def setVector (p : Pkg) (pp handle layer head page v : Nat) : Pkg :=
  match findVector p pp handle layer head with
  | some s => kvWrite p (s.addr + 8 * page) (leBytes 8 v)
  | none => p

/-- Rewrites the page count of a directory entry (R119). -/
def setPageCount (p : Pkg) (pp handle layer head n : Nat) : Pkg :=
  match findDir p pp handle, layerAt p pp layer, findVector p pp handle layer head with
  | some d, some l, some v => kvWrite p (dirEntry d.addr l layer head) (leBytes 8 v.addr ++ leBytes 4 n ++ leBytes 4 0)
  | _, _, _ => p

/-- Adds an allocation. -/
def addSlot (p : Pkg) (pp : Nat) (s : KvSlot) : Pkg := modAk p pp (fun q => { q with slots := q.slots ++ [s] })

/-- Allocates the directory of a request where it has none (R119); `none` when the pool is short. With no layer to
serve it takes no slot and stands at the pool's base (assumption 16). -/
def needDirectory (p : Pkg) (pp handle : Nat) : Option Pkg :=
  match findDir p pp handle with
  | some _ => some p
  | none =>
    let n := (directoryBytes p pp + rd p Ix.akPageSlotBytes pp - 1) / max 1 (rd p Ix.akPageSlotBytes pp)
    if n = 0 then some (addSlot p pp { handle, kind := 1, addr := rd p Ix.akPagePoolBase pp, slots := 0 })
    else (freeRun p pp n).map (fun a =>
      kvWrite (addSlot p pp { handle, kind := 1, addr := a, slots := n }) a (List.replicate (directoryBytes p pp) 0))

/-- Allocates or enlarges a vector so that it holds `n` entries (R119, assumption 16). -/
def needVector (p : Pkg) (pp handle layer head n : Nat) : Option Pkg :=
  let size := max 1 (rd p Ix.akPageSlotBytes pp)
  match findVector p pp handle layer head with
  | some v =>
    if 8 * n ≤ v.slots * size then some p
    else (freeRun p pp (v.slots + 1)).map (fun a =>
      let p := kvWrite p a (kvRead p v.addr (v.slots * size) ++ List.replicate size 0)
      modAk p pp (fun q => { q with slots := q.slots.map (fun s => if s = v then { v with addr := a, slots := v.slots + 1 } else s) }))
  | none => (freeRun p pp (max 1 ((8 * n + size - 1) / size))).map (fun a =>
      let k := max 1 ((8 * n + size - 1) / size)
      kvWrite (addSlot p pp { handle, kind := 2, layer, head, addr := a, slots := k }) a (List.replicate (k * size) 0))

/-- Reserves one page where it does not exist (R134). -/
def needPage (pp handle layer head : Nat) (acc : Option Pkg) (page : Nat) : Option Pkg :=
  match acc with
  | none => none
  | some p =>
    if (findPage p pp handle layer head page).isSome ∨ (part p pp).ak.evicted.contains (handle, layer, head, page) then some p
    else (freeRun p pp 1).map (fun a => addSlot p pp { handle, layer, head, page, addr := a, reserved := true })

/-- Pages that hold `n` positions. -/
def pagesFor (n : Nat) : Nat := (n + 63) / 64

/-- KV heads of the layers that this package holds: layer and head. -/
def heldHeads (p : Pkg) (pp : Nat) : List (Nat × Nat) :=
  (layersOf p pp).zipIdx.flatMap (fun e =>
    if e.1.qHeads = 0 then [] else (List.range e.1.localHeads).map (fun j => (e.2, e.1.first + j)))

/-- Reserves the pages that a row will append in the coming step, with directory and vectors (R134). -/
def reserveRow (p : Pkg) (pp handle start new : Nat) : Option Pkg :=
  (heldHeads p pp).foldl (fun acc lh =>
    match acc.bind (fun p => needVector p pp handle lh.1 lh.2 (pagesFor (start + new))) with
    | none => none
    | some p => ((List.range (pagesFor (start + new))).drop (pagesFor start)).foldl (needPage pp handle lh.1 lh.2) (some p))
    (needDirectory p pp handle)

/-- Pages that a row's next step would allocate (R133). -/
def pagesNeeded (p : Pkg) (pp start new : Nat) : Nat :=
  (heldHeads p pp).length * (pagesFor (start + new) - pagesFor start)

/-- Abandons moves that satisfy a test (R252, R265): their destinations are free again. -/
def abandonMoves (p : Pkg) (f : Move → Bool) : Pkg :=
  let n := (p.tm.moves.filter f).length
  if n = 0 then p
  else bump { p with tm := { p.tm with moves := p.tm.moves.filter (fun m => !f m) } } Ix.tmMovesAbandoned 0 n

/-- Abandons moves of a page that is freed, and frees their destination (R135, R252). -/
def dropMoves (p : Pkg) (addr : Nat) : Pkg := abandonMoves p (fun m => m.source == addr)

/-- Frees one page (R121, R133): its vector entry gets the value `entry`. -/
def freePage (p : Pkg) (pp entry : Nat) (s : KvSlot) : Pkg :=
  let p := setVector p pp s.handle s.layer s.head s.page entry
  dropMoves (modAk p pp (fun q => { q with slots := q.slots.filter (· != s) })) s.addr

/-- Frees everything a request holds in the pool. -/
def freeRequest (p : Pkg) (pp handle : Nat) : Pkg :=
  let mine := (part p pp).ak.slots.filter (fun s => s.handle == handle)
  let p := mine.foldl (fun p s => dropMoves p s.addr) p
  showPool (modAk p pp (fun q => { q with slots := q.slots.filter (fun s => s.handle != handle),
                                          evicted := q.evicted.filter (fun e => e.1 != handle) })) pp

/-- Sets the page count of a layer and KV head to its highest live or evicted page (R119). -/
def recountPages (p : Pkg) (pp handle layer head : Nat) : Pkg :=
  let live := ((livePages p pp handle).filter (fun s => s.layer == layer && s.head == head)).map (·.page + 1)
  let gone := ((part p pp).ak.evicted.filter (fun e => e.1 == handle && e.2.1 == layer && e.2.2.1 == head)).map (·.2.2.2 + 1)
  setPageCount p pp handle layer head ((live ++ gone).foldl max 0)

/-- Commits a request's positions below `upto` in one page (R121): tentative ones above are dropped. -/
def commitPage (pp upto : Nat) (p : Pkg) (s : KvSlot) : Pkg :=
  let n := min 64 (upto - 64 * s.page)
  let count := leAt (kvRead p (s.addr + 16) 1) 0 1
  let p := bump p Ix.akTentativeDropped pp (count - min n count)
  if n = 0 then freePage p pp 0 s
  else kvWrite p (s.addr + 16) (leBytes 1 (min n count) ++ leBytes 1 (min n count))

/-- Commits positions below `upto` of a request and frees pages left without one (R121). -/
def commitPositions (p : Pkg) (pp handle upto : Nat) : Pkg :=
  let p := (livePages p pp handle).foldl (commitPage pp upto) p
  showPool ((heldHeads p pp).foldl (fun p lh => recountPages p pp handle lh.1 lh.2) p) pp

/-- Undoes a step's writes in one page (R122); the score's step steps back too, so that the recomputation adds to it again (R132). -/
def rollbackPage (pp step : Nat) (p : Pkg) (s : KvSlot) : Pkg :=
  let h := kvRead p s.addr 64
  let p := if leAt h 20 4 = step then kvWrite p (s.addr + 16) (slice h 18 1 ++ slice h 18 1) else p
  let p := if leAt h 32 4 = step then kvWrite p (s.addr + 24) (slice h 28 4 ++ slice h 28 4 ++ leBytes 4 ((step + 2 ^ 32 - 1) % 2 ^ 32)) else p
  if s.born = step then
    modAk (setVector p pp s.handle s.layer s.head s.page 0) pp (fun q => { q with
      slots := q.slots.map (fun t => if t = s then { s with reserved := true } else t) })
  else p

/-- Undoes a rolled-back step's KV writes and scores (R122): pages it allocated are free again, and stay reserved for its
recomputation. -/
def kvRollback (p : Pkg) (pp step : Nat) : Pkg :=
  let live := (part p pp).ak.slots.filter (fun s => s.kind == 0 && !s.reserved)
  let handles := (live.map (·.handle)).eraseDups
  let p := live.foldl (rollbackPage pp step) p
  handles.foldl (fun p h => (heldHeads p pp).foldl (fun p lh => recountPages p pp h lh.1 lh.2) p) p

/-- A page's eviction score, a NaN as −Inf (R133). -/
def pageScore (p : Pkg) (s : KvSlot) : Word :=
  let w := BitVec.ofNat 32 (leAt (kvRead p (s.addr + 24) 4) 0 4)
  if isNaN w then inf32 true else w

/-- Pages that may be evicted (R133): of a layer with eviction, not protected, holding no tentative position. -/
def evictable (p : Pkg) (pp handle : Nat) : List KvSlot :=
  let live := livePages p pp handle
  live.filter (fun s =>
    let mine := (live.filter (fun t => t.layer == s.layer && t.head == s.head)).length
    let rank := (live.filter (fun t => t.layer == s.layer && t.head == s.head && decide (t.page < s.page))).length
    let h := kvRead p (s.addr + 16) 2
    (match layerAt p pp s.layer with
     | some l => bit l.flags 0
     | none => false)
    && decide (rd p Ix.akProtectedFirstPages pp ≤ rank) && decide (rank + rd p Ix.akProtectedRecentPages pp < mine)
    && leAt h 0 1 == leAt h 1 1)

/-- Evicts one page (R133). -/
def evictPage (p : Pkg) (pp : Nat) (s : KvSlot) : Pkg :=
  let p := freePage p pp 3 s
  bump (modAk p pp (fun q => { q with evicted := q.evicted ++ [(s.handle, s.layer, s.head, s.page)] })) Ix.akPagesEvicted pp 1

/-- Whether page `a` is evicted before `b`: the lower score, then layer, KV head and index (R133). -/
def evictBefore (p : Pkg) (a b : KvSlot) : Bool :=
  let x := pageScore p a
  let y := pageScore p b
  flt x y || (!flt y x && (decide (a.layer < b.layer)
    || (a.layer == b.layer && (decide (a.head < b.head) || (a.head == b.head && decide (a.page < b.page))))))

/-- The page that goes first. -/
def evictFirst (p : Pkg) : List KvSlot → Option KvSlot
  | [] => none
  | a :: t => match evictFirst p t with
    | none => some a
    | some b => if evictBefore p a b then some a else some b

/-- Evicts while the request's pages exceed a limit; false when it cannot be met (R133). -/
def evictDown (pp handle limit : Nat) : (fuel : Nat) → Pkg → Pkg × Bool
  | 0, p => (p, decide ((livePages p pp handle).length ≤ limit))
  | fuel + 1, p =>
    if (livePages p pp handle).length ≤ limit then (p, true)
    else match evictFirst p (evictable p pp handle) with
      | none => (p, false)
      | some s => evictDown pp handle limit fuel (evictPage p pp s)

/-- Eviction of one request that ran in the step (R133): by threshold, unless it is 0, then by budget. -/
def evictRequest (p : Pkg) (pp handle : Nat) (threshold : Word) (budget need : Nat) : Pkg × Bool :=
  let p := if mag threshold = 0 then p
    else ((evictable p pp handle).filter (fun s => flt (pageScore p s) threshold)).foldl (fun p s => evictPage p pp s) p
  let r := evictDown pp handle (budget - need) (livePages p pp handle).length p
  (showPool r.1 pp, r.2)

end Sys2Proof.Machine
end

