-- ==== Sys2Proof/Machine/EgressOps.lean ====
section
/-! DEFINITION. Chapter 9 and R536: stream records, runway, emission entries and rings, and writes of serving state to
host memory. -/

namespace Sys2Proof.Machine

/-- Sends one write of serving state (R212, R228): a store, or a flagged add where `add` is not 0. -/
def sendServing (p : Pkg) (pp : Nat) (egress : Bool) (w : HostWrite) : Pkg :=
  let source := if egress then 0x091 else 0x090
  if w.add = 0 then hostStore p source pp w.addr w.bytes (stepOf p pp) (.serving pp egress)
  else hostFlaggedAdd p source pp w.addr w.add (stepOf p pp) (.serving pp egress)

/-- A stream's state. -/
def stream (p : Pkg) (pp n : Nat) : Stream := tget (part p pp).se.streams n {}

/-- Changes a stream's state. -/
def modStream (p : Pkg) (pp n : Nat) (f : Stream → Stream) : Pkg :=
  modSe p pp (fun q => { q with streams := tmod q.streams n {} f })

/-- Address of a stream record (R218). -/
def streamAddr (p : Pkg) (pp n : Nat) : Nat := rd p Ix.seStreamBase pp + 64 * n

/-- Bytes 32 to 63 of a stream record (R218). -/
def Stream.bytes (s : Stream) : Bytes :=
  leBytes 8 s.emitted ++ leBytes 8 s.playedUs ++ leBytes 8 s.reportNs ++ leBytes 4 s.runwayMs ++ leBytes 1 s.state ++ leBytes 1 s.level
    ++ [0, 0]

/-- Notes that a write of serving state into package memory failed (R536); the step in hand fails with it. -/
def noteWrite (pp : Nat) (r : Pkg × Nat) : Pkg :=
  if r.2 = 0 then r.1 else modSc r.1 pp (fun q => { q with writeFailed := some (q.writeFailed.getD r.2) })

/-- Writes bytes 32 to 63 of a stream's record (R218, R536). -/
def putStream (p : Pkg) (pp n : Nat) : Pkg :=
  noteWrite pp (storeLocal p (streamAddr p pp n + 32) (stream p pp n).bytes false false 0x091 pp (stepOf p pp))

/-- State fields as they stand in a record. -/
def streamFromRecord (b : Bytes) : Stream :=
  { emitted := leAt b 32 8, playedUs := leAt b 40 8, reportNs := leAt b 48 8, runwayMs := leAt b 56 4, state := 0, level := leAt b 61 1 }

/-- Reads a stream record (R219): the state fields are cleared when VALID is read after it was read clear; the first
reading since the start takes them over as they stand (assumption 17). -/
def readStream (p : Pkg) (pp n : Nat) : Pkg × Option Bytes :=
  if rd p Ix.seStreamCount pp ≤ n then (p, none)
  else match loadLocal p (streamAddr p pp n) 64 false with
    | (p, .error _) => (p, none)
    | (p, .ok b) =>
      let valid := bit (leAt b 0 1) 0
      let s := stream p pp n
      let p :=
        if !valid then modStream p pp n (fun s => { s with validSeen := false, known := true })
        else if !s.known then modStream p pp n (fun s => { streamFromRecord b with known := true, validSeen := true, head := s.head, bound := s.bound })
        else if !s.validSeen then putStream (modStream p pp n (fun s => { known := true, validSeen := true, bound := s.bound, head := s.head })) pp n
        else p
      (p, if valid then some b else none)

/-- Effective critical and warn levels of a record's first half (R218). -/
def criticalOf (p : Pkg) (pp : Nat) (head : Bytes) : Nat := if leAt head 8 4 = 0 then rd p Ix.seCriticalMs pp else leAt head 8 4
def warnOf (p : Pkg) (pp : Nat) (head : Bytes) : Nat := if leAt head 4 4 = 0 then rd p Ix.seWarnMs pp else leAt head 4 4

/-- Ring record r of the ring table (R225), if there is one. -/
def ringOf (p : Pkg) (pp r : Nat) : Option Bytes := (records 32 (rdB p Ix.seRingTable pp))[r]?

/-- Whether a record is valid for intake (R219), its VALID bit known to be set. -/
def streamValid (p : Pkg) (pp n : Nat) (b : Bytes) : Bool :=
  decide (leAt b 0 1 < 2) && (ringOf p pp (leAt b 1 1)).isSome && decide (1 ≤ leAt b 2 2) && allZero (slice b 16 16)
  && allZero (slice b 62 2) && decide (criticalOf p pp b < warnOf p pp b) && (stream p pp n).state == 0

/-- `runway_us` at the present time (R221). -/
def runwayUs (p : Pkg) (s : Stream) (rate : Nat) : Int :=
  let played := s.playedUs + (if s.playing then (p.now - s.reportNs) / 1000 else 0)
  (((s.emitted * 1000000 / max 1 rate : Nat) : Int)) - (played : Int)

/-- Stream Egress's view of a record while its stream is bound is the copy of its binding (R219). -/
def headOf (p : Pkg) (pp n : Nat) (fallback : Bytes) : Bytes :=
  let s := stream p pp n
  if s.bound.isSome then s.head else fallback

/-- Rings that a write of Stream Egress belongs to (R225): those whose entries it lies in, or whose counter it adds to. -/
def ringsAt (p : Pkg) (pp addr : Nat) : List Nat :=
  (List.range 16).filter (fun r => match ringOf p pp r with
    | some b => (decide (leAt b 0 8 ≤ addr) && decide (addr < leAt b 0 8 + 64 * leAt b 8 4)) || leAt b 16 8 == addr
    | none => false)

/-- Whether a refused write of a ring, or of its counter, is held (R536). -/
def lineHeld (p : Pkg) (pp r : Nat) : Bool := (part p pp).se.refused.any (fun w => (ringsAt p pp w.addr).contains r)

/-- Whether a write waits behind another one of its unit (R536): of the same ring or counter, and for the Serving Scheduler any. -/
def sameLine (p : Pkg) (pp : Nat) (egress : Bool) (a b : Nat) : Bool :=
  !egress || a == b || (ringsAt p pp a).any (fun r => (ringsAt p pp b).contains r)

/-- Whether a ring has room for its next entry (R225, R536). -/
def ringRoom (p : Pkg) (pp r : Nat) : Bool :=
  match ringOf p pp r with
  | none => false
  | some b => decide (tget (part p pp).se.sequences r 0 < tget (part p pp).se.consumed r 0 + leAt b 8 4)
      && !lineHeld p pp r && anyModuleUp p

/-- Raises event 0x0715 once until the ring drains (R231). -/
def ringFull (p : Pkg) (pp r : Nat) : Pkg :=
  if (part p pp).se.fullRings.contains r then p
  else
    let p := modSe p pp (fun q => { q with fullRings := q.fullRings ++ [r] })
    raise (last (bump p Ix.seRingFullEvents pp 1) Ix.seLastStatus pp 0x0715) 0x0715 pp 0xFFFFFFFF 0

/-- Raises event 0x0612 once while completion records are held (R212). -/
def completionsFull (p : Pkg) (pp : Nat) : Pkg :=
  if (part p pp).sc.ringFullRaised then p
  else raise (last (modSc p pp (fun q => { q with ringFullRaised := true })) Ix.scLastStatus pp 0x0612) 0x0612 pp 0xFFFFFFFF 0

/-- The ring that an entry's address lies in (R225). -/
def ringAt (p : Pkg) (pp addr : Nat) : Option Nat :=
  (List.range 16).find? (fun r => match ringOf p pp r with
    | some b => decide (leAt b 0 8 ≤ addr) && decide (addr < leAt b 0 8 + 64 * leAt b 8 4)
    | none => false)

/-- Holds a refused write of serving state in order (R536): its entry or record counts as one that finds its ring full. -/
def holdServing (p : Pkg) (pp : Nat) (egress : Bool) (w : HostWrite) : Pkg :=
  if egress then
    let p := modSe p pp (fun q => { q with refused := q.refused ++ [w] })
    match ringAt p pp w.addr with
    | some r => if w.add = 0 then ringFull p pp r else p
    | none => p
  else
    let p := modSc p pp (fun q => { q with refused := q.refused ++ [w] })
    if w.bytes.length = 32 then completionsFull p pp else p

/-- Writes serving state to host memory: behind the writes already held of its ring or counter, or held at once while every module is down
(R366, R536). -/
def writeServing (p : Pkg) (pp : Nat) (egress : Bool) (w : HostWrite) : Pkg :=
  let waiting := if egress then (part p pp).se.refused else (part p pp).sc.refused
  if waiting.any (fun h => sameLine p pp egress h.addr w.addr) || !anyModuleUp p then holdServing p pp egress w else sendServing p pp egress w

/-- Writes an entry at its ring's next sequence (R225). -/
def writeEntry (p : Pkg) (pp : Nat) (e : Entry64) : Pkg :=
  match ringOf p pp e.ring with
  | none => p
  | some b =>
    let m := tget (part p pp).se.sequences e.ring 0
    let p := writeServing p pp true { addr := leAt b 0 8 + 64 * (m % max 1 (leAt b 8 4)), bytes := e.bytes }
    bump (modSe p pp (fun q => { q with sequences := tput q.sequences e.ring (m + 1) })) Ix.seEntriesWritten pp 1

/-- Puts one entry: written, held, waiting outside the hold queue (event 0x0716 once), or, for kind 3, dropped and
counted (R231, R232). Only a ring without room, or one that already holds entries, raises event 0x0715: an entry that waits behind
another ring's raises none. The flag tells whether it was written. -/
def putEntry (p : Pkg) (pp : Nat) (e : Entry64) : Pkg × Bool :=
  let q := (part p pp).se
  let full := !ringRoom p pp e.ring || q.hold.any (fun h => h.ring == e.ring)
  let behind := e.kind != 3 && !q.waiting.isEmpty
  if !full && !behind then (writeEntry p pp e, true)
  else
    let p := if full then ringFull p pp e.ring else p
    if q.hold.length < 16384 ∧ behind = false then (modSe p pp (fun q => { q with hold := q.hold ++ [e] }), false)
    else if e.kind = 3 then (bump p Ix.seRingFullEvents pp 1, false)
    else
      let first := q.waiting.isEmpty
      let p := modSe p pp (fun q => { q with waiting := q.waiting ++ [e] })
      (if first then raise (last p Ix.seLastStatus pp 0x0716) 0x0716 pp 0xFFFFFFFF 0 else p, false)

/-- Adds a ring's number of new entries with one flagged add (R228). -/
def addRing (pp : Nat) (p : Pkg) (rn : Nat × Nat) : Pkg :=
  match ringOf p pp rn.1 with
  | some b => if rn.2 = 0 then p else writeServing p pp true { addr := leAt b 16 8, add := rn.2 }
  | none => p

/-- One emission event (R228): its entries in order, then one flagged add per ring. -/
def emitEvent (p : Pkg) (pp : Nat) (es : List Entry64) : Pkg :=
  let r := es.foldl (fun (acc : Pkg × Tbl Nat) e =>
    let w := putEntry acc.1 pp e
    (w.1, if w.2 then tmod acc.2 e.ring 0 (· + 1) else acc.2)) (p, [])
  r.2.foldl (addRing pp) r.1

/-- Whether a write of Stream Egress in a ring, or to its counter, has not been placed yet: it is held, or its retry is under
way (R536). -/
def lineBusy (p : Pkg) (pp r : Nat) : Bool :=
  lineHeld p pp r || ((part p pp).se.refusedRaised && (p.ms.txns ++ p.ms.failed.map (·.1)).any (fun t =>
    t.purpose == .serving pp true && (ringsAt p pp t.addr).contains r))

/-- Rings that event 0x0715 was raised for and that still hold entries, or whose refused writes no retry has placed yet (R231,
R536). -/
def stillFull (p : Pkg) (pp : Nat) : List Nat :=
  (part p pp).se.fullRings.filter (fun f =>
    ((part p pp).se.hold ++ (part p pp).se.waiting).any (fun h => h.ring == f) || lineBusy p pp f)

/-- Held entries of rings that have room, in order; those behind a full ring stay. An entry that waits outside the hold queue goes only
once none waits before it: into its ring, or into the hold queue (R231, R232). -/
def drainHeld (p : Pkg) (pp : Nat) : Pkg × Tbl Nat :=
  let all := (part p pp).se.hold ++ (part p pp).se.waiting
  let start := modSe p pp (fun q => { q with hold := [], waiting := [] })
  all.foldl (fun (acc : Pkg × Tbl Nat) e =>
    let q := (part acc.1 pp).se
    if ringRoom acc.1 pp e.ring && !q.hold.any (fun h => h.ring == e.ring) && q.waiting.isEmpty then
      (writeEntry acc.1 pp e, tmod acc.2 e.ring 0 (· + 1))
    else if q.hold.length < 16384 ∧ q.waiting = [] then
      (ringFull (modSe acc.1 pp (fun q => { q with hold := q.hold ++ [e] })) pp e.ring, acc.2)
    else (modSe acc.1 pp (fun q => { q with waiting := q.waiting ++ [e] }), acc.2)) (start, [])

/-- Room has come (R231, R232): held entries are written with their adds; event 0x0717 when none waits any longer. -/
def releaseHeld (p : Pkg) (pp : Nat) : Pkg :=
  let waited := !(part p pp).se.waiting.isEmpty
  let r := drainHeld p pp
  let p := r.2.foldl (addRing pp) r.1
  let p := modSe p pp (fun q => { q with fullRings := stillFull p pp })
  if waited && (part p pp).se.waiting.isEmpty then raise (last p Ix.seLastStatus pp 0x0717) 0x0717 pp 0xFFFFFFFF 0 else p

/-- Bytes of an emission entry (R226); `body` is bytes 24 to 59. -/
def entryBytes (kind flags count strm handle step first : Nat) (body : Bytes) (tag : Nat) : Bytes :=
  leBytes 1 kind ++ leBytes 1 flags ++ leBytes 2 count ++ leBytes 4 strm ++ leBytes 4 handle ++ leBytes 4 step ++ leBytes 8 first
    ++ padTo body 36 ++ leBytes 4 tag

/-- A runway event (R224): a kind-3 entry of its own emission event, and the host's event ring. -/
def runwayEvent (p : Pkg) (pp n code : Nat) (us : Int) (x : Nat) : Pkg :=
  let s := stream p pp n
  let ms := us.tdiv 1000
  let body := leBytes 4 (ms % 2 ^ 32).toNat ++ leBytes 4 (if code = 0x0712 then x / 1000 else 0) ++ leBytes 2 code
  let e := entryBytes 3 0 0 n (s.bound.getD 0xFFFFFFFF) (stepOf p pp) s.emitted body (leAt s.head 12 4)
  let p := emitEvent p pp [{ ring := leAt s.head 1 1, kind := 3, bytes := e }]
  let p := if code = 0x0712 then bump p Ix.seUnderrunsPredicted pp 1 else if code = 0x0713 then bump p Ix.seUnderruns pp 1 else p
  raise (last p Ix.seLastStatus pp code) code pp n 0

/-- Evaluates a stream (R221, R224): writes `runway_ms` and `level`, and raises the events of a bound stream whose
condition begins to hold. -/
def evaluate (p : Pkg) (pp n : Nat) (recordHead : Bytes) : Pkg :=
  let s := stream p pp n
  let head := headOf p pp n recordHead
  let us := runwayUs p s (leAt head 2 2)
  let ms := (max us 0).toNat / 1000
  let level := if s.playing ∧ us ≤ 0 then 3 else if ms ≤ criticalOf p pp head then 2 else if ms ≤ warnOf p pp head then 1 else 0
  let before := if s.fresh then 0 else s.level
  let p := modStream p pp n (fun s => { s with runwayMs := min ms (2 ^ 32 - 1), level := level, fresh := false })
  let p := putStream p pp n
  if s.bound.isNone then p
  else
    let p := if level = 1 ∧ before = 0 then runwayEvent p pp n 0x0710 us 0 else p
    let p := if level = 2 ∧ before < 2 ∧ s.playing then runwayEvent p pp n 0x0711 us 0 else p
    if level = 3 ∧ (before ≠ 3 ∨ s.fresh) then runwayEvent p pp n 0x0713 us 0 else p

/-- Binds a stream to a request (R219): bytes 0 to 31 are copied, `state` becomes 1. -/
def bindStream (p : Pkg) (pp n handle : Nat) (b : Bytes) : Pkg :=
  putStream (modStream p pp n (fun s => { s with head := b.take 32, bound := some handle, state := 1, predicted := false, fresh := true })) pp n

/-- Releases a stream when its request ends (R219). -/
def unbindStream (p : Pkg) (pp n : Nat) : Pkg :=
  putStream (modStream p pp n (fun s => { s with bound := none, state := 0 })) pp n

/-- Discards the products that Stream Egress holds of a step that rolls back (R229, R230): tokens that went out under
lag 0, in this attempt or in one before it, wait for the recomputation's. -/
def voidStep (p : Pkg) (pp : Nat) : Pkg :=
  modSe p pp (fun q => { q with lag0 := [], voided := q.lag0 ++ q.voided })

end Sys2Proof.Machine
end

