-- ==== Sys2Proof/Machine/SchedOps.lean ====
section
/-! DEFINITION. Chapter 8: requests, their ends and completion records (R190, R211, R212). -/

namespace Sys2Proof.Machine

/-- A request by its handle. -/
def findReq (p : Pkg) (pp handle : Nat) : Option Req := (part p pp).sc.requests.find? (fun r => r.handle == handle)

/-- Changes a request. -/
def modReq (p : Pkg) (pp handle : Nat) (f : Req → Req) : Pkg :=
  modSc p pp (fun q => { q with requests := q.requests.map (fun r => if r.handle = handle then f r else r) })

/-- Fields of a request's intake record (R188). -/
def Req.tenant (r : Req) : Nat := leAt r.record 2 2
def Req.clientTag (r : Req) : Nat := leAt r.record 4 4
def Req.prompt (r : Req) : Nat := leAt r.record 12 4
def Req.promptAddr (r : Req) : Nat := leAt r.record 16 8
def Req.maxNew (r : Req) : Nat := leAt r.record 24 4
def Req.stopToken (r : Req) : Nat := leAt r.record 28 4
def Req.stream (r : Req) : Nat := leAt r.record 32 4
def Req.speculate (r : Req) : Bool := bit (leAt r.record 1 1) 0

/-- Whether a request runs: it has not ended. -/
def Req.live (r : Req) : Bool := r.ended.isNone

/-- Whether a request still has prompt tokens left. -/
def Req.queued (r : Req) : Bool := r.live && decide (r.promptDone < r.prompt)

/-- Shows the numbers of running and queued requests (0x3430, 0x3431). -/
def showRequests (p : Pkg) (pp : Nat) : Pkg :=
  let rs := (part p pp).sc.requests
  wr (wr p Ix.scRequestsRunning pp (rs.filter Req.live).length) Ix.scRequestsQueued pp (rs.filter Req.queued).length

/-- A completion record (R212). -/
def completionBytes (kind reason status handle seq tag generated promptDone step : Nat) : Bytes :=
  leBytes 1 kind ++ leBytes 1 reason ++ leBytes 2 status ++ leBytes 4 handle ++ leBytes 8 seq ++ leBytes 4 tag ++ leBytes 4 generated
    ++ leBytes 4 promptDone ++ leBytes 4 step

/-- Queues a completion record. -/
def queueCompletion (p : Pkg) (pp : Nat) (c : Completion) : Pkg := modSc p pp (fun q => { q with completions := q.completions ++ [c] })

/-- Writes waiting completion records while the ring has room, `fuel` bounding their number; the count of those
written (R212). -/
def writeCompletions (pp : Nat) : (fuel written : Nat) → Pkg → Pkg × Nat
  | 0, n, p => (p, n)
  | fuel + 1, n, p =>
    let q := (part p pp).sc
    match q.completions with
    | [] => (p, n)
    | c :: rest =>
      if q.completionSeq < q.completionConsumed + rd p Ix.scCompletionSlots pp ∧ q.refused = [] ∧ anyModuleUp p = true then
        let p := writeServing p pp false
          { addr := rd p Ix.scCompletionBase pp + 32 * (q.completionSeq % max 1 (rd p Ix.scCompletionSlots pp)), bytes := c.bytes }
        writeCompletions pp fuel (n + 1) (modSc p pp (fun q => { q with completions := rest, completionSeq := q.completionSeq + 1 }))
      else (p, n)

/-- A completion record stands in host memory (R190, R217): a final one counts, and frees the slot of its request. -/
def recordPlaced (p : Pkg) (pp : Nat) (b : Bytes) : Pkg :=
  if b.length ≠ 32 ∨ leAt b 0 1 ≠ 2 then p
  else bump (modSc p pp (fun q => { q with requests := q.requests.filter (fun r => !(r.handle == leAt b 4 4 && r.finalQueued)) })) Ix.scCompleted pp 1

/-- Records the status of a request's end where the unit that gives it shows one (R216, R463). -/
def noteSc (p : Pkg) (pp status : Nat) : Pkg :=
  if status / 256 = 6 then last p Ix.scLastStatus pp status
  else if status / 256 = 0x12 then last p Ix.ruLastStatus pp status
  else p

/-- Writes completion records, adds their number to the host's counter, stores the consumed count, and raises event
0x0612 once while records are held, by a full ring or by the host's refusal (R212, R536). -/
def pumpCompletions (p : Pkg) (pp : Nat) : Pkg :=
  let r := writeCompletions pp (part p pp).sc.completions.length 0 p
  let p := r.1
  let p := if r.2 = 0 then p else writeServing p pp false { addr := rd p Ix.scCompletionCounterAddr pp, add := r.2 }
  let q := (part p pp).sc
  if !q.completions.isEmpty then completionsFull p pp
  else if q.refused.isEmpty && !q.refusedRaised then modSc p pp (fun q => { q with ringFullRaised := false })
  else p

/-- Stores the consumed count to host memory (R212). -/
def storeConsumed (p : Pkg) (pp : Nat) : Pkg :=
  if rd p Ix.scIntakeConsumedAddr pp = 0 then p
  else writeServing p pp false { addr := rd p Ix.scIntakeConsumedAddr pp, bytes := leBytes 8 (rd p Ix.scIntakeConsumed pp) }

/-- The kind-4 entry of an ended request's stream (R226, R227); flags bits 0 and 1 as the request ended. -/
def endEntry (p : Pkg) (pp : Nat) (r : Req) (status reason : Nat) : List Entry64 :=
  if r.stream = 0xFFFFFFFF then []
  else
    let s := stream p pp r.stream
    let flags := if status ≠ 0 then 0 else if reason = 1 then 1 else 2
    [{ ring := leAt s.head 1 1, kind := 4,
       bytes := entryBytes 4 flags 0 r.stream r.handle (stepOf p pp) s.emitted (leBytes 2 status) (leAt s.head 12 4) }]

/-- Queues the final record of a request that has ended, with its kind-4 entry to follow (R211, R212, R228). -/
def finishRequest (pp : Nat) (acc : Pkg × List Entry64) (r : Req) : Pkg × List Entry64 :=
  match r.ended with
  | none => acc
  | some (status, reason) =>
    if r.finalQueued then acc
    else
      let p := acc.1
      let e := endEntry p pp r status reason
      let p := modReq p pp r.handle (fun r => { r with finalQueued := true })
      let p := queueCompletion p pp { handle := r.handle, final := true, bytes :=
                                      completionBytes 2 reason status r.handle r.sequence r.clientTag r.generated r.promptDone (stepOf p pp) }
      let p := noteSc (if status = 0x0602 then bump p Ix.scCancelled pp 1 else p) pp status
      let p := if r.stream = 0xFFFFFFFF then p else unbindStream p pp r.stream
      (freeRequest p pp r.handle, acc.2 ++ e)

/-- Queues the final records of every ended request, frees their pages and emits their kind-4 entries as one emission
event (R192, R228). -/
def finishRequests (p : Pkg) (pp : Nat) : Pkg :=
  let r := (part p pp).sc.requests.foldl (finishRequest pp) (p, [])
  showRequests (emitEvent r.1 pp r.2) pp

/-- Ends every request of a partition with a status and reason 3 (R211, R459). -/
def endAll (p : Pkg) (pp status : Nat) : Pkg :=
  modSc p pp (fun q => { q with requests := q.requests.map (fun r => if r.live then { r with ended := some (status, 3) } else r) })

/-- Ends every request and writes its final record at once (R459). -/
def endAllRequests (p : Pkg) (pp status : Nat) : Pkg := pumpCompletions (finishRequests (endAll p pp status) pp) pp

end Sys2Proof.Machine
end

