-- ==== Sys2Proof/Machine/MsOps.lean ====
section
/-! DEFINITION. Chapter 14: reaching an address, fences and their reset, completions at the source, and the
de-duplication entries of a home. -/

namespace Sys2Proof.Machine

/-- Partition whose source a source number is (R335, R339); 0xFF for firmware and for none. -/
def partOfSource (p : Pkg) (s : Nat) : Nat :=
  if s < 0x60 then (partOfBlock p s).getD 0xFF
  else if 0x80 ≤ s ∧ s < 0x8C then (partOfRegion p (s - 0x80)).getD 0xFF
  else if 0x100 ≤ s ∧ s < 0x200 then rd p Ix.dmChannelPartition (s - 0x100)
  else if 0x200 ≤ s ∧ s < 0x240 then rd p Ix.msHostSourcePartition (s - 0x200)
  else if 0x300 ≤ s ∧ s < 0x400 then (tget p.ms.slots (s - 0x300) {}).partition
  else 0xFF

/-- Whether a number names a source (R335). -/
def validSource (s : Nat) : Bool :=
  decide (s < 0x60) || (decide (0x80 ≤ s) && decide (s < 0x8C)) || (decide (0x90 ≤ s) && decide (s < 0x98))
  || (decide (0x100 ≤ s) && decide (s < 0x240)) || (decide (0x300 ≤ s) && decide (s < 0x400))

/-- Whether two packages stand on one board: logical y and z equal (R338). -/
def sameBoard (a b : Nat) : Bool := a / 4 == b / 4

/-- Bit of `access` that a TYPE needs (R339). -/
def accessBit (type : Nat) : Nat := if type < 4 then type else 1

/-- Status of reaching a fabric address (R338, R339): board-direct, or through a fabric window of the source's partition
whose `access` allows the TYPE; 0x0E03 otherwise. -/
def reachStatus (p : Pkg) (partition dest type addr n : Nat) : Nat :=
  if sameBoard dest (ownId p) then 0
  else if (windowRecords p).any (fun b => leAt b 0 1 == 1 && leAt b 1 1 == partition && leAt b 2 2 == dest
      && decide (leAt b 8 8 ≤ addr) && decide (addr + n ≤ leAt b 8 8 + leAt b 16 8) && bit (leAt b 4 1) (accessBit type)) then 0
  else 0x0E03

/-- Sends to a fabric address, through its window (R338); an increment covers its counter's address alone. -/
def sendFabric (p : Pkg) (t : Txn) : Pkg :=
  let st := reachStatus p t.partition t.dest t.type t.addr (if t.type = 3 then 1 else t.bytes)
  if st = 0 then send p t else completeHere p t st

/-- Shows how many sources of each partition have a broken fence (0x5807). -/
def showFences (p : Pkg) : Pkg :=
  (List.range 12).foldl (fun p pp =>
    wr p Ix.msBrokenFences pp (p.ms.broken.filter (fun s => partOfSource p s == pp)).length) p

/-- Breaks a source's fence (R353): its waiting flagged transactions complete with 0x0E02. -/
def breakFence (p : Pkg) (source : Nat) : Pkg :=
  if p.ms.broken.contains source then p
  else showFences (pump { p with ms := { p.ms with broken := p.ms.broken ++ [source] } })

/-- Makes a source's fence whole again (R354). -/
def mendFence (p : Pkg) (source : Nat) : Pkg :=
  showFences { p with ms := { p.ms with broken := p.ms.broken.filter (· != source) } }

/-- Abandons a source's transactions (R354, R355): stores sent are unresolved, those not sent are dropped. -/
def abandonSource (p : Pkg) (source : Nat) : Pkg :=
  let mine := p.ms.txns.filter (fun t => t.source == source && t.type != 4)
  let u := (mine.filter (fun t => t.sent && t.isStore)).map (fun t => (source, t.destKey, t.tseq))
  pump { p with ms := { p.ms with txns := p.ms.txns.filter (fun t => !(t.source == source && t.type != 4)),
                                  unresolved := p.ms.unresolved ++ u } }

/-- One RETIRE of up to 64 TSEQs to a destination (R336, R354). -/
def sendRetire (source : Nat) (p : Pkg) (destKey : Nat) (seqs : List Nat) : Pkg :=
  send p { source, partition := partOfSource p source, dest := destKey / 2, toHost := destKey / 2 == 1024, type := 4,
           data := seqs.flatMap (leBytes 4), bytes := 4 * seqs.length, flag := true, purpose := .retire source }

/-- Splits a list into parts of at most 64. -/
def parts64 : (fuel : Nat) → List Nat → List (List Nat)
  | 0, _ => []
  | fuel + 1, l => if l.isEmpty then [] else l.take 64 :: parts64 fuel (l.drop 64)

/-- Resets a source's fence (R354): a flagged RETIRE to each destination that holds an unresolved TSEQ; with none
unresolved the fence is whole at once. A listed hole counts as answered. -/
def retireSource (p : Pkg) (source : Nat) : Pkg :=
  let p := abandonSource p source
  let mine := p.ms.unresolved.filter (fun u => u.1 == source && !p.tf.holes.contains (u.2.1 / 2))
  let p := { p with ms := { p.ms with unresolved := p.ms.unresolved.filter (fun u => u.1 != source) ++ mine } }
  if mine.isEmpty then mendFence p source
  else (mine.map (·.2.1)).eraseDups.foldl (fun p d =>
    let seqs := (mine.filter (fun u => u.2.1 == d)).map (·.2.2)
    (parts64 (seqs.length / 64 + 1) seqs).foldl (fun p l => sendRetire source p d l) p) p

/-- A RETIRE has been answered DONE or 0x0E01 (R354): its destination holds nothing unresolved any longer, and with no
other RETIRE outstanding the fence is whole. -/
def retireAnswered (p : Pkg) (source destKey : Nat) : Pkg :=
  if p.ms.txns.any (fun t => t.purpose == .retire source && t.destKey == destKey) then p
  else
    let p := { p with ms := { p.ms with unresolved := p.ms.unresolved.filter (fun u => !(u.1 == source && u.2.1 == destKey)) } }
    if p.ms.txns.any (fun t => t.purpose == .retire source) then p else mendFence p source

/-- Sources that act for a partition's step: its blocks, its regions' Expert Routers and the copy slots it used last. -/
def stepSources (p : Pkg) (pp : Nat) : List Nat :=
  blocksOf p pp ++ (regionsOf p pp).map (· + 0x80) ++ (p.ms.slots.filter (fun e => e.2.partition == pp)).map (fun e => e.1 + 0x300)

/-- Every source of a partition (R355): with its DMA channels and host sources. -/
def allSources (p : Pkg) (pp : Nat) : List Nat :=
  stepSources p pp ++ ((List.range 256).filter (fun c => rd p Ix.dmChannelPartition c == pp)).map (· + 0x100)
  ++ ((List.range 64).filter (fun s => rd p Ix.msHostSourcePartition s == pp)).map (· + 0x200)

/-- Sources of a list that have something to reset. -/
def needRetire (p : Pkg) (l : List Nat) : List Nat :=
  l.filter (fun s => p.ms.broken.contains s || p.ms.unresolved.any (fun u => u.1 == s) || p.ms.txns.any (fun t => t.source == s && t.type != 4))

/-- Abandons the copy slots of a partition (R344, R355, R358): no increment follows. -/
def abandonSlots (p : Pkg) (pp : Nat) : Pkg :=
  { p with ms := { p.ms with slots := p.ms.slots.map (fun e =>
      if e.2.partition = pp then (e.1, { e.2 with busy := false, writes := [], signal := none }) else e) } }

/-- Resets the fences of a partition's sources (R354, R355, R444): all of them in a partition reset, those of the step
otherwise. -/
def retireUnresolved (p : Pkg) (pp : Nat) : Pkg :=
  (needRetire p (if pcState p pp = 6 then allSources p pp else stepSources p pp)).foldl retireSource p

/-- Shows a status of the Memory-Semantic Layer as its last (0x5818). -/
def noteMs (p : Pkg) (status : Nat) : Pkg := if status / 256 = 0x0E then last p Ix.msLastStatus 0 status else p

/-- Counts a completion with an error, by its status (0x5813 to 0x5816, R366). -/
def countFailure (p : Pkg) (status : Nat) : Pkg :=
  let p := if status = 0x0F05 then last p Ix.hiLastStatus 0 status else noteMs p status
  if status = 0x0E0A then bump p Ix.msTimeouts 0 1
  else if status = 0x0E01 then bump p Ix.msDestinationLost 0 1
  else if status = 0x0E02 then bump p Ix.msFlagsWithheld 0 1
  else if status = 0x0E03 then bump p Ix.msWindowMisses 0 1
  else p

/-- Completes at once every transaction outstanding to a package that became a hole (R352). -/
def loseDestination (p : Pkg) (id : Nat) : Pkg :=
  let gone := p.ms.txns.filter (fun t => !t.toHost && t.dest == id)
  let p := { p with ms := { p.ms with txns := p.ms.txns.filter (fun t => !(!t.toHost && t.dest == id)) } }
  pump (gone.foldl (fun p t => completeHere p t 0x0E01) p)

/-- Clears the de-duplication entries of a package (R356). -/
def purgePackage (p : Pkg) (id : Nat) : Pkg :=
  let d := p.ms.dedup.filter (fun e => e.1 / 2 != id)
  wr { p with ms := { p.ms with dedup := d } } Ix.msDedupPairs 0 d.length

/-- Whether 24-bit sequence `a` lies ahead of or at `b`. -/
def seqAhead (a b : Nat) : Bool := decide ((a + 2 ^ 24 - b) % 2 ^ 24 < 2 ^ 23)

/-- What a home makes of a request's INCARNATION and TSEQ (R348). -/
inductive Arrival where
  | fresh
  | duplicate (status : Nat) (result : DWord)
  | stale
  deriving DecidableEq, Repr

/-- Raises an entry's floor and discards what lies below it (R348). -/
def Dedup.raiseFloor (d : Dedup) (floor : Nat) : Dedup :=
  if d.floor != floor && seqAhead floor d.floor then
    { d with floor, marked := d.marked.filter (fun s => seqAhead s floor), results := d.results.filter (fun e => seqAhead e.1 floor),
             errors := d.errors.filter (fun e => seqAhead e.1 floor) }
  else d

/-- Marks a TSEQ as received. -/
def Dedup.mark (d : Dedup) (s : Nat) : Dedup :=
  if d.marked.contains s || !seqAhead s d.floor then d else { d with marked := d.marked ++ [s] }

/-- Key of the sequence pair of a request (R348). -/
def pairKey (k : Packet) : Nat := k.src * 2 + xdieOf k.srcUnit

/-- Puts the entry of a sequence pair. -/
def putDedup (p : Pkg) (key : Nat) (d : Dedup) : Pkg :=
  let t := tput p.ms.dedup key d
  wr { p with ms := { p.ms with dedup := t } } Ix.msDedupPairs 0 t.length

/-- Takes a non-idempotent request in at its home (R348): a newer INCARNATION resets the pair's entry, an older one is
discarded, a TSEQ below the floor or marked is a duplicate; a fresh one is marked. -/
def arrive (p : Pkg) (k : Packet) : Pkg × Arrival :=
  let key := pairKey k
  let start : Dedup := { incarnation := k.incarnation, floor := k.floor }
  let old := tfind p.ms.dedup key
  let ahead := (k.incarnation + 256 - (old.getD start).incarnation) % 256
  if 128 < ahead then (p, .stale)
  else
    let d := if ahead = 0 then (old.getD start).raiseFloor k.floor else start
    if !seqAhead k.tseq d.floor || d.marked.contains k.tseq then
      let st := ((d.errors.find? (fun e => e.1 == k.tseq)).map (·.2)).getD 0
      (bump (putDedup p key d) Ix.msDuplicatesDiscarded 0 1,
       .duplicate st (((d.results.find? (fun e => e.1 == k.tseq)).map (·.2)).getD 0))
    else (putDedup p key (d.mark k.tseq), .fresh)

/-- Keeps the answer a TSEQ got (R348, R349): an error status or an atomic's previous value. -/
def keepAnswer (p : Pkg) (k : Packet) (status : Nat) (result : Option DWord) : Pkg :=
  { p with ms := { p.ms with dedup := tmod p.ms.dedup (pairKey k) {} (fun d =>
      if status ≠ 0 then { d with errors := d.errors ++ [(k.tseq, status)] }
      else match result with
        | some v => { d with results := d.results ++ [(k.tseq, v)] }
        | none => d) } }

/-- Sends a response (R337): it copies INCARNATION, TSEQ, SRC_UNIT and TAG. -/
def respond (p : Pkg) (toHost : Bool) (k : Packet) (type status : Nat) (data : Bytes) : Pkg :=
  let p := if type = 0x43 then noteMs (bump p Ix.msErrorsSent 0 1) status else p
  launch p toHost { dest := k.src, src := ownId p, cls := 1, type, len := 2 + (data.length + 15) / 16, step := k.step,
                           incarnation := k.incarnation, tseq := k.tseq, srcUnit := k.srcUnit, tag := k.tag,
                           bytes := if type = 0x40 then data.length else 0, status, data }

/-- An ERROR response. -/
def respondError (p : Pkg) (toHost : Bool) (k : Packet) (status : Nat) : Pkg := respond p toHost k 0x43 status []

/-- The host die's request behind an abandoned transaction is answered RESETTING (R355). -/
def answerAbandoned (p : Pkg) (t : Txn) : Pkg :=
  match t.purpose with
  | .hostRequest srcUnit tag => respondError p true { src := ownId p, step := t.step, srcUnit, tag } 0x0EE1
  | _ => p

/-- Abandons what the partition's sources still have outstanding at a reset (R355, R425 phase 2). -/
def abandonOutstanding (p : Pkg) (pp : Nat) : Pkg :=
  let l := allSources p pp
  let mine := p.ms.txns.filter (fun t => l.contains t.source && t.type != 4)
  mine.foldl answerAbandoned ((needRetire p l).foldl abandonSource p)

/-- New value of an atomic over `w` bits (R342). -/
def atomicNew (w aop old operand swap : Nat) : Nat :=
  let s := fun (n : Nat) => if 2 ^ (w - 1) ≤ n then (n : Int) - 2 ^ w else (n : Int)
  match aop with
  | 0 => (old + operand) % 2 ^ w
  | 1 => min old operand
  | 2 => max old operand
  | 3 => if s operand < s old then operand else old
  | 4 => if s old < s operand then operand else old
  | 5 => operand
  | _ => if old = operand then swap else old

/-- Whether the form of a request breaks R336 (R357): a checked reserved field, LEN against TYPE and BYTES, a 256-byte
boundary crossed, stray ADDR bits of a COUNTER_INC, a RETIRE list out of range; or R337, a request out of class 0. -/
def malformed (k : Packet) : Bool :=
  let data := k.len - 2
  k.reserved != 0 || k.cls != 0 || decide (k.len < 2) || !validSource k.srcUnit || decide (2 ^ 46 ≤ k.addr) ||
  (match k.type with
   | 0 => data != 0 || k.bytes == 0 || decide (256 < k.bytes) || decide (256 < k.addr % 256 + k.bytes)
   | 1 => data != (k.bytes + 15) / 16 || k.bytes == 0 || decide (256 < k.bytes) || decide (256 < k.addr % 256 + k.bytes)
   | 2 => data != 1 || k.bytes != 0
   | 3 => data != 0 || k.bytes == 0 || decide (256 < k.bytes) || decide (8192 ≤ k.addr)
   | 4 => data != (k.bytes + 15) / 16 || k.bytes % 4 != 0 || k.bytes == 0 || decide (256 < k.bytes)
   | _ => true)

end Sys2Proof.Machine
end

