-- ==== Sys2Proof/Machine/WmOps.lean ====
section
/-! DEFINITION. Chapter 11: the registry, anchored extents, holds on a version, eviction, damage and refill
(R277 to R284), and the fixed ranges beside which extents lie (R249). -/

namespace Sys2Proof.Machine

/-- Whether two ranges meet. -/
def overlap (a n b m : Nat) : Bool := decide (a < b + m) && decide (b < a + n) && n != 0 && m != 0

/-- Fixed ranges of a partition (R249). -/
def fixedRanges (p : Pkg) (pp : Nat) : List (Nat × Nat) :=
  (records 16 (rdB p Ix.tmFixedRanges pp)).map (fun b => (leAt b 0 8, leAt b 8 8))

/-- Whether a range lies in one fixed range of a partition (R249). -/
def inFixedRange (p : Pkg) (pp base n : Nat) : Bool :=
  (fixedRanges p pp).any (fun r => decide (r.1 ≤ base) && decide (base + n ≤ r.1 + r.2))

/-- Bytes of a shard's extent: whole 4 KiB granules (R274). -/
def Shard.extent (s : Shard) : Nat × Nat := (s.target, alignUp s.bytes 4096)

/-- Anchored extents of a version (R274). -/
def Version.extents (v : Version) : List (Nat × Nat) := v.shards.map Shard.extent ++ v.stored.toList

/-- Every anchored extent (R249). -/
def allExtents (p : Pkg) : List (Nat × Nat) := p.wm.versions.flatMap Version.extents

/-- A version of the registry. -/
def findVersion (p : Pkg) (v : Nat) : Option Version := p.wm.versions.find? (fun x => x.version == v)

/-- Draft version of a partition (0x3001): none above 0xFFFF. -/
def draftVersion (p : Pkg) (pp : Nat) : Option Nat :=
  if 0xFFFF < rd p Ix.svDraftVersion pp then none else some (rd p Ix.svDraftVersion pp)

/-- `partitions` of a registry record (R277): current, armed or draft version of a partition. -/
def holdersOf (p : Pkg) (v : Nat) : Nat :=
  (List.range 12).foldl (fun m pp =>
    if rd p Ix.wmVersionCurrent pp = v ∨ rd p Ix.wmVersionArmed pp = v ∨ draftVersion p pp = some v then m + 2 ^ pp else m) 0

/-- Live requests pinned to a version in partitions that this package leads (R277). -/
def pinnedTo (p : Pkg) (v : Nat) : Nat :=
  ((List.range 12).map (fun pp =>
    if isLead p pp then ((part p pp).sc.requests.filter (fun r => r.live && r.version == v)).length else 0)).sum

/-- Whether a live request is parked (R284): an immediate switch has parked it, and its version is not current again. -/
def Req.isParked (r : Req) : Bool := r.live && r.parked

/-- Shows the number of parked requests (0x4003). -/
def showParked (p : Pkg) (pp : Nat) : Pkg :=
  wr p Ix.wmParkedRequests pp ((part p pp).sc.requests.filter Req.isParked).length

/-- Bytes of a version's extents in T0 and in T1. -/
def Version.bytesIn (v : Version) (t0 : Bool) : Nat :=
  ((v.extents.filter (fun e => decide (e.1 < 0x010000000000) == t0)).map (·.2)).sum

/-- A registry record (R277). -/
def registryRecord (p : Pkg) (v : Version) : Bytes :=
  leBytes 2 v.version ++ leBytes 1 v.state ++ leBytes 1 ((if v.draft then 1 else 0) + if v.signed then 2 else 0)
    ++ leBytes 2 v.position ++ leBytes 2 (holdersOf p v.version) ++ leBytes 8 v.imageId ++ leBytes 8 (v.bytesIn true)
    ++ leBytes 8 (v.bytesIn false) ++ leBytes 4 v.lastUse ++ leBytes 4 (pinnedTo p v.version) ++ leBytes 4 v.loadMs
    ++ leBytes 4 v.lost.length ++ List.replicate 16 0

/-- Changes a version of the registry. -/
def modVersion (p : Pkg) (v : Nat) (f : Version → Version) : Pkg :=
  touch { p with wm := { p.wm with versions := p.wm.versions.map (fun x => if x.version = v then f x else x) } } Ix.wmRegistry 0

/-- Enters a version in ascending order. -/
def insertVersion (v : Version) : List Version → List Version
  | [] => [v]
  | w :: t => if v.version < w.version then v :: w :: t else w :: insertVersion v t

/-- Takes a version out of the registry; its extents are free. -/
def forgetVersion (p : Pkg) (v : Nat) : Pkg :=
  touch { p with wm := { p.wm with versions := p.wm.versions.filter (fun x => x.version != v) } } Ix.wmRegistry 0

/-- Whether a neighbour's load from this package still runs (R278; assumption 19). -/
def stillServed (p : Pkg) (s : Nat × Nat × Nat) : Bool := !Config.neighbourLoadEnds s.2.1 s.1 (p.now - s.2.2)

/-- Whether a neighbour loads a version from this package (R278, R286). -/
def served (p : Pkg) (v : Nat) : Bool := p.wm.serving.any (fun s => s.1 == v && stillServed p s)

/-- The resident version that a neighbour's read of this package's memory belongs to (R274). -/
def servedVersion (p : Pkg) (a n : Nat) : Option Version :=
  p.wm.versions.find? (fun v => v.state == 1 && v.extents.any (fun e => decide (e.1 ≤ a) && decide (a + n ≤ e.1 + e.2)))

/-- Notes a read of a neighbour's Weight and Model Store (R274, R278): the version that it loads. -/
def noteServing (p : Pkg) (package v : Nat) : Pkg :=
  { p with wm := { p.wm with serving := p.wm.serving.filter (fun s => !(s.1 == v && s.2.1 == package)) ++ [(v, package, p.now)] } }

/-- Whether a version is evictable (R278). -/
def evictable' (p : Pkg) (v : Version) : Bool :=
  v.state == 1 && holdersOf p v.version == 0 && pinnedTo p v.version == 0 && !served p v.version

/-- Evicts or unloads a version (R278, R279). -/
def dropVersion (p : Pkg) (v : Nat) : Pkg := raiseAs (bump (forgetVersion p v) Ix.wmEvictions 0 1) Ix.wmLastStatus 0 0x0812 0xFF 0xFFFFFFFF 0

/-- The evictable version of least last use, ties to the lower version (R278); one never used counts as used last, as its
record's value does. -/
def nextEviction (p : Pkg) : Option Version :=
  (p.wm.versions.filter (evictable' p)).foldl (fun m v => match m with
    | none => some v
    | some w => if v.lastUse < w.lastUse then some v else some w) none

/-- Notes a version's use by a pass (R277). -/
def noteUse (p : Pkg) (v step : Nat) : Pkg :=
  if p.wm.versions.any (fun x => x.version == v && x.lastUse != step) then modVersion p v (fun x => { x with lastUse := step }) else p

/-- A job's status record (0x4011). -/
def Job.bytes (j : Job) : Bytes :=
  leBytes 2 j.tag ++ leBytes 2 j.version ++ leBytes 2 j.status ++ leBytes 1 j.state ++ [0] ++ leBytes 8 j.copied ++ leBytes 8 j.toCopy
    ++ leBytes 8 j.landed.length

/-- Changes a job. -/
def modJob (p : Pkg) (j : Nat) (f : Job → Job) : Pkg :=
  touch { p with wm := { p.wm with jobs := p.wm.jobs.zipIdx.map (fun x => if x.2 = j then f x.1 else x.1) } } Ix.wmLoadStatus 0

/-- A job. -/
def jobAt (p : Pkg) (j : Nat) : Job := p.wm.jobs.getD j {}

/-- Whether a full-rate load or a refill runs here or draws on this package (R276, R317). -/
def fullRateRuns (p : Pkg) : Bool :=
  p.wm.jobs.any (fun j => j.state == 1 && j.fullRate)
  || p.wm.serving.any (fun s => Config.neighbourLoadFull s.2.1 s.1 && stillServed p s)

/-- Bytes of a slice (R271). -/
def sliceBytes (s : Shard) (k : Nat) : Nat := min 0x1000000 (s.bytes - k * 0x1000000)

/-- Slices of a version that a range touches (R280). -/
def slicesIn (v : Version) (a n : Nat) : List (Nat × Nat) :=
  v.shards.zipIdx.flatMap (fun s => ((List.range s.1.digests.length).filter (fun k =>
    overlap (s.1.target + k * 0x1000000) (sliceBytes s.1 k) a n)).map (fun k => (s.2, k)))

/-- Where a version's refill reads from (R280): the neighbours or the host image of a partition that holds it; none where
neither is named. -/
def refillSource (p : Pkg) (v : Nat) : Option (List Nat) :=
  let pps := (List.range 12).filter (fun pp => bit (holdersOf p v) pp)
  (pps.map (fun pp =>
    let l := (records 2 (rdB p Ix.wmRefillPackages pp)).map leNat
    if !l.isEmpty then some l else if rd p Ix.wmRefillHostAddr pp ≠ 0 then some [] else none)).foldl
      (fun a b => if a.isSome then a else b) none

/-- Whether every lost slice of a version can be put back where it lay (R280). -/
def refillable (p : Pkg) (v : Version) : Bool :=
  v.lost.all (fun x => match v.shards[x.1]? with
    | some s => accessStatus p (s.target + x.2 * 0x1000000) true false == 0
        && accessStatus p (s.target + x.2 * 0x1000000 + sliceBytes s x.2 - 1) true false == 0
    | none => false)

/-- Reads slices of a job from its neighbours, slice i from source i mod n (R275, R286). -/
def dealSlices (p : Pkg) (j : Nat) (slices : List (Nat × Nat)) : Pkg :=
  let src := (jobAt p j).sources
  if src.isEmpty then p
  else
    let deal := slices.zipIdx.map (fun x => (x.1.1, x.1.2, src.getD (x.2 % src.length) 0))
    let p := modJob p j (fun x => { x with dealt := x.dealt.filter (fun d => !slices.contains (d.1, d.2.1)) ++ deal })
    deal.foldl (fun p d => emit p (.sliceRead d.2.2 j d.1 d.2.1)) p

/-- Bytes of slices of a version. -/
def slicesLength (v : Version) (l : List (Nat × Nat)) : Nat := (l.map (fun x => sliceBytes (v.shards.getD x.1 {}) x.2)).sum

/-- Starts the refill of one damaged version in a free job, or adds what it has lost since to its running one (R280). A target that has
become absent leaves the version damaged with status 0x0805. With nothing lost but the stored header it is whole again at once. -/
def startRefill (p : Pkg) (v : Version) : Pkg :=
  if v.state ≠ 2 then p
  else if v.lost.isEmpty then modVersion p v.version (fun x => { x with state := 1 })
  else if !refillable p v then last p Ix.wmLastStatus 0 0x0805
  else match p.wm.jobs.findIdx? (fun j => j.state == 1 && j.version == v.version) with
    | some j =>
      let more := v.lost.filter (fun x => !(jobAt p j).todo.contains x)
      if more.isEmpty then p
      else dealSlices (modJob p j (fun x => { x with todo := x.todo ++ more, toCopy := x.toCopy + slicesLength v more })) j more
    | none =>
      match refillSource p v.version, p.wm.jobs.findIdx? (fun j => j.state != 1) with
      | some src, some j =>
        dealSlices (modJob p j (fun _ => { state := 1, version := v.version, sources := src, refill := true, fullRate := true, startNs := p.now,
                                           todo := v.lost, toCopy := slicesLength v v.lost })) j v.lost
      | _, _ => p

/-- Starts every refill that can start (R280), but that of version `skip`. -/
def startRefills (p : Pkg) (skip : Option Nat := none) : Pkg := (p.wm.versions.filter (fun v => some v.version != skip)).foldl startRefill p

/-- A job ends without its version (R274): its extents are freed; a refill leaves its version damaged. Another refill may have the job. -/
def failJob (p : Pkg) (j status : Nat) : Pkg :=
  let job := jobAt p j
  let p := modJob (last p Ix.wmLastStatus 0 status) j (fun x => { x with state := 3, status, todo := [] })
  startRefills (if job.refill then p else forgetVersion p job.version) (some job.version)

/-- Takes a package that is lost out of the sources of one running load (R286): its slices are dealt to the others; with none left the job ends
with 0x0808. -/
def loseSourceOf (id : Nat) (p : Pkg) (j : Nat) : Pkg :=
  let job := jobAt p j
  if job.state ≠ 1 ∨ !job.sources.contains id then p
  else
    let l := job.sources.filter (· != id)
    if l.isEmpty then failJob p j 0x0808
    else
      let again := (job.dealt.filter (fun d => d.2.2 == id && job.todo.contains (d.1, d.2.1))).map (fun d => (d.1, d.2.1))
      dealSlices (modJob p j (fun x => { x with sources := l })) j again

/-- A source package is lost during neighbour loads (R286); what it was loading from here has ended. -/
def loseSource (p : Pkg) (id : Nat) : Pkg :=
  let p := { p with wm := { p.wm with serving := p.wm.serving.filter (fun s => s.2.1 != id) } }
  (List.range p.wm.jobs.length).foldl (loseSourceOf id) p

/-- The store's answer to a lost range (R280, R264, R286): versions with an extent in it are damaged, loads under way
there end with 0x0808. The number of extents lost. -/
def loseExtents (p : Pkg) (a n : Nat) : Pkg × Nat :=
  let hit := p.wm.versions.filter (fun v => v.extents.any (fun e => overlap e.1 e.2 a n))
  let count := (hit.map (fun v => (v.extents.filter (fun e => overlap e.1 e.2 a n)).length)).sum
  let p := hit.foldl (fun p v =>
    if v.state = 0 then
      match p.wm.jobs.findIdx? (fun j => j.state == 1 && j.version == v.version) with
      | some j => failJob p j 0x0808
      | none => forgetVersion p v.version
    else
      let lost := slicesIn v a n
      let p := modVersion p v.version (fun x => { x with state := 2, lost := x.lost ++ lost.filter (fun s => !x.lost.contains s) })
      raise (last p Ix.wmLastStatus 0 0x0813) 0x0813 0xFF 0xFFFFFFFF 0) p
  (startRefills p, count)

/-- Whether a partition's current and draft versions are whole (R280): no step starts otherwise. -/
def versionsWhole (p : Pkg) (pp : Nat) : Bool :=
  p.wm.versions.all (fun v => v.state != 2 || !(rd p Ix.wmVersionCurrent pp == v.version || draftVersion p pp == some v.version))

/-- Whether an armed switch is to be made before step `next` (R282, R286); `drained` is the condition of the drained mode. -/
def switchDue (p : Pkg) (pp next : Nat) (drained : Bool) : Bool :=
  match tfind p.wm.arms pp with
  | none => false
  | some a => (next == a.applyStep || stepAhead next a.applyStep) && (!a.drained || drained)
      && (match findVersion p a.version with
          | some v => v.state == 1
          | none => false)

/-- Whether no live request of the partition is pinned to its current version (R282). -/
def drainedNow (p : Pkg) (pp : Nat) : Bool :=
  (part p pp).sc.requests.all (fun r => !(r.live && r.version == rd p Ix.wmVersionCurrent pp))

/-- A live request at a switch to version `v` (R284): an immediate switch parks those pinned to the version before it; those of `v` go on. -/
def Req.atSwitch (r : Req) (old v : Nat) (immediate : Bool) : Req :=
  if r.version = v then { r with parked := false } else if r.live ∧ r.version = old ∧ immediate = true then { r with parked := true } else r

/-- Makes the switch (R282, R284). -/
def makeSwitch (p : Pkg) (pp : Nat) : Pkg :=
  match tfind p.wm.arms pp with
  | none => p
  | some a =>
    let old := rd p Ix.wmVersionCurrent pp
    let p := wr (wr p Ix.wmVersionCurrent pp a.version) Ix.wmVersionArmed pp 0xFFFF
    let p := modSc p pp (fun q => { q with requests := q.requests.map (fun r => r.atSwitch old a.version (!a.drained)) })
    let p := { p with wm := { p.wm with arms := tdel p.wm.arms pp } }
    raiseAs (showParked (touch (bump p Ix.wmSwitches 0 1) Ix.wmRegistry 0) pp) Ix.wmLastStatus 0 0x0811 pp 0xFFFFFFFF 0

/-- Puts an accepted switch record in force at action 3 (R281, R283, R286): an arm, or the cancellation of one with its
held writes. -/
def applySwitch (p : Pkg) (pp : Nat) (b : Bytes) : Pkg :=
  if b.length ≠ 16 then p
  else if bit (leAt b 7 1) 0 then
    touch (wr { p with wm := { p.wm with arms := tdel p.wm.arms pp } } Ix.wmVersionArmed pp 0xFFFF) Ix.wmRegistry 0
  else
    let a : Arm := { applyStep := leAt b 0 4, version := leAt b 4 2, drained := leAt b 6 1 == 1 }
    touch (wr { p with wm := { p.wm with arms := tput p.wm.arms pp a } } Ix.wmVersionArmed pp a.version) Ix.wmRegistry 0

/-- A write of `wm_switch` (R281): layout, mode, reserved fields and draft models 0x080C; a version that is not resident
0x08E2. -/
def switchCheck (p : Pkg) (b : Bytes) : Option Answer :=
  let v := findVersion p (leAt b 4 2)
  if b.length ≠ 16 ∨ 1 < leAt b 6 1 ∨ 1 < leAt b 7 1 ∨ allZero (slice b 8 8) = false then some (invalid 0x080C)
  else match v with
    | none => some (invalid 0x08E2)
    | some v => if v.draft then some (invalid 0x080C) else if v.state ≠ 1 then some (invalid 0x08E2) else none

end Sys2Proof.Machine
end

