-- ==== Sys2Proof/Machine/TmOps.lean ====
section
/-! DEFINITION. Chapter 10: page places and moves, lending and borrowing, loss reports, channel faults and the fills
(R250 to R265, R477, R478). -/

namespace Sys2Proof.Machine

/-- Size of a page slot of a partition (R250). -/
def slotSize (p : Pkg) (pp : Nat) : Nat := max 1 (rd p Ix.akPageSlotBytes pp)

/-- Slots in use or reserved by a move, as addresses. -/
def usedSlots (p : Pkg) (pp : Nat) : List Nat :=
  (part p pp).ak.slots.map (·.addr) ++ (p.tm.moves.filter (fun m => m.partition == pp)).map (·.dest)

/-- Slots of a partition's spill pool that exist, dealt round robin over the DDR5 channels they lie in (R250, R263). -/
def spillSlots (p : Pkg) (pp : Nat) : List Nat :=
  let size := slotSize p pp
  let all := (List.range (rd p Ix.tmSpillBytes pp / size)).map (fun i => rd p Ix.tmSpillBase pp + i * size)
  let ok := all.filter (fun a => accessStatus p a true false == 0 && accessStatus p (a + size - 1) true false == 0)
  let chan := fun (a : Nat) => (a - 0x010000000000) / 0x002000000000
  let per := (List.range 16).map (fun c => ok.filter (fun a => chan a == c))
  (List.range ((per.map List.length).foldl max 0)).flatMap (fun i => per.filterMap (fun l => l[i]?))

/-- Slots of the T2 units that a partition borrowed and that are not under reclaim (R250, R257). -/
def t2Slots (p : Pkg) (pp : Nat) : List Nat :=
  let size := slotSize p pp
  (p.tm.loans.filter (fun l => l.partition == pp && l.state == 0)).flatMap (fun l => match l.slot with
    | some w => (List.range (0x40000000 / size)).map (fun i => 0x040000000000 + w * 0x40000000 + i * size)
    | none => [])

/-- Free slots of a list. -/
def freeOf (p : Pkg) (pp : Nat) (l : List Nat) : List Nat :=
  let used := usedSlots p pp
  l.filter (fun a => !used.contains a)

/-- Whether fewer than `pm` per mille of `total` slots are free. -/
def below (free total pm : Nat) : Bool := decide (free * 1000 < total * pm)

/-- Whether a page is being moved. -/
def moving (p : Pkg) (a : Nat) : Bool := p.tm.moves.any (fun m => m.source == a)

/-- Starts a move of a page to a destination slot (R252); at most 64 copy at once, the others wait in order (R254). -/
def startMove (p : Pkg) (pp : Nat) (s : KvSlot) (dest cls : Nat) : Pkg :=
  let entry := match findVector p pp s.handle s.layer s.head with
    | some v => v.addr + 8 * s.page
    | none => 0
  { p with tm := { p.tm with moves := p.tm.moves ++
                             [{ partition := pp, handle := s.handle, layer := s.layer, head := s.head, page := s.page, entryAddr := entry, source := s.addr,
                                dest := dest, cls := cls }] } }

/-- The words of a range as a move reads them (R246): none where a word is poisoned, uncorrectable or cannot be read. Words found
uncorrectable are rewritten as poisoned, and what is met is counted. -/
def moveWords (p : Pkg) (a n : Nat) : Pkg × List (Option Bytes) :=
  if rangeNo a = 2 then
    (List.range (n / 4)).foldl (fun acc i =>
      let r := loadT2 acc.1 (a + 4 * i) 4
      (r.1, acc.2 ++ [r.2.toOption])) (p, [])
  else
    let bad := badWords p.mem a n
    let r := bad.foldl readBad (countMoved p a n, 0)
    (r.1, (List.range (n / 4)).map (fun i => match (tfind bad (a / 4 + i)).map decodeWord with
      | none | some (.data _ _) => some (memBytes p.mem (a + 4 * i) 4)
      | _ => none))

/-- Joins a word to the runs made so far: a run ends where the destination breaks, at a 256-byte boundary and where poison
begins or ends. -/
def joinWord (runs : List (Nat × Bool × Bytes)) (a : Nat) (w : Option Bytes) : List (Nat × Bool × Bytes) :=
  let b := w.getD [0, 0, 0, 0]
  match runs with
  | (s, poison, d) :: t =>
    if s + d.length = a ∧ poison = w.isNone ∧ a % 256 ≠ 0 then (s, poison, d ++ b) :: t else (a, w.isNone, b) :: runs
  | [] => [(a, w.isNone, b)]

/-- Copies a page or part of one between two slots (R246, R252): a source word that is poisoned or uncorrectable arrives as poison. -/
def copyPage (p : Pkg) (source dest n : Nat) : Pkg :=
  let r := moveWords p source n
  ((r.2.zipIdx.foldl (fun acc x => joinWord acc (dest + 4 * x.2) x.1) []).reverse).foldl
    (fun p x => (storeLocal p x.1 x.2.2 x.2.1 false 0x092 0xFF 0).1) r.1

/-- Commits one copied page (R252): header and dirty lines are copied, the vector entry is rewritten, the source slot is
free. -/
def commitMove (p : Pkg) (m : Move) : Pkg :=
  let p := { p with tm := { p.tm with moves := p.tm.moves.filter (· != m) } }
  let p := copyPage p m.source m.dest 64
  let p := m.dirty.foldl (fun p l => copyPage p (64 * l) (m.dest + (64 * l - m.source)) 64) p
  let p := modAk p m.partition (fun q => { q with slots := q.slots.map (fun s => if s.addr = m.source ∧ s.kind = 0 then { s with addr := m.dest } else s) })
  let p := setVector p m.partition m.handle m.layer m.head m.page (m.dest + 1)
  showPool (bump (bump p Ix.tmMovesCommitted 0 1) Ix.tmBytesMoved 0 (64 + 64 * m.dirty.length)) m.partition

/-- Commits up to `limit` copied pages of a partition: reclaims first, then promotions, then demotions, each in the order
in which its copy completed (R254). -/
def commitMoves (p : Pkg) (pp limit : Nat) : Pkg :=
  let ready := p.tm.moves.filter (fun m => m.partition == pp && m.copied)
  let ordered := ready.filter (fun m => m.cls == 0) ++ ready.filter (fun m => m.cls == 1) ++ ready.filter (fun m => m.cls == 2)
  (ordered.take limit).foldl commitMove p

/-- Whether a partition's moves may be committed without a boundary (R252). -/
def commitsFreely (p : Pkg) (pp : Nat) : Bool :=
  (pcState p pp == 1 || pcState p pp == 3 || pcState p pp == 5) && (blocksOf p pp).all (fun b => !passInFlight p b)

/-- Order in which idle pages are demoted (R251): last use, handle, layer, KV head, page. -/
def colder (p : Pkg) (pp : Nat) (a b : KvSlot) : Bool :=
  let key := fun (s : KvSlot) => [tget (part p pp).sc.lastUse s.handle 0, s.handle, s.layer, s.head, s.page]
  decide (key a < key b)

/-- Inserts by an order. -/
def insertBy {α : Type} (lt : α → α → Bool) (x : α) : List α → List α
  | [] => [x]
  | y :: t => if lt x y then x :: y :: t else y :: insertBy lt x t

/-- Sorts by an order, equal elements keeping theirs. -/
def sortBy {α : Type} (lt : α → α → Bool) (l : List α) : List α := l.reverse.foldl (fun acc x => insertBy lt x acc) []

/-- Idle pages among a list (R251): of requests without a row in the step being started, last used before the step now
running, not moving. -/
def idlePages (p : Pkg) (pp : Nat) (rows : List Nat) (l : List KvSlot) : List KvSlot :=
  sortBy (colder p pp) (l.filter (fun s => s.kind == 0 && !s.reserved && !rows.contains s.handle && !moving p s.addr
    && stepAhead (stepOf p pp) (tget (part p pp).sc.lastUse s.handle 0)))

/-- Moves idle pages to the first free destinations. -/
def demoteTo (pp : Nat) (p : Pkg) (x : KvSlot × Nat) : Pkg := startMove p pp x.1 x.2 2

/-- Whether an address lies in T0, T1 or T2. -/
def tierOf (a : Nat) : Nat := rangeNo a

/-- Demotes pages from one pool to its destinations when its free slots have fallen below a mark, until they reach the
other (R251): event 0x0911 where no destination has room. -/
def drainPool (p : Pkg) (pp : Nat) (rows : List Nat) (pages : List KvSlot) (free total low high : Nat) (dests : List Nat) : Pkg :=
  if !below free total low then p
  else
    let need := (total * high + 999) / 1000 - free
    let cold := (idlePages p pp rows pages).take need
    if cold.length ≠ 0 ∧ dests.isEmpty = true then raiseAs p Ix.tmLastStatus 0 0x0911 pp 0xFFFFFFFF 0
    else (cold.zip dests).foldl (demoteTo pp) p

/-- PAGE_DEMOTION (R251): from the T0 pool to the spill pool while it has room above its own mark, and to T2 otherwise; the
spill pool drains into T2 by the same rule. -/
def demotePages (p : Pkg) (pp : Nat) (rows : List Nat) : Pkg :=
  let spill := spillSlots p pp
  let freeSpill := freeOf p pp spill
  let keep := (spill.length * rd p Ix.tmT1LowWaterPm 0 + 999) / 1000
  let freeT2 := freeOf p pp (t2Slots p pp)
  let t0 := (part p pp).ak.slots.filter (fun s => tierOf s.addr == 0)
  let moving0 := (p.tm.moves.filter (fun m => m.partition == pp && tierOf m.source == 0)).length
  let p := drainPool p pp rows t0 (freeSlots p pp + moving0) (poolSlots p pp) (rd p Ix.tmT0LowWaterPm 0) (rd p Ix.tmT0HighWaterPm 0)
    (freeSpill.drop keep ++ freeT2)
  let t1 := (part p pp).ak.slots.filter (fun s => tierOf s.addr == 1)
  drainPool p pp rows t1 (freeOf p pp spill).length spill.length (rd p Ix.tmT1LowWaterPm 0) (rd p Ix.tmT1HighWaterPm 0)
    (freeOf p pp (t2Slots p pp))

/-- PAGE_PROMOTION (R253): pages in T1 or T2 of requests with a row in the step being started, in the order given, while
the T0 pool's free slots exceed the high mark. -/
def promotePages (p : Pkg) (pp : Nat) (handles : List Nat) : Pkg :=
  if rd p Ix.tmPromoteEnable 0 ≠ 1 then p
  else
    let pages := handles.flatMap (fun h => (livePages p pp h).filter (fun s => tierOf s.addr != 0))
    pages.foldl (fun p s =>
      if moving p s.addr || decide (freeSlots p pp * 1000 ≤ poolSlots p pp * rd p Ix.tmT0HighWaterPm 0) then p
      else match freeRun p pp 1 with
        | some a => startMove p pp s a 1
        | none => p) p

/-- Bytes of a TM message (R256). -/
def tmBytes (m : TmMessage) : Bytes :=
  leBytes 1 m.type ++ leBytes 1 m.version ++ leBytes 2 m.sender ++ leBytes 4 m.sequence ++ leBytes 2 m.units ++ leBytes 2 m.graceMs
    ++ leBytes 4 0 ++ leBytes 8 m.deadlineNs ++ padTo (m.unitList.flatMap (leBytes 2)) 32 ++ List.replicate 8 0

/-- Reads a TM message. -/
def tmMessageOf (b : Bytes) : TmMessage :=
  { type := leAt b 0 1, version := leAt b 1 1, sender := leAt b 2 2, sequence := leAt b 4 4, units := leAt b 8 2, graceMs := leAt b 10 2,
    deadlineNs := leAt b 16 8, unitList := ((records 2 (slice b 24 32)).map leNat).take (if leAt b 0 1 ≤ 2 then 0 else leAt b 8 2),
    reserved := leAt b 12 4 + leAt b 56 8 }

/-- Whether a TM message keeps its layout (R256); its reserved fields are not checked (R2). -/
def tmOk (m : TmMessage) : Bool :=
  decide (1 ≤ m.type) && decide (m.type ≤ 6) && m.version == 1
  && (if m.type = 2 then decide (1 ≤ m.units) && decide (m.units ≤ 16)
      else m.type == 1 || (decide (m.units ≤ 16) && m.unitList.length == m.units && m.unitList.all (fun u => decide (u < 2048))))
  && (m.type == 5 || (m.graceMs == 0 && m.deadlineNs == 0))

/-- Sends a message to a partner's mailbox (R256): a flagged store through the window that the Tier Manager keeps. -/
def sendTm (p : Pkg) (dest : Nat) (m : TmMessage) (echo : Option Nat) : Pkg :=
  let m := { m with sender := ownId p, sequence := echo.getD (p.tm.sequence % 2 ^ 32) }
  let p := { p with tm := { p.tm with sequence := p.tm.sequence + 1 } }
  send p { source := 0x092, dest := dest, type := 1, addr := 0x3FF000090000, data := tmBytes m, bytes := 64, flag := true }

/-- Hops between two packages of the torus (R322). -/
def hops (p : Pkg) (a b : Nat) : Nat :=
  let t := torus p
  let d := fun (x y n : Nat) => min ((x + n - y) % max 1 n) ((y + n - x) % max 1 n)
  d (a % 4) (b % 4) t.1 + d (a / 4 % 16) (b / 4 % 16) t.2.1 + d (a / 64) (b / 64) t.2.2

/-- Other packages of the torus. -/
def otherPackages (p : Pkg) : List Nat :=
  let t := torus p
  ((List.range t.2.2).flatMap (fun z => (List.range t.2.1).flatMap (fun y => (List.range t.1).map (fun x => idOf x y z)))).filter (· != ownId p)

/-- T1 address of a lend unit (R255). -/
def unitAddr (u : Nat) : Nat := 0x010000000000 + u * 0x40000000

/-- Whether a unit lies wholly in T1 free space of one trained channel (R249, R255). -/
def unitFree (p : Pkg) (u : Nat) : Bool :=
  let a := unitAddr u
  decide (u < 2048) && rd p Ix.ddChannelState (u / 128) == 0 && decide ((u % 128 + 1) * 0x40000000 ≤ rd p Ix.ddDimmBytes (u / 128))
  && !(List.range 12).any (fun pp => (fixedRanges p pp).any (fun r => overlap r.1 r.2 a 0x40000000))
  && !(allExtents p).any (fun e => overlap e.1 e.2 a 0x40000000)
  && !p.tm.loans.any (fun l => l.slot == none && l.unit == u)

/-- Units lent at present. -/
def lentUnits (p : Pkg) : List Loan := p.tm.loans.filter (fun l => l.slot == none)

/-- Units that this package offers (R255). -/
def offer (p : Pkg) : Nat :=
  if rd p Ix.tmLendEnable 0 = 1 ∧ rd p Ix.ruDrydownState 0 = 0 then
    min (rd p Ix.tmLendMaxGib 0 - (lentUnits p).length) ((List.range 2048).filter (unitFree p)).length
  else 0

/-- Sends an ADVERT to every package within the radius (R257). -/
def advertise (p : Pkg) : Pkg :=
  let n := offer p
  let p := { p with tm := { p.tm with advertised := n } }
  ((otherPackages p).filter (fun q => decide (hops p (ownId p) q ≤ rd p Ix.tmLendRadiusHops 0) && !p.tf.holes.contains q)).foldl
    (fun p q => sendTm p q { type := 1, units := n } none) p

/-- Sends one at once when the offer has changed (R257). -/
def readvertise (p : Pkg) : Pkg :=
  if (rd p Ix.tmLendEnable 0 ≠ 1 ∧ p.tm.advertised = 0) ∨ offer p = p.tm.advertised then p else advertise p

/-- Bytes of the loan table (0x4419). -/
def loanBytes (l : Loan) : Bytes :=
  leBytes 2 l.partner ++ leBytes 2 l.unit ++ leBytes 2 (l.slot.getD 0xFFFF) ++ leBytes 2 l.state ++ leBytes 8 l.deadlineNs

/-- Shows loans (0x4412, 0x4413, 0x4419). -/
def showLoans (p : Pkg) : Pkg :=
  let p := wr p Ix.tmT2MappedBytes 0 ((p.tm.loans.filter (fun l => l.slot.isSome)).length * 0x40000000)
  wrB (wr p Ix.tmLentBytes 0 ((lentUnits p).length * 0x40000000)) Ix.tmLendTable 0 (p.tm.loans.flatMap loanBytes)

/-- Changes the loans. -/
def modLoans (p : Pkg) (f : List Loan → List Loan) : Pkg := showLoans { p with tm := { p.tm with loans := f p.tm.loans } }

/-- Writes the window table on the firmware's behalf (R257, R339). -/
def setWindows (p : Pkg) (l : List Bytes) : Pkg := wr (wrB p Ix.msWindowTable 0 l.flatten) Ix.msWindowCount 0 (l.filter (fun b => leAt b 0 1 != 0)).length

/-- The window of a T2 slot (R257, R339). -/
def t2Record (partner unit slot : Nat) : Bytes :=
  leBytes 1 2 ++ leBytes 1 0xFF ++ leBytes 2 partner ++ leBytes 1 3 ++ [0, 0, 0] ++ leBytes 8 (0x040000000000 + slot * 0x40000000)
    ++ leBytes 8 0x40000000 ++ leBytes 8 (unitAddr unit)

/-- Maps a granted unit into the lowest free T2 slot (R257). -/
def mapUnit (pp lender : Nat) (p : Pkg) (u : Nat) : Pkg :=
  let taken := p.tm.loans.filterMap (·.slot)
  match (List.range 1280).find? (fun w => !taken.contains w) with
  | none => p
  | some w =>
    let p := { p with tm := { p.tm with withdrawn := tdel p.tm.withdrawn w } }
    setWindows (modLoans p (· ++ [{ partition := pp, partner := lender, unit := u, slot := some w }]))
      (windowRecords p ++ [t2Record lender u w])

/-- Removes a unit's window (R257 to R259): accesses to its slot answer `status` from then on, 0 for 0x0901. -/
def unmapUnit (p : Pkg) (l : Loan) (status : Nat) : Pkg :=
  match l.slot with
  | none => p
  | some w =>
    let p := if status = 0 then p else { p with tm := { p.tm with withdrawn := tput p.tm.withdrawn w status } }
    setWindows (modLoans p (fun ls => ls.filter (· != l)))
      ((windowRecords p).filter (fun b => !(leAt b 0 1 == 2 && leAt b 8 8 == 0x040000000000 + w * 0x40000000)))

/-- Pages that lie in a borrowed unit. -/
def pagesInUnit (p : Pkg) (l : Loan) : List KvSlot :=
  match l.slot with
  | none => []
  | some w => (part p l.partition).ak.slots.filter (fun s => decide (0x040000000000 + w * 0x40000000 ≤ s.addr)
      && decide (s.addr < 0x040000000000 + (w + 1) * 0x40000000))

/-- Returns a unit to its lender (R257, R258). -/
def returnUnit (p : Pkg) (l : Loan) : Pkg := sendTm (unmapUnit p l 0) l.partner { type := 6, units := 1, unitList := [l.unit] } none

/-- Returns units under reclaim that hold no page any longer (R258). -/
def returnEmpty (p : Pkg) : Pkg :=
  (p.tm.loans.filter (fun l => l.slot.isSome && l.state == 1)).foldl (fun p l => if (pagesInUnit p l).isEmpty then returnUnit p l else p) p

/-- Partition whose step number a loss record carries (R264): the one that the loss is reported for; for a loss of no one partition's, the
lowest that has a fixed range or a page in it, else the lowest that has run a step (DESIGN CHOICE, assumption 160). -/
def lossPartition (p : Pkg) (pp base length : Nat) : Option Nat :=
  if pp < 12 then some pp
  else
    let touched := (List.range 12).find? (fun q => (fixedRanges p q).any (fun r => overlap r.1 r.2 base length)
      || (part p q).ak.slots.any (fun s => decide (base ≤ s.addr) && decide (s.addr < base + length)))
    if touched.isSome then touched else (List.range 12).find? (fun q => (part p q).pc.numbered)

/-- A loss record (R264). -/
def lossRecord (p : Pkg) (pp cause tier unit base length pages extents ranges : Nat) : Bytes :=
  leBytes 4 (((lossPartition p pp base length).map (stepOf p)).getD 0) ++ leBytes 1 cause ++ leBytes 1 tier ++ leBytes 2 unit ++ leBytes 8 base ++ leBytes 8 length
    ++ leBytes 4 pages ++ leBytes 2 extents ++ leBytes 1 (min ranges 255) ++ [0]

/-- Marks the pages of a range lost and abandons their moves (R263 to R265); their number. -/
def losePages (p : Pkg) (base length : Nat) : Pkg × Nat :=
  let inRange := fun (a : Nat) => decide (base ≤ a) && decide (a < base + length)
  let p := abandonMoves p (fun m => inRange m.source || inRange m.dest)
  (List.range 12).foldl (fun (acc : Pkg × Nat) pp =>
    let hit := (part acc.1 pp).ak.slots.filter (fun s => s.kind == 0 && inRange s.addr)
    if hit.isEmpty then acc
    else (modAk acc.1 pp (fun q => { q with slots := q.slots.map (fun s => if s.kind = 0 ∧ inRange s.addr = true then { s with lost := true } else s) }),
          acc.2 + hit.length)) (p, 0)

/-- LOSS_REPORT (R264): pages to the Attention and KV Manager, extents to the Weight and Model Store, fixed ranges
counted; event 0x0910. -/
def reportLoss (p : Pkg) (pp cause tier unit base length : Nat) : Pkg :=
  let a := losePages p base length
  let b := loseExtents a.1 base length
  let p := b.1
  let ranges := ((List.range 12).flatMap (fixedRanges p)).filter (fun r => overlap r.1 r.2 base length)
  let r := lossRecord p pp cause tier unit base length a.2 b.2 ranges.length
  let p := { p with tm := { p.tm with losses := (if p.tm.losses.length ≥ 64 then p.tm.losses.drop 1 else p.tm.losses) ++ [r] } }
  raise (touch (bump (last p Ix.tmLastStatus 0 0x0910) Ix.tmLossHead 0 1) Ix.tmLossLog 0) 0x0910 pp unit 0

/-- Requests with a page in a borrowed unit end with 0x1215 when the lender is lost (R449). -/
def markKvLost (p : Pkg) (l : Loan) : Pkg :=
  (pagesInUnit p l).foldl (fun p s => modReq p l.partition s.handle (fun r => { r with given := some (r.given.getD 0x1215) })) p

/-- LENDER_LOST (R259): every window to the package goes, its pages are lost; units lent to it are filled before reuse. -/
def lenderLost (p : Pkg) (id : Nat) : Pkg :=
  let p := (p.tm.loans.filter (fun l => l.slot.isSome && l.partner == id)).foldl (fun p l =>
    let base := 0x040000000000 + l.slot.getD 0 * 0x40000000
    unmapUnit (reportLoss (markKvLost p l) l.partition 4 2 id base 0x40000000) l 0x0906) p
  let p := { p with tm := { p.tm with offers := tdel p.tm.offers id, wanted := p.tm.wanted.filter (fun w => w.2.1 != id) } }
  modLoans p (fun ls => ls.map (fun l => if l.slot.isNone && l.partner == id then { l with state := 2 } else l))

/-- A destination for a page that comes home (R258): the spill pool, then the T0 pool. -/
def homeSlot (p : Pkg) (pp : Nat) : Option Nat :=
  match freeOf p pp (spillSlots p pp) with
  | a :: _ => some a
  | [] => freeRun p pp 1

/-- Starts the copies home of a unit's pages that have a home slot free (R258, R265): moves into the unit are abandoned, and those out of
it become moves of a reclaim (R254). -/
def bringHome (p : Pkg) (l : Loan) : Pkg :=
  let base := 0x040000000000 + l.slot.getD 0 * 0x40000000
  let inUnit := fun (a : Nat) => decide (base ≤ a) && decide (a < base + 0x40000000)
  let p := abandonMoves p (fun m => inUnit m.dest)
  let p := { p with tm := { p.tm with moves := p.tm.moves.map (fun m => if inUnit m.source then { m with cls := 0 } else m) } }
  (pagesInUnit p l).foldl (fun p s =>
    if moving p s.addr then p
    else match homeSlot p l.partition with
      | some a => startMove p l.partition s a 0
      | none => p) p

/-- RECLAIM at the borrower (R258, R265): event 0x0912; of two notices the earlier deadline holds. The copies home start with it
(`tierWork`). -/
def reclaimNotice (p : Pkg) (m : TmMessage) : Pkg :=
  let named := fun (l : Loan) => l.slot.isSome && l.partner == m.sender && m.unitList.contains l.unit
  let p := modLoans p (fun ls => ls.map (fun l =>
    if named l then { l with state := 1, deadlineNs := if l.state = 1 then min l.deadlineNs m.deadlineNs else m.deadlineNs } else l))
  raiseAs p Ix.tmLastStatus 0 0x0912 0xFF m.sender 0

/-- Reclaims lent units (R258): one RECLAIM per borrower of at most sixteen units. -/
def reclaimLoans (p : Pkg) (mine : List Loan) : Pkg :=
  let deadline := p.now + rd p Ix.tmReclaimGraceMs 0 * 1000000
  let p := modLoans p (fun ls => ls.map (fun l => if mine.contains l then { l with state := 1, deadlineNs := deadline } else l))
  (mine.map (·.partner)).eraseDups.foldl (fun p q =>
    let us := (mine.filter (fun l => l.partner == q)).map (·.unit)
    (List.range ((us.length + 15) / 16)).foldl (fun p i =>
      let l := (us.drop (16 * i)).take 16
      sendTm p q { type := 5, units := l.length, graceMs := rd p Ix.tmReclaimGraceMs 0, deadlineNs := deadline, unitList := l } none) p) p

/-- Reclaims `n` lent units, the highest unit number first (R258). -/
def reclaimUnits (p : Pkg) (n : Nat) : Pkg :=
  reclaimLoans p ((sortBy (fun (a b : Loan) => decide (b.unit < a.unit)) ((lentUnits p).filter (fun l => l.state == 0))).take n)

/-- Reclaims the lent units that overlap extents which the package needs for itself (R258). -/
def reclaimFor (p : Pkg) (es : List (Nat × Nat)) : Pkg :=
  reclaimLoans p ((lentUnits p).filter (fun l => l.state == 0 && es.any (fun e => overlap e.1 e.2 (unitAddr l.unit) 0x40000000)))

/-- Reclaims the lent units that this package's own fixed ranges have come to overlap (R258). -/
def reclaimNeeded (p : Pkg) : Pkg :=
  reclaimFor p ((List.range 12).flatMap (fixedRanges p))

/-- Drydown's stage 3 (R459): every lent unit is reclaimed. -/
def reclaimAllUnits (p : Pkg) : Pkg := reclaimUnits p 2048

/-- Drydown's stage 2 (R459, R286): loads served to neighbours end; borrowed units are returned, with the pages of stopped partitions
dropped. -/
def handOff (p : Pkg) : Pkg :=
  let p := { p with wm := { p.wm with serving := [] } }
  (p.tm.loans.filter (fun l => l.slot.isSome)).foldl (fun p l =>
    returnUnit ((pagesInUnit p l).foldl (fun p s => freePage p l.partition 0 s) p) l) p

/-- Borrowed units mapped. -/
def mappedUnits (p : Pkg) : Nat := (p.tm.loans.filter (fun l => l.slot.isSome)).length

/-- Asks for units when the spill pool and T2 slots of a partition fall below the mark (R257): from the advertiser with
the fewest hops, ties to the lower id. What is asked for counts toward the maximum until it is answered (R255). -/
def borrowIfShort (p : Pkg) (pp : Nat) : Pkg :=
  let spill := spillSlots p pp
  let t2 := t2Slots p pp
  let total := spill.length + t2.length
  let free := (freeOf p pp spill).length + (freeOf p pp t2).length
  let mine := mappedUnits p + (p.tm.wanted.map (·.2.2.2)).sum
  if rd p Ix.tmBorrowEnable 0 ≠ 1 ∨ rd p Ix.tmSpillBytes pp = 0 ∨ below free total (rd p Ix.tmT1LowWaterPm 0) = false
      ∨ rd p Ix.tmBorrowMaxGib 0 ≤ mine ∨ p.tm.wanted.any (fun w => w.2.2.1 == pp) = true then p
  else
    let lenders := p.tm.offers.filter (fun o => o.2 != 0 && !p.tf.holes.contains o.1)
    match lenders.foldl (fun (m : Option Nat) o => match m with
      | none => some o.1
      | some q => if hops p (ownId p) o.1 < hops p (ownId p) q then some o.1 else some q) none with
    | none => p
    | some q =>
      let want := min 16 (rd p Ix.tmBorrowMaxGib 0 - mine)
      let p := { p with tm := { p.tm with wanted := p.tm.wanted ++ [(p.tm.sequence % 2 ^ 32, q, pp, want)] } }
      sendTm p q { type := 2, units := want } none

/-- BORROW at the lender (R257): a GRANT of the units taken out of free space, or a REFUSE. -/
def borrowRequest (p : Pkg) (m : TmMessage) : Pkg :=
  let us := ((List.range 2048).filter (unitFree p)).take (min m.units (offer p))
  if us.isEmpty then sendTm p m.sender { type := 4 } (some m.sequence)
  else
    let p := modLoans p (· ++ us.map (fun u => { partner := m.sender, unit := u }))
    sendTm p m.sender { type := 3, units := us.length, unitList := us } (some m.sequence)

/-- Takes units out of what a package is known to offer (R257; assumption 161). -/
def lessOffer (p : Pkg) (id n : Nat) : Pkg := { p with tm := { p.tm with offers := tput p.tm.offers id (tget p.tm.offers id 0 - n) } }

/-- Sends units back to their lender (R257). -/
def giveBack (p : Pkg) (id : Nat) (us : List Nat) : Pkg :=
  if us.isEmpty then p else sendTm p id { type := 6, units := us.length, unitList := us } none

/-- GRANT at the borrower (R255, R257): each unit is mapped, up to the maximum; units beyond it or that answer no BORROW go back at once. -/
def grantArrives (p : Pkg) (m : TmMessage) : Pkg :=
  match p.tm.wanted.find? (fun w => w.1 == m.sequence && w.2.1 == m.sender) with
  | none => giveBack p m.sender m.unitList
  | some w =>
    let room := rd p Ix.tmBorrowMaxGib 0 - mappedUnits p
    let p := lessOffer { p with tm := { p.tm with wanted := p.tm.wanted.filter (· != w) } } m.sender m.unitList.length
    giveBack ((m.unitList.take room).foldl (mapUnit w.2.2.1 m.sender) p) m.sender (m.unitList.drop room)

/-- REFUSE at the borrower (R257): the package has none to give until it advertises again (assumption 161). -/
def refuseArrives (p : Pkg) (m : TmMessage) : Pkg :=
  { p with tm := { p.tm with wanted := p.tm.wanted.filter (fun w => !(w.1 == m.sequence && w.2.1 == m.sender)), offers := tdel p.tm.offers m.sender } }

/-- RELEASE at the lender (R257, R258, R265): the units are filled before they are free again; after the deadline it has
no effect. -/
def releaseArrives (p : Pkg) (m : TmMessage) : Pkg :=
  modLoans p (fun ls => ls.map (fun l =>
    if l.slot.isNone && l.partner == m.sender && m.unitList.contains l.unit then { l with state := 2 } else l))

/-- Acts on a message of the mailbox (R256). -/
def tmAct (p : Pkg) (m : TmMessage) : Pkg :=
  match m.type with
  | 1 => { p with tm := { p.tm with offers := tput p.tm.offers m.sender m.units } }
  | 2 => borrowRequest p m
  | 3 => grantArrives p m
  | 4 => refuseArrives p m
  | 5 => reclaimNotice p m
  | _ => releaseArrives p m

/-- A store of a message to the mailbox (R256): 0x0904 when it is full; a malformed message is dropped and logged. A message is acted on at
once and keeps its place for the 1 ms of R257 (assumption 20). -/
def tmArrives (p : Pkg) (m : TmMessage) : Pkg × Nat :=
  let box := p.tm.mailbox.filter (fun e => decide (p.now < e.1 + 1000000))
  if 256 ≤ box.length then (last p Ix.tmLastStatus 0 0x0904, 0x0904)
  else if !tmOk m then (logViolation p 2 0xFF m.sender 0x0E07 0 ((tmBytes m).take 12), 0)
  else (tmAct { p with tm := { p.tm with mailbox := box ++ [(p.now, m)] } } m, 0)

/-- What the Tier Manager does without being asked: moves of a partition that is stopped, paused or preempted are committed (R252), units
under reclaim are emptied and returned (R258), a changed offer is advertised and a shortage asks for units (R257). -/
def tierWork (p : Pkg) : Pkg :=
  let p := (p.tm.moves.map (·.partition)).eraseDups.foldl (fun p pp => if commitsFreely p pp then commitMoves p pp p.tm.moves.length else p) p
  let p := returnEmpty ((p.tm.loans.filter (fun l => l.slot.isSome && l.state == 1)).foldl bringHome p)
  let p := readvertise p
  if rd p Ix.tmBorrowEnable 0 = 1 then (List.range 12).foldl borrowIfShort p else p

/-- Held writes whose place lies above no frontier any longer are performed, in order (R261, R478). -/
def releaseWrites (p : Pkg) : Pkg :=
  let free := p.tm.held.filter (fun t => !mustHold p t.addr)
  pump (free.foldl (fun p t => completeHere p t 0) { p with tm := { p.tm with held := p.tm.held.filter (fun t => mustHold p t.addr) } })

/-- STACK_DEGRADE (R261): everything in the stack is reported lost and its poison fill starts. -/
def degradeStack (p : Pkg) (s ch : Nat) : Pkg :=
  let p := wrAt (wr (wr p Ix.hbStackState s 3) Ix.hbFailedChannel s ch) Ix.hbChannelState s ch 1
  let p := { p with tm := { p.tm with poisonFill := tput p.tm.poisonFill s 0 } }
  reportLoss p ((partOfRegion p s).getD 0xFF) 1 0 (ch * 256 + s) (s * 0x001000000000) 0x001000000000

/-- The poison fill ends (R261): every word of the 62 GiB that remain is poisoned; held writes are performed. -/
def endPoisonFill (p : Pkg) (s : Nat) : Pkg :=
  match tfind p.tm.poisonFill s with
  | none => p
  | some _ =>
    let p := { p with mem := memFill p.mem (s * 0x001000000000) (62 * 2 ^ 30), tm := { p.tm with poisonFill := tdel p.tm.poisonFill s } }
    releaseWrites (if rd p Ix.hbStackState s = 3 then wr p Ix.hbStackState s 2 else p)

/-- A DDR5 channel fails (R260, R263): its range is absent and what lay there is lost. -/
def failDdr (p : Pkg) (c : Nat) : Pkg :=
  let size := rd p Ix.ddDimmBytes c
  let p := recordHistory (wr p Ix.ddChannelState c 3) 5 1 c 0x0B10 0
  let p := raise p 0x0B10 0xFF c 0
  let p := { p with tm := { p.tm with zeroFill := tdel p.tm.zeroFill c, skip := tdel p.tm.skip c } }
  reportLoss p 0xFF 3 1 c (0x010000000000 + c * 0x002000000000) size

/-- An HBM4 stack's first failed channel (R260, R261). -/
def failHbmFirst (p : Pkg) (s ch : Nat) : Pkg :=
  degradeStack (raise (recordHistory p 4 1 (ch * 256 + s) 0x0A10 (match partOfRegion p s with
    | some pp => stepOf p pp
    | none => 0)) 0x0A10 ((partOfRegion p s).getD 0xFF) (ch * 256 + s) 0) s ch

/-- Capacities of a supported DIMM in GiB (R242). -/
def supportedDimm (g : Nat) : Bool := [32, 48, 64, 96, 128].contains g

/-- Trains the stacks and channels (R242, R477): a DDR5 channel in the defect list or failing training is empty, and so is one with an
unsupported DIMM, with status 0x0B03; a stack with one bad channel is degraded, and one with two has its region hidden. -/
def trainMemory (p : Pkg) (r : PhaseResult) : Pkg :=
  let bad := fun (kind unit : Nat) => p.flash.defects.any (fun d => d.kind == kind && d.unit == unit) || r.trainingFailures.any (fun f => f.kind == kind && f.unit == unit)
  let p := (List.range 16).foldl (fun p c =>
    let g := r.dimmGiB.getD c 0
    if bad 5 c || !supportedDimm g then
      let st := if bad 5 c || g == 0 then 0 else 0x0B03
      wr (wr { p with tm := { p.tm with channelStatus := tput p.tm.channelStatus c st } } Ix.ddChannelState c 2) Ix.ddDimmBytes c 0
    else wr (wr p Ix.ddChannelState c 0) Ix.ddDimmBytes c (g * 2 ^ 30)) p
  (List.range 12).foldl (fun p s =>
    match (List.range 32).filter (fun ch => bad 4 (ch * 256 + s)) with
    | [] => wr p Ix.hbStackState s (if regionHidden p s then 4 else 0)
    | [ch] => wrAt (wr (wr p Ix.hbStackState s 2) Ix.hbFailedChannel s ch) Ix.hbChannelState s ch 1
    | chs => hideRegion (chs.foldl (fun p ch => wrAt p Ix.hbChannelState s ch 1) (wr p Ix.hbStackState s 4)) s) p

/-- Phase 8 (R478): T0 is zeroed and each DIMM's fill starts at its frontier 0. -/
def initMemory (p : Pkg) : Pkg :=
  let cs := (List.range 16).filter (fun c => rd p Ix.ddChannelState c == 0)
  { p with mem := {}, tm := { p.tm with zeroFill := cs.map (fun c => (c, 0)), skip := [] } }

/-- A DDR5 channel's zero fill ends (R478): held writes are performed. -/
def endZeroFill (p : Pkg) (c : Nat) : Pkg :=
  releaseWrites { p with tm := { p.tm with zeroFill := tdel p.tm.zeroFill c, skip := tdel p.tm.skip c } }

/-- Whether a stack holds a fixed range or pool of a partition (R428). -/
def stackUsedBy (p : Pkg) (pp r : Nat) : Bool :=
  (fixedRanges p pp).any (fun x => overlap x.1 x.2 (r * 0x001000000000) 0x001000000000)

/-- Abandons the copies of a partition's moves at its reset (R265). -/
def abandonPartitionMoves (p : Pkg) (pp : Nat) : Pkg := abandonMoves p (fun m => m.partition == pp)

end Sys2Proof.Machine
end

