-- ==== Sys2Proof/Machine/DmaOps.lean ====
section
/-! DEFINITION. Chapter 12: DMA channels, their registers, pacing, pieces, signals, errors and halts; and the bandwidth
regulators that grant their slots (R419, R420). -/

namespace Sys2Proof.Machine

/-- Rate in MB/s, burst in bytes and SPARE of a regulator (R419); the default record is rate 0, burst 65,536, SPARE. -/
def regulator (p : Pkg) (pp resource : Nat) : Nat × Nat × Bool :=
  let b := rdB p Ix.pcRegulators pp
  if b.length < 80 then (0, 65536, true)
  else (leAt b (resource * 16) 4, leAt b (resource * 16 + 4) 4, bit (leAt b (resource * 16 + 8) 1) 0)

/-- Credit of a bucket in bytes (R420): it starts full. -/
def creditOf (p : Pkg) (pp resource region : Nat) : Int :=
  tget (part p pp).pc.credit (resource * 16 + region) ((regulator p pp resource).2.1 : Int)

/-- Lowest credit that a bucket reaches (R420): a request is granted while its credit is above zero, and carries at most 256 bytes, a piece of
the DMA engine 4 KiB. -/
def creditFloor (resource : Nat) : Int := if resource = 4 then -4095 else -255

/-- Takes granted requests' bytes from their bucket (R420); a rate of 0 is unregulated (R419). Requests without credit wait for it, in steps of
100 ns that are counted in 0x6015; with SPARE they do not wait and the bucket keeps its floor (DESIGN CHOICE, assumption 44). -/
def charge (p : Pkg) (pp resource region bytes : Nat) : Pkg :=
  let g := regulator p pp resource
  if pp < 12 ∧ g.1 ≠ 0 then
    let c := creditOf p pp resource region - bytes
    let rate := max 1 (g.1 * 100 / 1000)
    let short := (creditFloor resource - c).toNat
    let steps := if g.2.2 then 0 else (short + rate - 1) / rate
    modPc p pp (fun q => { q with
      credit := tput q.credit (resource * 16 + region) (if g.2.2 then max c (creditFloor resource) else c + (steps * rate : Nat)),
      waitNs := q.waitNs.zipIdx.map (fun w => if w.2 = resource then w.1 + 100 * steps else w.1) })
  else p

/-- A DMA channel. -/
def chan (p : Pkg) (c : Nat) : Channel := tget p.dm.channels c {}

/-- Changes a DMA channel. -/
def modChan (p : Pkg) (c : Nat) (f : Channel → Channel) : Pkg := { p with dm := { p.dm with channels := tmod p.dm.channels c {} f } }

/-- A descriptor register (R292). -/
def Channel.reg (k : Channel) (offset : Nat) : Nat := tget k.regs offset 0

/-- State of a channel (R301). -/
def chanState (p : Pkg) (c : Nat) : Nat := rd p Ix.dmChannelState c

/-- Enters a channel state. -/
def setChanState (p : Pkg) (c st : Nat) : Pkg := wr p Ix.dmChannelState c st

/-- Firmware channels (R289). -/
def firmwareChannel (c : Nat) : Bool := (decide (120 ≤ c) && decide (c < 128)) || decide (248 ≤ c)

/-- Source of a channel's transactions (R335). -/
def chanSource (c : Nat) : Nat := 0x100 + c

/-- Slots that a channel holds: one for each piece in flight. -/
def Channel.slots (k : Channel) : Nat := (k.pieces.filter (fun x => decide (x.number < 2 ^ 60))).length

/-- Stands for a signal that waits to be repeated among the pieces. -/
def signalPiece : Nat := 2 ^ 60

/-- Slots not held by any channel (0x5010). -/
def poolFree (p : Pkg) : Nat := 4096 - (p.dm.channels.map (fun e => e.2.slots)).sum

/-- Shared slots free (R290): those not held and not kept for a channel's reserve of two. -/
def sharedFree (p : Pkg) : Nat :=
  let owed := ((List.range 256).filter (fun c => firmwareChannel c || rd p Ix.dmChannelPartition c < 12)).map (fun c => 2 - (chan p c).slots)
  poolFree p - owed.sum

/-- Shows the pool (0x5010). -/
def showPoolSlots (p : Pkg) : Pkg := wr p Ix.dmPoolFreeSlots 0 (poolFree p)

/-- Pieces of a source line (R290). -/
def Channel.perLine (k : Channel) : Nat := (k.reg 0x08 + 4095) / 4096

/-- Source line of a piece, its offset in the line, and its length. -/
def Channel.pieceLine (k : Channel) (n : Nat) : Nat := n / max 1 k.perLine
def Channel.pieceOffset (k : Channel) (n : Nat) : Nat := n % max 1 k.perLine * 4096
def Channel.pieceBytes (k : Channel) (n : Nat) : Nat := min 4096 (k.reg 0x08 - k.pieceOffset n)

/-- Source address of a piece (R293). -/
def Channel.sourceOf (k : Channel) (n : Nat) : Nat :=
  k.reg 0x00 + k.pieceLine n % max 1 (k.reg 0x10) * k.reg 0x0C + k.pieceOffset n

/-- Destination address of byte `pos` of the stream (R293). -/
def Channel.destOf (k : Channel) (pos : Nat) : Nat :=
  k.reg 0x18 + pos / max 1 (k.reg 0x20) % max 1 (k.reg 0x28) * k.reg 0x24 + pos % max 1 (k.reg 0x20)

/-- Stream position of a piece. -/
def Channel.posOf (k : Channel) (n : Nat) : Nat := k.pieceLine n * k.reg 0x08 + k.pieceOffset n

/-- Whether a field's side lies in host memory (R292): 0 source, 1 destination, 2 signal. -/
def Channel.inHost (k : Channel) (side : Nat) : Bool := bits (k.reg 0x14) (2 * side + 1) (2 * side) == 1

/-- Whether DST_PROTECT lets the channel write the byte of the stream at `pos` (R294). -/
def Channel.mayWrite (k : Channel) (pos : Nat) : Bool :=
  !bit (k.reg 0x34) 0 || decide (pos / max 1 (k.reg 0x20) < k.dstConsumed + k.reg 0x28)

/-- Checks of START (R295). -/
def startOk (p : Pkg) (c : Nat) : Bool :=
  let k := chan p c
  let r := k.reg
  let line := fun (o : Nat) => r o % 4 == 0 && decide (4 ≤ r o) && decide (r o ≤ 16777216)
  line 0x08 && line 0x20 && decide (1 ≤ r 0x10) && decide (1 ≤ r 0x28)
  && r 0x0C % 4 == 0 && r 0x24 % 4 == 0 && decide (r 0x20 ≤ r 0x24) && (r 0x0C == 0 || decide (r 0x08 ≤ r 0x0C))
  && decide (r 0x14 < 64) && decide (bits (r 0x14) 1 0 < 2) && decide (bits (r 0x14) 3 2 < 2) && decide (bits (r 0x14) 5 4 < 2)
  && decide (1 ≤ r 0x2C) && decide (r 0x2C ≤ r 0x10) && decide (r 0x30 < r 0x2C) && decide (r 0x34 < 8)
  && r 0x00 % 4 == 0 && r 0x18 % 4 == 0 && r 0x40 % 8 == 0 && r 0x50 % 8 == 0
  && (r 0x38 * r 0x08) % r 0x20 == 0
  && (firmwareChannel c || decide (rd p Ix.dmChannelPartition c < 12))

/-- Bytes of a fault (0x5005). -/
def DmaFault.bytes (f : DmaFault) : Bytes :=
  leBytes 8 f.line ++ leBytes 8 f.addr ++ leBytes 2 f.status ++ leBytes 1 f.side ++ leBytes 1 f.attempts ++ List.replicate 12 0

/-- Whether the channel's partition resets (R302, R424): the channel issues nothing. -/
def chanResets (p : Pkg) (c : Nat) : Bool :=
  decide (rd p Ix.dmChannelPartition c < 12) && pcState p (rd p Ix.dmChannelPartition c) == 6

/-- Whether a running channel wants to issue its next piece (R296): a line below PRODUCED and within the transfer. -/
def wantsPiece (p : Pkg) (c : Nat) : Bool :=
  let k := chan p c
  let line := k.pieceLine k.nextPiece
  chanState p c == 2 && k.halting.isNone && decide (line < k.produced) && (k.reg 0x38 == 0 || decide (line < k.reg 0x38))
  && decide (k.slots < rd p Ix.dmChannelSlotLimit c) && !chanResets p c

/-- Whether a channel's partition holds DMA credit (R420); firmware channels and rate 0 are not regulated. -/
def holdsCredit (p : Pkg) (c : Nat) : Bool :=
  let pp := rd p Ix.dmChannelPartition c
  decide (12 ≤ pp) || (regulator p pp 4).1 == 0 || decide (0 < creditOf p pp 4 0)

/-- Whether a slot is granted (R290, R420): with DMA credit, or by SPARE while no waiting channel `want` has any; from the reserve of two, or a
shared slot. -/
def slotGranted (p : Pkg) (want : List Nat) (c : Nat) : Bool :=
  (holdsCredit p c || ((regulator p (rd p Ix.dmChannelPartition c) 4).2.2 && !want.any (holdsCredit p)))
  && (decide ((chan p c).slots < 2) || decide (0 < sharedFree p))

/-- Pieces delivered contiguously from piece `n` on: the first number from `n` that a list does not hold. -/
def contiguous (done : List Nat) : (fuel n : Nat) → Nat
  | 0, n => n
  | fuel + 1, n => if done.contains n then contiguous done fuel (n + 1) else n

/-- The slot that a channel receives (R290): the lowest free one of its own X-die while any is free there, else of the other. -/
def slotFor (p : Pkg) (c : Nat) : Nat :=
  let used := p.dm.channels.flatMap (fun e => (e.2.pieces.filter (fun x => decide (x.number < signalPiece))).map (·.slot))
  let own := if c < 128 then 0 else 2048
  let a := contiguous used used.length own
  if a < own + 2048 then a else contiguous used used.length (2048 - own)

/-- Issues one piece. -/
def issuePiece (p : Pkg) (c : Nat) : Pkg :=
  let k := chan p c
  let p := charge p (rd p Ix.dmChannelPartition c) 4 0 (k.pieceBytes k.nextPiece)
  modChan { p with dm := { p.dm with lastServed := c } } c (fun k => { k with
    pieces := k.pieces ++ [{ number := k.nextPiece, slot := slotFor p c }], nextPiece := k.nextPiece + 1, waiting := false })

/-- A channel that must wait for a grant is counted once (0x5011). -/
def waitForSlot (p : Pkg) (c : Nat) : Pkg :=
  if (chan p c).waiting then p else bump (modChan p c (fun k => { k with waiting := true })) Ix.dmPoolGrantWaits 0 1

/-- Partition that a channel's grants are served for (R421); 12 stands for a channel of the firmware, which has no share and goes first
(assumption 173). -/
def grantParty (p : Pkg) (c : Nat) : Nat := min 12 (rd p Ix.dmChannelPartition c)

/-- The turn passes to the next partition with a channel that may be granted, and its deficit grows by its quantum (R421). -/
def nextTurn (p : Pkg) (ready : List Nat) : Pkg :=
  let t := ((List.range 12).map (fun i => (p.dm.turn + 1 + i) % 12)).find? (fun t => ready.any (fun c => grantParty p c == t))
  let t := t.getD p.dm.turn
  { p with dm := { p.dm with turn := t, deficit := tput p.dm.deficit t (tget p.dm.deficit t 0 + rd p Ix.pcShare t * 64) } }

/-- Grants slots: by deficit round robin between the partitions (R421), and within one round robin over its channels, from the channel after
the last one served (R290). `fuel` bounds grants and turns. -/
def serveChannels : (fuel : Nat) → Pkg → Pkg
  | 0, p => p
  | fuel + 1, p =>
    let all := p.dm.channels.map (·.1)
    let order := all.filter (fun c => decide (p.dm.lastServed < c)) ++ all.filter (fun c => decide (c ≤ p.dm.lastServed))
    let want := order.filter (wantsPiece p)
    let ready := want.filter (slotGranted p want)
    let left := tget p.dm.deficit p.dm.turn 0
    if ready.isEmpty then
      want.foldl waitForSlot
        { p with dm := { p.dm with deficit := p.dm.deficit.filter (fun e => want.any (fun c => grantParty p c == e.1)) } }
    else match ready.find? (fun c => grantParty p c == 12), ready.find? (fun c => grantParty p c == p.dm.turn) with
      | some c, _ => serveChannels fuel (issuePiece p c)
      | none, some c =>
        let n := (chan p c).pieceBytes (chan p c).nextPiece
        if n ≤ left then
          serveChannels fuel (issuePiece { p with dm := { p.dm with deficit := tput p.dm.deficit p.dm.turn (left - n) } } c)
        else serveChannels fuel (nextTurn p ready)
      | none, none => serveChannels fuel (nextTurn p ready)

/-- Grants until none is left, and shows the pool. -/
def serve (p : Pkg) : Pkg := showPoolSlots (serveChannels 4194304 p)

/-- The halt takes place (R300): slots are free, the fault is recorded, no signal is made. -/
def haltNow (p : Pkg) (c : Nat) (f : DmaFault) : Pkg :=
  let p := modChan p c (fun k => { k with pieces := [], halting := none, waiting := false })
  let p := setChanState (last (wrB p Ix.dmChannelFault c f.bytes) Ix.dmChannelLastStatus c f.haltStatus) c 5
  serve (if bit ((chan p c).reg 0x34) 2 then raise p 0x0C11 (rd p Ix.dmChannelPartition c) c 0 else p)

/-- DMA_HALT (R300): no new read; the halt waits for the pieces in flight. -/
def haltChannel (p : Pkg) (c : Nat) (f : DmaFault) : Pkg :=
  if (chan p c).halting.isSome then p
  else if (chan p c).pieces.isEmpty then haltNow p c f
  else modChan p c (fun k => { k with halting := some f })

/-- A halt under way whose last piece has gone. -/
def haltIfDrained (p : Pkg) (c : Nat) : Pkg :=
  match (chan p c).halting with
  | some f => if (chan p c).pieces.isEmpty then haltNow p c f else p
  | none => p

/-- Fill and lines left (R296); none left counts as unbounded where TOTAL_LINES is 0. -/
def Channel.fill (k : Channel) : Nat := k.produced - k.consumed
def Channel.rem (k : Channel) : Option Nat := if k.reg 0x38 = 0 then none else some (k.reg 0x38 - k.consumed)

/-- The pacing rule (R296, R297), evaluated when PRODUCED or CONSUMED changes. -/
def pace (p : Pkg) (c : Nat) : Pkg :=
  let k := chan p c
  let st := chanState p c
  if (st = 1 ∨ st = 2) ∧ k.halting = none then
    if k.reg 0x10 < k.fill then
      haltChannel p c { line := k.consumed + k.reg 0x10, addr := k.reg 0x00, status := 0x0C05, haltStatus := 0x0C05 }
    else
      let atEnd := match k.rem with
        | none => false
        | some r => decide (r ≤ k.fill)
      if st = 1 then
        if k.reg 0x2C ≤ k.fill ∨ (0 < k.fill ∧ atEnd = true) then serve (setChanState p c 2) else serve p
      else if k.fill ≤ k.reg 0x30 ∧ atEnd = false then serve (bump (setChanState p c 1) Ix.dmChannelPauses c 1)
      else serve p
  else serve p

/-- A 64-bit store or flagged add of a channel outside its pieces (R298): to host memory, or to a fabric address. -/
def chanSend (p : Pkg) (c : Nat) (host : Bool) (addr value : Nat) (add : Bool) (piece : Nat) : Pkg :=
  let t : Txn := { source := chanSource c, partition := rd p Ix.dmChannelPartition c, toHost := host,
                   dest := if host then 0 else addr / 2 ^ 46 % 1024, addr := if host then addr else addr % 2 ^ 46,
                   type := if add then 2 else 1, asize := add, flag := add,
                   data := if add then padTo (leBytes 8 value) 16 else leBytes 8 value, bytes := if add then 0 else 8,
                   purpose := .dmaPiece c piece 2 }
  if host || t.dest == ownId p then send p t else sendFabric p t

/-- One signal (R298): CONSUMED is stored first, in the source's space (DEDUCED, assumption 162), then the increase in WRITTEN is added with a
flagged atomic add. -/
def signalChannel (p : Pkg) (c : Nat) : Pkg :=
  let k := chan p c
  let p := if k.reg 0x50 = 0 then p else chanSend p c (k.inHost 0) (k.reg 0x50) k.consumed false 0
  let p := if k.reg 0x40 = 0 ∨ k.written = k.signalled then p
    else chanSend p c (k.inHost 2) (k.reg 0x40) (k.written - k.signalled) true signalPiece
  modChan p c (fun k => { k with signalled := k.written })

/-- Whether a signal of the channel is not made yet. -/
def signalPending (p : Pkg) (c : Nat) : Bool :=
  (p.ms.txns ++ p.ms.failed.map (·.1)).any (fun t => t.purpose == .dmaPiece c signalPiece 2) || (chan p c).pieces.any (fun x => x.number == signalPiece)

/-- The transfer is done once CONSUMED has reached TOTAL_LINES and the final signal is made (R301). -/
def endRun (p : Pkg) (c : Nat) : Pkg :=
  let k := chan p c
  let st := chanState p c
  if k.reg 0x38 ≠ 0 ∧ k.consumed = k.reg 0x38 ∧ k.halting = none ∧ 1 ≤ st ∧ st ≤ 3 ∧ signalPending p c = false then
    let p := setChanState p c 6
    serve (if bit (k.reg 0x34) 2 then raise p 0x0C10 (rd p Ix.dmChannelPartition c) c 0 else p)
  else serve p

/-- CONSUMED and WRITTEN advance over what has been delivered (R298); signals, and the end of the transfer (R301). -/
def advanceChannel (p : Pkg) (c : Nat) : Pkg :=
  let k := chan p c
  let per := max 1 k.perLine
  let front := contiguous k.delivered k.delivered.length (k.consumed * per)
  let consumed := front / per
  let written := max k.written ((consumed * k.reg 0x08 + front % per * 4096) / max 1 (k.reg 0x20))
  let every := k.reg 0x48
  let p := modChan p c (fun k => { k with
    consumed := consumed, written := written, delivered := k.delivered.filter (fun n => decide (consumed * per ≤ n)) })
  if k.halting.isSome then serve p
  else if k.reg 0x38 ≠ 0 ∧ consumed = k.reg 0x38 ∧ k.consumed < consumed then endRun (signalChannel p c) c
  else
    let p := if every ≠ 0 ∧ k.written / every < written / every then signalChannel p c else p
    pace p c

/-- A piece's writes are all visible: its slot is free (R290). A halt under way whose last piece this was takes place (R300). -/
def deliverPiece (p : Pkg) (c n : Nat) : Pkg :=
  let k := chan p c
  let p := modChan p c (fun k => { k with pieces := k.pieces.filter (fun x => x.number != n), delivered := k.delivered ++ [n] })
  haltIfDrained (advanceChannel (bump p Ix.dmChannelBytes c (k.pieceBytes n)) c) c

/-- Statuses that are retried (R299, R302): BUSY, RESETTING, and those of the Tensor Fabric and the Host Interface; a poisoned word read is
not one of them. -/
def retriedStatus (side s : Nat) : Bool :=
  s % 256 == 0xE0 || s % 256 == 0xE1 || ((s / 256 == 0x0D || s / 256 == 0x0F) && !(side == 0 && s % 256 == 0xE4))

/-- Statuses of a read of a poisoned or an uncorrectable word (R246, R299). -/
def poisonedStatus (s : Nat) : Bool := s % 256 == 0xE4 || [0x0103, 0x0A01, 0x0B01].contains s

/-- DMA_PIECE_ERROR's rule (R299): retried after a while, up to the limit; passed as poison is decided at the read; otherwise the channel
halts. `run` is the write that failed, which alone is repeated; without one the piece is read again. -/
def pieceError (p : Pkg) (c n side addr status : Nat) (run : Option (Nat × Bool × Bytes)) : Pkg :=
  let k := chan p c
  let x := (k.pieces.find? (fun x => x.number == n)).getD { number := n }
  let attempts := if x.retrying then x.attempts else x.attempts + 1
  let others := k.pieces.filter (fun x => x.number != n)
  if retriedStatus side status = true ∧ attempts ≤ rd p Ix.dmChannelRetryLimit c then
    modChan p c (fun k => { k with pieces := others ++
      [{ x with attempts := attempts, retrying := true, writing := x.writing && run.isSome, again := x.again ++ run.toList,
                words := if run.isSome then x.words else [] }] })
  else
    let p := modChan p c (fun k => { k with pieces := others })
    haltChannel (if side = 0 then p else breakFence p (chanSource c)) c
      { line := if n = signalPiece then k.consumed else k.pieceLine n, addr, status, side, attempts,
        haltStatus := if retriedStatus side status then 0x0C03 else if poisonedStatus status && side == 0 then 0x0C06 else 0x0C04 }

/-- Credit that a request of a channel takes beside its piece's (R38, R419). -/
def chargeDma (p : Pkg) (c : Nat) (host : Bool) (a n : Nat) : Pkg :=
  let pp := rd p Ix.dmChannelPartition c
  if host then charge p pp 3 0 n
  else if a / 2 ^ 46 % 1024 ≠ ownId p then charge p pp 2 0 n
  else match place (a % 2 ^ 46) with
    | .t0 s _ => charge p pp 0 s n
    | .t1 _ _ => charge p pp 1 0 n
    | .t2 _ _ => charge p pp 2 0 n
    | _ => p

/-- Whether memory belongs to a partition that resets and answers RESETTING (R302, R424). -/
def memResets (p : Pkg) (a : Nat) : Bool :=
  match place a with
  | .t0 s _ => !p.tp.fenced.contains s && ((partOfRegion p s).map (pcState p)) == some 6
  | .sram b _ => !p.tp.fenced.contains (b / 8) && ((partOfBlock p b).map (pcState p)) == some 6
  | _ => false

/-- One word of a piece as it was read: its bytes, or the status that its read completes with. -/
def readWord (p : Pkg) (pp : Nat) (host : Bool) (a : Nat) : Pkg × Except Nat Bytes :=
  if host then
    match hostReadWord p a with
    | (.ok w, p) => (p, .ok (leBytes 4 w.toNat))
    | (.error s, p) => (p, .error s)
  else if a / 2 ^ 46 % 1024 = ownId p then
    if memResets p (a % 2 ^ 46) then (p, .error 0x0EE1) else loadLocal p (a % 2 ^ 46) 4 true
  else if reachStatus p pp (a / 2 ^ 46 % 1024) 0 (a % 2 ^ 46) 4 ≠ 0 then (p, .error 0x0E03)
  else remoteRead p a 4

/-- Reads words until one stops the read: the words so far, each with its bytes or with the status of a poisoned or uncorrectable
word (R299), and the address and status of a stop. -/
def readWords (pp : Nat) (host : Bool) (a : Nat) : (n : Nat) → Pkg → List (Except Nat Bytes) → Pkg × List (Except Nat Bytes) × Option (Nat × Nat)
  | 0, p, acc => (p, acc.reverse, none)
  | n + 1, p, acc => match readWord p pp host a with
    | (p, .ok w) => readWords pp host (a + 4) n p (.ok w :: acc)
    | (p, .error s) => if poisonedStatus s then readWords pp host (a + 4) n p (.error s :: acc) else (p, acc.reverse, some (a, s))

/-- One run of a piece written (R290): to host memory or another package as a transaction of the piece, locally as a store that may complete
later. The status of a local store that fails. -/
def writeRun (p : Pkg) (c n : Nat) (r : Nat × Bool × Bytes) : Pkg × Nat :=
  let host := (chan p c).inHost 1
  let p := chargeDma p c host r.1 r.2.2.length
  let t : Txn := { source := chanSource c, partition := rd p Ix.dmChannelPartition c, type := 1, data := r.2.2, bytes := r.2.2.length,
                   poison := r.2.1, purpose := .dmaPiece c n 1 }
  if host then (send p { t with toHost := true, addr := r.1 }, 0)
  else if r.1 / 2 ^ 46 % 1024 ≠ ownId p then (sendFabric p { t with dest := r.1 / 2 ^ 46 % 1024, addr := r.1 % 2 ^ 46 }, 0)
  else if memResets p (r.1 % 2 ^ 46) then (p, 0x0EE1)
  else storeLocal p (r.1 % 2 ^ 46) r.2.2 r.2.1 true t.source t.partition 0 t.purpose

/-- The runs of a piece written in order, while the piece is in flight. -/
def writeRuns (c n : Nat) (p : Pkg) (r : Nat × Bool × Bytes) : Pkg :=
  if !(chan p c).pieces.any (fun x => x.number == n) then p
  else
    let w := writeRun p c n r
    if w.2 = 0 then w.1 else pieceError w.1 c n 1 r.1 w.2 (some r)

/-- Writes outstanding for a piece. -/
def pieceOutstanding (p : Pkg) (c n : Nat) : Bool :=
  (p.ms.txns ++ p.tm.held ++ p.ms.failed.map (·.1)).any (fun t => t.purpose == .dmaPiece c n 1)

/-- A landed piece is delivered once every write of it is visible (R290, R298). -/
def finishPiece (p : Pkg) (c n : Nat) : Pkg :=
  match (chan p c).pieces.find? (fun x => x.number == n && x.writing && !x.retrying) with
  | some x => if x.words.isEmpty && !pieceOutstanding p c n then deliverPiece p c n else p
  | none => p

/-- Writes the words of a landed piece that DST_PROTECT lets it write (R290, R294). -/
def writePiece (p : Pkg) (c n : Nat) : Pkg :=
  let k := chan p c
  match k.pieces.find? (fun x => x.number == n && x.writing) with
  | none => p
  | some x =>
    let now := x.words.filter (fun w => k.mayWrite w.1)
    let runs := (now.foldl (fun acc w => joinWord acc (k.destOf w.1) w.2) []).reverse
    let p := modChan p c (fun k => { k with pieces := k.pieces.map (fun x =>
      if x.number = n then { x with words := x.words.filter (fun w => !k.mayWrite w.1) } else x) })
    finishPiece (runs.foldl (writeRuns c n) p) c n

/-- A piece's read lands (R290, R293, R299), the word at `lost` as poison where its read found poison, and the piece is written. -/
def movePiece (p : Pkg) (c n : Nat) (lost : Option Nat) : Pkg :=
  let k := chan p c
  if chanResets p c then p
  else
    let p := if k.inHost 0 then countHostReads p (k.sourceOf n) (k.pieceBytes n) else p
    let p := chargeDma p c (k.inHost 0) (k.sourceOf n) (k.pieceBytes n)
    let r := readWords (rd p Ix.dmChannelPartition c) (k.inHost 0) (k.sourceOf n) (k.pieceBytes n / 4) p []
    let r := if k.inHost 0 then (noteHostErrors r.1 (r.2.1.zipIdx.filterMap (fun x => match x.1 with
      | .error s => some (k.sourceOf n + 4 * x.2, s)
      | .ok _ => none) ++ r.2.2.toList), r.2) else r
    match r.2.2 with
    | some (a, s) => pieceError r.1 c n 0 a s none
    | none =>
      match (r.2.1.zipIdx.filterMap (fun x => match x.1 with
          | .error s => some (k.sourceOf n + 4 * x.2, s)
          | .ok _ => none)).head?.filter (fun _ => !bit (k.reg 0x34) 1) with
      | some (a, s) => pieceError r.1 c n 0 a s none
      | none =>
        let words := r.2.1.zipIdx.map (fun x => (k.posOf n + 4 * x.2, if lost = some (k.sourceOf n + 4 * x.2) then none else x.1.toOption))
        let p := bump r.1 Ix.dmChannelPoisonPassed c (words.filter (fun w => w.2.isNone)).length
        writePiece (modChan p c (fun k => { k with pieces := k.pieces.map (fun x =>
          if x.number = n then { x with writing := true, retrying := false, attempts := 0, words := words } else x) })) c n

/-- The write that a transaction of a piece carries: its address as the channel knows it, poison and bytes. -/
def pieceRun (p : Pkg) (t : Txn) : Nat × Bool × Bytes :=
  (if t.toHost then t.addr else if t.via ≠ 0 then ownId p * 2 ^ 46 + t.via else t.dest * 2 ^ 46 + t.addr, t.poison, t.data)

/-- A transaction of a channel has completed (R298, R299, R353): a piece is delivered with its last write; an error of a piece or of a signal
is retried or halts, one of the store of CONSUMED breaks the fence. -/
def chanCompleted (p : Pkg) (c n side : Nat) (t : Txn) (status : Nat) : Pkg :=
  if side = 2 then
    if n ≠ signalPiece then (if status = 0 then p else breakFence p (chanSource c))
    else if status = 0 then
      endRun (haltIfDrained (modChan p c (fun k => { k with pieces := k.pieces.filter (fun x => x.number != n) })) c) c
    else pieceError (modChan p c (fun k => { k with signalled := k.signalled - leAt t.data 0 8 })) c n 2 (pieceRun p t).1 status none
  else if !(chan p c).pieces.any (fun x => x.number == n && x.writing) then p
  else if status ≠ 0 then pieceError p c n 1 (pieceRun p t).1 status (some (pieceRun p t))
  else finishPiece p c n

/-- START and RESUME reset the channel's fence (R354). -/
def restartChannel (p : Pkg) (c : Nat) (f : Channel → Channel) : Pkg :=
  let p := retireSource p (chanSource c)
  pace (setChanState (modChan p c (fun k => { f k with pieces := [], delivered := [], halting := none, waiting := false })) c 1) c

/-- A command of CONTROL (R301): the completion's status, 0x0C08 where the state does not accept it. -/
def chanControl (p : Pkg) (c value : Nat) : Pkg × Nat :=
  let st := chanState p c
  let invalid := (last p Ix.dmChannelLastStatus c 0x0C08, 0x0C08)
  match value with
  | 1 =>
    if st = 0 ∨ st = 4 ∨ st = 5 ∨ st = 6 then
      if startOk p c then
        (restartChannel p c (fun k => { k with consumed := 0, written := 0, signalled := 0, nextPiece := 0 }), 0)
      else (last p Ix.dmChannelLastStatus c 0x0C01, 0x0C01)
    else invalid
  | 2 => if st = 1 ∨ st = 2 then (setChanState p c 3, 0) else invalid
  | 3 =>
    if st = 4 ∨ st = 5 then (restartChannel p c (fun k => { k with nextPiece := k.consumed * max 1 k.perLine }), 0) else invalid
  | 4 =>
    if st = 6 ∨ 6 < st then (if st = 6 then (setChanState (last p Ix.dmChannelLastStatus c 0x0C07) c 0, 0) else invalid)
    else
      let p := abandonSource p (chanSource c)
      let p := modChan p c (fun k => { k with pieces := [], delivered := [], halting := none, waiting := false })
      (serve (setChanState (last p Ix.dmChannelLastStatus c 0x0C07) c 0), 0)
  | _ => invalid

/-- A flagged add to PRODUCED (R292, R296, R303): while a STOP is in effect it counts and applies after RESUME. -/
def producedAdd (p : Pkg) (c n : Nat) : Pkg :=
  pace (modChan p c (fun k => { k with produced := (k.produced + n) % 2 ^ 64 })) c

/-- Offsets of 64-bit and 32-bit registers that take a store (R292). -/
def wideRegs : List Nat := [0x00, 0x18, 0x38, 0x40, 0x50, 0x80, 0x88]
def narrowRegs : List Nat := [0x08, 0x0C, 0x10, 0x14, 0x20, 0x24, 0x28, 0x2C, 0x30, 0x34, 0x48, 0x90]

/-- A store to a channel register (R289, R292): the status of its completion. -/
def dmaStore (p : Pkg) (c offset : Nat) (wide : Bool) (value : Nat) (firmware : Bool) : Pkg × Nat :=
  let st := chanState p c
  let busy := st == 1 || st == 2 || st == 3
  if firmwareChannel c && !firmware then (p, 0x0C02)
  else if !(if wide then wideRegs.contains offset else narrowRegs.contains offset) then (p, 0x0E05)
  else if offset = 0x90 then chanControl p c value
  else if busy && (decide (offset < 0x50) || offset == 0x80) then (last p Ix.dmChannelLastStatus c 0x0CE0, 0x0CE0)
  else if offset = 0x80 then (modChan p c (fun k => { k with produced := value }), 0)
  else if offset = 0x88 then
    let p := modChan p c (fun k => { k with dstConsumed := value })
    (pace (((chan p c).pieces.map (·.number)).foldl (fun p n => writePiece p c n) p) c, 0)
  else (modChan p c (fun k => { k with regs := tput k.regs offset value }), 0)

/-- The 256 bytes of a channel's registers that a read finds (R292); reserved bits read as zero (R2), CONTROL reads as nothing stored. -/
def chanBytes (p : Pkg) (c : Nat) : Bytes :=
  let k := chan p c
  let r := fun (o : Nat) => leBytes (if wideRegs.contains o then 8 else 4) (k.reg o)
  r 0x00 ++ r 0x08 ++ r 0x0C ++ r 0x10 ++ leBytes 4 (k.reg 0x14 % 64) ++ r 0x18 ++ r 0x20 ++ r 0x24 ++ r 0x28 ++ r 0x2C ++ r 0x30 ++ leBytes 4 (k.reg 0x34 % 8) ++ r 0x38
    ++ r 0x40 ++ r 0x48 ++ leBytes 4 0 ++ r 0x50 ++ List.replicate 40 0 ++ leBytes 8 k.produced ++ leBytes 8 k.dstConsumed
    ++ leBytes 8 0 ++ leBytes 4 (chanState p c + rd p Ix.dmChannelLastStatus c * 65536) ++ leBytes 4 0 ++ leBytes 8 k.consumed
    ++ leBytes 8 k.written ++ List.replicate 80 0

/-- Register ranges that a read reaches (R292): offset and size. -/
def readableRegs : List (Nat × Nat) :=
  [(0x00, 8), (0x08, 4), (0x0C, 4), (0x10, 4), (0x14, 4), (0x18, 8), (0x20, 4), (0x24, 4), (0x28, 4), (0x2C, 4), (0x30, 4), (0x34, 4),
   (0x38, 8), (0x40, 8), (0x48, 4), (0x50, 8), (0x80, 8), (0x88, 8), (0x98, 4), (0xA0, 8), (0xA8, 8)]

/-- Reads a channel register (R292): the whole register at its offset; any other access is not defined. -/
def dmaLoad (p : Pkg) (c offset n : Nat) : Except Nat Bytes :=
  if readableRegs.contains (offset, n) then .ok (slice (chanBytes p c) offset n) else .error 0x0E05

/-- A partition reset halts its channels after the drain, keeping their positions (R302). -/
def haltPartitionChannels (p : Pkg) (pp : Nat) : Pkg :=
  ((List.range 256).filter (fun c => rd p Ix.dmChannelPartition c == pp && (chanState p c == 1 || chanState p c == 2 || chanState p c == 3))).foldl
    (fun p c => haltNow p c { line := (chan p c).consumed, status := 0x0CE1, haltStatus := 0x0CE1 }) p

end Sys2Proof.Machine
end

