-- ==== Sys2Proof/Machine/TfOps.lean ====
section
/-! DEFINITION. Chapter 13: coordinates, lanes, profiles, links, flits, routing and holes. -/

namespace Sys2Proof.Machine

/-- Direction of a link: 0 X+, 1 X−, 2 Y+, 3 Y−, 4 Z+, 5 Z−; the opposite one; its dimension. -/
def dirOf (l : Nat) : Nat := l / 4
def opposite (d : Nat) : Nat := if d % 2 = 0 then d + 1 else d - 1
def dimOf (d : Nat) : Nat := d / 2

/-- Links of a direction. -/
def linksOf (d : Nat) : List Nat := (List.range 4).map (fun i => 4 * d + i)

/-- X-die that carries a link (R6). -/
def dieOfLink (l : Nat) : Nat := l % 4 / 2

/-- Coordinate of a package id in a dimension (R3). -/
def coordOf (id dim : Nat) : Nat := if dim = 0 then id % 4 else if dim = 1 then id / 4 % 16 else id / 64

/-- Ring size of a dimension (R319). -/
def ringSize (p : Pkg) (dim : Nat) : Nat := if dim = 0 then (torus p).1 else if dim = 1 then (torus p).2.1 else (torus p).2.2

/-- A package id with one coordinate replaced. -/
def withCoord (id dim c : Nat) : Nat :=
  if dim = 0 then idOf c (coordOf id 1) (coordOf id 2) else if dim = 1 then idOf (coordOf id 0) c (coordOf id 2)
  else idOf (coordOf id 0) (coordOf id 1) c

/-- Logical neighbour of a package in a direction (R319). -/
def neighbour (p : Pkg) (id d : Nat) : Nat :=
  let n := max 1 (ringSize p (dimOf d))
  withCoord id (dimOf d) ((coordOf id (dimOf d) + (if d % 2 = 0 then 1 else n - 1)) % n)

/-- The link layer of a link. -/
def link (p : Pkg) (l : Nat) : Link := tget p.tf.links l {}

/-- Changes the link layer of a link. -/
def modLink (p : Pkg) (l : Nat) (f : Link → Link) : Pkg := { p with tf := { p.tf with links := tmod p.tf.links l {} f } }

/-- State of a link (0x5430). -/
def linkState (p : Pkg) (l : Nat) : Nat := rd p Ix.tfLinkState l

/-- Lit links of a direction (R322). -/
def litLinks (p : Pkg) (d : Nat) : List Nat := (linksOf d).filter (fun l => linkState p l == 2)

/-- State of a lane (0x5460): 0 lit, 1 parked, 2 retraining, 3 failed. -/
def laneState (p : Pkg) (l n : Nat) : Nat := rdAt p Ix.tfLaneState l n

/-- Lanes of a link in a state. -/
def lanesIn (p : Pkg) (l st : Nat) : List Nat := (List.range 8).filter (fun n => laneState p l n == st)

/-- A set of lanes as bits. -/
def laneMask (l : List Nat) : Nat := (l.map (2 ^ ·)).sum

/-- Shows a link's lanes (0x5431; assumption 21: masks). A new set of lit lanes takes the stream's units from its lowest lane on (R307;
assumption 163). -/
def showLanes (p : Pkg) (l : Nat) : Pkg :=
  let v := laneMask (lanesIn p l 0) + laneMask (lanesIn p l 3) * 256
  let p := if bits v 7 0 = bits (rd p Ix.tfLinkLanes l) 7 0 then p else modLink p l (fun k => { k with turn := 0 })
  wr p Ix.tfLinkLanes l v

/-- Puts a lane in a state. -/
def setLane (p : Pkg) (l n st : Nat) : Pkg := showLanes (wrAt p Ix.tfLaneState l n st) l

/-- Whether the package asks for the Full profile by itself (R317). -/
def fullByItself (p : Pkg) : Bool :=
  p.bt.phase == 6 || p.bt.phase == 7 || p.bt.phase == 8 || (p.bt.phase == 9 && (match p.bt.readyNs with
    | some t => decide (p.now < t + 1000000000)
    | none => false))
  || (List.range 12).any (fun pp => (part p pp).pc.resetPhase == 6) || fullRateRuns p || !p.tf.memberLost.isEmpty

/-- Profile that the package asks for (R317). -/
def profileAsked (p : Pkg) : Nat := if fullByItself p then 1 else rd p Ix.tfProfile 0

/-- Lanes that a link lights when every lane is good (R317): eight, or four on a Z link unless both ends ask for Full. -/
def lanesWanted (p : Pkg) (l : Nat) : Nat :=
  if dirOf l < 4 then 8
  else if rd p Ix.tfProfileActive 0 = 1 ∧ ((link p l).partner.map (·.full)).getD false = true then 8 else 4

/-- Lights and parks a link's good lanes, ascending, up to the number wanted (R315, R317). -/
def dealLanes (p : Pkg) (l : Nat) : Pkg :=
  let good := (List.range 8).filter (fun n => laneState p l n < 2)
  let p := (good.zipIdx).foldl (fun p x => wrAt p Ix.tfLaneState l x.1 (if x.2 < lanesWanted p l then 0 else 1)) p
  showLanes p l

/-- Asks for the profile that applies and deals the lanes of every link that is up (R317). -/
def showProfile (p : Pkg) : Pkg :=
  let p := wr p Ix.tfProfileActive 0 (profileAsked p)
  (List.range 24).foldl (fun p l => if linkState p l = 2 then dealLanes p l else p) p

/-- Asks for the profile that applies once it differs from the one asked for (R317). -/
def followProfile (p : Pkg) : Pkg := if rd p Ix.tfProfileActive 0 = profileAsked p then p else showProfile p

/-- Whether the licences allow a link (R318). -/
def linkLicensed (p : Pkg) (l : Nat) : Bool := granted p 0 || !([10, 11, 14, 15, 18, 19, 22, 23].contains l)

/-- Logical coordinates and package id from the physical ones through the axis remaps (R319). -/
def applyCoords (p : Pkg) : Pkg :=
  let c := rd p Ix.tfPhysicalCoord 0
  let map := fun (dim v : Nat) =>
    let r := rd p Ix.tfAxisRemap dim
    if bit r 15 && v == bits r 12 8 then bits r 4 0 else v
  let x := map 0 (c % 256)
  let y := map 1 (c / 256 % 256)
  let z := map 2 (c / 65536 % 256)
  wr (wr p Ix.tfLogicalCoord 0 (x + y * 256 + z * 65536)) Ix.tfPackageId 0 (idOf x y z % 1024)

/-- Reads the position contacts in phase 1 (R527). -/
def readPosition (p : Pkg) : Pkg := applyCoords (wr p Ix.tfPhysicalCoord 0 (p.pins.posX + p.pins.posY * 256 + p.pins.posZ * 65536))

/-- Bytes of a packet as it crosses the fabric (R320, R330, R336). -/
def packetBytes (k : Packet) : Bytes :=
  let w0 := k.dest * 2 ^ 22 + k.src * 2 ^ 12 + k.cls * 2 ^ 10 + k.detours * 2 ^ 8 + k.prio * 2 ^ 6 + (if k.dateline then 32 else 0)
  let head := leBytes 4 w0 ++ leBytes 4 (k.version * 65536 + k.type * 256 + k.len) ++ leBytes 4 k.step
  if 0x80 ≤ k.type then padTo (head ++ leBytes 4 0 ++ k.data) (16 * k.len)
  else
    let t1 := (if k.asize then 2 ^ 30 else 0) + k.aop * 2 ^ 26 + (if k.poison then 2 ^ 25 else 0) + (if k.flag then 2 ^ 24 else 0)
      + k.srcUnit * 2 ^ 14 + k.addr / 2 ^ 32
    padTo (head ++ leBytes 4 (k.incarnation * 2 ^ 24 + k.tseq) ++ leBytes 4 (if 0x40 ≤ k.type then k.status else k.addr % 2 ^ 32)
      ++ leBytes 4 t1 ++ leBytes 4 (k.tag * 65536 + k.bytes) ++ leBytes 4 k.floor ++ k.data) (16 * k.len)

/-- Reads a packet from its bytes (R320, R336). -/
def packetOfBytes (b : Bytes) : Packet :=
  let w := fun (n : Nat) => leAt b (4 * n) 4
  let type := bits (w 1) 15 8
  let base : Packet :=
    { dest := bits (w 0) 31 22, src := bits (w 0) 21 12, cls := bits (w 0) 11 10, detours := bits (w 0) 9 8, prio := bits (w 0) 7 6,
      dateline := bit (w 0) 5, reserved := bits (w 0) 4 0 + bits (w 1) 7 6, version := bits (w 1) 31 16, type := type,
      len := bits (w 1) 5 0, step := w 2 }
  if 0x80 ≤ type then { base with data := b.drop 16 }
  else
    { base with
      incarnation := bits (w 3) 31 24, tseq := bits (w 3) 23 0, addr := if 0x40 ≤ type then 0 else w 4 + bits (w 5) 13 0 * 2 ^ 32,
      status := if 0x40 ≤ type then bits (w 4) 15 0 else 0, asize := bit (w 5) 30, aop := bits (w 5) 29 26, poison := bit (w 5) 25,
      flag := bit (w 5) 24, srcUnit := bits (w 5) 23 14, tag := bits (w 6) 31 16, bytes := bits (w 6) 8 0, floor := bits (w 7) 23 0,
      reserved := base.reserved + bits (w 5) 31 31 + bits (w 6) 15 9 + bits (w 7) 31 24 + (if 0x40 ≤ type then bits (w 4) 31 16 else 0),
      data := if type = 1 ∨ type = 4 ∨ type = 0x40 then (b.drop 32).take (bits (w 6) 8 0) else b.drop 32 }

/-- Whether a package id lies in the torus (R321). -/
def inTorus (p : Pkg) (id : Nat) : Bool :=
  decide (coordOf id 0 < ringSize p 0) && decide (coordOf id 1 < ringSize p 1) && decide (coordOf id 2 < ringSize p 2)

/-- Whether a packet's route header is valid (R320, R321, R337). -/
def headerOk (p : Pkg) (b : Bytes) : Bool :=
  let w0 := leAt b 0 4
  let w1 := leAt b 4 4
  inTorus p (bits w0 31 22) && inTorus p (bits w0 21 12) && [0, 1, 2, 3, 4, 0x40, 0x41, 0x42, 0x43, 0x80, 0x81, 0x82].contains (bits w1 15 8) && decide (2 ≤ bits w1 5 0)
  && decide (bits w1 5 0 ≤ if bits w1 15 8 < 0x80 then 18 else 34) && bits w0 4 0 == 0 && bits w1 7 6 == 0 && bits w0 9 8 != 3

/-- Virtual channel of a packet (R310, R322). -/
def channelOf (k : Packet) : Nat := k.cls * 4 + (if k.detours = 0 then 0 else 2) + if k.dateline then 1 else 0

/-- A flit (R308). -/
def flitBytes (ftype vc seq ack : Nat) (nak : Bool) (creditVc credits first : Nat) (payload : Bytes) : Bytes :=
  let body := leBytes 4 (ftype * 2 ^ 28 + vc * 2 ^ 24 + seq * 2 ^ 12 + ack)
    ++ leBytes 4 ((if nak then 2 ^ 31 else 0) + creditVc * 2 ^ 27 + credits * 2 ^ 19 + first) ++ leBytes 4 0 ++ padTo payload 240
  body ++ leBytes 4 (crc32 body).toNat

/-- Credits still owed to the partner on one virtual channel, at most 255 in a flit (R308, R310). -/
def creditDue (k : Link) : Nat × Nat :=
  match k.owed.find? (fun e => e.2 != 0) with
  | some e => (e.1, min 255 e.2)
  | none => (0, 0)

/-- Lanes that carry the next eight 32-byte units of a link: the lit ones in turn, ascending (R307). -/
def unitLanes (p : Pkg) (l : Nat) : List Nat :=
  let lit := lanesIn p l 0
  (List.range 8).map (fun i => lit.getD (((link p l).turn + i) % max 1 lit.length) 0)

/-- Puts a flit on a link's lanes (R307). -/
def emitFlit (p : Pkg) (l : Nat) (f : Bytes) : Pkg :=
  emit (modLink p l (fun k => { k with turn := (k.turn + 8) % max 1 (lanesIn p l 0).length })) (.flit l f (unitLanes p l))

/-- Sends one flit on a link: it carries ACK and returns credits (R308 to R310). -/
def sendFlit (p : Pkg) (l ftype vc seq : Nat) (nak : Bool) (first : Nat) (payload : Bytes) : Pkg :=
  let k := link p l
  let c := creditDue k
  let f := flitBytes ftype vc seq ((k.rxNext + 4095) % 4096) nak c.1 c.2 first payload
  let p := modLink p l (fun k => { k with
    owed := if c.2 = 0 then k.owed else tput k.owed c.1 (tget k.owed c.1 0 - c.2), sinceAck := 0,
    unacked := if ftype = 0 then k.unacked else k.unacked.filter (fun u => u.1 != seq) ++ [(seq, f)] })
  emitFlit (if ftype = 0 then p else bump p Ix.tfLinkFlits l 1) l f

/-- Flits of a packet: FIRST and payload (R308). -/
def flitsOf (b : Bytes) : List (Nat × Bytes) :=
  (List.range ((b.length + 239) / 240)).map (fun i => (if i = 0 then 0 else 15, (b.drop (240 * i)).take 240))

/-- Sends a packet's flits with consecutive sequences (R309). -/
def sendPacket (p : Pkg) (l : Nat) (k : Packet) : Pkg :=
  let fs := flitsOf (packetBytes k)
  let vc := channelOf k
  let p := fs.foldl (fun p f =>
    let seq := (link p l).txNext
    sendFlit (modLink p l (fun x => { x with txNext := (seq + 1) % 4096, credits := tput x.credits vc (tget x.credits vc 64 - 1) }))
      l 1 vc seq false f.1 f.2) p
  modLink p l (fun x => { x with sending := x.sending ++ [((x.txNext + 4095) % 4096, k)] })

/-- Sends waiting packets, in order per virtual channel, while credits and the replay buffer of 2,048 flits allow (R309,
R310). -/
def drainLink (p : Pkg) (l : Nat) : Pkg :=
  let q := (link p l).queue
  (q.foldl (fun (acc : Pkg × List Nat) k =>
    let x := link acc.1 l
    let n := (flitsOf (packetBytes k)).length
    let vc := channelOf k
    if linkState acc.1 l = 2 ∧ acc.2.contains vc = false ∧ n ≤ tget x.credits vc 64 ∧ x.unacked.length + n ≤ 2048 then
      (sendPacket acc.1 l k, acc.2)
    else (modLink acc.1 l (fun x => { x with queue := x.queue ++ [k] }), vc :: acc.2))
    (modLink p l (fun x => { x with queue := [] }), [])).1

/-- Answers a packet at a router with an error completion (R323, R324): a request gets an ERROR to its source, one of this
package's own completes here; other packets are dropped. -/
def bounce (p : Pkg) (k : Packet) (status : Nat) : Pkg :=
  if k.cls ≠ 0 then p
  else if k.src = ownId p then
    match p.ms.txns.find? (fun t => t.sent && t.source == k.srcUnit && t.tag == k.tag) with
    | some t => completeHere { p with ms := { p.ms with txns := p.ms.txns.filter (· != t) } } t status
    | none => p
  else respondError p false k status

/-- Whether a direction can be taken (R323): a lit link, and no known hole beyond it. -/
def open' (p : Pkg) (d : Nat) : Bool := !(litLinks p d).isEmpty && !p.tf.holes.contains (neighbour p (ownId p) d)

/-- Dimension that a packet goes along next (R322). -/
def nextDim (p : Pkg) (k : Packet) : Nat :=
  let left := fun (d : Nat) => coordOf k.dest d != coordOf (ownId p) d
  if k.prio ≠ 0 ∧ left (k.prio - 1) = true then k.prio - 1 else if left 0 then 0 else if left 1 then 1 else 2

/-- Direction along a dimension: fewer hops, + when equal (R322). -/
def nextDir (p : Pkg) (k : Packet) (dim : Nat) : Nat :=
  let n := max 1 (ringSize p dim)
  let f := (coordOf k.dest dim + n - coordOf (ownId p) dim) % n
  if f ≤ n - f then 2 * dim else 2 * dim + 1

/-- Flits queued on a link (R322). -/
def queuedFlits (p : Pkg) (l : Nat) : Nat := ((link p l).queue.map (fun k => (flitsOf (packetBytes k)).length)).sum

/-- Link of a direction for a packet (R322): on the X-die where it arrived unless that die has none, fewest queued flits,
then the lower number. -/
def pickLink (p : Pkg) (d : Nat) (die : Option Nat) : Option Nat :=
  let lit := litLinks p d
  let mine := match die with
    | some x => lit.filter (fun l => dieOfLink l == x)
    | none => lit
  (if mine.isEmpty then lit else mine).foldl (fun m l => match m with
    | none => some l
    | some w => if queuedFlits p l < queuedFlits p w then some l else some w) none

/-- Puts a packet on a link in a direction; DATELINE is cleared on a change of dimension and set on crossing (R322). -/
def forward (p : Pkg) (k : Packet) (d : Nat) (arrived : Option Nat) : Pkg :=
  let dim := dimOf d
  let n := ringSize p dim
  let c := coordOf (ownId p) dim
  let crosses := if d % 2 = 0 then c + 1 == n else c == 0
  let kept := (match arrived with
    | some l => dimOf (dirOf l) == dim
    | none => false) && k.dateline
  match pickLink p d (arrived.map dieOfLink) with
  | none => p
  | some l => drainLink (modLink p l (fun x => { x with queue := x.queue ++ [{ k with dateline := kept || crosses }] })) l

/-- DETOUR (R323). -/
def detour (p : Pkg) (k : Packet) (blocked : Nat) (arrived : Option Nat) : Pkg :=
  let dims := [(blocked + 1) % 3, (blocked + 2) % 3].filter (fun d => decide (1 < ringSize p d))
  match if 2 ≤ k.detours then none else (dims.flatMap (fun d => [2 * d, 2 * d + 1])).find? (open' p) with
  | some d => forward (bump p Ix.tfDetoured 0 1) { k with detours := k.detours + 1, prio := blocked + 1 } d arrived
  | none => bounce (last (bump p Ix.tfUnreachable 0 1) Ix.tfLastStatus 0 0x0D07) k 0x0D07

/-- PACKET_ROUTE (R322 to R324, R356). -/
def route (p : Pkg) (k : Packet) (arrived : Option Nat) : Pkg :=
  if p.tf.holes.contains k.src then p
  else if p.tf.holes.contains k.dest then bounce p k 0x0E01
  else
    let dim := nextDim p k
    let k := { k with prio := if k.prio ≠ 0 ∧ dim = k.prio - 1 then k.prio else 0 }
    let d := nextDir p k dim
    if open' p d then forward p k d arrived else detour p k dim arrived

/-- Routes the packets of this package; `fuel` bounds their number with the answers that routing makes. -/
def flushPackets : (fuel : Nat) → Pkg → Pkg
  | 0, p => p
  | fuel + 1, p => match p.tf.outgoing with
    | [] => p
    | k :: rest => flushPackets fuel (route { p with tf := { p.tf with outgoing := rest } } k none)

/-- Floods a notice on one lit link of every direction (R324, R325). -/
def flood (p : Pkg) (kind id d : Nat) : Pkg :=
  (List.range 6).foldl (fun p x => match (litLinks p x).head? with
    | some l => emit p (.notice kind l id d)
    | none => p) p

/-- Floods a suspect notice when every link of a direction is down, and again when one has returned (R324). -/
def checkDirection (p : Pkg) (d : Nat) : Pkg :=
  let mine := (ownId p, d)
  if (litLinks p d).isEmpty then
    if p.tf.suspects.contains mine || decide (ringSize p (dimOf d) ≤ 1) then p
    else flood { p with tf := { p.tf with suspects := p.tf.suspects ++ [mine] } } 1 (ownId p) d
  else if p.tf.suspects.contains mine then
    flood { p with tf := { p.tf with suspects := p.tf.suspects.filter (· != mine) } } 4 (ownId p) d
  else p

/-- The capability record of this end of a link (R314). -/
def ownCapability (p : Pkg) (l : Nat) : Capability :=
  let c := rd p Ix.tfLogicalCoord 0
  { release := rd p Ix.mpFirmwareRelease 0, lowest := Config.fabricLevel - 1, highest := Config.fabricLevel, x := c % 256, y := c / 256 % 256,
    z := c / 65536 % 256, link := l, full := rd p Ix.tfProfileActive 0 == 1, licensed := linkLicensed p l }

/-- Puts a link's lanes that have not failed in a state (assumption 21). -/
def allLanes (p : Pkg) (l st : Nat) : Pkg :=
  (List.range 8).foldl (fun p n => if laneState p l n = 3 then p else setLane p l n st) p

/-- Begins a link's training (R313, R314, R316): its session state is new, its lanes that have not failed train, and it sends its
capability record. -/
def beginTraining (p : Pkg) (l : Nat) : Pkg :=
  let p := modLink p l (fun k => { laneTries := k.laneTries, violations := k.violations, quarantineNs := k.quarantineNs })
  let p := allLanes (wr (wr p Ix.tfLinkPartner l 0) Ix.tfLinkState l 1) l 2
  emit p (.capability l (ownCapability p l))

/-- A link leaves its direction (R316): it enters `st`, training where that is 1 or 3 and with its lanes parked otherwise, and its
unacknowledged packets go back to the router's queues and leave by other paths. -/
def handBack (p : Pkg) (l st : Nat) : Pkg :=
  let k := link p l
  let back := k.sending.map (·.2) ++ k.queue
  let p := beginTraining p l
  let p := if st = 0 ∨ st = 4 then allLanes p l 1 else p
  let p := back.foldl (fun p x => route p x (if x.src = ownId p then none else some l)) (wr p Ix.tfLinkState l st)
  checkDirection p (dirOf l)

/-- LINK_DOWN (R316): the link leaves its direction, with event 0x0D01. -/
def takeDown (p : Pkg) (l st : Nat) : Pkg :=
  if linkState p l ≠ 2 then p
  else raise (last (handBack (bump p Ix.tfLinkDownCount l 1) l st) Ix.tfLastStatus 0 0x0D01) 0x0D01 0xFF l 0

/-- Whether a link trains: state 1, or state 3 after a quarantine (R311, R313). -/
def training (p : Pkg) (l : Nat) : Bool := linkState p l == 1 || linkState p l == 3

/-- After a remap the links that were up retrain one by one (R319, R332): the next goes once the one before it is up again or held down.
`fuel` bounds the links. -/
def retrainNext : (fuel : Nat) → Pkg → Pkg
  | 0, p => p
  | fuel + 1, p =>
    if (p.tf.retraining.map (training p)).getD false then p
    else match p.tf.toRetrain with
      | [] => { p with tf := { p.tf with retraining := none } }
      | l :: rest =>
        let p := { p with tf := { p.tf with retraining := some l, toRetrain := rest } }
        retrainNext fuel (if linkState p l = 2 then handBack p l 1 else p)

/-- Credits of class 2 go back to the partner once no packet of their virtual channel is held (R330). -/
def returnKept (p : Pkg) : Pkg :=
  (List.range 24).foldl (fun p l =>
    ((link p l).kept.filter (fun e => e.2 != 0 && !p.tf.heldColl.any (fun c => (c.via.map (fun v => (v.1, v.2.1))) == some (l, e.1)))).foldl (fun p e =>
      modLink p l (fun k => { k with kept := tput k.kept e.1 0, owed := tput k.owed e.1 (tget k.owed e.1 0 + e.2) })) p) p

/-- A replay round (R309, R316): every unacknowledged flit is sent again; at the limit of rounds the link goes down. -/
def replayRound (p : Pkg) (l : Nat) : Pkg :=
  let p := bump (modLink p l (fun k => { k with rounds := k.rounds + 1 })) Ix.tfLinkReplays l 1
  if rd p Ix.tfReplayRounds 0 ≤ (link p l).rounds then takeDown p l 1
  else (link p l).unacked.foldl (fun p u => emitFlit p l u.2) p

/-- Whether `a` lies at or behind `b` among 4,096 sequences. -/
def seqBehind (a b : Nat) : Bool := decide ((b + 4096 - a) % 4096 < 2048)

/-- An ACK frees the replay buffer (R309). -/
def ackLink (p : Pkg) (l ack : Nat) : Pkg :=
  let k := link p l
  let rest := k.unacked.filter (fun u => !seqBehind u.1 ack)
  drainLink (modLink p l (fun x => { x with
    unacked := rest, sending := x.sending.filter (fun s => !seqBehind s.1 ack),
    rounds := if rest.length < k.unacked.length then 0 else x.rounds })) l

/-- Takes the packets out of a flit's payload (R308, R311): the packets completed, and what a packet under way holds; none when
a header is invalid or a packet overruns its chain. `n` bounds the packets of one payload. -/
def cutPackets (p : Pkg) : (n : Nat) → (have' rest : Bytes) → Option (List Bytes × Bytes)
  | 0, h, _ => some ([], h)
  | n + 1, h, rest =>
    let all := h ++ rest
    if all.length < 16 ∨ allZero all then some ([], [])
    else if !headerOk p all then none
    else
      let len := 16 * bits (leAt all 4 4) 5 0
      if all.length < len then some ([], all)
      else (cutPackets p n [] (all.drop len)).map (fun r => (all.take len :: r.1, r.2))

/-- Assembles a DATA flit on its virtual channel (R308, R311): FIRST units continue the packet under way. -/
def assemble (p : Pkg) (under : Bytes) (first : Nat) (payload : Bytes) : Option (List Bytes × Bytes) :=
  if under.isEmpty then (if first = 0 then cutPackets p 16 [] payload else none)
  else
    let cont := if first = 15 then payload else payload.take (16 * first)
    let len := 16 * bits (leAt under 4 4) 5 0
    let need := len - under.length
    if cont.length < need then (if first = 15 then some ([], under ++ cont) else none)
    else if first = 15 then (if allZero (cont.drop need) then some ([under ++ cont.take need], []) else none)
    else (cutPackets p 16 [] (payload.drop (16 * first))).map (fun r => ((under ++ cont.take need) :: r.1, r.2))

/-- Quarantines a link (R311): down, and retrained in state 3; a second time within 10 s it is held down. -/
def quarantine (p : Pkg) (l : Nat) : Pkg :=
  let again := match (link p l).quarantineNs with
    | some t => decide (p.now < t + 10000000000)
    | none => false
  let p := takeDown p l (if again then 4 else 3)
  let p := modLink p l (fun k => { k with quarantineNs := some p.now, violations := [] })
  raise (last p Ix.tfLastStatus 0 0x0D04) 0x0D04 0xFF l 0

/-- Asks for a replay (R309, R311). -/
def nakLink (p : Pkg) (l : Nat) : Pkg := sendFlit (modLink p l (fun k => { k with nakSent := true })) l 0 0 0 true 15 []

/-- Asks for a replay after a wrong CRC, once per replay round (R309). -/
def nakOnce (p : Pkg) (l : Nat) : Pkg := if (link p l).nakSent then p else nakLink p l

/-- Notes the sequence of a flit whose CRC is right: one at or behind the last opens a new replay round (R309; assumption 164). -/
def noteRound (p : Pkg) (l seq : Nat) : Pkg :=
  modLink p l (fun k => { k with rxLast := some seq, nakSent := k.nakSent && !(k.rxLast.map (seqBehind seq)).getD false })

/-- MALFORMED_FLIT (R311, R357): NAK, count, log; past the threshold within the window the link is quarantined. -/
def malformedFlit (p : Pkg) (l : Nat) (flit : Bytes) : Pkg :=
  let since := p.now - 1000 * rd p Ix.tfViolationWindowUs 0
  let p := modLink p l (fun k => { k with violations := k.violations.filter (fun t => decide (since ≤ t)) ++ [p.now] })
  let partner := ((link p l).partner.map (fun c => idOf c.x c.y c.z)).getD 0xFFFF
  let p := logViolation (bump (nakLink p l) Ix.tfLinkViolations l 1) 1 l partner 0x0D04 0 (flit.take 12)
  if rd p Ix.tfViolationThreshold 0 < (link p l).violations.length then quarantine p l else p

/-- FLIT_RECEIVE (R309 to R311): what the receiver does with a flit, and the packets that it completes. -/
def receiveFlit (p : Pkg) (l : Nat) (f : Bytes) : Pkg × List Packet :=
  let w0 := leAt f 0 4
  let w1 := leAt f 4 4
  let ftype := bits w0 31 28
  let vc := bits w0 27 24
  let seq := bits w0 23 12
  if linkState p l ≠ 2 then (p, [])
  else if f.length ≠ 256 ∨ (crc32 (f.take 252)).toNat ≠ leAt f 252 4 then (nakOnce (bump p Ix.tfLinkCrcErrors l 1) l, [])
  else
    let p := if ftype = 1 ∨ ftype = 2 then noteRound p l seq else p
    let k := link p l
    let credits := bits w1 26 19
    let cvc := bits w1 30 27
    if (ftype = 1 ∨ ftype = 2) ∧ seq ≠ k.rxNext ∧ seqBehind seq k.rxNext = true then (p, [])
    else if 2 < ftype ∨ bits w1 18 4 ≠ 0 ∨ leAt f 8 4 ≠ 0 ∨ 64 < tget k.credits cvc 64 + credits then (malformedFlit p l f, [])
    else if ftype ≠ 0 ∧ seq ≠ k.rxNext then (nakLink p l, [])
    else
      let asm := if ftype = 1 then assemble p (tget k.assembly vc []) (bits w1 3 0) (slice f 12 240) else some ([], [])
      match asm with
      | none => (malformedFlit p l f, [])
      | some (packets, under) =>
        let p := modLink p l (fun k => { k with credits := if credits = 0 then k.credits else tput k.credits cvc (tget k.credits cvc 64 + credits) })
        let p := ackLink p l (bits w0 11 0)
        let p := if bit w1 31 && !(link p l).unacked.isEmpty then replayRound p l else p
        if ftype = 0 ∨ linkState p l ≠ 2 then (p, [])
        else
          let p := modLink p l (fun k => { k with
            rxNext := (k.rxNext + 1) % 4096, nakSent := false, sinceAck := k.sinceAck + 1,
            owed := if ftype = 1 ∧ vc / 4 ≠ 2 then tput k.owed vc (tget k.owed vc 0 + 1) else k.owed,
            kept := if ftype = 1 ∧ vc / 4 = 2 then tput k.kept vc (tget k.kept vc 0 + 1) else k.kept,
            assembly := if ftype = 1 then tput k.assembly vc under else k.assembly })
          let p := if 64 ≤ (link p l).sinceAck then sendFlit p l 0 0 0 false 15 [] else p
          (p, packets.map packetOfBytes)

/-- Whether suspect notices cover every side of a package (R324), or every side but those inside its tray (R461). -/
def covered (p : Pkg) (id : Nat) (outsideOnly : Bool) : Bool :=
  (List.range 6).all (fun d =>
    let q := neighbour p id d
    decide (ringSize p (dimOf d) ≤ 1) || (outsideOnly && sameBoard q id) || p.tf.suspects.contains (q, opposite d))

/-- Packages that suspect notices now make holes (R324, R461). -/
def newHoles (p : Pkg) : List Nat :=
  let ids := (p.tf.suspects.map (fun s => neighbour p s.1 s.2)).eraseDups
  let tray := fun (id : Nat) => (List.range (torus p).1).map (fun x => withCoord id 0 x)
  ((ids.filter (fun id => covered p id false)) ++ (ids.filter (fun id => (tray id).all (fun q => covered p q true))).flatMap tray).eraseDups.filter
    (fun id => id != ownId p && !p.tf.holes.contains id)

/-- HOLE_LISTED (R324, R352, R356, R259): listed while fewer than sixteen are, with event 0x0D0A; its transactions complete,
its traffic and state are discarded, and its loans are lost. -/
def listHole (p : Pkg) (id : Nat) : Pkg :=
  if p.tf.holes.contains id || decide (16 ≤ p.tf.holes.length) then p
  else
    let hs := sortBy (fun (a b : Nat) => decide (a < b)) (p.tf.holes ++ [id])
    let p := wrB { p with tf := { p.tf with holes := hs } } Ix.tfHoles 0 (hs.flatMap (leBytes 2))
    let p := raise (last p Ix.tfLastStatus 0 0x0D0A) 0x0D0A 0xFF id 0
    let p := { p with tf := { p.tf with
      links := p.tf.links.map (fun e => (e.1, { e.2 with queue := e.2.queue.filter (fun k => k.src != id) })),
      outgoing := p.tf.outgoing.filter (fun k => k.src != id),
      heldColl := p.tf.heldColl.filter (fun c => (c.via.map (·.2.2)) != some id) } }
    let p := (List.range 12).foldl (fun p pp => modEr p pp (fun q => { q with heldReturns := q.heldReturns.filter (fun k => k.src != id) })) p
    loseSource (lenderLost (purgePackage (loseDestination p id) id) id) id

/-- A hole is cleared (R324). -/
def clearHole (p : Pkg) (id : Nat) : Pkg :=
  let hs := p.tf.holes.filter (· != id)
  wrB { p with tf := { p.tf with
    holes := hs, departed := p.tf.departed.filter (· != id), suspects := p.tf.suspects.filter (fun s => neighbour p s.1 s.2 != id) } }
    Ix.tfHoles 0 (hs.flatMap (leBytes 2))

/-- Phase 7 (R477, R318): links that the licences allow train; failed lanes and those of the defect list stay unlit. -/
def trainLinks (p : Pkg) (r : PhaseResult) : Pkg :=
  let bad := fun (u : Nat) => p.flash.defects.any (fun d => d.kind == 6 && d.unit == u)
    || r.trainingFailures.any (fun f => f.kind == 6 && f.unit == u)
  (List.range 24).foldl (fun p l =>
    let p := (List.range 8).foldl (fun p n => if bad (l * 8 + n) then setLane p l n 3 else p) p
    if !linkLicensed p l then last (wr p Ix.tfLinkState l 5) Ix.tfLastStatus 0 0x0DE3
    else beginTraining p l) p

/-- A licence for links beyond 16 lights those held down for want of it (R318). -/
def releaseHeldLinks (p : Pkg) : Pkg :=
  (List.range 24).foldl (fun p l => if linkState p l = 5 then beginTraining p l else p) p

/-- Drydown's departure (R325): the notice is flooded; the links go on forwarding until they park. -/
def departLinks (p : Pkg) : Pkg := flood { p with tf := { p.tf with departing := true } } 3 (ownId p) 0

/-- Header of a collective packet as bytes (R330). -/
def collBytes (h : CollHeader) : Bytes :=
  leBytes 2 h.group ++ leBytes 1 h.mode ++ leBytes 1 h.dimension ++ leBytes 2 h.occurrence ++ leBytes 2 h.sender ++ leBytes 4 h.line
    ++ leBytes 4 h.element

/-- Reads a collective packet's header. -/
def collOf (k : Packet) : CollHeader :=
  { group := leAt k.data 0 2, mode := leAt k.data 2 1, dimension := leAt k.data 3 1, occurrence := leAt k.data 4 2,
    sender := leAt k.data 6 2, line := leAt k.data 8 4, element := leAt k.data 12 4, step := k.step, version := k.version }

/-- Hands a collective packet to the router (R330). -/
def sendColl (p : Pkg) (dest type : Nat) (h : CollHeader) (data : Bytes) : Pkg :=
  launch p false { dest, src := ownId p, cls := 2, type, version := h.version, step := h.step, len := 2 + (data.length + 15) / 16,
                   data := collBytes h ++ data }

/-- A group record in force (R327). -/
def groupRecord (p : Pkg) (pp g : Nat) : Bytes := ((records 32 (rdB p Ix.tfCollectiveGroups pp))[g]?).getD (List.replicate 32 0)

/-- Package of a rank in a group (R327). -/
def groupMember (p : Pkg) (b : Bytes) (i j k : Nat) : Nat :=
  let o := leAt b 2 2
  idOf ((coordOf o 0 + i) % max 1 (ringSize p 0)) ((coordOf o 1 + j) % max 1 (ringSize p 1)) ((coordOf o 2 + k) % max 1 (ringSize p 2))

/-- Members of a group in flat-rank order (R327). -/
def groupMembers (p : Pkg) (b : Bytes) : List Nat :=
  (List.range (leAt b 6 1)).flatMap (fun k => (List.range (leAt b 5 1)).flatMap (fun j =>
    (List.range (leAt b 4 1)).map (fun i => groupMember p b i j k)))

/-- Sends ABORT for a collective to every other member (R330). -/
def abortColl (p : Pkg) (c : Coll) : Pkg :=
  ((groupMembers p (groupRecord p c.pp c.group)).filter (· != ownId p)).foldl (fun p m =>
    sendColl p m 0x82 { group := c.group, mode := c.mode, occurrence := c.occurrence, step := c.step, version := c.version } []) p

/-- Aborts a partition's collectives (R425 phase 4, R444). -/
def abortCollectives (p : Pkg) (pp : Nat) : Pkg :=
  let p := (p.tf.colls.filter (fun c => c.pp == pp)).foldl abortColl p
  { p with tf := { p.tf with colls := p.tf.colls.filter (fun c => c.pp != pp), heldColl := p.tf.heldColl.filter (fun c => c.pp != pp) } }

end Sys2Proof.Machine
end

