-- ==== Sys2Proof/Machine/StepOps.lean ====
section
/-! DEFINITION. What a partition's step leaves behind when it stops, is discarded, saved or restarted (R71, R78, R79, R198,
R425, R444, R445). -/

namespace Sys2Proof.Machine

/-- Position of a member in its partition's block: (i, j, k). -/
def memberPos (p : Pkg) (pp id : Nat) : Option (Nat × Nat × Nat) :=
  if !isRack p pp then (if id = ownId p then some (0, 0, 0) else none)
  else
    let b := rdB p Ix.pcRackPartition pp
    let nx := max 1 (leAt b 4 1)
    let ny := max 1 (leAt b 5 1)
    ((membersOf p pp).idxOf? id).map (fun n => (n % nx, n / nx % ny, n / (nx * ny)))

/-- Children of this package in the dimension-order tree that starts at the lead: X first, then Y, then Z (R198). -/
def treeChildren (p : Pkg) (pp : Nat) : List Nat :=
  match memberPos p pp (leadOf p pp), memberPos p pp (ownId p) with
  | some l, some o =>
    (membersOf p pp).filter (fun m => match memberPos p pp m with
      | none => false
      | some c =>
        let next := fun (lead own other : Nat) => other == own + 1 && decide (lead ≤ own) || (own == other + 1 && decide (own ≤ lead))
        (o.2 == l.2 && c.2 == o.2 && next l.1 o.1 c.1)
        || (o.2.2 == l.2.2 && c.1 == o.1 && c.2.2 == o.2.2 && next l.2.1 o.2.1 c.2.1)
        || (c.1 == o.1 && c.2.1 == o.2.1 && next l.2.2 o.2.2 c.2.2))
  | _, _ => []

/-- Stops a partition's passes and abandons its copy slots (R344, R425 phase 1, R444). -/
def stopPasses (p : Pkg) (pp : Nat) : Pkg := abandonSlots ((blocksOf p pp).foldl idleBlock p) pp

/-- Discards a running step's products (R71, R122, R165, R192, R229, R444). -/
def discardProducts (p : Pkg) (pp : Nat) : Pkg :=
  let p := kvRollback ((blocksOf p pp).foldl restoreBlock p) pp (stepOf p pp)
  let p := modSv p pp (fun q => { q with working := [] })
  let p := modEr p pp (fun q => { q with receipts := q.receipts.filter (fun r => r.step != stepOf p pp) })
  voidStep (modSc p pp (fun q => { q with forwarded := [], counts := [], ownCount := 0, countSent := false })) pp

/-- Discards the step of a partition (R444), and in a reset also ends its requests, halts its DMA channels and clears its row
masks (R211, R302, R425 phase 4). -/
def discardStep (p : Pkg) (pp : Nat) : Pkg :=
  let p := abortCollectives p pp
  let p := if (part p pp).pc.stepRunning then discardProducts p pp else p
  if pcState p pp = 6 then
    let p := haltPartitionChannels (abandonPartitionMoves p pp) pp
    let p := (part p pp).er.heldReturns.foldl (fun p k => respondError (keepAnswer p k 0x0EE1 none) false k 0x0EE1) p
    let p := modSe (modEr p pp (fun _ => {})) pp (fun q => { q with voided := [], lag0 := [], haveEstimate := false })
    modSc (endAll p pp 0x06E1) pp (fun q => { q with masks := [[], []], notices := [], resetPending := true, cancelWords := [] })
  else p

/-- Phase 5 of the partition reset (R425): the islands are relocked and fenced regions rejoin. -/
def relock (p : Pkg) (pp : Nat) : Pkg :=
  { p with tp := { p.tp with fenced := p.tp.fenced.filter (fun r => !(regionsOf p pp).contains r) } }

/-- The first 512 bytes of a block's save area (R76; assumption 22: the order of its parts). -/
def stateHeader (k : Blk) : Bytes :=
  padTo ((List.range 64).flatMap (fun i => leBytes 4 (tget k.counters i 0)) ++ (List.range 64).flatMap (fun i => leBytes 2 (tget k.tallies i 0))
    ++ leBytes 4 k.p ++ leBytes 4 (k.step.getD 0) ++ leBytes 4 k.marks ++ leBytes 4 k.index) 512

/-- A preempted block writes its state header and stops (R78 step 4). -/
def saveBlock (p : Pkg) (b : Nat) : Pkg :=
  let k := blk p b
  let p := if k.act = 3 then p else setAct p b 0
  if k.saveBase = 0 then p else (storeLocal p k.saveBase (stateHeader k) false false b 0xFF (k.step.getD 0)).1

/-- Every block has reported (R78): each writes its header. -/
def savePreempted (p : Pkg) (pp : Nat) : Pkg := (blocksOf p pp).foldl saveBlock p

/-- One saved range goes back into block SRAM (R79). -/
def restoreRange (b : Nat) (p : Pkg) (r : LiveRange) : Pkg :=
  match loadLocal p ((blk p b).saveBase + 512 + r.save) r.length false with
  | (p, .ok d) => { p with mem := memWrite p.mem (sramBase b + r.src) d }
  | (p, .error _) => { p with mem := memPoison p.mem (sramBase b + r.src) r.length }

/-- A block restores its ranges and then its state header (R79); everything else in its SRAM and operand buffers is
undefined (R78). -/
def restoreSavedBlock (p : Pkg) (b : Nat) : Pkg :=
  let k := blk p b
  let p := { p with mem := memUndefine p.mem (sramBase b) 0x01000000 }
  let p := k.saved.foldl (restoreRange b) p
  let p := modBlk p b (fun k => { k with stopAt := none, reported := false, saved := [] })
  if k.saveBase = 0 then p
  else match loadLocal p k.saveBase 512 false with
    | (p, .ok h) => modBlk p b (fun k => { k with
        counters := (List.range 64).map (fun i => (i, leAt h (4 * i) 4)), tallies := ((List.range 64).map (fun i => (i, leAt h (256 + 2 * i) 2))).filter (fun e => e.2 != 0),
        p := leAt h 384 4, marks := leAt h 392 4, index := leAt h 396 4 })
    | (p, .error _) => p

/-- Releases the blocks of a resumed partition together (R79). -/
def restoreSaved (p : Pkg) (pp : Nat) : Pkg :=
  (blocksOf p pp).foldl (fun p b =>
    if regionHidden p (b / 8) || (blk p b).step.isNone then p
    else
      let p := restoreSavedBlock p b
      if (blk p b).act = 3 ∨ (blk p b).stepDone = true then p else setAct p b 1) p

/-- Sends an engine's table and tokens along the tree (R198). -/
def sendTable (p : Pkg) (pp e step : Nat) (table tokens : Bytes) : Pkg :=
  if table.isEmpty then p else (treeChildren p pp).foldl (fun p m => emit p (.lengthTable m pp e step table tokens)) p

/-- Sends a step notice along the tree (R198). -/
def passNotice (p : Pkg) (pp : Nat) (n : StepNotice) : Pkg := (treeChildren p pp).foldl (fun p m => emit p (.stepNotice m pp n)) p

/-- Sends an engine's buffer of a step, and the step notice that follows it (R198). -/
def sendBuffer (pp : Nat) (n : StepNotice) (p : Pkg) (e : Nat) : Pkg :=
  passNotice (sendTable p pp e n.step ((part p pp).sc.tables.getD e []) ((part p pp).sc.tokens.getD e [])) pp n

/-- Sends the buffers of a step to the members next in the tree, each followed by the step notice, or the notice alone where no engine
has rows (R198); this package has its own. -/
def sendNotice (p : Pkg) (pp : Nat) (n : StepNotice) : Pkg :=
  let engines := (if n.hasGen then [0] else []) ++ (if n.hasPre then [1] else [])
  let p := if engines.isEmpty then passNotice p pp n else engines.foldl (sendBuffer pp n) p
  modSc p pp (fun q => { q with starting := some n })

/-- The lead sends the notice of the failed step again, with the tables of the failed attempt (R445) and the drained condition as it now
stands (R282). -/
def restartStep (p : Pkg) (pp : Nat) : Pkg :=
  modRu (sendNotice p pp { (part p pp).sc.running with drained := drainedNow p pp }) pp (fun q => { q with recomputing := true })

/-- Routes what a command sent (R322). -/
def flush (p : Pkg) : Pkg := flushPackets 4096 p

end Sys2Proof.Machine
end

