-- ==== Sys2Proof/Machine/Security.lean ====
section
/-! DEFINITION. Chapter 21: identity, firmware slots, customer keys, the rack message key, licences and attestation. -/

namespace Sys2Proof.Machine

/-- A value that the identity seed gives for an ASCII info string (R504): HKDF with SHA-256 and an empty salt. -/
def fromSeed (info : String) : Bytes := hkdf256 [] Config.identitySeed (asciiBytes info) 32

/-- Public halves of the identity key pairs (R504). -/
def identityEd25519 : Bytes := padTo (Config.ed25519Public (fromSeed "CL9416-ID-ED")) 32
def identityMldsa : Bytes := padTo (Config.mldsaPublic (fromSeed "CL9416-ID-MLDSA")) 1952

/-- The controller derives the private seeds and the sealing key, which it keeps to itself until a package reset (R504, R505). -/
def deriveIdentity (p : Pkg) : Pkg :=
  { p with bt := { p.bt with edSeed := fromSeed "CL9416-ID-ED", mldsaSeed := fromSeed "CL9416-ID-MLDSA", sealKey := fromSeed "CL9416-SEAL" } }

/-- Both signatures of the package over a message (R394, R516). -/
def dualSign (p : Pkg) (message : Bytes) : Bytes :=
  padTo (Config.signEd25519 p.bt.edSeed message) 64 ++ padTo (Config.signMldsa p.bt.mldsaSeed message) 3309

/-- The identity digest (R504): SHA-256 of the two public keys. -/
def identityDigest : Bytes := sha256 (identityEd25519 ++ identityMldsa)

/-- `features`, `licence_serial` and `expires_powered_s` of a licence (R511). -/
def licFeatures (l : Bytes) : Nat := leAt l 2 2
def licSerial (l : Bytes) : Nat := leAt l 4 4
def licExpires (l : Bytes) : Nat := leAt l 40 4

/-- Whether a licence's form is right (R511, R512): its length, version, binding and reserved fields. -/
def licFormOk (l : Bytes) : Bool :=
  l.length == 3440 && leAt l 0 2 == 1 && decide (licFeatures l < 32) && slice l 8 32 == identityDigest
  && allZero (slice l 44 20) && allZero (slice l 3437 3)

/-- Whether a licence is valid at this powered time, its signatures verified (R512). -/
def licValid (poweredS : Nat) (l : Bytes) : Bool :=
  licFormOk l && (licExpires l == 0 || decide (poweredS < licExpires l))

/-- Features that the stored valid licences grant (R512). -/
def licencesGrant (p : Pkg) : Nat :=
  (p.flash.licences.filter (licValid (rd p Ix.btPoweredS 0))).foldl (fun m l => m ||| licFeatures l) 0

/-- State of a stored licence (0x6916): 0 valid, 1 expired, 2 invalid. -/
def licState (p : Pkg) (l : Bytes) : Nat :=
  if !licFormOk l then 2 else if licValid (rd p Ix.btPoweredS 0) l then 0 else 1

/-- `bt_licences` (0x6916), 12 bytes per stored licence. -/
def licencesBytes (p : Pkg) : Bytes :=
  p.flash.licences.flatMap (fun l =>
    leBytes 2 (licFeatures l) ++ leBytes 1 (licState p l) ++ [0] ++ leBytes 4 (licSerial l) ++ leBytes 4 (licExpires l))

/-- Installs a licence (R514): invalid 0x1321, a seventeenth or a stored serial 0x1329; its features are granted at
once with event 0x1320, and a newly granted link feature trains the held links. -/
def installLicence (p : Pkg) (data : Bytes) (signaturesVerify : Bool) : Pkg × Answer :=
  if !(signaturesVerify && licValid (rd p Ix.btPoweredS 0) data) then refuse p (invalid 0x1321)
  else if 16 ≤ p.flash.licences.length ∨ p.flash.licences.any (fun l => licSerial l == licSerial data) then
    refuse p (invalid 0x1329)
  else
    let had := granted p 0
    let p := wroteFlash { p with flash := { p.flash with licences := p.flash.licences ++ [data] } } areaLicences
    let p := wr (touch p Ix.btLicences 0) Ix.btFeaturesGranted 0 (rd p Ix.btFeaturesGranted 0 ||| licFeatures data)
    let p := raise0 p 0x1320
    (if !had && granted p 0 then releaseHeldLinks p else p, accepted)

/-- Deletes a licence from flash (R514); its features stay granted until the next start. -/
def removeLicence (p : Pkg) (index : Nat) : Pkg × Answer :=
  if index < p.flash.licences.length then
    (touch (wroteFlash { p with flash := { p.flash with licences := p.flash.licences.eraseIdx index } } areaLicences) Ix.btLicences 0, accepted)
  else refuse p (invalid 0x1006)

/-- Whether a slot record of customer keys is laid out as R509 asks: reserved fields zero. -/
def keySlotOk (s : Bytes) : Bool :=
  decide (leAt s 0 1 < 2) && allZero (slice s 1 3) && allZero (slice s 1992 56)

/-- Customer keys (R509): up to 8 slots of 2,048 bytes, reserved fields checked, 0x1327. Kept. -/
def writeCustomerKeys (p : Pkg) (data : Bytes) : Pkg × Answer :=
  if data.length % 2048 = 0 ∧ data.length ≤ 8 * 2048 ∧ (records 2048 data).all keySlotOk then
    (keep (wrB p Ix.btCustomerKeys 0 data) Ix.btCustomerKeys 0 (.bytes data), accepted)
  else refuse p (invalid 0x1327)

/-- Installs a rack message key (R510): an epoch not above the epoch in force is refused with 0x1328; it is in force
from the next rack tick. -/
def installRackKey (p : Pkg) (data : Bytes) : Pkg × Answer :=
  if data.length = 36 ∧ rd p Ix.btRackKeyEpoch 0 < leAt data 0 4 then
    ({ p with bt := { p.bt with pendingRackKey := some (leAt data 0 4, data.drop 4) } }, accepted)
  else refuse p (invalid 0x1328)

/-- Commits the inactive firmware slot (R508): both copies verified as R506 asks; the sealed selector makes it active,
raises the minimum epoch when the slot header asks, event 0x1323; otherwise 0x1324. Refused with 0x13E0 while a start
runs (R517). -/
def commitFirmware (p : Pkg) (v : FirmwareVerdict) : Pkg × Answer :=
  if rd p Ix.btStartState 0 ≠ 8 then refuse (last p Ix.btLastStatus 0 0x13E0) { abort := 7, status := 0x13E0 }
  else if !v.verified then refuse p (invalid 0x1324)
  else
    let p := (wroteFlash · areaSelector) { p with flash := { p.flash with
      activeSlot := 1 - p.flash.activeSlot,
      minEpoch := if v.raiseEpoch then max p.flash.minEpoch v.epoch else p.flash.minEpoch } }
    (raise0 (wr p Ix.btSecurityEpoch 0 p.flash.minEpoch) 0x1323, accepted)

/-- Bit s: customer slot s VALID (R516). -/
def keySlotMask (p : Pkg) : Nat :=
  ((records 2048 (rdB p Ix.btCustomerKeys 0)).zipIdx).foldl (fun m s => if bit (leAt s.1 0 1) 0 then m + 2 ^ s.2 else m) 0

/-- Bytes 0 to 191 of an attestation report (R516). -/
def attestBody (p : Pkg) (nonce : Bytes) : Bytes :=
  leBytes 2 1 ++ leBytes 2 0 ++ leBytes 4 (rd p Ix.mpFirmwareRelease 0) ++ padTo identityDigest 32
  ++ padTo p.bt.firmwareDigest 32 ++ padTo nonce 32 ++ leBytes 8 p.now ++ leBytes 4 (rd p Ix.mpStartCount 0)
  ++ leBytes 4 (rd p Ix.btPoweredS 0) ++ leBytes 4 (rd p Ix.btSecurityEpoch 0) ++ leBytes 2 (rd p Ix.btUsableCells 0)
  ++ leBytes 1 (rd p Ix.ruPackageFlag 0) ++ leBytes 1 (rd p Ix.btFeaturesGranted 0)
  ++ sha256 (p.flash.licences.flatMap id) ++ leBytes 1 (keySlotMask p) ++ List.replicate 31 0

/-- Produces an attestation report for a nonce of 32 bytes (R516); both signatures are free values (assumption 8). -/
def attest (p : Pkg) (nonce : Bytes) : Pkg × Answer :=
  if nonce.length ≠ 32 then refuse p { abort := 5, status := 0x1005 }
  else
    let body := attestBody p nonce
    let report := body ++ dualSign p body ++ [0, 0, 0]
    (touch { p with bt := { p.bt with report := report } } Ix.btAttestReport 0, accepted)

end Sys2Proof.Machine
end

