-- ==== Sys2Proof/Machine/BringUp.lean ====
section
/-! DEFINITION. Chapters 19 and 22: starts of the package, flash, the structural test, training, ready, and the
control contacts. -/

namespace Sys2Proof.Machine

/-- What survives a package reset: flash, the contacts' levels set by the board, what was sent, and the model's own
counters of free values. Every other value is lost (R385, R387). -/
def resetPkg (p : Pkg) : Pkg :=
  { now := p.now, out := p.out, flash := p.flash,
    pins := { flashTaken := p.pins.flashTaken, thermtrip := p.pins.thermtrip, posX := p.pins.posX, posY := p.pins.posY,
              posZ := p.pins.posZ },
    ms := { hostReads := p.ms.hostReads, remoteReads := p.ms.remoteReads },
    mp := { randomDrawn := p.mp.randomDrawn } }

/-- A kept scalar as flash holds it (R387). -/
def keptNum (p : Pkg) (e : Entry) (sub : Nat) : Nat := ((tfind p.flash.kept (keyAt e 0 sub)).bind DVal.num?).getD e.dflt

/-- Shows the phase that runs: phase 8 shows as 7 (R482). -/
def enterPhase (p : Pkg) (n : Nat) : Pkg :=
  wr { p with bt := { p.bt with phase := n } } Ix.btStartState 0 (min n 7)

/-- Begins a start of a kind (1 cold, 2 warm, 3 sag) from a package reset (R465, R466): every island at its nominal rate (R11), READY is asserted low, THERMTRIP_N
released in phase 1 (R528), REF_SYNC is being acquired. -/
def beginStart (p : Pkg) (kind : Nat) (fullTest : Bool) : Pkg :=
  let q := resetPkg p
  let q := { q with pins := { q.pins with thermtrip := false }, bt := { q.bt with fullTest := fullTest } }
  let q := wr (wr q Ix.mpStartCount 0 (keptNum p Ix.mpStartCount 0)) Ix.btPoweredS 0 (keptNum p Ix.btPoweredS 0)
  let q := wr (wr q Ix.ruPackageFlag 0 (keptNum p Ix.ruPackageFlag 0)) Ix.ruHistoryCount 0 q.flash.history.length
  let q := wr (wr q Ix.btDefectCount 0 q.flash.defects.length) Ix.btSecurityEpoch 0 q.flash.minEpoch
  let q := (List.range 12).foldl (fun q i => wr q Ix.pwIslandFreqKhz i 1050000) { q with flash := { q.flash with sagNext := false } }
  enterPhase (wr (wr q Ix.btStartKind 0 kind) Ix.pwRefState 0 3) 1

/-- Every rail off (R499, R528): the package is off until its next start; the flash contacts are released (R529). -/
def railsOff (p : Pkg) : Pkg :=
  let q := resetPkg p
  { q with pins := { q.pins with flashTaken := false } }

/-- Whether a warm start runs the full test (R465). -/
def warmNeedsFull (p : Pkg) : Bool := keptNum p Ix.ruPackageFlag 0 == 1 || keptNum p Ix.btNextTest 0 == 1

/-- A start that stops (R471, R473, R474): state 9, BOOT_FAIL_N low, flash released (R528, R529). -/
def failStart (p : Pkg) (status : Nat) : Pkg :=
  let p := last (wr p Ix.btStartState 0 9) Ix.btLastStatus 0 status
  { p with bt := { p.bt with phase := 0 }, pins := { p.pins with bootFail := true, flashTaken := false } }

/-- Adds a phase's duration to the record of this start (R466, 0x6802). -/
def addPhaseMs (p : Pkg) (ms : Nat) : Pkg :=
  let l := p.bt.phaseMs ++ [ms]
  wrB { p with bt := { p.bt with phaseMs := l } } Ix.btStartPhaseMs 0 (padTo (l.flatMap (leBytes 4)) 32)

/-- A defect-list record (R475). -/
def Defect.bytes (d : Defect) : Bytes :=
  leBytes 1 d.kind ++ leBytes 1 d.origin ++ leBytes 2 d.unit ++ leBytes 4 d.startCount ++ leBytes 4 d.poweredS
    ++ leBytes 2 d.status ++ leBytes 2 0

/-- An event of bring-up, which is also its last status (R481, 0x6813). -/
def raiseBt (p : Pkg) (code unit detail : Nat) : Pkg := raiseAs p Ix.btLastStatus 0 code 0xFF unit detail

/-- Appends a defect (R474 to R476); with 4,096 records held it is hidden for this start only, with event 0x1307. -/
def addDefect (p : Pkg) (kind origin unit status : Nat) : Pkg :=
  if p.flash.defects.length ≥ 4096 then raiseBt p 0x1307 0xFFFFFFFF 0
  else
    let d : Defect := { kind, origin, unit, status, startCount := rd p Ix.mpStartCount 0, poweredS := rd p Ix.btPoweredS 0 }
    let p := wroteFlash { p with flash := { p.flash with defects := p.flash.defects ++ [d] } } areaDefects
    touch (wr p Ix.btDefectCount 0 p.flash.defects.length) Ix.btDefectList 0

/-- Whether the defect list holds a unit. -/
def inDefects (p : Pkg) (kind unit : Nat) : Bool := p.flash.defects.any (fun d => d.kind == kind && d.unit == unit)

/-- Phase 1 ends (R527): the tray position is read; it needs the flash taken (R529), and otherwise waits. -/
def phase1 (p : Pkg) (r : PhaseResult) : Pkg :=
  if !p.pins.flashTaken then p else enterPhase (readPosition (addPhaseMs p r.ms)) 2

/-- Outcomes of the firmware attempts that count (R469, R507): a seal failure ends every later attempt too. -/
def attemptRun : List Nat → List Nat
  | [] => []
  | 0 :: _ => [0]
  | 3 :: t => 3 :: t.map (fun _ => 3)
  | o :: t => o :: attemptRun t

/-- Event of one attempt's outcome: 0x1301 for every failure, and the cause of R507. -/
def attemptEvents (p : Pkg) (o : Nat × Nat) : Pkg :=
  if o.1 = 0 then p
  else
    let p := wroteFlash { p with flash := { p.flash with attemptLog := p.flash.attemptLog ++ [(o.2, o.1)] } } areaSelector
    let p := raiseBt p 0x1301 0xFFFFFFFF 0
    if o.1 = 2 then raise0 p 0x1325 else if o.1 = 3 then raise0 p 0x1326 else p

/-- Whether an area's copy on a device is older than the other (R467, R480). -/
def staleCopy (p : Pkg) (d : Nat) : Bool := p.flash.generations.any (fun e => if d = 0 then decide (e.2.1 < e.2.2) else decide (e.2.2 < e.2.1))

/-- A copy that failed or is older is rewritten from the other, which has the higher generation (R467). -/
def rewriteCopies (p : Pkg) : Pkg :=
  let up := fun (d : Nat) => p.bt.deviceState.getD d 0 != 2
  { p with flash := { p.flash with generations := p.flash.generations.map (fun e =>
      (e.1, (if up 0 then max e.2.1 e.2.2 else e.2.1, if up 1 then max e.2.1 e.2.2 else e.2.2))) } }

/-- Every attempt of R469 failed: each is logged, and its event waits in flash for the firmware that runs next. -/
def failAttempts (p : Pkg) (run : List Nat) : Pkg :=
  wroteFlash { p with flash := { p.flash with
    attemptLog := p.flash.attemptLog ++ run.zipIdx.map (fun o => (o.2, o.1))
    pendingEvents := p.flash.pendingEvents ++ run.map (fun _ => 0x1301) } } areaSelector

/-- Phase 2 ends (R467, R469, R470, R506, R507): the first attempt that verifies runs; failed ones are logged; the start
count rises; the flash devices' state is recorded; events kept for this start are raised. -/
def phase2 (p : Pkg) (r : PhaseResult) : Pkg :=
  let run := attemptRun (r.attempts.take 4)
  let p := addPhaseMs p r.ms
  if !run.contains 0 then
    failStart (failAttempts p run) 0x1301
  else
    let n := run.length - 1
    let slot := if n < 2 then p.flash.activeSlot else 1 - p.flash.activeSlot
    let p := wr (wr p Ix.btFirmwareSource 0 (slot + 2 * (n % 2))) Ix.btBootAttempts 0 run.length
    let p := wr p Ix.mpFirmwareRelease 0 r.firmwareRelease
    let p := wrKept p Ix.mpStartCount 0 (rd p Ix.mpStartCount 0 + 1)
    let body := if slot = 0 then p.flash.slotA else p.flash.slotB
    let repaired := fun (d : Nat) => bit r.flashRepaired d || staleCopy p d
    let dev := (List.range 2).map (fun d => if !bit r.flashAnswers d then 2 else if repaired d then 1 else 0)
    let p := rewriteCopies { p with bt := { p.bt with firmwareDigest := sha256 body, deviceState := dev } }
    let p := wrB p Ix.btFlashState 0 (dev.flatMap (fun s => leBytes 1 s ++ [0, 1, 0]))
    let p := if dev.contains 1 = false then p else raiseBt p 0x1304 0xFFFFFFFF 0
    let p := if r.flashAnswers % 4 = 3 then p else raiseBt p 0x1305 0xFFFFFFFF 0
    let p := run.zipIdx.foldl attemptEvents p
    let p := p.flash.pendingEvents.foldl (fun p c => if c / 256 = 0x14 then raisePw p c 0xFF 0xFFFFFFFF else raiseBt p c 0xFFFFFFFF 0) p
    enterPhase { p with flash := { p.flash with pendingEvents := [] } } 3

/-- Phase 3 ends (R471, R504): the identity is derived. -/
def phase3 (p : Pkg) (r : PhaseResult) : Pkg :=
  if r.identityOk then enterPhase (deriveIdentity (addPhaseMs p r.ms)) 4 else failStart (addPhaseMs p r.ms) 0x1302

/-- Phase 4 ends (R512): the features of the stored valid licences are granted. -/
def phase4 (p : Pkg) (r : PhaseResult) : Pkg :=
  enterPhase (wr (addPhaseMs p r.ms) Ix.btFeaturesGranted 0 (licencesGrant p)) 5

/-- Restores the kept entries (R387, R472). -/
def restoreKept (p : Pkg) : Pkg :=
  p.flash.kept.foldl (fun p e => { p with dict := { p.dict with vals := tput p.dict.vals e.1 e.2 } }) p

/-- Appends, with origin 5, every unit that the history makes permanent and the list does not hold (R455, R472). -/
def appendPermanent (p : Pkg) : Pkg :=
  p.flash.history.foldl (fun p h =>
    if unitPermanent p.flash.history h.kind h.unit && !inDefects p h.kind h.unit then addDefect p h.kind 5 h.unit h.status
    else p) p

/-- Phase 5 ends (R472, R485): kept entries and the defect list are restored and the dictionary opens; without a
REF_SYNC frame the start waits for one. -/
def phase5 (acquired : Bool) (p : Pkg) (r : PhaseResult) : Pkg :=
  let p := appendPermanent (restoreKept (addPhaseMs p r.ms))
  if acquired then enterPhase p 6 else { p with bt := { p.bt with waitingFrame := true } }

/-- Hides what the test found and records it (R453, R474). -/
def takeDefect (p : Pkg) (f : FailedUnit) : Pkg :=
  let p := if inDefects p f.kind f.unit then p else addDefect p f.kind 2 f.unit f.status
  hideUnit (recordHistory p f.kind 2 f.unit f.status 0) f.kind f.unit

/-- A partition whose mask names a region that the test finds hidden is left unconfigured, with event 0x1308 for the region
(R480; assumption 187). -/
def refuseMask (p : Pkg) (pp : Nat) : Pkg :=
  match (regionsOf p pp).filter (regionHidden p) with
  | [] => p
  | l => l.foldl (fun p r => raiseBt p 0x1308 r 0) (setPcState (wr p Ix.pcRegionMask pp 0) pp 0)

/-- Failures of units that the list does not hold: a known defect never fails a test again (R473). -/
def newFailures (p : Pkg) (l : List FailedUnit) : List FailedUnit := l.filter (fun f => !inDefects p f.kind f.unit)

/-- Whether the test fails in every region of a C-die, which stops the start (R474). -/
def dieLost (l : List FailedUnit) : Bool :=
  (List.range 4).any (fun d => (List.range 3).all (fun j => l.any (fun f => f.kind == 3 && f.unit == 3 * d + j)))

/-- Hides what is known before the test (R473): the defect list, and permanent units that a full list could not take (R476). -/
def hideKnown (p : Pkg) : Pkg :=
  let q := p.flash.defects.foldl (fun p d => hideUnit p d.kind d.unit) p
  q.flash.history.foldl (fun p h =>
    if unitPermanent p.flash.history h.kind h.unit && !inDefects p h.kind h.unit then hideUnit p h.kind h.unit else p) q

/-- Phase 7 begins: every stack and memory channel is training (R268, R269). -/
def enterTraining (p : Pkg) : Pkg :=
  let p := (List.range 12).foldl (fun p s => wr p Ix.hbStackState s 1) p
  enterPhase ((List.range 16).foldl (fun p c => wr p Ix.ddChannelState c 1) p) 7

/-- Phase 6 ends (R456, R473, R474, R476): known defects were hidden before the test; a bad pattern chunk or a die fault
stops the start; a passed test of a package flagged REQUALIFY makes it REQUALIFYING, and at every start the hour of a requalifying package
begins anew (DEDUCED, assumption 174). -/
def phase6 (p : Pkg) (r : PhaseResult) : Pkg :=
  let p := addPhaseMs p r.ms
  if !r.patternsOk then failStart p 0x1303
  else if r.dieFault || dieLost (newFailures p r.failures) then failStart p 0x1306
  else
    let new := newFailures p r.failures
    let p := new.foldl takeDefect (hideKnown p)
    let p := wr (wr p Ix.btLastTest 0 (if p.bt.fullTest then 1 else 2)) Ix.btNewDefects 0 new.length
    let p := if p.bt.fullTest then wrKept p Ix.btNextTest 0 0 else p
    let p := wr p Ix.btUsableCells 0 (usableCells p)
    let p := (List.range 12).foldl refuseMask (raiseBt p 0x1308 0xFFFFFFFF new.length)
    let p := if rd p Ix.btUsableCells 0 < 736 then raiseBt p 0x130A 0xFFFFFFFF 0 else p
    let p := if rd p Ix.ruPackageFlag 0 = 1 ∧ p.bt.fullTest = true ∧ new = [] then
        wr (wrKept p Ix.ruPackageFlag 0 3) Ix.ruRequalifyRemainingS 0 3600
      else if rd p Ix.ruPackageFlag 0 = 3 then wr p Ix.ruRequalifyRemainingS 0 3600
      else p
    enterTraining p

/-- Whether a module may run at a rate in GT/s (R361, 0x5C08). -/
def moduleRateOk (p : Pkg) (rate : Nat) : Bool := [8, 16, 32].contains rate && decide (rd p Ix.hiMinRate 0 ≤ rate)

/-- A unit that fails training is appended with origin 4 (R477); where the list is full it is recorded in the history (R476). -/
def takeUntrained (p : Pkg) (f : FailedUnit) : Pkg :=
  let q := addDefect p f.kind 4 f.unit f.status
  if p.flash.defects.length < 4096 then q else recordHistory q f.kind 2 f.unit f.status 0

/-- Phase 7 ends (R361, R477): memory, UCIe modules and links trained. -/
def phase7 (p : Pkg) (r : PhaseResult) : Pkg :=
  let p := (newFailures p r.trainingFailures).foldl takeUntrained (addPhaseMs p r.ms)
  let p := (List.range 4).foldl (fun p m =>
    if bit r.modulesUp m && moduleRateOk p r.moduleRate then wr (wr p Ix.hiModuleState m 2) Ix.hiModuleRate m r.moduleRate else p) p
  let p := (List.range 2).foldl (fun p t =>
    if bit r.portsUp t then wr (wr p Ix.mpPortState t 2) Ix.mpPortFec t (bits r.portFec (2 * t + 1) (2 * t)) else p) p
  enterPhase (wroteFlash (trainLinks (trainMemory p r) r) areaTraining) 8

/-- Phase 8 ends (R478, R479): T0 zeroed, the DDR5 fill started, ready with event 0x1310. -/
def phase8 (p : Pkg) (r : PhaseResult) : Pkg :=
  let p := initMemory (addPhaseMs p r.ms)
  let p := wr (wr p Ix.btStartState 0 8) Ix.btStartTotalMs 0 p.bt.phaseMs.sum
  raiseBt { p with bt := { p.bt with phase := 9, readyNs := some p.now }, pins := { p.pins with readyReleased := true } } 0x1310 0xFFFFFFFF 0

/-- Removes a defect record (R476): later records move down, and a history record of origin 1 with status 0x1308 is
written. -/
def removeDefect (p : Pkg) (index : Nat) : Pkg × Answer :=
  match p.flash.defects[index]? with
  | none => refuse p (invalid 0x1006)
  | some d =>
    let p := wroteFlash { p with flash := { p.flash with defects := p.flash.defects.eraseIdx index } } areaDefects
    let p := touch (wr p Ix.btDefectCount 0 p.flash.defects.length) Ix.btDefectList 0
    (recordHistory p d.kind 1 d.unit 0x1308 0, accepted)

end Sys2Proof.Machine
end

