-- ==== Sys2Proof/Machine/Reliability.lean ====
section
/-! DEFINITION. Chapter 18: audit votes, rollback, re-cut, replica digests, and Drydown. The partition reset's first
phase and the halt of a partition stand here too, because a rollback and a region fault end in them. -/

namespace Sys2Proof.Machine

/-- Clears a partition's bit of `pw_power_paused` (R497). -/
def clearPowerBit (p : Pkg) (pp : Nat) : Pkg :=
  if bit (rd p Ix.pwPowerPaused 0) pp then wr p Ix.pwPowerPaused 0 (rd p Ix.pwPowerPaused 0 - 2 ^ pp) else p

/-- Halts a partition (R415): state 7 with its status, and event 0x1111 where it was not halted. -/
def haltPartition (p : Pkg) (pp status : Nat) : Pkg :=
  let p := modPc (last p Ix.pcLastStatus pp status) pp (fun q => { q with stepRunning := false })
  if pcState p pp = 7 then p else raise (setPcState p pp 7) 0x1111 pp 0xFFFFFFFF 0

/-- Members of the partition other than this package. -/
def otherMembers (p : Pkg) (pp : Nat) : List Nat := (membersOf p pp).filter (· != ownId p)

/-- Sends an audit report to the lead, or keeps it when this package is the lead (R441, R444). -/
def sendReport (p : Pkg) (pp : Nat) (r : ReportRecord) : Pkg :=
  if isLead p pp then modRu p pp (fun q => { q with reports := q.reports.filter (fun x => x.sender != r.sender) ++ [r] })
  else emit p (.report (leadOf p pp) pp r)

/-- This member's report for the running step. -/
def ownReport (p : Pkg) (pp verdict : Nat) : ReportRecord :=
  { step := stepOf p pp, sender := ownId p, verdict, audited := (part p pp).ru.stepAudited,
    unaudited := (part p pp).ru.stepUnaudited, disagreements := (part p pp).ru.stepDisagreements }

/-- A member sends its clean report once its LAST passes have completed and its votes have ended (R441). -/
def reportIfDone (p : Pkg) (pp : Nat) : Pkg :=
  let q := (part p pp).ru
  if q.reported = false ∧ q.votes = [] ∧ q.poison = none ∧ (part p pp).pc.stepRunning = true ∧ lastPassesDone p pp = true then
    let p := wr p Ix.ruAuditTailNs pp (p.now - q.lastPassNs)
    sendReport (modRu p pp (fun q => { q with reported := true })) pp (ownReport p pp 0)
  else p

/-- Counts a rollback of the running step (R445), with event 0x1207; the partition halts with 0x1208 when the step has been
rolled back `ru_rollback_limit` times. -/
def countRollback (p : Pkg) (pp : Nat) : Pkg :=
  let q := (part p pp).ru
  let n := if q.rolledStep = stepOf p pp then q.rolledTimes + 1 else 1
  let p := modRu p pp (fun q => { q with rolledStep := stepOf p pp, rolledTimes := n })
  let p := raiseRu (bump (bump p Ix.pcStepsFailed pp 1) Ix.ruRollbacks pp 1) pp 0x1207 0xFFFFFFFF 0
  if rd p Ix.ruRollbackLimit pp ≤ n then haltPartition (last p Ix.ruLastStatus pp 0x1208) pp 0x1208 else p

/-- A member's answer to a poison notice for the running step or to a cause of its own (R444): passes and copy slots
stop, collectives are aborted, the step's products are discarded, fences are reset, and the lead gets a report of verdict 1. The
first cause is the one recorded (R443). What a preempted partition has saved, or one that is preempting has begun to save, is discarded and it is paused
(R462). The rollback then
counts against the limit (R445). -/
def rollback (p : Pkg) (pp : Nat) (r : PoisonRecord) : Pkg :=
  if (part p pp).ru.poison.isSome ∨ r.step ≠ stepOf p pp then p
  else
    let p := modRu p pp (fun q => { q with poison := some r, votes := [], captureUsed := 0 })
    let p := if r.cause = 5 ∧ p.tf.memberLost.contains pp = false then
        showProfile { p with tf := { p.tf with memberLost := p.tf.memberLost ++ [pp] } }
      else p
    let p := if pcState p pp = 4 ∨ pcState p pp = 5 then setPcState (discardSaved p pp) pp 3 else p
    let p := retireUnresolved (discardStep (stopPasses p pp) pp) pp
    let p := sendReport (modRu p pp (fun q => { q with reported := true })) pp (ownReport p pp 1)
    countRollback p pp

/-- A cause found here fails the running step (R443): a poison notice goes to every member, this one included. -/
def causeRollback (p : Pkg) (pp cause region block descriptor tile : Nat) : Pkg :=
  if (part p pp).ru.poison.isSome ∨ (part p pp).pc.stepRunning = false then p
  else
    let r : PoisonRecord := { step := stepOf p pp, rackId := leAt (rdB p Ix.pcRackPartition pp) 0 2, sender := ownId p,
                              cause, region, block, descriptor, tile }
    rollback ((otherMembers p pp).foldl (fun p m => emit p (.poison m pp r)) p) pp r

/-- Starts Drydown (R458, R459): event 0x120D; stage 1 stops every partition. Once started it cannot be cancelled. -/
def startDrydown (p : Pkg) (causing : Option FailedUnit) (restart : Bool) : Pkg :=
  if rd p Ix.ruDrydownState 0 ≠ 0 then p
  else
    let p := { p with ru := { p.ru with causingUnit := causing, restartWhenDrained := restart } }
    let p := raise0 (wr p Ix.ruDrydownState 0 1) 0x120D
    (List.range 12).foldl (fun p pp =>
      if pcState p pp = 0 ∨ pcState p pp = 1 ∨ pcState p pp = 7 then p
      else if isRack p pp then
        let p := causeRollback p pp 5 0xFF 0xFF 0 0
        sendReport p pp (ownReport p pp 2)
      else modPc p pp (fun q => { q with stopPending := true })) p

/-- Charges a block for an audit (R438, R453). -/
def chargeBlock (p : Pkg) (block status : Nat) : Pkg := recordHistory p 2 3 block status (stepOfRegion p (block / 8))

/-- The vote on a tile, if one runs. -/
def findVote (p : Pkg) (pp block descriptor tile : Nat) : Option Vote :=
  (part p pp).ru.votes.find? (fun v => v.block == block && v.descriptor == descriptor && v.tile == tile)

/-- Ends a vote and frees its capture (R435); the report may then follow. -/
def endVote (p : Pkg) (pp : Nat) (v : Vote) : Pkg :=
  reportIfDone (modRu p pp (fun q => { q with votes := q.votes.filter (· != v), captureUsed := q.captureUsed - v.captureBytes })) pp

/-- A tile counts as unaudited (R437): the first of a step raises event 0x1212. -/
def countUnaudited (p : Pkg) (pp : Nat) : Pkg :=
  let first := (part p pp).ru.stepUnaudited = 0
  let p := bump (modRu p pp (fun q => { q with stepUnaudited := q.stepUnaudited + 1 })) Ix.ruTilesUnaudited pp 1
  if first then raiseRu p pp 0x1212 0xFFFFFFFF 0 else p

/-- A disagreement while REQUALIFYING sets REPLACE, raises event 0x1211 and starts Drydown (R456). -/
def requalifyFailed (p : Pkg) : Pkg :=
  if rd p Ix.ruPackageFlag 0 = 3 then
    startDrydown (raise0 (wr (wrKept p Ix.ruPackageFlag 0 2) Ix.ruRequalifyRemainingS 0 0) 0x1211) none false
  else p

/-- The capture goes to the arbiter region, and the producing block re-executes the tile (R438, R44). -/
def toArbiter (p : Pkg) (pp : Nat) (v : Vote) (auditor : Nat) (fp : Bytes) : Pkg :=
  let p := modRu p pp (fun q => { q with
    votes := q.votes.map (fun w => if w = v then { v with auditor := some fp, auditorBlock := auditor, fromArbiter := true } else w),
    stepDisagreements := q.stepDisagreements + 1 })
  let p := raiseRu (bump p Ix.ruDisagreements pp 1) pp 0x1201 v.block 0
  requalifyFailed (bump p Ix.blockTileReexecutions v.block 1)

/-- A confirmed wrong tile or a suspect package (R439): the step rolls back, and Drydown starts unless
`ru_drain_on_confirmed` is 0. -/
def confirmedWrong (p : Pkg) (pp cause status : Nat) (v : Vote) : Pkg :=
  let p := bump p Ix.ruConfirmedWrong pp 1
  let p := causeRollback p pp cause (v.block / 8) v.block v.descriptor v.tile
  if rd p Ix.ruDrainOnConfirmed pp = 0 then p
  else startDrydown p (some { kind := 2, unit := v.block, status }) false

/-- A record for this partition from a member, with reserved fields zero (R442). -/
def fromMember (p : Pkg) (pp sender reserved : Nat) : Bool := (membersOf p pp).contains sender && reserved == 0

/-- A poison notice arrives (R442 to R444, R462): a malformed one is discarded and logged. -/
def poisonArrives (p : Pkg) (pp : Nat) (record : PoisonRecord) : Pkg :=
  if fromMember p pp record.sender record.reserved
      && (!isRack p pp || record.rackId == leAt (rdB p Ix.pcRackPartition pp) 0 2) then
    if (part p pp).pc.stepRunning then rollback p pp record else p
  else logViolation p 2 0xFF record.sender 0x0E07 record.step (leBytes 4 record.step ++ leBytes 2 record.rackId ++
    leBytes 2 record.sender ++ leBytes 4 record.cause)

/-- The lead waits for a re-cut of a member (R447): event 0x1213 names it. -/
def requireRecut (p : Pkg) (pp member : Nat) : Pkg :=
  if (part p pp).ru.recut.contains member then p
  else raiseRu (modRu p pp (fun q => { q with recut := q.recut ++ [member] })) pp 0x1213 member 0

/-- STEP_RECOMPUTE (R445, R462): while the partition runs, with a report of verdict 1 from every member that is not a hole and no
re-cut outstanding, and with its versions whole (R280), the lead starts the step again with the tables of the failed attempt. -/
def recomputeIfReady (p : Pkg) (pp : Nat) : Pkg :=
  let q := (part p pp).ru
  let ready := (membersOf p pp).all (fun m => p.tf.holes.contains m || q.reports.any (fun r => r.sender == m && r.verdict == 1 && r.step == stepOf p pp))
  if isLead p pp && q.poison.isSome && ready && q.recut.isEmpty && (part p pp).pc.stepRunning && pcState p pp == 2 && versionsWhole p pp then
    restartStep p pp
  else p

/-- An audit report arrives (R441, R445, R447): a malformed one is discarded and logged. -/
def reportArrives (p : Pkg) (pp : Nat) (record : ReportRecord) : Pkg :=
  if !fromMember p pp record.sender record.reserved then
    logViolation p 2 0xFF record.sender 0x0E07 record.step (leBytes 4 record.step ++ leBytes 2 record.sender ++ leBytes 2 record.verdict)
  else if !isLead p pp then p
  else
    let p := sendReport p pp record
    let p := if record.verdict = 2 then requireRecut (causeRollback p pp 5 0xFF 0xFF 0 0) pp record.sender else p
    recomputeIfReady p pp

/-- The next Drydown stage and its work when it begins (R459). A flag that is REPLACE stays so: only a service write takes it back
(R457). -/
def drydownStage (p : Pkg) (n : Nat) : Pkg :=
  let p := wr p Ix.ruDrydownState 0 n
  match n with
  | 2 => handOff p
  | 3 => reclaimAllUnits p
  | 4 =>
    match p.ru.causingUnit with
    | none => p
    | some u =>
      wrKept p Ix.ruPackageFlag 0 (if unitPermanent p.flash.history u.kind u.unit then 2 else
        if rd p Ix.ruPackageFlag 0 = 2 then 2 else 1)
  | 5 => departLinks { p with pins := { p.pins with readyReleased := false } }
  | _ => raise0 p 0x120E

/-- Stage 1's end (R459): no partition steps any more, and package partitions, those already stopped among them, have
ended every request with 0x1209. -/
def stopAll (p : Pkg) : Pkg :=
  (List.range 12).foldl (fun p pp =>
    if pcState p pp = 0 then p
    else
      let p := if isRack p pp then p else endAllRequests p pp 0x1209
      if pcState p pp = 1 ∨ pcState p pp = 7 then p
      else setPcState (modPc (stopPasses p pp) pp (fun q => { q with stopPending := false, stepRunning := false })) pp 1) p

/-- PACKAGE_FLAG_CLEAR (R457): a service write of 1 clears the flag and is recorded with status 0x1214. -/
def clearPackageFlag (p : Pkg) : Pkg × Answer :=
  (recordHistory (wr (wrKept p Ix.ruPackageFlag 0 0) Ix.ruRequalifyRemainingS 0 0) 0 1 0 0x1214 0, accepted)

/-- Usable regions of a partition (R432, R434). -/
def usableRegions (p : Pkg) (pp : Nat) : List Nat := (regionsOf p pp).filter (fun r => !regionHidden p r)

/-- Audit code in force (R432, R456): 1/2 while REQUALIFYING in a partition of three or more regions. -/
def auditCode (p : Pkg) (pp : Nat) : Nat :=
  if rd p Ix.ruPackageFlag 0 = 3 ∧ 3 ≤ (usableRegions p pp).length then 5 else rd p Ix.auditFraction pp

/-- One more second of requalifying (R456): the time left falls while a partition of three or more usable regions runs a step. -/
def requalifySecond (p : Pkg) : Pkg :=
  if rd p Ix.ruPackageFlag 0 = 3 ∧ (List.range 12).any (fun pp => (part p pp).pc.stepRunning && decide (3 ≤ (usableRegions p pp).length)) = true then
    wr p Ix.ruRequalifyRemainingS 0 (rd p Ix.ruRequalifyRemainingS 0 - 1)
  else p

/-- Threshold t of a code (R432). -/
def auditThreshold (code : Nat) : Nat :=
  match code with
  | 1 => 1
  | 2 => 4
  | 3 => 16
  | 4 => 64
  | 5 => 128
  | _ => 0

/-- A write of `audit_fraction` (R432): above 5 0x1202; 4 or 5 without the licence 0x12E3; non-zero with fewer than
three usable regions 0x1202. -/
def auditFractionCheck (p : Pkg) (pp v : Nat) : Option Answer :=
  if 5 < v then some (invalid 0x1202)
  else if 4 ≤ v ∧ granted p 4 = false then some { abort := 9, status := 0x12E3 }
  else if v ≠ 0 ∧ (usableRegions p pp).length < 3 then some (invalid 0x1202)
  else none

/-- Auditor and arbiter regions of a producing region (R434). -/
def auditorRegion (p : Pkg) (pp region offset : Nat) : Nat :=
  let g := usableRegions p pp
  g.getD ((g.idxOf region + offset) % max 1 g.length) region

/-- First phase of the partition reset (R425, R426, R429): passes and sources stop, absorbing starts, state 6; the other
members get a reset notice unless this reset answers one. -/
def beginReset (p : Pkg) (pp status : Nat) (notify : Bool) : Pkg :=
  if pcState p pp = 6 then p
  else
    let p := if pcState p pp = 4 ∨ pcState p pp = 5 then discardSaved p pp else p
    let p := if status = 0 then p else last p Ix.pcLastStatus pp status
    let p := modPc (stopPasses p pp) pp (fun q => { q with resetPhase := 1, resetStartNs := p.now, pausePending := false,
                                                           stopPending := false, heldActions := false, resetFault := status != 0 })
    let p := bump (setPcState p pp 6) Ix.pcResets pp 1
    if notify then (otherMembers p pp).foldl (fun p m => emit p (.resetNotice m pp)) p else p

end Sys2Proof.Machine
end

