-- ==== Sys2Proof/Machine/Partition.lean ====
section
/-! DEFINITION. Chapter 17: partition states and commands, the step watchdog, regulators, and the partition reset. -/

namespace Sys2Proof.Machine

/-- Whether a step program table may lie at the base (R417): in T0, a multiple of 64 whose 3,072 bytes lie in a fixed range
of the partition. -/
def programTableOk (p : Pkg) (pp : Nat) : Bool :=
  let b := rd p Ix.pcProgramTableBase pp
  b % 64 == 0 && decide (b + 3072 ≤ 0x00C000000000) && inFixedRange p pp b 3072

/-- Checks of `pc_rack_partition` (R414): empty, or a record whose extents fit the torus, with reserved fields zero, of which this package
is a member. -/
def rackPartitionOk (p : Pkg) (b : Bytes) : Bool :=
  b.isEmpty ||
  (b.length == 16 &&
    (let t := torus p
     let fits := fun n ring => decide (1 ≤ n) && decide (n ≤ ring)
     decide (leAt b 7 1 < 2) && allZero (slice b 8 8) && decide (leAt b 2 2 < 1024) && inTorus p (leAt b 2 2)
     && fits (leAt b 4 1) t.1 && fits (leAt b 5 1) t.2.1 && fits (leAt b 6 1) t.2.2
     && (membersOf (wrB p Ix.pcRackPartition 0 b) 0).contains (ownId p)))

/-- Whether the rack partition record, when there is one, is VALID and still keeps R414 (R416). -/
def rackRecordOk (p : Pkg) (pp : Nat) : Bool :=
  let b := rdB p Ix.pcRackPartition pp
  !isRack p pp || (bit (leAt b 7 1) 0 && rackPartitionOk p b)

/-- START (R416): refused before ready (0x1309), under REPLACE (0x1214), in Drydown, with an invalid table or record,
or for a rack partition before a tick number was adopted (R485) (0x1105); clears counters, tallies and p; to 2. -/
def pcStart (p : Pkg) (pp : Nat) : Pkg × Answer :=
  if pcState p pp ≠ 1 ∧ pcState p pp ≠ 7 then refuse p (invalid 0x1105)
  else if rd p Ix.btStartState 0 ≠ 8 then refuse (last p Ix.btLastStatus 0 0x1309) (invalid 0x1309)
  else if rd p Ix.ruPackageFlag 0 = 2 then refuse (last p Ix.ruLastStatus pp 0x1214) (invalid 0x1214)
  else if rd p Ix.ruDrydownState 0 ≠ 0 then refuse p (invalid 0x1105)
  else if !(programTableOk p pp && rackRecordOk p pp) then refuse p (invalid 0x1105)
  else if isRack p pp && !p.pw.tickAdopted then refuse p (invalid 0x1105)
  else
    let p := clearStepState p pp
    let p := modPc p pp (fun q => { q with firstStep := true, stepRunning := false, stepFailed := none, heldActions := false, heldFive := false,
                                           pausePending := false, stopPending := false, watchdogStep := none })
    let p := modRu p pp (fun q => { q with poison := none, reports := [], reported := false, recomputing := false, votes := [],
                                           captureUsed := 0 })
    let p := modSc p pp (fun q => { q with starting := none, writeFailed := none })
    (setPcState p pp 2, accepted)

/-- A preempted partition's step is over, with the saved state and what the step made so far discarded (R416; assumption 184). -/
def endPreempted (p : Pkg) (pp : Nat) : Pkg :=
  let p := discardSaved p pp
  modPc (if (part p pp).pc.stepRunning then discardProducts p pp else p) pp (fun q => { q with stepRunning := false })

/-- STOP (R416): from 2 after the running step, from 3 at once, from 5 with the saved state discarded; a power pause's
bit is cleared (R497). -/
def pcStop (p : Pkg) (pp : Nat) : Pkg × Answer :=
  let p' := modPc (clearPowerBit p pp) pp (fun q => { q with powerPaused := false, powerPending := false, heldActions := false })
  if pcState p pp = 2 then
    if (part p pp).pc.stepRunning then (modPc p' pp (fun q => { q with stopPending := true }), accepted)
    else (setPcState p' pp 1, accepted)
  else if pcState p pp = 3 then (setPcState p' pp 1, accepted)
  else if pcState p pp = 5 then (setPcState (endPreempted p' pp) pp 1, accepted)
  else refuse p (invalid 0x1105)

/-- PAUSE (R416): to 3 at the next step boundary. -/
def pcPause (p : Pkg) (pp : Nat) : Pkg × Answer :=
  if pcState p pp = 2 then (modPc p pp (fun q => { q with pausePending := true }), accepted) else refuse p (invalid 0x1105)

/-- RESUME's effect (R416): from 3 to 2; from 5 restore under R79, then to 2; a power pause ends. -/
def pcResume (p : Pkg) (pp : Nat) : Pkg :=
  let p := modPc (clearPowerBit p pp) pp (fun q => { q with powerPaused := false, powerPending := false })
  if pcState p pp = 5 then
    let p := modPc p pp (fun q => { q with excludedNs := q.excludedNs + (p.now - q.excludedFrom) })
    setPcState (restoreSaved p pp) pp 2
  else setPcState p pp 2

/-- RESUME (R416): refused in Drydown with 0x1105. -/
def pcResumeCommand (p : Pkg) (pp : Nat) : Pkg × Answer :=
  if (pcState p pp = 3 ∨ pcState p pp = 5) ∧ rd p Ix.ruDrydownState 0 = 0 then (pcResume p pp, accepted)
  else refuse p (invalid 0x1105)

/-- PREEMPT (R416, R429): to 4; a pending pause is dropped; blocks run to the chosen mark (R78). While a rejection has stopped the
partition it is answered with the rejection's code (R80). -/
def pcPreempt (p : Pkg) (pp : Nat) : Pkg × Answer :=
  if pcState p pp = 2 then
    let p := modPc p pp (fun q => { q with pausePending := false, excludedFrom := p.now })
    (setPcState (beginPreempt p pp) pp 4, accepted)
  else if pcState p pp = 7 ∧ (blocksOf p pp).any (fun b => (blk p b).act == 3) = true then
    refuse p (invalid ((part p pp).pc.stepFailed.getD 0x1105))
  else refuse p (invalid 0x1105)

/-- Refuses any command while the partition resets (R416). -/
def unlessResetting (p : Pkg) (pp : Nat) (r : Pkg × Answer) : Pkg × Answer :=
  if pcState p pp = 6 then refuse p { abort := 10, status := 0x11E1 } else r

/-- A write of `pc_command` (R416). -/
def pcCommand (p : Pkg) (pp value : Nat) : Pkg × Answer :=
  unlessResetting p pp
    (match value with
     | 1 => pcStart p pp
     | 2 => pcStop p pp
     | 3 => pcPause p pp
     | 4 => pcResumeCommand p pp
     | 5 => pcPreempt p pp
     | 6 => if pcState p pp = 0 then refuse p (invalid 0x1105) else (beginReset p pp 0 true, accepted)
     | _ => refuse p (invalid 0x1105))

/-- A partition reset is over, in a state and with its event (R425): its duration shows, and the final records of the requests that it ended
are written (R211). -/
def closeReset (p : Pkg) (pp st code : Nat) : Pkg :=
  let d := (p.now - (part p pp).pc.resetStartNs) / 1000
  let p := wr (modPc p pp (fun q => { q with resetPhase := 0 })) Ix.pcResetDurationUs pp d
  let p := raise (setPcState p pp st) code pp 0xFFFFFFFF 0
  if (part p pp).sc.resetPending then pumpCompletions (finishRequests (modSc p pp (fun q => { q with resetPending := false })) pp) pp
  else p

/-- Ends the partition reset with its phase 8 (R425): event 0x1110, state 1, then START at once when `pc_auto_start` is 1. -/
def finishReset (p : Pkg) (pp : Nat) : Pkg :=
  let p := closeReset p pp 1 0x1110
  if rd p Ix.pcAutoStart pp = 1 then (pcStart p pp).1 else p

/-- Phase 3 ends (R425): RETIREs not answered leave their source's fence broken, with event 0x0E11. -/
def retiresOver (p : Pkg) (pp : Nat) (unanswered : List Nat) : Pkg :=
  unanswered.foldl (fun p s =>
    raise (breakFence p s) 0x0E11 pp s 0) p

/-- Time a step has run, time in states 4 and 5 excluded (R418). -/
def stepRunNs (p : Pkg) (pp : Nat) : Nat :=
  let q := (part p pp).pc
  let now := if pcState p pp = 4 ∨ pcState p pp = 5 then q.excludedFrom else p.now
  now - q.stepStartNs - q.excludedNs

/-- Buckets of a resource: one per target region for cross-region HBM (R419). -/
def bucketsOf (resource : Nat) : List Nat := if resource = 0 then List.range 12 else [0]

/-- One bucket gains its rate's credit of 100 ns, up to its burst (R420). -/
def refillBucket (pp resource : Nat) (p : Pkg) (region : Nat) : Pkg :=
  let r := regulator p pp resource
  if r.1 = 0 then p
  else
    let c := min (creditOf p pp resource region + ((r.1 * 100 / 1000 : Nat) : Int)) (r.2.1 : Int)
    modPc p pp (fun q => { q with credit := tput q.credit (resource * 16 + region) c })

/-- Capacity of a resource in MB/s (R419). -/
def capacityOf (resource : Nat) : Nat :=
  if resource = 0 then 2000000 else if resource = 1 then 1126000 else if resource = 2 then 9600000
  else if resource = 3 then 1024000 else 1280000

/-- Rate a partition asks of a resource: its shadow's where one waits, else the value in force's (R419). -/
def claimedRate (p : Pkg) (pp resource : Nat) : Nat :=
  let rate := fun (b : Bytes) => if b.length < 80 then 0 else leAt b (resource * 16) 4
  max (rate (rdB p Ix.pcRegulators pp))
    (match (tfind p.dict.shadows (keyAt Ix.pcRegulators 0 pp)).bind DVal.bytes? with
     | none => 0
     | some b => rate b)

/-- Checks of `pc_regulators` (R419): five records, ranges, reserved fields, and the sum of rates per resource. -/
def regulatorsOk (p : Pkg) (pp : Nat) (b : Bytes) : Bool :=
  b.length == 80 && (List.range 5).all (fun i =>
    decide (4096 ≤ leAt b (i * 16 + 4) 4) && decide (leAt b (i * 16 + 4) 4 ≤ 16777216) && decide (leAt b (i * 16 + 8) 1 < 2)
    && allZero (slice b (i * 16 + 9) 7)
    && decide (leAt b (i * 16) 4 + (((List.range 12).filter (· != pp)).map (fun q => claimedRate p q i)).sum ≤ capacityOf i))

/-- Buckets keep their credit, clamped to the new burst (R429). -/
def clampBuckets (p : Pkg) (pp : Nat) : Pkg :=
  modPc p pp (fun q => { q with credit := q.credit.map (fun e => (e.1, min e.2 ((regulator p pp (e.1 / 16)).2.1 : Int))) })

/-- Regions that a mask adds (R428). -/
def gained (p : Pkg) (pp mask : Nat) : List Nat :=
  (List.range 12).filter (fun r => bit mask r && !bit (rd p Ix.pcRegionMask pp) r)

/-- Whether a region's stack holds a range or pool of another partition (R428). -/
def regionInUse (p : Pkg) (pp r : Nat) : Bool :=
  (List.range 12).any (fun q => q != pp && stackUsedBy p q r)

/-- A write of `pc_region_mask` (R413, R428): busy 0x11E0; a bit above 11, held by another partition or hidden 0x1102; a
fifth partition without its licence 0x11E3; a region in use 0x1104; a gained region's SRAM is zeroed and its counters
cleared. -/
def writeRegionMask (p : Pkg) (pp mask : Nat) : Pkg × Answer :=
  let st := pcState p pp
  let others := (List.range 12).filter (fun q => q != pp && rd p Ix.pcRegionMask q != 0)
  if st ≠ 0 ∧ st ≠ 1 ∧ st ≠ 7 then refuse p { abort := 7, status := 0x11E0 }
  else if 4096 ≤ mask ∨ (List.range 12).any (fun r => bit mask r &&
      (regionHidden p r || others.any (fun q => bit (rd p Ix.pcRegionMask q) r))) then refuse p (invalid 0x1102)
  else if mask ≠ 0 ∧ 4 ≤ others.length ∧ granted p 2 = false then refuse p { abort := 9, status := 0x11E3 }
  else if (gained p pp mask).any (regionInUse p pp) then refuse p (invalid 0x1104)
  else
    let g := gained p pp mask
    let p := clearRegionBlocks (zeroSram p g) g
    let p := touch (wr p Ix.pcRegionMask pp mask) Ix.pcRegionOwner 0
    (if mask = 0 then setPcState p pp 0 else if st = 0 then setPcState p pp 1 else p, accepted)

/-- `pc_region_owner` (0x6018): per region its partition, 0xFF idle, 0xFE hidden. -/
def regionOwnerBytes (p : Pkg) : Bytes :=
  (List.range 12).map (fun r => if regionHidden p r then 0xFE#8 else match partOfRegion p r with
    | some pp => BitVec.ofNat 8 pp
    | none => 0xFF#8)

end Sys2Proof.Machine
end

