-- ==== Sys2Proof/Machine/Power.lean ====
section
/-! DEFINITION. Chapter 20: rack time, supply sag, monitors, regulation, the rack cap, droop and heat. -/

namespace Sys2Proof.Machine

/-- One rack tick (R483, R484): the count goes on from the pulse, or from RCLK alone when it is missing; a count held
above the rack's tick waits for it (R485), so rack time never steps backwards. -/
def Clock.onTick (c : Clock) (pulse : Bool) : Clock :=
  if !c.running then c
  else
    let missed := if pulse then 0 else c.missed + 1
    match c.heldFor with
    | some t =>
      if c.tick < t + 1 then { c with tick := t + 1, rclk := 0, heldFor := none, missed := missed }
      else { c with heldFor := some (t + 1), missed := missed }
    | none => { c with tick := c.tick + 1, rclk := 0, missed := missed }

/-- Takes the rack's tick from a complete frame (R484, R485): forward in one step, or held until the rack reaches it. -/
def Clock.adopt (c : Clock) (tick : Nat) : Clock :=
  if !c.running then { c with running := true, tick := tick, rclk := 0, adopted := true }
  else if c.tick < tick then { c with tick := tick, rclk := 0, adopted := true, heldFor := none, missed := 0 }
  else if c.tick = tick then { c with adopted := true, heldFor := none, missed := 0 }
  else { c with adopted := true, heldFor := some tick, missed := 0 }

/-- One RCLK cycle of 10 ns, the count held at 99,999 until the next pulse (R483). -/
def Clock.cycle (c : Clock) : Clock := if c.running then { c with rclk := min (c.rclk + 1) 99999 } else c

/-- A throttle reason becomes active (R500). -/
def reasonStart (p : Pkg) (i : Nat) : Pkg :=
  { p with pw := { p.pw with reasons := p.pw.reasons.mapIdx (fun k r =>
      if k = i ∧ r.active = false then { r with active := true, lastStartNs := p.now, lastDurationNs := 0 } else r) } }

/-- A throttle reason ends (R500). -/
def reasonEnd (p : Pkg) (i : Nat) : Pkg :=
  { p with pw := { p.pw with reasons := p.pw.reasons.mapIdx (fun k r =>
      if k = i ∧ r.active = true then
        { r with active := false, lastDurationNs := p.now - r.lastStartNs,
                 cumulativeNs := r.cumulativeNs + (p.now - r.lastStartNs) }
      else r) } }

/-- `pw_throttle_reasons` (R500): six records; an active reason's duration runs. -/
def throttleBytes (p : Pkg) : Bytes :=
  p.pw.reasons.flatMap (fun r =>
    let d := if r.active then p.now - r.lastStartNs else r.lastDurationNs
    leBytes 8 (if r.active then r.cumulativeNs + d else r.cumulativeNs) ++ leBytes 8 r.lastStartNs ++ leBytes 8 d
      ++ [if r.active then 1 else 0] ++ List.replicate 7 0)

/-- Rate of the slow regulator for an island in 1/32 of nominal; never below a quarter (R492). -/
def regulatorRate (p : Pkg) (i : Nat) : Nat := tget p.pw.freq32 i 32

/-- Rate at which an island may run for heat, in 1/32 of nominal; never below a quarter (R499). -/
def heatRate (p : Pkg) (i : Nat) : Nat := tget p.pw.heat32 i 32

/-- Frequency of an island in 1/32 of nominal: the lower of the two rates (R501). -/
def islandFreq (p : Pkg) (i : Nat) : Nat := min (regulatorRate p i) (heatRate p i)

/-- Region islands show their clock in kHz (0x7023), stretched by 25 or 50 % of the period during a droop (R498). -/
def showFreq (p : Pkg) (i : Nat) : Pkg :=
  if i < 12 then wr p Ix.pwIslandFreqKhz i (105000000 * islandFreq p i / (32 * (100 + (tget p.pw.droop i (0, 0)).1))) else p

/-- Sets the regulator's rate of an island. -/
def setFreq (p : Pkg) (i f : Nat) : Pkg := showFreq { p with pw := { p.pw with freq32 := tput p.pw.freq32 i f } } i

/-- Sets the rate of an island for heat. -/
def setHeat (p : Pkg) (i f : Nat) : Pkg := showFreq { p with pw := { p.pw with heat32 := tput p.pw.heat32 i f } } i

/-- ALERT_N is low while the sag warning is asserted or an island is throttled for heat (R528). -/
def setAlert (p : Pkg) : Pkg :=
  { p with pins := { p.pins with alert := p.pw.sagActive || p.pw.thermal.any (fun e => e.2 != 0) } }

/-- The fast clamp acts at a limit (R493): the reference power is what the package drew before; issue is throttled in
proportion, j between 4 and 16 (assumption 13). -/
def clamp (p : Pkg) (limitW referenceW reason : Nat) : Pkg :=
  let j := if referenceW = 0 then 16 else max 4 (min 16 (16 * limitW / referenceW))
  reasonStart { p with pw := { p.pw with clampActive := true, clampLimitW := limitW, referenceW, clampIssue := j,
                                         clampDepth := 32 } } reason

/-- Power of a partition: its regions' powers of the last millisecond (0x7025). -/
def partitionPower (p : Pkg) (pp : Nat) : Nat := ((regionsOf p pp).map (rd p Ix.pwRegionPowerW)).sum

/-- Whether a partition is running and not chosen to pause (R495; states 3, 4 and 5 count as paused, R496). -/
def drawsPower (p : Pkg) (pp : Nat) : Bool := pcState p pp == 2 && !(part p pp).pc.powerPending

/-- Predicted power in tenths of a watt (R495): 70 % of each running partition's, and 25 W for each region of a paused
one. -/
def predictedTenths (p : Pkg) : Nat :=
  ((List.range 12).map (fun pp =>
    if drawsPower p pp then 7 * partitionPower p pp
    else if pcState p pp = 0 ∨ pcState p pp = 1 ∨ pcState p pp = 7 then 0
    else 250 * (regionsOf p pp).length)).sum

/-- The next partition to pause (R421): lowest share, ties to the higher number. -/
def nextToPause (p : Pkg) : Option Nat :=
  (List.range 12).foldl (fun best pp =>
    if !drawsPower p pp then best
    else match best with
      | none => some pp
      | some b => if rd p Ix.pcShare pp ≤ rd p Ix.pcShare b then some pp else some b) none

/-- A power pause (R496): at the partition's next boundary, through the lead for a rack partition. -/
def powerPause (p : Pkg) (pp : Nat) : Pkg :=
  let p := { p with pw := { p.pw with clampedW := tput p.pw.clampedW pp (7 * partitionPower p pp / 10) } }
  let p := modPc p pp (fun q => { q with powerPending := true })
  if isRack p pp && !isLead p pp then emit p (.pauseRequest (leadOf p pp) pp false) else p

/-- Chooses partitions to pause, one at a time, until the prediction meets the cap (R495). -/
def choosePauses : (fuel : Nat) → Pkg → Pkg
  | 0, p => p
  | fuel + 1, p =>
    if predictedTenths p ≤ 10 * rd p Ix.pwRackCapW 0 then p
    else match nextToPause p with
      | none => p
      | some pp => choosePauses fuel (powerPause p pp)

/-- Watts that bind while the cap clamps (R501): the lower of the cap and, during a supply sag, of its limit. -/
def capLimit (p : Pkg) : Nat :=
  if p.pw.sagActive then min (rd p Ix.pwRackCapW 0) (rd p Ix.pwSagPowerW 0) else rd p Ix.pwRackCapW 0

/-- Holds the cap in force against the power of the last millisecond (R495, R496, R501). -/
def evaluateCap (p : Pkg) : Pkg :=
  let cap := rd p Ix.pwRackCapW 0
  let power := rd p Ix.pwInputPowerW 0
  let st := rd p Ix.pwCapState 0
  if power ≤ cap then
    if st = 2 then raisePw (wr p Ix.pwCapState 0 1) 0x1413 0xFF 0xFFFFFFFF
    else if st = 1 then reasonEnd (wr p Ix.pwCapState 0 0) 2
    else reasonEnd p 2
  else
    let ref := if p.pw.clampActive then p.pw.referenceW else power
    let p := clamp p (capLimit p) ref 2
    if 10 * cap < 7 * ref then
      let p := if st = 2 then p else raisePw (wr p Ix.pwCapState 0 2) 0x1412 0xFF 0xFFFFFFFF
      choosePauses 12 p
    else wr p Ix.pwCapState 0 1

/-- Applies a cap accepted since the last tick (R494). -/
def applyCap (p : Pkg) : Pkg :=
  match p.pw.capPending with
  | none => p
  | some (w, epoch, hold) =>
    let p := { p with pw := { p.pw with capPending := none, capAcceptedNs := p.now } }
    let p := wr (wr p Ix.pwRackCapW 0 w) Ix.pwCapHoldMs 0 hold
    match epoch with
    | none => p
    | some e => wr p Ix.pwCapEpoch 0 e

/-- Accepts a cap (R494): above 2,800 W counts as 2,800 W, below 800 W is refused; in force from the next tick. The epoch of a message
that a later write overtakes within the tick stays (R501). -/
def acceptCap (p : Pkg) (watts : Nat) (epoch : Option Nat) (hold : Nat) : Pkg × Answer :=
  if watts < 800 then (last p Ix.pwLastStatus 0 0x1401, invalid 0x1401)
  else ({ p with pw := { p.pw with capPending := some (min watts 2800, epoch.or (p.pw.capPending.bind (fun c => c.2.1)), hold) } }, accepted)

/-- The rack key installed since the last tick comes into force (R510). -/
def applyRackKey (p : Pkg) : Pkg :=
  match p.bt.pendingRackKey with
  | none => p
  | some (e, k) =>
    wrKept { p with bt := { p.bt with pendingRackKey := none },
                    flash := { p.flash with rackKeys := (e, k) :: p.flash.rackKeys.take 1 } } Ix.btRackKeyEpoch 0 e

/-- One more powered millisecond; completed seconds are counted (R455), and those of requalifying (R456). -/
def countPowered (p : Pkg) : Pkg :=
  if p.bt.poweredMs + 1 < 1000 then { p with bt := { p.bt with poweredMs := p.bt.poweredMs + 1 } }
  else requalifySecond <| wrKept { p with bt := { p.bt with poweredMs := 0 } } Ix.btPoweredS 0 (rd p Ix.btPoweredS 0 + 1)

/-- Two missing pulses in a row lose the reference (R484). -/
def referenceCheck (c : Clock) (p : Pkg) : Pkg :=
  if c.missed = 2 ∧ rd p Ix.pwRefState 0 = 0 then raisePw (wr p Ix.pwRefState 0 1) 0x1419 0xFF 0xFFFFFFFF else p

/-- 16 bits of a signed reading. -/
def i16Bytes (v : Int) : Bytes := leBytes 2 (v % 65536).toNat

/-- Hottest sensor of a list, in 1/16 °C. -/
def hottest (l : List Int) : Int := l.foldl max (-32768)

/-- An island whose hottest sensor reads below 94.0 °C leaves the thermal answer (R499). -/
def coolIsland (p : Pkg) (i : Nat) (t : List Int) : Pkg :=
  if hottest t < 94 * 16 then { p with pw := { p.pw with thermal := tput p.pw.thermal i 0 } } else p

/-- A signed reading of 16 bits. -/
def readI16 (b : Bytes) (o : Nat) : Int := (BitVec.ofNat 16 (leAt b o 2)).toInt

/-- The four temperatures of X-die `x` in the die monitors (0x7030): its record of 18 bytes follows the four C-dies'
records of 6. -/
def dieTemps (b : Bytes) (x : Nat) : List Int := [0, 2, 4, 6].map (fun o => readI16 b (24 + 18 * x + o))

/-- X-die islands 12 and 13 answer to their die's sensors. -/
def sampleDie (b : Bytes) (p : Pkg) (x : Nat) : Pkg :=
  if b.length < 24 + 18 * (x + 1) then p else coolIsland p (12 + x) (dieTemps b x)

/-- Readings of one region (R490, 0x7020 to 0x7025). -/
def sampleRegion (m : MonitorReadings) (p : Pkg) (r : Nat) : Pkg :=
  let p := match m.temps[r]? with
    | none => p
    | some t => coolIsland (wrB p Ix.pwRegionTemp r (t.flatMap i16Bytes)) r t
  let p := match m.volts[r]? with
    | none => p
    | some v => wrB p Ix.pwRegionVoltage r (leBytes 2 v.1 ++ leBytes 2 v.2)
  let p := match m.process[r]? with
    | none => p
    | some v => wr p Ix.pwRegionProcess r (v % 4294967296).toNat
  match m.powerW[r]? with
  | none => p
  | some w => wr p Ix.pwRegionPowerW r w

/-- The thermal reason ends once heat reduces no island's rate (R500). -/
def endThermal (p : Pkg) : Pkg := if (List.range 14).any (fun i => decide (heatRate p i < 32)) then p else reasonEnd p 0

/-- A cooled island's rate rises by 1/32 of nominal every 1 ms (R499). -/
def heatRise (p : Pkg) : Pkg :=
  endThermal ((List.range 14).foldl (fun p i =>
    if tget p.pw.thermal i 0 = 0 ∧ heatRate p i < 32 then setHeat p i (heatRate p i + 1) else p) p)

/-- The average-cap reason ends once neither the regulator nor the clamp reduces any island's rate (R500). -/
def endAverage (p : Pkg) : Pkg :=
  if p.pw.clampActive || (List.range 14).any (fun i => decide (regulatorRate p i < 32)) then p else reasonEnd p 1

/-- The clamp releases by 1/32 of its depth per millisecond once the slow regulator holds the limit (R493), and not during a supply sag
(R488). -/
def releaseClamp (p : Pkg) : Pkg :=
  if !p.pw.clampActive || p.pw.sagActive then p
  else if p.pw.clampDepth ≤ 1 then
    reasonEnd { p with pw := { p.pw with clampActive := false, clampDepth := 0, clampIssue := 16 } } 5
  else
    let d := p.pw.clampDepth - 1
    let j := 16 - (16 - p.pw.clampIssue) * d / p.pw.clampDepth
    { p with pw := { p.pw with clampDepth := d, clampIssue := j } }

/-- Watts that a limit of R487 allows: average, excursion, excursion length, current, rack cap, supply sag. -/
def limitWatts (p : Pkg) (limit : Fin 6) : Nat :=
  if limit = 0 then rd p Ix.pwAvgLimitW 0
  else if limit = 1 then 3600
  else if limit = 2 then 2800
  else if limit = 3 then 60 * rd p Ix.pwInputVoltageMv 0 / 1000
  else if limit = 4 then rd p Ix.pwRackCapW 0
  else rd p Ix.pwSagPowerW 0

/-- Reason of R500 that a limit of R487 counts under: excursions count under average cap. -/
def limitReason (limit : Fin 6) : Nat := if limit = 3 then 5 else if limit = 4 then 2 else if limit = 5 then 4 else 1

/-- The next partition to resume (R497): highest share, ties to the lower number; none in Drydown, where RESUME is refused (R460). -/
def nextToResume (p : Pkg) : Option Nat :=
  if rd p Ix.ruDrydownState 0 ≠ 0 then none
  else (List.range 12).foldl (fun best pp =>
    if !bit (rd p Ix.pwPowerPaused 0) pp then best
    else match best with
      | none => some pp
      | some b => if rd p Ix.pcShare b < rd p Ix.pcShare pp then some pp else some b) none

end Sys2Proof.Machine
end

