-- ==== Sys2Proof/Machine/TpFaults.lean ====
section
/-! DEFINITION. Chapters 2 and 3: faults of cells, blocks and regions and what the package does about them (R42 to R47,
R73, R77). -/

namespace Sys2Proof.Machine

/-- Fails the running step of a block's partition (R443, cause 6). -/
def failStep (p : Pkg) (pp b : Nat) : Pkg := causeRollback p pp 6 (b / 8) b (blk p b).index 0

/-- A block reports a status, and the address of a bad operand word, to the Partition Controller (R46, R73). -/
def blockReports (p : Pkg) (pp b status addr : Nat) : Pkg := modPc p pp (fun q => { q with blockReport := some (b, status, addr) })

/-- A pass stops with a status (R46): the block stops and reports the address of the operand, and the step rolls back (R443). -/
def stopPass (p : Pkg) (b status addr : Nat) : Pkg :=
  let p := stopBlock p b status
  match partOfBlock p b with
  | none => p
  | some pp => failStep (blockReports p pp b status addr) pp b

/-- The partition's running step fails and is discarded, and the partition halts with the code (R73). -/
def failAndHalt (p : Pkg) (pp b code : Nat) : Pkg :=
  let p := modPc p pp (fun q => { q with stepFailed := some code })
  let p := failStep (blockReports p pp b code 0) pp b
  if pcState p pp = 6 ∨ pcState p pp = 7 then p else haltPartition p pp code

/-- A rejection, or a code that R73 treats as one: the block stops, the step fails and is discarded, and the partition
halts with the code. -/
def passFail (p : Pkg) (b code : Nat) : Pkg :=
  let p := stopBlock p b code
  match partOfBlock p b with
  | none => p
  | some pp => failAndHalt p pp b code

/-- Fences a region (R45): accesses from elsewhere complete with 0x0106, its blocks stop, and a partition that owns it
is reset (R429). -/
def fenceRegion (p : Pkg) (r status : Nat) : Pkg :=
  if p.tp.fenced.contains r || regionHidden p r then p
  else
    let p := recordHistory { p with tp := { p.tp with fenced := p.tp.fenced ++ [r] } } 3 1 r status (stepOfRegion p r)
    let p := (blocksOfRegion r).foldl (fun p b => stopBlock p b status) p
    match partOfRegion p r with
    | none => p
    | some pp => if pcState p pp = 0 then p else beginReset p pp status true

/-- A block that cannot continue (R43, R44): recorded, the step fails, and the region hides the block; where it cannot fold
further it is fenced with 0x0109 (R45). -/
def blockFault (p : Pkg) (b status : Nat) : Pkg :=
  let limit := 4 ≤ hiddenBlocks p (b / 8)
  let p := stopBlock (recordHistory p 2 1 b status (stepOfRegion p (b / 8))) b status
  let p := match partOfBlock p b with
    | none => p
    | some pp => failStep (blockReports p pp b status 0) pp b
  if limit then hideAtRun (fenceRegion p (b / 8) 0x0109) b else hideAtRun p b

/-- A second uncorrectable error of a cell in one pass (R43): it is hidden at runtime; the block faults instead where that
would be its third hidden cell or where runtime hiding is off. -/
def escalateCell (p : Pkg) (cell : Nat) : Pkg :=
  if rd p Ix.tpRuntimeHideEnable 0 = 0 ∨ 2 ≤ hiddenCellCount p (cell / 8) then blockFault p (cell / 8) 0x010C
  else hideCell (last (recordHistory p 1 1 cell 0x0102 (stepOfRegion p (cell / 64))) Ix.regionLastStatus (cell / 64) 0x0102) cell 2

/-- BAD_OPERAND_WORD (R46): the pass stops with 0x01E4 for poison, 0x0103 for an uncorrectable SRAM word, 0x010B for any
other error completion. -/
def operandStatus (sramUncorrectable : Bool) (completion : Nat) : Nat :=
  if sramUncorrectable then 0x0103 else if completion % 256 = 0xE4 then 0x01E4 else 0x010B

/-- Cells of a block that `cell_hide` asks to hide and that are not hidden yet (R50). -/
def pendingHides (p : Pkg) (b : Nat) : List Nat :=
  ((List.range 8).map (fun i => b * 8 + i)).filter (fun c => rdAt p Ix.cellHide (c / 64) (c % 64) == 1 && !cellHidden p c)

/-- A cell hidden at runtime passes the structural test (R43, R474): it returns to service unless the history makes it permanent. -/
def returnCell (failures : List FailedUnit) (p : Pkg) (c : Nat) : Pkg :=
  if rdAt p Ix.cellState (c / 64) (c % 64) ≠ 2 ∨ failures.any (fun f => f.kind == 1 && f.unit == c) = true
      ∨ unitPermanent p.flash.history 1 c = true then p
  else
    let m := rd p Ix.blockHiddenCells (c / 8)
    showHidden (wr (wrAt p Ix.cellState (c / 64) (c % 64) 0) Ix.blockHiddenCells (c / 8) (if bit m (c % 8) then m - 2 ^ (c % 8) else m))

/-- A block hidden at runtime passes the structural test (R43): it returns unless the history makes it permanent. -/
def returnBlock (failures : List FailedUnit) (p : Pkg) (b : Nat) : Pkg :=
  if !p.tp.hiddenAtRun.contains b || failures.any (fun f => f.kind == 2 && f.unit == b) || unitPermanent p.flash.history 2 b then p
  else
    let p := wr { p with tp := { p.tp with hiddenAtRun := p.tp.hiddenAtRun.filter (· != b) } } Ix.blockState b 0
    showUnits (setAct p b 0) (b / 8)

/-- The structural test of a region decides on the units hidden there at runtime (R43, R425, R474). -/
def returnUnits (failures : List FailedUnit) (p : Pkg) (r : Nat) : Pkg :=
  ((blocksOfRegion r).foldl (returnBlock failures) ((List.range 64).foldl (fun p c => returnCell failures p (r * 64 + c)) p))

/-- Cells that `cell_hide` names are hidden from the block's next pass (R50). -/
def applyHides (p : Pkg) (b : Nat) : Pkg := (pendingHides p b).foldl (fun p c => hideCell p c 4) p

/-- CELL_HIDE_WRITE (R50): 1 hides the cell from its block's next pass; refused with 0x010D for a third hidden cell. -/
def cellHideWrite (p : Pkg) (region cell value : Nat) : Pkg × Answer :=
  let c := region * 64 + cell
  if value = 0 then (wrAt p Ix.cellHide region cell 0, accepted)
  else if value ≠ 1 then refuse p (invalid 0x1006)
  else if cellHidden p c || (pendingHides p (c / 8)).contains c then (wrAt p Ix.cellHide region cell 1, accepted)
  else if 2 ≤ hiddenCellCount p (c / 8) + (pendingHides p (c / 8)).length then refuse (last p Ix.regionLastStatus region 0x010D) (invalid 0x010D)
  else (wrAt p Ix.cellHide region cell 1, accepted)

end Sys2Proof.Machine
end

