-- ==== Sys2Proof/Machine/ChannelFaults.lean ====
section
/-! DEFINITION. Chapter 10: channels of HBM4 stacks and DDR5 DIMMs that fail, and scrubbing (R247, R260 to R263). -/

namespace Sys2Proof.Machine

/-- The writes held for a fill inside a range that has become absent complete with a status (R260, R262, R263). -/
def dropHeld (p : Pkg) (base n : Nat) (status : Nat → Nat) : Pkg :=
  let inside := fun (t : Txn) => decide (base ≤ t.addr) && decide (t.addr < base + n)
  (p.tm.held.filter inside).foldl (fun p t => completeHere p t (status t.addr))
    { p with tm := { p.tm with held := p.tm.held.filter (fun t => !inside t) } }

/-- Forgets the bad lines of a stack or of a channel (R260). -/
def forgetBadLines (p : Pkg) (ddr : Bool) (unit : Nat) : Pkg :=
  { p with tm := { p.tm with badLines := p.tm.badLines.filter (fun e =>
      if ddr then e.1 != 0x400 + unit else decide (0x400 ≤ e.1) || e.1 / 32 != unit) } }

/-- STACK_FAILURE (R262): a second channel fails: every offset is absent, and the region is fenced with 0x0A04 (R45). What is queued for the
channel completes with 0x0A02 (R260), the rest of the stack's with 0x0A04. -/
def failStack (p : Pkg) (s ch : Nat) : Pkg :=
  let pp := (partOfRegion p s).getD 0xFF
  let p := recordHistory p 4 1 (ch * 256 + s) 0x0A10 (if pp < 12 then stepOf p pp else 0)
  let p := wrAt (wr (raise p 0x0A10 pp (ch * 256 + s) 0) Ix.hbStackState s 4) Ix.hbChannelState s ch 1
  let p := dropHeld { p with tm := { p.tm with poisonFill := tdel p.tm.poisonFill s } } (s * 0x001000000000) 0x001000000000
    (fun a => if hbChannel p s (a % 0x001000000000) = ch then 0x0A02 else 0x0A04)
  fenceRegion (reportLoss p pp 2 0 s (s * 0x001000000000) 0x001000000000) s 0x0A04

/-- CHANNEL_FAILURE (R260 to R263): of a DDR5 channel, or of one channel of an HBM4 stack. A channel that is empty, or has failed
already, cannot fail. -/
def failChannel (p : Pkg) (ddr : Bool) (unit ch : Nat) : Pkg :=
  let p := forgetBadLines p ddr unit
  if ddr then
    if rd p Ix.ddChannelState unit ≤ 1 then
      failDdr (dropHeld p (0x010000000000 + unit * 0x002000000000) 0x002000000000 (fun _ => 0x0B02)) unit
    else p
  else if 12 ≤ unit ∨ regionHidden p unit = true ∨ rdAt p Ix.hbChannelState unit ch = 1 then p
  else match rd p Ix.hbStackState unit with
    | 0 => failHbmFirst p unit ch
    | 2 => failStack p unit ch
    | 3 => failStack p unit ch
    | _ => p

/-- Whether the lines of one channel in which reads found uncorrectable words lie in enough numbers within the window
(R260). -/
def linesFail (p : Pkg) (e : Nat × List (Nat × Nat)) : Bool :=
  let ddr := decide (0x400 ≤ e.1)
  let window := 1000000 * (if ddr then rd p Ix.ddChannelFailWindowMs 0 else rd p Ix.hbChannelFailWindowMs 0)
  let lines := if ddr then rd p Ix.ddChannelFailLines 0 else rd p Ix.hbChannelFailLines 0
  decide (lines ≤ (e.2.filter (fun l => decide (p.now ≤ l.2 + window))).length)

/-- Fails every channel whose reads have met the first case of R260. -/
def failBadChannels (p : Pkg) : Pkg :=
  (p.tm.badLines.filter (linesFail p)).foldl (fun p e =>
    if 0x400 ≤ e.1 then failChannel p true (e.1 - 0x400) 0 else failChannel p false (e.1 / 32) (e.1 % 32)) p

/-- One word that a scrub meets (R247): a corrected word is rewritten clean and counted, an uncorrectable one is rewritten as
poisoned; a poisoned one is counted and stays, its one-bit error corrected (R245). -/
def scrubWord (p : Pkg) (e : Nat × StoredWord) : Pkg :=
  match decodeWord e.2 with
  | .data d corrected =>
    if corrected then countMoved (countWord { p with mem := storeWord p.mem e.1 (encodeWord d) } (4 * e.1) 0) (4 * e.1) 4 else p
  | .poisoned corrected =>
    let p := countWord { p with mem := poisonAt p.mem e.1 } (4 * e.1) 2
    if corrected then countMoved (countWord p (4 * e.1) 0) (4 * e.1) 4 else p
  | .uncorrectable => noteBadLine (countMoved (countWord { p with mem := poisonAt p.mem e.1 } (4 * e.1) 1) (4 * e.1) 4) (4 * e.1)

/-- SCRUB_PASS (R247): every line of a stack or DIMM is read once and counted; words that a poison fill has passed over read as poison. Words below a zero fill's or above a poison fill's frontier
hold what the fill makes them. -/
def scrub (p : Pkg) (ddr : Bool) (unit : Nat) : Pkg :=
  let off := if ddr then rd p Ix.ddScrubPeriodH 0 == 0 || rd p Ix.ddChannelState unit != 0
    else decide (12 ≤ unit) || rd p Ix.hbScrubPeriodH unit == 0 || regionHidden p unit || rd p Ix.hbStackState unit == 4
  if off then p
  else
    let base := if ddr then 0x010000000000 + unit * 0x002000000000 else unit * 0x001000000000
    let n := if ddr then 0x002000000000 else 0x001000000000
    let size := if !ddr && rd p Ix.hbStackState unit != 0 then 62 * 2 ^ 30 else n
    let raw := p.mem.raw.filter (fun e => decide (base ≤ 4 * e.1) && decide (4 * e.1 < base + size))
    let fills := p.mem.fills.filter (fun f => decide (base ≤ f.1) && decide (f.1 < base + size))
    let filled := (fills.map (·.2 / 4)).sum - (raw.filter (fun e => inFill p.mem e.1)).length
    let p := countMoved (bump p (if ddr then Ix.ddPoisonReads else Ix.hbPoisonReads) unit filled) base size
    raw.foldl scrubWord p

end Sys2Proof.Machine
end

