-- ==== Sys2Proof/Machine/RegOps.lean ====
section
/-! DEFINITION. The control window (R237): the registers of the Serving Scheduler, Stream Egress, the Tier Manager, the
Reliability Unit, the DMA engine and the event ring, and what a store, an atomic or a read of each does. -/

namespace Sys2Proof.Machine

/-- Register areas of the control window (R237). -/
inductive Reg where
  | intake (pp : Nat)
  | cancel (pp : Nat)
  | completion (pp : Nat)
  | emitConsumed (pp ring : Nat)
  | mailbox
  | poison (pp : Nat)
  | report (pp : Nat)
  | dma (channel offset : Nat)
  | event
  | playHead (pp stream : Nat)
  | none
  deriving DecidableEq, Repr

/-- The register at an offset of the control window (R186, R220, R225, R237, R256, R292, R369, R442). -/
def regAt (o : Nat) : Reg :=
  if 0x60000 ≤ o ∧ o < 0x60C00 then
    (match o % 0x100 with
     | 0x00 => .intake ((o - 0x60000) / 0x100)
     | 0x08 => .cancel ((o - 0x60000) / 0x100)
     | 0x10 => .completion ((o - 0x60000) / 0x100)
     | _ => .none)
  else if 0x70000 ≤ o ∧ o < 0x70C00 ∧ o % 0x100 < 0x80 ∧ o % 8 = 0 then .emitConsumed ((o - 0x70000) / 0x100) (o % 0x100 / 8)
  else if o = 0x90000 then .mailbox
  else if 0xA0000 ≤ o ∧ o < 0xA0C00 then
    (match o % 0x100 with
     | 0x00 => .poison ((o - 0xA0000) / 0x100)
     | 0x20 => .report ((o - 0xA0000) / 0x100)
     | _ => .none)
  else if 0x1000000 ≤ o ∧ o < 0x1010000 then .dma ((o - 0x1000000) / 0x100) (o % 0x100)
  else if o = 0x2000000 then .event
  else if 0x4000000 ≤ o ∧ o < 0x4600000 ∧ o % 8 = 0 then .playHead ((o - 0x4000000) / 0x80000) (o % 0x80000 / 8)
  else .none

/-- Rows of a length table (R113): 32 bytes each after the header. -/
def tableRows (t : Bytes) : List Bytes := (records 32 (t.drop 64)).take (leAt t 0 4)

/-- LT rows of a request in a table (R114). -/
def ltRows (t : Bytes) (handle : Nat) : List Nat :=
  (tableRows t).flatMap (fun r =>
    if leAt r 0 4 = handle then (List.range (leAt r 8 2)).map (fun i => 16 * leAt r 12 4 + i) else [])

/-- The table of an engine, and its row mask as a set of LT rows (R198, R200). -/
def tableOf (p : Pkg) (pp e : Nat) : Bytes := (part p pp).sc.tables.getD e []
def maskOf (p : Pkg) (pp e : Nat) : List Nat := (part p pp).sc.masks.getD e []

/-- Sets bits of the row masks (R200). -/
def maskRows (p : Pkg) (pp : Nat) (gen pre : List Nat) : Pkg :=
  let add := fun (m l : List Nat) => m ++ l.filter (fun r => !m.contains r)
  let p := modSc p pp (fun q => { q with masks := [add (q.masks.getD 0 []) gen, add (q.masks.getD 1 []) pre] })
  touch p Ix.scRowMask pp

/-- The step that the tables in hand serve (R198, R200): the step about to start once action 6 has built them, else the running one. -/
def tablesStep (p : Pkg) (pp : Nat) : Nat :=
  match (part p pp).sc.starting with
  | some n => n.step
  | none => (part p pp).sc.running.step

/-- Marks a request cancelled, stops its stream, masks its rows and sends the cancel notices (R209). -/
def cancelRequest (p : Pkg) (pp : Nat) (r : Req) : Pkg :=
  let p := modReq p pp r.handle (fun r => { r with cancelled := true })
  let p := if r.stream = 0xFFFFFFFF then p
    else putStream (modStream p pp r.stream (fun s => { s with state := 2 })) pp r.stream
  let gen := ltRows (tableOf p pp 0) r.handle
  let pre := ltRows (tableOf p pp 1) r.handle
  (otherMembers p pp).foldl (fun p m => emit p (.cancelNotice m pp (tablesStep p pp) gen pre)) (maskRows p pp gen pre)

/-- Client tag of an unread intake record (R188), 0 where it cannot be read. -/
def unreadTag (p : Pkg) (pp seq : Nat) : Nat :=
  leAt (kvRead p (rd p Ix.scIntakeBase pp + 128 * (seq % max 1 (rd p Ix.scIntakeSlots pp)) + 4) 4) 0 4

/-- Adds the answer of a cancel word, which the next boundary writes (R210). -/
def answerCancel (p : Pkg) (pp status handle seq tag generated promptDone : Nat) : Pkg :=
  modSc (noteSc p pp status) pp (fun q => { q with answers := q.answers ++
    [{ bytes := completionBytes 3 0 status handle seq tag generated promptDone 0 }] })

/-- An accepted cancel word's effect (R209, R210): a live request, an unread record, or nothing live. -/
def takeCancel (p : Pkg) (pp : Nat) (w : Nat) : Pkg :=
  let q := (part p pp).sc
  let kind := w / 2 ^ 62
  let seq := w % 2 ^ 48
  match q.requests.find? (fun r => r.live && (if kind = 1 then r.handle == w % 2 ^ 32 else r.sequence == seq)) with
  | some r =>
    let p := if r.cancelled then p else cancelRequest p pp r
    answerCancel p pp 0 r.handle r.sequence (if kind = 1 then 0 else r.clientTag) r.generated r.promptDone
  | none =>
    if kind = 1 then answerCancel p pp 0x0603 (w % 2 ^ 32) 0 0 0 0
    else if rd p Ix.scIntakeConsumed pp ≤ seq ∧ seq < rd p Ix.scIntakePublished pp then
      let p := modSc p pp (fun q => { q with marked := if q.marked.contains seq then q.marked else q.marked ++ [seq] })
      answerCancel p pp 0 0xFFFFFFFF seq (unreadTag p pp seq) 0 0
    else answerCancel p pp 0x0603 0xFFFFFFFF seq 0 0 0

/-- A store to CANCEL_PORT (R186, R208): 0x060C on a package that is not the lead, 0x0607 for a word that breaks R208,
0x0606 while 64 words wait. A word stays in the port for the 0.3 µs of R209 step 1. -/
def cancelStore (p : Pkg) (pp w : Nat) : Pkg × Nat :=
  let bad := (w / 2 ^ 62 != 1 && w / 2 ^ 62 != 2) || bits w 61 48 != 0 || (w / 2 ^ 62 == 1 && bits w 47 32 != 0)
  if !isLead p pp then (last p Ix.scLastStatus pp 0x060C, 0x060C)
  else if bad then (last p Ix.scLastStatus pp 0x0607, 0x0607)
  else
    let p := modSc p pp (fun q => { q with cancelWords := q.cancelWords.filter (fun t => decide (p.now < t + 300)) })
    if 64 ≤ (part p pp).sc.cancelWords.length then (last p Ix.scLastStatus pp 0x0606, 0x0606)
    else (takeCancel (modSc p pp (fun q => { q with cancelWords := q.cancelWords ++ [p.now] })) pp w, 0)

/-- A flagged add to INTAKE_COUNTER (R187): event 0x0609 and no more intake once it runs more than the ring ahead. -/
def intakeAdd (p : Pkg) (pp n : Nat) : Pkg × Nat :=
  if !isLead p pp then (last p Ix.scLastStatus pp 0x060C, 0x060C)
  else
    let p := wr p Ix.scIntakePublished pp (rd p Ix.scIntakePublished pp + n)
    let ahead := rd p Ix.scIntakePublished pp - rd p Ix.scIntakeConsumed pp
    if rd p Ix.scIntakeSlots pp < ahead ∧ (part p pp).sc.overrun = false then
      (raise (last (modSc p pp (fun q => { q with overrun := true })) Ix.scLastStatus pp 0x0609) 0x0609 pp 0xFFFFFFFF 0, 0)
    else (p, 0)

/-- A write of 1 to `sc_intake_reset` (R187, R215): unread records are discarded, and cancels of them are answered
0x0603. -/
def intakeReset (p : Pkg) (pp : Nat) : Pkg :=
  let unread := fun (b : Bytes) => leAt b 2 2 == 0 && leAt b 4 4 == 0xFFFFFFFF && (part p pp).sc.marked.contains (leAt b 8 8)
  let p := if (part p pp).sc.answers.any (fun c => unread c.bytes) then last p Ix.scLastStatus pp 0x0603 else p
  let p := modSc p pp (fun q => { q with
    overrun := false, marked := [],
    answers := q.answers.map (fun c => if unread c.bytes then { c with bytes := overlay c.bytes 2 (leBytes 2 0x0603) } else c) })
  wr p Ix.scIntakeConsumed pp (rd p Ix.scIntakePublished pp)

/-- A store to COMPLETION_CONSUMED (R186, R212): held records may be written. -/
def completionConsumed (p : Pkg) (pp n : Nat) : Pkg := pumpCompletions (modSc p pp (fun q => { q with completionConsumed := n })) pp

/-- A store to EMIT_CONSUMED (R225, R231, R232). -/
def emitConsumedStore (p : Pkg) (pp ring n : Nat) : Pkg :=
  releaseHeld (modSe p pp (fun q => { q with consumed := tput q.consumed ring n })) pp

/-- A play-head word (R220, R221): stamped with rack time and evaluated at once; refused with 0x0702 where its stream is
absent, not VALID or unreadable, or a reserved bit is set. -/
def playHeadStore (p : Pkg) (pp n w : Nat) : Pkg × Nat :=
  let refused := fun (p : Pkg) => (last p Ix.seLastStatus pp 0x0702, 0x0702)
  if rd p Ix.seStreamCount pp ≤ n ∨ bits w 62 48 ≠ 0 then refused p
  else match readStream p pp n with
    | (p, none) => refused p
    | (p, some b) =>
      let p := modStream p pp n (fun s => { s with playedUs := w % 2 ^ 48, reportNs := p.now, playing := bit w 63 })
      (evaluate p pp n b, 0)

/-- A poison notice as a 32-byte record (R442). -/
def poisonOf (b : Bytes) : PoisonRecord :=
  { step := leAt b 0 4, rackId := leAt b 4 2, sender := leAt b 6 2, cause := leAt b 8 1, region := leAt b 9 1, block := leAt b 10 1,
    descriptor := leAt b 12 4, tile := leAt b 16 4, reserved := leAt b 11 1 + leAt b 20 12 }

/-- An audit report as a 32-byte record (R442). -/
def reportOf (b : Bytes) : ReportRecord :=
  { step := leAt b 0 4, sender := leAt b 4 2, verdict := leAt b 6 1, audited := leAt b 8 4, unaudited := leAt b 12 4,
    disagreements := leAt b 16 4, reserved := leAt b 7 1 + leAt b 20 12 }

/-- A TM message that reached the mailbox (R256): malformed ones are logged as violations; it acts at once (assumption 20). -/
def mailStore (p : Pkg) (b : Bytes) : Pkg × Nat := tmArrives p (tmMessageOf b)

/-- A store of bytes to an offset of the control window (R237, R341): the status of its completion. -/
def controlStore (p : Pkg) (o : Nat) (b : Bytes) (flag firmware : Bool) : Pkg × Nat :=
  match regAt o with
  | .cancel pp => if b.length = 8 then cancelStore p pp (leNat b) else (p, 0x0E05)
  | .completion pp => if b.length = 8 then (completionConsumed p pp (leNat b), 0) else (p, 0x0E05)
  | .emitConsumed pp r => if b.length = 8 then (emitConsumedStore p pp r (leNat b), 0) else (p, 0x0E05)
  | .mailbox => if b.length = 64 ∧ flag = true then mailStore p b else (p, 0x0E05)
  | .poison pp =>
    if b.length = 32 ∧ flag = true then (poisonArrives (modRu p pp (fun q => { q with poisonRegister := b })) pp (poisonOf b), 0)
    else (p, 0x0E05)
  | .report pp =>
    if b.length = 32 ∧ flag = true then (reportArrives (modRu p pp (fun q => { q with reportRegister := b })) pp (reportOf b), 0)
    else (p, 0x0E05)
  | .dma c off => if b.length = 8 ∨ b.length = 4 then dmaStore p c off (b.length == 8) (leNat b) firmware else (p, 0x0E05)
  | .event =>
    if b.length = 8 then (drainEvents 1025 { p with hi := { p.hi with consumed := leNat b } }, 0) else (p, 0x0E05)
  | .playHead pp n => if b.length = 8 then playHeadStore p pp n (leNat b) else (p, 0x0E05)
  | .intake _ => (p, 0x0E05)
  | .none => (p, 0x0E05)

/-- An atomic in the control window (R342): only a flagged 64-bit ADD to a register that takes one. The previous value is
answered. -/
def controlAtomic (p : Pkg) (o : Nat) (wide : Bool) (aop operand : Nat) (flag firmware : Bool) : Pkg × Nat × Nat :=
  if !wide || aop != 0 || !flag then (p, 0x0E05, 0)
  else match regAt o with
    | .intake pp =>
      let old := rd p Ix.scIntakePublished pp
      let r := intakeAdd p pp operand
      (r.1, r.2, old)
    | .dma c 0x80 =>
      if firmwareChannel c && !firmware then (p, 0x0C02, 0)
      else (producedAdd p c operand, 0, (chan p c).produced)
    | _ => (p, 0x0E05, 0)

/-- A read in the control window (R341). -/
def controlLoad (p : Pkg) (o n : Nat) : Except Nat Bytes :=
  match regAt o with
  | .intake pp => if n = 8 then .ok (leBytes 8 (rd p Ix.scIntakePublished pp)) else .error 0x0E05
  | .completion pp => if n = 8 then .ok (leBytes 8 (part p pp).sc.completionConsumed) else .error 0x0E05
  | .dma c off => dmaLoad p c off n
  | _ => .error 0x0E05

/-- Whether an address lies in the control window, and its offset there. -/
def controlOffset (a : Nat) : Option Nat := if 0x3FF000000000 ≤ a ∧ a ≤ 0x3FFFFFFFFFFF then some (a - 0x3FF000000000) else none

/-- Source numbers of package firmware (R335). -/
def firmwareSource (s : Nat) : Bool := decide (0x90 ≤ s) && decide (s < 0x98)

end Sys2Proof.Machine
end

