-- ==== Sys2Proof/Machine/RouterHome.lean ====
section
/-! DEFINITION. Chapter 6: the router layer table (R138), placement (R141, R142, R147), and the home side of a router: rows and end
notices that arrive for the experts placed here (R151 to R153). -/

namespace Sys2Proof.Machine

/-- A record of the router layer table (R138). -/
structure RouterLayer where
  experts : Nat := 0
  topK : Nat := 0
  mode : Nat := 0
  sources : Nat := 0
  counter : Nat := 0
  rowFmt : Nat := 0
  retFmt : Nat := 0
  hidden : Nat := 0
  srcStride : Nat := 0
  placement : Nat := 0
  sourceList : Nat := 0
  counters : Nat := 0
  planeStride : Nat := 0
  version : Nat := 0
  retBase : Nat := 0
  deriving DecidableEq, Repr

/-- Reads a record (R138). -/
def routerLayer (b : Bytes) : RouterLayer :=
  { experts := leAt b 0 2, topK := leAt b 2 1, mode := leAt b 3 1, sources := leAt b 4 1, counter := leAt b 5 1, rowFmt := leAt b 6 1,
    retFmt := leAt b 7 1, hidden := leAt b 8 4, srcStride := leAt b 12 4, placement := leAt b 16 8, sourceList := leAt b 24 8,
    counters := leAt b 32 8, planeStride := leAt b 40 4, version := leAt b 44 2, retBase := leAt b 48 8 }

/-- Record i of the table in force, if the layer is routed (R138). -/
def routerLayerAt (p : Pkg) (pp i : Nat) : Option RouterLayer :=
  let t := rdB p Ix.erLayerTable pp
  if i < leAt t 4 2 then
    let l := routerLayer (slice t (32 + 64 * i) 64)
    if l.experts = 0 then none else some l
  else none

/-- NEXT mode, its depth (0 under SKIP), sigmoid scores and normalised gates (R138). -/
def RouterLayer.depth (l : RouterLayer) : Nat := if bits l.mode 1 0 = 1 then bits l.mode 3 2 else 0
def RouterLayer.sigmoid (l : RouterLayer) : Bool := bit l.mode 4
def RouterLayer.normalised (l : RouterLayer) : Bool := bit l.mode 5

/-- Bytes of a dispatched row and of a returned row, and their pitches (R138). -/
def RouterLayer.rowBytes (l : RouterLayer) : Nat := elemBytes l.rowFmt l.hidden
def RouterLayer.rowPitch (l : RouterLayer) : Nat := alignUp l.rowBytes 64
def RouterLayer.retPitch (l : RouterLayer) : Nat := alignUp (elemBytes l.retFmt l.hidden) 64

/-- A placement record (R141). -/
structure Placement where
  package : Nat := 0
  region : Nat := 0
  blocks : Nat := 0
  offset : Nat := 0
  capacity : Nat := 0
  counter : Nat := 0
  valid : Bool := false
  deriving DecidableEq, Repr

/-- Reads a placement record (R141). -/
def placementOf (b : Bytes) : Placement :=
  { package := leAt b 0 2, region := leAt b 2 1, blocks := leAt b 3 1, offset := leAt b 4 4, capacity := leAt b 8 2, counter := leAt b 10 1,
    valid := bit (leAt b 11 1) 0 }

/-- Lead block of an expert, a global block number (R141). -/
def Placement.lead (r : Placement) : Nat := r.region * 8 + ((List.range 8).find? (bit r.blocks)).getD 0

/-- Global blocks that hold a copy of the receive buffer. -/
def Placement.copies (r : Placement) : List Nat := ((List.range 8).filter (bit r.blocks)).map (fun b => r.region * 8 + b)

/-- Whether a placement record is sound (R142), its expert valid or not. -/
def placementOk (l : RouterLayer) (b : Bytes) : Bool :=
  let r := placementOf b
  decide (leAt b 11 1 < 2) && leAt b 12 4 == 0
  && decide (r.package < 1024) && decide (r.region < 12) && r.blocks != 0 && r.offset % 64 == 0 && decide (1 ≤ r.capacity)
  && decide (l.sources ≤ r.capacity) && decide (r.counter < 64) && decide (r.offset + 64 + r.capacity * l.rowPitch ≤ 0x00C00000)

/-- Whether two valid experts share their lead block (R142). -/
def leadsClash (rs : List Placement) : Bool :=
  let ls := (rs.filter (·.valid)).map (fun r => r.package * 96 + r.lead)
  ls.eraseDups.length != ls.length

/-- Whether a source-list entry is sound (R141, R142). -/
def sourceOk (b : Bytes) : Bool := decide (leAt b 0 2 < 1024) && decide (leAt b 2 1 < 96) && allZero (slice b 3 5)

/-- Slots of source s in an expert of capacity c with n sources, and its first slot (R147). -/
def shareOf (c n s : Nat) : Nat := c / n + if s < c % n then 1 else 0
def shareBase (c n s : Nat) : Nat := s * (c / n) + min s (c % n)

/-- Reads the placement record of an expert and the source list entry of a source at the home (R142). -/
def homePlacement (p : Pkg) (l : RouterLayer) (e : Nat) : Option Placement :=
  match (loadLocal p (l.placement + 16 * e) 16 false).2 with
  | .ok b => if placementOk l b && (placementOf b).valid && e < l.experts then some (placementOf b) else none
  | .error _ => none

/-- Package of a source (R141). -/
def sourcePackage (p : Pkg) (l : RouterLayer) (s : Nat) : Nat :=
  match (loadLocal p (l.sourceList + 8 * s) 8 false).2 with
  | .ok b => leAt b 0 2
  | .error _ => 0xFFFF

/-- The receipt of an expert in a step. -/
def findReceipt (p : Pkg) (pp layer expert step : Nat) : Option Receipt :=
  (part p pp).er.receipts.find? (fun r => r.layer == layer && r.expert == expert && r.step == step)

/-- Changes the receipt of an expert in a step, which its first row or notice begins. -/
def modReceipt (p : Pkg) (pp layer expert step : Nat) (f : Receipt → Receipt) : Pkg :=
  modEr p pp (fun q =>
    if q.receipts.any (fun r => r.layer == layer && r.expert == expert && r.step == step) then
      { q with receipts := q.receipts.map (fun r => if r.layer == layer && r.expert == expert && r.step == step then f r else r) }
    else { q with receipts := q.receipts ++ [f { layer, expert, step }] })

/-- What the home router does with a row or a notice of a step (R153, R71). -/
inductive Turn where
  | take
  | hold
  | drop
  | refuse
  deriving DecidableEq, Repr

/-- Whether another layer table comes into force before a step (R159): one that is due then, or that an armed switch holds. -/
def tablePending (p : Pkg) (pp step : Nat) : Bool :=
  let key := keyAt Ix.erLayerTable 0 pp
  (match tfind p.dict.shadows key with
   | some (.bytes b) => b.isEmpty || leAt b 0 4 == step || stepAhead step (leAt b 0 4)
   | some _ => true
   | none => false)
  || ((tfind p.wm.arms pp).map (fun a => (tfind a.held key).isSome)).getD false

/-- Whether rows and notices of a step are accepted (R153, R159): those of the next step once the expert's PHASE 1 pass has completed and
the table that the step runs under is in force; those of the step that has been rolled back, or that no longer runs, are discarded. Before
the first step after START no step is current, and what is tagged with a later one than the last before the START waits (assumption 167). -/
def turnOf (p : Pkg) (pp layer expert step : Nat) : Turn :=
  let cur := stepOf p pp
  let running := (part p pp).pc.stepRunning
  if (part p pp).pc.firstStep then
    (match (blocksOf p pp).head?.map (fun b => (blk p b).beforeClear) with
     | some (some c) => if stepAhead step c then .hold else .drop
     | some none => .hold
     | none => .drop)
  else if step = cur then (if running && (part p pp).ru.poison.isNone then .take else .drop)
  else if step = (cur + 1) % 2 ^ 32 then
    (if !tablePending p pp step && (part p pp).ru.poison.isNone
        && (!running || ((findReceipt p pp layer expert cur).map (·.returned)).getD false) then .take else .hold)
  else if stepAhead step cur then .refuse
  else .drop

/-- Writes one row into every copy of its receive buffer (R151): the first status that is not 0. -/
def putRow (p : Pkg) (l : RouterLayer) (r : Placement) (row : DispatchedRow) : Pkg × Nat :=
  let slot := shareBase r.capacity l.sources row.source + row.rank
  r.copies.foldl (fun acc b =>
    let w := storeLocal acc.1 (sramBase b + r.offset + 64 + slot * l.rowPitch) row.data false true (0x80 + r.region) 0xFF row.step
    (w.1, if acc.2 = 0 then w.2 else acc.2)) (p, 0)

/-- A row that the router accepts (R151). -/
def acceptRow (p : Pkg) (pp : Nat) (row : DispatchedRow) : Pkg × Nat :=
  match routerLayerAt p pp row.layer with
  | none => (p, 0x0402)
  | some l => match homePlacement p l row.expert with
    | none => (p, 0x0403)
    | some r =>
      if l.sources ≤ row.source ∨ shareOf r.capacity l.sources row.source ≤ row.rank then (p, 0x0403)
      else
        let w := putRow p l r row
        if w.2 ≠ 0 then w
        else (modReceipt w.1 pp row.layer row.expert row.step (fun q => { q with rows := q.rows ++ [row] }), 0)

/-- Moves one row of a receive buffer copy (R152). A row that holds an unreadable word is poisoned whole at its destination (assumption 170:
the model's choice). -/
def moveRow (p : Pkg) (l : RouterLayer) (base src dest : Nat) : Pkg :=
  if src = dest then p
  else
    let a := base + 64 + dest * l.rowPitch
    let p := match loadLocal p (base + 64 + src * l.rowPitch) l.rowBytes false with
      | (p, .ok b) => (storeLocal p a b false false 0x080 0xFF 0).1
      | (p, .error _) => (storeLocal p a (List.replicate l.rowBytes 0) true false 0x080 0xFF 0).1
    p

/-- Rows of a receipt in compacted order: ascending source, then rank (R152). -/
def compactedRows (rows : List DispatchedRow) : List DispatchedRow :=
  sortBy (fun (a b : DispatchedRow) => decide (a.source < b.source) || (a.source == b.source && decide (a.rank < b.rank))) rows

/-- Compaction at the last end notice (R152): rows, tags, count lines and increments. A row moved counts its row pitch in each copy (R161;
assumption 169: the model's choice). -/
def compact (p : Pkg) (pp : Nat) (l : RouterLayer) (r : Placement) (q : Receipt) : Pkg :=
  let rows := compactedRows q.rows
  let moves := rows.zipIdx.map (fun e => (shareBase r.capacity l.sources e.1.source + e.1.rank, e.2))
  let p := r.copies.foldl (fun p b =>
    let base := sramBase b + r.offset
    let p := moves.foldl (fun p m => moveRow p l base m.1 m.2) p
    let p := (storeLocal p base (leBytes 4 rows.length ++ List.replicate 60 0) false false (0x80 + r.region) 0xFF q.step).1
    (incCounter p b r.counter l.sources q.step ((part p pp).ru.poison.isSome)).1) p
  let moved := (moves.filter (fun m => m.1 != m.2)).length * l.rowPitch * r.copies.length
  modReceipt (bump p Ix.erCompactionBytes pp moved) pp q.layer q.expert q.step (fun q => { q with tags := rows, compacted := true })

/-- An end notice that the router accepts (R151, R152). -/
def acceptNotice (p : Pkg) (pp : Nat) (n : EndNotice) : Pkg × Nat :=
  match routerLayerAt p pp n.layer with
  | none => (p, 0x0402)
  | some l => match homePlacement p l n.expert with
    | none => (p, 0x0403)
    | some r =>
      if l.sources ≤ n.source then (p, 0x0403)
      else
        let p := modReceipt p pp n.layer n.expert n.step (fun q =>
          if q.notices.any (fun e => e.1 == n.source) then q else { q with notices := q.notices ++ [(n.source, n.count)] })
        match findReceipt p pp n.layer n.expert n.step with
        | none => (p, 0)
        | some q => (if !q.compacted && q.notices.length == l.sources then compact p pp l r q else p, 0)

/-- The completion of a row or a notice at its source's package (R151, R153); this package's own need none. -/
def answerRoute (p : Pkg) (pp : Nat) (item : RouteItem) (status : Nat) : Pkg :=
  match routerLayerAt p pp item.layer with
  | none => p
  | some l =>
    let q := sourcePackage p l item.source
    if q = ownId p then p else emit p (.routeAnswer q pp item status)

/-- A row or a notice two or more steps ahead is refused, and counted as event 0x0157 (R69, R153). -/
def refuseEarly (p : Pkg) (pp layer expert : Nat) : Pkg :=
  match (routerLayerAt p pp layer).bind (fun l => homePlacement p l expert) with
  | some r => raiseAs p Ix.regionLastStatus r.region 0x0157 pp r.lead 0
  | none => raise p 0x0157 pp 0xFFFFFFFF 0

/-- A row arrives at the home router (R151, R153): the status of its store; none while it waits. -/
def rowArrives (p : Pkg) (pp : Nat) (row : DispatchedRow) : Pkg × Option Nat :=
  match turnOf p pp row.layer row.expert row.step with
  | .take => let r := acceptRow p pp row; (r.1, some r.2)
  | .hold => (modEr p pp (fun q => { q with heldRows := q.heldRows ++ [row] }), none)
  | .drop => (p, some 0)
  | .refuse => (refuseEarly p pp row.layer row.expert, some 0x0E0B)

/-- An end notice arrives (R151 to R153). -/
def noticeArrives (p : Pkg) (pp : Nat) (n : EndNotice) : Pkg × Option Nat :=
  match turnOf p pp n.layer n.expert n.step with
  | .take => let r := acceptNotice p pp n; (r.1, some r.2)
  | .hold => (modEr p pp (fun q => { q with heldNotices := q.heldNotices ++ [n] }), none)
  | .drop => (p, some 0)
  | .refuse => (refuseEarly p pp n.layer n.expert, some 0x0E0B)

/-- A row or a notice arrives. -/
def itemArrives (p : Pkg) (pp : Nat) : RouteItem → Pkg × Option Nat
  | .row r => rowArrives p pp r
  | .notice n => noticeArrives p pp n

/-- A row or a notice arrives and is answered, unless it waits (R151, R153); RESETTING while its partition resets (R355). -/
def takeItem (pp : Nat) (p : Pkg) (item : RouteItem) : Pkg :=
  if pcState p pp = 6 then answerRoute p pp item 0x0EE1
  else match itemArrives p pp item with
  | (p, some st) => answerRoute p pp item st
  | (p, none) => p

/-- Rows and notices that waited and may now be accepted are taken in the order of their arrival, rows first (R151, R153). -/
def releaseRoutes (p : Pkg) (pp : Nat) : Pkg :=
  let q := (part p pp).er
  (q.heldRows.map RouteItem.row ++ q.heldNotices.map RouteItem.notice).foldl (takeItem pp)
    (modEr p pp (fun q => { q with heldRows := [], heldNotices := [] }))

/-- The block of this package whose return area of a layer holds an address (R155). -/
def returnBlockIn (p : Pkg) (l : RouterLayer) (a : Nat) : Option Nat :=
  match (List.range l.sources).find? (fun s => decide (l.retBase + s * l.srcStride ≤ a)
      && decide (a < l.retBase + s * l.srcStride + l.topK * l.planeStride) && sourcePackage p l s == ownId p) with
  | none => none
  | some s => match (loadLocal p (l.sourceList + 8 * s) 8 false).2 with
    | .ok b => some (leAt b 2 1)
    | .error _ => none

/-- The partition and the source block to which an address returns (R155). -/
def returnTarget (p : Pkg) (a : Nat) : Option (Nat × Nat) :=
  (List.range 12).findSome? (fun pp => (List.range (leAt (rdB p Ix.erLayerTable pp) 4 2)).findSome? (fun i =>
    ((routerLayerAt p pp i).bind (fun l => returnBlockIn p l a)).map (fun b => (pp, b))))

/-- What the source region's router does with another router's write into a return area (R156, R153): that of the next step waits until
the source block starts the step, and one further ahead is refused. -/
def returnTurn (p : Pkg) (k : Packet) : Option (Nat × Turn) :=
  if k.type ≠ 1 ∨ k.srcUnit < 0x80 ∨ 0x8C ≤ k.srcUnit then none
  else (returnTarget p k.addr).map (fun e => (e.1, match (blk p e.2).step with
    | none => .hold
    | some s => if k.step = (s + 1) % 2 ^ 32 then .hold else if stepAhead k.step s then .refuse else .take))

/-- Returns that waited for a step's start are written (R156). -/
def releaseReturns (p : Pkg) (pp step : Nat) : Pkg :=
  let due := (part p pp).er.heldReturns.filter (fun k => !stepAhead k.step step)
  due.foldl (fun p k => completeHere p
      { source := 0x092, dest := ownId p, type := 1, addr := k.addr, data := if k.poison then List.replicate k.bytes 0 else k.data,
        bytes := k.bytes, poison := k.poison, step := k.step, purpose := .reply k } 0)
    (modEr p pp (fun q => { q with heldReturns := q.heldReturns.filter (fun k => stepAhead k.step step) }))

end Sys2Proof.Machine
end

