-- ==== Sys2Proof/Machine/Settle.lean ====
section
/-! DEFINITION. Chapter 14: what a home does with a load, a store, an atomic and an increment (R340 to R345, R424), what a
source does with a completion (R346, R351 to R354), and the wrappers with which every command ends. -/

namespace Sys2Proof.Machine

/-- Whether a partition absorbs requests (R355, R424). -/
def absorbing (p : Pkg) (pp : Option Nat) : Bool :=
  match pp with
  | some q => pcState p q == 6
  | none => false

/-- Partition that absorbs requests for an address in a reset (R424): that of its region's stack or SRAM, unless the region is fenced
and answers 0x0106 itself (R45), or of its control-window register. -/
def partOfAddr (p : Pkg) (a : Nat) : Option Nat :=
  match place a with
  | .t0 s _ => if p.tp.fenced.contains s then none else partOfRegion p s
  | .sram b _ => if p.tp.fenced.contains (b / 8) then none else partOfBlock p b
  | .control o =>
    match regAt o with
    | .intake pp | .cancel pp | .completion pp | .poison pp | .report pp => some pp
    | .emitConsumed pp _ | .playHead pp _ => some pp
    | .dma c _ => if rd p Ix.dmChannelPartition c < 12 then some (rd p Ix.dmChannelPartition c) else none
    | _ => none
  | _ => none

/-- A home's code for a word that is poisoned (R341); other codes stand. -/
def homeStatus (s : Nat) : Nat := if s % 256 = 0xE4 then 0x0EE4 else s

/-- A WRITE at its home (R340, R341, R345): the status of its answer. -/
def homeStore (p : Pkg) (a : Nat) (b : Bytes) (poison flag firmware : Bool) (source step : Nat) (purpose : Purpose := .plain) : Pkg × Nat :=
  if absorbing p (partOfAddr p a) then (p, 0x0EE1)
  else match controlOffset a with
    | some o => controlStore p o b flag firmware
    | none => storeLocal p a b poison true source 0xFF step purpose

/-- Whether a WRITE at its home that meets no error completes later (R257, R261, R478). -/
def homeDefers (p : Pkg) (a : Nat) : Bool := !absorbing p (partOfAddr p a) && (controlOffset a).isNone && defers p a

/-- A READ at its home (R341). -/
def homeLoad (p : Pkg) (a n : Nat) : Pkg × Except Nat Bytes :=
  if absorbing p (partOfAddr p a) then (p, .error 0x0EE1)
  else match controlOffset a with
    | some o => (p, controlLoad p o n)
    | none => match loadLocal p a n true with
      | (p, .error s) => (p, .error (homeStatus s))
      | (p, .ok b) => (p, .ok b)

/-- Whether a T2 record lets an atomic through (R339); any other place does. -/
def atomicReach (p : Pkg) (a : Nat) : Bool :=
  match place a with
  | .t2 _ _ => match t2Window p a with
    | some b => bit (leAt b 4 1) 2
    | none => false
  | _ => true

/-- An ATOMIC at its home (R342, R349): status and previous value. -/
def homeAtomic (p : Pkg) (a : Nat) (wide : Bool) (aop operand swap : Nat) (flag firmware : Bool) (source step : Nat) : Pkg × Nat × Nat :=
  let n := if wide then 8 else 4
  if a % n ≠ 0 then (p, 0x0E04, 0)
  else if 6 < aop then (p, 0x0E05, 0)
  else if absorbing p (partOfAddr p a) then (p, 0x0EE1, 0)
  else match controlOffset a with
    | some o => controlAtomic p o wide aop operand flag firmware
    | none =>
      if !atomicReach p a then (p, 0x0E03, 0)
      else match loadLocal p a n true with
        | (p, .error s) => (p, homeStatus s, 0)
        | (p, .ok b) =>
          let old := leNat b
          let r := storeLocal p a (leBytes n (atomicNew (8 * n) aop old (operand % 2 ^ (8 * n)) (swap % 2 ^ (8 * n)))) false true source 0xFF step
          (r.1, r.2, old)

/-- A COUNTER_INC at its home (R343, R69 to R71). -/
def homeInc (p : Pkg) (a n step : Nat) : Pkg × Nat :=
  let b := bits a 12 6
  match if b < 96 then partOfBlock p b else none with
  | none => (p, 0x0E09)
  | some pp =>
    if regionHidden p (b / 8) then (p, 0x0E09)
    else if p.tp.fenced.contains (b / 8) then (p, 0x0106)
    else if pcState p pp = 6 then (p, 0x0EE1)
    else incCounter p b (bits a 5 0) n step ((part p pp).ru.poison.isSome)

/-- Performs a transaction whose home is this package: status, and the data that its answer carries. -/
def performTxn (p : Pkg) (t : Txn) : Pkg × Nat × Bytes :=
  let fw := firmwareSource t.source
  match t.purpose with
  | .route pp _ _ item => let r := itemArrives p pp item; (r.1, r.2.getD 0, [])
  | _ => match t.type with
  | 0 =>
    (match homeLoad p t.addr t.bytes with
     | (p, .ok b) => (p, 0, b)
     | (p, .error s) => (p, s, []))
  | 1 => let r := homeStore p t.addr t.data t.poison t.flag fw t.source t.step t.purpose; (r.1, r.2, [])
  | 2 => let r := homeAtomic p t.addr t.asize t.aop (leAt t.data 0 8) (leAt t.data 8 8) t.flag fw t.source t.step; (r.1, r.2.1, leBytes 8 r.2.2)
  | 3 => let r := homeInc p t.addr t.bytes t.step; (r.1, r.2, [])
  | _ => (p, 0, [])

/-- Type of the answer to a transaction (R337). -/
def answerType (type : Nat) : Nat := if type = 0 then 0x40 else if type = 2 then 0x42 else 0x41

/-- Writes of serving state of a partition that wait at their source behind a refused one to address `a` (R536) go back to the hold,
in order. -/
def pullServing (p : Pkg) (pp : Nat) (egress : Bool) (a : Nat) : Pkg :=
  let behind := fun (t : Txn) => !t.sent && t.purpose == .serving pp egress && sameLine p pp egress a t.addr
  let mine := p.ms.txns.filter behind
  let p := { p with ms := { p.ms with txns := p.ms.txns.filter (fun t => !behind t) } }
  mine.foldl (fun p t => holdServing p pp egress
    (if t.type = 2 then { addr := t.addr, add := leAt t.data 0 8 } else { addr := t.addr, bytes := t.data })) p

/-- A refused write of serving state is held, with those behind it (R536). -/
def refuseServing (p : Pkg) (pp : Nat) (egress : Bool) (t : Txn) : Pkg :=
  pullServing (holdServing p pp egress
    (if t.type = 2 then { addr := t.addr, add := leAt t.data 0 8 } else { addr := t.addr, bytes := t.data })) pp egress t.addr

/-- A write of Stream Egress has been placed (R536): with none held and none under way the retry has succeeded. Rings that hold no
entry and whose writes are all placed are full no longer. -/
def servedEgress (p : Pkg) (pp : Nat) : Pkg :=
  if (part p pp).se.refusedRaised = false then p
  else
    let under := (p.ms.txns ++ p.ms.failed.map (·.1)).any (fun t => t.purpose == .serving pp true)
    let p := if (part p pp).se.refused.isEmpty ∧ under = false then modSe p pp (fun q => { q with refusedRaised := false }) else p
    modSe p pp (fun q => { q with fullRings := stillFull p pp })

/-- A write of the Serving Scheduler has been placed (R190, R536). -/
def servedCompletions (p : Pkg) (pp : Nat) (t : Txn) : Pkg :=
  let p := if t.type = 1 then recordPlaced p pp t.data else p
  if (part p pp).sc.refused.isEmpty = false ∨ (part p pp).sc.refusedRaised = false then p
  else modSc p pp (fun q => { q with refusedRaised := false, ringFullRaised := q.ringFullRaised && !q.completions.isEmpty })

/-- A copy slot whose last transaction has completed is free (R344). -/
def releaseSlot (p : Pkg) (slot : Nat) : Pkg :=
  if p.ms.txns.any (fun t => t.purpose == .copySlot slot) || p.ms.failed.any (fun f => f.1.purpose == .copySlot slot) then p
  else { p with ms := { p.ms with slots := tmod p.ms.slots slot {} (fun c => { c with busy := false, writes := [], signal := none }) } }

/-- A copy's transaction failed finally (R344): no increment, and the step fails as under R73. -/
def failCopy (p : Pkg) (slot status : Nat) : Pkg :=
  let c := tget p.ms.slots slot {}
  let p := breakFence p (0x300 + slot)
  releaseSlot (if c.busy then failAndHalt p c.partition c.block status else p) slot

/-- A store that failed finally breaks its source's fence (R353); firmware resets its own at once (R354). -/
def failStore (p : Pkg) (t : Txn) : Pkg :=
  if t.isStore && !firmwareSource t.source then breakFence p t.source else p

/-- A transaction has completed at its source with a status (R344, R346, R351 to R354, R363, R536). -/
def completed (p : Pkg) (t : Txn) (status : Nat) (data : Bytes) : Pkg :=
  let p := if status = 0 then p else countFailure p status
  match t.purpose with
  | .plain => if status = 0 then p else failStore p t
  | .event => p
  | .signal b i =>
    if status = 0 then p
    else
      let p := modBlk p b (fun k => { k with index := i })
      failStore (passFail (wr p Ix.blockPassPointer b ((blk p b).base + 128 * i)) b 0x010E) t
  | .route pp b i _ =>
    if status = 0 then p
    else
      let p := failStore p t
      if (part p pp).pc.stepRunning && stepOf p pp == t.step then
        let p := modBlk p b (fun k => { k with index := i })
        passFail (wr p Ix.blockPassPointer b ((blk p b).base + 128 * i)) b 0x010B
      else p
  | .dmaPiece c n side => chanCompleted p c n side t status
  | .copySlot slot => if status = 0 then releaseSlot p slot else failCopy p slot status
  | .serving pp egress =>
    if status = 0 then
      if egress then servedEgress p pp else servedCompletions p pp t
    else refuseServing p pp egress t
  | .retire s =>
    if status = 0 ∨ status = 0x0E01 then retireAnswered p s t.destKey
    else raise (last (breakFence p s) Ix.msLastStatus 0 0x0E0A) 0x0E11 (partOfSource p s) s 0
  | .hostRequest srcUnit tag =>
    let p := if status = 0 then p else failStore p t
    let k : Packet := { src := ownId p, step := t.step, srcUnit, tag }
    if status = 0 then respond p true k (answerType t.type) 0 (if t.type = 2 then padTo data 16 else data)
    else respondError p true k status
  | .reply k => if status = 0 then respond p false k 0x41 0 [] else respondError (keepAnswer p k status none) false k status

/-- One completion acted on: a transaction to this package is performed first; a write that is held or goes on to a lender completes
later. -/
def settleOne (p : Pkg) (f : Txn × Nat) : Pkg :=
  if f.2 = 0 ∧ f.1.flag = true ∧ f.1.type ≠ 4 ∧ p.ms.broken.contains f.1.source = true then completed p f.1 0x0E02 []
  else if f.2 = 0 then
    let r := performTxn p f.1
    if r.2.1 = 0 ∧ f.1.type = 1 ∧ homeDefers p f.1.addr = true then r.1 else completed r.1 f.1 r.2.1 r.2.2
  else completed p f.1 f.2 []

/-- Acts on every completion that waits, oldest first; `fuel` bounds their number. -/
def settle : (fuel : Nat) → Pkg → Pkg
  | 0, p => p
  | fuel + 1, p =>
    match p.ms.failed with
    | [] => p
    | f :: rest => settle fuel (pump (settleOne { p with ms := { p.ms with failed := rest } } f))

/-- A write of serving state into package memory that failed (R536): the running step fails, or the step about to start, and the
partition halts with the write's status. -/
def failServing (p : Pkg) (pp : Nat) : Pkg :=
  match (part p pp).sc.writeFailed with
  | none => p
  | some status =>
    let p := modSc p pp (fun q => { q with writeFailed := none, starting := none })
    if pcState p pp = 0 ∨ pcState p pp = 1 ∨ pcState p pp = 6 ∨ pcState p pp = 7 then p
    else if (part p pp).pc.stepRunning then
      haltPartition (causeRollback (modPc p pp (fun q => { q with stepFailed := some status })) pp 6 0xFF 0xFF 0 0) pp status
    else haltPartition (bump p Ix.pcStepsFailed pp 1) pp status

/-- How every command ends: completions are acted on, failed writes of serving state fail their step, channels fail whose reads found
too many bad lines (R260), the Tier Manager does what it does without being asked (R252, R257, R258), and what was sent is routed (R322). -/
def finish (p : Pkg) : Pkg :=
  returnKept <| retrainNext 25 <| followProfile <| flushPackets 4096 (settle 4096 (tierWork (failBadChannels ((List.range 12).foldl failServing (settle 4096 p)))))

/-- A command's meaning that touches the package alone. -/
def onPkgF (f : Pkg → Pkg) : State → Host.Outcome State Fault Refusal := onPkg (fun p => finish (f p))

/-- A command's meaning that touches the clock and the package. -/
def onClockF (f : Clock → Pkg → Clock × Pkg) : State → Host.Outcome State Fault Refusal :=
  onClock (fun c p => ((f c p).1, finish (f c p).2))

end Sys2Proof.Machine
end

