-- ==== Sys2Proof/Machine/SecurityCommands.lean ====
section
/-! DEFINITION. Chapter 21: the meanings of its commands. -/

namespace Sys2Proof.Machine

/-- LICENCE_INSTALL (R514). -/
def execLicenceInstall (data : Bytes) (signaturesVerify : Bool) : State → Host.Outcome State Fault Refusal :=
  onPkgF (fun p => answered Ix.btLicenceInstall 0 (installLicence p data signaturesVerify))

/-- LICENCE_REMOVE (R514). -/
def execLicenceRemove (index : Byte) : State → Host.Outcome State Fault Refusal :=
  onPkgF (fun p => answered Ix.btLicenceRemove 0 (removeLicence p index.toNat))

/-- LICENCE_EXPIRED (R515): the licence is marked expired, event 0x1322; its features stay granted until the next
start. -/
def execLicenceExpired (index : Nat) : State → Host.Outcome State Fault Refusal :=
  onPkgF (fun p =>
    match p.flash.licences[index]? with
    | none => p
    | some l =>
      if licExpires l ≠ 0 ∧ licExpires l ≤ rd p Ix.btPoweredS 0 ∧ !p.bt.expired.contains (licSerial l) then
        raise0 (touch { p with bt := { p.bt with expired := p.bt.expired ++ [licSerial l] } } Ix.btLicences 0)
          0x1322
      else p)

/-- CUSTOMER_KEYS_WRITE (R509). -/
def execCustomerKeysWrite (data : Bytes) : State → Host.Outcome State Fault Refusal :=
  onPkgF (fun p => answered Ix.btCustomerKeys 0 (writeCustomerKeys p data))

/-- RACK_KEY_INSTALL (R510). -/
def execRackKeyInstall (data : Bytes) : State → Host.Outcome State Fault Refusal :=
  onPkgF (fun p => answered Ix.btRackKey 0 (installRackKey p data))

/-- FIRMWARE_COMMIT (R508): a write of 1; other values are refused. -/
def execFirmwareCommit (value : Byte) (verdict : FirmwareVerdict) : State → Host.Outcome State Fault Refusal :=
  onPkgF (fun p => answered Ix.btFirmwareCommit 0
    (if value = 1 then commitFirmware p verdict else refuse p (invalid 0x1006)))

/-- ATTEST_NONCE (R516). -/
def execAttestNonce (nonce : Bytes) : State → Host.Outcome State Fault Refusal :=
  onPkgF (fun p => answered Ix.btAttestNonce 0 (attest p nonce))

end Sys2Proof.Machine
end

