-- ==== Sys2Proof/Machine/BringUpCommands.lean ====
section
/-! DEFINITION. Chapters 19 and 22: the meanings of its commands. -/

namespace Sys2Proof.Machine

/-- START_PHASE_COMPLETE (R466): the phase that runs ends with this outcome and the next begins. -/
def execStartPhaseComplete (result : PhaseResult) : State → Host.Outcome State Fault Refusal :=
  onClockF (fun c p =>
    let c := match p.bt.phase, result.frameTick with
      | 5, some t => if c.running || p.bt.waitingFrame then c else { c with running := true, tick := t, rclk := 0, adopted := true }
      | _, _ => c
    let p := if p.bt.phase = 5 ∧ c.adopted = true then wr { p with pw := { p.pw with tickAdopted := true } } Ix.pwRefState 0 0 else p
    (c, match p.bt.phase with
      | 1 => phase1 p result
      | 2 => phase2 p result
      | 3 => phase3 p result
      | 4 => phase4 p result
      | 5 => if p.bt.waitingFrame then p else phase5 c.running p result
      | 6 => phase6 p result
      | 7 => phase7 p result
      | 8 => phase8 p result
      | _ => p))

/-- POWER_ON_START (R465, R466): with the supply in range, PWR_EN high and RCLK present, an unpowered package begins a
cold start, or a sag start where a thermal trip met a sag reset (R532); a package that already runs ignores it. -/
def execPowerOnStart (s : State) : Host.Outcome State Fault Refusal :=
  .next (if powered s.pkg then s else { s with clock := {}, pkg := beginStart s.pkg (if s.pkg.flash.sagNext then 3 else 1) true })

/-- FLASH_TAKE (R529): the package takes the flash in phase 1 once MC_OWN_N is high. -/
def execFlashTake : State → Host.Outcome State Fault Refusal :=
  onPkgF (fun p => if p.bt.phase = 1 then { p with pins := { p.pins with flashTaken := true } } else p)

/-- PWR_EN_LOW (R528): every rail off within 1 ms, as a power loss; the next start is cold. -/
def execPwrEnLow : State → Host.Outcome State Fault Refusal := 
  onClockF (fun _ p => ({}, railsOff { p with flash := { p.flash with sagNext := false } }))

/-- PKG_RESET (R528): a package reset; its release starts a warm start as a service reset; the flash is released. -/
def execPkgReset : State → Host.Outcome State Fault Refusal :=
  onClockF (fun _ p =>
    ({}, beginStart { p with pins := { p.pins with flashTaken := false } } 2 (warmNeedsFull p)))

/-- BT_RESTART (R465, R480): 1 a warm restart, 2 with the full test; refused with 0x13E0 before ready, other values
refused. -/
def execBtRestart (value : Byte) : State → Host.Outcome State Fault Refusal :=
  onClockF (fun c p =>
    if value ≠ 1 ∧ value ≠ 2 then (c, answered Ix.btRestart 0 (refuse p (invalid 0x1006)))
    else if rd p Ix.btStartState 0 ≠ 8 then (c, answered Ix.btRestart 0 (refuse (last p Ix.btLastStatus 0 0x13E0) { abort := 7, status := 0x13E0 }))
    else ({}, beginStart (answered Ix.btRestart 0 (p, accepted)) 2 (value == 2 || warmNeedsFull p)))

/-- DEFECT_REMOVE (R476). -/
def execDefectRemove (index : BitVec 16) : State → Host.Outcome State Fault Refusal :=
  onPkgF (fun p => answered Ix.btDefectRemove 0 (removeDefect p index.toNat))

end Sys2Proof.Machine
end

