-- ==== Sys2Proof/Machine/Descriptor.lean ====
section
/-! DEFINITION. Chapter 3: the pass descriptor's fields (R55 to R65) and its validation (R72). -/

namespace Sys2Proof.Machine

/-- An operand slot (R58). -/
structure Slot where
  addr : Nat := 0
  fmt : Nat := 0
  cnt : Bool := false
  lt : Bool := false
  fab : Bool := false
  lines : Nat := 0
  inner : Nat := 0
  lineStride : Nat := 0
  planeStride : Nat := 0
  planes : Nat := 1
  scaleOff : Nat := 0
  /-- The six words as they stand, for the classes that carry parameters. -/
  words : List Nat := []
  deriving DecidableEq, Repr

/-- A decoded pass descriptor (R56 to R62). -/
structure Desc where
  cls : Nat := 0
  formatVersion : Nat := 0
  last : Bool := false
  audit : Bool := false
  mark : Bool := false
  split : Bool := false
  wide : Bool := false
  actFmt : Nat := 0
  version : Nat := 0
  waEn : Bool := false
  waIdx : Nat := 0
  wbEn : Bool := false
  wbIdx : Nat := 0
  sgEn : Bool := false
  sgRemote : Bool := false
  sgBlock : Nat := 0
  sgIdx : Nat := 0
  waStride : Nat := 0
  waOffset : Nat := 0
  wbStride : Nat := 0
  wbOffset : Nat := 0
  a : Slot := {}
  b : Slot := {}
  c : Slot := {}
  d : Slot := {}
  w28 : Nat := 0
  rotSize : Nat := 0
  rotSeed : Nat := 0
  ops : List Nat := []
  norm : Nat := 0
  imm1 : Nat := 0
  imm0 : Nat := 0
  qgran : Nat := 0
  lrPtr : Nat := 0
  deriving DecidableEq, Repr

/-- Word n of a descriptor's bytes (R1, R55). -/
def word (b : Bytes) (n : Nat) : Nat := leAt b (4 * n) 4

/-- Reads a slot from its first word on (R58). -/
def slotOf (b : Bytes) (n : Nat) : Slot :=
  let w1 := word b (n + 1)
  let w2 := word b (n + 2)
  let w5 := word b (n + 5)
  { addr := word b n + bits w1 31 8 * 2 ^ 32, fmt := bits w1 7 4, cnt := bit w1 2, lt := bit w1 1, fab := bit w1 0,
    lines := bits w2 31 16, inner := bits w2 15 0, lineStride := word b (n + 3), planeStride := word b (n + 4),
    planes := bits w5 31 24 + 1, scaleOff := bits w5 23 0, words := (List.range 6).map (fun i => word b (n + i)) }

/-- Reads a descriptor (R55 to R62). -/
def descOf (b : Bytes) : Desc :=
  let w0 := word b 0
  let w1 := word b 1
  let w28 := word b 28
  let w29 := word b 29
  { cls := bits w0 31 28, formatVersion := bits w0 27 24, last := bit w0 23, audit := bit w0 22, mark := bit w0 21,
    split := bit w0 20, wide := bit w0 19, actFmt := bits w0 18 16, version := bits w0 15 0,
    waEn := bit w1 31, waIdx := bits w1 30 25, wbEn := bit w1 24, wbIdx := bits w1 23 18, sgEn := bit w1 17,
    sgRemote := bit w1 16, sgBlock := bits w1 15 9, sgIdx := bits w1 8 3,
    waStride := bits (word b 2) 31 16, waOffset := bits (word b 2) 15 0,
    wbStride := bits (word b 3) 31 16, wbOffset := bits (word b 3) 15 0,
    a := slotOf b 4, b := slotOf b 10, c := slotOf b 16, d := slotOf b 22,
    w28 := w28, rotSize := bits w28 31 29, rotSeed := bits w28 27 0,
    ops := [bits w29 31 26, bits w29 25 20, bits w29 19 14, bits w29 13 8], norm := bits w29 7 4,
    imm1 := bits (word b 30) 31 16, imm0 := bits (word b 30) 15 0,
    qgran := bits (word b 31) 31 30, lrPtr := bits (word b 31) 23 0 }

/-- Word +n of the parameters in slot C (R65). -/
def Desc.par (d : Desc) (n : Nat) : Nat := d.c.words.getD n 0

/-- MODE of REDUCE and COPY, MASK of SAMPLE (R65). -/
def Desc.mode (d : Desc) : Nat := bits (d.par 0) 31 28

/-- LAYER of ATTEND and ROUTE (R65). -/
def Desc.layer (d : Desc) : Nat := bits (d.par 0) 31 16

/-- PHASE of ROUTE (R65). -/
def Desc.phase (d : Desc) : Nat := bits (d.par 0) 15 15

/-- VERIFY and DEPTH of SAMPLE (R65). -/
def Desc.verify (d : Desc) : Bool := bit (d.par 0) 27
def Desc.depth (d : Desc) : Nat := bits (d.par 0) 26 23

/-- Classes that carry parameters in slot C (R64, R65). -/
def Desc.hasParams (d : Desc) : Bool := decide (2 ≤ d.cls) && decide (d.cls ≤ 7)

/-- Rotation size in elements (R62); 0 off. -/
def Desc.rotN (d : Desc) : Nat := if d.rotSize = 0 then 0 else 32 * 2 ^ d.rotSize

/-- Whether slot B is used and must be present, by class (R64). -/
def Desc.usesB (d : Desc) : Bool :=
  match d.cls with
  | 0 | 1 => true
  | 2 => d.mode == 1
  | 5 => d.phase == 0
  | 6 => d.mode == 1 || d.mode == 2
  | 7 => d.mode == 1 || d.mode == 2
  | _ => false

/-- Whether slot B must be present. -/
def Desc.needsB (d : Desc) : Bool := d.usesB && d.cls != 1 && d.cls != 2

/-- Whether slot C is an operand that is present (R64, R65). -/
def Desc.hasC (d : Desc) : Bool := decide (d.cls ≤ 1) && d.c.fmt != 0

/-- Whether slot B is present. -/
def Desc.hasB (d : Desc) : Bool := d.usesB && d.b.fmt != 0

/-- The epilogue operand: slot B in REDUCE, slot C otherwise (R63). -/
def Desc.epi (d : Desc) : Option Slot :=
  if d.cls = 2 then (if d.hasB then some d.b else none) else if d.hasC then some d.c else none

/-- A COPY that appends keys and values, which has no slot D (R120). -/
def Desc.appends (d : Desc) : Bool := d.cls == 7 && d.mode == 3

/-- A pass without slot D: an append, and a ROUTE with PHASE 1 (R120, R155). -/
def Desc.noD (d : Desc) : Bool := d.appends || (d.cls == 5 && d.phase == 1)

/-- Slots that the class uses and that are present. -/
def Desc.slots (d : Desc) : List Slot :=
  if 7 < d.cls then []
  else [d.a] ++ (if d.noD then [] else [d.d]) ++ (if d.hasB then [d.b] else []) ++ (if d.hasC then [d.c] else [])

/-- Whether slot B is tiled (R61). -/
def Desc.tiledB (d : Desc) : Bool := d.cls == 0 || (d.cls == 5 && d.phase == 0)

/-- Format code that ACT_FMT names (R56, R59). -/
def actCode (act : Nat) : Nat := if act = 1 then 5 else if act = 2 then 6 else if act = 3 then 1 else if act = 4 then 9 else 0

/-- Formats a weight slot may hold (R23). -/
def weightFmt (f : Nat) : Bool := [1, 2, 3, 4, 5, 6, 9].contains f

/-- Formats slot A of a MATMUL or an ATTEND-SCORE may hold (R66, R533): BF16, binary16 and binary32, and those that some ACT_FMT names. -/
def activationFmt (f : Nat) : Bool := [1, 5, 6, 9, 10, 11].contains f

/-- The pairs of R23: weight format and ACT_FMT. -/
def pairOk (w act : Nat) : Bool :=
  match act with
  | 1 | 2 => [1, 2, 3, 4, 5, 6].contains w
  | 3 => [1, 2, 3, 4].contains w
  | 4 => w == 9
  | _ => false

/-- Whether slot A is convertible to ACT_FMT, or already holds it (R66); with the rotation on, the second breaks BAD_ROTATION's
check and not this one (R72). -/
def convertible (d : Desc) : Bool :=
  [9, 10, 11].contains d.a.fmt || (d.a.fmt == actCode d.actFmt && d.actFmt != 0)

/-- Classes whose slot A goes through the Rotate stage (R66). -/
def Desc.rotates (d : Desc) : Bool := d.cls == 0 || d.cls == 3 || (d.cls == 5 && d.phase == 0)

/-- BAD_CLASS_FLAG, 0x0142 (R66). -/
def badClassFlag (d : Desc) : Bool :=
  let epilogue := d.cls == 0 || d.cls == 1 || d.cls == 4 || (d.cls == 2 && d.mode == 1)
  (d.cls != 0 && (d.split || d.wide))
  || (!d.rotates && (d.actFmt != 0 || d.w28 != 0))
  || (d.audit && !([0, 1, 3, 4].contains d.cls))
  || (!epilogue && (d.ops.any (· != 0) || d.imm1 != 0 || (d.imm0 != 0 && d.cls != 3)))
  || (d.norm != 0 && d.cls != 1 && d.cls != 3)
  || (d.qgran != 0 && (decide (7 < d.cls) || d.d.fmt == 0))
  || (d.cls == 9 && !d.mark)

/-- BAD_COUNTER_FIELD, 0x0143 (R57, R72). -/
def badCounterField (d : Desc) (inPartition : Nat → Bool) : Bool :=
  d.sgEn && (decide (95 < d.sgBlock) || (!d.sgRemote && !inPartition d.sgBlock)
             || (d.sgRemote && !(decide (d.cls ≤ 7) && d.d.fmt != 0 && d.d.fab)))

/-- BAD_FORMAT, 0x0145 (R533, R65, R66). -/
def badFormat (d : Desc) : Bool :=
  let lineOut := fun f => !([2, 3, 4, 12, 13].contains f)
  d.slots.any (fun s => decide (13 < s.fmt))
  || (decide (d.cls ≤ 7) && (d.a.fmt == 0 || (!d.noD && d.d.fmt == 0) || (d.appends && d.d.fmt != 0)))
  || (d.needsB && d.b.fmt == 0)
  || (d.hasParams && d.c.fmt != 0)
  || (match d.cls with
      | 0 => !activationFmt d.a.fmt || !weightFmt d.b.fmt || !lineOut d.d.fmt
      | 1 => !lineOut d.d.fmt
      | 2 => [2, 3, 4].contains d.mode && !([9, 11].contains d.a.fmt)
      | 3 => !activationFmt d.a.fmt || d.d.fmt != 11
      | 4 => d.a.fmt != 11
      | 5 => if d.phase = 0 then !([9, 10, 11].contains d.a.fmt) || !weightFmt d.b.fmt || d.d.fmt != 13
             else !([9, 10, 11].contains d.a.fmt)
      | 6 => !([9, 11].contains d.a.fmt) || ((d.mode == 1 || d.mode == 2) && d.b.fmt != 13) || d.d.fmt != 13
      | 7 => if d.mode = 3 then !([9, 10, 11].contains d.a.fmt)
             else (decide (d.mode ≤ 4) && d.d.fmt != d.a.fmt) || ((d.mode == 1 || d.mode == 2) && d.b.fmt != 13)
      | _ => false)

/-- BAD_FORMAT_PAIR, 0x0146 (R23, R66). -/
def badFormatPair (d : Desc) : Bool :=
  decide (4 < d.actFmt)
  || (d.tiledB && !pairOk d.b.fmt d.actFmt)
  || (d.rotates && !convertible d)

/-- MISALIGNED, 0x0147 (R58). -/
def misaligned (d : Desc) : Bool :=
  d.slots.any (fun s => s.addr % 64 != 0 || s.lineStride % 64 != 0 || s.planeStride % 64 != 0)

/-- Bytes of one line of a slot that is not tiled (R87). -/
def Slot.lineBytes (s : Slot) : Nat := fmtLineBytes s.fmt s.inner

/-- BAD_SHAPE, 0x0148 (R58, R61, R63, R66, R534, R535). -/
def badShape (d : Desc) : Bool :=
  let n := d.b.planes
  let plain := if d.tiledB then d.slots.filter (fun s => s != d.b) else d.slots
  d.slots.any (fun s => s.lines == 0 || s.inner == 0 || (s.cnt && s.lt) || (s.scaleOff != 0 && !hasScales s.fmt))
  || plain.any (fun s => s.lineStride != 0 && decide (s.lineStride < s.lineBytes))
  || (d.tiledB && (d.b.lines % 128 != 0 || d.b.inner % 16 != 0 || d.b.lineStride != 0
        || d.b.inner * 16 != alignUp (d.a.inner * 16) 256))
  || (d.cls == 0 && (d.d.inner * 16 != d.b.lines || d.d.planes != n || (d.a.planes != 1 && d.a.planes != n)
        || (d.hasC && d.c.planes != 1 && d.c.planes != n)))
  || (d.cls == 1 && (d.d.inner != d.a.inner || (decide (2 ≤ d.norm) && d.hasB && d.b.inner != d.a.inner)))
  || (d.cls == 7 && (d.mode == 1 || d.mode == 2) &&
        (let fixed := if d.mode = 1 then d.d else d.a
         d.a.inner != d.d.inner || (d.b.cnt || d.b.lt) || (!fixed.cnt && !fixed.lt && decide (d.b.lines < fixed.lines))))

/-- BAD_ROTATION, 0x014B (R62, R66). -/
def badRotation (d : Desc) : Bool :=
  d.rotates && (decide (5 < d.rotSize)
    || (d.rotSize != 0 && d.rotN != 0 && (d.a.inner * 16) % d.rotN != 0)
    || (d.rotSize != 0 && !([9, 10, 11].contains d.a.fmt)))

/-- A binary16 NaN (R63). -/
def half16NaN (h : Nat) : Bool := bits h 14 10 == 31 && bits h 9 0 != 0

/-- Order of binary16 values that are not NaN: sign and magnitude, zeros equal. -/
def half16Key (h : Nat) : Int := if bit h 15 then -((h % 32768 : Nat) : Int) else ((h % 32768 : Nat) : Int)

/-- BAD_EPILOGUE, 0x014C (R63). -/
def badEpilogue (d : Desc) : Bool :=
  let afterNone := ((List.range 3).any (fun i => d.ops.getD i 0 == 0 && d.ops.getD (i + 1) 0 != 0))
  let rowOp := d.ops.any (fun o => o == 1 || o == 3)
  let cOp := d.ops.any (fun o => o == 1 || o == 2 || o == 3 || o == 4)
  let crow := d.ops.any (fun o => o == 2 || o == 4)
  let misshaped := match d.epi with
    | none => cOp
    | some s =>
      cOp && (s.inner != d.d.inner
        || (rowOp && (s.lt != d.d.lt || s.cnt != d.d.cnt || (!s.lt && !s.cnt && decide (s.lines < d.d.lines))))
        || (crow && (s.lt || s.cnt)))
  d.ops.any (fun o => decide (13 < o)) || afterNone || misshaped
  || (d.ops.contains 7 && decide (half16Key d.imm1 < half16Key d.imm0))
  || half16NaN d.imm0 || half16NaN d.imm1

/-- BAD_NORMALISE, 0x014D (R29, R63, R66). -/
def badNormalise (d : Desc) : Bool :=
  (d.cls == 1 && decide (3 < d.norm)) || (d.cls == 3 && decide (1 < d.norm))
  || (d.norm != 0 && decide (262144 < d.a.inner * 16) && d.cls == 1)
  || (d.norm != 0 && decide (262144 < d.d.inner * 16) && d.cls == 3)
  || (d.ops.contains 7 && decide (2 ≤ d.norm))

/-- BAD_PARAMETERS, 0x014F (R65). DESIGN CHOICE (assumption 153): the LAYER of a KV append, for which R65 states no range, has that of
the other classes, 0 to 1,023. -/
def badParameters (d : Desc) : Bool :=
  let w0 := d.par 0
  let w1 := d.par 1
  match d.cls with
  | 2 =>
    let op := bits w0 27 24
    let group := bits w0 15 0
    let share := bit w1 15
    d.mode == 0 || decide (4 < d.mode) || decide (2 < op) || (d.mode == 3 && op != 0)
    || (d.mode == 1 && group != 0) || (decide (2 ≤ d.mode) && (group == 0 || decide (255 < group)))
    || (share && d.mode != 1) || decide (1023 < bits w1 31 16) || (!share && bits w1 31 16 != 0)
  | 3 | 4 =>
    decide (1023 < bits w0 31 16) || bits w0 7 0 == 0 || decide (128 < bits w0 7 0)
    || bits w1 23 16 == 0 || decide (8 < bits w1 23 16) || decide (bits w1 23 16 ≤ bits w1 31 24)
  | 5 => decide (1023 < d.layer)
  | 6 => decide (2 < d.mode) || decide (8 < d.depth) || (!d.verify && d.depth != 0)
  | 7 => decide (4 < d.mode) || (d.mode != 3 && bits w0 15 0 != 0) || decide (1023 < bits w0 15 0)
  | _ => false

/-- BAD_AUDIT_FLAG, 0x0153. -/
def badAudit (d : Desc) : Bool := d.audit && (d.d.inner * 16 % 128 != 0 || !([11, 9, 10, 5, 6, 1].contains d.d.fmt))

/-- BAD_WIDE_REF, 0x0154 (R66). -/
def badWide (d : Desc) : Bool :=
  d.wide && !(d.a.fmt == 9 && d.b.fmt == 9 && d.actFmt == 4 && d.rotSize == 0 && d.d.fmt == 11)

/-- Byte ranges that a slot covers (R58, R61, R87): data of every plane; the scales, which lie per plane in a tiled slot
and in one area after a 64-byte header otherwise, a repeated line repeating its scales. A counted slot's count line
stands just before its address (R60). -/
def Slot.extents (s : Slot) (tiled : Bool) : List (Nat × Nat) :=
  let data := if tiled then (s.lines / 128) * (s.inner / 16) * tileBytes s.fmt
    else (s.lines - 1) * s.lineStride + s.lineBytes
  let planes := (List.range s.planes).map (fun pl => (s.addr + pl * s.planeStride, data))
  let scales :=
    if !hasScales s.fmt then []
    else if tiled then planes.map (fun e => (e.1 + s.scaleOff * 64, (s.lines / 128) * (s.inner / 16) * tileScaleBytes s.fmt))
    else
      let n := if s.lineStride = 0 then (s.planes - 1) * s.lines + 1 else s.planes * s.lines
      [(s.addr + s.scaleOff * 64, 64 + n * lineScaleBytes s.fmt s.inner)]
  planes ++ scales ++ (if s.cnt then [(s.addr - 64, 64)] else [])

/-- What validation needs of the block's surroundings (R72): whether a block lies in the partition, whether a range lies
inside one range of the map, whether it touches the control window or an operand buffer, whether it lies in the block's
own SRAM, the entry's version, the depth licence, and whether the live-range record fails R76. -/
structure DescEnv where
  inPartition : Nat → Bool
  rangeOk : Bool → Nat → Nat → Bool
  forbidden : Bool → Nat → Nat → Bool
  ownSram : Bool → Nat → Nat → Bool
  version : Nat
  deepDraft : Bool
  liveRangeBad : Bool

/-- Extents of every slot in use, with the slot's FAB bit. -/
def Desc.allExtents (d : Desc) : List (Bool × Nat × Nat) :=
  d.slots.flatMap (fun s => (s.extents (d.tiledB && s == d.b)).map (fun e => (s.fab, e.1, e.2)))

/-- Every check of R72 with its code. -/
def checks (d : Desc) (e : DescEnv) : List (Nat × Bool) :=
  [(0x0140, decide (9 < d.cls)), (0x0141, d.formatVersion != 1), (0x0142, badClassFlag d),
   (0x0143, badCounterField d e.inPartition),
   (0x0144, d.cls == 8 && !d.waEn && !d.wbEn && !d.sgEn),
   (0x0145, badFormat d), (0x0146, badFormatPair d), (0x0147, misaligned d), (0x0148, badShape d),
   (0x0149, d.allExtents.any (fun x => !e.rangeOk x.1 x.2.1 x.2.2)),
   (0x014A, d.allExtents.any (fun x => e.forbidden x.1 x.2.1 x.2.2)
     || (d.cls == 3 && (d.d.extents false).any (fun x => !e.ownSram d.d.fab x.1 x.2))),
   (0x014B, badRotation d), (0x014C, badEpilogue d), (0x014D, badNormalise d),
   (0x014E, decide (d.cls ≤ 7) && !qgranOk d.d.fmt d.qgran), (0x014F, badParameters d),
   (0x0150, d.mark && e.liveRangeBad), (0x0153, badAudit d), (0x0154, badWide d)]

/-- Validation (R72): the lowest failing code; 0x01E2 and 0x01E3 only when every check passes. -/
def validate (d : Desc) (e : DescEnv) : Option Nat :=
  match (checks d e).find? (fun c => c.2) with
  | some c => some c.1
  | none =>
    if d.version ≠ e.version then some 0x01E2
    else if d.cls = 6 ∧ 4 < d.depth ∧ e.deepDraft = false then some 0x01E3
    else none

end Sys2Proof.Machine
end

