-- ==== Sys2Proof/Machine/Narrow.lean ====
section
/-! DEFINITION. Chapter 4: decoding of elements with their scales, scale derivation, quantisation with its counts,
weight tiles, and what a cell computes over one k-tile. -/

namespace Sys2Proof.Machine

/-- Consecutive groups of `n` members, the last possibly shorter. -/
def groupsFrom {α : Type} (n : Nat) : (fuel : Nat) → List α → List (List α)
  | 0, _ => []
  | fuel + 1, l => if l.isEmpty then [] else l.take n :: groupsFrom n fuel (l.drop n)

/-- Groups of `n` members of a list. -/
def groupsOf {α : Type} (n : Nat) (l : List α) : List (List α) := groupsFrom n (l.length / max 1 n + 1) l

/-- Two's complement value of the low `w` bits. -/
def signed (v w : Nat) : Int := if v % 2 ^ w < 2 ^ (w - 1) then ((v % 2 ^ w : Nat) : Int) else ((v % 2 ^ w : Nat) : Int) - (2 ^ w : Nat)

/-- An integer as an exact value. -/
def numOfInt (i : Int) : Num := .fin (decide (i < 0)) i.natAbs 0

/-- The value of one element's code, without its scales (R81 to R83, R116). -/
def decodeElem (fmt code : Nat) : Num :=
  match fmt with
  | 1 => if code % 16 = 8 then .fin false 0 0 else k4.dec (code % 16)
  | 2 => .fin (bit code 2 && decide (0 < code % 4)) ([0, 1, 2, 4].getD (code % 4) 0) 0
  | 3 => numOfInt ([0, 1, -2, -1].getD (code % 4) 0)
  | 4 => numOfInt ((code : Int) - 1)
  | 5 | 7 => e4m3.dec code
  | 6 | 8 => e5m2.dec code
  | 9 => bf16.dec code
  | 10 => f16.dec code
  | 11 => f32.dec code
  | 12 => numOfInt (signed code 8)
  | 13 => numOfInt (signed code 32)
  | _ => .nan

/-- The value of a block scale (R84, R85). -/
def blockScale (b : Nat) : Num := if b = 0xFF then .nan else .fin false 1 ((b : Int) - 127)

/-- The value of a sub-scale (R85): NaN for 0x7F and 0xFF, 0x0202 for any other code with the sign set. -/
def subScale (s : Nat) : Except Nat Num :=
  if s % 128 = 0x7F then .ok .nan else if 128 ≤ s then .error 0x0202 else .ok (e4m3.dec s)

/-- Element codes of a line, in ascending order (R81, R86, R87); a KT byte above 242 stops with 0x0201. -/
def lineCodes (fmt n : Nat) (b : Bytes) : Except Nat (List Nat) :=
  let w := match fmt with
    | 9 | 10 => 2
    | 11 | 13 => 4
    | _ => 1
  match fmt with
  | 1 => .ok ((b.flatMap (fun x => [x.toNat % 16, x.toNat / 16])).take n)
  | 2 => .ok (((records 6 b).flatMap (fun g => (List.range 16).map (fun j => leNat g / 8 ^ j % 8))).take n)
  | 3 => .ok ((b.flatMap (fun x => (List.range 4).map (fun j => x.toNat / 4 ^ j % 4))).take n)
  | 4 => if b.any (fun x => decide (242 < x.toNat)) then .error 0x0201
         else .ok ((b.flatMap (fun x => (List.range 5).map (fun j => x.toNat / 3 ^ j % 3))).take n)
  | _ => .ok (((records w b).map leNat).take n)

/-- Scales of a line's elements, one per element (R84, R85, R87): sub-scales in group order, then block scales. -/
def lineScales (fmt g n : Nat) (s : Bytes) : Except Nat (List Num) := do
  let at' := fun (i : Nat) => (s.getD i 0).toNat
  if fmt ≤ 4 then
    let groups := (n + g - 1) / g
    let subs ← (List.range groups).mapM (fun i => subScale (at' i))
    let blocks := (List.range ((n + 255) / 256)).map (fun i => blockScale (at' (groups + i)))
    return (List.range n).map (fun k => (subs.getD (k / g) .nan).mul (blocks.getD (k / 256) .nan))
  else
    return (List.range n).map (fun k => blockScale (at' (k / g)))

/-- Exact values of a line's elements (R85, R87). -/
def decodeLine (fmt g n : Nat) (elems scales : Bytes) : Except Nat (List Num) := do
  let codes ← lineCodes fmt n elems
  if hasScales fmt then
    let sc ← lineScales fmt g n scales
    return (codes.zip sc).map (fun e => (decodeElem fmt e.1).mul e.2)
  else return codes.map (decodeElem fmt)

/-- Counts of two parts added. -/
def QCount.add (a b : QCount) : QCount := ⟨a.quantised + b.quantised, a.saturated + b.saturated, a.flushed + b.flushed⟩

/-- `scale_exp` of R92: the smallest e with m × 2^x ≤ c × 2^ec × 2^e, clamped to −127 to 127. -/
def scaleExp (m : Nat) (x : Int) (c ec : Nat) : Int :=
  let e0 := ((m.log2 : Int) + x) - ((c.log2 : Int) + ec)
  let q := min x ((ec : Int) + e0)
  let fits := decide (m * 2 ^ (x - q).toNat ≤ c * 2 ^ ((ec : Int) + e0 - q).toNat)
  max (-127) (min 127 (if fits then e0 else e0 + 1))

/-- Largest magnitude of finite words. -/
def maxMag (l : List Word) : Nat := (l.map mag).foldl max 0

/-- The count of one element that leaves as a code whose magnitude is `m`, clamped or not (R91). -/
def countElem (w : Word) (m : Nat) (clamped : Bool) : QCount :=
  if !isFinite w || clamped then ⟨1, 1, 0⟩ else if mag w != 0 && m == 0 then ⟨1, 0, 1⟩ else ⟨1, 0, 0⟩

/-- Counts of a list. -/
def sumCounts (l : List QCount) : QCount := l.foldl QCount.add {}

/-- A group that holds a NaN or an infinity (R94). -/
def nanGroup (l : List Word) : QCount := ⟨l.length, l.length, 0⟩

/-- One element over a scale m·2^x, in an element format: its code, +0 for a zero, and its count (R89, R91). -/
def quantElem (f : Fmt) (sm : Nat) (sx : Int) (w : Word) : Nat × QCount :=
  let v := magOf w
  let c := roundMag f.p f.qmin v.1 sm (v.2 - sx) false
  let c' := min c f.maxCode
  (if c' = 0 then 0 else (if w.msb then 2 ^ f.signBit else 0) + c', countElem w c' (decide (f.maxCode < c)))

/-- Quantises one group to E4M3 or E5M2 elements under a block scale (R92, R94): codes, scale code, counts. -/
def quantMx (f : Fmt) (c ec : Nat) (l : List Word) : List Nat × Nat × QCount :=
  if l.any (fun w => !isFinite w) then (l.map (fun _ => 0), 0xFF, nanGroup l)
  else
    let a := magOf (BitVec.ofNat 32 (maxMag l))
    if a.1 = 0 then (l.map (fun _ => 0), 127, ⟨l.length, 0, 0⟩)
    else
      let e := scaleExp a.1 a.2 c ec
      let q := l.map (quantElem f 1 e)
      (q.map (·.1), (e + 127).toNat, sumCounts (q.map (·.2)))

/-- Quantises one group to K8 (R116). -/
def quantK8 (l : List Word) : List Nat × Nat × QCount :=
  if l.any (fun w => !isFinite w) then (l.map (fun _ => 0), 0xFF, nanGroup l)
  else
    let a := magOf (BitVec.ofNat 32 (maxMag l))
    if a.1 = 0 then (l.map (fun _ => 0), 127, ⟨l.length, 0, 0⟩)
    else
      let e := scaleExp a.1 a.2 127 0
      let q := l.map (fun w =>
        let c := roundMag 200 0 (magOf w).1 1 ((magOf w).2 - e) false
        let c' := min c 127
        (if w.msb then (256 - c') % 256 else c', countElem w c' (decide (127 < c))))
      (q.map (·.1), (e + 127).toNat, sumCounts (q.map (·.2)))

/-- Quantises one sub-group of a K4 block under its block exponent B' (R93): codes, sub-scale, counts. -/
def quantSub (b : Int) (l : List Word) : List Nat × Nat × QCount :=
  if l.any (fun w => !isFinite w) then (l.map (fun _ => 0), 0x7F, nanGroup l)
  else
    let a := magOf (BitVec.ofNat 32 (maxMag l))
    let s := min (roundMag e4m3.p e4m3.qmin a.1 6 (a.2 - b) true) e4m3.maxCode
    if s = 0 then (l.map (fun _ => 0), 0, ⟨l.length, 0, 0⟩)
    else match e4m3.dec s with
      | .fin _ m x =>
        let q := l.map (quantElem k4 m (x + b))
        (q.map (·.1), s, sumCounts (q.map (·.2)))
      | _ => (l.map (fun _ => 0), s, {})

/-- Quantises one K4 block of up to 256 elements (R93, R94): codes, sub-scales, block scale, counts. -/
def quantK4 (g : Nat) (l : List Word) : List Nat × List Nat × Nat × QCount :=
  let subs := groupsOf g l
  let finite := subs.filter (fun s => s.all isFinite)
  let a := magOf (BitVec.ofNat 32 (maxMag finite.flatten))
  let b : Int := if a.1 = 0 then 0 else scaleExp a.1 a.2 21 7
  let q := subs.map (quantSub b)
  (q.flatMap (·.1), q.map (·.2.1), (b + 127).toNat, sumCounts (q.map (·.2.2)))

/-- Bytes of K4 codes, two to a byte (R87). -/
def packNibbles (l : List Nat) : Bytes := (groupsOf 2 l).map (fun p => BitVec.ofNat 8 (p.headD 0 + 16 * p.getD 1 0))

/-- Unscaled format of a code. -/
def plainFmt (fmt : Nat) : Fmt :=
  match fmt with
  | 7 => e4m3
  | 8 => e5m2
  | 9 => bf16
  | 10 => f16
  | _ => f32

/-- Quantises a line to a format with a granularity (R89 to R94): element bytes, scale bytes, counts. -/
def quantLine (fmt g : Nat) (l : List Word) : Bytes × Bytes × QCount :=
  match fmt with
  | 1 =>
    let q := (groupsOf 256 l).map (quantK4 g)
    (packNibbles (q.flatMap (·.1)), (q.flatMap (·.2.1)).map (BitVec.ofNat 8) ++ q.map (fun b => BitVec.ofNat 8 b.2.2.1),
     sumCounts (q.map (·.2.2.2)))
  | 5 | 6 =>
    let q := (groupsOf g l).map (if fmt = 5 then quantMx e4m3 7 6 else quantMx e5m2 7 13)
    ((q.flatMap (·.1)).map (BitVec.ofNat 8), q.map (fun x => BitVec.ofNat 8 x.2.1), sumCounts (q.map (·.2.2)))
  | 12 =>
    let q := (groupsOf g l).map quantK8
    ((q.flatMap (·.1)).map (BitVec.ofNat 8), q.map (fun x => BitVec.ofNat 8 x.2.1), sumCounts (q.map (·.2.2)))
  | _ =>
    let f := plainFmt fmt
    let one := fun (w : Word) =>
      let c := f.enc (val w)
      let m := c % 2 ^ f.signBit
      let saturates := isFinite w && decide (f.maxCode < roundMag f.p f.qmin (magOf w).1 1 (magOf w).2 false)
      (leBytes (elemBytes fmt 1) c, countElem w m saturates)
    let q := l.map one
    (q.flatMap (·.1), [], sumCounts (q.map (·.2)))

/-- Quantises an activation line and reads it back (R99, R105): exact values and counts. -/
def quantValues (fmt g : Nat) (l : List Word) : List Num × QCount :=
  let q := quantLine fmt g l
  (((decodeLine fmt g l.length q.1 q.2.1).toOption).getD [], q.2.2)

/-- The exact value of weight (n, k) of a tile (R85, R86), its element and scale bytes given as arrays. -/
def tileElem (fmt : Nat) (e s : Array Byte) (n k : Nat) : Except Nat Num := do
  let by' := fun (a : Array Byte) (i : Nat) => (a.getD i 0).toNat
  let group := (k / 16) * 128 + n
  let pos := (k / 16) * 2048 + n * 16 + k % 16
  let code ← match fmt with
    | 1 => .ok (by' e (pos / 2) / (if pos % 2 = 0 then 1 else 16) % 16)
    | 2 => .ok (leNat ((List.range 6).map (fun i => e.getD (group * 6 + i) 0)) / 8 ^ (k % 16) % 8)
    | 3 => .ok (by' e (group * 4 + k % 16 / 4) / 4 ^ (k % 4) % 4)
    | 4 => if 242 < by' e (n * 52 + k / 5) then .error 0x0201 else .ok (by' e (n * 52 + k / 5) / 3 ^ (k % 5) % 3)
    | 5 | 6 => .ok (by' e pos)
    | _ => .ok (by' e (2 * pos) + 256 * by' e (2 * pos + 1))
  let v := decodeElem fmt code
  if fmt ≤ 4 then
    let sub ← subScale (by' s group)
    return v.mul (sub.mul (blockScale (by' s (2048 + n))))
  else if fmt ≤ 6 then return v.mul (blockScale (by' s ((k / 32) * 128 + n)))
  else return v

/-- What a cell forms for one output element over one k-tile (R95): the exact sum of products, rounded once; an exact
zero is +0. -/
def kdot (w x : List Num) : Word :=
  match (w.zip x).foldl (fun (s : Num) (e : Num × Num) => s.add (e.1.mul e.2)) (Num.fin false 0 0) with
  | .fin n m e => if m = 0 then zero32 else rnd (.fin n m e)
  | s => rnd s

/-- Ranges of k-tiles of the m parts of a K-split (R25): start and length. -/
def kSplit (m k : Nat) : List (Nat × Nat) :=
  (List.range m).map (fun c => (c * (k / m) + min c (k % m), k / m + (if c < k % m then 1 else 0)))

/-- Sums the partials of one work item in ascending k-tile order, then the items in ascending cell order (R26, R27);
items without k-tiles are omitted. -/
def accumulate (split : Bool) (partials : List Word) : Word :=
  let items := if split then kSplit 8 partials.length else [(0, partials.length)]
  addUp ((items.filter (fun i => i.2 != 0)).map (fun i => addUp ((partials.drop i.1).take i.2)))

end Sys2Proof.Machine
end

