-- ==== Sys2Proof/Machine/ClassB.lean ====
section
/-! DEFINITION. Chapters 8 and 16: tenant buckets (R201 to R203), and class B writes: their shadows, and what coming into
force at a step boundary does (R103 to R105, R139, R205, R281 to R283, R383 to R385). -/

namespace Sys2Proof.Machine

/-- Record t of a tenant table, if it is VALID (R201). -/
def tenantIn (table : Bytes) (t : Nat) : Option Bytes :=
  let b := slice table (32 * t) 32
  if b.length = 32 ∧ bit (leAt b 12 1) 0 then some b else none

/-- The record of a tenant in force (R201). -/
def tenantRecord (p : Pkg) (pp t : Nat) : Option Bytes := tenantIn (rdB p Ix.scTenantTable pp) t

/-- Fields of a tenant record (R201). -/
def tenantRate (b : Bytes) : Nat := leAt b 0 4
def tenantBurst (b : Bytes) : Nat := leAt b 4 4
def tenantWeight (b : Bytes) : Nat := leAt b 8 2
def tenantCost (b : Bytes) : Nat := leAt b 10 2

/-- One record of a written table keeps its layout and ranges (R201). -/
def tenantOk (b : Bytes) : Bool :=
  decide (leAt b 12 1 < 2) && allZero (slice b 13 19) &&
  (leAt b 12 1 == 0 ||
    (decide (tenantRate b ≤ 100000000) && decide (1 ≤ tenantBurst b) && decide (tenantBurst b ≤ 2000000000)
     && decide (1 ≤ tenantWeight b) && decide (tenantWeight b ≤ 1000) && decide (tenantCost b ≤ 256)))

/-- Whether a tenant table is accepted (R201). -/
def tenantTableOk (b : Bytes) : Bool := b.length % 32 == 0 && decide (b.length ≤ 2097152) && (records 32 b).all tenantOk

/-- A tenant's bucket and account. -/
def tenantOf (p : Pkg) (pp t : Nat) : Tenant := tget (part p pp).sc.tenants t {}

/-- Changes a tenant's bucket. -/
def modTenant (p : Pkg) (pp t : Nat) (f : Tenant → Tenant) : Pkg :=
  modSc p pp (fun q => { q with tenants := tmod q.tenants t {} f })

/-- Whether a level is blocked under a burst (R195). -/
def blockedLevel (level : Int) (burst : Nat) : Bool := decide (level ≤ -(256 * burst : Nat))

/-- One tenant when a table comes into force (R202, R195): a newly VALID one starts full, a valid one keeps its level clamped to its new
burst, and one that becomes blocked is reported. -/
def admitTenant (pp : Nat) (old new : Bytes) (p : Pkg) (t : Nat) : Pkg :=
  let q := tenantOf p pp t
  match tenantIn new t with
  | none => modTenant p pp t (fun q => { q with valid := false })
  | some b =>
    if q.valid = false then
      modTenant p pp t (fun q => { q with valid := true, level := (256 * tenantBurst b : Nat), remainder := 0, refillNs := p.now })
    else
      let before := match tenantIn old t with
        | some o => blockedLevel q.level (tenantBurst o)
        | none => false
      let level := min q.level ((256 * tenantBurst b : Nat) : Int)
      let p := modTenant p pp t (fun q => { q with level := level })
      if blockedLevel level (tenantBurst b) && !before then raise (last p Ix.scLastStatus pp 0x0610) 0x0610 pp t 0 else p

/-- A tenant table comes into force (R202): requests of tenants that it makes invalid end with 0x0604. -/
def applyTenants (p : Pkg) (pp : Nat) (new : Bytes) : Pkg :=
  let old := rdB p Ix.scTenantTable pp
  let p := (List.range (max old.length new.length / 32)).foldl (admitTenant pp old new) p
  modSc p pp (fun q => { q with requests := q.requests.map (fun r =>
    if r.live ∧ (tenantIn new r.tenant).isNone then { r with given := some (r.given.getD 0x0604) } else r) })

/-- Refills one bucket at action 6 (R202). -/
def refillTenant (pp : Nat) (p : Pkg) (e : Nat × Tenant) : Pkg :=
  match e.2.valid, tenantRecord p pp e.1 with
  | true, some b =>
    let n := 256 * tenantRate b * (p.now - e.2.refillNs) + e.2.remainder
    modTenant p pp e.1 (fun q => { q with level := min (q.level + (n / 1000000000 : Nat)) ((256 * tenantBurst b : Nat) : Int),
                                          remainder := n % 1000000000, refillNs := p.now })
  | _, _ => p

/-- Charges a tenant at a clean close (R202, R195). -/
def chargeTenant (p : Pkg) (pp t tokens promptTokens : Nat) : Pkg :=
  match tenantRecord p pp t with
  | none => p
  | some b =>
    let before := (tenantOf p pp t).level
    let level := before - ((256 * tokens + tenantCost b * promptTokens : Nat) : Int)
    let p := modTenant p pp t (fun q => { q with level := level })
    if blockedLevel level (tenantBurst b) && !blockedLevel before (tenantBurst b) then
      raise (last p Ix.scLastStatus pp 0x0610) 0x0610 pp t 0
    else p

/-- Accrues engine time and vtime of a row's tenant (R203). -/
def accrueEngine (p : Pkg) (pp t ns : Nat) : Pkg :=
  match tenantRecord p pp t with
  | none => p
  | some b => modTenant p pp t (fun q => { q with engineNs := q.engineNs + ns, vtime := q.vtime + ns * 1000 / max 1 (tenantWeight b) })

/-- Number of running and queued requests of a tenant. -/
def tenantRequests (p : Pkg) (pp t : Nat) : Nat := ((part p pp).sc.requests.filter (fun r => r.live && r.tenant == t)).length

/-- A tenant that gains its first request has its vtime raised to the lowest of those that have one (R203). -/
def wakeTenant (p : Pkg) (pp t : Nat) : Pkg :=
  let others := (((part p pp).sc.requests.filter (fun r => r.live)).map Req.tenant).eraseDups
  if others.contains t then p
  else match (others.map (fun o => (tenantOf p pp o).vtime)) with
    | [] => p
    | v :: vs => modTenant p pp t (fun q => { q with vtime := max q.vtime (vs.foldl min v) })

/-- `sc_tenant_state` (0x3422): the tenant's level, account, requests and state. -/
def tenantState (p : Pkg) (pp t : Nat) : Bytes :=
  match tenantRecord p pp t with
  | none => List.replicate 32 0
  | some b =>
    let q := tenantOf p pp t
    let n := tenantRequests p pp t
    let st := if blockedLevel q.level (tenantBurst b) then 3 else if n = 0 then 0 else if 0 < q.level then 1 else 2
    leBytes 8 (q.level % 2 ^ 64).toNat ++ leBytes 8 q.engineNs ++ leBytes 8 q.vtime ++ leBytes 4 n ++ leBytes 1 st ++ [0, 0, 0]

/-- Entries of class B with a partition subindex (R383). -/
def classB : List Entry := entries.filter (fun e => e.apply == .b && e.unit == .partition)

/-- Entries whose value names the first step it serves (R103, R139, R205). -/
def timed (e : Entry) : Bool := e.index == 0x2408 || e.index == 0x2C00 || e.index == 0x3402

/-- Entries whose writes an armed switch holds (R283). -/
def heldBySwitch (e : Entry) : Bool := e.index == 0x3402 || e.index == 0x2C00 || e.index == 0x2800 || e.index == 0x3002

/-- The waiting shadow of an entry in a partition (R385). -/
def shadowOf (p : Pkg) (e : Entry) (pp : Nat) : Option DVal := tfind p.dict.shadows (keyAt e 0 pp)

/-- Puts and removes a shadow. -/
def putShadow (p : Pkg) (e : Entry) (pp : Nat) (v : DVal) : Pkg :=
  { p with dict := { p.dict with shadows := tput p.dict.shadows (keyAt e 0 pp) v } }
def dropShadow (p : Pkg) (e : Entry) (pp : Nat) : Pkg :=
  { p with dict := { p.dict with shadows := tdel p.dict.shadows (keyAt e 0 pp) } }

/-- Configurations of a set and its mode (R204); 0 for an empty set. -/
def configCount (b : Bytes) : Nat := leAt b 4 1

/-- Brings a value of a class B entry into force (R383) with what its chapter ties to that (R105, R139, R202, R205, R281,
R429); `next` the step that it first serves. -/
def bringInForce (p : Pkg) (pp next : Nat) (e : Entry) (v : DVal) : Pkg :=
  match v with
  | .num n => wr p e pp n
  | .bytes b =>
    match e.index with
    | 0x2408 =>
      let p := wr (bump (wrB p e pp b) Ix.qrRecipeGeneration pp 1) Ix.qrRecipeActiveCount pp (leAt b 4 2)
      raiseStep p next 0x0211 pp 0xFFFFFFFF 0
    | 0x2C00 => bump (wrB p e pp b) Ix.erLayerGeneration pp 1
    | 0x3402 =>
      wr (wrB p e pp b) Ix.scActiveConfig pp (if b.isEmpty then 0 else min (rd p Ix.scActiveConfig pp) (configCount b - 1))
    | 0x3420 => wrB (applyTenants p pp b) e pp b
    | 0x4001 => applySwitch (wrB p e pp b) pp b
    | 0x6006 => clampBuckets (wrB p e pp b) pp
    | _ => wrB p e pp b

/-- Whether a waiting value may come into force at the boundary before step `next` (R105, R139, R205). -/
def dueAt (e : Entry) (v : DVal) (next : Nat) : Bool :=
  match v with
  | .num _ => true
  | .bytes b => !timed e || b.isEmpty || next == leAt b 0 4 || stepAhead next (leAt b 0 4)

/-- One entry at action 3: a value that an armed switch holds waits with it (R283); any other comes into force when due. -/
def applyShadow (pp next : Nat) (p : Pkg) (e : Entry) : Pkg :=
  match shadowOf p e pp with
  | none => p
  | some v =>
    match tfind p.wm.arms pp with
    | some a =>
      if heldBySwitch e then
        let p := dropShadow p e pp
        { p with wm := { p.wm with arms := tput p.wm.arms pp { a with held := tput a.held (keyAt e 0 pp) v } } }
      else if dueAt e v next then bringInForce (dropShadow p e pp) pp next e v else p
    | none => if dueAt e v next then bringInForce (dropShadow p e pp) pp next e v else p

/-- Brings the writes that an arm has held into force (R283). -/
def releaseArm (p : Pkg) (pp next : Nat) : Pkg :=
  match tfind p.wm.arms pp with
  | none => p
  | some a => (classB.filter heldBySwitch).foldl (fun p e =>
      match tfind a.held (keyAt e 0 pp) with
      | some v => bringInForce p pp next e v
      | none => p) p

/-- The package-wide class B entry at a partition's boundary (R385): its waiting value comes into force there, and the value read is
that of the partition that last passed a boundary. -/
def applyPackageWide (p : Pkg) (pp : Nat) : Pkg :=
  let t := p.dict.perPartition
  let v := (tfind t (16 + pp)).getD (tget t pp Ix.tmCommitsPerBoundary.dflt)
  let t := tput (tdel t (16 + pp)) pp v
  let p := wr { p with dict := { p.dict with perPartition := t } } Ix.tmCommitsPerBoundary 0 v
  if t.any (fun x => decide (16 ≤ x.1)) then p else dropShadow p Ix.tmCommitsPerBoundary 0

/-- `tm_commits_per_boundary` as a partition uses it (R385). -/
def commitsPerBoundary (p : Pkg) (pp : Nat) : Nat := tget p.dict.perPartition pp Ix.tmCommitsPerBoundary.dflt

/-- Action 3 of R16 before step `next`: an arm first, then the other entries, then what the arm held when the switch is due. -/
def applyClassB (p : Pkg) (pp next : Nat) (drained : Bool) : Pkg :=
  let p := applyShadow pp next p Ix.wmSwitch
  let p := (classB.filter (fun e => e.index != Ix.wmSwitch.index)).foldl (applyShadow pp next) p
  applyPackageWide (if switchDue p pp next drained then releaseArm p pp next else p) pp

/-- Action 4 of R16 (R282). -/
def applySwitchPointer (p : Pkg) (pp next : Nat) (drained : Bool) : Pkg :=
  if switchDue p pp next drained then makeSwitch p pp else p

/-- An accepted class B write of a partition's entry (R283, R383): held by an armed switch, applied at once where the partition
does not run and is neither preempted nor paused and no later step is named as its first (assumption 30), and otherwise the shadow. An
earlier value that still waits never comes into force (R107). The flag is the answer's pending flag. -/
def writeClassB (p : Pkg) (pp : Nat) (e : Entry) (v : DVal) : Pkg × Bool :=
  let next := (stepOf p pp + 1) % 2 ^ 32
  let stopped := (pcState p pp == 0 || pcState p pp == 1 || pcState p pp == 7) && dueAt e v next
  let now := bringInForce (dropShadow p e pp) pp next e v
  match tfind p.wm.arms pp with
  | some a =>
    if heldBySwitch e then
      let p := dropShadow p e pp
      ({ p with wm := { p.wm with arms := tput p.wm.arms pp { a with held := tput a.held (keyAt e 0 pp) v } } }, true)
    else if stopped then (now, false) else (putShadow p e pp v, true)
  | none => if stopped then (now, false) else (putShadow p e pp v, true)

/-- An accepted write of the package-wide class B entry (R385). -/
def writePackageWide (p : Pkg) (v : Nat) : Pkg × Bool :=
  let stopped := fun (pp : Nat) => pcState p pp == 0 || pcState p pp == 1 || pcState p pp == 7
  let t := (List.range 12).foldl (fun t pp => if stopped pp then tput t pp v else tput t (16 + pp) v) p.dict.perPartition
  let p := { p with dict := { p.dict with perPartition := t } }
  if (List.range 12).all stopped then (wr p Ix.tmCommitsPerBoundary 0 v, false)
  else (putShadow p Ix.tmCommitsPerBoundary 0 (.num v), true)

end Sys2Proof.Machine
end

