-- ==== Sys2Proof/Machine/EgressRecords.lean ====
section
/-! DEFINITION. Chapter 9: what Stream Egress makes of token records, the audit lag, and the evaluation and prediction of
every bound stream at action 6 (R221 to R223, R227 to R230). -/

namespace Sys2Proof.Machine

/-- Fields of a token record (R179). -/
def recHandle (b : Bytes) : Nat := leAt b 0 4
def recCount (b : Bytes) : Nat := leAt b 8 1
def recAccepted (b : Bytes) : Nat := leAt b 9 1
def recDraft (b : Bytes) : Bool := bit (leAt b 10 1) 1
def recEnded (b : Bytes) : Bool := bit (leAt b 10 1) 3
def recStatus (b : Bytes) : Nat := leAt b 12 2
def recTokens (b : Bytes) : List Nat := ((records 4 (slice b 16 36)).take (recCount b)).map leNat

/-- Tokens up to and including the first stop token (R227). -/
def upToStop (stop : Nat) : List Nat → List Nat
  | [] => []
  | t :: rest => if t = stop then [t] else t :: upToStop stop rest

/-- Tokens of a record that a request keeps when `generated` have counted before it (R227). -/
def keptTokens (r : Req) (generated : Nat) (tokens : List Nat) : List Nat :=
  (upToStop r.stopToken tokens).take (r.maxNew - generated)

/-- Flags bits 0 and 1 of an entry (R226): the stop token, and the limit. -/
def endFlags (r : Req) (generated : Nat) (kept : List Nat) : Nat :=
  (if kept.contains r.stopToken then 1 else 0) + (if r.maxNew ≤ generated + kept.length then 2 else 0)

/-- Whether a record is dropped (R227 step 1). -/
def dropsRecord (p : Pkg) (pp : Nat) (r : Req) : Bool :=
  r.cancelled || (r.stream != 0xFFFFFFFF && (stream p pp r.stream).state == 2)

/-- Keeps the tokens that a request received from the running step under lag 0 (R230). -/
def keepLag0 (p : Pkg) (pp : Nat) (lag0 : Bool) (l : Lag0) : Pkg :=
  if lag0 then modSe p pp (fun q => { q with lag0 := q.lag0 ++ [l] }) else p

/-- An entry of kind 1 from a record of a live request (R227); a request without a stream only counts its tokens. -/
def firstEntry (p : Pkg) (pp : Nat) (r : Req) (b : Bytes) (lag0 : Bool) : Pkg × List Entry64 :=
  let all := recTokens b
  let kept := keptTokens r r.generated all
  let flags := endFlags r r.generated kept
  let p := modReq p pp r.handle (fun r => { r with generated := r.generated + kept.length, stepTokens := r.stepTokens + kept.length,
                                                   stopHit := r.stopHit || flags % 2 == 1 })
  let p := bump (bump p Ix.seTokensTruncated pp (all.length - kept.length)) Ix.seTokensEmitted pp
    (if r.stream = 0xFFFFFFFF then 0 else kept.length)
  if r.stream = 0xFFFFFFFF then (keepLag0 p pp lag0 { stream := 0xFFFFFFFF, handle := r.handle, tokens := kept }, [])
  else
    let s := stream p pp r.stream
    let p := putStream (modStream p pp r.stream (fun s => { s with emitted := s.emitted + kept.length })) pp r.stream
    let p := keepLag0 p pp lag0 { stream := r.stream, handle := r.handle, first := s.emitted, tokens := kept }
    if kept.isEmpty then (p, [])
    else (p, [{ ring := leAt s.head 1 1, kind := 1,
                bytes := entryBytes 1 (flags + if lag0 then 4 else 0) kept.length r.stream r.handle (stepOf p pp) s.emitted
                  (kept.flatMap (leBytes 4)) (leAt s.head 12 4) }])

/-- Length of the common prefix of two token lists. -/
def commonPrefix : List Nat → List Nat → Nat
  | a :: s, b :: t => if a = b then commonPrefix s t + 1 else 0
  | _, _ => 0

/-- A recomputation's record for a request whose tokens of the rolled-back attempt went out under lag 0 (R230): nothing where they
are equal, otherwise one entry of kind 2 and event 0x0714. A request without a stream has only its count corrected. The entry's flags
bit 2 is set where the recomputation itself runs under lag 0 (R226). -/
def correction (p : Pkg) (pp : Nat) (r : Req) (v : Lag0) (b : Bytes) (lag0 : Bool) : Pkg × List Entry64 :=
  let base := r.generated - v.tokens.length
  let kept := keptTokens r base (recTokens b)
  let flags := endFlags r base kept
  let p := modSe p pp (fun q => { q with voided := q.voided.filter (· != v), lag0 := q.lag0 ++ [{ v with tokens := kept }] })
  let p := modReq p pp r.handle (fun r => { r with generated := base + kept.length, stepTokens := kept.length, stopHit := flags % 2 == 1 })
  if kept = v.tokens ∨ v.stream = 0xFFFFFFFF then (p, [])
  else
    let i := commonPrefix kept v.tokens
    let new := kept.drop i
    let s := stream p pp v.stream
    let p := putStream (modStream p pp v.stream (fun s => { s with emitted := v.first + i + new.length })) pp v.stream
    let p := bump (bump p Ix.seCorrections pp 1) Ix.seTokensEmitted pp new.length
    let p := raise (last p Ix.seLastStatus pp 0x0714) 0x0714 pp v.stream 0
    (p, [{ ring := leAt s.head 1 1, kind := 2,
           bytes := entryBytes 2 (flags + if lag0 then 4 else 0) new.length v.stream r.handle (stepOf p pp) (v.first + i) (new.flatMap (leBytes 4))
             (leAt s.head 12 4) }])

/-- One record (R227, R230). -/
def takeRecord (pp : Nat) (lag0 : Bool) (acc : Pkg × List Entry64) (b : Bytes) : Pkg × List Entry64 :=
  if recDraft b then acc
  else match (findReq acc.1 pp (recHandle b)).filter Req.live with
    | none => acc
    | some r =>
      if dropsRecord acc.1 pp r then acc
      else
        let w := match (part acc.1 pp).se.voided.find? (fun v => v.handle == r.handle) with
          | some v => correction acc.1 pp r v b lag0
          | none => firstEntry acc.1 pp r b lag0
        (w.1, acc.2 ++ w.2)

/-- Records become one emission event (R228, R229). -/
def emitRecords (p : Pkg) (pp : Nat) (rs : List Bytes) (lag0 : Bool) : Pkg :=
  let r := rs.foldl (takeRecord pp lag0) (p, [])
  emitEvent r.1 pp r.2

/-- Requests of the step's tables in length-table row order, the generation engine's first (R229). -/
def stepRows (p : Pkg) (pp : Nat) : List (Nat × Bytes) :=
  ((tableRows (tableOf p pp 0)).map (fun r => (0, r))) ++ ((tableRows (tableOf p pp 1)).map (fun r => (1, r)))

/-- Forwarded records in length-table row order. -/
def orderedRecords (p : Pkg) (pp : Nat) : List Bytes :=
  let rs := (part p pp).sc.forwarded.map (·.2)
  (stepRows p pp).flatMap (fun r => rs.filter (fun b => recHandle b == leAt r.2 0 4 && !recDraft b))

/-- Action 1's part of Stream Egress at a clean close (R222, R229, R230): held records go out, lag-0 tokens need no longer be
kept, and the step estimate follows the step's duration. -/
def closeEgress (p : Pkg) (pp duration : Nat) : Pkg :=
  let p := if (part p pp).se.stepLag0 then p else emitRecords p pp (orderedRecords p pp) false
  let d := rd p Ix.seStepEstimateNs pp
  let new := if (part p pp).se.haveEstimate then
      (((8 * (d : Int) + ((duration : Int) - (d : Int))) / 8).toNat)
    else duration
  modSe (wr p Ix.seStepEstimateNs pp new) pp (fun q => { q with lag0 := [], voided := [], haveEstimate := true })

/-- Bound streams in ascending number. -/
def boundStreams (p : Pkg) (pp : Nat) : List Nat := ((part p pp).se.streams.filter (fun e => e.2.bound.isSome)).map (·.1)

/-- Evaluates every bound stream at action 6 (R221). -/
def evaluateAll (p : Pkg) (pp : Nat) : Pkg := (boundStreams p pp).foldl (fun p n => evaluate p pp n (stream p pp n).head) p

/-- Predicts an underrun of one bound stream (R223, R224); `rows` the streams with a row in the step being started. -/
def predictOne (pp : Nat) (rows : List Nat) (p : Pkg) (n : Nat) : Pkg :=
  let s := stream p pp n
  let d := rd p Ix.seStepEstimateNs pp
  let x := if rows.contains n then d else 2 * d
  let us := runwayUs p s (leAt s.head 2 2)
  let predicted := s.playing && decide (us * 1000 - (x : Int) < ((rd p Ix.sePredictMarginMs pp * 1000000 : Nat) : Int))
  let p := modStream p pp n (fun s => { s with predicted := predicted })
  if predicted && !s.predicted then runwayEvent p pp n 0x0712 us x else p

/-- Predicts underruns after the rows are selected (R223). -/
def predictAll (p : Pkg) (pp : Nat) (rows : List Nat) : Pkg := (boundStreams p pp).foldl (predictOne pp rows) p

/-- Whether a stream's ring holds entries (R231). -/
def ringHolds (p : Pkg) (pp n : Nat) : Bool :=
  let r := leAt (stream p pp n).head 1 1
  (part p pp).se.hold.any (fun h => h.ring == r) || (part p pp).se.waiting.any (fun h => h.ring == r) || lineHeld p pp r

/-- SAMPLER_COUNT_ARRIVAL (R193, R229): with every record of the package in hand, its count is noted, and under lag 0 its
records go out as one emission event in record order. -/
def takeCount (p : Pkg) (pp package step count : Nat) : Pkg :=
  if step ≠ stepOf p pp ∨ (part p pp).pc.stepRunning = false ∨ (part p pp).sc.counts.any (fun c => c.1 == package) then p
  else
    let p := modSc p pp (fun q => { q with counts := q.counts ++ [(package, count)] })
    if (part p pp).se.stepLag0 then
      emitRecords p pp (((part p pp).sc.forwarded.filter (fun f => f.1 == package)).map (·.2)) true
    else p

end Sys2Proof.Machine
end

