-- ==== Sys2Proof/Machine/Scheduler.lean ====
section
/-! DEFINITION. Chapter 8: intake, selection of rows, tables, engine configurations and the work of a clean close (R187 to R213),
with the commits of the Sampler and Verifier and of the Attention and KV Manager (R121, R133, R134, R165). -/

namespace Sys2Proof.Machine

/-- Commits one working state (R165): emitted tokens into the history ring, and the record's counts and states. -/
def commitWork (pp : Nat) (p : Pkg) (w : Work) : Pkg :=
  let count := leAt w.record 44 4
  let base := leAt w.record 48 8
  let p := (w.emitted.zipIdx).foldl (fun p e =>
    noteWrite pp (storeLocal p (base + 4 * ((count + e.2) % 2048)) (leBytes 4 e.1) false false 0x090 0xFF (stepOf p pp))) p
  let a := rd p Ix.svRecordBase pp + w.handle % 65536 * 128
  let tail := leBytes 2 w.grammar ++ leBytes 1 w.chain ++ leBytes 1 0 ++ leBytes 4 w.draftStart ++ leBytes 4 (count + w.emitted.length)
  let p := noteWrite pp (storeLocal p (a + 36) tail false false 0x090 0xFF (stepOf p pp))
  noteWrite pp (storeLocal p (a + 64) (leBytes 2 w.chainState) false false 0x090 0xFF (stepOf p pp))

/-- Whether a request was cancelled while the step ran, as this package sees it: by the lead's list or by its masked rows (R181, R200). -/
def cancelledHere (p : Pkg) (pp handle : Nat) : Bool :=
  ((findReq p pp handle).map (·.cancelled)).getD false
  || [0, 1].any (fun e => (ltRows (tableOf p pp e) handle).any (fun r => (maskOf p pp e).contains r))

/-- Accepted count of a row with candidates, from the working state or the forwarded record (R121). -/
def acceptedOf (p : Pkg) (pp handle : Nat) : Option Nat :=
  match ((part p pp).sv.working.find? (fun w => w.handle == handle)).bind (·.accepted) with
  | some a => some a
  | none => (((part p pp).sc.forwarded.map (·.2)).find? (fun b => recHandle b == handle && !recDraft b)).map recAccepted

/-- Commits the positions of one row (R121): those of candidates up to the accepted count; a row whose count is not known here
keeps its candidates tentative. -/
def commitRow (pp : Nat) (p : Pkg) (r : Bytes) : Pkg :=
  let start := leAt r 4 4
  if leAt r 10 1 = 0 then commitPositions p pp (leAt r 0 4) (start + leAt r 8 2)
  else match acceptedOf p pp (leAt r 0 4) with
    | some a => commitPositions p pp (leAt r 0 4) (start + a + 1)
    | none => p

/-- New tokens that a request's next row will have (R196, R207). -/
def nextTokens (p : Pkg) (pp : Nat) (r : Req) : Nat :=
  if r.promptDone < r.prompt then min (r.prompt - r.promptDone) (rd p Ix.scPrefillRowTokens pp) else 1 + r.drafts.length

/-- Eviction of one request that ran in the step (R133): a budget that cannot be met ends it with 0x0308. -/
def evictRow (pp : Nat) (p : Pkg) (row : Bytes) : Pkg :=
  let h := leAt row 0 4
  let r := findReq p pp h
  let own := fun (v : Option Nat) (d : Nat) => if v.getD 0 = 0 then d else v.getD 0
  let threshold := own (r.map (fun r => leAt r.record 64 4)) (rd p Ix.akEvictThreshold pp)
  let budget := own (r.map (fun r => leAt r.record 68 4)) (rd p Ix.akPageBudget pp)
  let need := match r with
    | some r => pagesNeeded p pp r.committed (nextTokens p pp r)
    | none => pagesNeeded p pp (leAt row 4 4 + leAt row 8 2) 1
  let e := evictRequest p pp h (BitVec.ofNat 32 threshold) budget need
  if e.2 then e.1 else modReq (last e.1 Ix.akLastStatus pp 0x0308) pp h (fun r => { r with given := some (r.given.getD 0x0308) })

/-- Rows of the step whose requests still hold pages here. -/
def liveRows (p : Pkg) (pp : Nat) : List Bytes :=
  ((stepRows p pp).map (·.2)).filter (fun r => (part p pp).ak.slots.any (fun s => s.handle == leAt r 0 4))

/-- Action 2's work of the Attention and KV Manager, the Sampler and Verifier, and the Tier Manager (R121, R133, R165, R252). -/
def commitStep (p : Pkg) (pp : Nat) : Pkg :=
  let p := ((part p pp).sv.working.filter (fun w => !cancelledHere p pp w.handle)).foldl (commitWork pp) p
  let p := (liveRows p pp).foldl (commitRow pp) p
  let p := modSv p pp (fun q => { q with working := [] })
  let p := (liveRows p pp).foldl (evictRow pp) p
  commitMoves p pp (commitsPerBoundary p pp)

/-- A request's record and drafts among the forwarded ones (R192, R197). -/
def advanceRequest (p : Pkg) (pp : Nat) (row : Bytes) : Pkg :=
  let h := leAt row 0 4
  let rs := ((part p pp).sc.forwarded.map (·.2)).filter (fun b => recHandle b == h)
  let target := (rs.filter (fun b => !recDraft b)).getLast?
  let drafts := (rs.filter recDraft).flatMap recTokens
  let start := leAt row 4 4
  let new := leAt row 8 2
  let prefill := bit (leAt row 11 1) 0
  modReq p pp h (fun r =>
    let r := if prefill then { r with promptDone := start + new, committed := start + new } else r
    let r := match rs.find? (fun b => recEnded b && recStatus b != 0) with
      | some b => { r with given := some (r.given.getD (recStatus b)) }
      | none => r
    let r := match target with
      | none => r
      | some b =>
        let r := match (recTokens b).getLast? with
          | some t => { r with lastToken := t }
          | none => r
        let r := if prefill then r else { r with committed := start + recAccepted b + 1 }
        { r with drafts := [] }
    { r with drafts := r.drafts ++ drafts })

/-- Blocks of an engine in the configuration in use (R204, R205): every block generates where no set is in force. -/
def roleOf (p : Pkg) (pp b : Nat) : Nat :=
  let set := rdB p Ix.scEngineConfigs pp
  if set.isEmpty then (if (blocksOf p pp).contains b then 1 else 0)
  else leAt set (32 + rd p Ix.scActiveConfig pp * 9216 + b * 96) 1

/-- Number of blocks of an engine: 0 generation, 1 prefill. -/
def engineBlocks (p : Pkg) (pp e : Nat) : Nat := ((blocksOf p pp).filter (fun b => roleOf p pp b == e + 1)).length

/-- Charges of one row (R202, R203). -/
def chargeRow (pp duration : Nat) (p : Pkg) (er : Nat × Bytes) : Pkg :=
  match findReq p pp (leAt er.2 0 4) with
  | none => p
  | some r =>
    let new := leAt er.2 8 2
    let p := chargeTenant p pp r.tenant r.stepTokens (if bit (leAt er.2 11 1) 0 then new else 0)
    accrueEngine p pp r.tenant (engineBlocks p pp er.1 * duration * new / max 1 (leAt (tableOf p pp er.1) 4 4))

/-- Status and reason with which a request ends at a clean close (R211). -/
def endOf (r : Req) : Option (Nat × Nat) :=
  if r.ended.isSome then r.ended
  else if r.maxNew ≤ r.generated then some (0, 0)
  else if r.stopHit then some (0, 1)
  else if r.cancelled then some (0x0602, 2)
  else r.given.map (fun s => (s, 3))

/-- Action 1 at the lead for a clean close (R192, R202, R203, R211, R217, R222, R441). -/
def closeLead (p : Pkg) (pp : Nat) : Pkg :=
  let d := p.now - (part p pp).pc.stepStartNs
  let p := closeEgress p pp d
  let p := (stepRows p pp).foldl (fun p r => advanceRequest p pp r.2) p
  let p := (stepRows p pp).foldl (chargeRow pp d) p
  let p := bump p Ix.scRowsBudgetHeld pp (part p pp).sc.budgetHeld
  modSc p pp (fun q => { q with budgetHeld := 0, requests := q.requests.map (fun r => { r with ended := endOf r }) })

/-- Action 1 on any member for a clean close (R441): the epoch is closed. -/
def closeEpoch (p : Pkg) (pp : Nat) : Pkg :=
  let p := bump (wr p Ix.ruLastClosedStep pp (stepOf p pp)) Ix.pcStepsCompleted pp 1
  let p := modPc p pp (fun q => { q with stepRunning := false, watchdogStep := none })
  if p.tf.memberLost.contains pp then showProfile { p with tf := { p.tf with memberLost := p.tf.memberLost.filter (· != pp) } } else p

/-- Queues the answers of cancel words (R210), dated with the boundary's step: at every boundary, whether or not it closes a step. -/
def queueAnswers (p : Pkg) (pp : Nat) : Pkg :=
  let all := (part p pp).sc.answers
  modSc p pp (fun q => { q with answers := [], completions := q.completions ++
                                all.map (fun c => { c with bytes := overlay c.bytes 28 (leBytes 4 (stepOf p pp)) }) })

/-- Action 2 at the lead (R192, R210 to R212, R228). -/
def freeEnded (p : Pkg) (pp : Nat) : Pkg := finishRequests (queueAnswers p pp) pp

/-- A binary32 field within closed bounds; a NaN lies in none. -/
def within32 (lo hi w : Word) : Bool := !isNaN w && !flt w lo && !flt hi w

/-- Whether the fields of an intake record are in range (R162, R189), its stream aside. -/
def intakeFields (b : Bytes) : Bool :=
  let f := fun (o : Nat) => BitVec.ofNat 32 (leAt b o 4)
  leAt b 0 1 == 1 && decide (leAt b 1 1 < 2) && allZero (slice b 72 56)
  && decide (1 ≤ leAt b 12 4) && decide (leAt b 12 4 ≤ 262144) && leAt b 16 8 % 64 == 0
  && decide (1 ≤ leAt b 24 4) && decide (leAt b 24 4 ≤ 16777216) && decide (leAt b 38 2 ≤ 2048)
  && ((f 48).toNat % 2 ^ 31 == 0 || within32 0x3C23D70A 0x42C80000 (f 48)) && decide (leAt b 52 4 ≤ 262144)
  && within32 0x00000001 0x3F800000 (f 56) && within32 0x3F800000 0x41000000 (f 60) && !isNaN (f 64)

/-- Version that an intake record pins (R188, R283). -/
def pinOf (p : Pkg) (pp : Nat) (b : Bytes) : Nat :=
  if leAt b 8 2 ≠ 0xFFFF then leAt b 8 2
  else match tfind p.wm.arms pp with
    | some a => a.version
    | none => rd p Ix.wmVersionCurrent pp

/-- Whether a version is resident (R189, R277): a damaged one is not until its refill ends (R280). -/
def residentVersion (p : Pkg) (v : Nat) : Bool :=
  match findVersion p v with
  | some x => x.state == 1
  | none => false

/-- The checks of an intake record (R189): the lowest code that fails, 0 for none. Reading the stream record may clear it (R219). -/
def intakeCheck (p : Pkg) (pp : Nat) (b : Bytes) : Pkg × Nat :=
  let n := leAt b 32 4
  let s := if n = 0xFFFFFFFF then (p, true)
    else match readStream p pp n with
      | (p, some h) => (p, streamValid p pp n h)
      | (p, none) => (p, false)
  let code := if !intakeFields b || !s.2 then 0x0601
    else if (tenantRecord p pp (leAt b 2 2)).isNone then 0x0604
    else if bit (leAt b 1 1) 0 && (decide (rd p Ix.scSlabSlotBytes pp < 8256 + 32 * rd p Ix.scVocab pp)
        || decide (0xFFFF < rd p Ix.svDraftVersion pp)) then 0x0605
    else if !residentVersion p (pinOf p pp b) then 0x06E2
    else 0
  (s.1, code)

/-- Slot of a handle. -/
def slotOfHandle (h : Nat) : Nat := h % 65536

/-- The lowest free slot (R190) and the handle it gives. -/
def freeSlab (p : Pkg) (pp : Nat) : Option (Nat × Nat) :=
  let q := (part p pp).sc
  let taken := q.requests.map (fun r => slotOfHandle r.handle)
  ((List.range (rd p Ix.scSlabSlots pp)).find? (fun s => !taken.contains s)).map (fun s =>
    let g := tget q.generations s 0
    let g := if g = 65535 ∧ s = 65535 then 0 else g
    (s, g * 65536 + s))

/-- The sampling record of an admitted request (R191). -/
def samplingRecord (p : Pkg) (pp handle slot version : Nat) (b : Bytes) : Bytes :=
  let a := rd p Ix.scSlabBase pp + slot * rd p Ix.scSlabSlotBytes pp
  let spec := bit (leAt b 1 1) 0
  leBytes 4 handle ++ leBytes 2 version ++ leBytes 1 (if spec then 3 else 1) ++ [0] ++ slice b 40 8 ++ slice b 48 16
    ++ slice b 38 2 ++ slice b 10 2 ++ slice b 36 2 ++ [0, 0] ++ leBytes 4 (leAt b 12 4 + 1) ++ leBytes 4 0 ++ leBytes 8 a
    ++ leBytes 8 (if spec then a + 8192 else 0) ++ slice b 36 2 ++ List.replicate 62 0

/-- Admits a valid record (R190, R191, R203, R213). -/
def admitRecord (p : Pkg) (pp seq slot handle : Nat) (b : Bytes) : Pkg :=
  let version := pinOf p pp b
  let p := noteWrite pp (storeLocal p (rd p Ix.svRecordBase pp + slot * 128) (samplingRecord p pp handle slot version b) false false 0x090
    0xFF (stepOf p pp))
  let p := wakeTenant p pp (leAt b 2 2)
  let r : Req := { handle, sequence := seq, record := b, version }
  let p := modSc p pp (fun q => { q with requests := q.requests ++ [r], generations := tput q.generations slot ((handle / 65536 + 1) % 65536) })
  let p := (needDirectory p pp handle).getD p
  let p := if r.stream = 0xFFFFFFFF then p
    else match readStream p pp r.stream with
      | (p, some h) => bindStream p pp r.stream handle h
      | (p, none) => p
  bump (queueCompletion p pp { handle, bytes := completionBytes 1 0 0 handle seq r.clientTag 0 0 (stepOf p pp) }) Ix.scAdmitted pp 1

/-- Reports a record that takes no slot (R189, R210). -/
def refuseRecord (p : Pkg) (pp seq status reason tag : Nat) : Pkg :=
  queueCompletion p pp { handle := 0xFFFFFFFF, final := true, bytes := completionBytes 2 reason status 0xFFFFFFFF seq tag 0 0 (stepOf p pp) }

/-- Reads intake records in sequence order (R213); `n` is how many may still be read. -/
def readIntake (pp : Nat) : (n : Nat) → Pkg → Pkg
  | 0, p => p
  | n + 1, p =>
    let seq := rd p Ix.scIntakeConsumed pp
    let q := (part p pp).sc
    if q.overrun = true ∨ rd p Ix.scIntakePublished pp ≤ seq then p
    else
      let next := fun (p : Pkg) => readIntake pp n (wr p Ix.scIntakeConsumed pp (seq + 1))
      match loadLocal p (rd p Ix.scIntakeBase pp + 128 * (seq % max 1 (rd p Ix.scIntakeSlots pp))) 128 false with
      | (p, .error _) =>
        next (refuseRecord (bump (last p Ix.scLastStatus pp 0x0601) Ix.scRejected pp 1) pp seq 0x0601 3 0)
      | (p, .ok b) =>
        if q.marked.contains seq then
          next (refuseRecord (modSc (noteSc p pp 0x0602) pp (fun q => { q with marked := q.marked.filter (· != seq) })) pp seq 0x0602 2 (leAt b 4 4))
        else
          let c := intakeCheck p pp b
          if c.2 ≠ 0 then
            let p := if c.2 = 0x0601 then logViolation c.1 3 0xFF 0xFFFF 0x0601 (stepOf p pp) (b.take 12) else c.1
            next (refuseRecord (bump (last p Ix.scLastStatus pp c.2) Ix.scRejected pp 1) pp seq c.2 3 (leAt b 4 4))
          else match freeSlab c.1 pp with
            | none => c.1
            | some (slot, handle) => next (admitRecord c.1 pp seq slot handle b)

/-- Urgency class of a request past its prompt (R194), with its runway. -/
def urgency (p : Pkg) (pp : Nat) (r : Req) : Nat × Nat :=
  if r.stream = 0xFFFFFFFF then (2, 0xFFFFFFFF)
  else
    let s := stream p pp r.stream
    let ms := s.runwayMs
    (if ms ≤ criticalOf p pp s.head then 0 else if ms ≤ warnOf p pp s.head then 1 else if ms ≤ rd p Ix.scRunwayAheadMs pp then 2 else 3, ms)

/-- Whether a generation row of a request is eligible (R195). -/
def genEligible (p : Pkg) (pp : Nat) (r : Req) : Bool :=
  let l := (tenantOf p pp r.tenant).level
  match tenantRecord p pp r.tenant with
  | none => false
  | some b => decide (0 < l) || ((urgency p pp r).1 == 0 && rd p Ix.scBudgetOverride pp == 1 && !blockedLevel l (tenantBurst b))

/-- Whether a prefill row of a request is eligible (R195). -/
def preEligible (p : Pkg) (pp : Nat) (r : Req) : Bool :=
  (tenantRecord p pp r.tenant).isSome && decide (0 < (tenantOf p pp r.tenant).level)

/-- Requests that the lead may select at all (R196, R210): live, not cancelled, not given a final status, of the version in force. -/
def candidates (p : Pkg) (pp : Nat) : List Req :=
  (part p pp).sc.requests.filter (fun r => r.live && !r.cancelled && r.given.isNone && r.version == rd p Ix.wmVersionCurrent pp)

/-- A chosen row: request, tokens and flags. -/
structure Chosen where
  req : Req := {}
  new : Nat := 0
  flags : Nat := 0
  deriving DecidableEq, Repr

/-- Takes rows in order while they fit (R196): at the first that does not, selection stops. -/
def takeRows (max : Nat) : List Chosen → (tiles rows : Nat) → List Chosen
  | [], _, _ => []
  | c :: rest, tiles, rows =>
    if max < tiles + (c.new + 15) / 16 ∨ rows = 4095 then [] else c :: takeRows max rest (tiles + (c.new + 15) / 16) (rows + 1)

/-- Generation rows in the order of R196. -/
def genCandidates (p : Pkg) (pp : Nat) : List Req :=
  let all := (candidates p pp).filter (fun r => decide (r.prompt ≤ r.promptDone) && !(r.stream != 0xFFFFFFFF && ringHolds p pp r.stream))
  let key := fun (r : Req) => [(urgency p pp r).1, (tenantOf p pp r.tenant).vtime, (urgency p pp r).2, r.handle]
  sortBy (fun a b => decide (key a < key b)) all

/-- Prefill rows in the order of R196; none that would complete the prompt of a request whose ring holds entries (R231). -/
def preCandidates (p : Pkg) (pp limit : Nat) : List Req :=
  let all := (candidates p pp).filter (fun r => r.queued
    && !(r.stream != 0xFFFFFFFF && ringHolds p pp r.stream && decide (r.prompt - r.promptDone ≤ limit)))
  let key := fun (r : Req) => [(tenantOf p pp r.tenant).vtime, r.sequence]
  sortBy (fun a b => decide (key a < key b)) all

/-- A prefill or chunk row (R196, R197): NO_SAMPLE unless it completes the prompt. -/
def prefillRow (limit : Nat) (r : Req) : Chosen :=
  let n := min (r.prompt - r.promptDone) limit
  { req := r, new := n, flags := if n = r.prompt - r.promptDone then 1 else 3 }

/-- Whether the set in force runs the native mode (R204, R205). -/
def nativeMode (p : Pkg) (pp : Nat) : Bool :=
  let b := rdB p Ix.scEngineConfigs pp
  !b.isEmpty && leAt b 5 1 == 0

/-- Offers chosen rows to the Attention and KV Manager (R134): a row whose pages cannot be reserved is left out with event 0x0309. -/
def reserveRows (pp : Nat) (p : Pkg) : List Chosen → Pkg × List Chosen
  | [] => (p, [])
  | c :: rest =>
    let start := if bit c.flags 0 then c.req.promptDone else c.req.committed
    match reserveRow p pp c.req.handle start c.new with
    | some p' => let r := reserveRows pp p' rest; (r.1, c :: r.2)
    | none =>
      let p := raise (last (bump p Ix.akRowsDeferred pp 1) Ix.akLastStatus pp 0x0309) 0x0309 pp c.req.handle 0
      reserveRows pp p rest

/-- Selects the rows of both engines (R196, R207, R231), with the number left out as ineligible, which counts at the clean close (0x3436). -/
def selectRows (p : Pkg) (pp : Nat) : Pkg × List Chosen × List Chosen :=
  let g := genCandidates p pp
  let gen := takeRows (rd p Ix.scGenTilesMax pp) ((g.filter (genEligible p pp)).map (fun r => { req := r, new := 1 + r.drafts.length })) 0 0
  let native := nativeMode p pp
  let limit := if native then rd p Ix.scPrefillRowTokens pp else rd p Ix.scChunkTokens pp
  let q := if native && engineBlocks p pp 1 == 0 then [] else preCandidates p pp limit
  let rows := (q.filter (preEligible p pp)).map (prefillRow limit)
  let held := (g.filter (fun r => !genEligible p pp r)).length + (q.filter (fun r => !preEligible p pp r)).length
  let p := modSc p pp (fun q => { q with budgetHeld := held })
  let used := (gen.map (fun c => (c.new + 15) / 16)).sum
  let pre := if native then takeRows (rd p Ix.scPrefillTilesMax pp) rows 0 0 else takeRows (rd p Ix.scGenTilesMax pp) rows used gen.length
  let a := reserveRows pp p gen
  let b := reserveRows pp a.1 pre
  let p := showPool b.1 pp
  if native then (p, a.2, b.2) else (p, a.2 ++ b.2, [])

/-- Reads `n` prompt tokens from host memory (R197). -/
def readPrompt (addr : Nat) : (n : Nat) → Pkg → List Nat → Pkg × Option (List Nat)
  | 0, p, acc => (p, some acc.reverse)
  | n + 1, p, acc =>
    match hostReadWord p addr with
    | (.ok w, p) => readPrompt (addr + 4) n p (w.toNat :: acc)
    | (.error s, p) => (noteHostErrors p [(addr, s)], none)

/-- Tokens of a chosen row (R197): the last token with its draft chain, or prompt tokens; a prompt that cannot be read ends the
request with 0x0608. -/
def rowTokens (pp : Nat) (p : Pkg) (c : Chosen) : Pkg × Option (List Nat) :=
  if bit c.flags 0 = false then (p, some (c.req.lastToken :: c.req.drafts))
  else
    let a := c.req.promptAddr + 4 * c.req.promptDone
    match readPrompt a c.new (countHostReads p a (4 * c.new)) [] with
    | (p, some l) => (p, some l)
    | (p, none) =>
      (modReq (last p Ix.scLastStatus pp 0x0608) pp c.req.handle (fun r => { r with given := some (r.given.getD 0x0608) }), none)

/-- Rows with their tokens. -/
def gatherTokens (pp : Nat) (p : Pkg) : List Chosen → Pkg × List (Chosen × List Nat)
  | [] => (p, [])
  | c :: rest =>
    match rowTokens pp p c with
    | (p, some t) => let r := gatherTokens pp p rest; (r.1, (c, t) :: r.2)
    | (p, none) => gatherTokens pp p rest

/-- Rows of a length table and its token array (R113, R197, R198). -/
def layRows (p : Pkg) (pp version : Nat) : List (Chosen × List Nat) → (tile : Nat) → Bytes × Bytes
  | [], _ => ([], [])
  | (c, t) :: rest, tile =>
    let r := layRows p pp version rest (tile + (c.new + 15) / 16)
    let dir := ((findDir p pp c.req.handle).map (·.addr)).getD 0
    let start := if bit c.flags 0 then c.req.promptDone else c.req.committed
    (leBytes 4 c.req.handle ++ leBytes 4 start ++ leBytes 2 c.new ++ leBytes 1 (if bit c.flags 0 then 0 else c.req.drafts.length)
       ++ leBytes 1 c.flags ++ leBytes 4 tile ++ leBytes 8 dir ++ leBytes 2 version ++ List.replicate 6 0 ++ r.1,
     padTo (t.flatMap (leBytes 4)) (64 * ((c.new + 15) / 16)) ++ r.2)

/-- A length table and its token array (R113, R198); empty with no row. -/
def buildTable (p : Pkg) (pp step : Nat) (rows : List (Chosen × List Nat)) : Bytes × Bytes :=
  if rows.isEmpty then ([], [])
  else
    let version := rd p Ix.wmVersionCurrent pp
    let l := layRows p pp version rows 0
    (leBytes 4 rows.length ++ leBytes 4 ((rows.map (fun r => r.1.new)).sum) ++ leBytes 4 ((rows.map (fun r => (r.1.new + 15) / 16)).sum)
       ++ leBytes 4 step ++ leBytes 2 version ++ List.replicate 46 0 ++ l.1, l.2)

/-- Address of an engine's table buffer for a step (R198). -/
def tableAddr (p : Pkg) (pp e step : Nat) : Nat := rd p Ix.scTableAreaBase pp + (2 * e + step % 2) * 0x60000

/-- Puts an engine's table for a step in force on this package (R198, R200): both parts are written into the buffer, and with a new step
number the engine's row mask is cleared. -/
def putTable (p : Pkg) (pp e step : Nat) (table tokens : Bytes) : Pkg :=
  let a := tableAddr p pp e step
  let p := if table.isEmpty then p
    else noteWrite pp (storeLocal (noteWrite pp (storeLocal p a table false false 0x090 0xFF step)) (a + 0x20040) tokens false false 0x090 0xFF step)
  let set := fun (l : List Bytes) (b : Bytes) => if e = 0 then [b, l.getD 1 []] else [l.getD 0 [], b]
  let kept := if (part p pp).sc.tableSteps.getD e 0 = step then maskOf p pp e else []
  touch (modSc p pp (fun q => { q with
    tables := set q.tables table, tokens := set q.tokens tokens,
    tableSteps := if e = 0 then [step, q.tableSteps.getD 1 0] else [q.tableSteps.getD 0 0, step],
    masks := if e = 0 then [kept, q.masks.getD 1 []] else [q.masks.getD 0 [], kept] })) Ix.scRowMask pp

/-- Applies cancel notices that waited for a table (R200, R209). -/
def applyNotices (p : Pkg) (pp e step : Nat) : Pkg :=
  (part p pp).sc.notices.foldl (fun p n =>
    if n.1 = step then maskRows p pp (if e = 0 then n.2.1 else []) (if e = 1 then n.2.2 else []) else p) p

/-- Writes the program table entries of the partition from the configuration in use (R199). -/
def writeEntries (p : Pkg) (pp : Nat) (hasGen hasPre : Bool) : Pkg :=
  let set := rdB p Ix.scEngineConfigs pp
  if set.isEmpty then p
  else (blocksOf p pp).foldl (fun p b =>
    let o := 32 + rd p Ix.scActiveConfig pp * 9216 + b * 96
    let role := leAt set o 1
    let busy := (role == 1 && hasGen) || (role == 2 && hasPre)
    if role = 0 then p
    else noteWrite pp (storeLocal p (rd p Ix.pcProgramTableBase pp + 32 * b) (slice set (o + if busy then 32 else 64) 32) false false 0x090
      0xFF (stepOf p pp))) p

/-- Action 5 (R206): the lead's choice of the configuration; a change raises event 0x0611. -/
def chooseConfig (p : Pkg) (pp : Nat) : Pkg :=
  if !nativeMode p pp then p
  else
    let q := (part p pp).sc
    let n := configCount (rdB p Ix.scEngineConfigs pp)
    let c := rd p Ix.scActiveConfig pp
    let s := (part p pp).pc.stepStartNs
    let tg := q.genEndNs - s
    let tp := q.preEndNs - s
    let h := rd p Ix.scSplitHysteresisPm pp
    let queue := q.requests.any (fun r => r.queued && !r.cancelled)
    let since := q.sinceChange + 1
    let new :=
      if queue = false ∧ q.preRan = false then 0
      else if c = 0 then min (rd p Ix.scSplitWakeConfig pp) (n - 1)
      else if since < rd p Ix.scSplitHoldSteps pp then c
      else if tg * (1000 + h) < tp * 1000 ∧ c < n - 1 then c + 1
      else if tp * (1000 + h) < tg * 1000 ∧ 1 < c then c - 1
      else c
    if new = c then modSc p pp (fun q => { q with sinceChange := since })
    else
      let p := bump (wr (modSc p pp (fun q => { q with sinceChange := 0 })) Ix.scActiveConfig pp new) Ix.scSplitChanges pp 1
      raise (last p Ix.scLastStatus pp 0x0611) 0x0611 pp 0xFFFFFFFF 0

/-- Number of the next step (R486). -/
def nextStep (p : Pkg) (pp : Nat) : Nat :=
  let last := stepOf p pp
  let tick := p.now / 1000000 % 2 ^ 32
  let q := (part p pp).pc
  if q.firstStep = true ∧ (q.numbered = false ∨ stepAhead tick last = true) then tick else (last + 1) % 2 ^ 32

/-- Last use of the requests that have a row in the step (R251). -/
def noteRows (p : Pkg) (pp step : Nat) : Pkg :=
  modSc p pp (fun q => { q with lastUse := ((stepRows p pp).map (fun r => leAt r.2 0 4)).foldl (fun t h => tput t h step) q.lastUse })

/-- Tenant levels, request states and streams that the lead appends to its notice while a deputy is named (R185, R233). -/
def deputyLevels (p : Pkg) (pp : Nat) : List (Nat × Int) :=
  if rd p Ix.scDeputyPackage pp = 0xFFFF then []
  else ((part p pp).sc.tenants.filter (fun e => e.2.valid)).map (fun e => (e.1, e.2.level))
def deputyStates (p : Pkg) (pp : Nat) : List RequestState :=
  if rd p Ix.scDeputyPackage pp = 0xFFFF then []
  else ((part p pp).sc.requests.filter (fun r => r.live)).map (fun r =>
    { handle := r.handle, sequence := r.sequence, record := r.record, version := r.version, promptDone := r.promptDone,
      generated := r.generated, committed := r.committed, lastToken := r.lastToken, drafts := r.drafts, cancelled := r.cancelled,
      given := r.given, parked := r.parked })
def deputyStreams (p : Pkg) (pp : Nat) : List StreamState :=
  if rd p Ix.scDeputyPackage pp = 0xFFFF then []
  else (part p pp).se.streams.map (fun e =>
    { stream := e.1, bound := e.2.bound, head := e.2.head, emitted := e.2.emitted, playedUs := e.2.playedUs, reportNs := e.2.reportNs,
      state := e.2.state, level := e.2.level })

/-- Action 6 at the lead (R192, R194 to R199, R202, R212, R213, R221, R223, R251, R253): the notice to send. -/
def admitStep (p : Pkg) (pp step : Nat) (drained : Bool) : Pkg × StepNotice :=
  let p := (part p pp).sc.tenants.foldl (refillTenant pp) p
  let p := evaluateAll (readIntake pp (rd p Ix.scIntakePerBoundary pp) p) pp
  let s := selectRows p pp
  let g := gatherTokens pp s.1 s.2.1
  let f := gatherTokens pp g.1 s.2.2
  let p := f.1
  let tg := buildTable p pp step g.2
  let tp := buildTable p pp step f.2
  let p := putTable (putTable p pp 0 step tg.1 tg.2) pp 1 step tp.1 tp.2
  let p := modSc p pp (fun q => { q with requests := q.requests.map (fun r => { r with stepTokens := 0 }) })
  let chosen := (g.2 ++ f.2).map (fun c => c.1.req)
  let p := predictAll p pp ((chosen.filter (fun r => r.stream != 0xFFFFFFFF)).map Req.stream)
  let p := writeEntries p pp (!tg.1.isEmpty) (!tp.1.isEmpty)
  let p := demotePages p pp (chosen.map Req.handle)
  let byClass := sortBy (fun (a b : Req) => decide ([(urgency p pp a).1, a.handle] < [(urgency p pp b).1, b.handle])) chosen
  let p := promotePages p pp (byClass.map Req.handle)
  let p := storeConsumed (pumpCompletions (showRequests (showParked p pp) pp) pp) pp
  (p, { step, config := rd p Ix.scActiveConfig pp, hasGen := !tg.1.isEmpty, hasPre := !tp.1.isEmpty, genLength := tg.1.length,
        preLength := tp.1.length, drained := drained, levels := deputyLevels p pp, states := deputyStates p pp, streams := deputyStreams p pp })

/-- Pages of requests whose rows were masked in the step that has closed clean are freed on a member that does not lead (R16 action 2,
R135). -/
def freeCancelled (p : Pkg) (pp : Nat) : Pkg :=
  ((((stepRows p pp).map (fun r => leAt r.2 0 4)).eraseDups).filter (cancelledHere p pp)).foldl (fun p h => freeRequest p pp h) p

/-- What a member that does not lead does with one row of a step's tables before the step (R121, R134; assumption 159: DEDUCED): pages of
an earlier request of the same slot are freed, positions below `start` are committed, and the row's pages are reserved. -/
def reserveMember (pp : Nat) (p : Pkg) (row : Bytes) : Pkg :=
  let h := leAt row 0 4
  let older := (((part p pp).ak.slots.map (·.handle)).filter (fun x => x % 65536 == h % 65536 && x != h)).eraseDups
  let p := commitPositions (older.foldl (fun p x => freeRequest p pp x) p) pp h (leAt row 4 4)
  showPool ((reserveRow p pp h (leAt row 4 4) (leAt row 8 2)).getD p) pp

/-- The Attention and KV Manager's and the Tier Manager's work of action 6 on a member that does not lead (R134, R251, R253): it knows no
urgency, so pages are taken in the order of their handles. -/
def memberPages (p : Pkg) (pp : Nat) : Pkg :=
  let rows := (stepRows p pp).map (·.2)
  let p := rows.foldl (reserveMember pp) p
  let handles := rows.map (fun r => leAt r 0 4)
  promotePages (demotePages p pp handles) pp (sortBy (fun a b => decide (a < b)) handles)

/-- Whether the lead may close the running step clean (R193, R441): a clean report of every member that is not a hole, no poison
notice, and the counts of every sampling package. -/
def closable (p : Pkg) (pp : Nat) : Bool :=
  let listed := (records 2 (rdB p Ix.scSamplerPackages pp)).map leNat
  let listed := if listed.isEmpty then [ownId p] else listed
  (part p pp).ru.poison.isNone
  && (membersOf p pp).all (fun m => (part p pp).ru.reports.any (fun r => r.sender == m && r.verdict == 0 && r.step == stepOf p pp))
  && listed.all (fun m => (part p pp).sc.counts.any (fun c => c.1 == m))

end Sys2Proof.Machine
end

