-- ==== Sys2Proof/Machine/Replica.lean ====
section
/-! DEFINITION. Rack messages as they are sent (R371, R372), and the replica digests of R450 to R452. -/

namespace Sys2Proof.Machine

/-- Management port that the package sends on (R371); none while both are down. -/
def sendPort (p : Pkg) : Option Nat :=
  if rd p Ix.mpPortState 0 = 2 then some 0 else if rd p Ix.mpPortState 1 = 2 then some 1 else none

/-- Sends one rack message (R371, R372). -/
def sendRack (p : Pkg) (type step : Nat) (body : Bytes) : Pkg :=
  match sendPort p with
  | none => p
  | some t =>
    let n := tget p.mp.rackSent type 0 + 1
    emit (bump { p with mp := { p.mp with rackSent := tput p.mp.rackSent type n } } Ix.mpTxDatagrams t 1)
      (.rackMessage t { type, sender := ownId p, bodyBytes := body.length, sequence := n, timeNs := p.now, step,
                        keyEpoch := rd p Ix.btRackKeyEpoch 0, body })

/-- Sends a message to every peer of a replica record, at the rack destination (0x1016); nothing while that is empty. -/
def sendPeers (p : Pkg) (peers : List Nat) (type step : Nat) (body : Bytes) : Pkg :=
  if (rdB p Ix.mpRackDestination 0).isEmpty then p else peers.foldl (fun p _ => sendRack p type step body) p

/-- Records of the replica table in force (R450). -/
def replicaRecords (p : Pkg) : List (Bytes × Nat) :=
  ((records 32 (rdB p Ix.ruReplicaTable 0)).zipIdx).filter (fun e => bit (leAt e.1 7 1) 0)

/-- Peers of a record. -/
def peersOf (b : Bytes) : List Nat := ((records 2 (slice b 8 24)).map leNat).take (leAt b 6 1)

/-- Whether a replica table keeps its layout, and every version that it names is resident (R450). -/
def replicaTableOk (p : Pkg) (b : Bytes) : Bool :=
  b.length % 32 == 0 && decide (b.length ≤ 512) && (records 32 b).all (fun r =>
    decide (leAt r 6 1 ≤ 12) && decide (leAt r 7 1 < 2)
    && ((records 2 (slice r 8 24)).map leNat).zipIdx.all (fun e => decide (e.2 < leAt r 6 1) || e.1 == 0xFFFF)
    && (leAt r 7 1 == 0 || (match findVersion p (leAt r 0 2) with
        | some v => v.state == 1
        | none => false)))

/-- The version and position that a record names, if this package holds it (R450). -/
def replicaVersion (p : Pkg) (b : Bytes) : Option Version :=
  (findVersion p (leAt b 0 2)).filter (fun v => v.position == leAt b 4 2 && v.state == 1)

/-- Slices of a round: index in the digest table, shard, slice (R451). -/
def roundSlices (v : Version) (k : Nat) : List (Nat × Shard × Nat) :=
  v.shards.flatMap (fun s => ((List.range s.digests.length).map (fun j => (s.digestIndex + j, s, j))).filter
    (fun e => e.1 % 256 == k % 256))

/-- SHA-256 of a slice as it lies in memory (R451); none where it cannot be read. -/
def sliceDigest (p : Pkg) (s : Shard) (j : Nat) : Pkg × Option Bytes :=
  match loadLocal p (s.target + j * 0x1000000) (sliceBytes s j) false with
  | (p, .ok b) => (p, some (sha256 b))
  | (p, .error _) => (p, none)

/-- Body of a REPLICA message (R452). -/
def replicaBody (b : Bytes) (round kind i : Nat) : Bytes :=
  slice b 0 4 ++ leBytes 4 round ++ leBytes 1 kind ++ [0] ++ slice b 4 2 ++ leBytes 4 i ++ List.replicate 16 0

/-- Bodies of the DIGEST messages of a round, at most 38 entries each (R375). -/
def digestBodies (b : Bytes) (round step : Nat) (own : List (Nat × Bytes)) : List Bytes :=
  let parts := (own.length + 37) / 38
  (List.range parts).map (fun i =>
    let l := (own.drop (38 * i)).take 38
    slice b 0 4 ++ leBytes 4 round ++ leBytes 4 step ++ leBytes 1 i ++ leBytes 1 parts ++ leBytes 2 l.length
      ++ l.flatMap (fun e => leBytes 4 e.1 ++ e.2))

/-- Whether a slice is odd (R452): against a strict majority of three or more digests, its own included, and otherwise against the
image's reference digest. -/
def oddSlice (own reference : Bytes) (others : List Bytes) : Bool :=
  let l := own :: others
  match if l.length < 3 then none else l.find? (fun d => decide (l.length < 2 * l.count d)) with
  | some m => own != m
  | none => own != reference

/-- An odd slice is digested once more, and expels the package when it is still odd (R452). -/
def judgeSlice (b : Bytes) (r : ReplicaRound) (p : Pkg) (e : Nat × Shard × Nat) : Pkg :=
  let reference := e.2.1.digests.getD e.2.2 []
  let others := (r.peers.filter (fun x => x.2.1 == e.1)).map (·.2.2)
  match r.own.find? (fun x => x.1 == e.1) with
  | none => p
  | some o =>
    if !oddSlice o.2 reference others then p
    else match sliceDigest p e.2.1 e.2.2 with
      | (p, none) => sendPeers p (peersOf b) 3 r.step (replicaBody b r.round 2 e.1)
      | (p, some d) =>
        if !oddSlice d reference others then p
        else
          let region := e.2.1.region
          let p := raise (bump p Ix.ruDigestMismatches 0 1) 0x120A 0xFF region 0
          let p := raise0 (recordHistory p 3 4 region 0x120A r.step) 0x120B
          startDrydown (sendPeers p (peersOf b) 3 r.step (replicaBody b r.round 1 e.1)) (some { kind := 3, unit := region, status := 0x120A })
            false

/-- A round ends (R451, R452): peers that are missing are counted, and this package judges its own slices. -/
def endRound (p : Pkg) (r : ReplicaRound) : Pkg :=
  let p := { p with ru := { p.ru with rounds := p.ru.rounds.filter (· != r) } }
  match (replicaRecords p).find? (fun e => e.2 == r.record) with
  | none => p
  | some e =>
    let missing := (peersOf e.1).filter (fun q => !r.arrived.contains q)
    let p := bump (bump p Ix.ruDigestRounds 0 1) Ix.ruDigestPeersMissed 0 missing.length
    match replicaVersion p e.1 with
    | none => p
    | some v => (roundSlices v r.round).foldl (judgeSlice e.1 r) p

/-- Ends a round once every peer's message is here. -/
def endIfHere (p : Pkg) (record round : Nat) : Pkg :=
  match p.ru.rounds.find? (fun r => r.record == record && r.round == round), (replicaRecords p).find? (fun e => e.2 == record) with
  | some r, some e => if r.own.isEmpty || (peersOf e.1).all (r.arrived.contains ·) then endRound p r else p
  | _, _ => p

/-- One part of a peer's digests enters its round (R375, R451). -/
def addDigests (r : ReplicaRound) (sender : Nat) (body : Bytes) : ReplicaRound :=
  let part := leAt body 12 1
  if r.parts.contains (sender, part) then r
  else
    let parts := r.parts ++ [(sender, part)]
    let whole := decide (leAt body 13 1 ≤ (parts.filter (fun x => x.1 == sender)).length)
    { r with
      peers := r.peers ++ (records 36 (body.drop 16)).map (fun b => (sender, leAt b 0 4, slice b 4 32))
      parts := parts
      arrived := if whole then r.arrived ++ [sender] else r.arrived }

/-- Whether a DIGEST body keeps its layout (R375). -/
def digestBodyOk (b : Bytes) : Bool :=
  decide (16 ≤ b.length) && decide (1 ≤ leAt b 14 2) && decide (leAt b 14 2 ≤ 38) && b.length == 16 + 36 * leAt b 14 2
  && decide (leAt b 12 1 < leAt b 13 1)

/-- Whether a round has been passed: some partition has reached its step (R451). -/
def roundPassed (p : Pkg) (round : Nat) : Bool :=
  (List.range 12).any (fun pp => pcState p pp != 0 && decide (round ≤ stepOf p pp / max 1 (rd p Ix.ruDigestPeriodSteps 0)))

/-- A peer's DIGEST message (R451): it enters its round, waits for a round not yet started, or comes too late. -/
def takeDigests (p : Pkg) (sender : Nat) (body : Bytes) : Pkg :=
  let round := leAt body 4 4
  match (replicaRecords p).find? (fun e => slice e.1 0 4 == slice body 0 4 && (peersOf e.1).contains sender) with
  | none => p
  | some e =>
    if p.ru.rounds.any (fun r => r.record == e.2 && r.round == round) then
      endIfHere { p with ru := { p.ru with rounds := p.ru.rounds.map (fun r =>
        if r.record = e.2 ∧ r.round = round then addDigests r sender body else r) } } e.2 round
    else if roundPassed p round then p
    else { p with ru := { p.ru with digestsHeld := p.ru.digestsHeld ++ [(sender, body)] } }

/-- Starts a record's round k (R451): its slices are digested and sent to every peer; a slice that cannot be read is reported as
unavailable. -/
def startRound (step k : Nat) (p : Pkg) (e : Bytes × Nat) : Pkg :=
  match replicaVersion p e.1 with
  | none => p
  | some v =>
    if p.ru.rounds.any (fun r => r.record == e.2 && r.round == k) then p
    else
      let r := (roundSlices v k).foldl (fun (acc : Pkg × List (Nat × Bytes)) s =>
        match sliceDigest acc.1 s.2.1 s.2.2 with
        | (p, some d) => (p, acc.2 ++ [(s.1, d)])
        | (p, none) => (sendPeers p (peersOf e.1) 3 step (replicaBody e.1 k 2 s.1), acc.2)) (p, [])
      let p := { r.1 with ru := { r.1.ru with rounds := r.1.ru.rounds ++ [{ record := e.2, round := k, step, own := r.2 }] } }
      endIfHere ((digestBodies e.1 k step r.2).foldl (fun p b => sendPeers p (peersOf e.1) 2 step b) p) e.2 k

/-- The replica rounds of a step start (R451); none during Drydown stage 2 or later (R462). -/
def startRounds (p : Pkg) (step : Nat) : Pkg :=
  let period := max 1 (rd p Ix.ruDigestPeriodSteps 0)
  if step % period ≠ 0 ∨ 2 ≤ rd p Ix.ruDrydownState 0 then p
  else
    let p := (replicaRecords p).foldl (startRound step (step / period)) p
    let held := p.ru.digestsHeld
    held.foldl (fun p h => takeDigests p h.1 h.2) { p with ru := { p.ru with digestsHeld := [] } }

/-- DIGEST_TIMEOUT (R451): the round goes on without the peers that are missing. -/
def digestLate (p : Pkg) (record round : Nat) : Pkg :=
  match p.ru.rounds.find? (fun r => r.record == record && r.round == round) with
  | none => p
  | some r => endRound p r

/-- DIGEST_TIMEOUT (R451). -/
def execDigestTimeout (record : Fin 16) (round : Nat) : State → Host.Outcome State Fault Refusal :=
  onPkgF (fun p => digestLate p record round)

end Sys2Proof.Machine
end

