-- ==== Sys2Proof/Machine/StepStart.lean ====
section
/-! DEFINITION. Chapter 3: the start of a step on this package: program table entries (R51, R52), counters (R70), and what every
subsystem forgets of the step before. -/

namespace Sys2Proof.Machine

/-- Whether a program table entry is valid (R52). -/
def entryOk (b : Bytes) : Bool :=
  bit (leAt b 14 1) 0 && decide (1 ≤ leAt b 8 4) && decide (leAt b 8 4 ≤ 1048575) && leAt b 0 8 % 128 == 0
  && (match place (leAt b 0 8) with
      | .t0 _ _ => true
      | _ => false)

/-- Shows the address of the descriptor that a block is at (0x2012). -/
def showPointer (p : Pkg) (b : Nat) : Pkg := wr p Ix.blockPassPointer b ((blk p b).base + 128 * (blk p b).index)

/-- A block reads its entry, with the 64-byte line that holds it, and starts the step at descriptor 0 (R52, R70). -/
def blockStepStart (pp step : Nat) (recompute : Bool) (p : Pkg) (b : Nat) : Pkg :=
  if regionHidden p (b / 8) || p.tp.fenced.contains (b / 8) then p
  else
    let a := rd p Ix.pcProgramTableBase pp + 32 * b
    let r := loadLocal p (a / 64 * 64) 64 false
    let start := fun (p : Pkg) (e : Bytes) =>
      let p := modBlk p b (fun k => { startCounters k step (leAt e 0 8) (bit (leAt e 14 1) 1) recompute with
        base := leAt e 0 8, count := leAt e 8 4, version := leAt e 12 2, saveBase := leAt e 16 8, saveSize := leAt e 24 4 })
      showPointer (setAct p b 1) b
    match r with
    | (p, .error _) => passFail (start p (List.replicate 32 0)) b 0x0155
    | (p, .ok line) =>
      let e := slice line (a % 64) 32
      if entryOk e then start p e else passFail (start p e) b 0x0152

/-- The regions of a partition fold as their hidden blocks now ask, from this step on, and their hosts begin with the lower logical block
(R41, R43). -/
def foldNow (p : Pkg) (pp : Nat) : Pkg :=
  let p := (regionsOf p pp).foldl (fun p r => wr p Ix.regionLogicalBlockMap r (foldMap p r)) p
  { p with tp := { p.tp with lastRan := p.tp.lastRan.filter (fun e => !(blocksOf p pp).contains e.1) } }

/-- Starts a step on this package (R52, R192, R198, R200, R418, R445, R451): its number, its clock, and nothing left of the step before but
its tables, masks and lag-0 tokens. -/
def startStep (p : Pkg) (pp : Nat) (n : StepNotice) (recompute : Bool) : Pkg :=
  let p := wr p Ix.pcStepNumber pp n.step
  let p := modPc p pp (fun q => { q with stepRunning := true, stepStartNs := p.now, excludedNs := 0, firstStep := false, numbered := true, stepFailed := none,
                                         heldActions := false })
  let p := modSc p pp (fun q => { q with
    running := n, starting := none, forwarded := [], counts := [], ownCount := 0, countSent := false, genEndNs := p.now, preEndNs := p.now,
    preRan := false, noticed := false, notices := q.notices.filter (fun x => x.1 != n.step),
    requests := q.requests.map (fun r => { r with stepTokens := 0 }) })
  let p := modRu p pp (fun q => { q with
    votes := [], captureUsed := 0, stepAudited := 0, stepUnaudited := 0, stepDisagreements := 0, reported := false, reports := [],
    poison := none, recomputing := recompute, lastPassNs := p.now })
  let p := modSv p pp (fun q => { q with working := [] })
  let p := modEr p pp (fun q => { q with receipts := q.receipts.filter (fun r => r.step == n.step) })
  let p := modSe p pp (fun q => { q with stepLag0 := rd p Ix.seAuditLag pp == 0 })
  let p := foldNow p pp
  let mine := blocksOf p pp
  let p := { p with tf := { p.tf with occurrences := p.tf.occurrences.filter (fun o => !mine.contains (o.1 / 256)) } }
  let p := releaseRoutes (mine.foldl (blockStepStart pp n.step recompute) (noteRows p pp n.step)) pp
  let p := releaseReturns p pp n.step
  if recompute then p else startRounds p n.step

end Sys2Proof.Machine
end

