-- ==== Sys2Proof/Machine/SchedulerCommands.lean ====
section
/-! DEFINITION. Chapters 1, 8 and 9: the step boundary (R16, R192), step notices, tables and records between packages, and the
serving registers' commands. -/

namespace Sys2Proof.Machine

/-- State after actions 1 and 2 (R416, R496): a STOP, a PAUSE or a power pause takes effect. -/
def settleBoundary (p : Pkg) (pp : Nat) : Pkg :=
  let q := (part p pp).pc
  if q.stopPending then setPcState (modPc p pp (fun q => { q with stopPending := false, pausePending := false, powerPending := false })) pp 1
  else
    let power := q.powerPending || !q.pauseRequests.isEmpty || (isRack p pp && !isLead p pp && !q.pausePending)
    if q.pausePending || power then
      let p := setPcState (modPc p pp (fun q => { q with pausePending := false, heldActions := true,
                                                         powerPaused := power && !q.pausePending })) pp 3
      if !power then p
      else
        let m := rd p Ix.pwPowerPaused 0
        let p := if q.powerPending && !bit m pp then wr p Ix.pwPowerPaused 0 (m + 2 ^ pp) else p
        raisePw p 0x1414 pp 0xFFFFFFFF
    else p

/-- Actions 1 and 2 at the lead for a clean close (R192). -/
def closeStep (p : Pkg) (pp : Nat) : Pkg :=
  let p := commitStep (freeEnded (closeEpoch (closeLead p pp) pp) pp) pp
  settleBoundary (if (part p pp).pc.pausePending || (part p pp).pc.stopPending || (part p pp).pc.powerPending then pumpCompletions p pp else p) pp

/-- Whether the lead may start a step (R16, R232, R280, R447, R459). -/
def mayStart (p : Pkg) (pp : Nat) : Bool :=
  pcState p pp == 2 && !(part p pp).pc.stepRunning && (part p pp).sc.starting.isNone && (part p pp).sc.writeFailed.isNone
  && (part p pp).ru.recut.isEmpty && rd p Ix.ruDrydownState 0 == 0 && versionsWhole p pp

/-- Actions 5 and 6 at the lead, and the step notice (R192, R198, R206); they wait while an entry waits outside the hold queue
(R232). -/
def leadAdmit (p : Pkg) (pp next : Nat) (drained : Bool) : Pkg :=
  if !(part p pp).se.waiting.isEmpty then modPc p pp (fun q => { q with heldFive := true, heldDrained := drained })
  else
    let p := modPc p pp (fun q => { q with heldFive := false })
    let r := admitStep (chooseConfig p pp) pp next drained
    if (part r.1 pp).sc.writeFailed.isSome then r.1 else sendNotice r.1 pp r.2

/-- Actions 3 to 6 at the lead (R16), with the answers of cancel words (R210). -/
def leadStart (p : Pkg) (pp : Nat) : Pkg :=
  let next := nextStep p pp
  let p := queueAnswers p pp
  let d := drainedNow p pp
  if (part p pp).pc.heldFive then leadAdmit p pp next (part p pp).pc.heldDrained
  else leadAdmit (applySwitchPointer (applyClassB p pp next d) pp next d) pp next d

/-- A rolled-back step starts again (R16, R192, R445): actions 3 and 4 before it; 5 and 6 are skipped. -/
def startAgain (p : Pkg) (pp : Nat) (n : StepNotice) : Pkg :=
  startStep (applySwitchPointer (applyClassB p pp n.step n.drained) pp n.step n.drained) pp n true

/-- The lead starts the step that its own notice names (R198, R445): a step that still runs starts again, at a boundary that answers cancel
words like any other (R210). While the partition cannot start a step (R280, R416) the notice waits for the next STEP_BOUNDARY. -/
def leadRuns (p : Pkg) (pp : Nat) (s : StepNotice) : Pkg :=
  if pcState p pp ≠ 2 ∨ versionsWhole p pp = false then modSc p pp (fun q => { q with noticed := true })
  else if (part p pp).pc.stepRunning then startAgain (queueAnswers p pp) pp s
  else startStep p pp s false

/-- The boundary at the lead (R16, R192, R445): a notice that waits; else a clean close, or the recomputation of a rolled-back step, and
the next step. -/
def leadBoundary (p : Pkg) (pp : Nat) : Pkg :=
  match (part p pp).sc.starting.filter (fun _ => (part p pp).sc.noticed) with
  | some s => leadRuns p pp s
  | none =>
  if pcState p pp ≠ 2 then p
  else
    let p := if (part p pp).pc.stepRunning then (if closable p pp then closeStep p pp else recomputeIfReady p pp) else p
    if mayStart p pp then leadStart p pp else p

/-- Actions 1 and 2 on a member that does not lead (R16, R121, R441). -/
def memberClose (p : Pkg) (pp : Nat) : Pkg := commitStep (freeCancelled (closeEpoch p pp) pp) pp

/-- Actions 3 to 6 on a member that does not lead, and the step (R16, R192, R199). -/
def memberStart (p : Pkg) (pp : Nat) (n : StepNotice) : Pkg :=
  let p := applySwitchPointer (applyClassB p pp n.step n.drained) pp n.step n.drained
  let p := wr p Ix.scActiveConfig pp n.config
  let p := if n.hasGen then p else putTable p pp 0 n.step [] []
  let p := if n.hasPre then p else putTable p pp 1 n.step [] []
  let p := memberPages (writeEntries p pp n.hasGen n.hasPre) pp
  if (part p pp).sc.writeFailed.isSome then p else startStep p pp n false

/-- Whether the tables that a notice names have arrived (R198): a notice follows each engine's buffer. -/
def tablesHere (p : Pkg) (pp : Nat) (n : StepNotice) : Bool :=
  (!n.hasGen || (part p pp).sc.tableSteps.getD 0 0 == n.step) && (!n.hasPre || (part p pp).sc.tableSteps.getD 1 0 == n.step)

/-- A notice waits while the partition is paused or preempted on this member (R416), while a version that it serves is damaged (R280), and for
the tables that it names (R198). That of a rolled-back step starts it again (R445). -/
def memberReady (p : Pkg) (pp : Nat) (n : StepNotice) : Pkg :=
  if pcState p pp = 2 ∧ versionsWhole p pp = true ∧ tablesHere p pp n = true then
    let q := part p pp
    let p := modSc p pp (fun q => { q with starting := none })
    if q.pc.stepRunning ∧ q.ru.poison.isSome ∧ n.step = stepOf p pp then startAgain p pp n else memberStart p pp n
  else modSc p pp (fun q => { q with starting := some n })

/-- STEP_BOUNDARY (R16). At the lead every action. A member that does not lead acts when its notice arrives; while the lead sends
none, a member whose clean report has gone enters the state that waits for the boundary (R441, R496), and one that was resumed with a
notice in hand starts. -/
def execStepBoundary (pp : Fin 12) : State → Host.Outcome State Fault Refusal :=
  onPkgF (fun p =>
    if isLead p pp then leadBoundary p pp
    else
      let q := part p pp
      if pcState p pp ≠ 2 then p
      else match q.sc.starting with
        | some n => memberReady p pp n
        | none =>
          if q.pc.stepRunning && q.ru.reported && q.ru.poison.isNone then settleBoundary (memberClose p pp) pp else p)

/-- A notice at the lead itself (R198). -/
def leadNotice (p : Pkg) (pp : Nat) (n : StepNotice) : Pkg :=
  match (part p pp).sc.starting with
  | some s => if s.step = n.step then leadRuns p pp s else p
  | none => p

/-- The deputy keeps what the lead appended to its notice (R185). -/
def keepForDeputy (p : Pkg) (pp : Nat) (n : StepNotice) : Pkg :=
  if rd p Ix.scDeputyPackage pp = ownId p then modSc p pp (fun q => { q with deputyLevels := n.levels, deputyStates := n.states, deputyStreams := n.streams }) else p

/-- A notice at another member (R192, R198, R441, R445): the notice of a rolled-back step starts it again; that of the next step
closes the running one first. -/
def memberNotice (p : Pkg) (pp : Nat) (n : StepNotice) : Pkg :=
  let q := part p pp
  let st := pcState p pp
  if st = 0 ∨ st = 1 ∨ st = 6 ∨ st = 7 then p
  else
    let p := keepForDeputy p pp n
    if q.pc.stepRunning ∧ q.ru.poison.isSome then
      if n.step = stepOf p pp then memberReady p pp n else p
    else if q.pc.stepRunning ∧ !stepAhead n.step (stepOf p pp) then p
    else
      let p := if q.pc.stepRunning then memberClose p pp else p
      let p := if st = 3 ∧ q.pc.powerPaused = true ∧ !bit (rd p Ix.pwPowerPaused 0) pp then
          setPcState (modPc p pp (fun q => { q with powerPaused := false })) pp 2
        else p
      let p := if pcState p pp = 2 ∧ (q.pc.stopPending || q.pc.pausePending) then settleBoundary p pp else p
      if pcState p pp = 1 then p else memberReady p pp n

/-- STEP_NOTICE_ARRIVAL (R198): a package starts the step when its notice arrives, and passes the notice on along the tree. -/
def execStepNoticeArrival (pp : Fin 12) (notice : StepNotice) : State → Host.Outcome State Fault Refusal :=
  onPkgF (fun p =>
    if isLead p pp then leadNotice p pp notice
    else memberNotice (passNotice p pp notice) pp notice)

/-- A member whose notice waited for this table starts its step (R198). -/
def startWaiting (p : Pkg) (pp step : Nat) : Pkg :=
  match (part p pp).sc.starting with
  | some n => if n.step = step then memberReady p pp n else p
  | none => p

/-- LENGTH_TABLE_ARRIVAL (R198, R200): an engine's buffer for a step; the mask of a new step is cleared, cancels that waited for the table
apply, and the buffer goes on along the tree. A notice that waited for it takes effect. -/
def execLengthTableArrival (pp : Fin 12) (engine : Fin 2) (step : Nat) (table tokens : Bytes) : State → Host.Outcome State Fault Refusal :=
  onPkgF (fun p =>
    if isLead p pp then p
    else startWaiting (sendTable (applyNotices (putTable p pp engine step table tokens) pp engine step) pp engine step table tokens) pp step)

/-- CANCEL_NOTICE_ARRIVAL (R200, R209): the bits of the tables in hand are set; those of a table not yet here wait for it. -/
def execCancelNoticeArrival (pp : Fin 12) (step : Nat) (genRows preRows : List Nat) : State → Host.Outcome State Fault Refusal :=
  onPkgF (fun p =>
    let here := fun (e : Nat) => (part p pp).sc.tableSteps.getD e 0 == step
    let later := fun (e : Nat) => stepAhead step ((part p pp).sc.tableSteps.getD e 0)
    let p' := maskRows p pp (if here 0 then genRows else []) (if here 1 then preRows else [])
    if later 0 || later 1 then modSc p' pp (fun q => { q with notices := q.notices ++ [(step, genRows, preRows)] }) else p')

/-- TOKEN_RECORD_FORWARD (R193, R444): a record of the running step is taken once; one of a step that rolls back is discarded. -/
def execTokenRecordForward (pp : Fin 12) (package : Nat) (record : Bytes) : State → Host.Outcome State Fault Refusal :=
  onPkgF (fun p =>
    if isLead p pp && (part p pp).pc.stepRunning && (part p pp).ru.poison.isNone then
      modSc p pp (fun q => { q with forwarded := q.forwarded ++ [(package, record)] })
    else p)

/-- SAMPLER_COUNT_ARRIVAL (R193, R229, R444). -/
def execSamplerCountArrival (pp : Fin 12) (package step count : Nat) : State → Host.Outcome State Fault Refusal :=
  onPkgF (fun p => if isLead p pp && (part p pp).ru.poison.isNone then takeCount p pp package step count else p)

/-- The completion of a store to a control register by the host die (R337, R341): DONE, a previous value, or an ERROR. -/
def registerAnswer (r : Pkg × Nat) (type : Nat) (data : Bytes) : Pkg :=
  if r.2 = 0 then respond r.1 true { src := ownId r.1 } type 0 data else respondError r.1 true { src := ownId r.1 } r.2

/-- What reaches a register of a partition (R424): absorbed with 0x0EE1 while it resets. -/
def unlessAbsorbed (pp : Nat) (f : Pkg → Pkg × Nat) (p : Pkg) : Pkg × Nat := if pcState p pp = 6 then (p, 0x0EE1) else f p

/-- INTAKE_COUNTER_ADD (R184, R187): answered with the previous count. -/
def execIntakeCounterAdd (pp : Fin 12) (n : DWord) : State → Host.Outcome State Fault Refusal :=
  onPkgF (fun p => registerAnswer (unlessAbsorbed pp (fun p => intakeAdd p pp n.toNat) p) 0x42 (padTo (leBytes 8 (rd p Ix.scIntakePublished pp)) 16))

/-- CANCEL_WORD (R208 to R210). -/
def execCancelWord (pp : Fin 12) (word : DWord) : State → Host.Outcome State Fault Refusal :=
  onPkgF (fun p => registerAnswer (unlessAbsorbed pp (fun p => cancelStore p pp word.toNat) p) 0x41 [])

/-- COMPLETION_CONSUMED_STORE (R186, R212). -/
def execCompletionConsumedStore (pp : Fin 12) (n : DWord) : State → Host.Outcome State Fault Refusal :=
  onPkgF (fun p => registerAnswer (unlessAbsorbed pp (fun p => (completionConsumed p pp n.toNat, 0)) p) 0x41 [])

/-- EMIT_CONSUMED_STORE (R225, R231, R232). -/
def execEmitConsumedStore (pp : Fin 12) (ring : Fin 16) (n : DWord) : State → Host.Outcome State Fault Refusal :=
  onPkgF (fun p => registerAnswer (unlessAbsorbed pp (fun p => (emitConsumedStore p pp ring n.toNat, 0)) p) 0x41 [])

/-- PLAY_HEAD_REPORT (R220, R221). -/
def execPlayHeadReport (pp : Fin 12) (stream : BitVec 16) (word : DWord) : State → Host.Outcome State Fault Refusal :=
  onPkgF (fun p => registerAnswer (unlessAbsorbed pp (fun p => playHeadStore p pp stream.toNat word.toNat) p) 0x41 [])

/-- Retries the held writes of one unit in order (R536): event 0x0613 or 0x0718 when the first retry begins. -/
def retryServing (p : Pkg) (pp : Nat) (egress : Bool) : Pkg :=
  let held := if egress then (part p pp).se.refused else (part p pp).sc.refused
  if held.isEmpty then p
  else
    let raised := if egress then (part p pp).se.refusedRaised else (part p pp).sc.refusedRaised
    let p := if egress then modSe p pp (fun q => { q with refused := [], refusedRaised := true })
      else modSc p pp (fun q => { q with refused := [], refusedRaised := true })
    let p := if raised then p
      else if egress then raise (last p Ix.seLastStatus pp 0x0718) 0x0718 pp 0xFFFFFFFF 0
      else raise (last p Ix.scLastStatus pp 0x0613) 0x0613 pp 0xFFFFFFFF 0
    held.foldl (fun p w => writeServing p pp egress w) p

/-- What stands behind the held writes follows once none is held (R536). -/
def afterRetry (p : Pkg) (pp : Nat) : Pkg :=
  let p := if (part p pp).se.refused.isEmpty then releaseHeld p pp else p
  if (part p pp).sc.refused.isEmpty then pumpCompletions p pp else p

/-- HOST_WRITE_RETRY (R536): every 1 ms the held writes are retried in order; entries and records behind them follow. -/
def execHostWriteRetry (pp : Fin 12) : State → Host.Outcome State Fault Refusal :=
  onPkgF (fun p => afterRetry (retryServing (retryServing p pp false) pp true) pp)

end Sys2Proof.Machine
end

