-- ==== Sys2Proof/Machine/Operands.lean ====
section
/-! DEFINITION. Chapters 2 to 5: the operands of a pass: what Fetch reads and with which status it stops (R46, R58, R60, R87, R88),
the length table (R113 to R115), tiled weights (R61), and what Emit will write (R21, R28, R60). -/

namespace Sys2Proof.Machine

/-- A pass on its way: its block, partition and step, engine, descriptor index and fields, the granularity that an override gives the
Rotate stage, the step's length table as read (empty where the pass uses none), and the rows masked as it enters Fetch. -/
structure Ctx where
  b : Nat := 0
  pp : Nat := 0
  step : Nat := 0
  engine : Nat := 0
  index : Nat := 0
  d : Desc := {}
  actGran : Nat := 0
  table : Bytes := []
  mask : List Nat := []
  deriving DecidableEq, Repr

/-- Work of a pass: it reads the package, counts, and goes on or stops with a status and an address. -/
abbrev Run (α : Type) := ExceptT (Nat × Nat) (StateM Pkg) α

/-- A computation on the package as work of a pass. -/
def runOf {α : Type} (f : Pkg → Except (Nat × Nat) α × Pkg) : Run α := f

/-- The pass stops with a status. -/
def stopWith {α : Type} (status : Nat) : Run α := throw (status, 0)

/-- The pass stops with a status where a condition holds. -/
def stopIf (c : Bool) (status : Nat) : Run Unit := if c then stopWith status else pure ()

/-- The package as it stands. -/
def here : Run Pkg := runOf (fun p => (.ok p, p))

/-- A change of the package's counters. -/
def change (f : Pkg → Pkg) : Run Unit := runOf (fun p => (.ok (), f p))

/-- Whether a slot address names another package (R58). -/
def isRemote (p : Pkg) (fab : Bool) (a : Nat) : Bool := fab && a / 2 ^ 46 % 1024 != ownId p

/-- Whether an access comes from outside the block or its region (R35, R45). -/
def fromOutside (b a : Nat) : Bool :=
  match place a with
  | .t0 s _ => s != b / 8
  | .sram k _ => k != b
  | _ => true

/-- Credit that an access of a block takes (R38, R419). -/
def chargeAccess (p : Pkg) (pp b a n : Nat) : Pkg :=
  match place a with
  | .t0 s _ => if s = b / 8 then p else charge p pp 0 s n
  | .t1 _ _ => charge p pp 1 0 n
  | .t2 _ _ => charge p pp 2 0 n
  | _ => p

/-- What Fetch receives from an address (R46). -/
def fetchAt (x : Ctx) (fab : Bool) (a n : Nat) (p : Pkg) : Except (Nat × Nat) Bytes × Pkg :=
  if n = 0 then (.ok [], p)
  else if isRemote p fab a then
    if p.tf.holes.contains (a / 2 ^ 46 % 1024) then (.error (operandStatus false 0x0E01, a), p)
    else match remoteRead (bump (charge p x.pp 2 0 n) Ix.msTransactionsSent 0 ((a + n - 1) / 256 - a / 256 + 1)) a n with
      | (p, .ok v) => (.ok v, p)
      | (p, .error s) => (.error (operandStatus false s, a), p)
  else
    let l := a % 2 ^ 46
    match loadLocal (chargeAccess p x.pp x.b l n) l n (fromOutside x.b l) with
    | (p, .ok v) => (.ok v, p)
    | (p, .error s) => (.error (operandStatus (s == 0x0103) s, l), p)

/-- Fetch reads bytes (R46). -/
def fetch (x : Ctx) (fab : Bool) (a n : Nat) : Run Bytes := runOf (fetchAt x fab a n)

/-- A check of decoding: a status stops the pass. -/
def decoded {α : Type} (r : Except Nat α) : Run α :=
  match r with
  | .ok v => pure v
  | .error s => stopWith s

/-- Granularity of an operand's scales from its scale header (R88); 1 for a format without scales. -/
def slotGran (x : Ctx) (s : Slot) : Run Nat := do
  if hasScales s.fmt then
    let h ← fetch x s.fab (s.addr + s.scaleOff * 64) 64
    let g := headerGran s.fmt (leAt h 1 1)
    stopIf (leAt h 0 1 != s.fmt || g == 0) 0x0203
    return g
  else return 1

/-- Address of line l of plane pl of a slot (R58). -/
def Slot.lineAddr (s : Slot) (pl l : Nat) : Nat := s.addr + pl * s.planeStride + l * s.lineStride

/-- Address of its scales (R87); a repeated line repeats its scales. -/
def Slot.scaleAddr (s : Slot) (pl l : Nat) : Nat :=
  s.addr + s.scaleOff * 64 + 64 + (pl * s.lines + if s.lineStride = 0 then 0 else l) * lineScaleBytes s.fmt s.inner

/-- Elements per line. -/
def Slot.elems (s : Slot) : Nat := s.inner * 16

/-- The exact values of a line (R85, R87). -/
def fetchLine (x : Ctx) (s : Slot) (g pl l : Nat) : Run (List Num) := do
  let e ← fetch x s.fab (s.lineAddr pl l) s.lineBytes
  let c ← if hasScales s.fmt then fetch x s.fab (s.scaleAddr pl l) (lineScaleBytes s.fmt s.inner) else pure []
  decoded (decodeLine s.fmt g s.elems e c)

/-- A line in binary32 (R85). -/
def fetchWords (x : Ctx) (s : Slot) (g pl l : Nat) : Run (List Word) := do return (← fetchLine x s g pl l).map rnd

/-- A line of INT32 (R81). -/
def fetchInts (x : Ctx) (s : Slot) (pl l : Nat) : Run (List Nat) := do
  return (records 4 (← fetch x s.fab (s.lineAddr pl l) (4 * s.elems))).map leNat

/-- Whether one row of a length table keeps R113 and R114, with the tiles of the rows before it (R115). -/
def ltRowOk (version tiles : Nat) (r : Bytes) : Bool :=
  let n := leAt r 8 2
  let c := leAt r 10 1
  let dir := leAt r 16 8
  decide (1 ≤ n) && decide (n ≤ 16384) && decide (c ≤ 8) && (c == 0 || n == 1 + c)
  && !(bit (leAt r 11 1) 1 && !bit (leAt r 11 1) 0) && leAt r 12 4 == tiles && dir % 64 == 0 && decide (rangeNo dir ≤ 1)
  && leAt r 24 2 == version

/-- Whether every row is sound from a tile number on. -/
def ltRowsOk (version : Nat) : (tiles : Nat) → List Bytes → Bool
  | _, [] => true
  | t, r :: rest => ltRowOk version t r && ltRowsOk version (t + (leAt r 8 2 + 15) / 16) rest

/-- The checks of R115 on a whole table. -/
def ltOk (t : Bytes) : Bool :=
  let rows := tableRows t
  let n := leAt t 0 4
  decide (1 ≤ n) && decide (n ≤ 4095) && rows.length == n && decide (leAt t 8 4 ≤ 4095)
  && (rows.map (fun r => leAt r 8 2)).sum == leAt t 4 4 && (rows.map (fun r => (leAt r 8 2 + 15) / 16)).sum == leAt t 8 4
  && ltRowsOk (leAt t 16 2) 0 rows

/-- Token tiles of a table, and T of R114. -/
def ltTiles (t : Bytes) : Nat := leAt t 8 4
def ltCount (t : Bytes) : Nat := 16 * ltTiles t

/-- Reads and checks the length table of the block's engine (R115); `exempt` for the version check that a draft pass does not take. -/
def readTable (x : Ctx) (exempt : Bool) : Run Bytes := do
  let p ← here
  let q := (part p x.pp).sc
  stopIf ((q.tables.getD x.engine []).isEmpty || q.tableSteps.getD x.engine 0 != x.step) 0x0301
  let a := tableAddr p x.pp x.engine x.step
  let h ← fetch x false a 64
  let n := leAt h 0 4
  stopIf (n == 0 || decide (4095 < n)) 0x0301
  let t := h ++ (← fetch x false (a + 64) (32 * n))
  stopIf (!ltOk t) 0x0301
  stopIf (!exempt && x.d.version != leAt t 16 2) 0x03E2
  return t

/-- Real LT rows that are not masked, ascending (R31, R114); those of NO_SAMPLE rows are absent from a SAMPLE pass (R197). -/
def realRows (x : Ctx) : List Nat :=
  (tableRows x.table).flatMap (fun r =>
    if x.d.cls = 6 ∧ bit (leAt r 11 1) 1 = true then []
    else ((List.range (leAt r 8 2)).map (fun i => 16 * leAt r 12 4 + i)).filter (fun l => !x.mask.contains l))

/-- Rows of a slot and their count (R60): LT rows, a count line, or every line. A count above LINES stops the pass. -/
def slotRows (x : Ctx) (s : Slot) : Run (List Nat × Nat) := do
  if s.lt then
    stopIf (decide (s.lines < ltCount x.table)) 0x0156
    return (realRows x, ltCount x.table)
  else if s.cnt then
    let n := leNat (← fetch x s.fab (s.addr - 64) 4)
    stopIf (decide (s.lines < n)) 0x0156
    return (List.range n, n)
  else return (List.range s.lines, s.lines)

/-- The epilogue operations of a pass up to the end of the chain (R63). -/
def Desc.chain (d : Desc) : List Nat := d.ops.takeWhile (· != 0)

/-- Whether an epilogue operand that follows slot D's LT or CNT rows has fewer LINES, its maximum, than the pass has rows (R60, R63). -/
def epilogueShort (d : Desc) (count : Nat) : Bool :=
  d.chain.any (fun o => o == 1 || o == 3) && (match d.epi with
    | some s => (s.lt || s.cnt) && decide (s.lines < count)
    | none => false)

/-- Rows of a pass: slot A's, which slot D takes over and must hold too (R60), as must an epilogue operand whose rows follow slot D's
(R63). DESIGN CHOICE (assumption 154): fixed LINES of slot A above slot D's stop the pass with 0x0156 like a count that is read. -/
def passRows (x : Ctx) : Run (List Nat × Nat) := do
  let r ← slotRows x x.d.a
  stopIf (decide (x.d.d.lines < r.2) || epilogueShort x.d r.2) 0x0156
  return r

/-- What a pass has made so far: writes, counts of its two stages, multiply-accumulates, the row count of
a product, and each emitted line with its plane and row
for the audit (R436). -/
structure Made where
  writes : List (Nat × Bytes) := []
  rotate : QCount := {}
  quantise : QCount := {}
  macs : Nat := 0
  count : Nat := 0
  lines : List (Nat × Nat × Bytes × Bytes) := []
  records : List Bytes := []
  sends : List (Nat × Nat × RouteItem) := []
  increments : List (Nat × Nat × Nat × Nat) := []
  appended : List KvSlot := []
  scores : List (Nat × Word) := []
  deriving DecidableEq, Repr

/-- An emit address: a local one, or one of another package above 2^56. -/
def emitAddr (p : Pkg) (fab : Bool) (a : Nat) : Nat := if isRemote p fab a then 2 ^ 56 + a % 2 ^ 56 else a % 2 ^ 46

/-- One quantised line of slot D (R87, R91): its writes and its counts. -/
def emitLine (p : Pkg) (s : Slot) (qgran pl l : Nat) (w : List Word) (m : Made) : Made :=
  let q := quantLine s.fmt (granOf s.fmt qgran) w
  { m with
    writes := m.writes ++ [(emitAddr p s.fab (s.lineAddr pl l), q.1)]
      ++ (if hasScales s.fmt then [(emitAddr p s.fab (s.scaleAddr pl l), q.2.1)] else []),
    quantise := m.quantise.add q.2.2, lines := m.lines ++ [(pl, l, q.1, q.2.1)] }

/-- The scale header that Emit writes with a scaled output (R88). -/
def emitHeader (p : Pkg) (s : Slot) (qgran : Nat) (m : Made) : Made :=
  if hasScales s.fmt then { m with writes := m.writes ++ [(emitAddr p s.fab (s.addr + s.scaleOff * 64), scaleHeader s.fmt qgran)] } else m

/-- The count line of slot D, after the rows (R60). -/
def emitCount (p : Pkg) (d : Desc) (count : Nat) (m : Made) : Made :=
  if d.a.cnt && d.d.cnt then
    { m with writes := m.writes ++ [(emitAddr p d.d.fab (d.d.addr - 64), leBytes 4 count ++ List.replicate 60 0)] }
  else m

/-- Emits lines of a plane of slot D (R28). -/
def emitLines (p : Pkg) (d : Desc) (pl : Nat) (rows : List (Nat × List Word)) (m : Made) : Made :=
  rows.foldl (fun m r => emitLine p d.d d.qgran pl r.1 r.2 m) m

/-- The epilogue operand's line for an output row (R63): line r of plane pl, or line 0 of plane 0. -/
def epilogueLine (x : Ctx) (pl r : Nat) : Run (List Word × List Word) := do
  let ops := x.d.chain
  match x.d.epi with
  | none => return ([], [])
  | some s =>
    let g ← if ops.any (fun o => decide (1 ≤ o) && decide (o ≤ 4)) then slotGran x s else pure 1
    let row ← if ops.any (fun o => o == 1 || o == 3) then fetchWords x s g (if s.planes = x.d.d.planes then pl else 0) r else pure []
    let crow ← if ops.any (fun o => o == 2 || o == 4) then fetchWords x s g 0 0 else pure []
    return (row, crow)

/-- The Vector stage on one value (R63, R96). -/
def chainValue (d : Desc) (w row crow : Word) : Word :=
  d.chain.foldl (fun w o => epilogueOp o w (if o = 1 ∨ o = 3 then row else crow) (immWord d.imm0) (immWord d.imm1)) w

/-- The Vector stage on one row (R63). -/
def epilogue (x : Ctx) (pl r : Nat) (w : List Word) : Run (List Word) := do
  if x.d.chain.isEmpty then return w
  else
    let c ← epilogueLine x pl r
    return w.zipIdx.map (fun e => chainValue x.d e.1 (c.1.getD e.2 zero32) (c.2.getD e.2 zero32))

/-- The Rotate stage on one row (R66, R98, R99, R105): passed through where slot A holds ACT_FMT already, otherwise rotated and
quantised to ACT_FMT. `w28` the rotation. -/
def activation (x : Ctx) (w28 : Nat) (fmt : Nat) (v : List Num) : List Num × QCount :=
  let f := actCode x.d.actFmt
  let n := if bits w28 31 29 = 0 then 0 else 32 * 2 ^ bits w28 31 29
  if fmt = f ∧ n = 0 then (v, {})
  else
    let w := v.map rnd
    let w := if n = 0 then w else rotateLine n (bits w28 27 0) w
    quantValues f (granOf f x.actGran) w

end Sys2Proof.Machine
end

