-- ==== Sys2Proof/Machine/Arithmetic.lean ====
section
/-! DEFINITION. Chapters 2 and 3: what MATMUL, VECTOR, REDUCE LOCAL and the plain copies compute (R23 to R29, R65, R66, R97, R534,
R535). -/

namespace Sys2Proof.Machine

/-- Columns of one weight tile, each with its 256 values (R61, R85, R86). -/
def tileColumns (fmt : Nat) (e s : Bytes) : Except Nat (List (List Num)) :=
  let ea := e.toArray
  let sa := s.toArray
  (List.range 128).mapM (fun n => (List.range 256).mapM (fun k => tileElem fmt ea sa n k))

/-- Fetches weight tile (ct, kt) of plane pl of a tiled slot (R61). -/
def fetchTile (x : Ctx) (s : Slot) (pl ct kt : Nat) : Run (List (List Num)) := do
  let t := ct * (s.inner / 16) + kt
  let a := s.addr + pl * s.planeStride
  let e ← fetch x s.fab (a + t * tileBytes s.fmt) (tileBytes s.fmt)
  let c ← fetch x s.fab (a + s.scaleOff * 64 + t * tileScaleBytes s.fmt) (tileScaleBytes s.fmt)
  decoded (tileColumns s.fmt e c)

/-- Products of rows with one column tile (R24 to R27): `xs` the rows' k-tiles, `ws` the tile's columns by k-tile; each row's 128
output values. -/
def tileProduct (split : Bool) (xs : List (List (List Num))) (ws : List (List (List Num))) : List (List Word) :=
  xs.map (fun row => (List.range 128).map (fun n => accumulate split ((ws.zip row).map (fun e => kdot (e.1.getD n []) e.2))))

/-- A row cut into k-tiles. Its last tile ends where the row does: inner elements beyond the real length count as zero on both sides
(R66, R95), so no product is formed there. -/
def kTiles (v : List Num) : List (List Num) := groupsOf 256 v

/-- Row groups with a real row (R24). -/
def computedGroups (rows : List Nat) : Nat := ((rows.map (· / 16)).eraseDups).length

/-- The activations of the rows from plane pl of slot A, with their counts (R66). -/
def activations (x : Ctx) (pl : Nat) (rows : List Nat) : Run (List (Nat × List Num) × QCount) := do
  let g ← if rows.isEmpty then pure 1 else slotGran x x.d.a
  let l ← rows.mapM (fun r => do
    let v ← fetchLine x x.d.a g pl r
    let q := activation x x.d.w28 x.d.a.fmt v
    return ((r, q.1), q.2))
  return (l.map (·.1), sumCounts (l.map (·.2)))

/-- The product of activations with plane pl of slot B, all columns (R24 to R27). -/
def product (x : Ctx) (s : Slot) (pl : Nat) (split : Bool) (acts : List (Nat × List Num)) : Run (List (Nat × List Word)) := do
  if acts.isEmpty then return []
  else
    let kn := s.inner / 16
    let xs := acts.map (fun a => kTiles a.2)
    let tiles ← (List.range (s.lines / 128)).mapM (fun ct => do
      let ws ← (List.range kn).mapM (fun kt => fetchTile x s pl ct kt)
      return tileProduct split xs ws)
    return acts.zipIdx.map (fun a => (a.1.1, tiles.flatMap (fun t => t.getD a.2 [])))

/-- MATMUL (R534): one product for each plane of slot B. -/
def runMatmul (x : Ctx) : Run Made := do
  let r ← passRows x
  let d := x.d
  let p ← here
  let one ← if d.a.planes = 1 then activations x 0 r.1 else pure ([], {})
  let m := emitHeader p d.d d.qgran { rotate := one.2 }
  let m ← (List.range d.b.planes).foldlM (fun (m : Made) pl => do
    let a ← if d.a.planes = 1 then pure (one.1, ({} : QCount)) else activations x pl r.1
    let y ← product x d.b pl d.split a.1
    let y ← y.mapM (fun e => do return (e.1, ← epilogue x pl e.1 e.2))
    return { emitLines p d pl y m with rotate := m.rotate.add a.2 }) m
  let macs := computedGroups r.1 * 16 * d.b.lines * d.b.elems * d.b.planes
  let m := emitCount p d r.2 { m with macs := macs, count := r.2 }
  return if d.wide then { m with rotate := {}, quantise := {} } else m

/-- The Normalise stage of a VECTOR pass on one row (R29, R63, R97). -/
def normaliseRow (norm : Nat) (eps : Word) (gain bias : List Word) (w : List Word) : List Word :=
  match norm with
  | 1 => (softmaxRow w).1
  | 2 => rmsRow w gain eps
  | 3 => layerRow w gain bias eps
  | _ => w

/-- Gain and bias of a VECTOR pass (R63): line 0 of slot B and, for a layer normalisation, line 1 where it has two. -/
def gainBias (x : Ctx) : Run (List Word × List Word) := do
  let d := x.d
  let n := d.a.elems
  if d.norm < 2 ∨ d.hasB = false then return (List.replicate n one32, List.replicate n zero32)
  else
    let g ← slotGran x d.b
    let gain ← fetchWords x d.b g 0 0
    let bias ← if d.norm = 3 ∧ 2 ≤ d.b.lines then fetchWords x d.b g 0 1 else pure (List.replicate n zero32)
    return (gain, bias)

/-- VECTOR (R63, R66, R97): the Vector stage, then the Normalise stage. DESIGN CHOICE (assumption 155): plane 0 of slot A into plane 0 of
slot D; the spec gives a VECTOR no further planes. -/
def runVector (x : Ctx) : Run Made := do
  let r ← passRows x
  let d := x.d
  let p ← here
  let g ← if r.1.isEmpty then pure 1 else slotGran x d.a
  let gb ← gainBias x
  let y ← r.1.mapM (fun l => do
    let w ← epilogue x 0 l (← fetchWords x d.a g 0 l)
    return (l, normaliseRow d.norm (immWord d.imm1) gb.1 gb.2 w))
  return emitCount p d r.2 (emitLines p d 0 y (emitHeader p d.d d.qgran {}))

/-- Two values combined by OP of a reduction (R65, R329). -/
def combine (op : Nat) (a b : Word) : Word :=
  match op with
  | 0 => fadd a b
  | 1 => fmax a b
  | _ => fmin a b

/-- Slot A's planes combined in ascending order on one line (R65). -/
def reduceLine (x : Ctx) (g l : Nat) : Run (List Word) := do
  let first ← fetchWords x x.d.a g 0 l
  ((List.range x.d.a.planes).drop 1).foldlM (fun acc pl => do
    let w ← fetchWords x x.d.a g pl l
    return (acc.zip w).map (fun e => combine (bits (x.d.par 0) 27 24) e.1 e.2)) first

/-- REDUCE with MODE 1 over given rows (R65). -/
def reduceRows (x : Ctx) (rows : List Nat) (count : Nat) : Run Made := do
  let d := x.d
  let p ← here
  let g ← if rows.isEmpty then pure 1 else slotGran x d.a
  let y ← rows.mapM (fun l => do return (l, ← epilogue x 0 l (← reduceLine x g l)))
  return emitCount p d count (emitLines p d 0 y (emitHeader p d.d d.qgran {}))

/-- Lines that a copy moves: source and destination (R65, R535). -/
def copyPairs (x : Ctx) : Run (List (Nat × Nat) × Nat) := do
  let d := x.d
  if d.mode = 1 ∨ d.mode = 2 then
    let s := if d.mode = 2 ∨ (d.a.cnt && d.d.cnt) then d.a else d.d
    let r ← slotRows x s
    stopIf (decide (d.b.lines < r.2) || decide (s.lines < r.2) || (d.mode == 1 && decide (d.d.lines < r.2))) 0x0156
    let l ← r.1.mapM (fun i => do return (i, (← fetchInts x d.b 0 i).headD 0))
    let limit := if d.mode = 1 then d.a.lines else d.d.lines
    stopIf (l.any (fun e => decide (limit ≤ e.2))) 0x0159
    return (l.map (fun e => if d.mode = 1 then (e.2, e.1) else e), r.2)
  else
    let r ← passRows x
    return (r.1.map (fun l => (l, l)), r.2)

/-- One line moved with its scales (R65). -/
def copyLine (x : Ctx) (pl : Nat) (e : Nat × Nat) : Run (List (Nat × Bytes)) := do
  let d := x.d
  let p ← here
  let v ← fetch x d.a.fab (d.a.lineAddr pl e.1) d.a.lineBytes
  let line := (emitAddr p d.d.fab (d.d.lineAddr pl e.2), v)
  if hasScales d.a.fmt then
    let s ← fetch x d.a.fab (d.a.scaleAddr pl e.1) (lineScaleBytes d.a.fmt d.a.inner)
    return [line, (emitAddr p d.d.fab (d.d.scaleAddr pl e.2), s)]
  else return [line]

/-- COPY with MODE 0, 1, 2 or 4 (R65, R535): no value is converted; the scale header goes with the lines. DESIGN CHOICE (assumption 43):
as many planes move as slot A has, whatever slot D's PLANES says. -/
def runCopy (x : Ctx) : Run Made := do
  let d := x.d
  let r ← copyPairs x
  let p ← here
  let head ← if hasScales d.a.fmt then do
      let _ ← slotGran x d.a
      let h ← fetch x d.a.fab (d.a.addr + d.a.scaleOff * 64) 64
      pure [(emitAddr p d.d.fab (d.d.addr + d.d.scaleOff * 64), h)]
    else pure []
  let w ← (List.range d.a.planes).mapM (fun pl => r.1.mapM (copyLine x pl))
  return emitCount p d r.2 { writes := head ++ w.flatten.flatten }

end Sys2Proof.Machine
end

