-- ==== Sys2Proof/Machine/Attention.lean ====
section
/-! DEFINITION. Chapter 5: what ATTEND-SCORE, ATTEND-APPLY and a KV append compute (R116 to R132). -/

namespace Sys2Proof.Machine

/-- Parameters of an ATTEND pass (R65). -/
def Desc.head0 (d : Desc) : Nat := bits (d.par 0) 15 8
def Desc.heads (d : Desc) : Nat := bits (d.par 0) 7 0
def Desc.splitIdx (d : Desc) : Nat := bits (d.par 1) 31 24
def Desc.splitCnt (d : Desc) : Nat := bits (d.par 1) 23 16
def Desc.cand (d : Desc) : Bool := bit (d.par 1) 15

/-- The layer that a pass names (R111); a layer that cannot be named stops the pass with 0x0307. -/
def namedLayer (x : Ctx) (layer : Nat) : Run Layer := do
  let p ← here
  match layerAt p x.pp layer with
  | some l => return l
  | none => stopWith 0x0307

/-- KV head of query head h (R111). -/
def Layer.kvOf (l : Layer) (h : Nat) : Nat := h / max 1 (l.qHeads / max 1 l.kvHeads)

/-- Heads of a pass, each of a KV head held here (R123). -/
def passHeads (x : Ctx) (l : Layer) : Run (List Nat) := do
  let hs := (List.range x.d.heads).map (x.d.head0 + ·)
  stopIf (hs.any (fun h => decide (l.qHeads ≤ h) || decide (l.kvOf h < l.first) || decide (l.first + l.localHeads ≤ l.kvOf h))) 0x0307
  return hs

/-- Rows of the table with their real tokens (R31, R124): LT row and position of each; with CAND 0 only token 0 of a row with
candidates. -/
def attendRows (x : Ctx) : List (Bytes × List (Nat × Nat)) :=
  (tableRows x.table).map (fun r =>
    let toks := if !x.d.cand && leAt r 10 1 != 0 then [0] else List.range (leAt r 8 2)
    (r, (toks.map (fun i => (16 * leAt r 12 4 + i, leAt r 4 4 + i))).filter (fun t => !x.mask.contains t.1)))

/-- Page directory of a row's request (R113, R119): at the row's `page_dir` on the lead, whose manager gave the address; on any other
package the directory of that package's own manager (assumption 158: DEDUCED). -/
def rowDir (p : Pkg) (pp : Nat) (row : Bytes) : Nat :=
  if isLead p pp then leAt row 16 8 else ((findDir p pp (leAt row 0 4)).map (·.addr)).getD (leAt row 16 8)

/-- Pages of a row's request for a layer and KV head that are not evicted: index and address, ascending (R119). -/
def rowPages (x : Ctx) (l : Layer) (layer kvh : Nat) (row : Bytes) : Run (List (Nat × Nat)) := do
  let e ← fetch x false (dirEntry (rowDir (← here) x.pp row) l layer kvh) 16
  let n := leAt e 8 4
  stopIf (n != pagesFor (leAt row 4 4 + leAt row 8 2)) 0x0306
  let v ← fetch x false (leAt e 0 8) (8 * n)
  let es := ((records 8 v).map leNat).zipIdx
  stopIf (es.any (fun e => !bit e.1 0)) 0x0306
  let live := (es.filter (fun e => !bit e.1 1)).map (fun e => (e.2, e.1 % 2 ^ 46 / 64 * 64))
  stopIf (live.any (fun e => decide (2 < rangeNo e.2))) 0x0306
  return live

/-- Checks a page's header and answers it (R118). -/
def pageHeader (x : Ctx) (l : Layer) (layer kvh handle page addr : Nat) : Run Bytes := do
  let h ← fetch x false addr 64
  let tag := leAt h 0 1
  let gran := if tag = 0xC then 32 else 16
  stopIf ((tag != 0xC && tag != 1) || leAt h 1 1 != 1 || leAt h 36 1 != gran || leAt h 37 1 != gran || leAt h 38 2 != l.dim
    || leAt h 2 2 != layer || leAt h 4 2 != kvh || leAt h 8 4 != handle || leAt h 12 4 != page) 0x0305
  stopIf (leAt h 6 2 != x.d.version) 0x03E2
  return h

/-- Scale bytes of a head row as a line has them: for K4 the sub-scales and then the block scale of byte 16 (R117). -/
def headScales (tag dim : Nat) (s : Bytes) : Bytes := if tag = 0xC then s else s.take (dim / 16) ++ slice s 16 1

/-- Exact values of a key or value row of a page (R116, R117). -/
def headValues (x : Ctx) (tag dim addr t : Nat) (value : Bool) : Run (List Num) := do
  let e ← fetch x false (addr + rowOffset tag dim t value) (headRow tag dim)
  let s ← fetch x false (addr + scaleOffset tag dim t value) 32
  decoded (decodeLine tag (if tag = 0xC then 32 else 16) dim e (headScales tag dim s))

/-- A part of the pages of one row and KV head: tag, address, and positions of each page (R124, R127). -/
structure Span where
  kvh : Nat := 0
  pages : List (Nat × Nat × Nat × List Nat) := []
  deriving DecidableEq, Repr

/-- Key positions of a span, ascending (R124). -/
def Span.keys (s : Span) : List Nat := s.pages.flatMap (fun e => e.2.2.2.map (fun t => 64 * e.2.2.1 + t))

/-- The span of one row and KV head that this part of the split reads (R124, R127). -/
def readSpan (x : Ctx) (l : Layer) (layer : Nat) (row : Bytes) (kvh : Nat) : Run Span := do
  let live ← rowPages x l layer kvh row
  let r := (kSplit x.d.splitCnt live.length).getD x.d.splitIdx (0, 0)
  let n := leAt row 4 4 + leAt row 8 2
  let pages ← ((live.drop r.1).take r.2).mapM (fun e => do
    let h ← pageHeader x l layer kvh (leAt row 0 4) e.1 e.2
    return (leAt h 0 1, e.2, e.1, List.range (min 64 (n - 64 * e.1))))
  return { kvh, pages }

/-- Spans of every row with a real token, for every KV head of the pass. -/
def readSpans (x : Ctx) (l : Layer) (layer : Nat) (heads : List Nat) : Run (List (Bytes × List (Nat × Nat) × List Span)) := do
  let kvhs := (heads.map l.kvOf).eraseDups
  ((attendRows x).filter (fun r => !r.2.isEmpty)).mapM (fun r => do
    return (r.1, r.2, ← kvhs.mapM (readSpan x l layer r.1)))

/-- The longest span S of a pass (R125). -/
def longest (rows : List (Bytes × List (Nat × Nat) × List Span)) : Nat :=
  (rows.flatMap (fun r => r.2.2.map (fun s => s.keys.length))).foldl max 0

/-- Score columns of the area (R125): S rounded up to 256. -/
def scoreCols (s : Nat) : Nat := alignUp s 256

/-- Whether the score area holds the pass (R125). -/
def areaFits (s : Slot) (heads t longest : Nat) : Bool :=
  decide (heads * t * (4 * scoreCols longest + 8) ≤ s.lines * s.lineStride) && decide (longest ≤ s.elems) && decide (longest ≤ 262144)

/-- A page's rows of keys or values for a span, position by position. -/
def spanValues (x : Ctx) (l : Layer) (value : Bool) (s : Span) : Run (List (Nat × List Num)) := do
  let all ← s.pages.mapM (fun e => e.2.2.2.mapM (fun t => do return (64 * e.2.2.1 + t, ← headValues x e.1 l.dim e.2.1 t value)))
  return all.flatten

/-- Query vectors of a line, head by head (R124): each head's D elements are one line for the Rotate stage. -/
def queryHeads (x : Ctx) (l : Layer) (v : List Num) : List (List Num × QCount) :=
  (groupsOf l.dim v).map (activation x x.d.w28 x.d.a.fmt)

/-- One score (R124): −Inf above the row's own position. -/
def scoreOf (d : Desc) (q : List Num) (pos : Nat) (k : Nat × List Num) : Word :=
  if pos < k.1 then inf32 true else fmul (kdot k.2 q) (immWord d.imm0)

/-- Pages widened under the working tag K8 (R131): counted, with event 0x0310 for the first of a step. -/
def countConverted (x : Ctx) (n : Nat) (p : Pkg) : Pkg :=
  if n = 0 then p
  else
    let q := bump p Ix.akPagesConverted x.pp n
    if (part p x.pp).ak.convertedStep = some x.step then q
    else raise (last (modAk q x.pp (fun a => { a with convertedStep := some x.step })) Ix.akLastStatus x.pp 0x0310) 0x0310 x.pp x.b 0

/-- Shape of slot A and slot D of an ATTEND pass beyond R72 (R124, R125, R128). -/
def attendShape (x : Ctx) (l : Layer) : Run Unit :=
  stopIf (!x.d.a.lt || !x.d.d.lt || x.d.d.planes != 1
    || (if x.d.cls = 3 then x.d.a.elems != x.d.heads * l.dim || x.d.a.planes != 1
        else x.d.d.elems != x.d.heads * l.dim)) 0x0307

/-- ATTEND-SCORE (R123 to R126, R130, R131). -/
def runScore (x : Ctx) : Run Made := do
  let d := x.d
  let layer := d.layer
  let l ← namedLayer x layer
  let heads ← passHeads x l
  attendShape x l
  stopIf (d.w28 != l.rotation) 0x0303
  let t := ltCount x.table
  stopIf (decide (d.a.lines < t)) 0x0156
  let rows ← readSpans x l layer heads
  let tags := rows.flatMap (fun r => r.2.2.flatMap (fun s => s.pages.map (·.1)))
  stopIf (d.actFmt == 3 && tags.contains 0xC) 0x0302
  let s := longest rows
  stopIf (!areaFits d.d d.heads t s) 0x0304
  change (countConverted x (if tags.contains 0xC then (tags.filter (· == 1)).length else 0))
  let g ← slotGran x d.a
  let pitch := 4 * scoreCols s
  let p ← here
  rows.foldlM (fun (m : Made) (r : Bytes × List (Nat × Nat) × List Span) => do
    let keys ← r.2.2.mapM (fun sp => do return (sp.kvh, ← spanValues x l false sp))
    r.2.1.foldlM (fun (m : Made) (tok : Nat × Nat) => do
      let qs := queryHeads x l (← fetchLine x d.a g 0 tok.1)
      return heads.foldl (fun (m : Made) h =>
        let q := qs.getD (h - d.head0) ([], {})
        let ks := ((keys.find? (fun k => k.1 == l.kvOf h)).map (·.2)).getD []
        let raw := ks.map (scoreOf d q.1 tok.2)
        let line := raw ++ List.replicate (scoreCols s - raw.length) (inf32 true)
        let sm := softmaxRow line
        let out := if d.norm = 1 then sm.1 else line
        let n := (h - d.head0) * t + tok.1
        let e := quantLine 11 1 out
        { m with
          rotate := m.rotate.add q.2, quantise := m.quantise.add e.2.2, macs := m.macs + 16 * scoreCols s * 256,
          lines := m.lines ++ [(0, n, e.1, [])],
          writes := m.writes ++ [(emitAddr p d.d.fab (d.d.addr + n * pitch), e.1)]
            ++ (if d.norm = 1 then
                  [(emitAddr p d.d.fab (d.d.addr + d.heads * t * pitch + 8 * n), leBytes 4 sm.2.1.toNat ++ leBytes 4 sm.2.2.toNat)]
                else []) }) m) m) {}

/-- Cells that share one head (R123). -/
def headCells (heads : Nat) : Nat := if 8 ≤ heads then 1 else max 1 (8 / max 1 heads)

/-- Work items of m cells combined (R26, R27). -/
def accumulateOver (m : Nat) (partials : List Word) : Word :=
  addUp (((kSplit m partials.length).filter (fun i => i.2 != 0)).map (fun i => addUp ((partials.drop i.1).take i.2)))

/-- The values of one head weighed with its scores (R128): D columns. -/
def applyHead (dim m : Nat) (p : List Num) (v : List (List Num)) : List Word :=
  let ps := groupsOf 256 p
  let vs := groupsOf 256 v
  (List.range dim).map (fun c => accumulateOver m ((ps.zip vs).map (fun e => kdot (e.2.map (fun row => row.getD c (Num.fin false 0 0))) e.1)))

/-- A score in binary32 rounded to BF16 (R128). -/
def toBf16 (w : Word) : Num := bf16.dec (bf16.enc (val w))

/-- Scores of one head and row read from the area, with its statistics m and l (R125, R128). -/
def readScores (x : Ctx) (t cols h r : Nat) : Run (List Word × Bytes) := do
  let a := x.d.a
  let n := (h - x.d.head0) * t + r
  let s ← fetch x a.fab (a.addr + n * 4 * cols) (4 * cols)
  let st ← fetch x a.fab (a.addr + x.d.heads * t * 4 * cols + 8 * n) 8
  return ((records 4 s).map (fun b => BitVec.ofNat 32 (leNat b)), st)

/-- Adds scores to the page that each position lies in (R132): in the order of the list. -/
def addScores (acc : List (Nat × Word)) (e : Nat × Word) : List (Nat × Word) :=
  match acc with
  | [] => [(e.1, e.2)]
  | a :: rest => if a.1 = e.1 then (a.1, fadd a.2 e.2) :: rest else a :: addScores rest e

/-- Page address of each key of a span. -/
def spanAddrs (s : Span) : List Nat := s.pages.flatMap (fun e => e.2.2.2.map (fun _ => e.2.1))

/-- ATTEND-APPLY in part form (R128, R132). -/
def runPart (x : Ctx) (l : Layer) (heads : List Nat) : Run Made := do
  let d := x.d
  stopIf (decide (1 < d.splitCnt) && d.d.fmt != 11) 0x0307
  let t := ltCount x.table
  stopIf (decide (d.d.lines < t)) 0x0156
  let rows ← readSpans x l d.layer heads
  let s := longest rows
  stopIf (!areaFits d.a d.heads t s) 0x0304
  let cols := scoreCols s
  let p ← here
  let vals ← rows.mapM (fun r => r.2.2.mapM (fun sp => do return (sp.kvh, ← spanValues x l true sp, spanAddrs sp)))
  let scores ← rows.mapM (fun r => r.2.1.mapM (fun tok => heads.mapM (fun h => readScores x t cols h tok.1)))
  let perRow := (rows.zip vals).zip scores
  let m ← perRow.foldlM (fun (m : Made) e =>
    ((e.1.1.2.1).zip e.2).foldlM (fun (m : Made) (ts : (Nat × Nat) × List (List Word × Bytes)) => do
      let y := (heads.zip ts.2).flatMap (fun hs =>
        let v := ((e.1.2.find? (fun k => k.1 == l.kvOf hs.1)).map (·.2.1)).getD []
        applyHead l.dim (headCells d.heads) ((hs.2.1.take v.length).map toBf16) (v.map (·.2)))
      let stats := if d.splitCnt = 1 then []
        else ts.2.zipIdx.map (fun st =>
          (emitAddr p d.d.fab (d.d.addr + d.d.lines * d.d.lineStride + 8 * (ts.1.1 * d.heads + st.2)), st.1.2))
      let m := emitLine p d.d d.qgran 0 ts.1.1 (← epilogue x 0 ts.1.1 y) m
      return { m with writes := m.writes ++ stats, macs := m.macs + 16 * l.dim * cols * d.heads }) m) (emitHeader p d.d d.qgran {})
  let order := heads.zipIdx.flatMap (fun h => perRow.flatMap (fun e => e.2.flatMap (fun per =>
    let sp := (e.1.2.find? (fun k => k.1 == l.kvOf h.1)).map (·.2.2)
    ((sp.getD []).zip ((per.map (·.1)).getD h.2 [])))))
  return { m with scores := if bit l.flags 0 then order.foldl addScores [] else [] }

/-- The merge of the parts of one row and head (R128): `parts` holds m, l and the D values of each part. -/
def mergeHead (parts : List (Word × Word × List Word)) : List Word :=
  let mx := rowMax (parts.map (·.1))
  let dim := ((parts.head?.map (·.2.2.length))).getD 0
  if mx = inf32 true then List.replicate dim zero32
  else
    let ws := parts.map (fun q => if q.1 = inf32 true then zero32 else fmul q.2.1 (fexp (fsub q.1 mx)))
    let big := addUp ws
    (List.range dim).map (fun c => fmul (addUp ((parts.zip ws).map (fun e => fmul (e.1.2.2.getD c zero32) e.2))) (frecip big))

/-- One part of the merge buffer for a row (R128): m, l and the values of each head. -/
def readPart (x : Ctx) (l : Layer) (r s : Nat) : Run (List (Word × Word × List Word)) := do
  let a := x.d.a
  let w := (records 4 (← fetch x a.fab (a.lineAddr s r) (4 * x.d.heads * l.dim))).map (fun b => BitVec.ofNat 32 (leNat b))
  let st ← fetch x a.fab (a.addr + s * a.planeStride + a.lines * a.lineStride + 8 * (r * x.d.heads)) (8 * x.d.heads)
  return (List.range x.d.heads).map (fun h =>
    (BitVec.ofNat 32 (leAt st (8 * h) 4), BitVec.ofNat 32 (leAt st (8 * h + 4) 4), (w.drop (h * l.dim)).take l.dim))

/-- ATTEND-APPLY in merge form (R128). -/
def runMerge (x : Ctx) (l : Layer) : Run Made := do
  let d := x.d
  stopIf (d.splitIdx != 0 || d.a.planes != d.splitCnt || d.a.elems != d.heads * l.dim) 0x0307
  let t := ltCount x.table
  stopIf (decide (d.d.lines < t) || decide (d.a.lines < t)) 0x0156
  let p ← here
  let toks := (attendRows x).flatMap (fun r => r.2.map (·.1))
  toks.foldlM (fun (m : Made) r => do
    let parts ← (List.range d.splitCnt).mapM (readPart x l r)
    let y := (List.range d.heads).flatMap (fun h => mergeHead (parts.map (fun q => q.getD h (zero32, zero32, []))))
    return emitLine p d.d d.qgran 0 r (← epilogue x 0 r y) m) (emitHeader p d.d d.qgran {})

/-- ATTEND-APPLY (R128): the form that slot A's planes name. -/
def runApply (x : Ctx) : Run Made := do
  let l ← namedLayer x x.d.layer
  let heads ← passHeads x l
  attendShape x l
  if x.d.a.planes = 1 then runPart x l heads else runMerge x l

/-- Quantises a head row to a page's tag (R116, R117): element bytes, the 32 scale bytes, counts. -/
def quantHead (tag : Nat) (w : List Word) : Bytes × Bytes × QCount :=
  let q := quantLine tag (if tag = 0xC then 32 else 16) w
  let s := if tag = 0xC then padTo q.2.1 32 else padTo (padTo q.2.1.dropLast 16 ++ (q.2.1.getLast?.toList)) 32
  (q.1, s, q.2.2)

/-- Header of a new page (R118). -/
def newHeader (x : Ctx) (l : Layer) (layer kvh handle page : Nat) : Bytes :=
  let gran := if l.format = 0xC then 32 else 16
  leBytes 1 l.format ++ leBytes 1 1 ++ leBytes 2 layer ++ leBytes 2 kvh ++ leBytes 2 x.d.version ++ leBytes 4 handle ++ leBytes 4 page
    ++ leBytes 4 0 ++ leBytes 4 x.step ++ leBytes 4 0 ++ leBytes 4 0 ++ leBytes 4 ((x.step + 2 ^ 32 - 1) % 2 ^ 32)
    ++ leBytes 1 gran ++ leBytes 1 gran ++ leBytes 2 l.dim ++ List.replicate 24 0

/-- Appends tokens of one row into one page of a KV head (R118, R120): `toks` holds each position in the page with its key and value
words. A page that does not exist yet is taken from those reserved. -/
def appendPage (x : Ctx) (l : Layer) (layer kvh : Nat) (row : Bytes) (page : Nat) (toks : List (Nat × List Word × List Word)) (m : Made) :
    Run Made := do
  let p ← here
  let handle := leAt row 0 4
  match findPage p x.pp handle layer kvh page with
  | none => stopWith 0x0306
  | some s =>
    let h ← if s.reserved then pure (newHeader x l layer kvh handle page) else pageHeader x l layer kvh handle page s.addr
    let tag := leAt h 0 1
    let count := (toks.map (·.1 + 1)).foldl max (leAt h 16 1)
    let prev := if leAt h 20 4 = x.step ∧ s.reserved = false then leAt h 18 1 else leAt h 16 1
    let h := overlay (overlay h 16 (leBytes 1 count ++ slice h 17 1 ++ leBytes 1 prev)) 20 (leBytes 4 x.step)
    let rows := toks.map (fun t =>
      let k := quantHead tag t.2.1
      let v := quantHead tag t.2.2
      ([(s.addr + rowOffset tag l.dim t.1 false, k.1), (s.addr + scaleOffset tag l.dim t.1 false, k.2.1),
        (s.addr + rowOffset tag l.dim t.1 true, v.1), (s.addr + scaleOffset tag l.dim t.1 true, v.2.1)], k.2.2.add v.2.2))
    return { m with
      writes := m.writes ++ [(s.addr, h)] ++ rows.flatMap (·.1), quantise := m.quantise.add (sumCounts (rows.map (·.2))),
      appended := if s.reserved then m.appended ++ [s] else m.appended }

/-- Appends one row's tokens for every local KV head (R120). -/
def appendRow (x : Ctx) (l : Layer) (layer g : Nat) (m : Made) (row : Bytes) : Run Made := do
  let toks := ((List.range (leAt row 8 2)).map (fun i => (16 * leAt row 12 4 + i, leAt row 4 4 + i))).filter (fun t => !x.mask.contains t.1)
  let lines ← toks.mapM (fun t => do return (t.2, groupsOf l.dim (← fetchWords x x.d.a g 0 t.1)))
  let n := if bits l.rotation 31 29 = 0 then 0 else 32 * 2 ^ bits l.rotation 31 29
  let rot := fun (w : List Word) => if n = 0 then w else rotateLine n (bits l.rotation 27 0) w
  let pages := (toks.map (fun t => t.2 / 64)).eraseDups
  (List.range l.localHeads).foldlM (fun (m : Made) j =>
    pages.foldlM (fun (m : Made) pg =>
      let mine := (lines.filter (fun e => e.1 / 64 == pg)).map (fun e => (e.1 % 64, rot (e.2.getD j []), e.2.getD (l.localHeads + j) []))
      appendPage x l layer (l.first + j) row pg mine m) m) m

/-- COPY with MODE 3 (R120). -/
def runAppend (x : Ctx) : Run Made := do
  let layer := bits (x.d.par 0) 15 0
  let l ← namedLayer x layer
  stopIf (!x.d.a.lt || x.d.a.elems != 2 * l.localHeads * l.dim) 0x0307
  stopIf (decide (x.d.a.lines < ltCount x.table)) 0x0156
  let g ← slotGran x x.d.a
  (tableRows x.table).foldlM (appendRow x l layer g) {}

end Sys2Proof.Machine
end

