-- ==== Sys2Proof/Machine/Draw.lean ====
section
/-! DEFINITION. Chapter 7: the arithmetic of a decision: the generator (R170, R171), the probability vector (R167), the pick (R168),
the acceptance test and the residual (R177). -/

namespace Sys2Proof.Machine

/-- Rotates a 32-bit value left (R170). -/
def rotl32 (v n : Nat) : Nat := (v * 2 ^ n) % 2 ^ 32 + v % 2 ^ 32 / 2 ^ (32 - n)

/-- One round of the generator (R170): x0, x1, k0, k1. -/
def drawRound (s : Nat × Nat × Nat × Nat) : Nat × Nat × Nat × Nat :=
  let x0 := (s.1 + s.2.2.1) % 2 ^ 32
  let x1 := rotl32 (s.2.1 ^^^ x0) 11
  let x0 := (x0 * 0x9E3B5C27 + x1) % 2 ^ 32
  let x1 := rotl32 x1 17 ^^^ x0 ^^^ s.2.2.2
  (x0, x1, (s.2.2.1 + 0x7F4A61D3) % 2 ^ 32, (s.2.2.2 + 0x2B91E3A5) % 2 ^ 32)

/-- The generator (R170): 32 bits from a 64-bit seed and a 64-bit counter. -/
def draw (seed ctr : Nat) : Nat :=
  let s := (List.range 8).foldl (fun s _ => drawRound s) (ctr % 2 ^ 32, ctr / 2 ^ 32 % 2 ^ 32, seed % 2 ^ 32, seed / 2 ^ 32 % 2 ^ 32)
  s.1 ^^^ s.2.1

/-- The uniform value of a draw (R170). -/
def uniform (d : Nat) : Word := rnd (.fin false (d / 256) (-24))

/-- Order of binary32 values that are not NaN, zeros equal (R145, R167). -/
def rankKey (w : Word) : Int := if w.msb then -((mag w : Nat) : Int) else ((mag w : Nat) : Int)

/-- Whether a value lies above zero; a NaN does not. -/
def positive (w : Word) : Bool := !isNaN w && decide (0 < rankKey w)

/-- Whether one exact value lies below another; nothing is below or above a NaN (R177). -/
def numLt (a b : Num) : Bool :=
  match a, b with
  | .nan, _ => false
  | _, .nan => false
  | x, y => match x.add y.opp with
    | .nan => false
    | .inf n => n
    | .fin n m _ => n && m != 0

/-- Indexes of a row by descending value, equal values by ascending index (R145, R167). -/
def ranked (y : List Word) (keep : List Nat) : List Nat :=
  let a := y.toArray
  let k := fun (t : Nat) => rankKey (a.getD t zero32)
  sortBy (fun (s t : Nat) => decide (k t < k s) || (k s == k t && decide (s < t))) keep

/-- Selection parameters of a sampling record (R162). -/
def recFloat (r : Bytes) (o : Nat) : Word := BitVec.ofNat 32 (leAt r o 4)

/-- The repetition penalty on the tokens of the penalised set (R164, R167). -/
def penalise (th : Word) (pen : List Nat) (y : List Word) : List Word :=
  let r := frecip th
  y.zipIdx.map (fun e => if pen.contains e.2 then (if positive e.1 then fmul e.1 r else fmul e.1 th) else e.1)

/-- Ranks kept by top-p (R167): up to the first at which the running sum reaches the limit. -/
def keepTopP (lim : Word) : (c : Word) → List (Nat × Word) → List Nat
  | _, [] => []
  | c, e :: rest =>
    let c := fadd c e.2
    if flt c lim then e.1 :: keepTopP lim c rest else [e.1]

/-- Weights of a row (R167): of the ranks in `keep`, +0 elsewhere. -/
def weights (y : List Word) (keep : List Nat) : List Word :=
  let m := rowMax (keep.map (fun t => y.getD t zero32))
  y.zipIdx.map (fun e =>
    if !keep.contains e.2 then zero32
    else if m = inf32 false then (if e.1 = inf32 false then one32 else zero32)
    else fexp (fsub e.1 m))

/-- The probability vector of a row (R167), from logits without NaN, the penalised set and the mask; none where it is empty (R168). -/
def probabilities (rec : Bytes) (pen : List Nat) (allowed : Nat → Bool) (x : List Word) : Option (List Word) :=
  let temp := recFloat rec 16
  let y := (penalise (recFloat rec 28) pen x).zipIdx.map (fun e => if allowed e.2 then e.1 else inf32 true)
  let live := fun (y : List Word) => (y.zipIdx.filter (fun e => e.1 != inf32 true)).map (·.2)
  if (live y).isEmpty then none
  else if mag temp = 0 then
    let best := (ranked y (live y)).headD 0
    some (y.zipIdx.map (fun e => if e.2 = best then one32 else zero32))
  else
    let r := frecip temp
    let y := y.map (fun w => fmul w r)
    let keep := ranked y (live y)
    let k := leAt rec 20 4
    let keep := if k = 0 then keep else keep.take k
    if keep.isEmpty then none
    else
      let w := weights y keep
      let w := if flt (recFloat rec 24) one32 then
          let kept := keepTopP (fmul (recFloat rec 24) (rowSum w)) zero32 (keep.map (fun t => (t, w.getD t zero32)))
          w.zipIdx.map (fun e => if kept.contains e.2 then e.1 else zero32)
        else w
      let s := frecip (rowSum w)
      let p := w.map (fun v => fmul v s)
      if p.any positive then some p else none

/-- The pick from a vector (R168), from element `t` on with the running sum and the last positive element. -/
def pickFrom (u : Word) : (t : Nat) → (c : Word) → (last : Option Nat) → List Word → Option Nat
  | _, _, last, [] => last
  | t, c, last, v :: rest =>
    if positive v then
      let c := fadd c v
      if flt u c then some t else pickFrom u (t + 1) c (some t) rest
    else pickFrom u (t + 1) c last rest

/-- The pick (R168). -/
def pick (p : List Word) (u : Word) : Option Nat := pickFrom u 0 zero32 none p

/-- The pick at a position and lane (R168, R171). -/
def pickAt (rec : Bytes) (position lane : Nat) (p : List Word) : Option Nat :=
  pick p (uniform (draw (leAt rec 8 8) (position * 4 + lane)))

/-- Whether a candidate stands (R177): the product of the draw and q is exact. -/
def stands (rec : Bytes) (position : Nat) (q pr : Word) : Bool :=
  !isNaN q && positive pr && numLt ((val (uniform (draw (leAt rec 8 8) (position * 4 + 1)))).mul (val q)) (val pr)

/-- The vector that a rejected candidate's token is picked from (R177). -/
def residual (p q : List Word) : List Word :=
  let r := (p.zip q).map (fun e => let d := fsub e.1 e.2; if positive d then d else zero32)
  let rr := rowSum r
  if mag rr = 0 then p
  else
    let s := frecip rr
    r.map (fun v => fmul v s)

end Sys2Proof.Machine
end

