-- ==== Sys2Proof/Machine/Sampler.lean ====
section
/-! DEFINITION. Chapter 7: what a SAMPLE pass does: records and working states (R162 to R166), masks (R172 to R174), draft, target and
verify decisions (R166, R175 to R177), and token records (R179). -/

namespace Sys2Proof.Machine

/-- Whether an address is a local T0 or T1 address and a multiple of 64. -/
def localT0T1 (a : Nat) : Bool := a % 64 == 0 && decide (a < 2 ^ 46) && decide (rangeNo a ≤ 1)

/-- The checks of a sampling record (R162, R163). -/
def samplingOk (b : Bytes) (handle : Nat) : Bool :=
  bit (leAt b 6 1) 0 && leAt b 0 4 == handle && decide (leAt b 6 1 < 4) && leAt b 7 1 == 0 && leAt b 39 1 == 0 && allZero (slice b 66 62)
  && (mag (recFloat b 16) == 0 || within32 0x3C23D70A 0x42C80000 (recFloat b 16)) && decide (leAt b 20 4 ≤ 262144)
  && within32 0x00000001 0x3F800000 (recFloat b 24) && within32 0x3F800000 0x41000000 (recFloat b 28) && decide (leAt b 32 2 ≤ 2048)
  && decide (leAt b 38 1 ≤ 8) && localT0T1 (leAt b 48 8)
  && (!bit (leAt b 6 1) 1 || (leAt b 56 8 != 0 && localT0T1 (leAt b 56 8)))

/-- SPECULATE of a record (R162). -/
def Work.speculates (w : Work) : Bool := bit (leAt w.record 6 1) 1

/-- Puts a working state. -/
def putWork (p : Pkg) (pp : Nat) (w : Work) : Pkg :=
  modSv p pp (fun q => { q with working := q.working.filter (fun v => v.handle != w.handle) ++ [w] })

/-- The working state of a request, copied from its record at the first touch of the step (R163). -/
def workOf (x : Ctx) (handle : Nat) : Run Work := do
  let p ← here
  match (part p x.pp).sv.working.find? (fun w => w.handle == handle) with
  | some w => return w
  | none =>
    let b ← fetch x false (rd p Ix.svRecordBase x.pp + handle % 65536 * 128) 128
    stopIf (!samplingOk b handle) 0x0501
    let w : Work := { handle, record := b, grammar := leAt b 36 2, chain := leAt b 38 1, chainState := leAt b 64 2, draftStart := leAt b 40 4 }
    change (fun p => putWork p x.pp w)
    return w

/-- An automaton table as a decision uses it (R173): its address, states, and the places of its parts. -/
structure Automaton where
  base : Nat := 0
  vocab : Nat := 0
  states : Nat := 0
  stateOff : Nat := 0
  classOff : Nat := 0
  classes : Nat := 0
  excOff : Nat := 0
  excs : Nat := 0
  deriving DecidableEq, Repr

/-- Bytes of a class bitmap (R173). -/
def Automaton.pitch (a : Automaton) : Nat := alignUp ((a.vocab + 7) / 8) 64

/-- Whether an automaton header is sound (R173, R174). -/
def automatonOk (h : Bytes) (vocab size : Nat) : Bool :=
  let pitch := alignUp ((vocab + 7) / 8) 64
  leAt h 0 2 == 1 && leAt h 4 4 == vocab && decide (1 ≤ leAt h 8 4) && decide (leAt h 8 4 ≤ 65536) && decide (1 ≤ leAt h 14 2)
  && leAt h 16 4 % 64 == 0 && leAt h 20 4 % 64 == 0 && leAt h 24 4 % 64 == 0 && leAt h 32 4 == size && decide (size ≤ 16777216)
  && decide (leAt h 16 4 + 16 * leAt h 8 4 ≤ size) && decide (leAt h 20 4 + leAt h 14 2 * pitch ≤ size)
  && decide (leAt h 24 4 + 8 * leAt h 28 4 ≤ size)

/-- What a pass masks a request's decisions with (R172, R173): nothing, one bitmap, or an automaton. -/
inductive Mask where
  | all
  | bitmap (b : Bytes)
  | automaton (a : Automaton)
  deriving DecidableEq, Repr

/-- The mask of a request (R172 to R174); `v` the vocabulary size. -/
def maskFor (x : Ctx) (v : Nat) (w : Work) : Run Mask := do
  let i := leAt w.record 34 2
  if x.d.mode = 0 ∨ i = 0xFFFF then return .all
  else
    stopIf (decide (x.d.b.lines ≤ i)) 0x0502
    if x.d.mode = 1 then return .bitmap (← fetch x x.d.b.fab (x.d.b.lineAddr 0 i) ((v + 7) / 8))
    else
      let e ← fetch x x.d.b.fab (x.d.b.lineAddr 0 i) 64
      let base := leAt e 0 8
      stopIf (!localT0T1 base || decide (leAt e 8 4 < 64)) 0x0502
      let h ← fetch x false base 64
      stopIf (!automatonOk h v (leAt e 8 4)) 0x0502
      return .automaton { base, vocab := v, states := leAt h 8 4, stateOff := leAt h 16 4, classOff := leAt h 20 4, classes := leAt h 14 2,
                          excOff := leAt h 24 4, excs := leAt h 28 4 }

/-- A state record of an automaton (R173), checked (R174). -/
def stateRecord (x : Ctx) (a : Automaton) (s : Nat) : Run Bytes := do
  stopIf (decide (a.states ≤ s)) 0x0503
  let r ← fetch x false (a.base + a.stateOff + 16 * s) 16
  stopIf (decide (a.classes ≤ leAt r 0 2) || decide (a.excs < leAt r 4 4 + leAt r 8 2)) 0x0502
  stopIf (decide (a.states ≤ leAt r 2 2)) 0x0503
  return r

/-- The tokens that a mask allows in a state (R172, R174): as a bitmap, none where every token is allowed. -/
def allowedBits (x : Ctx) (m : Mask) (s : Nat) : Run (Option Bytes) :=
  match m with
  | .all => return none
  | .bitmap b => return some b
  | .automaton a => do
    let r ← stateRecord x a s
    return some (← fetch x false (a.base + a.classOff + leAt r 0 2 * a.pitch) ((a.vocab + 7) / 8))

/-- Whether a token stands in a bitmap (R172). -/
def inBits (b : Array Byte) (t : Nat) : Bool := bit (b.getD (t / 8) 0).toNat (t % 8)

/-- The state after a token (R174). -/
def nextState (x : Ctx) (m : Mask) (s token : Nat) : Run Nat :=
  match m with
  | .automaton a => do
    let r ← stateRecord x a s
    let es := records 8 (← fetch x false (a.base + a.excOff + 8 * leAt r 4 4) (8 * leAt r 8 2))
    match es.find? (fun e => leAt e 0 4 == token) with
    | some e =>
      stopIf (decide (a.states ≤ leAt e 4 2)) 0x0503
      return leAt e 4 2
    | none => return leAt r 2 2
  | _ => return s

/-- The state after several tokens. -/
def walkStates (x : Ctx) (m : Mask) (s : Nat) (tokens : List Nat) : Run Nat := tokens.foldlM (nextState x m) s

/-- The penalised set of a decision (R164): distinct tokens among the last of the effective history. -/
def penalised (x : Ctx) (w : Work) (more : List Nat) : Run (List Nat) := do
  let win := leAt w.record 32 2
  let new := w.tokens ++ more
  let n := leAt w.record 44 4
  let k := min (min n 2048) (win - new.length)
  let old ← (List.range k).mapM (fun i => do return leNat (← fetch x false (leAt w.record 48 8 + 4 * ((n - k + i) % 2048)) 4))
  let all := old ++ new
  return (all.drop (all.length - win)).eraseDups

/-- NaN logits of a row (R167): counted, with event 0x0511 for the first of a step. -/
def countNaN (x : Ctx) (handle n : Nat) (p : Pkg) : Pkg :=
  if n = 0 then p
  else
    let p := bump p Ix.svNanLogits x.pp n
    if (part p x.pp).sv.nanStep = some x.step then p
    else raise (last (modSv p x.pp (fun q => { q with nanStep := some x.step })) Ix.svLastStatus x.pp 0x0511) 0x0511 x.pp handle 0

/-- The vector of one row of a request (R167): `more` the row's preceding candidates, `s` the grammar state before it. -/
def rowVector (x : Ctx) (w : Work) (m : Mask) (s : Nat) (more : List Nat) (row : Nat) : Run (Option (List Word)) := do
  let g ← slotGran x x.d.a
  let logits ← fetchWords x x.d.a g 0 row
  change (countNaN x w.handle (logits.filter isNaN).length)
  let y := logits.map (fun v => if isNaN v then inf32 true else v)
  let pen ← penalised x w more
  match ← allowedBits x m s with
  | none => return probabilities w.record pen (fun _ => true) y
  | some b =>
    let a := b.toArray
    return probabilities w.record pen (inBits a) y

/-- A token record (R179). -/
def tokenRecord (handle first accepted flags status grammar : Nat) (tokens : List Nat) : Bytes :=
  padTo (leBytes 4 handle ++ leBytes 4 first ++ leBytes 1 tokens.length ++ leBytes 1 accepted ++ leBytes 1 flags ++ leBytes 1 0
    ++ leBytes 2 status ++ leBytes 2 grammar ++ tokens.flatMap (leBytes 4)) 64

/-- A request ends with 0x0505 (R169). -/
def maskEmpty (pp : Nat) (p : Pkg) : Pkg := last (bump p Ix.svMaskEmpty pp 1) Ix.svLastStatus pp 0x0505

/-- A working state after emitted tokens of a target or verify pass (R164, R166, R177): the chain is empty and begins after them. -/
def Work.emit (w : Work) (tokens : List Nat) (state next : Nat) : Work :=
  { w with tokens := w.tokens ++ tokens, emitted := w.emitted ++ tokens, grammar := state, chain := 0, chainState := state,
           draftStart := next % 2 ^ 32 }

/-- Samples one token (R166): from row new_tokens − 1 for position start + new_tokens. -/
def sampleTarget (x : Ctx) (w : Work) (m : Mask) (r : Bytes) : Run Bytes := do
  let at' := leAt r 4 4 + leAt r 8 2
  let flags := if x.d.verify then 1 else 0
  let v ← rowVector x w m w.grammar [] (16 * leAt r 12 4 + leAt r 8 2 - 1)
  match v.bind (pickAt w.record at' 0) with
  | none =>
    change (maskEmpty x.pp)
    return tokenRecord w.handle at' 0 (flags + 8) 0x0505 w.grammar []
  | some t =>
    let s ← nextState x m w.grammar t
    change (fun p => bump (putWork p x.pp (w.emit [t] s (at' + 1))) Ix.svTokensSampled x.pp 1)
    return tokenRecord w.handle at' 0 flags 0 s [t]

/-- Proposes one token (R175, R176): the record, and what goes into the draft area. -/
def proposeDraft (x : Ctx) (w : Work) (m : Mask) (r : Bytes) : Run (Bytes × List (Nat × Bytes)) := do
  let at' := leAt r 4 4 + leAt r 8 2
  let p ← here
  stopIf (at' != w.draftStart + w.chain) 0x0504
  if rd p Ix.svMaxDraftDepth x.pp ≤ w.chain then
    change (fun p =>
      let p := bump p Ix.svDraftTruncated x.pp 1
      if (part p x.pp).sv.truncatedStep = some x.step then p
      else raise (last (modSv p x.pp (fun q => { q with truncatedStep := some x.step })) Ix.svLastStatus x.pp 0x0510) 0x0510 x.pp w.handle 0)
    return (tokenRecord w.handle at' 0 2 0 w.chainState [], [])
  else
    let v ← rowVector x w m w.chainState [] (16 * leAt r 12 4 + leAt r 8 2 - 1)
    match v.bind (pickAt w.record at' 2) with
    | none =>
      change (maskEmpty x.pp)
      return (tokenRecord w.handle at' 0 10 0x0505 w.chainState [], [])
    | some t =>
      let s ← nextState x m w.chainState t
      let q := v.getD []
      let base := leAt w.record 56 8
      change (fun p => putWork p x.pp { w with tokens := w.tokens ++ [t], chain := w.chain + 1, chainState := s })
      return (tokenRecord w.handle at' 0 2 0 s [t],
        [(base + 4 * w.chain, leBytes 4 t), (base + 32 + 4 * w.chain, leBytes 4 (q.getD t zero32).toNat),
         (base + 64 + 4 * q.length * w.chain, q.flatMap (fun e => leBytes 4 e.toNat))])

/-- How a row of candidates is decided (R177): those that stood, the token picked, the grammar state before it, and whether it is the
bonus token. -/
structure Verdict where
  stood : List Nat := []
  token : Option Nat := none
  state : Nat := 0
  bonus : Bool := false
  deriving DecidableEq, Repr

/-- Decides candidate after candidate (R177): `stood` those before, `rest` the candidates to come with their q(x). -/
def verifyFrom (x : Ctx) (w : Work) (m : Mask) (start base row : Nat) : (stood : List Nat) → (s : Nat) → (rest : List (Nat × Word)) → Run Verdict
  | stood, s, [] => do
    let v ← rowVector x w m s stood (row + stood.length)
    let t := v.bind (pickAt w.record (start + stood.length + 1) 0)
    if t.isSome then change (fun p => bump p Ix.svBonusTokens x.pp 1)
    return { stood, token := t, state := s, bonus := t.isSome }
  | stood, s, c :: rest => do
    let v ← rowVector x w m s stood (row + stood.length)
    match v with
    | none => return { stood, state := s }
    | some pr =>
      change (fun p => bump p Ix.svCandidatesVerified x.pp 1)
      if stands w.record (start + stood.length + 1) c.2 (pr.getD c.1 zero32) then
        verifyFrom x w m start base row (stood ++ [c.1]) (← nextState x m s c.1) rest
      else
        let q := (records 4 (← fetch x false (base + 64 + 4 * pr.length * stood.length) (4 * pr.length))).map (fun e => BitVec.ofNat 32 (leNat e))
        change (fun p => bump p Ix.svResidualSamples x.pp 1)
        return { stood, token := pickAt w.record (start + stood.length + 1) 0 (residual pr q), state := s }

/-- Verifies a row of candidates (R177). -/
def sampleVerify (x : Ctx) (w : Work) (m : Mask) (r : Bytes) : Run Bytes := do
  let c := leAt r 10 1
  let start := leAt r 4 4
  stopIf (decide (x.d.depth < c) || w.chain != c || w.draftStart != start + 1 || !w.speculates) 0x0504
  let base := leAt w.record 56 8
  let head ← fetch x false base 64
  let cands := (List.range c).map (fun j => (leAt head (4 * j) 4, BitVec.ofNat 32 (leAt head (32 + 4 * j) 4)))
  let d ← verifyFrom x w m start base (16 * leAt r 12 4) [] w.grammar cands
  let tokens := d.stood ++ d.token.toList
  let s ← match d.token with
    | some t => nextState x m d.state t
    | none => pure d.state
  change (fun p =>
    let p := bump (bump p Ix.svCandidatesAccepted x.pp d.stood.length) Ix.svTokensSampled x.pp tokens.length
    let p := putWork p x.pp { w.emit tokens s (start + tokens.length + 1) with accepted := some d.stood.length }
    if d.token.isSome then p else maskEmpty x.pp p)
  return tokenRecord w.handle (start + 1) d.stood.length (1 + (if d.bonus then 4 else 0) + (if d.token.isSome then 0 else 8))
    (if d.token.isSome then 0 else 0x0505) s tokens

/-- Blocks set in 0x3002, as a number. -/
def samplerBlocks (p : Pkg) (pp : Nat) : Nat := leNat (rdB p Ix.svSamplerBlocks pp)

/-- Rows of the table that a SAMPLE pass handles (R166): its share by rank among the listed blocks, without rows of NO_SAMPLE and masked
requests (R197). -/
def sampleRows (x : Ctx) (blocks : Nat) : List Bytes :=
  let listed := (List.range 96).filter (bit blocks)
  let rows := tableRows x.table
  let s := (kSplit listed.length rows.length).getD ((listed.filter (fun b => decide (b < x.b))).length) (0, 0)
  let real := realRows x
  ((rows.drop s.1).take s.2).filter (fun r => (List.range (leAt r 8 2)).all (fun i => real.contains (16 * leAt r 12 4 + i)))

/-- Whether a pass is a draft pass (R175). -/
def draftPass (p : Pkg) (x : Ctx) : Bool := rd p Ix.svDraftVersion x.pp == x.d.version

/-- SAMPLE (R166 to R179). -/
def runSample (x : Ctx) : Run Made := do
  let p ← here
  let d := x.d
  let v := d.a.elems
  stopIf (!d.a.lt || decide (262144 < v) || !d.d.lt || d.d.inner != 1) 0x0507
  let blocks := samplerBlocks p x.pp
  stopIf (!bit blocks x.b) 0x0506
  let draft := draftPass p x
  stopIf (draft && d.verify) 0x0504
  stopIf (d.mode == 1 && decide (d.b.inner < (v + 511) / 512)) 0x0502
  stopIf (d.mode == 2 && d.b.inner != 1) 0x0502
  let _ ← passRows x
  (sampleRows x blocks).foldlM (fun (m : Made) r => do
    let w ← workOf x (leAt r 0 4)
    stopIf (!draft && leAt w.record 4 2 != d.version) 0x05E2
    if draft && !w.speculates then return m
    else
      let k ← maskFor x v w
      let b ← if draft then proposeDraft x w k r
        else if d.verify && leAt r 10 1 != 0 then do pure (← sampleVerify x w k r, [])
        else do pure (← sampleTarget x w k r, [])
      let p ← here
      return { m with writes := m.writes ++ b.2 ++ [(emitAddr p d.d.fab (d.d.lineAddr 0 (16 * leAt r 12 4)), b.1)],
                      records := m.records ++ [b.1] }) {}

end Sys2Proof.Machine
end

