-- ==== Sys2Proof/Machine/Router.lean ====
section
/-! DEFINITION. Chapter 6: what ROUTE passes compute (R143 to R150, R155, R158), and REDUCE with MODE 1 over a source's share (R65,
R156). -/

namespace Sys2Proof.Machine

/-- The routed layer that a pass names, checked against its VERSION (R143, R160). -/
def routedLayer (x : Ctx) (layer : Nat) : Run RouterLayer := do
  let p ← here
  match routerLayerAt p x.pp layer with
  | none => stopWith 0x0402
  | some l =>
    stopIf (l.version != x.d.version) 0x04E2
    return l

/-- The placement table of a layer (R141, R142). -/
def placements (x : Ctx) (l : RouterLayer) : Run (List Placement) := do
  let b := records 16 (← fetch x false l.placement (16 * l.experts))
  stopIf (b.any (fun r => !placementOk l r)) 0x0403
  let rs := b.map placementOf
  stopIf (leadsClash rs) 0x0403
  return rs

/-- Sources of a layer: package and block (R141, R142). -/
def sourcesOf (x : Ctx) (l : RouterLayer) : Run (List (Nat × Nat)) := do
  let b := records 8 (← fetch x false l.sourceList (8 * l.sources))
  stopIf (b.any (fun r => !sourceOk r)) 0x0403
  return b.map (fun r => (leAt r 0 2, leAt r 2 1))

/-- The running block's source index (R143). -/
def sourceIndex (x : Ctx) (ss : List (Nat × Nat)) : Run Nat := do
  let p ← here
  match ss.idxOf? (ownId p, x.b) with
  | none => stopWith 0x0404
  | some s => return s

/-- First token tile and token tiles of source s (R143). -/
def tilesOf (l : RouterLayer) (tiles s : Nat) : Nat × Nat := (kSplit l.sources tiles).getD s (0, 0)

/-- Scores of a row (R144): −Inf for invalid experts. -/
def scoresOf (l : RouterLayer) (rs : List Placement) (logits : List Word) : List Word :=
  let masked := (logits.zip rs).map (fun e => if e.2.valid then e.1 else inf32 true)
  if l.sigmoid then (masked.zip rs).map (fun e => if e.2.valid then fsigmoid e.1 else inf32 true)
  else ((softmaxRow masked).1.zip rs).map (fun e => if e.2.valid then e.1 else inf32 true)

/-- Whether no token may be placed on a score (R144). -/
def unscorable (w : Word) : Bool := isNaN w || w == inf32 true

/-- Order of scores, a NaN below every number (R144, R145). -/
def scoreKey (w : Word) : Int := if isNaN w then -(2 ^ 40 : Int) else rankKey w

/-- Experts by descending score, equal ones by ascending index (R145). -/
def rankExperts (s : List Word) : List Nat :=
  let k := fun (e : Nat) => scoreKey (s.getD e zero32)
  sortBy (fun (a b : Nat) => decide (k b < k a) || (k a == k b && decide (a < b))) (List.range s.length)

/-- Whether two neighbours among the first ranks hold equal scores (R145). Experts whose scores are NaN rank by ascending index, below every
number, and make no tie among themselves (assumption 168: the model's choice, on which the spec is silent). -/
def hasTie (s : List Word) (ranks : List Nat) : Bool :=
  (ranks.zip (ranks.drop 1)).any (fun e =>
    let a := s.getD e.1 zero32
    let b := s.getD e.2 zero32
    !isNaN a && !isNaN b && rankKey a == rankKey b)

/-- What a source has counted in its pass (R148, R158): places taken, and the four counts of each expert; rows and ties. -/
structure Placing where
  fill : Tbl Nat := []
  routed : Tbl Nat := []
  overflowed : Tbl Nat := []
  redirected : Tbl Nat := []
  skipped : Tbl Nat := []
  ties : Nat := 0
  unscorable : Nat := 0
  deriving DecidableEq, Repr

/-- Adds one under a key. -/
def countOne (t : Tbl Nat) (e : Nat) : Tbl Nat := tput t e (tget t e 0 + 1)

/-- One choice of a row: the expert, the one that holds the token with its rank in the source's share, and the outcome (R150). -/
structure Choice where
  chosen : Nat := 0
  final : Option (Nat × Nat) := none
  outcome : Nat := 0
  deriving DecidableEq, Repr

/-- A row under way: its choices so far, the reserves not tried yet, and the counts. -/
structure RowPlacing where
  choices : List Choice := []
  reserves : List Nat := []
  counts : Placing := {}
  deriving DecidableEq, Repr

/-- Searches a reserve (R148): at most `n` more, from depth `d` on; the expert, its rank in the share and the depth, with the reserves left. -/
def searchReserve (share : Nat → Nat) (s : List Word) (fill : Tbl Nat) : (n d : Nat) → List Nat → Option (Nat × Nat × Nat) × List Nat
  | 0, _, rs => (none, rs)
  | _ + 1, _, [] => (none, [])
  | n + 1, d, r :: rest =>
    if unscorable (s.getD r zero32) then (none, r :: rest)
    else if tget fill r 0 < share r then (some (r, tget fill r 0, d), rest)
    else searchReserve share s fill n (d + 1) rest

/-- Places one choice (R148). -/
def placeChoice (share : Nat → Nat) (depth : Nat) (s : List Word) (w : RowPlacing) (e : Nat) : RowPlacing :=
  let c := w.counts
  if unscorable (s.getD e zero32) then
    { w with choices := w.choices ++ [{ chosen := e, outcome := 5 }], counts := { c with unscorable := c.unscorable + 1 } }
  else
    let c := { c with routed := countOne c.routed e }
    if tget c.fill e 0 < share e then
      { w with choices := w.choices ++ [{ chosen := e, final := some (e, tget c.fill e 0) }], counts := { c with fill := countOne c.fill e } }
    else
      let c := { c with overflowed := countOne c.overflowed e }
      match searchReserve share s c.fill depth 1 w.reserves with
      | (some (r, i, d), rest) =>
        { choices := w.choices ++ [{ chosen := e, final := some (r, i), outcome := d }], reserves := rest,
          counts := { c with fill := countOne c.fill r, redirected := countOne c.redirected r } }
      | (none, rest) =>
        { choices := w.choices ++ [{ chosen := e, outcome := 4 }], reserves := rest, counts := { c with skipped := countOne c.skipped e } }

/-- Gate of a score (R146): `sum` is Σ. -/
def gateOf (l : RouterLayer) (sum s : Word) : Word :=
  if l.normalised then (if mag sum = 0 then zero32 else fmul s (frecip sum)) else s

/-- Plane of an expert among a row's final experts (R156). -/
def planeOf (choices : List Choice) (e : Nat) : Nat := (choices.filter (fun c => (c.final.map (fun f => decide (f.1 < e))).getD false)).length

/-- A route record entry (R150). -/
def routeEntry (l : RouterLayer) (s : List Word) (sum : Word) (all : List Choice) (c : Choice) : Bytes :=
  match c.final with
  | some f =>
    let w := s.getD f.1 zero32
    leBytes 2 c.chosen ++ leBytes 2 f.1 ++ leBytes 1 c.outcome ++ leBytes 1 (planeOf all f.1) ++ leBytes 2 0 ++ leBytes 4 w.toNat
      ++ leBytes 4 (gateOf l sum w).toNat
  | none =>
    leBytes 2 c.chosen ++ leBytes 2 0xFFFF ++ leBytes 1 c.outcome ++ leBytes 1 0xFF ++ leBytes 2 0 ++ leBytes 4 (s.getD c.chosen zero32).toNat
      ++ leBytes 4 0

/-- An emit address on a package (R58): a local one, or above 2^56. -/
def emitOn (p : Pkg) (package a : Nat) : Nat := if package = ownId p then a else 2 ^ 56 + package * 2 ^ 46 + a

/-- Events of overflow and of rows skipped wholly (R160), once a step each. -/
def routeEvents (x : Ctx) (overflow skipped : Bool) (p : Pkg) : Pkg :=
  let p := if overflow && rd p Ix.erOverflowEventEnable x.pp == 1 && (part p x.pp).er.overflowStep != some x.step then
      raise (last (modEr p x.pp (fun q => { q with overflowStep := some x.step })) Ix.erLastStatus x.pp 0x0410) 0x0410 x.pp x.b 0
    else p
  if skipped && (part p x.pp).er.skippedStep != some x.step then
    raise (last (modEr p x.pp (fun q => { q with skippedStep := some x.step })) Ix.erLastStatus x.pp 0x0411) 0x0411 x.pp x.b 0
  else p

/-- Sum of a count over all experts. -/
def total (t : Tbl Nat) : Nat := (t.map (·.2)).sum

/-- The counters of a pass (R161). -/
def countRoutes (pp choices : Nat) (c : Placing) (p : Pkg) : Pkg :=
  let p := bump (bump p Ix.erChoicesRouted pp choices) Ix.erOverflowed pp (total c.overflowed)
  let p := bump (bump p Ix.erRedirected pp (total c.redirected)) Ix.erSkipped pp (total c.skipped)
  bump (bump p Ix.erTies pp c.ties) Ix.erUnscorable pp c.unscorable

/-- A section of the counter table (R158). -/
def counterSection (x : Ctx) (rows : Nat) (c : Placing) : Bytes :=
  padTo (leBytes 4 x.step ++ leBytes 2 x.d.version ++ leBytes 2 x.d.layer ++ leBytes 4 rows ++ leBytes 4 c.ties) 64
    ++ (List.range 512).flatMap (fun e => leBytes 4 (tget c.routed e 0) ++ leBytes 4 (tget c.overflowed e 0) ++ leBytes 4 (tget c.redirected e 0)
      ++ leBytes 4 (tget c.skipped e 0))

/-- Whether the slots of a dispatch agree with its record (R143). -/
def dispatchShape (x : Ctx) (l : RouterLayer) (count : Nat) : Bool :=
  let d := x.d
  d.a.lt && d.a.elems == l.hidden && d.a.fmt == l.rowFmt && d.b.lines == alignUp l.experts 128 && d.b.elems == alignUp l.hidden 256
  && d.d.lt && d.d.inner == 2 && d.c.fmt == 0 && d.chain.isEmpty && decide (16 * count ≤ l.planeStride / max 1 l.retPitch)

/-- One row of a dispatch (R145 to R151, R156): its record, its copies on their way, and the zero rows of its unused planes. -/
def dispatchRow (x : Ctx) (l : RouterLayer) (rs : List Placement) (src first : Nat) (logits : List (Nat × List Word))
    (acc : Made × Placing) (row : Nat) : Run (Made × Placing) := do
  let p ← here
  let m := acc.1
  let data ← fetch x x.d.a.fab (x.d.a.lineAddr 0 row) x.d.a.lineBytes
  let s := scoresOf l rs ((((logits.find? (fun e => e.1 == row)).map (·.2)).getD []).take l.experts)
  let ranks := rankExperts s
  let choices := ranks.take l.topK
  let share := fun (e : Nat) => shareOf ((rs.getD e {}).capacity) l.sources src
  let w := choices.foldl (placeChoice share l.depth s) { reserves := ranks.drop l.topK, counts := acc.2 }
  let sum := addUp (choices.map (fun e => s.getD e zero32))
  let counts := { w.counts with ties := w.counts.ties + if hasTie s (ranks.take (l.topK + l.depth)) then 1 else 0 }
  let sends := w.choices.filterMap (fun c => c.final.map (fun f =>
    let r := rs.getD f.1 {}
    (r.package, sramBase r.lead + r.offset + 64 + (shareBase r.capacity l.sources src + f.2) * l.rowPitch, RouteItem.row
      { step := x.step, layer := x.d.layer, expert := f.1, source := src, rank := f.2, ltRow := row, plane := planeOf w.choices f.1,
        gate := gateOf l sum (s.getD f.1 zero32), data })))
  let placed := (w.choices.filter (·.final.isSome)).length
  let zeros := ((List.range l.topK).drop placed).map (fun pl =>
    (l.retBase + src * l.srcStride + pl * l.planeStride + (row - 16 * first) * l.retPitch, List.replicate (elemBytes l.retFmt l.hidden) (0 : Byte)))
  change (routeEvents x (decide (total acc.2.overflowed < total w.counts.overflowed)) (placed == 0))
  return ({ m with
    writes := m.writes ++ [(emitAddr p x.d.d.fab (x.d.d.lineAddr 0 row), padTo (w.choices.flatMap (routeEntry l s sum w.choices)) 128)] ++ zeros,
    sends := m.sends ++ sends }, counts)

/-- ROUTE with PHASE 0 (R143 to R151, R158). -/
def runDispatch (x : Ctx) : Run Made := do
  let l ← routedLayer x x.d.layer
  let ss ← sourcesOf x l
  let src ← sourceIndex x ss
  let t := tilesOf l (ltTiles x.table) src
  stopIf (!dispatchShape x l t.2) 0x0406
  let rs ← placements x l
  let r ← passRows x
  let rows := r.1.filter (fun i => decide (16 * t.1 ≤ i) && decide (i < 16 * (t.1 + t.2)))
  let acts ← activations x 0 rows
  let logits ← product x x.d.b 0 false acts.1
  let m ← rows.foldlM (dispatchRow x l rs src t.1 logits) (({ rotate := acts.2 } : Made), ({} : Placing))
  let c := m.2
  let notices := (rs.zipIdx.filter (fun e => e.1.valid)).map (fun e =>
    (e.1.package, sramBase e.1.lead + e.1.offset, RouteItem.notice { step := x.step, layer := x.d.layer, expert := e.2, source := src, count := tget c.fill e.2 0 }))
  change (countRoutes x.pp (rows.length * l.topK) c)
  return { m.1 with
    sends := m.1.sends ++ notices,
    writes := m.1.writes ++ (if l.counters = 0 then [] else [(l.counters + src * 8256, counterSection x rows.length c)]),
    macs := computedGroups rows * 16 * x.d.b.lines * x.d.b.elems }

/-- The expert that a block leads (R142, R155). -/
def ledExpert (p : Pkg) (b : Nat) (rs : List Placement) : Option Nat :=
  (rs.zipIdx.find? (fun e => e.1.valid && e.1.package == ownId p && e.1.lead == b)).map (·.2)

/-- Whether the slots of a return agree with R155. -/
def returnShape (x : Ctx) (l : RouterLayer) : Bool :=
  let d := x.d
  d.a.cnt && d.a.elems == l.hidden && [9, 10, 11].contains d.a.fmt && d.b.fmt == 0 && d.d.fmt == 0 && d.c.fmt == 0 && d.chain.isEmpty

/-- One returned row (R155). -/
def returnRow (x : Ctx) (l : RouterLayer) (ss : List (Nat × Nat)) (tiles : Nat) (m : Made) (e : DispatchedRow × Nat) : Run Made := do
  let p ← here
  let w := (← fetchWords x x.d.a 1 0 e.2).map (fun v => fmul v e.1.gate)
  let q := quantLine l.retFmt 1 w
  let s := ss.getD e.1.source (0, 0)
  let a := l.retBase + e.1.source * l.srcStride + e.1.plane * l.planeStride
    + (e.1.ltRow - 16 * (tilesOf l tiles e.1.source).1) * l.retPitch
  return { m with writes := m.writes ++ [(emitOn p s.1 a, q.1)] }

/-- ROUTE with PHASE 1 (R155): every source's increment, also where nothing returns. -/
def runReturn (x : Ctx) : Run Made := do
  let p ← here
  let l ← routedLayer x x.d.layer
  let rs ← placements x l
  match ledExpert p x.b rs with
  | none => stopWith 0x0405
  | some e =>
    stopIf (!returnShape x l) 0x0406
    let ss ← sourcesOf x l
    let q := (findReceipt p x.pp x.d.layer e x.step).getD {}
    let r ← slotRows x x.d.a
    stopIf (!q.compacted || r.2 != q.tags.length) 0x0406
    let m ← q.tags.zipIdx.foldlM (returnRow x l ss (ltTiles (tableOf p x.pp x.engine))) {}
    return { m with increments := ss.map (fun s => (s.1, s.2, l.counter, 1)) }

/-- The expert's PHASE 1 pass of a step has completed (R153): what waited for it is accepted. -/
def returned (p : Pkg) (x : Ctx) : Pkg :=
  match ((List.range 512).filter (fun e => (findReceipt p x.pp x.d.layer e x.step).isSome)).find? (fun e =>
      match (routerLayerAt p x.pp x.d.layer).bind (fun l => homePlacement p l e) with
      | some r => r.lead == x.b && r.package == ownId p
      | none => false) with
  | none => p
  | some e => releaseRoutes (modReceipt p x.pp x.d.layer e x.step (fun q => { q with returned := true })) x.pp

/-- REDUCE with MODE 1 (R65, R156): over its LT rows, or over its source share counted in source rows. -/
def runReduce (x : Ctx) : Run Made := do
  if bit (x.d.par 1) 15 then
    let l ← routedLayer x (bits (x.d.par 1) 31 16)
    let src ← sourceIndex x (← sourcesOf x l)
    let t := tilesOf l (ltTiles x.table) src
    let n := 16 * t.2
    stopIf (decide (x.d.a.lines < n) || decide (x.d.d.lines < n) || decide (x.d.hasB && x.d.b.lines < n)) 0x0156
    let rows := ((realRows x).filter (fun i => decide (16 * t.1 ≤ i) && decide (i < 16 * (t.1 + t.2)))).map (· - 16 * t.1)
    reduceRows x rows n
  else
    let r ← passRows x
    reduceRows x r.1 r.2

end Sys2Proof.Machine
end

