-- ==== Sys2Proof/Machine/Collectives.lean ====
section
/-! DEFINITION. Chapter 13: collectives: all-reduce, all-gather and reduce-scatter over a group (R327 to R330). A member reduces its lines
along X, then Y, then Z, and gathers them along Z, then Y, then X, in runs of at most 128 elements. -/

namespace Sys2Proof.Machine

/-- A packet that a member owes to another: the flat rank it goes to, GATHER or PARTIAL, the dimension and the values. -/
structure CollSend where
  dest : Nat := 0
  gather : Bool := false
  dim : Nat := 0
  blk : CollBlock := {}
  deriving DecidableEq, Repr

/-- Flat rank of a member (R327). -/
def Coll.flat (c : Coll) (r : List Nat) : Nat :=
  r.getD 0 0 + c.extents.getD 0 1 * (r.getD 1 0 + c.extents.getD 1 1 * r.getD 2 0)

/-- Rank in dimension d of a flat rank. -/
def Coll.coord (c : Coll) (f d : Nat) : Nat :=
  let nx := max 1 (c.extents.getD 0 1)
  let ny := max 1 (c.extents.getD 1 1)
  if d = 0 then f % nx else if d = 1 then f / nx % ny else f / (nx * ny)

/-- Own rank and extent in a dimension. -/
def Coll.me (c : Coll) (d : Nat) : Nat := c.rank.getD d 0
def Coll.ext (c : Coll) (d : Nat) : Nat := c.extents.getD d 1

/-- The member that differs from this one in dimension d only. -/
def Coll.along (c : Coll) (d r : Nat) : Nat := c.flat (c.rank.set d r)

/-- First line and lines held before dimension d (R329). -/
def Coll.held (c : Coll) : (d : Nat) → Nat × Nat
  | 0 => (0, c.lines)
  | d + 1 =>
    let h := c.held d
    let k := (kSplit (c.ext d) h.2).getD (c.me d) (0, 0)
    (h.1 + k.1, k.2)

/-- Chunk of dimension d that a line lies in, and whether it lies in the chunk's first half (R329). -/
def Coll.chunkOf (c : Coll) (d line : Nat) : Nat × Bool :=
  let h := c.held d
  let ks := kSplit (c.ext d) h.2
  let i := (ks.findIdx? (fun k => decide (h.1 + k.1 ≤ line) && decide (line < h.1 + k.1 + k.2))).getD 0
  let k := ks.getD i (0, 0)
  (i, decide (line < h.1 + k.1 + ((kSplit 2 k.2).getD 0 (0, 0)).2))

/-- Order in which the ranks of a dimension add to a line (R329). -/
def Coll.order (c : Coll) (d line : Nat) : List Nat :=
  let n := c.ext d
  let k := c.chunkOf d line
  if !c.rings.getD d false then List.range n
  else if k.2 then (List.range n).map (fun i => (k.1 + 1 + i) % n)
  else (List.range n).map (fun i => (k.1 + 2 * n - 1 - i) % n)

/-- Dimensions of a group. -/
def collDims : Nat := 3

/-- A reduced value is gathered along Z, then Y, then X (R329): `k` dimensions remain. -/
def gatherOn (c : Coll) (b : CollBlock) : (k : Nat) → Coll × List CollSend
  | 0 => ({ c with gathered := c.gathered ++ [(0, b)] }, [])
  | k + 1 =>
    let r := gatherOn c b k
    let others := (List.range (c.ext k)).filter (· != c.me k)
    (r.1, others.map (fun o => { dest := c.along k o, gather := true, dim := k, blk := { b with dim := k } }) ++ r.2)

/-- A line reduced in every dimension (R328, R329). -/
def reducedBlock (c : Coll) (b : CollBlock) : Coll × List CollSend :=
  if c.mode = 4 then ({ c with gathered := c.gathered ++ [(0, b)] }, []) else gatherOn c b collDims

/-- Adds this member's value to a partial one (R329): the partial value comes first. -/
def joinWords (op : Nat) (acc own : List Word) : List Word := (acc.zip own).map (fun e => combine op e.1 e.2)

/-- A value enters the dimensions that remain (R329), `k` of them: alone in a dimension it passes through; first in the order it is sent
on; otherwise it waits for the partial value of the rank before it, which may have come early. -/
def enterReduce (c : Coll) (b : CollBlock) : (k : Nat) → Coll × List CollSend
  | 0 => reducedBlock c b
  | k + 1 =>
    let d := collDims - (k + 1)
    let o := c.order d b.line
    let pos := o.idxOf (c.me d)
    let owner := (c.chunkOf d b.line).1
    let after := fun (c : Coll) (b : CollBlock) =>
      if pos + 1 < o.length then (c, [({ dest := c.along d (o.getD (pos + 1) 0), dim := d, blk := { b with dim := d } } : CollSend)])
      else if owner = c.me d then enterReduce c b k
      else (c, [({ dest := c.along d owner, dim := d, blk := { b with dim := d } } : CollSend)])
    if o.length ≤ 1 then enterReduce c b k
    else if pos = 0 then after c b
    else match c.early.find? (fun e => e.1 == o.getD (pos - 1) 0 && e.2.dim == d && e.2.line == b.line && e.2.off == b.off) with
      | none => ({ c with reducing := c.reducing ++ [{ b with dim := d }] }, [])
      | some e => after { c with early := c.early.filter (· != e) } { b with words := joinWords c.op e.2.words b.words }

/-- A PARTIAL packet from a rank of dimension d (R329, R330): the whole result for its owner, or a value to add to. -/
def takePartial (c : Coll) (from' : Nat) (b : CollBlock) : Coll × List CollSend :=
  let d := b.dim
  let o := c.order d b.line
  let pos := o.idxOf (c.me d)
  let whole := from' == o.getLastD 0 && (c.chunkOf d b.line).1 == c.me d
  if whole then enterReduce c b (collDims - 1 - d)
  else match c.reducing.find? (fun e => e.dim == d && e.line == b.line && e.off == b.off) with
    | none => ({ c with early := c.early ++ [(from', b)] }, [])
    | some e =>
      let c := { c with reducing := c.reducing.filter (· != e) }
      let v := { e with words := joinWords c.op b.words e.words }
      if pos + 1 < o.length then (c, [{ dest := c.along d (o.getD (pos + 1) 0), dim := d, blk := v }])
      else if (c.chunkOf d b.line).1 = c.me d then enterReduce c v (collDims - 1 - d)
      else (c, [{ dest := c.along d (c.chunkOf d b.line).1, dim := d, blk := v }])

/-- A GATHER packet (R329, R330): in an all-gather the sender's plane, otherwise a reduced line to pass on in the dimensions below. -/
def takeGather (c : Coll) (sender : Nat) (b : CollBlock) : Coll × List CollSend :=
  if c.mode = 3 then ({ c with gathered := c.gathered ++ [(sender, b)] }, []) else gatherOn c b b.dim

/-- Runs of at most 128 elements of a line. -/
def lineBlocks (line : Nat) (w : List Word) : List CollBlock :=
  (groupsOf 128 w).zipIdx.map (fun e => { line, off := 128 * e.2, words := e.1 })

/-- A member's start (R328, R329): `rows` the words of every line of slot A. -/
def startBlocks (c : Coll) (rows : List (List Word)) : Coll × List CollSend :=
  let bs := rows.zipIdx.flatMap (fun e => lineBlocks e.2 e.1)
  if c.mode = 3 then
    let own := c.flat c.rank
    let n := c.ext 0 * c.ext 1 * c.ext 2
    ({ c with gathered := bs.map (fun b => (own, b)) },
     bs.flatMap (fun b => ((List.range n).filter (· != own)).map (fun r => { dest := r, gather := true, blk := b })))
  else bs.foldl (fun acc b =>
    let r := enterReduce acc.1 b collDims
    (r.1, acc.2 ++ r.2)) (c, [])

/-- Runs per line. -/
def Coll.perLine (c : Coll) : Nat := (c.elems + 127) / 128

/-- Whether a member has everything that slot D takes (R328). -/
def Coll.done (c : Coll) : Bool :=
  let n := match c.mode with
    | 3 => c.ext 0 * c.ext 1 * c.ext 2 * c.lines
    | 4 => (c.held collDims).2
    | _ => c.lines
  c.gathered.length == n * c.perLine

/-- Words of line l of plane pl. -/
def Coll.lineWords (c : Coll) (pl l : Nat) : List Word :=
  let bs := (c.gathered.filter (fun g => g.1 == pl && g.2.line == l)).map (·.2)
  (sortBy (fun (a b : CollBlock) => decide (a.off < b.off)) bs).flatMap (·.words)

/-- Package of a flat rank (R327). -/
def rankPackage (p : Pkg) (c : Coll) (f : Nat) : Nat :=
  groupMember p (groupRecord p c.pp c.group) (c.coord f 0) (c.coord f 1) (c.coord f 2)

/-- Sends a member's packets (R330): each value in the width of the exchange. -/
def sendBlocks (p : Pkg) (c : Coll) (ss : List CollSend) : Pkg :=
  ss.foldl (fun p s => sendColl p (rankPackage p c s.dest) (if s.gather then 0x81 else 0x80)
    { group := c.group, mode := c.mode, dimension := s.dim, occurrence := c.occurrence, sender := c.flat c.rank, line := s.blk.line,
      element := s.blk.off, step := c.step, version := c.version } (s.blk.words.flatMap (fun w => leBytes c.width w.toNat))) p

/-- Whether a running collective is the one that a header names (R330). -/
def Coll.named (c : Coll) (pp : Nat) (h : CollHeader) : Bool :=
  c.pp == pp && c.group == h.group && c.occurrence == h.occurrence && c.step == h.step

/-- Puts a running collective in place of its earlier value. -/
def putColl (p : Pkg) (old new : Coll) : Pkg := { p with tf := { p.tf with colls := p.tf.colls.map (fun c => if c = old then new else c) } }

/-- Removes a collective. -/
def dropColl (p : Pkg) (c : Coll) : Pkg := { p with tf := { p.tf with colls := p.tf.colls.filter (· != c) } }

/-- A collective stops its pass (R328, R330, R73). -/
def stopColl (p : Pkg) (c : Coll) (status : Nat) : Pkg := passFail (last (dropColl p c) Ix.tfLastStatus 0 status) c.block status

/-- Whether a packet's run lies in the member's own shape (R328). -/
def Coll.fits (c : Coll) (h : CollHeader) (n : Nat) : Bool :=
  decide (h.line < c.lines) && h.element % 128 == 0 && decide (h.element < c.elems) && n == c.width * min 128 (c.elems - h.element)
  && decide (h.mode == c.mode) && decide (h.dimension < 3) && decide (h.sender < c.ext 0 * c.ext 1 * c.ext 2)

/-- A packet of a collective that this member runs (R328 to R330). -/
def takeColl (p : Pkg) (c : Coll) (type : Nat) (h : CollHeader) (data : Bytes) : Pkg :=
  if type = 0x82 then stopColl p c 0x0DE2
  else if h.version ≠ c.version then stopColl (abortColl p c) c 0x0DE2
  else if !c.fits h data.length then stopColl p c 0x0D09
  else
    let b : CollBlock := { line := h.line, off := h.element, dim := h.dimension,
                           words := (records c.width data).map (fun w => BitVec.ofNat 32 (leNat w)) }
    let r := if type = 0x81 then takeGather c h.sender b else takePartial c (c.coord h.sender h.dimension) b
    sendBlocks (putColl p c r.1) r.1 r.2

/-- A collective packet arrives (R330, R332): dropped while its partition resets, refused two steps ahead, discarded from before the last clear or from an occurrence that is over,
held until this member starts its occurrence. -/
def collArrives (p : Pkg) (pp type : Nat) (h : CollHeader) (data : Bytes) (via : Option (Nat × Nat × Nat) := none) : Pkg :=
  let block := leAt (groupRecord p pp h.group) 1 1
  let cur := stepOf p pp
  if pcState p pp = 6 then p
  else if h.step ≠ (cur + 1) % 2 ^ 32 ∧ stepAhead h.step cur then last p Ix.tfLastStatus 0 0x0D0B
  else match p.tf.colls.find? (fun c => c.named pp h) with
    | some c => takeColl p c type h data
    | none =>
      if stepAhead cur h.step || (h.step == cur && decide (h.occurrence < tget p.tf.occurrences (block * 256 + h.group) 0)
          || h.step == cur && (part p pp).ru.poison.isSome) then p
      else { p with tf := { p.tf with heldColl := p.tf.heldColl ++ [{ pp, type, header := h, data, via }] } }

/-- A member starts a collective (R328, R330): the packets held for it are taken in their order. -/
def startColl (c : Coll) (rows : List (List Word)) (p : Pkg) : Pkg :=
  let key := c.block * 256 + c.group
  let r := startBlocks c rows
  let mine := p.tf.heldColl.filter (fun e => r.1.named e.pp e.header)
  let p := { p with tf := { p.tf with
    colls := p.tf.colls ++ [r.1], heldColl := p.tf.heldColl.filter (fun e => !r.1.named e.pp e.header),
    occurrences := tput p.tf.occurrences key (tget p.tf.occurrences key 0 + 1) } }
  mine.foldl (fun p e => collArrives p e.pp e.type e.header e.data e.via) (sendBlocks p r.1 r.2)

/-- The collective that a pass runs. -/
def collOfPass (p : Pkg) (b : Nat) : Option Coll := p.tf.colls.find? (fun c => c.block == b)

/-- Rank of this package in a group (R327). -/
def ownRank (p : Pkg) (g : Bytes) : Option (List Nat) :=
  ((groupMembers p g).idxOf? (ownId p)).map (fun f =>
    [f % max 1 (leAt g 4 1), f / max 1 (leAt g 4 1) % max 1 (leAt g 5 1), f / (max 1 (leAt g 4 1) * max 1 (leAt g 5 1))])

/-- Whether the slots of a collective agree (R328): `n` members, `own` the lines of this member's chunk. -/
def collShape (d : Desc) (fixed : Bool) (lines n own : Nat) : Bool :=
  d.a.planes == 1 && d.a.elems == d.d.elems
  && (match d.mode with
      | 3 => d.d.planes == n && d.d.lines == d.a.lines && d.d.fmt == d.a.fmt
      | 4 => d.d.planes == 1 && (if fixed then d.d.lines == own else decide (own ≤ d.d.lines))
      | _ => d.d.planes == 1 && (if fixed then d.d.lines == d.a.lines else decide (lines ≤ d.d.lines)))

/-- Words of every line of slot A (R328): codes as they stand for an all-gather, values otherwise; a row absent under R31 counts as
zeros. -/
def collRows (x : Ctx) (rows : List Nat) (count : Nat) : Run (List (List Word)) :=
  (List.range count).mapM (fun l =>
    if rows.contains l then
      if x.d.mode = 3 then do
        let w := if x.d.a.fmt = 9 then 2 else 4
        return (records w (← fetch x x.d.a.fab (x.d.a.lineAddr 0 l) x.d.a.lineBytes)).map (fun e => BitVec.ofNat 32 (leNat e))
      else fetchWords x x.d.a 1 0 l
    else return List.replicate x.d.a.elems zero32)

/-- REDUCE with MODE 2, 3 or 4 enters Fetch (R328 to R330). -/
def beginColl (x : Ctx) : Run Unit := do
  let p ← here
  let d := x.d
  let g := bits (d.par 0) 15 0
  let rec' := groupRecord p x.pp g
  match ownRank p rec' with
  | none => stopWith 0x0D09
  | some r =>
    stopIf (leAt rec' 0 1 == 0 || leAt rec' 1 1 != x.b) 0x0D09
    let rows ← slotRows x d.a
    let ext := [leAt rec' 4 1, leAt rec' 5 1, leAt rec' 6 1]
    let c : Coll :=
      { pp := x.pp, block := x.b, group := g, mode := d.mode, op := bits (d.par 0) 27 24,
        occurrence := tget p.tf.occurrences (x.b * 256 + g) 0, step := x.step, version := d.version, rank := r, extents := ext,
        rings := (List.range 3).map (fun i => ext.getD i 1 == ringSize p i && decide (3 ≤ ext.getD i 1)), lines := rows.2, rows := rows.1, elems := d.a.elems,
        width := if d.mode = 3 ∧ d.a.fmt = 9 then 2 else 4 }
    stopIf (!collShape d (!d.a.lt && !d.a.cnt) rows.2 (groupMembers p rec').length (c.held collDims).2) 0x0D09
    let w ← collRows x rows.1 rows.2
    change (startColl c w)

/-- What a finished collective writes into slot D, in the rows that were real as it entered Fetch (R31, R328, R329). -/
def runColl (x : Ctx) (c : Coll) : Run Made := do
  let p ← here
  let d := x.d
  let rows := (c.rows, c.lines)
  match d.mode with
  | 3 =>
    let n := c.ext 0 * c.ext 1 * c.ext 2
    return emitCount p d rows.2 { writes := (List.range n).flatMap (fun pl => rows.1.map (fun l =>
      (emitAddr p d.d.fab (d.d.lineAddr pl l), (c.lineWords pl l).flatMap (fun w => leBytes c.width w.toNat)))) }
  | 4 =>
    let h := c.held collDims
    return emitLines p d 0 ((rows.1.filter (fun l => decide (h.1 ≤ l) && decide (l < h.1 + h.2))).map (fun l => (l - h.1, c.lineWords 0 l)))
      (emitHeader p d.d d.qgran {})
  | _ => return emitCount p d rows.2 (emitLines p d 0 (rows.1.map (fun l => (l, c.lineWords 0 l))) (emitHeader p d.d d.qgran {}))

end Sys2Proof.Machine
end

