-- ==== Sys2Proof/Machine/PassStart.lean ====
section
/-! DEFINITION. Chapters 2, 3, 4 and 18: a descriptor is read, changed by overrides and validated (R53, R72, R73, R76, R105); a pass whose
waits are met enters Fetch and is evaluated (R30, R31, R67), with the tiles that it puts up for audit (R433 to R436). -/

namespace Sys2Proof.Machine

/-- Whether a block's program advances (R30, R77, R78): its partition's step runs and is not rolled back, the block has not stopped, and a
preemption has not saved it. -/
def programRuns (p : Pkg) (pp b : Nat) : Bool :=
  let k := blk p b
  (part p pp).pc.stepRunning && (part p pp).ru.poison.isNone && (pcState p pp == 2 || pcState p pp == 4) && k.step == some (stepOf p pp)
  && k.act != 3 && !regionHidden p (b / 8) && !p.tp.fenced.contains (b / 8) && !k.stepDone && !k.reported && k.rejected.isNone

/-- The override record of a descriptor, if the set in force has one (R105). -/
def overrideOf (p : Pkg) (pp b index version : Nat) : Option Bytes :=
  let o := rdB p Ix.qrRecipeOverrides pp
  (records 32 (o.drop 32)).find? (fun r => leAt r 0 1 == b && leAt r 4 4 == index && leAt r 14 2 == version)

/-- Replaces bits [hi:lo] of word n of a descriptor. -/
def setBits (d : Bytes) (n hi lo v : Nat) : Bytes :=
  let w := word d n
  overlay d (4 * n) (leBytes 4 (w - bits w hi lo * 2 ^ lo + v % 2 ^ (hi - lo + 1) * 2 ^ lo))

/-- A descriptor with an override record applied (R103 to R105). An out_fmt of another pair than the descriptor's own slot D format is applied
all the same, and left to the checks of R72 (assumption 172: the model's choice). -/
def withOverride (d r : Bytes) : Bytes :=
  let f := leAt r 1 1
  let d := if bit f 0 then setBits d 0 18 16 (leAt r 2 1) else d
  let d := if bit f 2 then setBits d 28 31 0 (leAt r 8 4) else d
  let d := if bit f 3 then setBits d 31 31 30 (leAt r 12 1) else d
  let d := if bit f 4 then setBits d 23 7 4 (leAt r 13 1) else d
  if bit f 5 then
    setBits (setBits (setBits (setBits d 10 31 0 (leAt r 16 4)) 11 31 8 (leAt r 20 4)) 11 0 0 0) 15 23 0 (leAt r 24 4)
  else d

/-- Granularity code that an override gives the Rotate stage; 0 for the format default (R103, R105). -/
def overrideGran (o : Option Bytes) : Nat :=
  match o with
  | some r => if bit (leAt r 1 1) 1 then leAt r 3 1 else 0
  | none => 0

/-- Local part of a slot address, and whether it lies in another package (R58). -/
def slotRange (p : Pkg) (fab : Bool) (a n : Nat) : Bool :=
  if fab then inTorus p (a / 2 ^ 46 % 1024) && inOneRange (a % 2 ^ 46) n else decide (a < 2 ^ 46) && inOneRange a n

/-- Whether an extent touches the control window or an operand buffer (R72, 0x014A). -/
def forbiddenRange (a n : Nat) : Bool :=
  let l := a % 2 ^ 46
  match place l, place (l + (n - 1)) with
  | .control _, _ => true
  | _, .control _ => true
  | .sram k o, .sram m q => (bufferCell o).isSome || (bufferCell q).isSome || k != m
  | _, _ => false

/-- Whether an extent lies in the block's own block SRAM; a fabric address of this package is local (R58). -/
def inOwnSram (p : Pkg) (b : Nat) (fab : Bool) (a n : Nat) : Bool :=
  !isRemote p fab a && match place (a % 2 ^ 46) with
  | .sram k o => k == b && decide (o + n ≤ 0x00C00000)
  | _ => false

/-- Ranges of a live-range record (R75). -/
def liveRanges (r : Bytes) : List LiveRange :=
  ((records 16 (r.drop 16)).take (leAt r 0 2)).map (fun e => { src := leAt e 0 4, length := leAt e 4 4, save := leAt e 8 4 })

/-- Whether two ranges of a record overlap in the save area. -/
def rangesOverlap (a b : LiveRange) : Bool := decide (a.save < b.save + b.length) && decide (b.save < a.save + a.length)

/-- Whether a live-range record passes R76; `marks` the marks before it. -/
def liveOk (k : Blk) (marks : Nat) (r : Bytes) : Bool :=
  let rs := liveRanges r
  k.saveBase != 0 && decide (leAt r 0 2 ≤ 62) && leAt r 2 2 == marks + 1
  && rs.all (fun x => decide (x.src + x.length ≤ 0x00C00000) && decide (512 + x.save + x.length ≤ k.saveSize))
  && !(rs.zipIdx.any (fun x => (rs.zipIdx).any (fun y => decide (x.2 < y.2) && rangesOverlap x.1 y.1)))

/-- The record that a marked descriptor names (R75); none where it cannot be read. -/
def liveRecord (p : Pkg) (k : Blk) (d : Desc) : Option Bytes :=
  match (loadLocal p (k.base + d.lrPtr * 64) 16 false).2 with
  | .error _ => none
  | .ok h => match (loadLocal p (k.base + d.lrPtr * 64) (16 + 16 * min 62 (leAt h 0 2)) false).2 with
    | .ok b => some b
    | .error _ => none

/-- Marks that a block has completed or has in flight. -/
def marksAhead (k : Blk) : Nat := k.marks + (k.passes.filter (fun q => (descOf q.words).mark)).length

/-- What validation needs of a block's surroundings (R72). -/
def descEnv (p : Pkg) (pp b : Nat) (live : Option Bytes) : DescEnv :=
  let k := blk p b
  { inPartition := fun s => (blocksOf p pp).contains s, rangeOk := slotRange p, forbidden := fun _ a n => forbiddenRange a n,
    ownSram := inOwnSram p b, version := k.version, deepDraft := granted p 3,
    liveRangeBad := match live with
      | some r => !liveOk k (marksAhead k) r
      | none => true }

/-- A descriptor fails with a code (R73): at once, or when the passes before it have completed. -/
def rejectNext (p : Pkg) (b code : Nat) : Pkg :=
  if (blk p b).passes.isEmpty then passFail (showPointer p b) b code
  else modBlk p b (fun k => { k with rejected := some code })

/-- A descriptor as read (R72, R105): accepted into the block, or rejected. -/
def takeDescriptor (p : Pkg) (pp b : Nat) (raw : Bytes) : Pkg :=
  let k := blk p b
  let words := match overrideOf p pp b k.index (descOf raw).version with
    | some r => withOverride raw r
    | none => raw
  let d := descOf words
  let live := if d.mark then liveRecord p k d else none
  match validate d (descEnv p pp b live) with
  | some code => rejectNext p b code
  | none =>
    let q : Pass := { index := k.index, words, ranges := (live.map liveRanges).getD [], markNumber := marksAhead k + 1 }
    let p := modBlk p b (fun k => { k with passes := k.passes ++ [q], index := k.index + 1, lastFetched := d.last })
    if k.passes.isEmpty then wr p Ix.blockPassPointer b (k.base + 128 * k.index) else p

/-- Whether the waits of a pass are met (R67). -/
def waitsMet (k : Blk) (d : Desc) : Bool :=
  (!d.waEn || waitMet (tget k.counters d.waIdx 0) d.waStride d.waOffset k.p)
  && (!d.wbEn || waitMet (tget k.counters d.wbIdx 0) d.wbStride d.wbOffset k.p)

/-- Shows a block as waiting while its first pass has not entered Fetch for an unmet wait (0x2010). -/
def showWaiting (p : Pkg) (b : Nat) : Pkg :=
  match (blk p b).passes with
  | q :: _ => if !q.running && !waitsMet (blk p b) (descOf q.words) then setAct p b 2 else p
  | [] => p

/-- Whether a block may read one more descriptor (R53): up to four ahead of the pass in Fetch, or of the one that will enter it next. -/
def mayReadAhead (k : Blk) : Bool :=
  decide ((k.passes.filter (fun q => !q.running)).length < if k.passes.any (·.running) then 4 else 5)

/-- DESCRIPTOR_READ_COMPLETE (R53, R54). -/
def descriptorRead (p : Pkg) (pp b : Nat) (readOk : Bool) : Pkg :=
  let k := blk p b
  if !programRuns p pp b || k.lastFetched || !mayReadAhead k then p
  else if k.count ≤ k.index then rejectNext p b 0x0151
  else if !readOk then rejectNext p b 0x0155
  else match loadLocal p (k.base + 128 * k.index) 128 false with
    | (p, .error _) => rejectNext p b 0x0155
    | (p, .ok raw) => showWaiting (takeDescriptor p pp b raw) b

/-- An extent under the package that it lies in and its address there (R58). -/
def homeExtent (p : Pkg) (e : Bool × Nat × Nat) : Nat × Nat × Nat :=
  (if e.1 then e.2.1 / 2 ^ 46 % 1024 else ownId p, e.2.1 % 2 ^ 46, e.2.2)

/-- Whether two lists of extents meet. -/
def extentsMeet (p : Pkg) (a b : List (Bool × Nat × Nat)) : Bool :=
  (a.map (homeExtent p)).any (fun x => (b.map (homeExtent p)).any (fun y =>
    x.1 == y.1 && decide (x.2.1 < y.2.1 + y.2.2) && decide (y.2.1 < x.2.1 + x.2.2)))

/-- Emit target ranges of a pass (R30). -/
def Desc.targets (d : Desc) : List (Bool × Nat × Nat) := if d.noD || 7 < d.cls then [] else (d.d.extents false).map (fun e => (d.d.fab, e.1, e.2))

/-- Whether a pass must wait for the Emit of the pass before it (R30). DESIGN CHOICE (assumption 156): the model also lets a SAMPLE and a
collective wait for a marked pass before them, so that a preemption at the mark finds nothing of theirs begun. -/
def mustFollow (p : Pkg) (first second : Desc) : Bool :=
  extentsMeet p second.allExtents first.targets || second.waEn || second.wbEn || [6, 8, 9].contains first.cls
  || (first.appends && (second.cls == 3 || second.cls == 4))
  || (first.mark && (second.cls == 6 || second.cls == 2 && second.mode != 1))

/-- Whether a pass reads its engine's length table (R115). -/
def usesTable (d : Desc) : Bool :=
  decide (d.cls ≤ 7) && (d.slots.any (·.lt) || d.cls == 3 || d.cls == 4 || d.cls == 6 || d.appends || (d.cls == 5 && d.phase == 0)
    || (d.cls == 2 && bit (d.par 1) 15))

/-- What a pass computes, by class (R20, R64). -/
def compute (x : Ctx) : Run Made :=
  match x.d.cls with
  | 0 => runMatmul x
  | 1 => runVector x
  | 2 => if x.d.mode = 1 then runReduce x else do beginColl x; return {}
  | 3 => runScore x
  | 4 => runApply x
  | 5 => if x.d.phase = 0 then runDispatch x else runReturn x
  | 6 => runSample x
  | 7 => if x.d.mode = 3 then runAppend x else runCopy x
  | _ => return {}

/-- A pass with its length table read (R115). -/
def runPass (x : Ctx) : Run Made := do
  if usesTable x.d then
    let p ← here
    let t ← readTable x (x.d.cls == 6 && draftPass p x)
    compute { x with table := t }
  else compute x

/-- Engine of a block: 0 generation, 1 prefill (R204). -/
def engineOf (p : Pkg) (pp b : Nat) : Nat := roleOf p pp b - 1

/-- A pass as its evaluation sees it. -/
def passCtx (p : Pkg) (pp b : Nat) (q : Pass) : Ctx :=
  let d := descOf q.words
  let e := engineOf p pp b
  { b, pp, step := stepOf p pp, engine := e, index := q.index, d, actGran := overrideGran (overrideOf p pp b q.index d.version),
    mask := maskOf p pp e }

/-- Columns of the tiles of one line, and each tile's bytes in it (R436). -/
def tileCut (fmt ct : Nat) (line : Bytes) : Bytes := slice line (ct * elemBytes fmt 128) (elemBytes fmt 128)

/-- One audited tile of a pass: its number, its row tile over all planes, and its fingerprint (R25, R433, R436). -/
structure Audited where
  tile : Nat := 0
  rowTile : Nat := 0
  rows : Nat := 0
  print : Bytes := []
  deriving DecidableEq, Repr

/-- Tiles of a pass with a computed row group, their numbers selected by `pick` (R433). -/
def auditedTiles (d : Desc) (m : Made) (pick : Nat → Bool) : List Audited :=
  let ctn := ((m.lines.head?.map (fun l => l.2.2.1.length)).getD 0) / max 1 (elemBytes d.d.fmt 128)
  let per := (m.count + 127) / 128
  let rts := (m.lines.map (fun l => l.1 * per + l.2.1 / 128)).eraseDups
  rts.flatMap (fun rt =>
    let mine := m.lines.filter (fun l => l.1 * per + l.2.1 / 128 == rt)
    ((List.range ctn).filter (fun ct => pick (rt * ctn + ct))).map (fun ct =>
      { tile := rt * ctn + ct, rowTile := rt, rows := ((mine.map (fun l => l.2.1 / 16)).eraseDups).length * 16,
        print := sha256 (mine.flatMap (fun l => tileCut d.d.fmt ct l.2.2.1) ++ mine.flatMap (fun l => l.2.2.2)) }))

/-- Bytes of a capture (R435): descriptor, tile number, map of real rows, and the rows of slots A and C. -/
def captureSize (d : Desc) (rows : Nat) : Nat :=
  let row := fun (s : Slot) => s.lineBytes + lineScaleBytes s.fmt s.inner
  148 + rows * (row d.a + if d.hasC then row d.c else 0)

/-- Puts selected tiles up for audit (R433 to R435, R437): one capture for the tiles of a row tile; without room they are unaudited. -/
def takeCaptures (pp : Nat) (d : Desc) : List Audited → (seen : List Nat) → Pkg × Pass → Pkg × Pass
  | [], _, acc => acc
  | a :: rest, seen, (p, q) =>
    if seen.contains a.rowTile then takeCaptures pp d rest seen (p, { q with audited := q.audited ++ [(a.tile, a.print, 0)] })
    else
      let n := captureSize d a.rows
      if rd p Ix.ruCaptureBytes pp < (part p pp).ru.captureUsed + n then
        takeCaptures pp d rest seen (p, { q with unaudited := q.unaudited + 1 })
      else
        let p := modRu p pp (fun r => { r with captureUsed := r.captureUsed + n })
        let base := rd p Ix.ruCaptureBase pp
        let all := rd p Ix.ruCaptureBytes pp
        let p := if p.mem.stale.any (fun s => s.1 == base && s.2.1 == all) then p else { p with mem := memUndefine p.mem base all }
        takeCaptures pp d rest (a.rowTile :: seen) (p, { q with audited := q.audited ++ [(a.tile, a.print, n)] })

/-- The audit of a pass (R432, R433): the selected tiles go up for audit; below three usable regions they all count as
unaudited. -/
def auditPass (p : Pkg) (pp b : Nat) (d : Desc) (m : Made) (q : Pass) : Pkg × Pass :=
  let t := auditThreshold (auditCode p pp)
  if !d.audit || t == 0 then (p, q)
  else
    let seed := rd p Ix.ruAuditSeed pp
    let d1 := draw seed (stepOf p pp * 2 ^ 27 + b * 2 ^ 20 + q.index)
    let tiles := auditedTiles d m (fun tile => decide (draw ((seed + d1) % 2 ^ 64) tile / 2 ^ 24 < t))
    if (usableRegions p pp).length < 3 then (p, { q with unaudited := q.unaudited + tiles.length })
    else takeCaptures pp d tiles [] (p, q)

/-- Entry of the last status of the chapter that a pass status belongs to. -/
def noteStatus (p : Pkg) (pp status : Nat) : Pkg :=
  match status / 256 with
  | 3 => last p Ix.akLastStatus pp status
  | 4 => last p Ix.erLastStatus pp status
  | 5 => last p Ix.svLastStatus pp status
  | 0xD => last p Ix.tfLastStatus 0 status
  | _ => p

/-- Whether a pass with a status stops under R46, without halting its partition. -/
def operandStop (status : Nat) : Bool := status == 0x01E4 || status == 0x0103 || status == 0x010B

/-- A pass stops at or after Fetch (R46, R73): under R73 once the pass before it has completed. -/
def stopRunning (p : Pkg) (pp b : Nat) (q : Pass) (status addr : Nat) : Pkg :=
  let p := noteStatus p pp status
  let p := modBlk p b (fun k => { k with index := q.index, lastFetched := false, passes := k.passes.takeWhile (fun r => r.index != q.index) })
  if operandStop status then stopPass (showPointer p b) b status addr else rejectNext p b status

/-- Changes a pass in flight. -/
def modPass (p : Pkg) (b index : Nat) (f : Pass → Pass) : Pkg :=
  modBlk p b (fun k => { k with passes := k.passes.map (fun q => if q.index = index then f q else q) })

/-- Whether a pass fills operand buffers through Unpack and Rotate (R21): the classes that use the Matrix stage. -/
def Desc.fills (d : Desc) : Bool := d.cls == 0 || d.cls == 3 || d.cls == 4 || (d.cls == 5 && d.phase == 0)

/-- The fills of a pass into the operand buffers of its host (R21, R32): the spec gives their layout nowhere, so what the buffers then
hold is undefined (assumption 6). -/
def fillBuffers (p : Pkg) (b : Nat) (d : Desc) : Pkg :=
  match hostOf p b with
  | some h => if d.fills then { p with mem := memUndefine p.mem (sramBase h + 0x00C00000) 0x00400000 } else p
  | none => p

/-- A pass enters Fetch (R21, R30, R31, R50, R67, R277): it is evaluated whole with the rows masked now. -/
def enterFetch (p : Pkg) (pp b : Nat) (q : Pass) : Pkg :=
  let p := fillBuffers (setAct (applyHides p ((hostOf p b).getD b)) b 1) b (descOf q.words)
  let x := passCtx p pp b q
  match (runPass x).run.run p with
  | (.error e, p) => stopRunning p pp b q e.1 e.2
  | (.ok m, p) =>
    let p := noteUse (bump p Ix.blockMacIssued b m.macs) x.d.version x.step
    let q := { q with running := true, startNs := p.now, writes := m.writes, rotate := m.rotate, quantise := m.quantise, sends := m.sends,
                      increments := m.increments, records := m.records, appended := m.appended, scores := m.scores }
    let r := auditPass p pp b x.d m q
    modPass r.1 b q.index (fun _ => r.2)

/-- Whether the passes of a block may advance: its partition runs a step that is not rolled back, and the block has not stopped. -/
def passesRun (p : Pkg) (pp b : Nat) : Bool :=
  (pcState p pp == 2 || pcState p pp == 4) && (part p pp).ru.poison.isNone && (blk p b).act != 3 && !p.tp.fenced.contains (b / 8)

/-- Whether a program has a pass that could enter Fetch now, none of its own being in flight (R41). -/
def passReady (p : Pkg) (pp b : Nat) : Bool :=
  passesRun p pp b && match (blk p b).passes with
    | q :: _ => !q.running && waitsMet (blk p b) (descOf q.words)
    | [] => false

/-- Whether the host of a logical block gives it its turn (R41, R49): it runs one program at a time and switches after each complete pass
where the other has a pass that may run; with both ready at first, the lower logical block goes first. -/
def hostTurn (p : Pkg) (pp b : Nat) : Bool :=
  match otherOf p b, hostOf p b with
  | some o, some h =>
    !(blk p o).passes.any (·.running)
    && (!passReady p pp o || (!(blk p b).passes.any (·.running)
          && (match tfind p.tp.lastRan h with
              | some l => l == o
              | none => decide (b < o))))
  | _, _ => true

/-- The first pass that has not entered Fetch, with the passes before it. -/
def nextPass (k : Blk) : Option (List Pass × Pass) :=
  match k.passes.dropWhile (·.running) with
  | [] => none
  | r :: _ => some (k.passes.takeWhile (·.running), r)

/-- PASS_WAITS_MET (R30, R41, R67, R78): the first pass that has not entered Fetch does so where its waits are met, where R30 lets it behind
the one pass in flight, where its host runs its program, and not behind the mark at which a preemption stops the block. -/
def waitsMetOf (p : Pkg) (pp b : Nat) : Pkg :=
  let k := blk p b
  match nextPass k with
  | none => p
  | some (before, r) =>
    if !passesRun p pp b || !hostTurn p pp b then p
    else match before with
      | [] => if waitsMet k (descOf r.words) then enterFetch p pp b r else p
      | [q] =>
        if mustFollow p (descOf q.words) (descOf r.words) || ((descOf q.words).mark && (k.stopAt.map (fun n => decide (n ≤ q.markNumber))).getD false) then p
        else enterFetch p pp b r
      | _ => p

/-- DESCRIPTOR_READ_COMPLETE (R53, R54, R72, R73, R76, R105). -/
def execDescriptorReadComplete (block : Fin 96) (readOk : Bool) : State → Host.Outcome State Fault Refusal :=
  onPkgF (fun p => match partOfBlock p block with
    | some pp => descriptorRead p pp block readOk
    | none => p)

/-- PASS_WAITS_MET (R30, R31, R67). -/
def execPassWaitsMet (block : Fin 96) : State → Host.Outcome State Fault Refusal :=
  onPkgF (fun p => match partOfBlock p block with
    | some pp => waitsMetOf p pp block
    | none => p)

end Sys2Proof.Machine
end

