-- ==== Sys2Proof/Machine/PassEnd.lean ====
section
/-! DEFINITION. Chapters 2 to 7 and 18: a pass completes: its writes become visible, it signals, its counts and alerts are recorded, its
marks and its LAST bit take effect (R30, R54, R60, R68, R74, R77, R78, R101, R102, R132, R151, R155, R179, R193, R344, R436). -/

namespace Sys2Proof.Machine

/-- One write of a unit of a block: local memory at once, another package by stores of the source (R28, R38, R58): the first status that is
not 0. -/
def emitWrite (pp b source step : Nat) (purpose : Purpose) (acc : Pkg × Nat × Nat) (w : Nat × Bytes) : Pkg × Nat × Nat :=
  if acc.2.1 ≠ 0 then acc
  else if 2 ^ 56 ≤ w.1 then
    let p := charge acc.1 pp 2 0 w.2.length
    ((pieces (w.1 % 2 ^ 46) w.2).foldl (fun p c =>
      sendFabric p { source, partition := pp, dest := w.1 / 2 ^ 46 % 1024, type := 1, addr := c.1, data := c.2, bytes := c.2.length, step, purpose }) p, 0, 0)
  else
    let r := storeLocal (chargeAccess acc.1 pp b w.1 w.2.length) w.1 w.2 false (fromOutside b w.1) source pp step
    (r.1, r.2, w.1)

/-- A row or an end notice that a dispatch sends (R151): a row for this package is stored at once, with the status of its store; the others,
and every notice behind them as a flagged store, are transactions of the region's router. Nothing follows a failed row (R46). -/
def sendRoute (pp b step index : Nat) (acc : Pkg × Nat) (o : Nat × Nat × RouteItem) : Pkg × Nat :=
  let t : Txn := { source := 0x80 + b / 8, partition := pp, dest := o.1, type := 1, addr := o.2.1, step, purpose := .route pp b index o.2.2 }
  if acc.2 ≠ 0 then acc
  else match o.2.2 with
    | .row row =>
      if o.1 = ownId acc.1 then
        let r := rowArrives acc.1 pp row
        (r.1, r.2.getD 0)
      else (sendFabric acc.1 { t with bytes := row.data.length }, 0)
    | .notice _ => (sendFabric acc.1 { t with flag := true }, 0)

/-- A flagged increment of a counter (R68, R155, R343, R344). -/
def sendInc (p : Pkg) (pp source dest block idx n step : Nat) (purpose : Purpose) : Pkg :=
  sendFabric p { source, partition := pp, dest, type := 3, addr := block * 64 + idx, bytes := n, flag := true, step, purpose }

/-- A pass's signal (R68): it follows every earlier write of the block, those that its ROUTE passes made as their region's router too. -/
def sendSignal (p : Pkg) (pp b dest block idx step index : Nat) : Pkg :=
  sendFabric p { source := b, partition := pp, dest, type := 3, addr := block * 64 + idx, bytes := 1, flag := true, step, purpose := .signal b index,
                 behind := some (0x80 + b / 8) }

/-- A page that an append has filled (R118, R120, R134): it is no longer reserved, and its vector names it. -/
def fillPage (pp step : Nat) (p : Pkg) (s : KvSlot) : Pkg :=
  let p := modAk p pp (fun q => { q with slots := q.slots.map (fun t => if t.addr = s.addr ∧ t.kind = 0 then { t with reserved := false, born := step } else t) })
  let p := setVector p pp s.handle s.layer s.head s.page (s.addr + 1)
  recountPages p pp s.handle s.layer s.head

/-- A contribution to a page's score (R132): once in a step. -/
def addScore (pp step : Nat) (p : Pkg) (e : Nat × Word) : Pkg :=
  let h := kvRead p e.1 64
  if leAt h 32 4 = step then bump p Ix.akDoubleContributions pp 1
  else
    let old := BitVec.ofNat 32 (leAt h 24 4)
    let new := fadd (fmul old (BitVec.ofNat 32 (rd p Ix.akDecay pp))) e.2
    kvWrite p (e.1 + 24) (leBytes 4 new.toNat ++ leBytes 4 old.toNat ++ leBytes 4 step)

/-- Per-pass counts saturate (R102). -/
def QCount.cap (c : QCount) : QCount := ⟨min c.quantised 0xFFFFFFFF, min c.saturated 0xFFFFFFFF, min c.flushed 0xFFFFFFFF⟩

/-- Adds the counts of one stage to a block (R101). -/
def countStage (b : Nat) (p : Pkg) (c : QCount) : Pkg :=
  bump (bump (bump p Ix.blockQuantisedCount b c.quantised) Ix.blockSaturatedCount b c.saturated) Ix.blockFlushedCount b c.flushed

/-- Whether a count passes a threshold in parts per million (R102). -/
def overPpm (count ppm n : Nat) : Bool := ppm != 0xFFFFFFFF && decide (ppm * n < count * 1000000)

/-- One alert record into the ring, which holds the records written since start or clearing, at most 64 (R102). -/
def writeAlert (p : Pkg) (pp : Nat) (r : Bytes) : Pkg :=
  let head := rd p Ix.qrAlertHead pp
  let old := rdB p Ix.qrAlertLog pp
  let log := if old.length < 32 * (head % 64 + 1) then padTo old (32 * (head % 64 + 1)) else old
  wr (wrB p Ix.qrAlertLog pp (overlay log (32 * (head % 64)) r)) Ix.qrAlertHead pp (head + 1)

/-- The check of one stage (R102): stage 2 Rotate, 7 Quantise. -/
def checkStage (pp b : Nat) (q : Pass) (p : Pkg) (s : Nat × QCount) : Pkg :=
  let c := s.2
  let sat := overPpm c.saturated (rd p Ix.qrSatThresholdPpm pp) c.quantised
  let ftz := overPpm c.flushed (rd p Ix.qrFtzThresholdPpm pp) c.quantised
  if c.quantised = 0 ∨ (!sat && !ftz) = true ∨ rd p Ix.qrAlertEnable pp ≠ 1 then p
  else
    let r := leBytes 4 (stepOf p pp) ++ leBytes 4 q.index ++ leBytes 1 b ++ leBytes 1 s.1 ++ leBytes 1 ((if sat then 1 else 0) + if ftz then 2 else 0)
      ++ leBytes 1 0 ++ leBytes 2 (descOf q.words).version ++ leBytes 2 0 ++ leBytes 4 c.quantised ++ leBytes 4 c.saturated
      ++ leBytes 4 c.flushed ++ leBytes 4 0
    raise (bump (writeAlert p pp r) Ix.blockAlertCount b 1) 0x0210 pp b 0

/-- Token records go to the lead's scheduler (R193). -/
def forwardRecords (p : Pkg) (pp : Nat) (rs : List Bytes) : Pkg :=
  let p := modSc p pp (fun q => { q with ownCount := q.ownCount + rs.length })
  rs.foldl (fun p r =>
    if isLead p pp then modSc p pp (fun q => { q with forwarded := q.forwarded ++ [(ownId p, r)] })
    else emit p (.tokenRecord (leadOf p pp) pp r)) p

/-- Whether the package is one of those that send records and counts (R193, 0x3419). -/
def countsRecords (p : Pkg) (pp : Nat) : Bool :=
  let l := (records 2 (rdB p Ix.scSamplerPackages pp)).map leNat
  if l.isEmpty then isLead p pp else l.contains (ownId p)

/-- The package's record count for the step, once its sampling blocks have completed their LAST passes (R193). -/
def sendCount (p : Pkg) (pp : Nat) : Pkg :=
  let q := (part p pp).sc
  let samplers := (blocksOf p pp).filter (fun b => bit (samplerBlocks p pp) b && !regionHidden p (b / 8))
  let ready := if samplers.isEmpty then lastPassesDone p pp else samplers.all (fun b => (blk p b).stepDone)
  if q.countSent || !ready || !countsRecords p pp then p
  else
    let n := q.ownCount
    let p := modSc p pp (fun q => { q with countSent := true })
    if isLead p pp then takeCount p pp (ownId p) (stepOf p pp) n else emit p (.samplerCount (leadOf p pp) pp (stepOf p pp) n)

/-- Votes begin for the audited tiles of a pass (R436, R437). -/
def startVotes (p : Pkg) (pp b : Nat) (q : Pass) : Pkg :=
  let p := modRu p pp (fun r => { r with votes := r.votes ++ q.audited.map (fun a =>
    { block := b, descriptor := q.index, tile := a.1, original := a.2.1, captureBytes := a.2.2 }) })
  (List.range q.unaudited).foldl (fun p _ => countUnaudited p pp) p

/-- Saves one live range (R78). -/
def saveRange (b : Nat) (p : Pkg) (r : LiveRange) : Pkg :=
  let a := (blk p b).saveBase + 512 + r.save
  match loadLocal p (sramBase b + r.src) r.length false with
  | (p, .ok d) => (storeLocal p a d false false b 0xFF ((blk p b).step.getD 0)).1
  | (p, .error _) => (storeLocal p a (List.replicate r.length 0) true false b 0xFF ((blk p b).step.getD 0)).1

/-- A mark completes (R74, R77, R78): a block that a preemption stops here saves the mark's ranges and reports; the descriptors behind it
are read again after the resume. -/
def completeMark (p : Pkg) (pp b : Nat) (q : Pass) : Pkg :=
  let p := modBlk p b (fun k => { k with marks := k.marks + 1, gapRaised := false })
  match (blk p b).stopAt with
  | some n =>
    if (blk p b).marks < n ∨ (blk p b).reported = true then p
    else
      let p := (blk p b).passes.foldl (dropPass pp) (q.ranges.foldl (saveRange b) p)
      modBlk p b (fun k => { k with
        reported := true, saved := q.ranges, passes := [], rejected := none, index := q.index + 1, lastFetched := (descOf q.words).last })
  | none => p

/-- The LAST pass of a block completes (R54, R74, R193, R206, R441). -/
def completeLast (p : Pkg) (pp b : Nat) : Pkg :=
  let e := engineOf p pp b
  let p := setAct (modBlk p b (fun k => { k with stepDone := true, reported := k.reported || k.stopAt.isSome })) b 0
  let p := modSc p pp (fun q => if e = 1 then { q with preEndNs := p.now, preRan := q.preRan || q.running.hasPre } else { q with genEndNs := p.now })
  let p := modRu p pp (fun q => { q with lastPassNs := p.now })
  sendCount (reportIfDone p pp) pp

/-- Lowest free copy slot of the X-die nearer a block's region (R344). -/
def freeCopySlot (p : Pkg) (b : Nat) : Option Nat :=
  ((List.range 128).map (fun i => (if b < 48 then 0 else 128) + i)).find? (fun s => !(tget p.ms.slots s {}).busy)

/-- Destination of a pass's signal: this package, or the one that slot D names (R57, R68). -/
def signalDest (p : Pkg) (d : Desc) : Nat := if d.sgRemote then d.d.addr / 2 ^ 46 % 1024 else ownId p

/-- The engine takes an asynchronous copy (R344); a new copy resets its slot's fence (R354). -/
def takeCopy (p : Pkg) (pp b slot : Nat) (q : Pass) : Pkg :=
  let d := descOf q.words
  let c : CopySlot :=
    { busy := true, partition := pp, block := b, descriptor := q.index, step := stepOf p pp, writes := q.writes,
      signal := if d.sgEn then some (signalDest p d, d.sgBlock * 64 + d.sgIdx, 1) else none }
  let p := { p with ms := { p.ms with slots := tput p.ms.slots slot c } }
  if (needRetire p [0x300 + slot]).isEmpty then p else retireSource p (0x300 + slot)

/-- What a completed pass leaves in the block: counts, alerts, votes, marks, the end of its step, and the failure of the descriptor behind
it (R73, R74, R101, R102). -/
def closePass (p : Pkg) (pp b : Nat) (q : Pass) : Pkg :=
  let d := descOf q.words
  let p := modBlk (countBusy p b) b (fun k => { k with passes := k.passes.drop 1, cellErrors := [], reexecs := [] })
  let p := [(2, q.rotate.cap), (7, q.quantise.cap)].foldl (checkStage pp b q) (countStage b (countStage b p q.rotate.cap) q.quantise.cap)
  let p := startVotes p pp b q
  let p := match hostOf p b with
    | some h => { p with tp := { p.tp with lastRan := tput p.tp.lastRan h b } }
    | none => p
  let p := if d.mark then completeMark p pp b q else p
  let p := if d.last then completeLast p pp b else showPointer p b
  match (blk p b).passes with
  | r :: _ => showWaiting (wr p Ix.blockPassPointer b ((blk p b).base + 128 * r.index)) b
  | [] => match (blk p b).rejected with
    | some code => passFail (showPointer p b) b code
    | none => p

/-- The Emit of a pass (R28, R30, R68): its writes, what its class sends, its increments, and its signal behind them. -/
def emitPass (p : Pkg) (pp b : Nat) (q : Pass) : Pkg × Nat × Nat :=
  let d := descOf q.words
  let step := stepOf p pp
  let source := if d.cls = 5 then 0x80 + b / 8 else b
  let r := q.writes.foldl (emitWrite pp b source step .plain) (p, 0, 0)
  if r.2.1 ≠ 0 then r
  else
    let s := q.sends.foldl (sendRoute pp b step q.index) (r.1, 0)
    if s.2 ≠ 0 then (s.1, s.2, 0)
    else
      let p := q.appended.foldl (fillPage pp step) s.1
      let p := q.scores.foldl (addScore pp step) p
      let p := q.increments.foldl (fun p i => sendInc p pp source i.1 i.2.1 i.2.2.1 i.2.2.2 step .plain) p
      let p := if d.cls = 5 ∧ d.phase = 1 then returned p (passCtx p pp b q) else p
      let p := if d.cls = 6 then forwardRecords p pp q.records else p
      (if d.sgEn then sendSignal p pp b (signalDest p d) d.sgBlock d.sgIdx step q.index else p, 0, 0)

/-- A pass in Emit: an asynchronous copy waits for a slot (R344), a collective for its result (R328). -/
def completePass (p : Pkg) (pp b : Nat) (q : Pass) : Pkg :=
  let d := descOf q.words
  if d.cls = 7 ∧ d.mode = 4 then
    match freeCopySlot p b with
    | some s => closePass (takeCopy p pp b s q) pp b q
    | none => p
  else
    let go := fun (p : Pkg) (q : Pass) => match emitPass p pp b q with
      | (p, 0, _) => closePass p pp b q
      | (p, s, a) => stopRunning p pp b q (operandStatus (s == 0x0103) s) a
    if d.cls = 2 ∧ d.mode ≠ 1 then
      match collOfPass p b with
      | none => p
      | some c =>
        if !c.done then p
        else
          let x := passCtx p pp b q
          let x := { x with table := tableOf p pp x.engine }
          match (runColl x c).run.run p with
          | (.error e, p) => stopRunning (dropColl p c) pp b q e.1 e.2
          | (.ok m, p) => go (bump (dropColl p c) Ix.tfCollectivesRun 0 1) { q with writes := m.writes, quantise := m.quantise }
    else go p q

/-- PASS_COMPLETE (R30): the pass in Fetch longest completes. -/
def execPassComplete (block : Fin 96) : State → Host.Outcome State Fault Refusal :=
  onPkgF (fun p => match partOfBlock p block, (blk p block).passes with
    | some pp, q :: _ =>
      if !q.running || (part p pp).ru.poison.isSome || p.tp.fenced.contains (block / 8) || (pcState p pp != 2 && pcState p pp != 4) then p
      else completePass p pp block q
    | _, _ => p)

/-- One write of a copy slot (R344). -/
def copyWrite (slot : Nat) (c : CopySlot) (p : Pkg) (w : Nat × Bytes) : Pkg :=
  (pieces (w.1 % 2 ^ 46) w.2).foldl (fun p e =>
    sendFabric p { source := 0x300 + slot, partition := c.partition, dest := if 2 ^ 56 ≤ w.1 then w.1 / 2 ^ 46 % 1024 else ownId p, type := 1, addr := e.1,
                   data := e.2, bytes := e.2.length, step := c.step, purpose := .copySlot slot }) p

/-- ASYNC_COPY_COMPLETE (R344): the copy's writes, and behind them its signal; a status that is not 0 is a transaction that failed
finally. -/
def execAsyncCopyComplete (slot : Fin 256) (status : Nat) : State → Host.Outcome State Fault Refusal :=
  onPkgF (fun p =>
    let c := tget p.ms.slots slot {}
    if !c.busy || p.ms.txns.any (fun t => t.purpose == .copySlot slot || t.purpose == .retire (0x300 + slot)) then p
    else if status ≠ 0 then failCopy p slot status
    else
      let p := { p with ms := { p.ms with slots := tmod p.ms.slots slot {} (fun c => { c with writes := [] }) } }
      let p := c.writes.foldl (copyWrite slot c) p
      match c.signal with
      | some s => sendInc p c.partition (0x300 + slot) s.1 (s.2.1 / 64) (s.2.1 % 64) s.2.2 c.step (.copySlot slot)
      | none => releaseSlot p slot)

/-- DISPATCHED_ROW_ARRIVAL (R151, R153). -/
def execDispatchedRowArrival (pp : Fin 12) (row : DispatchedRow) : State → Host.Outcome State Fault Refusal :=
  onPkgF (fun p => takeItem pp p (.row row))

/-- END_NOTICE_ARRIVAL (R151 to R153). -/
def execEndNoticeArrival (pp : Fin 12) (notice : EndNotice) : State → Host.Outcome State Fault Refusal :=
  onPkgF (fun p => takeItem pp p (.notice notice))

/-- PARTIAL (R329, R330). -/
def execCollPartial (pp : Fin 12) (header : CollHeader) (data : Bytes) : State → Host.Outcome State Fault Refusal :=
  onPkgF (fun p => collArrives p pp 0x80 header data)

/-- GATHER (R329, R330). -/
def execCollGather (pp : Fin 12) (header : CollHeader) (data : Bytes) : State → Host.Outcome State Fault Refusal :=
  onPkgF (fun p => collArrives p pp 0x81 header data)

/-- ABORT (R330). -/
def execCollAbort (pp : Fin 12) (header : CollHeader) : State → Host.Outcome State Fault Refusal :=
  onPkgF (fun p => collArrives p pp 0x82 header [])

end Sys2Proof.Machine
end

