-- ==== Sys2Proof/Machine/DictGate.lean ====
section
/-! DEFINITION. Chapter 16: the checks that the dictionary makes before an owner's own (R383, R384, R405 steps 7 and 8), and the
plain range checks of scalars. -/

namespace Sys2Proof.Machine

/-- Subsystem code of an index (R4, R388). -/
def subsystemOf (index : Nat) : Nat :=
  if index < 0x2000 then 0x10
  else if index < 0x2400 then 0x01
  else if index < 0x2800 then 0x02
  else if index < 0x2C00 then 0x03
  else if index < 0x3000 then 0x04
  else if index < 0x3400 then 0x05
  else if index < 0x3800 then 0x06
  else if index < 0x4000 then 0x07
  else if index < 0x4400 then 0x08
  else if index < 0x4800 then 0x09
  else if index < 0x4C00 then 0x0A
  else if index < 0x5000 then 0x0B
  else if index < 0x5400 then 0x0C
  else if index < 0x5800 then 0x0D
  else if index < 0x5C00 then 0x0E
  else if index < 0x6000 then 0x0F
  else if index < 0x6400 then 0x11
  else if index < 0x6800 then 0x12
  else if index < 0x7000 then 0x13
  else 0x14

/-- Whether a partition runs in the sense of R384 (R415). -/
def partitionRuns (p : Pkg) (pp : Nat) : Bool := !(pcState p pp == 0 || pcState p pp == 1 || pcState p pp == 7)

/-- Region that an entry's units lie in, where its subindex or index selects one (R389). -/
def regionOfEntry (e : Entry) (u sub : Nat) : Option Nat :=
  match e.unit with
  | .region => some sub
  | .block => some (sub / 8)
  | .cell => some u
  | _ => if e.span = 12 then some u else none

/-- Whether the unit of an entry runs (R384; R304, R334 and the table of HI status codes for their own). -/
def unitRuns (p : Pkg) (e : Entry) (u sub : Nat) : Bool :=
  let any := (List.range 12).any (partitionRuns p)
  if e.unit = .partition then partitionRuns p sub
  else match regionOfEntry e u sub with
    | some r => regionState p r == 0 || regionState p r == 5
    | none =>
      match subsystemOf e.index with
      | 0x0C => if e.unit = .channel then rd p Ix.dmChannelState sub != 0 else any
      | 0x0D => (List.range 24).any (fun l => rd p Ix.tfLinkState l == 2)
      | 0x0F =>
        if e.index = 0x5C08 ∨ e.index = 0x5C09 then (List.range 4).any (fun m => rd p Ix.hiModuleState m != 0 && rd p Ix.hiModuleState m != 4)
        else rd p Ix.hiEventRingEnable 0 == 1
      | _ => any

/-- Steps 7 and 8 of R405: RESETTING inside a reset boundary (an entry of the Partition Controller itself has none), UNAVAILABLE in
a fenced or hidden region, BUSY for class S while the unit runs. -/
def gate (p : Pkg) (e : Entry) (u sub : Nat) : Option Answer :=
  let nn := subsystemOf e.index * 256
  let r := regionOfEntry e u sub
  let resetting := match e.unit, r with
    | .partition, _ => pcState p sub == 6 && nn != 0x1100 && e.apply != Apply.b
    | _, some r => regionState p r == 4
    | _, none => false
  if resetting then some { abort := 10, status := nn + 0xE1 }
  else if r.any (regionHidden p) then some { abort := 11, status := 0x0107 }
  else if r.any (fun r => p.tp.fenced.contains r) then some { abort := 11, status := 0x0106 }
  else if e.apply == Apply.s && unitRuns p e u sub then some { abort := 7, status := nn + 0xE0 }
  else none

/-- Entry that shows the last status of a subsystem (R4, R388); the Quantisation and Recipe Unit and the memory controllers have none. -/
def lastEntry (nn : Nat) : Option Entry :=
  match nn with
  | 0x01 => some Ix.regionLastStatus
  | 0x03 => some Ix.akLastStatus
  | 0x04 => some Ix.erLastStatus
  | 0x05 => some Ix.svLastStatus
  | 0x06 => some Ix.scLastStatus
  | 0x07 => some Ix.seLastStatus
  | 0x08 => some Ix.wmLastStatus
  | 0x09 => some Ix.tmLastStatus
  | 0x0C => some Ix.dmChannelLastStatus
  | 0x0D => some Ix.tfLastStatus
  | 0x0E => some Ix.msLastStatus
  | 0x0F => some Ix.hiLastStatus
  | 0x10 => some Ix.mpLastStatus
  | 0x11 => some Ix.pcLastStatus
  | 0x12 => some Ix.ruLastStatus
  | 0x13 => some Ix.btLastStatus
  | 0x14 => some Ix.pwLastStatus
  | _ => none

/-- A refusal by licence, reset or state shows as the last status of the unit that it names, where the entry written belongs to one. -/
def refuseNoted (p : Pkg) (e : Entry) (u sub : Nat) (a : Answer) : Pkg × Answer :=
  match lastEntry (a.status / 256) with
  | none => refuse p a
  | some x =>
    match x.unit, e.unit, regionOfEntry e u sub with
    | .package, _, _ => refuse (last p x 0 a.status) a
    | .region, _, some r => refuse (last p x r a.status) a
    | .partition, .partition, _ => refuse (last p x sub a.status) a
    | .channel, .channel, _ => refuse (last p x sub a.status) a
    | _, _, _ => refuse p a

/-- An owner's write behind the dictionary's own steps 7 and 8. -/
def gated (p : Pkg) (e : Entry) (u sub : Nat) (f : Pkg → Pkg × Answer) : Pkg × Answer :=
  match gate p e u sub with
  | some a => refuseNoted p e u sub a
  | none => f p

/-- A write that reached its entry as a command of its own: checked, applied and answered. -/
def entryCommand (e : Entry) (sub : Nat) (f : Pkg → Pkg × Answer) (p : Pkg) : Pkg := answered e sub (gated p e 0 sub f)

/-- Whether a scalar lies in its entry's stated range. -/
def inRange (e : Entry) (v : Nat) : Bool :=
  decide (e.lo ≤ v) && decide (v ≤ e.hi) && v % max 1 e.step == 0 && (!e.pow2 || isPow2 v)

/-- Whether bits spell a binary32 NaN (R381). -/
def isNan32 (v : Nat) : Bool := v / 2 ^ 23 % 256 == 255 && v % 2 ^ 23 != 0

/-- What becomes of an accepted value of class B (R383), for an entry of a partition. -/
def shadowed (p : Pkg) (pp : Nat) (e : Entry) (v : DVal) : Pkg × Answer :=
  let r := writeClassB p pp e v
  (r.1, { pending := r.2 })

end Sys2Proof.Machine
end

