-- ==== Sys2Proof/Machine/Tiers.lean ====
section
/-! DEFINITION. Chapter 10: the owner's checks of its entries, and the meanings of its commands. -/

namespace Sys2Proof.Machine

/-- Whether a partition may name a fixed range (R249). -/
def fixedRangeOk (p : Pkg) (pp : Nat) (r : Nat × Nat) : Bool :=
  r.1 % 4096 == 0 && r.2 % 4096 == 0 && inOneRange r.1 r.2 && decide (rangeNo r.1 ≤ 1)
  && (List.range 12).all (fun q => q == pp || (fixedRanges p q).all (fun x => !overlap x.1 x.2 r.1 r.2))
  && (allExtents p).all (fun x => !overlap x.1 x.2 r.1 r.2)

/-- A write of `tm_fixed_ranges` (R249): lent units that it needs are reclaimed (R258). -/
def writeFixedRanges (p : Pkg) (pp : Nat) (data : Bytes) : Pkg × Answer :=
  if data.length % 16 ≠ 0 ∨ 4096 < data.length
      ∨ ((records 16 data).all (fun b => fixedRangeOk p pp (leAt b 0 8, leAt b 8 8))) = false then
    refuse (last p Ix.tmLastStatus 0 0x0902) (invalid 0x0902)
  else (reclaimNeeded (wrB p Ix.tmFixedRanges pp data), accepted)

/-- A write of `tm_spill_base` or `tm_spill_bytes` (R250): the pool must lie in a fixed range of the partition, in T1, and be whole
slots. -/
def writeSpillPool (p : Pkg) (pp : Nat) (size : Bool) (v : Nat) : Pkg × Answer :=
  let base := if size then rd p Ix.tmSpillBase pp else v
  let n := if size then v else rd p Ix.tmSpillBytes pp
  if base % 4096 ≠ 0 ∨ n % slotSize p pp ≠ 0 ∨ (n ≠ 0 ∧ (inFixedRange p pp base n = false ∨ rangeNo base ≠ 1)) then
    refuse (last p Ix.tmLastStatus 0 0x0903) (invalid 0x0903)
  else (wr p (if size then Ix.tmSpillBytes else Ix.tmSpillBase) pp v, accepted)

/-- A write of `hb_fail_channel` or `dd_fail_channel` (R260). -/
def writeFailChannel (p : Pkg) (ddr : Bool) (unit v : Nat) : Pkg × Answer :=
  if ddr then (if v = 1 then (failChannel p true unit 0, accepted) else refuse p (invalid 0x1006))
  else if v < 32 then (failChannel p false unit v, accepted)
  else refuse p (invalid 0x1006)

/-- A write of `tm_reclaim_units` (R258). -/
def writeReclaimUnits (p : Pkg) (n : Nat) : Pkg × Answer := (reclaimUnits p n, accepted)

/-- SCRUB_PASS (R247). -/
def execScrubPass (ddr : Bool) (unit : Fin 16) : State → Host.Outcome State Fault Refusal := onPkgF (fun p => scrub p ddr unit)

/-- CHANNEL_FAILURE (R260 to R264): a channel whose command or data path its retries and one retrain do not restore (assumption 113). -/
def execChannelFailure (ddr : Bool) (unit : Fin 16) (channel : Fin 32) : State → Host.Outcome State Fault Refusal :=
  onPkgF (fun p =>
    let p := if ddr ∧ rd p Ix.ddChannelState unit ≤ 1 then bump p Ix.ddRetries unit (rd p Ix.ddRetryLimit 0) else p
    failChannel p ddr unit channel)

/-- POISON_FILL_COMPLETE (R261): the frontier reaches the end, held writes proceed, and lost extents are fetched again (R280). -/
def execPoisonFillComplete (stack : Fin 12) : State → Host.Outcome State Fault Refusal :=
  onPkgF (fun p => startRefills (endPoisonFill p stack))

/-- FAIL_CHANNEL_WRITE (R260): `hb_fail_channel` or `dd_fail_channel`. -/
def execFailChannelWrite (ddr : Bool) (unit : Fin 16) (value : Byte) : State → Host.Outcome State Fault Refusal :=
  onPkgF (fun p =>
    if ddr then entryCommand Ix.ddFailChannel unit (fun p => writeFailChannel p true unit value.toNat) p
    else if 12 ≤ unit.val then answered Ix.hbFailChannel unit (refuse p { abort := 2, status := 0x1002 })
    else entryCommand Ix.hbFailChannel unit (fun p => writeFailChannel p false unit value.toNat) p)

/-- PAGE_COPY_COMPLETE (R252, R254): the copy of a page among the 64 in flight is complete and waits for the commit. -/
def execPageCopyComplete (source : Nat) : State → Host.Outcome State Fault Refusal :=
  onPkgF (fun p =>
    match ((p.tm.moves.filter (fun m => !m.copied)).take 64).find? (fun m => m.source == source) with
    | none => p
    | some m =>
      let n := slotSize p m.partition
      let p := copyPage p m.source m.dest n
      let p := { p with tm := { p.tm with moves := p.tm.moves.filter (fun x => !(x.source == m.source)) ++ [{ m with copied := true }] } }
      bump p Ix.tmBytesMoved 0 n)

/-- FIXED_RANGES_WRITE (R249). -/
def execFixedRangesWrite (pp : Fin 12) (data : Bytes) : State → Host.Outcome State Fault Refusal :=
  onPkgF (entryCommand Ix.tmFixedRanges pp (fun p => writeFixedRanges p pp data))

/-- SPILL_POOL_WRITE (R250): of the size or of the base. -/
def execSpillPoolWrite (pp : Fin 12) (size : Bool) (value : DWord) : State → Host.Outcome State Fault Refusal :=
  onPkgF (entryCommand (if size then Ix.tmSpillBytes else Ix.tmSpillBase) pp (fun p => writeSpillPool p pp size value.toNat))

/-- ADVERT_TIMER (R257): every 10 ms a lender advertises. -/
def execAdvertTimer : State → Host.Outcome State Fault Refusal :=
  onPkgF (fun p => if rd p Ix.tmLendEnable 0 = 1 then advertise p else p)

/-- A message of a type that reaches the mailbox (R256). -/
def mailed (type : Nat) (m : TmMessage) (p : Pkg) : Pkg := (tmArrives p { m with type := type }).1

/-- ADVERT (R257). -/
def execAdvert (message : TmMessage) : State → Host.Outcome State Fault Refusal := onPkgF (mailed 1 message)

/-- BORROW (R257). -/
def execBorrow (message : TmMessage) : State → Host.Outcome State Fault Refusal := onPkgF (mailed 2 message)

/-- GRANT (R257). -/
def execGrant (message : TmMessage) : State → Host.Outcome State Fault Refusal := onPkgF (mailed 3 message)

/-- REFUSE (R257). -/
def execRefuse (message : TmMessage) : State → Host.Outcome State Fault Refusal := onPkgF (mailed 4 message)

/-- RECLAIM (R258). -/
def execReclaim (message : TmMessage) : State → Host.Outcome State Fault Refusal := onPkgF (mailed 5 message)

/-- RELEASE (R257, R258). -/
def execRelease (message : TmMessage) : State → Host.Outcome State Fault Refusal := onPkgF (mailed 6 message)

/-- RECLAIM_DEADLINE (R258, R264): the borrower's window goes and the pages left there are lost; the lender starts the unit's
fill. -/
def execReclaimDeadline (lender : Nat) (unit : Nat) : State → Host.Outcome State Fault Refusal :=
  onPkgF (fun p =>
    let due := fun (l : Loan) => l.unit == unit && l.state == 1 && decide (l.deadlineNs ≤ p.now)
    if lender = ownId p then
      modLoans p (fun ls => ls.map (fun l => if l.slot.isNone && due l then { l with state := 2 } else l))
    else match p.tm.loans.find? (fun l => l.slot.isSome && l.partner == lender && due l) with
      | none => p
      | some l => unmapUnit (reportLoss p l.partition 5 2 lender (0x040000000000 + l.slot.getD 0 * 0x40000000) 0x40000000) l 0x0905)

/-- UNIT_IDLE_RELEASE (R257): a borrowed unit that has held no page for 1,000 ms goes back. -/
def execUnitIdleRelease (lender : Nat) (unit : Nat) : State → Host.Outcome State Fault Refusal :=
  onPkgF (fun p =>
    match p.tm.loans.find? (fun l => l.slot.isSome && l.partner == lender && l.unit == unit) with
    | none => p
    | some l =>
      let base := 0x040000000000 + l.slot.getD 0 * 0x40000000
      let targeted := p.tm.moves.any (fun m => decide (base ≤ m.dest) && decide (m.dest < base + 0x40000000))
      if (pagesInUnit p l).isEmpty && !targeted then returnUnit p l else p)

/-- UNIT_POISON_FILL_DONE (R258): the unit is poison and returns to free space. -/
def execUnitPoisonFillDone (unit : Nat) : State → Host.Outcome State Fault Refusal :=
  onPkgF (fun p =>
    match p.tm.loans.find? (fun l => l.slot.isNone && l.unit == unit && l.state == 2) with
    | none => p
    | some l =>
      let p := { p with mem := memFill p.mem (unitAddr unit) 0x40000000 }
      modLoans p (fun ls => ls.filter (· != l)))

/-- RECLAIM_UNITS_WRITE (R258). -/
def execReclaimUnitsWrite (count : BitVec 16) : State → Host.Outcome State Fault Refusal :=
  onPkgF (entryCommand Ix.tmReclaimUnits 0 (fun p => writeReclaimUnits p count.toNat))

/-- DDR_FILL_COMPLETE (R478): a channel's zero fill passes its end; held writes are performed. -/
def execDdrFillComplete (channel : Fin 16) : State → Host.Outcome State Fault Refusal := onPkgF (fun p => endZeroFill p channel)

end Sys2Proof.Machine
end

