-- ==== Sys2Proof/Machine/Store.lean ====
section
/-! DEFINITION. Chapter 11: loading images, unloading and arming switches, and the meanings of its commands. -/

namespace Sys2Proof.Machine

/-- Whether a load command keeps its layout (R273). -/
def loadCommandOk (b : Bytes) : Bool :=
  let sources := (records 2 (slice b 8 12)).map leNat
  b.length == 64 && decide (leAt b 1 1 < 2) && leAt b 20 4 == 0 && allZero (slice b 40 24)
  && (match leAt b 0 1 with
      | 1 => sources.all (· == 0xFFFF) && leAt b 24 8 % 4096 == 0
      | 2 => sources.all (fun s => decide (s < 1024) || s == 0xFFFF) && sources.any (· != 0xFFFF) && leAt b 24 8 == 0 && leAt b 32 8 == 0
      | _ => false)

/-- Whether an image header keeps its layout and names the version expected (R270, R274). -/
def imageHeaderOk (b : Bytes) (expected : Nat) : Bool :=
  b.length == 128 && leAt b 0 4 == 0x4E434C46 && leAt b 4 2 == 1 && leAt b 6 2 == expected && decide (1 ≤ expected)
  && decide (expected ≤ 0xFFFE) && decide (1 ≤ leAt b 20 2) && decide (leAt b 20 2 ≤ 1024) && decide (leAt b 22 2 < 4)
  && leAt b 24 4 == 0x01000000 && leAt b 28 4 == 0 && leAt b 32 8 % 4096 == 0 && leAt b 60 4 == 0
  && (if bit (leAt b 22 2) 0 then leAt b 56 4 == 3392 && leAt b 48 8 != 0 && leAt b 48 8 % 64 == 0
      else leAt b 56 4 == 0 && leAt b 48 8 == 0)

/-- Whether a signature block verifies (R272): its layout, its key slot, and both signatures. -/
def signatureOk (p : Pkg) (b : Bytes) (verifies : Bool) : Bool :=
  verifies && b.length == 3392 && leAt b 0 4 == 1 && bit (keySlotMask p) (leAt b 4 4) && leAt b 72 4 == 3309 && allZero (b.drop 3385)

/-- The shard records of a manifest (R271). -/
def shardRecords (m : Bytes) : List Bytes := records 64 (slice m (leAt m 8 8) (64 * leAt m 0 4))

/-- Key that sorts the shard table (R271). -/
def shardKey (b : Bytes) : Nat := leAt b 0 2 * 256 + leAt b 2 1

/-- Whether consecutive records keep the table's order (R271). -/
def shardsSorted : List Bytes → Bool
  | [] => true
  | [_] => true
  | a :: b :: t => decide (shardKey a ≤ shardKey b) && shardsSorted (b :: t)

/-- Whether a shard record keeps its layout (R271): its target lies in its region's stack or in T1. -/
def shardOk (positions digests : Nat) (b : Bytes) : Bool :=
  let a := leAt b 24 8
  let n := leAt b 8 8
  decide (leAt b 0 2 < positions) && decide (leAt b 2 1 < 12) && leAt b 4 4 == (n + 0xFFFFFF) / 0x1000000
  && n % 64 == 0 && leAt b 16 8 % 4096 == 0 && a % 4096 == 0
  && decide (leAt b 32 4 + leAt b 4 4 ≤ digests) && inOneRange a n
  && (match place a with
      | .t0 s off => s == leAt b 2 1 && decide (off + n ≤ 0x001000000000)
      | .t1 _ _ => true
      | _ => false)

/-- Whether no two shards of one position overlap (R271). -/
def shardsApart : List Bytes → Bool
  | [] => true
  | b :: t => t.all (fun c => leAt b 0 2 != leAt c 0 2 || !overlap (leAt b 24 8) (leAt b 8 8) (leAt c 24 8) (leAt c 8 8)) && shardsApart t

/-- Whether a manifest keeps its layout and its digest (R270, R271). -/
def manifestOk (h m : Bytes) : Bool :=
  let shards := shardRecords m
  m.length == leAt h 40 8 && decide (64 ≤ m.length) && sha256 m == slice h 64 32
  && leAt m 8 8 % 64 == 0 && leAt m 16 8 % 64 == 0 && decide (leAt m 8 8 + 64 * leAt m 0 4 ≤ m.length)
  && decide (leAt m 16 8 + 32 * leAt m 4 4 ≤ m.length) && shards.all (shardOk (leAt h 20 2) (leAt m 4 4)) && shardsSorted shards
  && shardsApart shards

/-- A shard with the digests of its slices (R271). -/
def shardOf (m b : Bytes) : Shard :=
  { region := leAt b 2 1, bytes := leAt b 8 8, target := leAt b 24 8, digestIndex := leAt b 32 4,
    digests := (List.range (leAt b 4 4)).map (fun j => slice m (leAt m 16 8 + 32 * (leAt b 32 4 + j)) 32) }

/-- The shards of a position (R274 step 3). -/
def shardsAt (m : Bytes) (position : Nat) : List Shard :=
  ((shardRecords m).filter (fun b => leAt b 0 2 == position)).map (shardOf m)

/-- Whether an extent may be allocated, extents of versions apart (R274 step 4): its place exists and touches no fixed range and no
lent unit. -/
def targetPresent (p : Pkg) (e : Nat × Nat) : Bool :=
  e.2 == 0 || (inOneRange e.1 e.2 && accessStatus p e.1 true false == 0 && accessStatus p (e.1 + e.2 - 1) true false == 0
    && !(List.range 12).any (fun pp => (fixedRanges p pp).any (fun r => overlap r.1 r.2 e.1 e.2))
    && !(lentUnits p).any (fun l => overlap (unitAddr l.unit) 0x40000000 e.1 e.2))

/-- Whether extents touch no anchored extent. -/
def targetsFree (p : Pkg) (es : List (Nat × Nat)) : Bool :=
  es.all (fun e => (allExtents p).all (fun x => !overlap x.1 x.2 e.1 e.2))

/-- VERSION_EVICTION (R278): evicts until the extents fit; `fuel` bounds the versions. -/
def evictFor (es : List (Nat × Nat)) : (fuel : Nat) → Pkg → Pkg
  | 0, p => p
  | fuel + 1, p =>
    if targetsFree p es then p
    else match nextEviction p with
      | none => p
      | some v => evictFor es fuel (dropVersion p v.version)

/-- Step 4 of R274: room for the extents, or the status of its failure. A target inside another extent is occupied; one in a lent unit needs
that unit back (R258). -/
def makeExtents (p : Pkg) (es : List (Nat × Nat)) : Pkg × Nat :=
  if !es.all (targetPresent p) || es.any (fun e => (allExtents p).any (fun x => decide (x.1 ≤ e.1) && decide (e.1 < x.1 + x.2))) then
    (reclaimFor p es, 0x0805)
  else
    let p := if rd p Ix.wmEvictEnable 0 = 1 then evictFor es (p.wm.versions.length + 1) p else p
    (p, if targetsFree p es then 0 else 0x0806)

/-- The first failure of steps 1 to 3 of R274, 0 for none. -/
def loadStatus (p : Pkg) (b : Bytes) (image : ImageHead) : Nat :=
  let unread := if leAt b 0 1 = 2 then 0x0809 else 0x0808
  if leAt b 0 1 = 2 ∧ image.sourceResident = false then 0x0809
  else match image.header with
    | none => unread
    | some h =>
      if !imageHeaderOk h (leAt b 2 2) then 0x0801
      else if rd p Ix.mpFirmwareRelease 0 < leAt h 16 4 then 0x080A
      else if (findVersion p (leAt h 6 2)).isSome then 0x080B
      else if (bit (leAt h 22 2) 0 || rd p Ix.wmRequireSignature 0 == 1)
          && !(bit (leAt h 22 2) 0 && signatureOk p image.signature image.signatureVerifies) then 0x0803
      else match image.manifest with
        | none => unread
        | some m => if !manifestOk h m then 0x0802 else if (shardsAt m (leAt b 4 2)).isEmpty then 0x0804 else 0

/-- Lowest free place of T1 for an extent (R274 step 6): at the start of a channel, or behind something that is in use. -/
def t1Place (p : Pkg) (n : Nat) : Option Nat :=
  let used := allExtents p ++ (List.range 12).flatMap (fixedRanges p) ++ (lentUnits p).map (fun l => (unitAddr l.unit, 0x40000000))
  let starts := (List.range 16).map (fun c => 0x010000000000 + c * 0x002000000000)
    ++ (used.filter (fun e => rangeNo e.1 == 1)).map (fun e => alignUp (e.1 + e.2) 4096)
  let ok := starts.filter (fun a => decide ((a - 0x010000000000) % 0x002000000000 + n ≤ 0x002000000000) && targetPresent p (a, n)
    && targetsFree p [(a, n)])
  ok.foldl (fun (m : Option Nat) a => match m with
    | none => some a
    | some x => some (min x a)) none

/-- Evicts until T1 holds a place for the stored header (R274 step 6, R278); `fuel` bounds the versions. -/
def evictForT1 (n : Nat) : (fuel : Nat) → Pkg → Pkg
  | 0, p => p
  | fuel + 1, p =>
    if (t1Place p n).isSome then p
    else match nextEviction p with
      | none => p
      | some v => evictForT1 n fuel (dropVersion p v.version)

/-- Without room in T1 for a stored header the package wants lent units back (R258). -/
def reclaimT1 (p : Pkg) (n : Nat) : Pkg := reclaimUnits p ((n + 0x3FFFFFFF) / 0x40000000)

/-- LOAD_DONE (R274 step 6): the header, manifest and signature are stored and the version is resident; a refill's version is resident
again (R280). -/
def finishLoad (p : Pkg) (j : Nat) : Pkg :=
  let job := jobAt p j
  if job.state ≠ 1 ∨ !job.todo.isEmpty then p
  else if job.refill then
    showProfile (startRefills (modJob (modVersion p job.version (fun x => { x with state := if x.lost.isEmpty then 1 else x.state })) j
      (fun x => { x with state := 2 })))
  else
    let n := alignUp job.stored.length 4096
    let p := if rd p Ix.wmEvictEnable 0 = 1 then evictForT1 n (p.wm.versions.length + 1) p else p
    match t1Place p n with
    | none => showProfile (failJob (reclaimT1 p n) j 0x0806)
    | some a =>
      let p := (storeLocal p a job.stored false false 0x093 0xFF 0).1
      let ms := (p.now - job.startNs) / 1000000
      let p := modVersion p job.version (fun x => { x with state := 1, stored := some (a, n), loadMs := ms })
      raiseAs (showProfile (startRefills (modJob p j (fun x => { x with state := 2 })))) Ix.wmLastStatus 0 0x0810 0xFF 0xFFFFFFFF 0

/-- Steps 4 and 5 of R274 begin: extents are allocated and the copy starts; or the job ends with the first failure. -/
def startLoad (p : Pkg) (j : Nat) (b : Bytes) (image : ImageHead) : Pkg :=
  let tag := leAt b 6 2
  let fail := fun (p : Pkg) (st : Nat) => modJob (last p Ix.wmLastStatus 0 st) j (fun _ => { state := 3, tag, version := leAt b 2 2, status := st })
  let st := loadStatus p b image
  if st ≠ 0 then fail p st
  else
    let h := image.header.getD []
    let m := image.manifest.getD []
    let shards := shardsAt m (leAt b 4 2)
    let r := makeExtents p (shards.map Shard.extent)
    if r.2 ≠ 0 then fail r.1 r.2
    else
      let v : Version := { version := leAt h 6 2, position := leAt b 4 2, draft := bit (leAt h 22 2) 1, signed := bit (leAt h 22 2) 0,
                           imageId := leAt h 8 8, shards := shards }
      let p := touch { r.1 with wm := { r.1.wm with versions := insertVersion v r.1.wm.versions } } Ix.wmRegistry 0
      let job : Job := { state := 1, tag := tag, version := v.version, fullRate := bit (leAt b 1 1) 0, startNs := p.now,
                         sources := ((records 2 (slice b 8 12)).map leNat).filter (· != 0xFFFF), stored := h ++ m ++ image.signature,
                         todo := shards.zipIdx.flatMap (fun s => (List.range s.1.digests.length).map (fun k => (s.2, k))),
                         toCopy := (shards.map (·.bytes)).sum }
      finishLoad (showProfile (dealSlices (modJob p j (fun _ => job)) j job.todo)) j

/-- A write of `wm_load_command` (R273). -/
def writeLoadCommand (p : Pkg) (b : Bytes) (image : ImageHead) : Pkg × Answer :=
  if !loadCommandOk b then refuse (last p Ix.wmLastStatus 0 0x0801) (invalid 0x0801)
  else match p.wm.jobs.findIdx? (fun j => j.state != 1) with
    | none => refuse (last p Ix.wmLastStatus 0 0x08E0) { abort := 7, status := 0x08E0 }
    | some j => (startLoad p j b image, accepted)

/-- A slice is read once more, from the source it was dealt to (R274 step 5, R275). -/
def fetchAgain (p : Pkg) (j shard k : Nat) : Pkg :=
  let p := modJob p j (fun x => { x with refetched := x.refetched ++ [(shard, k)] })
  ((jobAt p j).dealt.filter (fun d => d.1 == shard && d.2.1 == k)).foldl (fun p d => emit p (.sliceRead d.2.2 j shard k)) p

/-- A slice lands (R274 step 5): in its place, and verified there. -/
def landSlice (p : Pkg) (j shard k : Nat) (s : Shard) (b : Bytes) : Pkg :=
  let job := jobAt p j
  let r := storeLocal p (s.target + k * 0x1000000) b false false 0x093 0xFF 0
  let p := r.1
  if r.2 ≠ 0 then showProfile (failJob p j 0x0805)
  else if b.length = sliceBytes s k ∧ sha256 b = s.digests.getD k [] then
    let p := bump p Ix.wmBytesLoaded 0 b.length
    let p := if job.refill then modVersion p job.version (fun x => { x with lost := x.lost.filter (· != (shard, k)) }) else p
    finishLoad (modJob p j (fun x => { x with todo := x.todo.filter (· != (shard, k)), landed := x.landed ++ [(shard, k)], copied := x.copied + b.length })) j
  else
    let p := if job.mismatched.contains (shard, k) then p
      else bump (modJob p j (fun x => { x with mismatched := x.mismatched ++ [(shard, k)] })) Ix.wmDigestFailures 0 1
    if job.refetched.contains (shard, k) then showProfile (failJob p j 0x0807) else fetchAgain p j shard k

/-- SLICE_LANDED (R274): a slice with its bytes is verified; a read that failed is made once more; a source that lacks the version ends
the load. -/
def sliceLands (p : Pkg) (j shard k : Nat) (data : SliceRead) : Pkg :=
  let job := jobAt p j
  if job.state ≠ 1 ∨ !job.todo.contains (shard, k) then p
  else if data = .lacks ∧ job.sources.isEmpty = false then showProfile (failJob p j 0x0809)
  else match (findVersion p job.version).bind (fun v => v.shards[shard]?), data with
    | some s, .good b => landSlice p j shard k s (b.take (sliceBytes s k))
    | some _, _ =>
      if job.refetched.contains (shard, k) then showProfile (failJob p j 0x0808)
      else fetchAgain p j shard k
    | none, _ => p

/-- Whether the only hold on a version is parked requests (R279). -/
def onlyParked (p : Pkg) (v : Version) : Bool :=
  v.state == 1 && holdersOf p v.version == 0 && !served p v.version && (List.range 12).all (fun pp => !isLead p pp ||
    (part p pp).sc.requests.all (fun r => !(r.live && r.version == v.version) || r.isParked))

/-- Ends the parked requests of a version with 0x080D (R279). -/
def endParked (p : Pkg) (v : Nat) : Pkg :=
  (List.range 12).foldl (fun p pp =>
    let hit := (part p pp).sc.requests.filter (fun r => r.version == v && r.isParked)
    if hit.isEmpty then p
    else modSc p pp (fun q => { q with requests := q.requests.map (fun r =>
      if hit.contains r then { r with given := some (r.given.getD 0x080D) } else r) })) p

/-- A write of `wm_unload` (R279). -/
def writeUnload (p : Pkg) (value : Nat) : Pkg × Answer :=
  match findVersion p (value % 65536) with
  | none => refuse p (invalid 0x1006)
  | some v =>
    if 2 ≤ value / 65536 then refuse p (invalid 0x1006)
    else if evictable' p v then (dropVersion p v.version, accepted)
    else if value / 65536 = 1 ∧ onlyParked p v = true then
      (dropVersion (endParked (last p Ix.wmLastStatus 0 0x080D) v.version) v.version, accepted)
    else refuse (last p Ix.wmLastStatus 0 0x080B) (invalid 0x080B)

/-- A write of `wm_switch` (R281). -/
def writeSwitch (p : Pkg) (pp : Nat) (b : Bytes) : Pkg × Answer :=
  match switchCheck p b with
  | some a => refuse (last p Ix.wmLastStatus 0 a.status) a
  | none => shadowed p pp Ix.wmSwitch (.bytes b)

/-- LOAD_COMMAND (R273, R274). -/
def execLoadCommand (data : Bytes) (image : ImageHead) : State → Host.Outcome State Fault Refusal :=
  onPkgF (entryCommand Ix.wmLoadCommand 0 (fun p => writeLoadCommand p data image))

/-- SLICE_LANDED (R274, R280). -/
def execSliceLanded (job : Fin 2) (shard slice : Nat) (data : SliceRead) : State → Host.Outcome State Fault Refusal :=
  onPkgF (fun p => sliceLands p job shard slice data)

/-- UNLOAD_WRITE (R279). -/
def execUnloadWrite (value : Word) : State → Host.Outcome State Fault Refusal :=
  onPkgF (entryCommand Ix.wmUnload 0 (fun p => writeUnload p value.toNat))

/-- SWITCH_WRITE (R281). -/
def execSwitchWrite (pp : Fin 12) (data : Bytes) : State → Host.Outcome State Fault Refusal :=
  onPkgF (entryCommand Ix.wmSwitch pp (fun p => writeSwitch p pp data))

end Sys2Proof.Machine
end

