-- ==== Sys2Proof/Machine/Dma.lean ====
section
/-! DEFINITION. Chapter 12: the meanings of its commands. -/

namespace Sys2Proof.Machine

/-- A store by the host die to a register of a channel (R292, R337), absorbed while the channel's partition resets (R424). -/
def channelStore (c offset : Nat) (wide : Bool) (value : Nat) (p : Pkg) : Pkg :=
  let pp := rd p Ix.dmChannelPartition c
  registerAnswer (if pp < 12 then unlessAbsorbed pp (fun p => dmaStore p c offset wide value false) p
    else dmaStore p c offset wide value false) 0x41 []

/-- The piece of a channel with a number, if it is in flight and waits for no retry. -/
def flyingPiece (p : Pkg) (c n : Nat) : Option Piece := (chan p c).pieces.find? (fun x => x.number == n && !x.retrying)

/-- DMA_PIECE_ERROR (R299): a word found poisoned goes on as poison with POISON_PASS; any other error is retried or halts. That of a write is the
completion of the transaction to its address. -/
def pieceFails (p : Pkg) (c n side addr status : Nat) : Pkg :=
  match flyingPiece p c n with
  | none => p
  | some x =>
    if status = 0 ∨ (side = 0 ∧ x.writing = true) then p
    else if side = 0 ∧ poisonedStatus status = true ∧ bit ((chan p c).reg 0x34) 1 = true then movePiece p c n (some addr)
    else match p.ms.txns.find? (fun t => t.purpose == .dmaPiece c n 1 && (pieceRun p t).1 == addr && side == 1) with
      | some t => pieceError { p with ms := { p.ms with txns := p.ms.txns.filter (· != t) } } c n side addr status (some (pieceRun p t))
      | none => pieceError p c n side addr status none

/-- DMA_RETRY_TIMER (R299): the access is repeated: a write, a read, which a halting channel does not issue (R300), or the signal. -/
def retryPiece (p : Pkg) (c n : Nat) : Pkg :=
  match (chan p c).pieces.find? (fun x => x.number == n && x.retrying) with
  | none => p
  | some x =>
    if chanResets p c || (n != signalPiece && !x.writing && (chan p c).halting.isSome) then p
    else
      let p := modChan p c (fun k => { k with pieces := k.pieces.map (fun x => if x.number = n then { x with retrying := false, again := [] } else x) })
      let p := bump p Ix.dmChannelRetries c 1
      if n = signalPiece then signalChannel p c
      else if x.writing then finishPiece (x.again.foldl (writeRuns c n) p) c n
      else movePiece p c n none

/-- DMA_HALT_DRAIN_TIMEOUT (R300): what is still in flight is abandoned. -/
def haltDrainOver (p : Pkg) (c : Nat) : Pkg :=
  match (chan p c).halting with
  | none => p
  | some f => haltNow (abandonSource p (chanSource c)) c f

/-- DMA_START (R301, R295). -/
def execDmaStart (channel : Fin 256) : State → Host.Outcome State Fault Refusal := onPkgF (channelStore channel 0x90 false 1)

/-- DMA_STOP (R301). -/
def execDmaStop (channel : Fin 256) : State → Host.Outcome State Fault Refusal := onPkgF (channelStore channel 0x90 false 2)

/-- DMA_RESUME (R300, R301). -/
def execDmaResume (channel : Fin 256) : State → Host.Outcome State Fault Refusal := onPkgF (channelStore channel 0x90 false 3)

/-- DMA_ABORT (R301). -/
def execDmaAbort (channel : Fin 256) : State → Host.Outcome State Fault Refusal := onPkgF (channelStore channel 0x90 false 4)

/-- DMA_PRODUCED_ADD (R292, R296, R297): a flagged add, answered with the previous value. -/
def execDmaProducedAdd (channel : Fin 256) (n : DWord) : State → Host.Outcome State Fault Refusal :=
  onPkgF (fun p =>
    let r := homeAtomic p (0x3FF001000000 + channel.val * 0x100 + 0x80) true 0 n.toNat 0 true false 0x200 0
    registerAnswer (r.1, r.2.1) 0x42 (padTo (leBytes 8 r.2.2) 16))

/-- DMA_DST_CONSUMED_STORE (R292, R294). -/
def execDmaDstConsumedStore (channel : Fin 256) (n : DWord) : State → Host.Outcome State Fault Refusal :=
  onPkgF (channelStore channel 0x88 true n.toNat)

/-- DMA_PIECE_COMPLETE (R290, R296 to R298). -/
def execDmaPieceComplete (channel : Fin 256) (piece : Nat) : State → Host.Outcome State Fault Refusal :=
  onPkgF (fun p =>
    match flyingPiece p channel piece with
    | some x => if x.writing || piece == signalPiece then p else movePiece p channel piece none
    | none => p)

/-- DMA_PIECE_ERROR (R299). -/
def execDmaPieceError (channel : Fin 256) (piece : Nat) (side : Fin 2) (address status : Nat) : State → Host.Outcome State Fault Refusal :=
  onPkgF (fun p => pieceFails p channel piece side address status)

/-- DMA_RETRY_TIMER (R299). -/
def execDmaRetryTimer (channel : Fin 256) (piece : Nat) : State → Host.Outcome State Fault Refusal :=
  onPkgF (fun p => retryPiece p channel piece)

/-- DMA_HALT_DRAIN_TIMEOUT (R300). -/
def execDmaHaltDrainTimeout (channel : Fin 256) : State → Host.Outcome State Fault Refusal :=
  onPkgF (fun p => haltDrainOver p channel)

/-- DMA_STOP_DRAINED (R301): the pieces in flight are done. -/
def execDmaStopDrained (channel : Fin 256) : State → Host.Outcome State Fault Refusal :=
  onPkgF (fun p => if chanState p channel = 3 ∧ (chan p channel).pieces = [] then setChanState p channel 4 else p)

end Sys2Proof.Machine
end

