-- ==== Sys2Proof/Machine/MemSem.lean ====
section
/-! DEFINITION. Chapters 14 and 15: requests and responses as they arrive, timeouts, window tables, host requests, and the meanings
of the commands of chapter 14. -/

namespace Sys2Proof.Machine

/-- What a home makes of a fresh request: status, and the data of its answer (R341 to R345, R348). A store to this package's T2 window
goes on as the Tier Manager's. -/
def performRequest (p : Pkg) (k : Packet) : Pkg × Nat × Bytes :=
  match k.type with
  | 1 => let r := homeStore p k.addr (if k.poison then List.replicate k.bytes 0 else k.data) k.poison k.flag false 0x092 k.step (.reply k); (r.1, r.2, [])
  | 2 =>
    let r := homeAtomic p k.addr k.asize k.aop (leAt k.data 0 8) (leAt k.data 8 8) k.flag false 0x092 k.step
    (r.1, r.2.1, padTo (leBytes 8 r.2.2) 16)
  | 3 => let r := homeInc p k.addr k.bytes k.step; (r.1, r.2, [])
  | _ =>
    let marks := ((records 4 k.data).take (k.bytes / 4)).map (fun b => leNat b % 2 ^ 24)
    ({ p with ms := { p.ms with dedup := tmod p.ms.dedup (pairKey k) {} (fun d => marks.foldl Dedup.mark d) } }, 0, [])

/-- Whether an atomic is misaligned or its operation invalid (R342, R357). -/
def badAtomic (k : Packet) : Bool := k.type == 2 && (k.addr % (if k.asize then 8 else 4) != 0 || decide (6 < k.aop))

/-- Whether the answer to a request still waits for its write (R156, R257, R261). -/
def answerPending (p : Pkg) (k : Packet) : Bool :=
  let same := fun (r : Packet) => pairKey r == pairKey k && r.incarnation == k.incarnation && r.tseq == k.tseq
  (p.tm.held ++ p.ms.txns ++ p.ms.failed.map (·.1)).any (fun t => match t.purpose with
    | .reply r => same r
    | _ => false)
  || (List.range 12).any (fun pp => (part p pp).er.heldReturns.any same)

/-- A READ of another package (R341). That of its Weight and Model Store loads a version from here: the package answers 0x0809 where the
address belongs to no version that it holds resident (R274; assumption 19). -/
def servedRead (p : Pkg) (k : Packet) : Pkg × Except Nat Bytes :=
  if k.srcUnit ≠ 0x093 then homeLoad p k.addr k.bytes
  else match servedVersion p k.addr k.bytes with
    | none => (last p Ix.wmLastStatus 0 0x0809, .error 0x0809)
    | some v =>
      let new := !p.wm.serving.any (fun s => s.1 == v.version && s.2.1 == k.src)
      let p := noteServing p k.src v.version
      homeLoad (if new then showProfile p else p) k.addr k.bytes

/-- A request of another package at its home (R340 to R349, R357), come in on link `port`, or on none: 0xFF. -/
def requestArrives (p : Pkg) (port : Nat) (k : Packet) : Pkg :=
  if p.tf.holes.contains k.src then p
  else if malformed k then respondError (logViolation p 2 port k.src 0x0E07 k.step (routeHeader k)) false k 0x0E07
  else if k.type = 0 then
    match servedRead p k with
    | (p, .ok b) => respond p false k 0x40 0 b
    | (p, .error s) => respondError p false k s
  else match arrive p k with
    | (p, .stale) => p
    | (p, .duplicate st v) =>
      if answerPending p k then p
      else if st ≠ 0 then respondError p false k st
      else respond p false k (answerType k.type) 0 (if k.type = 2 then padTo (leBytes 8 v.toNat) 16 else [])
    | (p, .fresh) => match returnTurn p k with
     | some (pp, .hold) => modEr p pp (fun q => { q with heldReturns := q.heldReturns ++ [k] })
     | some (_, .refuse) => respondError (keepAnswer p k 0x0E0B none) false k 0x0E0B
     | _ =>
      let r := performRequest p k
      if r.2.1 = 0 ∧ k.type = 1 ∧ homeDefers p k.addr = true then r.1
      else
      let p := if badAtomic k then logViolation r.1 2 port k.src r.2.1 k.step (routeHeader k) else r.1
      let p := keepAnswer p k r.2.1 (if k.type = 2 then some (BitVec.ofNat 64 (leAt r.2.2 0 8)) else none)
      if r.2.1 ≠ 0 then respondError p false k r.2.1 else respond p false k (answerType k.type) 0 r.2.2

/-- The transaction that a response answers: sent, of its source and tag, and to the package that answers; the host die answers with
this package's own id (R362). -/
def answeredTxn (p : Pkg) (k : Packet) : Option Txn :=
  p.ms.txns.find? (fun t => t.sent && t.source == k.srcUnit && t.tag == k.tag && (if t.toHost then k.src == ownId p else t.dest == k.src))

/-- Takes a transaction out of those outstanding. -/
def dropTxn (p : Pkg) (t : Txn) : Pkg := { p with ms := { p.ms with txns := p.ms.txns.filter (· != t) } }

/-- A response at its source (R337, R353, R357): it completes its transaction; a late one is discarded, and one whose tag was never
given is a violation. -/
def responseArrives (p : Pkg) (port : Nat) (k : Packet) : Pkg :=
  if k.src ≠ ownId p ∧ p.tf.holes.contains k.src = true then p
  else match answeredTxn p k with
    | none =>
      if p.ms.nextTag ≤ k.tag ∨ k.reserved ≠ 0 then logViolation p 2 port k.src 0x0E07 k.step (routeHeader k) else p
    | some t =>
      if k.type = 0x43 then
        let p := if t.toHost then last (bump p Ix.hiHostErrors 0 1) Ix.hiLastStatus 0 k.status else p
        pump (completed (dropTxn p t) t (if k.status = 0 then 0x0E07 else k.status) [])
      else if k.type = answerType t.type then pump (completed (dropTxn p t) t 0 k.data)
      else logViolation p 2 port k.src 0x0E07 k.step (routeHeader k)

/-- Partition whose group a collective packet belongs to: the first that has a record for its group (R327). -/
def collPartition (p : Pkg) (h : CollHeader) : Nat :=
  ((List.range 12).find? (fun pp => !allZero (groupRecord p pp h.group))).getD 0

/-- A packet that a router hands to its package, or sends on (R322). -/
def packetArrives (p : Pkg) (l : Option Nat) (k : Packet) : Pkg :=
  if k.dest ≠ ownId p then route p k l
  else if 0x80 ≤ k.type then
    (if p.tf.holes.contains k.src then p else collArrives p (collPartition p (collOf k)) k.type (collOf k) (k.data.drop 16) (l.map (fun l => (l, channelOf k, k.src))))
  else if 0x40 ≤ k.type then responseArrives p (l.getD 0xFF) k
  else requestArrives p (l.getD 0xFF) k

/-- RESPONSE_TIMEOUT (R351, R354): resent with its TSEQ and tag; with its resends used up it completes with 0x0E0A, and a store is
unresolved. -/
def responseLate (p : Pkg) (dest tag : Nat) : Pkg :=
  match p.ms.txns.findIdx? (fun t => t.sent && t.tag == tag && (if t.toHost then dest == 1024 else t.dest == dest)) with
  | none => p
  | some i =>
    let t := p.ms.txns.getD i {}
    if t.resends < rd p Ix.msResendLimit 0 then
      let p := { p with ms := { p.ms with txns := p.ms.txns.set i { t with resends := t.resends + 1 } } }
      launchTxn (bump p Ix.msResends 0 1) t (packetOf p (floorOf (p.ms.txns.take i) t.destKey t.tseq) t)
    else
      let p := dropTxn p t
      let p := if t.isStore then { p with ms := { p.ms with unresolved := p.ms.unresolved ++ [(t.source, t.destKey, t.tseq)] } } else p
      pump (completed p t 0x0E0A [])

/-- Whether a window record keeps its layout (R339). -/
def windowOk (p : Pkg) (b : Bytes) : Bool :=
  let kind := leAt b 0 1
  let base := leAt b 8 8
  let n := leAt b 16 8
  allZero (slice b 5 3) && decide (leAt b 4 1 < 16) && decide (kind ≤ 2)
  && (kind == 0 || ((decide (leAt b 1 1 < 12) || leAt b 1 1 == 0xFF) && decide (leAt b 2 2 < 1024) && !sameBoard (leAt b 2 2) (ownId p)
      && base % 4096 == 0 && n % 4096 == 0 && leAt b 24 8 % 4096 == 0
      && (if kind = 1 then leAt b 24 8 == 0
          else leAt b 1 1 == 0xFF && decide (0x040000000000 ≤ base) && decide (base + n ≤ 0x054000000000))))

/-- Whether two records of one partition overlap (R339). -/
def windowsMeet (a b : Bytes) : Bool :=
  leAt a 0 1 == leAt b 0 1 && leAt a 0 1 != 0 && leAt a 1 1 == leAt b 1 1 && (leAt a 0 1 == 2 || leAt a 2 2 == leAt b 2 2)
  && overlap (leAt a 8 8) (leAt a 16 8) (leAt b 8 8) (leAt b 16 8)

/-- Whether no two records of a table overlap. -/
def windowsApart : List Bytes → Bool
  | [] => true
  | b :: t => t.all (fun c => !windowsMeet b c) && windowsApart t

/-- A write of `ms_window_table` (R339). -/
def writeWindowTable (p : Pkg) (data : Bytes) : Pkg × Answer :=
  let l := records 32 data
  if data.length % 32 = 0 ∧ data.length ≤ 131072 ∧ l.all (windowOk p) = true ∧ windowsApart l = true then (setWindows p l, accepted)
  else refuse (last p Ix.msLastStatus 0 0x0E06) (invalid 0x0E06)

/-- A write of `ms_host_fence_reset` (R354): bit s resets the fence of host source s. -/
def writeHostFenceReset (p : Pkg) (mask : Nat) : Pkg × Answer :=
  (((List.range 64).filter (fun s => bit mask s)).foldl (fun p s => retireSource p (0x200 + s)) p, accepted)

/-- READ (R341). -/
def execRead (packet : Packet) : State → Host.Outcome State Fault Refusal :=
  onPkgF (fun p => packetArrives p none { packet with type := 0 })

/-- WRITE (R341, R345, R348). -/
def execWrite (packet : Packet) : State → Host.Outcome State Fault Refusal :=
  onPkgF (fun p => packetArrives p none { packet with type := 1 })

/-- ATOMIC (R342, R349). -/
def execAtomic (packet : Packet) : State → Host.Outcome State Fault Refusal :=
  onPkgF (fun p => packetArrives p none { packet with type := 2 })

/-- COUNTER_INC (R343, R69). -/
def execCounterInc (packet : Packet) : State → Host.Outcome State Fault Refusal :=
  onPkgF (fun p => packetArrives p none { packet with type := 3 })

/-- RETIRE (R354). -/
def execRetire (packet : Packet) : State → Host.Outcome State Fault Refusal :=
  onPkgF (fun p => packetArrives p none { packet with type := 4 })

/-- READ_DATA (R337). -/
def execReadData (packet : Packet) : State → Host.Outcome State Fault Refusal :=
  onPkgF (fun p => responseArrives p 0xFF { packet with type := 0x40 })

/-- DONE (R337, R346). -/
def execDone (packet : Packet) : State → Host.Outcome State Fault Refusal :=
  onPkgF (fun p => responseArrives p 0xFF { packet with type := 0x41 })

/-- ATOMIC_RESULT (R337). -/
def execAtomicResult (packet : Packet) : State → Host.Outcome State Fault Refusal :=
  onPkgF (fun p => responseArrives p 0xFF { packet with type := 0x42 })

/-- ERROR (R353, R68, R536). -/
def execError (packet : Packet) : State → Host.Outcome State Fault Refusal :=
  onPkgF (fun p => responseArrives p 0xFF { packet with type := 0x43 })

/-- RESPONSE_TIMEOUT (R351); destination 1,024 is the host die. -/
def execResponseTimeout (dest tag : Nat) : State → Host.Outcome State Fault Refusal := onPkgF (fun p => responseLate p dest tag)

/-- WINDOW_TABLE_WRITE (R339). -/
def execWindowTableWrite (data : Bytes) : State → Host.Outcome State Fault Refusal :=
  onPkgF (entryCommand Ix.msWindowTable 0 (fun p => writeWindowTable p data))

/-- HOST_FENCE_RESET (R354). -/
def execHostFenceReset (mask : DWord) : State → Host.Outcome State Fault Refusal :=
  onPkgF (entryCommand Ix.msHostFenceReset 0 (fun p => writeHostFenceReset p mask.toNat))

/-- CONTROL_REGISTER_WRITE (R237, R292, R341): a store to the control window, by the host die or by package firmware, answered as the
home answers it. -/
def execControlRegisterWrite (address : Nat) (wide : Bool) (value : DWord) (firmware : Bool) : State → Host.Outcome State Fault Refusal :=
  onPkgF (fun p => registerAnswer
    (if (controlOffset address).isSome then homeStore p address (leBytes (if wide then 8 else 4) value.toNat) false false firmware 0x092 0
     else (p, 0x0E05)) 0x41 [])

end Sys2Proof.Machine
end

