-- ==== Sys2Proof/Machine/Fabric.lean ====
section
/-! DEFINITION. Chapter 13: what comes in on the links, lanes and training, notices and holes, and the fabric's own entries. -/

namespace Sys2Proof.Machine

/-- Fewest lit lanes of an up link (0x5411). -/
def minLanes (p : Pkg) : Nat := max 1 (rd p Ix.tfMinLanes 0)

/-- Levels that this package supports (R314): its own and the one before it. -/
def ownLevels : Nat × Nat := (Config.fabricLevel - 1, Config.fabricLevel)

/-- A retraining lane of a link that is up passes its stages and rejoins, or fails (R315): the second failure is final and recorded. -/
def retrainLane (p : Pkg) (l n : Nat) (passed : Bool) : Pkg :=
  if linkState p l ≠ 2 ∨ laneState p l n ≠ 2 then p
  else if passed then
    let p := modLink (setLane p l n 1) l (fun k => { k with laneTries := tput k.laneTries n 0 })
    raise (last (dealLanes p l) Ix.tfLastStatus 0 0x0D03) 0x0D03 0xFF (l * 8 + n) 0
  else
    let tries := tget (link p l).laneTries n 0 + 1
    let p := modLink p l (fun k => { k with laneTries := tput k.laneTries n tries })
    if tries < 2 then p
    else
      let p := recordHistory (setLane p l n 3) 6 1 (l * 8 + n) 0x0D02 0
      raise (last p Ix.tfLastStatus 0 0x0D02) 0x0D02 0xFF (l * 8 + n) 0

/-- With no deputy the lead's loss loses every request of the partition (R185): what this package holds of them is freed. -/
def loseRequests (p : Pkg) (pp : Nat) : Pkg :=
  let handles := ((part p pp).ak.slots.map (·.handle)).eraseDups
  let p := handles.foldl (fun p h => freeRequest p pp h) p
  modSv (modSc p pp (fun q => { q with requests := [], tables := [[], []], tokens := [[], []], masks := [[], []], notices := [], starting := none }))
    pp (fun q => { q with working := [] })

/-- The deputy takes a stream over (R185, R233): it counts as not playing until the host reports to the new lead. -/
def takeStream (pp : Nat) (p : Pkg) (s : StreamState) : Pkg :=
  putStream (modStream p pp s.stream (fun _ =>
    { head := s.head, bound := s.bound, emitted := s.emitted, playedUs := s.playedUs, reportNs := s.reportNs, state := s.state,
      level := s.level, known := true, validSeen := true })) pp s.stream

/-- The lead is lost (R185): the deputy leads, and goes on with the states that the lead last sent it. -/
def deputyLeads (p : Pkg) (pp : Nat) : Pkg :=
  let d := rd p Ix.scDeputyPackage pp
  if d = 0xFFFF then loseRequests p pp
  else
    let p := wr p Ix.scLeadPackage pp d
    if d ≠ ownId p then p
    else (part p pp).sc.deputyStreams.foldl (takeStream pp) <| modSc p pp (fun q => { q with
      requests := q.deputyStates.map (fun r =>
        { handle := r.handle, sequence := r.sequence, record := r.record, version := r.version, promptDone := r.promptDone,
          generated := r.generated, committed := r.committed, lastToken := r.lastToken, drafts := r.drafts, cancelled := r.cancelled,
          given := r.given, parked := r.parked }),
      generations := q.deputyStates.foldl (fun t r => tput t (r.handle % 65536) ((r.handle / 65536 + 1) % 65536)) q.generations,
      tenants := q.deputyLevels.foldl (fun t e => tmod t e.1 {} (fun x => { x with level := e.2, refillNs := p.now })) q.tenants })

/-- A member of a rack partition is lost (R443, R447, R449): rollback of cause 5, and at the lead the wait for a re-cut; requests that
hold pages end with 0x1215 at the recomputation's clean close. -/
def memberGone (id : Nat) (p : Pkg) (pp : Nat) : Pkg :=
  if !isRack p pp || !(membersOf p pp).contains id || pcState p pp == 0 || pcState p pp == 1 then p
  else
    let p := if leadOf p pp = id then deputyLeads p pp else p
    let p := causeRollback p pp 5 0xFF 0xFF 0 0
    if !isLead p pp then p
    else
      let p := modSc p pp (fun q => { q with requests := q.requests.map (fun r =>
        if r.ended.isNone && decide (0 < r.committed) then { r with given := some (r.given.getD 0x1215) } else r) })
      recomputeIfReady (requireRecut p pp id) pp

/-- A package becomes a hole (R324, R325, R461). -/
def losePackage (p : Pkg) (id : Nat) : Pkg :=
  if p.tf.holes.contains id || decide (16 ≤ p.tf.holes.length) || id == ownId p then p
  else (List.range 12).foldl (memberGone id) (listHole p id)

/-- Holes that the suspect notices in force make (R324, R461). -/
def listSuspected (p : Pkg) : Pkg := (newHoles p).foldl losePackage p

/-- A link goes down (R316); this package's own suspect notice may be the last that covers a hole (R324). -/
def loseLink (p : Pkg) (l st : Nat) : Pkg := listSuspected (takeDown p l st)

/-- `q` follows `p`: where link l went down between them, the holes that the notices now make are listed (R324). -/
def holesAfter (p q : Pkg) (l : Nat) : Pkg := if linkState p l = 2 ∧ linkState q l ≠ 2 then listSuspected q else q

/-- A flit arrives (R309 to R311): its packets are delivered or sent on. -/
def takeFlit (p : Pkg) (l : Nat) (flit : Bytes) : Pkg :=
  let r := receiveFlit p l flit
  r.2.foldl (fun p k => packetArrives p (some l) k) (holesAfter p r.1 l)

/-- A lit lane fails (R315, R316): it leaves the stripe and retrains, and a parked lane takes its place; below the fewest lit lanes the
link goes down. -/
def failLane (p : Pkg) (l n : Nat) : Pkg :=
  if linkState p l ≠ 2 ∨ laneState p l n ≠ 0 then p
  else
    let p := setLane p l n 2
    if (lanesIn p l 0).length < minLanes p then loseLink p l 1 else dealLanes p l

/-- Whether a package is listed as a hole, or a suspect notice is about it (R324, R332). -/
def suspected (p : Pkg) (id : Nat) : Bool := p.tf.holes.contains id || p.tf.suspects.any (fun s => neighbour p s.1 s.2 == id)

/-- A link comes up (R313, R315, R324): lanes that passed are lit, the others retrain; a hole at its other end is cleared with a return
notice. It stays in training until its partner's record is here and enough lanes pass. -/
def linkTrained (p : Pkg) (l passed : Nat) : Pkg :=
  match (link p l).partner with
  | none => p
  | some c =>
    let good := (List.range 8).filter (fun n => laneState p l n != 3 && bit passed n)
    if !training p l || !c.licensed || decide (good.length < minLanes p) then p
    else
      let p := (List.range 8).foldl (fun p n => if laneState p l n = 3 then p else setLane p l n (if bit passed n then 1 else 2)) p
      let p := dealLanes (wr p Ix.tfLinkState l 2) l
      let id := idOf c.x c.y c.z
      let p := if suspected p id then flood (clearHole p id) 2 id 0 else p
      drainLink (checkDirection p (dirOf l)) l

/-- R314's check holds a link down until it retrains. -/
def holdMisfit (p : Pkg) (l status : Nat) : Pkg :=
  last (wr (allLanes (modLink p l (fun k => { k with misfit := true })) l 1) Ix.tfLinkState l 4) Ix.tfLastStatus 0 status

/-- A partner's capability record in stage 5 (R314): the highest common level, or the link is held down. The check is repeated when a link
that it held down retrains. -/
def takeCapability (p : Pkg) (l : Nat) (c : Capability) : Pkg :=
  let p := if (link p l).misfit then beginTraining p l else p
  let level := min c.highest ownLevels.2
  let other := opposite (dirOf l) * 4 + l % 4
  if !training p l then p
  else if level < max c.lowest ownLevels.1 then holdMisfit p l 0x0D05
  else if idOf c.x c.y c.z ≠ neighbour p (ownId p) (dirOf l) ∨ c.link ≠ other then
    holdMisfit p l 0x0D06
  else wr (modLink p l (fun k => { k with partner := some c })) Ix.tfLinkPartner l (idOf c.x c.y c.z + c.link * 2 ^ 10 + level * 2 ^ 16)

/-- The partner asks for a profile (R317). -/
def partnerProfile (p : Pkg) (l : Nat) (full : Bool) : Pkg :=
  let p := modLink p l (fun k => { k with partner := k.partner.map (fun c => { c with full := full }) })
  if linkState p l = 2 then dealLanes p l else p

/-- Every link retrains (R319, R332): one that carries no traffic at once, those that are up one by one. -/
def retrainAll (p : Pkg) : Pkg :=
  let p := (List.range 24).foldl (fun p l => if training p l || (link p l).misfit then beginTraining p l else p) p
  { p with tf := { p.tf with retraining := none, toRetrain := (List.range 24).filter (fun l => linkState p l == 2) } }

/-- A write of `tf_axis_remap` (R319); bits of no field are ignored (R2). -/
def writeAxisRemap (p : Pkg) (dim v : Nat) : Pkg × Answer :=
  (retrainAll (applyCoords (wr p Ix.tfAxisRemap dim (bits v 15 15 * 2 ^ 15 + bits v 12 8 * 2 ^ 8 + bits v 4 0))), accepted)

/-- A write of `tf_link_hold` (R311): 1 holds the link down, 0 lets it train. -/
def writeLinkHold (p : Pkg) (l v : Nat) : Pkg × Answer :=
  if 1 < v then refuse p (invalid 0x1006)
  else
    let p := wr p Ix.tfLinkHold l v
    if linkState p l = 5 then (p, accepted)
    else if v = 1 then
      (if linkState p l = 2 then loseLink p l 4
       else wr (allLanes (modLink p l (fun k => { k with misfit := false })) l 1) Ix.tfLinkState l 4, accepted)
    else if linkState p l = 4 then (beginTraining (modLink p l (fun k => { k with quarantineNs := none })) l, accepted)
    else (p, accepted)

/-- A write of `tf_lane_retrain` (R315). -/
def writeLaneRetrain (p : Pkg) (l n v : Nat) : Pkg × Answer :=
  if v ≠ 1 then refuse p (invalid 0x1006)
  else
    let p := modLink (setLane p l n 2) l (fun k => { k with laneTries := tput k.laneTries n 0 })
    if linkState p l ≠ 2 then (p, accepted)
    else if (lanesIn p l 0).length < minLanes p then (loseLink p l 1, accepted)
    else (dealLanes p l, accepted)

/-- A suspect notice, or one that links are back (R324): forwarded once. -/
def takeSuspect (p : Pkg) (n : SuspectNotice) : Pkg :=
  let e := (n.sender, n.direction)
  if n.linksBack then
    (if p.tf.suspects.contains e then
       flood { p with tf := { p.tf with suspects := p.tf.suspects.filter (· != e) } } 4 n.sender n.direction
     else p)
  else if p.tf.suspects.contains e then p
  else listSuspected (flood { p with tf := { p.tf with suspects := p.tf.suspects ++ [e] } } 1 n.sender n.direction)

/-- A return notice (R324, R332): forwarded by a router that listed or suspected the package. -/
def takeReturn (p : Pkg) (id : Nat) : Pkg := if suspected p id then flood (clearHole p id) 2 id 0 else p

/-- A departure notice (R325): the package is a hole at once. -/
def takeDeparture (p : Pkg) (id : Nat) : Pkg :=
  if id = ownId p ∨ p.tf.departed.contains id = true then p
  else losePackage (flood { p with tf := { p.tf with departed := p.tf.departed ++ [id] } } 3 id 0) id

/-- A departing package parks its links (R325). -/
def parkLinks (p : Pkg) : Pkg :=
  if !p.tf.departing then p
  else (List.range 24).foldl (fun p l =>
    if linkState p l = 2 then handBack p l 0
    else if training p l then wr p Ix.tfLinkState l 0 else p) p

/-- Whether a group record keeps R327; record 0 is zero. -/
def groupOk (p : Pkg) (b : Bytes) (g : Nat) : Bool :=
  let kind := leAt b 0 1
  let ext := [leAt b 4 1, leAt b 5 1, leAt b 6 1]
  if g = 0 then allZero b
  else if kind = 0 then allZero (slice b 7 25)
  else decide (kind ≤ 2) && allZero (slice b 7 25) && decide (leAt b 1 1 < 96) && inTorus p (leAt b 2 2) && decide (leAt b 2 2 < 1024)
    && (List.range 3).all (fun d => decide (1 ≤ ext.getD d 0) && decide (ext.getD d 0 ≤ ringSize p d))
    && (kind == 2 || (ext.filter (fun n => decide (1 < n))).length == 1)

/-- A write of `tf_collective_groups` (R327). -/
def writeGroups (p : Pkg) (pp : Nat) (b : Bytes) : Pkg × Answer :=
  if b.length % 32 = 0 ∧ b.length ≤ 8192 ∧ ((records 32 b).zipIdx).all (fun e => groupOk p e.1 e.2) = true then
    shadowed p pp Ix.tfCollectiveGroups (.bytes b)
  else refuse (last p Ix.tfLastStatus 0 0x0D08) (invalid 0x0D08)

/-- FLIT_RECEIVE (R309). -/
def execFlitReceive (link : Fin 24) (flit : Bytes) : State → Host.Outcome State Fault Refusal := onPkgF (fun p => takeFlit p link flit)

/-- REPLAY_TIMEOUT (R309, R316). -/
def execReplayTimeout (l : Fin 24) : State → Host.Outcome State Fault Refusal :=
  onPkgF (fun p => if linkState p l = 2 ∧ (link p l).unacked ≠ [] then holesAfter p (replayRound p l) l else p)

/-- ACK_IDLE_TIMER (R309): an IDLE flit carries the acknowledgement. -/
def execAckIdleTimer (l : Fin 24) : State → Host.Outcome State Fault Refusal :=
  onPkgF (fun p => if linkState p l = 2 then sendFlit p l 0 0 0 false 15 [] else p)

/-- LANE_FAILURE (R315). -/
def execLaneFailure (link : Fin 24) (lane : Fin 8) : State → Host.Outcome State Fault Refusal := onPkgF (fun p => failLane p link lane)

/-- LANE_RETRAIN_COMPLETE (R315). -/
def execLaneRetrainComplete (link : Fin 24) (lane : Fin 8) (passed : Bool) : State → Host.Outcome State Fault Refusal :=
  onPkgF (fun p => retrainLane p link lane passed)

/-- LINK_TRAINING_COMPLETE (R313). -/
def execLinkTrainingComplete (link : Fin 24) (passed : Byte) : State → Host.Outcome State Fault Refusal :=
  onPkgF (fun p => linkTrained p link passed.toNat)

/-- CAPABILITY_RECORD (R314). -/
def execCapabilityRecord (link : Fin 24) (record : Capability) : State → Host.Outcome State Fault Refusal :=
  onPkgF (fun p => takeCapability p link record)

/-- PROFILE_CHANGE (R317). -/
def execProfileChange (link : Fin 24) (partnerFull : Bool) : State → Host.Outcome State Fault Refusal :=
  onPkgF (fun p => partnerProfile (showProfile p) link partnerFull)

/-- AXIS_REMAP_WRITE (R319). -/
def execAxisRemapWrite (dimension : Fin 3) (value : BitVec 16) : State → Host.Outcome State Fault Refusal :=
  onPkgF (entryCommand Ix.tfAxisRemap dimension (fun p => writeAxisRemap p dimension value.toNat))

/-- LINK_HOLD_WRITE (R311). -/
def execLinkHoldWrite (link : Fin 24) (value : Byte) : State → Host.Outcome State Fault Refusal :=
  onPkgF (entryCommand Ix.tfLinkHold link (fun p => writeLinkHold p link value.toNat))

/-- LANE_RETRAIN_WRITE (R315). -/
def execLaneRetrainWrite (link : Fin 24) (lane : Fin 8) (value : Byte) : State → Host.Outcome State Fault Refusal :=
  onPkgF (fun p => answered { Ix.tfLaneRetrain with index := Ix.tfLaneRetrain.index + link } lane (writeLaneRetrain p link lane value.toNat))

/-- SUSPECT_NOTICE (R324). -/
def execSuspectNotice (link : Fin 24) (notice : SuspectNotice) : State → Host.Outcome State Fault Refusal :=
  onPkgF (fun p => if linkState p link = 2 then takeSuspect p notice else p)

/-- RETURN_NOTICE (R324). -/
def execReturnNotice (link : Fin 24) (package : Nat) : State → Host.Outcome State Fault Refusal :=
  onPkgF (fun p => if linkState p link = 2 then takeReturn p package else p)

/-- DEPARTURE_NOTICE (R325). -/
def execDepartureNotice (link : Fin 24) (package : Nat) : State → Host.Outcome State Fault Refusal :=
  onPkgF (fun p => if linkState p link = 2 then takeDeparture p package else p)

/-- DEPARTURE_LINK_PARK (R325). -/
def execDepartureLinkPark : State → Host.Outcome State Fault Refusal := onPkgF parkLinks

/-- COLLECTIVE_GROUPS_WRITE (R327). -/
def execCollectiveGroupsWrite (pp : Fin 12) (data : Bytes) : State → Host.Outcome State Fault Refusal :=
  onPkgF (entryCommand Ix.tfCollectiveGroups pp (fun p => writeGroups p pp data))

end Sys2Proof.Machine
end

