-- ==== Sys2Proof/Machine/HostMgmt.lean ====
section
/-! DEFINITION. Chapter 15: the UCIe modules, requests of the host die, sideband frames, the event ring, the management ports and rack
messages. -/

namespace Sys2Proof.Machine

/-- With every module down, host-bound transactions complete at once with 0x0F05 (R366). -/
def noModule (p : Pkg) : Pkg :=
  if anyModuleUp p then p
  else
    let gone := p.ms.txns.filter (·.toHost)
    let p := { p with ms := { p.ms with txns := p.ms.txns.filter (fun t => !t.toHost) } }
    pump (gone.foldl (fun p t => completeHere p t 0x0F05) p)

/-- A module goes down into a state (R365). -/
def dropModule (p : Pkg) (m st : Nat) : Pkg :=
  if !moduleUp p m then p
  else
    let p := bump (wr p Ix.hiModuleState m st) Ix.hiModuleDownCount m 1
    noModule (raise (last p Ix.hiLastStatus 0 0x0F03) 0x0F03 0xFF m 0)

/-- A module that trains returns to service at a rate, with lanes repaired (R361, R365). -/
def restoreModule (p : Pkg) (m rate repaired : Nat) : Pkg :=
  if rd p Ix.hiModuleState m ≠ 1 ∨ moduleRateOk p rate = false then p
  else
    let p := wr (wr (wr p Ix.hiModuleState m (if repaired = 0 then 2 else 3)) Ix.hiModuleRate m rate) Ix.hiModuleRepairedLanes m repaired
    drainEvents 1025 (raise (last p Ix.hiLastStatus 0 0x0F04) 0x0F04 0xFF m 0)

/-- A write of `hi_module_hold` (0x5C06). -/
def writeModuleHold (p : Pkg) (m v : Nat) : Pkg × Answer :=
  if 1 < v then refuse p (invalid 0x1006)
  else
    let p := wr p Ix.hiModuleHold m v
    if v = 1 then (if moduleUp p m then dropModule p m 4 else wr p Ix.hiModuleState m 4, accepted)
    else if rd p Ix.hiModuleState m = 4 then (wr p Ix.hiModuleState m 1, accepted)
    else (p, accepted)

/-- No module has returned (R366): the host die is lost. -/
def hostLost (p : Pkg) : Pkg := if anyModuleUp p then p else startDrydown p none true

/-- Whether a request of the host die keeps R363. -/
def hostFormOk (p : Pkg) (k : Packet) : Bool :=
  k.src == ownId p && decide (0x200 ≤ k.srcUnit) && decide (k.srcUnit < 0x240) && k.incarnation == 0 && k.tseq == 0 && k.floor == 0

/-- The transaction that the Host Interface makes of a host request (R363). -/
def hostTxn (p : Pkg) (k : Packet) : Txn :=
  let pp := rd p Ix.msHostSourcePartition (k.srcUnit - 0x200)
  { source := k.srcUnit, partition := if pp = 0xFF then 0xFE else pp, dest := k.dest, type := k.type, addr := k.addr,
    data := if k.poison then List.replicate k.bytes 0 else k.data, bytes := k.bytes, flag := k.flag, poison := k.poison, step := k.step,
    asize := k.asize, aop := k.aop, purpose := .hostRequest k.srcUnit k.tag }

/-- A request of the host die (R363, R342, R355). -/
def hostAsks (p : Pkg) (k : Packet) : Pkg :=
  if !anyModuleUp p then p
  else
    let p := bump p Ix.hiHostRequests 0 1
    if !hostFormOk p k then
      respondError (logViolation (last p Ix.hiLastStatus 0 0x0F06) 3 0xFF k.srcUnit 0x0F06 k.step (routeHeader k)) true k 0x0F06
    else if malformed k then respondError (logViolation p 3 0xFF k.srcUnit 0x0E07 k.step (routeHeader k)) true k 0x0E07
    else if absorbing p (some (rd p Ix.msHostSourcePartition (k.srcUnit - 0x200))) then respondError p true k 0x0EE1
    else if k.type = 2 ∧ k.addr % (if k.asize then 8 else 4) ≠ 0 then respondError (countFailure p 0x0E04) true k 0x0E04
    else if k.type = 2 ∧ 6 < k.aop then respondError (countFailure p 0x0E05) true k 0x0E05
    else if k.dest = ownId p then send p (hostTxn p k)
    else sendFabric p (hostTxn p k)

/-- A sideband frame (R367): the datagram that it carries, unless it is dropped and counted. -/
def takeFrame (p : Pkg) (b : Bytes) : Pkg :=
  let n := leAt b 0 2
  let d := slice b 8 n
  if b.length < 8 ∨ 1280 < n ∨ leAt b 2 1 ≠ 0 ∨ d.length ≠ n ∨ (crc32 d).toNat ≠ leAt b 4 4 then bump p Ix.hiSidebandDropped 0 1
  else emit p (.datagram d)

/-- The host has consumed entries up to a count (R369). -/
def eventConsumed (p : Pkg) (n : Nat) : Pkg := drainEvents 1025 { p with hi := { p.hi with consumed := n } }

/-- Adds 1 to one of the four counts of `mp_rack_dropped` (0x1028). -/
def rackDrop (p : Pkg) (cause : Nat) : Pkg :=
  touch { p with mp := { p.mp with rackDropped := p.mp.rackDropped.zipIdx.map (fun e => if e.2 = cause then (e.1 + 1) % 2 ^ 32 else e.1) } }
    Ix.mpRackDropped 0

/-- A rack message as its receiver takes it (R371 to R373): `f` acts on one that is accepted. -/
def rackArrives (port type : Nat) (m : RackMessage) (f : Pkg → Pkg) (p : Pkg) : Pkg :=
  if rd p Ix.mpPortState port ≠ 2 then p
  else
    let p := bump p Ix.mpRxDatagrams port 1
    let key := (m.sender * 256 + m.type) * 2 ^ 32 + m.keyEpoch
    if m.magic ≠ 0xC1A7 ∨ m.version ≠ 1 ∨ m.type ≠ type ∨ m.reserved ≠ 0 ∨ m.bodyBytes ≠ m.body.length ∨ 1404 < m.bodyBytes then
      rackDrop (bump p Ix.mpRxDropped port 1) 0
    else if !m.tagVerifies || !((p.flash.rackKeys.take 2).map (·.1)).contains m.keyEpoch then rackDrop (bump p Ix.mpRxDropped port 1) 1
    else if m.sequence ≤ tget p.mp.rackSeen key 0 then rackDrop p 2
    else if m.type = 1 ∧ m.sender ≠ 0xFFFF then rackDrop p 3
    else f { p with mp := { p.mp with rackSeen := tput p.mp.rackSeen key m.sequence } }

/-- Last cap number accepted (R374): of the cap that waits for its tick, or of the one in force. -/
def lastCapEpoch (p : Pkg) : Nat :=
  match p.pw.capPending with
  | some (_, some e, _) => e
  | _ => rd p Ix.pwCapEpoch 0

/-- The body of a CAP message (R374). -/
def takeCap (p : Pkg) (b : Bytes) : Pkg :=
  let n := leAt b 12 2
  let targets := (records 2 (b.drop 16)).map leNat
  if n ≤ 512 ∧ b.length = 16 + 2 * n ∧ (n = 0 ∨ targets.contains (ownId p) = true) ∧ lastCapEpoch p < leAt b 0 4 then
    (acceptCap p (leAt b 4 4) (some (leAt b 0 4)) (leAt b 8 4)).1
  else p

/-- UCIE_MODULE_DOWN (R365). -/
def execUcieModuleDown (module : Fin 4) : State → Host.Outcome State Fault Refusal := onPkgF (fun p => dropModule p module 1)

/-- UCIE_MODULE_RESTORED (R365). -/
def execUcieModuleRestored (module : Fin 4) (rate repaired : Nat) : State → Host.Outcome State Fault Refusal :=
  onPkgF (fun p => restoreModule p module rate repaired)

/-- HOST_DIE_LOSS (R366). -/
def execHostDieLoss : State → Host.Outcome State Fault Refusal := onPkgF hostLost

/-- HOST_REQUEST (R363). -/
def execHostRequest (packet : Packet) : State → Host.Outcome State Fault Refusal := onPkgF (fun p => hostAsks p packet)

/-- SIDEBAND_FRAME (R367). -/
def execSidebandFrame (payloads : Bytes) : State → Host.Outcome State Fault Refusal := onPkgF (fun p => takeFrame p payloads)

/-- EVENT_RING_ANNOUNCE (R369): 1 µs after the first unannounced entry. -/
def execEventRingAnnounce : State → Host.Outcome State Fault Refusal := onPkgF announceEvents

/-- EVENT_CONSUMED_STORE (R369). -/
def execEventConsumedStore (n : DWord) : State → Host.Outcome State Fault Refusal :=
  onPkgF (fun p => registerAnswer (eventConsumed p n.toNat, 0) 0x41 [])

/-- MGMT_LINK_LOSS (R371). -/
def execMgmtLinkLoss (port : Fin 2) : State → Host.Outcome State Fault Refusal := onPkgF (fun p => wr p Ix.mpPortState port 0)

/-- MGMT_PORT_UP (R370, R371). -/
def execMgmtPortUp (port : Fin 2) (fec : Fin 3) : State → Host.Outcome State Fault Refusal :=
  onPkgF (fun p => wr (wr p Ix.mpPortState port 2) Ix.mpPortFec port fec)

/-- CAP (R373, R374). -/
def execCap (port : Fin 2) (message : RackMessage) : State → Host.Outcome State Fault Refusal :=
  onPkgF (rackArrives port 1 message (fun p => takeCap p message.body))

/-- DIGEST (R373, R375, R451). -/
def execDigest (port : Fin 2) (message : RackMessage) : State → Host.Outcome State Fault Refusal :=
  onPkgF (rackArrives port 2 message (fun p => if digestBodyOk message.body then takeDigests p message.sender message.body else p))

/-- REPLICA (R373, R452): counted, with no action. -/
def execReplica (port : Fin 2) (message : RackMessage) : State → Host.Outcome State Fault Refusal :=
  onPkgF (rackArrives port 3 message (fun p =>
    if message.body.length = 32 then { p with mp := { p.mp with replicasSeen := p.mp.replicasSeen + 1 } } else p))

end Sys2Proof.Machine
end

