-- ==== Sys2Proof/Machine/DictRead.lean ====
section
/-! DEFINITION. Chapter 16: finding entries, and the value in force of every entry (R380 to R382, R385, R412). -/

namespace Sys2Proof.Machine

/-- What an index and subindex name (R380, R405 step 2). -/
inductive Found where
  | noObject
  | noSub (e : Entry)
  | entry (e : Entry) (u : Nat)

/-- Looks an entry up (R380, R389). -/
def findEntry (index sub : Nat) : Found :=
  match entries.find? (fun e => decide (e.index ≤ index) && decide (index < e.index + e.span)) with
  | none => .noObject
  | some e => if sub < e.subs then .entry e (index - e.index) else .noSub e

/-- The lowest key of an entry above a key (R401, NEXT). -/
def keyAfter (key : Nat) (e : Entry) : Option Nat :=
  let i := key / 256
  let s := key % 256
  if i < e.index then some (e.index * 256)
  else if e.index + e.span ≤ i then none
  else if s + 1 < e.subs then some (i * 256 + s + 1)
  else if i + 1 < e.index + e.span then some ((i + 1) * 256)
  else none

/-- The next entry present after an index and subindex (R401). -/
def nextKey (key : Nat) : Option Nat :=
  (entries.filterMap (keyAfter key)).foldl (fun m k => match m with
    | none => some k
    | some n => some (min n k)) none

/-- Bytes of ring entries as a BLOB: entry k lies at k mod 64 (R264, R357); `l` the last entries, oldest first, `head` their count so
far. -/
def ringBytes (head : Nat) (l : List Bytes) : Bytes :=
  if l.length < 64 then l.flatMap id
  else (List.range 64).flatMap (fun i => l.getD ((i + 64 - head % 64) % 64) [])

/-- An entry of the violation log (R357). -/
def Violation.bytes (v : Violation) : Bytes :=
  leBytes 8 v.timeNs ++ leBytes 4 v.step ++ leBytes 1 v.kind ++ leBytes 1 v.port ++ leBytes 2 v.partner ++ leBytes 2 v.status
    ++ leBytes 2 v.repeats ++ padTo (v.header.take 12) 12

/-- A fault-history record (R454). -/
def HistRecord.bytes (r : HistRecord) : Bytes :=
  leBytes 8 r.timeNs ++ leBytes 4 r.poweredS ++ leBytes 4 r.step ++ leBytes 1 r.kind ++ leBytes 1 r.origin ++ leBytes 2 r.unit
    ++ leBytes 2 r.status ++ leBytes 1 (if r.permanent then 1 else 0) ++ [0] ++ leBytes 4 r.startCount ++ leBytes 4 0

/-- A record of `mp_sessions` (0x1022). -/
def sessionBytes (p : Pkg) (s : Session) : Bytes :=
  leBytes 4 s.number ++ leBytes 1 s.role ++ leBytes 1 s.transport ++ leBytes 2 s.credential ++ leBytes 4 ((p.now - s.lastNs) / 1000000)
    ++ leBytes 4 s.requests

/-- A row mask of 65,520 bits as 8,190 bytes (R200, 0x3423). -/
def maskBytes (rows : List Nat) : Bytes :=
  (List.range 8190).map (fun i => BitVec.ofNat 8 (((List.range 8).filter (fun b => rows.contains (8 * i + b))).map (2 ^ ·)).sum)

/-- Free space of T0 and of T1 (R249): what is present, less fixed ranges, anchored extents and units lent. -/
def t0Free (p : Pkg) : Nat :=
  let present := ((List.range 12).map (fun r =>
    if regionHidden p r || rd p Ix.hbStackState r == 4 then 0
    else if rd p Ix.hbStackState r = 2 ∨ rd p Ix.hbStackState r = 3 then 62 * 2 ^ 30 else 64 * 2 ^ 30)).sum
  let low := fun (e : Nat × Nat) => decide (e.1 < 0x010000000000)
  present - (((List.range 12).flatMap (fixedRanges p)).filter low).foldl (fun n e => n + e.2) 0
    - ((allExtents p).filter low).foldl (fun n e => n + e.2) 0
def t1Free (p : Pkg) : Nat :=
  let present := ((List.range 16).map (fun c => if rd p Ix.ddChannelState c = 0 then rd p Ix.ddDimmBytes c else 0)).sum
  let high := fun (e : Nat × Nat) => decide (0x010000000000 ≤ e.1)
  present - (((List.range 12).flatMap (fixedRanges p)).filter high).foldl (fun n e => n + e.2) 0
    - ((allExtents p).filter high).foldl (fun n e => n + e.2) 0 - (lentUnits p).length * 0x40000000

/-- The scalar in force at an entry (R382). -/
def scalarAt (p : Pkg) (e : Entry) (u sub : Nat) : Nat :=
  match e.index with
  | 0x1004 => Config.serialNumber % 2 ^ 64
  | 0x1007 => Config.protocolLevel % 256 * 256 + (Config.protocolLevel - 1) % 256
  | 0x2000 => regionState p sub
  | 0x4410 => t0Free p
  | 0x4411 => t1Free p
  | 0x5417 => Config.fabricLevel % 256 * 256 + (Config.fabricLevel - 1) % 256
  | 0x7011 => p.now
  | 0x7012 => p.now / 1000000
  | _ => rdAt p e u sub

/-- The bytes in force at an entry (R382). -/
def bytesAt (p : Pkg) (e : Entry) (sub : Nat) : Bytes :=
  match e.index with
  | 0x1001 => asciiBytes "Barriward"
  | 0x1002 => asciiBytes "Cralidon CL9416"
  | 0x1003 => asciiBytes "BW-CL9416"
  | 0x1005 => Config.siliconStep
  | 0x1012 => padTo (Config.macAddress sub) 6
  | 0x1022 => p.mp.sessions.flatMap (sessionBytes p)
  | 0x1028 => p.mp.rackDropped.flatMap (leBytes 4)
  | 0x3002 => padTo (rdB p e sub) 12
  | 0x3422 => tenantState p sub (rd p Ix.scTenantSelect sub)
  | 0x3423 => maskBytes (maskOf p sub 0) ++ maskBytes (maskOf p sub 1)
  | 0x3819 => (stream p sub (rd p Ix.seStreamSelect sub)).bytes
  | 0x4011 => p.wm.jobs.flatMap Job.bytes
  | 0x4015 => p.wm.versions.flatMap (registryRecord p)
  | 0x4418 => ringBytes (rd p Ix.tmLossHead 0) p.tm.losses
  | 0x5805 => ringBytes (rd p Ix.msViolationHead 0) (p.ms.violations.map Violation.bytes)
  | 0x6006 => if (rdB p e sub).isEmpty then (List.range 5).flatMap (fun _ => leBytes 4 0 ++ leBytes 4 65536 ++ leBytes 1 1 ++ List.replicate 7 0)
      else rdB p e sub
  | 0x6015 => (part p sub).pc.waitNs.flatMap (leBytes 8)
  | 0x6018 => regionOwnerBytes p
  | 0x6440 => p.flash.history.flatMap HistRecord.bytes
  | 0x680C => p.flash.defects.flatMap Defect.bytes
  | 0x6900 => identityDigest
  | 0x6901 => identityEd25519
  | 0x6902 => identityMldsa
  | 0x6903 => Config.identityCertificate
  | 0x6916 => licencesBytes p
  | 0x6920 => if p.flash.activeSlot = 0 then p.flash.slotB else p.flash.slotA
  | 0x6931 => p.bt.report
  | 0x7010 => throttleBytes p
  | _ => rdB p e sub

/-- Whether a type is a scalar (R381). -/
def EType.scalar (t : EType) : Bool := t.width != 0

/-- Bytes of a value as they go out (R381). -/
def DVal.out (t : EType) : DVal → Bytes
  | .num n => leBytes (t.width / 8) n
  | .bytes b => b

/-- The value in force at an entry (R382, R385). -/
def valueAt (p : Pkg) (e : Entry) (u sub : Nat) : DVal := if e.type.scalar then .num (scalarAt p e u sub) else .bytes (bytesAt p e sub)

/-- The value that waits for a boundary (R283, R385): the shadow, or one that an armed switch holds. -/
def waitingAt (p : Pkg) (e : Entry) (sub : Nat) : Option DVal :=
  match shadowOf p e sub with
  | some v => some v
  | none => if e.unit = .partition then (tfind p.wm.arms sub).bind (fun a => tfind a.held (keyAt e 0 sub)) else none

/-- A 12-byte entry of a TELEMETRY message (R376); nothing for what is not a readable scalar. -/
def telemetryEntry (p : Pkg) (r : Bytes) : Bytes :=
  match findEntry (leAt r 0 2) (leAt r 2 1) with
  | .entry e u =>
    if e.access = .wo ∨ e.type.scalar = false then []
    else leBytes 2 (leAt r 0 2) ++ leBytes 1 (leAt r 2 1) ++ leBytes 1 e.type.code ++ leBytes 8 (scalarAt p e u (leAt r 2 1))
  | _ => []

/-- Step of the header of a message that belongs to no step: that of the lowest partition that is configured. -/
def anyStep (p : Pkg) : Nat := (((List.range 12).find? (fun pp => pcState p pp != 0)).map (stepOf p)).getD 0

/-- TELEMETRY_PERIOD (R376): the listed entries, at most 116 a message. -/
def sendTelemetry (p : Pkg) : Pkg :=
  if (rdB p Ix.mpTelemetryDestination 0).isEmpty then p
  else
    let l := ((records 4 (rdB p Ix.mpTelemetryList 0)).map (telemetryEntry p)).filter (fun b => !b.isEmpty)
    (List.range ((l.length + 115) / 116)).foldl (fun p i =>
      let part := (l.drop (116 * i)).take 116
      sendRack p 4 (anyStep p) (leBytes 2 part.length ++ leBytes 2 0 ++ leBytes 4 (rd p Ix.mpTelemetryPeriodMs 0) ++ part.flatMap id)) p

/-- TELEMETRY_PERIOD (R376). -/
def execTelemetryPeriod : State → Host.Outcome State Fault Refusal := onPkgF sendTelemetry

end Sys2Proof.Machine
end

