-- ==== Sys2Proof/Machine/DictTables.lean ====
section
/-! DEFINITION. The owners' checks of written tables: recipe overrides (R103, R104), the router layer table (R138, R139), engine
configurations (R204, R205), the ring table (R225), credentials (R397) and the tables of the management ports (R412). -/

namespace Sys2Proof.Machine

/-- Whether an address lies in T0, or in T0 or T1. -/
def inT0 (a : Nat) : Bool := decide (a < 0x00C000000000)
def inT0T1 (a : Nat) : Bool := inT0 a || (decide (0x010000000000 ≤ a) && decide (a < 0x030000000000))

/-- One override record (R103, R104). Where it selects act_gran without act_fmt, any value from 0 to 3 is taken, and none is held against the
descriptor's own ACT_FMT (assumption 171: the model's choice). -/
def overrideOk (p : Pkg) (pp : Nat) (r : Bytes) : Bool :=
  let f := leAt r 1 1
  let only := fun (b v : Nat) (ok : Bool) => if bit f b then ok else v == 0
  decide (f < 64) && partOfBlock p (leAt r 0 1) == some pp && decide (leAt r 0 1 < 96)
  && only 0 (leAt r 2 1) (decide (1 ≤ leAt r 2 1) && decide (leAt r 2 1 ≤ 4))
  && only 1 (leAt r 3 1) (if bit f 0 then qgranOk (actCode (leAt r 2 1)) (leAt r 3 1) else decide (leAt r 3 1 < 4))
  && only 2 (leAt r 8 4) (bits (leAt r 8 4) 28 28 == 0 && decide (bits (leAt r 8 4) 31 29 ≤ 5))
  && only 3 (leAt r 12 1) (decide (leAt r 12 1 < 4))
  && only 4 (leAt r 13 1) (decide (5 ≤ leAt r 13 1) && decide (leAt r 13 1 ≤ 10))
  && only 5 (leAt r 16 8) (leAt r 16 8 % 64 == 0 && inT0T1 (leAt r 16 8))
  && only 5 (leAt r 24 4) (decide (leAt r 24 4 < 2 ^ 24)) && leAt r 28 4 == 0

/-- Whether no two records share block, descriptor and version (R104). -/
def overridesApart : List Bytes → Bool
  | [] => true
  | r :: t => t.all (fun q => !(leAt r 0 1 == leAt q 0 1 && leAt r 4 4 == leAt q 4 4 && leAt r 14 2 == leAt q 14 2)) && overridesApart t

/-- Whether an override set is accepted (R103, R104). -/
def overridesOk (p : Pkg) (pp : Nat) (b : Bytes) : Bool :=
  let l := records 32 (b.drop 32)
  b.length == 32 + 32 * leAt b 4 2 && decide (leAt b 4 2 ≤ 256) && allZero (slice b 6 26) && l.all (overrideOk p pp) && overridesApart l

/-- Whether the return areas of a record lie where R139 lets them. -/
def returnAreasOk (l : RouterLayer) : Bool :=
  if inT0 l.retBase then decide (l.retBase + l.sources * l.srcStride ≤ 0x00C000000000)
  else (List.range l.sources).all (fun s => match place (l.retBase + s * l.srcStride) with
    | .sram _ o => decide (o + l.srcStride ≤ 0x00C00000)
    | _ => false)

/-- One record of a router layer table (R138, R139); of a layer that is not routed only the reserved fields count. -/
def routerRecordOk (b : Bytes) : Bool :=
  let l := routerLayer b
  let pitch := alignUp (l.hidden * (if l.retFmt = 0xB then 4 else 2)) 64
  let overlay := bits l.mode 1 0
  let depth := bits l.mode 3 2
  allZero (slice b 46 2) && allZero (slice b 56 8) && decide (l.mode < 64)
  && (l.experts == 0 ||
    (decide (l.experts ≤ 512) && decide (1 ≤ l.topK) && decide (l.topK ≤ 8) && decide (l.topK ≤ l.experts)
     && (if overlay = 1 then depth != 0 else overlay == 0 && depth == 0)
     && decide (1 ≤ l.sources) && decide (l.sources ≤ 64) && decide (l.counter < 64) && [9, 10, 11].contains l.rowFmt && [9, 11].contains l.retFmt
     && l.hidden % 16 == 0 && decide (16 ≤ l.hidden) && decide (l.hidden ≤ 65536) && l.srcStride % 64 == 0 && l.planeStride % 64 == 0
     && l.placement % 64 == 0 && inT0 l.placement && l.sourceList % 64 == 0 && inT0 l.sourceList
     && l.counters % 64 == 0 && inT0T1 l.counters && l.retBase % 64 == 0
     && decide (l.topK * l.planeStride ≤ l.srcStride) && decide (pitch ≤ l.planeStride) && returnAreasOk l))

/-- Whether a router layer table is accepted (R138, R139). -/
def routerTableOk (b : Bytes) : Bool :=
  b.length == 32 + 64 * leAt b 4 2 && decide (leAt b 4 2 ≤ 1024) && allZero (slice b 6 26) && (records 64 (b.drop 32)).all routerRecordOk

/-- One block record of a configuration (R204, R205). -/
def configBlockOk (p : Pkg) (pp : Nat) (e : Bytes × Nat) : Bool :=
  let r := e.1
  let entry := fun (b : Bytes) => entryOk b && bit (leAt b 14 1) 1
  allZero (slice r 1 31) && (if partOfBlock p e.2 = some pp then
    (leAt r 0 1 == 1 || leAt r 0 1 == 2) && entry (slice r 32 32) && entry (slice r 64 32)
  else leAt r 0 1 == 0)

/-- Prefill blocks of each configuration. -/
def prefillCounts (b : Bytes) : List Nat :=
  (records 9216 (b.drop 32)).map (fun c => ((records 96 c).filter (fun r => leAt r 0 1 == 2)).length)

/-- Whether a list rises strictly. -/
def rising : List Nat → Bool
  | a :: b :: t => decide (a < b) && rising (b :: t)
  | _ => true

/-- Whether a configuration set is accepted (R204, R205). -/
def configsOk (p : Pkg) (pp : Nat) (b : Bytes) : Bool :=
  let n := leAt b 4 1
  let pre := prefillCounts b
  b.isEmpty ||
  (b.length == 32 + 9216 * n && decide (1 ≤ n) && decide (n ≤ 8) && decide (leAt b 5 1 ≤ 1) && allZero (slice b 6 26)
   && (records 9216 (b.drop 32)).all (fun c => ((records 96 c).zipIdx).all (configBlockOk p pp))
   && (if leAt b 5 1 = 0 then decide (2 ≤ n) && pre.getD 0 1 == 0 && rising pre else n == 1 && pre.getD 0 1 == 0))

/-- Whether a ring table is accepted (R225). -/
def ringTableOk (b : Bytes) : Bool :=
  b.length % 32 == 0 && decide (b.length ≤ 512) && (records 32 b).all (fun r =>
    leAt r 0 8 % 64 == 0 && decide (64 ≤ leAt r 8 4) && decide (leAt r 8 4 ≤ 65536) && isPow2 (leAt r 8 4) && leAt r 12 4 == 0
    && leAt r 16 8 % 8 == 0 && allZero (slice r 24 8))

/-- One credential record (R397); an invalid one holds nothing that is used. Reserved fields are not checked (R2). -/
def credentialOk (r : Bytes) : Bool := !bit (leAt r 1 1) 0 || (decide (1 ≤ leAt r 0 1) && decide (leAt r 0 1 ≤ 3))

/-- A credential record with its reserved fields and bits as they read: zero (R2, R397). -/
def credentialClean (r : Bytes) : Bytes :=
  r.take 1 ++ leBytes 1 (leAt r 1 1 % 4) ++ leBytes 2 (leAt r 2 2 % 4096) ++ leBytes 4 0 ++ slice r 8 1984 ++ List.replicate 56 0

/-- A credential of the table in force, if it is VALID (R397). -/
def credentialAt (p : Pkg) (i : Nat) : Option Bytes := ((records 2048 (rdB p Ix.mpCredentials 0))[i]?).filter (fun r => bit (leAt r 1 1) 0)

/-- Whether the credential table holds a VALID record (R398). -/
def anyCredential (p : Pkg) : Bool := (records 2048 (rdB p Ix.mpCredentials 0)).any (fun r => bit (leAt r 1 1) 0)

/-- The package's direction key and IV of a session (R395). -/
def Session.packageKey (s : Session) : Bytes := slice s.keys 32 32
def Session.packageIv (s : Session) : Bytes := slice s.keys 76 12

/-- Nonce of a sequence number under an IV (R392). -/
def dapNonce (iv : Bytes) (sequence : Nat) : Bytes := iv.zipWith (· ^^^ ·) (List.replicate 4 0 ++ leBytes 8 sequence)

/-- A datagram that the package sends in a session (R391, R392): the header, then the sealed body. -/
def sealDatagram (s : Session) (kind : Nat) (body : Bytes) : Bytes :=
  let h := leBytes 2 0xD1C7 ++ leBytes 1 s.level ++ leBytes 1 kind ++ leBytes 4 s.number ++ leBytes 8 s.sendSequence
  h ++ Config.aesGcm s.packageKey (dapNonce s.packageIv s.sendSequence) h body

/-- A RESPONSE body (R400). -/
def Response.bytes (r : Response) : Bytes :=
  leBytes 4 r.requestId ++ leBytes 2 r.abort ++ leBytes 2 r.status ++ leBytes 1 r.type ++ leBytes 1 (if r.pending then 1 else 0)
    ++ leBytes 2 r.data.length ++ leBytes 4 r.generation ++ leBytes 8 r.total ++ r.data

/-- Ends a session (R408): the other end gets a CLOSE. -/
def endSession (p : Pkg) (n : Nat) : Pkg :=
  match p.mp.sessions.find? (fun s => s.number == n) with
  | none => p
  | some s => emit (touch { p with mp := { p.mp with sessions := p.mp.sessions.filter (fun s => s.number != n) } } Ix.mpSessions 0)
      (.close n (sealDatagram s 6 []))

/-- A write of `mp_credentials` (R397, R398, R408): event 0x1021; sessions whose credential is removed or changed end, and with the first
VALID record those opened without one, other than observers over the sideband. -/
def writeCredentials (p : Pkg) (b : Bytes) : Pkg × Answer :=
  if b.length % 2048 ≠ 0 ∨ 32768 < b.length ∨ (records 2048 b).all credentialOk = false then refuse p (invalid 0x1006)
  else
    let before := fun (i : Nat) => credentialAt p i
    let first := !anyCredential p
    let b := (records 2048 b).flatMap credentialClean
    let p := keep (wrB p Ix.mpCredentials 0 b) Ix.mpCredentials 0 (.bytes b)
    let p := raise0 (last p Ix.mpLastStatus 0 0x1021) 0x1021
    let gone := p.mp.sessions.filter (fun s =>
      if s.credential = 0xFFFF then first && anyCredential p && !(s.role == 1 && s.transport == 2)
      else credentialAt p s.credential != before s.credential)
    (gone.foldl (fun p s => endSession p s.number) p, accepted)

/-- One record of the telemetry list (0x1019): a scalar entry. Its reserved byte is not checked (R2). -/
def telemetryRecordOk (r : Bytes) : Bool :=
  match findEntry (leAt r 0 2) (leAt r 2 1) with
  | .entry e _ => e.type.scalar
  | _ => false

/-- The telemetry list with its reserved bytes as they read: zero (R2). -/
def telemetryClean (b : Bytes) : Bytes := (records 4 b).flatMap (fun r => r.take 3 ++ [0])

/-- Whether the bytes of a plain table of range 0x1000 are accepted (R412). -/
def mpTableOk (index : Nat) (b : Bytes) : Bool :=
  match index with
  | 0x1013 => b.isEmpty || (b.length == 17 && decide (1 ≤ leAt b 16 1) && decide (leAt b 16 1 ≤ 128))
  | 0x1015 => b.length % 16 == 0 && decide (b.length ≤ 128) && (records 16 b).all (fun g => leAt g 0 1 == 0xFF)
  | 0x1016 => b.isEmpty || b.length == 16
  | 0x1017 => b.isEmpty || b.length == 18
  | _ => b.length % 4 == 0 && decide (b.length ≤ 1024) && (records 4 b).all telemetryRecordOk

end Sys2Proof.Machine
end

