-- ==== Sys2Proof/Machine/DictWrite.lean ====
section
/-! DEFINITION. Chapter 16: what a write of every writable entry does once it is accepted (R383, R384, R405 steps 6 to 9), and the
writes that reach their entry as commands of their own. -/

namespace Sys2Proof.Machine

/-- Index ranges that a `counters_clear` entry clears (R387 and the entry tables); none for any other index. -/
def clearedBy (index : Nat) : Option (List (Nat × Nat)) :=
  match index with
  | 0x1030 => some [(0x101A, 0x101C), (0x1025, 0x1028)]
  | 0x2205 => some [(0x2014, 0x2019), (0x2100, 0x211B)]
  | 0x2420 => some [(0x2410, 0x2413)]
  | 0x2820 => some [(0x2810, 0x2813), (0x2815, 0x2815)]
  | 0x2C10 => some [(0x2C02, 0x2C08)]
  | 0x3020 => some [(0x3010, 0x3017)]
  | 0x3440 => some [(0x3432, 0x3437)]
  | 0x3820 => some [(0x3810, 0x3816)]
  | 0x4030 => some [(0x4020, 0x4023)]
  | 0x4420 => some [(0x4414, 0x4416)]
  | 0x4840 => some [(0x4802, 0x4804), (0x4806, 0x4806), (0x4810, 0x481B)]
  | 0x4C10 => some [(0x4C02, 0x4C05)]
  | 0x5020 => some [(0x5006, 0x5009), (0x5011, 0x5011)]
  | 0x54A0 => some [(0x5433, 0x5439), (0x5441, 0x5443)]
  | 0x5820 => some [(0x5810, 0x5817)]
  | 0x5C20 => some [(0x5C02, 0x5C03), (0x5C05, 0x5C05), (0x5C14, 0x5C1A)]
  | 0x6020 => some [(0x6010, 0x6016)]
  | 0x6460 => some [(0x6421, 0x6426), (0x6432, 0x6433), (0x6435, 0x6435)]
  | 0x7040 => some [(0x7024, 0x7024)]
  | _ => none

/-- Sets the counters of index ranges back to their defaults. -/
def clearRanges (p : Pkg) (l : List (Nat × Nat)) : Pkg :=
  { p with dict := { p.dict with vals := p.dict.vals.filter (fun e => !l.any (fun r => decide (r.1 ≤ e.1 / 256) && decide (e.1 / 256 ≤ r.2))) } }

/-- Counters that are not plain entries, or that a `counters_clear` names beside its counters. -/
def clearOther (p : Pkg) (index : Nat) : Pkg :=
  match index with
  | 0x1030 => { p with mp := { p.mp with rackDropped := [0, 0, 0, 0] } }
  | 0x2420 => (List.range 12).foldl (fun p pp => wrB (wr p Ix.qrAlertHead pp 0) Ix.qrAlertLog pp []) p
  | 0x6020 => (List.range 12).foldl (fun p pp => modPc p pp (fun q => { q with waitNs := [0, 0, 0, 0, 0] })) p
  | 0x7040 => { p with pw := { p.pw with reasons := p.pw.reasons.map (fun r => { r with cumulativeNs := 0 }) } }
  | _ => p

/-- A write of a `counters_clear` entry (R387): 1 clears, every other value is refused. -/
def clearCounters (p : Pkg) (index v : Nat) : Pkg × Answer :=
  match clearedBy index with
  | none => refuse p { abort := 1, status := 0x1001 }
  | some l => if v = 1 then (clearOther (clearRanges p l) index, accepted) else refuse p (invalid 0x1006)

/-- Step 6 of R405: the licence that a value needs (R265, R178, R432). -/
def licenceOf (p : Pkg) (e : Entry) (sub v : Nat) : Option Answer :=
  match e.index with
  | 0x4408 | 0x440B => if v = 1 ∧ granted p 1 = false then some { abort := 9, status := 0x09E3 } else none
  | 0x3003 => if 4 < v ∧ granted p 3 = false then some { abort := 9, status := 0x05E3 } else none
  | 0x6420 => if (v = 4 ∨ v = 5) ∧ granted p 4 = false then some { abort := 9, status := 0x12E3 } else none
  | _ => none

/-- A value taken with no more than its own range to keep (R383). -/
def plainNum (p : Pkg) (e : Entry) (u sub v : Nat) : Pkg × Answer :=
  if inRange e v = false ∨ (e.type = .f32 ∧ isNan32 v = true) then refuse p (invalid 0x1006)
  else if e.apply = .b then shadowed p sub e (.num v)
  else if e.kept then (keep (wrAt p e u sub v) e sub (.num (v % 2 ^ e.type.width)), accepted)
  else (wrAt p e u sub v, accepted)

/-- A value taken when a test holds. -/
def numIf (ok : Bool) (p : Pkg) (e : Entry) (u sub v : Nat) : Pkg × Answer :=
  if ok then plainNum p e u sub v else refuse p (invalid 0x1006)

/-- A write of 1 that acts, where every other value is refused. -/
def onOne (p : Pkg) (v : Nat) (f : Pkg → Pkg × Answer) : Pkg × Answer := if v = 1 then f p else refuse p (invalid 0x1006)

/-- A write of `mp_session_close` (R408). -/
def closeSession (p : Pkg) (n : Nat) : Pkg × Answer :=
  if p.mp.sessions.any (fun s => s.number == n) then (endSession p n, accepted) else refuse p (invalid 0x1006)

/-- Configurations that `sc_split_wake_config` may name (0x3416). -/
def wakeConfigs (p : Pkg) (pp : Nat) : Nat :=
  if (rdB p Ix.scEngineConfigs pp).isEmpty then 8 else configCount (rdB p Ix.scEngineConfigs pp)

/-- A partition number or 0xFF. -/
def partitionOrNone (v : Nat) : Bool := decide (v < 12) || v == 0xFF

/-- The owner's checks and the effect of a scalar write behind steps 6 to 8. -/
def ownerNum (p : Pkg) (e : Entry) (u sub v : Nat) (verdict : FirmwareVerdict) : Pkg × Answer :=
  match e.index with
  | 0x1014 => numIf (decide (v % 4096 ≤ 4094) && (!bit v 15 || v % 4096 != 0)) p e u sub (v % 4096 + v / 32768 * 32768)
  | 0x1023 => closeSession p v
  | 0x2130 => cellHideWrite p u sub v
  | 0x2801 => let r := numIf (inT0 v) p e u sub v; (showPool r.1 sub, r.2)
  | 0x340F | 0x6404 => numIf (inT0 v) p e u sub v
  | 0x2802 => let r := numIf (v % max 1 (rd p Ix.akPageSlotBytes sub) == 0) p e u sub v; (showPool r.1 sub, r.2)
  | 0x2803 => let r := plainNum p e u sub v; (showPool r.1 sub, r.2)
  | 0x2806 => numIf (decide (v ≤ 0x3F800000) || v == 0x80000000) p e u sub v
  | 0x3000 | 0x3404 | 0x340B | 0x3800 => numIf (inT0T1 v) p e u sub v
  | 0x3400 | 0x3401 => numIf (decide (v < 1024) || v == 0xFFFF) p e u sub v
  | 0x340A => onOne p v (fun p => (intakeReset p sub, accepted))
  | 0x3416 => numIf (decide (1 ≤ v) && decide (v < wakeConfigs p sub)) p e u sub v
  | 0x3804 => numIf (decide (v < rd p Ix.seWarnMs sub)) p e u sub v
  | 0x4012 => writeUnload p v
  | 0x4401 => writeSpillPool p sub false v
  | 0x4402 => writeSpillPool p sub true v
  | 0x4404 => numIf (decide (rd p Ix.tmT0LowWaterPm 0 < v)) p e u sub v
  | 0x4406 => numIf (decide (rd p Ix.tmT1LowWaterPm 0 < v)) p e u sub v
  | 0x440E =>
    if inRange e v then
      let r := writePackageWide p v
      (r.1, { pending := r.2 })
    else refuse p (invalid 0x1006)
  | 0x441A => writeReclaimUnits p v
  | 0x4830 => writeFailChannel p false sub v
  | 0x4C0A => writeFailChannel p true sub v
  | 0x5001 =>
    if (120 ≤ sub ∧ sub < 128) ∨ 248 ≤ sub then refuse (last p Ix.dmChannelLastStatus sub 0x0C02) (invalid 0x0C02)
    else numIf (partitionOrNone v) p e u sub v
  | 0x5400 =>
    let ring := fun (n m : Nat) => decide (1 ≤ n) && decide (n ≤ m)
    numIf (ring (v % 256) 4 && ring (v / 256 % 256) 16 && ring (v / 65536 % 256) 16) p e u sub (v % 2 ^ 24)
  | 0x5402 => writeAxisRemap p sub v
  | 0x5410 => let r := plainNum p e u sub v; (showProfile r.1, r.2)
  | 0x543B => writeLinkHold p sub v
  | 0x5480 => writeLaneRetrain p u sub v
  | 0x5808 => numIf (partitionOrNone v) p e u sub v
  | 0x5809 => writeHostFenceReset p v
  | 0x5C06 => writeModuleHold p sub v
  | 0x5C08 => numIf ([8, 16, 32].contains v) p e u sub v
  | 0x5C0F => let r := plainNum p e u sub v; (drainEvents 1025 r.1, r.2)
  | 0x6000 => writeRegionMask p sub v
  | 0x6002 => pcCommand p sub v
  | 0x6003 => numIf (inT0 v && v % 64 == 0) p e u sub v
  | 0x6420 => (match auditFractionCheck p sub v with
    | some a => refuse (last p Ix.ruLastStatus sub a.status) a
    | none => shadowed p sub e (.num v))
  | 0x6443 => onOne p v clearPackageFlag
  | 0x6450 => onOne p v (fun p => (startDrydown p none false, accepted))
  | 0x680E => removeDefect p v
  | 0x6810 =>
    if v ≠ 1 ∧ v ≠ 2 then refuse p (invalid 0x1006)
    else if rd p Ix.btStartState 0 ≠ 8 then refuse p { abort := 7, status := 0x13E0 }
    else (p, accepted)
  | 0x6915 => removeLicence p v
  | 0x6921 => onOne p v (fun p => commitFirmware p verdict)
  | 0x7006 => acceptCap p v none 0
  | 0x7009 => numIf (v == 0 || (decide (800 ≤ v) && decide (v ≤ 2800))) p e u sub v
  | _ => if (clearedBy e.index).isSome then clearCounters p e.index v else plainNum p e u sub v

/-- A byte string taken when a test holds: the shadow of class B, in force otherwise, kept where the entry says so. -/
def bytesIf (ok : Bool) (status : Nat) (p : Pkg) (e : Entry) (sub : Nat) (b : Bytes) : Pkg × Answer :=
  if ok = false then refuse p (invalid status)
  else if e.apply = .b then shadowed p sub e (.bytes b)
  else if e.kept then (keep (wrB p e sub b) e sub (.bytes b), accepted)
  else (wrB p e sub b, accepted)

/-- A write of `ru_declare_lost` (R461). -/
def declareLost (p : Pkg) (b : Bytes) : Pkg × Answer :=
  if b.length % 2 ≠ 0 ∨ 32 < b.length then refuse p (invalid 0x1006)
  else (((records 2 b).map leNat).foldl (fun p id => if id = ownId p then p else takeDeparture p id) p, accepted)

/-- Writes of the tables that commands of their own also write. -/
def writeOverrides (p : Pkg) (pp : Nat) (b : Bytes) : Pkg × Answer := bytesIf (overridesOk p pp b) 0x0220 p Ix.qrRecipeOverrides pp b
def writeLayerTable (p : Pkg) (pp : Nat) (b : Bytes) : Pkg × Answer :=
  if layerTableOk p pp b then shadowed p pp Ix.akLayerTable (.bytes b) else refuse (last p Ix.akLastStatus pp 0x030A) (invalid 0x030A)
def writeRouterTable (p : Pkg) (pp : Nat) (b : Bytes) : Pkg × Answer :=
  if routerTableOk b then shadowed p pp Ix.erLayerTable (.bytes b) else refuse (last p Ix.erLastStatus pp 0x0401) (invalid 0x0401)
def writeConfigs (p : Pkg) (pp : Nat) (b : Bytes) : Pkg × Answer :=
  if configsOk p pp b then shadowed p pp Ix.scEngineConfigs (.bytes b) else refuse (last p Ix.scLastStatus pp 0x060A) (invalid 0x060A)
def writeTenants (p : Pkg) (pp : Nat) (b : Bytes) : Pkg × Answer :=
  if tenantTableOk b then shadowed p pp Ix.scTenantTable (.bytes b) else refuse (last p Ix.scLastStatus pp 0x060B) (invalid 0x060B)
def writeRings (p : Pkg) (pp : Nat) (b : Bytes) : Pkg × Answer :=
  if ringTableOk b then (wrB p Ix.seRingTable pp b, accepted) else refuse (last p Ix.seLastStatus pp 0x0701) (invalid 0x0701)

/-- The owner's checks and the effect of a byte string behind steps 6 to 8. -/
def ownerBytes (p : Pkg) (e : Entry) (sub : Nat) (b : Bytes) (image : ImageHead) (signaturesVerify : Bool) : Pkg × Answer :=
  match e.index with
  | 0x1024 => writeCredentials p b
  | 0x2408 => writeOverrides p sub b
  | 0x2800 => writeLayerTable p sub b
  | 0x2C00 => writeRouterTable p sub b
  | 0x3002 => bytesIf (b.length == 12) 0x1006 p e sub b
  | 0x3402 => writeConfigs p sub b
  | 0x3419 => bytesIf (b.length % 2 == 0 && decide (b.length ≤ 2048)) 0x1006 p e sub b
  | 0x3420 => writeTenants p sub b
  | 0x3806 => writeRings p sub b
  | 0x4001 => writeSwitch p sub b
  | 0x4004 => bytesIf (b.length % 2 == 0 && decide (b.length ≤ 12) && ((records 2 b).map leNat).all (fun id => decide (id < 1024))) 0x1006 p e sub b
  | 0x4010 => writeLoadCommand p b image
  | 0x4400 => writeFixedRanges p sub b
  | 0x5420 => writeGroups p sub b
  | 0x5800 => writeWindowTable p b
  | 0x6001 => bytesIf (rackPartitionOk p b) 0x1107 p e sub b
  | 0x6006 => bytesIf (regulatorsOk p sub b) 0x1103 p e sub b
  | 0x6431 => bytesIf (replicaTableOk p b) 0x120C p e sub b
  | 0x6452 => declareLost p b
  | 0x6910 => writeCustomerKeys p b
  | 0x6912 => installRackKey p b
  | 0x1019 => bytesIf (mpTableOk 0x1019 b) 0x1006 p e sub (telemetryClean b)
  | 0x6914 => installLicence p b signaturesVerify
  | 0x6930 => attest p b
  | _ => bytesIf (mpTableOk e.index b) 0x1006 p e sub b

/-- Steps 6 to 9 of R405 for a write of a whole value. -/
def entryWrite (p : Pkg) (e : Entry) (u sub : Nat) (v : DVal) (q : DapRequest) : Pkg × Answer :=
  match v with
  | .num n =>
    (match licenceOf p e sub n with
     | some a => refuseNoted p e u sub a
     | none => gated p e u sub (fun p => ownerNum p e u sub n q.verdict))
  | .bytes b => gated p e u sub (fun p => ownerBytes p e sub b q.image q.signaturesVerify)

/-- COUNTERS_CLEAR (R387): a write of 1 to a subsystem's `counters_clear` entry. -/
def execCountersClear (index : BitVec 16) (value : Byte) : State → Host.Outcome State Fault Refusal :=
  onPkgF (fun p =>
    let r := clearCounters p index.toNat value.toNat
    emit r.1 (.answer index.toNat 0 r.2.abort r.2.status r.2.pending))

/-- CELL_HIDE_WRITE (R50). -/
def execCellHideWrite (region : Fin 12) (cell : Fin 64) (value : Byte) : State → Host.Outcome State Fault Refusal :=
  onPkgF (fun p =>
    let r := gated p Ix.cellHide region cell (fun p => cellHideWrite p region cell value.toNat)
    emit r.1 (.answer (Ix.cellHide.index + region) cell r.2.abort r.2.status r.2.pending))

/-- INTAKE_RESET (R187, R215): a write of 1 to `sc_intake_reset`. -/
def execIntakeReset (pp : Fin 12) (value : Byte) : State → Host.Outcome State Fault Refusal :=
  onPkgF (entryCommand Ix.scIntakeReset pp (fun p => onOne p value.toNat (fun p => (intakeReset p pp, accepted))))

/-- RECIPE_OVERRIDE_WRITE (R104). -/
def execRecipeOverrideWrite (pp : Fin 12) (data : Bytes) : State → Host.Outcome State Fault Refusal :=
  onPkgF (entryCommand Ix.qrRecipeOverrides pp (fun p => writeOverrides p pp data))

/-- LAYER_TABLE_WRITE (R112). -/
def execLayerTableWrite (pp : Fin 12) (data : Bytes) : State → Host.Outcome State Fault Refusal :=
  onPkgF (entryCommand Ix.akLayerTable pp (fun p => writeLayerTable p pp data))

/-- ROUTER_LAYER_TABLE_WRITE (R139). -/
def execRouterLayerTableWrite (pp : Fin 12) (data : Bytes) : State → Host.Outcome State Fault Refusal :=
  onPkgF (entryCommand Ix.erLayerTable pp (fun p => writeRouterTable p pp data))

/-- TENANT_TABLE_WRITE (R201). -/
def execTenantTableWrite (pp : Fin 12) (data : Bytes) : State → Host.Outcome State Fault Refusal :=
  onPkgF (entryCommand Ix.scTenantTable pp (fun p => writeTenants p pp data))

/-- ENGINE_CONFIGS_WRITE (R205). -/
def execEngineConfigsWrite (pp : Fin 12) (data : Bytes) : State → Host.Outcome State Fault Refusal :=
  onPkgF (entryCommand Ix.scEngineConfigs pp (fun p => writeConfigs p pp data))

/-- RING_TABLE_WRITE (R225). -/
def execRingTableWrite (pp : Fin 12) (data : Bytes) : State → Host.Outcome State Fault Refusal :=
  onPkgF (entryCommand Ix.seRingTable pp (fun p => writeRings p pp data))

/-- DECLARE_LOST_WRITE (R461). -/
def execDeclareLostWrite (data : Bytes) : State → Host.Outcome State Fault Refusal :=
  onPkgF (entryCommand Ix.ruDeclareLost 0 (fun p => declareLost p data))

/-- SESSION_CLOSE_WRITE (R408). -/
def execSessionCloseWrite (session : Word) : State → Host.Outcome State Fault Refusal :=
  onPkgF (entryCommand Ix.mpSessionClose 0 (fun p => closeSession p session.toNat))

/-- CREDENTIALS_WRITE (R397, R398, R408). -/
def execCredentialsWrite (data : Bytes) : State → Host.Outcome State Fault Refusal :=
  onPkgF (entryCommand Ix.mpCredentials 0 (fun p => writeCredentials p data))

end Sys2Proof.Machine
end

