-- ==== Sys2Proof/Machine/DictServer.lean ====
section
/-! DEFINITION. Chapter 16: the Dictionary Access Protocol (R390 to R411): datagrams, handshakes, sessions, requests and transfers. -/

namespace Sys2Proof.Machine

/-- Counts a datagram that a management port receives, drops and sends (0x101A to 0x101C); the sideband, transport 2, has none. -/
def rxCount (p : Pkg) (t : Nat) : Pkg := if t < 2 then bump p Ix.mpRxDatagrams t 1 else p
def rxDrop (p : Pkg) (t : Nat) : Pkg := if t < 2 then bump p Ix.mpRxDropped t 1 else p
def txCount (p : Pkg) (t n : Nat) : Pkg := if t < 2 then bump p Ix.mpTxDatagrams t n else p

/-- Changes an open session. -/
def modSession (p : Pkg) (n : Nat) (f : Session → Session) : Pkg :=
  { p with mp := { p.mp with sessions := p.mp.sessions.map (fun s => if s.number = n then f s else s) } }

/-- First 12 bytes of a datagram (R391), as a violation's header. -/
def dapHeader (level kind session sequence : Nat) : Bytes :=
  leBytes 2 0xD1C7 ++ leBytes 1 level ++ leBytes 1 kind ++ leBytes 4 session ++ leBytes 4 sequence

/-- A violation of a dictionary client (R407). -/
def clientViolation (p : Pkg) (t partner abort : Nat) (header : Bytes) : Pkg :=
  logViolation p 4 (if t < 2 then t else 0xFF) partner (0x1000 + abort) (anyStep p) header

/-- An ERROR that ends a handshake (R406, R407). -/
def refuseHandshake (p : Pkg) (t client session abort : Nat) (header : Bytes) : Pkg :=
  let p := last (bump (txCount p t 1) Ix.mpAbortsSent 0 1) Ix.mpLastStatus 0 (0x1000 + abort)
  let p := emit p (.errorDatagram t client session abort)
  if abort = 0x13 then raise0 (bump (clientViolation p t 0xFFFF abort header) Ix.mpAuthFailures 0 1) 0x1020 else p

/-- Highest common protocol level (R410); none when there is none. -/
def commonLevel (lowest highest : Nat) : Option Nat :=
  let own := Config.protocolLevel % 256
  let l := min highest own
  if lowest ≤ l ∧ own - 1 ≤ l then some l else none

/-- Random bytes of the package: free values (assumption 7). -/
def drawRandom (p : Pkg) (n : Nat) : Pkg × Bytes :=
  ({ p with mp := { p.mp with randomDrawn := p.mp.randomDrawn + n } }, (List.range n).map (fun i => Config.random (p.mp.randomDrawn + i)))

/-- Whether a datagram is a HELLO (R391, R393). -/
def helloOk (d : Bytes) : Bool :=
  d.length == 1272 && leAt d 0 2 == 0xD1C7 && leAt d 3 1 == 1 && leAt d 4 4 == 0 && leAt d 8 8 == 0

/-- The 88 key bytes of a session (R395): HKDF with the transcript hash as salt, over both secrets, for "DAP1". -/
def sessionKeys (transcript x25519 kem : Bytes) : Bytes := hkdf256 transcript (x25519 ++ kem) [0x44, 0x41, 0x50, 0x31] 88

/-- The answer to a well-formed HELLO (R393 to R395): four datagrams carry the reply. -/
def openHandshake (p : Pkg) (t client level : Nat) (d : Bytes) : Pkg :=
  let n := p.mp.nextSession
  let r := drawRandom p 96
  let own := slice r.2 32 32
  let kem := Config.kemEncapsulate (slice d 88 1184) (slice r.2 64 32)
  let reply := r.2.take 32 ++ padTo (Config.x25519Public own) 32 ++ padTo kem.1 1088
  let header := leBytes 2 0xD1C7 ++ leBytes 1 level ++ leBytes 1 2 ++ leBytes 4 n ++ leBytes 8 0
  let transcript := sha256 (d ++ header ++ reply)
  let secret := padTo (Config.x25519 own (slice d 56 32)) 32
  let shared := padTo kem.2 32
  let h : Handshake := { number := n, transport := t, client, role := leAt d 16 1, credential := leAt d 18 2, level, transcript,
                         x25519Secret := secret, kemSecret := shared, keys := sessionKeys transcript secret shared,
                         helloNs := p.now, sendSequence := 4 }
  let p := { r.1 with mp := { r.1.mp with handshakes := r.1.mp.handshakes ++ [h], nextSession := n + 1 } }
  emit (txCount p t 4) (.helloReply n (reply ++ dualSign p transcript ++ [0, 0, 0]))

/-- HELLO (R393, R396, R410). -/
def takeHello (p : Pkg) (t client : Nat) (d : Bytes) : Pkg :=
  let p := rxCount p t
  if !helloOk d then rxDrop p t
  else match commonLevel (leAt d 17 1) (leAt d 2 1) with
    | none => refuseHandshake p t client 0 0x14 (d.take 12)
    | some level =>
      if leAt d 16 1 = 0 ∨ 3 < leAt d 16 1 then refuseHandshake p t client 0 0x13 (d.take 12)
      else if 8 ≤ p.mp.handshakes.length then refuseHandshake p t client 0 0x12 (d.take 12)
      else openHandshake p t client level d

/-- Whether a handshake's credential allows its role (R396 to R398). -/
def roleAllowed (p : Pkg) (h : Handshake) (signaturesVerify : Bool) : Bool :=
  if h.credential = 0xFFFF then h.transport == 2 && (h.role == 1 || !anyCredential p)
  else match credentialAt p h.credential with
    | some r => signaturesVerify && decide (h.role ≤ leAt r 0 1)
    | none => false

/-- Whether there is room for another session of a role (R396). -/
def sessionRoom (p : Pkg) (role : Nat) : Bool :=
  decide (p.mp.sessions.length < rd p Ix.mpSessionLimit 0)
  && (role != 3 || decide ((p.mp.sessions.filter (fun s => s.role == 3)).length < 2))

/-- The session that a handshake opens, with the answer that opens it (R393). Every number up to that of the last fragment of FINISH has
been used: the client sends nothing else before (R392, R399). -/
def openSession (p : Pkg) (h : Handshake) (sequence : Nat) : Pkg :=
  let s : Session := { number := h.number, role := h.role, transport := h.transport, client := h.client, credential := h.credential,
                       level := h.level, keys := h.keys, highest := sequence, anySeen := true,
                       seen := (List.range 65).filterMap (fun i => if i ≤ sequence then some (sequence - i) else none), sendSequence := h.sendSequence + 1, lastNs := p.now,
                       responses := [{}] }
  emit (txCount (touch { p with mp := { p.mp with sessions := p.mp.sessions ++ [s] } } Ix.mpSessions 0) h.transport 1)
    (.response h.number {} (sealDatagram { s with sendSequence := h.sendSequence } 5 (Response.bytes {})))

/-- FINISH (R393, R396). -/
def takeFinish (p : Pkg) (n t client sequence : Nat) (tag signaturesVerify : Bool) : Pkg :=
  let p := rxCount p t
  match p.mp.handshakes.find? (fun h => h.number == n && h.transport == t && h.client == client) with
  | none => rxDrop p t
  | some h =>
    if !tag then rxDrop p t
    else
      let p := { p with mp := { p.mp with handshakes := p.mp.handshakes.filter (fun g => g.number != n) } }
      let header := dapHeader h.level 3 n sequence
      if h.helloNs + 2000000000 ≤ p.now then refuseHandshake p t client n 0x15 header
      else if !roleAllowed p h signaturesVerify then refuseHandshake p t client n 0x13 header
      else if !sessionRoom p h.role then refuseHandshake p t client n 0x12 header
      else openSession p h sequence

/-- Whether a sequence number is one that the session still accepts (R399). -/
def freshSequence (s : Session) (n : Nat) : Bool :=
  !s.anySeen || decide (s.highest < n) || (decide (n < s.highest) && decide (s.highest ≤ n + 64) && !s.seen.contains n)

/-- A datagram of a session (R390, R399, R408): the session, when the datagram is accepted and the session goes on. -/
def admitDatagram (p : Pkg) (n t client sequence : Nat) (tag : Bool) : Pkg × Option Session :=
  let p := rxCount p t
  match p.mp.sessions.find? (fun s => s.number == n && s.transport == t && s.client == client) with
  | none => (rxDrop p t, none)
  | some s =>
    if !tag then (rxDrop p t, none)
    else if !freshSequence s sequence then (p, none)
    else if 2 ^ 32 ≤ sequence then (endSession p n, none)
    else
      let top := max s.highest sequence
      let s := { s with anySeen := true, highest := top, seen := (sequence :: s.seen).filter (fun x => decide (top ≤ x + 64)), lastNs := p.now }
      (modSession p n (fun _ => s), some s)

/-- Abort codes of the server itself (R406). -/
def ownAbort (a : Nat) : Answer := { abort := a, status := 0x1000 + a }

/-- What a request that names an entry asks of it. -/
def isWrite (op : Nat) : Bool := op == 2 || op == 4 || op == 6 || op == 8

/-- Step 3 of R405 (R382). -/
def accessAbort (op : Nat) (e : Entry) : Option Answer :=
  if isWrite op && e.access == .ro then some (ownAbort 3)
  else if (op == 1 || op == 3 || op == 9) && e.access == .wo then some (ownAbort 4)
  else none

/-- Partitions that a session's credential names, and whether it is PACKAGE_WIDE (R397); a session without a credential has every right
of its role (R398). -/
def sessionRights (p : Pkg) (s : Session) : Nat × Bool :=
  if s.credential = 0xFFFF then (4095, true)
  else match credentialAt p s.credential with
    | some r => (leAt r 2 2, bit (leAt r 1 1) 1)
    | none => (0, false)

/-- Step 4 of R405 (R397, R383 class K). -/
def roleAbort (p : Pkg) (s : Session) (op : Nat) (e : Entry) (sub : Nat) : Option Answer :=
  let r := sessionRights p s
  if !isWrite op || s.role == 3 then none
  else if s.role = 1 ∨ e.apply = .k then some (ownAbort 8)
  else if e.unit = .partition then (if bit r.1 sub then none else some (ownAbort 8))
  else if r.2 then none
  else some (ownAbort 8)

/-- Longest value of an entry in bytes (R381 and the owners' layouts); 0xFFFFFFFF for a DOMAIN. -/
def maxBytes (e : Entry) : Nat :=
  match e.type with
  | .domain => 0xFFFFFFFF
  | .string => 256
  | .blob =>
    (match e.index with
     | 0x1013 => 17
     | 0x1015 => 128
     | 0x1016 => 16
     | 0x1017 => 18
     | 0x1019 => 1024
     | 0x1024 => 32768
     | 0x2408 => 8224
     | 0x2800 => 16384
     | 0x2C00 => 65568
     | 0x3002 => 12
     | 0x3402 => 73760
     | 0x3419 => 2048
     | 0x3420 => 2097152
     | 0x3806 => 512
     | 0x4004 => 12
     | 0x4010 => 64
     | 0x4400 => 4096
     | 0x5420 => 8192
     | 0x5800 => 131072
     | 0x6001 => 16
     | 0x6006 => 80
     | 0x6431 => 512
     | 0x6452 => 32
     | 0x6910 => 16384
     | 0x6912 => 36
     | 0x6914 => 3440
     | 0x6930 => 32
     | _ => 4194304)
  | t => t.width / 8

/-- Step 5 of R405 for the operations that name an entry and carry or announce a value. -/
def typeAbort (op : Nat) (q : DapRequest) (e : Entry) : Option Answer :=
  let mismatch := some (ownAbort 5)
  match op with
  | 2 =>
    if q.type ≠ e.type.code ∨ e.type = .domain then mismatch
    else if e.type.scalar then (if q.data.length = e.type.width / 8 then none else mismatch)
    else if q.data.length ≤ maxBytes e then none
    else mismatch
  | 4 => if e.type ≠ .blob then mismatch else if 4194304 < q.arg2 then some (ownAbort 0x10) else if q.arg2 ≤ maxBytes e then none else mismatch
  | 8 => if e.type = .domain then none else mismatch
  | _ => none

/-- Whether a request breaks its layout (R400, R401). -/
def requestMalformed (op : Nat) (q : DapRequest) : Bool :=
  q.reserved != 0 || q.length != q.data.length || decide (1024 < q.length) || (q.type != 0 && op != 2) || (op == 3 && decide (1024 < q.arg2))

/-- An aborted answer. -/
def abortWith (q : DapRequest) (a : Answer) : Response := { requestId := q.requestId, abort := a.abort, status := a.status }

/-- An answer with nothing to show. -/
def plainOk (q : DapRequest) : Response := { requestId := q.requestId }

/-- The answer of an accepted or refused write of an entry. -/
def writeAnswer (q : DapRequest) (e : Entry) (u sub : Nat) (r : Pkg × Answer) : Pkg × Response :=
  if r.2.abort ≠ 0 then (r.1, abortWith q r.2)
  else (r.1, { requestId := q.requestId, type := e.type.code, pending := r.2.pending,
               generation := if e.type.scalar ∨ e.type = .string then 0 else tget r.1.dict.gens (keyAt e u sub) 0 })

/-- The answer that shows a value, or bytes of it (READ, READ_SEGMENT, READ_PENDING). -/
def valueAnswer (p : Pkg) (q : DapRequest) (e : Entry) (u : Nat) (whole : Bytes) (part : Bytes) : Response :=
  let plain := e.type.scalar || e.type == .string
  { requestId := q.requestId, type := e.type.code, pending := e.apply == .b && (waitingAt p e q.subindex).isSome,
    generation := if plain then 0 else tget p.dict.gens (keyAt e u q.subindex) 0,
    total := if plain then 0 else whole.length, data := part }

/-- READ and READ_PENDING. -/
def wholeAnswer (p : Pkg) (q : DapRequest) (e : Entry) (u : Nat) (v : DVal) : Response :=
  let b := v.out e.type
  if !e.type.scalar && decide (1024 < b.length) then abortWith q (ownAbort 12) else valueAnswer p q e u b b

/-- What DESCRIBE returns (R401). -/
def describeEntry (e : Entry) : Bytes :=
  let access := match e.access with
    | .ro => 1
    | .wo => 2
    | .rw => 3
  let apply := match e.apply with
    | .none => 0
    | .i => 1
    | .b => 2
    | .s => 3
    | .k => 4
  leBytes 1 e.type.code ++ leBytes 1 access ++ leBytes 1 apply ++ leBytes 1 e.name.length ++ leBytes 4 (maxBytes e) ++ asciiBytes e.name

/-- The value that a WRITE carries. -/
def writtenValue (e : Entry) (b : Bytes) : DVal := if e.type.scalar then .num (leNat b) else .bytes b

/-- WRITE_BEGIN behind steps 1 to 6 of R405 (R403). -/
def openTransfer (p : Pkg) (q : DapRequest) (s : Session) : Pkg × Response :=
  if 4 ≤ s.transfers.length then (p, abortWith q (ownAbort 0x10))
  else
    let n := p.mp.nextTransfer
    let t : Transfer := { number := n, index := q.index, subindex := q.subindex, total := q.arg2, lastNs := p.now }
    (modSession { p with mp := { p.mp with nextTransfer := n + 1 } } s.number (fun s => { s with transfers := s.transfers ++ [t] }),
      { requestId := q.requestId, type := EType.blob.code, total := n })

/-- A segment of the inactive firmware slot (0x6920, R508). -/
def writeSlot (p : Pkg) (offset : Nat) (b : Bytes) : Pkg × Answer :=
  let put := fun (old : Bytes) => overlay (padTo old (max old.length (offset + b.length))) offset b
  if b = [] then (p, accepted)
  else
    let f := if p.flash.activeSlot = 0 then { p.flash with slotB := put p.flash.slotB } else { p.flash with slotA := put p.flash.slotA }
    (if f = p.flash then p else touch (wroteFlash { p with flash := f } (areaSlot (p.flash.activeSlot == 0))) Ix.btFirmwareSlot 0, accepted)

/-- The operations that name an entry, behind steps 2 to 5 of R405. -/
def onEntry (p : Pkg) (op : Nat) (q : DapRequest) (s : Session) (e : Entry) (u : Nat) : Pkg × Response :=
  match op with
  | 1 => (p, wholeAnswer p q e u (valueAt p e u q.subindex))
  | 2 => writeAnswer q e u q.subindex (entryWrite p e u q.subindex (writtenValue e q.data) q)
  | 3 =>
    let b := (valueAt p e u q.subindex).out e.type
    (p, valueAnswer p q e u b (slice b q.arg q.arg2))
  | 4 => openTransfer p q s
  | 8 => writeAnswer q e u q.subindex (gated p e u q.subindex (fun p => writeSlot p q.arg2 q.data))
  | 9 => (p, wholeAnswer p q e u ((waitingAt p e q.subindex).getD (valueAt p e u q.subindex)))
  | _ => (p, { requestId := q.requestId, type := e.type.code, data := describeEntry e })

/-- Steps 2 to 5 of R405. -/
def checkEntry (p : Pkg) (op : Nat) (q : DapRequest) (s : Session) : Except Answer (Entry × Nat) :=
  match findEntry q.index q.subindex with
  | .noObject => .error (ownAbort 1)
  | .noSub _ => .error (ownAbort 2)
  | .entry e u =>
    match accessAbort op e with
    | some a => .error a
    | none =>
      match roleAbort p s op e q.subindex with
      | some a => .error a
      | none =>
        match typeAbort op q e with
        | some a => .error a
        | none => .ok (e, u)

/-- The bytes that a transfer has placed; none where a byte is missing (R403). -/
def assembled (t : Transfer) : Option Bytes :=
  let l := t.segments.foldl (fun (l : List (Option Byte)) g => l.take g.1 ++ g.2.map some ++ l.drop (g.1 + g.2.length)) (List.replicate t.total none)
  if l.all Option.isSome then some (l.filterMap id) else none

/-- An open transfer of a session. -/
def transferOf (s : Session) (n : Nat) : Option Transfer := s.transfers.find? (fun t => t.number == n)

/-- Ends a transfer of a session. -/
def endTransfer (p : Pkg) (session n : Nat) : Pkg :=
  modSession p session (fun s => { s with transfers := s.transfers.filter (fun t => t.number != n) })

/-- WRITE_SEGMENT (R403). -/
def placeSegment (p : Pkg) (q : DapRequest) (s : Session) : Pkg × Response :=
  match transferOf s q.arg with
  | none => (p, abortWith q (ownAbort 13))
  | some t =>
    if t.total < q.arg2 + q.data.length then (p, abortWith q (ownAbort 14))
    else (modSession p s.number (fun s => { s with transfers := s.transfers.map (fun t =>
        if t.number = q.arg then { t with segments := t.segments ++ [(q.arg2, q.data)], lastNs := p.now } else t) }), plainOk q)

/-- WRITE_COMMIT (R403): every step of R405 again, for the whole value; the transfer ends. -/
def commitTransfer (p : Pkg) (q : DapRequest) (s : Session) : Pkg × Response :=
  match transferOf s q.arg with
  | none => (p, abortWith q (ownAbort 13))
  | some t =>
    let p := endTransfer p s.number t.number
    match assembled t with
    | none => (p, abortWith q (ownAbort 14))
    | some b =>
      if (crc32 b).toNat ≠ q.arg2 then (p, abortWith q (ownAbort 15))
      else
        let named := { q with index := t.index, subindex := t.subindex, arg2 := t.total }
        match checkEntry p 4 named s with
        | .error a => (p, abortWith q a)
        | .ok (e, u) => writeAnswer q e u t.subindex (entryWrite p e u t.subindex (.bytes b) q)

/-- WRITE_ABANDON (R401). -/
def abandonTransfer (p : Pkg) (q : DapRequest) (s : Session) : Pkg × Response :=
  match transferOf s q.arg with
  | none => (p, abortWith q (ownAbort 13))
  | some t => (endTransfer p s.number t.number, plainOk q)

/-- Performs a request (R401, R405). -/
def perform (p : Pkg) (op : Nat) (q : DapRequest) (s : Session) : Pkg × Response :=
  if requestMalformed op q then (p, abortWith q (ownAbort 0x11))
  else match op with
    | 5 => placeSegment p q s
    | 6 => commitTransfer p q s
    | 7 => abandonTransfer p q s
    | 11 =>
      (match nextKey (q.index * 256 + q.subindex) with
       | none => (p, abortWith q (ownAbort 1))
       | some k => (p, { requestId := q.requestId, data := leBytes 2 (k / 256) ++ leBytes 1 (k % 256) }))
    | 12 => (p, plainOk q)
    | _ =>
      (match checkEntry p op q s with
       | .error a => (p, abortWith q a)
       | .ok (e, u) => onEntry p op q s e u)

/-- Sends an answer in a session; at the last sequence number the session ends (R408). -/
def sendResponse (p : Pkg) (s : Session) (r : Response) : Pkg :=
  let p := emit (txCount p s.transport 1) (.response s.number r (sealDatagram s 5 r.bytes))
  let p := modSession p s.number (fun s => { s with sendSequence := s.sendSequence + 1 })
  if 2 ^ 32 ≤ s.sendSequence + 1 then endSession p s.number else p

/-- Counts an answer, and logs what R407 logs. -/
def countAnswer (p : Pkg) (q : DapRequest) (s : Session) (r : Response) : Pkg :=
  let p := bump p Ix.mpRequestsServed 0 1
  let p := if r.abort = 0 then p else bump p Ix.mpAbortsSent 0 1
  let p := if r.status / 256 = 0x10 then last p Ix.mpLastStatus 0 r.status else p
  if r.abort = 0x11 ∨ r.abort = 5 then
    clientViolation p s.transport s.number r.abort (dapHeader s.level 4 s.number q.sequence)
  else p

/-- Keeps an answer among the session's last 16 (R402). -/
def keepResponse (q : DapRequest) (r : Response) (s : Session) : Session :=
  { s with requests := s.requests + 1, highestId := max s.highestId q.requestId,
           responses := s.responses.drop (s.responses.length - 15) ++ [r] }

/-- A REQUEST (R399, R402): dropped, answered again, or performed and answered; no answer where its session ends with it. -/
def serveRequest (op : Nat) (q : DapRequest) (p : Pkg) : Pkg × Option Response :=
  match admitDatagram p q.session q.transport q.client q.sequence q.tagVerifies with
  | (p, none) => (p, none)
  | (p, some s) =>
    match s.responses.find? (fun r => r.requestId == q.requestId) with
    | some r => (sendResponse p s r, none)
    | none =>
      if !s.responses.isEmpty && s.responses.all (fun r => decide (q.requestId < r.requestId)) then (p, none)
      else
        let done := perform p op q s
        if !done.1.mp.sessions.any (fun t => t.number == s.number) then (done.1, none)
        else
          let p := countAnswer done.1 q s done.2
          (sendResponse (modSession p s.number (keepResponse q done.2)) s done.2, some done.2)

/-- HELLO (R393). -/
def execHello (transport : Fin 3) (client : Nat) (datagram : Bytes) : State → Host.Outcome State Fault Refusal :=
  onPkgF (fun p => takeHello p transport client datagram)

/-- FINISH (R396). -/
def execFinish (session transport client sequence : Nat) (tagVerifies signaturesVerify : Bool) : State → Host.Outcome State Fault Refusal :=
  onPkgF (fun p => takeFinish p session transport client sequence tagVerifies signaturesVerify)

/-- DAP_READ (R401). -/
def execDapRead (request : DapRequest) : State → Host.Outcome State Fault Refusal := onPkgF (fun p => (serveRequest 1 request p).1)

/-- DAP_WRITE (R401); an accepted write of `bt_restart` starts the package anew behind its answer (R465). -/
def execDapWrite (request : DapRequest) : State → Host.Outcome State Fault Refusal :=
  onClockF (fun c p =>
    let r := serveRequest 2 request p
    match r.2 with
    | some a =>
      if request.index = Ix.btRestart.index ∧ a.abort = 0 then
        ({}, beginStart r.1 2 (leNat request.data == 2 || warmNeedsFull r.1))
      else (c, r.1)
    | none => (c, r.1))

/-- READ_SEGMENT (R401). -/
def execReadSegment (request : DapRequest) : State → Host.Outcome State Fault Refusal := onPkgF (fun p => (serveRequest 3 request p).1)

/-- WRITE_BEGIN (R403). -/
def execWriteBegin (request : DapRequest) : State → Host.Outcome State Fault Refusal := onPkgF (fun p => (serveRequest 4 request p).1)

/-- WRITE_SEGMENT (R403). -/
def execWriteSegment (request : DapRequest) : State → Host.Outcome State Fault Refusal := onPkgF (fun p => (serveRequest 5 request p).1)

/-- WRITE_COMMIT (R403). -/
def execWriteCommit (request : DapRequest) : State → Host.Outcome State Fault Refusal := onPkgF (fun p => (serveRequest 6 request p).1)

/-- WRITE_ABANDON (R401). -/
def execWriteAbandon (request : DapRequest) : State → Host.Outcome State Fault Refusal := onPkgF (fun p => (serveRequest 7 request p).1)

/-- DOMAIN_WRITE (R401). -/
def execDomainWrite (request : DapRequest) : State → Host.Outcome State Fault Refusal := onPkgF (fun p => (serveRequest 8 request p).1)

/-- READ_PENDING (R385). -/
def execReadPending (request : DapRequest) : State → Host.Outcome State Fault Refusal := onPkgF (fun p => (serveRequest 9 request p).1)

/-- DESCRIBE (R401). -/
def execDescribe (request : DapRequest) : State → Host.Outcome State Fault Refusal := onPkgF (fun p => (serveRequest 10 request p).1)

/-- NEXT (R401). -/
def execNext (request : DapRequest) : State → Host.Outcome State Fault Refusal := onPkgF (fun p => (serveRequest 11 request p).1)

/-- KEEPALIVE (R401). -/
def execKeepalive (request : DapRequest) : State → Host.Outcome State Fault Refusal := onPkgF (fun p => (serveRequest 12 request p).1)

/-- CLOSE (R401, R408): the session ends without an answer. -/
def execClose (session transport client sequence : Nat) (tagVerifies : Bool) : State → Host.Outcome State Fault Refusal :=
  onPkgF (fun p =>
    match admitDatagram p session transport client sequence tagVerifies with
    | (p, none) => p
    | (p, some s) => touch { p with mp := { p.mp with sessions := p.mp.sessions.filter (fun t => t.number != s.number) } } Ix.mpSessions 0)

/-- DAP_HANDSHAKE_TIMEOUT (R396): 2 s after its HELLO a handshake is abandoned. -/
def execDapHandshakeTimeout (session : Nat) : State → Host.Outcome State Fault Refusal :=
  onPkgF (fun p =>
    match p.mp.handshakes.find? (fun h => h.number == session) with
    | none => p
    | some h =>
      if p.now < h.helloNs + 2000000000 then p
      else refuseHandshake { p with mp := { p.mp with handshakes := p.mp.handshakes.filter (fun g => g.number != session) } }
        h.transport h.client session 0x15 [])

/-- SESSION_IDLE_TIMEOUT (R408). -/
def execSessionIdleTimeout (session : Nat) : State → Host.Outcome State Fault Refusal :=
  onPkgF (fun p =>
    match p.mp.sessions.find? (fun s => s.number == session) with
    | none => p
    | some s => if p.now < s.lastNs + rd p Ix.mpSessionIdleS 0 * 1000000000 then p else endSession p session)

/-- TRANSFER_IDLE_TIMEOUT (R403): 10 s after its last segment a transfer is discarded. -/
def execTransferIdleTimeout (session transfer : Nat) : State → Host.Outcome State Fault Refusal :=
  onPkgF (fun p =>
    match (p.mp.sessions.find? (fun s => s.number == session)).bind (fun s => transferOf s transfer) with
    | none => p
    | some t => if p.now < t.lastNs + 10000000000 then p else endTransfer p session transfer)

end Sys2Proof.Machine
end

