-- ==== Sys2Proof/Machine/ReliabilityCommands.lean ====
section
/-! DEFINITION. Chapter 18: the meanings of its commands. -/

namespace Sys2Proof.Machine

/-- AUDIT_TILE_COMPUTED (R436 to R438): the fingerprint that a block of the auditor region (R434) made is compared with the
original, of the oldest vote on that tile; `none`: the auditor cannot compute the tile. -/
def execAuditTileComputed (pp : Fin 12) (block : Fin 96) (descriptor tile : Nat) (fingerprint : Option Bytes) :
    State → Host.Outcome State Fault Refusal :=
  onPkgF (fun p =>
    match (part p pp).ru.votes.find? (fun v => v.descriptor == descriptor && v.tile == tile && !v.fromArbiter
        && auditorRegion p pp (v.block / 8) 1 == block / 8) with
    | none => p
    | some v =>
      match fingerprint with
      | none => endVote (countUnaudited p pp) pp v
      | some fp =>
        let p := bump (modRu p pp (fun q => { q with stepAudited := q.stepAudited + 1 })) Ix.ruTilesAudited pp 1
        if fp = v.original then endVote p pp v else toArbiter p pp v block fp)

/-- ARBITER_RESULT (R438): Accord decides by the three fingerprints; `block` is the arbiter block. -/
def execArbiterResult (pp : Fin 12) (block : Fin 96) (descriptor tile : Nat) (fingerprint : Option Bytes) :
    State → Host.Outcome State Fault Refusal :=
  onPkgF (fun p =>
    match (part p pp).ru.votes.find? (fun v => v.descriptor == descriptor && v.tile == tile && v.fromArbiter
        && auditorRegion p pp (v.block / 8) 2 == block / 8) with
    | none => p
    | some v =>
      match fingerprint with
      | none =>
        causeRollback (raiseRu (endVote p pp v) pp 0x1206 v.block 0) pp 3 (v.block / 8) v.block v.descriptor v.tile
      | some fp =>
        if fp = v.original then
          let p := chargeBlock p v.auditorBlock 0x1205
          endVote (raiseRu (bump p Ix.ruAuditorOutvoted pp 1) pp 0x1205 v.auditorBlock 0) pp v
        else if some fp = v.auditor then
          let p := chargeBlock (raiseRu p pp 0x1203 v.block 0) v.block 0x1203
          confirmedWrong p pp 1 0x1203 v
        else
          let p := raiseRu p pp 0x1204 v.block 0
          let p := chargeBlock (chargeBlock (chargeBlock p v.block 0x1204) v.auditorBlock 0x1204) block 0x1204
          confirmedWrong p pp 2 0x1204 v)

/-- POISON_NOTICE (R442 to R444, R462). -/
def execPoisonNotice (pp : Fin 12) (record : PoisonRecord) : State → Host.Outcome State Fault Refusal :=
  onPkgF (fun p => poisonArrives p pp record)

/-- AUDIT_REPORT (R441, R445, R447). -/
def execAuditReport (pp : Fin 12) (record : ReportRecord) : State → Host.Outcome State Fault Refusal :=
  onPkgF (fun p => reportArrives p pp record)

/-- RECUT_COMPLETE (R447): a package at the member's coordinates runs; the lead goes on once none is awaited. -/
def execRecutComplete (pp : Fin 12) (package : Nat) : State → Host.Outcome State Fault Refusal :=
  onPkgF (fun p =>
    let p := purgePackage (clearHole p package) package
    recomputeIfReady (modRu p pp (fun q => { q with recut := q.recut.filter (· != package) })) pp)

/-- DRYDOWN_STAGE_COMPLETE (R459, R366): the stage ends and the next begins; drained after a host-die loss, the package
restarts warm at once. -/
def execDrydownStageComplete : State → Host.Outcome State Fault Refusal :=
  onClockF (fun c p =>
    match rd p Ix.ruDrydownState 0 with
    | 1 => (c, drydownStage (stopAll p) 2)
    | 2 => (c, drydownStage p 3)
    | 3 => (c, drydownStage p 4)
    | 4 => (c, drydownStage p 5)
    | 5 =>
      let p := drydownStage p 6
      if p.ru.restartWhenDrained then ({}, beginStart p 2 (warmNeedsFull p)) else (c, p)
    | _ => (c, p))

/-- DRYDOWN_START (R458): a service write of 1 to `ru_drydown`, or a cause that names a unit. -/
def execDrydownStart (causingUnit : Option FailedUnit) : State → Host.Outcome State Fault Refusal :=
  onPkgF (fun p => startDrydown p causingUnit false)

/-- PACKAGE_FLAG_CLEAR (R457). -/
def execPackageFlagClear (value : Byte) : State → Host.Outcome State Fault Refusal :=
  onPkgF (fun p => answered Ix.ruPackageFlagClear 0
    (if value = 1 then clearPackageFlag p else refuse p (invalid 0x1006)))

/-- REQUALIFY_TIMER (R456): after 3,600 s without a disagreement the flag clears with event 0x1210. -/
def execRequalifyTimer : State → Host.Outcome State Fault Refusal :=
  onPkgF (fun p =>
    if rd p Ix.ruPackageFlag 0 = 3 then
      raise0 (wr (wrKept p Ix.ruPackageFlag 0 0) Ix.ruRequalifyRemainingS 0 0) 0x1210
    else p)

end Sys2Proof.Machine
end

