-- ==== Sys2Proof/Machine/PartitionCommands.lean ====
section
/-! DEFINITION. Chapter 17: the meanings of its commands. -/

namespace Sys2Proof.Machine

/-- PARTITION_START (R416). -/
def execPartitionStart (pp : Fin 12) : State → Host.Outcome State Fault Refusal :=
  onPkgF (fun p => answered Ix.pcCommand pp (pcCommand p pp 1))

/-- PARTITION_STOP (R416). -/
def execPartitionStop (pp : Fin 12) : State → Host.Outcome State Fault Refusal :=
  onPkgF (fun p => answered Ix.pcCommand pp (pcCommand p pp 2))

/-- PARTITION_PAUSE (R416). -/
def execPartitionPause (pp : Fin 12) : State → Host.Outcome State Fault Refusal :=
  onPkgF (fun p => answered Ix.pcCommand pp (pcCommand p pp 3))

/-- PARTITION_RESUME (R416). -/
def execPartitionResume (pp : Fin 12) : State → Host.Outcome State Fault Refusal :=
  onPkgF (fun p => answered Ix.pcCommand pp (pcCommand p pp 4))

/-- PARTITION_PREEMPT (R416). -/
def execPartitionPreempt (pp : Fin 12) : State → Host.Outcome State Fault Refusal :=
  onPkgF (fun p => answered Ix.pcCommand pp (pcCommand p pp 5))

/-- PARTITION_RESET (R416, R425). -/
def execPartitionReset (pp : Fin 12) : State → Host.Outcome State Fault Refusal :=
  onPkgF (fun p => answered Ix.pcCommand pp (pcCommand p pp 6))

/-- PREEMPT_SAVE_COMPLETE (R416, R78): every block has saved and every asynchronous copy has completed: state 5, event 0x1112. -/
def execPreemptSaveComplete (pp : Fin 12) : State → Host.Outcome State Fault Refusal :=
  onPkgF (fun p =>
    if pcState p pp = 4 ∧ preemptSaved p pp = true then
      raise (bump (setPcState (savePreempted p pp) pp 5) Ix.pcPreemptions pp 1) 0x1112 pp 0xFFFFFFFF 0
    else p)

/-- RESET_PHASE_COMPLETE (R425): the work of the phase that ends, and the next phase. A region that the test leaves
hidden halts the partition with 0x1106. -/
def execResetPhaseComplete (pp : Fin 12) (failures : List FailedUnit) (retireUnanswered : List Nat) :
    State → Host.Outcome State Fault Refusal :=
  onPkgF (fun p =>
    let next := fun (p : Pkg) (n : Nat) => modPc p pp (fun q => { q with resetPhase := n })
    match (part p pp).pc.resetPhase with
    | 1 => next p 2
    | 2 => next (retireUnresolved (abandonOutstanding p pp) pp) 3
    | 3 => next (retiresOver p pp retireUnanswered) 4
    | 4 => next (discardStep p pp) 5
    | 5 => next (relock p pp) 6
    | 6 =>
      let p := (regionsOf p pp).foldl (returnUnits failures) (failures.foldl takeDefect p)
      if (regionsOf p pp).any (regionHidden p) then
        closeReset (last p Ix.pcLastStatus pp 0x1106) pp 7 0x1111
      else next p 7
    | 7 => finishReset (clearStepState (zeroSram p (regionsOf p pp)) pp) pp
    | _ => p)

/-- RESET_NOTICE_ARRIVAL (R426, R429): phase 1 begins; a member already resetting ignores it. -/
def execResetNoticeArrival (pp : Fin 12) : State → Host.Outcome State Fault Refusal :=
  onPkgF (fun p => if pcState p pp = 6 ∨ pcState p pp = 0 then p else beginReset p pp 0 false)

/-- STEP_WATCHDOG_EXPIRY (R418): fails the step with 0x1101 and hands it to the Reliability Unit; a step whose
recomputation fails so too halts the partition. A reset wins (R429). -/
def execStepWatchdogExpiry (pp : Fin 12) : State → Host.Outcome State Fault Refusal :=
  onPkgF (fun p =>
    let q := (part p pp).pc
    if pcState p pp = 6 ∨ q.stepRunning = false ∨ stepRunNs p pp < 1000 * rd p Ix.pcStepWatchdogUs pp then p
    else
      let p := last p Ix.pcLastStatus pp 0x1101
      if q.watchdogStep = some (stepOf p pp) then haltPartition (causeRollback p pp 4 0xFF 0xFF 0 0) pp 0x1101
      else causeRollback (modPc p pp (fun q => { q with watchdogStep := some (stepOf p pp) })) pp 4 0xFF 0xFF 0 0)

/-- REGULATOR_REFILL (R420): every bucket of every partition. -/
def execRegulatorRefill : State → Host.Outcome State Fault Refusal :=
  onPkgF (fun p => serve ((List.range 12).foldl (fun p pp => (List.range 5).foldl (fun p resource =>
    (bucketsOf resource).foldl (refillBucket pp resource) p) p) p))

/-- REGION_MASK_WRITE (R413, R428). -/
def execRegionMaskWrite (pp : Fin 12) (mask : BitVec 16) : State → Host.Outcome State Fault Refusal :=
  onPkgF (fun p => answered Ix.pcRegionMask pp (writeRegionMask p pp mask.toNat))

end Sys2Proof.Machine
end

