-- ==== Sys2Proof/Machine/PowerCommands.lean ====
section
/-! DEFINITION. Chapter 20: the meanings of its commands. -/

namespace Sys2Proof.Machine

/-- RACK_TICK (R483, R494): rack time advances, an accepted cap and rack key come into force. -/
def execRackTick (pulse : Bool) : State → Host.Outcome State Fault Refusal :=
  onClockF (fun c p =>
    let c' := c.onTick pulse
    (c', evaluateCap (applyCap (applyRackKey (countPowered (referenceCheck c' { p with now := c'.ns }))))))

/-- REF_SYNC_FRAME (R483 to R485): a frame that carries tick n ends at tick n + 63. While locked it is checked against
the count; otherwise the package adopts it, and a start that waited for it goes on. -/
def execRefSyncFrame (tick : DWord) : State → Host.Outcome State Fault Refusal :=
  onClockF (fun c p =>
    let t := tick.toNat + 63
    if c.running ∧ c.adopted ∧ rd p Ix.pwRefState 0 = 0 then
      if c.tick = t ∨ c.heldFor = some t then (c, p) else (c, raisePw (wr p Ix.pwRefState 0 1) 0x1419 0xFF 0xFFFFFFFF)
    else
      let c' := c.adopt t
      let p := wr { p with now := c'.ns, pw := { p.pw with tickAdopted := true } } Ix.pwRefState 0 0
      if p.bt.waitingFrame then (c', enterPhase { p with bt := { p.bt with waitingFrame := false } } 6) else (c', p))

/-- REFERENCE_LOST (R484): missing REF_SYNC, or RCLK stopped for 1 µs; rack time free-runs. -/
def execReferenceLost (rclkStopped : Bool) : State → Host.Outcome State Fault Refusal :=
  onPkgF (fun p => raisePw (wr p Ix.pwRefState 0 (if rclkStopped then 2 else 1)) 0x1419 0xFF 0xFFFFFFFF)

/-- REF_FRAME_WAIT_EXPIRY (R485): no frame 130 ms after phase 5: the start goes on, counting from tick 0. -/
def execRefFrameWaitExpiry : State → Host.Outcome State Fault Refusal :=
  onClockF (fun c p =>
    if !p.bt.waitingFrame then (c, p)
    else
      let c' := if c.running then c else { c with running := true }
      let p := raisePw (wr { p with bt := { p.bt with waitingFrame := false } } Ix.pwRefState 0 1) 0x1419 0xFF 0xFFFFFFFF
      (c', enterPhase p 6))

/-- MONITOR_SAMPLE (R490): every monitor is read and kept with its rack time; the cap is held against the power. -/
def execMonitorSample (m : MonitorReadings) : State → Host.Outcome State Fault Refusal :=
  onPkgF (fun p =>
    let p := { p with pw := { p.pw with monitorsNs := p.now } }
    let p := wr (wr (wr (wr p Ix.pwInputVoltageMv 0 m.inputMv) Ix.pwInputCurrentMa 0 m.inputMa)
      Ix.pwInputPowerW 0 m.inputW) Ix.pwAveragePowerW 0 m.averageW
    let p := wrB p Ix.pwDieMonitors 0 m.dieMonitors
    let p := (List.range 2).foldl (sampleDie m.dieMonitors) ((List.range 12).foldl (sampleRegion m) p)
    let p := wr p Ix.pwCapAchievedW 0 m.inputW
    evaluateCap (setAlert (endThermal p)))

/-- AGEING_CHECK (R491): islands slowed by more than 1 % get 5 mV more. -/
def execAgeingCheck (slowIslands : List Nat) : State → Host.Outcome State Fault Refusal :=
  onPkgF (fun p =>
    let raised := slowIslands.foldl (fun t i => if i < 14 then tmod t i 0 (fun v => v + 5) else t) p.pw.setpointMv
    { p with pw := { p.pw with setpointMv := raised } })

/-- SLOW_REGULATOR_TICK (R492): lowers every island by 1/32 of nominal when the projected average passes the limit,
raises while it stays 2 % below; never below 262.5 MHz. Cooled islands rise in the same millisecond (R499). -/
def execSlowRegulatorTick (projectedW : Nat) : State → Host.Outcome State Fault Refusal :=
  onPkgF (fun p =>
    let limit := rd p Ix.pwAvgLimitW 0
    let p := heatRise p
    if limit < projectedW then
      reasonStart ((List.range 14).foldl (fun p i => setFreq p i (max 8 (regulatorRate p i - 1))) p) 1
    else
      let p := releaseClamp p
      if 100 * projectedW < 98 * limit then
        endAverage ((List.range 14).foldl (fun p i => setFreq p i (min 32 (regulatorRate p i + 1))) p)
      else p)

/-- FAST_CLAMP (R487, R493): the lower limit binds while one is in force (R501). -/
def execFastClamp (limit : Fin 6) (referenceW : Nat) : State → Host.Outcome State Fault Refusal :=
  onPkgF (fun p =>
    let w := limitWatts p limit
    clamp p (if p.pw.clampActive then min w p.pw.clampLimitW else w) referenceW (limitReason limit))

/-- RACK_CAP_WRITE (R494): a dictionary write leaves the epoch and sets the hold to 0. -/
def execRackCapWrite (watts : Word) : State → Host.Outcome State Fault Refusal :=
  onPkgF (fun p => answered Ix.pwRackCapW 0 (acceptCap p watts.toNat none 0))

/-- CAP_EXPIRED (R494): the hold lapsed with no new cap: event 0x1418, and the fallback is taken unless it is 0. -/
def execCapExpired : State → Host.Outcome State Fault Refusal :=
  onPkgF (fun p =>
    if rd p Ix.pwCapHoldMs 0 = 0 ∨ p.pw.capPending.isSome then p
    else
      let p := raisePw (wr p Ix.pwCapHoldMs 0 0) 0x1418 0xFF 0xFFFFFFFF
      let f := rd p Ix.pwCapFallbackW 0
      evaluateCap (if f = 0 then p else wr p Ix.pwRackCapW 0 f))

/-- POWER_RESUME (R497): at most one per 100 ms, when the power plus the partition's last clamped power is at or below
95 % of the cap; a RESUME, or a withdrawn request to the lead. -/
def execPowerResume : State → Host.Outcome State Fault Refusal :=
  onPkgF (fun p =>
    match nextToResume p with
    | none => p
    | some pp =>
      if p.pw.everResumed && decide (p.now < p.pw.lastResumeNs + 100000000) then p
      else if 100 * (rd p Ix.pwInputPowerW 0 + tget p.pw.clampedW pp 0) ≤ 95 * rd p Ix.pwRackCapW 0 then
        let p := clearPowerBit { p with pw := { p.pw with lastResumeNs := p.now, everResumed := true } } pp
        let p := modPc p pp (fun q => { q with powerPaused := false, powerPending := false })
        let keepPaused := fun (p : Pkg) => modPc p pp (fun q => { q with powerPaused := pcState p pp == 3 })
        let p := if isRack p pp && !isLead p pp then keepPaused (emit p (.pauseRequest (leadOf p pp) pp true))
          else if pcState p pp = 3 ∧ (part p pp).pc.pauseRequests = [] then pcResume p pp
          else keepPaused p
        raisePw p 0x1415 pp 0xFFFFFFFF
      else p)

/-- PAUSE_REQUEST (R496, R497): the lead stops sending step notices after the current step, or a member withdraws. -/
def execPauseRequest (pp : Fin 12) (package : Nat) (withdraw : Bool) : State → Host.Outcome State Fault Refusal :=
  onPkgF (fun p =>
    let l := (part p pp).pc.pauseRequests.filter (· != package)
    if !withdraw then modPc p pp (fun q => { q with pauseRequests := l ++ [package] })
    else
      let p := modPc p pp (fun q => { q with pauseRequests := l })
      if l.isEmpty && pcState p pp == 3 && (part p pp).pc.powerPaused && !bit (rd p Ix.pwPowerPaused 0) pp then
        pcResume (modPc p pp (fun q => { q with powerPaused := false })) pp
      else p)

/-- SAG_WARNING (R488): event 0x1410; power is limited to `pw_sag_power_w` through the fast clamp. -/
def execSagWarning : State → Host.Outcome State Fault Refusal :=
  onPkgF (fun p =>
    if p.pw.sagActive then p
    else
      let w := rd p Ix.pwSagPowerW 0
      let p := { p with pw := { p.pw with sagActive := true } }
      raisePw (setAlert (clamp p (if p.pw.clampActive then min w p.pw.clampLimitW else w) (rd p Ix.pwInputPowerW 0) 4)) 0x1410 0xFF 0xFFFFFFFF)

/-- SAG_CLEARED (R488): event 0x1411; the reason ends. -/
def execSagCleared : State → Host.Outcome State Fault Refusal :=
  onPkgF (fun p =>
    if !p.pw.sagActive then p
    else raisePw (setAlert (reasonEnd { p with pw := { p.pw with sagActive := false } } 4)) 0x1411 0xFF 0xFFFFFFFF)

/-- SAG_RESET (R489): a reset at once, without drain; a sag start follows. -/
def execSagReset : State → Host.Outcome State Fault Refusal :=
  onClockF (fun _ p => ({}, beginStart p 3 true))

/-- OVERVOLTAGE_RESET (R489): in the same way; the next start raises event 0x141A. -/
def execOvervoltageReset : State → Host.Outcome State Fault Refusal :=
  onClockF (fun _ p =>
    ({}, beginStart { p with flash := { p.flash with pendingEvents := p.flash.pendingEvents ++ [0x141A] } } 3 true))

/-- DROOP_STRETCH (R498): 125 % of the period at 4 % below the setpoint, 150 % at 6 %. -/
def execDroopStretch (island : Fin 14) (sixPercent : Bool) : State → Host.Outcome State Fault Refusal :=
  onPkgF (fun p =>
    let began := (tget p.pw.droop island (0, p.now)).2
    reasonStart (showFreq { p with pw := { p.pw with droop := tput p.pw.droop island (if sixPercent then 50 else 25, began) } } island) 3)

/-- DROOP_RECOVERY (R498): the full rate again; the stretched time is counted. -/
def execDroopRecovery (island : Fin 14) : State → Host.Outcome State Fault Refusal :=
  onPkgF (fun p =>
    match tfind p.pw.droop island with
    | none => p
    | some (_, began) =>
      let p := showFreq { p with pw := { p.pw with droop := tdel p.pw.droop island } } island
      let p := if island.val < 12 then bump p Ix.pwIslandStretchNs island (p.now - began) else p
      if p.pw.droop.isEmpty then reasonEnd p 3 else p)

/-- THERMAL_THROTTLE (R499): 1/32 of nominal lower every 100 µs from 95.0 °C with event 0x1416 on entry; 262.5 MHz at
once from 100.0 °C. -/
def execThermalThrottle (island : Fin 14) (hundredDegrees : Bool) : State → Host.Outcome State Fault Refusal :=
  onPkgF (fun p =>
    let was := tget p.pw.thermal island 0
    let f := if hundredDegrees || was == 2 then 8 else max 8 (islandFreq p island - 1)
    let p := setHeat { p with pw := { p.pw with thermal := tput p.pw.thermal island (if hundredDegrees then 2 else max was 1) } }
      island f
    let p := setAlert (reasonStart p 0)
    if was = 0 then raisePw p 0x1416 0xFF island else p)

/-- THERMAL_TRIP (R499, R7): every rail off, THERMTRIP_N asserted; the next start raises event 0x1417, and counts as a
sag start where a sag reset came with the trip (R532): the start it began, or an input below its level. -/
def execThermalTrip : State → Host.Outcome State Fault Refusal :=
  onClockF (fun _ p =>
    let sag := (rd p Ix.btStartKind 0 == 3 && p.bt.phase == 1) || (p.pw.monitorsNs != 0 && decide (rd p Ix.pwInputVoltageMv 0 < 46000))
    let p := { p with flash := { p.flash with pendingEvents := p.flash.pendingEvents ++ [0x1417], sagNext := sag } }
    let q := railsOff p
    ({}, { q with pins := { q.pins with thermtrip := true } }))

end Sys2Proof.Machine
end

