-- ==== Sys2Proof/Machine/TpFaultsCommands.lean ====
section
/-! DEFINITION. Chapters 2 and 3: the meanings of its commands. -/

namespace Sys2Proof.Machine

/-- CELL_CORRECTED_ERROR (R42): counted; a rise by `tp_corrected_alert_count` within the window raises event 0x0110. -/
def execCellCorrectedError (cell : Fin 768) : State → Host.Outcome State Fault Refusal :=
  onPkgF (fun p => countCorrected p cell)

/-- CELL_UNCORRECTABLE (R42, R43, R453): the cell stops with 0x0101 and resets; its second error in one pass escalates. -/
def execCellUncorrectable (cell : Fin 768) : State → Host.Outcome State Fault Refusal :=
  onPkgF (fun p =>
    if cellHidden p cell || blockHidden p (cell / 8) then p
    else
      let p := bumpAt p Ix.cellUncorrectableCount (cell / 64) (cell % 64) 1
      let p := last (recordHistory p 1 1 cell 0x0101 (stepOfRegion p (cell / 64))) Ix.regionLastStatus (cell / 64) 0x0101
      let n := tget (blk p (cell / 8)).cellErrors cell 0
      let p := modBlk p (cell / 8) (fun k => { k with cellErrors := tput k.cellErrors cell (n + 1) })
      if n = 0 then wrAt p Ix.cellState (cell / 64) (cell % 64) 3 else escalateCell p cell)

/-- CELL_RESET_COMPLETE (R42): the cell is usable again and its work item restarts. -/
def execCellResetComplete (cell : Fin 768) : State → Host.Outcome State Fault Refusal :=
  onPkgF (fun p =>
    if rdAt p Ix.cellState (cell / 64) (cell % 64) = 3 then wrAt p Ix.cellState (cell / 64) (cell % 64) 0 else p)

/-- STAGE_FAULT (R44): the tile is re-executed; after two failed re-executions the block reports 0x0105 and is hidden.
With `block_halt_on_stage_fault` 1 the block stops instead. -/
def execStageFault (block : Fin 96) (tile : Nat) : State → Host.Outcome State Fault Refusal :=
  onPkgF (fun p =>
    if blockHidden p block then p
    else
      let p := last (bump p Ix.blockStageFaults block 1) Ix.regionLastStatus (block / 8) 0x0104
      let n := tget (blk p block).reexecs tile 0
      if rd p Ix.blockHaltOnStageFault block = 1 then stopPass p block 0x0104 0
      else if n < 2 then
        bump (modBlk p block (fun k => { k with reexecs := tput k.reexecs tile (n + 1) })) Ix.blockTileReexecutions block 1
      else blockFault p block 0x0105)

/-- HANDSHAKE_TIMEOUT (R45). -/
def execHandshakeTimeout (region : Fin 12) : State → Host.Outcome State Fault Refusal :=
  onPkgF (fun p => fenceRegion p region 0x0108)

/-- REGION_CONTROL_FAULT (R45): this cause has no code of its own in R48, so the status is TP's 0x0100, a failure with no more specific
cause (R4; DEDUCED, assumption 23). -/
def execRegionControlFault (region : Fin 12) : State → Host.Outcome State Fault Refusal :=
  onPkgF (fun p => fenceRegion p region 0x0100)

/-- BAD_OPERAND_WORD (R46). -/
def execBadOperandWord (block : Fin 96) (sramUncorrectable : Bool) (completion address : Nat) :
    State → Host.Outcome State Fault Refusal :=
  onPkgF (fun p =>
    if (blk p block).passes = [] then p else stopPass p block (operandStatus sramUncorrectable completion) address)

/-- MARK_GAP_EXCEEDED (R77): event 0x0158, once for the gap. -/
def execMarkGapExceeded (block : Fin 96) : State → Host.Outcome State Fault Refusal :=
  onPkgF (fun p =>
    if (blk p block).gapRaised then p
    else raiseAs (modBlk p block (fun k => { k with gapRaised := true })) Ix.regionLastStatus (block / 8) 0x0158 ((partOfBlock p block).getD 0xFF) block 0)

end Sys2Proof.Machine
end

