-- ==== Sys2Proof/Machine/Dispatch.lean ====
section
/-! DEFINITION. What every command does: one arm for each constructor of `Instr`, in the table's order. -/

namespace Sys2Proof.Machine

/-- A command's effect on everything but the queue of waiting commands, by the rule that its meaning names. -/
def exec (i : Instr) (s : State) : Host.Outcome State Fault Refusal :=
  match i with
  | .stepBoundary pp => Sys2Proof.Machine.execStepBoundary pp s
  | .stepNoticeArrival pp notice => Sys2Proof.Machine.execStepNoticeArrival pp notice s
  | .descriptorReadComplete block readOk => Sys2Proof.Machine.execDescriptorReadComplete block readOk s
  | .passWaitsMet block => Sys2Proof.Machine.execPassWaitsMet block s
  | .passComplete block => Sys2Proof.Machine.execPassComplete block s
  | .badOperandWord block sramUncorrectable completion address => Sys2Proof.Machine.execBadOperandWord block sramUncorrectable completion address s
  | .cellCorrectedError cell => Sys2Proof.Machine.execCellCorrectedError cell s
  | .cellUncorrectable cell => Sys2Proof.Machine.execCellUncorrectable cell s
  | .cellResetComplete cell => Sys2Proof.Machine.execCellResetComplete cell s
  | .stageFault block tile => Sys2Proof.Machine.execStageFault block tile s
  | .handshakeTimeout region => Sys2Proof.Machine.execHandshakeTimeout region s
  | .regionControlFault region => Sys2Proof.Machine.execRegionControlFault region s
  | .markGapExceeded block => Sys2Proof.Machine.execMarkGapExceeded block s
  | .cellHideWrite region cell value => Sys2Proof.Machine.execCellHideWrite region cell value s
  | .countersClear index value => Sys2Proof.Machine.execCountersClear index value s
  | .recipeOverrideWrite pp data => Sys2Proof.Machine.execRecipeOverrideWrite pp data s
  | .layerTableWrite pp data => Sys2Proof.Machine.execLayerTableWrite pp data s
  | .routerLayerTableWrite pp data => Sys2Proof.Machine.execRouterLayerTableWrite pp data s
  | .dispatchedRowArrival pp row => Sys2Proof.Machine.execDispatchedRowArrival pp row s
  | .endNoticeArrival pp notice => Sys2Proof.Machine.execEndNoticeArrival pp notice s
  | .intakeCounterAdd pp n => Sys2Proof.Machine.execIntakeCounterAdd pp n s
  | .intakeReset pp value => Sys2Proof.Machine.execIntakeReset pp value s
  | .cancelWord pp word => Sys2Proof.Machine.execCancelWord pp word s
  | .cancelNoticeArrival pp step genRows preRows => Sys2Proof.Machine.execCancelNoticeArrival pp step genRows preRows s
  | .completionConsumedStore pp n => Sys2Proof.Machine.execCompletionConsumedStore pp n s
  | .tokenRecordForward pp package record => Sys2Proof.Machine.execTokenRecordForward pp package record s
  | .samplerCountArrival pp package step count => Sys2Proof.Machine.execSamplerCountArrival pp package step count s
  | .lengthTableArrival pp engine step table tokens => Sys2Proof.Machine.execLengthTableArrival pp engine step table tokens s
  | .tenantTableWrite pp data => Sys2Proof.Machine.execTenantTableWrite pp data s
  | .engineConfigsWrite pp data => Sys2Proof.Machine.execEngineConfigsWrite pp data s
  | .hostWriteRetry pp => Sys2Proof.Machine.execHostWriteRetry pp s
  | .playHeadReport pp stream word => Sys2Proof.Machine.execPlayHeadReport pp stream word s
  | .ringTableWrite pp data => Sys2Proof.Machine.execRingTableWrite pp data s
  | .emitConsumedStore pp ring n => Sys2Proof.Machine.execEmitConsumedStore pp ring n s
  | .scrubPass ddr unit => Sys2Proof.Machine.execScrubPass ddr unit s
  | .channelFailure ddr unit channel => Sys2Proof.Machine.execChannelFailure ddr unit channel s
  | .poisonFillComplete stack => Sys2Proof.Machine.execPoisonFillComplete stack s
  | .failChannelWrite ddr unit value => Sys2Proof.Machine.execFailChannelWrite ddr unit value s
  | .pageCopyComplete source => Sys2Proof.Machine.execPageCopyComplete source s
  | .fixedRangesWrite pp data => Sys2Proof.Machine.execFixedRangesWrite pp data s
  | .spillPoolWrite pp size value => Sys2Proof.Machine.execSpillPoolWrite pp size value s
  | .advertTimer => Sys2Proof.Machine.execAdvertTimer s
  | .advert message => Sys2Proof.Machine.execAdvert message s
  | .borrow message => Sys2Proof.Machine.execBorrow message s
  | .grant message => Sys2Proof.Machine.execGrant message s
  | .refuse message => Sys2Proof.Machine.execRefuse message s
  | .reclaim message => Sys2Proof.Machine.execReclaim message s
  | .release message => Sys2Proof.Machine.execRelease message s
  | .reclaimDeadline lender unit => Sys2Proof.Machine.execReclaimDeadline lender unit s
  | .unitIdleRelease lender unit => Sys2Proof.Machine.execUnitIdleRelease lender unit s
  | .unitPoisonFillDone unit => Sys2Proof.Machine.execUnitPoisonFillDone unit s
  | .reclaimUnitsWrite count => Sys2Proof.Machine.execReclaimUnitsWrite count s
  | .loadCommand data image => Sys2Proof.Machine.execLoadCommand data image s
  | .sliceLanded job shard slice data => Sys2Proof.Machine.execSliceLanded job shard slice data s
  | .unloadWrite value => Sys2Proof.Machine.execUnloadWrite value s
  | .switchWrite pp data => Sys2Proof.Machine.execSwitchWrite pp data s
  | .dmaStart channel => Sys2Proof.Machine.execDmaStart channel s
  | .dmaStop channel => Sys2Proof.Machine.execDmaStop channel s
  | .dmaResume channel => Sys2Proof.Machine.execDmaResume channel s
  | .dmaAbort channel => Sys2Proof.Machine.execDmaAbort channel s
  | .dmaProducedAdd channel n => Sys2Proof.Machine.execDmaProducedAdd channel n s
  | .dmaDstConsumedStore channel n => Sys2Proof.Machine.execDmaDstConsumedStore channel n s
  | .dmaPieceComplete channel piece => Sys2Proof.Machine.execDmaPieceComplete channel piece s
  | .dmaPieceError channel piece side address status => Sys2Proof.Machine.execDmaPieceError channel piece side address status s
  | .dmaRetryTimer channel piece => Sys2Proof.Machine.execDmaRetryTimer channel piece s
  | .dmaHaltDrainTimeout channel => Sys2Proof.Machine.execDmaHaltDrainTimeout channel s
  | .dmaStopDrained channel => Sys2Proof.Machine.execDmaStopDrained channel s
  | .controlRegisterWrite address wide value firmware => Sys2Proof.Machine.execControlRegisterWrite address wide value firmware s
  | .flitReceive link flit => Sys2Proof.Machine.execFlitReceive link flit s
  | .replayTimeout link => Sys2Proof.Machine.execReplayTimeout link s
  | .ackIdleTimer link => Sys2Proof.Machine.execAckIdleTimer link s
  | .laneFailure link lane => Sys2Proof.Machine.execLaneFailure link lane s
  | .laneRetrainComplete link lane passed => Sys2Proof.Machine.execLaneRetrainComplete link lane passed s
  | .linkTrainingComplete link passed => Sys2Proof.Machine.execLinkTrainingComplete link passed s
  | .capabilityRecord link record => Sys2Proof.Machine.execCapabilityRecord link record s
  | .profileChange link partnerFull => Sys2Proof.Machine.execProfileChange link partnerFull s
  | .axisRemapWrite dimension value => Sys2Proof.Machine.execAxisRemapWrite dimension value s
  | .linkHoldWrite link value => Sys2Proof.Machine.execLinkHoldWrite link value s
  | .laneRetrainWrite link lane value => Sys2Proof.Machine.execLaneRetrainWrite link lane value s
  | .suspectNotice link notice => Sys2Proof.Machine.execSuspectNotice link notice s
  | .returnNotice link package => Sys2Proof.Machine.execReturnNotice link package s
  | .departureNotice link package => Sys2Proof.Machine.execDepartureNotice link package s
  | .departureLinkPark => Sys2Proof.Machine.execDepartureLinkPark s
  | .collectiveGroupsWrite pp data => Sys2Proof.Machine.execCollectiveGroupsWrite pp data s
  | .collPartial pp header data => Sys2Proof.Machine.execCollPartial pp header data s
  | .collGather pp header data => Sys2Proof.Machine.execCollGather pp header data s
  | .collAbort pp header => Sys2Proof.Machine.execCollAbort pp header s
  | .read packet => Sys2Proof.Machine.execRead packet s
  | .write packet => Sys2Proof.Machine.execWrite packet s
  | .atomic packet => Sys2Proof.Machine.execAtomic packet s
  | .counterInc packet => Sys2Proof.Machine.execCounterInc packet s
  | .retire packet => Sys2Proof.Machine.execRetire packet s
  | .readData packet => Sys2Proof.Machine.execReadData packet s
  | .done packet => Sys2Proof.Machine.execDone packet s
  | .atomicResult packet => Sys2Proof.Machine.execAtomicResult packet s
  | .error packet => Sys2Proof.Machine.execError packet s
  | .responseTimeout dest tag => Sys2Proof.Machine.execResponseTimeout dest tag s
  | .windowTableWrite data => Sys2Proof.Machine.execWindowTableWrite data s
  | .hostFenceReset mask => Sys2Proof.Machine.execHostFenceReset mask s
  | .asyncCopyComplete slot status => Sys2Proof.Machine.execAsyncCopyComplete slot status s
  | .ucieModuleDown module => Sys2Proof.Machine.execUcieModuleDown module s
  | .ucieModuleRestored module rate repaired => Sys2Proof.Machine.execUcieModuleRestored module rate repaired s
  | .hostDieLoss => Sys2Proof.Machine.execHostDieLoss s
  | .hostRequest packet => Sys2Proof.Machine.execHostRequest packet s
  | .sidebandFrame payloads => Sys2Proof.Machine.execSidebandFrame payloads s
  | .eventRingAnnounce => Sys2Proof.Machine.execEventRingAnnounce s
  | .eventConsumedStore n => Sys2Proof.Machine.execEventConsumedStore n s
  | .mgmtLinkLoss port => Sys2Proof.Machine.execMgmtLinkLoss port s
  | .cap port message => Sys2Proof.Machine.execCap port message s
  | .digest port message => Sys2Proof.Machine.execDigest port message s
  | .replica port message => Sys2Proof.Machine.execReplica port message s
  | .telemetryPeriod => Sys2Proof.Machine.execTelemetryPeriod s
  | .hello transport client datagram => Sys2Proof.Machine.execHello transport client datagram s
  | .finish session transport client sequence tagVerifies signaturesVerify => Sys2Proof.Machine.execFinish session transport client sequence tagVerifies signaturesVerify s
  | .dapRead request => Sys2Proof.Machine.execDapRead request s
  | .dapWrite request => Sys2Proof.Machine.execDapWrite request s
  | .readSegment request => Sys2Proof.Machine.execReadSegment request s
  | .writeBegin request => Sys2Proof.Machine.execWriteBegin request s
  | .writeSegment request => Sys2Proof.Machine.execWriteSegment request s
  | .writeCommit request => Sys2Proof.Machine.execWriteCommit request s
  | .writeAbandon request => Sys2Proof.Machine.execWriteAbandon request s
  | .domainWrite request => Sys2Proof.Machine.execDomainWrite request s
  | .readPending request => Sys2Proof.Machine.execReadPending request s
  | .describe request => Sys2Proof.Machine.execDescribe request s
  | .next request => Sys2Proof.Machine.execNext request s
  | .keepalive request => Sys2Proof.Machine.execKeepalive request s
  | .close session transport client sequence tagVerifies => Sys2Proof.Machine.execClose session transport client sequence tagVerifies s
  | .dapHandshakeTimeout session => Sys2Proof.Machine.execDapHandshakeTimeout session s
  | .sessionIdleTimeout session => Sys2Proof.Machine.execSessionIdleTimeout session s
  | .transferIdleTimeout session transfer => Sys2Proof.Machine.execTransferIdleTimeout session transfer s
  | .sessionCloseWrite session => Sys2Proof.Machine.execSessionCloseWrite session s
  | .credentialsWrite data => Sys2Proof.Machine.execCredentialsWrite data s
  | .partitionStart pp => Sys2Proof.Machine.execPartitionStart pp s
  | .partitionStop pp => Sys2Proof.Machine.execPartitionStop pp s
  | .partitionPause pp => Sys2Proof.Machine.execPartitionPause pp s
  | .partitionResume pp => Sys2Proof.Machine.execPartitionResume pp s
  | .partitionPreempt pp => Sys2Proof.Machine.execPartitionPreempt pp s
  | .preemptSaveComplete pp => Sys2Proof.Machine.execPreemptSaveComplete pp s
  | .partitionReset pp => Sys2Proof.Machine.execPartitionReset pp s
  | .resetPhaseComplete pp failures retireUnanswered => Sys2Proof.Machine.execResetPhaseComplete pp failures retireUnanswered s
  | .resetNoticeArrival pp => Sys2Proof.Machine.execResetNoticeArrival pp s
  | .stepWatchdogExpiry pp => Sys2Proof.Machine.execStepWatchdogExpiry pp s
  | .regulatorRefill => Sys2Proof.Machine.execRegulatorRefill s
  | .regionMaskWrite pp mask => Sys2Proof.Machine.execRegionMaskWrite pp mask s
  | .auditTileComputed pp block descriptor tile fingerprint => Sys2Proof.Machine.execAuditTileComputed pp block descriptor tile fingerprint s
  | .arbiterResult pp block descriptor tile fingerprint => Sys2Proof.Machine.execArbiterResult pp block descriptor tile fingerprint s
  | .poisonNotice pp record => Sys2Proof.Machine.execPoisonNotice pp record s
  | .auditReport pp record => Sys2Proof.Machine.execAuditReport pp record s
  | .recutComplete pp package => Sys2Proof.Machine.execRecutComplete pp package s
  | .digestTimeout record round => Sys2Proof.Machine.execDigestTimeout record round s
  | .drydownStart causingUnit => Sys2Proof.Machine.execDrydownStart causingUnit s
  | .drydownStageComplete => Sys2Proof.Machine.execDrydownStageComplete s
  | .declareLostWrite data => Sys2Proof.Machine.execDeclareLostWrite data s
  | .packageFlagClear value => Sys2Proof.Machine.execPackageFlagClear value s
  | .requalifyTimer => Sys2Proof.Machine.execRequalifyTimer s
  | .powerOnStart => Sys2Proof.Machine.execPowerOnStart s
  | .startPhaseComplete result => Sys2Proof.Machine.execStartPhaseComplete result s
  | .ddrFillComplete channel => Sys2Proof.Machine.execDdrFillComplete channel s
  | .btRestart value => Sys2Proof.Machine.execBtRestart value s
  | .defectRemove index => Sys2Proof.Machine.execDefectRemove index s
  | .firmwareCommit value verdict => Sys2Proof.Machine.execFirmwareCommit value verdict s
  | .licenceInstall data signaturesVerify => Sys2Proof.Machine.execLicenceInstall data signaturesVerify s
  | .licenceRemove index => Sys2Proof.Machine.execLicenceRemove index s
  | .licenceExpired index => Sys2Proof.Machine.execLicenceExpired index s
  | .attestNonce nonce => Sys2Proof.Machine.execAttestNonce nonce s
  | .rackKeyInstall data => Sys2Proof.Machine.execRackKeyInstall data s
  | .customerKeysWrite data => Sys2Proof.Machine.execCustomerKeysWrite data s
  | .refSyncFrame tick => Sys2Proof.Machine.execRefSyncFrame tick s
  | .rackTick pulse => Sys2Proof.Machine.execRackTick pulse s
  | .referenceLost rclkStopped => Sys2Proof.Machine.execReferenceLost rclkStopped s
  | .refFrameWaitExpiry => Sys2Proof.Machine.execRefFrameWaitExpiry s
  | .monitorSample readings => Sys2Proof.Machine.execMonitorSample readings s
  | .ageingCheck slowIslands => Sys2Proof.Machine.execAgeingCheck slowIslands s
  | .slowRegulatorTick projectedW => Sys2Proof.Machine.execSlowRegulatorTick projectedW s
  | .fastClamp limit referenceW => Sys2Proof.Machine.execFastClamp limit referenceW s
  | .rackCapWrite watts => Sys2Proof.Machine.execRackCapWrite watts s
  | .capExpired => Sys2Proof.Machine.execCapExpired s
  | .powerResume => Sys2Proof.Machine.execPowerResume s
  | .sagWarning => Sys2Proof.Machine.execSagWarning s
  | .sagCleared => Sys2Proof.Machine.execSagCleared s
  | .sagReset => Sys2Proof.Machine.execSagReset s
  | .overvoltageReset => Sys2Proof.Machine.execOvervoltageReset s
  | .droopStretch island sixPercent => Sys2Proof.Machine.execDroopStretch island sixPercent s
  | .thermalThrottle island hundredDegrees => Sys2Proof.Machine.execThermalThrottle island hundredDegrees s
  | .thermalTrip => Sys2Proof.Machine.execThermalTrip s
  | .pwrEnLow => Sys2Proof.Machine.execPwrEnLow s
  | .pkgReset => Sys2Proof.Machine.execPkgReset s
  | .flashTake => Sys2Proof.Machine.execFlashTake s
  | .pauseRequest pp package withdraw => Sys2Proof.Machine.execPauseRequest pp package withdraw s
  | .mgmtPortUp port fec => Sys2Proof.Machine.execMgmtPortUp port fec s
  | .droopRecovery island => Sys2Proof.Machine.execDroopRecovery island s

end Sys2Proof.Machine
end

