-- ==== Sys2Proof/Safety.lean ====
section
/-! DEFINITION. The terms that the statements use: a sound clock and tables, the package as a command finds it, a command that
completes with an effect, and a step that begins. -/

namespace Sys2Proof.Machine

/-- Whether the keys of a table rise strictly. -/
def Tbl.rising {α : Type} : Tbl α → Bool
  | a :: b :: t => decide (a.1 < b.1) && Tbl.rising (b :: t)
  | _ => true

/-- The RCLK count of a tick is at most 99,999 (R483). -/
def Clock.sound (c : Clock) : Prop := c.rclk ≤ 99999

/-- The package as a command finds it: stamped with rack time. -/
def begun (s : State) : Pkg := { s.pkg with now := s.clock.ns }

/-- A command completes with an effect on the package: it answers the next state in which the package is one that shows the effect,
ended as every command ends (`finish`: completions acted on, packets routed), and nothing else of the state has changed. -/
def Completes (i : Instr) (s : State) (effect : Pkg → Prop) : Prop :=
  ∃ q, effect q ∧ exec i s = .next { s with pkg := finish q }

/-- The same for a command that also puts the clock. -/
def CompletesAt (i : Instr) (s : State) (c : Clock) (effect : Pkg → Prop) : Prop :=
  ∃ q, effect q ∧ exec i s = .next { s with clock := c, pkg := finish q }

/-- Whether nothing waits to be acted on between two commands: no completion, no packet to route, no failed write of serving state, no
channel that reads have found bad, no move that may be committed, no borrowed unit under reclaim, no change of the offer to tell and no wish to
borrow, no change of the profile to ask for, no link to retrain and no credit to give back. On such a package `finish` changes nothing. -/
def Settled (p : Pkg) : Prop :=
  p.ms.failed = [] ∧ p.tf.outgoing = [] ∧ (∀ pp < 12, (part p pp).sc.writeFailed = none) ∧ (∀ e ∈ p.tm.badLines, linesFail p e = false)
  ∧ (∀ m ∈ p.tm.moves, commitsFreely p m.partition = false) ∧ (∀ l ∈ p.tm.loans, l.slot.isSome = true → l.state ≠ 1)
  ∧ (offer p = p.tm.advertised ∨ rd p Ix.tmLendEnable 0 ≠ 1 ∧ p.tm.advertised = 0) ∧ rd p Ix.tmBorrowEnable 0 ≠ 1
  ∧ rd p Ix.tfProfileActive 0 = profileAsked p ∧ p.tf.retraining = none ∧ p.tf.toRetrain = []
  ∧ ∀ l < 24, ∀ e ∈ (link p l).kept, e.2 = 0 ∨ p.tf.heldColl.any (fun c => (c.via.map (fun v => (v.1, v.2.1))) == some (l, e.1)) = true

/-- A request is new: its session `se` admits the datagram (`p` is the package then), and has kept no answer with its number and none of
a higher number only (R402). -/
def Admits (s : State) (q : DapRequest) (p : Pkg) (se : Session) : Prop :=
  admitDatagram (begun s) q.session q.transport q.client q.sequence q.tagVerifies = (p, some se)
  ∧ se.responses.find? (fun r => r.requestId == q.requestId) = none
  ∧ (!se.responses.isEmpty && se.responses.all (fun r => decide (q.requestId < r.requestId))) = false

/-- The package when a request has been performed and its answer is counted, kept by its session and sent (R402, R406, R407). -/
def replied (p : Pkg) (q : DapRequest) (se : Session) (a : Response) : Pkg :=
  sendResponse (modSession (countAnswer p q se a) se.number (keepResponse q a)) se a

/-- A step begins (R52, R198, R418, R445): `p` is the package just before its blocks start, with the step's number and notice, and with nothing
of a failed attempt left; `q` is the package when they have started. -/
def Begins (p : Pkg) (pp : Nat) (n : StepNotice) (again : Bool) (q : Pkg) : Prop :=
  stepOf p pp = n.step % 2 ^ 32 ∧ (part p pp).pc.stepRunning = true ∧ (part p pp).pc.stepStartNs = p.now
  ∧ (part p pp).sc.running = n ∧ (part p pp).sc.starting = none ∧ (part p pp).sc.counts = [] ∧ (part p pp).sc.forwarded = []
  ∧ (part p pp).ru.poison = none ∧ (part p pp).ru.reports = [] ∧ (part p pp).ru.reported = false ∧ (part p pp).ru.recomputing = again
  ∧ q = (let r := releaseReturns (releaseRoutes ((blocksOf p pp).foldl (blockStepStart pp n.step again) p) pp) pp n.step
         if again then r else startRounds r n.step)

end Sys2Proof.Machine
end

