-- ==== Sys2Proof/Certificates/Slice0/Obligations.lean ====
section
/-! DEFINITION. The statements for the provers. -/

open Sys2Proof Sys2Proof.Machine

/-- A step with a command at the front of the queue is `exec` of that command on the state with the queue's rest; with no command waiting one RCLK cycle passes and nothing else changes (the model's choice, assumption 2). -/
def Obligations.StepRunsFrontCommand : Prop :=
  (∀ (c : Instr) (s : State) (rest : List Instr), step { s with pending := c :: rest } = exec c { s with pending := rest })
  ∧ (∀ s : State, step { s with pending := [] } = .next { s with pending := [], clock := s.clock.cycle })

/-- No step stops: each answers a next state, and the queue it leaves is the rest of the queue, whatever the command and the state. -/
def Obligations.EveryStepAnswersNext : Prop :=
  ∀ s : State, ∃ t, step s = .next t ∧ t.pending = s.pending.tail

/-- A package that is off ignores every command but POWER_ON_START (the model's choice, assumption 1); a running one ignores POWER_ON_START. -/
def Obligations.UnpoweredIgnoresCommands : Prop :=
  (∀ (s : State) (c : Instr), powered s.pkg = false → c ≠ .powerOnStart → exec c s = .next s)
  ∧ (∀ s : State, powered s.pkg = true → exec .powerOnStart s = .next s)

/-- R483 to R485: the RCLK count of a tick stays at most 99,999, and rack time never steps backwards: after every step it is at least what it was, where a count ran and no start or loss of power cleared it. -/
def Obligations.RackTimeNeverStepsBack : Prop :=
  ∀ s t : State, s.clock.sound → step s = .next t →
    t.clock.sound ∧ (s.clock.running = true → t.clock = {} ∨ (t.clock.running = true ∧ s.clock.ns ≤ t.clock.ns))

/-- The state right after reset (the model's choice where the spec gives no state before the first start, assumption 1): no command waits, the clock has not begun, the package is off, every dictionary entry reads as its default (R382), memory and flash are empty and canonical, and nothing waits to be acted on. -/
def Obligations.ResetState : Prop :=
  State.reset.pending = [] ∧ State.reset.clock.sound ∧ State.reset.clock.ns = 0 ∧ powered State.reset.pkg = false
  ∧ (∀ (e : Entry) (u sub : Nat), rdAt State.reset.pkg e u sub = e.dflt) ∧ (∀ (e : Entry) (sub : Nat), rdB State.reset.pkg e sub = [])
  ∧ Memory.wf State.reset.pkg.mem = true ∧ (∀ a, memByte State.reset.pkg.mem a = 0) ∧ State.reset.pkg.flash = {} ∧ State.reset.pkg.out = [] ∧ Settled State.reset.pkg

/-- A package on which nothing waits is left as it is by what ends every command, so that there a command's effect is all that it does. -/
def Obligations.SettledPackageStays : Prop :=
  ∀ p : Pkg, Settled p → finish p = p

/-- R243: the code positions are the integers from 3 to 38 that are no powers of two, in ascending order; the 40 stored bits of a word are its data, six check bits, each the XOR of the data bits whose position has that bit, the overall parity, and POISON 0. -/
def Obligations.WordsEncoded : Prop :=
  codePositions.length = 32 ∧ codePositions.Pairwise (· < ·) ∧ (∀ q, q ∈ codePositions ↔ 3 ≤ q ∧ q ≤ 38 ∧ ∀ k, q ≠ 2 ^ k)
  ∧ ∀ d : Word,
    (∀ i < 32, (encodeWord d).getLsbD i = d.getLsbD i)
    ∧ (∀ k < 6, (encodeWord d).getLsbD (32 + k) = ((List.range 32).filter (fun i => (codePositions.getD i 0).testBit k)).foldl (fun b i => b != d.getLsbD i) false)
    ∧ (encodeWord d).getLsbD 38 = (List.range 38).foldl (fun b i => b != (encodeWord d).getLsbD i) false
    ∧ (encodeWord d).getLsbD 39 = false

/-- R244, R245: `s` is the XOR of the check bits computed from DATA with CHK, and `e` the XOR of bits [38:0]. A word is decoded by them as the table says, after the poison pattern, or with POISON set a pattern one bit from it, is recognised; POISON set over a word that decodes counts as corrected. The pattern lies at a distance of at least 3 from every codeword, and a poisoned word is written as 0xFF_0000_0000. -/
def Obligations.WordsDecoded : Prop :=
  poisonWord = 0xFF00000000#40
  ∧ (∀ d : Word, 3 ≤ ((List.range 39).filter (fun i => (encodeWord d).getLsbD i != (0x7F00000000#40).getLsbD i)).length)
  ∧ ∀ (w : StoredWord) (s : Nat) (e : Bool) (dist : Nat), s < 64 →
    (∀ k < 6, s.testBit k = ((encodeWord (w.setWidth 32)).getLsbD (32 + k) != w.getLsbD (32 + k))) →
    e = (List.range 39).foldl (fun b i => b != w.getLsbD i) false →
    dist = ((List.range 39).filter (fun i => w.getLsbD i != (0x7F00000000#40).getLsbD i)).length →
    (e = false → s = 0 → decodeClean w = .data (w.setWidth 32) false)
    ∧ (e = true → s = 0 → decodeClean w = .data (w.setWidth 32) true)
    ∧ (∀ k, e = true → s = 2 ^ k → decodeClean w = .data (w.setWidth 32) true)
    ∧ (∀ i < 32, e = true → s = codePositions.getD i 0 → decodeClean w = .data (w.setWidth 32 ^^^ (1#32 <<< i)) true)
    ∧ (e = true → 39 ≤ s → decodeClean w = .uncorrectable)
    ∧ (e = false → s ≠ 0 → decodeClean w = .uncorrectable)
    ∧ (w.getLsbD 39 = true → dist ≤ 1 → decodeWord w = .poisoned (dist == 1))
    ∧ (w.getLsbD 39 = false → dist = 0 → decodeWord w = .poisoned true)
    ∧ (w.getLsbD 39 = true → 1 < dist → ∀ d c, decodeClean w = .data d c → decodeWord w = .data d true)
    ∧ (w.getLsbD 39 = true → 1 < dist → decodeClean w = .uncorrectable → decodeWord w = .uncorrectable)
    ∧ (w.getLsbD 39 = false → dist ≠ 0 → decodeWord w = decodeClean w)

/-- R243 to R245: what the word code is for. Clean data is read back without correction, any one of its 40 stored bits flipped is corrected, any two of the bits [38:0] flipped are found uncorrectable, and a poisoned word with at most one flip in bits [38:0] stays poisoned. -/
def Obligations.WordErrorsCorrected : Prop :=
  ∀ d : Word, decodeWord (encodeWord d) = .data d false
    ∧ (∀ i < 40, decodeWord (encodeWord d ^^^ (1#40 <<< i)) = .data d true)
    ∧ (∀ i < 39, ∀ j < 39, i ≠ j → decodeWord (encodeWord d ^^^ (1#40 <<< i) ^^^ (1#40 <<< j)) = .uncorrectable)
    ∧ decodeWord poisonWord = .poisoned false ∧ (∀ i < 40, decodeWord (poisonWord ^^^ (1#40 <<< i)) = .poisoned true)

/-- R243, R246: bytes stored over whole words are read back as stored, whatever lay there; every stored word outside them is as it was, and memory keeps its canonical form. A fill poisons the words of its range and leaves the others. -/
def Obligations.StoredBytesReadBack : Prop :=
  ∀ (m : Mem) (a : Nat), Memory.wf m = true → a % 4 = 0 →
    (∀ b : Bytes, b.length % 4 = 0 →
      memBytes (memWrite m a b) a b.length = b
      ∧ (∀ w, a / 4 ≤ w → 4 * w < a + b.length → storedWord (memWrite m a b) w = encodeWord (BitVec.ofNat 32 (leAt b (4 * w - a) 4)))
      ∧ (∀ w, 4 * w < a ∨ a + b.length ≤ 4 * w → storedWord (memWrite m a b) w = storedWord m w)
      ∧ Memory.wf (memWrite m a b) = true)
    ∧ (∀ n, n % 4 = 0 → (∀ w, a ≤ 4 * w → 4 * w < a + n → storedWord (memFill m a n) w = poisonWord)
      ∧ (∀ w, 4 * w < a ∨ a + n ≤ 4 * w → storedWord (memFill m a n) w = storedWord m w)
      ∧ Memory.wf (memFill m a n) = true)

/-- R42: a corrected error raises its cell's count by 1. R42: an uncorrectable error, the first of a cell that is not hidden in the pass in flight, is counted and leaves the cell resetting; the end of the reset makes it usable. Commands that it says complete: cellCorrectedError, cellUncorrectable, cellResetComplete. -/
def Obligations.CellErrorsComplete : Prop :=
  (∀ (s : State) (cell : Fin 768), powered s.pkg = true →
    Completes (.cellCorrectedError cell) s (fun q =>
      rdAt q Ix.cellCorrectedCount (cell / 64) (cell % 64) = (rdAt s.pkg Ix.cellCorrectedCount (cell / 64) (cell % 64) + 1) % 2 ^ 32))
  ∧ (∀ (s : State) (cell : Fin 768), powered s.pkg = true → cellHidden s.pkg cell = false → blockHidden s.pkg (cell / 8) = false →
      tget (blk s.pkg (cell / 8)).cellErrors cell 0 = 0 →
    Completes (.cellUncorrectable cell) s (fun q =>
      rdAt q Ix.cellState (cell / 64) (cell % 64) = 3
      ∧ rdAt q Ix.cellUncorrectableCount (cell / 64) (cell % 64) = (rdAt s.pkg Ix.cellUncorrectableCount (cell / 64) (cell % 64) + 1) % 2 ^ 16
      ∧ tget (blk q (cell / 8)).cellErrors cell 0 = 1))
  ∧ (∀ (s : State) (cell : Fin 768), powered s.pkg = true → rdAt s.pkg Ix.cellState (cell / 64) (cell % 64) = 3 →
    Completes (.cellResetComplete cell) s (fun q =>
      rdAt q Ix.cellState (cell / 64) (cell % 64) = 0 ∧ q.mem = s.pkg.mem ∧ q.tp = s.pkg.tp))

/-- R44: in a block that is not hidden a stage fault is counted, and 0x0104 is the region's last status. With `block_halt_on_stage_fault` 1 the pass stops with 0x0104. Otherwise, while the tile has been re-executed fewer than two times, it is re-executed and counted; after that the block faults with 0x0105. R77: a gap between marks is reported once, with event 0x0158. R46: with a pass in flight, a bad operand word stops the block's program with 0x01E4 for a poisoned word, 0x0103 for an uncorrectable SRAM word and 0x010B for any other error; the status shows at the block and its region, the block has no pass left and reports the status with the address to the Partition Controller, and a running step that is not yet rolled back is rolled back. Commands that it says complete: badOperandWord, stageFault, markGapExceeded. -/
def Obligations.PassFaultsComplete : Prop :=
  (∀ (s : State) (block : Fin 96) (tile : Nat), powered s.pkg = true → blockHidden s.pkg block = false →
      (rd s.pkg Ix.blockHaltOnStageFault block ≠ 1 → tget (blk s.pkg block).reexecs tile 0 < 2 →
        Completes (.stageFault block tile) s (fun q =>
          rd q Ix.blockStageFaults block = (rd s.pkg Ix.blockStageFaults block + 1) % 2 ^ 32
          ∧ rd q Ix.blockTileReexecutions block = (rd s.pkg Ix.blockTileReexecutions block + 1) % 2 ^ 32
          ∧ rd q Ix.regionLastStatus (block / 8) = 0x0104
          ∧ tget (blk q block).reexecs tile 0 = tget (blk s.pkg block).reexecs tile 0 + 1
          ∧ q.mem = s.pkg.mem ∧ q.parts = s.pkg.parts))
      ∧ (rd s.pkg Ix.blockHaltOnStageFault block = 1 →
        Completes (.stageFault block tile) s (fun q => ∃ p, rd p Ix.blockStageFaults block = (rd s.pkg Ix.blockStageFaults block + 1) % 2 ^ 32
          ∧ p.tp = s.pkg.tp ∧ p.mem = s.pkg.mem ∧ p.parts = s.pkg.parts ∧ q = stopPass p block 0x0104 0))
      ∧ (rd s.pkg Ix.blockHaltOnStageFault block ≠ 1 → 2 ≤ tget (blk s.pkg block).reexecs tile 0 →
        Completes (.stageFault block tile) s (fun q => ∃ p, rd p Ix.blockStageFaults block = (rd s.pkg Ix.blockStageFaults block + 1) % 2 ^ 32
          ∧ p.tp = s.pkg.tp ∧ p.mem = s.pkg.mem ∧ p.parts = s.pkg.parts ∧ q = blockFault p block 0x0105)))
  ∧ (∀ (s : State) (block : Fin 96), powered s.pkg = true →
      ((blk s.pkg block).gapRaised = false →
        Completes (.markGapExceeded block) s (fun q => (blk q block).gapRaised = true ∧ rd q Ix.regionLastStatus (block / 8) = 0x0158
          ∧ q.parts = s.pkg.parts ∧ q.mem = s.pkg.mem))
      ∧ ((blk s.pkg block).gapRaised = true → Completes (.markGapExceeded block) s (fun q => q = begun s)))
  ∧ (∀ (s : State) (block : Fin 96) (sram : Bool) (completion address : Nat) (pp : Nat), powered s.pkg = true →
      (blk s.pkg block).passes ≠ [] → partOfBlock s.pkg block = some pp →
      (part s.pkg pp).ru.poison = none → (part s.pkg pp).pc.stepRunning = true →
    Completes (.badOperandWord block sram completion address) s (fun q =>
      (∃ p, (blk p block).act = 3 ∧ (blk p block).passes = []
        ∧ rd p Ix.blockLastStatus block = (if sram then 0x0103 else if completion % 256 = 0xE4 then 0x01E4 else 0x010B)
        ∧ rd p Ix.regionLastStatus (block / 8) = (if sram then 0x0103 else if completion % 256 = 0xE4 then 0x01E4 else 0x010B)
        ∧ (part p pp).pc.blockReport = some (block.val, if sram then 0x0103 else if completion % 256 = 0xE4 then 0x01E4 else 0x010B, address)
        ∧ p.mem = s.pkg.mem ∧ q = failStep p pp block)
      ∧ (part q pp).ru.reported = true))

/-- R45: a handshake timeout, or a fault of a region's control, fences a region that is neither fenced nor hidden: the region is listed as fenced and, where a partition that is not yet resetting owns it, that partition is in reset. R50: a write of `cell_hide` that the dictionary lets through: 0 and 1 are taken, and 1 for a cell that would be the third hidden one is refused with 0x010D, the region's last status, and the entry keeps its value. A cell that 1 was taken for is as it was until its block's next pass. Commands that it says complete: handshakeTimeout, regionControlFault, cellHideWrite. -/
def Obligations.RegionFaultsComplete : Prop :=
  (∀ (s : State) (region : Fin 12), powered s.pkg = true → s.pkg.tp.fenced.contains region.val = false → regionHidden s.pkg region = false →
    ∀ c ∈ [Instr.handshakeTimeout region, Instr.regionControlFault region],
      Completes c s (fun q => q.tp.fenced = s.pkg.tp.fenced ++ [region.val]
        ∧ ∀ pp, partOfRegion s.pkg region = some pp → pcState s.pkg pp ≠ 0 → pcState q pp = 6))
  ∧ (∀ (s : State) (region : Fin 12) (cell : Fin 64), powered s.pkg = true → gate s.pkg Ix.cellHide region cell = none →
    cellHidden s.pkg (region * 64 + cell) = false → (pendingHides s.pkg ((region * 64 + cell) / 8)).contains (region * 64 + cell) = false →
    Completes (.cellHideWrite region cell 0) s (fun q => rdAt q Ix.cellHide region cell = 0)
    ∧ (hiddenCellCount s.pkg ((region * 64 + cell) / 8) + (pendingHides s.pkg ((region * 64 + cell) / 8)).length < 2 →
        Completes (.cellHideWrite region cell 1) s (fun q => rdAt q Ix.cellHide region cell = 1 ∧ cellHidden q (region * 64 + cell) = false
          ∧ q.out.getLast? = some (.answer (0x2130 + region) cell 0 0 false)))
    ∧ (2 ≤ hiddenCellCount s.pkg ((region * 64 + cell) / 8) + (pendingHides s.pkg ((region * 64 + cell) / 8)).length →
        Completes (.cellHideWrite region cell 1) s (fun q => rdAt q Ix.cellHide region cell = rdAt s.pkg Ix.cellHide region cell
          ∧ rd q Ix.regionLastStatus region = 0x010D ∧ q.tp = s.pkg.tp ∧ q.out.getLast? = some (.answer (0x2130 + region) cell 6 0x010D false))))

/-- R187: at the lead, outside a reset, an add to INTAKE_COUNTER raises the published count by n, modulo 2^64, and the host gets the previous count. R184: at another package it is answered by an ERROR with status 0x060C and no count changes. R424: in a reset it is answered 0x0EE1 and nothing changes. R187: a write of 1 to `sc_intake_reset` that the dictionary lets through discards the unread records: consumed equals published, the overrun and the marks are gone, and the write is answered with success; any other value is refused and changes nothing. Commands that it says complete: intakeCounterAdd, intakeReset. -/
def Obligations.IntakeCommandsComplete : Prop :=
  (∀ (s : State) (pp : Fin 12) (n : DWord), powered s.pkg = true →
    (isLead s.pkg pp = true → pcState s.pkg pp ≠ 6 →
      Completes (.intakeCounterAdd pp n) s (fun q =>
        rd q Ix.scIntakePublished pp = (rd s.pkg Ix.scIntakePublished pp + n.toNat) % 2 ^ 64
        ∧ rd q Ix.scIntakeConsumed pp = rd s.pkg Ix.scIntakeConsumed pp ∧ q.mem = s.pkg.mem
        ∧ ∃ k : Packet, q.out.getLast? = some (.packet k) ∧ k.type = 0x42 ∧ k.data = padTo (leBytes 8 (rd s.pkg Ix.scIntakePublished pp)) 16))
    ∧ (isLead s.pkg pp = false → pcState s.pkg pp ≠ 6 →
      Completes (.intakeCounterAdd pp n) s (fun q =>
        rd q Ix.scLastStatus pp = 0x060C ∧ rd q Ix.scIntakePublished pp = rd s.pkg Ix.scIntakePublished pp
        ∧ ∃ k : Packet, q.out.getLast? = some (.packet k) ∧ k.type = 0x43 ∧ k.status = 0x060C))
    ∧ (pcState s.pkg pp = 6 →
      Completes (.intakeCounterAdd pp n) s (fun q =>
        q.parts = s.pkg.parts ∧ q.mem = s.pkg.mem ∧ rd q Ix.scIntakePublished pp = rd s.pkg Ix.scIntakePublished pp
        ∧ ∃ k : Packet, q.out.getLast? = some (.packet k) ∧ k.type = 0x43 ∧ k.status = 0x0EE1)))
  ∧ (∀ (s : State) (pp : Fin 12) (value : Byte), powered s.pkg = true → gate s.pkg Ix.scIntakeReset 0 pp = none →
    (value = 1 → Completes (.intakeReset pp value) s (fun q =>
        rd q Ix.scIntakeConsumed pp = rd s.pkg Ix.scIntakePublished pp % 2 ^ 64
        ∧ (part q pp).sc.overrun = false ∧ (part q pp).sc.marked = [] ∧ (part q pp).sc.requests = (part s.pkg pp).sc.requests
        ∧ q.out.getLast? = some (.answer 0x340A pp 0 0 false)))
    ∧ (value ≠ 1 → Completes (.intakeReset pp value) s (fun q =>
        q.dict = s.pkg.dict ∧ q.parts = s.pkg.parts ∧ q.out.getLast? = some (.answer 0x340A pp 6 0x1006 false))))

/-- R208 to R210: at the lead, outside a reset, with fewer than 64 words in the port: a cancel word of kind 1 that names no live request is answered 0x0603 at the next boundary; a word of kind 1 or 2 that names a live request cancels it and masks its rows, unless it is cancelled already, and is answered with its state at the next boundary; a word of kind 2 for an unread record marks the record, and one that names nothing is answered 0x0603. A sixty-fifth word within 300 ns is answered 0x0606. A word that breaks R208 is answered at once with 0x0607, and R186: a word at a package that does not lead with 0x060C. R424: in a reset it is answered 0x0EE1. Commands that it says complete: cancelWord. -/
def Obligations.CancelWordsComplete : Prop :=
  ∀ (s : State) (pp : Fin 12) (w : DWord), powered s.pkg = true →
    (pcState s.pkg pp = 6 → Completes (.cancelWord pp w) s (fun q => q.parts = s.pkg.parts ∧ q.mem = s.pkg.mem
      ∧ ∃ k : Packet, q.out.getLast? = some (.packet k) ∧ k.type = 0x43 ∧ k.status = 0x0EE1))
    ∧ (pcState s.pkg pp ≠ 6 →
    (isLead s.pkg pp = true → ((part s.pkg pp).sc.cancelWords.filter (fun t => decide (s.clock.ns < t + 300))).length < 64 →
      (w.toNat / 2 ^ 62 = 1 → bits w.toNat 61 48 = 0 → bits w.toNat 47 32 = 0 →
        (∀ r ∈ (part s.pkg pp).sc.requests, r.live = true → r.handle ≠ w.toNat % 2 ^ 32) →
        Completes (.cancelWord pp w) s (fun q =>
          (part q pp).sc.answers = (part s.pkg pp).sc.answers ++ [{ bytes := completionBytes 3 0 0x0603 (w.toNat % 2 ^ 32) 0 0 0 0 0 }]
          ∧ (part q pp).sc.requests = (part s.pkg pp).sc.requests ∧ q.mem = s.pkg.mem))
      ∧ (w.toNat / 2 ^ 62 = 1 ∨ w.toNat / 2 ^ 62 = 2 → bits w.toNat 61 48 = 0 → (w.toNat / 2 ^ 62 = 1 → bits w.toNat 47 32 = 0) →
        ∀ r, (part s.pkg pp).sc.requests.find? (fun r => r.live && (if w.toNat / 2 ^ 62 = 1 then r.handle == w.toNat % 2 ^ 32
            else r.sequence == w.toNat % 2 ^ 48)) = some r →
          Completes (.cancelWord pp w) s (fun q => ∃ p, (part p pp).sc.requests = (part s.pkg pp).sc.requests ∧ p.mem = s.pkg.mem
            ∧ q = registerAnswer (answerCancel (if r.cancelled then p else cancelRequest p pp r) pp 0 r.handle r.sequence
                (if w.toNat / 2 ^ 62 = 1 then 0 else r.clientTag) r.generated r.promptDone, 0) 0x41 []))
      ∧ (w.toNat / 2 ^ 62 = 2 → bits w.toNat 61 48 = 0 →
        (∀ r ∈ (part s.pkg pp).sc.requests, r.live = true → r.sequence ≠ w.toNat % 2 ^ 48) →
        rd s.pkg Ix.scIntakeConsumed pp ≤ w.toNat % 2 ^ 48 → w.toNat % 2 ^ 48 < rd s.pkg Ix.scIntakePublished pp →
        Completes (.cancelWord pp w) s (fun q => (part q pp).sc.marked.contains (w.toNat % 2 ^ 48) = true
          ∧ (part q pp).sc.requests = (part s.pkg pp).sc.requests ∧ q.mem = s.pkg.mem))
      ∧ (w.toNat / 2 ^ 62 = 2 → bits w.toNat 61 48 = 0 →
        (∀ r ∈ (part s.pkg pp).sc.requests, r.live = true → r.sequence ≠ w.toNat % 2 ^ 48) →
        (w.toNat % 2 ^ 48 < rd s.pkg Ix.scIntakeConsumed pp ∨ rd s.pkg Ix.scIntakePublished pp ≤ w.toNat % 2 ^ 48) →
        Completes (.cancelWord pp w) s (fun q =>
          (part q pp).sc.answers = (part s.pkg pp).sc.answers ++ [{ bytes := completionBytes 3 0 0x0603 0xFFFFFFFF (w.toNat % 2 ^ 48) 0 0 0 0 }]
          ∧ (part q pp).sc.marked = (part s.pkg pp).sc.marked ∧ (part q pp).sc.requests = (part s.pkg pp).sc.requests ∧ q.mem = s.pkg.mem)))
    ∧ (isLead s.pkg pp = true → 64 ≤ ((part s.pkg pp).sc.cancelWords.filter (fun t => decide (s.clock.ns < t + 300))).length →
        w.toNat / 2 ^ 62 = 1 ∨ w.toNat / 2 ^ 62 = 2 → bits w.toNat 61 48 = 0 → (w.toNat / 2 ^ 62 = 1 → bits w.toNat 47 32 = 0) →
      Completes (.cancelWord pp w) s (fun q => rd q Ix.scLastStatus pp = 0x0606 ∧ (part q pp).sc.requests = (part s.pkg pp).sc.requests
        ∧ (part q pp).sc.answers = (part s.pkg pp).sc.answers ∧ ∃ k : Packet, q.out.getLast? = some (.packet k) ∧ k.type = 0x43 ∧ k.status = 0x0606))
    ∧ (isLead s.pkg pp = true →
        (w.toNat / 2 ^ 62 ≠ 1 ∧ w.toNat / 2 ^ 62 ≠ 2) ∨ bits w.toNat 61 48 ≠ 0 ∨ (w.toNat / 2 ^ 62 = 1 ∧ bits w.toNat 47 32 ≠ 0) →
      Completes (.cancelWord pp w) s (fun q => rd q Ix.scLastStatus pp = 0x0607 ∧ q.parts = s.pkg.parts
        ∧ ∃ k : Packet, q.out.getLast? = some (.packet k) ∧ k.type = 0x43 ∧ k.status = 0x0607))
    ∧ (isLead s.pkg pp = false →
      Completes (.cancelWord pp w) s (fun q => rd q Ix.scLastStatus pp = 0x060C ∧ q.parts = s.pkg.parts
        ∧ ∃ k : Packet, q.out.getLast? = some (.packet k) ∧ k.type = 0x43 ∧ k.status = 0x060C)))

/-- R212, R231, R220: outside a reset, a store to COMPLETION_CONSUMED or EMIT_CONSUMED puts the count and lets what was held go on; a play-head word of a readable stream puts the reported position and time and the stream is evaluated, and a word for a stream that does not exist is answered 0x0702. Commands that it says complete: completionConsumedStore, playHeadReport, emitConsumedStore. -/
def Obligations.ConsumerCountsComplete : Prop :=
  ∀ (s : State) (pp : Fin 12), powered s.pkg = true → pcState s.pkg pp ≠ 6 →
    (∀ n : DWord, Completes (.completionConsumedStore pp n) s (fun q => ∃ p, (part p pp).sc.completionConsumed = n.toNat
        ∧ (part p pp).sc.completions = (part s.pkg pp).sc.completions ∧ p.dict = s.pkg.dict ∧ p.mem = s.pkg.mem
        ∧ q = registerAnswer (pumpCompletions p pp, 0) 0x41 []))
    ∧ (∀ (ring : Fin 16) (n : DWord), Completes (.emitConsumedStore pp ring n) s (fun q => ∃ p,
        tget (part p pp).se.consumed ring 0 = n.toNat
        ∧ (∀ r ≠ ring.val, tget (part p pp).se.consumed r 0 = tget (part s.pkg pp).se.consumed r 0)
        ∧ (part p pp).se.hold = (part s.pkg pp).se.hold ∧ p.dict = s.pkg.dict ∧ p.mem = s.pkg.mem
        ∧ q = registerAnswer (releaseHeld p pp, 0) 0x41 []))
    ∧ (∀ (n : BitVec 16) (w : DWord) (p : Pkg) (b : Bytes), n.toNat < rd s.pkg Ix.seStreamCount pp → bits w.toNat 62 48 = 0 →
        readStream (begun s) pp n.toNat = (p, some b) →
        Completes (.playHeadReport pp n w) s (fun q => ∃ p', (stream p' pp n.toNat).playedUs = w.toNat % 2 ^ 48
          ∧ (stream p' pp n.toNat).reportNs = p.now ∧ (stream p' pp n.toNat).playing = bit w.toNat 63
          ∧ (stream p' pp n.toNat).emitted = (stream p pp n.toNat).emitted ∧ p'.mem = p.mem
          ∧ q = registerAnswer (evaluate p' pp n.toNat b, 0) 0x41 []))
    ∧ (∀ (n : BitVec 16) (w : DWord), rd s.pkg Ix.seStreamCount pp ≤ n.toNat →
        Completes (.playHeadReport pp n w) s (fun q => rd q Ix.seLastStatus pp = 0x0702 ∧ q.parts = s.pkg.parts
          ∧ ∃ k : Packet, q.out.getLast? = some (.packet k) ∧ k.type = 0x43 ∧ k.status = 0x0702))

/-- R536: the retry of the Serving Scheduler's held writes raises event 0x0613 when the first retry begins, takes each of them off the held list and writes it again in order. With nothing held by either unit the retry only lets what stands behind follow. Commands that it says complete: hostWriteRetry. -/
def Obligations.HeldWritesRetried : Prop :=
  ∀ (s : State) (pp : Fin 12), powered s.pkg = true →
    (∀ w l, (part s.pkg pp).sc.refused = w :: l → (part s.pkg pp).sc.refusedRaised = false →
      Completes (.hostWriteRetry pp) s (fun q => ∃ p, rd p Ix.scLastStatus pp = 0x0613 ∧ (part p pp).sc.refused = []
        ∧ (part p pp).sc.refusedRaised = true ∧ p.mem = s.pkg.mem
        ∧ q = afterRetry (retryServing ((w :: l).foldl (fun p w => writeServing p pp false w) p) pp true) pp))
    ∧ ((part s.pkg pp).sc.refused = [] → (part s.pkg pp).se.refused = [] →
      Completes (.hostWriteRetry pp) s (fun q => q = pumpCompletions (releaseHeld (begun s) pp) pp
        ∨ ((part (releaseHeld (begun s) pp) pp).sc.refused ≠ [] ∧ q = releaseHeld (begun s) pp)))

/-- R193: at the lead, with the step running and not poisoned, a token record is kept once more, and a sampling package's count of the running step is noted; with audit lag 0 the package's records go out. R200: the bits of a cancel notice are set in the masks of the tables of its step, and those of a later table wait. R198, R200: a length table that reaches a member that does not lead is put in force for its engine and step, with an empty row mask where the step is new, then the cancel notices that waited for it apply, and it goes on along the tree. With no notice waiting for this table nothing more happens; a notice of its step that waited for the last of its tables begins the step, unless a write of serving state fails. Commands that it says complete: cancelNoticeArrival, tokenRecordForward, samplerCountArrival, lengthTableArrival. -/
def Obligations.StepArrivalsComplete : Prop :=
  (∀ (s : State) (pp : Fin 12), powered s.pkg = true →
    (∀ (package : Nat) (record : Bytes), isLead s.pkg pp = true → (part s.pkg pp).pc.stepRunning = true → (part s.pkg pp).ru.poison = none →
      Completes (.tokenRecordForward pp package record) s (fun q =>
        (part q pp).sc.forwarded = (part s.pkg pp).sc.forwarded ++ [(package, record)] ∧ q.mem = s.pkg.mem ∧ q.dict = s.pkg.dict))
    ∧ (∀ (package count : Nat), isLead s.pkg pp = true → (part s.pkg pp).pc.stepRunning = true → (part s.pkg pp).ru.poison = none →
        (∀ c ∈ (part s.pkg pp).sc.counts, c.1 ≠ package) →
      Completes (.samplerCountArrival pp package (stepOf s.pkg pp) count) s (fun q => ∃ p,
        (part p pp).sc.counts = (part s.pkg pp).sc.counts ++ [(package, count)] ∧ p.mem = s.pkg.mem ∧ p.dict = s.pkg.dict
        ∧ ((part s.pkg pp).se.stepLag0 = false → q = p)
        ∧ ((part s.pkg pp).se.stepLag0 = true →
            q = emitRecords p pp (((part s.pkg pp).sc.forwarded.filter (fun f => f.1 == package)).map (·.2)) true)))
    ∧ (∀ (step : Nat) (gen pre : List Nat), (∀ e < 2, (part s.pkg pp).sc.tableSteps.getD e 0 = step) →
      Completes (.cancelNoticeArrival pp step gen pre) s (fun q =>
        (∀ r, r ∈ maskOf q pp 0 ↔ r ∈ maskOf s.pkg pp 0 ∨ r ∈ gen) ∧ (∀ r, r ∈ maskOf q pp 1 ↔ r ∈ maskOf s.pkg pp 1 ∨ r ∈ pre)))
    ∧ (∀ (step : Nat) (gen pre : List Nat), (∀ e < 2, stepAhead step ((part s.pkg pp).sc.tableSteps.getD e 0) = true) →
      Completes (.cancelNoticeArrival pp step gen pre) s (fun q =>
        (part q pp).sc.notices = (part s.pkg pp).sc.notices ++ [(step, gen, pre)])))
  ∧ (∀ (s : State) (pp : Fin 12) (engine : Fin 2) (step : Nat) (table tokens : Bytes), powered s.pkg = true → isLead s.pkg pp = false →
    ((∀ n, (part s.pkg pp).sc.starting = some n → n.step ≠ step) →
      Completes (.lengthTableArrival pp engine step table tokens) s (fun q => ∃ p,
        tableOf p pp engine = table ∧ (part p pp).sc.tokens.getD engine [] = tokens ∧ (part p pp).sc.tableSteps.getD engine 0 = step
        ∧ ((part s.pkg pp).sc.tableSteps.getD engine 0 ≠ step → maskOf p pp engine = [])
        ∧ q = sendTable (applyNotices p pp engine step) pp engine step table tokens))
    ∧ (∀ n, (part s.pkg pp).sc.starting = some n → n.step = step →
      Completes (.lengthTableArrival pp engine step table tokens) s (fun q => ∃ p,
        tableOf p pp engine = table ∧ (part p pp).sc.tokens.getD engine [] = tokens ∧ (part p pp).sc.tableSteps.getD engine 0 = step
        ∧ (part p pp).sc.starting = some n
        ∧ q = memberReady (sendTable (applyNotices p pp engine step) pp engine step table tokens) pp n)))

/-- R445, R280: at the lead of a partition in state 2 that serves whole versions, when the running step has been rolled back, every member has reported verdict 1, no re-cut is outstanding and no notice has come back that waits, the boundary sends the failed step's notice again, with the drained condition as it stands, and marks the step as recomputing. R16, R192, R418: at the lead of a partition in state 2 with no step running, none starting and nothing that keeps it from a step, the boundary sends the notice of the step after the last one, unless an entry waits outside the hold queue or a write of serving state fails. Commands that it says complete: stepBoundary. -/
def Obligations.BoundariesComplete : Prop :=
  (∀ (s : State) (pp : Fin 12), powered s.pkg = true → isLead s.pkg pp = true → pcState s.pkg pp = 2 → versionsWhole s.pkg pp = true →
    (part s.pkg pp).sc.noticed = false →
    (part s.pkg pp).pc.stepRunning = true → (part s.pkg pp).ru.poison.isSome = true → (part s.pkg pp).ru.recut = [] →
    (∀ m ∈ membersOf s.pkg pp, m ∈ s.pkg.tf.holes ∨ ∃ r ∈ (part s.pkg pp).ru.reports, r.sender = m ∧ r.verdict = 1 ∧ r.step = stepOf s.pkg pp) →
    Completes (.stepBoundary pp) s (fun q =>
      (part q pp).sc.starting = some { (part s.pkg pp).sc.running with drained := drainedNow s.pkg pp }
      ∧ (part q pp).ru.recomputing = true ∧ (part q pp).ru.rolledTimes = (part s.pkg pp).ru.rolledTimes ∧ q.dict = s.pkg.dict ∧ q.mem = s.pkg.mem))
  ∧ (∀ (s : State) (pp : Fin 12), powered s.pkg = true → isLead s.pkg pp = true → mayStart s.pkg pp = true → pcState s.pkg pp = 2 →
    (part s.pkg pp).pc.firstStep = false →
    Completes (.stepBoundary pp) s (fun q =>
      (∃ p n, n.step = (stepOf s.pkg pp + 1) % 2 ^ 32 ∧ q = sendNotice p pp n ∧ (part q pp).sc.starting = some n)
      ∨ (part q pp).pc.heldFive = true ∨ (part q pp).sc.writeFailed.isSome = true))

/-- R198, R280, R418: in state 2 with whole versions, the notice of the step that the lead has sent begins the step at the lead, a step that still runs beginning again (R445). At another member a notice of the rolled-back running step whose tables are here begins it again (R445), and with no step running and neither a stop nor a pause waiting, a notice whose tables are here begins its step, unless a write of serving state fails. A step that begins has the notice's number, runs with that notice, has no report and no poison of a failed attempt, and its blocks start. Commands that it says complete: stepNoticeArrival. -/
def Obligations.NoticeStartsStep : Prop :=
  ∀ (s : State) (pp : Fin 12) (n : StepNotice), powered s.pkg = true → pcState s.pkg pp = 2 → versionsWhole s.pkg pp = true →
    (isLead s.pkg pp = true → (part s.pkg pp).sc.starting = some n →
      Completes (.stepNoticeArrival pp n) s (fun q => ∃ p, Begins p pp n (part s.pkg pp).pc.stepRunning q))
    ∧ (isLead s.pkg pp = false → tablesHere s.pkg pp n = true →
        (part s.pkg pp).pc.stepRunning = true → (part s.pkg pp).ru.poison.isSome = true → n.step = stepOf s.pkg pp →
      Completes (.stepNoticeArrival pp n) s (fun q => ∃ p, Begins p pp n true q))
    ∧ (isLead s.pkg pp = false → tablesHere s.pkg pp n = true → (part s.pkg pp).pc.stepRunning = false →
        (part s.pkg pp).pc.stopPending = false → (part s.pkg pp).pc.pausePending = false →
      Completes (.stepNoticeArrival pp n) s (fun q => (∃ p, Begins p pp n false q) ∨ (part q pp).sc.writeFailed.isSome = true))

/-- R383, R107, R283: a write of a class B table that the dictionary lets through and that passes its chapter's checks. In a partition that is neither unassigned, stopped nor halted, or whose set names a later step than the next as its first (R103, R139, R205), the value waits in shadow, the value in force is as before, and the answer says pending. In a stopped or halted partition a value that is due is in force at once. While a switch that holds writes of the table is armed, the value is held with the switch. A table that fails the checks is refused: no value changes. R225: a ring table that the dictionary lets through is in force at once where it passes its checks; where it does not, it is refused with 0x0701 and the table in force stays. Commands that it says complete: recipeOverrideWrite, layerTableWrite, routerLayerTableWrite, tenantTableWrite, engineConfigsWrite, ringTableWrite. -/
def Obligations.TableWritesComplete : Prop :=
  (∀ (s : State) (pp : Fin 12) (data : Bytes), powered s.pkg = true →
    ∀ x ∈ [(Instr.recipeOverrideWrite pp data, Ix.qrRecipeOverrides, overridesOk s.pkg pp data),
           (Instr.layerTableWrite pp data, Ix.akLayerTable, layerTableOk s.pkg pp data),
           (Instr.routerLayerTableWrite pp data, Ix.erLayerTable, routerTableOk data),
           (Instr.engineConfigsWrite pp data, Ix.scEngineConfigs, configsOk s.pkg pp data),
           (Instr.tenantTableWrite pp data, Ix.scTenantTable, tenantTableOk data)],
      gate s.pkg x.2.1 0 pp = none →
      (x.2.2 = true → (∀ a, tfind s.pkg.wm.arms pp = some a → heldBySwitch x.2.1 = false) →
        (pcState s.pkg pp ≠ 0 ∧ pcState s.pkg pp ≠ 1 ∧ pcState s.pkg pp ≠ 7 ∨ dueAt x.2.1 (.bytes data) ((stepOf s.pkg pp + 1) % 2 ^ 32) = false →
          Completes x.1 s (fun q => shadowOf q x.2.1 pp = some (.bytes data) ∧ q.dict.vals = s.pkg.dict.vals ∧ q.mem = s.pkg.mem
            ∧ q.parts = s.pkg.parts ∧ q.out.getLast? = some (.answer x.2.1.index pp 0 0 true)))
        ∧ (pcState s.pkg pp = 0 ∨ pcState s.pkg pp = 1 ∨ pcState s.pkg pp = 7 → dueAt x.2.1 (.bytes data) ((stepOf s.pkg pp + 1) % 2 ^ 32) = true →
          Completes x.1 s (fun q => rdB q x.2.1 pp = data ∧ q.mem = s.pkg.mem ∧ q.out.getLast? = some (.answer x.2.1.index pp 0 0 false))))
      ∧ (x.2.2 = true → heldBySwitch x.2.1 = true → ∀ a, tfind s.pkg.wm.arms pp = some a →
          Completes x.1 s (fun q => (∃ b, tfind q.wm.arms pp = some b ∧ b.version = a.version ∧ tfind b.held (keyAt x.2.1 0 pp) = some (.bytes data))
            ∧ q.dict.vals = s.pkg.dict.vals ∧ q.mem = s.pkg.mem ∧ q.parts = s.pkg.parts ∧ q.out.getLast? = some (.answer x.2.1.index pp 0 0 true)))
      ∧ (x.2.2 = false → Completes x.1 s (fun q => (∀ e, shadowOf q e pp = shadowOf s.pkg e pp) ∧ rdB q x.2.1 pp = rdB s.pkg x.2.1 pp
          ∧ q.mem = s.pkg.mem ∧ q.parts = s.pkg.parts
          ∧ ∃ st, st ≠ 0 ∧ q.out.getLast? = some (.answer x.2.1.index pp 6 st false))))
  ∧ (∀ (s : State) (pp : Fin 12) (data : Bytes), powered s.pkg = true → gate s.pkg Ix.seRingTable 0 pp = none →
    (ringTableOk data = true →
      Completes (.ringTableWrite pp data) s (fun q => rdB q Ix.seRingTable pp = data ∧ q.parts = s.pkg.parts ∧ q.mem = s.pkg.mem
        ∧ q.out.getLast? = some (.answer 0x3806 pp 0 0 false)))
    ∧ (ringTableOk data = false →
      Completes (.ringTableWrite pp data) s (fun q => rdB q Ix.seRingTable pp = rdB s.pkg Ix.seRingTable pp ∧ rd q Ix.seLastStatus pp = 0x0701
        ∧ q.parts = s.pkg.parts ∧ q.mem = s.pkg.mem ∧ q.out.getLast? = some (.answer 0x3806 pp 6 0x0701 false))))

/-- R53, R54, R72, R73: a block whose program runs reads up to four descriptors ahead; the next one stands at `base` + 128 × index. One that no override changes, that marks nothing and that passes every check is taken in behind the passes in flight, the index moves on, and its LAST bit is noted. One that fails a check has the lowest failing code, held while a pass before it is in flight. Without a next descriptor the code is 0x0151, and where the read failed 0x0155. With no pass before it the failing descriptor stops the block with its code, shown as the block's last status with the descriptor's address, and the partition halts. R30, R41, R67: a block's first pass that has not entered Fetch enters it where the block's passes may run, its host gives it its turn, and no pass is in flight and its waits are met, or one is in flight whose Emit it need not wait for and that is no mark at which a preemption stops the block. It is evaluated whole with the rows masked now: where the evaluation fails it stops, and otherwise it runs from now with the writes, increments and records that its class makes, its multiply-accumulates counted, its tiles put up for audit where it is audited. Otherwise nothing changes. Commands that it says complete: descriptorReadComplete, passWaitsMet. -/
def Obligations.PassStartsComplete : Prop :=
  (∀ (s : State) (b : Fin 96) (pp : Nat), powered s.pkg = true → partOfBlock s.pkg b = some pp → programRuns s.pkg pp b = true →
    (blk s.pkg b).lastFetched = false → mayReadAhead (blk s.pkg b) = true →
    (∀ (p : Pkg) (raw : Bytes), (blk s.pkg b).index < (blk s.pkg b).count →
        loadLocal (begun s) ((blk s.pkg b).base + 128 * (blk s.pkg b).index) 128 false = (p, .ok raw) →
        overrideOf p pp b (blk p b).index (descOf raw).version = none → (descOf raw).mark = false →
        (validate (descOf raw) (descEnv p pp b none) = none →
          Completes (.descriptorReadComplete b true) s (fun q => ∃ new : Pass, new.words = raw ∧ new.index = (blk p b).index ∧ new.running = false
            ∧ (blk q b).passes = (blk p b).passes ++ [new] ∧ (blk q b).index = (blk p b).index + 1
            ∧ (blk q b).lastFetched = (descOf raw).last ∧ q.mem = p.mem ∧ q.parts = p.parts))
        ∧ (∀ code, validate (descOf raw) (descEnv p pp b none) = some code →
          ((blk p b).passes ≠ [] →
            Completes (.descriptorReadComplete b true) s (fun q => (blk q b).rejected = some code ∧ (blk q b).passes = (blk p b).passes
              ∧ q.mem = p.mem ∧ q.parts = p.parts))
          ∧ ((blk p b).passes = [] →
            Completes (.descriptorReadComplete b true) s (fun q => q = showWaiting (passFail (showPointer p b) b code) b))))
    ∧ (∀ x ∈ [(false, 0x0155), (true, 0x0151)],
        (if x.1 then (blk s.pkg b).count ≤ (blk s.pkg b).index else (blk s.pkg b).index < (blk s.pkg b).count) →
        ((blk s.pkg b).passes ≠ [] →
          Completes (.descriptorReadComplete b x.1) s (fun q => (blk q b).rejected = some x.2 ∧ q.mem = s.pkg.mem ∧ q.dict = s.pkg.dict))
        ∧ ((blk s.pkg b).passes = [] →
          Completes (.descriptorReadComplete b x.1) s (fun q => ∃ p, (blk p b).act = 3 ∧ rd p Ix.blockLastStatus b = x.2
            ∧ rd p Ix.blockPassPointer b = ((blk s.pkg b).base + 128 * (blk s.pkg b).index) % 2 ^ 64 ∧ p.mem = s.pkg.mem
            ∧ q = failAndHalt p pp b x.2))))
  ∧ (∀ (s : State) (b : Fin 96) (pp : Nat) (before : List Pass) (d : Pass), powered s.pkg = true → partOfBlock s.pkg b = some pp →
    nextPass (blk s.pkg b) = some (before, d) →
    (passesRun s.pkg pp b = false ∨ hostTurn s.pkg pp b = false ∨ (before = [] ∧ waitsMet (blk s.pkg b) (descOf d.words) = false)
        ∨ (∃ q, before = [q] ∧ mustFollow s.pkg (descOf q.words) (descOf d.words) = true) →
      Completes (.passWaitsMet b) s (fun q => q = begun s))
    ∧ (passesRun s.pkg pp b = true → hostTurn s.pkg pp b = true →
        (before = [] ∧ waitsMet (blk s.pkg b) (descOf d.words) = true
          ∨ ∃ q, before = [q] ∧ mustFollow s.pkg (descOf q.words) (descOf d.words) = false ∧ ((descOf q.words).mark = false ∨ (blk s.pkg b).stopAt = none)) →
        ∀ (p0 p : Pkg), p0 = fillBuffers (setAct (applyHides (begun s) ((hostOf s.pkg b).getD b)) b 1) b (descOf d.words) →
          (∀ e, (runPass (passCtx p0 pp b d)).run.run p0 = (.error e, p) →
            Completes (.passWaitsMet b) s (fun q => q = stopRunning p pp b d e.1 e.2))
          ∧ (∀ m, (runPass (passCtx p0 pp b d)).run.run p0 = (.ok m, p) →
            ∀ new : Pass, new = { d with running := true, startNs := p.now, writes := m.writes, rotate := m.rotate, quantise := m.quantise,
                                         sends := m.sends, increments := m.increments, records := m.records, appended := m.appended,
                                         scores := m.scores } →
            ((descOf d.words).audit = false →
              Completes (.passWaitsMet b) s (fun q =>
                rd q Ix.blockMacIssued b = (rd p Ix.blockMacIssued b + m.macs) % 2 ^ 64
                ∧ (blk q b).passes = (blk p b).passes.map (fun x => if x.index = d.index then new else x)
                ∧ q.mem = p.mem ∧ q.parts = p.parts ∧ q.out = p.out))
            ∧ ((descOf d.words).audit = true →
              Completes (.passWaitsMet b) s (fun q => ∃ r, rd r Ix.blockMacIssued b = (rd p Ix.blockMacIssued b + m.macs) % 2 ^ 64
                ∧ r.mem = p.mem ∧ r.parts = p.parts
                ∧ q = modPass (auditPass r pp b (descOf d.words) m new).1 b d.index (fun _ => (auditPass r pp b (descOf d.words) m new).2))))))

/-- R30, R28, R54, R68, R101, R344: the pass of a block that has run longest completes. A pass that is neither an asynchronous copy nor a collective does its Emit and closes; where the Emit fails it stops with the status. An asynchronous copy takes the free slot of its X-die and closes; with every slot busy it waits. When the only pass closes, neither marked nor LAST, with no alert check enabled and nothing audited, it leaves the block, its busy time and the counts of quantised, saturated and flushed elements of its two stages are added, and the pointer shows the next descriptor. R344, R354: an asynchronous copy whose transactions have all completed makes its writes, and behind them sends its signal; a copy with neither frees its slot; one of which a transaction failed finally fails. While a transaction of the slot is outstanding nothing changes. Commands that it says complete: passComplete, asyncCopyComplete. -/
def Obligations.PassEndsComplete : Prop :=
  (∀ (s : State) (b : Fin 96) (pp : Nat) (d : Pass) (rest : List Pass), powered s.pkg = true → partOfBlock s.pkg b = some pp →
    (blk s.pkg b).passes = d :: rest → d.running = true → (pcState s.pkg pp = 2 ∨ pcState s.pkg pp = 4) → (part s.pkg pp).ru.poison = none →
    s.pkg.tp.fenced.contains (b / 8) = false →
    ((descOf d.words).cls ≠ 7 ∨ (descOf d.words).mode ≠ 4 → (descOf d.words).cls ≠ 2 ∨ (descOf d.words).mode = 1 →
      ∀ p st a, emitPass (begun s) pp b d = (p, st, a) →
      (st ≠ 0 → Completes (.passComplete b) s (fun q => q = stopRunning p pp b d (operandStatus (st == 0x0103) st) a))
      ∧ (st = 0 → Completes (.passComplete b) s (fun q => q = closePass p pp b d))
      ∧ (st = 0 → (blk p b).passes = [d] → (blk p b).rejected = none → (descOf d.words).mark = false → (descOf d.words).last = false →
          d.audited = [] → d.unaudited = 0 → rd p Ix.qrAlertEnable pp ≠ 1 →
        Completes (.passComplete b) s (fun q => (blk q b).passes = [] ∧ (blk q b).stepDone = (blk p b).stepDone
          ∧ rd q Ix.blockBusyAclk b = (rd p Ix.blockBusyAclk b + (p.now - max d.startNs (blk p b).busyUntil) * 21 / 20) % 2 ^ 64
          ∧ rd q Ix.blockQuantisedCount b = (rd p Ix.blockQuantisedCount b + d.rotate.cap.quantised + d.quantise.cap.quantised) % 2 ^ 64
          ∧ rd q Ix.blockSaturatedCount b = (rd p Ix.blockSaturatedCount b + d.rotate.cap.saturated + d.quantise.cap.saturated) % 2 ^ 64
          ∧ rd q Ix.blockFlushedCount b = (rd p Ix.blockFlushedCount b + d.rotate.cap.flushed + d.quantise.cap.flushed) % 2 ^ 64
          ∧ rd q Ix.blockPassPointer b = ((blk p b).base + 128 * (blk p b).index) % 2 ^ 64
          ∧ q.mem = p.mem)))
    ∧ ((descOf d.words).cls = 7 → (descOf d.words).mode = 4 →
      (freeCopySlot s.pkg b = none → Completes (.passComplete b) s (fun q => q = begun s))
      ∧ (∀ slot, freeCopySlot s.pkg b = some slot →
          Completes (.passComplete b) s (fun q => q = closePass (takeCopy (begun s) pp b slot d) pp b d))))
  ∧ (∀ (s : State) (slot : Fin 256) (c : CopySlot), powered s.pkg = true → tget s.pkg.ms.slots slot {} = c → c.busy = true →
    ((∀ t ∈ s.pkg.ms.txns, t.purpose ≠ .copySlot slot ∧ t.purpose ≠ .retire (0x300 + slot)) →
      (∀ sig, c.signal = some sig → Completes (.asyncCopyComplete slot 0) s (fun q => ∃ p,
          (tget p.ms.slots slot {}).writes = [] ∧ (tget p.ms.slots slot {}).busy = true ∧ p.mem = s.pkg.mem ∧ p.dict = s.pkg.dict
          ∧ q = sendInc (c.writes.foldl (copyWrite slot c) p) c.partition (0x300 + slot) sig.1 (sig.2.1 / 64) (sig.2.1 % 64) sig.2.2 c.step (.copySlot slot)))
      ∧ (c.writes = [] → c.signal = none → (∀ f ∈ s.pkg.ms.failed, f.1.purpose ≠ .copySlot slot) →
          Completes (.asyncCopyComplete slot 0) s (fun q => (tget q.ms.slots slot {}).busy = false ∧ q.mem = s.pkg.mem ∧ q.dict = s.pkg.dict))
      ∧ (∀ status, status ≠ 0 → Completes (.asyncCopyComplete slot status) s (fun q => q = failCopy (begun s) slot status)))
    ∧ (∀ t ∈ s.pkg.ms.txns, t.purpose = .copySlot slot → ∀ status, Completes (.asyncCopyComplete slot status) s (fun q => q = begun s)))

/-- R151 to R153: a row of the running step for an expert placed here, whose rank lies in its source's share, is stored in its receive buffer and noted; an end notice is noted with its count, and the last one of its expert compacts the rows. Rows and notices of the next step wait until they may be accepted; one tagged further ahead is refused with 0x0E0B, those of a step that is over are discarded, and R355: in a reset they are answered 0x0EE1. Commands that it says complete: dispatchedRowArrival, endNoticeArrival. -/
def Obligations.RouterArrivals : Prop :=
  (∀ (s : State) (pp : Fin 12) (row : DispatchedRow) (l : RouterLayer) (r : Placement) (p : Pkg), powered s.pkg = true → pcState s.pkg pp ≠ 6 →
      turnOf s.pkg pp row.layer row.expert row.step = .take → routerLayerAt s.pkg pp row.layer = some l →
      homePlacement s.pkg l row.expert = some r → row.source < l.sources → row.rank < shareOf r.capacity l.sources row.source →
      putRow (begun s) l r row = (p, 0) → (part p pp).er = (part s.pkg pp).er →
      Completes (.dispatchedRowArrival pp row) s (fun q => q.mem = p.mem ∧ q.dict = p.dict
        ∧ ∃ t, findReceipt q pp row.layer row.expert row.step = some t
          ∧ t.rows = ((findReceipt s.pkg pp row.layer row.expert row.step).map (·.rows)).getD [] ++ [row]))
  ∧ (∀ (s : State) (pp : Fin 12) (n : EndNotice) (l : RouterLayer) (r : Placement), powered s.pkg = true → pcState s.pkg pp ≠ 6 →
      turnOf s.pkg pp n.layer n.expert n.step = .take → routerLayerAt s.pkg pp n.layer = some l →
      homePlacement s.pkg l n.expert = some r → n.source < l.sources →
      (∀ t, findReceipt s.pkg pp n.layer n.expert n.step = some t → ∀ e ∈ t.notices, e.1 ≠ n.source) →
      (((findReceipt s.pkg pp n.layer n.expert n.step).map (·.notices.length)).getD 0 + 1 < l.sources →
        Completes (.endNoticeArrival pp n) s (fun q => q.mem = s.pkg.mem ∧ q.dict = s.pkg.dict
          ∧ ∃ t, findReceipt q pp n.layer n.expert n.step = some t
            ∧ t.notices = ((findReceipt s.pkg pp n.layer n.expert n.step).map (·.notices)).getD [] ++ [(n.source, n.count)]))
      ∧ (((findReceipt s.pkg pp n.layer n.expert n.step).map (·.notices.length)).getD 0 + 1 = l.sources →
        ((findReceipt s.pkg pp n.layer n.expert n.step).map (·.compacted)).getD false = false →
        Completes (.endNoticeArrival pp n) s (fun q => ∃ p t, p.mem = s.pkg.mem ∧ p.dict = s.pkg.dict
          ∧ findReceipt p pp n.layer n.expert n.step = some t
          ∧ t.notices = ((findReceipt s.pkg pp n.layer n.expert n.step).map (·.notices)).getD [] ++ [(n.source, n.count)]
          ∧ q = answerRoute (compact p pp l r t) pp (.notice n) 0)))
  ∧ (∀ (s : State) (pp : Fin 12) (row : DispatchedRow) (n : EndNotice), powered s.pkg = true →
      ∀ x ∈ [(Instr.dispatchedRowArrival pp row, RouteItem.row row, turnOf s.pkg pp row.layer row.expert row.step, row.layer, row.expert),
             (Instr.endNoticeArrival pp n, RouteItem.notice n, turnOf s.pkg pp n.layer n.expert n.step, n.layer, n.expert)],
        (pcState s.pkg pp = 6 → Completes x.1 s (fun q => q = answerRoute (begun s) pp x.2.1 0x0EE1))
        ∧ (pcState s.pkg pp ≠ 6 → x.2.2.1 = .drop → Completes x.1 s (fun q => q = answerRoute (begun s) pp x.2.1 0))
        ∧ (pcState s.pkg pp ≠ 6 → x.2.2.1 = .refuse → Completes x.1 s (fun q => ∃ p, p = refuseEarly (begun s) pp x.2.2.2.1 x.2.2.2.2
            ∧ p.parts = s.pkg.parts ∧ p.mem = s.pkg.mem ∧ q = answerRoute p pp x.2.1 0x0E0B))
        ∧ (pcState s.pkg pp ≠ 6 → x.2.2.1 = .hold → Completes x.1 s (fun q => q.mem = s.pkg.mem ∧ q.dict = s.pkg.dict
            ∧ (part q pp).er.heldRows = (part s.pkg pp).er.heldRows ++ (match x.2.1 with | .row r => [r] | .notice _ => [])
            ∧ (part q pp).er.heldNotices = (part s.pkg pp).er.heldNotices ++ (match x.2.1 with | .row _ => [] | .notice m => [m]))))

/-- R330, R332: outside a reset a packet of a collective that this member does not run yet waits for it, and one tagged two or more steps ahead is refused with 0x0D0B; in a reset it is dropped. R328, R329: a packet that fits a running collective is taken in: a GATHER adds the sender's run, a PARTIAL enters the reduction, and what the member then has to pass on is sent. R330, R73: a packet that does not fit ends the collective with 0x0D09; an ABORT ends it, and its pass fails with 0x0DE2. Commands that it says complete: collPartial, collGather, collAbort. -/
def Obligations.CollectivePackets : Prop :=
  ∀ (s : State) (pp : Fin 12) (h : CollHeader) (data : Bytes), powered s.pkg = true →
    (pcState s.pkg pp = 6 → ∀ c ∈ [Instr.collPartial pp h data, .collGather pp h data, .collAbort pp h], Completes c s (fun q => q = begun s))
    ∧ (pcState s.pkg pp ≠ 6 →
      (h.step ≠ (stepOf s.pkg pp + 1) % 2 ^ 32 → stepAhead h.step (stepOf s.pkg pp) = true →
        ∀ c ∈ [Instr.collPartial pp h data, .collGather pp h data, .collAbort pp h],
          Completes c s (fun q => rd q Ix.tfLastStatus 0 = 0x0D0B ∧ q.tf = s.pkg.tf ∧ q.parts = s.pkg.parts ∧ q.mem = s.pkg.mem))
      ∧ (h.step = (stepOf s.pkg pp + 1) % 2 ^ 32 → h.step ≠ stepOf s.pkg pp → s.pkg.tf.colls.find? (fun c => c.named pp h) = none →
        ∀ x ∈ [(Instr.collPartial pp h data, 0x80, data), (.collGather pp h data, 0x81, data), (.collAbort pp h, 0x82, [])],
          Completes x.1 s (fun q => q.tf.heldColl = s.pkg.tf.heldColl ++ [{ pp, type := x.2.1, header := h, data := x.2.2 }]
            ∧ q.dict = s.pkg.dict ∧ q.mem = s.pkg.mem))
      ∧ (∀ c, h.step = stepOf s.pkg pp → s.pkg.tf.colls.find? (fun c => c.named pp h) = some c → h.version = c.version →
          (c.fits h data.length = true →
            Completes (.collGather pp h data) s (fun q => ∃ b : CollBlock, b.line = h.line ∧ b.off = h.element ∧ b.dim = h.dimension
                ∧ b.words = (records c.width data).map (fun w => BitVec.ofNat 32 (leNat w))
                ∧ ∃ r, r = takeGather c h.sender b ∧ q = sendBlocks (putColl (begun s) c r.1) r.1 r.2)
            ∧ Completes (.collPartial pp h data) s (fun q => ∃ b : CollBlock, b.line = h.line ∧ b.off = h.element ∧ b.dim = h.dimension
                ∧ b.words = (records c.width data).map (fun w => BitVec.ofNat 32 (leNat w))
                ∧ ∃ r, r = takePartial c (c.coord h.sender h.dimension) b ∧ q = sendBlocks (putColl (begun s) c r.1) r.1 r.2))
          ∧ (c.fits h data.length = false → ∀ i ∈ [Instr.collPartial pp h data, .collGather pp h data],
              Completes i s (fun q => ∃ p, c ∉ p.tf.colls ∧ rd p Ix.tfLastStatus 0 = 0x0D09 ∧ p.mem = s.pkg.mem ∧ p.parts = s.pkg.parts
                ∧ q = passFail p c.block 0x0D09)))
      ∧ (∀ c, h.step = stepOf s.pkg pp → s.pkg.tf.colls.find? (fun c => c.named pp h) = some c →
          Completes (.collAbort pp h) s (fun q => ∃ p, c ∉ p.tf.colls ∧ rd p Ix.tfLastStatus 0 = 0x0DE2 ∧ p.mem = s.pkg.mem ∧ p.parts = s.pkg.parts
            ∧ q = passFail p c.block 0x0DE2)))

/-- R247: a scrub of a trained stack or DIMM that meets one listed word: an uncorrectable one is rewritten as poisoned and counted, a corrected one is rewritten clean and counted, and one that lies elsewhere stays. A scrub that is turned off, or of a unit that does not work, does nothing. Commands that it says complete: scrubPass. -/
def Obligations.ScrubRewrites : Prop :=
  ∀ (s : State) (ddr : Bool) (unit : Fin 16), powered s.pkg = true →
    let on := if ddr then rd s.pkg Ix.ddScrubPeriodH 0 ≠ 0 ∧ rd s.pkg Ix.ddChannelState unit = 0
      else unit.val < 12 ∧ rd s.pkg Ix.hbScrubPeriodH unit ≠ 0 ∧ regionHidden s.pkg unit = false ∧ rd s.pkg Ix.hbStackState unit ≠ 4
    let base : Nat := if ddr then 0x010000000000 + unit.val * 0x002000000000 else unit.val * 0x001000000000
    let n : Nat := if ddr then 0x002000000000 else if rd s.pkg Ix.hbStackState unit = 0 then 0x001000000000 else 62 * 2 ^ 30
    (¬ on → Completes (.scrubPass ddr unit) s (fun q => q = begun s))
    ∧ (∀ (w : Nat) (e : StoredWord), on → Memory.wf s.pkg.mem = true → s.pkg.mem.raw = [(w, e)] →
      (base ≤ 4 * w → 4 * w < base + n → decodeWord e = .uncorrectable →
        Completes (.scrubPass ddr unit) s (fun q => storedWord q.mem w = poisonWord ∧ Memory.wf q.mem = true ∧ q.parts = s.pkg.parts
          ∧ (if ddr then rd q Ix.ddUncorrectable unit = (rd s.pkg Ix.ddUncorrectable unit + 1) % 2 ^ 64
             else rd q Ix.hbUncorrectable unit = (rd s.pkg Ix.hbUncorrectable unit + 1) % 2 ^ 64)))
      ∧ (∀ d, base ≤ 4 * w → 4 * w < base + n → decodeWord e = .data d true →
        Completes (.scrubPass ddr unit) s (fun q => storedWord q.mem w = encodeWord d ∧ Memory.wf q.mem = true ∧ q.parts = s.pkg.parts
          ∧ (if ddr then rd q Ix.ddCorrected unit = (rd s.pkg Ix.ddCorrected unit + 1) % 2 ^ 64
             else rd q Ix.hbCorrected unit = (rd s.pkg Ix.hbCorrected unit + 1) % 2 ^ 64)))
      ∧ ((4 * w < base ∨ base + n ≤ 4 * w) → Completes (.scrubPass ddr unit) s (fun q => q.mem = s.pkg.mem ∧ q.tm = s.pkg.tm ∧ q.parts = s.pkg.parts)))

/-- R260, R261, R263: a DDR5 channel that works fails: its retries are used up, it stands at state 3, its zero fill is over, the writes held in its range leave the queue, and what lay in its range is reported lost. An HBM4 stack's first failed channel degrades the stack: the channel is marked, the poison fill starts at its base, and what lay in the stack is reported lost. R262: a second one makes every offset absent and fences the region with 0x0A04. A channel that is empty or has failed already loses nothing again. Commands that it says complete: channelFailure. -/
def Obligations.ChannelsFail : Prop :=
  (∀ (s : State) (unit : Fin 16) (ch : Fin 32), powered s.pkg = true →
    (rd s.pkg Ix.ddChannelState unit ≤ 1 →
      Completes (.channelFailure true unit ch) s (fun q => ∃ p, rd p Ix.ddChannelState unit = 3 ∧ tfind p.tm.zeroFill unit = none
        ∧ rd p Ix.ddRetries unit = (rd s.pkg Ix.ddRetries unit + rd s.pkg Ix.ddRetryLimit 0) % 2 ^ 64
        ∧ p.tm.held = s.pkg.tm.held.filter (fun t => decide (t.addr < 0x010000000000 + unit.val * 0x002000000000)
            || decide (0x010000000000 + unit.val * 0x002000000000 + 0x002000000000 ≤ t.addr))
        ∧ p.mem = s.pkg.mem ∧ p.parts = s.pkg.parts
        ∧ q = reportLoss p 0xFF 3 1 unit (0x010000000000 + unit * 0x002000000000) (rd s.pkg Ix.ddDimmBytes unit)))
    ∧ (2 ≤ rd s.pkg Ix.ddChannelState unit →
      Completes (.channelFailure true unit ch) s (fun q => q.dict = s.pkg.dict ∧ q.mem = s.pkg.mem ∧ q.parts = s.pkg.parts ∧ q.tm.held = s.pkg.tm.held)))
  ∧ (∀ (s : State) (stack : Fin 12) (unit : Fin 16) (ch : Fin 32), unit.val = stack.val → powered s.pkg = true →
    (regionHidden s.pkg stack = true ∨ rdAt s.pkg Ix.hbChannelState stack ch = 1 →
      Completes (.channelFailure false unit ch) s (fun q => q.dict = s.pkg.dict ∧ q.mem = s.pkg.mem ∧ q.parts = s.pkg.parts ∧ q.tm.held = s.pkg.tm.held))
    ∧ (regionHidden s.pkg stack = false → rdAt s.pkg Ix.hbChannelState stack ch ≠ 1 → rd s.pkg Ix.hbStackState stack = 0 →
      Completes (.channelFailure false unit ch) s (fun q => ∃ p, rd p Ix.hbStackState stack = 3 ∧ rd p Ix.hbFailedChannel stack = ch
        ∧ rdAt p Ix.hbChannelState stack ch = 1 ∧ tfind p.tm.poisonFill stack = some 0 ∧ p.mem = s.pkg.mem ∧ p.parts = s.pkg.parts
        ∧ q = reportLoss p ((partOfRegion s.pkg stack).getD 0xFF) 1 0 (ch * 256 + stack) (stack * 0x001000000000) 0x001000000000))
    ∧ (regionHidden s.pkg stack = false → rdAt s.pkg Ix.hbChannelState stack ch ≠ 1 →
      (rd s.pkg Ix.hbStackState stack = 2 ∨ rd s.pkg Ix.hbStackState stack = 3) →
      Completes (.channelFailure false unit ch) s (fun q => ∃ p, rd p Ix.hbStackState stack = 4 ∧ rdAt p Ix.hbChannelState stack ch = 1
        ∧ tfind p.tm.poisonFill stack = none
        ∧ p.tm.held = s.pkg.tm.held.filter (fun t => decide (t.addr < stack.val * 0x001000000000) || decide (stack.val * 0x001000000000 + 0x001000000000 ≤ t.addr))
        ∧ p.mem = s.pkg.mem ∧ p.parts = s.pkg.parts
        ∧ q = fenceRegion (reportLoss p ((partOfRegion s.pkg stack).getD 0xFF) 2 0 stack (stack * 0x001000000000) 0x001000000000) stack 0x0A04)))

/-- R260: a write of `dd_fail_channel` that the dictionary lets through fails a channel that works where the value is 1, and is refused with 0x1006 otherwise; a write of `hb_fail_channel` fails the channel that it names, and one of 32 or more is refused. A subindex of 12 or more of `hb_fail_channel` does not exist. R261, R478: the end of a poison fill poisons the 62 GiB that remain, brings the stack from state 3 to state 2 and lets the held writes go; the end of a channel's zero fill lets the held writes go: each stays held or waits to be performed. Nothing else in memory changes. Commands that it says complete: poisonFillComplete, failChannelWrite, ddrFillComplete. -/
def Obligations.ChannelCommandsComplete : Prop :=
  (∀ (s : State) (value : Byte), powered s.pkg = true →
    (∀ unit : Fin 16, gate s.pkg Ix.ddFailChannel 0 unit = none →
      (value = 1 → rd s.pkg Ix.ddChannelState unit ≤ 1 → Completes (.failChannelWrite true unit value) s (fun q => ∃ p, rd p Ix.ddChannelState unit = 3
        ∧ p.mem = s.pkg.mem ∧ p.parts = s.pkg.parts
        ∧ q = answered Ix.ddFailChannel unit (reportLoss p 0xFF 3 1 unit (0x010000000000 + unit * 0x002000000000) (rd s.pkg Ix.ddDimmBytes unit), accepted)))
      ∧ (value = 1 → 2 ≤ rd s.pkg Ix.ddChannelState unit → Completes (.failChannelWrite true unit value) s (fun q => q.dict = s.pkg.dict ∧ q.mem = s.pkg.mem
        ∧ q.parts = s.pkg.parts ∧ q.out.getLast? = some (.answer 0x4C0A unit 0 0 false)))
      ∧ (value ≠ 1 → Completes (.failChannelWrite true unit value) s (fun q => q.dict = s.pkg.dict ∧ q.tm = s.pkg.tm
        ∧ q.out.getLast? = some (.answer 0x4C0A unit 6 0x1006 false))))
    ∧ (∀ (stack : Fin 12) (unit : Fin 16), unit.val = stack.val → gate s.pkg Ix.hbFailChannel 0 stack = none →
      (value.toNat < 32 → regionHidden s.pkg stack = false → rdAt s.pkg Ix.hbChannelState stack value.toNat ≠ 1 → rd s.pkg Ix.hbStackState stack = 0 →
        Completes (.failChannelWrite false unit value) s (fun q => ∃ p, rd p Ix.hbStackState stack = 3 ∧ rd p Ix.hbFailedChannel stack = value.toNat
        ∧ p.mem = s.pkg.mem ∧ p.parts = s.pkg.parts
        ∧ q = answered Ix.hbFailChannel stack (reportLoss p ((partOfRegion s.pkg stack).getD 0xFF) 1 0 (value.toNat * 256 + stack)
            (stack * 0x001000000000) 0x001000000000, accepted)))
      ∧ (value.toNat < 32 → regionHidden s.pkg stack = false → rdAt s.pkg Ix.hbChannelState stack value.toNat ≠ 1 →
        (rd s.pkg Ix.hbStackState stack = 2 ∨ rd s.pkg Ix.hbStackState stack = 3) →
        Completes (.failChannelWrite false unit value) s (fun q => ∃ p, rd p Ix.hbStackState stack = 4 ∧ p.mem = s.pkg.mem ∧ p.parts = s.pkg.parts
        ∧ q = answered Ix.hbFailChannel stack (fenceRegion (reportLoss p ((partOfRegion s.pkg stack).getD 0xFF) 2 0 stack
            (stack * 0x001000000000) 0x001000000000) stack 0x0A04, accepted)))
      ∧ (32 ≤ value.toNat → Completes (.failChannelWrite false unit value) s (fun q => q.dict = s.pkg.dict ∧ q.tm = s.pkg.tm
        ∧ q.out.getLast? = some (.answer 0x4830 stack 6 0x1006 false))))
    ∧ (∀ unit : Fin 16, 12 ≤ unit.val → Completes (.failChannelWrite false unit value) s (fun q => q.dict = s.pkg.dict ∧ q.tm = s.pkg.tm
        ∧ q.out.getLast? = some (.answer 0x4830 unit 2 0x1002 false))))
  ∧ (∀ (s : State), powered s.pkg = true →
    (∀ (stack : Fin 12) (f : Nat), tfind s.pkg.tm.poisonFill stack = some f → rd s.pkg Ix.hbStackState stack = 3 →
      Completes (.poisonFillComplete stack) s (fun q => ∃ p, rd p Ix.hbStackState stack = 2 ∧ tfind p.tm.poisonFill stack = none
        ∧ p.mem = memFill s.pkg.mem (stack * 0x001000000000) (62 * 2 ^ 30) ∧ p.parts = s.pkg.parts
        ∧ (∀ t ∈ s.pkg.tm.held, if mustHold p t.addr then t ∈ p.tm.held else (t, 0) ∈ p.ms.failed) ∧ q = startRefills p))
    ∧ (∀ channel : Fin 16, Completes (.ddrFillComplete channel) s (fun q => tfind q.tm.zeroFill channel = none ∧ q.mem = s.pkg.mem ∧ q.parts = s.pkg.parts
        ∧ (∀ t ∈ s.pkg.tm.held, if mustHold q t.addr then t ∈ q.tm.held else (t, 0) ∈ q.ms.failed))))

/-- R252, R254: the copy of a page that is among the 64 in flight: the destination gets the page, the move waits for its commit, and the bytes moved are counted; a source that is not in flight changes nothing. Commands that it says complete: pageCopyComplete. -/
def Obligations.PageCopyCompletes : Prop :=
  ∀ (s : State) (source : Nat), powered s.pkg = true →
    (∀ m, ((s.pkg.tm.moves.filter (fun m => !m.copied)).take 64).find? (fun m => m.source == source) = some m →
      Completes (.pageCopyComplete source) s (fun q => ∃ p, p = copyPage (begun s) m.source m.dest (slotSize s.pkg m.partition)
        ∧ q.mem = p.mem ∧ q.parts = p.parts
        ∧ q.tm.moves = p.tm.moves.filter (fun x => !(x.source == m.source)) ++ [{ m with copied := true }]
        ∧ rd q Ix.tmBytesMoved 0 = (rd p Ix.tmBytesMoved 0 + slotSize s.pkg m.partition) % 2 ^ 64))
    ∧ (((s.pkg.tm.moves.filter (fun m => !m.copied)).take 64).find? (fun m => m.source == source) = none →
      Completes (.pageCopyComplete source) s (fun q => q = begun s))

/-- R249, R250: a write of the fixed ranges that the dictionary lets through and that keeps the layout is in force, and the lent units it needs are reclaimed; one that breaks the layout is refused with 0x0902. A spill pool of whole slots inside a fixed range of T1 is taken, and another is refused with 0x0903. Commands that it says complete: fixedRangesWrite, spillPoolWrite. -/
def Obligations.RangeWritesComplete : Prop :=
  ∀ (s : State) (pp : Fin 12), powered s.pkg = true →
    (∀ data : Bytes, gate s.pkg Ix.tmFixedRanges 0 pp = none →
      let ok := data.length % 16 = 0 ∧ data.length ≤ 4096 ∧ (records 16 data).all (fun b => fixedRangeOk s.pkg pp (leAt b 0 8, leAt b 8 8)) = true
      (ok → Completes (.fixedRangesWrite pp data) s (fun q => ∃ p, rdB p Ix.tmFixedRanges pp = data ∧ p.mem = s.pkg.mem ∧ p.tm = s.pkg.tm ∧ p.parts = s.pkg.parts
          ∧ q = answered Ix.tmFixedRanges pp (reclaimNeeded p, accepted)))
      ∧ (¬ ok → Completes (.fixedRangesWrite pp data) s (fun q => rd q Ix.tmLastStatus 0 = 0x0902
          ∧ rdB q Ix.tmFixedRanges pp = rdB s.pkg Ix.tmFixedRanges pp ∧ q.out.getLast? = some (.answer 0x4400 pp 6 0x0902 false))))
    ∧ (∀ (size : Bool) (v : DWord), gate s.pkg (if size then Ix.tmSpillBytes else Ix.tmSpillBase) 0 pp = none →
      let base := if size then rd s.pkg Ix.tmSpillBase pp else v.toNat
      let n := if size then v.toNat else rd s.pkg Ix.tmSpillBytes pp
      let ok := base % 4096 = 0 ∧ n % slotSize s.pkg pp = 0 ∧ (n = 0 ∨ (inFixedRange s.pkg pp base n = true ∧ rangeNo base = 1))
      (ok → Completes (.spillPoolWrite pp size v) s (fun q => rd q Ix.tmSpillBase pp = base ∧ rd q Ix.tmSpillBytes pp = n
          ∧ q.parts = s.pkg.parts ∧ q.mem = s.pkg.mem ∧ q.out.getLast? = some (.answer (if size then 0x4402 else 0x4401) pp 0 0 false)))
      ∧ (¬ ok → Completes (.spillPoolWrite pp size v) s (fun q => rd q Ix.tmSpillBase pp = rd s.pkg Ix.tmSpillBase pp ∧ rd q Ix.tmSpillBytes pp = rd s.pkg Ix.tmSpillBytes pp
          ∧ rd q Ix.tmLastStatus 0 = 0x0903 ∧ q.out.getLast? = some (.answer (if size then 0x4402 else 0x4401) pp 6 0x0903 false))))

/-- R255, R257: with lending enabled, each advert timer records the present offer as advertised and sends it to the packages within the radius; with lending disabled it sends nothing. An ADVERT that keeps its layout and finds a place in the mailbox makes its sender's offer known. R256: a message finds the mailbox full (0x0904), or is malformed and dropped, or is acted on. R257: a BORROW is answered by a GRANT of at most the units asked for and offered, taken out of free space, or by a REFUSE where there is none; a GRANT that answers a BORROW ends the wish and maps its units up to the maximum, the rest going back, and one that answers none goes back whole; a REFUSE ends the wish it answers. R258: a RECLAIM puts the named borrowed units under reclaim; a RELEASE hands the named lent units to their fill. Commands that it says complete: advertTimer, advert, borrow, grant, refuse, reclaim, release. -/
def Obligations.LendingMessagesComplete : Prop :=
  (∀ (s : State), powered s.pkg = true →
    (rd s.pkg Ix.tmLendEnable 0 = 1 → Completes .advertTimer s (fun q => ∃ p, p.tm.advertised = offer s.pkg ∧ p.mem = s.pkg.mem ∧ p.dict = s.pkg.dict
        ∧ q = ((otherPackages s.pkg).filter (fun k => decide (hops s.pkg (ownId s.pkg) k ≤ rd s.pkg Ix.tmLendRadiusHops 0) && !s.pkg.tf.holes.contains k)).foldl
            (fun p k => sendTm p k { type := 1, units := offer s.pkg } none) p))
    ∧ (rd s.pkg Ix.tmLendEnable 0 ≠ 1 → Completes .advertTimer s (fun q => q = begun s))
    ∧ (∀ m : TmMessage, (s.pkg.tm.mailbox.filter (fun e => decide (s.clock.ns < e.1 + 1000000))).length < 256 → tmOk { m with type := 1 } = true →
        Completes (.advert m) s (fun q => tget q.tm.offers m.sender 0 = m.units ∧ q.tm.loans = s.pkg.tm.loans ∧ q.dict = s.pkg.dict ∧ q.mem = s.pkg.mem
          ∧ q.parts = s.pkg.parts)))
  ∧ (∀ (s : State) (m : TmMessage), powered s.pkg = true →
    let box := s.pkg.tm.mailbox.filter (fun e => decide (s.clock.ns < e.1 + 1000000))
    (∀ c ∈ [((1 : Nat), Instr.advert m), (2, .borrow m), (3, .grant m), (4, .refuse m), (5, .reclaim m), (6, .release m)],
      (256 ≤ box.length → Completes c.2 s (fun q => rd q Ix.tmLastStatus 0 = 0x0904 ∧ q.tm = s.pkg.tm ∧ q.mem = s.pkg.mem ∧ q.parts = s.pkg.parts))
      ∧ (box.length < 256 → tmOk { m with type := c.1 } = false →
        Completes c.2 s (fun q => q.tm = s.pkg.tm ∧ q.mem = s.pkg.mem ∧ q.parts = s.pkg.parts)))
    ∧ (box.length < 256 →
      (tmOk { m with type := 2 } = true → ∃ us, us = ((List.range 2048).filter (unitFree s.pkg)).take (min m.units (offer s.pkg)) ∧
        (us = [] → Completes (.borrow m) s (fun q => ∃ p, p.tm.loans = s.pkg.tm.loans ∧ p.dict = s.pkg.dict ∧ p.mem = s.pkg.mem
          ∧ q = sendTm p m.sender { type := 4 } (some m.sequence)))
        ∧ (us ≠ [] → Completes (.borrow m) s (fun q => ∃ p, p.tm.loans = s.pkg.tm.loans ++ us.map (fun u => { partner := m.sender, unit := u })
          ∧ rd p Ix.tmLentBytes 0 = ((lentUnits p).length * 0x40000000) % 2 ^ 64 ∧ p.mem = s.pkg.mem
          ∧ q = sendTm p m.sender { type := 3, units := us.length, unitList := us } (some m.sequence))))
      ∧ (tmOk { m with type := 3 } = true →
        (∀ w, s.pkg.tm.wanted.find? (fun w => w.1 == m.sequence && w.2.1 == m.sender) = some w →
          Completes (.grant m) s (fun q => ∃ p room, room = rd s.pkg Ix.tmBorrowMaxGib 0 - mappedUnits s.pkg
            ∧ w ∉ p.tm.wanted ∧ p.tm.loans = s.pkg.tm.loans ∧ p.dict = s.pkg.dict ∧ p.mem = s.pkg.mem
            ∧ q = giveBack ((m.unitList.take room).foldl (mapUnit w.2.2.1 m.sender) p) m.sender (m.unitList.drop room)))
        ∧ (s.pkg.tm.wanted.find? (fun w => w.1 == m.sequence && w.2.1 == m.sender) = none →
          Completes (.grant m) s (fun q => ∃ p, p.tm.loans = s.pkg.tm.loans ∧ p.dict = s.pkg.dict ∧ p.mem = s.pkg.mem ∧ q = giveBack p m.sender m.unitList)))
      ∧ (tmOk { m with type := 4 } = true → Completes (.refuse m) s (fun q =>
          q.tm.wanted = s.pkg.tm.wanted.filter (fun w => !(w.1 == m.sequence && w.2.1 == m.sender)) ∧ q.tm.loans = s.pkg.tm.loans
          ∧ q.dict = s.pkg.dict ∧ q.mem = s.pkg.mem))
      ∧ (tmOk { m with type := 5 } = true → Completes (.reclaim m) s (fun q =>
          q.tm.loans = s.pkg.tm.loans.map (fun l => if l.slot.isSome && l.partner == m.sender && m.unitList.contains l.unit
            then { l with state := 1, deadlineNs := if l.state = 1 then min l.deadlineNs m.deadlineNs else m.deadlineNs } else l)
          ∧ rd q Ix.tmLastStatus 0 = 0x0912 ∧ q.mem = s.pkg.mem ∧ q.parts = s.pkg.parts))
      ∧ (tmOk { m with type := 6 } = true → Completes (.release m) s (fun q =>
          q.tm.loans = s.pkg.tm.loans.map (fun l => if l.slot.isNone && l.partner == m.sender && m.unitList.contains l.unit then { l with state := 2 } else l)
          ∧ q.mem = s.pkg.mem ∧ q.parts = s.pkg.parts))))

/-- R258: at the deadline the lender starts the fill of its unit; the borrower's page losses are reported and its window goes. R257: a borrowed unit that holds no page and is no destination goes back to its lender. A filled unit is poison and free again. A write of `tm_reclaim_units` puts that many lent units, the highest numbers first, under reclaim with the grace period's deadline. Commands that it says complete: reclaimDeadline, unitIdleRelease, unitPoisonFillDone, reclaimUnitsWrite. -/
def Obligations.LendingEnds : Prop :=
  ∀ (s : State) (unit : Nat), powered s.pkg = true →
    (Completes (.reclaimDeadline (ownId s.pkg) unit) s (fun q => q.tm.loans = s.pkg.tm.loans.map (fun l =>
        if l.slot.isNone && (l.unit == unit && l.state == 1 && decide (l.deadlineNs ≤ s.clock.ns)) then { l with state := 2 } else l)
        ∧ q.mem = s.pkg.mem ∧ q.parts = s.pkg.parts))
    ∧ (∀ lender l, lender ≠ ownId s.pkg →
        s.pkg.tm.loans.find? (fun l => l.slot.isSome && l.partner == lender && (l.unit == unit && l.state == 1 && decide (l.deadlineNs ≤ s.clock.ns))) = some l →
        Completes (.reclaimDeadline lender unit) s (fun q =>
          q = unmapUnit (reportLoss (begun s) l.partition 5 2 lender (0x040000000000 + l.slot.getD 0 * 0x40000000) 0x40000000) l 0x0905))
    ∧ (∀ lender, lender ≠ ownId s.pkg →
        s.pkg.tm.loans.find? (fun l => l.slot.isSome && l.partner == lender && (l.unit == unit && l.state == 1 && decide (l.deadlineNs ≤ s.clock.ns))) = none →
        Completes (.reclaimDeadline lender unit) s (fun q => q = begun s))
    ∧ (∀ lender l w, s.pkg.tm.loans.find? (fun l => l.slot.isSome && l.partner == lender && l.unit == unit) = some l → l.slot = some w →
        pagesInUnit s.pkg l = [] →
        (∀ m ∈ s.pkg.tm.moves, m.dest < 0x040000000000 + w * 0x40000000 ∨ 0x040000000000 + w * 0x40000000 + 0x40000000 ≤ m.dest) →
        Completes (.unitIdleRelease lender unit) s (fun q => ∃ p, l ∉ p.tm.loans ∧ p.mem = s.pkg.mem ∧ p.parts = s.pkg.parts
          ∧ q = sendTm p l.partner { type := 6, units := 1, unitList := [l.unit] } none))
    ∧ (∀ l, s.pkg.tm.loans.find? (fun l => l.slot.isNone && l.unit == unit && l.state == 2) = some l →
        Completes (.unitPoisonFillDone unit) s (fun q => l ∉ q.tm.loans ∧ q.mem = memFill s.pkg.mem (unitAddr unit) 0x40000000
          ∧ q.parts = s.pkg.parts))
    ∧ (s.pkg.tm.loans.find? (fun l => l.slot.isNone && l.unit == unit && l.state == 2) = none →
        Completes (.unitPoisonFillDone unit) s (fun q => q = begun s))
    ∧ (∀ count : BitVec 16, gate s.pkg Ix.tmReclaimUnits 0 0 = none →
        Completes (.reclaimUnitsWrite count) s (fun q => ∃ mine : List Loan,
          mine = (sortBy (fun (a b : Loan) => decide (b.unit < a.unit)) ((lentUnits s.pkg).filter (fun l => l.state == 0))).take count.toNat
          ∧ q = answered Ix.tmReclaimUnits 0 (reclaimLoans (begun s) mine, accepted)))

/-- R273, R274: a load command that the dictionary lets through: one that breaks its layout is refused with 0x0801; with both jobs running it is refused as busy with 0x08E0; one whose image fails a check of steps 1 to 3, or finds no room, ends its job with that check's status; one that passes them and finds room enters its version, puts its shards' slices to be copied, deals them to the sources and starts the job. R274: a slice of a running load lands in its place: where its digest is right it is counted as copied and no longer to do, and the load is finished when nothing is left; a first wrong digest, or a first read that failed, has it fetched once more, and a second one fails the job; a source that lacks the version fails it with 0x0809. What is not to do changes nothing. Commands that it says complete: loadCommand, sliceLanded. -/
def Obligations.LoadsComplete : Prop :=
  (∀ (s : State) (data : Bytes) (image : ImageHead), powered s.pkg = true → gate s.pkg Ix.wmLoadCommand 0 0 = none →
    (loadCommandOk data = false → Completes (.loadCommand data image) s (fun q => q.wm = s.pkg.wm ∧ q.mem = s.pkg.mem ∧ rd q Ix.wmLastStatus 0 = 0x0801
        ∧ q.out.getLast? = some (.answer 0x4010 0 6 0x0801 false)))
    ∧ (loadCommandOk data = true → s.pkg.wm.jobs.findIdx? (fun j => j.state != 1) = none →
        Completes (.loadCommand data image) s (fun q => q.wm = s.pkg.wm ∧ q.mem = s.pkg.mem ∧ rd q Ix.wmLastStatus 0 = 0x08E0
          ∧ q.out.getLast? = some (.answer 0x4010 0 7 0x08E0 false)))
    ∧ (∀ j, loadCommandOk data = true → s.pkg.wm.jobs.findIdx? (fun j => j.state != 1) = some j →
        (∀ st, loadStatus (begun s) data image = st → st ≠ 0 → Completes (.loadCommand data image) s (fun q =>
            jobAt q j = { state := 3, tag := leAt data 6 2, version := leAt data 2 2, status := st } ∧ q.wm.versions = s.pkg.wm.versions
            ∧ rd q Ix.wmLastStatus 0 = st % 65536 ∧ q.mem = s.pkg.mem ∧ q.out.getLast? = some (.answer 0x4010 0 0 0 false)))
        ∧ (∀ m r st, image.header.isSome = true → image.manifest = some m → loadStatus (begun s) data image = 0 →
            makeExtents (begun s) ((shardsAt m (leAt data 4 2)).map Shard.extent) = (r, st) → st ≠ 0 → r.wm.jobs = s.pkg.wm.jobs →
            Completes (.loadCommand data image) s (fun q => jobAt q j = { state := 3, tag := leAt data 6 2, version := leAt data 2 2, status := st }
              ∧ q.wm.versions = r.wm.versions ∧ rd q Ix.wmLastStatus 0 = st % 65536 ∧ q.mem = r.mem ∧ q.out.getLast? = some (.answer 0x4010 0 0 0 false)))
        ∧ (∀ h m r shards, image.header = some h → image.manifest = some m → loadStatus (begun s) data image = 0 →
            shards = shardsAt m (leAt data 4 2) → makeExtents (begun s) (shards.map Shard.extent) = (r, 0) → r.wm.jobs = s.pkg.wm.jobs →
            Completes (.loadCommand data image) s (fun q => ∃ p v,
              p.wm.versions = insertVersion v r.wm.versions ∧ v.version = leAt h 6 2 ∧ v.state = 0 ∧ v.shards = shards ∧ v.position = leAt data 4 2
              ∧ (jobAt p j).state = 1 ∧ (jobAt p j).version = leAt h 6 2 ∧ (jobAt p j).tag = leAt data 6 2 ∧ (jobAt p j).landed = []
              ∧ (jobAt p j).startNs = s.clock.ns ∧ (jobAt p j).todo = shards.zipIdx.flatMap (fun s => (List.range s.1.digests.length).map (fun k => (s.2, k)))
              ∧ q = answered Ix.wmLoadCommand 0 (finishLoad (showProfile p) j, accepted)))))
  ∧ (∀ (s : State) (j : Fin 2) (shard k : Nat), powered s.pkg = true →
    (∀ (data : SliceRead), (jobAt s.pkg j).state ≠ 1 ∨ (shard, k) ∉ (jobAt s.pkg j).todo →
      Completes (.sliceLanded j shard k data) s (fun q => q = begun s))
    ∧ ((jobAt s.pkg j).state = 1 → (shard, k) ∈ (jobAt s.pkg j).todo →
      ((jobAt s.pkg j).sources ≠ [] → Completes (.sliceLanded j shard k .lacks) s (fun q => q = showProfile (failJob (begun s) j 0x0809)))
      ∧ ∀ (v : Version) (x : Shard), findVersion s.pkg (jobAt s.pkg j).version = some v → v.shards[shard]? = some x → (jobAt s.pkg j).refill = false →
        (∀ b p, b.length = sliceBytes x k → storeLocal (begun s) (x.target + k * 0x1000000) b false false 0x093 0xFF 0 = (p, 0) → p.wm = s.pkg.wm →
          (sha256 b = x.digests.getD k [] → Completes (.sliceLanded j shard k (.good b)) s (fun q => ∃ p', p'.mem = p.mem
              ∧ rd p' Ix.wmBytesLoaded 0 = (rd p Ix.wmBytesLoaded 0 + b.length) % 2 ^ 64
              ∧ (jobAt p' j).todo = (jobAt s.pkg j).todo.filter (· != (shard, k)) ∧ (jobAt p' j).landed = (jobAt s.pkg j).landed ++ [(shard, k)]
              ∧ (jobAt p' j).copied = (jobAt s.pkg j).copied + b.length ∧ q = finishLoad p' j))
          ∧ (sha256 b ≠ x.digests.getD k [] → (shard, k) ∉ (jobAt s.pkg j).mismatched → (shard, k) ∉ (jobAt s.pkg j).refetched →
            Completes (.sliceLanded j shard k (.good b)) s (fun q => q.mem = p.mem
              ∧ rd q Ix.wmDigestFailures 0 = (rd p Ix.wmDigestFailures 0 + 1) % 2 ^ 32 ∧ (jobAt q j).todo = (jobAt s.pkg j).todo
              ∧ (jobAt q j).refetched = (jobAt s.pkg j).refetched ++ [(shard, k)]))
          ∧ (sha256 b ≠ x.digests.getD k [] → (shard, k) ∈ (jobAt s.pkg j).refetched →
            Completes (.sliceLanded j shard k (.good b)) s (fun q => ∃ p', p'.mem = p.mem ∧ q = showProfile (failJob p' j 0x0807))))
        ∧ ((shard, k) ∉ (jobAt s.pkg j).refetched → Completes (.sliceLanded j shard k .failed) s (fun q => q.mem = s.pkg.mem ∧ q.dict.vals = s.pkg.dict.vals
              ∧ (jobAt q j).todo = (jobAt s.pkg j).todo ∧ (jobAt q j).refetched = (jobAt s.pkg j).refetched ++ [(shard, k)]))
        ∧ ((shard, k) ∈ (jobAt s.pkg j).refetched → Completes (.sliceLanded j shard k .failed) s (fun q => q = showProfile (failJob (begun s) j 0x0808)))))

/-- R279: a write of `wm_unload` that the dictionary lets through: a version that is evictable is dropped and its extents are free; one that only parked requests hold is dropped where bit 16 asks for it; one that is held otherwise, or held at all without bit 16, is refused with 0x080B; an unknown version, or another bit, is refused with 0x1006. R281, R383: a switch record that the dictionary lets through and that its checks accept waits in shadow while its partition runs and nothing is armed there; a record that breaks its layout or names a draft model's version is refused with 0x080C and one that names a version that is not resident with 0x08E2. Commands that it says complete: unloadWrite, switchWrite. -/
def Obligations.VersionCommandsComplete : Prop :=
  (∀ (s : State) (value : Word), powered s.pkg = true → gate s.pkg Ix.wmUnload 0 0 = none →
    (∀ v, findVersion s.pkg (value.toNat % 65536) = some v → value.toNat / 65536 < 2 → evictable' (begun s) v = true →
      Completes (.unloadWrite value) s (fun q => ∃ p, p.wm.versions = s.pkg.wm.versions.filter (fun x => x.version != v.version)
        ∧ rd p Ix.wmEvictions 0 = (rd s.pkg Ix.wmEvictions 0 + 1) % 2 ^ 32 ∧ p.mem = s.pkg.mem ∧ p.parts = s.pkg.parts
        ∧ q = answered Ix.wmUnload 0 (raiseAs p Ix.wmLastStatus 0 0x0812 0xFF 0xFFFFFFFF 0, accepted)))
    ∧ (∀ v, findVersion s.pkg (value.toNat % 65536) = some v → value.toNat / 65536 = 1 → evictable' (begun s) v = false → onlyParked (begun s) v = true →
      Completes (.unloadWrite value) s (fun q => ∃ p, p.wm.versions = s.pkg.wm.versions.filter (fun x => x.version != v.version) ∧ p.mem = s.pkg.mem
        ∧ p.parts = (endParked (begun s) v.version).parts ∧ q = answered Ix.wmUnload 0 (raiseAs p Ix.wmLastStatus 0 0x0812 0xFF 0xFFFFFFFF 0, accepted)))
    ∧ (∀ v, findVersion s.pkg (value.toNat % 65536) = some v → evictable' (begun s) v = false →
      (value.toNat / 65536 = 0 ∨ (value.toNat / 65536 = 1 ∧ onlyParked (begun s) v = false)) →
      Completes (.unloadWrite value) s (fun q => q.wm = s.pkg.wm ∧ rd q Ix.wmLastStatus 0 = 0x080B ∧ q.parts = s.pkg.parts
        ∧ q.out.getLast? = some (.answer 0x4012 0 6 0x080B false)))
    ∧ ((findVersion s.pkg (value.toNat % 65536) = none ∨ 2 ≤ value.toNat / 65536) → Completes (.unloadWrite value) s (fun q => q.wm = s.pkg.wm ∧ q.dict = s.pkg.dict
        ∧ q.out.getLast? = some (.answer 0x4012 0 6 0x1006 false))))
  ∧ (∀ (s : State) (pp : Fin 12) (data : Bytes), powered s.pkg = true → gate s.pkg Ix.wmSwitch 0 pp = none →
    let shaped := data.length = 16 ∧ leAt data 6 1 ≤ 1 ∧ leAt data 7 1 ≤ 1 ∧ allZero (slice data 8 8) = true
    (switchCheck s.pkg data = none → tfind s.pkg.wm.arms pp = none → pcState s.pkg pp = 2 →
      Completes (.switchWrite pp data) s (fun q => shadowOf q Ix.wmSwitch pp = some (.bytes data) ∧ q.wm = s.pkg.wm ∧ q.dict.vals = s.pkg.dict.vals
        ∧ q.parts = s.pkg.parts ∧ q.out.getLast? = some (.answer 0x4001 pp 0 0 true)))
    ∧ (¬ shaped → Completes (.switchWrite pp data) s (fun q => q.wm = s.pkg.wm ∧ q.dict.shadows = s.pkg.dict.shadows
        ∧ rd q Ix.wmLastStatus 0 = 0x080C ∧ q.out.getLast? = some (.answer 0x4001 pp 6 0x080C false)))
    ∧ (∀ v, shaped → findVersion s.pkg (leAt data 4 2) = some v → v.draft = true →
      Completes (.switchWrite pp data) s (fun q => q.wm = s.pkg.wm ∧ q.dict.shadows = s.pkg.dict.shadows
        ∧ rd q Ix.wmLastStatus 0 = 0x080C ∧ q.out.getLast? = some (.answer 0x4001 pp 6 0x080C false)))
    ∧ (shaped → (∀ v, findVersion s.pkg (leAt data 4 2) = some v → v.draft = false ∧ v.state ≠ 1) →
      Completes (.switchWrite pp data) s (fun q => q.wm = s.pkg.wm ∧ q.dict.shadows = s.pkg.dict.shadows
        ∧ rd q Ix.wmLastStatus 0 = 0x08E2 ∧ q.out.getLast? = some (.answer 0x4001 pp 6 0x08E2 false))))

/-- R301, R295: a host's store to the CONTROL register of a channel. START of a channel that is not running and passes the checks puts the counts to 0 and begins in state 1; START that fails them is answered 0x0C01. STOP of a running channel enters state 3. RESUME of a stopped or halted one goes on from the first line not consumed. ABORT drops the pieces and ends in state 0. In a state that does not accept it, a command is answered 0x0C08. R289, R424: a channel of the firmware answers 0x0C02 and one whose partition resets 0x0EE1, and nothing changes. R292, R296: a flagged add raises PRODUCED and the pacing rule is applied, and the host gets the previous count; a store to DST_CONSUMED puts the count, the pieces that waited for it are written as far as it lets them (R294), and the pacing rule is applied. R289: at a firmware channel both are answered 0x0C02 and nothing changes. Commands that it says complete: dmaStart, dmaStop, dmaResume, dmaAbort, dmaProducedAdd, dmaDstConsumedStore. -/
def Obligations.DmaCommandsComplete : Prop :=
  (∀ (s : State) (c : Fin 256), powered s.pkg = true →
    let resets := rd s.pkg Ix.dmChannelPartition c < 12 ∧ pcState s.pkg (rd s.pkg Ix.dmChannelPartition c) = 6
    (¬ resets → firmwareChannel c = false →
      (chanState s.pkg c ∈ [0, 4, 5, 6] → startOk s.pkg c = true → Completes (.dmaStart c) s (fun q => ∃ p,
          chanState p c = 1 ∧ (chan p c).consumed = 0 ∧ (chan p c).written = 0 ∧ (chan p c).signalled = 0 ∧ (chan p c).nextPiece = 0 ∧ (chan p c).pieces = []
          ∧ (chan p c).halting = none ∧ q = registerAnswer (pace p c, 0) 0x41 []))
      ∧ (chanState s.pkg c ∈ [0, 4, 5, 6] → startOk s.pkg c = false → Completes (.dmaStart c) s (fun q => q.dm = s.pkg.dm ∧ chanState q c = chanState s.pkg c
          ∧ rd q Ix.dmChannelLastStatus c = 0x0C01 ∧ ∃ k : Packet, q.out.getLast? = some (.packet k) ∧ k.type = 0x43 ∧ k.status = 0x0C01))
      ∧ (chanState s.pkg c ∈ [1, 2] → Completes (.dmaStop c) s (fun q => chanState q c = 3 ∧ q.dm = s.pkg.dm ∧ q.mem = s.pkg.mem
          ∧ ∃ k : Packet, q.out.getLast? = some (.packet k) ∧ k.type = 0x41))
      ∧ (chanState s.pkg c ∈ [4, 5] → Completes (.dmaResume c) s (fun q => ∃ p,
          chanState p c = 1 ∧ (chan p c).nextPiece = (chan s.pkg c).consumed * max 1 (chan s.pkg c).perLine ∧ (chan p c).consumed = (chan s.pkg c).consumed ∧ (chan p c).pieces = []
          ∧ (chan p c).halting = none ∧ q = registerAnswer (pace p c, 0) 0x41 []))
      ∧ (chanState s.pkg c ≤ 5 → Completes (.dmaAbort c) s (fun q => ∃ p, chanState p c = 0 ∧ rd p Ix.dmChannelLastStatus c = 0x0C07
          ∧ (chan p c).pieces = [] ∧ (chan p c).halting = none ∧ q = registerAnswer (serve p, 0) 0x41 []))
      ∧ (chanState s.pkg c = 6 → Completes (.dmaAbort c) s (fun q => chanState q c = 0 ∧ rd q Ix.dmChannelLastStatus c = 0x0C07 ∧ q.dm = s.pkg.dm ∧ q.mem = s.pkg.mem))
      ∧ (∀ i ∈ [(Instr.dmaStart c, [1, 2, 3]), (.dmaStop c, [0, 3, 4, 5, 6]), (.dmaResume c, [0, 1, 2, 3, 6]), (.dmaAbort c, [7])],
          chanState s.pkg c ∈ i.2 → Completes i.1 s (fun q => q.dm = s.pkg.dm ∧ q.mem = s.pkg.mem ∧ chanState q c = chanState s.pkg c
            ∧ rd q Ix.dmChannelLastStatus c = 0x0C08 ∧ ∃ k : Packet, q.out.getLast? = some (.packet k) ∧ k.type = 0x43 ∧ k.status = 0x0C08)))
    ∧ (∀ i ∈ [Instr.dmaStart c, .dmaStop c, .dmaResume c, .dmaAbort c],
        (resets → Completes i s (fun q => q.dm = s.pkg.dm ∧ q.mem = s.pkg.mem ∧ chanState q c = chanState s.pkg c
          ∧ ∃ k : Packet, q.out.getLast? = some (.packet k) ∧ k.type = 0x43 ∧ k.status = 0x0EE1))
        ∧ (¬ resets → firmwareChannel c = true → Completes i s (fun q => q.dm = s.pkg.dm ∧ q.mem = s.pkg.mem ∧ chanState q c = chanState s.pkg c
          ∧ rd q Ix.dmChannelLastStatus c = rd s.pkg Ix.dmChannelLastStatus c
          ∧ ∃ k : Packet, q.out.getLast? = some (.packet k) ∧ k.type = 0x43 ∧ k.status = 0x0C02))))
  ∧ (∀ (s : State) (c : Fin 256) (n : DWord), powered s.pkg = true →
    ¬ (rd s.pkg Ix.dmChannelPartition c < 12 ∧ pcState s.pkg (rd s.pkg Ix.dmChannelPartition c) = 6) →
    (firmwareChannel c = false → Completes (.dmaProducedAdd c n) s (fun q => ∃ p, (chan p c).produced = ((chan s.pkg c).produced + n.toNat) % 2 ^ 64
        ∧ (chan p c).regs = (chan s.pkg c).regs ∧ p.mem = s.pkg.mem ∧ p.dict = s.pkg.dict
        ∧ q = registerAnswer (pace p c, 0) 0x42 (padTo (leBytes 8 (chan s.pkg c).produced) 16)))
    ∧ (firmwareChannel c = false → Completes (.dmaDstConsumedStore c n) s (fun q => ∃ p, (chan p c).dstConsumed = n.toNat
        ∧ (chan p c).produced = (chan s.pkg c).produced ∧ (chan p c).regs = (chan s.pkg c).regs ∧ (chan p c).pieces = (chan s.pkg c).pieces
        ∧ p.mem = s.pkg.mem ∧ p.dict = s.pkg.dict
        ∧ q = registerAnswer (pace (((chan s.pkg c).pieces.map (·.number)).foldl (fun p n => writePiece p c n) p) c, 0) 0x41 []))
    ∧ (firmwareChannel c = true → ∀ i ∈ [Instr.dmaProducedAdd c n, .dmaDstConsumedStore c n], Completes i s (fun q => q.dm = s.pkg.dm ∧ q.mem = s.pkg.mem
        ∧ rd q Ix.dmChannelLastStatus c = rd s.pkg Ix.dmChannelLastStatus c
        ∧ ∃ k : Packet, q.out.getLast? = some (.packet k) ∧ k.type = 0x43 ∧ k.status = 0x0C02)))

/-- R290, R293: a piece whose lines lie in this package's memory and whose words are read without error has its words to write, and is written as far as DST_PROTECT lets it (R294). R299: an error status that is retried, below the retry limit, has the piece wait, a failed write alone; the retry timer repeats it. A word read as poison goes on as poison with POISON_PASS. Any other read error of the only piece halts the channel with 0x0C04. R300: at the drain time-out a halting channel abandons what is in flight and halts. R301: a stopping channel with nothing in flight is stopped. R302: while the channel's partition resets a piece does not land. Commands that it says complete: dmaPieceComplete, dmaPieceError, dmaRetryTimer, dmaHaltDrainTimeout, dmaStopDrained. -/
def Obligations.DmaPiecesComplete : Prop :=
  ∀ (s : State) (c : Fin 256) (n : Nat), powered s.pkg = true →
    (∀ x, flyingPiece s.pkg c n = some x → x.writing = false → n ≠ signalPiece →
        (chanResets s.pkg c = true → Completes (.dmaPieceComplete c n) s (fun q => q = begun s))
        ∧ ∀ p words, chanResets s.pkg c = false → (chan s.pkg c).inHost 0 = false →
          readWords (rd s.pkg Ix.dmChannelPartition c) false ((chan s.pkg c).sourceOf n) ((chan s.pkg c).pieceBytes n / 4)
            (chargeDma (begun s) c false ((chan s.pkg c).sourceOf n) ((chan s.pkg c).pieceBytes n)) [] = (p, words, none) →
          (∀ w ∈ words, w.toOption.isSome = true) →
          Completes (.dmaPieceComplete c n) s (fun q => ∃ p', p'.mem = p.mem
            ∧ (chan p' c).pieces = (chan p c).pieces.map (fun x => if x.number = n then { x with writing := true, retrying := false, attempts := 0, words := words.zipIdx.map (fun w => ((chan s.pkg c).posOf n + 4 * w.2, w.1.toOption)) } else x)
            ∧ q = writePiece p' c n))
    ∧ ((flyingPiece s.pkg c n = none ∨ n = signalPiece ∨ ∃ x, flyingPiece s.pkg c n = some x ∧ x.writing = true) →
        Completes (.dmaPieceComplete c n) s (fun q => q = begun s))
    ∧ (∀ x (a st : Nat), flyingPiece s.pkg c n = some x → x.writing = false → (chan s.pkg c).pieces.find? (fun x => x.number == n) = some x →
        (retriedStatus 0 st = true → poisonedStatus st = false → st ≠ 0 → x.attempts < rd s.pkg Ix.dmChannelRetryLimit c →
          Completes (.dmaPieceError c n 0 a st) s (fun q => q.mem = s.pkg.mem ∧ q.dict = s.pkg.dict
            ∧ (chan q c).pieces = (chan s.pkg c).pieces.filter (fun x => x.number != n)
                ++ [{ x with attempts := x.attempts + 1, retrying := true, writing := false, words := [] }]))
        ∧ (poisonedStatus st = true → st ≠ 0 → bit ((chan s.pkg c).reg 0x34) 1 = true →
          Completes (.dmaPieceError c n 0 a st) s (fun q => q = movePiece (begun s) c n (some a)))
        ∧ ((chan s.pkg c).pieces = [x] → (chan s.pkg c).halting = none → retriedStatus 0 st = false → poisonedStatus st = false → st ≠ 0 →
          Completes (.dmaPieceError c n 0 a st) s (fun q => chanState q c = 5 ∧ rd q Ix.dmChannelLastStatus c = 0x0C04 ∧ (chan q c).pieces = [])))
    ∧ (∀ x t (a st : Nat), flyingPiece s.pkg c n = some x → (chan s.pkg c).pieces.find? (fun x => x.number == n) = some x →
        s.pkg.ms.txns.find? (fun t => t.purpose == .dmaPiece c n 1 && (pieceRun s.pkg t).1 == a) = some t →
        retriedStatus 1 st = true → st ≠ 0 → x.attempts < rd s.pkg Ix.dmChannelRetryLimit c →
        Completes (.dmaPieceError c n 1 a st) s (fun q => q.mem = s.pkg.mem ∧ q.dict = s.pkg.dict ∧ t ∉ q.ms.txns
          ∧ (chan q c).pieces = (chan s.pkg c).pieces.filter (fun x => x.number != n)
              ++ [{ x with attempts := x.attempts + 1, retrying := true, again := x.again ++ [pieceRun s.pkg t] }]))
    ∧ (∀ x, (chan s.pkg c).pieces.find? (fun x => x.number == n && x.retrying) = some x → chanResets s.pkg c = false →
        (n = signalPiece ∨ x.writing = true ∨ (chan s.pkg c).halting = none) → Completes (.dmaRetryTimer c n) s (fun q => ∃ p,
        rd p Ix.dmChannelRetries c = (rd s.pkg Ix.dmChannelRetries c + 1) % 2 ^ 32
        ∧ (chan p c).pieces = (chan s.pkg c).pieces.map (fun x => if x.number = n then { x with retrying := false, again := [] } else x)
        ∧ p.mem = s.pkg.mem
        ∧ q = if n = signalPiece then signalChannel p c else if x.writing then finishPiece (x.again.foldl (writeRuns c n) p) c n else movePiece p c n none))
    ∧ (((chan s.pkg c).pieces.find? (fun x => x.number == n && x.retrying) = none ∨ chanResets s.pkg c = true) →
        Completes (.dmaRetryTimer c n) s (fun q => q = begun s))
    ∧ (∀ f, (chan s.pkg c).halting = some f → Completes (.dmaHaltDrainTimeout c) s (fun q =>
        chanState q c = 5 ∧ rd q Ix.dmChannelLastStatus c = f.haltStatus % 2 ^ 16 ∧ (chan q c).pieces = [] ∧ (chan q c).halting = none
        ∧ q = haltNow (abandonSource (begun s) (chanSource c)) c f))
    ∧ ((chan s.pkg c).halting = none → Completes (.dmaHaltDrainTimeout c) s (fun q => q = begun s))
    ∧ (chanState s.pkg c = 3 → (chan s.pkg c).pieces = [] → Completes (.dmaStopDrained c) s (fun q => chanState q c = 4 ∧ q.dm = s.pkg.dm
        ∧ q.mem = s.pkg.mem ∧ q.parts = s.pkg.parts))
    ∧ ((chanState s.pkg c ≠ 3 ∨ (chan s.pkg c).pieces ≠ []) → Completes (.dmaStopDrained c) s (fun q => q = begun s))

/-- R309, R311: what a link's receiver does with a flit. A flit whose CRC is wrong is counted and a replay is asked for, once in a round. One of a sequence behind is dropped. A malformed one is counted, and past the threshold the link is quarantined; one of a sequence ahead asks for a replay. An IDLE flit acknowledges, grants credits and asks for a replay where its NAK is set; a DATA flit of the sequence expected, which asks for no replay and whose payload can be cut, raises the sequence expected by 1 modulo 4,096, keeps what is under way on its channel and hands on the packets it completes. A link that is not up takes no flit. Commands that it says complete: flitReceive. -/
def Obligations.FlitsReceived : Prop :=
  ∀ (s : State) (l : Fin 24) (f : Bytes), powered s.pkg = true →
    (linkState s.pkg l ≠ 2 → Completes (.flitReceive l f) s (fun q => q = begun s))
    ∧ (linkState s.pkg l = 2 → f.length ≠ 256 ∨ (crc32 (f.take 252)).toNat ≠ leAt f 252 4 → Completes (.flitReceive l f) s (fun q =>
        rd q Ix.tfLinkCrcErrors l = (rd s.pkg Ix.tfLinkCrcErrors l + 1) % 2 ^ 64 ∧ (link q l).nakSent = true ∧ (link q l).rxNext = (link s.pkg l).rxNext
        ∧ q.mem = s.pkg.mem ∧ q.parts = s.pkg.parts ∧ ((link s.pkg l).nakSent = true → q.out = s.pkg.out ∧ q.tf = s.pkg.tf)))
    ∧ (linkState s.pkg l = 2 → f.length = 256 → (crc32 (f.take 252)).toNat = leAt f 252 4 →
      let kind := bits (leAt f 0 4) 31 28
      let seq := bits (leAt f 0 4) 23 12
      let expected := (link s.pkg l).rxNext
      let channel := bits (leAt f 4 4) 30 27
      let sum := tget (link s.pkg l).credits channel 64 + bits (leAt f 4 4) 26 19
      let fields := kind ≤ 2 ∧ bits (leAt f 4 4) 18 4 = 0 ∧ leAt f 8 4 = 0 ∧ sum ≤ 64
      let behind := (kind = 1 ∨ kind = 2) ∧ seq ≠ expected ∧ seqBehind seq expected = true
      (behind → Completes (.flitReceive l f) s (fun q => q.dict = s.pkg.dict ∧ q.out = s.pkg.out ∧ q.mem = s.pkg.mem ∧ q.parts = s.pkg.parts
          ∧ (link q l).rxNext = expected ∧ (link q l).unacked = (link s.pkg l).unacked ∧ (link q l).assembly = (link s.pkg l).assembly))
      ∧ (¬ behind → (¬ fields ∨ (kind = 1 ∧ seq = expected ∧ assemble (begun s) (tget (link s.pkg l).assembly (bits (leAt f 0 4) 27 24) []) (bits (leAt f 4 4) 3 0) (slice f 12 240) = none)) →
          Completes (.flitReceive l f) s (fun q => ∃ p, rd p Ix.tfLinkViolations l = (rd s.pkg Ix.tfLinkViolations l + 1) % 2 ^ 32
          ∧ (link p l).nakSent = true ∧ (link p l).rxNext = expected ∧ linkState p l = 2 ∧ p.mem = s.pkg.mem ∧ p.parts = s.pkg.parts
          ∧ q = if rd s.pkg Ix.tfViolationThreshold 0
              < ((link s.pkg l).violations.filter (fun t => decide (s.clock.ns - 1000 * rd s.pkg Ix.tfViolationWindowUs 0 ≤ t))).length + 1 then holesAfter (begun s) (quarantine p l) l else p))
      ∧ (¬ behind → fields → kind ≠ 0 → seq ≠ expected → Completes (.flitReceive l f) s (fun q => q.dict = s.pkg.dict ∧ q.mem = s.pkg.mem ∧ q.parts = s.pkg.parts
          ∧ (link q l).nakSent = true ∧ (link q l).rxNext = expected ∧ ∃ g, q.out = s.pkg.out ++ [.flit l g (unitLanes s.pkg l)] ∧ bits (leAt g 0 4) 31 28 = 0))
      ∧ (fields → kind = 0 → Completes (.flitReceive l f) s (fun q => ∃ p r,
          (link p l).credits = (if bits (leAt f 4 4) 26 19 = 0 then (link s.pkg l).credits else tput (link s.pkg l).credits channel sum)
          ∧ (link p l).rxNext = expected ∧ (link p l).unacked = (link s.pkg l).unacked ∧ p.dict = s.pkg.dict
          ∧ r = ackLink p l (bits (leAt f 0 4) 11 0)
          ∧ q = if bit (leAt f 4 4) 31 = true ∧ (link r l).unacked ≠ [] then holesAfter (begun s) (replayRound r l) l else r))
      ∧ (∀ packets under, fields → kind = 1 → bit (leAt f 4 4) 31 = false → seq = expected →
          assemble (begun s) (tget (link s.pkg l).assembly (bits (leAt f 0 4) 27 24) []) (bits (leAt f 4 4) 3 0) (slice f 12 240) = some (packets, under) →
          Completes (.flitReceive l f) s (fun q => ∃ p, (link p l).rxNext = (expected + 1) % 4096
            ∧ tget (link p l).assembly (bits (leAt f 0 4) 27 24) [] = under ∧ p.mem = s.pkg.mem ∧ p.parts = s.pkg.parts
            ∧ q = (packets.map packetOfBytes).foldl (fun p k => packetArrives p (some l) k) p)))

/-- R309, R316: at the replay time-out of an up link with flits unacknowledged, every one of them is sent again and the round is counted; at the limit of rounds the link goes down. At the idle timer an IDLE flit that carries the acknowledgement of all but the sequence expected goes out. R307: the eight 32-byte units of each flit go to the lit lanes in turn. A link that is not up does neither. Commands that it says complete: replayTimeout, ackIdleTimer. -/
def Obligations.LinkTimersComplete : Prop :=
  ∀ (s : State) (l : Fin 24), powered s.pkg = true →
    (linkState s.pkg l ≠ 2 → Completes (.replayTimeout l) s (fun q => q = begun s) ∧ Completes (.ackIdleTimer l) s (fun q => q = begun s))
    ∧ ((link s.pkg l).unacked = [] → Completes (.replayTimeout l) s (fun q => q = begun s))
    ∧ (linkState s.pkg l = 2 → (link s.pkg l).unacked ≠ [] → (link s.pkg l).rounds + 1 < rd s.pkg Ix.tfReplayRounds 0 → Completes (.replayTimeout l) s (fun q =>
        q.out = s.pkg.out ++ (link s.pkg l).unacked.zipIdx.map (fun u => .flit l u.1.2 ((List.range 8).map (fun i =>
          (lanesIn s.pkg l 0).getD (((link s.pkg l).turn + 8 * u.2 + i) % max 1 (lanesIn s.pkg l 0).length) 0)))
        ∧ (link q l).rounds = (link s.pkg l).rounds + 1
        ∧ rd q Ix.tfLinkReplays l = (rd s.pkg Ix.tfLinkReplays l + 1) % 2 ^ 64 ∧ (link q l).unacked = (link s.pkg l).unacked ∧ linkState q l = 2))
    ∧ (linkState s.pkg l = 2 → (link s.pkg l).unacked ≠ [] → rd s.pkg Ix.tfReplayRounds 0 ≤ (link s.pkg l).rounds + 1 → Completes (.replayTimeout l) s (fun q => ∃ p,
        rd p Ix.tfLinkReplays l = (rd s.pkg Ix.tfLinkReplays l + 1) % 2 ^ 64 ∧ (link p l).queue = (link s.pkg l).queue ∧ (link p l).sending = (link s.pkg l).sending
        ∧ p.out = s.pkg.out ∧ q = holesAfter (begun s) (takeDown p l 1) l))
    ∧ (linkState s.pkg l = 2 → Completes (.ackIdleTimer l) s (fun q => ∃ f, q.out = s.pkg.out ++ [.flit l f ((List.range 8).map (fun i =>
          (lanesIn s.pkg l 0).getD (((link s.pkg l).turn + i) % max 1 (lanesIn s.pkg l 0).length) 0))] ∧ f.length = 256 ∧ (link q l).sinceAck = 0
        ∧ bits (leAt f 0 4) 31 28 = 0 ∧ bits (leAt f 0 4) 11 0 = ((link s.pkg l).rxNext + 4095) % 4096
        ∧ q.dict = s.pkg.dict ∧ q.mem = s.pkg.mem ∧ (link q l).unacked = (link s.pkg l).unacked))

/-- R315, R316: a lit lane that fails leaves the stripe and retrains; where fewer than the minimum stay lit the link goes down. A retraining lane that passes rejoins with status 0x0D03; one that fails once goes on retraining, and a second failure is final, recorded with 0x0D02. On a link that is not up, and of a lane in another state, neither does anything. R313 to R315: a training link whose licensed partner's record is here and of which enough lanes passed comes up: those lanes are in use and the others retrain. With too few, or before the record, nothing happens. R314: a partner's record in training, or after the check held the link down, is kept and shown at the highest level both support; with no level in common the link is held down with 0x0D05, and at another place than its cabling gives with 0x0D06. R317: the partner's profile request is kept and this package's own is shown. Commands that it says complete: laneFailure, laneRetrainComplete, linkTrainingComplete, capabilityRecord, profileChange. -/
def Obligations.LinksComplete : Prop :=
  (∀ (s : State) (l : Fin 24) (n : Fin 8), powered s.pkg = true →
    (linkState s.pkg l = 2 → laneState s.pkg l n = 0 →
      (minLanes s.pkg ≤ ((List.range 8).filter (fun m => m != n.val && laneState s.pkg l m == 0)).length →
        Completes (.laneFailure l n) s (fun q => laneState q l n = 2 ∧ linkState q l = 2 ∧ (∀ m < 8, m ≠ n.val → 2 ≤ laneState s.pkg l m → laneState q l m = laneState s.pkg l m)
          ∧ q.mem = s.pkg.mem ∧ q.parts = s.pkg.parts ∧ q.out = s.pkg.out))
      ∧ (((List.range 8).filter (fun m => m != n.val && laneState s.pkg l m == 0)).length < minLanes s.pkg →
        Completes (.laneFailure l n) s (fun q => ∃ p, laneState p l n = 2 ∧ (∀ m < 8, m ≠ n.val → laneState p l m = laneState s.pkg l m)
          ∧ (link p l).queue = (link s.pkg l).queue ∧ (link p l).sending = (link s.pkg l).sending ∧ p.mem = s.pkg.mem ∧ p.out = s.pkg.out
          ∧ q = loseLink p l 1)))
    ∧ (linkState s.pkg l ≠ 2 ∨ laneState s.pkg l n ≠ 0 → Completes (.laneFailure l n) s (fun q => q = begun s))
    ∧ (linkState s.pkg l = 2 → laneState s.pkg l n = 2 →
      Completes (.laneRetrainComplete l n true) s (fun q => laneState q l n ≤ 1 ∧ tget (link q l).laneTries n 0 = 0 ∧ rd q Ix.tfLastStatus 0 = 0x0D03
        ∧ linkState q l = 2 ∧ q.mem = s.pkg.mem)
      ∧ (tget (link s.pkg l).laneTries n 0 = 0 → Completes (.laneRetrainComplete l n false) s (fun q => laneState q l n = 2
          ∧ tget (link q l).laneTries n 0 = 1 ∧ q.dict = s.pkg.dict ∧ q.mem = s.pkg.mem ∧ q.flash = s.pkg.flash))
      ∧ (1 ≤ tget (link s.pkg l).laneTries n 0 → s.pkg.flash.history.length < 16384 → Completes (.laneRetrainComplete l n false) s (fun q => laneState q l n = 3
          ∧ rd q Ix.tfLastStatus 0 = 0x0D02 ∧ q.mem = s.pkg.mem
          ∧ ∃ r : HistRecord, q.flash.history = s.pkg.flash.history ++ [r] ∧ r.kind = 6 ∧ r.unit = l * 8 + n ∧ r.status = 0x0D02)))
    ∧ (linkState s.pkg l ≠ 2 ∨ laneState s.pkg l n ≠ 2 → ∀ passed, Completes (.laneRetrainComplete l n passed) s (fun q => q = begun s)))
  ∧ (∀ (s : State) (l : Fin 24), powered s.pkg = true →
    (training s.pkg l = true → ∀ (passed : Byte) c, (link s.pkg l).partner = some c → c.licensed = true →
        minLanes s.pkg ≤ ((List.range 8).filter (fun n => laneState s.pkg l n != 3 && bit passed.toNat n)).length →
        Completes (.linkTrainingComplete l passed) s (fun q => ∃ p, linkState p l = 2
          ∧ (∀ n < 8, laneState s.pkg l n ≠ 3 → (bit passed.toNat n = false → laneState p l n = 2) ∧ (bit passed.toNat n = true → laneState p l n ≤ 1))
          ∧ (∀ n < 8, laneState s.pkg l n = 3 → laneState p l n = 3) ∧ p.tf.holes = s.pkg.tf.holes ∧ p.tf.suspects = s.pkg.tf.suspects ∧ p.mem = s.pkg.mem
          ∧ q = drainLink (checkDirection (if suspected s.pkg (idOf c.x c.y c.z) then flood (clearHole p (idOf c.x c.y c.z)) 2 (idOf c.x c.y c.z) 0 else p) (dirOf l)) l))
    ∧ (∀ (passed : Byte), (training s.pkg l = false ∨ (link s.pkg l).partner = none ∨ (∃ c, (link s.pkg l).partner = some c ∧ c.licensed = false)
          ∨ ((List.range 8).filter (fun n => laneState s.pkg l n != 3 && bit passed.toNat n)).length < minLanes s.pkg) →
        Completes (.linkTrainingComplete l passed) s (fun q => q = begun s))
    ∧ (∀ c : Capability, (training s.pkg l = true ∨ (link s.pkg l).misfit = true) →
      let common := max c.lowest (Config.fabricLevel - 1) ≤ min c.highest Config.fabricLevel
      let placed := idOf c.x c.y c.z = neighbour s.pkg (ownId s.pkg) (dirOf l) ∧ c.link = opposite (dirOf l) * 4 + l % 4
      (¬ common → Completes (.capabilityRecord l c) s (fun q => linkState q l = 4 ∧ rd q Ix.tfLastStatus 0 = 0x0D05 ∧ (link q l).misfit = true
          ∧ (∀ n < 8, laneState s.pkg l n ≠ 3 → laneState q l n = 1) ∧ q.mem = s.pkg.mem ∧ q.parts = s.pkg.parts))
      ∧ (common → ¬ placed → Completes (.capabilityRecord l c) s (fun q => linkState q l = 4 ∧ rd q Ix.tfLastStatus 0 = 0x0D06 ∧ (link q l).misfit = true
          ∧ (∀ n < 8, laneState s.pkg l n ≠ 3 → laneState q l n = 1) ∧ q.mem = s.pkg.mem ∧ q.parts = s.pkg.parts))
      ∧ (common → placed → Completes (.capabilityRecord l c) s (fun q =>
          (link q l).partner = some c ∧ rd q Ix.tfLinkPartner l = (idOf c.x c.y c.z + c.link * 2 ^ 10 + min c.highest Config.fabricLevel * 2 ^ 16) % 2 ^ 32
          ∧ linkState q l = (if (link s.pkg l).misfit then 1 else linkState s.pkg l) ∧ q.mem = s.pkg.mem ∧ q.parts = s.pkg.parts)))
    ∧ (∀ c : Capability, training s.pkg l = false → (link s.pkg l).misfit = false → Completes (.capabilityRecord l c) s (fun q => q = begun s))
    ∧ (∀ full, Completes (.profileChange l full) s (fun q => (link q l).partner = (link s.pkg l).partner.map (fun c => { c with full := full })
        ∧ rd q Ix.tfProfileActive 0 = profileAsked (begun s) % 256 ∧ linkState q l = linkState s.pkg l ∧ q.mem = s.pkg.mem ∧ q.parts = s.pkg.parts)))

/-- R319: a write of an axis remap that the dictionary lets through is in force, bits of no field ignored (R2), the coordinates follow and every link that is up or training retrains. R311: a link hold of 1 holds an up link down and puts a link that is not up in state 4; 0 has a held link train; a link held for want of a licence stays so; a value above 1 is refused. R315: a lane retrain of 1 puts the lane in retraining with its tries forgotten, and takes down a link that it leaves with too few; another value is refused. R327, R383: collective groups that keep their layout wait in a running partition's shadow; others are refused with 0x0D08. Commands that it says complete: axisRemapWrite, linkHoldWrite, laneRetrainWrite, collectiveGroupsWrite. -/
def Obligations.FabricEntriesComplete : Prop :=
  ∀ (s : State), powered s.pkg = true →
    (∀ (d : Fin 3) (v : BitVec 16), gate s.pkg Ix.tfAxisRemap 0 d = none →
      Completes (.axisRemapWrite d v) s (fun q => ∃ p, bit (rd p Ix.tfAxisRemap d) 15 = bit v.toNat 15 ∧ bits (rd p Ix.tfAxisRemap d) 12 8 = bits v.toNat 12 8
        ∧ bits (rd p Ix.tfAxisRemap d) 4 0 = bits v.toNat 4 0 ∧ bits (rd p Ix.tfAxisRemap d) 14 13 = 0 ∧ bits (rd p Ix.tfAxisRemap d) 7 5 = 0
        ∧ p.tf = s.pkg.tf ∧ p.mem = s.pkg.mem ∧ q = answered Ix.tfAxisRemap d (retrainAll (applyCoords p), accepted)))
    ∧ (∀ (l : Fin 24) (v : Byte), gate s.pkg Ix.tfLinkHold 0 l = none →
      (v = 1 → linkState s.pkg l = 2 → Completes (.linkHoldWrite l v) s (fun q => ∃ p, rd p Ix.tfLinkHold l = 1 ∧ p.tf = s.pkg.tf ∧ linkState p l = 2
        ∧ q = answered Ix.tfLinkHold l (loseLink p l 4, accepted)))
      ∧ (v = 1 → linkState s.pkg l ≠ 2 → linkState s.pkg l ≠ 5 → Completes (.linkHoldWrite l v) s (fun q => rd q Ix.tfLinkHold l = 1 ∧ linkState q l = 4
        ∧ (link q l).misfit = false ∧ q.mem = s.pkg.mem ∧ q.parts = s.pkg.parts ∧ q.out.getLast? = some (.answer 0x543B l 0 0 false)))
      ∧ (v = 0 → linkState s.pkg l = 4 → Completes (.linkHoldWrite l v) s (fun q => rd q Ix.tfLinkHold l = 0 ∧ linkState q l = 1 ∧ (link q l).quarantineNs = none
        ∧ (link q l).rxNext = 1 ∧ (link q l).partner = none ∧ q.out.getLast? = some (.answer 0x543B l 0 0 false)))
      ∧ (v.toNat ≤ 1 → linkState s.pkg l = 5 ∨ (v = 0 ∧ linkState s.pkg l ≠ 4) → Completes (.linkHoldWrite l v) s (fun q => rd q Ix.tfLinkHold l = v.toNat
        ∧ linkState q l = linkState s.pkg l ∧ q.tf = s.pkg.tf ∧ q.mem = s.pkg.mem ∧ q.parts = s.pkg.parts ∧ q.out.getLast? = some (.answer 0x543B l 0 0 false)))
      ∧ (1 < v.toNat → Completes (.linkHoldWrite l v) s (fun q => q.dict = s.pkg.dict ∧ q.tf = s.pkg.tf ∧ q.out.getLast? = some (.answer 0x543B l 6 0x1006 false))))
    ∧ (∀ (l : Fin 24) (n : Fin 8) (v : Byte),
      (v = 1 → linkState s.pkg l ≠ 2 → Completes (.laneRetrainWrite l n v) s (fun q => laneState q l n = 2 ∧ tget (link q l).laneTries n 0 = 0
        ∧ q.out.getLast? = some (.answer (0x5480 + l) n 0 0 false)))
      ∧ (v = 1 → linkState s.pkg l = 2 → minLanes s.pkg ≤ ((List.range 8).filter (fun m => m != n.val && laneState s.pkg l m == 0)).length →
          Completes (.laneRetrainWrite l n v) s (fun q => laneState q l n = 2 ∧ linkState q l = 2 ∧ tget (link q l).laneTries n 0 = 0
            ∧ q.out.getLast? = some (.answer (0x5480 + l) n 0 0 false)))
      ∧ (v = 1 → linkState s.pkg l = 2 → ((List.range 8).filter (fun m => m != n.val && laneState s.pkg l m == 0)).length < minLanes s.pkg →
          Completes (.laneRetrainWrite l n v) s (fun q => ∃ p, laneState p l n = 2 ∧ tget (link p l).laneTries n 0 = 0 ∧ (link p l).queue = (link s.pkg l).queue
            ∧ q = emit (loseLink p l 1) (.answer (0x5480 + l) n 0 0 false)))
      ∧ (v ≠ 1 → Completes (.laneRetrainWrite l n v) s (fun q => q.dict = s.pkg.dict ∧ q.tf = s.pkg.tf
        ∧ q.out.getLast? = some (.answer (0x5480 + l) n 6 0x1006 false))))
    ∧ (∀ (pp : Fin 12) (data : Bytes), gate s.pkg Ix.tfCollectiveGroups 0 pp = none → tfind s.pkg.wm.arms pp = none →
      let ok := data.length % 32 = 0 ∧ data.length ≤ 8192 ∧ ((records 32 data).zipIdx).all (fun e => groupOk s.pkg e.1 e.2) = true
      (ok → pcState s.pkg pp = 2 →
        Completes (.collectiveGroupsWrite pp data) s (fun q => shadowOf q Ix.tfCollectiveGroups pp = some (.bytes data) ∧ q.dict.vals = s.pkg.dict.vals
          ∧ q.out.getLast? = some (.answer 0x5420 pp 0 0 true)))
      ∧ (¬ ok → Completes (.collectiveGroupsWrite pp data) s (fun q => q.dict.shadows = s.pkg.dict.shadows ∧ rd q Ix.tfLastStatus 0 = 0x0D08
          ∧ q.out.getLast? = some (.answer 0x5420 pp 6 0x0D08 false))))

/-- R324, R325: notices that come in on an up link. A suspect notice not known before is entered, goes on to every direction, and the packages that the notices now cover are holes; a known one is not sent again; a notice that links are back takes its entry out and goes on. A return notice for a package listed or suspected clears it and goes on. A departure notice not known before is entered, goes on and makes the package a hole. R325: the links of a departing package that are up or training park in state 0. On a link that is not up no notice comes in. Commands that it says complete: suspectNotice, returnNotice, departureNotice, departureLinkPark. -/
def Obligations.NoticesComplete : Prop :=
  ∀ (s : State) (l : Fin 24), powered s.pkg = true →
    (linkState s.pkg l = 2 → ∀ n : SuspectNotice,
      (n.linksBack = false → (n.sender, n.direction) ∉ s.pkg.tf.suspects → Completes (.suspectNotice l n) s (fun q => ∃ p,
          p.tf = { s.pkg.tf with suspects := s.pkg.tf.suspects ++ [(n.sender, n.direction)] } ∧ p.dict = s.pkg.dict ∧ p.out = s.pkg.out
          ∧ q = listSuspected (flood p 1 n.sender n.direction)))
      ∧ (n.linksBack = false → (n.sender, n.direction) ∈ s.pkg.tf.suspects → Completes (.suspectNotice l n) s (fun q => q = begun s))
      ∧ (n.linksBack = true → (n.sender, n.direction) ∈ s.pkg.tf.suspects → Completes (.suspectNotice l n) s (fun q => ∃ p,
          p.tf = { s.pkg.tf with suspects := s.pkg.tf.suspects.filter (· != (n.sender, n.direction)) } ∧ p.dict = s.pkg.dict ∧ p.out = s.pkg.out
          ∧ q = flood p 4 n.sender n.direction))
      ∧ (n.linksBack = true → (n.sender, n.direction) ∉ s.pkg.tf.suspects → Completes (.suspectNotice l n) s (fun q => q = begun s)))
    ∧ (linkState s.pkg l = 2 → ∀ id,
      (suspected s.pkg id = true → Completes (.returnNotice l id) s (fun q => id ∉ q.tf.holes ∧ id ∉ q.tf.departed ∧ q = flood (clearHole (begun s) id) 2 id 0))
      ∧ (suspected s.pkg id = false → Completes (.returnNotice l id) s (fun q => q = begun s))
      ∧ (id ≠ ownId s.pkg → id ∉ s.pkg.tf.departed → Completes (.departureNotice l id) s (fun q => ∃ p,
        p.tf = { s.pkg.tf with departed := s.pkg.tf.departed ++ [id] } ∧ p.dict = s.pkg.dict ∧ p.out = s.pkg.out ∧ q = losePackage (flood p 3 id 0) id))
      ∧ (id = ownId s.pkg ∨ id ∈ s.pkg.tf.departed → Completes (.departureNotice l id) s (fun q => q = begun s)))
    ∧ (linkState s.pkg l ≠ 2 → ∀ n id, ∀ i ∈ [Instr.suspectNotice l n, .returnNotice l id, .departureNotice l id], Completes i s (fun q => q = begun s))
    ∧ (s.pkg.tf.departing = true → Completes .departureLinkPark s (fun q => (∀ k < 24, linkState s.pkg k ∈ [1, 2, 3] → linkState q k = 0)
        ∧ (∀ k < 24, ∀ n < 8, linkState s.pkg k = 2 → laneState s.pkg k n = 0 → laneState q k n = 1)))
    ∧ (s.pkg.tf.departing = false → Completes .departureLinkPark s (fun q => q = begun s))

/-- R341, R345 to R349, R357: requests of another package. A READ whose home reads without error is answered READ_DATA with the bytes, and one that meets an error is answered ERROR with its status. A fresh WRITE, ATOMIC, COUNTER_INC or RETIRE of valid form is performed and answered by its kind of answer, or by ERROR with the status it met; a WRITE that completes later is answered later. R156: a return of the next step waits for its step, and one beyond it is answered 0x0E0B. A duplicate is answered again and not performed; one of an older incarnation is discarded. A request of invalid form is never performed and is answered 0x0E07. R352: what a hole sends is discarded. R322: a packet for another package is routed on. Commands that it says complete: read, write, atomic, counterInc, retire. -/
def Obligations.RequestsAnswered : Prop :=
  ∀ (s : State) (k : Packet), powered s.pkg = true →
    (∀ i ∈ [(Instr.read k, 0), (.write k, 1), (.atomic k, 2), (.counterInc k, 3), (.retire k, 4)],
      (k.dest ≠ ownId s.pkg → Completes i.1 s (fun q => q = route (begun s) { k with type := i.2 } none))
      ∧ (k.dest = ownId s.pkg → k.src ∈ s.pkg.tf.holes → Completes i.1 s (fun q => q = begun s))
      ∧ (k.dest = ownId s.pkg → k.src ∉ s.pkg.tf.holes → malformed { k with type := i.2 } = true → Completes i.1 s (fun q => q.mem = s.pkg.mem ∧ q.parts = s.pkg.parts
        ∧ ∃ a : Packet, q.tf.outgoing.getLast? = some a ∧ a.type = 0x43 ∧ a.dest = k.src ∧ a.tag = k.tag ∧ a.status = 0x0E07)))
    ∧ (k.dest = ownId s.pkg → k.src ∉ s.pkg.tf.holes → malformed { k with type := 0 } = false →
      (∀ p b, servedRead (begun s) { k with type := 0 } = (p, .ok b) → Completes (.read k) s (fun q => q.mem = p.mem ∧ q.parts = p.parts ∧ q.dict = p.dict
        ∧ ∃ a : Packet, q.tf.outgoing = p.tf.outgoing ++ [a] ∧ a.type = 0x40 ∧ a.dest = k.src ∧ a.srcUnit = k.srcUnit ∧ a.tag = k.tag ∧ a.status = 0 ∧ a.data = b))
      ∧ (∀ p st, servedRead (begun s) { k with type := 0 } = (p, .error st) → Completes (.read k) s (fun q => q.mem = p.mem ∧ q.parts = p.parts
        ∧ rd q Ix.msErrorsSent 0 = (rd p Ix.msErrorsSent 0 + 1) % 2 ^ 64
        ∧ ∃ a : Packet, q.tf.outgoing = p.tf.outgoing ++ [a] ∧ a.type = 0x43 ∧ a.dest = k.src ∧ a.srcUnit = k.srcUnit ∧ a.tag = k.tag ∧ a.status = st)))
    ∧ (k.dest = ownId s.pkg → k.src ∉ s.pkg.tf.holes → ∀ i ∈ [(Instr.write k, 1), (.atomic k, 2), (.counterInc k, 3), (.retire k, 4)], malformed { k with type := i.2 } = false →
      (∀ p, arrive (begun s) { k with type := i.2 } = (p, .fresh) →
        (∀ pp, returnTurn p { k with type := i.2 } = some (pp, .hold) → Completes i.1 s (fun q => q = modEr p pp (fun e => { e with heldReturns := e.heldReturns ++ [{ k with type := i.2 }] })))
        ∧ (∀ pp, returnTurn p { k with type := i.2 } = some (pp, .refuse) → Completes i.1 s (fun q => q.mem = s.pkg.mem ∧ q.parts = s.pkg.parts
          ∧ ∃ a : Packet, q.tf.outgoing = p.tf.outgoing ++ [a] ∧ a.type = 0x43 ∧ a.dest = k.src ∧ a.srcUnit = k.srcUnit ∧ a.tag = k.tag ∧ a.status = 0x0E0B))
        ∧ (∀ r st d, (returnTurn p { k with type := i.2 } = none ∨ ∃ pp, returnTurn p { k with type := i.2 } = some (pp, .take)) → performRequest p { k with type := i.2 } = (r, st, d) →
          (st = 0 → i.2 = 1 → homeDefers p k.addr = true → Completes i.1 s (fun q => q = r))
          ∧ (st = 0 → badAtomic { k with type := i.2 } = false → ¬ (i.2 = 1 ∧ homeDefers p k.addr = true) → Completes i.1 s (fun q => q.mem = r.mem ∧ q.parts = r.parts ∧ q.dict = r.dict
            ∧ ∃ a : Packet, q.tf.outgoing = r.tf.outgoing ++ [a] ∧ a.type = (if i.2 = 2 then 0x42 else 0x41) ∧ a.dest = k.src ∧ a.srcUnit = k.srcUnit ∧ a.tag = k.tag ∧ a.data = d))
          ∧ (st ≠ 0 → Completes i.1 s (fun q => q.mem = r.mem ∧ q.parts = r.parts
            ∧ ∃ a : Packet, q.tf.outgoing.getLast? = some a ∧ a.type = 0x43 ∧ a.dest = k.src ∧ a.srcUnit = k.srcUnit ∧ a.tag = k.tag ∧ a.status = st))))
      ∧ (∀ p st v, arrive (begun s) { k with type := i.2 } = (p, .duplicate st v) → answerPending p { k with type := i.2 } = false → Completes i.1 s (fun q => q.mem = s.pkg.mem ∧ q.parts = s.pkg.parts
          ∧ ∃ a : Packet, q.tf.outgoing = s.pkg.tf.outgoing ++ [a] ∧ a.dest = k.src ∧ a.srcUnit = k.srcUnit ∧ a.tag = k.tag
            ∧ (st = 0 → a.type = (if i.2 = 2 then 0x42 else 0x41) ∧ (i.2 = 2 → a.data = padTo (leBytes 8 v.toNat) 16)) ∧ (st ≠ 0 → a.type = 0x43 ∧ a.status = st)))
      ∧ (∀ p st v, arrive (begun s) { k with type := i.2 } = (p, .duplicate st v) → answerPending p { k with type := i.2 } = true →
          Completes i.1 s (fun q => q.mem = s.pkg.mem ∧ q.parts = s.pkg.parts ∧ q.tf.outgoing = s.pkg.tf.outgoing))
      ∧ (∀ p, arrive (begun s) { k with type := i.2 } = (p, .stale) → Completes i.1 s (fun q => q = begun s)))

/-- R341, R246, R342, R343, R69: what fresh requests do at a home whose memory holds no error and no fill. A WRITE without poison to a stack that works puts its bytes and leaves every other byte; an ATOMIC there puts the new value of its operation and answers the old one (a WRITE that is no return of expert rows); a COUNTER_INC of the block's running step raises the counter by n modulo 2^32, and one of the next step raises the pending tally while it stays at most 65,535. Commands that it says complete: write, atomic, counterInc. -/
def Obligations.RequestsPerformed : Prop :=
  ∀ (s : State) (k : Packet) (p : Pkg), powered s.pkg = true → Memory.wf s.pkg.mem = true → k.dest = ownId s.pkg → k.src ∉ s.pkg.tf.holes →
    (∀ st off, place k.addr = .t0 st off → rd s.pkg Ix.hbStackState st = 0 → regionHidden s.pkg st = false → s.pkg.tp.fenced.contains st = false →
        (∀ pp, partOfRegion s.pkg st = some pp → pcState s.pkg pp ≠ 6) → tfind s.pkg.tm.poisonFill st = none → s.pkg.mem.raw = [] → s.pkg.mem.fills = [] →
      (malformed { k with type := 1 } = false → arrive (begun s) { k with type := 1 } = (p, .fresh) → k.poison = false → k.data.length = k.bytes →
        returnTurn (begun s) { k with type := 1 } = none →
        Completes (.write k) s (fun q => q.parts = s.pkg.parts ∧ ∀ x, memByte q.mem x =
          if k.addr ≤ x ∧ x < k.addr + k.data.length then k.data.getD (x - k.addr) 0 else memByte s.pkg.mem x))
      ∧ (malformed { k with type := 2 } = false → arrive (begun s) { k with type := 2 } = (p, .fresh) → k.aop ≤ 6 → k.addr % (if k.asize then 8 else 4) = 0 →
        ∀ n old, n = (if k.asize then 8 else 4) → old = leNat (rawBytes s.pkg.mem k.addr n) →
        Completes (.atomic k) s (fun q => q.parts = s.pkg.parts
          ∧ (∀ x, memByte q.mem x = if k.addr ≤ x ∧ x < k.addr + n then
              (leBytes n (atomicNew (8 * n) k.aop old (leAt k.data 0 8 % 2 ^ (8 * n)) (leAt k.data 8 8 % 2 ^ (8 * n)))).getD (x - k.addr) 0 else memByte s.pkg.mem x)
          ∧ ∃ a : Packet, q.tf.outgoing = s.pkg.tf.outgoing ++ [a] ∧ a.type = 0x42 ∧ a.data = padTo (leBytes 8 old) 16)))
    ∧ (∀ (b : Fin 96) pp c, bits k.addr 12 6 = b.val → partOfBlock s.pkg b = some pp → pcState s.pkg pp ≠ 6 → blockHidden s.pkg b = false →
        s.pkg.tp.fenced.contains (b.val / 8) = false → (blk s.pkg b).step = some c →
        malformed { k with type := 3 } = false → arrive (begun s) { k with type := 3 } = (p, .fresh) →
      (k.step = c → (blk s.pkg b).beforeClear = none → (part s.pkg pp).ru.poison = none → Completes (.counterInc k) s (fun q => q.mem = s.pkg.mem ∧ q.parts = s.pkg.parts
        ∧ tget (blk q b).counters (bits k.addr 5 0) 0 = (tget (blk s.pkg b).counters (bits k.addr 5 0) 0 + k.bytes) % 2 ^ 32
        ∧ (∀ i, i ≠ bits k.addr 5 0 → tget (blk q b).counters i 0 = tget (blk s.pkg b).counters i 0)))
      ∧ (k.step = (c + 1) % 2 ^ 32 → tget (blk s.pkg b).tallies (bits k.addr 5 0) 0 + k.bytes ≤ 65535 → Completes (.counterInc k) s (fun q => q.mem = s.pkg.mem ∧ q.parts = s.pkg.parts
        ∧ tget (blk q b).tallies (bits k.addr 5 0) 0 = tget (blk s.pkg b).tallies (bits k.addr 5 0) 0 + k.bytes ∧ (blk q b).counters = (blk s.pkg b).counters)))

/-- R337, R346, R353: a response whose transaction is outstanding completes it: an answer of the kind asked with status 0 and its data, an ERROR with its status, counted where the host die sent it. One whose tag was given but answers nothing is discarded. R351: at the response time-out a transaction is sent again, up to the resend limit, and then completes with 0x0E0A; a store is then unresolved. Commands that it says complete: readData, done, atomicResult, error, responseTimeout. -/
def Obligations.ResponsesComplete : Prop :=
  ∀ (s : State) (k : Packet), powered s.pkg = true → (k.src = ownId s.pkg ∨ k.src ∉ s.pkg.tf.holes) →
    (∀ t, answeredTxn s.pkg k = some t →
      (∀ i ∈ [(Instr.readData k, 0x40), (.done k, 0x41), (.atomicResult k, 0x42)], i.2 = answerType t.type → Completes i.1 s (fun q => ∃ p,
        p.ms.txns = s.pkg.ms.txns.filter (· != t) ∧ p.ms.failed = s.pkg.ms.failed ∧ p.dict = s.pkg.dict ∧ p.mem = s.pkg.mem ∧ p.parts = s.pkg.parts ∧ q = pump (completed p t 0 k.data)))
      ∧ (k.status ≠ 0 → t.toHost = false → Completes (.error k) s (fun q => ∃ p, p.ms.txns = s.pkg.ms.txns.filter (· != t) ∧ p.dict = s.pkg.dict ∧ p.mem = s.pkg.mem
        ∧ p.parts = s.pkg.parts ∧ q = pump (completed p t k.status [])))
      ∧ (k.status ≠ 0 → t.toHost = true → Completes (.error k) s (fun q => ∃ p, p.ms.txns = s.pkg.ms.txns.filter (· != t)
        ∧ rd p Ix.hiHostErrors 0 = (rd s.pkg Ix.hiHostErrors 0 + 1) % 2 ^ 64 ∧ rd p Ix.hiLastStatus 0 = k.status % 65536 ∧ p.mem = s.pkg.mem
        ∧ p.parts = s.pkg.parts ∧ q = pump (completed p t k.status []))))
    ∧ (answeredTxn s.pkg k = none → k.tag < s.pkg.ms.nextTag → k.reserved = 0 →
      ∀ i ∈ [Instr.readData k, .done k, .atomicResult k, .error k], Completes i s (fun q => q = begun s))
    ∧ (∀ dest tag i t, s.pkg.ms.txns.findIdx? (fun t => t.sent && t.tag == tag && (if t.toHost then dest == 1024 else t.dest == dest)) = some i → s.pkg.ms.txns[i]? = some t →
      (t.resends < rd s.pkg Ix.msResendLimit 0 → Completes (.responseTimeout dest tag) s (fun q => ∃ a : Packet,
        q.ms.txns = s.pkg.ms.txns.set i { t with resends := t.resends + 1 } ∧ rd q Ix.msResends 0 = (rd s.pkg Ix.msResends 0 + 1) % 2 ^ 64
        ∧ a.tag = t.tag ∧ a.tseq = t.tseq ∧ a.type = t.type ∧ a.addr = t.addr ∧ q.mem = s.pkg.mem ∧ q.parts = s.pkg.parts
        ∧ (if t.toHost then q.out = s.pkg.out ++ [.packet a] else q.tf.outgoing = s.pkg.tf.outgoing ++ [a])))
      ∧ (rd s.pkg Ix.msResendLimit 0 ≤ t.resends → Completes (.responseTimeout dest tag) s (fun q => ∃ p, p.ms.txns = s.pkg.ms.txns.filter (· != t)
        ∧ p.ms.unresolved = s.pkg.ms.unresolved ++ (if t.isStore then [(t.source, t.destKey, t.tseq)] else []) ∧ p.dict = s.pkg.dict ∧ p.mem = s.pkg.mem
        ∧ q = pump (completed p t 0x0E0A []))))

/-- R363, R355, R357: with a module up, a host request that is well formed and valid is counted and issued by this package as its source's; one that breaks R363 is answered 0x0F06, and another malformed one 0x0E07; one whose source's partition resets is answered 0x0EE1, and an atomic that is misaligned 0x0E04 or of no operation 0x0E05; with every module down nothing happens. R367: a sideband frame whose length and CRC are right yields its datagram, another is counted as dropped. R369: the announcement adds the entries written so far to the host's counter; a consumed count lets queued events follow. R339, R354: a window table that keeps its layout is in force, another is refused with 0x0E06; a fence reset is carried out for every host source named. R341: a write of an address outside the control window is answered 0x0E05; an 8-byte one of COMPLETION_CONSUMED puts the count. Commands that it says complete: controlRegisterWrite, windowTableWrite, hostFenceReset, hostRequest, sidebandFrame, eventRingAnnounce, eventConsumedStore. -/
def Obligations.HostSideCompletes : Prop :=
  ∀ (s : State), powered s.pkg = true →
    (∀ k : Packet,
      (anyModuleUp s.pkg = true → hostFormOk s.pkg k = true → malformed k = false →
          pcState s.pkg (rd s.pkg Ix.msHostSourcePartition (k.srcUnit - 0x200)) ≠ 6 → (k.type = 2 → k.addr % (if k.asize then 8 else 4) = 0 ∧ k.aop ≤ 6) →
        Completes (.hostRequest k) s (fun q => ∃ p t, rd p Ix.hiHostRequests 0 = (rd s.pkg Ix.hiHostRequests 0 + 1) % 2 ^ 64 ∧ p.mem = s.pkg.mem ∧ p.parts = s.pkg.parts ∧ p.ms = s.pkg.ms
          ∧ t.source = k.srcUnit ∧ t.dest = k.dest ∧ t.type = k.type ∧ t.addr = k.addr ∧ t.bytes = k.bytes ∧ t.flag = k.flag ∧ t.poison = k.poison ∧ t.asize = k.asize ∧ t.aop = k.aop ∧ t.purpose = .hostRequest k.srcUnit k.tag
          ∧ q = if k.dest = ownId s.pkg then send p t else sendFabric p t))
      ∧ (anyModuleUp s.pkg = true → hostFormOk s.pkg k = false → Completes (.hostRequest k) s (fun q => rd q Ix.hiLastStatus 0 = 0x0F06 ∧ q.mem = s.pkg.mem ∧ q.parts = s.pkg.parts
        ∧ ∃ a : Packet, q.out.getLast? = some (.packet a) ∧ a.type = 0x43 ∧ a.status = 0x0F06))
      ∧ (anyModuleUp s.pkg = true → hostFormOk s.pkg k = true → malformed k = true → Completes (.hostRequest k) s (fun q => q.mem = s.pkg.mem ∧ q.parts = s.pkg.parts
        ∧ ∃ a : Packet, q.out.getLast? = some (.packet a) ∧ a.type = 0x43 ∧ a.status = 0x0E07))
      ∧ (anyModuleUp s.pkg = true → hostFormOk s.pkg k = true → malformed k = false → pcState s.pkg (rd s.pkg Ix.msHostSourcePartition (k.srcUnit - 0x200)) = 6 →
        Completes (.hostRequest k) s (fun q => q.mem = s.pkg.mem ∧ q.parts = s.pkg.parts ∧ ∃ a : Packet, q.out.getLast? = some (.packet a) ∧ a.type = 0x43 ∧ a.status = 0x0EE1))
      ∧ (anyModuleUp s.pkg = true → hostFormOk s.pkg k = true → malformed k = false → pcState s.pkg (rd s.pkg Ix.msHostSourcePartition (k.srcUnit - 0x200)) ≠ 6 → k.type = 2 →
        (k.addr % (if k.asize then 8 else 4) ≠ 0 ∨ 6 < k.aop) →
        Completes (.hostRequest k) s (fun q => q.mem = s.pkg.mem ∧ q.parts = s.pkg.parts ∧ ∃ a : Packet, q.out.getLast? = some (.packet a) ∧ a.type = 0x43
          ∧ a.status = if k.addr % (if k.asize then 8 else 4) ≠ 0 then 0x0E04 else 0x0E05))
      ∧ (anyModuleUp s.pkg = false → Completes (.hostRequest k) s (fun q => q = begun s)))
    ∧ (∀ d : Bytes, d.length ≤ 1280 → Completes (.sidebandFrame (leBytes 2 d.length ++ [0, 0] ++ leBytes 4 (crc32 d).toNat ++ d)) s (fun q =>
        q.out = s.pkg.out ++ [.datagram d] ∧ q.dict = s.pkg.dict ∧ q.mem = s.pkg.mem ∧ q.parts = s.pkg.parts))
    ∧ (∀ b : Bytes, (b.length < 8 ∨ 1280 < leAt b 0 2 ∨ leAt b 2 1 ≠ 0 ∨ (slice b 8 (leAt b 0 2)).length ≠ leAt b 0 2
        ∨ (crc32 (slice b 8 (leAt b 0 2))).toNat ≠ leAt b 4 4) → Completes (.sidebandFrame b) s (fun q =>
        rd q Ix.hiSidebandDropped 0 = (rd s.pkg Ix.hiSidebandDropped 0 + 1) % 2 ^ 32 ∧ q.out = s.pkg.out ∧ q.mem = s.pkg.mem ∧ q.parts = s.pkg.parts))
    ∧ (s.pkg.hi.unannounced ≠ 0 → Completes .eventRingAnnounce s (fun q => ∃ p, p.hi.unannounced = 0 ∧ p.dict = s.pkg.dict ∧ p.ms = s.pkg.ms
        ∧ q = hostFlaggedAdd p eventSource 0xFF (rd s.pkg Ix.hiEventCounterAddr 0) s.pkg.hi.unannounced 0 .event))
    ∧ (s.pkg.hi.unannounced = 0 → Completes .eventRingAnnounce s (fun q => q = begun s))
    ∧ (∀ n : DWord, Completes (.eventConsumedStore n) s (fun q => ∃ p, p.hi.consumed = n.toNat ∧ p.hi.queue = s.pkg.hi.queue ∧ p.dict = s.pkg.dict ∧ p.mem = s.pkg.mem
        ∧ q = registerAnswer (drainEvents 1025 p, 0) 0x41 []))
    ∧ (∀ data : Bytes, gate s.pkg Ix.msWindowTable 0 0 = none →
      let ok := data.length % 32 = 0 ∧ data.length ≤ 131072 ∧ (records 32 data).all (windowOk s.pkg) = true ∧ windowsApart (records 32 data) = true
      (ok →
        Completes (.windowTableWrite data) s (fun q => rdB q Ix.msWindowTable 0 = (records 32 data).flatten ∧ q.mem = s.pkg.mem ∧ q.parts = s.pkg.parts
          ∧ q.out.getLast? = some (.answer 0x5800 0 0 0 false)))
      ∧ (¬ ok → Completes (.windowTableWrite data) s (fun q => rdB q Ix.msWindowTable 0 = rdB s.pkg Ix.msWindowTable 0 ∧ rd q Ix.msLastStatus 0 = 0x0E06
          ∧ q.out.getLast? = some (.answer 0x5800 0 6 0x0E06 false))))
    ∧ (∀ mask : DWord, gate s.pkg Ix.msHostFenceReset 0 0 = none → Completes (.hostFenceReset mask) s (fun q =>
        q = answered Ix.msHostFenceReset 0 (((List.range 64).filter (fun i => bit mask.toNat i)).foldl (fun p i => retireSource p (0x200 + i)) (begun s), accepted)))
    ∧ (∀ (a : Nat) (wide firmware : Bool) (v : DWord),
      (controlOffset a = none → Completes (.controlRegisterWrite a wide v firmware) s (fun q => q.mem = s.pkg.mem ∧ q.parts = s.pkg.parts
        ∧ ∃ k : Packet, q.out.getLast? = some (.packet k) ∧ k.type = 0x43 ∧ k.status = 0x0E05))
      ∧ (∀ o pp, controlOffset a = some o → regAt o = .completion pp → pcState s.pkg pp ≠ 6 →
        (wide = true → Completes (.controlRegisterWrite a wide v firmware) s (fun q => ∃ p, (part p pp).sc.completionConsumed = v.toNat ∧ p.dict = s.pkg.dict ∧ p.mem = s.pkg.mem
          ∧ q = registerAnswer (pumpCompletions p pp, 0) 0x41 []))
        ∧ (wide = false → Completes (.controlRegisterWrite a wide v firmware) s (fun q => q.mem = s.pkg.mem ∧ q.parts = s.pkg.parts
          ∧ ∃ k : Packet, q.out.getLast? = some (.packet k) ∧ k.type = 0x43 ∧ k.status = 0x0E05))))

/-- R365, R366: a module that goes down is in state 1 and counted; with another one up nothing outstanding is touched, and without one what is bound for the host completes; a training module returns in state 2, or 3 with repaired lanes, at its rate. With every module down the loss of the host die starts Drydown. R371: a management port goes to state 0 and to state 2 with its FEC. R373 to R375: a rack message on an up port that is well formed, verifies and is new is counted and acts: a CAP of 800 W or more waits for the tick, a DIGEST for the round of its record, a REPLICA is counted; one that fails a check is counted by its cause and does nothing. R451: at its time-out a round ends. R376: at the telemetry period the listed values go out, unless no destination is set. Commands that it says complete: ucieModuleDown, ucieModuleRestored, hostDieLoss, mgmtLinkLoss, cap, digest, replica, telemetryPeriod, digestTimeout, mgmtPortUp. -/
def Obligations.ModulesAndRackComplete : Prop :=
  ∀ (s : State), powered s.pkg = true →
    (∀ m : Fin 4, moduleUp s.pkg m = true → (∃ n < 4, n ≠ m.val ∧ moduleUp s.pkg n = true) → Completes (.ucieModuleDown m) s (fun q =>
        rd q Ix.hiModuleState m = 1 ∧ rd q Ix.hiModuleDownCount m = (rd s.pkg Ix.hiModuleDownCount m + 1) % 2 ^ 32 ∧ rd q Ix.hiLastStatus 0 = 0x0F03
        ∧ q.mem = s.pkg.mem ∧ q.parts = s.pkg.parts))
    ∧ (∀ m : Fin 4, moduleUp s.pkg m = true → (∀ n < 4, n ≠ m.val → moduleUp s.pkg n = false) → Completes (.ucieModuleDown m) s (fun q => ∃ p, rd p Ix.hiModuleState m = 1
        ∧ rd p Ix.hiModuleDownCount m = (rd s.pkg Ix.hiModuleDownCount m + 1) % 2 ^ 32 ∧ rd p Ix.hiLastStatus 0 = 0x0F03 ∧ p.mem = s.pkg.mem ∧ p.parts = s.pkg.parts
        ∧ q = noModule p ∧ ∀ t ∈ q.ms.txns, t.toHost = false))
    ∧ (∀ m : Fin 4, moduleUp s.pkg m = false → Completes (.ucieModuleDown m) s (fun q => q = begun s))
    ∧ (∀ (m : Fin 4) (rate repaired : Nat), rd s.pkg Ix.hiModuleState m ≠ 1 ∨ moduleRateOk s.pkg rate = false → Completes (.ucieModuleRestored m rate repaired) s (fun q => q = begun s))
    ∧ (∀ (m : Fin 4) (rate repaired : Nat), rd s.pkg Ix.hiModuleState m = 1 → moduleRateOk s.pkg rate = true → Completes (.ucieModuleRestored m rate repaired) s (fun q =>
        rd q Ix.hiModuleState m = (if repaired = 0 then 2 else 3) ∧ rd q Ix.hiModuleRate m = rate ∧ rd q Ix.hiLastStatus 0 = 0x0F04 ∧ q.mem = s.pkg.mem ∧ q.parts = s.pkg.parts))
    ∧ (anyModuleUp s.pkg = false → rd s.pkg Ix.ruDrydownState 0 = 0 → (∀ pp < 12, pcState s.pkg pp ∈ [0, 1, 7]) → Completes .hostDieLoss s (fun q =>
        rd q Ix.ruDrydownState 0 = 1 ∧ q.ru.restartWhenDrained = true ∧ q.mem = s.pkg.mem ∧ q.parts = s.pkg.parts))
    ∧ (anyModuleUp s.pkg = true → Completes .hostDieLoss s (fun q => q = begun s))
    ∧ (∀ port : Fin 2, Completes (.mgmtLinkLoss port) s (fun q => rd q Ix.mpPortState port = 0 ∧ q.mem = s.pkg.mem ∧ q.parts = s.pkg.parts ∧ q.out = s.pkg.out)
      ∧ ∀ fec : Fin 3, Completes (.mgmtPortUp port fec) s (fun q => rd q Ix.mpPortState port = 2 ∧ rd q Ix.mpPortFec port = fec.val ∧ q.mem = s.pkg.mem ∧ q.parts = s.pkg.parts ∧ q.out = s.pkg.out))
    ∧ (∀ (port : Fin 2) (m : RackMessage) (key : Nat), rd s.pkg Ix.mpPortState port = 2 → key = (m.sender * 256 + m.type) * 2 ^ 32 + m.keyEpoch →
        m.magic = 0xC1A7 → m.version = 1 → m.reserved = 0 → m.bodyBytes = m.body.length → m.bodyBytes ≤ 1404 →
      (m.tagVerifies = true → ((s.pkg.flash.rackKeys.take 2).map (·.1)).contains m.keyEpoch = true → tget s.pkg.mp.rackSeen key 0 < m.sequence →
        (m.type = 1 → m.sender = 0xFFFF → leAt m.body 12 2 ≤ 512 → m.body.length = 16 + 2 * leAt m.body 12 2 →
          (leAt m.body 12 2 = 0 ∨ ownId s.pkg ∈ (records 2 (m.body.drop 16)).map leNat) → lastCapEpoch s.pkg < leAt m.body 0 4 → 800 ≤ leAt m.body 4 4 →
          Completes (.cap port m) s (fun q => q.pw.capPending = some (min (leAt m.body 4 4) 2800, some (leAt m.body 0 4), leAt m.body 8 4)
            ∧ rd q Ix.mpRxDatagrams port = (rd s.pkg Ix.mpRxDatagrams port + 1) % 2 ^ 64 ∧ tget q.mp.rackSeen key 0 = m.sequence ∧ q.mem = s.pkg.mem ∧ q.parts = s.pkg.parts))
        ∧ (m.type = 2 → digestBodyOk m.body = true → Completes (.digest port m) s (fun q => ∃ p, rd p Ix.mpRxDatagrams port = (rd s.pkg Ix.mpRxDatagrams port + 1) % 2 ^ 64
            ∧ tget p.mp.rackSeen key 0 = m.sequence ∧ p.ru = s.pkg.ru ∧ p.mem = s.pkg.mem ∧ q = takeDigests p m.sender m.body))
        ∧ (m.type = 3 → m.body.length = 32 → Completes (.replica port m) s (fun q => q.mp.replicasSeen = s.pkg.mp.replicasSeen + 1 ∧ tget q.mp.rackSeen key 0 = m.sequence
            ∧ q.mem = s.pkg.mem ∧ q.parts = s.pkg.parts)))
      ∧ (m.tagVerifies = false → s.pkg.mp.rackDropped = [0, 0, 0, 0] → ∀ i ∈ [(Instr.cap port m, 1), (.digest port m, 2), (.replica port m, 3)], m.type = i.2 → Completes i.1 s (fun q =>
          q.mp.rackDropped = [0, 1, 0, 0] ∧ q.mp.rackSeen = s.pkg.mp.rackSeen ∧ q.pw = s.pkg.pw ∧ q.ru = s.pkg.ru ∧ q.mem = s.pkg.mem ∧ q.parts = s.pkg.parts)))
    ∧ (∀ (record : Fin 16) (round : Nat) r, s.pkg.ru.rounds.find? (fun r => r.record == record.val && r.round == round) = some r →
        Completes (.digestTimeout record round) s (fun q => q = endRound (begun s) r))
    ∧ (rdB s.pkg Ix.mpTelemetryDestination 0 = [] → Completes .telemetryPeriod s (fun q => q = begun s))
    ∧ (∀ l, l = ((records 4 (rdB s.pkg Ix.mpTelemetryList 0)).map (telemetryEntry (begun s))).filter (fun b => !b.isEmpty) → l ≠ [] → l.length ≤ 116 →
        rdB s.pkg Ix.mpTelemetryDestination 0 ≠ [] → Completes .telemetryPeriod s (fun q =>
          q = sendRack (begun s) 4 (anyStep s.pkg) (leBytes 2 l.length ++ leBytes 2 0 ++ leBytes 4 (rd s.pkg Ix.mpTelemetryPeriodMs 0) ++ l.flatMap id)))

/-- R401 to R405: a new request of a session that stays open is performed and answered once. A request that breaks its layout is answered with abort 0x11. READ, READ_SEGMENT and READ_PENDING of an entry that the steps of R405 let through answer the value in force, the bytes asked for, and the value that waits; DESCRIBE the entry's description; NEXT the entry present after the one named, and abort 1 where there is none; KEEPALIVE nothing more. None of these changes the package otherwise. An entry that is refused by a step is answered with that step's abort. Commands that it says complete: dapRead, dapWrite, readSegment, writeBegin, writeSegment, writeCommit, writeAbandon, domainWrite, readPending, describe, next, keepalive. -/
def Obligations.RequestsServed : Prop :=
  ∀ (s : State) (q : DapRequest) (p : Pkg) (se : Session), powered s.pkg = true → Admits s q p se → p.mp.sessions.any (fun t => t.number == se.number) = true →
    (∀ i ∈ [(Instr.dapRead q, 1), (.dapWrite q, 2), (.readSegment q, 3), (.writeBegin q, 4), (.writeSegment q, 5), (.writeCommit q, 6), (.writeAbandon q, 7), (.domainWrite q, 8),
            (.readPending q, 9), (.describe q, 10), (.next q, 11), (.keepalive q, 12)],
      requestMalformed i.2 q = true → Completes i.1 s (fun r => r = replied p q se { requestId := q.requestId, abort := 0x11, status := 0x1011 }))
    ∧ (∀ i ∈ [(Instr.dapRead q, 1), (.dapWrite q, 2), (.readSegment q, 3), (.writeBegin q, 4), (.domainWrite q, 8), (.readPending q, 9), (.describe q, 10)],
      ∀ a, requestMalformed i.2 q = false → checkEntry p i.2 q se = .error a →
        Completes i.1 s (fun r => r = replied p q se { requestId := q.requestId, abort := a.abort, status := a.status }))
    ∧ (∀ e u, requestMalformed 1 q = false → checkEntry p 1 q se = .ok (e, u) →
        Completes (.dapRead q) s (fun r => r = replied p q se (wholeAnswer p q e u (valueAt p e u q.subindex))))
    ∧ (∀ e u, requestMalformed 3 q = false → checkEntry p 3 q se = .ok (e, u) →
        Completes (.readSegment q) s (fun r => r = replied p q se (valueAnswer p q e u ((valueAt p e u q.subindex).out e.type)
          (slice ((valueAt p e u q.subindex).out e.type) q.arg q.arg2))))
    ∧ (∀ e u, requestMalformed 9 q = false → checkEntry p 9 q se = .ok (e, u) →
        Completes (.readPending q) s (fun r => r = replied p q se (wholeAnswer p q e u ((waitingAt p e q.subindex).getD (valueAt p e u q.subindex)))))
    ∧ (∀ e u, requestMalformed 10 q = false → checkEntry p 10 q se = .ok (e, u) →
        Completes (.describe q) s (fun r => r = replied p q se { requestId := q.requestId, type := e.type.code, data := describeEntry e }))
    ∧ (requestMalformed 11 q = false →
        (∀ k, nextKey (q.index * 256 + q.subindex) = some k →
          Completes (.next q) s (fun r => r = replied p q se { requestId := q.requestId, data := leBytes 2 (k / 256) ++ leBytes 1 (k % 256) }))
        ∧ (nextKey (q.index * 256 + q.subindex) = none → Completes (.next q) s (fun r => r = replied p q se { requestId := q.requestId, abort := 1, status := 0x1001 })))
    ∧ (requestMalformed 12 q = false → Completes (.keepalive q) s (fun r => r = replied p q se { requestId := q.requestId }))

/-- R401, R403, R405: a new write is performed and answered by the owner's answer: a WRITE of a whole value, behind which an accepted write of the restart entry starts the package anew (R465), and a segment of the inactive firmware slot. WRITE_BEGIN opens a transfer with a number of its own while the session has fewer than four and is refused with abort 0x10 beyond; WRITE_SEGMENT places its bytes in an open transfer and is refused with abort 14 beyond its total; WRITE_COMMIT of a transfer whose bytes are all there ends it and writes the whole value, and is answered with the abort of the step that refuses it, with abort 14 where a byte is missing and with abort 15 where the CRC differs; WRITE_ABANDON ends it. One of these that names no open transfer is answered with abort 13. Commands that it says complete: dapWrite, writeBegin, writeSegment, writeCommit, writeAbandon, domainWrite. -/
def Obligations.WritesServed : Prop :=
  ∀ (s : State) (q : DapRequest) (p : Pkg) (se : Session), powered s.pkg = true → Admits s q p se → p.mp.sessions.any (fun t => t.number == se.number) = true →
    (∀ e u r, requestMalformed 2 q = false → checkEntry p 2 q se = .ok (e, u) →
        writeAnswer q e u q.subindex (entryWrite p e u q.subindex (writtenValue e q.data) q) = r → r.1.mp.sessions.any (fun t => t.number == se.number) = true →
        (¬(q.index = Ix.btRestart.index ∧ r.2.abort = 0) → Completes (.dapWrite q) s (fun x => x = replied r.1 q se r.2))
        ∧ (q.index = Ix.btRestart.index → r.2.abort = 0 → CompletesAt (.dapWrite q) s {} (fun x =>
            x = beginStart (replied r.1 q se r.2) 2 (leNat q.data == 2 || warmNeedsFull (replied r.1 q se r.2)))))
    ∧ (∀ e u r, requestMalformed 8 q = false → checkEntry p 8 q se = .ok (e, u) → gated p e u q.subindex (fun p => writeSlot p q.arg2 q.data) = r →
        Completes (.domainWrite q) s (fun x => x = replied r.1 q se (writeAnswer q e u q.subindex r).2
          ∧ (gate p e u q.subindex = none → q.data ≠ [] → let put := fun (old : Bytes) => overlay (padTo old (max old.length (q.arg2 + q.data.length))) q.arg2 q.data
              if p.flash.activeSlot = 0 then r.1.flash.slotB = put p.flash.slotB ∧ r.1.flash.slotA = p.flash.slotA
              else r.1.flash.slotA = put p.flash.slotA ∧ r.1.flash.slotB = p.flash.slotB)))
    ∧ (∀ e u, requestMalformed 4 q = false → checkEntry p 4 q se = .ok (e, u) →
        (se.transfers.length < 4 → Completes (.writeBegin q) s (fun x => ∃ r : Pkg,
          r.mp.nextTransfer = p.mp.nextTransfer + 1 ∧ r.dict = p.dict ∧ r.mem = p.mem
          ∧ (∀ t ∈ r.mp.sessions, t.number = se.number → ∃ b ∈ t.transfers, b.number = p.mp.nextTransfer ∧ b.index = q.index ∧ b.subindex = q.subindex ∧ b.total = q.arg2 ∧ b.segments = [])
          ∧ x = replied r q se { requestId := q.requestId, type := 8, total := p.mp.nextTransfer }))
        ∧ (4 ≤ se.transfers.length → Completes (.writeBegin q) s (fun x => x = replied p q se { requestId := q.requestId, abort := 0x10, status := 0x1010 })))
    ∧ (∀ t, requestMalformed 5 q = false → transferOf se q.arg = some t →
        (q.arg2 + q.data.length ≤ t.total → Completes (.writeSegment q) s (fun x => x = replied (modSession p se.number (fun y => { y with transfers := y.transfers.map (fun t =>
            if t.number = q.arg then { t with segments := t.segments ++ [(q.arg2, q.data)], lastNs := p.now } else t) })) q se { requestId := q.requestId }))
        ∧ (t.total < q.arg2 + q.data.length → Completes (.writeSegment q) s (fun x => x = replied p q se { requestId := q.requestId, abort := 14, status := 0x100E })))
    ∧ (∀ t, requestMalformed 6 q = false → transferOf se q.arg = some t →
        (∀ b, assembled t = some b → (crc32 b).toNat = q.arg2 →
          (∀ a, checkEntry (endTransfer p se.number t.number) 4 { q with index := t.index, subindex := t.subindex, arg2 := t.total } se = .error a →
            Completes (.writeCommit q) s (fun x => x = replied (endTransfer p se.number t.number) q se { requestId := q.requestId, abort := a.abort, status := a.status }))
          ∧ (∀ e u r, checkEntry (endTransfer p se.number t.number) 4 { q with index := t.index, subindex := t.subindex, arg2 := t.total } se = .ok (e, u) →
            writeAnswer q e u t.subindex (entryWrite (endTransfer p se.number t.number) e u t.subindex (.bytes b) q) = r →
            r.1.mp.sessions.any (fun t => t.number == se.number) = true → Completes (.writeCommit q) s (fun x => x = replied r.1 q se r.2)))
        ∧ (∀ b, assembled t = some b → (crc32 b).toNat ≠ q.arg2 → Completes (.writeCommit q) s (fun x =>
            x = replied (endTransfer p se.number t.number) q se { requestId := q.requestId, abort := 15, status := 0x100F }))
        ∧ (assembled t = none → Completes (.writeCommit q) s (fun x =>
            x = replied (endTransfer p se.number t.number) q se { requestId := q.requestId, abort := 14, status := 0x100E })))
    ∧ (∀ t, requestMalformed 7 q = false → transferOf se q.arg = some t →
        Completes (.writeAbandon q) s (fun x => x = replied (endTransfer p se.number t.number) q se { requestId := q.requestId }))
    ∧ (∀ i ∈ [(Instr.writeSegment q, 5), (.writeCommit q, 6), (.writeAbandon q, 7)], requestMalformed i.2 q = false → transferOf se q.arg = none →
        Completes i.1 s (fun x => x = replied p q se { requestId := q.requestId, abort := 13, status := 0x100D }))

/-- R393, R395 to R399, R403, R408: a HELLO of valid form, with a role, a common level and room, opens a handshake with a number of its own and with keys drawn from both secrets under the hash of the exchange; one of another form is dropped, and one without a common level, role or room is answered with ERROR 0x14, 0x13 or 0x12. A FINISH within 2 s whose tag verifies, with a credential that allows the role and room for it, opens the session with the handshake's keys and ends the handshake; one that fails ends the handshake with ERROR 0x15, 0x13 or 0x12, and one whose tag does not verify or that names none changes no handshake. A CLOSE ends its session. At their times a handshake is given up with abort 0x15, an idle session ends with a CLOSE and an idle transfer is discarded; before them nothing happens. R408: a write of the session-close entry ends the session named. Commands that it says complete: hello, finish, close, dapHandshakeTimeout, sessionIdleTimeout, transferIdleTimeout, sessionCloseWrite. -/
def Obligations.SessionsComplete : Prop :=
  ∀ (s : State), powered s.pkg = true →
    (∀ (t : Fin 3) (client : Nat) (d : Bytes) (level : Nat), helloOk d = true → commonLevel (leAt d 17 1) (leAt d 2 1) = some level → 1 ≤ leAt d 16 1 → leAt d 16 1 ≤ 3 →
        s.pkg.mp.handshakes.length < 8 → Completes (.hello t client d) s (fun q => q.mp.nextSession = s.pkg.mp.nextSession + 1 ∧ q.mp.sessions = s.pkg.mp.sessions
          ∧ (∃ h : Handshake, q.mp.handshakes = s.pkg.mp.handshakes ++ [h] ∧ h.number = s.pkg.mp.nextSession ∧ h.role = leAt d 16 1 ∧ h.credential = leAt d 18 2
              ∧ h.transport = t.val ∧ h.client = client ∧ h.helloNs = s.clock.ns ∧ h.level = level
              ∧ h.keys = hkdf256 h.transcript (h.x25519Secret ++ h.kemSecret) [0x44, 0x41, 0x50, 0x31] 88)
          ∧ (∃ b, q.out.getLast? = some (.helloReply s.pkg.mp.nextSession b)) ∧ q.mem = s.pkg.mem ∧ q.parts = s.pkg.parts))
    ∧ (∀ (t : Fin 3) (client : Nat) (d : Bytes), helloOk d = false → Completes (.hello t client d) s (fun q => q.mp = s.pkg.mp ∧ q.out = s.pkg.out ∧ q.mem = s.pkg.mem ∧ q.parts = s.pkg.parts))
    ∧ (∀ (t : Fin 3) (client : Nat) (d : Bytes) (abort : Nat), helloOk d = true →
        (commonLevel (leAt d 17 1) (leAt d 2 1) = none ∧ abort = 0x14
          ∨ commonLevel (leAt d 17 1) (leAt d 2 1) ≠ none ∧ (leAt d 16 1 = 0 ∨ 3 < leAt d 16 1) ∧ abort = 0x13
          ∨ commonLevel (leAt d 17 1) (leAt d 2 1) ≠ none ∧ 1 ≤ leAt d 16 1 ∧ leAt d 16 1 ≤ 3 ∧ 8 ≤ s.pkg.mp.handshakes.length ∧ abort = 0x12) →
        Completes (.hello t client d) s (fun q => q.mp.handshakes = s.pkg.mp.handshakes ∧ q.mp.sessions = s.pkg.mp.sessions ∧ rd q Ix.mpLastStatus 0 = 0x1000 + abort
          ∧ Out.errorDatagram t.val client 0 abort ∈ q.out ∧ q.mem = s.pkg.mem ∧ q.parts = s.pkg.parts))
    ∧ (∀ (n t client sequence : Nat) (h : Handshake), s.pkg.mp.handshakes.find? (fun h => h.number == n && h.transport == t && h.client == client) = some h →
        (∀ verify : Bool, s.clock.ns < h.helloNs + 2000000000 → roleAllowed s.pkg h verify = true → sessionRoom s.pkg h.role = true → Completes (.finish n t client sequence true verify) s (fun q =>
          q.mp.handshakes = s.pkg.mp.handshakes.filter (fun g => g.number != n)
          ∧ (∃ e : Session, q.mp.sessions = s.pkg.mp.sessions ++ [e] ∧ e.number = h.number ∧ e.role = h.role ∧ e.credential = h.credential ∧ e.keys = h.keys ∧ e.highest = sequence
              ∧ e.transfers = [] ∧ e.lastNs = s.clock.ns)
          ∧ (∃ b, q.out.getLast? = some (.response h.number {} b)) ∧ q.mem = s.pkg.mem ∧ q.parts = s.pkg.parts))
        ∧ (∀ (verify : Bool) (abort : Nat),
          (h.helloNs + 2000000000 ≤ s.clock.ns ∧ abort = 0x15 ∨ s.clock.ns < h.helloNs + 2000000000 ∧ roleAllowed s.pkg h verify = false ∧ abort = 0x13
            ∨ s.clock.ns < h.helloNs + 2000000000 ∧ roleAllowed s.pkg h verify = true ∧ sessionRoom s.pkg h.role = false ∧ abort = 0x12) →
          Completes (.finish n t client sequence true verify) s (fun q => q.mp.handshakes = s.pkg.mp.handshakes.filter (fun g => g.number != n) ∧ q.mp.sessions = s.pkg.mp.sessions
            ∧ rd q Ix.mpLastStatus 0 = 0x1000 + abort ∧ Out.errorDatagram t client n abort ∈ q.out ∧ q.mem = s.pkg.mem ∧ q.parts = s.pkg.parts)))
    ∧ (∀ (n t client sequence : Nat) (tag verify : Bool),
        tag = false ∨ s.pkg.mp.handshakes.find? (fun h => h.number == n && h.transport == t && h.client == client) = none →
        Completes (.finish n t client sequence tag verify) s (fun q => q.mp = s.pkg.mp ∧ q.out = s.pkg.out ∧ q.mem = s.pkg.mem ∧ q.parts = s.pkg.parts))
    ∧ (∀ (n t client sequence : Nat) (tag : Bool) (p : Pkg),
        (∀ e : Session, admitDatagram (begun s) n t client sequence tag = (p, some e) →
          Completes (.close n t client sequence tag) s (fun q => q.mp.sessions = p.mp.sessions.filter (fun x => x.number != e.number) ∧ q.out = p.out ∧ q.mem = s.pkg.mem ∧ q.parts = s.pkg.parts))
        ∧ (admitDatagram (begun s) n t client sequence tag = (p, none) → Completes (.close n t client sequence tag) s (fun q => q = p)))
    ∧ (∀ (n : Nat) (h : Handshake), s.pkg.mp.handshakes.find? (fun h => h.number == n) = some h →
        (h.helloNs + 2000000000 ≤ s.clock.ns → Completes (.dapHandshakeTimeout n) s (fun q => q.mp.handshakes = s.pkg.mp.handshakes.filter (fun g => g.number != n)
          ∧ q.out.getLast? = some (.errorDatagram h.transport h.client n 0x15) ∧ rd q Ix.mpLastStatus 0 = 0x1015 ∧ q.mem = s.pkg.mem ∧ q.parts = s.pkg.parts))
        ∧ (s.clock.ns < h.helloNs + 2000000000 → Completes (.dapHandshakeTimeout n) s (fun q => q = begun s)))
    ∧ (∀ (n : Nat) (e : Session), s.pkg.mp.sessions.find? (fun s => s.number == n) = some e →
        (e.lastNs + rd s.pkg Ix.mpSessionIdleS 0 * 1000000000 ≤ s.clock.ns → Completes (.sessionIdleTimeout n) s (fun q =>
          q.mp.sessions = s.pkg.mp.sessions.filter (fun x => x.number != n) ∧ (∃ b, q.out.getLast? = some (.close n b)) ∧ q.mem = s.pkg.mem ∧ q.parts = s.pkg.parts))
        ∧ (s.clock.ns < e.lastNs + rd s.pkg Ix.mpSessionIdleS 0 * 1000000000 → Completes (.sessionIdleTimeout n) s (fun q => q = begun s))
        ∧ (∀ t x, transferOf e t = some x →
          (x.lastNs + 10000000000 ≤ s.clock.ns → Completes (.transferIdleTimeout n t) s (fun q => q = endTransfer (begun s) n t))
          ∧ (s.clock.ns < x.lastNs + 10000000000 → Completes (.transferIdleTimeout n t) s (fun q => q = begun s))))
    ∧ (∀ n t : Nat,
        (s.pkg.mp.handshakes.find? (fun h => h.number == n) = none → Completes (.dapHandshakeTimeout n) s (fun q => q = begun s))
        ∧ (s.pkg.mp.sessions.find? (fun s => s.number == n) = none → Completes (.sessionIdleTimeout n) s (fun q => q = begun s))
        ∧ ((s.pkg.mp.sessions.find? (fun s => s.number == n)).bind (fun e => transferOf e t) = none → Completes (.transferIdleTimeout n t) s (fun q => q = begun s)))
    ∧ (∀ w : Word, gate s.pkg Ix.mpSessionClose 0 0 = none →
        (s.pkg.mp.sessions.any (fun e => e.number == w.toNat) = true → Completes (.sessionCloseWrite w) s (fun q => q.mp.sessions = s.pkg.mp.sessions.filter (fun x => x.number != w.toNat)
          ∧ (∃ b, Out.close w.toNat b ∈ q.out) ∧ q.out.getLast? = some (.answer 0x1023 0 0 0 false)))
        ∧ (s.pkg.mp.sessions.any (fun e => e.number == w.toNat) = false → Completes (.sessionCloseWrite w) s (fun q => q.mp = s.pkg.mp
          ∧ q.out.getLast? = some (.answer 0x1023 0 6 0x1006 false))))

/-- R397, R408: a credential table that keeps its layout is in force and kept, its reserved fields as zero, with event 0x1021; the sessions whose credential it removes or changes end, with the first VALID record those opened without one but observers over the sideband, and the others stay; a table that breaks the layout is refused with 0x1006. R387: a counters-clear entry's 1 sets the entries that it names to their defaults and leaves the others, and another value is refused; an index that clears nothing has no object. R461: a list of packages declared lost of valid length is acted on package by package as departures, this package apart; one of another length is refused. Commands that it says complete: countersClear, credentialsWrite, declareLostWrite. -/
def Obligations.OwnersWritesComplete : Prop :=
  ∀ (s : State), powered s.pkg = true →
    (∀ data : Bytes, gate s.pkg Ix.mpCredentials 0 0 = none →
      (data.length % 2048 = 0 → data.length ≤ 32768 → (records 2048 data).all credentialOk = true → Completes (.credentialsWrite data) s (fun q =>
        rdB q Ix.mpCredentials 0 = (records 2048 data).flatMap credentialClean ∧ rd q Ix.mpLastStatus 0 = 0x1021 ∧ q.out.getLast? = some (.answer 0x1024 0 0 0 false)
        ∧ (∀ e ∈ s.pkg.mp.sessions, e.credential ≠ 0xFFFF → (credentialAt q e.credential ≠ credentialAt s.pkg e.credential → ∀ x ∈ q.mp.sessions, x.number ≠ e.number)
            ∧ ((∀ x ∈ s.pkg.mp.sessions, x.number = e.number → x = e) → credentialAt q e.credential = credentialAt s.pkg e.credential → e ∈ q.mp.sessions))
        ∧ (∀ e ∈ s.pkg.mp.sessions, e.credential = 0xFFFF →
            (anyCredential s.pkg = false → anyCredential q = true → ¬(e.role = 1 ∧ e.transport = 2) → ∀ x ∈ q.mp.sessions, x.number ≠ e.number)
            ∧ ((∀ x ∈ s.pkg.mp.sessions, x.number = e.number → x = e) → (anyCredential s.pkg = true ∨ anyCredential q = false ∨ e.role = 1 ∧ e.transport = 2) → e ∈ q.mp.sessions))))
      ∧ (¬(data.length % 2048 = 0 ∧ data.length ≤ 32768 ∧ (records 2048 data).all credentialOk = true) → Completes (.credentialsWrite data) s (fun q =>
        q.dict = s.pkg.dict ∧ q.mp = s.pkg.mp ∧ q.out.getLast? = some (.answer 0x1024 0 6 0x1006 false))))
    ∧ (∀ (index : BitVec 16) (v : Byte),
      (∀ l, clearedBy index.toNat = some l → (v = 1 → Completes (.countersClear index v) s (fun q => ∃ p, p = clearOther (clearRanges (begun s) l) index.toNat
          ∧ q = emit p (.answer index.toNat 0 0 0 false)
          ∧ (∀ (e : Entry) (sub : Nat), (∃ r ∈ l, r.1 ≤ keyAt e 0 sub / 256 ∧ keyAt e 0 sub / 256 ≤ r.2) → index ≠ 0x2420 → rd q e sub = e.dflt)
          ∧ (∀ (e : Entry) (sub : Nat), (∀ r ∈ l, ¬(r.1 ≤ keyAt e 0 sub / 256 ∧ keyAt e 0 sub / 256 ≤ r.2)) → index ≠ 0x2420 → rd q e sub = rd s.pkg e sub)
          ∧ (index = 0x2420 → ∀ pp < 12, rd q Ix.qrAlertHead pp = 0 ∧ rdB q Ix.qrAlertLog pp = []) ∧ (index = 0x6020 → ∀ pp < 12, (part q pp).pc.waitNs = [0, 0, 0, 0, 0])
          ∧ (index = 0x1030 → q.mp.rackDropped = [0, 0, 0, 0]) ∧ (index = 0x7040 → ∀ r ∈ q.pw.reasons, r.cumulativeNs = 0)))
        ∧ (v ≠ 1 → Completes (.countersClear index v) s (fun q => q = emit (begun s) (.answer index.toNat 0 6 0x1006 false))))
      ∧ (clearedBy index.toNat = none → Completes (.countersClear index v) s (fun q => q = emit (begun s) (.answer index.toNat 0 1 0x1001 false))))
    ∧ (∀ data : Bytes, gate s.pkg Ix.ruDeclareLost 0 0 = none →
      (data.length % 2 = 0 → data.length ≤ 32 → Completes (.declareLostWrite data) s (fun q =>
        q = answered Ix.ruDeclareLost 0 (((records 2 data).map leNat).foldl (fun p id => if id = ownId p then p else takeDeparture p id) (begun s), accepted)))
      ∧ (¬(data.length % 2 = 0 ∧ data.length ≤ 32) → Completes (.declareLostWrite data) s (fun q => q.dict = s.pkg.dict ∧ q.tf = s.pkg.tf ∧ q.out.getLast? = some (.answer 0x6452 0 6 0x1006 false))))

/-- R416, R417, R485: the partition commands in the states that accept them. START of a stopped or halted partition of a ready package outside Drydown, with its program table in place and for a rack partition with a valid record and a tick adopted, clears its blocks' counters and enters state 2 before its first step; otherwise it is refused. STOP enters state 1 between steps, from a pause and from a preemption, and waits for the end of a running step. PAUSE waits for the boundary; RESUME outside Drydown enters state 2, from a preemption with what its marks saved; PREEMPT enters state 4; RESET enters state 6 and its phase 1. In a reset every one is answered RESETTING, and in a state that does not accept it 0x1105, with nothing changed; PREEMPT of a partition that a rejection stopped is answered with the rejection's code (R80). Commands that it says complete: partitionStart, partitionStop, partitionPause, partitionResume, partitionPreempt, partitionReset. -/
def Obligations.PartitionCommandsComplete : Prop :=
  ∀ (s : State) (pp : Fin 12), powered s.pkg = true →
    (pcState s.pkg pp ∈ [1, 7] →
      (rd s.pkg Ix.btStartState 0 = 8 → rd s.pkg Ix.ruPackageFlag 0 ≠ 2 → rd s.pkg Ix.ruDrydownState 0 = 0 → programTableOk s.pkg pp = true → rackRecordOk s.pkg pp = true →
        (isRack s.pkg pp = true → s.pkg.pw.tickAdopted = true) → Completes (.partitionStart pp) s (fun q => pcState q pp = 2 ∧ (part q pp).pc.firstStep = true ∧ (part q pp).pc.stepRunning = false
          ∧ (part q pp).ru.poison = none ∧ (∀ b ∈ blocksOf s.pkg pp, (blk q b).counters = [] ∧ (blk q b).tallies = [] ∧ (blk q b).p = 0 ∧ (blk q b).step = none)
          ∧ q.mem = s.pkg.mem ∧ q.out.getLast? = some (.answer 0x6002 pp 0 0 false)))
      ∧ (∀ status, (rd s.pkg Ix.btStartState 0 ≠ 8 ∧ status = 0x1309
          ∨ rd s.pkg Ix.btStartState 0 = 8 ∧ rd s.pkg Ix.ruPackageFlag 0 = 2 ∧ status = 0x1214
          ∨ rd s.pkg Ix.btStartState 0 = 8 ∧ rd s.pkg Ix.ruPackageFlag 0 ≠ 2 ∧ status = 0x1105
            ∧ (rd s.pkg Ix.ruDrydownState 0 ≠ 0 ∨ programTableOk s.pkg pp = false ∨ rackRecordOk s.pkg pp = false ∨ isRack s.pkg pp = true ∧ s.pkg.pw.tickAdopted = false)) →
        Completes (.partitionStart pp) s (fun q => (status = 0x1105 → q.dict = s.pkg.dict) ∧ (status = 0x1309 → rd q Ix.btLastStatus 0 = status)
          ∧ (status = 0x1214 → rd q Ix.ruLastStatus pp = status) ∧ q.parts = s.pkg.parts ∧ q.tp = s.pkg.tp ∧ q.mem = s.pkg.mem ∧ q.out = s.pkg.out ++ [.answer 0x6002 pp 6 status false])))
    ∧ (pcState s.pkg pp = 2 → (part s.pkg pp).pc.stepRunning = false → Completes (.partitionStop pp) s (fun q => pcState q pp = 1 ∧ q.mem = s.pkg.mem ∧ q.tp = s.pkg.tp
        ∧ q.out.getLast? = some (.answer 0x6002 pp 0 0 false)))
    ∧ (pcState s.pkg pp = 2 → (part s.pkg pp).pc.stepRunning = true → Completes (.partitionStop pp) s (fun q => pcState q pp = 2 ∧ (part q pp).pc.stopPending = true
        ∧ (part q pp).pc.stepRunning = true ∧ q.mem = s.pkg.mem ∧ q.out.getLast? = some (.answer 0x6002 pp 0 0 false)))
    ∧ (pcState s.pkg pp ∈ [3, 5] → Completes (.partitionStop pp) s (fun q => pcState q pp = 1 ∧ q.out.getLast? = some (.answer 0x6002 pp 0 0 false)
        ∧ (pcState s.pkg pp = 3 → q.mem = s.pkg.mem ∧ q.tp = s.pkg.tp) ∧ (pcState s.pkg pp = 5 → (part q pp).pc.stepRunning = false ∧ ∀ b ∈ blocksOf s.pkg pp, (blk q b).passes = [] ∧ (blk q b).stopAt = none)))
    ∧ (pcState s.pkg pp = 2 → Completes (.partitionPause pp) s (fun q => (part q pp).pc.pausePending = true ∧ q.dict = s.pkg.dict ∧ q.mem = s.pkg.mem
        ∧ q.out.getLast? = some (.answer 0x6002 pp 0 0 false)))
    ∧ (rd s.pkg Ix.ruDrydownState 0 = 0 →
        (pcState s.pkg pp = 3 → Completes (.partitionResume pp) s (fun q => pcState q pp = 2 ∧ (part q pp).pc.powerPaused = false ∧ q.mem = s.pkg.mem
          ∧ q.tp = s.pkg.tp ∧ q.out.getLast? = some (.answer 0x6002 pp 0 0 false)))
        ∧ (pcState s.pkg pp = 5 → Completes (.partitionResume pp) s (fun q => pcState q pp = 2 ∧ (part q pp).pc.powerPaused = false
          ∧ (∀ b ∈ blocksOf s.pkg pp, regionHidden s.pkg (b / 8) = false → (blk s.pkg b).step ≠ none → (blk q b).stopAt = none ∧ (blk q b).reported = false ∧ (blk q b).saved = [])
          ∧ q = answered Ix.pcCommand pp (pcResume (begun s) pp, accepted))))
    ∧ (pcState s.pkg pp = 2 → Completes (.partitionPreempt pp) s (fun q => pcState q pp = 4 ∧ (part q pp).pc.pausePending = false ∧ (part q pp).pc.excludedFrom = s.clock.ns
        ∧ (∀ b ∈ blocksOf s.pkg pp, (blk q b).stopAt = some (((blocksOf s.pkg pp).map (fun b => (blk s.pkg b).marks)).foldl max 0 + 1)) ∧ q.mem = s.pkg.mem
        ∧ q.out.getLast? = some (.answer 0x6002 pp 0 0 false)))
    ∧ (pcState s.pkg pp ≠ 0 → pcState s.pkg pp ≠ 6 → Completes (.partitionReset pp) s (fun q => pcState q pp = 6 ∧ (part q pp).pc.resetPhase = 1 ∧ (part q pp).pc.resetStartNs = s.clock.ns
        ∧ rd q Ix.pcResets pp = (rd s.pkg Ix.pcResets pp + 1) % 2 ^ 32 ∧ q.mem = s.pkg.mem ∧ q.out.getLast? = some (.answer 0x6002 pp 0 0 false)
        ∧ ∀ m ∈ otherMembers s.pkg pp, Out.resetNotice m pp ∈ q.out))
    ∧ (∀ i ∈ [Instr.partitionStart pp, .partitionStop pp, .partitionPause pp, .partitionResume pp, .partitionPreempt pp, .partitionReset pp], pcState s.pkg pp = 6 →
        Completes i s (fun q => q.dict = s.pkg.dict ∧ q.parts = s.pkg.parts ∧ q.tp = s.pkg.tp ∧ q.mem = s.pkg.mem ∧ q.out = s.pkg.out ++ [.answer 0x6002 pp 10 0x11E1 false]))
    ∧ (∀ i ∈ [(Instr.partitionStart pp, [0, 2, 3, 4, 5]), (.partitionStop pp, [0, 1, 4, 7]), (.partitionPause pp, [0, 1, 3, 4, 5, 7]), (.partitionResume pp, [0, 1, 2, 4, 7]),
              (.partitionPreempt pp, [0, 1, 3, 4, 5]), (.partitionReset pp, [0])], pcState s.pkg pp ∈ i.2 →
        Completes i.1 s (fun q => q.dict = s.pkg.dict ∧ q.parts = s.pkg.parts ∧ q.tp = s.pkg.tp ∧ q.mem = s.pkg.mem ∧ q.out = s.pkg.out ++ [.answer 0x6002 pp 6 0x1105 false]))
    ∧ (pcState s.pkg pp ∈ [3, 5] → rd s.pkg Ix.ruDrydownState 0 ≠ 0 →
        Completes (.partitionResume pp) s (fun q => q.dict = s.pkg.dict ∧ q.parts = s.pkg.parts ∧ q.tp = s.pkg.tp ∧ q.mem = s.pkg.mem ∧ q.out = s.pkg.out ++ [.answer 0x6002 pp 6 0x1105 false]))
    ∧ (∀ status, pcState s.pkg pp = 7 → status = (if (blocksOf s.pkg pp).any (fun b => (blk s.pkg b).act == 3) then (part s.pkg pp).pc.stepFailed.getD 0x1105 else 0x1105) →
        Completes (.partitionPreempt pp) s (fun q => q.dict = s.pkg.dict ∧ q.parts = s.pkg.parts ∧ q.tp = s.pkg.tp ∧ q.mem = s.pkg.mem ∧ q.out = s.pkg.out ++ [.answer 0x6002 pp 6 status false]))

/-- R416, R425, R426: with every block saved and every copy ended a preempted partition is in state 5 and counted; before that nothing happens. Each phase of a reset ends with its work and the next phase: phase 2 abandons what is outstanding and resets fences, phase 3 leaves the fences of the RETIREs not answered broken, phase 4 of a resetting partition discards what its units hold, phase 5 takes its regions off the fenced list, phase 6 halts the partition where a region is left hidden by the test, and phase 7 zeroes its SRAM, clears its blocks and ends the reset, with START at once where auto-start asks for it. A reset notice begins phase 1 in a partition that is configured and not resetting, and is ignored otherwise. Commands that it says complete: preemptSaveComplete, resetPhaseComplete, resetNoticeArrival. -/
def Obligations.PartitionPhasesComplete : Prop :=
  ∀ (s : State) (pp : Fin 12) (f : List FailedUnit) (u : List Nat), powered s.pkg = true →
    (pcState s.pkg pp = 4 → preemptSaved s.pkg pp = true → Completes (.preemptSaveComplete pp) s (fun q => pcState q pp = 5 ∧ rd q Ix.pcPreemptions pp = (rd s.pkg Ix.pcPreemptions pp + 1) % 2 ^ 32))
    ∧ (pcState s.pkg pp ≠ 4 ∨ preemptSaved s.pkg pp = false → Completes (.preemptSaveComplete pp) s (fun q => q = begun s))
    ∧ ((part s.pkg pp).pc.resetPhase = 1 → Completes (.resetPhaseComplete pp f u) s (fun q => (part q pp).pc.resetPhase = 2 ∧ q.dict = s.pkg.dict ∧ q.mem = s.pkg.mem ∧ q.tp = s.pkg.tp))
    ∧ ((part s.pkg pp).pc.resetPhase = 2 → Completes (.resetPhaseComplete pp f u) s (fun q => ∃ p, p = retireUnresolved (abandonOutstanding (begun s) pp) pp
        ∧ (part q pp).pc.resetPhase = 3 ∧ q = modPc p pp (fun x => { x with resetPhase := 3 })))
    ∧ ((part s.pkg pp).pc.resetPhase = 3 → Completes (.resetPhaseComplete pp f u) s (fun q => (part q pp).pc.resetPhase = 4 ∧ (∀ x ∈ u, x ∈ q.ms.broken)))
    ∧ ((part s.pkg pp).pc.resetPhase = 4 → Completes (.resetPhaseComplete pp f u) s (fun q => (part q pp).pc.resetPhase = 5 ∧ (∀ c ∈ q.tf.colls, c.pp ≠ pp.val)
        ∧ (pcState s.pkg pp = 6 → (part q pp).sc.masks = [[], []] ∧ (part q pp).sc.notices = [] ∧ (part q pp).sc.resetPending = true ∧ (∀ r ∈ (part q pp).sc.requests, r.ended.isSome = true)
          ∧ (part q pp).er = {} ∧ (part q pp).se.lag0 = [])))
    ∧ ((part s.pkg pp).pc.resetPhase = 5 → Completes (.resetPhaseComplete pp f u) s (fun q => (part q pp).pc.resetPhase = 6 ∧ q.mem = s.pkg.mem ∧ q.dict = s.pkg.dict
        ∧ q.tp.fenced = s.pkg.tp.fenced.filter (fun r => !(regionsOf s.pkg pp).contains r)))
    ∧ ((part s.pkg pp).pc.resetPhase = 6 → ∀ p, p = (regionsOf (begun s) pp).foldl (returnUnits f) (f.foldl takeDefect (begun s)) →
        ((∀ r ∈ regionsOf p pp, regionHidden p r = false) → Completes (.resetPhaseComplete pp f u) s (fun q => (part q pp).pc.resetPhase = 7 ∧ q = modPc p pp (fun x => { x with resetPhase := 7 })))
        ∧ ((∃ r ∈ regionsOf p pp, regionHidden p r = true) → (part p pp).sc.resetPending = false → Completes (.resetPhaseComplete pp f u) s (fun q => pcState q pp = 7
            ∧ rd q Ix.pcLastStatus pp = 0x1106 ∧ (part q pp).pc.resetPhase = 0))
        ∧ ((∃ r ∈ regionsOf p pp, regionHidden p r = true) → Completes (.resetPhaseComplete pp f u) s (fun q => q = closeReset (last p Ix.pcLastStatus pp 0x1106) pp 7 0x1111)))
    ∧ ((part s.pkg pp).pc.resetPhase = 7 →
        ((part s.pkg pp).sc.resetPending = false → rd s.pkg Ix.pcAutoStart pp ≠ 1 → Completes (.resetPhaseComplete pp f u) s (fun q => pcState q pp = 1
          ∧ (part q pp).pc.resetPhase = 0 ∧ q.mem = (zeroSram (begun s) (regionsOf s.pkg pp)).mem ∧ (∀ b ∈ blocksOf s.pkg pp, (blk q b).counters = [] ∧ (blk q b).p = 0)))
        ∧ (∀ c, c = closeReset (clearStepState (zeroSram (begun s) (regionsOf s.pkg pp)) pp) pp 1 0x1110 →
          Completes (.resetPhaseComplete pp f u) s (fun q => q = if rd c Ix.pcAutoStart pp = 1 then (pcStart c pp).1 else c)))
    ∧ ((part s.pkg pp).pc.resetPhase ∉ [1, 2, 3, 4, 5, 6, 7] → Completes (.resetPhaseComplete pp f u) s (fun q => q = begun s))
    ∧ (pcState s.pkg pp ≠ 0 → pcState s.pkg pp ≠ 6 → Completes (.resetNoticeArrival pp) s (fun q => pcState q pp = 6 ∧ (part q pp).pc.resetPhase = 1
        ∧ rd q Ix.pcResets pp = (rd s.pkg Ix.pcResets pp + 1) % 2 ^ 32 ∧ q.mem = s.pkg.mem ∧ q.out = s.pkg.out))
    ∧ (pcState s.pkg pp = 0 ∨ pcState s.pkg pp = 6 → Completes (.resetNoticeArrival pp) s (fun q => q = begun s))

/-- R418: a step that has run for its watchdog's time is rolled back with cause 4 and status 0x1101, and for the second time its partition halts; before that time, outside a step or in a reset nothing happens. R420: at a refill every regulated bucket of every partition gains 100 ns of its rate, up to its burst, an unregulated one is as it was, and the channels that wait are served. R413, R428: a region mask is taken in a partition that does not run when its regions are free, and the gained regions' SRAM is zeroed; in a running one it is refused as busy, with a region hidden or held by another partition with 0x1102, as a fifth partition without its licence with 0x11E3, and with a region in use with 0x1104. Commands that it says complete: stepWatchdogExpiry, regulatorRefill, regionMaskWrite. -/
def Obligations.WatchdogRefillMaskComplete : Prop :=
  ∀ (s : State), powered s.pkg = true →
    (∀ pp : Fin 12, pcState s.pkg pp ≠ 6 → (part s.pkg pp).pc.stepRunning = true →
      (1000 * rd s.pkg Ix.pcStepWatchdogUs pp ≤ stepRunNs (begun s) pp →
        ((part s.pkg pp).pc.watchdogStep ≠ some (stepOf s.pkg pp) → Completes (.stepWatchdogExpiry pp) s (fun q => ∃ p,
          rd p Ix.pcLastStatus pp = 0x1101 ∧ (part p pp).pc.watchdogStep = some (stepOf s.pkg pp) ∧ p.mem = s.pkg.mem ∧ (part p pp).ru = (part s.pkg pp).ru
          ∧ q = causeRollback p pp 4 0xFF 0xFF 0 0))
        ∧ ((part s.pkg pp).pc.watchdogStep = some (stepOf s.pkg pp) → Completes (.stepWatchdogExpiry pp) s (fun q => pcState q pp = 7 ∧ rd q Ix.pcLastStatus pp = 0x1101
          ∧ (part q pp).pc.stepRunning = false)))
      ∧ (stepRunNs (begun s) pp < 1000 * rd s.pkg Ix.pcStepWatchdogUs pp → Completes (.stepWatchdogExpiry pp) s (fun q => q = begun s)))
    ∧ (∀ pp : Fin 12, pcState s.pkg pp = 6 ∨ (part s.pkg pp).pc.stepRunning = false → Completes (.stepWatchdogExpiry pp) s (fun q => q = begun s))
    ∧ Completes .regulatorRefill s (fun q => ∃ p, q = serve p ∧ p.dict = s.pkg.dict ∧ p.mem = s.pkg.mem ∧ p.dm = s.pkg.dm ∧ ∀ pp < 12, ∀ r < 5, ∀ g ∈ bucketsOf r,
        ((regulator s.pkg pp r).1 = 0 → creditOf p pp r g = creditOf s.pkg pp r g)
        ∧ ((regulator s.pkg pp r).1 ≠ 0 → creditOf p pp r g = min (creditOf s.pkg pp r g + (((regulator s.pkg pp r).1 * 100 / 1000 : Nat) : Int)) ((regulator s.pkg pp r).2.1 : Int)))
    ∧ (∀ (pp : Fin 12) (mask : BitVec 16),
      (pcState s.pkg pp ∈ [0, 1, 7] → mask.toNat < 4096 → (∀ r < 12, bit mask.toNat r = true → regionHidden s.pkg r = false ∧ ∀ x < 12, x ≠ pp.val → bit (rd s.pkg Ix.pcRegionMask x) r = false) →
        (mask = 0 ∨ ((List.range 12).filter (fun x => x != pp.val && rd s.pkg Ix.pcRegionMask x != 0)).length < 4 ∨ granted s.pkg 2 = true →
          ((∀ r ∈ gained s.pkg pp mask.toNat, regionInUse s.pkg pp r = false) → Completes (.regionMaskWrite pp mask) s (fun q => rd q Ix.pcRegionMask pp = mask.toNat
              ∧ pcState q pp = (if mask = 0 then 0 else if pcState s.pkg pp = 0 then 1 else pcState s.pkg pp) ∧ q.mem = (zeroSram (begun s) (gained s.pkg pp mask.toNat)).mem
              ∧ (∀ b ∈ (gained s.pkg pp mask.toNat).flatMap blocksOfRegion, (blk q b).counters = []) ∧ q.out.getLast? = some (.answer 0x6000 pp 0 0 false)))
          ∧ ((∃ r ∈ gained s.pkg pp mask.toNat, regionInUse s.pkg pp r = true) →
              Completes (.regionMaskWrite pp mask) s (fun q => q.dict = s.pkg.dict ∧ q.mem = s.pkg.mem ∧ q.out.getLast? = some (.answer 0x6000 pp 6 0x1104 false))))
        ∧ (mask ≠ 0 → 4 ≤ ((List.range 12).filter (fun x => x != pp.val && rd s.pkg Ix.pcRegionMask x != 0)).length → granted s.pkg 2 = false →
            Completes (.regionMaskWrite pp mask) s (fun q => q.dict = s.pkg.dict ∧ q.mem = s.pkg.mem ∧ q.out.getLast? = some (.answer 0x6000 pp 9 0x11E3 false))))
      ∧ (pcState s.pkg pp ∉ [0, 1, 7] → Completes (.regionMaskWrite pp mask) s (fun q => q.dict = s.pkg.dict ∧ q.mem = s.pkg.mem ∧ q.out.getLast? = some (.answer 0x6000 pp 7 0x11E0 false)))
      ∧ (pcState s.pkg pp ∈ [0, 1, 7] → (4096 ≤ mask.toNat ∨ ∃ r < 12, bit mask.toNat r = true ∧ (regionHidden s.pkg r = true ∨ ∃ x < 12, x ≠ pp.val ∧ bit (rd s.pkg Ix.pcRegionMask x) r = true)) →
        Completes (.regionMaskWrite pp mask) s (fun q => q.dict = s.pkg.dict ∧ q.mem = s.pkg.mem ∧ q.out.getLast? = some (.answer 0x6000 pp 6 0x1102 false))))

/-- R436 to R439: a fingerprint of the auditor region equal to the original ends the vote and counts the tile as audited; another one is a disagreement, and the vote goes to the arbiter; a tile the auditor cannot compute counts as unaudited. The arbiter's fingerprint equal to the original charges the auditor and ends the vote; equal to the auditor's it confirms a wrong tile with cause 1, and equal to neither with cause 2; without one the step rolls back with cause 3. A result for no vote does nothing. R442 to R445: a poison notice of a member for the running step rolls it back, once, and is recorded and counted; the rollback that reaches the limit halts the partition with 0x1208; a malformed notice or report is discarded and logged. A report reaches the lead's list; one of a leaving member rolls back and asks for a re-cut. With a report of verdict 1 of every member the step starts again. R447: a completed re-cut clears the hole and its outstanding entry. R458, R459, R366: a start of Drydown puts stage 1 with its causing unit, has the running package partitions stop and the running steps of rack partitions roll back; once started nothing more happens. Each stage ends with the next: 2 hands off, with every request of a package partition ended, 3 reclaims the lent units, 4 flags the package for its causing unit, 5 departs the fabric, 6 is drained; a package drained after the loss of its host die starts warm at once; outside stages 1 to 5 nothing happens. R456, R457: a service write of 1 clears the package flag and is recorded, another value is refused; at the end of its time a requalifying flag clears. Commands that it says complete: auditTileComputed, arbiterResult, poisonNotice, auditReport, recutComplete, drydownStart, drydownStageComplete, packageFlagClear, requalifyTimer. -/
def Obligations.FaultRecoveryComplete : Prop :=
  (∀ (s : State) (pp : Fin 12) (block : Fin 96) (descriptor tile : Nat), powered s.pkg = true →
    (∀ v, (part s.pkg pp).ru.votes.find? (fun v => v.descriptor == descriptor && v.tile == tile && !v.fromArbiter && auditorRegion s.pkg pp (v.block / 8) 1 == block / 8) = some v →
      (Completes (.auditTileComputed pp block descriptor tile (some v.original)) s (fun q => (part q pp).ru.votes = (part s.pkg pp).ru.votes.filter (· != v)
          ∧ rd q Ix.ruTilesAudited pp = (rd s.pkg Ix.ruTilesAudited pp + 1) % 2 ^ 64 ∧ (part q pp).ru.stepAudited = (part s.pkg pp).ru.stepAudited + 1 ∧ q.mem = s.pkg.mem))
      ∧ (∀ fp, fp ≠ v.original → v.block < 96 → Completes (.auditTileComputed pp block descriptor tile (some fp)) s (fun q => ∃ p,
          (part p pp).ru.votes = (part s.pkg pp).ru.votes.map (fun w => if w = v then { v with auditor := some fp, auditorBlock := block, fromArbiter := true } else w)
          ∧ rd p Ix.ruDisagreements pp = (rd s.pkg Ix.ruDisagreements pp + 1) % 2 ^ 64 ∧ (part p pp).ru.stepDisagreements = (part s.pkg pp).ru.stepDisagreements + 1 ∧ p.mem = s.pkg.mem
          ∧ q = requalifyFailed p))
      ∧ Completes (.auditTileComputed pp block descriptor tile none) s (fun q => (part q pp).ru.votes = (part s.pkg pp).ru.votes.filter (· != v)
          ∧ rd q Ix.ruTilesUnaudited pp = (rd s.pkg Ix.ruTilesUnaudited pp + 1) % 2 ^ 64 ∧ (part q pp).ru.stepUnaudited = (part s.pkg pp).ru.stepUnaudited + 1 ∧ q.mem = s.pkg.mem))
    ∧ (∀ fp, (part s.pkg pp).ru.votes.find? (fun v => v.descriptor == descriptor && v.tile == tile && !v.fromArbiter && auditorRegion s.pkg pp (v.block / 8) 1 == block / 8) = none →
        Completes (.auditTileComputed pp block descriptor tile fp) s (fun q => q = begun s))
    ∧ (∀ v, (part s.pkg pp).ru.votes.find? (fun v => v.descriptor == descriptor && v.tile == tile && v.fromArbiter && auditorRegion s.pkg pp (v.block / 8) 2 == block / 8) = some v →
      s.pkg.flash.history.length + 3 ≤ 16384 →
      (Completes (.arbiterResult pp block descriptor tile (some v.original)) s (fun q => (part q pp).ru.votes = (part s.pkg pp).ru.votes.filter (· != v)
          ∧ rd q Ix.ruAuditorOutvoted pp = (rd s.pkg Ix.ruAuditorOutvoted pp + 1) % 2 ^ 32 ∧ q.mem = s.pkg.mem
          ∧ ∃ r : HistRecord, q.flash.history = s.pkg.flash.history ++ [r] ∧ r.kind = 2 ∧ r.origin = 3 ∧ r.unit = v.auditorBlock ∧ r.status = 0x1205))
      ∧ (∀ fp, fp ≠ v.original → v.auditor = some fp → Completes (.arbiterResult pp block descriptor tile (some fp)) s (fun q => ∃ p,
          (∃ r : HistRecord, p.flash.history = s.pkg.flash.history ++ [r] ∧ r.kind = 2 ∧ r.origin = 3 ∧ r.unit = v.block ∧ r.status = 0x1203)
          ∧ p.parts = s.pkg.parts ∧ p.mem = s.pkg.mem ∧ q = confirmedWrong p pp 1 0x1203 v))
      ∧ (∀ fp, fp ≠ v.original → v.auditor ≠ some fp → Completes (.arbiterResult pp block descriptor tile (some fp)) s (fun q => ∃ p,
          (∃ a b c : HistRecord, p.flash.history = s.pkg.flash.history ++ [a, b, c] ∧ a.unit = v.block ∧ b.unit = v.auditorBlock ∧ c.unit = block
            ∧ ∀ r ∈ [a, b, c], r.kind = 2 ∧ r.origin = 3 ∧ r.status = 0x1204)
          ∧ p.parts = s.pkg.parts ∧ p.mem = s.pkg.mem ∧ q = confirmedWrong p pp 2 0x1204 v))
      ∧ Completes (.arbiterResult pp block descriptor tile none) s (fun q => ∃ p, (part p pp).ru.votes = (part s.pkg pp).ru.votes.filter (· != v) ∧ rd p Ix.ruLastStatus pp = 0x1206
          ∧ p.mem = s.pkg.mem ∧ q = causeRollback p pp 3 (v.block / 8) v.block v.descriptor v.tile))
    ∧ (∀ fp, (part s.pkg pp).ru.votes.find? (fun v => v.descriptor == descriptor && v.tile == tile && v.fromArbiter && auditorRegion s.pkg pp (v.block / 8) 2 == block / 8) = none →
        Completes (.arbiterResult pp block descriptor tile fp) s (fun q => q = begun s))
    ∧ (∀ r : PoisonRecord, r.sender ∈ membersOf s.pkg pp → r.reserved = 0 → (isRack s.pkg pp = true → r.rackId = leAt (rdB s.pkg Ix.pcRackPartition pp) 0 2) →
      ((part s.pkg pp).pc.stepRunning = true → (part s.pkg pp).ru.poison = none → r.step = stepOf s.pkg pp → Completes (.poisonNotice pp r) s (fun q =>
          (part q pp).ru.poison = some r ∧ (part q pp).ru.votes = [] ∧ (part q pp).ru.reported = true
          ∧ rd q Ix.ruRollbacks pp = (rd s.pkg Ix.ruRollbacks pp + 1) % 2 ^ 32 ∧ (part q pp).ru.rolledStep = stepOf s.pkg pp
          ∧ (part q pp).ru.rolledTimes = (if (part s.pkg pp).ru.rolledStep = stepOf s.pkg pp then (part s.pkg pp).ru.rolledTimes + 1 else 1)
          ∧ (rd s.pkg Ix.ruRollbackLimit pp ≤ (part q pp).ru.rolledTimes → pcState q pp = 7 ∧ (part q pp).pc.stepRunning = false
              ∧ rd q Ix.pcLastStatus pp = 0x1208 ∧ rd q Ix.ruLastStatus pp = 0x1208)))
      ∧ ((part s.pkg pp).pc.stepRunning = false ∨ (part s.pkg pp).ru.poison.isSome = true ∨ r.step ≠ stepOf s.pkg pp → Completes (.poisonNotice pp r) s (fun q => q = begun s)))
    ∧ (∀ r : PoisonRecord, ¬(r.sender ∈ membersOf s.pkg pp ∧ r.reserved = 0 ∧ (isRack s.pkg pp = true → r.rackId = leAt (rdB s.pkg Ix.pcRackPartition pp) 0 2)) →
      Completes (.poisonNotice pp r) s (fun q => q.parts = s.pkg.parts ∧ q.mem = s.pkg.mem ∧ ∃ v ∈ q.ms.violations, v.kind = 2 ∧ v.partner = r.sender ∧ v.status = 0x0E07))
    ∧ (∀ r : ReportRecord, ¬(r.sender ∈ membersOf s.pkg pp ∧ r.reserved = 0) →
      Completes (.auditReport pp r) s (fun q => q.parts = s.pkg.parts ∧ q.mem = s.pkg.mem ∧ ∃ v ∈ q.ms.violations, v.kind = 2 ∧ v.partner = r.sender ∧ v.status = 0x0E07))
    ∧ (∀ r : ReportRecord, r.sender ∈ membersOf s.pkg pp → r.reserved = 0 →
      (isLead s.pkg pp = true → Completes (.auditReport pp r) s (fun q => ∃ p, (part p pp).ru.reports = (part s.pkg pp).ru.reports.filter (fun x => x.sender != r.sender) ++ [r]
          ∧ (part p pp).ru.poison = (part s.pkg pp).ru.poison ∧ p.dict = s.pkg.dict ∧ p.mem = s.pkg.mem
          ∧ q = recomputeIfReady (if r.verdict = 2 then requireRecut (causeRollback p pp 5 0xFF 0xFF 0 0) pp r.sender else p) pp))
      ∧ (isLead s.pkg pp = false → Completes (.auditReport pp r) s (fun q => q = begun s)))
    ∧ (∀ package, Completes (.recutComplete pp package) s (fun q => ∃ p, (part p pp).ru.recut = (part s.pkg pp).ru.recut.filter (· != package) ∧ package ∉ p.tf.holes
        ∧ (∀ e ∈ p.ms.dedup, e.1 / 2 ≠ package) ∧ p.mem = s.pkg.mem ∧ q = recomputeIfReady p pp))
    ∧ (∀ p : Pkg, (isLead p pp = true → (part p pp).ru.poison ≠ none → (part p pp).ru.recut = [] → (part p pp).pc.stepRunning = true → pcState p pp = 2 → versionsWhole p pp = true →
          (∀ m ∈ membersOf p pp, p.tf.holes.contains m = true ∨ ∃ r ∈ (part p pp).ru.reports, r.sender = m ∧ r.verdict = 1 ∧ r.step = stepOf p pp) →
          (part (recomputeIfReady p pp) pp).ru.recomputing = true ∧ (part (recomputeIfReady p pp) pp).sc.starting = some { (part p pp).sc.running with drained := drainedNow p pp })
        ∧ (isLead p pp = false ∨ (part p pp).ru.poison = none ∨ (part p pp).ru.recut ≠ [] ∨ (part p pp).pc.stepRunning = false ∨ pcState p pp ≠ 2 → recomputeIfReady p pp = p)))
  ∧ (∀ (s : State), powered s.pkg = true →
    (∀ u, rd s.pkg Ix.ruDrydownState 0 = 0 → Completes (.drydownStart u) s (fun q => rd q Ix.ruDrydownState 0 = 1 ∧ q.ru.causingUnit = u ∧ q.ru.restartWhenDrained = false
        ∧ (∀ pp < 12, pcState s.pkg pp ∉ [0, 1, 7] → (isRack s.pkg pp = false → (part q pp).pc.stopPending = true)
            ∧ (isRack s.pkg pp = true → (part s.pkg pp).pc.stepRunning = true → (part q pp).ru.poison ≠ none))
        ∧ ((∀ pp < 12, isRack s.pkg pp = false) → q.mem = s.pkg.mem)))
    ∧ (∀ u, rd s.pkg Ix.ruDrydownState 0 ≠ 0 → Completes (.drydownStart u) s (fun q => q = begun s))
    ∧ (rd s.pkg Ix.ruDrydownState 0 = 1 → Completes .drydownStageComplete s (fun q => ∃ p, rd p Ix.ruDrydownState 0 = 2
        ∧ (∀ pp < 12, pcState s.pkg pp ∉ [0, 1, 7] → pcState p pp = 1 ∧ (part p pp).pc.stepRunning = false)
        ∧ (∀ pp < 12, isRack s.pkg pp = false → pcState s.pkg pp ≠ 0 → ∀ r ∈ (part p pp).sc.requests, r.ended.isSome = true) ∧ q = handOff p))
    ∧ (rd s.pkg Ix.ruDrydownState 0 = 2 → Completes .drydownStageComplete s (fun q => ∃ p, rd p Ix.ruDrydownState 0 = 3 ∧ p.parts = s.pkg.parts ∧ p.mem = s.pkg.mem ∧ p.tm = s.pkg.tm
        ∧ q = reclaimAllUnits p))
    ∧ (rd s.pkg Ix.ruDrydownState 0 = 3 →
        (∀ u, s.pkg.ru.causingUnit = some u → Completes .drydownStageComplete s (fun q => rd q Ix.ruDrydownState 0 = 4
          ∧ rd q Ix.ruPackageFlag 0 = (if unitPermanent s.pkg.flash.history u.kind u.unit then 2 else if rd s.pkg Ix.ruPackageFlag 0 = 2 then 2 else 1) ∧ q.parts = s.pkg.parts ∧ q.mem = s.pkg.mem))
        ∧ (s.pkg.ru.causingUnit = none → Completes .drydownStageComplete s (fun q => rd q Ix.ruDrydownState 0 = 4
          ∧ rd q Ix.ruPackageFlag 0 = rd s.pkg Ix.ruPackageFlag 0 ∧ q.parts = s.pkg.parts ∧ q.mem = s.pkg.mem)))
    ∧ (rd s.pkg Ix.ruDrydownState 0 = 4 → Completes .drydownStageComplete s (fun q => ∃ p, rd p Ix.ruDrydownState 0 = 5 ∧ p.pins.readyReleased = false ∧ p.tf = s.pkg.tf ∧ p.mem = s.pkg.mem
        ∧ q = departLinks p ∧ q.tf.departing = true))
    ∧ (rd s.pkg Ix.ruDrydownState 0 = 5 →
        (s.pkg.ru.restartWhenDrained = false → Completes .drydownStageComplete s (fun q => rd q Ix.ruDrydownState 0 = 6 ∧ q.parts = s.pkg.parts ∧ q.mem = s.pkg.mem))
        ∧ (s.pkg.ru.restartWhenDrained = true → CompletesAt .drydownStageComplete s {} (fun q => ∃ p, rd p Ix.ruDrydownState 0 = 6 ∧ p.parts = s.pkg.parts ∧ p.mem = s.pkg.mem
          ∧ q = beginStart p 2 (warmNeedsFull p))))
    ∧ (rd s.pkg Ix.ruDrydownState 0 ∉ [1, 2, 3, 4, 5] → Completes .drydownStageComplete s (fun q => q = begun s))
    ∧ (s.pkg.flash.history.length < 16384 → Completes (.packageFlagClear 1) s (fun q => rd q Ix.ruPackageFlag 0 = 0 ∧ rd q Ix.ruRequalifyRemainingS 0 = 0 ∧ q.mem = s.pkg.mem ∧ q.parts = s.pkg.parts
        ∧ (∃ r : HistRecord, q.flash.history = s.pkg.flash.history ++ [r] ∧ r.kind = 0 ∧ r.status = 0x1214) ∧ q.out.getLast? = some (.answer 0x6443 0 0 0 false)))
    ∧ Completes (.packageFlagClear 1) s (fun q => rd q Ix.ruPackageFlag 0 = 0 ∧ rd q Ix.ruRequalifyRemainingS 0 = 0 ∧ q.mem = s.pkg.mem ∧ q.parts = s.pkg.parts)
    ∧ (∀ v : Byte, v ≠ 1 → Completes (.packageFlagClear v) s (fun q => q.dict = s.pkg.dict ∧ q.flash = s.pkg.flash ∧ q.out.getLast? = some (.answer 0x6443 0 6 0x1006 false)))
    ∧ (rd s.pkg Ix.ruPackageFlag 0 = 3 → Completes .requalifyTimer s (fun q => rd q Ix.ruPackageFlag 0 = 0 ∧ rd q Ix.ruRequalifyRemainingS 0 = 0 ∧ q.mem = s.pkg.mem ∧ q.parts = s.pkg.parts))
    ∧ (rd s.pkg Ix.ruPackageFlag 0 ≠ 3 → Completes .requalifyTimer s (fun q => q = begun s)))

/-- R465, R466, R480, R489, R499, R528, R529: a start clears the clock and begins in phase 1 and state 1, its kind on show, flash kept, memory and the partitions as at power-on, every region island at 1,050,000 kHz (R11) and REF_SYNC being acquired: kind 1 with the full test for an unpowered package, or 3 where a thermal trip met a sag reset (R532), 2 for a package reset and a restart, 3 with the full test for a sag and an overvoltage, which leaves event 0x141A for the start. A restart before ready is refused with 0x13E0 and a value but 1 and 2 with 0x1006. PWR_EN low and a thermal trip turn the package off; the trip asserts THERMTRIP_N and leaves event 0x1417. A powered package ignores POWER_ON_START. FLASH_TAKE takes the flash in phase 1 and is ignored later. Commands that it says complete: powerOnStart, btRestart, sagReset, overvoltageReset, thermalTrip, pwrEnLow, pkgReset, flashTake. -/
def Obligations.ResetsBeginStarts : Prop :=
  ∀ (s : State),
    let began : Nat → Bool → Flash → Pkg → Prop := fun kind full flash q => q.bt.phase = 1 ∧ rd q Ix.btStartState 0 = 1 ∧ rd q Ix.btStartKind 0 = kind ∧ q.bt.fullTest = full ∧ q.flash = { flash with sagNext := false }
      ∧ q.pins.readyReleased = false ∧ q.pins.thermtrip = false ∧ q.mem = {} ∧ q.parts = [] ∧ rd q Ix.pwRefState 0 = 3 ∧ q.bt.waitingFrame = false
      ∧ ∀ i < 12, rd q Ix.pwIslandFreqKhz i = 1050000
    (powered s.pkg = false → ∃ q, exec .powerOnStart s = .next { s with clock := {}, pkg := q } ∧ began (if s.pkg.flash.sagNext then 3 else 1) true s.pkg.flash q ∧ q.out = s.pkg.out)
    ∧ (powered s.pkg = true →
      exec .powerOnStart s = .next s
      ∧ CompletesAt .pkgReset s {} (fun q => began 2 (warmNeedsFull s.pkg) s.pkg.flash q ∧ q.pins.flashTaken = false ∧ q.out = s.pkg.out)
      ∧ CompletesAt .sagReset s {} (fun q => began 3 true s.pkg.flash q ∧ q.out = s.pkg.out)
      ∧ CompletesAt .overvoltageReset s {} (fun q => began 3 true { s.pkg.flash with pendingEvents := s.pkg.flash.pendingEvents ++ [0x141A] } q ∧ q.out = s.pkg.out)
      ∧ CompletesAt .pwrEnLow s {} (fun q => powered q = false ∧ q.flash = { s.pkg.flash with sagNext := false } ∧ q.mem = {} ∧ q.parts = [] ∧ q.pins.flashTaken = false)
      ∧ CompletesAt .thermalTrip s {} (fun q => powered q = false ∧ q.pins.thermtrip = true ∧ q.mem = {}
          ∧ q.flash = { s.pkg.flash with pendingEvents := s.pkg.flash.pendingEvents ++ [0x1417], sagNext := (rd s.pkg Ix.btStartKind 0 == 3 && s.pkg.bt.phase == 1) || (s.pkg.pw.monitorsNs != 0 && decide (rd s.pkg Ix.pwInputVoltageMv 0 < 46000)) })
      ∧ (∀ value : Byte,
        (value = 1 ∨ value = 2 → rd s.pkg Ix.btStartState 0 = 8 → CompletesAt (.btRestart value) s {} (fun q =>
            began 2 (value == 2 || warmNeedsFull s.pkg) s.pkg.flash q ∧ q.out = s.pkg.out ++ [.answer 0x6810 0 0 0 false]))
        ∧ (value = 1 ∨ value = 2 → rd s.pkg Ix.btStartState 0 ≠ 8 → Completes (.btRestart value) s (fun q => q = emit (last (begun s) Ix.btLastStatus 0 0x13E0) (.answer 0x6810 0 7 0x13E0 false)))
        ∧ (value ≠ 1 → value ≠ 2 → Completes (.btRestart value) s (fun q => q = emit (begun s) (.answer 0x6810 0 6 0x1006 false))))
      ∧ Completes .flashTake s (fun q => if s.pkg.bt.phase = 1 then q = { begun s with pins := { s.pkg.pins with flashTaken := true } } else q = begun s))

/-- R466 to R478, R482, R485, R506: each phase ends with its outcome. Phase 1 reads the tray position once the flash is taken, and waits for it otherwise. Phase 2 runs the first attempt that verifies, counts the attempts and the start, and stops the start with 0x1301 when none does. Phase 3 stops with 0x1302 where the identity was not regenerated. Phase 4 grants the licences' features. Phase 5 goes on once rack time runs, which a frame starts, and waits otherwise. Phase 6 stops with 0x1303 or 0x1306, or records the test. A package flagged REQUALIFY that passes the full test is then REQUALIFYING. Phase 7 trains: the modules and ports that came up are up. Phase 8 leaves memory empty, starts the fills of the trained channels and makes the package ready; outside the phases nothing happens. A start that stops shows state 9 and BOOT_FAIL_N. Commands that it says complete: startPhaseComplete. -/
def Obligations.StartPhasesComplete : Prop :=
  ∀ (s : State) (r : PhaseResult), powered s.pkg = true →
    let stopped : Nat → Pkg → Prop := fun status q => rd q Ix.btStartState 0 = 9 ∧ rd q Ix.btLastStatus 0 = status ∧ q.bt.phase = 0 ∧ q.pins.bootFail = true ∧ q.pins.flashTaken = false
    let entered : Nat → Nat → Pkg → Prop := fun phase state q => q.bt.phase = phase ∧ rd q Ix.btStartState 0 = state
    (s.pkg.bt.phase = 1 → s.pkg.pins.flashTaken = true → Completes (.startPhaseComplete r) s (fun q => entered 2 2 q ∧ q.flash = s.pkg.flash ∧ q.mem = s.pkg.mem
        ∧ q.bt.phaseMs = s.pkg.bt.phaseMs ++ [r.ms] ∧ rd q Ix.tfPhysicalCoord 0 = (s.pkg.pins.posX + s.pkg.pins.posY * 256 + s.pkg.pins.posZ * 65536) % 2 ^ 32))
    ∧ (s.pkg.bt.phase = 1 → s.pkg.pins.flashTaken = false → Completes (.startPhaseComplete r) s (fun q => q = begun s))
    ∧ (s.pkg.bt.phase = 2 → (attemptRun (r.attempts.take 4)).contains 0 = true → Completes (.startPhaseComplete r) s (fun q => entered 3 3 q
        ∧ rd q Ix.btBootAttempts 0 = (attemptRun (r.attempts.take 4)).length ∧ rd q Ix.mpStartCount 0 = (rd s.pkg Ix.mpStartCount 0 + 1) % 2 ^ 32
        ∧ rd q Ix.mpFirmwareRelease 0 = r.firmwareRelease % 2 ^ 32 ∧ q.flash.pendingEvents = [] ∧ q.flash.licences = s.pkg.flash.licences ∧ q.mem = s.pkg.mem))
    ∧ (s.pkg.bt.phase = 2 → (attemptRun (r.attempts.take 4)).contains 0 = false → Completes (.startPhaseComplete r) s (fun q => stopped 0x1301 q ∧ q.mem = s.pkg.mem
        ∧ q.flash.pendingEvents = s.pkg.flash.pendingEvents ++ (attemptRun (r.attempts.take 4)).map (fun _ => 0x1301)))
    ∧ (s.pkg.bt.phase = 3 → Completes (.startPhaseComplete r) s (fun q => (if r.identityOk then entered 4 4 q else stopped 0x1302 q) ∧ q.flash = s.pkg.flash ∧ q.mem = s.pkg.mem))
    ∧ (s.pkg.bt.phase = 4 → Completes (.startPhaseComplete r) s (fun q => entered 5 5 q ∧ rd q Ix.btFeaturesGranted 0 = licencesGrant s.pkg % 2 ^ 16 ∧ q.flash = s.pkg.flash ∧ q.mem = s.pkg.mem))
    ∧ (s.pkg.bt.phase = 5 → s.pkg.bt.waitingFrame = false →
        (s.clock.running = true → Completes (.startPhaseComplete r) s (fun q => entered 6 6 q ∧ q.mem = s.pkg.mem))
        ∧ (∀ t, s.clock.running = false → r.frameTick = some t →
            CompletesAt (.startPhaseComplete r) s { s.clock with running := true, tick := t, rclk := 0, adopted := true } (fun q => entered 6 6 q ∧ q.pw.tickAdopted = true ∧ q.mem = s.pkg.mem))
        ∧ (s.clock.running = false → r.frameTick = none → Completes (.startPhaseComplete r) s (fun q => q.bt.phase = 5 ∧ q.bt.waitingFrame = true ∧ q.mem = s.pkg.mem)))
    ∧ (s.pkg.bt.phase = 5 → s.pkg.bt.waitingFrame = true → s.clock.adopted = false → Completes (.startPhaseComplete r) s (fun q => q = begun s))
    ∧ (s.pkg.bt.phase = 6 → r.patternsOk = false → Completes (.startPhaseComplete r) s (fun q => stopped 0x1303 q ∧ q.flash = s.pkg.flash))
    ∧ (s.pkg.bt.phase = 6 → r.patternsOk = true → (r.dieFault || dieLost (newFailures s.pkg r.failures)) = true → Completes (.startPhaseComplete r) s (fun q => stopped 0x1306 q ∧ q.flash = s.pkg.flash))
    ∧ (s.pkg.bt.phase = 6 → r.patternsOk = true → (r.dieFault || dieLost (newFailures s.pkg r.failures)) = false → Completes (.startPhaseComplete r) s (fun q => entered 7 7 q
        ∧ rd q Ix.btLastTest 0 = (if s.pkg.bt.fullTest then 1 else 2) ∧ rd q Ix.btNewDefects 0 = (newFailures s.pkg r.failures).length % 2 ^ 16 ∧ rd q Ix.btUsableCells 0 = usableCells q
        ∧ (rd s.pkg Ix.ruPackageFlag 0 = 1 → s.pkg.bt.fullTest = true → newFailures s.pkg r.failures = [] → rd q Ix.ruPackageFlag 0 = 3 ∧ rd q Ix.ruRequalifyRemainingS 0 = 3600)))
    ∧ (s.pkg.bt.phase = 7 → Completes (.startPhaseComplete r) s (fun q => entered 8 7 q
        ∧ (∀ m < 4, bit r.modulesUp m = true → moduleRateOk s.pkg r.moduleRate = true → rd q Ix.hiModuleState m = 2 ∧ rd q Ix.hiModuleRate m = r.moduleRate)
        ∧ (∀ t < 2, bit r.portsUp t = true → rd q Ix.mpPortState t = 2)))
    ∧ (s.pkg.bt.phase ∉ [1, 2, 3, 4, 5, 6, 7, 8] → Completes (.startPhaseComplete r) s (fun q => q = begun s))
    ∧ (s.pkg.bt.phase = 8 → Completes (.startPhaseComplete r) s (fun q => entered 9 8 q ∧ q.pins.readyReleased = true ∧ q.bt.readyNs = some s.clock.ns ∧ q.mem = {}
        ∧ rd q Ix.btStartTotalMs 0 = (s.pkg.bt.phaseMs.sum + r.ms) % 2 ^ 32
        ∧ ∀ c, c < 16 → tfind q.tm.zeroFill c = if rd s.pkg Ix.ddChannelState c = 0 then some 0 else none))

/-- R476, R508 to R510, R512, R514 to R516: a licence that is valid and verifies is stored and its features are granted at once; an invalid one is refused with 0x1321, a seventeenth or a stored serial with 0x1329. A licence removed leaves the list. An expired one is marked once with event 0x1322. Customer keys of the right layout are kept, others refused with 0x1327; a rack key of a higher epoch waits for its tick, another is refused with 0x1328. A commit of a verified slot makes the other slot active; it is refused with 0x13E0 before ready and 0x1324 where the slot does not verify. A nonce of 32 bytes gives a report of 3,568 bytes that carries it at byte 72. A defect record removed leaves the list. Commands that it says complete: defectRemove, firmwareCommit, licenceInstall, licenceRemove, licenceExpired, attestNonce, rackKeyInstall, customerKeysWrite. -/
def Obligations.TrustCommandsComplete : Prop :=
  ∀ (s : State), powered s.pkg = true →
    (∀ (data : Bytes) (ok : Bool),
      ((ok && licValid (rd s.pkg Ix.btPoweredS 0) data) = true → s.pkg.flash.licences.length < 16 → (∀ l ∈ s.pkg.flash.licences, licSerial l ≠ licSerial data) →
        Completes (.licenceInstall data ok) s (fun q => q.flash.licences = s.pkg.flash.licences ++ [data]
          ∧ rd q Ix.btFeaturesGranted 0 = (rd s.pkg Ix.btFeaturesGranted 0 ||| licFeatures data) % 2 ^ 16 ∧ q.mem = s.pkg.mem ∧ q.parts = s.pkg.parts
          ∧ q.out.getLast? = some (.answer 0x6914 0 0 0 false)))
      ∧ ((ok && licValid (rd s.pkg Ix.btPoweredS 0) data) = false → Completes (.licenceInstall data ok) s (fun q => q = emit (begun s) (.answer 0x6914 0 6 0x1321 false)))
      ∧ ((ok && licValid (rd s.pkg Ix.btPoweredS 0) data) = true → (16 ≤ s.pkg.flash.licences.length ∨ ∃ l ∈ s.pkg.flash.licences, licSerial l = licSerial data) →
        Completes (.licenceInstall data ok) s (fun q => q = emit (begun s) (.answer 0x6914 0 6 0x1329 false))))
    ∧ (∀ index : Byte,
      (index.toNat < s.pkg.flash.licences.length → Completes (.licenceRemove index) s (fun q => q.flash = { s.pkg.flash with licences := s.pkg.flash.licences.eraseIdx index.toNat, generations := q.flash.generations }
        ∧ rd q Ix.btFeaturesGranted 0 = rd s.pkg Ix.btFeaturesGranted 0 ∧ q.mem = s.pkg.mem ∧ q.out = s.pkg.out ++ [.answer 0x6915 0 0 0 false]))
      ∧ (s.pkg.flash.licences.length ≤ index.toNat → Completes (.licenceRemove index) s (fun q => q = emit (begun s) (.answer 0x6915 0 6 0x1006 false))))
    ∧ (∀ (index : Nat) (l : Bytes), s.pkg.flash.licences[index]? = some l →
      (licExpires l ≠ 0 → licExpires l ≤ rd s.pkg Ix.btPoweredS 0 → licSerial l ∉ s.pkg.bt.expired → Completes (.licenceExpired index) s (fun q => ∃ p, p.bt.expired = s.pkg.bt.expired ++ [licSerial l]
        ∧ p.flash = s.pkg.flash ∧ p.dict.vals = s.pkg.dict.vals ∧ p.mem = s.pkg.mem ∧ q = raise0 p 0x1322))
      ∧ (licExpires l = 0 ∨ rd s.pkg Ix.btPoweredS 0 < licExpires l ∨ licSerial l ∈ s.pkg.bt.expired → Completes (.licenceExpired index) s (fun q => q = begun s)))
    ∧ (∀ index : Nat, s.pkg.flash.licences[index]? = none → Completes (.licenceExpired index) s (fun q => q = begun s))
    ∧ (∀ data : Bytes,
      (data.length % 2048 = 0 → data.length ≤ 16384 → (records 2048 data).all keySlotOk = true → Completes (.customerKeysWrite data) s (fun q => rdB q Ix.btCustomerKeys 0 = data
        ∧ tfind q.flash.kept 0x691000 = some (.bytes data) ∧ q.mem = s.pkg.mem ∧ q.out = s.pkg.out ++ [.answer 0x6910 0 0 0 false]))
      ∧ (data.length % 2048 ≠ 0 ∨ 16384 < data.length ∨ (records 2048 data).all keySlotOk = false → Completes (.customerKeysWrite data) s (fun q =>
        q = emit (begun s) (.answer 0x6910 0 6 0x1327 false)))
      ∧ (data.length = 36 → rd s.pkg Ix.btRackKeyEpoch 0 < leAt data 0 4 → Completes (.rackKeyInstall data) s (fun q => q.bt.pendingRackKey = some (leAt data 0 4, data.drop 4)
        ∧ q.flash = s.pkg.flash ∧ q.dict = s.pkg.dict ∧ q.out = s.pkg.out ++ [.answer 0x6912 0 0 0 false]))
      ∧ (data.length ≠ 36 ∨ leAt data 0 4 ≤ rd s.pkg Ix.btRackKeyEpoch 0 → Completes (.rackKeyInstall data) s (fun q => q = emit (begun s) (.answer 0x6912 0 6 0x1328 false)))
      ∧ (data.length = 32 → Completes (.attestNonce data) s (fun q => slice q.bt.report 72 32 = data ∧ slice q.bt.report 0 192 = attestBody (begun s) data ∧ q.dict.vals = s.pkg.dict.vals
        ∧ q.flash = s.pkg.flash ∧ q.out = s.pkg.out ++ [.answer 0x6930 0 0 0 false]))
      ∧ (data.length ≠ 32 → Completes (.attestNonce data) s (fun q => q = emit (begun s) (.answer 0x6930 0 5 0x1005 false))))
    ∧ (∀ v : FirmwareVerdict,
      (rd s.pkg Ix.btStartState 0 = 8 → v.verified = true → Completes (.firmwareCommit 1 v) s (fun q => q.flash = { s.pkg.flash with
          activeSlot := 1 - s.pkg.flash.activeSlot, minEpoch := if v.raiseEpoch then max s.pkg.flash.minEpoch v.epoch else s.pkg.flash.minEpoch, generations := q.flash.generations }
        ∧ rd q Ix.btSecurityEpoch 0 = q.flash.minEpoch % 2 ^ 32 ∧ q.out.getLast? = some (.answer 0x6921 0 0 0 false)))
      ∧ (rd s.pkg Ix.btStartState 0 = 8 → v.verified = false → Completes (.firmwareCommit 1 v) s (fun q => q = emit (begun s) (.answer 0x6921 0 6 0x1324 false)))
      ∧ (rd s.pkg Ix.btStartState 0 ≠ 8 → Completes (.firmwareCommit 1 v) s (fun q => q = emit (last (begun s) Ix.btLastStatus 0 0x13E0) (.answer 0x6921 0 7 0x13E0 false)))
      ∧ (∀ value : Byte, value ≠ 1 → Completes (.firmwareCommit value v) s (fun q => q = emit (begun s) (.answer 0x6921 0 6 0x1006 false))))
    ∧ (∀ index : BitVec 16,
      (index.toNat < s.pkg.flash.defects.length → Completes (.defectRemove index) s (fun q => q.flash.defects = s.pkg.flash.defects.eraseIdx index.toNat
        ∧ rd q Ix.btDefectCount 0 = (s.pkg.flash.defects.length - 1) % 2 ^ 16 ∧ q.mem = s.pkg.mem ∧ q.parts = s.pkg.parts ∧ q.out.getLast? = some (.answer 0x680E 0 0 0 false)))
      ∧ (s.pkg.flash.defects.length ≤ index.toNat → Completes (.defectRemove index) s (fun q => q = emit (begun s) (.answer 0x680E 0 6 0x1006 false))))

/-- R483 to R485, R494, R510: a tick moves rack time to the next millisecond, or holds it while the rack is behind; the powered time, a waiting rack key and a waiting cap come into force. A frame that agrees with a locked count changes nothing, one that does not loses the reference with event 0x1419; while the reference is not held the package takes the frame's tick, in one step forward or by waiting, and a start that waited goes on with phase 6. A lost reference is on show. Without a frame 130 ms after phase 5 the start goes on from the free-running count. Commands that it says complete: refSyncFrame, rackTick, referenceLost, refFrameWaitExpiry. -/
def Obligations.RackTimeCompletes : Prop :=
  ∀ (s : State), powered s.pkg = true →
    (∀ pulse, ∃ q, exec (.rackTick pulse) s = .next { s with clock := s.clock.onTick pulse, pkg := finish q }
      ∧ q.now = (s.clock.onTick pulse).ns ∧ q.mem = s.pkg.mem ∧ q.pw.capPending = none ∧ q.bt.pendingRackKey = none
      ∧ (∀ w e hold, s.pkg.pw.capPending = some (w, e, hold) → rd q Ix.pwRackCapW 0 = w % 2 ^ 32 ∧ rd q Ix.pwCapHoldMs 0 = hold % 2 ^ 32 ∧ q.pw.capAcceptedNs = q.now)
      ∧ (s.pkg.pw.capPending = none → rd q Ix.pwRackCapW 0 = rd s.pkg Ix.pwRackCapW 0)
      ∧ (∀ e k, s.pkg.bt.pendingRackKey = some (e, k) → q.flash.rackKeys = (e, k) :: s.pkg.flash.rackKeys.take 1 ∧ rd q Ix.btRackKeyEpoch 0 = e % 2 ^ 32)
      ∧ (s.pkg.bt.poweredMs < 999 → q.bt.poweredMs = s.pkg.bt.poweredMs + 1 ∧ rd q Ix.btPoweredS 0 = rd s.pkg Ix.btPoweredS 0)
      ∧ (999 ≤ s.pkg.bt.poweredMs → q.bt.poweredMs = 0 ∧ rd q Ix.btPoweredS 0 = (rd s.pkg Ix.btPoweredS 0 + 1) % 2 ^ 32)
      ∧ rd q Ix.pwRefState 0 = (if (s.clock.onTick pulse).missed = 2 ∧ rd s.pkg Ix.pwRefState 0 = 0 then 1 else rd s.pkg Ix.pwRefState 0))
    ∧ (s.clock.running = true → s.clock.heldFor = none → ∀ pulse, (s.clock.onTick pulse).ns = (s.clock.tick + 1) * 1000000)
    ∧ (∀ tick : DWord,
      (s.clock.running = true → s.clock.adopted = true → rd s.pkg Ix.pwRefState 0 = 0 →
        (s.clock.tick = tick.toNat + 63 ∨ s.clock.heldFor = some (tick.toNat + 63) → Completes (.refSyncFrame tick) s (fun q => q = begun s))
        ∧ (s.clock.tick ≠ tick.toNat + 63 → s.clock.heldFor ≠ some (tick.toNat + 63) → Completes (.refSyncFrame tick) s (fun q => q = raisePw (wr (begun s) Ix.pwRefState 0 1) 0x1419 0xFF 0xFFFFFFFF)))
      ∧ (s.clock.running = false ∨ s.clock.adopted = false ∨ rd s.pkg Ix.pwRefState 0 ≠ 0 →
        CompletesAt (.refSyncFrame tick) s (s.clock.adopt (tick.toNat + 63)) (fun q => q.now = (s.clock.adopt (tick.toNat + 63)).ns ∧ q.pw.tickAdopted = true ∧ rd q Ix.pwRefState 0 = 0
          ∧ q.bt.waitingFrame = false ∧ (s.pkg.bt.waitingFrame = true → q.bt.phase = 6 ∧ rd q Ix.btStartState 0 = 6) ∧ (s.pkg.bt.waitingFrame = false → q.bt = s.pkg.bt) ∧ q.mem = s.pkg.mem)))
    ∧ (∀ stopped, Completes (.referenceLost stopped) s (fun q => rd q Ix.pwRefState 0 = (if stopped then 2 else 1) ∧ q.mem = s.pkg.mem ∧ q.parts = s.pkg.parts ∧ q.bt = s.pkg.bt ∧ q.pw = s.pkg.pw))
    ∧ (s.pkg.bt.waitingFrame = true → CompletesAt .refFrameWaitExpiry s { s.clock with running := true } (fun q => q.bt.phase = 6 ∧ rd q Ix.btStartState 0 = 6 ∧ q.bt.waitingFrame = false
        ∧ rd q Ix.pwRefState 0 = 1 ∧ q.mem = s.pkg.mem))
    ∧ (s.pkg.bt.waitingFrame = false → Completes .refFrameWaitExpiry s (fun q => q = begun s))

/-- R487, R490 to R493, R498, R499, R501: a monitor sample is on show with its time, an island whose sensors are all below 94 °C leaves the thermal answer, ALERT_N follows, and the cap is held against the power. An ageing check adds 5 mV for each time an island is named. At the slow regulator's tick a cooled island's heat rate rises by 1/32 of nominal; above the limit the regulator takes 1/32 of nominal off its rate of every island, never below a quarter; otherwise the clamp releases by one step outside a supply sag, and while the draw stays 2 % below the limit the regulator gives 1/32 back. An island runs at the lower of its two rates. A fast clamp acts at its limit's watts, at the lower one while another is in force. A droop stretches its island's period until it recovers; the stretched time is counted. Heat slows its island, at once to a quarter at 100 °C, and ALERT_N is low. Commands that it says complete: monitorSample, ageingCheck, slowRegulatorTick, fastClamp, droopStretch, thermalThrottle, droopRecovery. -/
def Obligations.PowerCompletes : Prop :=
  ∀ (s : State), powered s.pkg = true →
    let shown : Pkg → Nat → Nat := fun q i => (105000000 * islandFreq q i / (32 * (100 + (tget q.pw.droop i (0, 0)).1))) % 2 ^ 32
    (∀ m : MonitorReadings, Completes (.monitorSample m) s (fun q => ∃ p, p.pw.monitorsNs = s.clock.ns ∧ rd p Ix.pwInputVoltageMv 0 = m.inputMv % 2 ^ 32
      ∧ rd p Ix.pwInputCurrentMa 0 = m.inputMa % 2 ^ 32 ∧ rd p Ix.pwInputPowerW 0 = m.inputW % 2 ^ 32 ∧ rd p Ix.pwAveragePowerW 0 = m.averageW % 2 ^ 32
      ∧ rd p Ix.pwCapAchievedW 0 = m.inputW % 2 ^ 32 ∧ rdB p Ix.pwDieMonitors 0 = m.dieMonitors ∧ (∀ r < 12, ∀ w, m.powerW[r]? = some w → rd p Ix.pwRegionPowerW r = w % 2 ^ 32)
      ∧ (∀ r < 12, ∀ v, m.volts[r]? = some v → rdB p Ix.pwRegionVoltage r = leBytes 2 v.1 ++ leBytes 2 v.2)
      ∧ (∀ r < 12, ∀ t, m.temps[r]? = some t → rdB p Ix.pwRegionTemp r = t.flatMap i16Bytes ∧ tget p.pw.thermal r 0 = (if hottest t < 94 * 16 then 0 else tget s.pkg.pw.thermal r 0))
      ∧ (∀ x < 2, 24 + 18 * (x + 1) ≤ m.dieMonitors.length → hottest (dieTemps m.dieMonitors x) < 94 * 16 → tget p.pw.thermal (12 + x) 0 = 0)
      ∧ p.pins.alert = (p.pw.sagActive || p.pw.thermal.any (fun e => e.2 != 0))
      ∧ rd p Ix.pwRackCapW 0 = rd s.pkg Ix.pwRackCapW 0 ∧ p.mem = s.pkg.mem ∧ p.parts = s.pkg.parts ∧ q = evaluateCap p))
    ∧ (∀ slow : List Nat, Completes (.ageingCheck slow) s (fun q => (∀ i < 14, tget q.pw.setpointMv i 0 = tget s.pkg.pw.setpointMv i 0 + 5 * slow.count i)
      ∧ q.dict = s.pkg.dict ∧ q.mem = s.pkg.mem ∧ q.parts = s.pkg.parts))
    ∧ (∀ w : Nat,
      let heated : Nat → Nat := fun i => if tget s.pkg.pw.thermal i 0 = 0 ∧ heatRate s.pkg i < 32 then heatRate s.pkg i + 1 else heatRate s.pkg i
      (rd s.pkg Ix.pwAvgLimitW 0 < w → Completes (.slowRegulatorTick w) s (fun q =>
        (∀ i < 14, regulatorRate q i = max 8 (regulatorRate s.pkg i - 1) ∧ heatRate q i = heated i ∧ islandFreq q i = min (regulatorRate q i) (heatRate q i))
        ∧ (∀ i < 12, rd q Ix.pwIslandFreqKhz i = shown q i) ∧ q.pw.clampActive = s.pkg.pw.clampActive ∧ q.pw.clampDepth = s.pkg.pw.clampDepth ∧ q.mem = s.pkg.mem ∧ q.parts = s.pkg.parts))
      ∧ (w ≤ rd s.pkg Ix.pwAvgLimitW 0 → Completes (.slowRegulatorTick w) s (fun q =>
        (∀ i < 14, regulatorRate q i = (if 100 * w < 98 * rd s.pkg Ix.pwAvgLimitW 0 then min 32 (regulatorRate s.pkg i + 1) else regulatorRate s.pkg i) ∧ heatRate q i = heated i
          ∧ islandFreq q i = min (regulatorRate q i) (heatRate q i))
        ∧ (100 * w < 98 * rd s.pkg Ix.pwAvgLimitW 0 → ∀ i < 12, rd q Ix.pwIslandFreqKhz i = shown q i)
        ∧ (s.pkg.pw.clampActive = true → s.pkg.pw.sagActive = false → q.pw.clampActive = decide (1 < s.pkg.pw.clampDepth) ∧ q.pw.clampDepth = s.pkg.pw.clampDepth - 1)
        ∧ (s.pkg.pw.clampActive = false ∨ s.pkg.pw.sagActive = true → q.pw.clampActive = s.pkg.pw.clampActive ∧ q.pw.clampDepth = s.pkg.pw.clampDepth) ∧ q.mem = s.pkg.mem ∧ q.parts = s.pkg.parts)))
    ∧ (∀ (limit : Fin 6) (w : Nat), Completes (.fastClamp limit w) s (fun q => q.pw.clampActive = true ∧ q.pw.clampDepth = 32 ∧ q.pw.referenceW = w
      ∧ q.pw.clampLimitW = (if s.pkg.pw.clampActive then min (limitWatts s.pkg limit) s.pkg.pw.clampLimitW else limitWatts s.pkg limit)
      ∧ q.pw.clampIssue = (if w = 0 then 16 else max 4 (min 16 (16 * q.pw.clampLimitW / w))) ∧ (∀ r, s.pkg.pw.reasons[limitReason limit]? = some r → ∃ r', q.pw.reasons[limitReason limit]? = some r' ∧ r'.active = true)
      ∧ q.dict = s.pkg.dict ∧ q.mem = s.pkg.mem ∧ q.parts = s.pkg.parts))
    ∧ (∀ (i : Fin 14) (six : Bool), Completes (.droopStretch i six) s (fun q => tget q.pw.droop i (0, 0) = (if six then 50 else 25, (tget s.pkg.pw.droop i (0, s.clock.ns)).2)
      ∧ (i.val < 12 → rd q Ix.pwIslandFreqKhz i = shown q i) ∧ islandFreq q i = islandFreq s.pkg i ∧ q.mem = s.pkg.mem ∧ q.parts = s.pkg.parts))
    ∧ (∀ (i : Fin 14) (d began : Nat), tfind s.pkg.pw.droop i = some (d, began) → Completes (.droopRecovery i) s (fun q => q.pw.droop = tdel s.pkg.pw.droop i
      ∧ (i.val < 12 → rd q Ix.pwIslandFreqKhz i = shown q i) ∧ islandFreq q i = islandFreq s.pkg i
      ∧ (i.val < 12 → rd q Ix.pwIslandStretchNs i = (rd s.pkg Ix.pwIslandStretchNs i + (s.clock.ns - began)) % 2 ^ 64) ∧ q.mem = s.pkg.mem ∧ q.parts = s.pkg.parts))
    ∧ (∀ i : Fin 14, tfind s.pkg.pw.droop i = none → Completes (.droopRecovery i) s (fun q => q = begun s))
    ∧ (∀ (i : Fin 14) (hundred : Bool), Completes (.thermalThrottle i hundred) s (fun q =>
      heatRate q i = (if hundred = true ∨ tget s.pkg.pw.thermal i 0 = 2 then 8 else max 8 (islandFreq s.pkg i - 1)) ∧ islandFreq q i = min (regulatorRate s.pkg i) (heatRate q i)
      ∧ tget q.pw.thermal i 0 = (if hundred then 2 else max (tget s.pkg.pw.thermal i 0) 1) ∧ q.pins.alert = true ∧ q.mem = s.pkg.mem ∧ q.parts = s.pkg.parts
      ∧ (∀ k : Nat, k ≠ i → islandFreq q k = islandFreq s.pkg k)))

/-- R488, R494 to R497, R501: a cap of less than 800 W is refused with 0x1401; another waits for the next tick, at most 2,800 W. When the hold of a cap lapses its fallback is taken with event 0x1418. A draw at or below the cap leaves it met; one above clamps the package at the cap, or during a sag at the lower of the two limits, and where 70 % of it would still be above, partitions are chosen to pause until the prediction meets the cap or none is left. A supply sag limits power to `pw_sag_power_w` once, with ALERT_N low, and ends. A pause request is held at the lead until it is withdrawn. A partition whose draw fits resumes, at most one per 100 ms, through its lead where another package leads it; before that time, or where the draw does not fit, none does. Commands that it says complete: rackCapWrite, capExpired, powerResume, sagWarning, sagCleared, pauseRequest. -/
def Obligations.CapsHeld : Prop :=
  ∀ (s : State), powered s.pkg = true →
    (∀ watts : Word,
      (watts.toNat < 800 → Completes (.rackCapWrite watts) s (fun q => rd q Ix.pwLastStatus 0 = 0x1401 ∧ q.pw = s.pkg.pw ∧ rd q Ix.pwRackCapW 0 = rd s.pkg Ix.pwRackCapW 0
        ∧ q.out = s.pkg.out ++ [.answer 0x7006 0 6 0x1401 false]))
      ∧ (800 ≤ watts.toNat → Completes (.rackCapWrite watts) s (fun q => q.pw = { s.pkg.pw with capPending := some (min watts.toNat 2800, s.pkg.pw.capPending.bind (fun c => c.2.1), 0) } ∧ q.dict = s.pkg.dict
        ∧ q.mem = s.pkg.mem ∧ q.out = s.pkg.out ++ [.answer 0x7006 0 0 0 false])))
    ∧ (rd s.pkg Ix.pwCapHoldMs 0 ≠ 0 → s.pkg.pw.capPending = none → Completes .capExpired s (fun q => ∃ p, rd p Ix.pwCapHoldMs 0 = 0 ∧ p.mem = s.pkg.mem ∧ p.pw = s.pkg.pw
        ∧ rd p Ix.pwRackCapW 0 = (if rd s.pkg Ix.pwCapFallbackW 0 = 0 then rd s.pkg Ix.pwRackCapW 0 else rd s.pkg Ix.pwCapFallbackW 0 % 2 ^ 32) ∧ q = evaluateCap p))
    ∧ (rd s.pkg Ix.pwCapHoldMs 0 = 0 ∨ s.pkg.pw.capPending ≠ none → Completes .capExpired s (fun q => q = begun s))
    ∧ (∀ p : Pkg, rd p Ix.pwInputPowerW 0 ≤ rd p Ix.pwRackCapW 0 →
        rd (evaluateCap p) Ix.pwCapState 0 = (if rd p Ix.pwCapState 0 = 2 then 1 else if rd p Ix.pwCapState 0 = 1 then 0 else rd p Ix.pwCapState 0))
    ∧ (∀ p : Pkg, rd p Ix.pwRackCapW 0 < rd p Ix.pwInputPowerW 0 →
        let ref := if p.pw.clampActive then p.pw.referenceW else rd p Ix.pwInputPowerW 0
        (evaluateCap p).pw.clampActive = true ∧ (evaluateCap p).pw.clampLimitW = (if p.pw.sagActive then min (rd p Ix.pwRackCapW 0) (rd p Ix.pwSagPowerW 0) else rd p Ix.pwRackCapW 0)
        ∧ (7 * ref ≤ 10 * rd p Ix.pwRackCapW 0 → rd (evaluateCap p) Ix.pwCapState 0 = 1 ∧ (evaluateCap p).parts = p.parts)
        ∧ (10 * rd p Ix.pwRackCapW 0 < 7 * ref → rd (evaluateCap p) Ix.pwCapState 0 = 2
          ∧ (predictedTenths (evaluateCap p) ≤ 10 * rd p Ix.pwRackCapW 0 ∨ ∀ pp < 12, drawsPower (evaluateCap p) pp = false)))
    ∧ (s.pkg.pw.sagActive = false → Completes .sagWarning s (fun q => q.pw.sagActive = true ∧ q.pins.alert = true ∧ q.pw.clampActive = true
        ∧ q.pw.clampLimitW = (if s.pkg.pw.clampActive then min (rd s.pkg Ix.pwSagPowerW 0) s.pkg.pw.clampLimitW else rd s.pkg Ix.pwSagPowerW 0)
        ∧ q.pw.referenceW = rd s.pkg Ix.pwInputPowerW 0 ∧ q.mem = s.pkg.mem ∧ q.parts = s.pkg.parts))
    ∧ (s.pkg.pw.sagActive = true → Completes .sagWarning s (fun q => q = begun s))
    ∧ (s.pkg.pw.sagActive = true → Completes .sagCleared s (fun q => q.pw.sagActive = false ∧ q.pins.alert = s.pkg.pw.thermal.any (fun e => e.2 != 0)
        ∧ q.pw.clampActive = s.pkg.pw.clampActive ∧ q.mem = s.pkg.mem ∧ q.parts = s.pkg.parts))
    ∧ (s.pkg.pw.sagActive = false → Completes .sagCleared s (fun q => q = begun s))
    ∧ (∀ (pp : Fin 12) (package : Nat),
      Completes (.pauseRequest pp package false) s (fun q => (part q pp).pc.pauseRequests = (part s.pkg pp).pc.pauseRequests.filter (· != package) ++ [package]
        ∧ q.dict = s.pkg.dict ∧ q.mem = s.pkg.mem)
      ∧ Completes (.pauseRequest pp package true) s (fun q => (part q pp).pc.pauseRequests = (part s.pkg pp).pc.pauseRequests.filter (· != package) ∧ q.mem = s.pkg.mem
        ∧ ((part s.pkg pp).pc.pauseRequests.filter (· != package) = [] → pcState s.pkg pp = 3 → (part s.pkg pp).pc.powerPaused = true → bit (rd s.pkg Ix.pwPowerPaused 0) pp = false →
            pcState q pp = 2)))
    ∧ (∀ pp, nextToResume s.pkg = some pp → s.pkg.pw.everResumed = false ∨ s.pkg.pw.lastResumeNs + 100000000 ≤ s.clock.ns →
        100 * (rd s.pkg Ix.pwInputPowerW 0 + tget s.pkg.pw.clampedW pp 0) ≤ 95 * rd s.pkg Ix.pwRackCapW 0 →
        Completes .powerResume s (fun q => q.pw.everResumed = true ∧ q.pw.lastResumeNs = s.clock.ns ∧ bit (rd q Ix.pwPowerPaused 0) pp = false ∧ q.mem = s.pkg.mem
          ∧ (isRack s.pkg pp = false ∨ isLead s.pkg pp = true → pcState s.pkg pp = 3 → (part s.pkg pp).pc.pauseRequests = [] → pcState q pp = 2)
          ∧ (isRack s.pkg pp = true → isLead s.pkg pp = false → Out.pauseRequest (leadOf s.pkg pp) pp true ∈ q.out)))
    ∧ (∀ pp, nextToResume s.pkg = some pp → 95 * rd s.pkg Ix.pwRackCapW 0 < 100 * (rd s.pkg Ix.pwInputPowerW 0 + tget s.pkg.pw.clampedW pp 0) →
        Completes .powerResume s (fun q => q = begun s))
    ∧ (nextToResume s.pkg = none ∨ (s.pkg.pw.everResumed = true ∧ s.clock.ns < s.pkg.pw.lastResumeNs + 100000000) → Completes .powerResume s (fun q => q = begun s))
end

