-- ==== Sys2Proof/Laws/Tables.lean ====
section
/-! SUPPORT. Sparse tables: reading after writing, and their keys' order. -/

namespace Sys2Proof.Machine

theorem tfind_tput_self {α : Type} (t : Tbl α) (k : Nat) (v : α) : tfind (tput t k v) k = some v := by
  induction t with
  | nil => simp [tput, tfind]
  | cons a t ih =>
    obtain ⟨j, w⟩ := a
    simp only [tput]
    split
    · simp [tfind]
    · split
      · simp [tfind]
      · rename_i h
        simp [tfind, Ne.symm h, ih]

theorem tfind_tput_ne {α : Type} (t : Tbl α) {k k' : Nat} (v : α) (h : k' ≠ k) : tfind (tput t k v) k' = tfind t k' := by
  induction t with
  | nil => simp [tput, tfind, Ne.symm h]
  | cons a t ih =>
    obtain ⟨j, w⟩ := a
    simp only [tput]
    split
    · simp [tfind, Ne.symm h]
    · split
      · rename_i h'
        subst h'
        simp [tfind, Ne.symm h]
      · simp [tfind, ih]

@[simp] theorem tget_tput_self {α : Type} (t : Tbl α) (k : Nat) (v d : α) : tget (tput t k v) k d = v := by
  simp [tget, tfind_tput_self]

theorem tget_tput_ne {α : Type} (t : Tbl α) {k k' : Nat} (v d : α) (h : k' ≠ k) : tget (tput t k v) k' d = tget t k' d := by
  simp [tget, tfind_tput_ne _ _ h]

@[simp] theorem tget_tmod_self {α : Type} (t : Tbl α) (k : Nat) (d : α) (f : α → α) : tget (tmod t k d f) k d = f (tget t k d) := by
  simp [tmod]

theorem tget_tmod_ne {α : Type} (t : Tbl α) {k k' : Nat} (d : α) (f : α → α) (h : k' ≠ k) : tget (tmod t k d f) k' d = tget t k' d := by
  simp [tmod, tget_tput_ne _ _ _ h]

/-- A table with a least key put in front of it rises. -/
theorem rising_cons {α : Type} (a : Nat × α) (t : Tbl α) :
    Tbl.rising (a :: t) = true ↔ (∀ b ∈ t.head?, a.1 < b.1) ∧ Tbl.rising t = true := by
  cases t with
  | nil => simp [Tbl.rising]
  | cons b t => simp [Tbl.rising]

/-- The first key of a table after a write. -/
theorem head_tput {α : Type} (t : Tbl α) (k : Nat) (v : α) :
    ∀ b ∈ (tput t k v).head?, b.1 = k ∨ ∃ c ∈ t.head?, b.1 = c.1 := by
  cases t with
  | nil => simp [tput]
  | cons a t =>
    obtain ⟨j, w⟩ := a
    simp only [tput]
    split
    · simp
    · split
      · simp
      · simp

/-- A write keeps a table's keys rising. -/
theorem tput_rising {α : Type} (t : Tbl α) (k : Nat) (v : α) (h : Tbl.rising t = true) : Tbl.rising (tput t k v) = true := by
  induction t with
  | nil => simp [tput, Tbl.rising]
  | cons a t ih =>
    obtain ⟨j, w⟩ := a
    have ht := (rising_cons _ _).1 h
    simp only [tput]
    split
    · rename_i hk
      rw [rising_cons]
      exact ⟨by simpa using hk, h⟩
    · split
      · rename_i hk hj
        subst hj
        rw [rising_cons]
        exact ht
      · rename_i hk hj
        rw [rising_cons]
        refine ⟨fun b hb => ?_, ih ht.2⟩
        rcases head_tput t k v b hb with h1 | ⟨c, hc, h1⟩
        · rw [h1]; simp; omega
        · rw [h1]; exact ht.1 c hc

end Sys2Proof.Machine
end

