-- ==== Sys2Proof/Laws/State.lean ====
section
/-! SUPPORT. What each named update of the package leaves as it was. -/

namespace Sys2Proof.Machine

variable (p : Pkg)

@[simp] theorem wrAt_now (e : Entry) (u sub v : Nat) : (wrAt p e u sub v).now = p.now := rfl
@[simp] theorem wrAt_mem (e : Entry) (u sub v : Nat) : (wrAt p e u sub v).mem = p.mem := rfl
@[simp] theorem wrAt_out (e : Entry) (u sub v : Nat) : (wrAt p e u sub v).out = p.out := rfl
@[simp] theorem wrAt_ms (e : Entry) (u sub v : Nat) : (wrAt p e u sub v).ms = p.ms := rfl
@[simp] theorem wrAt_hi (e : Entry) (u sub v : Nat) : (wrAt p e u sub v).hi = p.hi := rfl
@[simp] theorem wrAt_mp (e : Entry) (u sub v : Nat) : (wrAt p e u sub v).mp = p.mp := rfl
@[simp] theorem wrAt_parts (e : Entry) (u sub v : Nat) : (wrAt p e u sub v).parts = p.parts := rfl
@[simp] theorem wrAt_ru (e : Entry) (u sub v : Nat) : (wrAt p e u sub v).ru = p.ru := rfl
@[simp] theorem wrAt_tf (e : Entry) (u sub v : Nat) : (wrAt p e u sub v).tf = p.tf := rfl
@[simp] theorem wrAt_tp (e : Entry) (u sub v : Nat) : (wrAt p e u sub v).tp = p.tp := rfl
@[simp] theorem wrAt_tm (e : Entry) (u sub v : Nat) : (wrAt p e u sub v).tm = p.tm := rfl
@[simp] theorem wrAt_wm (e : Entry) (u sub v : Nat) : (wrAt p e u sub v).wm = p.wm := rfl
@[simp] theorem wrAt_dm (e : Entry) (u sub v : Nat) : (wrAt p e u sub v).dm = p.dm := rfl
@[simp] theorem wrAt_bt (e : Entry) (u sub v : Nat) : (wrAt p e u sub v).bt = p.bt := rfl
@[simp] theorem wrAt_pw (e : Entry) (u sub v : Nat) : (wrAt p e u sub v).pw = p.pw := rfl
@[simp] theorem wrAt_flash (e : Entry) (u sub v : Nat) : (wrAt p e u sub v).flash = p.flash := rfl
@[simp] theorem wrAt_pins (e : Entry) (u sub v : Nat) : (wrAt p e u sub v).pins = p.pins := rfl

@[simp] theorem wr_now (e : Entry) (sub v : Nat) : (wr p e sub v).now = p.now := rfl
@[simp] theorem wr_mem (e : Entry) (sub v : Nat) : (wr p e sub v).mem = p.mem := rfl
@[simp] theorem wr_out (e : Entry) (sub v : Nat) : (wr p e sub v).out = p.out := rfl
@[simp] theorem wr_ms (e : Entry) (sub v : Nat) : (wr p e sub v).ms = p.ms := rfl
@[simp] theorem wr_hi (e : Entry) (sub v : Nat) : (wr p e sub v).hi = p.hi := rfl
@[simp] theorem wr_mp (e : Entry) (sub v : Nat) : (wr p e sub v).mp = p.mp := rfl
@[simp] theorem wr_parts (e : Entry) (sub v : Nat) : (wr p e sub v).parts = p.parts := rfl
@[simp] theorem wr_ru (e : Entry) (sub v : Nat) : (wr p e sub v).ru = p.ru := rfl
@[simp] theorem wr_tf (e : Entry) (sub v : Nat) : (wr p e sub v).tf = p.tf := rfl
@[simp] theorem wr_tp (e : Entry) (sub v : Nat) : (wr p e sub v).tp = p.tp := rfl
@[simp] theorem wr_tm (e : Entry) (sub v : Nat) : (wr p e sub v).tm = p.tm := rfl
@[simp] theorem wr_wm (e : Entry) (sub v : Nat) : (wr p e sub v).wm = p.wm := rfl
@[simp] theorem wr_dm (e : Entry) (sub v : Nat) : (wr p e sub v).dm = p.dm := rfl
@[simp] theorem wr_bt (e : Entry) (sub v : Nat) : (wr p e sub v).bt = p.bt := rfl
@[simp] theorem wr_pw (e : Entry) (sub v : Nat) : (wr p e sub v).pw = p.pw := rfl
@[simp] theorem wr_flash (e : Entry) (sub v : Nat) : (wr p e sub v).flash = p.flash := rfl
@[simp] theorem wr_pins (e : Entry) (sub v : Nat) : (wr p e sub v).pins = p.pins := rfl

@[simp] theorem bumpAt_now (e : Entry) (u sub n : Nat) : (bumpAt p e u sub n).now = p.now := rfl
@[simp] theorem bumpAt_mem (e : Entry) (u sub n : Nat) : (bumpAt p e u sub n).mem = p.mem := rfl
@[simp] theorem bumpAt_out (e : Entry) (u sub n : Nat) : (bumpAt p e u sub n).out = p.out := rfl
@[simp] theorem bumpAt_ms (e : Entry) (u sub n : Nat) : (bumpAt p e u sub n).ms = p.ms := rfl
@[simp] theorem bumpAt_hi (e : Entry) (u sub n : Nat) : (bumpAt p e u sub n).hi = p.hi := rfl
@[simp] theorem bumpAt_mp (e : Entry) (u sub n : Nat) : (bumpAt p e u sub n).mp = p.mp := rfl
@[simp] theorem bumpAt_parts (e : Entry) (u sub n : Nat) : (bumpAt p e u sub n).parts = p.parts := rfl
@[simp] theorem bumpAt_ru (e : Entry) (u sub n : Nat) : (bumpAt p e u sub n).ru = p.ru := rfl
@[simp] theorem bumpAt_tf (e : Entry) (u sub n : Nat) : (bumpAt p e u sub n).tf = p.tf := rfl
@[simp] theorem bumpAt_tp (e : Entry) (u sub n : Nat) : (bumpAt p e u sub n).tp = p.tp := rfl
@[simp] theorem bumpAt_tm (e : Entry) (u sub n : Nat) : (bumpAt p e u sub n).tm = p.tm := rfl
@[simp] theorem bumpAt_wm (e : Entry) (u sub n : Nat) : (bumpAt p e u sub n).wm = p.wm := rfl
@[simp] theorem bumpAt_dm (e : Entry) (u sub n : Nat) : (bumpAt p e u sub n).dm = p.dm := rfl
@[simp] theorem bumpAt_bt (e : Entry) (u sub n : Nat) : (bumpAt p e u sub n).bt = p.bt := rfl
@[simp] theorem bumpAt_pw (e : Entry) (u sub n : Nat) : (bumpAt p e u sub n).pw = p.pw := rfl
@[simp] theorem bumpAt_flash (e : Entry) (u sub n : Nat) : (bumpAt p e u sub n).flash = p.flash := rfl
@[simp] theorem bumpAt_pins (e : Entry) (u sub n : Nat) : (bumpAt p e u sub n).pins = p.pins := rfl

@[simp] theorem bump_now (e : Entry) (sub n : Nat) : (bump p e sub n).now = p.now := rfl
@[simp] theorem bump_mem (e : Entry) (sub n : Nat) : (bump p e sub n).mem = p.mem := rfl
@[simp] theorem bump_out (e : Entry) (sub n : Nat) : (bump p e sub n).out = p.out := rfl
@[simp] theorem bump_ms (e : Entry) (sub n : Nat) : (bump p e sub n).ms = p.ms := rfl
@[simp] theorem bump_hi (e : Entry) (sub n : Nat) : (bump p e sub n).hi = p.hi := rfl
@[simp] theorem bump_mp (e : Entry) (sub n : Nat) : (bump p e sub n).mp = p.mp := rfl
@[simp] theorem bump_parts (e : Entry) (sub n : Nat) : (bump p e sub n).parts = p.parts := rfl
@[simp] theorem bump_ru (e : Entry) (sub n : Nat) : (bump p e sub n).ru = p.ru := rfl
@[simp] theorem bump_tf (e : Entry) (sub n : Nat) : (bump p e sub n).tf = p.tf := rfl
@[simp] theorem bump_tp (e : Entry) (sub n : Nat) : (bump p e sub n).tp = p.tp := rfl
@[simp] theorem bump_tm (e : Entry) (sub n : Nat) : (bump p e sub n).tm = p.tm := rfl
@[simp] theorem bump_wm (e : Entry) (sub n : Nat) : (bump p e sub n).wm = p.wm := rfl
@[simp] theorem bump_dm (e : Entry) (sub n : Nat) : (bump p e sub n).dm = p.dm := rfl
@[simp] theorem bump_bt (e : Entry) (sub n : Nat) : (bump p e sub n).bt = p.bt := rfl
@[simp] theorem bump_pw (e : Entry) (sub n : Nat) : (bump p e sub n).pw = p.pw := rfl
@[simp] theorem bump_flash (e : Entry) (sub n : Nat) : (bump p e sub n).flash = p.flash := rfl
@[simp] theorem bump_pins (e : Entry) (sub n : Nat) : (bump p e sub n).pins = p.pins := rfl

@[simp] theorem last_now (e : Entry) (sub n : Nat) : (last p e sub n).now = p.now := rfl
@[simp] theorem last_mem (e : Entry) (sub n : Nat) : (last p e sub n).mem = p.mem := rfl
@[simp] theorem last_out (e : Entry) (sub n : Nat) : (last p e sub n).out = p.out := rfl
@[simp] theorem last_ms (e : Entry) (sub n : Nat) : (last p e sub n).ms = p.ms := rfl
@[simp] theorem last_hi (e : Entry) (sub n : Nat) : (last p e sub n).hi = p.hi := rfl
@[simp] theorem last_mp (e : Entry) (sub n : Nat) : (last p e sub n).mp = p.mp := rfl
@[simp] theorem last_parts (e : Entry) (sub n : Nat) : (last p e sub n).parts = p.parts := rfl
@[simp] theorem last_ru (e : Entry) (sub n : Nat) : (last p e sub n).ru = p.ru := rfl
@[simp] theorem last_tf (e : Entry) (sub n : Nat) : (last p e sub n).tf = p.tf := rfl
@[simp] theorem last_tp (e : Entry) (sub n : Nat) : (last p e sub n).tp = p.tp := rfl
@[simp] theorem last_tm (e : Entry) (sub n : Nat) : (last p e sub n).tm = p.tm := rfl
@[simp] theorem last_wm (e : Entry) (sub n : Nat) : (last p e sub n).wm = p.wm := rfl
@[simp] theorem last_dm (e : Entry) (sub n : Nat) : (last p e sub n).dm = p.dm := rfl
@[simp] theorem last_bt (e : Entry) (sub n : Nat) : (last p e sub n).bt = p.bt := rfl
@[simp] theorem last_pw (e : Entry) (sub n : Nat) : (last p e sub n).pw = p.pw := rfl
@[simp] theorem last_flash (e : Entry) (sub n : Nat) : (last p e sub n).flash = p.flash := rfl
@[simp] theorem last_pins (e : Entry) (sub n : Nat) : (last p e sub n).pins = p.pins := rfl

@[simp] theorem touch_now (e : Entry) (sub : Nat) : (touch p e sub).now = p.now := rfl
@[simp] theorem touch_mem (e : Entry) (sub : Nat) : (touch p e sub).mem = p.mem := rfl
@[simp] theorem touch_out (e : Entry) (sub : Nat) : (touch p e sub).out = p.out := rfl
@[simp] theorem touch_ms (e : Entry) (sub : Nat) : (touch p e sub).ms = p.ms := rfl
@[simp] theorem touch_hi (e : Entry) (sub : Nat) : (touch p e sub).hi = p.hi := rfl
@[simp] theorem touch_mp (e : Entry) (sub : Nat) : (touch p e sub).mp = p.mp := rfl
@[simp] theorem touch_parts (e : Entry) (sub : Nat) : (touch p e sub).parts = p.parts := rfl
@[simp] theorem touch_ru (e : Entry) (sub : Nat) : (touch p e sub).ru = p.ru := rfl
@[simp] theorem touch_tf (e : Entry) (sub : Nat) : (touch p e sub).tf = p.tf := rfl
@[simp] theorem touch_tp (e : Entry) (sub : Nat) : (touch p e sub).tp = p.tp := rfl
@[simp] theorem touch_tm (e : Entry) (sub : Nat) : (touch p e sub).tm = p.tm := rfl
@[simp] theorem touch_wm (e : Entry) (sub : Nat) : (touch p e sub).wm = p.wm := rfl
@[simp] theorem touch_dm (e : Entry) (sub : Nat) : (touch p e sub).dm = p.dm := rfl
@[simp] theorem touch_bt (e : Entry) (sub : Nat) : (touch p e sub).bt = p.bt := rfl
@[simp] theorem touch_pw (e : Entry) (sub : Nat) : (touch p e sub).pw = p.pw := rfl
@[simp] theorem touch_flash (e : Entry) (sub : Nat) : (touch p e sub).flash = p.flash := rfl
@[simp] theorem touch_pins (e : Entry) (sub : Nat) : (touch p e sub).pins = p.pins := rfl

@[simp] theorem keep_now (e : Entry) (sub : Nat) (v : DVal) : (keep p e sub v).now = p.now := rfl
@[simp] theorem keep_dict (e : Entry) (sub : Nat) (v : DVal) : (keep p e sub v).dict = p.dict := rfl
@[simp] theorem keep_mem (e : Entry) (sub : Nat) (v : DVal) : (keep p e sub v).mem = p.mem := rfl
@[simp] theorem keep_out (e : Entry) (sub : Nat) (v : DVal) : (keep p e sub v).out = p.out := rfl
@[simp] theorem keep_ms (e : Entry) (sub : Nat) (v : DVal) : (keep p e sub v).ms = p.ms := rfl
@[simp] theorem keep_hi (e : Entry) (sub : Nat) (v : DVal) : (keep p e sub v).hi = p.hi := rfl
@[simp] theorem keep_mp (e : Entry) (sub : Nat) (v : DVal) : (keep p e sub v).mp = p.mp := rfl
@[simp] theorem keep_parts (e : Entry) (sub : Nat) (v : DVal) : (keep p e sub v).parts = p.parts := rfl
@[simp] theorem keep_ru (e : Entry) (sub : Nat) (v : DVal) : (keep p e sub v).ru = p.ru := rfl
@[simp] theorem keep_tf (e : Entry) (sub : Nat) (v : DVal) : (keep p e sub v).tf = p.tf := rfl
@[simp] theorem keep_tp (e : Entry) (sub : Nat) (v : DVal) : (keep p e sub v).tp = p.tp := rfl
@[simp] theorem keep_tm (e : Entry) (sub : Nat) (v : DVal) : (keep p e sub v).tm = p.tm := rfl
@[simp] theorem keep_wm (e : Entry) (sub : Nat) (v : DVal) : (keep p e sub v).wm = p.wm := rfl
@[simp] theorem keep_dm (e : Entry) (sub : Nat) (v : DVal) : (keep p e sub v).dm = p.dm := rfl
@[simp] theorem keep_bt (e : Entry) (sub : Nat) (v : DVal) : (keep p e sub v).bt = p.bt := rfl
@[simp] theorem keep_pw (e : Entry) (sub : Nat) (v : DVal) : (keep p e sub v).pw = p.pw := rfl
@[simp] theorem keep_pins (e : Entry) (sub : Nat) (v : DVal) : (keep p e sub v).pins = p.pins := rfl

@[simp] theorem wrKept_now (e : Entry) (sub v : Nat) : (wrKept p e sub v).now = p.now := rfl
@[simp] theorem wrKept_mem (e : Entry) (sub v : Nat) : (wrKept p e sub v).mem = p.mem := rfl
@[simp] theorem wrKept_out (e : Entry) (sub v : Nat) : (wrKept p e sub v).out = p.out := rfl
@[simp] theorem wrKept_ms (e : Entry) (sub v : Nat) : (wrKept p e sub v).ms = p.ms := rfl
@[simp] theorem wrKept_hi (e : Entry) (sub v : Nat) : (wrKept p e sub v).hi = p.hi := rfl
@[simp] theorem wrKept_mp (e : Entry) (sub v : Nat) : (wrKept p e sub v).mp = p.mp := rfl
@[simp] theorem wrKept_parts (e : Entry) (sub v : Nat) : (wrKept p e sub v).parts = p.parts := rfl
@[simp] theorem wrKept_ru (e : Entry) (sub v : Nat) : (wrKept p e sub v).ru = p.ru := rfl
@[simp] theorem wrKept_tf (e : Entry) (sub v : Nat) : (wrKept p e sub v).tf = p.tf := rfl
@[simp] theorem wrKept_tp (e : Entry) (sub v : Nat) : (wrKept p e sub v).tp = p.tp := rfl
@[simp] theorem wrKept_tm (e : Entry) (sub v : Nat) : (wrKept p e sub v).tm = p.tm := rfl
@[simp] theorem wrKept_wm (e : Entry) (sub v : Nat) : (wrKept p e sub v).wm = p.wm := rfl
@[simp] theorem wrKept_dm (e : Entry) (sub v : Nat) : (wrKept p e sub v).dm = p.dm := rfl
@[simp] theorem wrKept_bt (e : Entry) (sub v : Nat) : (wrKept p e sub v).bt = p.bt := rfl
@[simp] theorem wrKept_pw (e : Entry) (sub v : Nat) : (wrKept p e sub v).pw = p.pw := rfl
@[simp] theorem wrKept_pins (e : Entry) (sub v : Nat) : (wrKept p e sub v).pins = p.pins := rfl

@[simp] theorem emit_now (x : Out) : (emit p x).now = p.now := rfl
@[simp] theorem emit_dict (x : Out) : (emit p x).dict = p.dict := rfl
@[simp] theorem emit_mem (x : Out) : (emit p x).mem = p.mem := rfl
@[simp] theorem emit_ms (x : Out) : (emit p x).ms = p.ms := rfl
@[simp] theorem emit_hi (x : Out) : (emit p x).hi = p.hi := rfl
@[simp] theorem emit_mp (x : Out) : (emit p x).mp = p.mp := rfl
@[simp] theorem emit_parts (x : Out) : (emit p x).parts = p.parts := rfl
@[simp] theorem emit_ru (x : Out) : (emit p x).ru = p.ru := rfl
@[simp] theorem emit_tf (x : Out) : (emit p x).tf = p.tf := rfl
@[simp] theorem emit_tp (x : Out) : (emit p x).tp = p.tp := rfl
@[simp] theorem emit_tm (x : Out) : (emit p x).tm = p.tm := rfl
@[simp] theorem emit_wm (x : Out) : (emit p x).wm = p.wm := rfl
@[simp] theorem emit_dm (x : Out) : (emit p x).dm = p.dm := rfl
@[simp] theorem emit_bt (x : Out) : (emit p x).bt = p.bt := rfl
@[simp] theorem emit_pw (x : Out) : (emit p x).pw = p.pw := rfl
@[simp] theorem emit_flash (x : Out) : (emit p x).flash = p.flash := rfl
@[simp] theorem emit_pins (x : Out) : (emit p x).pins = p.pins := rfl

@[simp] theorem modPart_now (pp : Nat) (f : Part → Part) : (modPart p pp f).now = p.now := rfl
@[simp] theorem modPart_dict (pp : Nat) (f : Part → Part) : (modPart p pp f).dict = p.dict := rfl
@[simp] theorem modPart_mem (pp : Nat) (f : Part → Part) : (modPart p pp f).mem = p.mem := rfl
@[simp] theorem modPart_out (pp : Nat) (f : Part → Part) : (modPart p pp f).out = p.out := rfl
@[simp] theorem modPart_ms (pp : Nat) (f : Part → Part) : (modPart p pp f).ms = p.ms := rfl
@[simp] theorem modPart_hi (pp : Nat) (f : Part → Part) : (modPart p pp f).hi = p.hi := rfl
@[simp] theorem modPart_mp (pp : Nat) (f : Part → Part) : (modPart p pp f).mp = p.mp := rfl
@[simp] theorem modPart_ru (pp : Nat) (f : Part → Part) : (modPart p pp f).ru = p.ru := rfl
@[simp] theorem modPart_tf (pp : Nat) (f : Part → Part) : (modPart p pp f).tf = p.tf := rfl
@[simp] theorem modPart_tp (pp : Nat) (f : Part → Part) : (modPart p pp f).tp = p.tp := rfl
@[simp] theorem modPart_tm (pp : Nat) (f : Part → Part) : (modPart p pp f).tm = p.tm := rfl
@[simp] theorem modPart_wm (pp : Nat) (f : Part → Part) : (modPart p pp f).wm = p.wm := rfl
@[simp] theorem modPart_dm (pp : Nat) (f : Part → Part) : (modPart p pp f).dm = p.dm := rfl
@[simp] theorem modPart_bt (pp : Nat) (f : Part → Part) : (modPart p pp f).bt = p.bt := rfl
@[simp] theorem modPart_pw (pp : Nat) (f : Part → Part) : (modPart p pp f).pw = p.pw := rfl
@[simp] theorem modPart_flash (pp : Nat) (f : Part → Part) : (modPart p pp f).flash = p.flash := rfl
@[simp] theorem modPart_pins (pp : Nat) (f : Part → Part) : (modPart p pp f).pins = p.pins := rfl

@[simp] theorem modPc_now (pp : Nat) (f : PcPart → PcPart) : (modPc p pp f).now = p.now := rfl
@[simp] theorem modPc_dict (pp : Nat) (f : PcPart → PcPart) : (modPc p pp f).dict = p.dict := rfl
@[simp] theorem modPc_mem (pp : Nat) (f : PcPart → PcPart) : (modPc p pp f).mem = p.mem := rfl
@[simp] theorem modPc_out (pp : Nat) (f : PcPart → PcPart) : (modPc p pp f).out = p.out := rfl
@[simp] theorem modPc_ms (pp : Nat) (f : PcPart → PcPart) : (modPc p pp f).ms = p.ms := rfl
@[simp] theorem modPc_hi (pp : Nat) (f : PcPart → PcPart) : (modPc p pp f).hi = p.hi := rfl
@[simp] theorem modPc_mp (pp : Nat) (f : PcPart → PcPart) : (modPc p pp f).mp = p.mp := rfl
@[simp] theorem modPc_ru (pp : Nat) (f : PcPart → PcPart) : (modPc p pp f).ru = p.ru := rfl
@[simp] theorem modPc_tf (pp : Nat) (f : PcPart → PcPart) : (modPc p pp f).tf = p.tf := rfl
@[simp] theorem modPc_tp (pp : Nat) (f : PcPart → PcPart) : (modPc p pp f).tp = p.tp := rfl
@[simp] theorem modPc_tm (pp : Nat) (f : PcPart → PcPart) : (modPc p pp f).tm = p.tm := rfl
@[simp] theorem modPc_wm (pp : Nat) (f : PcPart → PcPart) : (modPc p pp f).wm = p.wm := rfl
@[simp] theorem modPc_dm (pp : Nat) (f : PcPart → PcPart) : (modPc p pp f).dm = p.dm := rfl
@[simp] theorem modPc_bt (pp : Nat) (f : PcPart → PcPart) : (modPc p pp f).bt = p.bt := rfl
@[simp] theorem modPc_pw (pp : Nat) (f : PcPart → PcPart) : (modPc p pp f).pw = p.pw := rfl
@[simp] theorem modPc_flash (pp : Nat) (f : PcPart → PcPart) : (modPc p pp f).flash = p.flash := rfl
@[simp] theorem modPc_pins (pp : Nat) (f : PcPart → PcPart) : (modPc p pp f).pins = p.pins := rfl

@[simp] theorem modRu_now (pp : Nat) (f : RuPart → RuPart) : (modRu p pp f).now = p.now := rfl
@[simp] theorem modRu_dict (pp : Nat) (f : RuPart → RuPart) : (modRu p pp f).dict = p.dict := rfl
@[simp] theorem modRu_mem (pp : Nat) (f : RuPart → RuPart) : (modRu p pp f).mem = p.mem := rfl
@[simp] theorem modRu_out (pp : Nat) (f : RuPart → RuPart) : (modRu p pp f).out = p.out := rfl
@[simp] theorem modRu_ms (pp : Nat) (f : RuPart → RuPart) : (modRu p pp f).ms = p.ms := rfl
@[simp] theorem modRu_hi (pp : Nat) (f : RuPart → RuPart) : (modRu p pp f).hi = p.hi := rfl
@[simp] theorem modRu_mp (pp : Nat) (f : RuPart → RuPart) : (modRu p pp f).mp = p.mp := rfl
@[simp] theorem modRu_ru (pp : Nat) (f : RuPart → RuPart) : (modRu p pp f).ru = p.ru := rfl
@[simp] theorem modRu_tf (pp : Nat) (f : RuPart → RuPart) : (modRu p pp f).tf = p.tf := rfl
@[simp] theorem modRu_tp (pp : Nat) (f : RuPart → RuPart) : (modRu p pp f).tp = p.tp := rfl
@[simp] theorem modRu_tm (pp : Nat) (f : RuPart → RuPart) : (modRu p pp f).tm = p.tm := rfl
@[simp] theorem modRu_wm (pp : Nat) (f : RuPart → RuPart) : (modRu p pp f).wm = p.wm := rfl
@[simp] theorem modRu_dm (pp : Nat) (f : RuPart → RuPart) : (modRu p pp f).dm = p.dm := rfl
@[simp] theorem modRu_bt (pp : Nat) (f : RuPart → RuPart) : (modRu p pp f).bt = p.bt := rfl
@[simp] theorem modRu_pw (pp : Nat) (f : RuPart → RuPart) : (modRu p pp f).pw = p.pw := rfl
@[simp] theorem modRu_flash (pp : Nat) (f : RuPart → RuPart) : (modRu p pp f).flash = p.flash := rfl
@[simp] theorem modRu_pins (pp : Nat) (f : RuPart → RuPart) : (modRu p pp f).pins = p.pins := rfl

@[simp] theorem wrB_now (e : Entry) (sub : Nat) (b : Bytes) : (wrB p e sub b).now = p.now := by unfold wrB; split <;> rfl
@[simp] theorem wrB_mem (e : Entry) (sub : Nat) (b : Bytes) : (wrB p e sub b).mem = p.mem := by unfold wrB; split <;> rfl
@[simp] theorem wrB_out (e : Entry) (sub : Nat) (b : Bytes) : (wrB p e sub b).out = p.out := by unfold wrB; split <;> rfl
@[simp] theorem wrB_ms (e : Entry) (sub : Nat) (b : Bytes) : (wrB p e sub b).ms = p.ms := by unfold wrB; split <;> rfl
@[simp] theorem wrB_hi (e : Entry) (sub : Nat) (b : Bytes) : (wrB p e sub b).hi = p.hi := by unfold wrB; split <;> rfl
@[simp] theorem wrB_mp (e : Entry) (sub : Nat) (b : Bytes) : (wrB p e sub b).mp = p.mp := by unfold wrB; split <;> rfl
@[simp] theorem wrB_parts (e : Entry) (sub : Nat) (b : Bytes) : (wrB p e sub b).parts = p.parts := by unfold wrB; split <;> rfl
@[simp] theorem wrB_ru (e : Entry) (sub : Nat) (b : Bytes) : (wrB p e sub b).ru = p.ru := by unfold wrB; split <;> rfl
@[simp] theorem wrB_tf (e : Entry) (sub : Nat) (b : Bytes) : (wrB p e sub b).tf = p.tf := by unfold wrB; split <;> rfl
@[simp] theorem wrB_tp (e : Entry) (sub : Nat) (b : Bytes) : (wrB p e sub b).tp = p.tp := by unfold wrB; split <;> rfl
@[simp] theorem wrB_tm (e : Entry) (sub : Nat) (b : Bytes) : (wrB p e sub b).tm = p.tm := by unfold wrB; split <;> rfl
@[simp] theorem wrB_wm (e : Entry) (sub : Nat) (b : Bytes) : (wrB p e sub b).wm = p.wm := by unfold wrB; split <;> rfl
@[simp] theorem wrB_dm (e : Entry) (sub : Nat) (b : Bytes) : (wrB p e sub b).dm = p.dm := by unfold wrB; split <;> rfl
@[simp] theorem wrB_bt (e : Entry) (sub : Nat) (b : Bytes) : (wrB p e sub b).bt = p.bt := by unfold wrB; split <;> rfl
@[simp] theorem wrB_pw (e : Entry) (sub : Nat) (b : Bytes) : (wrB p e sub b).pw = p.pw := by unfold wrB; split <;> rfl
@[simp] theorem wrB_flash (e : Entry) (sub : Nat) (b : Bytes) : (wrB p e sub b).flash = p.flash := by unfold wrB; split <;> rfl
@[simp] theorem wrB_pins (e : Entry) (sub : Nat) (b : Bytes) : (wrB p e sub b).pins = p.pins := by unfold wrB; split <;> rfl

@[simp] theorem launch_now (toHost : Bool) (k : Packet) : (launch p toHost k).now = p.now := by unfold launch; split <;> rfl
@[simp] theorem launch_dict (toHost : Bool) (k : Packet) : (launch p toHost k).dict = p.dict := by unfold launch; split <;> rfl
@[simp] theorem launch_mem (toHost : Bool) (k : Packet) : (launch p toHost k).mem = p.mem := by unfold launch; split <;> rfl
@[simp] theorem launch_ms (toHost : Bool) (k : Packet) : (launch p toHost k).ms = p.ms := by unfold launch; split <;> rfl
@[simp] theorem launch_hi (toHost : Bool) (k : Packet) : (launch p toHost k).hi = p.hi := by unfold launch; split <;> rfl
@[simp] theorem launch_mp (toHost : Bool) (k : Packet) : (launch p toHost k).mp = p.mp := by unfold launch; split <;> rfl
@[simp] theorem launch_parts (toHost : Bool) (k : Packet) : (launch p toHost k).parts = p.parts := by unfold launch; split <;> rfl
@[simp] theorem launch_ru (toHost : Bool) (k : Packet) : (launch p toHost k).ru = p.ru := by unfold launch; split <;> rfl
@[simp] theorem launch_tp (toHost : Bool) (k : Packet) : (launch p toHost k).tp = p.tp := by unfold launch; split <;> rfl
@[simp] theorem launch_tm (toHost : Bool) (k : Packet) : (launch p toHost k).tm = p.tm := by unfold launch; split <;> rfl
@[simp] theorem launch_wm (toHost : Bool) (k : Packet) : (launch p toHost k).wm = p.wm := by unfold launch; split <;> rfl
@[simp] theorem launch_dm (toHost : Bool) (k : Packet) : (launch p toHost k).dm = p.dm := by unfold launch; split <;> rfl
@[simp] theorem launch_bt (toHost : Bool) (k : Packet) : (launch p toHost k).bt = p.bt := by unfold launch; split <;> rfl
@[simp] theorem launch_pw (toHost : Bool) (k : Packet) : (launch p toHost k).pw = p.pw := by unfold launch; split <;> rfl
@[simp] theorem launch_flash (toHost : Bool) (k : Packet) : (launch p toHost k).flash = p.flash := by unfold launch; split <;> rfl
@[simp] theorem launch_pins (toHost : Bool) (k : Packet) : (launch p toHost k).pins = p.pins := by unfold launch; split <;> rfl

end Sys2Proof.Machine
end

