-- ==== Sys2Proof/Laws/Entries.lean ====
section
/-! SUPPORT. Reading dictionary entries and partitions after the named updates. -/

namespace Sys2Proof.Machine

@[simp] theorem rdAt_wrAt_self (p : Pkg) (e : Entry) (u sub v : Nat) : rdAt (wrAt p e u sub v) e u sub = v % 2 ^ e.type.width := by
  simp [rdAt, wrAt, tfind_tput_self, DVal.num?]

@[simp] theorem rd_wr_self (p : Pkg) (e : Entry) (sub v : Nat) : rd (wr p e sub v) e sub = v % 2 ^ e.type.width := by
  simp [rd, wr]

@[simp] theorem rd_bump_self (p : Pkg) (e : Entry) (sub n : Nat) : rd (bump p e sub n) e sub = (rd p e sub + n) % 2 ^ e.type.width := by
  simp [rd, bump, bumpAt]

theorem rdAt_wrAt_ne (p : Pkg) {e e' : Entry} {u u' sub sub' : Nat} (v : Nat) (h : keyAt e u sub ≠ keyAt e' u' sub') :
    rdAt (wrAt p e' u' sub' v) e u sub = rdAt p e u sub := by
  simp [rdAt, wrAt, tfind_tput_ne _ _ h]

/-- Keys of different indexes differ. -/
theorem keyAt_ne {e e' : Entry} {sub sub' : Nat} (h : e.index ≠ e'.index) (hs : sub < 256) (hs' : sub' < 256) :
    keyAt e 0 sub ≠ keyAt e' 0 sub' := by
  simp only [keyAt]; omega

/-- Keys of different subindexes differ. -/
theorem keyAt_sub_ne {e : Entry} {sub sub' : Nat} (h : sub ≠ sub') : keyAt e 0 sub ≠ keyAt e 0 sub' := by
  simp only [keyAt]; omega

theorem rd_wr_ne (p : Pkg) {e e' : Entry} {sub sub' : Nat} (v : Nat) (h : e.index ≠ e'.index) (hs : sub < 256) (hs' : sub' < 256) :
    rd (wr p e' sub' v) e sub = rd p e sub := rdAt_wrAt_ne p v (keyAt_ne h hs hs')

theorem rd_bump_ne (p : Pkg) {e e' : Entry} {sub sub' : Nat} (n : Nat) (h : e.index ≠ e'.index) (hs : sub < 256) (hs' : sub' < 256) :
    rd (bump p e' sub' n) e sub = rd p e sub := rdAt_wrAt_ne p _ (keyAt_ne h hs hs')

theorem rd_last_ne (p : Pkg) {e e' : Entry} {sub sub' : Nat} (n : Nat) (h : e.index ≠ e'.index) (hs : sub < 256) (hs' : sub' < 256) :
    rd (last p e' sub' n) e sub = rd p e sub := rd_wr_ne p n h hs hs'

@[simp] theorem rd_last_self (p : Pkg) (e : Entry) (sub n : Nat) : rd (last p e sub n) e sub = n % 2 ^ e.type.width := by
  simp [last]

/-- Entries read the dictionary alone. -/
theorem rd_of_dict {p q : Pkg} (h : p.dict = q.dict) (e : Entry) (sub : Nat) : rd p e sub = rd q e sub := by
  simp [rd, rdAt, h]

theorem rdB_of_dict {p q : Pkg} (h : p.dict = q.dict) (e : Entry) (sub : Nat) : rdB p e sub = rdB q e sub := by
  simp [rdB, h]

@[simp] theorem rd_emit (p : Pkg) (x : Out) (e : Entry) (sub : Nat) : rd (emit p x) e sub = rd p e sub := rfl
@[simp] theorem rd_touch (p : Pkg) (e' : Entry) (sub' : Nat) (e : Entry) (sub : Nat) : rd (touch p e' sub') e sub = rd p e sub := rfl
@[simp] theorem rd_keep (p : Pkg) (e' : Entry) (sub' : Nat) (v : DVal) (e : Entry) (sub : Nat) : rd (keep p e' sub' v) e sub = rd p e sub := rfl
@[simp] theorem rd_modPart (p : Pkg) (pp : Nat) (f : Part → Part) (e : Entry) (sub : Nat) : rd (modPart p pp f) e sub = rd p e sub := rfl
@[simp] theorem rd_modPc (p : Pkg) (pp : Nat) (f : PcPart → PcPart) (e : Entry) (sub : Nat) : rd (modPc p pp f) e sub = rd p e sub := rfl
@[simp] theorem rd_modRu (p : Pkg) (pp : Nat) (f : RuPart → RuPart) (e : Entry) (sub : Nat) : rd (modRu p pp f) e sub = rd p e sub := rfl

@[simp] theorem rd_launch (p : Pkg) (b : Bool) (k : Packet) (e : Entry) (sub : Nat) : rd (launch p b k) e sub = rd p e sub :=
  rd_of_dict (launch_dict p b k) e sub

/-- A byte string that was put is read back. -/
@[simp] theorem rdB_wrB_self (p : Pkg) (e : Entry) (sub : Nat) (b : Bytes) : rdB (wrB p e sub b) e sub = b := by
  unfold wrB
  split
  · assumption
  · simp [rdB, tfind_tput_self, DVal.bytes?]

theorem rdB_wrB_ne (p : Pkg) {e e' : Entry} {sub sub' : Nat} (b : Bytes) (h : keyAt e 0 sub ≠ keyAt e' 0 sub') :
    rdB (wrB p e' sub' b) e sub = rdB p e sub := by
  unfold wrB
  split
  · rfl
  · simp [rdB, tfind_tput_ne _ _ h]

theorem rd_wrB_ne (p : Pkg) {e e' : Entry} {sub sub' : Nat} (b : Bytes) (h : keyAt e 0 sub ≠ keyAt e' 0 sub') :
    rd (wrB p e' sub' b) e sub = rd p e sub := by
  unfold wrB
  split
  · rfl
  · simp [rd, rdAt, tfind_tput_ne _ _ h]

/-- The generation of a byte string rises by 1 exactly when its value changes (R404). -/
theorem genOf_wrB (p : Pkg) (e : Entry) (sub : Nat) (b : Bytes) :
    genOf (wrB p e sub b) e sub = if rdB p e sub = b then genOf p e sub else (genOf p e sub + 1) % 2 ^ 32 := by
  unfold wrB
  split <;> simp [genOf]

@[simp] theorem part_modPart_self (p : Pkg) (pp : Nat) (f : Part → Part) : part (modPart p pp f) pp = f (part p pp) := by
  simp [part, modPart]

theorem part_modPart_ne (p : Pkg) {pp pp' : Nat} (f : Part → Part) (h : pp' ≠ pp) : part (modPart p pp f) pp' = part p pp' := by
  simp [part, modPart, tget_tmod_ne _ _ _ h]

theorem part_of_parts {p q : Pkg} (h : p.parts = q.parts) (pp : Nat) : part p pp = part q pp := by simp [part, h]

@[simp] theorem part_wr (p : Pkg) (e : Entry) (sub v pp : Nat) : part (wr p e sub v) pp = part p pp := rfl
@[simp] theorem part_bump (p : Pkg) (e : Entry) (sub n pp : Nat) : part (bump p e sub n) pp = part p pp := rfl
@[simp] theorem part_last (p : Pkg) (e : Entry) (sub n pp : Nat) : part (last p e sub n) pp = part p pp := rfl
@[simp] theorem part_emit (p : Pkg) (x : Out) (pp : Nat) : part (emit p x) pp = part p pp := rfl
@[simp] theorem part_wrB (p : Pkg) (e : Entry) (sub : Nat) (b : Bytes) (pp : Nat) : part (wrB p e sub b) pp = part p pp :=
  part_of_parts (wrB_parts p e sub b) pp

end Sys2Proof.Machine
end

