-- ==== Sys2Proof/Laws/Comms.lean ====
section
/-! SUPPORT. What sending a transaction and raising an event may change: the counters of transactions and events, what waits or travels,
and nothing else. -/

namespace Sys2Proof.Machine

/-- Keys of the counters that sending and events advance: 0x5810, 0x5C14 to 0x5C17. -/
def commsKey (k : Nat) : Bool := k == 0x581000 || k == 0x5C1400 || k == 0x5C1500 || k == 0x5C1600 || k == 0x5C1700

/-- What sending and raising leave as it was. -/
structure KeepsState (p q : Pkg) : Prop where
  now : q.now = p.now
  mem : q.mem = p.mem
  mp : q.mp = p.mp
  parts : q.parts = p.parts
  ru : q.ru = p.ru
  tf : { q.tf with outgoing := p.tf.outgoing } = p.tf
  tp : q.tp = p.tp
  tm : q.tm = p.tm
  wm : q.wm = p.wm
  dm : q.dm = p.dm
  bt : q.bt = p.bt
  pw : q.pw = p.pw
  flash : q.flash = p.flash
  pins : q.pins = p.pins
  vals : ∀ k, commsKey k = false → tfind q.dict.vals k = tfind p.dict.vals k
  shadows : q.dict.shadows = p.dict.shadows
  gens : q.dict.gens = p.dict.gens
  perPartition : q.dict.perPartition = p.dict.perPartition

theorem KeepsState.rfl (p : Pkg) : KeepsState p p := by
  constructor <;> simp

theorem KeepsState.trans {p q r : Pkg} (h : KeepsState p q) (g : KeepsState q r) : KeepsState p r where
  now := g.now.trans h.now
  mem := g.mem.trans h.mem
  mp := g.mp.trans h.mp
  parts := g.parts.trans h.parts
  ru := g.ru.trans h.ru
  tf := by
    have a := h.tf
    have b := g.tf
    rw [← a, ← b]
  tp := g.tp.trans h.tp
  tm := g.tm.trans h.tm
  wm := g.wm.trans h.wm
  dm := g.dm.trans h.dm
  bt := g.bt.trans h.bt
  pw := g.pw.trans h.pw
  flash := g.flash.trans h.flash
  pins := g.pins.trans h.pins
  vals := fun k hk => (g.vals k hk).trans (h.vals k hk)
  shadows := g.shadows.trans h.shadows
  gens := g.gens.trans h.gens
  perPartition := g.perPartition.trans h.perPartition

theorem bump_keeps (p : Pkg) (e : Entry) (sub n : Nat) (h : commsKey (keyAt e 0 sub) = true) : KeepsState p (bump p e sub n) := by
  constructor <;> try simp
  · intro k hk
    have : k ≠ keyAt e 0 sub := by
      rintro rfl
      simp [h] at hk
    simp [bump, bumpAt, wrAt, tfind_tput_ne _ _ this]
  all_goals rfl

theorem emit_keeps (p : Pkg) (x : Out) : KeepsState p (emit p x) := by constructor <;> simp [emit]

theorem launch_keeps (p : Pkg) (b : Bool) (k : Packet) : KeepsState p (launch p b k) := by
  unfold launch
  split
  · exact emit_keeps _ _
  · constructor <;> simp

theorem launchTxn_keeps (p : Pkg) (t : Txn) (k : Packet) : KeepsState p (launchTxn p t k) := by
  unfold launchTxn
  split
  · exact emit_keeps _ _
  · exact launch_keeps _ _ _

theorem ms_keeps (p : Pkg) (m : Ms) : KeepsState p { p with ms := m } := by constructor <;> simp

theorem hi_keeps (p : Pkg) (h : Hi) : KeepsState p { p with hi := h } := by constructor <;> simp

theorem KeepsState.ite {p a b : Pkg} (c : Prop) [Decidable c] (h : KeepsState p a) (g : KeepsState p b) :
    KeepsState p (if c then a else b) := by
  split
  · exact h
  · exact g

theorem KeepsState.bump {p q : Pkg} (h : KeepsState p q) (e : Entry) (sub n : Nat) (hk : commsKey (keyAt e 0 sub) = true) :
    KeepsState p (Machine.bump q e sub n) := h.trans (bump_keeps _ _ _ _ hk)

theorem transmit_keeps (p : Pkg) (before : List Txn) (t : Txn) : KeepsState p (transmit p before t).1 := by
  unfold transmit
  dsimp only
  refine KeepsState.trans ?_ (launchTxn_keeps _ _ _)
  have base : ∀ c [Decidable c] (m : Ms), KeepsState p (Machine.bump (if c then p else { p with ms := m }) Ix.msTransactionsSent 0 1) :=
    fun c _ m => (KeepsState.ite c (KeepsState.rfl p) (ms_keeps p m)).bump _ _ _ (by decide)
  refine KeepsState.ite _ (base _ _) (KeepsState.ite _ ((base _ _).bump _ _ _ (by decide)) ((base _ _).bump _ _ _ (by decide)))

theorem completeHere_keeps (p : Pkg) (t : Txn) (s : Nat) : KeepsState p (completeHere p t s) := ms_keeps _ _

theorem pumpOne_keeps (a : Pkg × List Txn) (t : Txn) : KeepsState a.1 (pumpOne a t).1 := by
  unfold pumpOne
  split
  · exact KeepsState.rfl _
  · split
    · exact completeHere_keeps _ _ _
    · split
      · exact completeHere_keeps _ _ _
      · split
        · exact transmit_keeps _ _ _
        · exact KeepsState.rfl _

theorem pumpList_keeps (l : List Txn) (a : Pkg × List Txn) : KeepsState a.1 (l.foldl pumpOne a).1 := by
  induction l generalizing a with
  | nil => exact KeepsState.rfl _
  | cons t l ih => exact KeepsState.trans (pumpOne_keeps a t) (ih _)

theorem pump_keeps (p : Pkg) : KeepsState p (pump p) :=
  KeepsState.trans (pumpList_keeps p.ms.txns (p, [])) (ms_keeps _ _)

theorem send_keeps (p : Pkg) (t : Txn) : KeepsState p (send p t) := by
  unfold send
  split
  · exact completeHere_keeps _ _ _
  · split
    · exact completeHere_keeps _ _ _
    · exact KeepsState.trans (ms_keeps _ _) (pump_keeps _)

theorem hostStore_keeps (p : Pkg) (source partition addr : Nat) (data : Bytes) (step : Nat) (u : Purpose) :
    KeepsState p (hostStore p source partition addr data step u) := send_keeps _ _

theorem hostFlaggedAdd_keeps (p : Pkg) (source partition addr n step : Nat) (u : Purpose) :
    KeepsState p (hostFlaggedAdd p source partition addr n step u) := send_keeps _ _

theorem announceEvents_keeps (p : Pkg) : KeepsState p (announceEvents p) := by
  unfold announceEvents
  split
  · exact KeepsState.rfl _
  · exact KeepsState.trans (hi_keeps _ _) (hostFlaggedAdd_keeps _ _ _ _ _ _ _)

theorem putEvent_keeps (p : Pkg) (e : EventEntry) : KeepsState p (putEvent p e) := by
  unfold putEvent
  dsimp only
  have base : KeepsState p (bump { hostStore p eventSource 0xFF (rd p Ix.hiEventRingBase 0 + p.hi.seq % rd p Ix.hiEventRingSlots 0 * 32) e.bytes e.step .event with
      hi := { (hostStore p eventSource 0xFF (rd p Ix.hiEventRingBase 0 + p.hi.seq % rd p Ix.hiEventRingSlots 0 * 32) e.bytes e.step .event).hi with
        seq := p.hi.seq + 1, unannounced := p.hi.unannounced + 1 } } Ix.hiEventsWritten 0 1) :=
    KeepsState.trans (hostStore_keeps _ _ _ _ _ _ _) (KeepsState.trans (hi_keeps _ _) (bump_keeps _ _ _ _ (by decide)))
  split
  · exact KeepsState.trans base (announceEvents_keeps _)
  · exact base

theorem drainEvents_keeps (fuel : Nat) (p : Pkg) : KeepsState p (drainEvents fuel p) := by
  induction fuel generalizing p with
  | zero => exact KeepsState.rfl _
  | succ n ih =>
    unfold drainEvents
    split
    · exact KeepsState.rfl _
    · split
      · exact KeepsState.trans (KeepsState.trans (hi_keeps _ _) (putEvent_keeps _ _)) (ih _)
      · split
        · exact KeepsState.rfl _
        · exact KeepsState.trans (KeepsState.trans (hi_keeps _ _) (putEvent_keeps _ _)) (ih _)

/-- Raising an event changes nothing but the event ring and what carries it. -/
theorem raiseStep_keeps (p : Pkg) (step code partition unit detail : Nat) : KeepsState p (raiseStep p step code partition unit detail) := by
  unfold raiseStep
  split
  · exact KeepsState.rfl _
  · dsimp only
    split
    · exact KeepsState.trans (hi_keeps _ _) (bump_keeps _ _ _ _ (by decide))
    · exact KeepsState.trans (hi_keeps _ _) (drainEvents_keeps _ _)

theorem raise_keeps (p : Pkg) (code partition unit detail : Nat) : KeepsState p (raise p code partition unit detail) := raiseStep_keeps _ _ _ _ _ _

theorem raise0_keeps (p : Pkg) (code : Nat) : KeepsState p (raise0 p code) := raise_keeps _ _ _ _ _

/-- An entry that is no counter of transactions or events reads as before. -/
theorem KeepsState.rdAt {p q : Pkg} (h : KeepsState p q) (e : Entry) (u sub : Nat) (hk : commsKey (keyAt e u sub) = false) :
    Machine.rdAt q e u sub = Machine.rdAt p e u sub := by
  simp [Machine.rdAt, h.vals _ hk]

theorem KeepsState.rd {p q : Pkg} (h : KeepsState p q) (e : Entry) (sub : Nat) (hk : commsKey (keyAt e 0 sub) = false) :
    Machine.rd q e sub = Machine.rd p e sub := h.rdAt e 0 sub hk

theorem KeepsState.rdB {p q : Pkg} (h : KeepsState p q) (e : Entry) (sub : Nat) (hk : commsKey (keyAt e 0 sub) = false) :
    Machine.rdB q e sub = Machine.rdB p e sub := by
  simp [Machine.rdB, h.vals _ hk]

theorem KeepsState.part {p q : Pkg} (h : KeepsState p q) (pp : Nat) : Machine.part q pp = Machine.part p pp := part_of_parts h.parts pp

/-- Entries outside 0x5810 and 0x5C14 to 0x5C17 are no such counters. -/
theorem commsKey_false {e : Entry} {sub : Nat} (hs : sub < 256)
    (h : e.index ≠ 0x5810 ∧ e.index ≠ 0x5C14 ∧ e.index ≠ 0x5C15 ∧ e.index ≠ 0x5C16 ∧ e.index ≠ 0x5C17) :
    commsKey (keyAt e 0 sub) = false := by
  obtain ⟨h1, h2, h3, h4, h5⟩ := h
  simp only [commsKey, keyAt, Bool.or_eq_false_iff, beq_eq_false_iff_ne]
  refine ⟨⟨⟨⟨?_, ?_⟩, ?_⟩, ?_⟩, ?_⟩ <;> omega

end Sys2Proof.Machine
end

