-- ==== Sys2Proof/Laws/Dispatch.lean ====
section
/-! SUPPORT. Each arm of `exec`. -/

namespace Sys2Proof.Machine

@[simp] theorem exec_stepBoundary (pp : Fin 12) (s : State) : exec (.stepBoundary pp) s = execStepBoundary pp s := rfl
@[simp] theorem exec_stepNoticeArrival (pp : Fin 12) (notice : StepNotice) (s : State) : exec (.stepNoticeArrival pp notice) s = execStepNoticeArrival pp notice s := rfl
@[simp] theorem exec_descriptorReadComplete (block : Fin 96) (readOk : Bool) (s : State) : exec (.descriptorReadComplete block readOk) s = execDescriptorReadComplete block readOk s := rfl
@[simp] theorem exec_passWaitsMet (block : Fin 96) (s : State) : exec (.passWaitsMet block) s = execPassWaitsMet block s := rfl
@[simp] theorem exec_passComplete (block : Fin 96) (s : State) : exec (.passComplete block) s = execPassComplete block s := rfl
@[simp] theorem exec_badOperandWord (block : Fin 96) (sramUncorrectable : Bool) (completion : Nat) (address : Nat) (s : State) : exec (.badOperandWord block sramUncorrectable completion address) s = execBadOperandWord block sramUncorrectable completion address s := rfl
@[simp] theorem exec_cellCorrectedError (cell : Fin 768) (s : State) : exec (.cellCorrectedError cell) s = execCellCorrectedError cell s := rfl
@[simp] theorem exec_cellUncorrectable (cell : Fin 768) (s : State) : exec (.cellUncorrectable cell) s = execCellUncorrectable cell s := rfl
@[simp] theorem exec_cellResetComplete (cell : Fin 768) (s : State) : exec (.cellResetComplete cell) s = execCellResetComplete cell s := rfl
@[simp] theorem exec_stageFault (block : Fin 96) (tile : Nat) (s : State) : exec (.stageFault block tile) s = execStageFault block tile s := rfl
@[simp] theorem exec_handshakeTimeout (region : Fin 12) (s : State) : exec (.handshakeTimeout region) s = execHandshakeTimeout region s := rfl
@[simp] theorem exec_regionControlFault (region : Fin 12) (s : State) : exec (.regionControlFault region) s = execRegionControlFault region s := rfl
@[simp] theorem exec_markGapExceeded (block : Fin 96) (s : State) : exec (.markGapExceeded block) s = execMarkGapExceeded block s := rfl
@[simp] theorem exec_cellHideWrite (region : Fin 12) (cell : Fin 64) (value : Byte) (s : State) : exec (.cellHideWrite region cell value) s = execCellHideWrite region cell value s := rfl
@[simp] theorem exec_countersClear (index : BitVec 16) (value : Byte) (s : State) : exec (.countersClear index value) s = execCountersClear index value s := rfl
@[simp] theorem exec_recipeOverrideWrite (pp : Fin 12) (data : Bytes) (s : State) : exec (.recipeOverrideWrite pp data) s = execRecipeOverrideWrite pp data s := rfl
@[simp] theorem exec_layerTableWrite (pp : Fin 12) (data : Bytes) (s : State) : exec (.layerTableWrite pp data) s = execLayerTableWrite pp data s := rfl
@[simp] theorem exec_routerLayerTableWrite (pp : Fin 12) (data : Bytes) (s : State) : exec (.routerLayerTableWrite pp data) s = execRouterLayerTableWrite pp data s := rfl
@[simp] theorem exec_dispatchedRowArrival (pp : Fin 12) (row : DispatchedRow) (s : State) : exec (.dispatchedRowArrival pp row) s = execDispatchedRowArrival pp row s := rfl
@[simp] theorem exec_endNoticeArrival (pp : Fin 12) (notice : EndNotice) (s : State) : exec (.endNoticeArrival pp notice) s = execEndNoticeArrival pp notice s := rfl
@[simp] theorem exec_intakeCounterAdd (pp : Fin 12) (n : DWord) (s : State) : exec (.intakeCounterAdd pp n) s = execIntakeCounterAdd pp n s := rfl
@[simp] theorem exec_intakeReset (pp : Fin 12) (value : Byte) (s : State) : exec (.intakeReset pp value) s = execIntakeReset pp value s := rfl
@[simp] theorem exec_cancelWord (pp : Fin 12) (word : DWord) (s : State) : exec (.cancelWord pp word) s = execCancelWord pp word s := rfl
@[simp] theorem exec_cancelNoticeArrival (pp : Fin 12) (step : Nat) (genRows preRows : List Nat) (s : State) : exec (.cancelNoticeArrival pp step genRows preRows) s = execCancelNoticeArrival pp step genRows preRows s := rfl
@[simp] theorem exec_completionConsumedStore (pp : Fin 12) (n : DWord) (s : State) : exec (.completionConsumedStore pp n) s = execCompletionConsumedStore pp n s := rfl
@[simp] theorem exec_tokenRecordForward (pp : Fin 12) (package : Nat) (record : Bytes) (s : State) : exec (.tokenRecordForward pp package record) s = execTokenRecordForward pp package record s := rfl
@[simp] theorem exec_samplerCountArrival (pp : Fin 12) (package step count : Nat) (s : State) : exec (.samplerCountArrival pp package step count) s = execSamplerCountArrival pp package step count s := rfl
@[simp] theorem exec_lengthTableArrival (pp : Fin 12) (engine : Fin 2) (step : Nat) (table tokens : Bytes) (s : State) : exec (.lengthTableArrival pp engine step table tokens) s = execLengthTableArrival pp engine step table tokens s := rfl
@[simp] theorem exec_tenantTableWrite (pp : Fin 12) (data : Bytes) (s : State) : exec (.tenantTableWrite pp data) s = execTenantTableWrite pp data s := rfl
@[simp] theorem exec_engineConfigsWrite (pp : Fin 12) (data : Bytes) (s : State) : exec (.engineConfigsWrite pp data) s = execEngineConfigsWrite pp data s := rfl
@[simp] theorem exec_hostWriteRetry (pp : Fin 12) (s : State) : exec (.hostWriteRetry pp) s = execHostWriteRetry pp s := rfl
@[simp] theorem exec_playHeadReport (pp : Fin 12) (stream : BitVec 16) (word : DWord) (s : State) : exec (.playHeadReport pp stream word) s = execPlayHeadReport pp stream word s := rfl
@[simp] theorem exec_ringTableWrite (pp : Fin 12) (data : Bytes) (s : State) : exec (.ringTableWrite pp data) s = execRingTableWrite pp data s := rfl
@[simp] theorem exec_emitConsumedStore (pp : Fin 12) (ring : Fin 16) (n : DWord) (s : State) : exec (.emitConsumedStore pp ring n) s = execEmitConsumedStore pp ring n s := rfl
@[simp] theorem exec_scrubPass (ddr : Bool) (unit : Fin 16) (s : State) : exec (.scrubPass ddr unit) s = execScrubPass ddr unit s := rfl
@[simp] theorem exec_channelFailure (ddr : Bool) (unit : Fin 16) (channel : Fin 32) (s : State) : exec (.channelFailure ddr unit channel) s = execChannelFailure ddr unit channel s := rfl
@[simp] theorem exec_poisonFillComplete (stack : Fin 12) (s : State) : exec (.poisonFillComplete stack) s = execPoisonFillComplete stack s := rfl
@[simp] theorem exec_failChannelWrite (ddr : Bool) (unit : Fin 16) (value : Byte) (s : State) : exec (.failChannelWrite ddr unit value) s = execFailChannelWrite ddr unit value s := rfl
@[simp] theorem exec_pageCopyComplete (source : Nat) (s : State) : exec (.pageCopyComplete source) s = execPageCopyComplete source s := rfl
@[simp] theorem exec_fixedRangesWrite (pp : Fin 12) (data : Bytes) (s : State) : exec (.fixedRangesWrite pp data) s = execFixedRangesWrite pp data s := rfl
@[simp] theorem exec_spillPoolWrite (pp : Fin 12) (size : Bool) (value : DWord) (s : State) : exec (.spillPoolWrite pp size value) s = execSpillPoolWrite pp size value s := rfl
@[simp] theorem exec_advertTimer (s : State) : exec (.advertTimer) s = execAdvertTimer s := rfl
@[simp] theorem exec_advert (message : TmMessage) (s : State) : exec (.advert message) s = execAdvert message s := rfl
@[simp] theorem exec_borrow (message : TmMessage) (s : State) : exec (.borrow message) s = execBorrow message s := rfl
@[simp] theorem exec_grant (message : TmMessage) (s : State) : exec (.grant message) s = execGrant message s := rfl
@[simp] theorem exec_refuse (message : TmMessage) (s : State) : exec (.refuse message) s = execRefuse message s := rfl
@[simp] theorem exec_reclaim (message : TmMessage) (s : State) : exec (.reclaim message) s = execReclaim message s := rfl
@[simp] theorem exec_release (message : TmMessage) (s : State) : exec (.release message) s = execRelease message s := rfl
@[simp] theorem exec_reclaimDeadline (lender : Nat) (unit : Nat) (s : State) : exec (.reclaimDeadline lender unit) s = execReclaimDeadline lender unit s := rfl
@[simp] theorem exec_unitIdleRelease (lender : Nat) (unit : Nat) (s : State) : exec (.unitIdleRelease lender unit) s = execUnitIdleRelease lender unit s := rfl
@[simp] theorem exec_unitPoisonFillDone (unit : Nat) (s : State) : exec (.unitPoisonFillDone unit) s = execUnitPoisonFillDone unit s := rfl
@[simp] theorem exec_reclaimUnitsWrite (count : BitVec 16) (s : State) : exec (.reclaimUnitsWrite count) s = execReclaimUnitsWrite count s := rfl
@[simp] theorem exec_loadCommand (data : Bytes) (image : ImageHead) (s : State) : exec (.loadCommand data image) s = execLoadCommand data image s := rfl
@[simp] theorem exec_sliceLanded (job : Fin 2) (shard slice : Nat) (data : SliceRead) (s : State) : exec (.sliceLanded job shard slice data) s = execSliceLanded job shard slice data s := rfl
@[simp] theorem exec_unloadWrite (value : Word) (s : State) : exec (.unloadWrite value) s = execUnloadWrite value s := rfl
@[simp] theorem exec_switchWrite (pp : Fin 12) (data : Bytes) (s : State) : exec (.switchWrite pp data) s = execSwitchWrite pp data s := rfl
@[simp] theorem exec_dmaStart (channel : Fin 256) (s : State) : exec (.dmaStart channel) s = execDmaStart channel s := rfl
@[simp] theorem exec_dmaStop (channel : Fin 256) (s : State) : exec (.dmaStop channel) s = execDmaStop channel s := rfl
@[simp] theorem exec_dmaResume (channel : Fin 256) (s : State) : exec (.dmaResume channel) s = execDmaResume channel s := rfl
@[simp] theorem exec_dmaAbort (channel : Fin 256) (s : State) : exec (.dmaAbort channel) s = execDmaAbort channel s := rfl
@[simp] theorem exec_dmaProducedAdd (channel : Fin 256) (n : DWord) (s : State) : exec (.dmaProducedAdd channel n) s = execDmaProducedAdd channel n s := rfl
@[simp] theorem exec_dmaDstConsumedStore (channel : Fin 256) (n : DWord) (s : State) : exec (.dmaDstConsumedStore channel n) s = execDmaDstConsumedStore channel n s := rfl
@[simp] theorem exec_dmaPieceComplete (channel : Fin 256) (piece : Nat) (s : State) : exec (.dmaPieceComplete channel piece) s = execDmaPieceComplete channel piece s := rfl
@[simp] theorem exec_dmaPieceError (channel : Fin 256) (piece : Nat) (side : Fin 2) (address status : Nat) (s : State) : exec (.dmaPieceError channel piece side address status) s = execDmaPieceError channel piece side address status s := rfl
@[simp] theorem exec_dmaRetryTimer (channel : Fin 256) (piece : Nat) (s : State) : exec (.dmaRetryTimer channel piece) s = execDmaRetryTimer channel piece s := rfl
@[simp] theorem exec_dmaHaltDrainTimeout (channel : Fin 256) (s : State) : exec (.dmaHaltDrainTimeout channel) s = execDmaHaltDrainTimeout channel s := rfl
@[simp] theorem exec_dmaStopDrained (channel : Fin 256) (s : State) : exec (.dmaStopDrained channel) s = execDmaStopDrained channel s := rfl
@[simp] theorem exec_controlRegisterWrite (address : Nat) (wide : Bool) (value : DWord) (firmware : Bool) (s : State) : exec (.controlRegisterWrite address wide value firmware) s = execControlRegisterWrite address wide value firmware s := rfl
@[simp] theorem exec_flitReceive (link : Fin 24) (flit : Bytes) (s : State) : exec (.flitReceive link flit) s = execFlitReceive link flit s := rfl
@[simp] theorem exec_replayTimeout (link : Fin 24) (s : State) : exec (.replayTimeout link) s = execReplayTimeout link s := rfl
@[simp] theorem exec_ackIdleTimer (link : Fin 24) (s : State) : exec (.ackIdleTimer link) s = execAckIdleTimer link s := rfl
@[simp] theorem exec_laneFailure (link : Fin 24) (lane : Fin 8) (s : State) : exec (.laneFailure link lane) s = execLaneFailure link lane s := rfl
@[simp] theorem exec_laneRetrainComplete (link : Fin 24) (lane : Fin 8) (passed : Bool) (s : State) : exec (.laneRetrainComplete link lane passed) s = execLaneRetrainComplete link lane passed s := rfl
@[simp] theorem exec_linkTrainingComplete (link : Fin 24) (passed : Byte) (s : State) : exec (.linkTrainingComplete link passed) s = execLinkTrainingComplete link passed s := rfl
@[simp] theorem exec_capabilityRecord (link : Fin 24) (record : Capability) (s : State) : exec (.capabilityRecord link record) s = execCapabilityRecord link record s := rfl
@[simp] theorem exec_profileChange (link : Fin 24) (partnerFull : Bool) (s : State) : exec (.profileChange link partnerFull) s = execProfileChange link partnerFull s := rfl
@[simp] theorem exec_axisRemapWrite (dimension : Fin 3) (value : BitVec 16) (s : State) : exec (.axisRemapWrite dimension value) s = execAxisRemapWrite dimension value s := rfl
@[simp] theorem exec_linkHoldWrite (link : Fin 24) (value : Byte) (s : State) : exec (.linkHoldWrite link value) s = execLinkHoldWrite link value s := rfl
@[simp] theorem exec_laneRetrainWrite (link : Fin 24) (lane : Fin 8) (value : Byte) (s : State) : exec (.laneRetrainWrite link lane value) s = execLaneRetrainWrite link lane value s := rfl
@[simp] theorem exec_suspectNotice (link : Fin 24) (notice : SuspectNotice) (s : State) : exec (.suspectNotice link notice) s = execSuspectNotice link notice s := rfl
@[simp] theorem exec_returnNotice (link : Fin 24) (package : Nat) (s : State) : exec (.returnNotice link package) s = execReturnNotice link package s := rfl
@[simp] theorem exec_departureNotice (link : Fin 24) (package : Nat) (s : State) : exec (.departureNotice link package) s = execDepartureNotice link package s := rfl
@[simp] theorem exec_departureLinkPark (s : State) : exec (.departureLinkPark) s = execDepartureLinkPark s := rfl
@[simp] theorem exec_collectiveGroupsWrite (pp : Fin 12) (data : Bytes) (s : State) : exec (.collectiveGroupsWrite pp data) s = execCollectiveGroupsWrite pp data s := rfl
@[simp] theorem exec_collPartial (pp : Fin 12) (header : CollHeader) (data : Bytes) (s : State) : exec (.collPartial pp header data) s = execCollPartial pp header data s := rfl
@[simp] theorem exec_collGather (pp : Fin 12) (header : CollHeader) (data : Bytes) (s : State) : exec (.collGather pp header data) s = execCollGather pp header data s := rfl
@[simp] theorem exec_collAbort (pp : Fin 12) (header : CollHeader) (s : State) : exec (.collAbort pp header) s = execCollAbort pp header s := rfl
@[simp] theorem exec_read (packet : Packet) (s : State) : exec (.read packet) s = execRead packet s := rfl
@[simp] theorem exec_write (packet : Packet) (s : State) : exec (.write packet) s = execWrite packet s := rfl
@[simp] theorem exec_atomic (packet : Packet) (s : State) : exec (.atomic packet) s = execAtomic packet s := rfl
@[simp] theorem exec_counterInc (packet : Packet) (s : State) : exec (.counterInc packet) s = execCounterInc packet s := rfl
@[simp] theorem exec_retire (packet : Packet) (s : State) : exec (.retire packet) s = execRetire packet s := rfl
@[simp] theorem exec_readData (packet : Packet) (s : State) : exec (.readData packet) s = execReadData packet s := rfl
@[simp] theorem exec_done (packet : Packet) (s : State) : exec (.done packet) s = execDone packet s := rfl
@[simp] theorem exec_atomicResult (packet : Packet) (s : State) : exec (.atomicResult packet) s = execAtomicResult packet s := rfl
@[simp] theorem exec_error (packet : Packet) (s : State) : exec (.error packet) s = execError packet s := rfl
@[simp] theorem exec_responseTimeout (dest tag : Nat) (s : State) : exec (.responseTimeout dest tag) s = execResponseTimeout dest tag s := rfl
@[simp] theorem exec_windowTableWrite (data : Bytes) (s : State) : exec (.windowTableWrite data) s = execWindowTableWrite data s := rfl
@[simp] theorem exec_hostFenceReset (mask : DWord) (s : State) : exec (.hostFenceReset mask) s = execHostFenceReset mask s := rfl
@[simp] theorem exec_asyncCopyComplete (slot : Fin 256) (status : Nat) (s : State) : exec (.asyncCopyComplete slot status) s = execAsyncCopyComplete slot status s := rfl
@[simp] theorem exec_ucieModuleDown (module : Fin 4) (s : State) : exec (.ucieModuleDown module) s = execUcieModuleDown module s := rfl
@[simp] theorem exec_ucieModuleRestored (module : Fin 4) (rate repaired : Nat) (s : State) : exec (.ucieModuleRestored module rate repaired) s = execUcieModuleRestored module rate repaired s := rfl
@[simp] theorem exec_hostDieLoss (s : State) : exec (.hostDieLoss) s = execHostDieLoss s := rfl
@[simp] theorem exec_hostRequest (packet : Packet) (s : State) : exec (.hostRequest packet) s = execHostRequest packet s := rfl
@[simp] theorem exec_sidebandFrame (payloads : Bytes) (s : State) : exec (.sidebandFrame payloads) s = execSidebandFrame payloads s := rfl
@[simp] theorem exec_eventRingAnnounce (s : State) : exec (.eventRingAnnounce) s = execEventRingAnnounce s := rfl
@[simp] theorem exec_eventConsumedStore (n : DWord) (s : State) : exec (.eventConsumedStore n) s = execEventConsumedStore n s := rfl
@[simp] theorem exec_mgmtLinkLoss (port : Fin 2) (s : State) : exec (.mgmtLinkLoss port) s = execMgmtLinkLoss port s := rfl
@[simp] theorem exec_cap (port : Fin 2) (message : RackMessage) (s : State) : exec (.cap port message) s = execCap port message s := rfl
@[simp] theorem exec_digest (port : Fin 2) (message : RackMessage) (s : State) : exec (.digest port message) s = execDigest port message s := rfl
@[simp] theorem exec_replica (port : Fin 2) (message : RackMessage) (s : State) : exec (.replica port message) s = execReplica port message s := rfl
@[simp] theorem exec_telemetryPeriod (s : State) : exec (.telemetryPeriod) s = execTelemetryPeriod s := rfl
@[simp] theorem exec_hello (transport : Fin 3) (client : Nat) (datagram : Bytes) (s : State) : exec (.hello transport client datagram) s = execHello transport client datagram s := rfl
@[simp] theorem exec_finish (session transport client sequence : Nat) (tagVerifies signaturesVerify : Bool) (s : State) : exec (.finish session transport client sequence tagVerifies signaturesVerify) s = execFinish session transport client sequence tagVerifies signaturesVerify s := rfl
@[simp] theorem exec_dapRead (request : DapRequest) (s : State) : exec (.dapRead request) s = execDapRead request s := rfl
@[simp] theorem exec_dapWrite (request : DapRequest) (s : State) : exec (.dapWrite request) s = execDapWrite request s := rfl
@[simp] theorem exec_readSegment (request : DapRequest) (s : State) : exec (.readSegment request) s = execReadSegment request s := rfl
@[simp] theorem exec_writeBegin (request : DapRequest) (s : State) : exec (.writeBegin request) s = execWriteBegin request s := rfl
@[simp] theorem exec_writeSegment (request : DapRequest) (s : State) : exec (.writeSegment request) s = execWriteSegment request s := rfl
@[simp] theorem exec_writeCommit (request : DapRequest) (s : State) : exec (.writeCommit request) s = execWriteCommit request s := rfl
@[simp] theorem exec_writeAbandon (request : DapRequest) (s : State) : exec (.writeAbandon request) s = execWriteAbandon request s := rfl
@[simp] theorem exec_domainWrite (request : DapRequest) (s : State) : exec (.domainWrite request) s = execDomainWrite request s := rfl
@[simp] theorem exec_readPending (request : DapRequest) (s : State) : exec (.readPending request) s = execReadPending request s := rfl
@[simp] theorem exec_describe (request : DapRequest) (s : State) : exec (.describe request) s = execDescribe request s := rfl
@[simp] theorem exec_next (request : DapRequest) (s : State) : exec (.next request) s = execNext request s := rfl
@[simp] theorem exec_keepalive (request : DapRequest) (s : State) : exec (.keepalive request) s = execKeepalive request s := rfl
@[simp] theorem exec_close (session transport client sequence : Nat) (tagVerifies : Bool) (s : State) : exec (.close session transport client sequence tagVerifies) s = execClose session transport client sequence tagVerifies s := rfl
@[simp] theorem exec_dapHandshakeTimeout (session : Nat) (s : State) : exec (.dapHandshakeTimeout session) s = execDapHandshakeTimeout session s := rfl
@[simp] theorem exec_sessionIdleTimeout (session : Nat) (s : State) : exec (.sessionIdleTimeout session) s = execSessionIdleTimeout session s := rfl
@[simp] theorem exec_transferIdleTimeout (session transfer : Nat) (s : State) : exec (.transferIdleTimeout session transfer) s = execTransferIdleTimeout session transfer s := rfl
@[simp] theorem exec_sessionCloseWrite (session : Word) (s : State) : exec (.sessionCloseWrite session) s = execSessionCloseWrite session s := rfl
@[simp] theorem exec_credentialsWrite (data : Bytes) (s : State) : exec (.credentialsWrite data) s = execCredentialsWrite data s := rfl
@[simp] theorem exec_partitionStart (pp : Fin 12) (s : State) : exec (.partitionStart pp) s = execPartitionStart pp s := rfl
@[simp] theorem exec_partitionStop (pp : Fin 12) (s : State) : exec (.partitionStop pp) s = execPartitionStop pp s := rfl
@[simp] theorem exec_partitionPause (pp : Fin 12) (s : State) : exec (.partitionPause pp) s = execPartitionPause pp s := rfl
@[simp] theorem exec_partitionResume (pp : Fin 12) (s : State) : exec (.partitionResume pp) s = execPartitionResume pp s := rfl
@[simp] theorem exec_partitionPreempt (pp : Fin 12) (s : State) : exec (.partitionPreempt pp) s = execPartitionPreempt pp s := rfl
@[simp] theorem exec_preemptSaveComplete (pp : Fin 12) (s : State) : exec (.preemptSaveComplete pp) s = execPreemptSaveComplete pp s := rfl
@[simp] theorem exec_partitionReset (pp : Fin 12) (s : State) : exec (.partitionReset pp) s = execPartitionReset pp s := rfl
@[simp] theorem exec_resetPhaseComplete (pp : Fin 12) (failures : List FailedUnit) (retireUnanswered : List Nat) (s : State) : exec (.resetPhaseComplete pp failures retireUnanswered) s = execResetPhaseComplete pp failures retireUnanswered s := rfl
@[simp] theorem exec_resetNoticeArrival (pp : Fin 12) (s : State) : exec (.resetNoticeArrival pp) s = execResetNoticeArrival pp s := rfl
@[simp] theorem exec_stepWatchdogExpiry (pp : Fin 12) (s : State) : exec (.stepWatchdogExpiry pp) s = execStepWatchdogExpiry pp s := rfl
@[simp] theorem exec_regulatorRefill (s : State) : exec (.regulatorRefill) s = execRegulatorRefill s := rfl
@[simp] theorem exec_regionMaskWrite (pp : Fin 12) (mask : BitVec 16) (s : State) : exec (.regionMaskWrite pp mask) s = execRegionMaskWrite pp mask s := rfl
@[simp] theorem exec_auditTileComputed (pp : Fin 12) (block : Fin 96) (descriptor tile : Nat) (fingerprint : Option Bytes) (s : State) : exec (.auditTileComputed pp block descriptor tile fingerprint) s = execAuditTileComputed pp block descriptor tile fingerprint s := rfl
@[simp] theorem exec_arbiterResult (pp : Fin 12) (block : Fin 96) (descriptor tile : Nat) (fingerprint : Option Bytes) (s : State) : exec (.arbiterResult pp block descriptor tile fingerprint) s = execArbiterResult pp block descriptor tile fingerprint s := rfl
@[simp] theorem exec_poisonNotice (pp : Fin 12) (record : PoisonRecord) (s : State) : exec (.poisonNotice pp record) s = execPoisonNotice pp record s := rfl
@[simp] theorem exec_auditReport (pp : Fin 12) (record : ReportRecord) (s : State) : exec (.auditReport pp record) s = execAuditReport pp record s := rfl
@[simp] theorem exec_recutComplete (pp : Fin 12) (package : Nat) (s : State) : exec (.recutComplete pp package) s = execRecutComplete pp package s := rfl
@[simp] theorem exec_digestTimeout (record : Fin 16) (round : Nat) (s : State) : exec (.digestTimeout record round) s = execDigestTimeout record round s := rfl
@[simp] theorem exec_drydownStart (causingUnit : Option FailedUnit) (s : State) : exec (.drydownStart causingUnit) s = execDrydownStart causingUnit s := rfl
@[simp] theorem exec_drydownStageComplete (s : State) : exec (.drydownStageComplete) s = execDrydownStageComplete s := rfl
@[simp] theorem exec_declareLostWrite (data : Bytes) (s : State) : exec (.declareLostWrite data) s = execDeclareLostWrite data s := rfl
@[simp] theorem exec_packageFlagClear (value : Byte) (s : State) : exec (.packageFlagClear value) s = execPackageFlagClear value s := rfl
@[simp] theorem exec_requalifyTimer (s : State) : exec (.requalifyTimer) s = execRequalifyTimer s := rfl
@[simp] theorem exec_powerOnStart (s : State) : exec (.powerOnStart) s = execPowerOnStart s := rfl
@[simp] theorem exec_startPhaseComplete (result : PhaseResult) (s : State) : exec (.startPhaseComplete result) s = execStartPhaseComplete result s := rfl
@[simp] theorem exec_ddrFillComplete (channel : Fin 16) (s : State) : exec (.ddrFillComplete channel) s = execDdrFillComplete channel s := rfl
@[simp] theorem exec_btRestart (value : Byte) (s : State) : exec (.btRestart value) s = execBtRestart value s := rfl
@[simp] theorem exec_defectRemove (index : BitVec 16) (s : State) : exec (.defectRemove index) s = execDefectRemove index s := rfl
@[simp] theorem exec_firmwareCommit (value : Byte) (verdict : FirmwareVerdict) (s : State) : exec (.firmwareCommit value verdict) s = execFirmwareCommit value verdict s := rfl
@[simp] theorem exec_licenceInstall (data : Bytes) (signaturesVerify : Bool) (s : State) : exec (.licenceInstall data signaturesVerify) s = execLicenceInstall data signaturesVerify s := rfl
@[simp] theorem exec_licenceRemove (index : Byte) (s : State) : exec (.licenceRemove index) s = execLicenceRemove index s := rfl
@[simp] theorem exec_licenceExpired (index : Nat) (s : State) : exec (.licenceExpired index) s = execLicenceExpired index s := rfl
@[simp] theorem exec_attestNonce (nonce : Bytes) (s : State) : exec (.attestNonce nonce) s = execAttestNonce nonce s := rfl
@[simp] theorem exec_rackKeyInstall (data : Bytes) (s : State) : exec (.rackKeyInstall data) s = execRackKeyInstall data s := rfl
@[simp] theorem exec_customerKeysWrite (data : Bytes) (s : State) : exec (.customerKeysWrite data) s = execCustomerKeysWrite data s := rfl
@[simp] theorem exec_refSyncFrame (tick : DWord) (s : State) : exec (.refSyncFrame tick) s = execRefSyncFrame tick s := rfl
@[simp] theorem exec_rackTick (pulse : Bool) (s : State) : exec (.rackTick pulse) s = execRackTick pulse s := rfl
@[simp] theorem exec_referenceLost (rclkStopped : Bool) (s : State) : exec (.referenceLost rclkStopped) s = execReferenceLost rclkStopped s := rfl
@[simp] theorem exec_refFrameWaitExpiry (s : State) : exec (.refFrameWaitExpiry) s = execRefFrameWaitExpiry s := rfl
@[simp] theorem exec_monitorSample (readings : MonitorReadings) (s : State) : exec (.monitorSample readings) s = execMonitorSample readings s := rfl
@[simp] theorem exec_ageingCheck (slowIslands : List Nat) (s : State) : exec (.ageingCheck slowIslands) s = execAgeingCheck slowIslands s := rfl
@[simp] theorem exec_slowRegulatorTick (projectedW : Nat) (s : State) : exec (.slowRegulatorTick projectedW) s = execSlowRegulatorTick projectedW s := rfl
@[simp] theorem exec_fastClamp (limit : Fin 6) (referenceW : Nat) (s : State) : exec (.fastClamp limit referenceW) s = execFastClamp limit referenceW s := rfl
@[simp] theorem exec_rackCapWrite (watts : Word) (s : State) : exec (.rackCapWrite watts) s = execRackCapWrite watts s := rfl
@[simp] theorem exec_capExpired (s : State) : exec (.capExpired) s = execCapExpired s := rfl
@[simp] theorem exec_powerResume (s : State) : exec (.powerResume) s = execPowerResume s := rfl
@[simp] theorem exec_sagWarning (s : State) : exec (.sagWarning) s = execSagWarning s := rfl
@[simp] theorem exec_sagCleared (s : State) : exec (.sagCleared) s = execSagCleared s := rfl
@[simp] theorem exec_sagReset (s : State) : exec (.sagReset) s = execSagReset s := rfl
@[simp] theorem exec_overvoltageReset (s : State) : exec (.overvoltageReset) s = execOvervoltageReset s := rfl
@[simp] theorem exec_droopStretch (island : Fin 14) (sixPercent : Bool) (s : State) : exec (.droopStretch island sixPercent) s = execDroopStretch island sixPercent s := rfl
@[simp] theorem exec_thermalThrottle (island : Fin 14) (hundredDegrees : Bool) (s : State) : exec (.thermalThrottle island hundredDegrees) s = execThermalThrottle island hundredDegrees s := rfl
@[simp] theorem exec_thermalTrip (s : State) : exec (.thermalTrip) s = execThermalTrip s := rfl
@[simp] theorem exec_pwrEnLow (s : State) : exec (.pwrEnLow) s = execPwrEnLow s := rfl
@[simp] theorem exec_pkgReset (s : State) : exec (.pkgReset) s = execPkgReset s := rfl
@[simp] theorem exec_flashTake (s : State) : exec (.flashTake) s = execFlashTake s := rfl
@[simp] theorem exec_pauseRequest (pp : Fin 12) (package : Nat) (withdraw : Bool) (s : State) : exec (.pauseRequest pp package withdraw) s = execPauseRequest pp package withdraw s := rfl
@[simp] theorem exec_mgmtPortUp (port : Fin 2) (fec : Fin 3) (s : State) : exec (.mgmtPortUp port fec) s = execMgmtPortUp port fec s := rfl
@[simp] theorem exec_droopRecovery (island : Fin 14) (s : State) : exec (.droopRecovery island) s = execDroopRecovery island s := rfl

end Sys2Proof.Machine
end

