-- ==== Sys2Proof/Laws/Step.lean ====
section
/-! SUPPORT. How a command's meaning ends, and what `finish` leaves as it is. -/

namespace Sys2Proof.Machine

@[simp] theorem powered_begun (s : State) : powered (begun s) = powered s.pkg := rfl

/-- A command's meaning on a powered package. -/
theorem onPkgF_powered (f : Pkg → Pkg) (s : State) (h : powered s.pkg = true) :
    onPkgF f s = .next { s with pkg := finish (f (begun s)) } := by
  simp [onPkgF, onPkg, h, begun]

/-- A meaning over the clock and the package, on a powered package. -/
theorem onClockF_powered (f : Clock → Pkg → Clock × Pkg) (s : State) (h : powered s.pkg = true) :
    onClockF f s = .next { s with clock := (f s.clock (begun s)).1, pkg := finish (f s.clock (begun s)).2 } := by
  simp [onClockF, onClock, h, begun]

/-- A command completes with every effect that its meaning's function shows. -/
theorem completes_of {i : Instr} {s : State} {f : Pkg → Pkg} {effect : Pkg → Prop} (h : powered s.pkg = true)
    (hx : exec i s = onPkgF f s) (he : effect (f (begun s))) : Completes i s effect :=
  ⟨f (begun s), he, by rw [hx, onPkgF_powered f s h]⟩

theorem settle_none (n : Nat) (p : Pkg) (h : p.ms.failed = []) : settle n p = p := by
  cases n with
  | zero => rfl
  | succ n => simp [settle, h]

theorem flushPackets_none (n : Nat) (p : Pkg) (h : p.tf.outgoing = []) : flushPackets n p = p := by
  cases n with
  | zero => rfl
  | succ n => simp [flushPackets, h]

theorem failServing_none (p : Pkg) (pp : Nat) (h : (part p pp).sc.writeFailed = none) : failServing p pp = p := by
  simp [failServing, h]

theorem failServing_all (l : List Nat) (p : Pkg) (h : ∀ pp ∈ l, (part p pp).sc.writeFailed = none) : l.foldl failServing p = p := by
  induction l with
  | nil => rfl
  | cons a l ih =>
    simp only [List.foldl_cons]
    rw [failServing_none p a (h a (by simp))]
    exact ih (fun pp hp => h pp (by simp [hp]))

@[simp] theorem rd_begun (s : State) (e : Entry) (sub : Nat) : rd (begun s) e sub = rd s.pkg e sub := rfl
@[simp] theorem rdAt_begun (s : State) (e : Entry) (u sub : Nat) : rdAt (begun s) e u sub = rdAt s.pkg e u sub := rfl
@[simp] theorem rdB_begun (s : State) (e : Entry) (sub : Nat) : rdB (begun s) e sub = rdB s.pkg e sub := rfl
@[simp] theorem part_begun (s : State) (pp : Nat) : part (begun s) pp = part s.pkg pp := rfl
@[simp] theorem begun_now (s : State) : (begun s).now = s.clock.ns := rfl

@[simp] theorem emit_last (p : Pkg) (x : Out) : (emit p x).out.getLast? = some x := by simp [emit]

end Sys2Proof.Machine
end

