-- ==== Sys2Proof/Laws/Records.lean ====
section
/-! SUPPORT. What recording fault history and logging a violation may change. -/

namespace Sys2Proof.Machine

/-- A fault-history record is appended and counted, or the full history is reported. -/
theorem recordHistory_cases (p : Pkg) (kind origin unit status step : Nat) :
    recordHistory p kind origin unit status step = raise0 p 0x120F
    ∨ ∃ h, recordHistory p kind origin unit status step
        = touch (wr (wroteFlash { p with flash := { p.flash with history := h } } areaHistory) Ix.ruHistoryCount 0 h.length) Ix.ruHistory 0 := by
  unfold recordHistory
  dsimp only
  split
  · exact .inl rfl
  · exact .inr ⟨_, rfl⟩

/-- Any part of the package but flash, the dictionary and what events touch is as it was. -/
theorem recordHistory_tp (p : Pkg) (k o u s n : Nat) : (recordHistory p k o u s n).tp = p.tp := by
  rcases recordHistory_cases p k o u s n with h | ⟨l, h⟩
  · rw [h]; exact (raise0_keeps _ _).tp
  · rw [h]; rfl

theorem recordHistory_parts (p : Pkg) (k o u s n : Nat) : (recordHistory p k o u s n).parts = p.parts := by
  rcases recordHistory_cases p k o u s n with h | ⟨l, h⟩
  · rw [h]; exact (raise0_keeps _ _).parts
  · rw [h]; rfl

theorem recordHistory_mem (p : Pkg) (k o u s n : Nat) : (recordHistory p k o u s n).mem = p.mem := by
  rcases recordHistory_cases p k o u s n with h | ⟨l, h⟩
  · rw [h]; exact (raise0_keeps _ _).mem
  · rw [h]; rfl

theorem recordHistory_rdAt (p : Pkg) (k o u s n : Nat) (e : Entry) (i sub : Nat) (hc : commsKey (keyAt e i sub) = false)
    (hk : keyAt e i sub ≠ keyAt Ix.ruHistoryCount 0 0) : rdAt (recordHistory p k o u s n) e i sub = rdAt p e i sub := by
  rcases recordHistory_cases p k o u s n with h | ⟨l, h⟩
  · rw [h]; exact (raise0_keeps _ _).rdAt _ _ _ hc
  · rw [h]; exact rdAt_wrAt_ne _ _ hk

/-- A violation entry changes the log, its head and its generation, and what its event touches. -/
theorem logViolation_rdAt (p : Pkg) (kind port partner status step : Nat) (header : Bytes) (e : Entry) (i sub : Nat)
    (hc : commsKey (keyAt e i sub) = false) (hk : keyAt e i sub ≠ keyAt Ix.msViolationHead 0 0)
    (hl : keyAt e i sub ≠ keyAt Ix.msLastStatus 0 0) :
    rdAt (logViolation p kind port partner status step header) e i sub = rdAt p e i sub := by
  unfold logViolation
  dsimp only
  have step1 : ∀ q : Pkg, rdAt (raiseAs (touch (bump q Ix.msViolationHead 0 1) Ix.msViolationLog 0) Ix.msLastStatus 0 0x0E10 0xFF 0xFFFFFFFF 0) e i sub = rdAt q e i sub := by
    intro q
    rw [raiseAs, (raise_keeps _ _ _ _ _).rdAt _ _ _ hc]
    exact (rdAt_wrAt_ne _ _ hl).trans (rdAt_wrAt_ne _ _ hk)
  split
  · split
    · rfl
    · rw [step1]; rfl
  · rw [step1]; rfl

theorem logViolation_parts (p : Pkg) (kind port partner status step : Nat) (header : Bytes) :
    (logViolation p kind port partner status step header).parts = p.parts := by
  unfold logViolation
  dsimp only
  split
  · split
    · rfl
    · rw [raiseAs, (raise_keeps _ _ _ _ _).parts]; rfl
  · rw [raiseAs, (raise_keeps _ _ _ _ _).parts]; rfl

theorem logViolation_mem (p : Pkg) (kind port partner status step : Nat) (header : Bytes) :
    (logViolation p kind port partner status step header).mem = p.mem := by
  unfold logViolation
  dsimp only
  split
  · split
    · rfl
    · rw [raiseAs, (raise_keeps _ _ _ _ _).mem]; rfl
  · rw [raiseAs, (raise_keeps _ _ _ _ _).mem]; rfl

end Sys2Proof.Machine
end

