-- ==== Sys2Proof/Laws/Faults.lean ====
section
/-! SUPPORT. What stopping blocks, fencing a region and beginning a partition reset leave and set. -/

namespace Sys2Proof.Machine

theorem commsKey_far {e : Entry} {u sub : Nat} (h : keyAt e u sub < 0x581000 ∨ 0x5C1700 < keyAt e u sub) : commsKey (keyAt e u sub) = false := by
  simp only [commsKey, Bool.or_eq_false_iff, beq_eq_false_iff_ne]
  omega

/-- Entries that stopping or idling a block writes: 0x2010, 0x2017, 0x6010, 0x2013 and 0x2001. -/
def blockKey (k : Nat) : Bool :=
  [Ix.blockState.index, Ix.blockBusyAclk.index, Ix.pcEngineNs.index, Ix.blockLastStatus.index, Ix.regionLastStatus.index].contains (k / 256)

/-- What stopping or idling blocks leaves as it was: everything but the blocks' own state and those entries. -/
structure BlockFrame (p q : Pkg) : Prop where
  tp : { q.tp with blocks := p.tp.blocks } = p.tp
  rest : { q with tp := p.tp, dict := p.dict } = p
  dict : { q.dict with vals := p.dict.vals } = p.dict
  vals : ∀ k, blockKey k = false → tfind q.dict.vals k = tfind p.dict.vals k

theorem BlockFrame.rfl (p : Pkg) : BlockFrame p p := ⟨by rfl, by rfl, by rfl, fun _ _ => by rfl⟩

theorem BlockFrame.trans {p q r : Pkg} (h : BlockFrame p q) (g : BlockFrame q r) : BlockFrame p r where
  tp := by rw [← h.tp, ← g.tp]
  rest := by rw [← h.rest, ← g.rest]
  dict := by rw [← h.dict, ← g.dict]
  vals := fun k hk => (g.vals k hk).trans (h.vals k hk)

theorem modBlk_frame (p : Pkg) (b : Nat) (f : Blk → Blk) : BlockFrame p (modBlk p b f) := ⟨by rfl, by rfl, by rfl, fun _ _ => by rfl⟩

theorem wr_frame (p : Pkg) (e : Entry) (sub v : Nat) (h : blockKey (keyAt e 0 sub) = true) : BlockFrame p (wr p e sub v) where
  tp := by rfl
  rest := by rfl
  dict := by rfl
  vals := fun k hk => by
    have : k ≠ keyAt e 0 sub := by rintro rfl; simp [h] at hk
    simp [wr, wrAt, tfind_tput_ne _ _ this]

theorem blockKey_of {e : Entry} {sub : Nat} (hs : sub < 256)
    (h : [Ix.blockState.index, Ix.blockBusyAclk.index, Ix.pcEngineNs.index, Ix.blockLastStatus.index, Ix.regionLastStatus.index].contains e.index = true) :
    blockKey (keyAt e 0 sub) = true := by
  have : keyAt e 0 sub / 256 = e.index := by simp only [keyAt]; omega
  simp only [blockKey, this, h]

theorem partOfBlock_lt {p : Pkg} {b pp : Nat} (h : partOfBlock p b = some pp) : pp < 12 := by
  have := List.mem_of_find?_eq_some h
  simpa using this

theorem showBlock_frame (p : Pkg) {b : Nat} (hb : b < 96) : BlockFrame p (showBlock p b) := wr_frame _ _ _ _ (blockKey_of (by omega) (by decide))

theorem hostOf_lt {p : Pkg} {b h : Nat} (hb : b < 96) (hh : hostOf p b = some h) : h < 96 := by
  unfold hostOf at hh
  dsimp only at hh
  split at hh
  · cases hh; omega
  · cases hh

theorem setAct_frame (p : Pkg) {b : Nat} (hb : b < 96) (st : Nat) : BlockFrame p (setAct p b st) := by
  unfold setAct
  dsimp only
  split
  · exact modBlk_frame _ _ _
  · rename_i h hh
    have hl := hostOf_lt hb hh
    split
    · exact (modBlk_frame _ _ _).trans (showBlock_frame _ hb)
    · exact ((modBlk_frame _ _ _).trans (showBlock_frame _ hb)).trans (showBlock_frame _ hl)

theorem countBusy_frame (p : Pkg) {b : Nat} (hb : b < 96) : BlockFrame p (countBusy p b) := by
  unfold countBusy
  split
  · exact BlockFrame.rfl _
  · dsimp only
    have h1 : ∀ f n, BlockFrame p (bump (modBlk p b f) Ix.blockBusyAclk b n) :=
      fun f n => (modBlk_frame _ _ _).trans (wr_frame _ _ _ _ (blockKey_of (by omega) (by decide)))
    split
    · rename_i pp hp
      have := partOfBlock_lt hp
      exact (h1 _ _).trans (wr_frame _ _ _ _ (blockKey_of (by omega) (by decide)))
    · exact h1 _ _

theorem stopBlock_frame (p : Pkg) {b : Nat} (hb : b < 96) (st : Nat) : BlockFrame p (stopBlock p b st) :=
  ((((countBusy_frame p hb).trans (setAct_frame _ hb _)).trans (modBlk_frame _ _ _)).trans
    (wr_frame _ _ _ _ (blockKey_of (by omega) (by decide)))).trans (wr_frame _ _ _ _ (blockKey_of (by omega) (by decide)))

theorem idleBlock_frame (p : Pkg) {b : Nat} (hb : b < 96) : BlockFrame p (idleBlock p b) := by
  unfold idleBlock
  dsimp only
  refine BlockFrame.trans ?_ (modBlk_frame _ _ _)
  split
  · exact countBusy_frame p hb
  · exact (countBusy_frame p hb).trans (setAct_frame _ hb _)

theorem fold_frame {f : Pkg → Nat → Pkg} (hf : ∀ p {b : Nat}, b < 96 → BlockFrame p (f p b)) (l : List Nat) (hl : ∀ b ∈ l, b < 96) (p : Pkg) :
    BlockFrame p (l.foldl f p) := by
  induction l generalizing p with
  | nil => exact BlockFrame.rfl _
  | cons a l ih => exact (hf p (hl a (by simp))).trans (ih (fun b hb => hl b (by simp [hb])) _)

theorem BlockFrame.fenced {p q : Pkg} (h : BlockFrame p q) : q.tp.fenced = p.tp.fenced := by
  have := congrArg Tp.fenced h.tp; exact this

theorem BlockFrame.parts {p q : Pkg} (h : BlockFrame p q) : q.parts = p.parts := by
  have := congrArg Pkg.parts h.rest; exact this

theorem BlockFrame.mem {p q : Pkg} (h : BlockFrame p q) : q.mem = p.mem := by
  have := congrArg Pkg.mem h.rest; exact this

theorem blockKey_false {e : Entry} {sub : Nat} (hs : sub < 256) (h1 : e.index ≠ Ix.blockState.index) (h2 : e.index ≠ Ix.blockBusyAclk.index)
    (h3 : e.index ≠ Ix.pcEngineNs.index) (h4 : e.index ≠ Ix.blockLastStatus.index) (h5 : e.index ≠ Ix.regionLastStatus.index) :
    blockKey (keyAt e 0 sub) = false := by
  have : keyAt e 0 sub / 256 = e.index := by simp only [keyAt]; omega
  simp only [blockKey, this]
  simp_all

/-- Every other entry reads as before. -/
theorem BlockFrame.rd {p q : Pkg} (h : BlockFrame p q) (e : Entry) (sub : Nat) (hk : blockKey (keyAt e 0 sub) = false) :
    Machine.rd q e sub = Machine.rd p e sub := by
  simp [Machine.rd, rdAt, h.vals _ hk]

theorem blocksOf_lt (p : Pkg) (pp : Nat) : ∀ b ∈ blocksOf p pp, b < 96 := by
  intro b hb
  simp only [blocksOf, regionsOf, blocksOfRegion, List.mem_flatMap, List.mem_filter, List.mem_range, List.mem_map] at hb
  obtain ⟨r, ⟨hr, -⟩, a, ha, rfl⟩ := hb
  omega

theorem idle_fold (p : Pkg) (pp : Nat) (q : Pkg) : BlockFrame q ((blocksOf p pp).foldl idleBlock q) :=
  fold_frame (fun p _ hb => idleBlock_frame p hb) _ (blocksOf_lt p pp) _

theorem emits_keep {α : Type} (g : Pkg → α) (hg : ∀ p x, g (emit p x) = g p) (l : List Nat) (f : Nat → Out) (p : Pkg) :
    g (l.foldl (fun p m => emit p (f m)) p) = g p := by
  induction l generalizing p with
  | nil => rfl
  | cons a l ih => simp only [List.foldl_cons]; rw [ih, hg]

theorem stopPasses_fenced (p : Pkg) (pp : Nat) : (stopPasses p pp).tp.fenced = p.tp.fenced := by
  show ((blocksOf p pp).foldl idleBlock p).tp.fenced = _
  exact (idle_fold _ _ _).fenced

theorem beginReset_fenced (p : Pkg) (pp st : Nat) (n : Bool) : (beginReset p pp st n).tp.fenced = p.tp.fenced := by
  unfold beginReset
  dsimp only
  split
  · rfl
  · have key : ∀ q : Pkg, q.tp.fenced = p.tp.fenced → ∀ f g, (bump (setPcState (modPc (stopPasses q pp) f g) pp 6) Ix.pcResets pp 1).tp.fenced = p.tp.fenced := by
      intro q hq f g
      show (stopPasses q pp).tp.fenced = _
      rw [stopPasses_fenced, hq]
    have h1 : (if pcState p pp = 4 ∨ pcState p pp = 5 then discardSaved p pp else p).tp.fenced = p.tp.fenced := by
      split
      · exact (idle_fold _ _ _).fenced
      · rfl
    have h2 : ∀ q : Pkg, q.tp.fenced = p.tp.fenced → (if st = 0 then q else last q Ix.pcLastStatus pp st).tp.fenced = p.tp.fenced := by
      intro q h; split
      · exact h
      · exact h
    split
    · rw [emits_keep (fun p => p.tp.fenced) (by intros; rfl)]
      exact key _ (h2 _ h1) _ _
    · exact key _ (h2 _ h1) _ _

theorem beginReset_state (p : Pkg) (pp st : Nat) (n : Bool) (hpp : pp < 12) : pcState (beginReset p pp st n) pp = 6 := by
  unfold beginReset
  dsimp only
  split
  · assumption
  · have key : ∀ q : Pkg, pcState (bump (setPcState q pp 6) Ix.pcResets pp 1) pp = 6 := by
      intro q
      unfold pcState
      rw [rd_bump_ne _ _ (by decide) (by omega) (by omega)]
      simp [setPcState, Ix.pcState, EType.width]
    split
    · rw [emits_keep (fun p => pcState p pp) (by intros; rfl)]; exact key _
    · exact key _

theorem stop_frame (l : List Nat) (hl : ∀ b ∈ l, b < 96) (p : Pkg) (st : Nat) : BlockFrame p (l.foldl (fun p b => stopBlock p b st) p) :=
  fold_frame (fun p _ hb => stopBlock_frame p hb st) l hl p

theorem recordHistory_rd (p : Pkg) (k o u s n : Nat) (e : Entry) (sub : Nat) (hs : sub < 256) (h : e.index < 0x5800 ∨ 0x5D00 ≤ e.index)
    (h2 : e.index ≠ Ix.ruHistoryCount.index) : rd (recordHistory p k o u s n) e sub = rd p e sub :=
  recordHistory_rdAt _ _ _ _ _ _ _ _ _ (commsKey_far (by simp [keyAt]; omega)) (keyAt_ne h2 hs (by omega))

theorem blocksOfRegion_lt (r : Fin 12) : ∀ b ∈ blocksOfRegion r, b < 96 := by
  intro b hb
  simp [blocksOfRegion] at hb
  obtain ⟨a, ha, rfl⟩ := hb
  have := r.isLt
  omega

theorem find_congr {α : Type} (l : List α) (f g : α → Bool) (h : ∀ x ∈ l, f x = g x) : l.find? f = l.find? g := by
  induction l with
  | nil => rfl
  | cons a l ih => simp only [List.find?_cons, h a (by simp)]; rw [ih (fun x hx => h x (by simp [hx]))]

theorem partOfRegion_lt {p : Pkg} {r pp : Nat} (h : partOfRegion p r = some pp) : pp < 12 := by
  have := List.mem_of_find?_eq_some h
  simpa using this

theorem stopBlock_last (p : Pkg) (b st : Nat) (hb : b < 256) : rd (stopBlock p b st) Ix.blockLastStatus b = st % 2 ^ 16 := by
  unfold stopBlock; dsimp only
  rw [rd_wr_ne _ _ (by decide) (by omega) (by omega)]
  simp [Ix.blockLastStatus, EType.width]

/-- A block that stops has no pass left, and its program stands in state 3. -/
theorem stopBlock_blk (p : Pkg) (b st : Nat) : (blk (stopBlock p b st) b).passes = [] ∧ (blk (stopBlock p b st) b).act = 3 := by
  have h : ∀ q : Pkg, (blk (setAct q b 3) b).act = 3 := by
    intro q
    have hm : (blk (modBlk q b (fun k => { k with act := 3 })) b).act = 3 := by simp [blk, modBlk]
    unfold setAct
    dsimp only
    split
    · exact hm
    · split
      · exact hm
      · exact hm
  unfold stopBlock
  dsimp only
  have e : ∀ (q : Pkg) (f : Blk → Blk) a c x y, blk (wr (wr (modBlk q b f) a c x) Ix.regionLastStatus (b / 8) y) b = f (blk q b) := by
    intro q f a c x y
    show tget (tmod q.tp.blocks b {} f) b {} = _
    simp [blk]
  rw [e]
  exact ⟨by rfl, h _⟩

theorem partOfRegion_congr {p q : Pkg} (r : Nat) (h : ∀ pp < 12, rd q Ix.pcRegionMask pp = rd p Ix.pcRegionMask pp) : partOfRegion q r = partOfRegion p r := by
  unfold partOfRegion
  refine find_congr _ _ _ (fun pp hh => ?_)
  rw [h pp (by simpa using hh)]

theorem sendReport_reported (p : Pkg) (pp : Nat) (r : ReportRecord) : (part (sendReport p pp r) pp).ru.reported = (part p pp).ru.reported := by
  unfold sendReport
  split
  · simp [modRu]
  · rfl

end Sys2Proof.Machine
end

