-- ==== Sys2Proof/Laws/Answers.lean ====
section
/-! SUPPORT. What changes of one unit's state leave, and what a response to the host or to another package shows and leaves. -/

namespace Sys2Proof.Machine

variable (p : Pkg) (pp : Nat)

@[simp] theorem part_modAk (f : AkPart → AkPart) : part (modAk p pp f) pp = { part p pp with ak := f (part p pp).ak } := by simp [modAk]
@[simp] theorem part_modEr (f : ErPart → ErPart) : part (modEr p pp f) pp = { part p pp with er := f (part p pp).er } := by simp [modEr]
@[simp] theorem part_modSv (f : SvPart → SvPart) : part (modSv p pp f) pp = { part p pp with sv := f (part p pp).sv } := by simp [modSv]
@[simp] theorem part_modSc (f : ScPart → ScPart) : part (modSc p pp f) pp = { part p pp with sc := f (part p pp).sc } := by simp [modSc]
@[simp] theorem part_modSe (f : SePart → SePart) : part (modSe p pp f) pp = { part p pp with se := f (part p pp).se } := by simp [modSe]
@[simp] theorem part_modPc (f : PcPart → PcPart) : part (modPc p pp f) pp = { part p pp with pc := f (part p pp).pc } := by simp [modPc]
@[simp] theorem part_modRu (f : RuPart → RuPart) : part (modRu p pp f) pp = { part p pp with ru := f (part p pp).ru } := by simp [modRu]

@[simp] theorem part_touch (e : Entry) (sub : Nat) : part (touch p e sub) pp = part p pp := rfl
@[simp] theorem rd_modSc (f : ScPart → ScPart) (e : Entry) (sub : Nat) : rd (modSc p pp f) e sub = rd p e sub := rfl
@[simp] theorem rd_modSe (f : SePart → SePart) (e : Entry) (sub : Nat) : rd (modSe p pp f) e sub = rd p e sub := rfl
@[simp] theorem rd_modAk (f : AkPart → AkPart) (e : Entry) (sub : Nat) : rd (modAk p pp f) e sub = rd p e sub := rfl
@[simp] theorem rd_modEr (f : ErPart → ErPart) (e : Entry) (sub : Nat) : rd (modEr p pp f) e sub = rd p e sub := rfl
@[simp] theorem rd_modSv (f : SvPart → SvPart) (e : Entry) (sub : Nat) : rd (modSv p pp f) e sub = rd p e sub := rfl

variable {p pp}

/-- A response to the host is the last thing sent. -/
theorem respond_last (k : Packet) (type status : Nat) (data : Bytes) :
    ∃ x : Packet, (respond p true k type status data).out.getLast? = some (.packet x) ∧ x.type = type ∧ x.status = status ∧ x.data = data
      ∧ x.dest = k.src ∧ x.tag = k.tag ∧ x.tseq = k.tseq := by
  unfold respond launch emit
  rw [if_pos rfl]
  exact ⟨_, List.getLast?_concat, rfl, rfl, rfl, rfl, rfl, rfl⟩

@[simp] theorem noteMs_parts (p : Pkg) (st : Nat) : (noteMs p st).parts = p.parts := by unfold noteMs; split <;> rfl
@[simp] theorem noteMs_mem (p : Pkg) (st : Nat) : (noteMs p st).mem = p.mem := by unfold noteMs; split <;> rfl

/-- Noting a status changes `ms_last_status` alone. -/
theorem noteMs_vals (p : Pkg) (st : Nat) {k : Nat} (h : k ≠ keyAt Ix.msLastStatus 0 0) : tfind (noteMs p st).dict.vals k = tfind p.dict.vals k := by
  unfold noteMs
  split
  · exact tfind_tput_ne _ _ h
  · rfl

theorem respond_rd (b : Bool) (k : Packet) (type status : Nat) (data : Bytes) (e : Entry) (sub : Nat) (h : keyAt e 0 sub ≠ keyAt Ix.msErrorsSent 0 0)
    (hl : keyAt e 0 sub ≠ keyAt Ix.msLastStatus 0 0) : rd (respond p b k type status data) e sub = rd p e sub := by
  unfold respond
  dsimp only
  rw [rd_launch]
  split
  · exact (by simp only [rd, rdAt, noteMs_vals _ _ hl] : rd (noteMs (bump p Ix.msErrorsSent 0 1) status) e sub = rd (bump p Ix.msErrorsSent 0 1) e sub).trans
      (rdAt_wrAt_ne _ _ h)
  · rfl

theorem respond_rdB (b : Bool) (k : Packet) (type status : Nat) (data : Bytes) (e : Entry) (sub : Nat) (h : keyAt e 0 sub ≠ keyAt Ix.msErrorsSent 0 0)
    (hl : keyAt e 0 sub ≠ keyAt Ix.msLastStatus 0 0) : rdB (respond p b k type status data) e sub = rdB p e sub := by
  unfold respond
  dsimp only
  rw [rdB_of_dict (launch_dict _ _ _)]
  split
  · simp [rdB, noteMs_vals _ _ hl, bump, bumpAt, wrAt, tfind_tput_ne _ _ h]
  · rfl

@[simp] theorem respond_parts (b : Bool) (k : Packet) (type status : Nat) (data : Bytes) : (respond p b k type status data).parts = p.parts := by
  unfold respond; dsimp only; split <;> simp

@[simp] theorem respond_mem (b : Bool) (k : Packet) (type status : Nat) (data : Bytes) : (respond p b k type status data).mem = p.mem := by
  unfold respond; dsimp only; split <;> simp

@[simp] theorem respond_part (b : Bool) (k : Packet) (type status : Nat) (data : Bytes) (pp : Nat) :
    part (respond p b k type status data) pp = part p pp := part_of_parts (respond_parts _ _ _ _ _) pp

@[simp] theorem registerAnswer_parts (r : Pkg × Nat) (type : Nat) (data : Bytes) : (registerAnswer r type data).parts = r.1.parts := by
  unfold registerAnswer respondError; split <;> simp

@[simp] theorem registerAnswer_mem (r : Pkg × Nat) (type : Nat) (data : Bytes) : (registerAnswer r type data).mem = r.1.mem := by
  unfold registerAnswer respondError; split <;> simp

@[simp] theorem registerAnswer_part (r : Pkg × Nat) (type : Nat) (data : Bytes) (pp : Nat) : part (registerAnswer r type data) pp = part r.1 pp :=
  part_of_parts (registerAnswer_parts _ _ _) pp

theorem registerAnswer_rd (r : Pkg × Nat) (type : Nat) (data : Bytes) (e : Entry) (sub : Nat) (h : keyAt e 0 sub ≠ keyAt Ix.msErrorsSent 0 0)
    (hl : keyAt e 0 sub ≠ keyAt Ix.msLastStatus 0 0) : rd (registerAnswer r type data) e sub = rd r.1 e sub := by
  unfold registerAnswer respondError; split <;> exact respond_rd _ _ _ _ _ _ _ h hl

theorem registerAnswer_ok (p : Pkg) (type : Nat) (data : Bytes) :
    ∃ x : Packet, (registerAnswer (p, 0) type data).out.getLast? = some (.packet x) ∧ x.type = type ∧ x.data = data := by
  obtain ⟨x, h, a, _, c, _⟩ := respond_last (p := p) { src := ownId p } type 0 data
  exact ⟨x, by simpa [registerAnswer] using h, a, c⟩

theorem registerAnswer_error (p : Pkg) (st type : Nat) (data : Bytes) (h : st ≠ 0) :
    ∃ x : Packet, (registerAnswer (p, st) type data).out.getLast? = some (.packet x) ∧ x.type = 0x43 ∧ x.status = st := by
  obtain ⟨x, hx, a, b, _⟩ := respond_last (p := p) { src := ownId p } 0x43 st []
  exact ⟨x, by simpa [registerAnswer, h, respondError] using hx, a, b⟩

end Sys2Proof.Machine
end

