-- ==== Sys2Proof/Laws/Forms.lean ====
section
/-! SUPPORT. Every arm of `exec` is a function of the package, or of the clock and the package, ended by `finish`; the first start of a package stands alone. -/

namespace Sys2Proof.Machine

theorem form_stepBoundary (pp : Fin 12) (s : State) : ∃ f, exec (.stepBoundary pp) s = onPkgF f s := by rw [exec_stepBoundary, execStepBoundary]; exact ⟨_, rfl⟩
theorem form_stepNoticeArrival (pp : Fin 12) (notice : StepNotice) (s : State) : ∃ f, exec (.stepNoticeArrival pp notice) s = onPkgF f s := by rw [exec_stepNoticeArrival, execStepNoticeArrival]; exact ⟨_, rfl⟩
theorem form_descriptorReadComplete (block : Fin 96) (readOk : Bool) (s : State) : ∃ f, exec (.descriptorReadComplete block readOk) s = onPkgF f s := by rw [exec_descriptorReadComplete, execDescriptorReadComplete]; exact ⟨_, rfl⟩
theorem form_passWaitsMet (block : Fin 96) (s : State) : ∃ f, exec (.passWaitsMet block) s = onPkgF f s := by rw [exec_passWaitsMet, execPassWaitsMet]; exact ⟨_, rfl⟩
theorem form_passComplete (block : Fin 96) (s : State) : ∃ f, exec (.passComplete block) s = onPkgF f s := by rw [exec_passComplete, execPassComplete]; exact ⟨_, rfl⟩
theorem form_badOperandWord (block : Fin 96) (sramUncorrectable : Bool) (completion : Nat) (address : Nat) (s : State) : ∃ f, exec (.badOperandWord block sramUncorrectable completion address) s = onPkgF f s := by rw [exec_badOperandWord, execBadOperandWord]; exact ⟨_, rfl⟩
theorem form_cellCorrectedError (cell : Fin 768) (s : State) : ∃ f, exec (.cellCorrectedError cell) s = onPkgF f s := by rw [exec_cellCorrectedError, execCellCorrectedError]; exact ⟨_, rfl⟩
theorem form_cellUncorrectable (cell : Fin 768) (s : State) : ∃ f, exec (.cellUncorrectable cell) s = onPkgF f s := by rw [exec_cellUncorrectable, execCellUncorrectable]; exact ⟨_, rfl⟩
theorem form_cellResetComplete (cell : Fin 768) (s : State) : ∃ f, exec (.cellResetComplete cell) s = onPkgF f s := by rw [exec_cellResetComplete, execCellResetComplete]; exact ⟨_, rfl⟩
theorem form_stageFault (block : Fin 96) (tile : Nat) (s : State) : ∃ f, exec (.stageFault block tile) s = onPkgF f s := by rw [exec_stageFault, execStageFault]; exact ⟨_, rfl⟩
theorem form_handshakeTimeout (region : Fin 12) (s : State) : ∃ f, exec (.handshakeTimeout region) s = onPkgF f s := by rw [exec_handshakeTimeout, execHandshakeTimeout]; exact ⟨_, rfl⟩
theorem form_regionControlFault (region : Fin 12) (s : State) : ∃ f, exec (.regionControlFault region) s = onPkgF f s := by rw [exec_regionControlFault, execRegionControlFault]; exact ⟨_, rfl⟩
theorem form_markGapExceeded (block : Fin 96) (s : State) : ∃ f, exec (.markGapExceeded block) s = onPkgF f s := by rw [exec_markGapExceeded, execMarkGapExceeded]; exact ⟨_, rfl⟩
theorem form_cellHideWrite (region : Fin 12) (cell : Fin 64) (value : Byte) (s : State) : ∃ f, exec (.cellHideWrite region cell value) s = onPkgF f s := by rw [exec_cellHideWrite, execCellHideWrite]; exact ⟨_, rfl⟩
theorem form_countersClear (index : BitVec 16) (value : Byte) (s : State) : ∃ f, exec (.countersClear index value) s = onPkgF f s := by rw [exec_countersClear, execCountersClear]; exact ⟨_, rfl⟩
theorem form_recipeOverrideWrite (pp : Fin 12) (data : Bytes) (s : State) : ∃ f, exec (.recipeOverrideWrite pp data) s = onPkgF f s := by rw [exec_recipeOverrideWrite, execRecipeOverrideWrite]; exact ⟨_, rfl⟩
theorem form_layerTableWrite (pp : Fin 12) (data : Bytes) (s : State) : ∃ f, exec (.layerTableWrite pp data) s = onPkgF f s := by rw [exec_layerTableWrite, execLayerTableWrite]; exact ⟨_, rfl⟩
theorem form_routerLayerTableWrite (pp : Fin 12) (data : Bytes) (s : State) : ∃ f, exec (.routerLayerTableWrite pp data) s = onPkgF f s := by rw [exec_routerLayerTableWrite, execRouterLayerTableWrite]; exact ⟨_, rfl⟩
theorem form_dispatchedRowArrival (pp : Fin 12) (row : DispatchedRow) (s : State) : ∃ f, exec (.dispatchedRowArrival pp row) s = onPkgF f s := by rw [exec_dispatchedRowArrival, execDispatchedRowArrival]; exact ⟨_, rfl⟩
theorem form_endNoticeArrival (pp : Fin 12) (notice : EndNotice) (s : State) : ∃ f, exec (.endNoticeArrival pp notice) s = onPkgF f s := by rw [exec_endNoticeArrival, execEndNoticeArrival]; exact ⟨_, rfl⟩
theorem form_intakeCounterAdd (pp : Fin 12) (n : DWord) (s : State) : ∃ f, exec (.intakeCounterAdd pp n) s = onPkgF f s := by rw [exec_intakeCounterAdd, execIntakeCounterAdd]; exact ⟨_, rfl⟩
theorem form_intakeReset (pp : Fin 12) (value : Byte) (s : State) : ∃ f, exec (.intakeReset pp value) s = onPkgF f s := by rw [exec_intakeReset, execIntakeReset]; exact ⟨_, rfl⟩
theorem form_cancelWord (pp : Fin 12) (word : DWord) (s : State) : ∃ f, exec (.cancelWord pp word) s = onPkgF f s := by rw [exec_cancelWord, execCancelWord]; exact ⟨_, rfl⟩
theorem form_cancelNoticeArrival (pp : Fin 12) (step : Nat) (genRows preRows : List Nat) (s : State) : ∃ f, exec (.cancelNoticeArrival pp step genRows preRows) s = onPkgF f s := by rw [exec_cancelNoticeArrival, execCancelNoticeArrival]; exact ⟨_, rfl⟩
theorem form_completionConsumedStore (pp : Fin 12) (n : DWord) (s : State) : ∃ f, exec (.completionConsumedStore pp n) s = onPkgF f s := by rw [exec_completionConsumedStore, execCompletionConsumedStore]; exact ⟨_, rfl⟩
theorem form_tokenRecordForward (pp : Fin 12) (package : Nat) (record : Bytes) (s : State) : ∃ f, exec (.tokenRecordForward pp package record) s = onPkgF f s := by rw [exec_tokenRecordForward, execTokenRecordForward]; exact ⟨_, rfl⟩
theorem form_samplerCountArrival (pp : Fin 12) (package step count : Nat) (s : State) : ∃ f, exec (.samplerCountArrival pp package step count) s = onPkgF f s := by rw [exec_samplerCountArrival, execSamplerCountArrival]; exact ⟨_, rfl⟩
theorem form_lengthTableArrival (pp : Fin 12) (engine : Fin 2) (step : Nat) (table tokens : Bytes) (s : State) : ∃ f, exec (.lengthTableArrival pp engine step table tokens) s = onPkgF f s := by rw [exec_lengthTableArrival, execLengthTableArrival]; exact ⟨_, rfl⟩
theorem form_tenantTableWrite (pp : Fin 12) (data : Bytes) (s : State) : ∃ f, exec (.tenantTableWrite pp data) s = onPkgF f s := by rw [exec_tenantTableWrite, execTenantTableWrite]; exact ⟨_, rfl⟩
theorem form_engineConfigsWrite (pp : Fin 12) (data : Bytes) (s : State) : ∃ f, exec (.engineConfigsWrite pp data) s = onPkgF f s := by rw [exec_engineConfigsWrite, execEngineConfigsWrite]; exact ⟨_, rfl⟩
theorem form_hostWriteRetry (pp : Fin 12) (s : State) : ∃ f, exec (.hostWriteRetry pp) s = onPkgF f s := by rw [exec_hostWriteRetry, execHostWriteRetry]; exact ⟨_, rfl⟩
theorem form_playHeadReport (pp : Fin 12) (stream : BitVec 16) (word : DWord) (s : State) : ∃ f, exec (.playHeadReport pp stream word) s = onPkgF f s := by rw [exec_playHeadReport, execPlayHeadReport]; exact ⟨_, rfl⟩
theorem form_ringTableWrite (pp : Fin 12) (data : Bytes) (s : State) : ∃ f, exec (.ringTableWrite pp data) s = onPkgF f s := by rw [exec_ringTableWrite, execRingTableWrite]; exact ⟨_, rfl⟩
theorem form_emitConsumedStore (pp : Fin 12) (ring : Fin 16) (n : DWord) (s : State) : ∃ f, exec (.emitConsumedStore pp ring n) s = onPkgF f s := by rw [exec_emitConsumedStore, execEmitConsumedStore]; exact ⟨_, rfl⟩
theorem form_scrubPass (ddr : Bool) (unit : Fin 16) (s : State) : ∃ f, exec (.scrubPass ddr unit) s = onPkgF f s := by rw [exec_scrubPass, execScrubPass]; exact ⟨_, rfl⟩
theorem form_channelFailure (ddr : Bool) (unit : Fin 16) (channel : Fin 32) (s : State) : ∃ f, exec (.channelFailure ddr unit channel) s = onPkgF f s := by rw [exec_channelFailure, execChannelFailure]; exact ⟨_, rfl⟩
theorem form_poisonFillComplete (stack : Fin 12) (s : State) : ∃ f, exec (.poisonFillComplete stack) s = onPkgF f s := by rw [exec_poisonFillComplete, execPoisonFillComplete]; exact ⟨_, rfl⟩
theorem form_failChannelWrite (ddr : Bool) (unit : Fin 16) (value : Byte) (s : State) : ∃ f, exec (.failChannelWrite ddr unit value) s = onPkgF f s := by rw [exec_failChannelWrite, execFailChannelWrite]; exact ⟨_, rfl⟩
theorem form_pageCopyComplete (source : Nat) (s : State) : ∃ f, exec (.pageCopyComplete source) s = onPkgF f s := by rw [exec_pageCopyComplete, execPageCopyComplete]; exact ⟨_, rfl⟩
theorem form_fixedRangesWrite (pp : Fin 12) (data : Bytes) (s : State) : ∃ f, exec (.fixedRangesWrite pp data) s = onPkgF f s := by rw [exec_fixedRangesWrite, execFixedRangesWrite]; exact ⟨_, rfl⟩
theorem form_spillPoolWrite (pp : Fin 12) (size : Bool) (value : DWord) (s : State) : ∃ f, exec (.spillPoolWrite pp size value) s = onPkgF f s := by rw [exec_spillPoolWrite, execSpillPoolWrite]; exact ⟨_, rfl⟩
theorem form_advertTimer (s : State) : ∃ f, exec (.advertTimer) s = onPkgF f s := by rw [exec_advertTimer, execAdvertTimer]; exact ⟨_, rfl⟩
theorem form_advert (message : TmMessage) (s : State) : ∃ f, exec (.advert message) s = onPkgF f s := by rw [exec_advert, execAdvert]; exact ⟨_, rfl⟩
theorem form_borrow (message : TmMessage) (s : State) : ∃ f, exec (.borrow message) s = onPkgF f s := by rw [exec_borrow, execBorrow]; exact ⟨_, rfl⟩
theorem form_grant (message : TmMessage) (s : State) : ∃ f, exec (.grant message) s = onPkgF f s := by rw [exec_grant, execGrant]; exact ⟨_, rfl⟩
theorem form_refuse (message : TmMessage) (s : State) : ∃ f, exec (.refuse message) s = onPkgF f s := by rw [exec_refuse, execRefuse]; exact ⟨_, rfl⟩
theorem form_reclaim (message : TmMessage) (s : State) : ∃ f, exec (.reclaim message) s = onPkgF f s := by rw [exec_reclaim, execReclaim]; exact ⟨_, rfl⟩
theorem form_release (message : TmMessage) (s : State) : ∃ f, exec (.release message) s = onPkgF f s := by rw [exec_release, execRelease]; exact ⟨_, rfl⟩
theorem form_reclaimDeadline (lender : Nat) (unit : Nat) (s : State) : ∃ f, exec (.reclaimDeadline lender unit) s = onPkgF f s := by rw [exec_reclaimDeadline, execReclaimDeadline]; exact ⟨_, rfl⟩
theorem form_unitIdleRelease (lender : Nat) (unit : Nat) (s : State) : ∃ f, exec (.unitIdleRelease lender unit) s = onPkgF f s := by rw [exec_unitIdleRelease, execUnitIdleRelease]; exact ⟨_, rfl⟩
theorem form_unitPoisonFillDone (unit : Nat) (s : State) : ∃ f, exec (.unitPoisonFillDone unit) s = onPkgF f s := by rw [exec_unitPoisonFillDone, execUnitPoisonFillDone]; exact ⟨_, rfl⟩
theorem form_reclaimUnitsWrite (count : BitVec 16) (s : State) : ∃ f, exec (.reclaimUnitsWrite count) s = onPkgF f s := by rw [exec_reclaimUnitsWrite, execReclaimUnitsWrite]; exact ⟨_, rfl⟩
theorem form_loadCommand (data : Bytes) (image : ImageHead) (s : State) : ∃ f, exec (.loadCommand data image) s = onPkgF f s := by rw [exec_loadCommand, execLoadCommand]; exact ⟨_, rfl⟩
theorem form_sliceLanded (job : Fin 2) (shard slice : Nat) (data : SliceRead) (s : State) : ∃ f, exec (.sliceLanded job shard slice data) s = onPkgF f s := by rw [exec_sliceLanded, execSliceLanded]; exact ⟨_, rfl⟩
theorem form_unloadWrite (value : Word) (s : State) : ∃ f, exec (.unloadWrite value) s = onPkgF f s := by rw [exec_unloadWrite, execUnloadWrite]; exact ⟨_, rfl⟩
theorem form_switchWrite (pp : Fin 12) (data : Bytes) (s : State) : ∃ f, exec (.switchWrite pp data) s = onPkgF f s := by rw [exec_switchWrite, execSwitchWrite]; exact ⟨_, rfl⟩
theorem form_dmaStart (channel : Fin 256) (s : State) : ∃ f, exec (.dmaStart channel) s = onPkgF f s := by rw [exec_dmaStart, execDmaStart]; exact ⟨_, rfl⟩
theorem form_dmaStop (channel : Fin 256) (s : State) : ∃ f, exec (.dmaStop channel) s = onPkgF f s := by rw [exec_dmaStop, execDmaStop]; exact ⟨_, rfl⟩
theorem form_dmaResume (channel : Fin 256) (s : State) : ∃ f, exec (.dmaResume channel) s = onPkgF f s := by rw [exec_dmaResume, execDmaResume]; exact ⟨_, rfl⟩
theorem form_dmaAbort (channel : Fin 256) (s : State) : ∃ f, exec (.dmaAbort channel) s = onPkgF f s := by rw [exec_dmaAbort, execDmaAbort]; exact ⟨_, rfl⟩
theorem form_dmaProducedAdd (channel : Fin 256) (n : DWord) (s : State) : ∃ f, exec (.dmaProducedAdd channel n) s = onPkgF f s := by rw [exec_dmaProducedAdd, execDmaProducedAdd]; exact ⟨_, rfl⟩
theorem form_dmaDstConsumedStore (channel : Fin 256) (n : DWord) (s : State) : ∃ f, exec (.dmaDstConsumedStore channel n) s = onPkgF f s := by rw [exec_dmaDstConsumedStore, execDmaDstConsumedStore]; exact ⟨_, rfl⟩
theorem form_dmaPieceComplete (channel : Fin 256) (piece : Nat) (s : State) : ∃ f, exec (.dmaPieceComplete channel piece) s = onPkgF f s := by rw [exec_dmaPieceComplete, execDmaPieceComplete]; exact ⟨_, rfl⟩
theorem form_dmaPieceError (channel : Fin 256) (piece : Nat) (side : Fin 2) (address status : Nat) (s : State) : ∃ f, exec (.dmaPieceError channel piece side address status) s = onPkgF f s := by rw [exec_dmaPieceError, execDmaPieceError]; exact ⟨_, rfl⟩
theorem form_dmaRetryTimer (channel : Fin 256) (piece : Nat) (s : State) : ∃ f, exec (.dmaRetryTimer channel piece) s = onPkgF f s := by rw [exec_dmaRetryTimer, execDmaRetryTimer]; exact ⟨_, rfl⟩
theorem form_dmaHaltDrainTimeout (channel : Fin 256) (s : State) : ∃ f, exec (.dmaHaltDrainTimeout channel) s = onPkgF f s := by rw [exec_dmaHaltDrainTimeout, execDmaHaltDrainTimeout]; exact ⟨_, rfl⟩
theorem form_dmaStopDrained (channel : Fin 256) (s : State) : ∃ f, exec (.dmaStopDrained channel) s = onPkgF f s := by rw [exec_dmaStopDrained, execDmaStopDrained]; exact ⟨_, rfl⟩
theorem form_controlRegisterWrite (address : Nat) (wide : Bool) (value : DWord) (firmware : Bool) (s : State) : ∃ f, exec (.controlRegisterWrite address wide value firmware) s = onPkgF f s := by rw [exec_controlRegisterWrite, execControlRegisterWrite]; exact ⟨_, rfl⟩
theorem form_flitReceive (link : Fin 24) (flit : Bytes) (s : State) : ∃ f, exec (.flitReceive link flit) s = onPkgF f s := by rw [exec_flitReceive, execFlitReceive]; exact ⟨_, rfl⟩
theorem form_replayTimeout (link : Fin 24) (s : State) : ∃ f, exec (.replayTimeout link) s = onPkgF f s := by rw [exec_replayTimeout, execReplayTimeout]; exact ⟨_, rfl⟩
theorem form_ackIdleTimer (link : Fin 24) (s : State) : ∃ f, exec (.ackIdleTimer link) s = onPkgF f s := by rw [exec_ackIdleTimer, execAckIdleTimer]; exact ⟨_, rfl⟩
theorem form_laneFailure (link : Fin 24) (lane : Fin 8) (s : State) : ∃ f, exec (.laneFailure link lane) s = onPkgF f s := by rw [exec_laneFailure, execLaneFailure]; exact ⟨_, rfl⟩
theorem form_laneRetrainComplete (link : Fin 24) (lane : Fin 8) (passed : Bool) (s : State) : ∃ f, exec (.laneRetrainComplete link lane passed) s = onPkgF f s := by rw [exec_laneRetrainComplete, execLaneRetrainComplete]; exact ⟨_, rfl⟩
theorem form_linkTrainingComplete (link : Fin 24) (passed : Byte) (s : State) : ∃ f, exec (.linkTrainingComplete link passed) s = onPkgF f s := by rw [exec_linkTrainingComplete, execLinkTrainingComplete]; exact ⟨_, rfl⟩
theorem form_capabilityRecord (link : Fin 24) (record : Capability) (s : State) : ∃ f, exec (.capabilityRecord link record) s = onPkgF f s := by rw [exec_capabilityRecord, execCapabilityRecord]; exact ⟨_, rfl⟩
theorem form_profileChange (link : Fin 24) (partnerFull : Bool) (s : State) : ∃ f, exec (.profileChange link partnerFull) s = onPkgF f s := by rw [exec_profileChange, execProfileChange]; exact ⟨_, rfl⟩
theorem form_axisRemapWrite (dimension : Fin 3) (value : BitVec 16) (s : State) : ∃ f, exec (.axisRemapWrite dimension value) s = onPkgF f s := by rw [exec_axisRemapWrite, execAxisRemapWrite]; exact ⟨_, rfl⟩
theorem form_linkHoldWrite (link : Fin 24) (value : Byte) (s : State) : ∃ f, exec (.linkHoldWrite link value) s = onPkgF f s := by rw [exec_linkHoldWrite, execLinkHoldWrite]; exact ⟨_, rfl⟩
theorem form_laneRetrainWrite (link : Fin 24) (lane : Fin 8) (value : Byte) (s : State) : ∃ f, exec (.laneRetrainWrite link lane value) s = onPkgF f s := by rw [exec_laneRetrainWrite, execLaneRetrainWrite]; exact ⟨_, rfl⟩
theorem form_suspectNotice (link : Fin 24) (notice : SuspectNotice) (s : State) : ∃ f, exec (.suspectNotice link notice) s = onPkgF f s := by rw [exec_suspectNotice, execSuspectNotice]; exact ⟨_, rfl⟩
theorem form_returnNotice (link : Fin 24) (package : Nat) (s : State) : ∃ f, exec (.returnNotice link package) s = onPkgF f s := by rw [exec_returnNotice, execReturnNotice]; exact ⟨_, rfl⟩
theorem form_departureNotice (link : Fin 24) (package : Nat) (s : State) : ∃ f, exec (.departureNotice link package) s = onPkgF f s := by rw [exec_departureNotice, execDepartureNotice]; exact ⟨_, rfl⟩
theorem form_departureLinkPark (s : State) : ∃ f, exec (.departureLinkPark) s = onPkgF f s := by rw [exec_departureLinkPark, execDepartureLinkPark]; exact ⟨_, rfl⟩
theorem form_collectiveGroupsWrite (pp : Fin 12) (data : Bytes) (s : State) : ∃ f, exec (.collectiveGroupsWrite pp data) s = onPkgF f s := by rw [exec_collectiveGroupsWrite, execCollectiveGroupsWrite]; exact ⟨_, rfl⟩
theorem form_collPartial (pp : Fin 12) (header : CollHeader) (data : Bytes) (s : State) : ∃ f, exec (.collPartial pp header data) s = onPkgF f s := by rw [exec_collPartial, execCollPartial]; exact ⟨_, rfl⟩
theorem form_collGather (pp : Fin 12) (header : CollHeader) (data : Bytes) (s : State) : ∃ f, exec (.collGather pp header data) s = onPkgF f s := by rw [exec_collGather, execCollGather]; exact ⟨_, rfl⟩
theorem form_collAbort (pp : Fin 12) (header : CollHeader) (s : State) : ∃ f, exec (.collAbort pp header) s = onPkgF f s := by rw [exec_collAbort, execCollAbort]; exact ⟨_, rfl⟩
theorem form_read (packet : Packet) (s : State) : ∃ f, exec (.read packet) s = onPkgF f s := by rw [exec_read, execRead]; exact ⟨_, rfl⟩
theorem form_write (packet : Packet) (s : State) : ∃ f, exec (.write packet) s = onPkgF f s := by rw [exec_write, execWrite]; exact ⟨_, rfl⟩
theorem form_atomic (packet : Packet) (s : State) : ∃ f, exec (.atomic packet) s = onPkgF f s := by rw [exec_atomic, execAtomic]; exact ⟨_, rfl⟩
theorem form_counterInc (packet : Packet) (s : State) : ∃ f, exec (.counterInc packet) s = onPkgF f s := by rw [exec_counterInc, execCounterInc]; exact ⟨_, rfl⟩
theorem form_retire (packet : Packet) (s : State) : ∃ f, exec (.retire packet) s = onPkgF f s := by rw [exec_retire, execRetire]; exact ⟨_, rfl⟩
theorem form_readData (packet : Packet) (s : State) : ∃ f, exec (.readData packet) s = onPkgF f s := by rw [exec_readData, execReadData]; exact ⟨_, rfl⟩
theorem form_done (packet : Packet) (s : State) : ∃ f, exec (.done packet) s = onPkgF f s := by rw [exec_done, execDone]; exact ⟨_, rfl⟩
theorem form_atomicResult (packet : Packet) (s : State) : ∃ f, exec (.atomicResult packet) s = onPkgF f s := by rw [exec_atomicResult, execAtomicResult]; exact ⟨_, rfl⟩
theorem form_error (packet : Packet) (s : State) : ∃ f, exec (.error packet) s = onPkgF f s := by rw [exec_error, execError]; exact ⟨_, rfl⟩
theorem form_responseTimeout (dest tag : Nat) (s : State) : ∃ f, exec (.responseTimeout dest tag) s = onPkgF f s := by rw [exec_responseTimeout, execResponseTimeout]; exact ⟨_, rfl⟩
theorem form_windowTableWrite (data : Bytes) (s : State) : ∃ f, exec (.windowTableWrite data) s = onPkgF f s := by rw [exec_windowTableWrite, execWindowTableWrite]; exact ⟨_, rfl⟩
theorem form_hostFenceReset (mask : DWord) (s : State) : ∃ f, exec (.hostFenceReset mask) s = onPkgF f s := by rw [exec_hostFenceReset, execHostFenceReset]; exact ⟨_, rfl⟩
theorem form_asyncCopyComplete (slot : Fin 256) (status : Nat) (s : State) : ∃ f, exec (.asyncCopyComplete slot status) s = onPkgF f s := by rw [exec_asyncCopyComplete, execAsyncCopyComplete]; exact ⟨_, rfl⟩
theorem form_ucieModuleDown (module : Fin 4) (s : State) : ∃ f, exec (.ucieModuleDown module) s = onPkgF f s := by rw [exec_ucieModuleDown, execUcieModuleDown]; exact ⟨_, rfl⟩
theorem form_ucieModuleRestored (module : Fin 4) (rate repaired : Nat) (s : State) : ∃ f, exec (.ucieModuleRestored module rate repaired) s = onPkgF f s := by rw [exec_ucieModuleRestored, execUcieModuleRestored]; exact ⟨_, rfl⟩
theorem form_hostDieLoss (s : State) : ∃ f, exec (.hostDieLoss) s = onPkgF f s := by rw [exec_hostDieLoss, execHostDieLoss]; exact ⟨_, rfl⟩
theorem form_hostRequest (packet : Packet) (s : State) : ∃ f, exec (.hostRequest packet) s = onPkgF f s := by rw [exec_hostRequest, execHostRequest]; exact ⟨_, rfl⟩
theorem form_sidebandFrame (payloads : Bytes) (s : State) : ∃ f, exec (.sidebandFrame payloads) s = onPkgF f s := by rw [exec_sidebandFrame, execSidebandFrame]; exact ⟨_, rfl⟩
theorem form_eventRingAnnounce (s : State) : ∃ f, exec (.eventRingAnnounce) s = onPkgF f s := by rw [exec_eventRingAnnounce, execEventRingAnnounce]; exact ⟨_, rfl⟩
theorem form_eventConsumedStore (n : DWord) (s : State) : ∃ f, exec (.eventConsumedStore n) s = onPkgF f s := by rw [exec_eventConsumedStore, execEventConsumedStore]; exact ⟨_, rfl⟩
theorem form_mgmtLinkLoss (port : Fin 2) (s : State) : ∃ f, exec (.mgmtLinkLoss port) s = onPkgF f s := by rw [exec_mgmtLinkLoss, execMgmtLinkLoss]; exact ⟨_, rfl⟩
theorem form_cap (port : Fin 2) (message : RackMessage) (s : State) : ∃ f, exec (.cap port message) s = onPkgF f s := by rw [exec_cap, execCap]; exact ⟨_, rfl⟩
theorem form_digest (port : Fin 2) (message : RackMessage) (s : State) : ∃ f, exec (.digest port message) s = onPkgF f s := by rw [exec_digest, execDigest]; exact ⟨_, rfl⟩
theorem form_replica (port : Fin 2) (message : RackMessage) (s : State) : ∃ f, exec (.replica port message) s = onPkgF f s := by rw [exec_replica, execReplica]; exact ⟨_, rfl⟩
theorem form_telemetryPeriod (s : State) : ∃ f, exec (.telemetryPeriod) s = onPkgF f s := by rw [exec_telemetryPeriod, execTelemetryPeriod]; exact ⟨_, rfl⟩
theorem form_hello (transport : Fin 3) (client : Nat) (datagram : Bytes) (s : State) : ∃ f, exec (.hello transport client datagram) s = onPkgF f s := by rw [exec_hello, execHello]; exact ⟨_, rfl⟩
theorem form_finish (session transport client sequence : Nat) (tagVerifies signaturesVerify : Bool) (s : State) : ∃ f, exec (.finish session transport client sequence tagVerifies signaturesVerify) s = onPkgF f s := by rw [exec_finish, execFinish]; exact ⟨_, rfl⟩
theorem form_dapRead (request : DapRequest) (s : State) : ∃ f, exec (.dapRead request) s = onPkgF f s := by rw [exec_dapRead, execDapRead]; exact ⟨_, rfl⟩
theorem form_dapWrite (request : DapRequest) (s : State) : ∃ f, exec (.dapWrite request) s = onClockF f s := by rw [exec_dapWrite, execDapWrite]; exact ⟨_, rfl⟩
theorem form_readSegment (request : DapRequest) (s : State) : ∃ f, exec (.readSegment request) s = onPkgF f s := by rw [exec_readSegment, execReadSegment]; exact ⟨_, rfl⟩
theorem form_writeBegin (request : DapRequest) (s : State) : ∃ f, exec (.writeBegin request) s = onPkgF f s := by rw [exec_writeBegin, execWriteBegin]; exact ⟨_, rfl⟩
theorem form_writeSegment (request : DapRequest) (s : State) : ∃ f, exec (.writeSegment request) s = onPkgF f s := by rw [exec_writeSegment, execWriteSegment]; exact ⟨_, rfl⟩
theorem form_writeCommit (request : DapRequest) (s : State) : ∃ f, exec (.writeCommit request) s = onPkgF f s := by rw [exec_writeCommit, execWriteCommit]; exact ⟨_, rfl⟩
theorem form_writeAbandon (request : DapRequest) (s : State) : ∃ f, exec (.writeAbandon request) s = onPkgF f s := by rw [exec_writeAbandon, execWriteAbandon]; exact ⟨_, rfl⟩
theorem form_domainWrite (request : DapRequest) (s : State) : ∃ f, exec (.domainWrite request) s = onPkgF f s := by rw [exec_domainWrite, execDomainWrite]; exact ⟨_, rfl⟩
theorem form_readPending (request : DapRequest) (s : State) : ∃ f, exec (.readPending request) s = onPkgF f s := by rw [exec_readPending, execReadPending]; exact ⟨_, rfl⟩
theorem form_describe (request : DapRequest) (s : State) : ∃ f, exec (.describe request) s = onPkgF f s := by rw [exec_describe, execDescribe]; exact ⟨_, rfl⟩
theorem form_next (request : DapRequest) (s : State) : ∃ f, exec (.next request) s = onPkgF f s := by rw [exec_next, execNext]; exact ⟨_, rfl⟩
theorem form_keepalive (request : DapRequest) (s : State) : ∃ f, exec (.keepalive request) s = onPkgF f s := by rw [exec_keepalive, execKeepalive]; exact ⟨_, rfl⟩
theorem form_close (session transport client sequence : Nat) (tagVerifies : Bool) (s : State) : ∃ f, exec (.close session transport client sequence tagVerifies) s = onPkgF f s := by rw [exec_close, execClose]; exact ⟨_, rfl⟩
theorem form_dapHandshakeTimeout (session : Nat) (s : State) : ∃ f, exec (.dapHandshakeTimeout session) s = onPkgF f s := by rw [exec_dapHandshakeTimeout, execDapHandshakeTimeout]; exact ⟨_, rfl⟩
theorem form_sessionIdleTimeout (session : Nat) (s : State) : ∃ f, exec (.sessionIdleTimeout session) s = onPkgF f s := by rw [exec_sessionIdleTimeout, execSessionIdleTimeout]; exact ⟨_, rfl⟩
theorem form_transferIdleTimeout (session transfer : Nat) (s : State) : ∃ f, exec (.transferIdleTimeout session transfer) s = onPkgF f s := by rw [exec_transferIdleTimeout, execTransferIdleTimeout]; exact ⟨_, rfl⟩
theorem form_sessionCloseWrite (session : Word) (s : State) : ∃ f, exec (.sessionCloseWrite session) s = onPkgF f s := by rw [exec_sessionCloseWrite, execSessionCloseWrite]; exact ⟨_, rfl⟩
theorem form_credentialsWrite (data : Bytes) (s : State) : ∃ f, exec (.credentialsWrite data) s = onPkgF f s := by rw [exec_credentialsWrite, execCredentialsWrite]; exact ⟨_, rfl⟩
theorem form_partitionStart (pp : Fin 12) (s : State) : ∃ f, exec (.partitionStart pp) s = onPkgF f s := by rw [exec_partitionStart, execPartitionStart]; exact ⟨_, rfl⟩
theorem form_partitionStop (pp : Fin 12) (s : State) : ∃ f, exec (.partitionStop pp) s = onPkgF f s := by rw [exec_partitionStop, execPartitionStop]; exact ⟨_, rfl⟩
theorem form_partitionPause (pp : Fin 12) (s : State) : ∃ f, exec (.partitionPause pp) s = onPkgF f s := by rw [exec_partitionPause, execPartitionPause]; exact ⟨_, rfl⟩
theorem form_partitionResume (pp : Fin 12) (s : State) : ∃ f, exec (.partitionResume pp) s = onPkgF f s := by rw [exec_partitionResume, execPartitionResume]; exact ⟨_, rfl⟩
theorem form_partitionPreempt (pp : Fin 12) (s : State) : ∃ f, exec (.partitionPreempt pp) s = onPkgF f s := by rw [exec_partitionPreempt, execPartitionPreempt]; exact ⟨_, rfl⟩
theorem form_preemptSaveComplete (pp : Fin 12) (s : State) : ∃ f, exec (.preemptSaveComplete pp) s = onPkgF f s := by rw [exec_preemptSaveComplete, execPreemptSaveComplete]; exact ⟨_, rfl⟩
theorem form_partitionReset (pp : Fin 12) (s : State) : ∃ f, exec (.partitionReset pp) s = onPkgF f s := by rw [exec_partitionReset, execPartitionReset]; exact ⟨_, rfl⟩
theorem form_resetPhaseComplete (pp : Fin 12) (failures : List FailedUnit) (retireUnanswered : List Nat) (s : State) : ∃ f, exec (.resetPhaseComplete pp failures retireUnanswered) s = onPkgF f s := by rw [exec_resetPhaseComplete, execResetPhaseComplete]; exact ⟨_, rfl⟩
theorem form_resetNoticeArrival (pp : Fin 12) (s : State) : ∃ f, exec (.resetNoticeArrival pp) s = onPkgF f s := by rw [exec_resetNoticeArrival, execResetNoticeArrival]; exact ⟨_, rfl⟩
theorem form_stepWatchdogExpiry (pp : Fin 12) (s : State) : ∃ f, exec (.stepWatchdogExpiry pp) s = onPkgF f s := by rw [exec_stepWatchdogExpiry, execStepWatchdogExpiry]; exact ⟨_, rfl⟩
theorem form_regulatorRefill (s : State) : ∃ f, exec (.regulatorRefill) s = onPkgF f s := by rw [exec_regulatorRefill, execRegulatorRefill]; exact ⟨_, rfl⟩
theorem form_regionMaskWrite (pp : Fin 12) (mask : BitVec 16) (s : State) : ∃ f, exec (.regionMaskWrite pp mask) s = onPkgF f s := by rw [exec_regionMaskWrite, execRegionMaskWrite]; exact ⟨_, rfl⟩
theorem form_auditTileComputed (pp : Fin 12) (block : Fin 96) (descriptor tile : Nat) (fingerprint : Option Bytes) (s : State) : ∃ f, exec (.auditTileComputed pp block descriptor tile fingerprint) s = onPkgF f s := by rw [exec_auditTileComputed, execAuditTileComputed]; exact ⟨_, rfl⟩
theorem form_arbiterResult (pp : Fin 12) (block : Fin 96) (descriptor tile : Nat) (fingerprint : Option Bytes) (s : State) : ∃ f, exec (.arbiterResult pp block descriptor tile fingerprint) s = onPkgF f s := by rw [exec_arbiterResult, execArbiterResult]; exact ⟨_, rfl⟩
theorem form_poisonNotice (pp : Fin 12) (record : PoisonRecord) (s : State) : ∃ f, exec (.poisonNotice pp record) s = onPkgF f s := by rw [exec_poisonNotice, execPoisonNotice]; exact ⟨_, rfl⟩
theorem form_auditReport (pp : Fin 12) (record : ReportRecord) (s : State) : ∃ f, exec (.auditReport pp record) s = onPkgF f s := by rw [exec_auditReport, execAuditReport]; exact ⟨_, rfl⟩
theorem form_recutComplete (pp : Fin 12) (package : Nat) (s : State) : ∃ f, exec (.recutComplete pp package) s = onPkgF f s := by rw [exec_recutComplete, execRecutComplete]; exact ⟨_, rfl⟩
theorem form_digestTimeout (record : Fin 16) (round : Nat) (s : State) : ∃ f, exec (.digestTimeout record round) s = onPkgF f s := by rw [exec_digestTimeout, execDigestTimeout]; exact ⟨_, rfl⟩
theorem form_drydownStart (causingUnit : Option FailedUnit) (s : State) : ∃ f, exec (.drydownStart causingUnit) s = onPkgF f s := by rw [exec_drydownStart, execDrydownStart]; exact ⟨_, rfl⟩
theorem form_drydownStageComplete (s : State) : ∃ f, exec (.drydownStageComplete) s = onClockF f s := by rw [exec_drydownStageComplete, execDrydownStageComplete]; exact ⟨_, rfl⟩
theorem form_declareLostWrite (data : Bytes) (s : State) : ∃ f, exec (.declareLostWrite data) s = onPkgF f s := by rw [exec_declareLostWrite, execDeclareLostWrite]; exact ⟨_, rfl⟩
theorem form_packageFlagClear (value : Byte) (s : State) : ∃ f, exec (.packageFlagClear value) s = onPkgF f s := by rw [exec_packageFlagClear, execPackageFlagClear]; exact ⟨_, rfl⟩
theorem form_requalifyTimer (s : State) : ∃ f, exec (.requalifyTimer) s = onPkgF f s := by rw [exec_requalifyTimer, execRequalifyTimer]; exact ⟨_, rfl⟩
theorem form_startPhaseComplete (result : PhaseResult) (s : State) : ∃ f, exec (.startPhaseComplete result) s = onClockF f s := by rw [exec_startPhaseComplete, execStartPhaseComplete]; exact ⟨_, rfl⟩
theorem form_ddrFillComplete (channel : Fin 16) (s : State) : ∃ f, exec (.ddrFillComplete channel) s = onPkgF f s := by rw [exec_ddrFillComplete, execDdrFillComplete]; exact ⟨_, rfl⟩
theorem form_btRestart (value : Byte) (s : State) : ∃ f, exec (.btRestart value) s = onClockF f s := by rw [exec_btRestart, execBtRestart]; exact ⟨_, rfl⟩
theorem form_defectRemove (index : BitVec 16) (s : State) : ∃ f, exec (.defectRemove index) s = onPkgF f s := by rw [exec_defectRemove, execDefectRemove]; exact ⟨_, rfl⟩
theorem form_firmwareCommit (value : Byte) (verdict : FirmwareVerdict) (s : State) : ∃ f, exec (.firmwareCommit value verdict) s = onPkgF f s := by rw [exec_firmwareCommit, execFirmwareCommit]; exact ⟨_, rfl⟩
theorem form_licenceInstall (data : Bytes) (signaturesVerify : Bool) (s : State) : ∃ f, exec (.licenceInstall data signaturesVerify) s = onPkgF f s := by rw [exec_licenceInstall, execLicenceInstall]; exact ⟨_, rfl⟩
theorem form_licenceRemove (index : Byte) (s : State) : ∃ f, exec (.licenceRemove index) s = onPkgF f s := by rw [exec_licenceRemove, execLicenceRemove]; exact ⟨_, rfl⟩
theorem form_licenceExpired (index : Nat) (s : State) : ∃ f, exec (.licenceExpired index) s = onPkgF f s := by rw [exec_licenceExpired, execLicenceExpired]; exact ⟨_, rfl⟩
theorem form_attestNonce (nonce : Bytes) (s : State) : ∃ f, exec (.attestNonce nonce) s = onPkgF f s := by rw [exec_attestNonce, execAttestNonce]; exact ⟨_, rfl⟩
theorem form_rackKeyInstall (data : Bytes) (s : State) : ∃ f, exec (.rackKeyInstall data) s = onPkgF f s := by rw [exec_rackKeyInstall, execRackKeyInstall]; exact ⟨_, rfl⟩
theorem form_customerKeysWrite (data : Bytes) (s : State) : ∃ f, exec (.customerKeysWrite data) s = onPkgF f s := by rw [exec_customerKeysWrite, execCustomerKeysWrite]; exact ⟨_, rfl⟩
theorem form_refSyncFrame (tick : DWord) (s : State) : ∃ f, exec (.refSyncFrame tick) s = onClockF f s := by rw [exec_refSyncFrame, execRefSyncFrame]; exact ⟨_, rfl⟩
theorem form_rackTick (pulse : Bool) (s : State) : ∃ f, exec (.rackTick pulse) s = onClockF f s := by rw [exec_rackTick, execRackTick]; exact ⟨_, rfl⟩
theorem form_referenceLost (rclkStopped : Bool) (s : State) : ∃ f, exec (.referenceLost rclkStopped) s = onPkgF f s := by rw [exec_referenceLost, execReferenceLost]; exact ⟨_, rfl⟩
theorem form_refFrameWaitExpiry (s : State) : ∃ f, exec (.refFrameWaitExpiry) s = onClockF f s := by rw [exec_refFrameWaitExpiry, execRefFrameWaitExpiry]; exact ⟨_, rfl⟩
theorem form_monitorSample (readings : MonitorReadings) (s : State) : ∃ f, exec (.monitorSample readings) s = onPkgF f s := by rw [exec_monitorSample, execMonitorSample]; exact ⟨_, rfl⟩
theorem form_ageingCheck (slowIslands : List Nat) (s : State) : ∃ f, exec (.ageingCheck slowIslands) s = onPkgF f s := by rw [exec_ageingCheck, execAgeingCheck]; exact ⟨_, rfl⟩
theorem form_slowRegulatorTick (projectedW : Nat) (s : State) : ∃ f, exec (.slowRegulatorTick projectedW) s = onPkgF f s := by rw [exec_slowRegulatorTick, execSlowRegulatorTick]; exact ⟨_, rfl⟩
theorem form_fastClamp (limit : Fin 6) (referenceW : Nat) (s : State) : ∃ f, exec (.fastClamp limit referenceW) s = onPkgF f s := by rw [exec_fastClamp, execFastClamp]; exact ⟨_, rfl⟩
theorem form_rackCapWrite (watts : Word) (s : State) : ∃ f, exec (.rackCapWrite watts) s = onPkgF f s := by rw [exec_rackCapWrite, execRackCapWrite]; exact ⟨_, rfl⟩
theorem form_capExpired (s : State) : ∃ f, exec (.capExpired) s = onPkgF f s := by rw [exec_capExpired, execCapExpired]; exact ⟨_, rfl⟩
theorem form_powerResume (s : State) : ∃ f, exec (.powerResume) s = onPkgF f s := by rw [exec_powerResume, execPowerResume]; exact ⟨_, rfl⟩
theorem form_sagWarning (s : State) : ∃ f, exec (.sagWarning) s = onPkgF f s := by rw [exec_sagWarning, execSagWarning]; exact ⟨_, rfl⟩
theorem form_sagCleared (s : State) : ∃ f, exec (.sagCleared) s = onPkgF f s := by rw [exec_sagCleared, execSagCleared]; exact ⟨_, rfl⟩
theorem form_sagReset (s : State) : ∃ f, exec (.sagReset) s = onClockF f s := by rw [exec_sagReset, execSagReset]; exact ⟨_, rfl⟩
theorem form_overvoltageReset (s : State) : ∃ f, exec (.overvoltageReset) s = onClockF f s := by rw [exec_overvoltageReset, execOvervoltageReset]; exact ⟨_, rfl⟩
theorem form_droopStretch (island : Fin 14) (sixPercent : Bool) (s : State) : ∃ f, exec (.droopStretch island sixPercent) s = onPkgF f s := by rw [exec_droopStretch, execDroopStretch]; exact ⟨_, rfl⟩
theorem form_thermalThrottle (island : Fin 14) (hundredDegrees : Bool) (s : State) : ∃ f, exec (.thermalThrottle island hundredDegrees) s = onPkgF f s := by rw [exec_thermalThrottle, execThermalThrottle]; exact ⟨_, rfl⟩
theorem form_thermalTrip (s : State) : ∃ f, exec (.thermalTrip) s = onClockF f s := by rw [exec_thermalTrip, execThermalTrip]; exact ⟨_, rfl⟩
theorem form_pwrEnLow (s : State) : ∃ f, exec (.pwrEnLow) s = onClockF f s := by rw [exec_pwrEnLow, execPwrEnLow]; exact ⟨_, rfl⟩
theorem form_pkgReset (s : State) : ∃ f, exec (.pkgReset) s = onClockF f s := by rw [exec_pkgReset, execPkgReset]; exact ⟨_, rfl⟩
theorem form_flashTake (s : State) : ∃ f, exec (.flashTake) s = onPkgF f s := by rw [exec_flashTake, execFlashTake]; exact ⟨_, rfl⟩
theorem form_pauseRequest (pp : Fin 12) (package : Nat) (withdraw : Bool) (s : State) : ∃ f, exec (.pauseRequest pp package withdraw) s = onPkgF f s := by rw [exec_pauseRequest, execPauseRequest]; exact ⟨_, rfl⟩
theorem form_mgmtPortUp (port : Fin 2) (fec : Fin 3) (s : State) : ∃ f, exec (.mgmtPortUp port fec) s = onPkgF f s := by rw [exec_mgmtPortUp, execMgmtPortUp]; exact ⟨_, rfl⟩
theorem form_droopRecovery (island : Fin 14) (s : State) : ∃ f, exec (.droopRecovery island) s = onPkgF f s := by rw [exec_droopRecovery, execDroopRecovery]; exact ⟨_, rfl⟩

/-- What a command can be: a function of the package, a function of the clock and the package, or the first start. -/
theorem exec_form (c : Instr) (s : State) :
    (∃ f, exec c s = onPkgF f s) ∨ (∃ f, exec c s = onClockF f s) ∨ c = .powerOnStart := by
  cases c with
  | stepBoundary pp => exact .inl (form_stepBoundary pp s)
  | stepNoticeArrival pp notice => exact .inl (form_stepNoticeArrival pp notice s)
  | descriptorReadComplete block readOk => exact .inl (form_descriptorReadComplete block readOk s)
  | passWaitsMet block => exact .inl (form_passWaitsMet block s)
  | passComplete block => exact .inl (form_passComplete block s)
  | badOperandWord block sramUncorrectable completion address => exact .inl (form_badOperandWord block sramUncorrectable completion address s)
  | cellCorrectedError cell => exact .inl (form_cellCorrectedError cell s)
  | cellUncorrectable cell => exact .inl (form_cellUncorrectable cell s)
  | cellResetComplete cell => exact .inl (form_cellResetComplete cell s)
  | stageFault block tile => exact .inl (form_stageFault block tile s)
  | handshakeTimeout region => exact .inl (form_handshakeTimeout region s)
  | regionControlFault region => exact .inl (form_regionControlFault region s)
  | markGapExceeded block => exact .inl (form_markGapExceeded block s)
  | cellHideWrite region cell value => exact .inl (form_cellHideWrite region cell value s)
  | countersClear index value => exact .inl (form_countersClear index value s)
  | recipeOverrideWrite pp data => exact .inl (form_recipeOverrideWrite pp data s)
  | layerTableWrite pp data => exact .inl (form_layerTableWrite pp data s)
  | routerLayerTableWrite pp data => exact .inl (form_routerLayerTableWrite pp data s)
  | dispatchedRowArrival pp row => exact .inl (form_dispatchedRowArrival pp row s)
  | endNoticeArrival pp notice => exact .inl (form_endNoticeArrival pp notice s)
  | intakeCounterAdd pp n => exact .inl (form_intakeCounterAdd pp n s)
  | intakeReset pp value => exact .inl (form_intakeReset pp value s)
  | cancelWord pp word => exact .inl (form_cancelWord pp word s)
  | cancelNoticeArrival pp step genRows preRows => exact .inl (form_cancelNoticeArrival pp step genRows preRows s)
  | completionConsumedStore pp n => exact .inl (form_completionConsumedStore pp n s)
  | tokenRecordForward pp package record => exact .inl (form_tokenRecordForward pp package record s)
  | samplerCountArrival pp package step count => exact .inl (form_samplerCountArrival pp package step count s)
  | lengthTableArrival pp engine step table tokens => exact .inl (form_lengthTableArrival pp engine step table tokens s)
  | tenantTableWrite pp data => exact .inl (form_tenantTableWrite pp data s)
  | engineConfigsWrite pp data => exact .inl (form_engineConfigsWrite pp data s)
  | hostWriteRetry pp => exact .inl (form_hostWriteRetry pp s)
  | playHeadReport pp stream word => exact .inl (form_playHeadReport pp stream word s)
  | ringTableWrite pp data => exact .inl (form_ringTableWrite pp data s)
  | emitConsumedStore pp ring n => exact .inl (form_emitConsumedStore pp ring n s)
  | scrubPass ddr unit => exact .inl (form_scrubPass ddr unit s)
  | channelFailure ddr unit channel => exact .inl (form_channelFailure ddr unit channel s)
  | poisonFillComplete stack => exact .inl (form_poisonFillComplete stack s)
  | failChannelWrite ddr unit value => exact .inl (form_failChannelWrite ddr unit value s)
  | pageCopyComplete source => exact .inl (form_pageCopyComplete source s)
  | fixedRangesWrite pp data => exact .inl (form_fixedRangesWrite pp data s)
  | spillPoolWrite pp size value => exact .inl (form_spillPoolWrite pp size value s)
  | advertTimer => exact .inl (form_advertTimer s)
  | advert message => exact .inl (form_advert message s)
  | borrow message => exact .inl (form_borrow message s)
  | grant message => exact .inl (form_grant message s)
  | refuse message => exact .inl (form_refuse message s)
  | reclaim message => exact .inl (form_reclaim message s)
  | release message => exact .inl (form_release message s)
  | reclaimDeadline lender unit => exact .inl (form_reclaimDeadline lender unit s)
  | unitIdleRelease lender unit => exact .inl (form_unitIdleRelease lender unit s)
  | unitPoisonFillDone unit => exact .inl (form_unitPoisonFillDone unit s)
  | reclaimUnitsWrite count => exact .inl (form_reclaimUnitsWrite count s)
  | loadCommand data image => exact .inl (form_loadCommand data image s)
  | sliceLanded job shard slice data => exact .inl (form_sliceLanded job shard slice data s)
  | unloadWrite value => exact .inl (form_unloadWrite value s)
  | switchWrite pp data => exact .inl (form_switchWrite pp data s)
  | dmaStart channel => exact .inl (form_dmaStart channel s)
  | dmaStop channel => exact .inl (form_dmaStop channel s)
  | dmaResume channel => exact .inl (form_dmaResume channel s)
  | dmaAbort channel => exact .inl (form_dmaAbort channel s)
  | dmaProducedAdd channel n => exact .inl (form_dmaProducedAdd channel n s)
  | dmaDstConsumedStore channel n => exact .inl (form_dmaDstConsumedStore channel n s)
  | dmaPieceComplete channel piece => exact .inl (form_dmaPieceComplete channel piece s)
  | dmaPieceError channel piece side address status => exact .inl (form_dmaPieceError channel piece side address status s)
  | dmaRetryTimer channel piece => exact .inl (form_dmaRetryTimer channel piece s)
  | dmaHaltDrainTimeout channel => exact .inl (form_dmaHaltDrainTimeout channel s)
  | dmaStopDrained channel => exact .inl (form_dmaStopDrained channel s)
  | controlRegisterWrite address wide value firmware => exact .inl (form_controlRegisterWrite address wide value firmware s)
  | flitReceive link flit => exact .inl (form_flitReceive link flit s)
  | replayTimeout link => exact .inl (form_replayTimeout link s)
  | ackIdleTimer link => exact .inl (form_ackIdleTimer link s)
  | laneFailure link lane => exact .inl (form_laneFailure link lane s)
  | laneRetrainComplete link lane passed => exact .inl (form_laneRetrainComplete link lane passed s)
  | linkTrainingComplete link passed => exact .inl (form_linkTrainingComplete link passed s)
  | capabilityRecord link record => exact .inl (form_capabilityRecord link record s)
  | profileChange link partnerFull => exact .inl (form_profileChange link partnerFull s)
  | axisRemapWrite dimension value => exact .inl (form_axisRemapWrite dimension value s)
  | linkHoldWrite link value => exact .inl (form_linkHoldWrite link value s)
  | laneRetrainWrite link lane value => exact .inl (form_laneRetrainWrite link lane value s)
  | suspectNotice link notice => exact .inl (form_suspectNotice link notice s)
  | returnNotice link package => exact .inl (form_returnNotice link package s)
  | departureNotice link package => exact .inl (form_departureNotice link package s)
  | departureLinkPark => exact .inl (form_departureLinkPark s)
  | collectiveGroupsWrite pp data => exact .inl (form_collectiveGroupsWrite pp data s)
  | collPartial pp header data => exact .inl (form_collPartial pp header data s)
  | collGather pp header data => exact .inl (form_collGather pp header data s)
  | collAbort pp header => exact .inl (form_collAbort pp header s)
  | read packet => exact .inl (form_read packet s)
  | write packet => exact .inl (form_write packet s)
  | atomic packet => exact .inl (form_atomic packet s)
  | counterInc packet => exact .inl (form_counterInc packet s)
  | retire packet => exact .inl (form_retire packet s)
  | readData packet => exact .inl (form_readData packet s)
  | done packet => exact .inl (form_done packet s)
  | atomicResult packet => exact .inl (form_atomicResult packet s)
  | error packet => exact .inl (form_error packet s)
  | responseTimeout dest tag => exact .inl (form_responseTimeout dest tag s)
  | windowTableWrite data => exact .inl (form_windowTableWrite data s)
  | hostFenceReset mask => exact .inl (form_hostFenceReset mask s)
  | asyncCopyComplete slot status => exact .inl (form_asyncCopyComplete slot status s)
  | ucieModuleDown module => exact .inl (form_ucieModuleDown module s)
  | ucieModuleRestored module rate repaired => exact .inl (form_ucieModuleRestored module rate repaired s)
  | hostDieLoss => exact .inl (form_hostDieLoss s)
  | hostRequest packet => exact .inl (form_hostRequest packet s)
  | sidebandFrame payloads => exact .inl (form_sidebandFrame payloads s)
  | eventRingAnnounce => exact .inl (form_eventRingAnnounce s)
  | eventConsumedStore n => exact .inl (form_eventConsumedStore n s)
  | mgmtLinkLoss port => exact .inl (form_mgmtLinkLoss port s)
  | cap port message => exact .inl (form_cap port message s)
  | digest port message => exact .inl (form_digest port message s)
  | replica port message => exact .inl (form_replica port message s)
  | telemetryPeriod => exact .inl (form_telemetryPeriod s)
  | hello transport client datagram => exact .inl (form_hello transport client datagram s)
  | finish session transport client sequence tagVerifies signaturesVerify => exact .inl (form_finish session transport client sequence tagVerifies signaturesVerify s)
  | dapRead request => exact .inl (form_dapRead request s)
  | dapWrite request => exact .inr (.inl (form_dapWrite request s))
  | readSegment request => exact .inl (form_readSegment request s)
  | writeBegin request => exact .inl (form_writeBegin request s)
  | writeSegment request => exact .inl (form_writeSegment request s)
  | writeCommit request => exact .inl (form_writeCommit request s)
  | writeAbandon request => exact .inl (form_writeAbandon request s)
  | domainWrite request => exact .inl (form_domainWrite request s)
  | readPending request => exact .inl (form_readPending request s)
  | describe request => exact .inl (form_describe request s)
  | next request => exact .inl (form_next request s)
  | keepalive request => exact .inl (form_keepalive request s)
  | close session transport client sequence tagVerifies => exact .inl (form_close session transport client sequence tagVerifies s)
  | dapHandshakeTimeout session => exact .inl (form_dapHandshakeTimeout session s)
  | sessionIdleTimeout session => exact .inl (form_sessionIdleTimeout session s)
  | transferIdleTimeout session transfer => exact .inl (form_transferIdleTimeout session transfer s)
  | sessionCloseWrite session => exact .inl (form_sessionCloseWrite session s)
  | credentialsWrite data => exact .inl (form_credentialsWrite data s)
  | partitionStart pp => exact .inl (form_partitionStart pp s)
  | partitionStop pp => exact .inl (form_partitionStop pp s)
  | partitionPause pp => exact .inl (form_partitionPause pp s)
  | partitionResume pp => exact .inl (form_partitionResume pp s)
  | partitionPreempt pp => exact .inl (form_partitionPreempt pp s)
  | preemptSaveComplete pp => exact .inl (form_preemptSaveComplete pp s)
  | partitionReset pp => exact .inl (form_partitionReset pp s)
  | resetPhaseComplete pp failures retireUnanswered => exact .inl (form_resetPhaseComplete pp failures retireUnanswered s)
  | resetNoticeArrival pp => exact .inl (form_resetNoticeArrival pp s)
  | stepWatchdogExpiry pp => exact .inl (form_stepWatchdogExpiry pp s)
  | regulatorRefill => exact .inl (form_regulatorRefill s)
  | regionMaskWrite pp mask => exact .inl (form_regionMaskWrite pp mask s)
  | auditTileComputed pp block descriptor tile fingerprint => exact .inl (form_auditTileComputed pp block descriptor tile fingerprint s)
  | arbiterResult pp block descriptor tile fingerprint => exact .inl (form_arbiterResult pp block descriptor tile fingerprint s)
  | poisonNotice pp record => exact .inl (form_poisonNotice pp record s)
  | auditReport pp record => exact .inl (form_auditReport pp record s)
  | recutComplete pp package => exact .inl (form_recutComplete pp package s)
  | digestTimeout record round => exact .inl (form_digestTimeout record round s)
  | drydownStart causingUnit => exact .inl (form_drydownStart causingUnit s)
  | drydownStageComplete => exact .inr (.inl (form_drydownStageComplete s))
  | declareLostWrite data => exact .inl (form_declareLostWrite data s)
  | packageFlagClear value => exact .inl (form_packageFlagClear value s)
  | requalifyTimer => exact .inl (form_requalifyTimer s)
  | powerOnStart => exact .inr (.inr rfl)
  | startPhaseComplete result => exact .inr (.inl (form_startPhaseComplete result s))
  | ddrFillComplete channel => exact .inl (form_ddrFillComplete channel s)
  | btRestart value => exact .inr (.inl (form_btRestart value s))
  | defectRemove index => exact .inl (form_defectRemove index s)
  | firmwareCommit value verdict => exact .inl (form_firmwareCommit value verdict s)
  | licenceInstall data signaturesVerify => exact .inl (form_licenceInstall data signaturesVerify s)
  | licenceRemove index => exact .inl (form_licenceRemove index s)
  | licenceExpired index => exact .inl (form_licenceExpired index s)
  | attestNonce nonce => exact .inl (form_attestNonce nonce s)
  | rackKeyInstall data => exact .inl (form_rackKeyInstall data s)
  | customerKeysWrite data => exact .inl (form_customerKeysWrite data s)
  | refSyncFrame tick => exact .inr (.inl (form_refSyncFrame tick s))
  | rackTick pulse => exact .inr (.inl (form_rackTick pulse s))
  | referenceLost rclkStopped => exact .inl (form_referenceLost rclkStopped s)
  | refFrameWaitExpiry => exact .inr (.inl (form_refFrameWaitExpiry s))
  | monitorSample readings => exact .inl (form_monitorSample readings s)
  | ageingCheck slowIslands => exact .inl (form_ageingCheck slowIslands s)
  | slowRegulatorTick projectedW => exact .inl (form_slowRegulatorTick projectedW s)
  | fastClamp limit referenceW => exact .inl (form_fastClamp limit referenceW s)
  | rackCapWrite watts => exact .inl (form_rackCapWrite watts s)
  | capExpired => exact .inl (form_capExpired s)
  | powerResume => exact .inl (form_powerResume s)
  | sagWarning => exact .inl (form_sagWarning s)
  | sagCleared => exact .inl (form_sagCleared s)
  | sagReset => exact .inr (.inl (form_sagReset s))
  | overvoltageReset => exact .inr (.inl (form_overvoltageReset s))
  | droopStretch island sixPercent => exact .inl (form_droopStretch island sixPercent s)
  | thermalThrottle island hundredDegrees => exact .inl (form_thermalThrottle island hundredDegrees s)
  | thermalTrip => exact .inr (.inl (form_thermalTrip s))
  | pwrEnLow => exact .inr (.inl (form_pwrEnLow s))
  | pkgReset => exact .inr (.inl (form_pkgReset s))
  | flashTake => exact .inl (form_flashTake s)
  | pauseRequest pp package withdraw => exact .inl (form_pauseRequest pp package withdraw s)
  | mgmtPortUp port fec => exact .inl (form_mgmtPortUp port fec s)
  | droopRecovery island => exact .inl (form_droopRecovery island s)

end Sys2Proof.Machine
end

