-- ==== Sys2Proof/Laws/Memory.lean ====
section
/-! SUPPORT. Package memory: reading after writing, and the canonical form, which every memory operation keeps. -/

namespace Sys2Proof.Machine

theorem keysRise_cons {α : Type} (a : Nat × α) (t : List (Nat × α)) :
    keysRise (a :: t) = true ↔ (∀ b ∈ t, a.1 < b.1) ∧ keysRise t = true := by
  induction t generalizing a with
  | nil => simp [keysRise]
  | cons b t ih =>
    simp only [keysRise, Bool.and_eq_true, decide_eq_true_eq]
    rw [ih b]
    constructor
    · rintro ⟨h, h1, h2⟩
      refine ⟨fun c hc => ?_, h1, h2⟩
      rcases List.mem_cons.1 hc with rfl | hc
      · exact h
      · exact Nat.lt_trans h (h1 c hc)
    · rintro ⟨h, h1, h2⟩
      exact ⟨h b (by simp), h1, h2⟩

theorem keysRise_filter {α : Type} (l : List (Nat × α)) (f : Nat × α → Bool) (h : keysRise l = true) : keysRise (l.filter f) = true := by
  induction l with
  | nil => rfl
  | cons a t ih =>
    have ht := (keysRise_cons _ _).1 h
    simp only [List.filter_cons]
    split
    · rw [keysRise_cons]
      exact ⟨fun b hb => ht.1 b (List.mem_filter.1 hb).1, ih ht.2⟩
    · exact ih ht.2

theorem mem_tput {α : Type} (t : Tbl α) (k : Nat) (v : α) : ∀ b ∈ tput t k v, b = (k, v) ∨ b ∈ t := by
  induction t with
  | nil => simp [tput]
  | cons a t ih =>
    obtain ⟨j, w⟩ := a
    simp only [tput]
    intro b hb
    split at hb
    · simpa using hb
    · split at hb
      · rcases List.mem_cons.1 hb with rfl | hb
        · exact .inl rfl
        · exact .inr (by simp [hb])
      · rcases List.mem_cons.1 hb with rfl | hb
        · exact .inr (by simp)
        · rcases ih b hb with h | h
          · exact .inl h
          · exact .inr (by simp [h])

theorem keysRise_tput {α : Type} (t : Tbl α) (k : Nat) (v : α) (h : keysRise t = true) : keysRise (tput t k v) = true := by
  induction t with
  | nil => rfl
  | cons a t ih =>
    obtain ⟨j, w⟩ := a
    have ht := (keysRise_cons _ _).1 h
    simp only [tput]
    split
    · rename_i hk
      rw [keysRise_cons]
      refine ⟨fun b hb => ?_, h⟩
      rcases List.mem_cons.1 hb with rfl | hb
      · exact hk
      · exact Nat.lt_trans hk (ht.1 b hb)
    · split
      · rename_i hk hj
        subst hj
        rw [keysRise_cons]
        exact ht
      · rename_i hk hj
        rw [keysRise_cons]
        refine ⟨fun b hb => ?_, ih ht.2⟩
        rcases mem_tput t k v b hb with rfl | hb
        · show j < k; omega
        · exact ht.1 b hb

/-- Listed bytes in canonical form: addresses rise and none is zero. -/
def bytesOk (c : List Host.Cell) : Prop := keysRise c = true ∧ ∀ x ∈ c, x.2 ≠ 0

theorem mem_setByte (c : List Host.Cell) (a : Nat) (b : Byte) : ∀ x ∈ setByte c a b, (x = (a, b) ∧ b ≠ 0) ∨ x ∈ c := by
  induction c with
  | nil =>
    intro x hx
    simp only [setByte] at hx
    split at hx
    · simp at hx
    · rename_i h; exact .inl ⟨by simpa using hx, h⟩
  | cons y t ih =>
    obtain ⟨k, w⟩ := y
    intro x hx
    simp only [setByte] at hx
    split at hx
    · split at hx
      · exact .inr hx
      · rename_i h
        rcases List.mem_cons.1 hx with rfl | hx
        · exact .inl ⟨rfl, h⟩
        · exact .inr hx
    · split at hx
      · split at hx
        · exact .inr (by simp [hx])
        · rename_i h
          rcases List.mem_cons.1 hx with rfl | hx
          · exact .inl ⟨rfl, h⟩
          · exact .inr (by simp [hx])
      · rcases List.mem_cons.1 hx with rfl | hx
        · exact .inr (by simp)
        · rcases ih x hx with h | h
          · exact .inl h
          · exact .inr (by simp [h])

theorem setByte_ok (c : List Host.Cell) (a : Nat) (b : Byte) (h : bytesOk c) : bytesOk (setByte c a b) := by
  refine ⟨?_, fun x hx => ?_⟩
  · obtain ⟨hk, -⟩ := h
    induction c with
    | nil => simp only [setByte]; split <;> rfl
    | cons y t ih =>
      obtain ⟨k, w⟩ := y
      have ht := (keysRise_cons _ _).1 hk
      simp only [setByte]
      split
      · rename_i hlt
        split
        · exact hk
        · rw [keysRise_cons]
          refine ⟨fun z hz => ?_, hk⟩
          rcases List.mem_cons.1 hz with rfl | hz
          · exact hlt
          · exact Nat.lt_trans hlt (ht.1 z hz)
      · split
        · rename_i hlt he
          subst he
          split
          · exact ht.2
          · rw [keysRise_cons]; exact ht
        · rename_i hlt he
          rw [keysRise_cons]
          refine ⟨fun z hz => ?_, ih ht.2⟩
          rcases mem_setByte t a b z hz with ⟨rfl, -⟩ | hz
          · show k < a; omega
          · exact ht.1 z hz
  · rcases mem_setByte c a b x hx with ⟨rfl, hb⟩ | hx
    · exact hb
    · exact h.2 x hx

theorem setBytes_ok (c : List Host.Cell) (a : Nat) (b : Bytes) (h : bytesOk c) : bytesOk (setBytes c a b) := by
  induction b generalizing c a with
  | nil => exact h
  | cons x t ih => exact ih _ _ (setByte_ok c a x h)

theorem wf_iff (m : Mem) : Memory.wf m = true ↔ bytesOk m.data ∧ keysRise m.raw = true := by
  simp only [Memory.wf, bytesOk, Bool.and_eq_true, List.all_eq_true, bne_iff_ne]

@[simp] theorem defined_data (m : Mem) (a n : Nat) : (m.defined a n).data = m.data := by unfold Mem.defined; split <;> rfl
@[simp] theorem defined_raw (m : Mem) (a n : Nat) : (m.defined a n).raw = m.raw := by unfold Mem.defined; split <;> rfl
@[simp] theorem defined_fills (m : Mem) (a n : Nat) : (m.defined a n).fills = m.fills := by unfold Mem.defined; split <;> rfl

/-- Storing a word keeps the canonical form. -/
theorem storeWord_wf (m : Mem) (w : Nat) (s : StoredWord) (h : Memory.wf m = true) : Memory.wf (storeWord m w s) = true := by
  rw [wf_iff] at *
  refine ⟨setBytes_ok _ _ _ h.1, ?_⟩
  show keysRise (if s = plainWord m w (s.setWidth 32) then tdel m.raw w else tput m.raw w s) = true
  split
  · exact keysRise_filter _ _ h.2
  · exact keysRise_tput _ _ _ h.2

theorem poisonAt_wf (m : Mem) (w : Nat) (h : Memory.wf m = true) : Memory.wf (poisonAt m w) = true := storeWord_wf _ _ _ h

theorem putBytes_wf (m : Mem) (a : Nat) (b : Bytes) (h : Memory.wf m = true) : Memory.wf (putBytes m a b) = true := by
  rw [wf_iff] at *
  exact ⟨setBytes_ok _ _ _ h.1, by simpa [putBytes] using h.2⟩

theorem fold_wf {α : Type} (f : Mem → α → Mem) (hf : ∀ m x, Memory.wf m = true → Memory.wf (f m x) = true) (l : List α) (m : Mem)
    (h : Memory.wf m = true) : Memory.wf (l.foldl f m) = true := by
  induction l generalizing m with
  | nil => exact h
  | cons x t ih => exact ih _ (hf _ _ h)

theorem prepareWord_wf (a n : Nat) (m : Mem) (e : Nat × StoredWord) (h : Memory.wf m = true) : Memory.wf (prepareWord a n m e) = true := by
  unfold prepareWord
  split
  · exact storeWord_wf _ _ _ h
  · split <;> exact storeWord_wf _ _ _ h

theorem writeAround_wf (m : Mem) (a : Nat) (b : Bytes) (h : Memory.wf m = true) : Memory.wf (writeAround m a b) = true := by
  unfold writeAround
  split
  · exact putBytes_wf _ _ _ h
  · refine fold_wf _ (fun m w hm => ?_) _ _ h
    split
    · exact storeWord_wf _ _ _ hm
    · exact hm

/-- A write keeps the canonical form. -/
theorem memWrite_wf (m : Mem) (a : Nat) (b : Bytes) (h : Memory.wf m = true) : Memory.wf (memWrite m a b) = true :=
  writeAround_wf _ _ _ (fold_wf _ (fun m e hm => prepareWord_wf _ _ m e hm) _ _ h)

theorem memPoison_wf (m : Mem) (a n : Nat) (h : Memory.wf m = true) : Memory.wf (memPoison m a n) = true :=
  fold_wf _ (fun m w hm => poisonAt_wf m w hm) _ _ h

theorem filter_ok (c : List Host.Cell) (f : Host.Cell → Bool) (h : bytesOk c) : bytesOk (c.filter f) :=
  ⟨keysRise_filter _ _ h.1, fun x hx => h.2 x (List.mem_filter.1 hx).1⟩

theorem memFill_wf (m : Mem) (a n : Nat) (h : Memory.wf m = true) : Memory.wf (memFill m a n) = true := by
  rw [wf_iff] at *
  exact ⟨filter_ok _ _ h.1, keysRise_filter _ _ h.2⟩

theorem memZero_wf (m : Mem) (a n : Nat) (h : Memory.wf m = true) : Memory.wf (memZero m a n) = true := by
  rw [wf_iff] at *
  exact ⟨filter_ok _ _ h.1, keysRise_filter _ _ h.2⟩

theorem memUndefine_wf (m : Mem) (a n : Nat) (h : Memory.wf m = true) : Memory.wf (memUndefine m a n) = true := by
  have := memZero_wf m a n h
  rw [wf_iff] at *
  exact this

/-- A store that is performed keeps the canonical form. -/
theorem storeNow_wf (p : Pkg) (a : Nat) (b : Bytes) (poison : Bool) (h : Memory.wf p.mem = true) (hd : (markDirty (countMoved (enterSkip p a) a b.length) a b.length).mem = p.mem) :
    Memory.wf (storeNow p a b poison).mem = true := by
  unfold storeNow
  dsimp only
  rw [hd]
  split
  · exact memPoison_wf _ _ _ h
  · exact memWrite_wf _ _ _ h

theorem reset_mem_wf : Memory.wf State.reset.pkg.mem = true := by decide

/-- A byte just put is read back. -/
theorem getByte_setByte_self (c : List Host.Cell) (a : Nat) (b : Byte) (h : keysRise c = true) : getByte (setByte c a b) a = b := by
  induction c with
  | nil => simp only [setByte]; split <;> simp_all [getByte]
  | cons y t ih =>
    obtain ⟨k, w⟩ := y
    have ht := (keysRise_cons _ _).1 h
    have absent : ∀ (l : List Host.Cell), (∀ z ∈ l, a < z.1) → getByte l a = 0 := by
      intro l hl
      induction l with
      | nil => rfl
      | cons z l ih2 =>
        obtain ⟨j, v⟩ := z
        have := hl (j, v) (by simp)
        simp only [getByte]
        rw [if_neg (by simp at this; omega)]
        exact ih2 (fun z hz => hl z (by simp [hz]))
    simp only [setByte]
    split
    · rename_i hlt
      split
      · rename_i hb
        subst hb
        exact absent _ (fun z hz => by
          rcases List.mem_cons.1 hz with rfl | hz
          · exact hlt
          · exact Nat.lt_trans hlt (ht.1 z hz))
      · simp [getByte]
    · split
      · rename_i hlt he
        subst he
        split
        · rename_i hb
          subst hb
          exact absent _ ht.1
        · simp [getByte]
      · rename_i hlt he
        simp only [getByte]
        rw [if_neg he]
        exact ih ht.2

theorem getByte_setByte_ne (c : List Host.Cell) {a a' : Nat} (b : Byte) (h : a' ≠ a) : getByte (setByte c a b) a' = getByte c a' := by
  induction c with
  | nil => simp only [setByte]; split <;> simp [getByte]; intro hh; exact absurd hh.symm h
  | cons y t ih =>
    obtain ⟨k, w⟩ := y
    simp only [setByte]
    split
    · split
      · rfl
      · simp [getByte, Ne.symm h]
    · split
      · rename_i hlt he
        subst he
        split
        · simp [getByte, Ne.symm h]
        · simp [getByte, Ne.symm h]
      · simp only [getByte]
        split
        · rfl
        · exact ih

/-- A byte outside a written range reads as before. -/
theorem getByte_setBytes_out (c : List Host.Cell) (a : Nat) (b : Bytes) (a' : Nat) (h : a' < a ∨ a + b.length ≤ a') :
    getByte (setBytes c a b) a' = getByte c a' := by
  induction b generalizing c a with
  | nil => rfl
  | cons x t ih =>
    simp only [List.length_cons] at h
    simp only [setBytes]
    rw [ih _ _ (by omega), getByte_setByte_ne _ _ (by omega)]

/-- A byte inside a written range reads as written. -/
theorem getByte_setBytes_in (c : List Host.Cell) (a : Nat) (b : Bytes) (i : Nat) (h : i < b.length) (hc : bytesOk c) :
    getByte (setBytes c a b) (a + i) = b[i] := by
  induction b generalizing c a i with
  | nil => simp at h
  | cons x t ih =>
    simp only [setBytes]
    cases i with
    | zero =>
      rw [getByte_setBytes_out _ _ _ _ (by omega)]
      simpa using getByte_setByte_self c a x hc.1
    | succ i =>
      have := ih (setByte c a x) (a + 1) i (by simpa using h) (setByte_ok c a x hc)
      rw [show a + (i + 1) = a + 1 + i by omega, this]
      rfl

theorem leBytes_length (n v : Nat) : (leBytes n v).length = n := by
  induction n generalizing v with
  | zero => rfl
  | succ n ih => simp [leBytes, ih]

/-- A number below 256 ^ n is what its n bytes spell. -/
theorem leNat_leBytes (n v : Nat) (h : v < 256 ^ n) : leNat (leBytes n v) = v := by
  induction n generalizing v with
  | zero => simp at h; simp [leBytes, leNat, h]
  | succ n ih =>
    simp only [leBytes, leNat]
    rw [ih (v / 256) (by rw [Nat.div_lt_iff_lt_mul (by omega)]; rw [Nat.pow_succ] at h; exact h)]
    simp only [BitVec.toNat_ofNat]
    omega

/-- A range that was written is defined. -/
theorem defined_cut (m : Mem) (a n i : Nat) (h : i < n) :
    (m.defined a n).stale.find? (fun s => decide (s.1 ≤ a + i) && decide (a + i < s.1 + s.2.1)) = none := by
  rw [List.find?_eq_none]
  intro s hs
  unfold Mem.defined at hs
  split at hs
  · rename_i he
    rw [List.isEmpty_iff.1 he] at hs
    simp at hs
  · rw [List.mem_flatMap] at hs
    obtain ⟨t, -, ht⟩ := hs
    unfold cutStale at ht
    simp only [Bool.and_eq_true, decide_eq_true_eq, not_and]
    split at ht
    · rw [List.mem_append] at ht
      rcases ht with ht | ht
      · split at ht
        · simp at ht; subst ht; simp; omega
        · simp at ht
      · split at ht
        · simp at ht; subst ht; simp; omega
        · simp at ht
    · rename_i hn
      simp at ht
      subst ht
      omega

/-- Bytes just put over a range read back, undefined ranges and all. -/
theorem rawBytes_put (m : Mem) (a : Nat) (b : Bytes) (raw : Tbl StoredWord) (h : bytesOk m.data) :
    rawBytes { m.defined a b.length with data := setBytes m.data a b, raw := raw } a b.length = b := by
  apply List.ext_getElem
  · unfold rawBytes getBytes; split <;> simp
  · intro i h1 h2
    unfold rawBytes
    split
    · simpa [getBytes] using getByte_setBytes_in m.data a b i h2 h
    · simp only [List.getElem_map, List.getElem_range]
      unfold memByte
      dsimp only
      rw [defined_cut m a b.length i h2]
      exact getByte_setBytes_in m.data a b i h2 h

/-- A word just stored is read back as it was stored (R243). -/
theorem storedWord_storeWord (m : Mem) (w : Nat) (s : StoredWord) (h : Memory.wf m = true) : storedWord (storeWord m w s) w = s := by
  rw [wf_iff] at h
  have hd : dataWord (storeWord m w s) w = s.setWidth 32 := by
    unfold dataWord
    have := rawBytes_put m (4 * w) (leBytes 4 (s.setWidth 32).toNat)
      (if s = plainWord m w (s.setWidth 32) then tdel m.raw w else tput m.raw w s) h.1
    rw [leBytes_length] at this
    have e : rawBytes (storeWord m w s) (4 * w) 4 = leBytes 4 (s.setWidth 32).toNat := this
    rw [e, leNat_leBytes _ _ (by have := (s.setWidth 32).isLt; omega)]
    exact BitVec.ofNat_toNat 32 _ |>.trans (by simp)
  have hf : ∀ d, plainWord (storeWord m w s) w d = plainWord m w d := by
    intro d
    have : (storeWord m w s).fills = m.fills := by simp [storeWord]
    have e : inFill (storeWord m w s) w = inFill m w := by unfold inFill; rw [this]
    unfold plainWord
    rw [e]
  unfold storedWord
  rw [hd, hf]
  show (tfind (if s = plainWord m w (s.setWidth 32) then tdel m.raw w else tput m.raw w s) w).getD _ = s
  split
  · rename_i he
    have : ∀ l : Tbl StoredWord, tfind (tdel l w) w = none := by
      intro l
      induction l with
      | nil => rfl
      | cons x t ih =>
        obtain ⟨k, v⟩ := x
        simp only [tdel, List.filter_cons]
        split
        · rename_i hk
          simp only [tfind]
          rw [if_neg (by simpa using hk)]
          exact ih
        · exact ih
    rw [this]
    exact he.symm
  · rw [tfind_tput_self]
    rfl

end Sys2Proof.Machine
end

