-- ==== Sys2Proof/Laws/Start.lean ====
section
/-! SUPPORT. What starting a step sets before its blocks start. -/

namespace Sys2Proof.Machine

theorem foldNow_fold (l : List Nat) (hl : ∀ r ∈ l, r < 256) (p : Pkg) (e : Entry) (sub : Nat) (hs : sub < 256) (h : e.index ≠ Ix.regionLogicalBlockMap.index) :
    rd (l.foldl (fun p r => wr p Ix.regionLogicalBlockMap r (foldMap p r)) p) e sub = rd p e sub
    ∧ (l.foldl (fun p r => wr p Ix.regionLogicalBlockMap r (foldMap p r)) p).parts = p.parts
    ∧ (l.foldl (fun p r => wr p Ix.regionLogicalBlockMap r (foldMap p r)) p).now = p.now := by
  induction l generalizing p with
  | nil => exact ⟨rfl, rfl, rfl⟩
  | cons a l ih =>
    obtain ⟨h1, h2, h3⟩ := ih (fun r hr => hl r (by simp [hr])) (wr p Ix.regionLogicalBlockMap a (foldMap p a))
    have := hl a (by simp)
    exact ⟨h1.trans (rd_wr_ne _ _ h hs (by omega)), h2, h3⟩

/-- Folding the regions leaves every partition, rack time and every entry but the block maps. -/
theorem foldNow_keeps (p : Pkg) (pp : Nat) : (foldNow p pp).parts = p.parts ∧ (foldNow p pp).now = p.now
    ∧ ∀ (e : Entry) (sub : Nat), sub < 256 → e.index ≠ Ix.regionLogicalBlockMap.index → rd (foldNow p pp) e sub = rd p e sub := by
  have hl : ∀ r ∈ regionsOf p pp, r < 256 := by
    intro r hr
    simp [regionsOf] at hr
    omega
  exact ⟨(foldNow_fold _ hl p Ix.pcStepNumber 0 (by omega) (by decide)).2.1, (foldNow_fold _ hl p Ix.pcStepNumber 0 (by omega) (by decide)).2.2,
    fun e sub hs h => (foldNow_fold _ hl p e sub hs h).1⟩

/-- A step that starts begins (R198, R418, R445). -/
theorem startStep_begins (p : Pkg) (pp : Nat) (n : StepNotice) (again : Bool) (hpp : pp < 256) :
    ∃ r, r.now = p.now ∧ Begins r pp n again (startStep p pp n again) := by
  unfold startStep
  dsimp only
  refine ⟨_, ?now, ?num, ?_, ?ns, ?_, ?_, ?_, ?_, ?_, ?_, ?_, ?_, rfl⟩
  case now =>
    simp only [noteRows]
    show (foldNow _ pp).now = _
    rw [(foldNow_keeps _ _).2.1]; rfl
  case num =>
    show rd (foldNow _ pp) _ _ = _
    rw [(foldNow_keeps _ _).2.2 _ _ hpp (by decide)]
    show rd (wr p Ix.pcStepNumber pp n.step) _ _ = _
    simp [Ix.pcStepNumber, EType.width]
  case ns =>
    simp only [noteRows, part_modSc]
    have : ∀ (q : Pkg) (tf : Tf), part { q with tf := tf } pp = part q pp := fun _ _ => rfl
    rw [this, part_of_parts (foldNow_keeps _ _).1]
    show _ = (foldNow _ pp).now
    rw [(foldNow_keeps _ _).2.1]
    simp
    rfl
  all_goals
    simp only [noteRows, part_modSc]
    have : ∀ (q : Pkg) (tf : Tf), part { q with tf := tf } pp = part q pp := fun _ _ => rfl
    rw [this, part_of_parts (foldNow_keeps _ _).1]
    simp

end Sys2Proof.Machine
end

