-- ==== Sys2Proof/WellFormed.lean ====
section
/-! DEFINITION. Which commands are well formed: every operand that the spec bounds lies within its field's width or range. What a package
does with bytes that break their format's own rules is not decided here but by the command's meaning. -/

namespace Sys2Proof

/-- A number of `w` bits. -/
def fits (w n : Nat) : Bool := decide (n < 2 ^ w)

/-- A logical package id (R3). -/
def packageId (n : Nat) : Bool := fits 10 n

/-- Field widths of a packet (R320, R336); at most 512 bytes of data (R330). -/
def Packet.wellFormed (k : Packet) : Bool :=
  packageId k.dest && packageId k.src && fits 2 k.cls && fits 2 k.detours && fits 2 k.prio && fits 16 k.version && fits 8 k.type
  && fits 6 k.len && fits 32 k.step && fits 8 k.incarnation && fits 24 k.tseq && fits 46 k.addr && fits 4 k.aop && fits 10 k.srcUnit
  && fits 16 k.tag && fits 9 k.bytes && fits 24 k.floor && fits 16 k.status && decide (k.data.length ≤ 512)

/-- Field widths of a request (R400), its session and sequence (R391). -/
def DapRequest.wellFormed (q : DapRequest) : Bool :=
  fits 32 q.session && decide (q.transport < 3) && fits 64 q.sequence && fits 32 q.requestId && fits 8 q.reserved && fits 8 q.type
  && fits 8 q.subindex && fits 16 q.index && fits 16 q.length && fits 32 q.arg && fits 64 q.arg2

/-- Field widths of a rack message (R372). -/
def RackMessage.wellFormed (m : RackMessage) : Bool :=
  fits 16 m.magic && fits 8 m.version && fits 8 m.type && fits 16 m.sender && fits 16 m.bodyBytes && fits 64 m.sequence && fits 64 m.timeNs
  && fits 32 m.step && fits 32 m.keyEpoch

/-- Field widths of a message between Tier Managers (R256). -/
def TmMessage.wellFormed (m : TmMessage) : Bool :=
  fits 8 m.type && fits 8 m.version && fits 16 m.sender && fits 32 m.sequence && fits 16 m.units && fits 16 m.graceMs && fits 64 m.deadlineNs
  && decide (m.unitList.length ≤ 16) && m.unitList.all (fits 16)

/-- A row and an end notice of a router layer table's step (R138, R151). -/
def DispatchedRow.wellFormed (r : DispatchedRow) : Bool :=
  fits 32 r.step && decide (r.layer < 1024) && decide (r.expert < 512) && decide (r.source < 64) && fits 16 r.ltRow && decide (r.plane < 8)
def EndNotice.wellFormed (n : EndNotice) : Bool :=
  fits 32 n.step && decide (n.layer < 1024) && decide (n.expert < 512) && decide (n.source < 64) && fits 16 n.count

/-- The header of a collective packet (R330). -/
def CollHeader.wellFormed (h : CollHeader) : Bool :=
  fits 16 h.group && fits 8 h.mode && fits 8 h.dimension && fits 16 h.occurrence && fits 16 h.sender && fits 32 h.line && fits 32 h.element
  && fits 32 h.step && fits 16 h.version

/-- The records of R442. -/
def PoisonRecord.wellFormed (r : PoisonRecord) : Bool :=
  fits 32 r.step && fits 16 r.rackId && fits 16 r.sender && fits 8 r.cause && fits 8 r.region && fits 8 r.block && fits 32 r.descriptor
  && fits 32 r.tile
def ReportRecord.wellFormed (r : ReportRecord) : Bool :=
  fits 32 r.step && fits 16 r.sender && fits 8 r.verdict && fits 32 r.audited && fits 32 r.unaudited && fits 32 r.disagreements

/-- A configuration index and table lengths of a step notice (R198, R204). -/
def StepNotice.wellFormed (n : StepNotice) : Bool :=
  fits 32 n.step && decide (n.config < 8) && fits 16 n.genLength && fits 16 n.preLength

/-- Whether a command's operands keep their fields' widths and ranges. -/
def Instr.wellFormed : Instr → Bool
  | .stepNoticeArrival _ n => n.wellFormed
  | .badOperandWord _ _ completion address => fits 16 completion && fits 46 address
  | .dispatchedRowArrival _ r => r.wellFormed
  | .endNoticeArrival _ n => n.wellFormed
  | .cancelNoticeArrival _ step gen pre => fits 32 step && gen.all (fits 16) && pre.all (fits 16)
  | .tokenRecordForward _ package _ => packageId package
  | .samplerCountArrival _ package step count => packageId package && fits 32 step && fits 32 count
  | .lengthTableArrival _ _ step _ _ => fits 32 step
  | .advert m | .borrow m | .grant m | .refuse m | .reclaim m | .release m => m.wellFormed
  | .reclaimDeadline lender unit | .unitIdleRelease lender unit => packageId lender && fits 16 unit
  | .unitPoisonFillDone unit => fits 16 unit
  | .dmaPieceError _ _ _ address status => fits 46 address && fits 16 status
  | .controlRegisterWrite address _ _ _ => fits 46 address
  | .flitReceive _ flit => flit.length == 256
  | .capabilityRecord _ c => decide (c.x < 4) && decide (c.y < 16) && decide (c.z < 16) && decide (c.link < 24)
  | .suspectNotice _ n => packageId n.sender && decide (n.direction < 6) && packageId n.neighbour
  | .returnNotice _ package | .departureNotice _ package => packageId package
  | .collPartial _ h d | .collGather _ h d => h.wellFormed && decide (d.length ≤ 512)
  | .collAbort _ h => h.wellFormed
  | .read k | .write k | .atomic k | .counterInc k | .retire k | .readData k | .done k | .atomicResult k | .error k | .hostRequest k =>
    k.wellFormed
  | .responseTimeout dest tag => decide (dest ≤ 1024) && fits 16 tag
  | .asyncCopyComplete _ status => fits 16 status
  | .ucieModuleRestored _ rate _ => [8, 16, 32].contains rate
  | .cap _ m | .digest _ m | .replica _ m => m.wellFormed
  | .finish session transport _ sequence _ _ | .close session transport _ sequence _ =>
    fits 32 session && decide (transport < 3) && fits 64 sequence
  | .dapRead q | .dapWrite q | .readSegment q | .writeBegin q | .writeSegment q | .writeCommit q | .writeAbandon q | .domainWrite q
  | .readPending q | .describe q | .next q | .keepalive q => q.wellFormed
  | .dapHandshakeTimeout session | .sessionIdleTimeout session | .transferIdleTimeout session _ => fits 32 session
  | .auditTileComputed _ _ descriptor tile _ | .arbiterResult _ _ descriptor tile _ => fits 32 descriptor && fits 32 tile
  | .poisonNotice _ r => r.wellFormed
  | .auditReport _ r => r.wellFormed
  | .recutComplete _ package | .pauseRequest _ package _ => packageId package
  | .ageingCheck islands => islands.all (fun i => decide (i < 14))
  | _ => true

end Sys2Proof
end

