-- ==== Sys2Proof/Tests/Slice0.lean ====
section
/-! SUPPORT. The model's own tests: the well-formedness checks, a few values that the spec works out, and for every statement with
hypotheses states that meet them, clause by clause. -/

namespace Sys2Proof.Tests

open Sys2Proof Sys2Proof.Machine

/-- Commands that a check refuses, one for each check. -/
def illPackets : List Packet :=
  [{ dest := 1024 }, { src := 1024 }, { cls := 4 }, { detours := 4 }, { prio := 4 }, { version := 65536 }, { type := 256 }, { len := 64 },
   { step := 2 ^ 32 }, { incarnation := 256 }, { tseq := 2 ^ 24 }, { addr := 2 ^ 46 }, { aop := 16 }, { srcUnit := 1024 }, { tag := 65536 },
   { bytes := 512 }, { floor := 2 ^ 24 }, { status := 65536 }, { data := List.replicate 513 0 }]

set_option maxRecDepth 20000 in
theorem test_wf_packets : illPackets.all (fun k => !(Instr.read k).wellFormed && !(Instr.hostRequest k).wellFormed) = true ∧ (Instr.read {}).wellFormed = true := by decide

def illRequests : List DapRequest :=
  [{ session := 2 ^ 32 }, { transport := 3 }, { sequence := 2 ^ 64 }, { requestId := 2 ^ 32 }, { reserved := 256 }, { type := 256 }, { subindex := 256 },
   { index := 65536 }, { length := 65536 }, { arg := 2 ^ 32 }, { arg2 := 2 ^ 64 }]

theorem test_wf_requests : illRequests.all (fun q => !(Instr.dapRead q).wellFormed && !(Instr.next q).wellFormed) = true ∧ (Instr.dapRead {}).wellFormed = true := by decide

def illRack : List RackMessage :=
  [{ magic := 65536 }, { version := 256 }, { type := 256 }, { sender := 65536 }, { bodyBytes := 65536 }, { sequence := 2 ^ 64 }, { timeNs := 2 ^ 64 }, { step := 2 ^ 32 },
   { keyEpoch := 2 ^ 32 }]

theorem test_wf_rack : illRack.all (fun m => !(Instr.cap 0 m).wellFormed) = true ∧ (Instr.cap 0 {}).wellFormed = true := by decide

def illTm : List TmMessage :=
  [{ type := 256 }, { version := 256 }, { sender := 65536 }, { sequence := 2 ^ 32 }, { units := 65536 }, { graceMs := 65536 }, { deadlineNs := 2 ^ 64 },
   { unitList := List.replicate 17 0 }, { unitList := [65536] }]

theorem test_wf_tm : illTm.all (fun m => !(Instr.advert m).wellFormed && !(Instr.release m).wellFormed) = true ∧ (Instr.advert {}).wellFormed = true := by decide

def illNotices : List Instr :=
  [.stepNoticeArrival 0 { step := 2 ^ 32 }, .stepNoticeArrival 0 { config := 8 }, .stepNoticeArrival 0 { genLength := 65536 }, .stepNoticeArrival 0 { preLength := 65536 },
   .badOperandWord 0 false 65536 0, .badOperandWord 0 false 0 (2 ^ 46),
   .dispatchedRowArrival 0 { step := 2 ^ 32 }, .dispatchedRowArrival 0 { layer := 1024 }, .dispatchedRowArrival 0 { expert := 512 }, .dispatchedRowArrival 0 { source := 64 },
   .dispatchedRowArrival 0 { ltRow := 65536 }, .dispatchedRowArrival 0 { plane := 8 },
   .endNoticeArrival 0 { step := 2 ^ 32 }, .endNoticeArrival 0 { layer := 1024 }, .endNoticeArrival 0 { expert := 512 }, .endNoticeArrival 0 { source := 64 }, .endNoticeArrival 0 { count := 65536 },
   .cancelNoticeArrival 0 (2 ^ 32) [] [], .cancelNoticeArrival 0 0 [65536] [], .cancelNoticeArrival 0 0 [] [65536], .tokenRecordForward 0 1024 [],
   .samplerCountArrival 0 1024 0 0, .samplerCountArrival 0 0 (2 ^ 32) 0, .samplerCountArrival 0 0 0 (2 ^ 32), .lengthTableArrival 0 0 (2 ^ 32) [] [],
   .reclaimDeadline 1024 0, .reclaimDeadline 0 65536, .unitIdleRelease 1024 0, .unitPoisonFillDone 65536, .dmaPieceError 0 0 0 (2 ^ 46) 0, .dmaPieceError 0 0 0 0 65536,
   .suspectNotice 0 { sender := 1024 }, .suspectNotice 0 { direction := 6 }, .suspectNotice 0 { neighbour := 1024 }, .returnNotice 0 1024, .departureNotice 0 1024]

theorem test_wf_notices : illNotices.all (fun i => !i.wellFormed) = true := by decide

def illOthers : List Instr :=
  [.flitReceive 0 [], .capabilityRecord 0 { x := 4 }, .capabilityRecord 0 { y := 16 }, .capabilityRecord 0 { z := 16 }, .capabilityRecord 0 { link := 24 },
   .collAbort 0 { group := 65536 }, .collAbort 0 { mode := 256 }, .collAbort 0 { dimension := 256 }, .collAbort 0 { occurrence := 65536 }, .collAbort 0 { sender := 65536 },
   .collAbort 0 { line := 2 ^ 32 }, .collAbort 0 { element := 2 ^ 32 }, .collAbort 0 { step := 2 ^ 32 }, .collAbort 0 { version := 65536 },
   .collPartial 0 {} (List.replicate 513 0), .responseTimeout 1025 0, .responseTimeout 0 65536, .asyncCopyComplete 0 65536, .ucieModuleRestored 0 9 0,
   .finish (2 ^ 32) 0 0 0 true true, .finish 0 3 0 0 true true, .finish 0 0 0 (2 ^ 64) true true, .close (2 ^ 32) 0 0 0 true,
   .dapHandshakeTimeout (2 ^ 32), .auditTileComputed 0 0 (2 ^ 32) 0 none, .auditTileComputed 0 0 0 (2 ^ 32) none,
   .poisonNotice 0 { step := 2 ^ 32 }, .poisonNotice 0 { rackId := 65536 }, .poisonNotice 0 { sender := 65536 }, .poisonNotice 0 { cause := 256 }, .poisonNotice 0 { region := 256 },
   .poisonNotice 0 { block := 256 }, .poisonNotice 0 { descriptor := 2 ^ 32 }, .poisonNotice 0 { tile := 2 ^ 32 },
   .auditReport 0 { step := 2 ^ 32 }, .auditReport 0 { sender := 65536 }, .auditReport 0 { verdict := 256 }, .auditReport 0 { audited := 2 ^ 32 }, .auditReport 0 { unaudited := 2 ^ 32 },
   .auditReport 0 { disagreements := 2 ^ 32 }, .recutComplete 0 1024, .pauseRequest 0 1024 false, .ageingCheck [14]]

set_option maxRecDepth 20000 in
theorem test_wf_others : illOthers.all (fun i => !i.wellFormed) = true := by decide

/-! Values that the spec works out. -/

/-- The worked example of 00_scope.md: cell 5 of block 3 in region 7, and the package at x 2, y 9, z 1. -/
theorem test_spec_numbers : idOf 2 9 1 = 102 ∧ 7 * 64 + 3 * 8 + 5 = 477 ∧ 59 ∈ blocksOfRegion 7 := by decide

set_option maxRecDepth 20000 in
/-- The worked example below R247: data 1 is stored as 0x43_0000_0001; a flip of data bit 0 is corrected, one of data bit 0 and check bit 5 is not. -/
theorem test_spec_word : encodeWord 1 = 0x4300000001 ∧ decodeWord (0x4300000001 ^^^ 1) = .data 1 true ∧ decodeWord (0x4300000001 ^^^ (1#40 <<< 37) ^^^ 1) = .uncorrectable := by decide

set_option maxRecDepth 20000 in
/-- The worked example of 06_expert_routing.md: 64 slots among 16 sources. -/
theorem test_spec_shares : (List.range 16).all (fun s => shareOf 64 16 s == 4) = true := by decide

/-- Group 0 of the worked example of 04_narrow_arithmetic.md (its column v). -/
def group0 : List Word :=
  [0x40466666#32, 0xC0000000#32, 0x3ECCCCCD#32, 0x3E19999A#32, 0xBF666666#32, 0x3FD9999A#32, 0xC0433333#32, 0x00000000#32,
   0x400CCCCD#32, 0xBE99999A#32, 0x3F8CCCCD#32, 0x3F19999A#32, 0xBFB33333#32, 0x40266666#32, 0xBD4CCCCD#32, 0x3F570A3D#32]

/-- The groups 0, 1, 2 and 5 of that block, by their largest elements, and others of zeros. -/
def block0 : List Word :=
  group0 ++ (0x3F333333#32 :: List.replicate 15 0) ++ (0x3C23D70A#32 :: List.replicate 15 0) ++ List.replicate 32 0 ++ (0x42520000#32 :: List.replicate 15 0) ++ List.replicate 160 0

/-- The block scale is 0x7A, the sub-scales are 0x59, 0x47, 0x16 and, at position 5, 0x79, and group 0 packs into the bytes shown. -/
theorem test_spec_k4 : (quantK4 16 block0).2.2.1 = 0x7A ∧ (quantK4 16 block0).2.1.take 6 = [0x59, 0x47, 0x16, 0, 0, 0x79]
    ∧ packNibbles ((quantK4 16 block0).1.take 16) = [0xE7, 0x11, 0x5B, 0x0F, 0x96, 0x24, 0x6C, 0x30] := by decide +kernel

/-! For every statement with hypotheses, concrete states and operands that meet them, clause by clause. -/

/-- A package that serves, changed by `f`, with rack time 0. -/
def on (f : Pkg → Pkg) : State := { pkg := f (wr {} Ix.btStartState 0 8) }

/-- The package of `on` with scalars put one by one. -/
def sets (l : List (Entry × Nat × Nat)) (p : Pkg) : Pkg := l.foldl (fun p x => wr p x.1 x.2.1 x.2.2) p

/-- Partition 0 with region 0, in a state. -/
def part0 (st : Nat) : Pkg → Pkg := sets [(Ix.pcState, 0, st), (Ix.pcRegionMask, 0, 1)]

/-- Partition `pp` a rack partition of one package that package 5 leads. -/
def ledBy5 (pp : Nat) (p : Pkg) : Pkg := sets [(Ix.scLeadPackage, pp, 5)] (wrB p Ix.pcRackPartition pp (List.replicate 4 0 ++ [1, 1, 1, 1] ++ List.replicate 8 0))

/-- The syndrome, the parity and the distance to the poison pattern that a stored word has. -/
def syndrome (w : StoredWord) : Nat :=
  ((List.range 6).filter (fun k => (encodeWord (w.setWidth 32)).getLsbD (32 + k) != w.getLsbD (32 + k))).foldl (fun n k => n + 2 ^ k) 0

def parity (w : StoredWord) : Bool := (List.range 39).foldl (fun b i => b != w.getLsbD i) false

def distance (w : StoredWord) : Nat := ((List.range 39).filter (fun i => w.getLsbD i != (0x7F00000000#40).getLsbD i)).length

set_option maxRecDepth 40000 in
/-- A word for every row of the table of R244 and every clause about POISON. -/
theorem test_wit_WordsDecoded :
    (parity 0x4300000001 = false ∧ syndrome 0x4300000001 = 0) ∧ (parity 0x0300000001 = true ∧ syndrome 0x0300000001 = 0)
    ∧ (parity 0x6300000001 = true ∧ syndrome 0x6300000001 = 2 ^ 5) ∧ (parity 0x4300000000 = true ∧ syndrome 0x4300000000 = codePositions.getD 0 0)
    ∧ (parity 0x6000000008 = true ∧ 39 ≤ syndrome 0x6000000008) ∧ (parity 0x6300000000 = false ∧ syndrome 0x6300000000 ≠ 0)
    ∧ ((0xFF00000001#40).getLsbD 39 = true ∧ distance 0xFF00000001 = 1) ∧ ((0x7F00000000#40).getLsbD 39 = false ∧ distance 0x7F00000000 = 0)
    ∧ ((0xC300000001#40).getLsbD 39 = true ∧ 1 < distance 0xC300000001 ∧ decodeClean 0xC300000001 = .data 1 false)
    ∧ ((0xE300000000#40).getLsbD 39 = true ∧ 1 < distance 0xE300000000 ∧ decodeClean 0xE300000000 = .uncorrectable)
    ∧ ((0x4300000001#40).getLsbD 39 = false ∧ distance 0x4300000001 ≠ 0) := by decide

theorem test_wit_StoredBytesReadBack :
    (∃ m : Mem, m = { data := [(4, 7)], fills := [(4, 4)] } ∧ Memory.wf m = true) ∧ (8 % 4 = 0 ∧ [(1 : Byte), 2, 3, 4].length % 4 = 0) := ⟨⟨_, rfl, by decide⟩, by decide⟩

theorem test_wit_UnpoweredIgnoresCommands : powered State.reset.pkg = false ∧ Instr.pkgReset ≠ .powerOnStart ∧ powered (on id).pkg = true := by decide

theorem test_wit_CellErrorsComplete :
    powered (on id).pkg = true
    ∧ (cellHidden (on id).pkg 767 = false ∧ blockHidden (on id).pkg 95 = false ∧ tget (blk (on id).pkg 95).cellErrors 767 0 = 0)
    ∧ rdAt (on (fun p => wrAt p Ix.cellState 11 63 3)).pkg Ix.cellState 11 63 = 3 := by decide

theorem test_wit_PassFaultsComplete :
    (blockHidden (on id).pkg 95 = false ∧ rd (on id).pkg Ix.blockHaltOnStageFault 95 ≠ 1 ∧ tget (blk (on id).pkg 95).reexecs 0 0 < 2)
    ∧ (rd (on (sets [(Ix.blockHaltOnStageFault, 95, 1)])).pkg Ix.blockHaltOnStageFault 95 = 1)
    ∧ (∃ s : State, s = on (fun p => modBlk p 95 (fun k => { k with reexecs := [(7, 2)] })) ∧ blockHidden s.pkg 95 = false ∧ rd s.pkg Ix.blockHaltOnStageFault 95 ≠ 1 ∧ 2 ≤ tget (blk s.pkg 95).reexecs 7 0)
    ∧ ((blk (on id).pkg 0).gapRaised = false ∧ (blk (on (fun p => modBlk p 0 (fun k => { k with gapRaised := true }))).pkg 0).gapRaised = true)
    ∧ ∃ s : State, s = on (fun p => modBlk (modPc (part0 2 p) 0 (fun q => { q with stepRunning := true })) 7 (fun k => { k with passes := [{}] }))
      ∧ (blk s.pkg 7).passes ≠ [] ∧ partOfBlock s.pkg 7 = some 0 ∧ (part s.pkg 0).ru.poison = none ∧ (part s.pkg 0).pc.stepRunning = true :=
  ⟨by decide, by decide, ⟨_, rfl, by decide⟩, by decide, _, rfl, by decide⟩

theorem test_wit_RegionFaultsComplete :
    ((on id).pkg.tp.fenced.contains 11 = false ∧ regionHidden (on id).pkg 11 = false)
    ∧ (partOfRegion (on (part0 2)).pkg 0 = some 0 ∧ pcState (on (part0 2)).pkg 0 ≠ 0)
    ∧ (gate (on id).pkg Ix.cellHide 0 1 = none ∧ cellHidden (on id).pkg 1 = false
      ∧ (pendingHides (on id).pkg 0).contains 1 = false ∧ hiddenCellCount (on id).pkg 0 + (pendingHides (on id).pkg 0).length < 2)
    ∧ ∃ s : State, s = on (sets [(Ix.blockHiddenCells, 0, 12)]) ∧ gate s.pkg Ix.cellHide 0 1 = none
      ∧ cellHidden s.pkg 1 = false ∧ (pendingHides s.pkg 0).contains 1 = false ∧ 2 ≤ hiddenCellCount s.pkg 0 + (pendingHides s.pkg 0).length :=
  ⟨by decide, by decide, by decide, _, rfl, by decide⟩

theorem test_wit_IntakeCommandsComplete :
    (isLead (on id).pkg 11 = true ∧ pcState (on id).pkg 11 ≠ 6)
    ∧ (isLead (on (ledBy5 11)).pkg 11 = false ∧ pcState (on (ledBy5 11)).pkg 11 ≠ 6)
    ∧ pcState (on (sets [(Ix.pcState, 11, 6)])).pkg 11 = 6
    ∧ gate (on id).pkg Ix.scIntakeReset 0 11 = none := by decide

theorem test_wit_CancelWordsComplete :
    (isLead (on id).pkg 0 = true ∧ pcState (on id).pkg 0 ≠ 6 ∧ (0x4000000000000001#64).toNat / 2 ^ 62 = 1 ∧ bits (0x4000000000000001#64).toNat 61 32 = 0
      ∧ ((part (on id).pkg 0).sc.cancelWords.filter (fun t => decide ((on id).clock.ns < t + 300))).length < 64
      ∧ (∀ r ∈ (part (on id).pkg 0).sc.requests, r.live = true → r.handle ≠ 1))
    ∧ (∃ s : State, s = on (fun p => modSc p 0 (fun q => { q with requests := [{ handle := 1 }] })) ∧ isLead s.pkg 0 = true
      ∧ ∃ r, (part s.pkg 0).sc.requests.find? (fun r => r.live && (if (0x4000000000000001#64).toNat / 2 ^ 62 = 1 then r.handle == (0x4000000000000001#64).toNat % 2 ^ 32 else r.sequence == 1)) = some r)
    ∧ (∃ s : State, s = on (sets [(Ix.scIntakePublished, 0, 2)]) ∧ isLead s.pkg 0 = true ∧ (0x8000000000000001#64).toNat / 2 ^ 62 = 2 ∧ bits (0x8000000000000001#64).toNat 61 48 = 0
      ∧ (∀ r ∈ (part s.pkg 0).sc.requests, r.live = true → r.sequence ≠ 1) ∧ rd s.pkg Ix.scIntakeConsumed 0 ≤ 1 ∧ 1 < rd s.pkg Ix.scIntakePublished 0)
    ∧ (isLead (on id).pkg 0 = true ∧ rd (on id).pkg Ix.scIntakePublished 0 ≤ (0x8000000000000001#64).toNat % 2 ^ 48)
    ∧ (∃ s : State, s = on (fun p => modSc p 0 (fun q => { q with cancelWords := List.replicate 64 0 })) ∧ isLead s.pkg 0 = true
      ∧ 64 ≤ ((part s.pkg 0).sc.cancelWords.filter (fun t => decide (s.clock.ns < t + 300))).length)
    ∧ ((3#64).toNat / 2 ^ 62 ≠ 1 ∧ (3#64).toNat / 2 ^ 62 ≠ 2) ∧ bits (0x4001000000000000#64).toNat 61 48 ≠ 0 ∧ bits (0x4000000100000000#64).toNat 47 32 ≠ 0
    ∧ isLead (on (ledBy5 0)).pkg 0 = false ∧ pcState (on (part0 6)).pkg 0 = 6 :=
  ⟨by decide, ⟨_, rfl, by decide, _, rfl⟩, ⟨_, rfl, by decide⟩, by decide, ⟨_, rfl, by decide⟩, by decide, by decide, by decide, by decide, by decide⟩

theorem test_wit_ConsumerCountsComplete :
    pcState (on id).pkg 0 ≠ 6
    ∧ (∃ s : State, s = on (fun p => { sets [(Ix.seStreamCount, 0, 1)] p with mem := { data := [(0, 1)] } }) ∧ 0 < rd s.pkg Ix.seStreamCount 0 ∧ bits (0x8000000000000064#64).toNat 62 48 = 0
      ∧ (readStream (begun s) 0 0).2.isSome = true)
    ∧ rd (on id).pkg Ix.seStreamCount 0 ≤ 0 := ⟨by decide, ⟨_, rfl, by decide⟩, by decide⟩

theorem test_wit_HeldWritesRetried :
    (∃ s : State, s = on (fun p => modSc p 0 (fun q => { q with refused := [{}] })) ∧ ∃ w l, (part s.pkg 0).sc.refused = w :: l ∧ (part s.pkg 0).sc.refusedRaised = false)
    ∧ ((part (on id).pkg 0).sc.refused = [] ∧ (part (on id).pkg 0).se.refused = []) := ⟨⟨_, rfl, _, _, rfl, rfl⟩, by decide⟩

/-- Partition 0 in a step, its package the lead. -/
def stepping : State := on (fun p => modPc (part0 2 p) 0 (fun q => { q with stepRunning := true, firstStep := false }))

theorem test_wit_StepArrivalsComplete :
    (isLead stepping.pkg 0 = true ∧ (part stepping.pkg 0).pc.stepRunning = true ∧ (part stepping.pkg 0).ru.poison = none ∧ (part stepping.pkg 0).sc.counts = [])
    ∧ (part stepping.pkg 0).se.stepLag0 = false
    ∧ (part { stepping with pkg := modSe stepping.pkg 0 (fun q => { q with stepLag0 := true }) }.pkg 0).se.stepLag0 = true
    ∧ (∀ e < 2, (part stepping.pkg 0).sc.tableSteps.getD e 0 = 0) ∧ (∀ e < 2, stepAhead 1 ((part stepping.pkg 0).sc.tableSteps.getD e 0) = true)
    ∧ (isLead (on (ledBy5 0)).pkg 0 = false ∧ (part (on (ledBy5 0)).pkg 0).sc.starting = none)
    ∧ (∃ s : State, s = on (fun p => modSc (ledBy5 0 p) 0 (fun q => { q with starting := some { step := 1, hasGen := true } })) ∧ isLead s.pkg 0 = false
      ∧ (part s.pkg 0).sc.starting = some { step := 1, hasGen := true }) := ⟨by decide, by decide, by decide, by decide, by decide, by decide, _, rfl, by decide⟩

def poisoned : State := { stepping with pkg := modRu stepping.pkg 0 (fun q => { q with poison := some {}, reports := [{ step := stepOf stepping.pkg 0, sender := ownId stepping.pkg, verdict := 1 }] }) }

theorem test_wit_BoundariesComplete :
    (isLead poisoned.pkg 0 = true ∧ pcState poisoned.pkg 0 = 2 ∧ versionsWhole poisoned.pkg 0 = true ∧ (part poisoned.pkg 0).sc.noticed = false ∧ (part poisoned.pkg 0).pc.stepRunning = true
      ∧ (part poisoned.pkg 0).ru.poison.isSome = true ∧ (part poisoned.pkg 0).ru.recut = []
      ∧ (∀ m ∈ membersOf poisoned.pkg 0, m ∈ poisoned.pkg.tf.holes ∨ ∃ r ∈ (part poisoned.pkg 0).ru.reports, r.sender = m ∧ r.verdict = 1 ∧ r.step = stepOf poisoned.pkg 0))
    ∧ (∃ s : State, s = on (fun p => modPc (part0 2 p) 0 (fun q => { q with firstStep := false })) ∧ isLead s.pkg 0 = true ∧ mayStart s.pkg 0 = true ∧ pcState s.pkg 0 = 2
      ∧ (part s.pkg 0).pc.firstStep = false) := ⟨by decide, ⟨_, rfl, by decide⟩⟩

theorem test_wit_NoticeStartsStep :
    (∃ s : State, s = on (fun p => modSc (part0 2 p) 0 (fun q => { q with starting := some {} })) ∧ isLead s.pkg 0 = true ∧ pcState s.pkg 0 = 2 ∧ versionsWhole s.pkg 0 = true
      ∧ (part s.pkg 0).sc.starting = some {})
    ∧ (∃ s : State, s = { poisoned with pkg := ledBy5 0 poisoned.pkg } ∧ isLead s.pkg 0 = false ∧ pcState s.pkg 0 = 2 ∧ versionsWhole s.pkg 0 = true ∧ tablesHere s.pkg 0 {} = true
      ∧ (part s.pkg 0).pc.stepRunning = true ∧ (part s.pkg 0).ru.poison.isSome = true ∧ 0 = stepOf s.pkg 0)
    ∧ (∃ s : State, s = on (fun p => ledBy5 0 (part0 2 p)) ∧ isLead s.pkg 0 = false ∧ pcState s.pkg 0 = 2 ∧ versionsWhole s.pkg 0 = true ∧ tablesHere s.pkg 0 { step := 1 } = true
      ∧ (part s.pkg 0).pc.stepRunning = false ∧ (part s.pkg 0).pc.stopPending = false ∧ (part s.pkg 0).pc.pausePending = false) := ⟨⟨_, rfl, by decide⟩, ⟨_, rfl, by decide⟩, ⟨_, rfl, by decide⟩⟩

theorem test_wit_TableWritesComplete :
    (∀ st ∈ [1, 2], ∀ e ∈ [Ix.qrRecipeOverrides, Ix.akLayerTable, Ix.erLayerTable, Ix.scEngineConfigs, Ix.scTenantTable], gate (on (part0 st)).pkg e 0 0 = none)
    ∧ tfind (on (part0 2)).pkg.wm.arms 0 = none ∧ pcState (on (part0 2)).pkg 0 = 2 ∧ pcState (on (part0 1)).pkg 0 = 1
    ∧ (overridesOk (on (part0 2)).pkg 0 (List.replicate 32 0) = true ∧ layerTableOk (on (part0 2)).pkg 0 [] = true ∧ routerTableOk (List.replicate 32 0) = true ∧ configsOk (on (part0 2)).pkg 0 [] = true ∧ tenantTableOk [] = true)
    ∧ (∀ x ∈ [(Ix.qrRecipeOverrides, List.replicate 32 0), (Ix.akLayerTable, []), (Ix.erLayerTable, List.replicate 32 0), (Ix.scEngineConfigs, []), (Ix.scTenantTable, [])],
      dueAt x.1 (.bytes x.2) ((stepOf (on (part0 1)).pkg 0 + 1) % 2 ^ 32) = true)
    ∧ dueAt Ix.scEngineConfigs (.bytes (leBytes 4 5 ++ List.replicate 28 0)) ((stepOf (on (part0 1)).pkg 0 + 1) % 2 ^ 32) = false
    ∧ ((∃ s : State, s = on (fun p => { part0 2 p with wm := { p.wm with arms := [(0, {})] } }) ∧ tfind s.pkg.wm.arms 0 = some {}) ∧ heldBySwitch Ix.akLayerTable = true)
    ∧ (overridesOk (on (part0 2)).pkg 0 [1] = false ∧ layerTableOk (on (part0 2)).pkg 0 [1] = false ∧ routerTableOk [1] = false ∧ configsOk (on (part0 2)).pkg 0 [1] = false
      ∧ tenantTableOk [1] = false)
    ∧ gate (on (part0 1)).pkg Ix.seRingTable 0 0 = none ∧ ringTableOk [] = true ∧ ringTableOk [1] = false :=
  ⟨by decide, by decide, by decide, by decide, by decide, by decide, by decide, ⟨⟨_, rfl, rfl⟩, by decide⟩, by decide⟩

/-- A descriptor of class 8 that waits for one counter, as R56 and R57 lay it out. -/
def waitWords : Bytes := leBytes 4 0x81000000 ++ leBytes 4 0x80000000 ++ List.replicate 120 0

/-- Block 0 in a step of partition 0, with the descriptor `waitWords` at address 0. -/
def fetching (f : Blk → Blk) : State :=
  { stepping with pkg := modBlk { stepping.pkg with mem := { data := [(3, 0x81), (7, 0x80)] } } 0 (fun k => f { k with step := some 0, count := 1 }) }

/-- What block 0's next descriptor reads as, with the package then. -/
def readsAs (s : State) (f : Pkg → Bytes → Bool) : Bool :=
  match loadLocal (begun s) 0 128 false with
  | (p, .ok raw) => f p raw
  | (_, .error _) => false

/-- Block 0 with passes of given words, the first of them in flight. -/
def passes (ws : List Bytes) (f : Blk → Blk) : State :=
  fetching (fun k => f { k with passes := ws.zipIdx.map (fun w => { words := w.1, index := w.2, running := w.2 == 0 }) })

/-- A descriptor that waits for the count 1, one audited, and one of class 2 that computes nothing it may. -/
def neverWords : Bytes := leBytes 4 0x81000000 ++ leBytes 4 0x80000000 ++ leBytes 4 1 ++ List.replicate 116 0

/-- What the first pass of block 0 that waits is evaluated to. -/
def evaluates (s : State) (w : Bytes) : Bool :=
  let p := fillBuffers (setAct (applyHides (begun s) ((hostOf s.pkg 0).getD 0)) 0 1) 0 (descOf w)
  match ((runPass (passCtx p 0 0 { words := w })).run.run p).1 with
  | .ok _ => true
  | .error _ => false

theorem test_wit_PassStartsComplete :
    (partOfBlock (fetching id).pkg 0 = some 0 ∧ programRuns (fetching id).pkg 0 0 = true ∧ (blk (fetching id).pkg 0).lastFetched = false ∧ mayReadAhead (blk (fetching id).pkg 0) = true
      ∧ (blk (fetching id).pkg 0).index < (blk (fetching id).pkg 0).count ∧ (blk (fetching id).pkg 0).passes = [])
    ∧ readsAs (fetching id) (fun p raw => raw == waitWords && overrideOf p 0 0 0 0 == none && !(descOf raw).mark && validate (descOf raw) (descEnv p 0 0 none) == none) = true
    ∧ (∀ l ∈ [[], [{}]], ∃ s : State, s = { fetching (fun k => { k with passes := l }) with pkg := { (fetching (fun k => { k with passes := l })).pkg with mem := {} } }
      ∧ programRuns s.pkg 0 0 = true ∧ (blk s.pkg 0).passes = l
      ∧ readsAs s (fun p raw => overrideOf p 0 0 0 0 == none && !(descOf raw).mark && validate (descOf raw) (descEnv p 0 0 none) == some 0x0141) = true)
    ∧ (∀ l ∈ [[], [{}]], ∃ s : State, s = fetching (fun k => { k with passes := l, index := 1 }) ∧ programRuns s.pkg 0 0 = true ∧ (blk s.pkg 0).count ≤ (blk s.pkg 0).index ∧ (blk s.pkg 0).passes = l)
    ∧ (∃ s : State, s = fetching (fun k => { k with passes := [{ words := waitWords }] }) ∧ nextPass (blk s.pkg 0) = some ([], { words := waitWords }) ∧ passesRun s.pkg 0 0 = true ∧ hostTurn s.pkg 0 0 = true
      ∧ waitsMet (blk s.pkg 0) (descOf waitWords) = true ∧ (descOf waitWords).audit = false ∧ evaluates s waitWords = true)
    ∧ (∃ s : State, s = fetching (fun k => { k with passes := [{ words := neverWords }] }) ∧ nextPass (blk s.pkg 0) = some ([], { words := neverWords }) ∧ waitsMet (blk s.pkg 0) (descOf neverWords) = false)
    ∧ (∃ s, s = passes [waitWords, waitWords] id ∧ nextPass (blk s.pkg 0) = some ([{ words := waitWords, running := true }], { words := waitWords, index := 1 })
      ∧ mustFollow s.pkg (descOf waitWords) (descOf waitWords) = true)
    ∧ passesRun { fetching id with pkg := sets [(Ix.pcState, 0, 7)] (fetching id).pkg }.pkg 0 0 = false := by
  refine ⟨by decide, by decide, fun l hl => ⟨_, rfl, ?_⟩, fun l hl => ⟨_, rfl, ?_⟩, ⟨_, rfl, by decide⟩, ⟨_, rfl, by decide⟩, ⟨_, rfl, by decide⟩, by decide⟩
  all_goals
    simp only [List.mem_cons, List.not_mem_nil, or_false] at hl
    rcases hl with rfl | rfl <;> decide

/-- A COPY of mode 4: an asynchronous copy. -/
def copyWords : Bytes := leBytes 4 0x71000000 ++ List.replicate 60 0 ++ leBytes 4 0x40000000 ++ List.replicate 60 0

theorem test_wit_PassEndsComplete_copies :
    ((descOf copyWords).cls = 7 ∧ (descOf copyWords).mode = 4 ∧ freeCopySlot (passes [copyWords] id).pkg 0 = some 0)
    ∧ (∃ s : State, s = on (fun p => { p with ms := { p.ms with slots := (List.range 128).map (fun i => (i, { busy := true })) } }) ∧ freeCopySlot s.pkg 0 = none)
    ∧ (∃ s : State, s = on (fun p => { p with ms := { p.ms with slots := [(5, { busy := true })], txns := [{ purpose := .copySlot 5 }] } }) ∧ (tget s.pkg.ms.slots 5 {}).busy = true
      ∧ ∃ t ∈ s.pkg.ms.txns, t.purpose = .copySlot 5) := ⟨by decide, ⟨_, rfl, by decide⟩, ⟨_, rfl, by decide, _, .head _, rfl⟩⟩

theorem test_wit_PassEndsComplete :
    (∃ (s : State) (d : Pass), d = { words := waitWords, running := true } ∧ s = { fetching (fun k => { k with passes := [d] }) with pkg := sets [(Ix.qrAlertEnable, 0, 0)] (fetching (fun k => { k with passes := [d] })).pkg } ∧ partOfBlock s.pkg 0 = some 0 ∧ pcState s.pkg 0 = 2
      ∧ (part s.pkg 0).ru.poison = none ∧ s.pkg.tp.fenced.contains 0 = false ∧ (descOf d.words).cls ≠ 2 ∧ (descOf d.words).cls ≠ 7 ∧ (blk s.pkg 0).passes = [d] ∧ (emitPass (begun s) 0 0 d).2.1 = 0
      ∧ (blk (emitPass (begun s) 0 0 d).1 0).passes = [d] ∧ (blk (emitPass (begun s) 0 0 d).1 0).rejected = none ∧ (descOf d.words).mark = false ∧ (descOf d.words).last = false
      ∧ d.audited = [] ∧ d.unaudited = 0 ∧ rd (emitPass (begun s) 0 0 d).1 Ix.qrAlertEnable 0 ≠ 1)
    ∧ (∃ s : State, s = on (fun p => { p with ms := { p.ms with slots := [(255, { busy := true, signal := some (0, 0, 1) })] } }) ∧ (tget s.pkg.ms.slots 255 {}).busy = true
      ∧ (tget s.pkg.ms.slots 255 {}).signal = some (0, 0, 1) ∧ (∀ t ∈ s.pkg.ms.txns, t.purpose ≠ .copySlot 255 ∧ t.purpose ≠ .retire (0x300 + 255)))
    ∧ (∃ s : State, s = on (fun p => { p with ms := { p.ms with slots := [(0, { busy := true })] } }) ∧ (tget s.pkg.ms.slots 0 {}).writes = [] ∧ (tget s.pkg.ms.slots 0 {}).signal = none
      ∧ (∀ f ∈ s.pkg.ms.failed, f.1.purpose ≠ .copySlot 0)) :=
  ⟨⟨_, _, rfl, rfl, by decide⟩, ⟨_, rfl, by decide⟩, ⟨_, rfl, by decide⟩⟩

/-- A router layer table with one record: one expert, two sources, rows of 16 elements of format 9, the placement table at 0x1000. -/
def routerTable : Bytes :=
  List.replicate 4 0 ++ [1, 0] ++ List.replicate 26 0
    ++ [1, 0, 1, 0, 2, 1, 9, 11, 16, 0, 0, 0, 0, 0, 0, 0, 0, 0x10, 0, 0, 0, 0, 0, 0] ++ List.replicate 40 0

/-- A step whose expert 0 lies in block 0 with four slots. -/
def routing : State :=
  { stepping with pkg := { wrB stepping.pkg Ix.erLayerTable 0 routerTable with mem := { data := [(0x1003, 1), (0x1008, 4), (0x100B, 1)] } } }

def row0 : DispatchedRow := { data := List.replicate 32 1 }

theorem test_wit_RouterArrivals :
    (turnOf routing.pkg 0 0 0 0 = .take ∧ routerLayerAt routing.pkg 0 0 = some (routerLayer (slice routerTable 32 64))
      ∧ homePlacement routing.pkg (routerLayer (slice routerTable 32 64)) 0 = some { blocks := 1, capacity := 4, valid := true }
      ∧ 1 < (routerLayer (slice routerTable 32 64)).sources ∧ 0 < shareOf 4 2 0 ∧ findReceipt routing.pkg 0 0 0 0 = none)
    ∧ ((putRow (begun routing) (routerLayer (slice routerTable 32 64)) { blocks := 1, capacity := 4, valid := true } row0).2 = 0
      ∧ (part (putRow (begun routing) (routerLayer (slice routerTable 32 64)) { blocks := 1, capacity := 4, valid := true } row0).1 0).er = (part routing.pkg 0).er)
    ∧ turnOf routing.pkg 0 0 0 1 = .hold ∧ turnOf routing.pkg 0 0 0 2 = .refuse ∧ turnOf routing.pkg 0 0 0 (2 ^ 32 - 1) = .drop ∧ pcState routing.pkg 0 ≠ 6 ∧ pcState (on (part0 6)).pkg 0 = 6
    ∧ (∃ s : State, s = { routing with pkg := modEr routing.pkg 0 (fun q => { q with receipts := [{ notices := [(1, 0)] }] }) } ∧ turnOf s.pkg 0 0 0 0 = .take
      ∧ findReceipt s.pkg 0 0 0 0 = some { notices := [(1, 0)] } ∧ 1 + 1 = (routerLayer (slice routerTable 32 64)).sources) :=
  ⟨by decide, by decide, by decide, by decide, by decide, by decide, by decide, _, rfl, by decide⟩

/-- A collective of one member: one line of 128 elements of four bytes. -/
def coll0 (mode : Nat) : Coll := { mode, extents := [1, 1, 1], rank := [0, 0, 0], lines := 1, elems := 128 }

theorem test_wit_CollectivePackets :
    (3 ≠ (stepOf (on id).pkg 0 + 1) % 2 ^ 32 ∧ stepAhead 3 (stepOf (on id).pkg 0) = true)
    ∧ (1 = (stepOf (on id).pkg 0 + 1) % 2 ^ 32 ∧ (on id).pkg.tf.colls.find? (fun c => c.named 0 { step := 1 }) = none)
    ∧ (∀ m ∈ [1, 3], ∃ s : State, s = on (fun p => { p with tf := { p.tf with colls := [coll0 m] } }) ∧ 0 = stepOf s.pkg 0
      ∧ s.pkg.tf.colls.find? (fun c => c.named 0 { mode := m }) = some (coll0 m) ∧ (coll0 m).fits { mode := m } 512 = true ∧ (coll0 m).fits { mode := m } 4 = false ∧ ({ mode := m } : CollHeader).version = (coll0 m).version)
    ∧ pcState (on (part0 6)).pkg 0 = 6 ∧ pcState (on id).pkg 0 ≠ 6 := by
  refine ⟨by decide, by decide, fun m hm => ⟨_, rfl, ?_⟩, by decide, by decide⟩
  simp only [List.mem_cons, List.not_mem_nil, or_false] at hm
  rcases hm with rfl | rfl <;> decide

set_option maxRecDepth 20000 in
theorem test_wit_ScrubRewrites :
    (∃ s : State, s = on (fun p => { sets [(Ix.ddChannelState, 15, 0)] p with mem := { raw := [(0x17FFFFFFFFF, 0)] } }) ∧ Memory.wf s.pkg.mem = true ∧ rd s.pkg Ix.ddScrubPeriodH 0 ≠ 0
      ∧ rd s.pkg Ix.ddChannelState 15 = 0)
    ∧ (rd (on id).pkg Ix.ddChannelState 15 ≠ 0 ∨ rd (on (sets [(Ix.ddChannelState, 15, 2)])).pkg Ix.ddChannelState 15 ≠ 0)
    ∧ (∃ s : State, s = on (fun p => { p with mem := { raw := [(0, 3)] } }) ∧ Memory.wf s.pkg.mem = true ∧ rd s.pkg Ix.hbScrubPeriodH 0 ≠ 0 ∧ regionHidden s.pkg 0 = false
      ∧ rd s.pkg Ix.hbStackState 0 ≠ 4)
    ∧ decodeWord 3 = .uncorrectable ∧ decodeWord 1 = .data 0 true ∧ 0x001000000000 ≤ 4 * 0x17FFFFFFFFF := by
  exact ⟨⟨_, rfl, by decide⟩, by decide, ⟨_, rfl, by decide⟩, by decide, by decide, by decide⟩

theorem test_wit_ChannelsFail :
    rd (on (sets [(Ix.ddChannelState, 15, 1)])).pkg Ix.ddChannelState 15 ≤ 1 ∧ 2 ≤ rd (on (sets [(Ix.ddChannelState, 15, 3)])).pkg Ix.ddChannelState 15
    ∧ (regionHidden (on id).pkg 11 = false ∧ rdAt (on id).pkg Ix.hbChannelState 11 31 ≠ 1 ∧ rd (on id).pkg Ix.hbStackState 11 = 0)
    ∧ rd (on (sets [(Ix.hbStackState, 11, 2)])).pkg Ix.hbStackState 11 = 2 ∧ regionHidden (on (sets [(Ix.btHiddenRegions, 0, 0x800)])).pkg 11 = true := by decide

theorem test_wit_ChannelCommandsComplete :
    gate (on id).pkg Ix.ddFailChannel 0 15 = none ∧ rd (on (sets [(Ix.ddChannelState, 15, 0)])).pkg Ix.ddChannelState 15 ≤ 1 ∧ gate (on id).pkg Ix.hbFailChannel 0 11 = none
    ∧ rdAt (on id).pkg Ix.hbChannelState 11 31 ≠ 1 ∧ rdAt (on id).pkg Ix.hbChannelState 11 32 ≠ 1
    ∧ ∃ s : State, s = on (fun p => { sets [(Ix.hbStackState, 11, 3)] p with tm := { p.tm with poisonFill := [(11, 0)] } }) ∧ s.pkg.tm.held = []
      ∧ tfind s.pkg.tm.poisonFill 11 = some 0 ∧ rd s.pkg Ix.hbStackState 11 = 3 := ⟨by decide, by decide, by decide, by decide, by decide, _, rfl, by decide⟩

theorem test_wit_PageCopyCompletes :
    (∃ s : State, s = on (fun p => { p with tm := { p.tm with moves := [{ source := 4096, dest := 0x010000000000 }] } })
      ∧ ((s.pkg.tm.moves.filter (fun m => !m.copied)).take 64).find? (fun m => m.source == 4096) = some { source := 4096, dest := 0x010000000000 })
    ∧ (((on id).pkg.tm.moves.filter (fun m => !m.copied)).take 64).find? (fun m => m.source == 4096) = none := ⟨⟨_, rfl, by decide⟩, by decide⟩

/-- Partition 0, stopped, with the first 64 KiB of T1 fixed. -/
def fixedT1 : State := on (fun p => wrB (part0 1 p) Ix.tmFixedRanges 0 (leBytes 8 0x010000000000 ++ leBytes 8 0x10000))

theorem test_wit_RangeWritesComplete :
    (gate (on (part0 1)).pkg Ix.tmFixedRanges 0 0 = none ∧ (records 16 (leBytes 8 0x010000000000 ++ leBytes 8 0x10000)).all (fun b => fixedRangeOk (on (part0 1)).pkg 0 (leAt b 0 8, leAt b 8 8)) = true
      ∧ [(1 : Byte)].length % 16 ≠ 0)
    ∧ (gate fixedT1.pkg Ix.tmSpillBase 0 0 = none ∧ rd fixedT1.pkg Ix.tmSpillBytes 0 = 0 ∧ rd fixedT1.pkg Ix.tmSpillBytes 0 % slotSize fixedT1.pkg 0 = 0 ∧ (1#64).toNat % 4096 ≠ 0)
    ∧ (∃ s : State, s = { fixedT1 with pkg := sets [(Ix.tmSpillBase, 0, 0x010000000000)] fixedT1.pkg } ∧ gate s.pkg Ix.tmSpillBytes 0 0 = none ∧ rd s.pkg Ix.tmSpillBase 0 % 4096 = 0
      ∧ (rd s.pkg Ix.akPageSlotBytes 0 ≤ 65536 ∧ slotSize s.pkg 0 % slotSize s.pkg 0 = 0) ∧ inFixedRange s.pkg 0 (rd s.pkg Ix.tmSpillBase 0) (slotSize s.pkg 0) = true
      ∧ rangeNo (rd s.pkg Ix.tmSpillBase 0) = 1) := ⟨by decide, by decide, _, rfl, by decide⟩

/-- A package that lends, with a DIMM of 64 GiB at channel 0. -/
def lender : State := on (sets [(Ix.tmLendEnable, 0, 1), (Ix.tmLendMaxGib, 0, 16), (Ix.ddChannelState, 0, 0), (Ix.ddDimmBytes, 0, 64 * 2 ^ 30)])

set_option maxRecDepth 4000 in
theorem test_wit_LendingMessagesComplete :
    (rd lender.pkg Ix.tmLendEnable 0 = 1 ∧ rd (on id).pkg Ix.tmLendEnable 0 ≠ 1 ∧ lender.pkg.tm.mailbox = [])
    ∧ (tmOk { type := 1, version := 1 } = true ∧ tmOk { type := 2, version := 1, units := 16 } = true ∧ tmOk { type := 3, version := 1, units := 1, unitList := [2047] } = true
      ∧ tmOk { type := 4, version := 1 } = true ∧ tmOk { type := 5, version := 1, deadlineNs := 5 } = true ∧ tmOk { type := 6, version := 1 } = true)
    ∧ ((on (fun p => { p with tm := { p.tm with wanted := [(7, 3, 0, 1)] } })).pkg.tm.wanted.find? (fun w => w.1 == 7 && w.2.1 == 3) = some (7, 3, 0, 1)
      ∧ (on id).pkg.tm.wanted.find? (fun w => w.1 == 7 && w.2.1 == 3) = none)
    ∧ (tmOk { type := 2, version := 1, units := 17 } = false ∧ 256 ≤ ((on (fun p => { p with tm := { p.tm with mailbox := List.replicate 256 (0, {}) } })).pkg.tm.mailbox.filter (fun e => decide ((on id).clock.ns < e.1 + 1000000))).length)
    ∧ ((List.range 2048).filter (unitFree (on id).pkg)).take (min 16 (offer (on id).pkg)) = []
    ∧ ((List.range 2048).filter (unitFree lender.pkg)).take (min 16 (offer lender.pkg)) ≠ [] := by
  refine ⟨by decide, by decide, by decide, ⟨by decide, by decide⟩, ?_, ?_⟩
  · rw [show offer (on id).pkg = 0 by unfold offer; rw [if_neg (by decide)]]; rfl
  have h0 : unitFree lender.pkg 0 = true := by decide
  have hm : 0 ∈ (List.range 2048).filter (unitFree lender.pkg) := by simp [h0]
  have hl : 0 < ((List.range 2048).filter (unitFree lender.pkg)).length := List.length_pos_of_mem hm
  have ho : 0 < offer lender.pkg := by
    unfold offer
    rw [if_pos (by decide)]
    have : rd lender.pkg Ix.tmLendMaxGib 0 - (lentUnits lender.pkg).length = 16 := by decide
    omega
  intro hn
  have := congrArg List.length hn
  simp only [List.length_take, List.length_nil] at this
  omega

theorem test_wit_LendingEnds :
    (∃ s : State, s = on (fun p => { p with tm := { p.tm with loans := [{ partner := 3, unit := 2047, slot := some 0, state := 1 }] } }) ∧ 3 ≠ ownId s.pkg
      ∧ s.pkg.tm.loans.find? (fun l => l.slot.isSome && l.partner == 3 && (l.unit == 2047 && l.state == 1 && decide (l.deadlineNs ≤ s.clock.ns))) = some { partner := 3, unit := 2047, slot := some 0, state := 1 })
    ∧ (∃ s : State, s = on (fun p => { p with tm := { p.tm with loans := [{ partner := 3, unit := 0, slot := some 0 }] } })
      ∧ s.pkg.tm.loans.find? (fun l => l.slot.isSome && l.partner == 3 && l.unit == 0) = some { partner := 3, unit := 0, slot := some 0 }
      ∧ pagesInUnit s.pkg { partner := 3, unit := 0, slot := some 0 } = [] ∧ s.pkg.tm.moves = [])
    ∧ ((on id).pkg.tm.loans.find? (fun l => l.slot.isSome && l.partner == 3 && (l.unit == 5 && l.state == 1 && decide (l.deadlineNs ≤ (on id).clock.ns))) = none
      ∧ (on id).pkg.tm.loans.find? (fun l => l.slot.isNone && l.unit == 5 && l.state == 2) = none)
    ∧ (∃ s : State, s = on (fun p => { p with tm := { p.tm with loans := [{ partner := 3, unit := 5, state := 2 }] } })
      ∧ s.pkg.tm.loans.find? (fun l => l.slot.isNone && l.unit == 5 && l.state == 2) = some { partner := 3, unit := 5, state := 2 })
    ∧ gate (on id).pkg Ix.tmReclaimUnits 0 0 = none := ⟨⟨_, rfl, by decide⟩, ⟨_, rfl, by decide⟩, by decide, ⟨_, rfl, by decide⟩, by decide⟩

/-- A load command from host memory of version 1 for position 0. -/
def loadBytes : Bytes := [1, 0, 1, 0, 0, 0, 7, 0] ++ List.replicate 12 0xFF ++ List.replicate 44 0

/-- A manifest with one empty shard of position 0 for region 0, its record behind its head. -/
def manifest : Bytes := leBytes 4 1 ++ leBytes 4 0 ++ leBytes 8 64 ++ leBytes 8 64 ++ List.replicate 40 0 ++ List.replicate 64 0

/-- The header of an unsigned image of version 1 with that manifest. -/
def header : Bytes :=
  leBytes 4 0x4E434C46 ++ [1, 0, 1, 0] ++ List.replicate 12 0 ++ [1, 0, 0, 0] ++ leBytes 4 0x01000000 ++ List.replicate 12 0
    ++ leBytes 8 128 ++ List.replicate 16 0 ++ sha256 manifest ++ List.replicate 32 0

def image : ImageHead := { header := some header, manifest := some manifest }

def unsignedLoads : State := on (sets [(Ix.wmRequireSignature, 0, 0)])

/-- A load of version 1 under way, whose one slice of 64 bytes has to come; `tried` slices were fetched again. -/
def loading (digest : Bytes) (tried : List (Nat × Nat)) : State :=
  on (fun p => { p with wm := { p.wm with versions := [{ version := 1, shards := [{ bytes := 64, digests := [digest] }] }],
                                          jobs := [{ state := 1, version := 1, todo := [(0, 0)], refetched := tried, mismatched := tried }, {}] } })

set_option maxRecDepth 40000 in
theorem test_wit_LoadsComplete :
    (gate (on id).pkg Ix.wmLoadCommand 0 0 = none ∧ loadCommandOk [] = false ∧ loadCommandOk loadBytes = true
      ∧ (on id).pkg.wm.jobs.findIdx? (fun j => j.state != 1) = some 0
      ∧ (on (fun p => { p with wm := { p.wm with jobs := [{ state := 1 }, { state := 1 }] } })).pkg.wm.jobs.findIdx? (fun j => j.state != 1) = none
      ∧ loadStatus (begun (on id)) loadBytes {} = 0x0808)
    ∧ (∃ s : State, s = unsignedLoads ∧ loadStatus (begun s) loadBytes image = 0 ∧ (makeExtents (begun s) ((shardsAt manifest 0).map Shard.extent)).2 = 0
      ∧ (makeExtents (begun s) ((shardsAt manifest 0).map Shard.extent)).1.wm.jobs = s.pkg.wm.jobs) :=
  ⟨by decide, _, rfl, by decide⟩

/-- A region has no room for a shard of 2^40 bytes. -/
theorem test_wit_LoadsComplete_room : (makeExtents (begun unsignedLoads) [(0, 2 ^ 40)]).2 ≠ 0 := by decide

set_option maxRecDepth 40000 in
theorem test_wit_LoadsComplete_slices :
    (∀ t ∈ [[], [(0, 0)]], (jobAt (loading [] t).pkg 0).state = 1 ∧ (0, 0) ∈ (jobAt (loading [] t).pkg 0).todo ∧ (1, 0) ∉ (jobAt (loading [] t).pkg 0).todo
      ∧ (jobAt (loading [] t).pkg 0).refill = false)
    ∧ (∃ s : State, s = on (fun p => { p with wm := { p.wm with jobs := [{ state := 1, todo := [(0, 0)], sources := [3] }, {}] } })
      ∧ (jobAt s.pkg 0).state = 1 ∧ (0, 0) ∈ (jobAt s.pkg 0).todo ∧ (jobAt s.pkg 0).sources ≠ [])
    ∧ (∃ s v x, s = loading (sha256 (List.replicate 64 0)) [] ∧ findVersion s.pkg 1 = some v ∧ v.shards[0]? = some x ∧ sliceBytes x 0 = 64
      ∧ (storeLocal (begun s) x.target (List.replicate 64 0) false false 0x093 0xFF 0).2 = 0 ∧ (storeLocal (begun s) x.target (List.replicate 64 0) false false 0x093 0xFF 0).1.wm = s.pkg.wm
      ∧ sha256 (List.replicate 64 0) = x.digests.getD 0 [] ∧ (0, 0) ∉ (jobAt s.pkg 0).mismatched ∧ (0, 0) ∉ (jobAt s.pkg 0).refetched)
    ∧ (∃ s v x, s = loading [] [(0, 0)] ∧ findVersion s.pkg 1 = some v ∧ v.shards[0]? = some x ∧ sha256 (List.replicate 64 0) ≠ x.digests.getD 0 []
      ∧ (0, 0) ∈ (jobAt s.pkg 0).refetched) :=
  ⟨by decide, ⟨_, rfl, by decide⟩, ⟨_, _, _, rfl, rfl, rfl, by decide, by decide, by decide, rfl, by decide, by decide⟩, ⟨_, _, _, rfl, rfl, rfl, by decide⟩⟩

theorem test_wit_VersionCommandsComplete_unload :
    (∃ s : State, s = on (fun p => { p with wm := { p.wm with versions := [{ version := 1, state := 1 }, { version := 2, state := 0 }] } }) ∧ gate s.pkg Ix.wmUnload 0 0 = none
      ∧ findVersion s.pkg ((1#32).toNat % 65536) = some { version := 1, state := 1 } ∧ evictable' (begun s) { version := 1, state := 1 } = true ∧ (1#32).toNat / 65536 < 2
      ∧ findVersion s.pkg ((2#32).toNat % 65536) = some { version := 2, state := 0 } ∧ evictable' (begun s) { version := 2, state := 0 } = false ∧ (2#32).toNat / 65536 = 0
      ∧ (0x10002#32).toNat / 65536 = 1 ∧ onlyParked (begun s) { version := 2, state := 0 } = false
      ∧ findVersion s.pkg ((0xFFFF#32).toNat % 65536) = none)
    ∧ (∃ s : State, s = on (fun p => modSc { p with wm := { p.wm with versions := [{ version := 1, state := 1 }] } } 0
        (fun q => { q with requests := [{ version := 1, parked := true }] })) ∧ gate s.pkg Ix.wmUnload 0 0 = none
      ∧ findVersion s.pkg ((0x10001#32).toNat % 65536) = some { version := 1, state := 1 } ∧ (0x10001#32).toNat / 65536 = 1
      ∧ evictable' (begun s) { version := 1, state := 1 } = false ∧ onlyParked (begun s) { version := 1, state := 1 } = true) :=
  ⟨⟨_, rfl, by decide⟩, _, rfl, by decide⟩

theorem test_wit_VersionCommandsComplete_switch :
    ∃ (s : State) (record : Byte → Bytes), s = on (fun p => part0 2 { p with wm := { p.wm with versions := [{ version := 1, state := 1 }, { version := 2, state := 1, draft := true }] } })
      ∧ record = (fun v => [0, 0, 0, 0, v, 0, 0, 0] ++ List.replicate 8 0)
      ∧ gate s.pkg Ix.wmSwitch 0 0 = none ∧ tfind s.pkg.wm.arms 0 = none ∧ pcState s.pkg 0 = 2 ∧ switchCheck s.pkg (record 1) = none
      ∧ (∀ v ∈ [1, 2, 3], (record v).length = 16 ∧ leAt (record v) 6 1 ≤ 1 ∧ leAt (record v) 7 1 ≤ 1 ∧ allZero (slice (record v) 8 8) = true)
      ∧ findVersion s.pkg (leAt (record 2) 4 2) = some { version := 2, state := 1, draft := true } ∧ findVersion s.pkg (leAt (record 3) 4 2) = none
      ∧ [(1 : Byte)].length ≠ 16 := ⟨_, _, rfl, rfl, by decide⟩

/-- Channel 0 of partition 0 in a state, with a descriptor of one line of 64 bytes on each side. -/
def channel0 (st : Nat) (f : Channel → Channel) : State :=
  on (fun p => modChan (sets [(Ix.dmChannelPartition, 0, 0), (Ix.dmChannelState, 0, st)] p) 0
    (fun k => f { k with regs := [(0x08, 64), (0x10, 1), (0x18, 4096), (0x20, 64), (0x24, 64), (0x28, 1), (0x2C, 1)] }))

set_option maxRecDepth 20000 in
theorem test_wit_DmaCommandsComplete :
    (∀ c : Fin 256, ¬ (rd (on id).pkg Ix.dmChannelPartition c < 12 ∧ pcState (on id).pkg (rd (on id).pkg Ix.dmChannelPartition c) = 6))
    ∧ firmwareChannel 119 = false ∧ firmwareChannel 120 = true ∧ firmwareChannel 127 = true ∧ firmwareChannel 128 = false ∧ firmwareChannel 247 = false ∧ firmwareChannel 248 = true
    ∧ (∀ st ≤ 7, chanState (channel0 st id).pkg 0 = st ∧ startOk (channel0 st id).pkg 0 = true ∧ pcState (channel0 st id).pkg (rd (channel0 st id).pkg Ix.dmChannelPartition 0) ≠ 6)
    ∧ (chanState (on id).pkg 0 = 0 ∧ startOk (on id).pkg 0 = false)
    ∧ (rd (on (sets [(Ix.dmChannelPartition, 0, 0), (Ix.pcState, 0, 6)])).pkg Ix.dmChannelPartition 0 = 0
      ∧ pcState (on (sets [(Ix.dmChannelPartition, 0, 0), (Ix.pcState, 0, 6)])).pkg 0 = 6) := by decide

/-- Channel 0 running with its piece 0 in flight. -/
def flying (x : Piece) : State := channel0 2 (fun k => { k with pieces := [x], produced := 1, nextPiece := 1 })

/-- The words that the model's own text reads for piece 0 of channel 0. -/
def readBy (s : State) : Pkg × List (Except Nat Bytes) × Option (Nat × Nat) :=
  readWords (rd s.pkg Ix.dmChannelPartition 0) false ((chan s.pkg 0).sourceOf 0) ((chan s.pkg 0).pieceBytes 0 / 4)
    (chargeDma (begun s) 0 false ((chan s.pkg 0).sourceOf 0) ((chan s.pkg 0).pieceBytes 0)) []

/-- A write of piece 0 of channel 0 in flight, on its way to package 5. -/
def writingAway : State :=
  { flying { writing := true } with pkg := { (flying { writing := true }).pkg with
      ms := { (flying { writing := true }).pkg.ms with txns := [{ tag := 3, dest := 5, source := chanSource 0, purpose := .dmaPiece 0 0 1 }] } } }

set_option maxRecDepth 20000 in
theorem test_wit_DmaPiecesComplete :
    (∃ s, s = flying {} ∧ flyingPiece s.pkg 0 0 = some {} ∧ (chan s.pkg 0).inHost 0 = false ∧ 0 ≠ signalPiece ∧ chanResets s.pkg 0 = false
      ∧ (readBy s).2.2 = none ∧ (∀ w ∈ (readBy s).2.1, w.toOption.isSome = true)
      ∧ (chan s.pkg 0).pieces.find? (fun x => x.number == 0) = some {} ∧ (chan s.pkg 0).pieces = [{}] ∧ (chan s.pkg 0).halting = none ∧ 0 < rd s.pkg Ix.dmChannelRetryLimit 0)
    ∧ (∃ s : State, s = { flying {} with pkg := sets [(Ix.pcState, 0, 6)] (flying {}).pkg } ∧ chanResets s.pkg 0 = true ∧ flyingPiece s.pkg 0 0 = some {})
    ∧ (∃ s, s = channel0 2 (fun k => { k with regs := tput k.regs 0x34 2, pieces := [{}] }) ∧ flyingPiece s.pkg 0 0 = some {} ∧ bit ((chan s.pkg 0).reg 0x34) 1 = true)
    ∧ (retriedStatus 0 0x0DE0 = true ∧ poisonedStatus 0x0DE0 = false ∧ retriedStatus 0 0x0E03 = false ∧ poisonedStatus 0x0E03 = false ∧ poisonedStatus 0x0A01 = true
      ∧ retriedStatus 1 0x0F02 = true)
    ∧ (∃ s t, s = writingAway ∧ flyingPiece s.pkg 0 0 = some { writing := true } ∧ (chan s.pkg 0).pieces.find? (fun x => x.number == 0) = some { writing := true }
      ∧ s.pkg.ms.txns.find? (fun t => t.purpose == .dmaPiece 0 0 1 && (pieceRun s.pkg t).1 == 5 * 2 ^ 46) = some t ∧ 0 < rd s.pkg Ix.dmChannelRetryLimit 0)
    ∧ (∀ w ∈ [false, true], (chan (flying { retrying := true, writing := w }).pkg 0).pieces.find? (fun x => x.number == 0 && x.retrying) = some { retrying := true, writing := w }
      ∧ chanResets (flying { retrying := true, writing := w }).pkg 0 = false ∧ (chan (flying { retrying := true, writing := w }).pkg 0).halting = none)
    ∧ (chan (channel0 2 (fun k => { k with halting := some {} })).pkg 0).halting = some {}
    ∧ (chanState (channel0 3 id).pkg 0 = 3 ∧ (chan (channel0 3 id).pkg 0).pieces = []) :=
  ⟨⟨_, rfl, by decide⟩, ⟨_, rfl, by decide⟩, ⟨_, rfl, by decide⟩, by decide, ⟨_, _, rfl, by decide, by decide, rfl, by decide⟩, by decide, by decide, by decide⟩

/-- Link 23 up. -/
def linkUp : State := on (sets [(Ix.tfLinkState, 23, 2)])

/-- A DATA flit of the first sequence with a READ of four bytes at address 0x100, and an IDLE flit. -/
def dataFlit : Bytes := flitBytes 1 0 1 0 false 0 0 0 ([0, 0, 0, 0, 2] ++ List.replicate 12 0 ++ [1] ++ List.replicate 6 0 ++ [4])
def idleFlit : Bytes := flitBytes 0 0 0 0 false 0 0 0 []

set_option maxRecDepth 40000 in
theorem test_wit_FlitsReceived :
    linkState linkUp.pkg 23 = 2 ∧ [(0 : Byte)].length ≠ 256
    ∧ (∀ f ∈ [dataFlit, idleFlit], f.length = 256 ∧ (crc32 (f.take 252)).toNat = leAt f 252 4 ∧ bits (leAt f 4 4) 18 4 = 0 ∧ leAt f 8 4 = 0
      ∧ tget (link linkUp.pkg 23).credits (bits (leAt f 4 4) 30 27) 64 + bits (leAt f 4 4) 26 19 ≤ 64 ∧ bit (leAt f 4 4) 31 = false)
    ∧ bits (leAt idleFlit 0 4) 31 28 = 0 ∧ bits (leAt dataFlit 0 4) 31 28 = 1 ∧ bits (leAt dataFlit 0 4) 23 12 = (link linkUp.pkg 23).rxNext
    ∧ (assemble (begun linkUp) (tget (link linkUp.pkg 23).assembly (bits (leAt dataFlit 0 4) 27 24) []) (bits (leAt dataFlit 4 4) 3 0) (slice dataFlit 12 240)).map (·.1.length) = some 1
    ∧ seqBehind 0 (link linkUp.pkg 23).rxNext = true ∧ seqBehind 2 (link linkUp.pkg 23).rxNext = false := by
  refine ⟨by decide, by decide, by decide +kernel, by decide, by decide, by decide, by decide +kernel, by decide, by decide⟩

theorem test_wit_LinkTimersComplete :
    (∃ s, s = on (fun p => modLink (sets [(Ix.tfLinkState, 0, 2)] p) 0 (fun k => { k with unacked := [(1, [])] })) ∧ linkState s.pkg 0 = 2 ∧ (link s.pkg 0).unacked ≠ []
      ∧ (link s.pkg 0).rounds + 1 < rd s.pkg Ix.tfReplayRounds 0)
    ∧ (∃ s, s = on (fun p => modLink (sets [(Ix.tfLinkState, 0, 2)] p) 0 (fun k => { k with unacked := [(1, [])], rounds := 2 })) ∧ linkState s.pkg 0 = 2 ∧ (link s.pkg 0).unacked ≠ []
      ∧ rd s.pkg Ix.tfReplayRounds 0 ≤ (link s.pkg 0).rounds + 1) := ⟨⟨_, rfl, by decide⟩, ⟨_, rfl, by decide⟩⟩

/-- Link 0 in a state, one of its lanes in a state. -/
def lane0 (st lane : Nat) : State := on (fun p => wrAt (sets [(Ix.tfLinkState, 0, st)] p) Ix.tfLaneState 0 7 lane)

theorem test_wit_LinksComplete_lanes :
    (linkState (lane0 2 0).pkg 0 = 2 ∧ laneState (lane0 2 0).pkg 0 7 = 0 ∧ minLanes (lane0 2 0).pkg ≤ ((List.range 8).filter (fun m => m != 7 && laneState (lane0 2 0).pkg 0 m == 0)).length)
    ∧ (∃ s : State, s = { lane0 2 0 with pkg := sets [(Ix.tfMinLanes, 0, 8)] (lane0 2 0).pkg } ∧ linkState s.pkg 0 = 2 ∧ laneState s.pkg 0 7 = 0
      ∧ ((List.range 8).filter (fun m => m != 7 && laneState s.pkg 0 m == 0)).length < minLanes s.pkg)
    ∧ (linkState (lane0 2 2).pkg 0 = 2 ∧ laneState (lane0 2 2).pkg 0 7 = 2 ∧ tget (link (lane0 2 2).pkg 0).laneTries 7 0 = 0)
    ∧ (∃ s : State, s = { lane0 2 2 with pkg := modLink (lane0 2 2).pkg 0 (fun k => { k with laneTries := [(7, 1)] }) } ∧ linkState s.pkg 0 = 2 ∧ laneState s.pkg 0 7 = 2
      ∧ 1 ≤ tget (link s.pkg 0).laneTries 7 0 ∧ s.pkg.flash.history.length < 16384) :=
  ⟨by decide, ⟨_, rfl, by decide⟩, by decide, _, rfl, by decide⟩

theorem test_wit_LinksComplete_training :
    (∃ s : State, s = { lane0 1 1 with pkg := modLink (lane0 1 1).pkg 0 (fun k => { k with partner := some {} }) } ∧ training s.pkg 0 = true ∧ (link s.pkg 0).partner = some {}
      ∧ ({} : Capability).licensed = true
      ∧ minLanes s.pkg ≤ ((List.range 8).filter (fun n => laneState s.pkg 0 n != 3 && bit (0x81#8).toNat n)).length
      ∧ ((List.range 8).filter (fun n => laneState s.pkg 0 n != 3 && bit (0x80#8).toNat n)).length < minLanes s.pkg)
    ∧ (training (lane0 3 1).pkg 0 = true ∧ (link (lane0 3 1).pkg 0).partner = none)
    ∧ (training (lane0 4 1).pkg 0 = false ∧ (link (lane0 4 1).pkg 0).misfit = false) :=
  ⟨⟨_, rfl, by decide⟩, by decide, by decide⟩

/-- Partners with no level in common, at the place that the cabling of link 0 gives, and at another. -/
theorem test_wit_LinksComplete_training_partners :
    (∃ c : Capability, ¬ max c.lowest (Config.fabricLevel - 1) ≤ min c.highest Config.fabricLevel)
    ∧ (∃ c : Capability, max c.lowest (Config.fabricLevel - 1) ≤ min c.highest Config.fabricLevel
      ∧ idOf c.x c.y c.z = neighbour (lane0 1 1).pkg (ownId (lane0 1 1).pkg) (dirOf 0) ∧ c.link = opposite (dirOf 0) * 4 + 0 % 4)
    ∧ (∃ c : Capability, max c.lowest (Config.fabricLevel - 1) ≤ min c.highest Config.fabricLevel ∧ c.link ≠ opposite (dirOf 0) * 4 + 0 % 4) := by
  refine ⟨⟨{ lowest := Config.fabricLevel + 1 }, ?_⟩, ⟨{ highest := Config.fabricLevel, x := 1, link := 4 }, ?_, by decide, by decide⟩, ⟨{ highest := Config.fabricLevel }, ?_, by decide⟩⟩
  all_goals simp only; omega

theorem test_wit_FabricEntriesComplete :
    (gate (on id).pkg Ix.tfAxisRemap 0 2 = none ∧ bits (0x8000#16).toNat 14 13 = 0 ∧ bits (0x8000#16).toNat 7 5 = 0 ∧ bits (0x2000#16).toNat 14 13 ≠ 0 ∧ bits (0x0020#16).toNat 7 5 ≠ 0)
    ∧ (∀ st ∈ [1, 2, 4, 5], gate (lane0 st 0).pkg Ix.tfLinkHold 0 0 = none ∧ linkState (lane0 st 0).pkg 0 = st)
    ∧ 1 < (2#8).toNat
    ∧ minLanes (lane0 2 0).pkg ≤ ((List.range 8).filter (fun m => m != 7 && laneState (lane0 2 0).pkg 0 m == 0)).length
    ∧ (∃ s : State, s = { lane0 2 0 with pkg := sets [(Ix.tfMinLanes, 0, 8)] (lane0 2 0).pkg } ∧ linkState s.pkg 0 = 2
      ∧ ((List.range 8).filter (fun m => m != 7 && laneState s.pkg 0 m == 0)).length < minLanes s.pkg)
    ∧ (gate (on (part0 2)).pkg Ix.tfCollectiveGroups 0 0 = none ∧ tfind (on (part0 2)).pkg.wm.arms 0 = none ∧ pcState (on (part0 2)).pkg 0 = 2)
    ∧ (∃ b : Bytes, b = List.replicate 32 0 ∧ b.length % 32 = 0 ∧ b.length ≤ 8192 ∧ ((records 32 b).zipIdx).all (fun e => groupOk (on (part0 2)).pkg e.1 e.2) = true)
    ∧ [(1 : Byte)].length % 32 ≠ 0 := ⟨by decide, by decide, by decide, by decide, ⟨_, rfl, by decide⟩, by decide, ⟨_, rfl, by decide⟩, by decide⟩

theorem test_wit_NoticesComplete :
    (linkState linkUp.pkg 23 = 2 ∧ (5, 1) ∉ linkUp.pkg.tf.suspects ∧ suspected linkUp.pkg 5 = false ∧ 5 ≠ ownId linkUp.pkg ∧ 5 ∉ linkUp.pkg.tf.departed ∧ linkUp.pkg.tf.departing = false)
    ∧ (∃ s : State, s = { linkUp with pkg := { linkUp.pkg with tf := { linkUp.pkg.tf with suspects := [(5, 1)], holes := [5], departed := [5], departing := true } } } ∧ linkState s.pkg 23 = 2
      ∧ (5, 1) ∈ s.pkg.tf.suspects ∧ suspected s.pkg 5 = true ∧ 5 ∈ s.pkg.tf.departed ∧ s.pkg.tf.departing = true) := ⟨by decide, _, rfl, by decide⟩

/-- A request of package 5 to package 0. -/
def asked (k : Packet) : Packet := { k with src := 5, srcUnit := 0x100 }

/-- Requests of valid form, each with the number of its type. -/
def requests : List (Packet × Nat) :=
  [(asked { addr := 0xBFFFFFFFC0, bytes := 64, data := List.replicate 64 1, len := 6 }, 1), (asked { addr := 0xF8, asize := true, len := 3, data := List.replicate 16 1 }, 2),
   (asked { addr := 95 * 64 + 63, bytes := 256 }, 3), (asked { bytes := 4, len := 3, data := [7, 0, 0, 0] }, 4)]

/-- A state that has marked TSEQ 0 of package 5, in incarnation 5. -/
def marked : State := on (fun p => { p with ms := { p.ms with dedup := [(pairKey (asked {}), { incarnation := 5, marked := [0] })] } })

/-- Partition 0 routes one layer to one source, block 0, whose returns lie from address 0 on; the block runs step 3. -/
def returning : State := on (fun p => modBlk (wrB (part0 2 p) Ix.erLayerTable 0 ([0, 0, 0, 0, 1] ++ List.replicate 27 0
  ++ [1, 0, 1, 0, 1] ++ List.replicate 35 0 ++ [0, 16] ++ List.replicate 22 0)) 0 (fun k => { k with step := some 3 }))

/-- A return to that source in a step. -/
def returned (step : Nat) : Packet := { asked { addr := 0x40, bytes := 16, len := 3, data := List.replicate 16 1, step } with srcUnit := 0x80, type := 1 }

set_option maxRecDepth 20000 in
theorem test_wit_RequestsAnswered_returns :
    (∀ n ∈ [3, 4, 5], malformed (returned n) = false ∧ (arrive (begun returning) (returned n)).2 = .fresh ∧ 5 ∉ returning.pkg.tf.holes)
    ∧ returnTurn (begun returning) (returned 3) = some (0, .take) ∧ returnTurn (begun returning) (returned 4) = some (0, .hold) ∧ returnTurn (begun returning) (returned 5) = some (0, .refuse)
    ∧ homeDefers (begun (on id)) 0x040000000000 = true ∧ homeDefers (begun (on id)) 0x100 = false
    ∧ answerPending (begun marked) { asked { incarnation := 5 } with type := 1 } = false
    ∧ (∃ s : State, s = on (fun p => modEr p 0 (fun e => { e with heldReturns := [returned 4] })) ∧ answerPending s.pkg (returned 4) = true) := by
  refine ⟨by decide, by decide, by decide, by decide, by decide, by decide, by decide, _, rfl, by decide⟩

set_option maxRecDepth 20000 in
theorem test_wit_RequestsAnswered :
    ((0 : Nat) = ownId (on id).pkg ∧ 5 ∉ (on id).pkg.tf.holes)
    ∧ (malformed (asked { bytes := 256 }) = false ∧ (homeLoad (begun (on id)) 0 256).2.toOption.isSome = true ∧ malformed (asked { bytes := 4, addr := 0x3F0060000000 }) = false
      ∧ (homeLoad (begun (on id)) 0x3F0060000000 4).2.toOption = none)
    ∧ (∀ i ∈ requests, malformed { i.1 with type := i.2 } = false ∧ (arrive (begun (on id)) { i.1 with type := i.2 }).2 = .fresh ∧ badAtomic { i.1 with type := i.2 } = false)
    ∧ (performRequest (begun (on id)) { asked { addr := 0x100, bytes := 1, len := 3, data := [1] } with type := 1 }).2.1 = 0
    ∧ (performRequest (begun (on id)) { asked { addr := 0x3F0060000000, bytes := 1, len := 3, data := [1] } with type := 1 }).2.1 ≠ 0
    ∧ (∀ t ∈ [1, 2, 3, 4], (arrive (begun marked) { asked { incarnation := 5 } with type := t }).2 = .duplicate 0 0 ∧ (arrive (begun marked) { asked { incarnation := 4 } with type := t }).2 = .stale)
    ∧ (∀ t ≤ 4, malformed { asked { reserved := 1 } with type := t } = true) := by decide

/-- Partition 0 in a step with all of block 0's region, the block in step 3. -/
def counting : State := { stepping with pkg := modBlk stepping.pkg 0 (fun k => { k with step := some 3 }) }

theorem test_wit_RequestsPerformed :
    (∃ a b, place 0xFF8 = .t0 a b ∧ rd (on id).pkg Ix.hbStackState a = 0 ∧ regionHidden (on id).pkg a = false ∧ (on id).pkg.tp.fenced.contains a = false
      ∧ partOfRegion (on id).pkg a = none ∧ tfind (on id).pkg.tm.poisonFill a = none ∧ (on id).pkg.mem.raw = [] ∧ (on id).pkg.mem.fills = [] ∧ Memory.wf (on id).pkg.mem = true)
    ∧ (∀ k ∈ [{ asked { addr := 0xFF8, bytes := 8, len := 3, data := List.replicate 8 1 } with type := 1 }, { asked { addr := 0xFF8, asize := true, aop := 6, len := 3, data := List.replicate 16 1 } with type := 2 }],
        malformed k = false ∧ (arrive (begun (on id)) k).2 = .fresh ∧ k.poison = false ∧ k.aop ≤ 6 ∧ k.addr % (if k.asize then 8 else 4) = 0)
    ∧ (∃ k, k = asked { addr := 63, bytes := 256, step := 3 } ∧ bits k.addr 12 6 = 0 ∧ partOfBlock counting.pkg 0 = some 0 ∧ pcState counting.pkg 0 ≠ 6 ∧ blockHidden counting.pkg 0 = false
      ∧ counting.pkg.tp.fenced.contains 0 = false ∧ (blk counting.pkg 0).step = some 3 ∧ malformed { k with type := 3 } = false ∧ (arrive (begun counting) { k with type := 3 }).2 = .fresh
      ∧ k.step = 3 ∧ (blk counting.pkg 0).beforeClear = none ∧ (part counting.pkg 0).ru.poison = none ∧ Memory.wf counting.pkg.mem = true
      ∧ tget (blk counting.pkg 0).tallies 63 0 + k.bytes ≤ 65535 ∧ malformed { k with type := 3, step := 4 } = false ∧ (arrive (begun counting) { k with type := 3, step := 4 }).2 = .fresh) :=
  ⟨⟨0, 0xFF8, by decide⟩, by decide, _, rfl, by decide⟩

/-- A state with one transaction outstanding. -/
def outstanding (t : Txn) : State := on (fun p => { p with ms := { p.ms with txns := [t], nextTag := 1 } })

def found (s : State) (dest : Nat) : Option Nat := s.pkg.ms.txns.findIdx? (fun t => t.sent && t.tag == 0 && (if t.toHost then dest == 1024 else t.dest == dest))

theorem test_wit_ResponsesComplete :
    (5 ∉ (outstanding {}).pkg.tf.holes)
    ∧ (∀ i ∈ [(0, 0x40), (1, 0x41), (2, 0x42), (3, 0x41)], answerType i.1 = i.2
      ∧ answeredTxn (outstanding { source := 0x100, dest := 5, type := i.1 }).pkg { src := 5, srcUnit := 0x100 } = some { source := 0x100, dest := 5, type := i.1 })
    ∧ (∃ t : Txn, t = { source := 0x100, toHost := true } ∧ answeredTxn (outstanding t).pkg { src := 0, srcUnit := 0x100, status := 0x0F01 } = some t ∧ 0 = ownId (outstanding t).pkg)
    ∧ (answeredTxn (outstanding {}).pkg { src := 5, srcUnit := 0x101 } = none ∧ 0 < (outstanding {}).pkg.ms.nextTag)
    ∧ (found (outstanding { dest := 5 }) 5 = some 0 ∧ found (outstanding { toHost := true, resends := 2 }) 1024 = some 0
      ∧ 0 < rd (outstanding {}).pkg Ix.msResendLimit 0 ∧ rd (outstanding {}).pkg Ix.msResendLimit 0 ≤ 2) := ⟨by decide, by decide, ⟨_, rfl, by decide⟩, by decide, by decide⟩

/-- A module up, and host source 63 for a partition. -/
def hosted (pp : Nat) (f : Pkg → Pkg) : State := on (fun p => f (sets [(Ix.hiModuleState, 3, 3), (Ix.msHostSourcePartition, 63, pp)] p))

theorem test_wit_HostSideCompletes :
    (∀ t ∈ [0, 1, 3, 4], ∃ k : Packet, k = { src := 0, srcUnit := 0x23F, type := t, bytes := 16, len := if t = 1 ∨ t = 4 then 3 else 2, data := List.replicate 16 0 }
      ∧ anyModuleUp (hosted 0xFF id).pkg = true ∧ hostFormOk (hosted 0xFF id).pkg k = true ∧ malformed k = false ∧ pcState (hosted 0xFF id).pkg (rd (hosted 0xFF id).pkg Ix.msHostSourcePartition (k.srcUnit - 0x200)) ≠ 6)
    ∧ hostFormOk (hosted 0xFF id).pkg { src := 0, srcUnit := 0x240 } = false
    ∧ (∃ k : Packet, k = { src := 0, srcUnit := 0x23F, cls := 1, bytes := 16 } ∧ hostFormOk (hosted 0xFF id).pkg k = true ∧ malformed k = true)
    ∧ (∃ s k, s = hosted 0 (part0 6) ∧ k = { src := 0, srcUnit := 0x23F, bytes := 16 } ∧ anyModuleUp s.pkg = true ∧ hostFormOk s.pkg k = true ∧ malformed k = false
      ∧ pcState s.pkg (rd s.pkg Ix.msHostSourcePartition (k.srcUnit - 0x200)) = 6)
    ∧ (∀ k ∈ [{ src := 0, srcUnit := 0x23F, type := 2, asize := true, aop := 6, addr := 8, len := 3, data := List.replicate 16 0 }, { src := 0, srcUnit := 0x23F, type := 2, addr := 2, len := 3 },
          { src := 0, srcUnit := 0x23F, type := 2, aop := 7, len := 3 }], hostFormOk (hosted 0xFF id).pkg k = true ∧ malformed k = false ∧ k.type = 2)
    ∧ (anyModuleUp (on id).pkg = false ∧ (on id).pkg.hi.unannounced = 0 ∧ (on (fun p => { p with hi := { p.hi with unannounced := 1 } })).pkg.hi.unannounced ≠ 0)
    ∧ (List.replicate 1280 (0 : Byte)).length ≤ 1280
    ∧ gate (on id).pkg Ix.msWindowTable 0 0 = none
    ∧ (∃ b : Bytes, b = [1, 11, 8, 0, 1] ++ List.replicate 27 0 ∧ b.length % 32 = 0 ∧ (records 32 b).all (windowOk (on id).pkg) = true ∧ windowsApart (records 32 b) = true)
    ∧ gate (on id).pkg Ix.msHostFenceReset 0 0 = none
    ∧ (controlOffset 0x3FEFFFFFFFFF = none ∧ controlOffset 0x3FF000060B10 = some 0x60B10 ∧ regAt 0x60B10 = .completion 11 ∧ pcState (on id).pkg 11 ≠ 6) :=
  ⟨fun t _ => ⟨_, rfl, by revert t; decide⟩, by decide, ⟨_, rfl, by decide⟩, ⟨_, _, rfl, rfl, by decide⟩, by decide, by decide, Nat.le_of_eq (List.length_replicate ..), by decide, ⟨_, rfl, by decide⟩, by decide, by decide⟩

/-- A rack message that verifies, from the host, with the key epoch of the active key. -/
def keyed (f : Pkg → Pkg) : State := on (fun p => f { sets [(Ix.mpPortState, 1, 2)] p with flash := { p.flash with rackKeys := [(7, [])] } })

theorem test_wit_ModulesAndRackComplete :
    (∃ s : State, s = on (sets [(Ix.hiModuleState, 0, 2), (Ix.hiModuleState, 3, 3), (Ix.hiModuleState, 1, 1)]) ∧ moduleUp s.pkg 0 = true ∧ (∃ n < 4, n ≠ 0 ∧ moduleUp s.pkg n = true)
      ∧ rd s.pkg Ix.hiModuleState 1 = 1 ∧ moduleRateOk s.pkg 32 = true ∧ anyModuleUp s.pkg = true)
    ∧ (∃ s : State, s = on (sets [(Ix.hiModuleState, 3, 3)]) ∧ moduleUp s.pkg 3 = true ∧ ∀ n < 4, n ≠ 3 → moduleUp s.pkg n = false)
    ∧ moduleRateOk (on id).pkg 7 = false
    ∧ (anyModuleUp (on id).pkg = false ∧ rd (on id).pkg Ix.ruDrydownState 0 = 0 ∧ (∀ pp < 12, pcState (on id).pkg pp ∈ [0, 1, 7]))
    ∧ (rd (keyed id).pkg Ix.mpPortState 1 = 2 ∧ (((keyed id).pkg.flash.rackKeys.take 2).map (·.1)).contains 7 = true ∧ tget (keyed id).pkg.mp.rackSeen ((0xFFFF * 256 + 1) * 2 ^ 32 + 7) 0 < 1
      ∧ lastCapEpoch (keyed id).pkg < 1 ∧ (keyed id).pkg.mp.rackDropped = [0, 0, 0, 0])
    ∧ (∃ m : RackMessage, m = { type := 1, sender := 0xFFFF, bodyBytes := 16, sequence := 1, keyEpoch := 7, body := leBytes 4 1 ++ leBytes 4 800 ++ List.replicate 8 0 } ∧ m.magic = 0xC1A7 ∧ m.bodyBytes = m.body.length
      ∧ m.bodyBytes ≤ 1404 ∧ leAt m.body 12 2 = 0 ∧ m.type = 1 ∧ m.sender = 0xFFFF ∧ leAt m.body 0 4 = 1 ∧ 800 ≤ leAt m.body 4 4)
    ∧ digestBodyOk (List.replicate 13 0 ++ [1, 1, 0] ++ List.replicate 36 0) = true
    ∧ (on (fun p => { p with ru := { p.ru with rounds := [{ record := 15, round := 4 }] } })).pkg.ru.rounds.find? (fun r => r.record == 15 && r.round == 4) = some { record := 15, round := 4 }
    ∧ rdB (on id).pkg Ix.mpTelemetryDestination 0 = []
    ∧ (∃ s : State, s = on (fun p => wrB (wrB p Ix.mpTelemetryDestination 0 (List.replicate 18 1)) Ix.mpTelemetryList 0 [0x11, 0x54, 0, 0]) ∧ rdB s.pkg Ix.mpTelemetryDestination 0 ≠ []
      ∧ (((records 4 (rdB s.pkg Ix.mpTelemetryList 0)).map (telemetryEntry (begun s))).filter (fun b => !b.isEmpty)).length = 1) :=
  ⟨⟨_, rfl, by decide⟩, ⟨_, rfl, by decide⟩, by decide, by decide, by decide, ⟨_, rfl, by decide⟩, by decide, by decide, by decide, _, rfl, by decide⟩

/-- Session 1 of a role with one open transfer of a table. -/
def session1 (role : Nat) (t : List Transfer) : Session := { number := 1, role, transport := 2, transfers := t }

def withSession (role : Nat) (t : List Transfer) : State := on (fun p => { p with mp := { p.mp with sessions := [session1 role t] } })

/-- A request of session 1. -/
def dap (q : DapRequest) : DapRequest := { q with session := 1, transport := 2, requestId := 1 }

/-- The package and the session once the request's datagram is accepted. -/
def admitted (s : State) (q : DapRequest) : Pkg × Session :=
  let r := admitDatagram (begun s) q.session q.transport q.client q.sequence q.tagVerifies
  (r.1, r.2.getD {})

/-- Whether the request is new, in a session that stays open. -/
def newRequest (s : State) (q : DapRequest) : Bool :=
  (admitDatagram (begun s) q.session q.transport q.client q.sequence q.tagVerifies).2.isSome
  && ((admitted s q).2.responses.find? (fun r => r.requestId == q.requestId)).isNone
  && !(!(admitted s q).2.responses.isEmpty && (admitted s q).2.responses.all (fun r => decide (q.requestId < r.requestId)))
  && (admitted s q).1.mp.sessions.any (fun t => t.number == (admitted s q).2.number)

/-- Index of the entry that the steps let a request through to. -/
def letThrough (s : State) (op : Nat) (q : DapRequest) : Option Nat :=
  match checkEntry (admitted s q).1 op q (admitted s q).2 with
  | .ok e => some e.1.index
  | .error _ => none

/-- Abort code of a request that a step refuses. -/
def turnedAway (s : State) (op : Nat) (q : DapRequest) : Option Nat :=
  match checkEntry (admitted s q).1 op q (admitted s q).2 with
  | .ok _ => none
  | .error a => some a.abort

set_option maxRecDepth 20000 in
theorem test_wit_RequestsServed :
    newRequest (withSession 1 []) (dap {}) = true
    ∧ (∀ op ∈ [1, 3, 4, 5, 6, 7, 8, 9, 10, 11, 12], requestMalformed op (dap { reserved := 1 }) = true)
    ∧ (∀ op ∈ [1, 3, 4, 8, 9, 10], newRequest (withSession 1 []) (dap {}) = true ∧ requestMalformed op (dap {}) = false ∧ turnedAway (withSession 1 []) op (dap {}) = some 1)
    ∧ (∀ op ∈ [1, 3, 9, 10], newRequest (withSession 1 []) (dap { index := 0x5411 }) = true ∧ requestMalformed op (dap { index := 0x5411 }) = false
      ∧ letThrough (withSession 1 []) op (dap { index := 0x5411 }) = some 0x5411)
    ∧ (requestMalformed 11 (dap {}) = false ∧ nextKey 0 ≠ none ∧ nextKey (0xFFFF * 256 + 0xFF) = none)
    ∧ requestMalformed 12 (dap {}) = false := by decide

/-- A write that the server lets through, and what becomes of it. -/
def writeOf (s : State) (q : DapRequest) : Option (Pkg × Response) :=
  match checkEntry (admitted s q).1 2 q (admitted s q).2 with
  | .ok e => some (writeAnswer q e.1 e.2 q.subindex (entryWrite (admitted s q).1 e.1 e.2 q.subindex (writtenValue e.1 q.data) q))
  | .error _ => none

def oneByte : DapRequest := dap { index := 0x5411, type := Ix.tfMinLanes.type.code, length := 1, data := [4] }

def openTransfer : List Transfer := [{ number := 9, index := 0x5800, total := 0 }]

/-- What becomes of the commit of transfer 9. -/
def commitOf (s : State) (q : DapRequest) : Option (Pkg × Response) :=
  let p := endTransfer (admitted s q).1 1 9
  match checkEntry p 4 { q with index := 0x5800, subindex := 0, arg2 := 0 } (admitted s q).2 with
  | .ok e => some (writeAnswer q e.1 e.2 0 (entryWrite p e.1 e.2 0 (.bytes []) q))
  | .error _ => none

set_option maxRecDepth 20000 in
theorem test_wit_WritesServed :
    (newRequest (withSession 3 []) oneByte = true ∧ requestMalformed 2 oneByte = false ∧ oneByte.index ≠ Ix.btRestart.index
      ∧ (writeOf (withSession 3 []) oneByte).map (fun r => r.1.mp.sessions.any (fun t => t.number == 1)) = some true)
    ∧ (∃ q, q = dap { index := 0x6920, length := 1, data := [1] } ∧ newRequest (withSession 3 []) q = true ∧ requestMalformed 8 q = false ∧ letThrough (withSession 3 []) 8 q = some 0x6920
      ∧ gate (admitted (withSession 3 []) q).1 Ix.btFirmwareSlot 0 0 = none ∧ (withSession 3 []).pkg.flash.activeSlot = 0)
    ∧ (∃ q, q = dap { index := 0x5800, arg2 := 32 } ∧ newRequest (withSession 3 []) q = true ∧ requestMalformed 4 q = false ∧ letThrough (withSession 3 []) 4 q = some 0x5800
      ∧ (admitted (withSession 3 []) q).2.transfers.length < 4)
    ∧ (∃ q t, q = dap { arg := 9, arg2 := 0 } ∧ newRequest (withSession 3 openTransfer) q = true ∧ requestMalformed 5 q = false ∧ requestMalformed 6 q = false ∧ requestMalformed 7 q = false
      ∧ transferOf (admitted (withSession 3 openTransfer) q).2 9 = some t ∧ t.total = 0 ∧ q.arg2 + q.data.length ≤ t.total ∧ t.total < 1 + q.data.length ∧ assembled t = some []
      ∧ (crc32 []).toNat = q.arg2 ∧ (commitOf (withSession 3 openTransfer) q).map (fun r => r.1.mp.sessions.any (fun t => t.number == 1)) = some true)
    ∧ (∀ op ∈ [5, 6, 7], requestMalformed op (dap { arg := 8, arg2 := 1 }) = false) ∧ transferOf (admitted (withSession 3 openTransfer) (dap { arg := 8 })).2 8 = none :=
  ⟨by decide, ⟨_, rfl, by decide⟩, ⟨_, rfl, by decide⟩, ⟨_, { number := 9, index := 0x5800, total := 0 }, rfl, by decide⟩, by decide, by decide⟩

set_option maxRecDepth 20000 in
theorem test_wit_WritesServed_refused :
    (∃ q, q = dap { index := Ix.btRestart.index, type := Ix.btRestart.type.code, length := 1, data := [1] } ∧ newRequest (withSession 3 []) q = true ∧ requestMalformed 2 q = false
      ∧ (writeOf (withSession 3 []) q).map (fun r => (r.2.abort, r.1.mp.sessions.any (fun t => t.number == 1))) = some (0, true))
    ∧ (∃ s : State, s = withSession 3 (List.replicate 4 { number := 9 }) ∧ newRequest s (dap { index := 0x5800, arg2 := 32 }) = true ∧ letThrough s 4 (dap { index := 0x5800, arg2 := 32 }) = some 0x5800
      ∧ 4 ≤ (admitted s (dap { index := 0x5800, arg2 := 32 })).2.transfers.length)
    ∧ assembled { number := 9, index := 0x5800, total := 1 } = none
    ∧ (assembled { number := 9, index := 0x5800, total := 0 } = some [] ∧ (crc32 []).toNat ≠ 1)
    ∧ ((commitOf (withSession 1 openTransfer) (dap { arg := 9 })).isNone = true ∧ newRequest (withSession 1 openTransfer) (dap { arg := 9 }) = true)
    ∧ turnedAway (withSession 1 []) 2 oneByte ≠ none :=
  ⟨⟨_, rfl, by decide⟩, ⟨_, rfl, by decide⟩, by decide, by decide, by decide, by decide⟩

/-- A HELLO for a role from the sideband. -/
def helloBytes : Bytes := leBytes 2 0xD1C7 ++ [255, 1] ++ List.replicate 12 0 ++ [1, 0, 255, 255] ++ List.replicate 1252 0

set_option maxRecDepth 20000 in
theorem test_wit_SessionsComplete :
    (helloOk helloBytes = true ∧ leAt helloBytes 16 1 = 1 ∧ (on id).pkg.mp.handshakes.length < 8 ∧ helloOk [] = false)
    ∧ (∃ level, commonLevel (leAt helloBytes 17 1) (leAt helloBytes 2 1) = some level)
    ∧ (∃ s : State, s = on (fun p => { p with mp := { p.mp with handshakes := [{ number := 1 }] } }) ∧ s.pkg.mp.handshakes.find? (fun h => h.number == 1 && h.transport == 2 && h.client == 0) = some { number := 1 }
      ∧ roleAllowed s.pkg { number := 1 } true = true ∧ sessionRoom s.pkg 1 = true ∧ s.pkg.mp.handshakes.find? (fun h => h.number == 1) = some { number := 1 } ∧ s.clock.ns < 0 + 2000000000
      ∧ 0 + 2000000000 ≤ { s with clock := { s.clock with tick := 2000 } }.clock.ns)
    ∧ ((admitDatagram (begun (withSession 1 openTransfer)) 1 2 0 0 true).2.isSome = true
      ∧ (withSession 1 openTransfer).pkg.mp.sessions.find? (fun s => s.number == 1) = some (session1 1 openTransfer) ∧ transferOf (session1 1 openTransfer) 9 = openTransfer.head?
      ∧ (withSession 1 openTransfer).clock.ns < 0 + rd (withSession 1 openTransfer).pkg Ix.mpSessionIdleS 0 * 1000000000 ∧ 0 + rd (withSession 1 openTransfer).pkg Ix.mpSessionIdleS 0 * 1000000000 ≤ 65535000000000)
    ∧ (gate (withSession 1 []).pkg Ix.mpSessionClose 0 0 = none ∧ (withSession 1 []).pkg.mp.sessions.any (fun e => e.number == (1#32).toNat) = true
      ∧ (withSession 1 []).pkg.mp.sessions.any (fun e => e.number == (2#32).toNat) = false) := by
  refine ⟨by decide, ?_, ⟨_, rfl, by decide⟩, by decide, by decide⟩
  have h1 : leAt helloBytes 17 1 = 0 := by decide
  have h2 : leAt helloBytes 2 1 = 255 := by decide
  rw [h1, h2]
  have h3 := Nat.mod_lt Config.protocolLevel (show 0 < 256 by decide)
  exact ⟨_, if_pos ⟨Nat.zero_le _, by omega⟩⟩

/-- A HELLO whose role is 0, and one whose levels have none in common with the package's. -/
def roleless : Bytes := helloBytes.set 16 0
def levelless : Bytes := (helloBytes.set 2 0).set 17 255

set_option maxRecDepth 20000 in
theorem test_wit_SessionsComplete_refused :
    (helloOk roleless = true ∧ leAt roleless 16 1 = 0 ∧ leAt roleless 17 1 = leAt helloBytes 17 1 ∧ leAt roleless 2 1 = leAt helloBytes 2 1)
    ∧ (helloOk levelless = true ∧ ∀ l, commonLevel (leAt levelless 17 1) (leAt levelless 2 1) ≠ some l)
    ∧ 8 ≤ (on (fun p => { p with mp := { p.mp with handshakes := List.replicate 8 {} } })).pkg.mp.handshakes.length
    ∧ (roleAllowed (on id).pkg { number := 1, transport := 0 } true = false ∧ roleAllowed (on id).pkg { number := 1, role := 3 } false = true
      ∧ sessionRoom (on (fun p => { p with mp := { p.mp with sessions := List.replicate 2 (session1 3 []) } })).pkg 3 = false)
    ∧ (on id).pkg.mp.handshakes.find? (fun h => h.number == 1 && h.transport == 2 && h.client == 0) = none
    ∧ ((admitDatagram (begun (on id)) 1 2 0 0 true).2 = none ∧ (admitDatagram (begun (withSession 1 [])) 1 2 0 0 false).2 = none)
    ∧ ((on id).pkg.mp.sessions.find? (fun s => s.number == 1) = none ∧ ((withSession 1 []).pkg.mp.sessions.find? (fun s => s.number == 1)).bind (fun e => transferOf e 9) = none) := by
  refine ⟨by decide, ⟨by decide, fun l => ?_⟩, by decide, by decide, by decide, by decide, by decide⟩
  have h1 : leAt levelless 17 1 = 255 := by decide
  have h2 : leAt levelless 2 1 = 0 := by decide
  rw [h1, h2]
  simp [commonLevel]

set_option maxRecDepth 40000 in
/-- A first VALID record for the observer role, a session of the administrator without a credential, and an observer's. -/
theorem test_wit_OwnersWritesComplete_credentials :
    ∃ (s : State) (data : Bytes), s = on (fun p => { p with mp := { p.mp with sessions := [{ session1 3 [] with credential := 0xFFFF }, { session1 1 [] with number := 2, credential := 0xFFFF }] } })
      ∧ data = [1, 1] ++ List.replicate 2046 0 ∧ gate s.pkg Ix.mpCredentials 0 0 = none ∧ anyCredential s.pkg = false
      ∧ data.length % 2048 = 0 ∧ data.length ≤ 32768 ∧ (records 2048 data).all credentialOk = true ∧ (records 2048 data).any (fun r => bit (leAt r 1 1) 0) = true := ⟨_, _, rfl, rfl, by decide⟩

theorem test_wit_OwnersWritesComplete :
    (gate (on id).pkg Ix.mpCredentials 0 0 = none ∧ (on id).pkg.mp.sessions = [] ∧ (records 2048 []).all credentialOk = true ∧ [(1 : Byte)].length % 2048 ≠ 0)
    ∧ (clearedBy (0x5020#16).toNat ≠ none ∧ clearedBy (0x5021#16).toNat = none)
    ∧ (gate (on id).pkg Ix.ruDeclareLost 0 0 = none ∧ [(5 : Byte), 0].length % 2 = 0 ∧ [(5 : Byte)].length % 2 = 1) := by decide

/-- Partition 0 with region 0, its program table in a fixed range of T1. -/
def tabled (st : Nat) : State :=
  on (fun p => sets [(Ix.pcProgramTableBase, 0, 0x10000)] (wrB (part0 st p) Ix.tmFixedRanges 0 (leBytes 8 0x10000 ++ leBytes 8 0x10000)))

/-- Partition 0 preempted at mark 0 with block 0 in a step. -/
def preempted : State := on (fun p => modBlk (part0 5 p) 0 (fun k => { k with step := some 3, stopAt := some 1, reported := true }))

/-- Partition 0 halted by a rejection with 0x0140 in block 0. -/
def rejected : State := on (fun p => modBlk (modPc (part0 7 p) 0 (fun q => { q with stepFailed := some 0x0140 })) 0 (fun k => { k with act := 3 }))

theorem test_wit_PartitionCommandsComplete :
    (∀ st ∈ [1, 7], pcState (tabled st).pkg 0 = st ∧ rd (tabled st).pkg Ix.btStartState 0 = 8 ∧ rd (tabled st).pkg Ix.ruPackageFlag 0 ≠ 2 ∧ rd (tabled st).pkg Ix.ruDrydownState 0 = 0
      ∧ programTableOk (tabled st).pkg 0 = true ∧ isRack (tabled st).pkg 0 = false ∧ rackRecordOk (tabled st).pkg 0 = true)
    ∧ (∃ s : State, s = { tabled 1 with pkg := ledBy5 0 { (tabled 1).pkg with pw := { (tabled 1).pkg.pw with tickAdopted := true } } } ∧ pcState s.pkg 0 = 1 ∧ isRack s.pkg 0 = true
      ∧ rackRecordOk s.pkg 0 = true ∧ programTableOk s.pkg 0 = true ∧ s.pkg.pw.tickAdopted = true)
    ∧ (rd (sets [(Ix.btStartState, 0, 7)] (tabled 1).pkg) Ix.btStartState 0 ≠ 8 ∧ rd (sets [(Ix.ruPackageFlag, 0, 2)] (tabled 1).pkg) Ix.ruPackageFlag 0 = 2
      ∧ programTableOk (on (part0 1)).pkg 0 = false ∧ pcState (on (part0 1)).pkg 0 = 1)
    ∧ (∀ st ≤ 7, pcState (on (part0 st)).pkg 0 = st ∧ rd (on (part0 st)).pkg Ix.ruDrydownState 0 = 0)
    ∧ ((part (on (part0 2)).pkg 0).pc.stepRunning = false ∧ (part stepping.pkg 0).pc.stepRunning = true ∧ pcState stepping.pkg 0 = 2)
    ∧ (pcState preempted.pkg 0 = 5 ∧ 0 ∈ blocksOf preempted.pkg 0 ∧ regionHidden preempted.pkg 0 = false ∧ (blk preempted.pkg 0).step ≠ none)
    ∧ (rd (sets [(Ix.ruDrydownState, 0, 1)] preempted.pkg) Ix.ruDrydownState 0 ≠ 0)
    ∧ (pcState rejected.pkg 0 = 7 ∧ (blocksOf rejected.pkg 0).any (fun b => (blk rejected.pkg b).act == 3) = true ∧ (part rejected.pkg 0).pc.stepFailed = some 0x0140) :=
  ⟨by decide, ⟨_, rfl, by decide⟩, by decide, by decide, by decide, by decide, by decide, by decide⟩

/-- Partition 0 in a phase of its reset. -/
def resetting (k : Nat) : State := on (fun p => modPc (part0 6 p) 0 (fun q => { q with resetPhase := k }))

set_option maxRecDepth 20000 in
theorem test_wit_PartitionPhasesComplete :
    (∀ k, 1 ≤ k → k ≤ 7 → (part (resetting k).pkg 0).pc.resetPhase = k) ∧ pcState (resetting 4).pkg 0 = 6
    ∧ (∀ p, p = (regionsOf (begun (resetting 6)) 0).foldl (returnUnits []) (begun (resetting 6)) → ∀ r ∈ regionsOf p 0, regionHidden p r = false)
    ∧ (∀ p, p = (regionsOf (begun (resetting 6)) 0).foldl (returnUnits [{ kind := 3, unit := 0 }]) ([{ kind := 3, unit := 0 }].foldl takeDefect (begun (resetting 6))) →
        (∃ r ∈ regionsOf p 0, regionHidden p r = true) ∧ (part p 0).sc.resetPending = false)
    ∧ ((part (resetting 7).pkg 0).sc.resetPending = false ∧ rd (sets [(Ix.pcAutoStart, 0, 0)] (resetting 7).pkg) Ix.pcAutoStart 0 ≠ 1)
    ∧ (pcState (on (part0 4)).pkg 0 = 4 ∧ preemptSaved (on (part0 4)).pkg 0 = true ∧ pcState (on (part0 7)).pkg 0 = 7)
    ∧ (∃ s : State, s = on (fun p => modBlk (part0 4 p) 0 (fun k => { k with stopAt := some 1 })) ∧ preemptSaved s.pkg 0 = false) := by
  refine ⟨fun _ _ _ => rfl, by decide, ?_, ?_, by decide, by decide, _, rfl, by decide⟩
  · rintro _ rfl; decide
  · rintro _ rfl; exact ⟨⟨0, by decide⟩, by decide⟩

set_option maxRecDepth 20000 in
theorem test_wit_WatchdogRefillMaskComplete :
    (∃ s : State, s = { stepping with clock := { tick := 60000 } } ∧ pcState s.pkg 0 ≠ 6 ∧ (part s.pkg 0).pc.stepRunning = true
      ∧ 1000 * rd s.pkg Ix.pcStepWatchdogUs 0 ≤ stepRunNs (begun s) 0 ∧ (part s.pkg 0).pc.watchdogStep ≠ some (stepOf s.pkg 0))
    ∧ (∃ s : State, s = { stepping with clock := { tick := 60000 }, pkg := modPc stepping.pkg 0 (fun q => { q with watchdogStep := some 0 }) } ∧ pcState s.pkg 0 ≠ 6
      ∧ (part s.pkg 0).pc.stepRunning = true ∧ 1000 * rd s.pkg Ix.pcStepWatchdogUs 0 ≤ stepRunNs (begun s) 0 ∧ (part s.pkg 0).pc.watchdogStep = some (stepOf s.pkg 0))
    ∧ stepRunNs (begun stepping) 0 < 1000 * rd stepping.pkg Ix.pcStepWatchdogUs 0
    ∧ (∀ st ∈ [0, 1, 7], ∃ s mask, s = on (part0 st) ∧ mask = 0x803#16 ∧ pcState s.pkg 0 = st ∧ mask.toNat < 4096 ∧ mask ≠ 0
      ∧ (∀ r < 12, bit mask.toNat r = true → regionHidden s.pkg r = false ∧ ∀ x < 12, x ≠ 0 → bit (rd s.pkg Ix.pcRegionMask x) r = false)
      ∧ ((List.range 12).filter (fun x => x != 0 && rd s.pkg Ix.pcRegionMask x != 0)).length < 4 ∧ gained s.pkg 0 mask.toNat = [1, 11] ∧ (∀ r ∈ gained s.pkg 0 mask.toNat, regionInUse s.pkg 0 r = false))
    ∧ (∃ s : State, s = on (fun p => wrB (sets [(Ix.pcRegionMask, 11, 4)] (part0 1 p)) Ix.tmFixedRanges 11 (leBytes 8 0x001000000000 ++ leBytes 8 0x10000)) ∧ pcState s.pkg 0 = 1
      ∧ gained s.pkg 0 (3#16).toNat = [1] ∧ regionInUse s.pkg 0 1 = true)
    ∧ (∃ s : State, s = on (fun p => sets [(Ix.pcRegionMask, 8, 0x100), (Ix.pcRegionMask, 9, 0x200), (Ix.pcRegionMask, 10, 0x400), (Ix.pcRegionMask, 11, 0x800)] (part0 1 p)) ∧ pcState s.pkg 0 = 1
      ∧ granted s.pkg 2 = false ∧ 4 ≤ ((List.range 12).filter (fun x => x != 0 && rd s.pkg Ix.pcRegionMask x != 0)).length)
    ∧ (∃ s : State, s = on (fun p => sets [(Ix.pcRegionMask, 11, 2)] (part0 1 p)) ∧ pcState s.pkg 0 = 1 ∧ bit (2#16).toNat 1 = true ∧ bit (rd s.pkg Ix.pcRegionMask 11) 1 = true) := by
  refine ⟨⟨_, rfl, by decide⟩, ⟨_, rfl, by decide⟩, by decide, fun st h => ⟨_, _, rfl, rfl, by revert st; decide⟩, ⟨_, rfl, by decide⟩, ⟨_, rfl, by decide⟩, ⟨_, rfl, by decide⟩⟩

/-- Partition 0 in a step with one vote open, over regions 0 to 2. -/
def voting (v : Vote) : State := { stepping with pkg := modRu (sets [(Ix.pcRegionMask, 0, 7)] stepping.pkg) 0 (fun q => { q with votes := [v] }) }

theorem test_wit_FaultRecoveryComplete_audits :
    (∃ v : Vote, v = { original := [1] } ∧ (part (voting v).pkg 0).ru.votes.find? (fun w => w.descriptor == 0 && w.tile == 0 && !w.fromArbiter && auditorRegion (voting v).pkg 0 (w.block / 8) 1 == 8 / 8) = some v
      ∧ (part (voting v).pkg 0).ru.votes.find? (fun w => w.descriptor == 0 && w.tile == 0 && !w.fromArbiter && auditorRegion (voting v).pkg 0 (w.block / 8) 1 == 16 / 8) = none
      ∧ [2] ≠ v.original ∧ v.block < 96)
    ∧ (∃ v : Vote, v = { original := [1], auditor := some [2], fromArbiter := true }
      ∧ (part (voting v).pkg 0).ru.votes.find? (fun w => w.descriptor == 0 && w.tile == 0 && w.fromArbiter && auditorRegion (voting v).pkg 0 (w.block / 8) 2 == 16 / 8) = some v
      ∧ (part (voting v).pkg 0).ru.votes.find? (fun w => w.descriptor == 0 && w.tile == 0 && w.fromArbiter && auditorRegion (voting v).pkg 0 (w.block / 8) 2 == 8 / 8) = none
      ∧ (voting v).pkg.flash.history.length + 3 ≤ 16384 ∧ [2] ≠ v.original ∧ v.auditor = some [2] ∧ [3] ≠ v.original ∧ v.auditor ≠ some [3])
    ∧ (0 ∈ membersOf stepping.pkg 0 ∧ 5 ∉ membersOf stepping.pkg 0 ∧ isRack stepping.pkg 0 = false ∧ (part stepping.pkg 0).pc.stepRunning = true ∧ (part stepping.pkg 0).ru.poison = none
      ∧ 0 = stepOf stepping.pkg 0 ∧ 1 ≠ stepOf stepping.pkg 0)
    ∧ (isRack (on (ledBy5 0)).pkg 0 = true ∧ (membersOf (on (ledBy5 0)).pkg 0).length = 1 ∧ leAt (rdB (on (ledBy5 0)).pkg Ix.pcRackPartition 0) 0 2 = 0)
    ∧ (∃ s : State, s = { stepping with pkg := modRu stepping.pkg 0 (fun q => { q with rolledTimes := 2 }) } ∧ (part s.pkg 0).ru.poison = none
      ∧ (part s.pkg 0).ru.rolledStep = stepOf s.pkg 0 ∧ rd s.pkg Ix.ruRollbackLimit 0 ≤ (part s.pkg 0).ru.rolledTimes + 1)
    ∧ (isLead stepping.pkg 0 = true ∧ isLead (on (ledBy5 0)).pkg 0 = false)
    ∧ (isLead poisoned.pkg 0 = true ∧ (part poisoned.pkg 0).ru.poison ≠ none ∧ (part poisoned.pkg 0).ru.recut = [] ∧ (part poisoned.pkg 0).pc.stepRunning = true ∧ pcState poisoned.pkg 0 = 2
      ∧ versionsWhole poisoned.pkg 0 = true ∧ ∀ m ∈ membersOf poisoned.pkg 0, poisoned.pkg.tf.holes.contains m = true ∨ ∃ r ∈ (part poisoned.pkg 0).ru.reports, r.sender = m ∧ r.verdict = 1 ∧ r.step = stepOf poisoned.pkg 0) :=
  ⟨⟨_, rfl, by decide⟩, ⟨_, rfl, by decide⟩, by decide, by decide, ⟨_, rfl, by decide⟩, by decide, by decide⟩

theorem test_wit_FaultRecoveryComplete_drydown :
    (∀ pp < 12, isRack (on id).pkg pp = false)
    ∧ (pcState stepping.pkg 0 ∉ [0, 1, 7] ∧ isRack stepping.pkg 0 = false
      ∧ (∃ s : State, s = { stepping with pkg := ledBy5 0 stepping.pkg } ∧ pcState s.pkg 0 ∉ [0, 1, 7] ∧ isRack s.pkg 0 = true ∧ (part s.pkg 0).pc.stepRunning = true))
    ∧ (∀ st ≤ 5, rd (on (sets [(Ix.ruDrydownState, 0, st)])).pkg Ix.ruDrydownState 0 = st)
    ∧ (∃ s : State, s = on (fun p => { sets [(Ix.ruDrydownState, 0, 3)] p with ru := { p.ru with causingUnit := some {} } }) ∧ rd s.pkg Ix.ruDrydownState 0 = 3 ∧ s.pkg.ru.causingUnit = some {})
    ∧ (on id).pkg.ru.causingUnit = none
    ∧ (∀ b, ∃ s : State, s = on (fun p => { sets [(Ix.ruDrydownState, 0, 5)] p with ru := { p.ru with restartWhenDrained := b } }) ∧ rd s.pkg Ix.ruDrydownState 0 = 5 ∧ s.pkg.ru.restartWhenDrained = b)
    ∧ (on id).pkg.flash.history.length < 16384
    ∧ (rd (on (sets [(Ix.ruPackageFlag, 0, 3)])).pkg Ix.ruPackageFlag 0 = 3 ∧ rd (on id).pkg Ix.ruPackageFlag 0 ≠ 3) :=
  ⟨by decide, ⟨by decide, by decide, _, rfl, by decide⟩, by decide, ⟨_, rfl, by decide⟩, by decide, fun b => ⟨_, rfl, rfl, rfl⟩, by decide, by decide⟩

theorem test_wit_ResetsBeginStarts :
    powered State.reset.pkg = false ∧ powered (on id).pkg = true ∧ rd (on id).pkg Ix.btStartState 0 = 8 ∧ rd (on (sets [(Ix.btStartState, 0, 7)])).pkg Ix.btStartState 0 ≠ 8 := by decide

/-- A package in a phase of its start. -/
def starting (k : Nat) (f : Bt → Bt) : State := on (fun p => { sets [(Ix.btStartState, 0, k)] p with bt := f { p.bt with phase := k } })

theorem test_wit_StartPhasesComplete :
    (∀ k, 1 ≤ k → k ≤ 8 → powered (starting k id).pkg = true ∧ (starting k id).pkg.bt.phase = k)
    ∧ ((starting 1 id).pkg.pins.flashTaken = false ∧ { (starting 1 id).pkg with pins := { flashTaken := true } }.pins.flashTaken = true)
    ∧ ((attemptRun ([1, 0].take 4)).contains 0 = true ∧ (attemptRun ([1, 1, 2, 1, 0].take 4)).contains 0 = false)
    ∧ (∀ r : PhaseResult, r = {} → r.frameTick = none) ∧ ({ frameTick := some 9 } : PhaseResult).frameTick = some 9
    ∧ ((∃ s : State, s = { starting 6 (fun b => { b with fullTest := true }) with pkg := sets [(Ix.ruPackageFlag, 0, 1)] (starting 6 (fun b => { b with fullTest := true })).pkg } ∧ s.pkg.bt.phase = 6
      ∧ rd s.pkg Ix.ruPackageFlag 0 = 1 ∧ s.pkg.bt.fullTest = true) ∧ moduleRateOk (starting 7 id).pkg 32 = true ∧ (starting 0 id).pkg.bt.phase ∉ [1, 2, 3, 4, 5, 6, 7, 8])
    ∧ ((starting 5 id).pkg.bt.waitingFrame = false ∧ (starting 5 id).clock.running = false ∧ { (starting 5 id) with clock := { running := true } }.clock.running = true)
    ∧ (∃ s : State, s = { starting 5 (fun b => { b with waitingFrame := true }) with clock := { running := true } } ∧ s.pkg.bt.phase = 5 ∧ s.pkg.bt.waitingFrame = true ∧ s.clock.running = true
      ∧ s.clock.adopted = false) :=
  ⟨fun k _ _ => by interval_cases k <;> decide, by decide, by decide, fun _ h => h ▸ rfl, rfl, ⟨⟨_, rfl, by decide⟩, by decide⟩, by decide, _, rfl, by decide⟩

/-- The digest of the package's identity has 32 bytes, whatever the keys. -/
theorem test_identityDigest_length : identityDigest.length = 32 := by
  simp [identityDigest, sha256, beBytes, leBytes]

/-- A licence of this package for serial number 7 that never expires. -/
def licence (expires : Nat) : Bytes :=
  [1, 0, 16, 0] ++ leBytes 4 7 ++ identityDigest ++ (leBytes 4 expires ++ List.replicate 3396 0)

set_option maxRecDepth 40000 in
theorem test_wit_TrustCommandsComplete :
    (licValid 0 (licence 0) = true ∧ licSerial (licence 0) = 7 ∧ licValid 5 (licence 5) = false ∧ licExpires (licence 5) = 5)
    ∧ ((on id).pkg.flash.licences = [] ∧ rd (on id).pkg Ix.btPoweredS 0 = 0 ∧ rd (on (sets [(Ix.btPoweredS, 0, 5)])).pkg Ix.btPoweredS 0 = 5 ∧ (on id).pkg.bt.expired = [])
    ∧ ((records 2048 []).all keySlotOk = true ∧ [(1 : Byte)].length % 2048 ≠ 0)
    ∧ (∃ b : Bytes, b = leBytes 4 1 ++ List.replicate 32 0 ∧ b.length = 36 ∧ rd (on id).pkg Ix.btRackKeyEpoch 0 < leAt b 0 4)
    ∧ (rd (on id).pkg Ix.btStartState 0 = 8 ∧ rd (starting 7 id).pkg Ix.btStartState 0 ≠ 8)
    ∧ ((255#16).toNat < (on (fun p => { p with flash := { p.flash with defects := List.replicate 256 {} } })).pkg.flash.defects.length ∧ (on id).pkg.flash.defects.length ≤ (0#16).toNat) := by
  refine ⟨?_, by decide, by decide, ⟨_, rfl, by decide⟩, by decide, by decide⟩
  have hd := test_identityDigest_length
  generalize hx : identityDigest = x at hd
  match x, hd with
  | [a0, a1, a2, a3, a4, a5, a6, a7, a8, a9, a10, a11, a12, a13, a14, a15, a16, a17, a18, a19, a20, a21, a22, a23, a24, a25, a26, a27, a28, a29, a30, a31], _ =>
    simp only [licValid, licFormOk, licFeatures, licSerial, licExpires, licence, hx]
    refine ⟨?_, rfl, ?_, rfl⟩
    · simp only [Bool.and_eq_true]
      exact ⟨⟨⟨⟨⟨⟨rfl, rfl⟩, rfl⟩, beq_iff_eq.mpr rfl⟩, rfl⟩, rfl⟩, rfl⟩
    · exact Bool.and_eq_false_iff.mpr (.inr rfl)

/-- A state whose clock runs at tick 100, with a cap and a rack key waiting. -/
def ticking : State :=
  { on (fun p => { p with pw := { p.pw with capPending := some (900, none, 0) }, bt := { p.bt with pendingRackKey := some (3, []), poweredMs := 999 } }) with
    clock := { running := true, tick := 100, adopted := true } }

theorem test_wit_RackTimeCompletes :
    (ticking.clock.running = true ∧ ticking.clock.heldFor = none ∧ ticking.clock.adopted = true ∧ ticking.pkg.pw.capPending = some (900, none, 0) ∧ ticking.pkg.bt.pendingRackKey = some (3, [])
      ∧ 999 ≤ ticking.pkg.bt.poweredMs ∧ (on id).pkg.bt.poweredMs < 999 ∧ (on id).pkg.pw.capPending = none)
    ∧ (∃ s : State, s = { ticking with pkg := sets [(Ix.pwRefState, 0, 0)] ticking.pkg } ∧ rd s.pkg Ix.pwRefState 0 = 0 ∧ s.clock.tick = (37#64).toNat + 63 ∧ s.clock.tick ≠ (38#64).toNat + 63
      ∧ s.clock.heldFor ≠ some ((38#64).toNat + 63))
    ∧ (on id).clock.running = false
    ∧ ((starting 5 (fun b => { b with waitingFrame := true })).pkg.bt.waitingFrame = true ∧ (on id).pkg.bt.waitingFrame = false) := ⟨by decide, ⟨_, rfl, by decide⟩, by decide, by decide⟩

theorem test_wit_RackTimeNeverStepsBack :
    (∃ s t : State, s = { ticking with pending := [.refSyncFrame 50] } ∧ s.clock.sound ∧ s.clock.running = true ∧ step s = .next t) := by
  refine ⟨_, _, rfl, ?_, rfl, rfl⟩
  simp [ticking, Clock.sound]

theorem test_wit_SettledPackageStays : Settled State.reset.pkg ∧ Settled (on id).pkg := by
  refine ⟨⟨rfl, rfl, by decide, ?_⟩, ⟨rfl, rfl, by decide, ?_⟩⟩ <;> decide

theorem test_wit_PowerCompletes :
    (∃ w, rd (on id).pkg Ix.pwAvgLimitW 0 < w)
    ∧ (∃ s : State, s = on (fun p => { p with pw := { p.pw with clampActive := true, clampDepth := 1 } }) ∧ s.pkg.pw.clampActive = true ∧ s.pkg.pw.sagActive = false)
    ∧ (0 ≤ rd (on id).pkg Ix.pwAvgLimitW 0 ∧ (on id).pkg.pw.clampActive = false ∧ 100 * 0 < 98 * rd (on id).pkg Ix.pwAvgLimitW 0 ∧ 98 * rd (on id).pkg Ix.pwAvgLimitW 0 ≤ 100 * rd (on id).pkg Ix.pwAvgLimitW 0)
    ∧ (tfind (on (fun p => { p with pw := { p.pw with droop := [(13, (25, 0))] } })).pkg.pw.droop 13 = some (25, 0) ∧ tfind (on id).pkg.pw.droop 13 = none)
    ∧ (∀ l : Fin 6, ∃ r, (on id).pkg.pw.reasons[limitReason l]? = some r) := by
  refine ⟨⟨_, Nat.lt_succ_self _⟩, ⟨_, rfl, rfl, rfl⟩, by decide, by decide, fun l => ?_⟩
  fin_cases l <;> exact ⟨_, rfl⟩

theorem test_wit_CapsHeld :
    ((799#32).toNat < 800 ∧ 800 ≤ (800#32).toNat)
    ∧ (rd (on (sets [(Ix.pwCapHoldMs, 0, 5)])).pkg Ix.pwCapHoldMs 0 ≠ 0 ∧ (on (sets [(Ix.pwCapHoldMs, 0, 5)])).pkg.pw.capPending = none ∧ rd (on id).pkg Ix.pwCapHoldMs 0 = 0)
    ∧ (rd (on id).pkg Ix.pwInputPowerW 0 ≤ rd (on id).pkg Ix.pwRackCapW 0)
    ∧ (∃ p, p = (on (sets [(Ix.pwInputPowerW, 0, 1000), (Ix.pwRackCapW, 0, 800)])).pkg ∧ rd p Ix.pwRackCapW 0 < rd p Ix.pwInputPowerW 0 ∧ p.pw.clampActive = false
      ∧ 7 * rd p Ix.pwInputPowerW 0 ≤ 10 * rd p Ix.pwRackCapW 0)
    ∧ (∃ p, p = (on (sets [(Ix.pwInputPowerW, 0, 1200), (Ix.pwRackCapW, 0, 800)])).pkg ∧ rd p Ix.pwRackCapW 0 < rd p Ix.pwInputPowerW 0 ∧ p.pw.clampActive = false
      ∧ 10 * rd p Ix.pwRackCapW 0 < 7 * rd p Ix.pwInputPowerW 0)
    ∧ ((on id).pkg.pw.sagActive = false ∧ { (on id).pkg.pw with sagActive := true }.sagActive = true)
    ∧ (∃ s : State, s = on (fun p => sets [(Ix.pwPowerPaused, 0, 1), (Ix.pwRackCapW, 0, 800)] (part0 3 p)) ∧ nextToResume s.pkg = some 0 ∧ s.pkg.pw.everResumed = false
      ∧ 100 * (rd s.pkg Ix.pwInputPowerW 0 + tget s.pkg.pw.clampedW 0 0) ≤ 95 * rd s.pkg Ix.pwRackCapW 0 ∧ pcState s.pkg 0 = 3 ∧ (part s.pkg 0).pc.pauseRequests = [] ∧ isRack s.pkg 0 = false)
    ∧ (∃ s : State, s = on (fun p => modPc (part0 3 p) 0 (fun q => { q with powerPaused := true, pauseRequests := [5] })) ∧ (part s.pkg 0).pc.pauseRequests.filter (· != 5) = [] ∧ pcState s.pkg 0 = 3
      ∧ (part s.pkg 0).pc.powerPaused = true ∧ bit (rd s.pkg Ix.pwPowerPaused 0) 0 = false)
    ∧ (∃ s : State, s = on (fun p => sets [(Ix.pwPowerPaused, 0, 1), (Ix.pwRackCapW, 0, 800)] (ledBy5 0 (part0 3 p))) ∧ nextToResume s.pkg = some 0 ∧ s.pkg.pw.everResumed = false
      ∧ 100 * (rd s.pkg Ix.pwInputPowerW 0 + tget s.pkg.pw.clampedW 0 0) ≤ 95 * rd s.pkg Ix.pwRackCapW 0 ∧ isRack s.pkg 0 = true ∧ isLead s.pkg 0 = false)
    ∧ (∃ s : State, s = on (fun p => sets [(Ix.pwPowerPaused, 0, 1), (Ix.pwRackCapW, 0, 800), (Ix.pwInputPowerW, 0, 799)] p) ∧ nextToResume s.pkg = some 0
      ∧ 95 * rd s.pkg Ix.pwRackCapW 0 < 100 * (rd s.pkg Ix.pwInputPowerW 0 + tget s.pkg.pw.clampedW 0 0))
    ∧ { (on id).pkg.pw with everResumed := true }.everResumed = true
    ∧ nextToResume (on id).pkg = none :=
  ⟨by decide, by decide, by decide, ⟨_, rfl, by decide⟩, ⟨_, rfl, by decide⟩, by decide, ⟨_, rfl, by decide⟩, ⟨_, rfl, by decide⟩, ⟨_, rfl, by decide⟩, ⟨_, rfl, by decide⟩, by decide, by decide⟩

end Sys2Proof.Tests
end

section
/-! Every step answers a next state and takes one command (O2). -/

namespace Sys2Proof.Machine

/-- The three forms of a command's meaning: over the package alone, over the clock and the package for the twelve commands that put the
clock or may begin a start, and POWER_ON_START's own. The functions `f` do not see the queue. -/
theorem exec_forms (i : Instr) :
    (∃ f, ∀ s, exec i s = onPkgF f s) ∨ (∃ f, ∀ s, exec i s = onClockF f s) ∨ i = .powerOnStart := by
  cases i with
  | powerOnStart => exact .inr (.inr rfl)
  | startPhaseComplete | pwrEnLow | pkgReset | btRestart | dapWrite | drydownStageComplete | rackTick | refSyncFrame | refFrameWaitExpiry
  | sagReset | overvoltageReset | thermalTrip => exact .inr (.inl ⟨_, fun s => by dsimp only [exec]; rfl⟩)
  | _ => exact .inl ⟨_, fun s => by dsimp only [exec]; rfl⟩

/-- An outcome is a next state with this queue. -/
def NextWithQueue (o : Host.Outcome State Fault Refusal) (queue : List Instr) : Prop :=
  ∃ t, o = .next t ∧ t.pending = queue

theorem onPkgF_nextWithQueue (f : Pkg → Pkg) (s : State) : NextWithQueue (onPkgF f s) s.pending :=
  ⟨_, rfl, rfl⟩

theorem onClockF_nextWithQueue (f : Clock → Pkg → Clock × Pkg) (s : State) : NextWithQueue (onClockF f s) s.pending := by
  unfold onClockF onClock
  split
  case isTrue => exact ⟨_, rfl, rfl⟩
  case isFalse => exact ⟨s, rfl, rfl⟩

theorem execPowerOnStart_nextWithQueue (s : State) : NextWithQueue (execPowerOnStart s) s.pending := by
  refine ⟨_, rfl, ?_⟩
  split <;> rfl

/-- No command's meaning stops, and none touches the queue of waiting commands. -/
theorem exec_nextWithQueue (i : Instr) (s : State) : NextWithQueue (exec i s) s.pending := by
  obtain ⟨f, hf⟩ | ⟨f, hf⟩ | rfl := exec_forms i
  · rw [hf]
    exact onPkgF_nextWithQueue f s
  · rw [hf]
    exact onClockF_nextWithQueue f s
  · rw [exec_powerOnStart]
    exact execPowerOnStart_nextWithQueue s

theorem step_of_pending_nil {s : State} (h : s.pending = []) : step s = .next { s with clock := s.clock.cycle } := by
  simp [step, h]

theorem step_of_pending_cons {s : State} {c : Instr} {rest : List Instr} (h : s.pending = c :: rest) :
    step s = exec c { s with pending := rest } := by
  simp [step, h]

/-- Settles O2, by whether a command waits. That no command stops is the model's choice (entries 24 and 144 of the log, and the notes'
Stops section): what the spec has the package refuse is an effect on the state. -/
theorem everyStepAnswersNext : Obligations.EveryStepAnswersNext := by
  unfold Obligations.EveryStepAnswersNext
  intro s
  cases hq : s.pending with
  | nil => exact ⟨_, step_of_pending_nil hq, hq⟩
  | cons c rest =>
    rw [step_of_pending_cons hq]
    exact exec_nextWithQueue c { s with pending := rest }

end Sys2Proof.Machine
end

section
/-! What reading a logical block's state, an entry of a cell and the entries of a block finds after the shared updates, and what an event
that is also a last status leaves. -/

namespace Sys2Proof.Machine

theorem Completes.mono {i : Instr} {s : State} {P Q : Pkg → Prop} (h : Completes i s P) (himp : ∀ q, P q → Q q) : Completes i s Q := by
  obtain ⟨q, hq, hx⟩ := h
  exact ⟨q, himp q hq, hx⟩

@[simp] theorem blk_modBlk_self (p : Pkg) (b : Nat) (f : Blk → Blk) : blk (modBlk p b f) b = f (blk p b) := by
  simp [blk, modBlk]

theorem blk_of_tp {p q : Pkg} (h : p.tp = q.tp) (b : Nat) : blk p b = blk q b := by
  simp [blk, h]

@[simp] theorem begun_tp (s : State) : (begun s).tp = s.pkg.tp := rfl
@[simp] theorem begun_ms (s : State) : (begun s).ms = s.pkg.ms := rfl
@[simp] theorem blk_begun (s : State) (b : Nat) : blk (begun s) b = blk s.pkg b := rfl
@[simp] theorem blk_wrAt (p : Pkg) (e : Entry) (u sub v b : Nat) : blk (wrAt p e u sub v) b = blk p b := rfl
@[simp] theorem blk_wr (p : Pkg) (e : Entry) (sub v b : Nat) : blk (wr p e sub v) b = blk p b := rfl
@[simp] theorem blk_bump (p : Pkg) (e : Entry) (sub n b : Nat) : blk (bump p e sub n) b = blk p b := rfl
@[simp] theorem blk_last (p : Pkg) (e : Entry) (sub n b : Nat) : blk (last p e sub n) b = blk p b := rfl
@[simp] theorem rd_modBlk (p : Pkg) (b : Nat) (f : Blk → Blk) (e : Entry) (sub : Nat) : rd (modBlk p b f) e sub = rd p e sub := rfl
@[simp] theorem rdAt_modBlk (p : Pkg) (b : Nat) (f : Blk → Blk) (e : Entry) (u sub : Nat) : rdAt (modBlk p b f) e u sub = rdAt p e u sub := rfl

@[simp] theorem rdAt_bumpAt_self (p : Pkg) (e : Entry) (u sub n : Nat) :
    rdAt (bumpAt p e u sub n) e u sub = (rdAt p e u sub + n) % 2 ^ e.type.width := by
  simp [bumpAt]

/-- Keys of entries that stand at different indexes differ, whatever their subindexes. -/
theorem keyAt_ne_of_index {e e' : Entry} {u u' sub sub' : Nat} (h : e.index + u ≠ e'.index + u') (hs : sub < 256) (hs' : sub' < 256) :
    keyAt e u sub ≠ keyAt e' u' sub' := by
  simp only [keyAt]
  omega

/-- An event that is also a last status changes, beside that status, what an event does. -/
theorem raiseAs_keeps (p : Pkg) (e : Entry) (sub code partition unit detail : Nat) :
    KeepsState (last p e sub code) (raiseAs p e sub code partition unit detail) :=
  raise_keeps _ _ _ _ _

/-- An entry below those of the Memory-Semantic Layer is no counter that sending or an event advances. -/
theorem commsKey_low {e : Entry} {u sub : Nat} (h : e.index + u < 0x5810) (hs : sub < 256) : commsKey (keyAt e u sub) = false :=
  commsKey_far (.inl (by simp only [keyAt]; omega))

end Sys2Proof.Machine
end

section
/-! Errors of cells (O11). -/

namespace Sys2Proof.Machine

/-- A corrected error of a cell raises its count by 1, whether or not it alerts (R42). -/
theorem countCorrected_counts (p : Pkg) {cell : Nat} (hc : cell < 768) :
    rdAt (countCorrected p cell) Ix.cellCorrectedCount (cell / 64) (cell % 64)
      = (rdAt p Ix.cellCorrectedCount (cell / 64) (cell % 64) + 1) % 2 ^ 32 := by
  have hcount : rdAt (bumpAt p Ix.cellCorrectedCount (cell / 64) (cell % 64) 1) Ix.cellCorrectedCount (cell / 64) (cell % 64)
      = (rdAt p Ix.cellCorrectedCount (cell / 64) (cell % 64) + 1) % 2 ^ 32 := rdAt_bumpAt_self _ _ _ _ _
  have hstatus : Ix.cellCorrectedCount.index + cell / 64 ≠ Ix.regionLastStatus.index + 0 := by
    simp only [Ix.cellCorrectedCount, Ix.regionLastStatus]
    omega
  have hcomms : Ix.cellCorrectedCount.index + cell / 64 < 0x5810 := by
    simp only [Ix.cellCorrectedCount]
    omega
  unfold countCorrected
  dsimp only
  split
  case isTrue =>
    rw [(raiseAs_keeps _ _ _ _ _ _ _).rdAt _ _ _ (commsKey_low hcomms (by omega)),
      last, wr, rdAt_wrAt_ne _ _ (keyAt_ne_of_index hstatus (by omega) (by omega))]
    exact hcount
  case isFalse => exact hcount

/-- The package after the first uncorrectable error of a cell in the pass in flight (R42, R453). -/
def firstCellError (p : Pkg) (cell : Nat) : Pkg :=
  let counted := bumpAt p Ix.cellUncorrectableCount (cell / 64) (cell % 64) 1
  let recorded := last (recordHistory counted 1 1 cell 0x0101 (stepOfRegion counted (cell / 64))) Ix.regionLastStatus (cell / 64) 0x0101
  wrAt (modBlk recorded (cell / 8) (fun k => { k with cellErrors := tput k.cellErrors cell 1 })) Ix.cellState (cell / 64) (cell % 64) 3

theorem firstCellError_state (p : Pkg) (cell : Nat) : rdAt (firstCellError p cell) Ix.cellState (cell / 64) (cell % 64) = 3 :=
  rdAt_wrAt_self _ _ _ _ _

theorem firstCellError_count (p : Pkg) {cell : Nat} (hc : cell < 768) :
    rdAt (firstCellError p cell) Ix.cellUncorrectableCount (cell / 64) (cell % 64)
      = (rdAt p Ix.cellUncorrectableCount (cell / 64) (cell % 64) + 1) % 2 ^ 16 := by
  have hkey : ∀ (e : Entry) (u sub : Nat), sub < 256 → Ix.cellUncorrectableCount.index + cell / 64 ≠ e.index + u →
      keyAt Ix.cellUncorrectableCount (cell / 64) (cell % 64) ≠ keyAt e u sub :=
    fun e u sub hs h => keyAt_ne_of_index h (by omega) hs
  unfold firstCellError
  dsimp only
  rw [rdAt_wrAt_ne _ _ (hkey _ _ _ (by omega) (by simp only [Ix.cellUncorrectableCount, Ix.cellState]; omega)),
    rdAt_modBlk, last, wr,
    rdAt_wrAt_ne _ _ (hkey _ _ _ (by omega) (by simp only [Ix.cellUncorrectableCount, Ix.regionLastStatus]; omega)),
    recordHistory_rdAt _ _ _ _ _ _ _ _ _ (commsKey_low (by simp only [Ix.cellUncorrectableCount]; omega) (by omega))
      (hkey _ _ _ (by omega) (by simp only [Ix.cellUncorrectableCount, Ix.ruHistoryCount]; omega)),
    rdAt_bumpAt_self]
  rfl

theorem firstCellError_errors (p : Pkg) (cell : Nat) : tget (blk (firstCellError p cell) (cell / 8)).cellErrors cell 0 = 1 := by
  simp [firstCellError]

/-- The first uncorrectable error, in the pass in flight, of a cell that is not hidden (R42). -/
theorem execCellUncorrectable_first {s : State} {cell : Fin 768} (hp : powered s.pkg = true) (hcell : cellHidden s.pkg cell = false)
    (hblock : blockHidden s.pkg (cell / 8) = false) (hfirst : tget (blk s.pkg (cell / 8)).cellErrors cell 0 = 0) :
    Completes (.cellUncorrectable cell) s (fun q => q = firstCellError (begun s) cell) := by
  refine completes_of hp (exec_cellUncorrectable cell s) ?_
  have hn : tget (blk (last (recordHistory (bumpAt (begun s) Ix.cellUncorrectableCount (cell / 64) (cell % 64) 1) 1 1 cell 0x0101
      (stepOfRegion (bumpAt (begun s) Ix.cellUncorrectableCount (cell / 64) (cell % 64) 1) (cell / 64))) Ix.regionLastStatus (cell / 64) 0x0101)
      (cell / 8)).cellErrors cell 0 = 0 := by
    rw [blk_last, blk_of_tp (recordHistory_tp _ _ _ _ _ _)]
    exact hfirst
  have hhidden : (cellHidden (begun s) cell || blockHidden (begun s) (cell / 8)) = false := by
    rw [Bool.or_eq_false_iff]
    exact ⟨hcell, hblock⟩
  dsimp only
  rw [if_neg (by simp [hhidden]), if_pos hn, hn]
  rfl

/-- Settles O11, by what each of the three commands makes of the package. Only the first error of a cell in a pass is claimed: the
second one escalates (R43). -/
theorem cellErrorsComplete : Obligations.CellErrorsComplete := by
  unfold Obligations.CellErrorsComplete
  refine ⟨fun s cell hp => ?corrected, fun s cell hp hcell hblock hfirst => ?uncorrectable, fun s cell hp hreset => ?resetDone⟩
  case corrected =>
    exact completes_of hp (exec_cellCorrectedError cell s) (countCorrected_counts (begun s) cell.isLt)
  case uncorrectable =>
    refine (execCellUncorrectable_first hp hcell hblock hfirst).mono ?_
    rintro q rfl
    exact ⟨firstCellError_state _ _, firstCellError_count _ cell.isLt, firstCellError_errors _ _⟩
  case resetDone =>
    refine completes_of hp (exec_cellResetComplete cell s) ?_
    rw [rdAt_begun, if_pos hreset]
    exact ⟨rdAt_wrAt_self _ _ _ _ _, rfl, rfl⟩

end Sys2Proof.Machine
end

section
/-! Fences of regions and writes of `cell_hide` (O13). -/

namespace Sys2Proof.Machine

/-- The package when a region has been fenced and its blocks have stopped, before its partition resets (R45). -/
def fencedAndStopped (p : Pkg) (r status : Nat) : Pkg :=
  let listed := { p with tp := { p.tp with fenced := p.tp.fenced ++ [r] } }
  (blocksOfRegion r).foldl (fun p b => stopBlock p b status) (recordHistory listed 3 1 r status (stepOfRegion p r))

theorem fencedAndStopped_fenced (p : Pkg) (r : Fin 12) (status : Nat) : (fencedAndStopped p r status).tp.fenced = p.tp.fenced ++ [r.val] := by
  unfold fencedAndStopped
  rw [(stop_frame _ (blocksOfRegion_lt r) _ status).fenced, recordHistory_tp]

/-- Entries that neither stopping a block, an event nor the fault history writes read as before. -/
theorem fencedAndStopped_rd (p : Pkg) (r : Fin 12) (status : Nat) {e : Entry} {sub : Nat} (hs : sub < 256)
    (hk : blockKey (keyAt e 0 sub) = false) (hlow : e.index < 0x5800 ∨ 0x5D00 ≤ e.index) (hh : e.index ≠ Ix.ruHistoryCount.index) :
    rd (fencedAndStopped p r status) e sub = rd p e sub := by
  unfold fencedAndStopped
  rw [(stop_frame _ (blocksOfRegion_lt r) _ status).rd _ _ hk, recordHistory_rd _ _ _ _ _ _ _ _ hs hlow hh]
  rfl

theorem fencedAndStopped_pcState (p : Pkg) (r : Fin 12) (status : Nat) {pp : Nat} (hpp : pp < 12) :
    pcState (fencedAndStopped p r status) pp = pcState p pp :=
  fencedAndStopped_rd p r status (by omega) (blockKey_false (by omega) (by decide) (by decide) (by decide) (by decide) (by decide))
    (by decide) (by decide)

theorem fencedAndStopped_partOfRegion (p : Pkg) (r : Fin 12) (status : Nat) : partOfRegion (fencedAndStopped p r status) r = partOfRegion p r :=
  partOfRegion_congr _ (fun _ hpp => fencedAndStopped_rd p r status (by omega)
    (blockKey_false (by omega) (by decide) (by decide) (by decide) (by decide) (by decide)) (by decide) (by decide))

/-- The partition that owns a fenced region begins its reset, where it is not disabled (R45, R429). -/
def resetOwner (p : Pkg) (owner : Option Nat) (status : Nat) : Pkg :=
  match owner with
  | none => p
  | some pp => if pcState p pp = 0 then p else beginReset p pp status true

theorem resetOwner_fenced (p : Pkg) (owner : Option Nat) (status : Nat) : (resetOwner p owner status).tp.fenced = p.tp.fenced := by
  cases owner with
  | none => rfl
  | some pp =>
    unfold resetOwner
    dsimp only
    split
    · rfl
    · exact beginReset_fenced _ _ _ _

theorem resetOwner_pcState {p : Pkg} {pp : Nat} (status : Nat) (hpp : pp < 12) (hon : pcState p pp ≠ 0) :
    pcState (resetOwner p (some pp) status) pp = 6 := by
  unfold resetOwner
  dsimp only
  rw [if_neg hon]
  exact beginReset_state _ _ _ _ hpp

/-- A region that is neither fenced nor hidden is fenced, its blocks stop, and its owner resets (R45). -/
theorem fenceRegion_open {p : Pkg} {r : Fin 12} (status : Nat) (hopen : p.tp.fenced.contains r.val = false) (hshown : regionHidden p r = false) :
    fenceRegion p r status = resetOwner (fencedAndStopped p r status) (partOfRegion p r) status := by
  unfold fenceRegion
  rw [if_neg (by rw [hopen, hshown]; decide)]
  change resetOwner (fencedAndStopped p r status) (partOfRegion (fencedAndStopped p r status) r) status = _
  rw [fencedAndStopped_partOfRegion]

/-- Fencing a region lists it, and resets the partition that owns it (R45). -/
theorem fenceRegion_effect {p : Pkg} {r : Fin 12} (status : Nat) (hopen : p.tp.fenced.contains r.val = false) (hshown : regionHidden p r = false) :
    (fenceRegion p r status).tp.fenced = p.tp.fenced ++ [r.val]
    ∧ ∀ pp, partOfRegion p r = some pp → pcState p pp ≠ 0 → pcState (fenceRegion p r status) pp = 6 := by
  rw [fenceRegion_open status hopen hshown, resetOwner_fenced, fencedAndStopped_fenced]
  refine ⟨rfl, fun pp hown hon => ?_⟩
  have hpp := partOfRegion_lt hown
  rw [hown]
  exact resetOwner_pcState _ hpp (by rwa [fencedAndStopped_pcState _ _ _ hpp])

/-- A write of `cell_hide` that the dictionary lets through ends with what its owner makes of it, answered (R50, R405). -/
theorem execCellHideWrite_open {s : State} {region : Fin 12} {cell : Fin 64} {value : Byte} {r : Pkg × Answer} (hp : powered s.pkg = true)
    (hgate : gate s.pkg Ix.cellHide region cell = none) (hwrite : cellHideWrite (begun s) region cell value.toNat = r) :
    Completes (.cellHideWrite region cell value) s
      (fun q => q = emit r.1 (.answer (Ix.cellHide.index + region) cell r.2.abort r.2.status r.2.pending)) := by
  refine completes_of hp (exec_cellHideWrite region cell value s) ?_
  have hgated : gated (begun s) Ix.cellHide region cell (fun p => cellHideWrite p region cell value.toNat) = r := by
    unfold gated
    rw [show gate (begun s) Ix.cellHide region cell = none from hgate]
    exact hwrite
  rw [hgated]

theorem cellHideWrite_zero (p : Pkg) (region cell : Nat) : cellHideWrite p region cell 0 = (wrAt p Ix.cellHide region cell 0, accepted) := rfl

section
variable {p : Pkg} {region cell : Nat} (hcell : cellHidden p (region * 64 + cell) = false)
  (hpending : (pendingHides p ((region * 64 + cell) / 8)).contains (region * 64 + cell) = false)
include hcell hpending

theorem cellHideWrite_takes (hroom : hiddenCellCount p ((region * 64 + cell) / 8) + (pendingHides p ((region * 64 + cell) / 8)).length < 2) :
    cellHideWrite p region cell 1 = (wrAt p Ix.cellHide region cell 1, accepted) := by
  unfold cellHideWrite
  rw [if_neg (by decide), if_neg (by decide), if_neg (by rw [hcell, hpending]; decide), if_neg (by omega)]

theorem cellHideWrite_refuses (hfull : 2 ≤ hiddenCellCount p ((region * 64 + cell) / 8) + (pendingHides p ((region * 64 + cell) / 8)).length) :
    cellHideWrite p region cell 1 = (last p Ix.regionLastStatus region 0x010D, invalid 0x010D) := by
  unfold cellHideWrite
  rw [if_neg (by decide), if_neg (by decide), if_neg (by rw [hcell, hpending]; decide), if_pos hfull]
  rfl

end

/-- What `cell_hide` asks for does not hide a cell at once (R50). -/
theorem cellHidden_wrAt_cellHide (p : Pkg) (region : Fin 12) (cell : Fin 64) (v : Nat) :
    cellHidden (wrAt p Ix.cellHide region cell v) (region * 64 + cell) = cellHidden p (region * 64 + cell) := by
  have hdiff : Ix.cellState.index + (region.val * 64 + cell.val) / 64 ≠ Ix.cellHide.index + region.val := by
    simp only [Ix.cellState, Ix.cellHide]
    omega
  unfold cellHidden
  rw [rdAt_wrAt_ne _ _ (keyAt_ne_of_index hdiff (by omega) (by omega))]

/-- Settles O13: the two causes of a fence differ in their status alone; a write of `cell_hide` by its value and by the cells of the block
that are hidden or to be hidden. -/
theorem regionFaultsComplete : Obligations.RegionFaultsComplete := by
  unfold Obligations.RegionFaultsComplete
  refine ⟨fun s region hp hopen hshown c hc => ?fence, fun s region cell hp hgate hcell hpending => ⟨?zero, fun hroom => ?takes, fun hfull => ?refuses⟩⟩
  case fence =>
    have heffect := fun status => fenceRegion_effect (p := begun s) (r := region) status hopen hshown
    simp only [List.mem_cons, List.not_mem_nil, or_false] at hc
    rcases hc with rfl | rfl
    · exact completes_of hp (exec_handshakeTimeout region s) (heffect 0x0108)
    · exact completes_of hp (exec_regionControlFault region s) (heffect 0x0100)
  case zero =>
    refine (execCellHideWrite_open hp hgate (cellHideWrite_zero _ _ _)).mono ?_
    rintro q rfl
    exact rdAt_wrAt_self _ _ _ _ _
  case takes =>
    refine (execCellHideWrite_open (value := 1) hp hgate (cellHideWrite_takes (p := begun s) hcell hpending hroom)).mono ?_
    rintro q rfl
    exact ⟨rdAt_wrAt_self _ _ _ _ _, (cellHidden_wrAt_cellHide _ _ _ _).trans hcell, emit_last _ _⟩
  case refuses =>
    refine (execCellHideWrite_open (value := 1) hp hgate (cellHideWrite_refuses (p := begun s) hcell hpending hfull)).mono ?_
    rintro q rfl
    have hdiff : Ix.cellHide.index + region.val ≠ Ix.regionLastStatus.index + 0 := by
      simp only [Ix.cellHide, Ix.regionLastStatus]
      omega
    exact ⟨rdAt_wrAt_ne _ _ (keyAt_ne_of_index hdiff (by omega) (by omega)), rd_last_self _ _ _ _, rfl, emit_last _ _⟩

end Sys2Proof.Machine
end

section
/-! Stage faults, mark gaps and bad operand words (O12). -/

namespace Sys2Proof.Machine

theorem haltPartition_ru (p : Pkg) (pp status : Nat) : (part (haltPartition p pp status) pp).ru = (part p pp).ru := by
  unfold haltPartition
  dsimp only
  split
  · simp
  · rw [(raise_keeps _ _ _ _ _).part]
    simp [setPcState]

/-- Counting a rollback does not take back the member's report (R445). -/
theorem countRollback_reported (p : Pkg) (pp : Nat) : (part (countRollback p pp) pp).ru.reported = (part p pp).ru.reported := by
  have hraised : ∀ q : Pkg, part (raiseRu q pp 0x1207 0xFFFFFFFF 0) pp = part q pp := fun q =>
    part_of_parts (raiseAs_keeps q Ix.ruLastStatus pp 0x1207 pp 0xFFFFFFFF 0).parts pp
  unfold countRollback
  dsimp only
  generalize (if (part p pp).ru.rolledStep = stepOf p pp then (part p pp).ru.rolledTimes + 1 else 1) = n
  split
  · rw [haltPartition_ru, part_last, hraised, part_bump, part_bump, part_modRu]
  · rw [hraised, part_bump, part_bump, part_modRu]

/-- A member that answers the first poison of its running step reports it (R444). -/
theorem rollback_reported {p : Pkg} {pp : Nat} {r : PoisonRecord} (hfirst : (part p pp).ru.poison = none) (hstep : r.step = stepOf p pp) :
    (part (rollback p pp r) pp).ru.reported = true := by
  unfold rollback
  rw [if_neg (by simp [hfirst, hstep])]
  dsimp only
  rw [countRollback_reported, sendReport_reported, part_modRu]

/-- A cause found here fails a running step that is not yet rolled back, and the member reports it (R443, R444). -/
theorem causeRollback_reported {p : Pkg} {pp : Nat} (cause region block descriptor tile : Nat) (hfirst : (part p pp).ru.poison = none)
    (hrun : (part p pp).pc.stepRunning = true) : (part (causeRollback p pp cause region block descriptor tile) pp).ru.reported = true := by
  unfold causeRollback
  rw [if_neg (by simp [hfirst, hrun])]
  dsimp only
  refine rollback_reported ?_ ?_
  · rw [part_of_parts (emits_keep Pkg.parts (fun _ _ => rfl) _ _ _)]
    exact hfirst
  · exact (rd_of_dict (emits_keep Pkg.dict (fun _ _ => rfl) _ _ _) _ _).symm

theorem stopBlock_regionLast (p : Pkg) (b st : Nat) : rd (stopBlock p b st) Ix.regionLastStatus (b / 8) = st % 2 ^ 16 :=
  rd_wr_self _ _ _ _

/-- A block that stops stays in its partition. -/
theorem stopBlock_partOfBlock (p : Pkg) {b : Nat} (hb : b < 96) (st : Nat) : partOfBlock (stopBlock p b st) b = partOfBlock p b :=
  partOfRegion_congr _ (fun _ hpp => (stopBlock_frame p hb st).rd _ _
    (blockKey_false (by omega) (by decide) (by decide) (by decide) (by decide) (by decide)))

/-- A pass that stops in a partition's block: the block stops and reports, and the step fails (R46, R443). -/
theorem stopPass_owned {p : Pkg} {b pp : Nat} (hb : b < 96) (hown : partOfBlock p b = some pp) (st addr : Nat) :
    stopPass p b st addr = failStep (blockReports (stopBlock p b st) pp b st addr) pp b := by
  unfold stopPass
  dsimp only
  rw [stopBlock_partOfBlock p hb, hown]

/-- What a stopped block and its partition show once the block has reported (R46, R50, R73). -/
theorem blockReports_stopBlock (p : Pkg) {b : Nat} (hb : b < 96) (pp addr : Nat) {st : Nat} (hst : st < 2 ^ 16) :
    let q := blockReports (stopBlock p b st) pp b st addr
    (blk q b).act = 3 ∧ (blk q b).passes = [] ∧ rd q Ix.blockLastStatus b = st ∧ rd q Ix.regionLastStatus (b / 8) = st
    ∧ (part q pp).pc.blockReport = some (b, st, addr) ∧ q.mem = p.mem ∧ (part q pp).ru = (part p pp).ru
    ∧ (part q pp).pc.stepRunning = (part p pp).pc.stepRunning := by
  have hblk : blk (blockReports (stopBlock p b st) pp b st addr) b = blk (stopBlock p b st) b := rfl
  obtain ⟨hpasses, hact⟩ := stopBlock_blk p b st
  have hparts := (stopBlock_frame p hb st).parts
  refine ⟨hblk ▸ hact, hblk ▸ hpasses, ?_, ?_, ?_, (stopBlock_frame p hb st).mem, ?_, ?_⟩
  · exact (stopBlock_last p b st (by omega)).trans (Nat.mod_eq_of_lt hst)
  · exact (stopBlock_regionLast p b st).trans (Nat.mod_eq_of_lt hst)
  · simp [blockReports]
  · simp [blockReports, part_of_parts hparts]
  · simp [blockReports, part_of_parts hparts]

theorem operandStatus_lt (sram : Bool) (completion : Nat) : operandStatus sram completion < 2 ^ 16 := by
  unfold operandStatus
  split
  · decide
  · split <;> decide

/-- The package when a stage fault has been counted and shown (R44, R50). -/
def stageFaultCounted (p : Pkg) (b : Nat) : Pkg := last (bump p Ix.blockStageFaults b 1) Ix.regionLastStatus (b / 8) 0x0104

theorem stageFaultCounted_count (p : Pkg) {b : Nat} (hb : b < 96) :
    rd (stageFaultCounted p b) Ix.blockStageFaults b = (rd p Ix.blockStageFaults b + 1) % 2 ^ 32 := by
  unfold stageFaultCounted
  rw [rd_last_ne _ _ (by decide) (by omega) (by omega)]
  exact rd_bump_self _ _ _ _

/-- Every entry but the count and the region's status reads as before. -/
theorem stageFaultCounted_rd (p : Pkg) {b : Nat} (hb : b < 96) {e : Entry} {sub : Nat} (hs : sub < 256)
    (hcount : e.index ≠ Ix.blockStageFaults.index) (hlast : e.index ≠ Ix.regionLastStatus.index) :
    rd (stageFaultCounted p b) e sub = rd p e sub := by
  unfold stageFaultCounted
  rw [rd_last_ne _ _ hlast hs (by omega), rd_bump_ne _ _ hcount hs (by omega)]

/-- The tile of a stage fault is re-executed once more (R44). -/
def tileReexecuted (p : Pkg) (b tile : Nat) : Pkg :=
  bump (modBlk p b (fun k => { k with reexecs := tput k.reexecs tile (tget (blk p b).reexecs tile 0 + 1) })) Ix.blockTileReexecutions b 1

theorem tileReexecuted_count (p : Pkg) (b tile : Nat) :
    rd (tileReexecuted p b tile) Ix.blockTileReexecutions b = (rd p Ix.blockTileReexecutions b + 1) % 2 ^ 32 :=
  rd_bump_self _ _ _ _

theorem tileReexecuted_rd (p : Pkg) {b : Nat} (tile : Nat) (hb : b < 96) {e : Entry} {sub : Nat} (hs : sub < 256)
    (hcount : e.index ≠ Ix.blockTileReexecutions.index) : rd (tileReexecuted p b tile) e sub = rd p e sub :=
  rd_bump_ne _ _ hcount hs (by omega)

theorem tileReexecuted_reexecs (p : Pkg) (b tile : Nat) :
    tget (blk (tileReexecuted p b tile) b).reexecs tile 0 = tget (blk p b).reexecs tile 0 + 1 := by
  simp [tileReexecuted]

section
variable {s : State} {block : Fin 96} {tile : Nat} (hp : powered s.pkg = true) (hshown : blockHidden s.pkg block = false)
include hp hshown

/-- A stage fault of a block that is not hidden is counted and shown, and what follows turns on `block_halt_on_stage_fault` and on how
often the tile has been re-executed (R44). -/
theorem execStageFault_shown :
    Completes (.stageFault block tile) s (fun q =>
      let p := stageFaultCounted (begun s) block
      q = if rd s.pkg Ix.blockHaltOnStageFault block = 1 then stopPass p block 0x0104 0
        else if tget (blk s.pkg block).reexecs tile 0 < 2 then tileReexecuted p block tile
        else blockFault p block 0x0105) := by
  refine completes_of hp (exec_stageFault block tile s) ?_
  have hhalt : rd (stageFaultCounted (begun s) block) Ix.blockHaltOnStageFault block = rd s.pkg Ix.blockHaltOnStageFault block :=
    stageFaultCounted_rd _ block.isLt (by omega) (by decide) (by decide)
  dsimp only
  rw [if_neg (by rw [show blockHidden (begun s) block = false from hshown]; decide), ← hhalt]
  rfl

end

/-- Settles O12, by cases on the command. Two of its clauses are choices of the model: a tile that fails its re-executions stops the block and
rolls the step back (entry 25 of its log), and a bad operand word, or a stop with 0x0104, rolls the step back and does not halt the
partition (entry 26). -/
theorem passFaultsComplete : Obligations.PassFaultsComplete := by
  unfold Obligations.PassFaultsComplete
  refine ⟨fun s block tile hp hshown => ?stage, fun s block hp => ?gap, fun s block sram completion address pp hp hpasses hown hfirst hrun => ?operand⟩
  case stage =>
    have hcount := stageFaultCounted_count (begun s) block.isLt
    have hexec := execStageFault_shown (tile := tile) hp hshown
    refine ⟨fun hgo hfew => hexec.mono ?_, fun hhalt => hexec.mono ?_, fun hgo hmany => hexec.mono ?_⟩
    · rintro q rfl
      rw [if_neg hgo, if_pos hfew]
      refine ⟨?_, ?_, ?_, tileReexecuted_reexecs _ _ _, rfl, rfl⟩
      · rw [tileReexecuted_rd _ _ block.isLt (by omega) (by decide)]
        exact hcount
      · rw [tileReexecuted_count, stageFaultCounted_rd _ block.isLt (by omega) (by decide) (by decide)]
        rfl
      · rw [tileReexecuted_rd _ _ block.isLt (by omega) (by decide)]
        exact rd_last_self _ _ _ _
    · rintro q rfl
      exact ⟨_, hcount, rfl, rfl, rfl, if_pos hhalt⟩
    · rintro q rfl
      refine ⟨_, hcount, rfl, rfl, rfl, ?_⟩
      rw [if_neg hgo, if_neg (by omega)]
  case gap =>
    refine ⟨fun hquiet => completes_of hp (exec_markGapExceeded block s) ?_, fun hraised => completes_of hp (exec_markGapExceeded block s) ?_⟩
    · have hkeeps := raiseAs_keeps (modBlk (begun s) block (fun k => { k with gapRaised := true })) Ix.regionLastStatus (block / 8) 0x0158
        ((partOfBlock (begun s) block).getD 0xFF) block 0
      rw [if_neg (by rw [blk_begun, hquiet]; decide)]
      refine ⟨?_, ?_, hkeeps.parts, hkeeps.mem⟩
      · rw [blk_of_tp hkeeps.tp, blk_last, blk_modBlk_self]
      · rw [hkeeps.rd _ _ (commsKey_low (by decide) (by omega))]
        exact rd_last_self _ _ _ _
    · exact if_pos hraised
  case operand =>
    refine completes_of hp (exec_badOperandWord block sram completion address s) ?_
    rw [blk_begun, if_neg hpasses, stopPass_owned (p := begun s) block.isLt hown]
    obtain ⟨hact, hnone, hlast, hregion, hreport, hmem, hru, hstep⟩ :=
      blockReports_stopBlock (begun s) block.isLt pp address (operandStatus_lt sram completion)
    exact ⟨⟨_, hact, hnone, hlast, hregion, hreport, hmem, rfl⟩, causeRollback_reported _ _ _ _ _ (hru ▸ hfirst) (hstep ▸ hrun)⟩

end Sys2Proof.Machine
end

section
/-! Passes and asynchronous copies that complete (O23). -/

namespace Sys2Proof.Machine

@[simp] theorem blk_showPointer (p : Pkg) (b b' : Nat) : blk (showPointer p b) b' = blk p b' := rfl

/-- With a pass in flight the block's time is counted up to now (R50, R422), at 21 ACLK periods in 20 ns. -/
theorem countBusy_busy {p : Pkg} {b : Nat} (hb : b < 96) {q : Pass} {rest : List Pass} (hpasses : (blk p b).passes = q :: rest)
    (hrun : q.running = true) :
    rd (countBusy p b) Ix.blockBusyAclk b = (rd p Ix.blockBusyAclk b + (p.now - max q.startNs (blk p b).busyUntil) * 21 / 20) % 2 ^ 64 := by
  unfold countBusy
  rw [hpasses, List.filter_cons_of_pos hrun]
  dsimp only
  split
  next pp hown =>
    have hpp := partOfBlock_lt hown
    rw [rd_bump_ne _ _ (by decide) (by omega) (by omega)]
    exact rd_bump_self _ _ _ _
  next => exact rd_bump_self _ _ _ _

/-- Counting a block's time changes of the block the time counted so far alone. -/
theorem countBusy_blk (p : Pkg) (b : Nat) : { blk (countBusy p b) b with busyUntil := (blk p b).busyUntil } = blk p b := by
  unfold countBusy
  split
  · rfl
  · dsimp only
    split
    · rw [blk_bump, blk_bump, blk_modBlk_self]
    · rw [blk_bump, blk_modBlk_self]

theorem countStage_rd (b : Nat) (p : Pkg) (c : QCount) (hb : b < 96) {e : Entry} {sub : Nat} (hs : sub < 256)
    (hq : e.index ≠ Ix.blockQuantisedCount.index) (hsat : e.index ≠ Ix.blockSaturatedCount.index) (hf : e.index ≠ Ix.blockFlushedCount.index) :
    rd (countStage b p c) e sub = rd p e sub := by
  unfold countStage
  rw [rd_bump_ne _ _ hf hs (by omega), rd_bump_ne _ _ hsat hs (by omega), rd_bump_ne _ _ hq hs (by omega)]

/-- The counts of a stage are added to the block's (R101). -/
theorem countStage_counts (b : Nat) (p : Pkg) (c : QCount) (hb : b < 96) :
    rd (countStage b p c) Ix.blockQuantisedCount b = (rd p Ix.blockQuantisedCount b + c.quantised) % 2 ^ 64
    ∧ rd (countStage b p c) Ix.blockSaturatedCount b = (rd p Ix.blockSaturatedCount b + c.saturated) % 2 ^ 64
    ∧ rd (countStage b p c) Ix.blockFlushedCount b = (rd p Ix.blockFlushedCount b + c.flushed) % 2 ^ 64 := by
  have hne : ∀ (q : Pkg) (e e' : Entry) (n : Nat), e.index ≠ e'.index → rd (bump q e' b n) e b = rd q e b :=
    fun q e e' n h => rd_bump_ne q n h (by omega) (by omega)
  unfold countStage
  refine ⟨?_, ?_, ?_⟩
  · rw [hne _ _ _ _ (by decide), hne _ _ _ _ (by decide)]
    exact rd_bump_self _ _ _ _
  · rw [hne _ _ _ _ (by decide), rd_bump_self, hne _ _ _ _ (by decide)]
    rfl
  · rw [rd_bump_self, hne _ _ _ _ (by decide), hne _ _ _ _ (by decide)]
    rfl

/-- With `qr_alert_enable` other than 1 no stage is checked (R102). -/
theorem checkStage_off {pp : Nat} (b : Nat) (q : Pass) {p : Pkg} (s : Nat × QCount) (hoff : rd p Ix.qrAlertEnable pp ≠ 1) :
    checkStage pp b q p s = p :=
  if_pos (.inr (.inr hoff))

/-- A completed pass has left its block, and its time and its two stages are counted (R50, R101). -/
def passCounted (p : Pkg) (b : Nat) (q : Pass) : Pkg :=
  countStage b (countStage b (modBlk (countBusy p b) b (fun k => { k with passes := k.passes.drop 1, cellErrors := [], reexecs := [] })) q.rotate.cap)
    q.quantise.cap

theorem passCounted_rd (p : Pkg) {b : Nat} (q : Pass) (hb : b < 96) {e : Entry} {sub : Nat} (hs : sub < 256)
    (hq : e.index ≠ Ix.blockQuantisedCount.index) (hsat : e.index ≠ Ix.blockSaturatedCount.index) (hf : e.index ≠ Ix.blockFlushedCount.index) :
    rd (passCounted p b q) e sub = rd (countBusy p b) e sub := by
  unfold passCounted
  rw [countStage_rd _ _ _ hb hs hq hsat hf, countStage_rd _ _ _ hb hs hq hsat hf, rd_modBlk]

theorem passCounted_counts (p : Pkg) {b : Nat} (q : Pass) (hb : b < 96) :
    rd (passCounted p b q) Ix.blockQuantisedCount b = (rd p Ix.blockQuantisedCount b + q.rotate.cap.quantised + q.quantise.cap.quantised) % 2 ^ 64
    ∧ rd (passCounted p b q) Ix.blockSaturatedCount b = (rd p Ix.blockSaturatedCount b + q.rotate.cap.saturated + q.quantise.cap.saturated) % 2 ^ 64
    ∧ rd (passCounted p b q) Ix.blockFlushedCount b = (rd p Ix.blockFlushedCount b + q.rotate.cap.flushed + q.quantise.cap.flushed) % 2 ^ 64 := by
  unfold passCounted
  generalize hleft : modBlk (countBusy p b) b (fun k => { k with passes := k.passes.drop 1, cellErrors := [], reexecs := [] }) = left
  have hread : ∀ e : Entry, blockKey (keyAt e 0 b) = false → rd left e b = rd p e b := fun e hk => by
    rw [← hleft, rd_modBlk, (countBusy_frame p hb).rd _ _ hk]
  obtain ⟨hq, hs, hf⟩ := countStage_counts b left q.rotate.cap hb
  obtain ⟨hq', hs', hf'⟩ := countStage_counts b (countStage b left q.rotate.cap) q.quantise.cap hb
  refine ⟨?_, ?_, ?_⟩
  · rw [hq', hq, hread _ (blockKey_false (by omega) (by decide) (by decide) (by decide) (by decide) (by decide)), Nat.mod_add_mod]
  · rw [hs', hs, hread _ (blockKey_false (by omega) (by decide) (by decide) (by decide) (by decide) (by decide)), Nat.mod_add_mod]
  · rw [hf', hf, hread _ (blockKey_false (by omega) (by decide) (by decide) (by decide) (by decide) (by decide)), Nat.mod_add_mod]

theorem passCounted_mem (p : Pkg) {b : Nat} (q : Pass) (hb : b < 96) : (passCounted p b q).mem = p.mem :=
  (countBusy_frame p hb).mem

theorem passCounted_blk (p : Pkg) (b : Nat) (q : Pass) :
    blk (passCounted p b q) b = { blk p b with passes := (blk p b).passes.drop 1, cellErrors := [], reexecs := [],
                                               busyUntil := (blk (countBusy p b) b).busyUntil } := by
  have hblk : blk (passCounted p b q) b = { blk (countBusy p b) b with passes := (blk (countBusy p b) b).passes.drop 1, cellErrors := [], reexecs := [] } :=
    blk_modBlk_self _ _ _
  rw [hblk, ← countBusy_blk p b]

/-- The host of a block remembers whose pass completed on it last (R41). -/
def ranHere (p : Pkg) (b : Nat) : Pkg :=
  match hostOf p b with
  | some h => { p with tp := { p.tp with lastRan := tput p.tp.lastRan h b } }
  | none => p

@[simp] theorem ranHere_dict (p : Pkg) (b : Nat) : (ranHere p b).dict = p.dict := by unfold ranHere; split <;> rfl
@[simp] theorem ranHere_mem (p : Pkg) (b : Nat) : (ranHere p b).mem = p.mem := by unfold ranHere; split <;> rfl
@[simp] theorem blk_ranHere (p : Pkg) (b b' : Nat) : blk (ranHere p b) b' = blk p b' := by unfold ranHere; split <;> rfl

/-- A block shows the pass behind the one that completed, or fails with the descriptor behind it (R54, R73). -/
def afterClose (p : Pkg) (b : Nat) : Pkg :=
  match (blk p b).passes with
  | r :: _ => showWaiting (wr p Ix.blockPassPointer b ((blk p b).base + 128 * r.index)) b
  | [] => match (blk p b).rejected with
    | some code => passFail (showPointer p b) b code
    | none => p

theorem afterClose_idle {p : Pkg} {b : Nat} (hpasses : (blk p b).passes = []) (hrejected : (blk p b).rejected = none) : afterClose p b = p := by
  unfold afterClose
  rw [hpasses, hrejected]

theorem closePass_stages (p : Pkg) (pp b : Nat) (q : Pass) :
    closePass p pp b q =
      let checked := [(2, q.rotate.cap), (7, q.quantise.cap)].foldl (checkStage pp b q) (passCounted p b q)
      let ran := ranHere (startVotes checked pp b q) b
      let marked := if (descOf q.words).mark then completeMark ran pp b q else ran
      afterClose (if (descOf q.words).last then completeLast marked pp b else showPointer marked b) b := rfl

section
variable {p : Pkg} {pp b : Nat} {q : Pass} (hb : b < 96) (hpp : pp < 12) (honly : (blk p b).passes = [q]) (hrejected : (blk p b).rejected = none)
  (hmark : (descOf q.words).mark = false) (hlast : (descOf q.words).last = false) (haudited : q.audited = []) (hunaudited : q.unaudited = 0)
  (hoff : rd p Ix.qrAlertEnable pp ≠ 1)

include haudited hunaudited in
/-- A pass of which nothing is audited begins no vote (R436). -/
theorem startVotes_unaudited (r : Pkg) : startVotes r pp b q = modRu r pp (fun u => { u with votes := u.votes ++ [] }) := by
  simp [startVotes, haudited, hunaudited]

include hb hpp honly hrejected hmark hlast haudited hunaudited hoff

/-- The only pass of a block, neither marked nor LAST, with nothing audited and no alert check, is counted and leaves the block. -/
theorem closePass_only :
    closePass p pp b q = showPointer (ranHere (modRu (passCounted p b q) pp (fun u => { u with votes := u.votes ++ [] })) b) b := by
  have halert : rd (passCounted p b q) Ix.qrAlertEnable pp ≠ 1 := by
    rwa [passCounted_rd p q hb (by omega) (by decide) (by decide) (by decide),
      (countBusy_frame p hb).rd _ _ (blockKey_false (by omega) (by decide) (by decide) (by decide) (by decide) (by decide))]
  have hblk : blk (showPointer (ranHere (modRu (passCounted p b q) pp (fun u => { u with votes := u.votes ++ [] })) b) b) b
      = blk (passCounted p b q) b := by
    rw [blk_showPointer, blk_ranHere]
    rfl
  rw [closePass_stages]
  dsimp only
  rw [List.foldl_cons, checkStage_off b q _ halert, List.foldl_cons, checkStage_off b q _ halert, List.foldl_nil,
    startVotes_unaudited haudited hunaudited, hmark, hlast, if_neg Bool.false_ne_true, if_neg Bool.false_ne_true]
  refine afterClose_idle ?_ ?_
  · rw [hblk, passCounted_blk, honly]
    rfl
  · rw [hblk, passCounted_blk]
    exact hrejected

/-- What the block shows when its only pass has left it (R54, R101). -/
theorem closePass_only_shows (hrun : q.running = true) :
    let r := closePass p pp b q
    (blk r b).passes = [] ∧ (blk r b).stepDone = (blk p b).stepDone
    ∧ rd r Ix.blockBusyAclk b = (rd p Ix.blockBusyAclk b + (p.now - max q.startNs (blk p b).busyUntil) * 21 / 20) % 2 ^ 64
    ∧ rd r Ix.blockQuantisedCount b = (rd p Ix.blockQuantisedCount b + q.rotate.cap.quantised + q.quantise.cap.quantised) % 2 ^ 64
    ∧ rd r Ix.blockSaturatedCount b = (rd p Ix.blockSaturatedCount b + q.rotate.cap.saturated + q.quantise.cap.saturated) % 2 ^ 64
    ∧ rd r Ix.blockFlushedCount b = (rd p Ix.blockFlushedCount b + q.rotate.cap.flushed + q.quantise.cap.flushed) % 2 ^ 64
    ∧ rd r Ix.blockPassPointer b = ((blk p b).base + 128 * (blk p b).index) % 2 ^ 64
    ∧ r.mem = p.mem := by
  dsimp only
  rw [closePass_only hb hpp honly hrejected hmark hlast haudited hunaudited hoff]
  generalize hr : ranHere (modRu (passCounted p b q) pp (fun u => { u with votes := u.votes ++ [] })) b = r
  have hdict : r.dict = (passCounted p b q).dict := by
    rw [← hr, ranHere_dict, modRu_dict]
  have hblk : blk r b = blk (passCounted p b q) b := by
    rw [← hr, blk_ranHere]
    rfl
  have hmem : r.mem = p.mem := by
    rw [← hr, ranHere_mem, modRu_mem, passCounted_mem p q hb]
  have hread : ∀ e : Entry, e.index ≠ Ix.blockPassPointer.index → rd (showPointer r b) e b = rd (passCounted p b q) e b := fun e h => by
    rw [showPointer, rd_wr_ne _ _ h (by omega) (by omega), rd_of_dict hdict]
  obtain ⟨hquantised, hsaturated, hflushed⟩ := passCounted_counts p q hb
  refine ⟨?_, ?_, ?_, ?_, ?_, ?_, ?_, hmem⟩
  · rw [blk_showPointer, hblk, passCounted_blk, honly]
    rfl
  · rw [blk_showPointer, hblk, passCounted_blk]
  · rw [hread _ (by decide), passCounted_rd p q hb (by omega) (by decide) (by decide) (by decide), countBusy_busy hb honly hrun]
  · rw [hread _ (by decide), hquantised]
  · rw [hread _ (by decide), hsaturated]
  · rw [hread _ (by decide), hflushed]
  · rw [showPointer, rd_wr_self, hblk, passCounted_blk]
    rfl

end

/-- A pass that is no asynchronous copy and no collective emits, and closes or stops with the Emit's status (R28, R30). -/
theorem completePass_emits {p p' : Pkg} {pp b : Nat} {q : Pass} {st a : Nat} (hcopy : (descOf q.words).cls ≠ 7 ∨ (descOf q.words).mode ≠ 4)
    (hcoll : (descOf q.words).cls ≠ 2 ∨ (descOf q.words).mode = 1) (hemit : emitPass p pp b q = (p', st, a)) :
    completePass p pp b q = if st = 0 then closePass p' pp b q else stopRunning p' pp b q (operandStatus (st == 0x0103) st) a := by
  unfold completePass
  dsimp only
  rw [if_neg (by omega), if_neg (by omega), hemit]
  cases st with
  | zero => rfl
  | succ n => rfl

/-- An asynchronous copy takes the free slot of its X-die and closes, or waits for one (R344). -/
theorem completePass_copies {p : Pkg} {pp b : Nat} {q : Pass} (hcls : (descOf q.words).cls = 7) (hmode : (descOf q.words).mode = 4) :
    (freeCopySlot p b = none → completePass p pp b q = p)
    ∧ ∀ slot, freeCopySlot p b = some slot → completePass p pp b q = closePass (takeCopy p pp b slot q) pp b q := by
  unfold completePass
  dsimp only
  rw [if_pos ⟨hcls, hmode⟩]
  refine ⟨fun hbusy => ?_, fun slot hfree => ?_⟩
  · rw [hbusy]
  · rw [hfree]

/-- The pass in flight longest completes, while its partition runs or preempts a step that is not rolled back (R30). -/
theorem execPassComplete_runs {s : State} {b : Fin 96} {pp : Nat} {d : Pass} {rest : List Pass} (hp : powered s.pkg = true)
    (hown : partOfBlock s.pkg b = some pp) (hpasses : (blk s.pkg b).passes = d :: rest) (hrun : d.running = true)
    (hstate : pcState s.pkg pp = 2 ∨ pcState s.pkg pp = 4) (hgood : (part s.pkg pp).ru.poison = none)
    (hopen : s.pkg.tp.fenced.contains (b / 8) = false) :
    Completes (.passComplete b) s (fun q => q = completePass (begun s) pp b d) := by
  refine completes_of hp (exec_passComplete b s) ?_
  have hgoes : (!d.running || (part (begun s) pp).ru.poison.isSome || (begun s).tp.fenced.contains (b.val / 8)
      || (pcState (begun s) pp != 2 && pcState (begun s) pp != 4)) = false := by
    rw [begun_tp, show pcState (begun s) pp = pcState s.pkg pp from rfl, part_begun, hrun, hgood, hopen]
    rcases hstate with h | h <;> rw [h] <;> rfl
  rw [show partOfBlock (begun s) b = some pp from hown, blk_begun, hpasses]
  dsimp only
  rw [hgoes, if_neg Bool.false_ne_true]

theorem releaseSlot_done {p : Pkg} {slot : Nat} (htxns : ∀ t ∈ p.ms.txns, t.purpose ≠ .copySlot slot)
    (hfailed : ∀ f ∈ p.ms.failed, f.1.purpose ≠ .copySlot slot) :
    releaseSlot p slot
      = { p with ms := { p.ms with slots := tmod p.ms.slots slot {} (fun c => { c with busy := false, writes := [], signal := none }) } } := by
  unfold releaseSlot
  rw [if_neg]
  simpa using ⟨htxns, fun t st ht => hfailed (t, st) ht⟩

/-- The engine has taken the writes of a copy out of its slot to make them (R344). -/
def copyEmptied (p : Pkg) (slot : Nat) : Pkg :=
  { p with ms := { p.ms with slots := tmod p.ms.slots slot {} (fun c => { c with writes := [] }) } }

theorem copyEmptied_slot (p : Pkg) (slot : Nat) :
    tget (copyEmptied p slot).ms.slots slot {} = { tget p.ms.slots slot {} with writes := [] } :=
  tget_tmod_self p.ms.slots slot {} (fun c => { c with writes := [] })

section
variable {s : State} {slot : Fin 256} (hp : powered s.pkg = true) (hbusy : (tget s.pkg.ms.slots slot {}).busy = true)

include hp in
/-- A copy with a transaction outstanding, or whose fence is being reset, does not complete (R344). -/
theorem execAsyncCopyComplete_waits (status : Nat) {t : Txn} (ht : t ∈ s.pkg.ms.txns)
    (hmine : t.purpose = .copySlot slot ∨ t.purpose = .retire (0x300 + slot)) :
    Completes (.asyncCopyComplete slot status) s (fun q => q = begun s) := by
  have hany : s.pkg.ms.txns.any (fun t => t.purpose == .copySlot slot || t.purpose == .retire (0x300 + slot)) = true :=
    List.any_eq_true.mpr ⟨t, ht, by simpa using hmine⟩
  refine completes_of hp (exec_asyncCopyComplete slot status s) ?_
  dsimp only
  rw [if_pos (by rw [begun_ms, hany, Bool.or_true])]

variable (hquiet : ∀ t ∈ s.pkg.ms.txns, t.purpose ≠ .copySlot slot ∧ t.purpose ≠ .retire (0x300 + slot))
include hp hbusy hquiet

/-- A copy with nothing outstanding fails with a status, and otherwise makes its writes and sends its signal behind them, or frees its
slot (R344). -/
theorem execAsyncCopyComplete_goes (status : Nat) :
    Completes (.asyncCopyComplete slot status) s (fun q =>
      let c := tget s.pkg.ms.slots slot {}
      let made := c.writes.foldl (copyWrite slot c) (copyEmptied (begun s) slot)
      (status ≠ 0 → q = failCopy (begun s) slot status)
      ∧ (∀ sig, status = 0 → c.signal = some sig →
          q = sendInc made c.partition (0x300 + slot) sig.1 (sig.2.1 / 64) (sig.2.1 % 64) sig.2.2 c.step (.copySlot slot))
      ∧ (status = 0 → c.signal = none → q = releaseSlot made slot)) := by
  have hnone : s.pkg.ms.txns.any (fun t => t.purpose == .copySlot slot || t.purpose == .retire (0x300 + slot)) = false :=
    List.any_eq_false.mpr (fun t ht => by simpa using hquiet t ht)
  refine completes_of hp (exec_asyncCopyComplete slot status s) ?_
  dsimp only
  rw [begun_ms, if_neg (by rw [hbusy, hnone]; decide)]
  refine ⟨fun hfailed => if_pos hfailed, fun sig hok hsignal => ?_, fun hok hsignal => ?_⟩
  · rw [if_neg (by omega), hsignal]
    rfl
  · rw [if_neg (by omega), hsignal]
    rfl

end

/-- Settles O23, by what the completed pass is and by what the copy has left to do. Two of its clauses are choices of the model:
`block_busy_aclk` counts at the nominal 1.05 GHz (entry 97 of its log), and all copies of a slot are made at ASYNC_COPY_COMPLETE (entry 42). -/
theorem passEndsComplete : Obligations.PassEndsComplete := by
  unfold Obligations.PassEndsComplete
  refine ⟨fun s b pp d rest hp hown hpasses hrun hstate hgood hopen => ?passes, fun s slot c hp hslot hbusy => ?copies⟩
  case passes =>
    have hexec := execPassComplete_runs hp hown hpasses hrun hstate hgood hopen
    refine ⟨fun hcopy hcoll p st a hemit => ?emits, fun hcls hmode => ?takes⟩
    case emits =>
      have hdone := completePass_emits hcopy hcoll hemit
      refine ⟨fun hfail => hexec.mono ?_, fun hok => hexec.mono ?_, fun hok honly hrejected hmark hlast haudited hunaudited hoff => hexec.mono ?_⟩
      · rintro q rfl
        exact hdone.trans (if_neg hfail)
      · rintro q rfl
        exact hdone.trans (if_pos hok)
      · rintro q rfl
        rw [hdone, if_pos hok]
        exact closePass_only_shows b.isLt (partOfBlock_lt hown) honly hrejected hmark hlast haudited hunaudited hoff hrun
    case takes =>
      obtain ⟨hwaits, htakes⟩ := completePass_copies (p := begun s) (pp := pp) (b := b) hcls hmode
      exact ⟨fun hfull => hexec.mono (fun q hq => hq.trans (hwaits hfull)),
        fun slot hfree => hexec.mono (fun q hq => hq.trans (htakes slot hfree))⟩
  case copies =>
    subst hslot
    refine ⟨fun hquiet => ?goes, fun t ht hmine status => execAsyncCopyComplete_waits hp status ht (.inl hmine)⟩
    have hexec := execAsyncCopyComplete_goes hp hbusy hquiet
    refine ⟨fun sig hsignal => (hexec 0).mono ?_, fun hwrites hsignal hfailed => (hexec 0).mono ?_, fun status hne => (hexec status).mono ?_⟩
    · rintro q ⟨-, hsends, -⟩
      refine ⟨copyEmptied (begun s) slot, ?_, ?_, rfl, rfl, hsends sig rfl hsignal⟩
      · rw [copyEmptied_slot]
      · rw [copyEmptied_slot]
        exact hbusy
    · rintro q ⟨-, -, hfrees⟩
      rw [hfrees rfl hsignal, hwrites, List.foldl_nil, releaseSlot_done (p := copyEmptied (begun s) slot) (fun t ht => (hquiet t ht).1) hfailed]
      exact ⟨by rw [tget_tmod_self], rfl, rfl⟩
    · exact fun q hq => hq.1 hne

end Sys2Proof.Machine
end

section
/-! Descriptors read and passes that start (O22). -/

namespace Sys2Proof.Machine

theorem blk_setAct (p : Pkg) (b st : Nat) : blk (setAct p b st) b = { blk p b with act := st } := by
  unfold setAct
  dsimp only
  split
  next => exact blk_modBlk_self _ _ _
  next => split <;> exact blk_modBlk_self _ _ _

/-- A block is shown as waiting, or shows what it showed (R50). -/
theorem showWaiting_cases (p : Pkg) (b : Nat) : showWaiting p b = p ∨ showWaiting p b = setAct p b 2 := by
  unfold showWaiting
  split
  next =>
    split
    case isTrue => exact .inr rfl
    case isFalse => exact .inl rfl
  next => exact .inl rfl

theorem showWaiting_frame (p : Pkg) {b : Nat} (hb : b < 96) : BlockFrame p (showWaiting p b) := by
  obtain h | h := showWaiting_cases p b
  · rw [h]
    exact BlockFrame.rfl p
  · rw [h]
    exact setAct_frame p hb 2

/-- Showing a block as waiting changes of the block what its program does alone. -/
theorem showWaiting_blk (p : Pkg) (b : Nat) : ∃ st, blk (showWaiting p b) b = { blk p b with act := st } := by
  obtain h | h := showWaiting_cases p b
  · exact ⟨(blk p b).act, by rw [h]⟩
  · exact ⟨2, by rw [h, blk_setAct]⟩

/-- A descriptor that fails behind a pass in flight is held with its code (R73). -/
theorem rejectNext_behind {p : Pkg} {b : Nat} (code : Nat) (hpasses : (blk p b).passes ≠ []) :
    rejectNext p b code = modBlk p b (fun k => { k with rejected := some code }) :=
  if_neg (by rwa [List.isEmpty_iff])

theorem rejectNext_alone {p : Pkg} {b : Nat} (code : Nat) (hpasses : (blk p b).passes = []) :
    rejectNext p b code = passFail (showPointer p b) b code :=
  if_pos (by rw [hpasses]; rfl)

/-- A failing descriptor of a partition's block stops the block, and the partition halts (R73). -/
theorem passFail_owned {p : Pkg} {b pp : Nat} (hb : b < 96) (hown : partOfBlock p b = some pp) (code : Nat) :
    passFail p b code = failAndHalt (stopBlock p b code) pp b code := by
  unfold passFail
  dsimp only
  rw [stopBlock_partOfBlock p hb, hown]

/-- The pointer of a block names no partition. -/
theorem partOfBlock_showPointer (p : Pkg) {b : Nat} (hb : b < 96) : partOfBlock (showPointer p b) b = partOfBlock p b :=
  partOfRegion_congr _ (fun _ hpp => rd_wr_ne _ _ (by decide) (by omega) (by omega))

/-- What a block that a failing descriptor stopped shows: the code, and the descriptor's address (R50, R73). -/
theorem stopBlock_showPointer (p : Pkg) {b : Nat} (hb : b < 96) {code : Nat} (hcode : code < 2 ^ 16) :
    let q := stopBlock (showPointer p b) b code
    (blk q b).act = 3 ∧ rd q Ix.blockLastStatus b = code
    ∧ rd q Ix.blockPassPointer b = ((blk p b).base + 128 * (blk p b).index) % 2 ^ 64 ∧ q.mem = p.mem := by
  have hframe := stopBlock_frame (showPointer p b) hb code
  refine ⟨(stopBlock_blk _ b code).2, ?_, ?_, hframe.mem⟩
  · rw [stopBlock_last _ _ _ (by omega), Nat.mod_eq_of_lt hcode]
  · rw [hframe.rd _ _ (blockKey_false (by omega) (by decide) (by decide) (by decide) (by decide) (by decide))]
    exact rd_wr_self _ _ _ _

/-- The pass that a descriptor becomes that no override changes and that marks nothing (R53). -/
def passRead (p : Pkg) (b : Nat) (raw : Bytes) : Pass :=
  { index := (blk p b).index, words := raw, markNumber := marksAhead (blk p b) + 1 }

/-- The package when that pass stands behind the passes in flight (R53, R54). -/
def descriptorTaken (p : Pkg) (b : Nat) (raw : Bytes) : Pkg :=
  let taken := modBlk p b (fun k => { k with passes := k.passes ++ [passRead p b raw], index := k.index + 1, lastFetched := (descOf raw).last })
  if (blk p b).passes.isEmpty then wr taken Ix.blockPassPointer b ((blk p b).base + 128 * (blk p b).index) else taken

theorem descriptorTaken_blk (p : Pkg) (b : Nat) (raw : Bytes) :
    blk (descriptorTaken p b raw) b = { blk p b with passes := (blk p b).passes ++ [passRead p b raw], index := (blk p b).index + 1,
                                                     lastFetched := (descOf raw).last } := by
  unfold descriptorTaken
  dsimp only
  split
  case isTrue => rw [blk_wr, blk_modBlk_self]
  case isFalse => rw [blk_modBlk_self]

theorem descriptorTaken_mem (p : Pkg) (b : Nat) (raw : Bytes) : (descriptorTaken p b raw).mem = p.mem := by
  unfold descriptorTaken
  dsimp only
  split <;> rfl

theorem descriptorTaken_parts (p : Pkg) (b : Nat) (raw : Bytes) : (descriptorTaken p b raw).parts = p.parts := by
  unfold descriptorTaken
  dsimp only
  split <;> rfl

section
variable {p : Pkg} {pp b : Nat} {raw : Bytes} (hplain : overrideOf p pp b (blk p b).index (descOf raw).version = none)
  (hmark : (descOf raw).mark = false)
include hplain hmark

/-- A descriptor that no override changes and that marks nothing is taken in where it passes every check (R72). -/
theorem takeDescriptor_valid (hvalid : validate (descOf raw) (descEnv p pp b none) = none) :
    takeDescriptor p pp b raw = descriptorTaken p b raw := by
  unfold takeDescriptor
  dsimp only
  rw [hplain]
  dsimp only
  rw [hmark, if_neg Bool.false_ne_true, hvalid]
  rfl

/-- One that fails a check is rejected with the lowest failing code (R72, R73). -/
theorem takeDescriptor_fails {code : Nat} (hvalid : validate (descOf raw) (descEnv p pp b none) = some code) :
    takeDescriptor p pp b raw = rejectNext p b code := by
  unfold takeDescriptor
  dsimp only
  rw [hplain]
  dsimp only
  rw [hmark, if_neg Bool.false_ne_true, hvalid]

end

section
variable {p : Pkg} {pp b : Nat} (hruns : programRuns p pp b = true) (hopen : (blk p b).lastFetched = false)
  (hahead : mayReadAhead (blk p b) = true)
include hruns hopen hahead

/-- A block that may read ahead and has no descriptor left fails with 0x0151 (R54). -/
theorem descriptorRead_beyond (hend : (blk p b).count ≤ (blk p b).index) (ok : Bool) :
    descriptorRead p pp b ok = rejectNext p b 0x0151 := by
  unfold descriptorRead
  dsimp only
  rw [if_neg (by rw [hruns, hopen, hahead]; decide), if_pos hend]

variable (hnext : (blk p b).index < (blk p b).count)
include hnext

theorem descriptorRead_unread : descriptorRead p pp b false = rejectNext p b 0x0155 := by
  unfold descriptorRead
  dsimp only
  rw [if_neg (by rw [hruns, hopen, hahead]; decide), if_neg (by omega), if_pos (by rfl)]

theorem descriptorRead_read {p' : Pkg} {raw : Bytes}
    (hload : loadLocal p ((blk p b).base + 128 * (blk p b).index) 128 false = (p', .ok raw)) :
    descriptorRead p pp b true = showWaiting (takeDescriptor p' pp b raw) b := by
  unfold descriptorRead
  dsimp only
  rw [if_neg (by rw [hruns, hopen, hahead]; decide), if_neg (by omega), if_neg (by decide), hload]

end

theorem execDescriptorReadComplete_owned {s : State} {b : Fin 96} {pp : Nat} (hp : powered s.pkg = true)
    (hown : partOfBlock s.pkg b = some pp) (ok : Bool) :
    Completes (.descriptorReadComplete b ok) s (fun q => q = descriptorRead (begun s) pp b ok) := by
  refine completes_of hp (exec_descriptorReadComplete b ok s) ?_
  rw [show partOfBlock (begun s) b = some pp from hown]

section
variable {p : Pkg} {pp b : Nat} {before : List Pass} {d : Pass} (hnext : nextPass (blk p b) = some (before, d))
include hnext

/-- The first pass that has not entered Fetch stays where it is while the passes do not run, the host runs another program, its waits are
unmet, or it must follow the pass in flight (R30, R41, R67). -/
theorem waitsMetOf_stays (hstays : passesRun p pp b = false ∨ hostTurn p pp b = false
      ∨ (before = [] ∧ waitsMet (blk p b) (descOf d.words) = false)
      ∨ (∃ q, before = [q] ∧ mustFollow p (descOf q.words) (descOf d.words) = true)) :
    waitsMetOf p pp b = p := by
  unfold waitsMetOf
  dsimp only
  rw [hnext]
  dsimp only
  split
  case isTrue => rfl
  case isFalse hgo =>
    obtain h | h | ⟨rfl, hwaits⟩ | ⟨q, rfl, hfollow⟩ := hstays
    · exact absurd (by rw [h]; rfl) hgo
    · exact absurd (by rw [h, Bool.not_false, Bool.or_true]) hgo
    · exact if_neg (by rw [hwaits]; decide)
    · exact if_pos (by rw [hfollow, Bool.true_or])

/-- Where none of that holds it enters Fetch, but not behind a mark at which a preemption stops the block (R30, R41, R67, R78). -/
theorem waitsMetOf_enters (hrun : passesRun p pp b = true) (hturn : hostTurn p pp b = true)
    (hfree : (before = [] ∧ waitsMet (blk p b) (descOf d.words) = true)
      ∨ ∃ q, before = [q] ∧ mustFollow p (descOf q.words) (descOf d.words) = false
          ∧ ((descOf q.words).mark = false ∨ (blk p b).stopAt = none)) :
    waitsMetOf p pp b = enterFetch p pp b d := by
  unfold waitsMetOf
  dsimp only
  rw [hnext]
  dsimp only
  rw [if_neg (by rw [hrun, hturn]; decide)]
  obtain ⟨rfl, hwaits⟩ | ⟨q, rfl, hfollow, hmark | hstop⟩ := hfree
  · exact if_pos hwaits
  · exact if_neg (by rw [hfollow, hmark, Bool.false_and]; decide)
  · exact if_neg (by rw [hfollow, hstop, Option.map_none, Option.getD_none, Bool.and_false]; decide)

end

theorem execPassWaitsMet_owned {s : State} {b : Fin 96} {pp : Nat} (hp : powered s.pkg = true) (hown : partOfBlock s.pkg b = some pp) :
    Completes (.passWaitsMet b) s (fun q => q = waitsMetOf (begun s) pp b) := by
  refine completes_of hp (exec_passWaitsMet b s) ?_
  rw [show partOfBlock (begun s) b = some pp from hown]

@[simp] theorem noteUse_now (p : Pkg) (v step : Nat) : (noteUse p v step).now = p.now := by unfold noteUse; split <;> rfl
@[simp] theorem noteUse_mem (p : Pkg) (v step : Nat) : (noteUse p v step).mem = p.mem := by unfold noteUse; split <;> rfl
@[simp] theorem noteUse_parts (p : Pkg) (v step : Nat) : (noteUse p v step).parts = p.parts := by unfold noteUse; split <;> rfl
@[simp] theorem noteUse_out (p : Pkg) (v step : Nat) : (noteUse p v step).out = p.out := by unfold noteUse; split <;> rfl
@[simp] theorem noteUse_tp (p : Pkg) (v step : Nat) : (noteUse p v step).tp = p.tp := by unfold noteUse; split <;> rfl
@[simp] theorem rd_noteUse (p : Pkg) (v step : Nat) (e : Entry) (sub : Nat) : rd (noteUse p v step) e sub = rd p e sub := by
  unfold noteUse
  split <;> rfl

/-- A pass that has been evaluated runs from now with what its class makes (R30, R64). -/
def passStarted (d : Pass) (m : Made) (now : Nat) : Pass :=
  { d with running := true, startNs := now, writes := m.writes, rotate := m.rotate, quantise := m.quantise, sends := m.sends,
           increments := m.increments, records := m.records, appended := m.appended, scores := m.scores }

/-- The package when the multiply-accumulates of an evaluated pass are counted and its version's use is noted (R50, R277). -/
def macsCounted (p : Pkg) (b : Nat) (m : Made) (version step : Nat) : Pkg :=
  noteUse (bump p Ix.blockMacIssued b m.macs) version step

theorem macsCounted_macs (p : Pkg) (b : Nat) (m : Made) (version step : Nat) :
    rd (macsCounted p b m version step) Ix.blockMacIssued b = (rd p Ix.blockMacIssued b + m.macs) % 2 ^ 64 :=
  (rd_noteUse _ _ _ _ _).trans (rd_bump_self _ _ _ _)

theorem macsCounted_mem (p : Pkg) (b : Nat) (m : Made) (version step : Nat) : (macsCounted p b m version step).mem = p.mem := noteUse_mem _ _ _
theorem macsCounted_parts (p : Pkg) (b : Nat) (m : Made) (version step : Nat) : (macsCounted p b m version step).parts = p.parts :=
  noteUse_parts _ _ _
theorem macsCounted_out (p : Pkg) (b : Nat) (m : Made) (version step : Nat) : (macsCounted p b m version step).out = p.out := noteUse_out _ _ _
theorem macsCounted_blk (p : Pkg) (b : Nat) (m : Made) (version step b' : Nat) : blk (macsCounted p b m version step) b' = blk p b' :=
  blk_of_tp (noteUse_tp _ _ _) b'

section
variable {p p0 p' : Pkg} {pp b : Nat} {d : Pass} (hready : p0 = fillBuffers (setAct (applyHides p ((hostOf p b).getD b)) b 1) b (descOf d.words))
include hready

/-- A pass whose evaluation fails stops with the status and the address of the failure (R46, R73). -/
theorem enterFetch_fails {e : Nat × Nat} (heval : (runPass (passCtx p0 pp b d)).run.run p0 = (.error e, p')) :
    enterFetch p pp b d = stopRunning p' pp b d e.1 e.2 := by
  subst hready
  unfold enterFetch
  dsimp only
  rw [heval]

/-- A pass that has been evaluated is counted, and runs with its tiles put up for audit (R30, R433). -/
theorem enterFetch_starts {m : Made} (heval : (runPass (passCtx p0 pp b d)).run.run p0 = (.ok m, p')) :
    enterFetch p pp b d =
      let r := auditPass (macsCounted p' b m (descOf d.words).version (stepOf p0 pp)) pp b (descOf d.words) m (passStarted d m p'.now)
      modPass r.1 b d.index (fun _ => r.2) := by
  subst hready
  unfold enterFetch
  dsimp only
  rw [heval]
  dsimp only
  rw [noteUse_now]
  rfl

end

theorem auditPass_unaudited {d : Desc} (haudit : d.audit = false) (p : Pkg) (pp b : Nat) (m : Made) (q : Pass) :
    auditPass p pp b d m q = (p, q) := by
  unfold auditPass
  dsimp only
  rw [haudit, Bool.not_false, Bool.true_or, if_pos rfl]

/-- Settles O22, by what the block reads and by what the evaluation of its next pass makes. Two of its clauses are choices of the model:
the multiply-accumulates of a pass are counted when it enters Fetch (entry 99 of its log), and a SAMPLE or a collective waits for a marked
pass before it (entry 156). -/
theorem passStartsComplete : Obligations.PassStartsComplete := by
  unfold Obligations.PassStartsComplete
  refine ⟨fun s b pp hp hown hruns hopen hahead => ⟨fun p raw hnext hload hplain hmark => ?read, fun x hx hcase => ?missing⟩,
    fun s b pp before d hp hown hnext => ⟨fun hstays => ?stays, fun hrun hturn hfree p0 p hready => ?enters⟩⟩
  case read =>
    have hread := descriptorRead_read (p := begun s) hruns hopen hahead hnext hload
    have hexec := execDescriptorReadComplete_owned hp hown true
    rw [hread] at hexec
    refine ⟨fun hvalid => hexec.mono ?_, fun code hvalid => ⟨fun hpasses => hexec.mono ?_, fun hpasses => hexec.mono ?_⟩⟩
    · rintro q rfl
      rw [takeDescriptor_valid hplain hmark hvalid]
      have hframe := showWaiting_frame (descriptorTaken p b raw) b.isLt
      obtain ⟨st, hblk⟩ := showWaiting_blk (descriptorTaken p b raw) b
      rw [hblk, descriptorTaken_blk]
      exact ⟨passRead p b raw, rfl, rfl, rfl, rfl, rfl, rfl, hframe.mem.trans (descriptorTaken_mem p b raw),
        hframe.parts.trans (descriptorTaken_parts p b raw)⟩
    · rintro q rfl
      rw [takeDescriptor_fails hplain hmark hvalid, rejectNext_behind code hpasses]
      have hframe := showWaiting_frame (modBlk p b (fun k => { k with rejected := some code })) b.isLt
      obtain ⟨st, hblk⟩ := showWaiting_blk (modBlk p b (fun k => { k with rejected := some code })) b
      rw [hblk, blk_modBlk_self]
      exact ⟨rfl, rfl, hframe.mem, hframe.parts⟩
    · rintro q rfl
      rw [takeDescriptor_fails hplain hmark hvalid, rejectNext_alone code hpasses]
  case missing =>
    have hrejects : x.2 < 2 ^ 16 ∧ descriptorRead (begun s) pp b x.1 = rejectNext (begun s) b x.2 := by
      simp only [List.mem_cons, List.not_mem_nil, or_false] at hx
      obtain rfl | rfl := hx
      · exact ⟨by decide, descriptorRead_unread (p := begun s) hruns hopen hahead hcase⟩
      · exact ⟨by decide, descriptorRead_beyond (p := begun s) hruns hopen hahead hcase true⟩
    obtain ⟨hcode, hrejects⟩ := hrejects
    have hexec := execDescriptorReadComplete_owned hp hown x.1
    rw [hrejects] at hexec
    refine ⟨fun hpasses => hexec.mono ?_, fun hpasses => hexec.mono ?_⟩
    · rintro q rfl
      rw [rejectNext_behind (p := begun s) x.2 hpasses]
      exact ⟨by rw [blk_modBlk_self], rfl, rfl⟩
    · rintro q rfl
      obtain ⟨hact, hlast, hpointer, hmem⟩ := stopBlock_showPointer (begun s) b.isLt hcode
      refine ⟨_, hact, hlast, hpointer, hmem, ?_⟩
      rw [rejectNext_alone (p := begun s) x.2 hpasses,
        passFail_owned b.isLt ((partOfBlock_showPointer (begun s) b.isLt).trans hown)]
  case stays =>
    refine (execPassWaitsMet_owned hp hown).mono ?_
    rintro q rfl
    exact waitsMetOf_stays (p := begun s) hnext hstays
  case enters =>
    have hexec := execPassWaitsMet_owned hp hown
    rw [waitsMetOf_enters (p := begun s) hnext hrun hturn hfree] at hexec
    refine ⟨fun e heval => hexec.mono ?_, fun m heval new hnew => ?_⟩
    · rintro q rfl
      exact enterFetch_fails hready heval
    · obtain rfl : new = passStarted d m p.now := hnew
      rw [enterFetch_starts hready heval] at hexec
      refine ⟨fun haudit => hexec.mono ?_, fun haudit => hexec.mono ?_⟩
      · rintro q rfl
        rw [auditPass_unaudited haudit]
        refine ⟨macsCounted_macs _ _ _ _ _, ?_, macsCounted_mem _ _ _ _ _, macsCounted_parts _ _ _ _ _, macsCounted_out _ _ _ _ _⟩
        rw [modPass, blk_modBlk_self, macsCounted_blk]
      · rintro q rfl
        exact ⟨_, macsCounted_macs _ _ _ _ _, macsCounted_mem _ _ _ _ _, macsCounted_parts _ _ _ _ _, rfl⟩

end Sys2Proof.Machine
end

section
/-! The answer of a local load does not turn on rack time. -/

namespace Sys2Proof.Machine

/-- The package at another rack time. -/
def stamped (t : Nat) (p : Pkg) : Pkg := { p with now := t }

/-- A bad word gives the read its status whatever the package counts for it (R244 to R246). -/
theorem readBad_status (p q : Pkg) (st : Nat) (e : Nat × StoredWord) : (readBad (p, st) e).2 = (readBad (q, st) e).2 := by
  unfold readBad
  dsimp only
  cases decodeWord e.2 <;> rfl

theorem foldl_readBad_status (l : List (Nat × StoredWord)) (p q : Pkg) (st : Nat) :
    (l.foldl readBad (p, st)).2 = (l.foldl readBad (q, st)).2 := by
  have hstatus (p' : Pkg) : l.foldl (fun st e => (readBad (p, st) e).2) st = (l.foldl readBad (p', st)).2 :=
    List.foldl_hom (init := (p', st)) Prod.snd fun x e => readBad_status p x.1 x.2 e
  rw [← hstatus p, ← hstatus q]

theorem remoteByte_stamped (t a : Nat) (acc : Pkg × Except Nat Bytes) :
    remoteByte (Prod.map (stamped t) id acc) a = Prod.map (stamped t) id (remoteByte acc a) := by
  obtain ⟨p, r⟩ := acc
  simp only [remoteByte, Prod.map, stamped, id]
  cases r with
  | error e => rfl
  | ok l => cases Config.remoteRead p.ms.remoteReads a <;> rfl

theorem remoteRead_stamped (t a n : Nat) (p : Pkg) :
    remoteRead (stamped t p) a n = Prod.map (stamped t) id (remoteRead p a n) := by
  unfold remoteRead
  rw [show (stamped t p).tf = p.tf from rfl]
  split
  · rfl
  · exact List.foldl_hom (init := (p, Except.ok [])) (Prod.map (stamped t) id) fun acc i => remoteByte_stamped t (a + i) acc

theorem loadT2_stamped (t a n : Nat) (p : Pkg) : loadT2 (stamped t p) a n = Prod.map (stamped t) id (loadT2 p a n) := by
  unfold loadT2
  refine List.foldl_hom (init := (p, Except.ok [])) (Prod.map (stamped t) id) fun acc c => ?_
  obtain ⟨p, r⟩ := acc
  cases r with
  | error e => rfl
  | ok l =>
    simp only [Prod.map, id]
    rw [show t2Target (stamped t p) c.1 = t2Target p c.1 from rfl]
    cases t2Target p c.1 with
    | none => rfl
    | some x =>
      dsimp only
      rw [remoteRead_stamped]
      rfl

/-- A local load answers the same at any rack time. -/
theorem loadLocal_stamped (t a n : Nat) (outside : Bool) (p : Pkg) :
    (loadLocal (stamped t p) a n outside).2 = (loadLocal p a n outside).2 := by
  unfold loadLocal
  dsimp only
  rw [show rangeStatus (stamped t p) a n false outside = rangeStatus p a n false outside from rfl]
  split
  · rfl
  · split
    · rw [loadT2_stamped]
      rfl
    · rw [show (stamped t p).mem = p.mem from rfl, foldl_readBad_status _ (countMoved (stamped t p) a n) (countMoved p a n)]
      split <;> rfl

end Sys2Proof.Machine
end

section
/-! Receipts at a home region's router: what a change of one shows, and what an answer leaves. -/

namespace Sys2Proof.Machine

/-- A local load finds the same placement record whatever the rack time (R142). -/
theorem homePlacement_begun (s : State) (l : RouterLayer) (e : Nat) : homePlacement (begun s) l e = homePlacement s.pkg l e := by
  unfold homePlacement
  rw [show begun s = stamped s.clock.ns s.pkg from rfl, loadLocal_stamped]

/-- An answer to a row or a notice only adds to what the package has sent; this package's own need none. -/
theorem answerRoute_eq (p : Pkg) (pp : Nat) (item : RouteItem) (status : Nat) : ∃ out, answerRoute p pp item status = { p with out } := by
  unfold answerRoute
  split
  · exact ⟨_, rfl⟩
  · dsimp only
    split <;> exact ⟨_, rfl⟩

@[simp] theorem answerRoute_mem (p : Pkg) (pp : Nat) (item : RouteItem) (status : Nat) : (answerRoute p pp item status).mem = p.mem := by
  obtain ⟨out, h⟩ := answerRoute_eq p pp item status
  rw [h]

@[simp] theorem answerRoute_dict (p : Pkg) (pp : Nat) (item : RouteItem) (status : Nat) : (answerRoute p pp item status).dict = p.dict := by
  obtain ⟨out, h⟩ := answerRoute_eq p pp item status
  rw [h]

@[simp] theorem part_answerRoute (p : Pkg) (pp : Nat) (item : RouteItem) (status pp' : Nat) :
    part (answerRoute p pp item status) pp' = part p pp' := by
  obtain ⟨out, h⟩ := answerRoute_eq p pp item status
  rw [h]
  rfl

theorem findReceipt_of_er {p q : Pkg} {pp : Nat} (h : (part q pp).er = (part p pp).er) (layer expert step : Nat) :
    findReceipt q pp layer expert step = findReceipt p pp layer expert step := by
  unfold findReceipt
  rw [h]

@[simp] theorem findReceipt_answerRoute (p : Pkg) (pp : Nat) (item : RouteItem) (status layer expert step : Nat) :
    findReceipt (answerRoute p pp item status) pp layer expert step = findReceipt p pp layer expert step :=
  findReceipt_of_er (by rw [part_answerRoute]) _ _ _

/-- The first element with a key, after every element with it has been changed, or a new one put at the end where there was none. -/
theorem find?_changed_or_appended {α : Type} (l : List α) {k : α → Bool} {f : α → α} {d : α} (hf : ∀ x, k (f x) = k x) (hd : k d = true) :
    (if l.any k then l.map (fun x => if k x then f x else x) else l ++ [f d]).find? k = some (f ((l.find? k).getD d)) := by
  have hkey : k ∘ (fun x => if k x then f x else x) = k := by
    funext x
    simp only [Function.comp]
    split
    · exact hf x
    · rfl
  cases hfind : l.find? k with
  | none =>
    have hany : ¬ l.any k = true := by simpa using hfind
    rw [if_neg hany, List.find?_append, hfind, Option.none_or, List.find?_singleton, hf d, hd]
    rfl
  | some x =>
    have hx : k x = true := List.find?_some hfind
    rw [if_pos (List.any_eq_true.mpr ⟨x, List.mem_of_find?_eq_some hfind, hx⟩), List.find?_map, hkey, hfind, Option.map_some, if_pos hx]
    rfl

/-- The receipt of an expert in a step, an empty one before its first row or notice (R151). -/
def receiptOr (p : Pkg) (pp layer expert step : Nat) : Receipt := (findReceipt p pp layer expert step).getD { layer, expert, step }

/-- What a receipt shows, with what an empty one shows where there is none. -/
theorem receipt_shows (p : Pkg) (pp layer expert step : Nat) {α : Type} (g : Receipt → α) (d : α) (hd : g { layer, expert, step } = d) :
    ((findReceipt p pp layer expert step).map g).getD d = g (receiptOr p pp layer expert step) := by
  rw [← hd]
  exact Option.getD_map g _ _

/-- A change of a receipt that keeps what it is for is found as made. -/
theorem findReceipt_modReceipt (p : Pkg) (pp layer expert step : Nat) {f : Receipt → Receipt}
    (hf : ∀ r, (f r).layer = r.layer ∧ (f r).expert = r.expert ∧ (f r).step = r.step) :
    findReceipt (modReceipt p pp layer expert step f) pp layer expert step = some (f (receiptOr p pp layer expert step)) := by
  unfold findReceipt modReceipt receiptOr findReceipt
  rw [part_modEr]
  dsimp only
  rw [apply_ite ErPart.receipts]
  refine find?_changed_or_appended _ (fun r => ?_) (by simp only [beq_self_eq_true, Bool.and_self])
  obtain ⟨hlayer, hexpert, hstep⟩ := hf r
  rw [hlayer, hexpert, hstep]

/-- A receipt with one more row (R151). -/
def Receipt.addRow (row : DispatchedRow) (q : Receipt) : Receipt := { q with rows := q.rows ++ [row] }

/-- A receipt with the notice of one more source; a second notice of a source changes nothing (R151). -/
def Receipt.addNotice (n : EndNotice) (q : Receipt) : Receipt :=
  if q.notices.any (fun e => e.1 == n.source) then q else { q with notices := q.notices ++ [(n.source, n.count)] }

theorem Receipt.addNotice_keeps (n : EndNotice) (q : Receipt) :
    (q.addNotice n).layer = q.layer ∧ (q.addNotice n).expert = q.expert ∧ (q.addNotice n).step = q.step := by
  unfold Receipt.addNotice
  split <;> exact ⟨rfl, rfl, rfl⟩

theorem Receipt.addNotice_first {n : EndNotice} {q : Receipt} (hfirst : ∀ e ∈ q.notices, e.1 ≠ n.source) :
    q.addNotice n = { q with notices := q.notices ++ [(n.source, n.count)] } :=
  if_neg (by simpa only [List.any_eq_true, beq_iff_eq, not_exists, not_and] using hfirst)

end Sys2Proof.Machine
end

section
/-! What arrives at a home region's router (O24). -/

namespace Sys2Proof.Machine

section
variable {p p' : Pkg} {pp : Nat} {l : RouterLayer} {r : Placement}

/-- A row within its source's share is stored and noted (R151). -/
theorem acceptRow_stored {row : DispatchedRow} (hlayer : routerLayerAt p pp row.layer = some l)
    (hplaced : homePlacement p l row.expert = some r) (hsource : row.source < l.sources)
    (hrank : row.rank < shareOf r.capacity l.sources row.source) (hput : putRow p l r row = (p', 0)) :
    acceptRow p pp row = (modReceipt p' pp row.layer row.expert row.step (Receipt.addRow row), 0) := by
  unfold acceptRow
  rw [hlayer]
  dsimp only
  rw [hplaced]
  dsimp only
  rw [if_neg (by omega), hput]
  rfl

/-- An end notice of a source of the layer is noted, and compacts the rows where no notice is missing any more (R152). -/
theorem acceptNotice_noted {n : EndNotice} (hlayer : routerLayerAt p pp n.layer = some l)
    (hplaced : homePlacement p l n.expert = some r) (hsource : n.source < l.sources) {t : Receipt}
    (ht : t = (receiptOr p pp n.layer n.expert n.step).addNotice n) :
    findReceipt (modReceipt p pp n.layer n.expert n.step (Receipt.addNotice n)) pp n.layer n.expert n.step = some t
    ∧ acceptNotice p pp n = (if !t.compacted && t.notices.length == l.sources
        then compact (modReceipt p pp n.layer n.expert n.step (Receipt.addNotice n)) pp l r t
        else modReceipt p pp n.layer n.expert n.step (Receipt.addNotice n), 0) := by
  have hfind := ht ▸ findReceipt_modReceipt p pp n.layer n.expert n.step (Receipt.addNotice_keeps n)
  refine ⟨hfind, ?_⟩
  unfold acceptNotice
  rw [hlayer]
  dsimp only
  rw [hplaced]
  dsimp only
  rw [if_neg (by omega)]
  split
  case h_1 hnone => exact absurd (hnone.symm.trans hfind) (Option.some_ne_none t).symm
  case h_2 q hsome =>
    obtain rfl : q = t := Option.some.inj (hsome.symm.trans hfind)
    rfl

end

/-- What the home router does with a row or a notice (R153, R71). -/
def turnOfItem (p : Pkg) (pp : Nat) : RouteItem → Turn
  | .row row => turnOf p pp row.layer row.expert row.step
  | .notice n => turnOf p pp n.layer n.expert n.step

/-- A row or a notice that the router accepts (R151, R152). -/
def acceptItem (p : Pkg) (pp : Nat) : RouteItem → Pkg × Nat
  | .row row => acceptRow p pp row
  | .notice n => acceptNotice p pp n

/-- The rows and the notices that an item adds to those that wait (R153). -/
def rowsOf : RouteItem → List DispatchedRow
  | .row row => [row]
  | .notice _ => []
def noticesOf : RouteItem → List EndNotice
  | .row _ => []
  | .notice n => [n]

/-- The package in which an item waits (R153). -/
def holdItem (p : Pkg) (pp : Nat) (item : RouteItem) : Pkg :=
  modEr p pp (fun q => { q with heldRows := q.heldRows ++ rowsOf item, heldNotices := q.heldNotices ++ noticesOf item })

/-- What an arrival does at each turn, the same for a row and for a notice (R151 to R153). -/
theorem itemArrives_eq (p : Pkg) (pp : Nat) (item : RouteItem) :
    itemArrives p pp item = match turnOfItem p pp item with
      | .take => ((acceptItem p pp item).1, some (acceptItem p pp item).2)
      | .hold => (holdItem p pp item, none)
      | .drop => (p, some 0)
      | .refuse => (refuseEarly p pp item.layer item.expert, some 0x0E0B) := by
  cases item with
  | row row =>
    simp only [itemArrives, rowArrives, turnOfItem, acceptItem, holdItem, rowsOf, noticesOf, List.append_nil]
    cases turnOf p pp row.layer row.expert row.step <;> rfl
  | notice n =>
    simp only [itemArrives, noticeArrives, turnOfItem, acceptItem, holdItem, rowsOf, noticesOf, List.append_nil]
    cases turnOf p pp n.layer n.expert n.step <;> rfl

section
variable {p p' : Pkg} {pp : Nat} {item : RouteItem} (hstate : pcState p pp ≠ 6)
include hstate

theorem takeItem_answers {status : Nat} (h : itemArrives p pp item = (p', some status)) :
    takeItem pp p item = answerRoute p' pp item status := by
  unfold takeItem
  rw [if_neg hstate, h]

theorem takeItem_take (hturn : turnOfItem p pp item = .take) :
    takeItem pp p item = answerRoute (acceptItem p pp item).1 pp item (acceptItem p pp item).2 :=
  takeItem_answers hstate (by rw [itemArrives_eq, hturn])

theorem takeItem_drop (hturn : turnOfItem p pp item = .drop) : takeItem pp p item = answerRoute p pp item 0 :=
  takeItem_answers hstate (by rw [itemArrives_eq, hturn])

theorem takeItem_refuse (hturn : turnOfItem p pp item = .refuse) :
    takeItem pp p item = answerRoute (refuseEarly p pp item.layer item.expert) pp item 0x0E0B :=
  takeItem_answers hstate (by rw [itemArrives_eq, hturn])

theorem takeItem_hold (hturn : turnOfItem p pp item = .hold) : takeItem pp p item = holdItem p pp item := by
  unfold takeItem
  rw [if_neg hstate, itemArrives_eq, hturn]

end

/-- A refusal sets a last status and raises an event; partitions and memory stay (R153). -/
theorem refuseEarly_frame (p : Pkg) (pp layer expert : Nat) :
    (refuseEarly p pp layer expert).parts = p.parts ∧ (refuseEarly p pp layer expert).mem = p.mem := by
  unfold refuseEarly
  split
  · exact ⟨(raiseAs_keeps _ _ _ _ _ _ _).parts, (raiseAs_keeps _ _ _ _ _ _ _).mem⟩
  · exact ⟨(raise_keeps _ _ _ _ _).parts, (raise_keeps _ _ _ _ _).mem⟩

/-- A command that brings an item which the router does not take: answered in a reset, dropped, refused or held (R153, R355). -/
theorem arrival_untaken {s : State} {pp : Fin 12} {c : Instr} {item : RouteItem} (hp : powered s.pkg = true)
    (hx : exec c s = onPkgF (fun p => takeItem pp p item) s) :
    (pcState s.pkg pp = 6 → Completes c s (fun q => q = answerRoute (begun s) pp item 0x0EE1))
    ∧ (pcState s.pkg pp ≠ 6 → turnOfItem s.pkg pp item = .drop → Completes c s (fun q => q = answerRoute (begun s) pp item 0))
    ∧ (pcState s.pkg pp ≠ 6 → turnOfItem s.pkg pp item = .refuse → Completes c s (fun q => ∃ p, p = refuseEarly (begun s) pp item.layer item.expert
        ∧ p.parts = s.pkg.parts ∧ p.mem = s.pkg.mem ∧ q = answerRoute p pp item 0x0E0B))
    ∧ (pcState s.pkg pp ≠ 6 → turnOfItem s.pkg pp item = .hold → Completes c s (fun q => q.mem = s.pkg.mem ∧ q.dict = s.pkg.dict
        ∧ (part q pp).er.heldRows = (part s.pkg pp).er.heldRows ++ rowsOf item
        ∧ (part q pp).er.heldNotices = (part s.pkg pp).er.heldNotices ++ noticesOf item)) := by
  have hturns : turnOfItem (begun s) pp item = turnOfItem s.pkg pp item := by cases item <;> rfl
  rw [← hturns]
  refine ⟨fun hreset => completes_of hp hx (if_pos hreset), fun hstate hturn => completes_of hp hx (takeItem_drop hstate hturn),
    fun hstate hturn => completes_of hp hx ?_, fun hstate hturn => completes_of hp hx ?_⟩
  · obtain ⟨hparts, hmem⟩ := refuseEarly_frame (begun s) pp item.layer item.expert
    exact ⟨_, rfl, hparts, hmem, takeItem_refuse hstate hturn⟩
  · rw [takeItem_hold (p := begun s) hstate hturn, holdItem, part_modEr]
    exact ⟨rfl, rfl, rfl, rfl⟩

/-- Settles O24, by the router's turn for the item: a row or a notice that it takes shows in the receipt, and the last notice compacts.
Three of its clauses are choices of the model: what belongs to a step that is over is dropped and answered 0 (entry 90 of its log), when the
next step's rows and notices are accepted and what waits before the first step (91 and 167), and that answers go to the sending router (92). -/
theorem routerArrivals : Obligations.RouterArrivals := by
  unfold Obligations.RouterArrivals
  refine ⟨fun s pp row l r p hp hstate hturn hlayer hplaced hsource hrank hput her => ?row,
    fun s pp n l r hp hstate hturn hlayer hplaced hsource hfirst => ?notice, fun s pp row n hp x hx => ?untaken⟩
  case row =>
    refine completes_of hp (exec_dispatchedRowArrival pp row s) ?_
    have haccept := acceptRow_stored (p := begun s) hlayer ((homePlacement_begun s l _).trans hplaced) hsource hrank hput
    rw [takeItem_take (p := begun s) (item := .row row) hstate hturn, acceptItem, haccept]
    refine ⟨answerRoute_mem _ _ _ _, answerRoute_dict _ _ _ _, (receiptOr p pp row.layer row.expert row.step).addRow row, ?_, ?_⟩
    · rw [findReceipt_answerRoute]
      exact findReceipt_modReceipt _ _ _ _ _ fun _ => ⟨rfl, rfl, rfl⟩
    · unfold Receipt.addRow receiptOr
      rw [findReceipt_of_er her]
      exact congrArg (· ++ [row]) (receipt_shows s.pkg pp row.layer row.expert row.step (·.rows) [] rfl).symm
  case notice =>
    have hfresh : ∀ e ∈ (receiptOr s.pkg pp n.layer n.expert n.step).notices, e.1 ≠ n.source := by
      unfold receiptOr
      cases hfind : findReceipt s.pkg pp n.layer n.expert n.step with
      | none => exact fun e he => absurd he List.not_mem_nil
      | some t => exact hfirst t hfind
    obtain ⟨hfind, haccept⟩ := acceptNotice_noted (p := begun s) hlayer ((homePlacement_begun s l _).trans hplaced) hsource
      (Receipt.addNotice_first hfresh).symm
    rw [receipt_shows _ _ _ _ _ (·.notices) [] rfl, receipt_shows _ _ _ _ _ (·.notices.length) 0 rfl,
      receipt_shows _ _ _ _ _ (·.compacted) false rfl]
    refine ⟨fun hmore => completes_of hp (exec_endNoticeArrival pp n s) ?_, fun hlast hopen => completes_of hp (exec_endNoticeArrival pp n s) ?_⟩
    · rw [takeItem_take (p := begun s) (item := .notice n) hstate hturn, acceptItem, haccept, if_neg (by
        simp only [Bool.and_eq_true, beq_iff_eq, List.length_append, List.length_singleton]
        omega)]
      exact ⟨answerRoute_mem _ _ _ _, answerRoute_dict _ _ _ _, _, (findReceipt_answerRoute _ _ _ _ _ _ _).trans hfind, rfl⟩
    · refine ⟨modReceipt (begun s) pp n.layer n.expert n.step (Receipt.addNotice n), _, rfl, rfl, hfind, rfl, ?_⟩
      rw [takeItem_take (p := begun s) (item := .notice n) hstate hturn, acceptItem, haccept, if_pos (by
        simp only [hopen, Bool.not_false, Bool.true_and, beq_iff_eq, List.length_append, List.length_singleton]
        exact hlast)]
  case untaken =>
    simp only [List.mem_cons, List.not_mem_nil, or_false] at hx
    obtain rfl | rfl := hx
    · exact arrival_untaken hp (exec_dispatchedRowArrival pp row s)
    · exact arrival_untaken hp (exec_endNoticeArrival pp n s)

end Sys2Proof.Machine
end

section
/-! Stores to a partition's control registers: how they are answered, and what a refusal shows (R184, R337, R424). -/

namespace Sys2Proof.Machine

section
variable {c : Instr} {s : State} {pp : Nat} {f : Pkg → Pkg × Nat} {type : Nat} {data : Pkg → Bytes} (hp : powered s.pkg = true)
  (hx : exec c s = onPkgF (fun p => registerAnswer (unlessAbsorbed pp f p) type (data p)) s)
include hp hx

/-- While its partition resets, a store is answered 0x0EE1 and does nothing (R424). -/
theorem registerCommand_absorbed (hreset : pcState s.pkg pp = 6) :
    Completes c s (fun q => q = registerAnswer (begun s, 0x0EE1) type (data (begun s))) := by
  refine completes_of hp hx ?_
  rw [show unlessAbsorbed pp f (begun s) = (begun s, 0x0EE1) from if_pos hreset]

/-- Outside a reset the register's unit takes the store, and its completion is answered. -/
theorem registerCommand_taken (hopen : pcState s.pkg pp ≠ 6) {r : Pkg × Nat} (hr : f (begun s) = r) :
    Completes c s (fun q => q = registerAnswer r type (data (begun s))) := by
  refine completes_of hp hx ?_
  rw [show unlessAbsorbed pp f (begun s) = r from (if_neg hopen).trans hr]

end

/-- Answering a store writes no entry below those of the Memory-Semantic Layer. -/
theorem registerAnswer_rd_low (r : Pkg × Nat) (type : Nat) (data : Bytes) {e : Entry} {sub : Nat} (hlow : e.index < 0x5800) (hs : sub < 256) :
    rd (registerAnswer r type data) e sub = rd r.1 e sub := by
  have herrors : e.index ≠ Ix.msErrorsSent.index := by
    simp only [Ix.msErrorsSent]
    omega
  have hlast : e.index ≠ Ix.msLastStatus.index := by
    simp only [Ix.msLastStatus]
    omega
  exact registerAnswer_rd _ _ _ _ _ (keyAt_ne herrors hs (by omega)) (keyAt_ne hlast hs (by omega))

/-- A store that its unit refuses shows the status as the unit's last one, and is answered with it (R337). -/
theorem registerAnswer_refused (p : Pkg) {e : Entry} {sub code : Nat} (type : Nat) (data : Bytes) (hwidth : e.type.width = 16)
    (hlow : e.index < 0x5800) (hs : sub < 256) (hcode : code < 2 ^ 16) (hne : code ≠ 0) :
    let q := registerAnswer (last p e sub code, code) type data
    rd q e sub = code ∧ q.parts = p.parts ∧ ∃ k : Packet, q.out.getLast? = some (.packet k) ∧ k.type = 0x43 ∧ k.status = code := by
  refine ⟨?_, registerAnswer_parts _ _ _, registerAnswer_error _ _ _ _ hne⟩
  rw [registerAnswer_rd_low _ _ _ hlow hs, rd_last_self, hwidth, Nat.mod_eq_of_lt hcode]

end Sys2Proof.Machine
end

section
/-! The intake counter and the intake reset (O14). -/

namespace Sys2Proof.Machine

/-- The package when an add to the intake counter has raised the published count (R187). -/
def intakeCounted (p : Pkg) (pp n : Nat) : Pkg := wr p Ix.scIntakePublished pp (rd p Ix.scIntakePublished pp + n)

theorem intakeAdd_other {p : Pkg} {pp : Nat} (n : Nat) (hlead : isLead p pp = false) :
    intakeAdd p pp n = (last p Ix.scLastStatus pp 0x060C, 0x060C) :=
  if_pos (by rw [hlead]; rfl)

/-- At the lead an add counts, and an overrun that it brings is marked and reported once (R187). -/
theorem intakeAdd_lead {p : Pkg} {pp : Nat} (n : Nat) (hlead : isLead p pp = true) :
    intakeAdd p pp n = (intakeCounted p pp n, 0)
    ∨ intakeAdd p pp n
        = (raiseAs (modSc (intakeCounted p pp n) pp (fun q => { q with overrun := true })) Ix.scLastStatus pp 0x0609 pp 0xFFFFFFFF 0, 0) := by
  unfold intakeAdd
  rw [if_neg (by rw [hlead]; decide)]
  dsimp only
  split
  case isTrue => exact .inr rfl
  case isFalse => exact .inl rfl

/-- What an add at the lead leaves: the raised count, and the count of consumed records and memory as they were (R187). -/
theorem intakeAdd_counts {p : Pkg} {pp : Nat} (n : Nat) (hpp : pp < 12) (hlead : isLead p pp = true) :
    ∃ q, intakeAdd p pp n = (q, 0) ∧ rd q Ix.scIntakePublished pp = (rd p Ix.scIntakePublished pp + n) % 2 ^ 64
      ∧ rd q Ix.scIntakeConsumed pp = rd p Ix.scIntakeConsumed pp ∧ q.mem = p.mem := by
  have hcount : rd (intakeCounted p pp n) Ix.scIntakePublished pp = (rd p Ix.scIntakePublished pp + n) % 2 ^ 64 := rd_wr_self _ _ _ _
  have hconsumed : rd (intakeCounted p pp n) Ix.scIntakeConsumed pp = rd p Ix.scIntakeConsumed pp :=
    rd_wr_ne _ _ (by decide) (by omega) (by omega)
  obtain hadd | hadd := intakeAdd_lead n hlead
  · exact ⟨_, hadd, hcount, hconsumed, rfl⟩
  · have hkeeps := raiseAs_keeps (modSc (intakeCounted p pp n) pp (fun q => { q with overrun := true })) Ix.scLastStatus pp 0x0609 pp 0xFFFFFFFF 0
    refine ⟨_, hadd, ?_, ?_, hkeeps.mem⟩
    · rw [hkeeps.rd _ _ (commsKey_low (by decide) (by omega)), rd_last_ne _ _ (by decide) (by omega) (by omega), rd_modSc, hcount]
    · rw [hkeeps.rd _ _ (commsKey_low (by decide) (by omega)), rd_last_ne _ _ (by decide) (by omega) (by omega), rd_modSc, hconsumed]

/-- An intake reset discards the unread records, with the overrun and the marks, and keeps the requests (R187). -/
theorem intakeReset_discards (p : Pkg) {pp : Nat} (hpp : pp < 12) :
    let q := intakeReset p pp
    rd q Ix.scIntakeConsumed pp = rd p Ix.scIntakePublished pp % 2 ^ 64
    ∧ (part q pp).sc.overrun = false ∧ (part q pp).sc.marked = [] ∧ (part q pp).sc.requests = (part p pp).sc.requests := by
  unfold intakeReset
  dsimp only
  have hnoted : ∀ c [Decidable c], (if c then last p Ix.scLastStatus pp 0x0603 else p).parts = p.parts
      ∧ rd (if c then last p Ix.scLastStatus pp 0x0603 else p) Ix.scIntakePublished pp = rd p Ix.scIntakePublished pp := by
    intro c _
    split
    · exact ⟨rfl, rd_last_ne _ _ (by decide) (by omega) (by omega)⟩
    · exact ⟨rfl, rfl⟩
  refine ⟨?_, ?_, ?_, ?_⟩
  · rw [rd_wr_self, rd_modSc, (hnoted _).2]
    rfl
  · rw [part_wr, part_modSc]
  · rw [part_wr, part_modSc]
  · rw [part_wr, part_modSc, part_of_parts (hnoted _).1]

/-- A write of `sc_intake_reset` that the dictionary lets through is answered as its owner says (R405). -/
theorem execIntakeReset_open {s : State} {pp : Fin 12} {value : Byte} {r : Pkg × Answer} (hp : powered s.pkg = true)
    (hgate : gate s.pkg Ix.scIntakeReset 0 pp = none)
    (hwrite : onOne (begun s) value.toNat (fun p => (intakeReset p pp, accepted)) = r) :
    Completes (.intakeReset pp value) s (fun q => q = answered Ix.scIntakeReset pp r) := by
  refine completes_of hp (exec_intakeReset pp value s) ?_
  unfold entryCommand gated
  rw [show gate (begun s) Ix.scIntakeReset 0 pp = none from hgate]
  exact congrArg (answered Ix.scIntakeReset pp) hwrite

/-- Settles O14, by who takes the add and by the value that is written. -/
theorem intakeCommandsComplete : Obligations.IntakeCommandsComplete := by
  unfold Obligations.IntakeCommandsComplete
  refine ⟨fun s pp n hp => ⟨fun hlead hopen => ?lead, fun hlead hopen => ?other, fun hreset => ?absorbed⟩,
    fun s pp value hp hgate => ⟨fun hone => ?resets, fun hne => ?refuses⟩⟩
  case lead =>
    obtain ⟨r, hadd, hcount, hconsumed, hmem⟩ := intakeAdd_counts (p := begun s) n.toNat pp.isLt hlead
    refine (registerCommand_taken hp (exec_intakeCounterAdd pp n s) hopen hadd).mono ?_
    rintro q rfl
    refine ⟨?_, ?_, ?_, registerAnswer_ok _ _ _⟩
    · rw [registerAnswer_rd_low _ _ _ (by decide) (by omega)]
      exact hcount
    · rw [registerAnswer_rd_low _ _ _ (by decide) (by omega)]
      exact hconsumed
    · rw [registerAnswer_mem]
      exact hmem
  case other =>
    refine (registerCommand_taken hp (exec_intakeCounterAdd pp n s) hopen (intakeAdd_other (p := begun s) n.toNat hlead)).mono ?_
    rintro q rfl
    obtain ⟨hlast, -, hanswer⟩ := registerAnswer_refused (begun s) (e := Ix.scLastStatus) (sub := pp) (code := 0x060C) 0x42
      (padTo (leBytes 8 (rd (begun s) Ix.scIntakePublished pp)) 16) rfl (by decide) (by omega) (by decide) (by decide)
    refine ⟨hlast, ?_, hanswer⟩
    rw [registerAnswer_rd_low _ _ _ (by decide) (by omega), rd_last_ne _ _ (by decide) (by omega) (by omega)]
    rfl
  case absorbed =>
    refine (registerCommand_absorbed hp (exec_intakeCounterAdd pp n s) hreset).mono ?_
    rintro q rfl
    exact ⟨registerAnswer_parts _ _ _, registerAnswer_mem _ _ _, registerAnswer_rd_low _ _ _ (by decide) (by omega),
      registerAnswer_error _ _ _ _ (by decide)⟩
  case resets =>
    subst hone
    refine (execIntakeReset_open (value := 1) hp hgate rfl).mono ?_
    rintro q rfl
    obtain ⟨hconsumed, hoverrun, hmarked, hrequests⟩ := intakeReset_discards (begun s) pp.isLt
    exact ⟨hconsumed, hoverrun, hmarked, hrequests, emit_last _ _⟩
  case refuses =>
    have hvalue : value.toNat ≠ 1 := fun h => hne (BitVec.eq_of_toNat_eq h)
    refine (execIntakeReset_open hp hgate (if_neg hvalue)).mono ?_
    rintro q rfl
    exact ⟨rfl, rfl, emit_last _ _⟩

end Sys2Proof.Machine
end

section
/-! Consumer counts and play-head words (O16). -/

namespace Sys2Proof.Machine

@[simp] theorem stream_modStream_self (p : Pkg) (pp n : Nat) (f : Stream → Stream) : stream (modStream p pp n f) pp n = f (stream p pp n) := by
  simp [stream, modStream]

/-- The consumer's count of one ring is put, and those of the other rings stay (R231). -/
theorem emitConsumed_counts (p : Pkg) (pp ring n : Nat) :
    let q := modSe p pp (fun q => { q with consumed := tput q.consumed ring n })
    tget (part q pp).se.consumed ring 0 = n ∧ (∀ r ≠ ring, tget (part q pp).se.consumed r 0 = tget (part p pp).se.consumed r 0)
    ∧ (part q pp).se.hold = (part p pp).se.hold := by
  dsimp only
  rw [part_modSe]
  exact ⟨tget_tput_self _ _ _ _, fun r hne => tget_tput_ne _ _ _ hne, rfl⟩

/-- A play-head word for a stream that does not exist, or with stray bits, is refused (R220). -/
theorem playHeadStore_refused {p : Pkg} {pp n w : Nat} (h : rd p Ix.seStreamCount pp ≤ n ∨ bits w 62 48 ≠ 0) :
    playHeadStore p pp n w = (last p Ix.seLastStatus pp 0x0702, 0x0702) :=
  if_pos h

/-- The package when a play-head word's position and time stand at its stream (R220). -/
def playHeadPut (p : Pkg) (pp n w : Nat) : Pkg :=
  modStream p pp n (fun s => { s with playedUs := w % 2 ^ 48, reportNs := p.now, playing := bit w 63 })

theorem playHeadPut_shows (p : Pkg) (pp n w : Nat) :
    let x := stream (playHeadPut p pp n w) pp n
    x.playedUs = w % 2 ^ 48 ∧ x.reportNs = p.now ∧ x.playing = bit w 63 ∧ x.emitted = (stream p pp n).emitted := by
  unfold playHeadPut
  rw [stream_modStream_self]
  exact ⟨rfl, rfl, rfl, rfl⟩

/-- One for a readable stream puts what it reports, and the stream is evaluated (R220, R221). -/
theorem playHeadStore_reports {p p' : Pkg} {pp n w : Nat} {b : Bytes} (hexists : n < rd p Ix.seStreamCount pp) (hbits : bits w 62 48 = 0)
    (hread : readStream p pp n = (p', some b)) :
    playHeadStore p pp n w = (evaluate (playHeadPut p' pp n w) pp n b, 0) := by
  unfold playHeadStore
  dsimp only
  rw [if_neg (by omega), hread]
  rfl

/-- Settles O16, by the register that the host stores to. -/
theorem consumerCountsComplete : Obligations.ConsumerCountsComplete := by
  unfold Obligations.ConsumerCountsComplete
  refine fun s pp hp hopen => ⟨fun n => ?completions, fun ring n => ?emissions, fun n w p b hexists hbits hread => ?playHead, fun n w hmissing => ?missing⟩
  case completions =>
    refine (registerCommand_taken hp (exec_completionConsumedStore pp n s) hopen rfl).mono ?_
    rintro q rfl
    refine ⟨modSc (begun s) pp (fun q => { q with completionConsumed := n.toNat }), ?_, ?_, rfl, rfl, rfl⟩
    · rw [part_modSc]
    · rw [part_modSc, part_begun]
  case emissions =>
    refine (registerCommand_taken hp (exec_emitConsumedStore pp ring n s) hopen rfl).mono ?_
    rintro q rfl
    obtain ⟨hput, hothers, hhold⟩ := emitConsumed_counts (begun s) pp ring n.toNat
    exact ⟨_, hput, hothers, hhold, rfl, rfl, rfl⟩
  case playHead =>
    refine (registerCommand_taken hp (exec_playHeadReport pp n w s) hopen (playHeadStore_reports (p := begun s) hexists hbits hread)).mono ?_
    rintro q rfl
    obtain ⟨hplayed, hreport, hplaying, hemitted⟩ := playHeadPut_shows p pp n.toNat w.toNat
    exact ⟨_, hplayed, hreport, hplaying, hemitted, rfl, rfl⟩
  case missing =>
    refine (registerCommand_taken hp (exec_playHeadReport pp n w s) hopen (playHeadStore_refused (p := begun s) (.inl hmissing))).mono ?_
    rintro q rfl
    exact registerAnswer_refused (begun s) 0x41 [] rfl (by decide) (by omega) (by decide) (by decide)

end Sys2Proof.Machine
end

section
/-! The retry of held serving writes (O17). -/

namespace Sys2Proof.Machine

theorem retryServing_none {p : Pkg} {pp : Nat} {egress : Bool} (hnone : (if egress then (part p pp).se.refused else (part p pp).sc.refused) = []) :
    retryServing p pp egress = p :=
  if_pos (by rw [hnone]; rfl)

/-- The package when the Serving Scheduler's first retry begins: nothing is held, and event 0x0613 is raised (R536). -/
def servingRetryBegun (p : Pkg) (pp : Nat) : Pkg :=
  raiseAs (modSc p pp (fun q => { q with refused := [], refusedRaised := true })) Ix.scLastStatus pp 0x0613 pp 0xFFFFFFFF 0

theorem servingRetryBegun_shows (p : Pkg) {pp : Nat} (hpp : pp < 12) :
    let q := servingRetryBegun p pp
    rd q Ix.scLastStatus pp = 0x0613 ∧ (part q pp).sc.refused = [] ∧ (part q pp).sc.refusedRaised = true ∧ q.mem = p.mem := by
  have hkeeps := raiseAs_keeps (modSc p pp (fun q => { q with refused := [], refusedRaised := true })) Ix.scLastStatus pp 0x0613 pp 0xFFFFFFFF 0
  have hpart : part (servingRetryBegun p pp) pp = { part p pp with sc := { (part p pp).sc with refused := [], refusedRaised := true } } := by
    rw [servingRetryBegun, hkeeps.part, part_last, part_modSc]
  refine ⟨?_, ?_, ?_, hkeeps.mem⟩
  · rw [servingRetryBegun, hkeeps.rd _ _ (commsKey_low (by decide) (by omega)), rd_last_self]
    rfl
  · rw [hpart]
  · rw [hpart]

/-- The first retry of the Serving Scheduler's held writes takes each off the held list and writes it again, in order (R536). -/
theorem retryServing_first {p : Pkg} {pp : Nat} {w : HostWrite} {l : List HostWrite} (hheld : (part p pp).sc.refused = w :: l)
    (hquiet : (part p pp).sc.refusedRaised = false) :
    retryServing p pp false = (w :: l).foldl (fun p w => writeServing p pp false w) (servingRetryBegun p pp) := by
  unfold retryServing
  simp only [Bool.false_eq_true, if_false, hheld, hquiet, List.isEmpty_cons]
  rfl

/-- Settles O17, by what the two units hold. -/
theorem heldWritesRetried : Obligations.HeldWritesRetried := by
  unfold Obligations.HeldWritesRetried
  refine fun s pp hp => ⟨fun w l hheld hquiet => completes_of hp (exec_hostWriteRetry pp s) ?first,
    fun hserving hegress => completes_of hp (exec_hostWriteRetry pp s) ?none⟩
  case first =>
    obtain ⟨hlast, hrefused, hraised, hmem⟩ := servingRetryBegun_shows (begun s) pp.isLt
    refine ⟨_, hlast, hrefused, hraised, hmem, ?_⟩
    rw [retryServing_first (p := begun s) hheld hquiet]
  case none =>
    rw [retryServing_none (p := begun s) (egress := false) hserving, retryServing_none (p := begun s) (egress := true) hegress]
    unfold afterRetry
    dsimp only
    rw [part_begun, hegress, List.isEmpty_nil, if_pos rfl]
    split
    case isTrue => exact .inl rfl
    case isFalse hbehind => exact .inr ⟨fun hempty => hbehind (by rw [hempty]; rfl), rfl⟩

end Sys2Proof.Machine
end

section
/-! Cancel words (O15). -/

namespace Sys2Proof.Machine

@[simp] theorem noteSc_parts (p : Pkg) (pp status : Nat) : (noteSc p pp status).parts = p.parts := by
  unfold noteSc
  split
  · rfl
  · split <;> rfl

@[simp] theorem noteSc_mem (p : Pkg) (pp status : Nat) : (noteSc p pp status).mem = p.mem := by
  unfold noteSc
  split
  · rfl
  · split <;> rfl

/-- A cancel word's answer waits behind the others for the next boundary (R208, R210). -/
theorem answerCancel_sc (p : Pkg) (pp status handle seq tag generated promptDone : Nat) :
    (part (answerCancel p pp status handle seq tag generated promptDone) pp).sc
      = { (part p pp).sc with
          answers := (part p pp).sc.answers ++ [{ bytes := completionBytes 3 0 status handle seq tag generated promptDone 0 }] } := by
  unfold answerCancel
  rw [part_modSc, part_of_parts (noteSc_parts p pp status)]

@[simp] theorem answerCancel_mem (p : Pkg) (pp status handle seq tag generated promptDone : Nat) :
    (answerCancel p pp status handle seq tag generated promptDone).mem = p.mem :=
  noteSc_mem _ _ _

/-- Whether a word breaks the format of cancel words (R208): its kind is neither 1 nor 2, or a reserved bit is set. -/
def cancelWordBroken (w : Nat) : Prop :=
  (w / 2 ^ 62 ≠ 1 ∧ w / 2 ^ 62 ≠ 2) ∨ bits w 61 48 ≠ 0 ∨ (w / 2 ^ 62 = 1 ∧ bits w 47 32 ≠ 0)

theorem cancelWordBroken_iff (w : Nat) :
    ((w / 2 ^ 62 != 1 && w / 2 ^ 62 != 2) || bits w 61 48 != 0 || (w / 2 ^ 62 == 1 && bits w 47 32 != 0)) = true ↔ cancelWordBroken w := by
  simp only [cancelWordBroken, Bool.or_eq_true, Bool.and_eq_true, bne_iff_ne, beq_iff_eq, or_assoc]

theorem cancelWord_unbroken {w : Nat} (hkind : w / 2 ^ 62 = 1 ∨ w / 2 ^ 62 = 2) (hhigh : bits w 61 48 = 0)
    (hlow : w / 2 ^ 62 = 1 → bits w 47 32 = 0) : ¬ cancelWordBroken w := by
  rintro (⟨hne1, hne2⟩ | hset | ⟨hone, hset⟩)
  · exact hkind.elim hne1 hne2
  · exact hset hhigh
  · exact hset (hlow hone)

/-- Cancel words that are still in the port (R208, entry 27 of the log). -/
def portWords (p : Pkg) (pp : Nat) : List Nat := (part p pp).sc.cancelWords.filter (fun t => decide (p.now < t + 300))

/-- The package when the words that have left the port are forgotten. -/
def portCleared (p : Pkg) (pp : Nat) : Pkg :=
  modSc p pp (fun q => { q with cancelWords := q.cancelWords.filter (fun t => decide (p.now < t + 300)) })

/-- The package when a word stands in the port (R208). -/
def wordInPort (p : Pkg) (pp : Nat) : Pkg :=
  modSc (portCleared p pp) pp (fun q => { q with cancelWords := q.cancelWords ++ [(portCleared p pp).now] })

theorem portCleared_sc (p : Pkg) (pp : Nat) : (part (portCleared p pp) pp).sc = { (part p pp).sc with cancelWords := portWords p pp } := by
  unfold portCleared
  rw [part_modSc]
  rfl

theorem wordInPort_sc (p : Pkg) (pp : Nat) :
    (part (wordInPort p pp) pp).sc = { (part p pp).sc with cancelWords := portWords p pp ++ [p.now] } := by
  unfold wordInPort
  rw [part_modSc, portCleared_sc]
  rfl

theorem cancelStore_other {p : Pkg} {pp : Nat} (w : Nat) (hlead : isLead p pp = false) :
    cancelStore p pp w = (last p Ix.scLastStatus pp 0x060C, 0x060C) :=
  if_pos (by rw [hlead]; rfl)

section
variable {p : Pkg} {pp w : Nat} (hlead : isLead p pp = true)
include hlead

theorem cancelStore_broken (hbroken : cancelWordBroken w) : cancelStore p pp w = (last p Ix.scLastStatus pp 0x0607, 0x0607) := by
  unfold cancelStore
  dsimp only
  rw [if_neg (by rw [hlead]; decide), if_pos ((cancelWordBroken_iff w).mpr hbroken)]

variable (hform : ¬ cancelWordBroken w)
include hform

/-- A sixty-fifth word in the port is refused (R208). -/
theorem cancelStore_full (hfull : 64 ≤ (portWords p pp).length) :
    cancelStore p pp w = (last (portCleared p pp) Ix.scLastStatus pp 0x0606, 0x0606) := by
  unfold cancelStore
  dsimp only
  rw [if_neg (by rw [hlead]; decide), if_neg (mt (cancelWordBroken_iff w).mp hform)]
  exact if_pos (by rw [← portCleared, portCleared_sc]; exact hfull)

theorem cancelStore_taken (hroom : (portWords p pp).length < 64) : cancelStore p pp w = (takeCancel (wordInPort p pp) pp w, 0) := by
  unfold cancelStore
  dsimp only
  rw [if_neg (by rw [hlead]; decide), if_neg (mt (cancelWordBroken_iff w).mp hform)]
  exact if_neg (by rw [← portCleared, portCleared_sc]; exact Nat.not_le.mpr hroom)

end

/-- The live request that a word names, by its handle or by its sequence number (R208). -/
def namedRequest (p : Pkg) (pp w : Nat) : Option Req :=
  (part p pp).sc.requests.find? (fun r => r.live && (if w / 2 ^ 62 = 1 then r.handle == w % 2 ^ 32 else r.sequence == w % 2 ^ 48))

theorem namedRequest_wordInPort (p : Pkg) (pp w : Nat) : namedRequest (wordInPort p pp) pp w = namedRequest p pp w := by
  unfold namedRequest
  rw [wordInPort_sc]

theorem namedRequest_handle {p : Pkg} {pp w : Nat} (hkind : w / 2 ^ 62 = 1)
    (hnone : ∀ r ∈ (part p pp).sc.requests, r.live = true → r.handle ≠ w % 2 ^ 32) : namedRequest p pp w = none := by
  refine List.find?_eq_none.mpr fun r hr hmatch => ?_
  rw [if_pos hkind, Bool.and_eq_true, beq_iff_eq] at hmatch
  obtain ⟨hlive, hsame⟩ := hmatch
  exact hnone r hr hlive hsame

theorem namedRequest_sequence {p : Pkg} {pp w : Nat} (hkind : w / 2 ^ 62 = 2)
    (hnone : ∀ r ∈ (part p pp).sc.requests, r.live = true → r.sequence ≠ w % 2 ^ 48) : namedRequest p pp w = none := by
  refine List.find?_eq_none.mpr fun r hr hmatch => ?_
  rw [if_neg (by omega), Bool.and_eq_true, beq_iff_eq] at hmatch
  obtain ⟨hlive, hsame⟩ := hmatch
  exact hnone r hr hlive hsame

/-- A word that names a live request cancels it, where it is not cancelled already, and is answered with its state (R209, R210). -/
theorem takeCancel_named {p : Pkg} {pp w : Nat} {r : Req} (hnamed : namedRequest p pp w = some r) :
    takeCancel p pp w = answerCancel (if r.cancelled then p else cancelRequest p pp r) pp 0 r.handle r.sequence
      (if w / 2 ^ 62 = 1 then 0 else r.clientTag) r.generated r.promptDone := by
  unfold namedRequest at hnamed
  unfold takeCancel
  dsimp only
  rw [hnamed]

section
variable {p : Pkg} {pp w : Nat} (hnamed : namedRequest p pp w = none)
include hnamed

theorem takeCancel_handle (hkind : w / 2 ^ 62 = 1) : takeCancel p pp w = answerCancel p pp 0x0603 (w % 2 ^ 32) 0 0 0 0 := by
  unfold namedRequest at hnamed
  unfold takeCancel
  dsimp only
  rw [hnamed]
  exact if_pos hkind

variable (hkind : w / 2 ^ 62 = 2)
include hkind

/-- The number of a record that has not been read marks it (R209). -/
theorem takeCancel_unread (hread : rd p Ix.scIntakeConsumed pp ≤ w % 2 ^ 48) (hwritten : w % 2 ^ 48 < rd p Ix.scIntakePublished pp) :
    ∃ q tag, takeCancel p pp w = answerCancel q pp 0 0xFFFFFFFF (w % 2 ^ 48) tag 0 0
      ∧ w % 2 ^ 48 ∈ (part q pp).sc.marked ∧ (part q pp).sc.requests = (part p pp).sc.requests ∧ q.mem = p.mem := by
  unfold namedRequest at hnamed
  unfold takeCancel
  dsimp only
  rw [hnamed]
  dsimp only
  rw [if_neg (by omega), if_pos ⟨hread, hwritten⟩]
  refine ⟨_, _, rfl, ?_, ?_, rfl⟩
  · rw [part_modSc]
    dsimp only
    split
    case isTrue hmarked => exact List.contains_iff_mem.mp hmarked
    case isFalse => exact List.mem_append_right _ (List.mem_singleton.mpr rfl)
  · rw [part_modSc]

/-- A number that names nothing is answered 0x0603 (R210). -/
theorem takeCancel_nothing (hout : w % 2 ^ 48 < rd p Ix.scIntakeConsumed pp ∨ rd p Ix.scIntakePublished pp ≤ w % 2 ^ 48) :
    takeCancel p pp w = answerCancel p pp 0x0603 0xFFFFFFFF (w % 2 ^ 48) 0 0 0 := by
  unfold namedRequest at hnamed
  unfold takeCancel
  dsimp only
  rw [hnamed]
  dsimp only
  rw [if_neg (by omega), if_neg (by omega)]

end

/-- A word that the lead takes into its port is answered as what it names says (R208). -/
theorem execCancelWord_taken {s : State} {pp : Fin 12} {w : DWord} {r : Pkg} (hp : powered s.pkg = true) (hopen : pcState s.pkg pp ≠ 6)
    (hlead : isLead s.pkg pp = true) (hroom : (portWords (begun s) pp).length < 64) (hform : ¬ cancelWordBroken w.toNat)
    (htake : takeCancel (wordInPort (begun s) pp) pp w.toNat = r) :
    Completes (.cancelWord pp w) s (fun q => q = registerAnswer (r, 0) 0x41 []) :=
  registerCommand_taken hp (exec_cancelWord pp w s) hopen
    ((cancelStore_taken (p := begun s) hlead hform hroom).trans (congrArg (·, 0) htake))

/-- Settles O15, by the port, the word's form and what it names. Two of its clauses are choices of the model: a word occupies its place in the
port for 300 ns (entry 27 of its log), and the fields that an answer has no value for are zero (entry 28). -/
theorem cancelWordsComplete : Obligations.CancelWordsComplete := by
  unfold Obligations.CancelWordsComplete
  refine fun s pp w hp => ⟨fun hreset => ?absorbed, fun hopen =>
    ⟨fun hlead hroom => ⟨fun hkind hhigh hlow hnone => ?handle, fun hkind hhigh hlow r hfind => ?named,
        fun hkind hhigh hnone hread hwritten => ?unread, fun hkind hhigh hnone hout => ?nothing⟩,
      fun hlead hfull hkind hhigh hlow => ?full, fun hlead hbroken => ?broken, fun hlead => ?other⟩⟩
  case absorbed =>
    refine (registerCommand_absorbed hp (exec_cancelWord pp w s) hreset).mono ?_
    rintro q rfl
    exact ⟨registerAnswer_parts _ _ _, registerAnswer_mem _ _ _, registerAnswer_error _ _ _ _ (by decide)⟩
  case handle =>
    have hnamed := (namedRequest_wordInPort (begun s) pp w.toNat).trans (namedRequest_handle hkind hnone)
    refine (execCancelWord_taken hp hopen hlead hroom (cancelWord_unbroken (.inl hkind) hhigh fun _ => hlow)
      (takeCancel_handle hnamed hkind)).mono ?_
    rintro q rfl
    rw [registerAnswer_part, registerAnswer_mem, answerCancel_sc, answerCancel_mem, wordInPort_sc]
    exact ⟨rfl, rfl, rfl⟩
  case named =>
    have hnamed := (namedRequest_wordInPort (begun s) pp w.toNat).trans hfind
    refine (execCancelWord_taken hp hopen hlead hroom (cancelWord_unbroken hkind hhigh hlow) (takeCancel_named hnamed)).mono ?_
    rintro q rfl
    refine ⟨wordInPort (begun s) pp, ?_, rfl, rfl⟩
    rw [wordInPort_sc]
    rfl
  case unread =>
    have hnamed := (namedRequest_wordInPort (begun s) pp w.toNat).trans (namedRequest_sequence hkind hnone)
    obtain ⟨r, tag, htake, hmarked, hrequests, hmem⟩ := takeCancel_unread hnamed hkind hread hwritten
    refine (execCancelWord_taken hp hopen hlead hroom (cancelWord_unbroken (.inr hkind) hhigh (by omega)) htake).mono ?_
    rintro q rfl
    rw [registerAnswer_part, registerAnswer_mem, answerCancel_sc, answerCancel_mem, hrequests, hmem, wordInPort_sc]
    exact ⟨List.contains_iff_mem.mpr hmarked, rfl, rfl⟩
  case nothing =>
    have hnamed := (namedRequest_wordInPort (begun s) pp w.toNat).trans (namedRequest_sequence hkind hnone)
    refine (execCancelWord_taken hp hopen hlead hroom (cancelWord_unbroken (.inr hkind) hhigh (by omega))
      (takeCancel_nothing hnamed hkind hout)).mono ?_
    rintro q rfl
    rw [registerAnswer_part, registerAnswer_mem, answerCancel_sc, answerCancel_mem, wordInPort_sc]
    exact ⟨rfl, rfl, rfl, rfl⟩
  case full =>
    refine (registerCommand_taken hp (exec_cancelWord pp w s) hopen
      (cancelStore_full (p := begun s) hlead (cancelWord_unbroken hkind hhigh hlow) hfull)).mono ?_
    rintro q rfl
    obtain ⟨hlast, hparts, hanswer⟩ := registerAnswer_refused (portCleared (begun s) pp) (e := Ix.scLastStatus) (sub := pp) (code := 0x0606)
      0x41 [] rfl (by decide) (by omega) (by decide) (by decide)
    rw [part_of_parts hparts, portCleared_sc]
    exact ⟨hlast, rfl, rfl, hanswer⟩
  case broken =>
    refine (registerCommand_taken hp (exec_cancelWord pp w s) hopen (cancelStore_broken (p := begun s) hlead hbroken)).mono ?_
    rintro q rfl
    exact registerAnswer_refused (begun s) 0x41 [] rfl (by decide) (by omega) (by decide) (by decide)
  case other =>
    refine (registerCommand_taken hp (exec_cancelWord pp w s) hopen (cancelStore_other (p := begun s) w.toNat hlead)).mono ?_
    rintro q rfl
    exact registerAnswer_refused (begun s) 0x41 [] rfl (by decide) (by omega) (by decide) (by decide)

end Sys2Proof.Machine
end

section
/-! What writes of serving state leave of a partition (R536). -/

namespace Sys2Proof.Machine

theorem noteAccess_parts (p : Pkg) (a status : Nat) : (noteAccess p a status).parts = p.parts := by
  unfold noteAccess
  split
  · rfl
  · split <;> rfl

theorem countMoved_parts (p : Pkg) (a n : Nat) : (countMoved p a n).parts = p.parts := by
  unfold countMoved
  split <;> rfl

theorem enterSkip_parts (p : Pkg) (a : Nat) : (enterSkip p a).parts = p.parts := by
  unfold enterSkip
  split
  next =>
    split
    next =>
      dsimp only
      split <;> rfl
    next => rfl
  next => rfl

theorem markDirty_parts (p : Pkg) (a n : Nat) : (markDirty p a n).parts = p.parts := by
  unfold markDirty
  split <;> rfl

theorem storeNow_parts (p : Pkg) (a : Nat) (b : Bytes) (poison : Bool) : (storeNow p a b poison).parts = p.parts :=
  (markDirty_parts _ _ _).trans ((countMoved_parts _ _ _).trans (enterSkip_parts _ _))

theorem storePart_parts (t : Txn) (p : Pkg) (w : Nat × Bytes) : (storePart t p w).parts = p.parts := by
  unfold storePart
  split
  · rfl
  · exact storeNow_parts _ _ _ _

theorem sendPart_parts (t : Txn) (p : Pkg) (w : Nat × Bytes) : (sendPart t p w).parts = p.parts := by
  unfold sendPart
  split
  · exact (send_keeps _ _).parts
  · rfl

/-- A fold of steps that leave the partitions leaves them. -/
theorem foldl_parts {α : Type} {f : Pkg → α → Pkg} (hf : ∀ p x, (f p x).parts = p.parts) (l : List α) (p : Pkg) :
    (l.foldl f p).parts = p.parts := by
  induction l generalizing p with
  | nil => rfl
  | cons x l ih => exact (ih (f p x)).trans (hf p x)

/-- A write of local memory leaves every partition as it was (R239). -/
theorem storeLocal_parts (p : Pkg) (a : Nat) (b : Bytes) (poison outside : Bool) (source partition step : Nat) (purpose : Purpose) :
    (storeLocal p a b poison outside source partition step purpose).1.parts = p.parts := by
  unfold storeLocal
  dsimp only
  split
  case isTrue => exact noteAccess_parts _ _ _
  case isFalse =>
    split
    case isTrue => exact (foldl_parts (sendPart_parts _) _ _).trans (markDirty_parts _ _ _)
    case isFalse =>
      split
      case isTrue => exact storeNow_parts _ _ _ _
      case isFalse => exact foldl_parts (storePart_parts _) _ _

/-- Noting what became of a write touches at most the failed write's status. -/
theorem noteWrite_sc (pp : Nat) (r : Pkg × Nat) :
    ∃ failed, (part (noteWrite pp r) pp).sc = { (part r.1 pp).sc with writeFailed := failed } := by
  unfold noteWrite
  split
  · exact ⟨_, rfl⟩
  · exact ⟨_, by rw [part_modSc]⟩

end Sys2Proof.Machine
end

section
/-! Row masks and length tables (R198, R200). -/

namespace Sys2Proof.Machine

/-- A set of rows with more rows in it (R200). -/
def addRows (m l : List Nat) : List Nat := m ++ l.filter (fun r => !m.contains r)

theorem mem_addRows {m l : List Nat} {r : Nat} : r ∈ addRows m l ↔ r ∈ m ∨ r ∈ l := by
  have hnew : r ∈ l.filter (fun r => !m.contains r) ↔ r ∈ l ∧ r ∉ m := by simp
  rw [addRows, List.mem_append, hnew]
  tauto

theorem maskRows_sc (p : Pkg) (pp : Nat) (gen pre : List Nat) :
    (part (maskRows p pp gen pre) pp).sc
      = { (part p pp).sc with masks := [addRows (maskOf p pp 0) gen, addRows (maskOf p pp 1) pre] } := by
  unfold maskRows
  rw [part_touch, part_modSc]
  rfl

/-- Rows masked at either engine are those masked before and the new ones (R200). -/
theorem mem_maskOf_maskRows (p : Pkg) (pp : Nat) (gen pre : List Nat) (r : Nat) :
    (r ∈ maskOf (maskRows p pp gen pre) pp 0 ↔ r ∈ maskOf p pp 0 ∨ r ∈ gen)
    ∧ (r ∈ maskOf (maskRows p pp gen pre) pp 1 ↔ r ∈ maskOf p pp 1 ∨ r ∈ pre) := by
  have hmask : ∀ e, maskOf (maskRows p pp gen pre) pp e = [addRows (maskOf p pp 0) gen, addRows (maskOf p pp 1) pre].getD e [] := fun e => by
    rw [maskOf, maskRows_sc]
  rw [hmask, hmask]
  exact ⟨mem_addRows, mem_addRows⟩

theorem stepAhead_self (a : Nat) : stepAhead a a = false := by simp [stepAhead]

/-- Notices that apply touch the masks alone. -/
theorem applyNotices_sc (p : Pkg) (pp e step : Nat) :
    ∃ masks, (part (applyNotices p pp e step) pp).sc = { (part p pp).sc with masks } := by
  unfold applyNotices
  generalize (part p pp).sc.notices = l
  induction l generalizing p with
  | nil => exact ⟨_, rfl⟩
  | cons x l ih =>
    obtain ⟨masks, h⟩ := ih (if x.1 = step then maskRows p pp (if e = 0 then x.2.1 else []) (if e = 1 then x.2.2 else []) else p)
    refine ⟨masks, h.trans ?_⟩
    split
    · rw [maskRows_sc]
    · rfl

theorem sendTable_parts (p : Pkg) (pp e step : Nat) (table tokens : Bytes) : (sendTable p pp e step table tokens).parts = p.parts := by
  unfold sendTable
  split
  · rfl
  · exact emits_keep Pkg.parts (fun _ _ => rfl) _ _ _

/-- The package when a table and its tokens have been written to the table area, where there is a table (R198). -/
def tableStored (p : Pkg) (pp e step : Nat) (table tokens : Bytes) : Pkg :=
  let a := tableAddr p pp e step
  if table.isEmpty then p
  else noteWrite pp (storeLocal (noteWrite pp (storeLocal p a table false false 0x090 0xFF step)) (a + 0x20040) tokens false false 0x090 0xFF step)

theorem tableStored_sc (p : Pkg) (pp e step : Nat) (table tokens : Bytes) :
    ∃ failed, (part (tableStored p pp e step table tokens) pp).sc = { (part p pp).sc with writeFailed := failed } := by
  unfold tableStored
  dsimp only
  split
  · exact ⟨_, rfl⟩
  · obtain ⟨failed, h⟩ := noteWrite_sc pp (storeLocal p (tableAddr p pp e step) table false false 0x090 0xFF step)
    obtain ⟨failed', h'⟩ := noteWrite_sc pp (storeLocal (noteWrite pp (storeLocal p (tableAddr p pp e step) table false false 0x090 0xFF step))
      (tableAddr p pp e step + 0x20040) tokens false false 0x090 0xFF step)
    refine ⟨failed', h'.trans ?_⟩
    rw [part_of_parts (storeLocal_parts _ _ _ _ _ _ _ _ _), h, part_of_parts (storeLocal_parts _ _ _ _ _ _ _ _ _)]

/-- Of two engines' values, one's replaced. -/
def setEngine {α : Type} (e : Nat) (d : α) (l : List α) (x : α) : List α := if e = 0 then [x, l.getD 1 d] else [l.getD 0 d, x]

theorem setEngine_getD {α : Type} (e : Fin 2) (d : α) (l : List α) (x : α) : (setEngine e d l x).getD e d = x := by
  match e with
  | 0 => rfl
  | 1 => rfl

/-- What putting a table changes of the scheduler's state: the engine's table, tokens, step and mask (R198, R200), and at most the status of a
failed write. -/
theorem putTable_sc (p : Pkg) (pp e step : Nat) (table tokens : Bytes) :
    ∃ failed, (part (putTable p pp e step table tokens) pp).sc = { (part p pp).sc with
      writeFailed := failed
      tables := setEngine e [] (part p pp).sc.tables table
      tokens := setEngine e [] (part p pp).sc.tokens tokens
      tableSteps := setEngine e 0 (part p pp).sc.tableSteps step
      masks := setEngine e [] (part p pp).sc.masks (if (part p pp).sc.tableSteps.getD e 0 = step then maskOf p pp e else []) } := by
  obtain ⟨failed, h⟩ := tableStored_sc p pp e step table tokens
  refine ⟨failed, ?_⟩
  unfold putTable
  rw [part_touch, part_modSc]
  dsimp only
  rw [← tableStored, maskOf, h]
  rfl

end Sys2Proof.Machine
end

section
/-! What arrives for a step: token records, counts, cancel notices and length tables (O18). -/

namespace Sys2Proof.Machine

/-- A count of the running step that is its package's first is noted, and with audit lag 0 the package's records go out (R193, R229). -/
theorem takeCount_first {p : Pkg} {pp package : Nat} (count : Nat) (hrun : (part p pp).pc.stepRunning = true)
    (hfirst : ∀ c ∈ (part p pp).sc.counts, c.1 ≠ package) :
    takeCount p pp package (stepOf p pp) count =
      let noted := modSc p pp (fun q => { q with counts := q.counts ++ [(package, count)] })
      if (part p pp).se.stepLag0 then
        emitRecords noted pp (((part p pp).sc.forwarded.filter (fun f => f.1 == package)).map (·.2)) true
      else noted := by
  have hany : (part p pp).sc.counts.any (fun c => c.1 == package) = false :=
    List.any_eq_false.mpr fun c hc => by simpa using hfirst c hc
  unfold takeCount
  rw [if_neg (by rw [hrun, hany]; simp)]
  dsimp only
  rw [part_modSc]

theorem startWaiting_other {p : Pkg} {pp step : Nat} (hother : ∀ n, (part p pp).sc.starting = some n → n.step ≠ step) :
    startWaiting p pp step = p := by
  unfold startWaiting
  split
  case h_1 n hn => exact if_neg (hother n hn)
  case h_2 => rfl

theorem startWaiting_its {p : Pkg} {pp step : Nat} {n : StepNotice} (hwaits : (part p pp).sc.starting = some n) (hstep : n.step = step) :
    startWaiting p pp step = memberReady p pp n := by
  unfold startWaiting
  rw [hwaits]
  exact if_pos hstep

section
variable (p : Pkg) (pp : Nat) (engine : Fin 2) (step : Nat) (table tokens : Bytes)

/-- A length table that has arrived is in force for its engine and step, with an empty mask where the step is new (R198, R200). -/
theorem putTable_inForce :
    let q := putTable p pp engine step table tokens
    tableOf q pp engine = table ∧ (part q pp).sc.tokens.getD engine [] = tokens ∧ (part q pp).sc.tableSteps.getD engine 0 = step
    ∧ ((part p pp).sc.tableSteps.getD engine 0 ≠ step → maskOf q pp engine = [])
    ∧ (part q pp).sc.starting = (part p pp).sc.starting := by
  obtain ⟨failed, h⟩ := putTable_sc p pp engine step table tokens
  dsimp only
  rw [tableOf, maskOf, h]
  refine ⟨setEngine_getD _ _ _ _, setEngine_getD _ _ _ _, setEngine_getD _ _ _ _, fun hnew => ?_, rfl⟩
  dsimp only
  rw [setEngine_getD, if_neg hnew]

/-- The table's way on leaves the notice that waits (R198). -/
theorem starting_sendTable_applyNotices :
    (part (sendTable (applyNotices p pp engine step) pp engine step table tokens) pp).sc.starting = (part p pp).sc.starting := by
  obtain ⟨masks, h⟩ := applyNotices_sc p pp engine step
  rw [part_of_parts (sendTable_parts _ _ _ _ _ _), h]

end

/-- A length table that reaches a member that does not lead (R198, R200). -/
theorem execLengthTableArrival_member {s : State} {pp : Fin 12} (engine : Fin 2) (step : Nat) (table tokens : Bytes)
    (hp : powered s.pkg = true) (hmember : isLead s.pkg pp = false) :
    Completes (.lengthTableArrival pp engine step table tokens) s (fun q =>
      q = startWaiting (sendTable (applyNotices (putTable (begun s) pp engine step table tokens) pp engine step) pp engine step table tokens)
        pp step) := by
  refine completes_of hp (exec_lengthTableArrival pp engine step table tokens s) ?_
  exact if_neg (by rw [show isLead (begun s) pp = false from hmember]; decide)

/-- Settles O18, by what arrives. -/
theorem stepArrivalsComplete : Obligations.StepArrivalsComplete := by
  unfold Obligations.StepArrivalsComplete
  refine ⟨fun s pp hp => ⟨fun package record hlead hrun hgood => ?record, fun package count hlead hrun hgood hfirst => ?count,
      fun step gen pre hhere => ?here, fun step gen pre hlater => ?later⟩,
    fun s pp engine step table tokens hp hmember => ?table⟩
  case record =>
    refine completes_of hp (exec_tokenRecordForward pp package record s) ?_
    rw [if_pos (by rw [show isLead (begun s) pp = true from hlead, part_begun, hrun, hgood]; rfl), part_modSc]
    exact ⟨rfl, rfl, rfl⟩
  case count =>
    refine completes_of hp (exec_samplerCountArrival pp package _ count s) ?_
    rw [if_pos (by rw [show isLead (begun s) pp = true from hlead, part_begun, hgood]; rfl)]
    refine ⟨modSc (begun s) pp (fun q => { q with counts := q.counts ++ [(package, count)] }), ?_, rfl, rfl, fun hlag => ?_, fun hlag => ?_⟩
    · rw [part_modSc]
      rfl
    · exact (takeCount_first (p := begun s) count hrun hfirst).trans (if_neg (by rw [part_begun, hlag]; decide))
    · exact (takeCount_first (p := begun s) count hrun hfirst).trans (if_pos hlag)
  case here =>
    have hexec : Completes (.cancelNoticeArrival pp step gen pre) s (fun q => q = maskRows (begun s) pp gen pre) := by
      refine completes_of hp (exec_cancelNoticeArrival pp step gen pre s) ?_
      simp only [part_begun, hhere 0 (by decide), hhere 1 (by decide), stepAhead_self, Bool.or_self, Bool.false_eq_true, if_false,
        beq_self_eq_true, if_true]
    refine hexec.mono ?_
    rintro q rfl
    exact ⟨fun r => (mem_maskOf_maskRows (begun s) pp gen pre r).1, fun r => (mem_maskOf_maskRows (begun s) pp gen pre r).2⟩
  case later =>
    refine completes_of hp (exec_cancelNoticeArrival pp step gen pre s) ?_
    dsimp only
    rw [part_begun, if_pos (by rw [hlater 0 (by decide), Bool.true_or]), part_modSc, maskRows_sc]
    rfl
  case table =>
    have hexec := execLengthTableArrival_member engine step table tokens hp hmember
    have hstarting := starting_sendTable_applyNotices (putTable (begun s) pp engine step table tokens) pp engine step table tokens
    obtain ⟨htable, htokens, hstep, hmask, hwaits⟩ := putTable_inForce (begun s) pp engine step table tokens
    refine ⟨fun hother => hexec.mono ?_, fun n hn hits => hexec.mono ?_⟩
    · rintro q rfl
      refine ⟨_, htable, htokens, hstep, hmask, startWaiting_other ?_⟩
      rw [hstarting, hwaits]
      exact hother
    · rintro q rfl
      exact ⟨_, htable, htokens, hstep, hwaits.trans hn, startWaiting_its (hstarting.trans (hwaits.trans hn)) hits⟩

end Sys2Proof.Machine
end

section
/-! Step notices (O20). -/

namespace Sys2Proof.Machine

theorem startAgain_begins (p : Pkg) (pp : Nat) (n : StepNotice) (hpp : pp < 256) : ∃ r, Begins r pp n true (startAgain p pp n) := by
  obtain ⟨r, -, hbegins⟩ := startStep_begins _ pp n true hpp
  exact ⟨r, hbegins⟩

/-- A member's step begins, unless a write of serving state has failed before its blocks start (R16, R199, R536). -/
theorem memberStart_begins (p : Pkg) (pp : Nat) (n : StepNotice) (hpp : pp < 256) :
    (∃ r, Begins r pp n false (memberStart p pp n)) ∨ (part (memberStart p pp n) pp).sc.writeFailed.isSome = true := by
  unfold memberStart
  dsimp only
  generalize memberPages _ pp = ready
  split
  case isTrue hfailed => exact .inr hfailed
  case isFalse =>
    obtain ⟨r, -, hbegins⟩ := startStep_begins ready pp n false hpp
    exact .inl ⟨r, hbegins⟩

/-- The lead's own notice, in a partition that may run, begins the step, or begins the running one again (R198, R445). -/
theorem leadNotice_begins {p : Pkg} {pp : Nat} {n : StepNotice} (hpp : pp < 256) (hstate : pcState p pp = 2)
    (hwhole : versionsWhole p pp = true) (hsent : (part p pp).sc.starting = some n) :
    ∃ r, Begins r pp n (part p pp).pc.stepRunning (leadNotice p pp n) := by
  unfold leadNotice
  rw [hsent]
  dsimp only
  rw [if_pos rfl, leadRuns, if_neg (by rw [hstate, hwhole]; decide)]
  cases hrun : (part p pp).pc.stepRunning with
  | true =>
    rw [if_pos rfl]
    exact startAgain_begins _ pp n hpp
  | false =>
    rw [if_neg Bool.false_ne_true]
    obtain ⟨r, -, hbegins⟩ := startStep_begins p pp n false hpp
    exact ⟨r, hbegins⟩

/-- What passing a notice on and keeping it for the deputy leave: everything that decides whether the notice's step begins. -/
structure NoticeKeeps (p q : Pkg) (pp : Nat) : Prop where
  dict : q.dict = p.dict
  wm : q.wm = p.wm
  pc : (part q pp).pc = (part p pp).pc
  ru : (part q pp).ru = (part p pp).ru
  tableSteps : (part q pp).sc.tableSteps = (part p pp).sc.tableSteps

theorem NoticeKeeps.trans {p q r : Pkg} {pp : Nat} (h : NoticeKeeps p q pp) (g : NoticeKeeps q r pp) : NoticeKeeps p r pp where
  dict := g.dict.trans h.dict
  wm := g.wm.trans h.wm
  pc := g.pc.trans h.pc
  ru := g.ru.trans h.ru
  tableSteps := g.tableSteps.trans h.tableSteps

theorem passNotice_keeps (p : Pkg) (pp : Nat) (n : StepNotice) : NoticeKeeps p (passNotice p pp n) pp := by
  have hparts : (passNotice p pp n).parts = p.parts := emits_keep Pkg.parts (fun _ _ => rfl) _ _ _
  have hpart := part_of_parts hparts pp
  exact ⟨emits_keep Pkg.dict (fun _ _ => rfl) _ _ _, emits_keep Pkg.wm (fun _ _ => rfl) _ _ _, by rw [hpart], by rw [hpart], by rw [hpart]⟩

theorem keepForDeputy_keeps (p : Pkg) (pp : Nat) (n : StepNotice) : NoticeKeeps p (keepForDeputy p pp n) pp := by
  unfold keepForDeputy
  split
  · exact ⟨rfl, rfl, by rw [part_modSc], by rw [part_modSc], by rw [part_modSc]⟩
  · exact ⟨rfl, rfl, rfl, rfl, rfl⟩

section
variable {p q : Pkg} {pp : Nat} (h : NoticeKeeps p q pp)
include h

theorem NoticeKeeps.pcState : pcState q pp = pcState p pp := rd_of_dict h.dict _ _

theorem NoticeKeeps.stepOf : stepOf q pp = stepOf p pp := rd_of_dict h.dict _ _

theorem NoticeKeeps.versionsWhole : versionsWhole q pp = versionsWhole p pp := by
  have hread := rd_of_dict h.dict
  simp only [Machine.versionsWhole, draftVersion, h.wm, hread]

theorem NoticeKeeps.tablesHere (n : StepNotice) : tablesHere q pp n = tablesHere p pp n := by
  simp only [Machine.tablesHere, h.tableSteps]

end

section
variable {p : Pkg} {pp : Nat} {n : StepNotice} (hpp : pp < 256) (hstate : pcState p pp = 2) (hwhole : versionsWhole p pp = true)
  (hhere : tablesHere p pp n = true)

section
include hstate hwhole hhere

/-- A notice that need not wait is taken: that of the rolled-back running step begins it again, and any other one starts its step (R198, R445). -/
theorem memberReady_takes :
    memberReady p pp n =
      let taken := modSc p pp (fun q => { q with starting := none })
      if (part p pp).pc.stepRunning ∧ (part p pp).ru.poison.isSome ∧ n.step = stepOf p pp then startAgain taken pp n else memberStart taken pp n :=
  if_pos ⟨hstate, hwhole, hhere⟩

end

include hpp hstate hwhole hhere

theorem memberReady_again (hrun : (part p pp).pc.stepRunning = true) (hbad : (part p pp).ru.poison.isSome = true) (hstep : n.step = stepOf p pp) :
    ∃ r, Begins r pp n true (memberReady p pp n) := by
  rw [memberReady_takes hstate hwhole hhere]
  dsimp only
  rw [if_pos ⟨hrun, hbad, hstep⟩]
  exact startAgain_begins _ pp n hpp

theorem memberReady_starts (hidle : (part p pp).pc.stepRunning = false) :
    (∃ r, Begins r pp n false (memberReady p pp n)) ∨ (part (memberReady p pp n) pp).sc.writeFailed.isSome = true := by
  rw [memberReady_takes hstate hwhole hhere]
  dsimp only
  rw [if_neg (by rw [hidle]; simp)]
  exact memberStart_begins _ pp n hpp

end

section
variable {p : Pkg} {pp : Nat} {n : StepNotice} (hstate : pcState p pp = 2)
include hstate

/-- In state 2, the notice of the rolled-back running step is the member's to take (R445). -/
theorem memberNotice_rolledBack (hrun : (part p pp).pc.stepRunning = true) (hbad : (part p pp).ru.poison.isSome = true)
    (hstep : n.step = stepOf p pp) : memberNotice p pp n = memberReady (keepForDeputy p pp n) pp n := by
  unfold memberNotice
  dsimp only
  rw [if_neg (by omega), if_pos ⟨hrun, hbad⟩, if_pos (hstep.trans (keepForDeputy_keeps p pp n).stepOf.symm)]

/-- In state 2, with no step running and neither a stop nor a pause waiting, so is any other: there is no step to close, no power pause to
leave and nothing to settle at the boundary (R198, R416). -/
theorem memberNotice_idle (hidle : (part p pp).pc.stepRunning = false) (hstop : (part p pp).pc.stopPending = false)
    (hpause : (part p pp).pc.pausePending = false) : memberNotice p pp n = memberReady (keepForDeputy p pp n) pp n := by
  have hkept := (keepForDeputy_keeps p pp n).pcState.trans hstate
  unfold memberNotice
  simp [hstate, hidle, hstop, hpause, hkept]

end

/-- Settles O20, by whether the package leads and by whether a step runs. Two of its clauses are choices of the model: the lead begins on its
own notice (entry 68 of its log), and the replica rounds start with a step and not with its recomputation (entry 123). -/
theorem noticeStartsStep : Obligations.NoticeStartsStep := by
  unfold Obligations.NoticeStartsStep
  intro s pp n hp hstate hwhole
  have hpp : pp.val < 256 := by omega
  have hpassed := passNotice_keeps (begun s) pp n
  have hkept := hpassed.trans (keepForDeputy_keeps (passNotice (begun s) pp n) pp n)
  have hstate' := hkept.pcState.trans hstate
  have hwhole' := hkept.versionsWhole.trans hwhole
  refine ⟨fun hlead hsent => ?lead, fun hmember hhere hrun hbad hstep => ?again, fun hmember hhere hidle hstop hpause => ?starts⟩
  case lead =>
    refine completes_of hp (exec_stepNoticeArrival pp n s) ?_
    rw [if_pos (show isLead (begun s) pp = true from hlead)]
    exact leadNotice_begins (p := begun s) hpp hstate hwhole hsent
  case again =>
    refine completes_of hp (exec_stepNoticeArrival pp n s) ?_
    rw [if_neg (by rw [show isLead (begun s) pp = false from hmember]; decide),
      memberNotice_rolledBack (hpassed.pcState.trans hstate) (by rw [hpassed.pc]; exact hrun) (by rw [hpassed.ru]; exact hbad)
        (hstep.trans hpassed.stepOf.symm)]
    exact memberReady_again hpp hstate' hwhole' ((hkept.tablesHere n).trans hhere) (by rw [hkept.pc]; exact hrun) (by rw [hkept.ru]; exact hbad)
      (hstep.trans hkept.stepOf.symm)
  case starts =>
    refine completes_of hp (exec_stepNoticeArrival pp n s) ?_
    rw [if_neg (by rw [show isLead (begun s) pp = false from hmember]; decide),
      memberNotice_idle (hpassed.pcState.trans hstate) (by rw [hpassed.pc]; exact hidle) (by rw [hpassed.pc]; exact hstop)
        (by rw [hpassed.pc]; exact hpause)]
    exact memberReady_starts hpp hstate' hwhole' ((hkept.tablesHere n).trans hhere) (by rw [hkept.pc]; exact hidle)

end Sys2Proof.Machine
end

section
/-! The word code is linear: check bits, syndrome and parity of an XOR are the XORs of those of its sides. -/

namespace Sys2Proof.Machine

theorem parity_eq_foldl {w : Nat} (v : BitVec w) (n : Nat) : parity v n = (List.range n).foldl (fun b i => b != v.getLsbD i) false := by
  induction n with
  | zero => rfl
  | succ n ih => rw [List.range_succ, List.foldl_append, ← ih]; exact Bool.xor_comm _ _

theorem parity_congr {w w' : Nat} {a : BitVec w} {b : BitVec w'} {n : Nat} (h : ∀ i < n, a.getLsbD i = b.getLsbD i) : parity a n = parity b n := by
  induction n with
  | zero => rfl
  | succ n ih => simp only [parity, h n (by omega), ih (fun i hi => h i (by omega))]

theorem parity_xor {w : Nat} (a b : BitVec w) (n : Nat) : parity (a ^^^ b) n = (parity a n != parity b n) := by
  induction n with
  | zero => rfl
  | succ n ih =>
    simp only [parity, ih, BitVec.getLsbD_xor, Bool.bne_eq_xor, Bool.xor_assoc, Bool.xor_left_comm]

/-- Parity of a string of bits in two pieces. -/
theorem parity_add {w : Nat} (v : BitVec w) (m n : Nat) : parity v (m + n) = (parity v m != parity (v >>> m) n) := by
  induction n with
  | zero => simp [parity]
  | succ n ih =>
    rw [← Nat.add_assoc]
    simp only [parity, ih, BitVec.getLsbD_ushiftRight, Bool.bne_eq_xor, Bool.xor_left_comm]

theorem parity_of_single {w : Nat} {v : BitVec w} {i n : Nat} (h : ∀ j < n, v.getLsbD j = decide (j = i)) : parity v n = decide (i < n) := by
  induction n with
  | zero => rfl
  | succ n ih =>
    simp only [parity, ih (fun j hj => h j (by omega)), h n (by omega)]
    by_cases hn : n = i
    · simp [hn]
    · simp [hn]
      omega

/-- Parity of one bit under a mask. -/
theorem parity_and_of_single {w : Nat} {v : BitVec w} {i n : Nat} (m : BitVec w) (h : ∀ j < n, v.getLsbD j = decide (j = i)) :
    parity (v &&& m) n = (decide (i < n) && m.getLsbD i) := by
  induction n with
  | zero => simp [parity]
  | succ n ih =>
    simp only [parity, ih (fun j hj => h j (by omega)), BitVec.getLsbD_and, h n (by omega)]
    by_cases hn : n = i
    · simp [hn]
    · have : i < n + 1 ↔ i < n := by omega
      simp [hn, this]

theorem parity_iff_ones {w : Nat} (v : BitVec w) (n : Nat) : parity v n = true ↔ ones v n % 2 = 1 := by
  induction n with
  | zero => simp [parity, ones]
  | succ n ih =>
    by_cases hbit : v.getLsbD n = true
    · simp only [parity, ones, hbit, if_true, Bool.true_bne, Bool.not_eq_true', ← Bool.not_eq_true, ih]
      omega
    · simpa [parity, ones, hbit] using ih

theorem ones_eq_filter {w : Nat} (v : BitVec w) (n : Nat) : ones v n = ((List.range n).filter (fun i => v.getLsbD i)).length := by
  induction n with
  | zero => rfl
  | succ n ih => rw [List.range_succ, List.filter_append, List.length_append, ← ih]; simp [ones, List.filter_cons]; split <;> rfl

theorem getLsbD_of_ones_zero {w : Nat} {v : BitVec w} {n : Nat} (h : ones v n = 0) : ∀ j < n, v.getLsbD j = false := by
  rw [ones_eq_filter, List.length_eq_zero_iff, List.filter_eq_nil_iff] at h
  exact fun j hj => by simpa using h j (List.mem_range.2 hj)

theorem getLsbD_of_ones_one {w : Nat} {v : BitVec w} {n : Nat} (h : ones v n = 1) : ∃ i < n, ∀ j < n, v.getLsbD j = decide (j = i) := by
  rw [ones_eq_filter, List.length_eq_one_iff] at h
  obtain ⟨i, hi⟩ := h
  have hmem : ∀ j, (j < n ∧ v.getLsbD j = true) ↔ j = i := fun j => by
    rw [← List.mem_range, ← List.mem_filter (p := fun i => v.getLsbD i), hi, List.mem_singleton]
  refine ⟨i, ((hmem i).2 rfl).1, fun j hj => ?_⟩
  by_cases hji : j = i
  · simpa [hji] using ((hmem i).2 rfl).2
  · have := mt (hmem j).1 hji
    simp_all

/-- A number made of chosen powers of two has the chosen bits. -/
theorem testBit_foldl_two_pow (f : Nat → Bool) (n : Nat) :
    (List.range n).foldl (fun m k => if f k then m + 2 ^ k else m) 0 < 2 ^ n
    ∧ ∀ k, ((List.range n).foldl (fun m k => if f k then m + 2 ^ k else m) 0).testBit k = (decide (k < n) && f k) := by
  induction n with
  | zero => simp
  | succ n ih =>
    rw [List.range_succ, List.foldl_append]
    generalize (List.range n).foldl (fun m k => if f k then m + 2 ^ k else m) 0 = m at ih ⊢
    obtain ⟨hlt, hbits⟩ := ih
    simp only [List.foldl_cons, List.foldl_nil, Nat.pow_succ]
    refine ⟨by split <;> omega, fun k => ?_⟩
    rcases Nat.lt_trichotomy k n with hk | rfl | hk
    · have hlow : (if f n then m + 2 ^ n else m).testBit k = m.testBit k := by
        split
        · rw [Nat.add_comm, Nat.testBit_two_pow_add_gt hk]
        · rfl
      rw [hlow, hbits, decide_eq_true hk, decide_eq_true (by omega : k < n + 1)]
    · cases hf : f k <;> simp [hf, hbits, Nat.add_comm m, Nat.testBit_two_pow_add_eq]
    · have hhigh : (if f n then m + 2 ^ n else m) < 2 ^ k := by
        have := Nat.pow_le_pow_right (n := 2) (by omega) hk
        rw [Nat.pow_succ] at this
        split <;> omega
      rw [Nat.testBit_lt_two_pow hhigh, decide_eq_false (by omega : ¬ k < n + 1), Bool.false_and]

theorem getLsbD_checkBits (d : Word) {k : Nat} (hk : k < 6) : (checkBits d).getLsbD k = parity (d &&& checkMask k) 32 := by
  unfold checkBits
  rw [BitVec.getLsbD_ofNat, (testBit_foldl_two_pow (fun k => parity (d &&& checkMask k) 32) 6).2]
  simp [hk]

theorem checkBits_xor (a b : Word) : checkBits (a ^^^ b) = checkBits a ^^^ checkBits b := by
  refine BitVec.eq_of_getLsbD_eq fun k hk => ?_
  have hmasked : (a ^^^ b) &&& checkMask k = (a &&& checkMask k) ^^^ (b &&& checkMask k) := by
    ext i
    simp [Bool.and_xor_distrib_right]
  rw [BitVec.getLsbD_xor, getLsbD_checkBits _ hk, getLsbD_checkBits _ hk, getLsbD_checkBits _ hk, hmasked, parity_xor]

/-- The mask of check bit `k` has the data bits whose code position has bit `k` (R243). -/
theorem getLsbD_checkMask : ∀ k < 6, ∀ i < 32, (checkMask k).getLsbD i = (codePositions.getD i 0).testBit k := by
  decide

end Sys2Proof.Machine
end

section
/-! The stored word of clean data, bit by bit (O7). -/

namespace Sys2Proof.Machine

/-- The stored word is POISON and PAR, CHK and DATA side by side (R243). -/
theorem encodeWord_eq_append (d : Word) :
    encodeWord d = ((BitVec.ofBool (parity d 32 != parity (checkBits d) 6)).setWidth 2 ++ checkBits d ++ d).cast (by rfl) := by
  apply BitVec.eq_of_toNat_eq
  have hd := d.isLt
  have hc := (checkBits d).isLt
  unfold encodeWord
  simp only [BitVec.toNat_cast, BitVec.toNat_append, BitVec.toNat_ofNat]
  rw [← Nat.shiftLeft_add_eq_or_of_lt hc, ← Nat.shiftLeft_add_eq_or_of_lt hd]
  cases parity d 32 != parity (checkBits d) 6 <;> simp [Nat.shiftLeft_eq] <;> omega

theorem getLsbD_encodeWord (d : Word) {i : Nat} (hi : i < 40) : (encodeWord d).getLsbD i
    = if i < 32 then d.getLsbD i else if i < 38 then (checkBits d).getLsbD (i - 32) else decide (i = 38) && (parity d 32 != parity (checkBits d) 6) := by
  rw [encodeWord_eq_append, BitVec.getLsbD_cast, BitVec.getLsbD_append, BitVec.getLsbD_append]
  split
  · rfl
  · rw [if_congr (show i - 32 < 6 ↔ i < 38 by omega) rfl rfl]
    split
    · rfl
    · rw [BitVec.getLsbD_setWidth, BitVec.getLsbD_ofBool, decide_eq_true (by omega : i - 32 - 6 < 2), Bool.true_and,
        decide_eq_decide.2 (show i - 32 - 6 = 0 ↔ i = 38 by omega)]

theorem getLsbD_encodeWord_data (d : Word) {i : Nat} (hi : i < 32) : (encodeWord d).getLsbD i = d.getLsbD i := by
  rw [getLsbD_encodeWord d (by omega), if_pos hi]

theorem getLsbD_encodeWord_check (d : Word) {k : Nat} (hk : k < 6) : (encodeWord d).getLsbD (32 + k) = (checkBits d).getLsbD k := by
  rw [getLsbD_encodeWord d (by omega), if_neg (by omega), if_pos (by omega), Nat.add_sub_cancel_left]

theorem encodeWord_data (d : Word) : (encodeWord d).setWidth 32 = d := by
  refine BitVec.eq_of_getLsbD_eq fun i hi => ?_
  rw [BitVec.getLsbD_setWidth, getLsbD_encodeWord_data d hi, decide_eq_true hi, Bool.true_and]

theorem encodeWord_check (d : Word) : (encodeWord d >>> 32).setWidth 6 = checkBits d := by
  refine BitVec.eq_of_getLsbD_eq fun k hk => ?_
  rw [BitVec.getLsbD_setWidth, BitVec.getLsbD_ushiftRight, getLsbD_encodeWord_check d hk, decide_eq_true hk, Bool.true_and]

theorem encodeWord_poison (d : Word) : (encodeWord d).getLsbD 39 = false := by
  rw [getLsbD_encodeWord d (by omega)]
  rfl

/-- DATA and CHK have the parity that PAR makes even. -/
theorem parity_encodeWord_body (d : Word) : parity (encodeWord d) 38 = (encodeWord d).getLsbD 38 := by
  have hdata : parity (encodeWord d) 32 = parity d 32 := parity_congr fun i hi => getLsbD_encodeWord_data d hi
  have hcheck : parity (encodeWord d >>> 32) 6 = parity (checkBits d) 6 :=
    parity_congr fun k hk => by rw [BitVec.getLsbD_ushiftRight, getLsbD_encodeWord_check d hk]
  rw [parity_add (encodeWord d) 32 6, hdata, hcheck, getLsbD_encodeWord d (by omega)]
  rfl

theorem parity_encodeWord (d : Word) : parity (encodeWord d) 39 = false := by
  rw [parity, parity_encodeWord_body, bne_self_eq_false]

/-- A check bit is the XOR of the data bits whose code position has its bit (R243). -/
theorem getLsbD_checkBits_eq_foldl (d : Word) {k : Nat} (hk : k < 6) :
    (checkBits d).getLsbD k
      = ((List.range 32).filter (fun i => (codePositions.getD i 0).testBit k)).foldl (fun b i => b != d.getLsbD i) false := by
  rw [getLsbD_checkBits d hk, parity_eq_foldl, List.foldl_filter]
  refine List.foldl_ext _ _ _ fun b i hi => ?_
  rw [BitVec.getLsbD_and, getLsbD_checkMask k hk i (List.mem_range.1 hi)]
  split <;> simp_all

/-- Powers of two beyond the sixth lie beyond the code positions. -/
theorem ne_two_pow_of_le {q : Nat} (hq : q ≤ 38) (h : ∀ k < 6, q ≠ 2 ^ k) (k : Nat) : q ≠ 2 ^ k := by
  rcases Nat.lt_or_ge k 6 with hk | hk
  · exact h k hk
  · have : 2 ^ 6 ≤ 2 ^ k := Nat.pow_le_pow_right (by omega) hk
    omega

theorem mem_codePositions (q : Nat) : q ∈ codePositions ↔ 3 ≤ q ∧ q ≤ 38 ∧ ∀ k, q ≠ 2 ^ k := by
  have hlisted : ∀ q ∈ codePositions, 3 ≤ q ∧ q ≤ 38 ∧ ∀ k < 6, q ≠ 2 ^ k := by decide
  have hall : ∀ q < 39, 3 ≤ q → (∀ k < 6, q ≠ 2 ^ k) → q ∈ codePositions := by decide
  constructor
  · intro hq
    obtain ⟨hlow, hhigh, hpow⟩ := hlisted q hq
    exact ⟨hlow, hhigh, ne_two_pow_of_le hhigh hpow⟩
  · rintro ⟨hlow, hhigh, hpow⟩
    exact hall q (by omega) hlow fun k _ => hpow k

/-- Settles O7, bit by bit. -/
theorem wordsEncoded : Obligations.WordsEncoded := by
  unfold Obligations.WordsEncoded
  refine ⟨by decide, by decide, mem_codePositions, fun d => ⟨fun i hi => getLsbD_encodeWord_data d hi, fun k hk => ?_, ?_, encodeWord_poison d⟩⟩
  · rw [getLsbD_encodeWord_check d hk, getLsbD_checkBits_eq_foldl d hk]
  · rw [← parity_eq_foldl, parity_encodeWord_body]

end Sys2Proof.Machine
end

section
/-! What a reader makes of a stored word: its syndrome, its parity and its distance from the poison pattern (O8, O9). -/

namespace Sys2Proof.Machine

/-- `s` of R244: the check bits of DATA against CHK. -/
def syndrome (w : StoredWord) : BitVec 6 := checkBits (w.setWidth 32) ^^^ (w >>> 32).setWidth 6

theorem syndrome_xor (a b : StoredWord) : syndrome (a ^^^ b) = syndrome a ^^^ syndrome b := by
  unfold syndrome
  rw [BitVec.setWidth_xor, checkBits_xor, BitVec.ushiftRight_xor_distrib, BitVec.setWidth_xor]
  ac_rfl

theorem getLsbD_syndrome (w : StoredWord) {k : Nat} (hk : k < 6) :
    (syndrome w).getLsbD k = ((checkBits (w.setWidth 32)).getLsbD k != w.getLsbD (32 + k)) := by
  simp [syndrome, hk, Bool.bne_eq_xor]

/-- The syndrome reads DATA and CHK alone. -/
theorem syndrome_congr {a b : StoredWord} (h : ∀ i < 38, a.getLsbD i = b.getLsbD i) : syndrome a = syndrome b := by
  have hdata : a.setWidth 32 = b.setWidth 32 := BitVec.eq_of_getLsbD_eq fun i hi => by
    rw [BitVec.getLsbD_setWidth, BitVec.getLsbD_setWidth, h i (by omega)]
  refine BitVec.eq_of_getLsbD_eq fun k hk => ?_
  rw [getLsbD_syndrome a hk, getLsbD_syndrome b hk, hdata, h (32 + k) (by omega)]

theorem syndrome_encodeWord (d : Word) : syndrome (encodeWord d) = 0#6 := by
  rw [syndrome, encodeWord_data, encodeWord_check, BitVec.xor_self]

/-- Stored bit `i` alone. -/
def flip (i : Nat) : StoredWord := 1#40 <<< i

theorem getLsbD_flip {i : Nat} (hi : i < 40) (j : Nat) : (flip i).getLsbD j = decide (j = i) := by
  rw [flip, ← BitVec.twoPow_eq, BitVec.getLsbD_twoPow, decide_eq_true hi, Bool.true_and, decide_eq_decide]
  exact eq_comm

theorem parity_flip {i : Nat} (hi : i < 40) (n : Nat) : parity (flip i) n = decide (i < n) := parity_of_single fun j _ => getLsbD_flip hi j

/-- The syndrome of one flipped bit: the code position of a data bit, the power of two of a check bit, nothing for PAR and POISON. -/
def flipSyndrome (i : Nat) : Nat := if i < 32 then codePositions.getD i 0 else if i < 38 then 2 ^ (i - 32) else 0

theorem syndrome_flip {i : Nat} (hi : i < 40) : syndrome (flip i) = BitVec.ofNat 6 (flipSyndrome i) := by
  refine BitVec.eq_of_getLsbD_eq fun k hk => ?_
  have hcheck : (checkBits ((flip i).setWidth 32)).getLsbD k = (decide (i < 32) && (checkMask k).getLsbD i) := by
    rw [getLsbD_checkBits _ hk]
    refine parity_and_of_single _ fun j hj => ?_
    rw [BitVec.getLsbD_setWidth, getLsbD_flip hi, decide_eq_true hj, Bool.true_and]
  rw [getLsbD_syndrome _ hk, hcheck, getLsbD_flip hi, BitVec.getLsbD_ofNat, decide_eq_true hk, Bool.true_and, flipSyndrome]
  by_cases hdata : i < 32
  · rw [getLsbD_checkMask k hk i hdata, if_pos hdata, decide_eq_true hdata, decide_eq_false (by omega : ¬ 32 + k = i), Bool.true_and,
      Bool.bne_false]
  · by_cases hchk : i < 38
    · simp [hdata, hchk, Nat.testBit_two_pow]
      omega
    · simp [hdata, hchk]
      omega

/-- Flips of two different bits of [38:0] have different syndromes, all below 39. -/
theorem flipSyndrome_inj {i j : Nat} (hi : i < 39) (hj : j < 39) (h : flipSyndrome i = flipSyndrome j) : i = j :=
  have hnodup : ((List.range 39).map flipSyndrome).Nodup := by decide
  List.inj_on_of_nodup_map hnodup (List.mem_range.2 hi) (List.mem_range.2 hj) h

theorem flipSyndrome_lt : ∀ i < 40, flipSyndrome i < 39 := by decide

theorem syndrome_flip_toNat {i : Nat} (hi : i < 40) : (syndrome (flip i)).toNat = flipSyndrome i := by
  rw [syndrome_flip hi, BitVec.toNat_ofNat, Nat.mod_eq_of_lt]
  exact Nat.lt_trans (flipSyndrome_lt i hi) (by decide)

/-- Flips outside DATA leave it, and a flip inside it is undone by another. -/
theorem setWidth_flip {i : Nat} (hi : i < 40) : (flip i).setWidth 32 = if i < 32 then 1#32 <<< i else 0#32 := by
  refine BitVec.eq_of_getLsbD_eq fun j hj => ?_
  rw [BitVec.getLsbD_setWidth, getLsbD_flip hi, decide_eq_true hj, Bool.true_and]
  split
  · rw [← BitVec.twoPow_eq, BitVec.getLsbD_twoPow, decide_eq_true (by assumption : i < 32), Bool.true_and, decide_eq_decide]
    exact eq_comm
  · rw [BitVec.getLsbD_zero, decide_eq_false (by omega)]

end Sys2Proof.Machine
end

section
/-! The reader's table (R244), row by row, and the recognition of poison (R245). -/

namespace Sys2Proof.Machine

section
variable {w : StoredWord}

theorem decodeClean_clean (he : parity w 39 = false) (hs : (syndrome w).toNat = 0) : decodeClean w = .data (w.setWidth 32) false := by
  unfold syndrome at hs
  simp only [decodeClean, he, hs, Bool.not_false, if_true]

theorem decodeClean_double (he : parity w 39 = false) (hs : (syndrome w).toNat ≠ 0) : decodeClean w = .uncorrectable := by
  unfold syndrome at hs
  simp only [decodeClean, he, hs, Bool.not_false, if_true, if_false]

theorem decodeClean_check (he : parity w 39 = true) (hs : (syndrome w).toNat = 0 ∨ isPow2 (syndrome w).toNat = true) :
    decodeClean w = .data (w.setWidth 32) true := by
  unfold syndrome at hs
  simp only [decodeClean, he, hs, Bool.not_true, Bool.false_eq_true, if_true, if_false]

theorem decodeClean_data {i : Nat} (hi : i < 32) (he : parity w 39 = true) (hs : (syndrome w).toNat = codePositions.getD i 0) :
    decodeClean w = .data (w.setWidth 32 ^^^ (1#32 <<< i)) true := by
  have hfound : ∀ i < 32, ¬ (codePositions.getD i 0 = 0 ∨ isPow2 (codePositions.getD i 0) = true)
      ∧ codePositions.idxOf? (codePositions.getD i 0) = some i := by decide
  obtain ⟨hposition, hindex⟩ := hfound i hi
  rw [← hs] at hposition hindex
  unfold syndrome at hposition hindex
  simp only [decodeClean, he, hposition, hindex, Bool.not_true, Bool.false_eq_true, if_false]

theorem decodeClean_beyond (he : parity w 39 = true) (hs : 39 ≤ (syndrome w).toNat) : decodeClean w = .uncorrectable := by
  have hbeyond : ∀ n < 64, 39 ≤ n → ¬ (n = 0 ∨ isPow2 n = true) ∧ codePositions.idxOf? n = none := by decide
  obtain ⟨hposition, hindex⟩ := hbeyond _ (syndrome w).isLt hs
  unfold syndrome at hposition hindex
  simp only [decodeClean, he, hposition, hindex, Bool.not_true, Bool.false_eq_true, if_false]

end

/-- The poison pattern of bits [38:0] (R245). -/
def poisonPattern : StoredWord := 0x7F00000000#40

/-- The number of bits [38:0] in which a word differs from the poison pattern. -/
def patternDistance (w : StoredWord) : Nat := ones (w ^^^ poisonPattern) 39

theorem patternDistance_eq_filter (w : StoredWord) :
    patternDistance w = ((List.range 39).filter (fun i => w.getLsbD i != (0x7F00000000#40).getLsbD i)).length := by
  simp [patternDistance, ones_eq_filter, poisonPattern, Bool.bne_eq_xor]

theorem ones_low_eq_patternDistance (w : StoredWord) : ones (w.setWidth 39 ^^^ 0x7F00000000#39) 39 = patternDistance w := by
  have hpattern : ∀ i < 39, (0x7F00000000#39).getLsbD i = poisonPattern.getLsbD i := by decide
  rw [patternDistance, ones_eq_filter, ones_eq_filter]
  refine congrArg List.length (List.filter_congr fun i hi => ?_)
  have hi := List.mem_range.1 hi
  rw [BitVec.getLsbD_xor, BitVec.getLsbD_xor, BitVec.getLsbD_setWidth, hpattern i hi, decide_eq_true hi, Bool.true_and]

section
variable {w : StoredWord}

theorem decodeWord_near (hp : w.getLsbD 39 = true) (hd : patternDistance w ≤ 1) : decodeWord w = .poisoned (patternDistance w == 1) := by
  simp only [decodeWord, ones_low_eq_patternDistance, hp, hd, if_true]

theorem decodeWord_pattern (hp : w.getLsbD 39 = false) (hd : patternDistance w = 0) : decodeWord w = .poisoned true := by
  simp only [decodeWord, ones_low_eq_patternDistance, hp, hd, Bool.false_eq_true, if_true, if_false]

theorem decodeWord_far_data {d : Word} {c : Bool} (hp : w.getLsbD 39 = true) (hd : 1 < patternDistance w) (hc : decodeClean w = .data d c) :
    decodeWord w = .data d true := by
  simp only [decodeWord, ones_low_eq_patternDistance, hp, Nat.not_le.2 hd, hc, if_true, if_false]

theorem decodeWord_far_lost (hp : w.getLsbD 39 = true) (hd : 1 < patternDistance w) (hc : decodeClean w = .uncorrectable) :
    decodeWord w = .uncorrectable := by
  simp only [decodeWord, ones_low_eq_patternDistance, hp, Nat.not_le.2 hd, hc, if_true, if_false]

theorem decodeWord_plain (hp : w.getLsbD 39 = false) (hd : patternDistance w ≠ 0) : decodeWord w = decodeClean w := by
  simp only [decodeWord, ones_low_eq_patternDistance, hp, hd, Bool.false_eq_true, if_false]

end

/-- A word at an even distance from the pattern has odd parity, and the other way round: the pattern has seven ones. -/
theorem patternDistance_odd_iff (w : StoredWord) : patternDistance w % 2 = 1 ↔ parity w 39 = false := by
  have hpattern : parity poisonPattern 39 = true := by decide
  rw [patternDistance, ← parity_iff_ones, parity_xor, hpattern]
  simp

theorem syndrome_pattern : syndrome poisonPattern = 63#6 := by decide

/-- A word one bit from the pattern has the syndrome of none that decodes. -/
theorem syndrome_of_patternDistance_one {w : StoredWord} (h : patternDistance w = 1) :
    ∃ i < 39, syndrome w = 63#6 ^^^ syndrome (flip i) := by
  obtain ⟨i, hi, hbits⟩ := getLsbD_of_ones_one h
  refine ⟨i, hi, ?_⟩
  have hflip : syndrome (w ^^^ poisonPattern) = syndrome (flip i) :=
    syndrome_congr fun j hj => by rw [hbits j (by omega), getLsbD_flip (by omega)]
  rw [← hflip, syndrome_xor, syndrome_pattern, BitVec.xor_comm, BitVec.xor_assoc, BitVec.xor_self, BitVec.xor_zero]

theorem syndrome_of_patternDistance_zero {w : StoredWord} (h : patternDistance w = 0) : syndrome w = 63#6 := by
  rw [← syndrome_pattern]
  refine syndrome_congr fun j hj => ?_
  have := getLsbD_of_ones_zero h j (by omega)
  rw [BitVec.getLsbD_xor] at this
  simpa using this

/-- The pattern lies at a distance of at least 3 from what has the syndrome and the parity of a codeword (R245). -/
theorem patternDistance_codeword {w : StoredWord} (hs : syndrome w = 0#6) (he : parity w 39 = false) : 3 ≤ patternDistance w := by
  have hodd := (patternDistance_odd_iff w).2 he
  have hfar : ∀ i < 39, 63#6 ^^^ BitVec.ofNat 6 (flipSyndrome i) ≠ 0#6 := by decide
  have hone : patternDistance w ≠ 1 := fun h => by
    obtain ⟨i, hi, hsyn⟩ := syndrome_of_patternDistance_one h
    rw [hs, syndrome_flip (by omega)] at hsyn
    exact hfar i hi hsyn.symm
  omega

end Sys2Proof.Machine
end

section
/-! Words with errors (O9) and the reader's table in the spec's own words (O8). -/

namespace Sys2Proof.Machine

/-- The reader's three findings about a codeword with flipped bits. -/
theorem flipped_codeword (d : Word) (x : StoredWord) :
    syndrome (encodeWord d ^^^ x) = syndrome x ∧ parity (encodeWord d ^^^ x) 39 = parity x 39
    ∧ (encodeWord d ^^^ x).setWidth 32 = d ^^^ x.setWidth 32 := by
  refine ⟨?_, ?_, ?_⟩
  · rw [syndrome_xor, syndrome_encodeWord, BitVec.zero_xor]
  · rw [parity_xor, parity_encodeWord, Bool.false_bne]
  · rw [BitVec.setWidth_xor, encodeWord_data]

theorem decodeClean_encodeWord (d : Word) : decodeClean (encodeWord d) = .data d false := by
  rw [decodeClean_clean (parity_encodeWord d) (by rw [syndrome_encodeWord]; rfl), encodeWord_data]

/-- Clean data is read back as it is. -/
theorem decodeWord_encodeWord (d : Word) : decodeWord (encodeWord d) = .data d false := by
  have hfar := patternDistance_codeword (syndrome_encodeWord d) (parity_encodeWord d)
  rw [decodeWord_plain (encodeWord_poison d) (by omega), decodeClean_encodeWord]

/-- One flip of the bits [38:0] is undone. -/
theorem decodeClean_flip (d : Word) {i : Nat} (hi : i < 39) : decodeClean (encodeWord d ^^^ flip i) = .data d true := by
  obtain ⟨hs, he, hd⟩ := flipped_codeword d (flip i)
  have hsyn : (syndrome (encodeWord d ^^^ flip i)).toNat = flipSyndrome i := by rw [hs, syndrome_flip_toNat (by omega)]
  rw [parity_flip (by omega), decide_eq_true hi] at he
  rw [setWidth_flip (by omega)] at hd
  by_cases hdata : i < 32
  · rw [decodeClean_data hdata he (by rw [hsyn, flipSyndrome, if_pos hdata]), hd, if_pos hdata, BitVec.xor_assoc, BitVec.xor_self, BitVec.xor_zero]
  · have hcheck : ∀ i < 40, ¬ i < 32 → flipSyndrome i = 0 ∨ isPow2 (flipSyndrome i) = true := by decide
    rw [decodeClean_check he (by rw [hsyn]; exact hcheck i (by omega) hdata), hd, if_neg hdata, BitVec.xor_zero]

/-- A flip of the bits [38:0] leaves POISON 0, and the word is not the pattern. -/
theorem decodeWord_flip (d : Word) {i : Nat} (hi : i < 39) : decodeWord (encodeWord d ^^^ flip i) = .data d true := by
  obtain ⟨hs, -, -⟩ := flipped_codeword d (flip i)
  have hfar : patternDistance (encodeWord d ^^^ flip i) ≠ 0 := fun h => by
    have h63 := congrArg BitVec.toNat (hs.symm.trans (syndrome_of_patternDistance_zero h))
    have := flipSyndrome_lt i (by omega)
    rw [syndrome_flip_toNat (by omega), show (63#6).toNat = 63 from rfl] at h63
    omega
  have hpoison : (encodeWord d ^^^ flip i).getLsbD 39 = false := by
    rw [BitVec.getLsbD_xor, encodeWord_poison, getLsbD_flip (by omega), decide_eq_false (by omega)]
    rfl
  rw [decodeWord_plain hpoison hfar, decodeClean_flip d hi]

/-- POISON alone set over clean data counts as a correction. -/
theorem decodeWord_flip_poison (d : Word) : decodeWord (encodeWord d ^^^ flip 39) = .data d true := by
  obtain ⟨hs, he, hd⟩ := flipped_codeword d (flip 39)
  rw [syndrome_flip (by omega)] at hs
  rw [parity_flip (by omega)] at he
  rw [setWidth_flip (by omega), if_neg (by omega), BitVec.xor_zero] at hd
  have hfar := patternDistance_codeword hs he
  have hpoison : (encodeWord d ^^^ flip 39).getLsbD 39 = true := by
    rw [BitVec.getLsbD_xor, encodeWord_poison, getLsbD_flip (by omega)]
    rfl
  refine decodeWord_far_data hpoison (by omega) (c := false) ?_
  rw [decodeClean_clean he (by rw [hs]; rfl), hd]

/-- Two flips have even parity and a syndrome: they are found. -/
theorem decodeWord_flip_flip (d : Word) {i j : Nat} (hi : i < 39) (hj : j < 39) (hij : i ≠ j) :
    decodeWord (encodeWord d ^^^ flip i ^^^ flip j) = .uncorrectable := by
  obtain ⟨hs, he, -⟩ := flipped_codeword d (flip i ^^^ flip j)
  rw [← BitVec.xor_assoc] at hs he
  have hodd : parity (encodeWord d ^^^ flip i ^^^ flip j) 39 = false := by
    rw [he, parity_xor, parity_flip (by omega), parity_flip (by omega), decide_eq_true hi, decide_eq_true hj]
    rfl
  have hsyn : (syndrome (encodeWord d ^^^ flip i ^^^ flip j)).toNat ≠ 0 := fun h => by
    have hzero := BitVec.eq_of_toNat_eq (h.trans (BitVec.toNat_zero (w := 6)).symm)
    rw [hs, syndrome_xor, BitVec.xor_eq_zero_iff] at hzero
    refine hij (flipSyndrome_inj hi hj ?_)
    rw [← syndrome_flip_toNat (by omega), ← syndrome_flip_toNat (by omega), hzero]
  have hfar : patternDistance (encodeWord d ^^^ flip i ^^^ flip j) ≠ 0 := fun h => by
    have := (patternDistance_odd_iff _).2 hodd
    omega
  have hpoison : (encodeWord d ^^^ flip i ^^^ flip j).getLsbD 39 = false := by
    rw [BitVec.getLsbD_xor, BitVec.getLsbD_xor, encodeWord_poison, getLsbD_flip (by omega), getLsbD_flip (by omega),
      decide_eq_false (by omega), decide_eq_false (by omega)]
    rfl
  rw [decodeWord_plain hpoison hfar, decodeClean_double hodd hsyn]

/-- Settles O9: a codeword has syndrome and parity 0, and each flip of a bit of [38:0] adds its own syndrome and turns the parity over. -/
theorem wordErrorsCorrected : Obligations.WordErrorsCorrected := by
  unfold Obligations.WordErrorsCorrected
  intro d
  have hpoisoned : ∀ i < 40, decodeWord (poisonWord ^^^ (1#40 <<< i)) = .poisoned true := by decide
  refine ⟨decodeWord_encodeWord d, fun i hi => ?_, fun i hi j hj hij => decodeWord_flip_flip d hi hj hij, by decide, hpoisoned⟩
  rcases Nat.lt_or_ge i 39 with hlow | hlast
  · exact decodeWord_flip d hlow
  · obtain rfl : i = 39 := by omega
    exact decodeWord_flip_poison d

/-- The spec's `s`, bit by bit, is the reader's syndrome. -/
theorem syndrome_toNat {w : StoredWord} {s : Nat} (hs : s < 64)
    (h : ∀ k < 6, s.testBit k = ((encodeWord (w.setWidth 32)).getLsbD (32 + k) != w.getLsbD (32 + k))) : (syndrome w).toNat = s := by
  have heq : syndrome w = BitVec.ofNat 6 s := by
    refine BitVec.eq_of_getLsbD_eq fun k hk => ?_
    rw [getLsbD_syndrome w hk, BitVec.getLsbD_ofNat, h k hk, getLsbD_encodeWord_check _ hk, decide_eq_true hk, Bool.true_and]
  rw [heq, BitVec.toNat_ofNat, Nat.mod_eq_of_lt hs]

theorem isPow2_two_pow {k : Nat} (hk : 2 ^ k < 64) : isPow2 (2 ^ k) = true := by
  have hk : k < 6 := (Nat.pow_lt_pow_iff_right (by omega : 1 < 2)).1 (show 2 ^ k < 2 ^ 6 from hk)
  exact (by decide : ∀ k < 6, isPow2 (2 ^ k) = true) k hk

/-- Settles O8, row by row of the reader's table. -/
theorem wordsDecoded : Obligations.WordsDecoded := by
  unfold Obligations.WordsDecoded
  refine ⟨rfl, fun d => ?_, fun w s e dist hs hbits he hdist => ?_⟩
  · rw [← patternDistance_eq_filter]
    exact patternDistance_codeword (syndrome_encodeWord d) (parity_encodeWord d)
  rw [← patternDistance_eq_filter] at hdist
  rw [← parity_eq_foldl] at he
  have hsyn := syndrome_toNat hs hbits
  subst hdist he hsyn
  refine ⟨decodeClean_clean, fun he hs => decodeClean_check he (.inl hs), fun k he hk => decodeClean_check he (.inr ?_),
    fun i hi he hs => decodeClean_data hi he hs, decodeClean_beyond, decodeClean_double, decodeWord_near, decodeWord_pattern,
    fun hp hd d c hc => decodeWord_far_data hp hd hc, decodeWord_far_lost, decodeWord_plain⟩
  rw [hk] at hs ⊢
  exact isPow2_two_pow hs

end Sys2Proof.Machine
end

section
/-! Package memory byte by byte and word by word: what a store shows, and what it leaves (O10). -/

namespace Sys2Proof.Machine

section
variable {α : Type} (t : Tbl α) (k : Nat)

/-- A filter that keeps a key's entries keeps what is found under it. -/
theorem tfind_filter_of_keeps {f : Nat × α → Bool} (h : ∀ v, f (k, v) = true) : tfind (t.filter f) k = tfind t k := by
  induction t with
  | nil => rfl
  | cons x t ih =>
    obtain ⟨j, v⟩ := x
    rw [List.filter_cons]
    by_cases hj : j = k
    · subst hj
      rw [if_pos (h v)]
      simp [tfind]
    · split <;> simp [tfind, hj, ih]

theorem tfind_filter_of_drops {f : Nat × α → Bool} (h : ∀ v, f (k, v) = false) : tfind (t.filter f) k = none := by
  induction t with
  | nil => rfl
  | cons x t ih =>
    obtain ⟨j, v⟩ := x
    rw [List.filter_cons]
    by_cases hj : j = k
    · subst hj
      rw [if_neg (by simp [h v])]
      exact ih
    · split <;> simp [tfind, hj, ih]

theorem tfind_tdel_self : tfind (tdel t k) k = none := tfind_filter_of_drops t k fun _ => by simp

theorem tfind_tdel_ne {k' : Nat} (h : k ≠ k') : tfind (tdel t k') k = tfind t k := tfind_filter_of_keeps t k fun _ => by simpa using h

theorem tfind_eq_none : tfind t k = none ↔ k ∉ t.map Prod.fst := by
  induction t with
  | nil => simp [tfind]
  | cons x t ih =>
    obtain ⟨j, v⟩ := x
    by_cases hj : j = k
    · simp [tfind, hj]
    · simp [tfind, hj, Ne.symm hj, ih]

/-- What is found in a table made of keys of a list. -/
theorem tfind_filterMap {f : Nat → Option α} (l : List Nat) :
    tfind (l.filterMap (fun j => (f j).map (fun v => (j, v)))) k = if k ∈ l then f k else none := by
  induction l with
  | nil => rfl
  | cons j l ih =>
    rw [List.filterMap_cons]
    by_cases hj : j = k
    · subst hj
      cases hf : f j with
      | none => simp [ih, hf]
      | some v => simp [tfind]
    · cases hf : f j with
      | none => simp [ih, Ne.symm hj]
      | some v => simp [tfind, hj, ih, Ne.symm hj]

end

/-- Whether an undefined range holds an address. -/
def covers (x : Nat) (s : Nat × Nat × Nat) : Bool := decide (s.1 ≤ x) && decide (x < s.1 + s.2.1)

theorem memByte_eq (m : Mem) (x : Nat) :
    memByte m x = (((m.stale.find? (covers x)).map (·.2.2)).map (fun no => Config.undefinedByte (no * 2 ^ 46 + x))).getD (getByte m.data x) := by
  unfold memByte
  cases h : m.stale.find? (covers x) with
  | none => rw [show m.stale.find? (fun s => decide (s.1 ≤ x) && decide (x < s.1 + s.2.1)) = none from h]; rfl
  | some s => rw [show m.stale.find? (fun s => decide (s.1 ≤ x) && decide (x < s.1 + s.2.1)) = some s from h]; rfl

theorem find?_piece {α β : Type} (c : Prop) [Decidable c] (s : α) (f : α → Bool) (g : α → β) :
    ((if c then [s] else []).find? f).map g = if c ∧ f s = true then some (g s) else none := by
  by_cases hc : c <;> by_cases hf : f s = true <;> simp [hc, hf]

/-- What is left of an undefined range holds the addresses outside the written one that it held, under the same number. -/
theorem find?_cutStale {a n x : Nat} (hx : x < a ∨ a + n ≤ x) (s : Nat × Nat × Nat) :
    ((cutStale a n s).find? (covers x)).map (·.2.2) = if covers x s = true then some s.2.2 else none := by
  unfold cutStale
  split
  · rw [List.find?_append, Option.map_or, find?_piece, find?_piece]
    simp only [covers, Bool.and_eq_true, decide_eq_true_eq]
    by_cases hs : s.1 ≤ x ∧ x < s.1 + s.2.1
    · rw [if_pos hs]
      rcases hx with hx | hx
      · rw [if_pos (by omega)]
        rfl
      · rw [if_neg (by omega), if_pos (by omega)]
        rfl
    · rw [if_neg hs, if_neg (by omega), if_neg (by omega)]
      rfl
  · by_cases hs : covers x s = true <;> simp [hs]

theorem find?_flatMap_cutStale {a n x : Nat} (hx : x < a ∨ a + n ≤ x) (l : List (Nat × Nat × Nat)) :
    ((l.flatMap (cutStale a n)).find? (covers x)).map (·.2.2) = (l.find? (covers x)).map (·.2.2) := by
  induction l with
  | nil => rfl
  | cons s l ih =>
    rw [List.flatMap_cons, List.find?_append, Option.map_or, find?_cutStale hx, ih, List.find?_cons]
    by_cases hs : covers x s = true <;> simp [hs]

/-- Defining a range leaves the bytes outside it. -/
theorem memByte_defined {m : Mem} {a n x : Nat} {data : List Host.Cell} {raw : Tbl StoredWord} (hx : x < a ∨ a + n ≤ x)
    (hdata : getByte data x = getByte m.data x) : memByte { m.defined a n with data, raw } x = memByte m x := by
  have hstale : ((m.defined a n).stale.find? (covers x)).map (·.2.2) = (m.stale.find? (covers x)).map (·.2.2) := by
    unfold Mem.defined
    split
    · rfl
    · exact find?_flatMap_cutStale hx m.stale
  rw [memByte_eq, memByte_eq]
  dsimp only
  rw [hstale, hdata]

theorem rawBytes_eq_map (m : Mem) (a n : Nat) : rawBytes m a n = (List.range n).map (fun i => memByte m (a + i)) := by
  unfold rawBytes
  split
  · rename_i hclear
    refine List.map_congr_left fun i hi => ?_
    have hi := List.mem_range.1 hi
    have hnone : m.stale.find? (covers (a + i)) = none := List.find?_eq_none.2 fun s hs => by
      have := List.all_eq_true.1 hclear s hs
      simp only [Bool.or_eq_true, decide_eq_true_eq] at this
      simp only [covers, Bool.and_eq_true, decide_eq_true_eq]
      omega
    rw [memByte_eq, hnone]
    rfl
  · rfl

theorem rawBytes_congr {m m' : Mem} {a n : Nat} (h : ∀ i < n, memByte m' (a + i) = memByte m (a + i)) : rawBytes m' a n = rawBytes m a n := by
  rw [rawBytes_eq_map, rawBytes_eq_map]
  exact List.map_congr_left fun i hi => h i (List.mem_range.1 hi)

/-- A word is what its bytes, its entry and the fills over it say. -/
theorem storedWord_congr {m m' : Mem} {w : Nat} (hraw : tfind m'.raw w = tfind m.raw w) (hfill : inFill m' w = inFill m w)
    (hbytes : ∀ i < 4, memByte m' (4 * w + i) = memByte m (4 * w + i)) : storedWord m' w = storedWord m w := by
  unfold storedWord plainWord dataWord
  rw [hraw, hfill, rawBytes_congr hbytes]

theorem inFill_of_fills {m m' : Mem} (h : m'.fills = m.fills) (w : Nat) : inFill m' w = inFill m w := by
  unfold inFill
  rw [h]

/-- Storing a word leaves every other word. -/
theorem storedWord_storeWord_ne (m : Mem) {w w' : Nat} (s : StoredWord) (h : w' ≠ w) : storedWord (storeWord m w s) w' = storedWord m w' := by
  refine storedWord_congr ?_ (inFill_of_fills (by simp [storeWord]) w') fun i hi => ?_
  · show tfind (if s = plainWord m w (s.setWidth 32) then tdel m.raw w else tput m.raw w s) w' = _
    split
    · exact tfind_tdel_ne _ _ h
    · exact tfind_tput_ne _ _ h
  · exact memByte_defined (by omega) (getByte_setBytes_out _ _ _ _ (by rw [leBytes_length]; omega))

/-- A fold whose steps each store one word: a named word holds what its step stores, every other what it held. -/
theorem storedWord_foldl {α : Type} {key : α → Nat} {f : Mem → α → Mem} {ok : StoredWord → Prop} {g : Nat → StoredWord} {l : List α}
    (hself : ∀ m, ∀ x ∈ l, Memory.wf m = true → ok (storedWord m (key x)) → storedWord (f m x) (key x) = g (key x))
    (hother : ∀ m, ∀ x ∈ l, ∀ w, w ≠ key x → storedWord (f m x) w = storedWord m w)
    (hwf : ∀ m x, Memory.wf m = true → Memory.wf (f m x) = true) (hok : ∀ w, ok (g w))
    {m : Mem} (hm : Memory.wf m = true) (hl : ∀ x ∈ l, ok (storedWord m (key x))) (w : Nat) :
    storedWord (l.foldl f m) w = if w ∈ l.map key then g w else storedWord m w := by
  induction l generalizing m with
  | nil => rfl
  | cons x l ih =>
    have hhead := hself m x (by simp) hm (hl x (by simp))
    have hstep : ∀ w, ok (storedWord m w) → ok (storedWord (f m x) w) := fun w hw => by
      by_cases hwx : w = key x
      · rw [hwx, hhead]
        exact hok _
      · rw [hother m x (by simp) w hwx]
        exact hw
    rw [List.foldl_cons, ih (fun m y hy => hself m y (by simp [hy])) (fun m y hy => hother m y (by simp [hy])) (hwf m x hm)
      (fun y hy => hstep _ (hl y (by simp [hy]))), List.map_cons]
    by_cases hmem : w ∈ l.map key
    · rw [if_pos hmem, if_pos (List.mem_cons_of_mem _ hmem)]
    · by_cases hwx : w = key x
      · rw [if_neg hmem, hwx, if_pos (by simp), hhead]
      · rw [if_neg hmem, if_neg (by simp [hmem, hwx]), hother m x (by simp) w hwx]

end Sys2Proof.Machine
end

section
/-! Writes over whole words, fills, and what a read of whole words finds (O10). -/

namespace Sys2Proof.Machine

theorem leNat_lt (b : Bytes) : leNat b < 256 ^ b.length := by
  induction b with
  | nil => simp [leNat]
  | cons x t ih =>
    have := x.isLt
    simp only [leNat, List.length_cons, Nat.pow_succ]
    omega

/-- Bytes are the bytes of the number they spell. -/
theorem leBytes_leNat (b : Bytes) : leBytes b.length (leNat b) = b := by
  induction b with
  | nil => rfl
  | cons x t ih =>
    have := x.isLt
    have hrest : (x.toNat + 256 * leNat t) / 256 = leNat t := by omega
    simp only [leNat, List.length_cons, leBytes, hrest, ih, List.cons.injEq, and_true]
    apply BitVec.eq_of_toNat_eq
    rw [BitVec.toNat_ofNat]
    omega

/-- Four bytes are the bytes of the word that they spell. -/
theorem leBytes_ofNat_leNat {b : Bytes} (h : b.length = 4) : leBytes 4 (BitVec.ofNat 32 (leNat b)).toNat = b := by
  have hlt := leNat_lt b
  have hself := leBytes_leNat b
  rw [h] at hlt hself
  rw [BitVec.toNat_ofNat, Nat.mod_eq_of_lt (show leNat b < 2 ^ 32 from hlt), hself]

theorem encodeWord_injective {d d' : Word} (h : encodeWord d = encodeWord d') : d = d' := by
  rw [← encodeWord_data d, h, encodeWord_data]

/-- The bytes of a word whose DATA is `d`. -/
theorem memByte_of_dataWord {m : Mem} {w : Nat} {d : Word} (h : dataWord m w = d) {i : Nat} (hi : i < 4) :
    memByte m (4 * w + i) = (leBytes 4 d.toNat).getD i 0 := by
  have hlen : (rawBytes m (4 * w) 4).length = 4 := by rw [rawBytes_eq_map]; simp
  rw [← h, dataWord, leBytes_ofNat_leNat hlen, rawBytes_eq_map]
  simp [List.getD, hi]

theorem badWords_of_no_fill {m : Mem} {a n : Nat} (h : ¬ m.fills.any (fun f => decide (f.1 < a + n) && decide (a < f.1 + f.2)) = true) :
    badWords m a n = m.raw.filter (fun e => decide (a / 4 ≤ e.1) && decide (e.1 * 4 < a + n)) := by
  rw [badWords, if_neg h]

/-- Under a fill, a touched word is listed where its stored bits are not those of its bytes. -/
theorem tfind_badWords_of_fill {m : Mem} {a n : Nat} (h : m.fills.any (fun f => decide (f.1 < a + n) && decide (a < f.1 + f.2)) = true) (w : Nat) :
    tfind (badWords m a n) w
      = if w ∈ wordsOf a n then (if storedWord m w = encodeWord (dataWord m w) then none else some (storedWord m w)) else none := by
  have hlisted : ∀ j, (if storedWord m j = encodeWord (dataWord m j) then none else some (j, storedWord m j))
      = (if storedWord m j = encodeWord (dataWord m j) then none else some (storedWord m j)).map (fun v => (j, v)) := fun j => by split <;> rfl
  rw [badWords, if_pos h]
  dsimp only
  simp only [hlisted]
  rw [tfind_filterMap]

section
variable {m : Mem} {a n : Nat} (ha : a % 4 = 0) (hn : n % 4 = 0)
include ha hn

theorem mem_wordsOf (w : Nat) : w ∈ wordsOf a n ↔ a ≤ 4 * w ∧ 4 * w < a + n := by
  unfold wordsOf
  split
  · simp
    omega
  · rw [List.mem_map]
    constructor
    · rintro ⟨i, hi, rfl⟩
      have := List.mem_range.1 hi
      omega
    · intro hw
      exact ⟨w - a / 4, List.mem_range.2 (by omega), by omega⟩

/-- A word of the range is clean data, or it is listed with its stored bits. -/
theorem storedWord_of_badWords {w : Nat} (hlow : a ≤ 4 * w) (hhigh : 4 * w < a + n) :
    storedWord m w = (tfind (badWords m a n) w).getD (encodeWord (dataWord m w)) := by
  by_cases hfills : m.fills.any (fun f => decide (f.1 < a + n) && decide (a < f.1 + f.2)) = true
  · rw [tfind_badWords_of_fill hfills, if_pos ((mem_wordsOf ha hn w).2 ⟨hlow, hhigh⟩)]
    by_cases hclean : storedWord m w = encodeWord (dataWord m w)
    · rw [if_pos hclean, hclean, Option.getD_none]
    · rw [if_neg hclean, Option.getD_some]
  · have hunfilled : inFill m w = false := by
      rw [Bool.not_eq_true, List.any_eq_false] at hfills
      refine List.any_eq_false.2 fun f hf => ?_
      have := hfills f hf
      simp only [Bool.and_eq_true, decide_eq_true_eq] at this ⊢
      omega
    rw [badWords_of_no_fill hfills, tfind_filter_of_keeps _ _ fun v => by simp; omega, storedWord, plainWord, if_neg (by simp [hunfilled])]

/-- Every listed word lies wholly in the range. -/
theorem badWords_covered {e : Nat × StoredWord} (he : e ∈ badWords m a n) : a ≤ 4 * e.1 ∧ 4 * e.1 < a + n := by
  unfold badWords at he
  split at he
  · obtain ⟨w, hw, hwe⟩ := List.mem_filterMap.1 he
    dsimp only at hwe
    split at hwe
    · simp at hwe
    · obtain rfl := Option.some.inj hwe
      exact (mem_wordsOf ha hn w).1 hw
  · have := (List.mem_filter.1 he).2
    simp only [Bool.and_eq_true, decide_eq_true_eq] at this
    omega

/-- What a read of whole words finds where each of them is stored as clean data. -/
theorem memBytes_of_encoded {g : Nat → Word} (h : ∀ w, a ≤ 4 * w → 4 * w < a + n → storedWord m w = encodeWord (g w)) :
    memBytes m a n = (List.range n).map (fun i => (leBytes 4 (g ((a + i) / 4)).toNat).getD ((a + i) % 4) 0) := by
  have hword : ∀ i < n, (tfind (badWords m a n) ((a + i) / 4)).getD (encodeWord (dataWord m ((a + i) / 4))) = encodeWord (g ((a + i) / 4)) :=
    fun i hi => by rw [← storedWord_of_badWords ha hn (by omega) (by omega), h _ (by omega) (by omega)]
  have hplain : ∀ i < n, tfind (badWords m a n) ((a + i) / 4) = none →
      memByte m (a + i) = (leBytes 4 (g ((a + i) / 4)).toNat).getD ((a + i) % 4) 0 := fun i hi hnone => by
    have hd := hword i hi
    rw [hnone, Option.getD_none] at hd
    rw [← memByte_of_dataWord (encodeWord_injective hd) (Nat.mod_lt _ (by omega)), Nat.div_add_mod]
  unfold memBytes
  dsimp only
  split
  · rename_i hempty
    rw [rawBytes_eq_map]
    exact List.map_congr_left fun i hi => hplain i (List.mem_range.1 hi) (by rw [List.isEmpty_iff.1 hempty]; rfl)
  · refine List.map_congr_left fun i hi => ?_
    have hi := List.mem_range.1 hi
    cases hfound : tfind (badWords m a n) ((a + i) / 4) with
    | none => exact hplain i hi hfound
    | some s =>
      have hs := hword i hi
      rw [hfound, Option.getD_some] at hs
      have hdecoded := decodeWord_encodeWord (g ((a + i) / 4))
      rw [← hs] at hdecoded
      simp only [hdecoded]

end

/-- A memory whose whole words a write has prepared (R246). -/
def prepared (m : Mem) (a n : Nat) : Mem := (badWords m a n).foldl (prepareWord a n) m

theorem prepared_wf {m : Mem} (hm : Memory.wf m = true) (a n : Nat) : Memory.wf (prepared m a n) = true :=
  fold_wf _ (fun m e => prepareWord_wf _ _ m e) _ _ hm

section
variable {m : Mem} {a n : Nat} (hm : Memory.wf m = true) (ha : a % 4 = 0) (hn : n % 4 = 0)
include hm ha hn

/-- Whole words that were not clean data are clean when a write has prepared them; the others are as they were. -/
theorem storedWord_prepared (w : Nat) :
    storedWord (prepared m a n) w = if w ∈ (badWords m a n).map Prod.fst then encodeWord 0 else storedWord m w := by
  have hstep : ∀ m', ∀ e ∈ badWords m a n, prepareWord a n m' e = storeWord m' e.1 (encodeWord 0) := fun m' e he => by
    have := badWords_covered ha hn he
    rw [prepareWord, if_pos (by omega)]
  refine storedWord_foldl (ok := fun _ => True) (g := fun _ => encodeWord 0) (fun m' e he hm' _ => ?_) (fun m' e he w' hw => ?_)
    (fun m' e => prepareWord_wf _ _ m' e) (fun _ => trivial) hm (fun _ _ => trivial) w
  · rw [hstep m' e he, storedWord_storeWord _ _ _ hm']
  · rw [hstep m' e he, storedWord_storeWord_ne _ _ hw]

/-- Every word of the range holds clean data when it is prepared. -/
theorem prepared_clean {w : Nat} (hlow : a ≤ 4 * w) (hhigh : 4 * w < a + n) : ∃ d, storedWord (prepared m a n) w = encodeWord d := by
  rw [storedWord_prepared hm ha hn w]
  by_cases hbad : w ∈ (badWords m a n).map Prod.fst
  · exact ⟨0, if_pos hbad⟩
  · rw [if_neg hbad, storedWord_of_badWords ha hn hlow hhigh, (tfind_eq_none _ _).2 hbad, Option.getD_none]
    exact ⟨_, rfl⟩

theorem prepared_outside {w : Nat} (hout : 4 * w < a ∨ a + n ≤ 4 * w) : storedWord (prepared m a n) w = storedWord m w := by
  rw [storedWord_prepared hm ha hn w, if_neg]
  intro hbad
  obtain ⟨e, he, rfl⟩ := List.mem_map.1 hbad
  have := badWords_covered ha hn he
  omega

end

/-- The word that the bytes of a write spell at a word address. -/
def writtenWord (a : Nat) (b : Bytes) (w : Nat) : Word := BitVec.ofNat 32 (leAt b (4 * w - a) 4)

section
variable {m : Mem} {a : Nat} {b : Bytes} (hm : Memory.wf m = true) (ha : a % 4 = 0) (hb : b.length % 4 = 0)
include hm ha hb

/-- Bytes put over memory that no entry and no fill touches. -/
theorem storedWord_putBytes (hraw : m.raw = []) (hfills : m.fills = []) (w : Nat) :
    storedWord (putBytes m a b) w = if w ∈ wordsOf a b.length then encodeWord (writtenWord a b w) else storedWord m w := by
  have hput : ∀ i (h : i < b.length), memByte (putBytes m a b) (a + i) = b[i] := fun i h => by
    have hread := rawBytes_put m a b (m.defined a b.length).raw ((wf_iff m).1 hm).1
    rw [rawBytes_eq_map] at hread
    rw [← List.getElem_of_eq hread (by simpa using h)]
    simp [putBytes]
  split
  · rename_i hin
    obtain ⟨hlow, hhigh⟩ := (mem_wordsOf ha hb w).1 hin
    have hbytes : rawBytes (putBytes m a b) (4 * w) 4 = (b.drop (4 * w - a)).take 4 := by
      rw [rawBytes_eq_map]
      refine List.ext_getElem (by simp; omega) fun i h1 h2 => ?_
      simp only [List.length_map, List.length_range] at h1
      rw [List.getElem_map, List.getElem_range, show 4 * w + i = a + (4 * w - a + i) by omega, hput _ (by omega), List.getElem_take,
        List.getElem_drop]
    have hempty : inFill (putBytes m a b) w = false := by simp [inFill, putBytes, hfills]
    have hnone : tfind (putBytes m a b).raw w = none := by simp [putBytes, hraw, tfind]
    rw [storedWord, plainWord, if_neg (by simp [hempty]), hnone, Option.getD_none, dataWord, hbytes]
    rfl
  · rename_i hout
    rw [mem_wordsOf ha hb] at hout
    exact storedWord_congr (by simp [putBytes]) (inFill_of_fills (by simp [putBytes]) w)
      fun i hi => memByte_defined (by omega) (getByte_setBytes_out _ _ _ _ (by omega))

end

/-- A step of a write around poison stores the write's own bytes where the whole word is written. -/
theorem writeAround_word {a : Nat} {b : Bytes} {w : Nat} (d : Word) (hlow : a ≤ 4 * w) (hhigh : 4 * w + 4 ≤ a + b.length) :
    BitVec.ofNat 32 (leNat ((List.range 4).map (fun i =>
      if a ≤ 4 * w + i ∧ 4 * w + i < a + b.length then b.getD (4 * w + i - a) 0 else (leBytes 4 d.toNat).getD i 0))) = writtenWord a b w := by
  unfold writtenWord leAt
  refine congrArg (fun l => BitVec.ofNat 32 (leNat l)) (List.ext_getElem (by simp; omega) fun i h1 h2 => ?_)
  simp only [List.length_map, List.length_range] at h1
  rw [List.getElem_map, List.getElem_range, if_pos (by omega), List.getElem_take, List.getElem_drop,
    List.getD_eq_getElem _ _ (by omega)]
  congr 1
  omega

section
variable {m : Mem} {a : Nat} {b : Bytes} (hm : Memory.wf m = true) (ha : a % 4 = 0) (hb : b.length % 4 = 0)
include hm ha hb

/-- Bytes written over whole clean words. -/
theorem storedWord_writeAround (hclean : ∀ w, a ≤ 4 * w → 4 * w < a + b.length → ∃ d, storedWord m w = encodeWord d) (w : Nat) :
    storedWord (writeAround m a b) w = if w ∈ wordsOf a b.length then encodeWord (writtenWord a b w) else storedWord m w := by
  unfold writeAround
  split
  · rename_i hempty
    rw [Bool.and_eq_true, List.isEmpty_iff, List.isEmpty_iff] at hempty
    exact storedWord_putBytes hm ha hb hempty.1 hempty.2 w
  · have hdata : ∀ x ∈ wordsOf a b.length, ∃ d, storedWord m (id x) = encodeWord d := fun x hx => by
      obtain ⟨hlow, hhigh⟩ := (mem_wordsOf ha hb x).1 hx
      exact hclean x hlow hhigh
    rw [storedWord_foldl (key := id) (ok := fun s => ∃ d, s = encodeWord d) (g := fun w => encodeWord (writtenWord a b w))
      (fun m' x hx hm' hd => ?_) (fun m' x hx w' hw => ?_) (fun m' x hm' => ?_) (fun w => ⟨_, rfl⟩) hm hdata w, List.map_id]
    · obtain ⟨d, hd⟩ := hd
      obtain ⟨hlow, hhigh⟩ := (mem_wordsOf ha hb x).1 hx
      rw [id_eq] at hd
      simp only [hd, decodeWord_encodeWord, id_eq]
      rw [storedWord_storeWord _ _ _ hm', writeAround_word d hlow (by omega)]
    · split
      · exact storedWord_storeWord_ne _ _ hw
      · rfl
    · split
      · exact storeWord_wf _ _ _ hm'
      · exact hm'

/-- A store of whole words (R246): each holds the bytes written, whatever lay there, and every other word is as it was. -/
theorem storedWord_memWrite (w : Nat) :
    storedWord (memWrite m a b) w = if w ∈ wordsOf a b.length then encodeWord (writtenWord a b w) else storedWord m w := by
  show storedWord (writeAround (prepared m a b.length) a b) w = _
  rw [storedWord_writeAround (prepared_wf hm _ _) ha hb (fun w => prepared_clean hm ha hb) w]
  split
  · rfl
  · rename_i hout
    rw [mem_wordsOf ha hb] at hout
    exact prepared_outside hm ha hb (by omega)

/-- Bytes stored over whole words are read back. -/
theorem memBytes_memWrite : memBytes (memWrite m a b) a b.length = b := by
  rw [memBytes_of_encoded ha hb (g := writtenWord a b) fun w hlow hhigh => by
    rw [storedWord_memWrite hm ha hb, if_pos ((mem_wordsOf ha hb w).2 ⟨hlow, hhigh⟩)]]
  refine List.ext_getElem (by simp) fun i h1 h2 => ?_
  have hword : (leBytes 4 (writtenWord a b ((a + i) / 4)).toNat) = (b.drop (4 * ((a + i) / 4) - a)).take 4 :=
    leBytes_ofNat_leNat (by simp; omega)
  rw [List.getElem_map, List.getElem_range, hword, List.getD_eq_getElem _ _ (by simp; omega), List.getElem_take, List.getElem_drop]
  congr 1
  omega

end

theorem getByte_filter (l : List Host.Cell) {f : Host.Cell → Bool} {x : Nat} (h : ∀ v, f (x, v) = true) : getByte (l.filter f) x = getByte l x := by
  induction l with
  | nil => rfl
  | cons c l ih =>
    obtain ⟨k, v⟩ := c
    rw [List.filter_cons]
    by_cases hk : k = x
    · subst hk
      rw [if_pos (h v)]
      simp [getByte]
    · split <;> simp [getByte, hk, ih]

section
variable {m : Mem} {a n w : Nat}

/-- A fill poisons the words of its range (R258, R261). -/
theorem storedWord_memFill_inside (hlow : a ≤ 4 * w) (hhigh : 4 * w < a + n) : storedWord (memFill m a n) w = poisonWord := by
  have hfill : inFill (memFill m a n) w = true := by
    simp [inFill, memFill]
    omega
  rw [storedWord, plainWord, if_pos hfill]
  show (tfind (m.raw.filter _) w).getD poisonWord = poisonWord
  rw [tfind_filter_of_drops _ _ fun v => by simp; omega, Option.getD_none]

/-- A fill leaves every word outside its range. -/
theorem storedWord_memFill_outside (ha : a % 4 = 0) (hn : n % 4 = 0) (hout : 4 * w < a ∨ a + n ≤ 4 * w) :
    storedWord (memFill m a n) w = storedWord m w := by
  refine storedWord_congr ?_ ?_ fun i hi => ?_
  · exact tfind_filter_of_keeps _ _ fun v => by simp; omega
  · have hnot : ∀ f : Nat × Nat, (f != (a, n) && (decide (f.1 ≤ 4 * w) && decide (4 * w < f.1 + f.2)))
        = (decide (f.1 ≤ 4 * w) && decide (4 * w < f.1 + f.2)) := fun f => by
      by_cases hf : f = (a, n)
      · subst hf
        simp
        omega
      · simp [hf]
    unfold inFill memFill
    dsimp only
    rw [List.any_append, List.any_filter, List.any_congr rfl hnot]
    simp
    omega
  · rw [memByte_eq, memByte_eq]
    show Option.getD _ (getByte (m.data.filter _) _) = _
    rw [getByte_filter _ fun v => by simp; omega]
    rfl

end

/-- Settles O10, from what one store and one fill make of each stored word. -/
theorem storedBytesReadBack : Obligations.StoredBytesReadBack := by
  unfold Obligations.StoredBytesReadBack
  intro m a hm ha
  refine ⟨fun b hb => ⟨memBytes_memWrite hm ha hb, fun w hlow hhigh => ?_, fun w hout => ?_, memWrite_wf m a b hm⟩, fun n hn =>
    ⟨fun w => storedWord_memFill_inside, fun w hout => storedWord_memFill_outside ha hn hout, memFill_wf m a n hm⟩⟩
  · rw [storedWord_memWrite hm ha hb, if_pos ((mem_wordsOf ha hb w).2 ⟨by omega, hhigh⟩)]
    rfl
  · rw [storedWord_memWrite hm ha hb, if_neg (by rw [mem_wordsOf ha hb]; omega)]

end Sys2Proof.Machine
end

section
/-! Scrub passes (O26). -/

namespace Sys2Proof.Machine

/-- Where a DDR5 channel and a stack lie in the address map (R236). -/
def unitBase (ddr : Bool) (unit : Nat) : Nat := if ddr then 0x010000000000 + unit * 0x002000000000 else unit * 0x001000000000

/-- Their sizes: a degraded stack has 62 GiB (R261). -/
def unitSize (p : Pkg) (ddr : Bool) (unit : Nat) : Nat :=
  if ddr then 0x002000000000 else if rd p Ix.hbStackState unit = 0 then 0x001000000000 else 62 * 2 ^ 30

/-- Whether a scrub of the unit does anything (R247). -/
def scrubs (p : Pkg) (ddr : Bool) (unit : Nat) : Prop :=
  if ddr then rd p Ix.ddScrubPeriodH 0 ≠ 0 ∧ rd p Ix.ddChannelState unit = 0
  else unit < 12 ∧ rd p Ix.hbScrubPeriodH unit ≠ 0 ∧ regionHidden p unit = false ∧ rd p Ix.hbStackState unit ≠ 4

theorem place_ddr {unit a : Nat} (hunit : unit < 16) (hlow : unitBase true unit ≤ a) (hhigh : a < unitBase true unit + 0x002000000000) :
    ∃ off, place a = .t1 unit off := by
  simp only [unitBase, if_true] at hlow hhigh
  refine ⟨(a - 0x010000000000) % 0x002000000000, ?_⟩
  rw [place, if_neg (by omega), if_pos (by omega), show (a - 0x010000000000) / 0x002000000000 = unit by omega]

theorem place_hbm {unit a : Nat} (hunit : unit < 12) (hlow : unitBase false unit ≤ a) (hhigh : a < unitBase false unit + 0x001000000000) :
    ∃ off, place a = .t0 unit off := by
  simp only [unitBase, Bool.false_eq_true, if_false] at hlow hhigh
  refine ⟨a % 0x001000000000, ?_⟩
  rw [place, if_pos (by omega), show a / 0x001000000000 = unit by omega]

theorem unitSize_le (p : Pkg) (ddr : Bool) (unit : Nat) : unitSize p ddr unit ≤ if ddr then 0x002000000000 else 0x001000000000 := by
  unfold unitSize
  split
  · exact Nat.le_refl _
  · split <;> omega

/-- Where a scrubbed address lies. -/
theorem place_scrubbed {p : Pkg} {ddr : Bool} {unit a : Nat} (hunit : unit < 16) (hon : scrubs p ddr unit)
    (hlow : unitBase ddr unit ≤ a) (hhigh : a < unitBase ddr unit + unitSize p ddr unit) :
    ∃ off, place a = if ddr then .t1 unit off else .t0 unit off := by
  have hsize := unitSize_le p ddr unit
  cases ddr with
  | true => exact place_ddr hunit hlow (Nat.lt_of_lt_of_le hhigh (Nat.add_le_add_left hsize _))
  | false => exact place_hbm hon.1 hlow (Nat.lt_of_lt_of_le hhigh (Nat.add_le_add_left hsize _))

/-- Counting moved bytes is one write of `hb_bytes_moved`, or nothing. -/
theorem countMoved_cases (p : Pkg) (a n : Nat) : countMoved p a n = p ∨ ∃ s < 256, countMoved p a n = bump p Ix.hbBytesMoved s n := by
  unfold countMoved
  split
  · rename_i s off hplace
    refine .inr ⟨s, ?_, rfl⟩
    unfold place at hplace
    split at hplace
    · injection hplace
      omega
    · split at hplace
      · simp at hplace
      · split at hplace
        · simp at hplace
        · split at hplace
          · simp at hplace
          · split at hplace <;> simp at hplace
  · exact .inl rfl

@[simp] theorem countMoved_mem (p : Pkg) (a n : Nat) : (countMoved p a n).mem = p.mem := by
  rcases countMoved_cases p a n with h | ⟨s, -, h⟩
  · rw [h]
  · rw [h, bump_mem]

@[simp] theorem countMoved_tm (p : Pkg) (a n : Nat) : (countMoved p a n).tm = p.tm := by
  rcases countMoved_cases p a n with h | ⟨s, -, h⟩
  · rw [h]
  · rw [h, bump_tm]

theorem rd_countMoved (p : Pkg) (a n : Nat) {e : Entry} {sub : Nat} (he : e.index ≠ Ix.hbBytesMoved.index) (hs : sub < 256) :
    rd (countMoved p a n) e sub = rd p e sub := by
  rcases countMoved_cases p a n with h | ⟨s, hs', h⟩ <;> rw [h]
  exact rd_bump_ne _ _ he hs hs'

/-- The counter of a unit's corrected, and that of its uncorrectable words. -/
def correctedEntry (ddr : Bool) : Entry := if ddr then Ix.ddCorrected else Ix.hbCorrected
def uncorrectableEntry (ddr : Bool) : Entry := if ddr then Ix.ddUncorrectable else Ix.hbUncorrectable

theorem scrub_off {p : Pkg} {ddr : Bool} {unit : Nat} (h : ¬ scrubs p ddr unit) : scrub p ddr unit = p := by
  unfold scrub
  dsimp only
  rw [if_pos]
  cases ddr with
  | true => simpa [scrubs, Classical.or_iff_not_imp_left] using h
  | false =>
    simp only [scrubs, Bool.false_eq_true, if_false, not_and_or, Nat.not_lt, not_not] at h ⊢
    simpa [or_assoc] using h

/-- What a scrub does before it meets the listed words: it counts. -/
theorem scrub_on {p : Pkg} {ddr : Bool} {unit : Nat} (hunit : unit < 16) (h : scrubs p ddr unit) :
    ∃ q, q.mem = p.mem ∧ q.tm = p.tm ∧ q.parts = p.parts
      ∧ (∀ e ∈ [correctedEntry ddr, uncorrectableEntry ddr], rd q e unit = rd p e unit)
      ∧ scrub p ddr unit
        = (p.mem.raw.filter (fun e => decide (unitBase ddr unit ≤ 4 * e.1) && decide (4 * e.1 < unitBase ddr unit + unitSize p ddr unit))).foldl
            scrubWord q := by
  have hon : (if ddr then rd p Ix.ddScrubPeriodH 0 == 0 || rd p Ix.ddChannelState unit != 0
      else decide (12 ≤ unit) || rd p Ix.hbScrubPeriodH unit == 0 || regionHidden p unit || rd p Ix.hbStackState unit == 4) = false := by
    cases ddr with
    | true => simpa [scrubs] using h
    | false => simpa [scrubs, and_assoc] using h
  have hsize : (if !ddr && rd p Ix.hbStackState unit != 0 then 62 * 2 ^ 30 else if ddr then 0x002000000000 else 0x001000000000)
      = unitSize p ddr unit := by
    cases ddr with
    | true => rfl
    | false => by_cases h0 : rd p Ix.hbStackState unit = 0 <;> simp [unitSize, h0]
  unfold scrub
  dsimp only
  rw [hon, hsize, if_neg Bool.false_ne_true]
  refine ⟨_, ?_, ?_, ?_, ?_, rfl⟩
  · simp
  · simp
  · rw [countMoved_parts]
    rfl
  · intro e he
    cases ddr <;> simp only [correctedEntry, uncorrectableEntry, List.mem_cons, List.not_mem_nil, or_false, if_true, Bool.false_eq_true, if_false] at he ⊢
      <;> rcases he with rfl | rfl
      <;> rw [rd_countMoved _ _ _ (by decide) (by omega), rd_bump_ne _ _ (by decide) (by omega) (by omega)]

/-- A bad line is noted in the Tier Manager's state alone. -/
theorem noteBadLine_keeps (p : Pkg) (a : Nat) :
    (noteBadLine p a).mem = p.mem ∧ (noteBadLine p a).parts = p.parts ∧ (noteBadLine p a).dict = p.dict := by
  unfold noteBadLine
  dsimp only
  split
  · exact ⟨rfl, rfl, rfl⟩
  · exact ⟨rfl, rfl, rfl⟩

section
variable {p : Pkg} {ddr : Bool} {unit a off : Nat} (hplace : place a = if ddr then .t1 unit off else .t0 unit off)
include hplace

theorem countWord_uncorrectable : countWord p a 1 = bump p (uncorrectableEntry ddr) unit 1 := by
  unfold countWord
  rw [hplace]
  cases ddr <;> rfl

theorem countWord_corrected : (countWord p a 0).mem = p.mem ∧ (countWord p a 0).parts = p.parts
    ∧ (unit < 16 → rd (countWord p a 0) (correctedEntry ddr) unit = (rd p (correctedEntry ddr) unit + 1) % 2 ^ 64) := by
  unfold countWord
  rw [hplace]
  cases ddr with
  | true => exact ⟨rfl, rfl, fun _ => rd_bump_self _ _ _ _⟩
  | false =>
    refine ⟨rfl, rfl, fun hunit => ?_⟩
    have hkey : keyAt Ix.hbCorrected 0 unit ≠ keyAt Ix.hbChannelCorrected unit (hbChannel p unit off) := by
      simp only [keyAt, Ix.hbCorrected, Ix.hbChannelCorrected]
      omega
    exact (rdAt_wrAt_ne _ _ hkey).trans (rd_bump_self _ _ _ _)

end

theorem uncorrectableEntry_ne (ddr : Bool) : (uncorrectableEntry ddr).index ≠ Ix.hbBytesMoved.index := by cases ddr <;> decide
theorem correctedEntry_ne (ddr : Bool) : (correctedEntry ddr).index ≠ Ix.hbBytesMoved.index := by cases ddr <;> decide
theorem uncorrectableEntry_width (ddr : Bool) : (uncorrectableEntry ddr).type.width = 64 := by cases ddr <;> rfl

section
variable {p : Pkg} {ddr : Bool} {unit w off : Nat} {e : StoredWord} (hunit : unit < 16)
  (hplace : place (4 * w) = if ddr then .t1 unit off else .t0 unit off)
include hunit hplace

/-- What a scrub makes of an uncorrectable word of its unit (R247): poison, and one more in its counter. -/
theorem scrubWord_uncorrectable (he : decodeWord e = .uncorrectable) :
    (scrubWord p (w, e)).mem = poisonAt p.mem w ∧ (scrubWord p (w, e)).parts = p.parts
      ∧ rd (scrubWord p (w, e)) (uncorrectableEntry ddr) unit = (rd p (uncorrectableEntry ddr) unit + 1) % 2 ^ 64 := by
  have hcounted : scrubWord p (w, e)
      = noteBadLine (countMoved (bump { p with mem := poisonAt p.mem w } (uncorrectableEntry ddr) unit 1) (4 * w) 4) (4 * w) := by
    rw [← countWord_uncorrectable hplace]
    simp only [scrubWord, he]
  obtain ⟨hmem, hparts, hdict⟩ := noteBadLine_keeps (countMoved (bump { p with mem := poisonAt p.mem w } (uncorrectableEntry ddr) unit 1) (4 * w) 4) (4 * w)
  rw [hcounted, hmem, hparts]
  refine ⟨countMoved_mem _ _ _, countMoved_parts _ _ _, ?_⟩
  rw [rd_of_dict hdict, rd_countMoved _ _ _ (uncorrectableEntry_ne ddr) (by omega), rd_bump_self, uncorrectableEntry_width]
  rfl

/-- What a scrub makes of a corrected word of its unit (R247): clean data, and one more in its counter. -/
theorem scrubWord_corrected {d : Word} (he : decodeWord e = .data d true) :
    (scrubWord p (w, e)).mem = storeWord p.mem w (encodeWord d) ∧ (scrubWord p (w, e)).parts = p.parts
      ∧ rd (scrubWord p (w, e)) (correctedEntry ddr) unit = (rd p (correctedEntry ddr) unit + 1) % 2 ^ 64 := by
  obtain ⟨hmem, hparts, hcount⟩ := countWord_corrected (p := { p with mem := storeWord p.mem w (encodeWord d) }) hplace
  simp only [scrubWord, he, if_true]
  refine ⟨by rw [countMoved_mem, hmem], by rw [countMoved_parts, hparts], ?_⟩
  rw [rd_countMoved _ _ _ (correctedEntry_ne ddr) (by omega), hcount hunit]
  rfl

end

/-- Settles O26, by whether the unit is scrubbed, where its one listed word lies and how it decodes. -/
theorem scrubRewrites : Obligations.ScrubRewrites := by
  unfold Obligations.ScrubRewrites
  intro s ddr unit hp
  show (¬ scrubs s.pkg ddr unit → _) ∧ ∀ w e, scrubs s.pkg ddr unit → _
  refine ⟨fun hoff => completes_of hp (exec_scrubPass ddr unit s) (scrub_off hoff), fun w e hon hwf hraw => ?_⟩
  obtain ⟨q, hmem, htm, hparts, hcounts, hscrub⟩ := scrub_on (p := begun s) unit.isLt hon
  rw [show (begun s).mem.raw = [(w, e)] from hraw] at hscrub
  have hmeets : unitBase ddr unit ≤ 4 * w → 4 * w < unitBase ddr unit + unitSize s.pkg ddr unit → scrub (begun s) ddr unit = scrubWord q (w, e) :=
    fun hlow hhigh => by
      rw [hscrub, List.filter_cons_of_pos (by simpa using ⟨hlow, hhigh⟩)]
      rfl
  have hqwf : Memory.wf q.mem = true := hmem ▸ hwf
  refine ⟨fun hlow hhigh he => ?_, fun d hlow hhigh he => ?_, fun hout => ?_⟩
  · obtain ⟨off, hplace⟩ := place_scrubbed unit.isLt hon hlow hhigh
    obtain ⟨hqmem, hqparts, hqcount⟩ := scrubWord_uncorrectable (p := q) unit.isLt hplace he
    refine completes_of hp (exec_scrubPass ddr unit s) ?_
    rw [hmeets hlow hhigh, hqmem]
    refine ⟨storedWord_storeWord _ _ _ hqwf, poisonAt_wf _ _ hqwf, hqparts.trans hparts, ?_⟩
    rw [hcounts _ (by simp)] at hqcount
    cases ddr <;> exact hqcount
  · obtain ⟨off, hplace⟩ := place_scrubbed unit.isLt hon hlow hhigh
    obtain ⟨hqmem, hqparts, hqcount⟩ := scrubWord_corrected (p := q) unit.isLt hplace he
    refine completes_of hp (exec_scrubPass ddr unit s) ?_
    rw [hmeets hlow hhigh, hqmem]
    refine ⟨storedWord_storeWord _ _ _ hqwf, storeWord_wf _ _ _ hqwf, hqparts.trans hparts, ?_⟩
    rw [hcounts _ (by simp)] at hqcount
    cases ddr <;> exact hqcount
  · refine completes_of hp (exec_scrubPass ddr unit s) ?_
    have hfar : ¬ (unitBase ddr unit ≤ 4 * w ∧ 4 * w < unitBase ddr unit + unitSize (begun s) ddr unit) := by
      rintro ⟨hlow, hhigh⟩
      exact hout.elim (Nat.not_lt.2 hlow) (Nat.not_le.2 hhigh)
    rw [hscrub, List.filter_cons_of_neg (by simpa using hfar)]
    exact ⟨hmem, htm, hparts⟩

end Sys2Proof.Machine
end

section
/-! Page copies that complete (O29), and writes of the fixed ranges and of the spill pool (O30). -/

namespace Sys2Proof.Machine

/-- Settles O29, by whether the source is among the 64 copies in flight. -/
theorem pageCopyCompletes : Obligations.PageCopyCompletes := by
  unfold Obligations.PageCopyCompletes
  intro s source hp
  refine ⟨fun m hfound => completes_of hp (exec_pageCopyComplete source s) ?_, fun hfound => completes_of hp (exec_pageCopyComplete source s) ?_⟩
  · rw [show (begun s).tm = s.pkg.tm from rfl, hfound]
    exact ⟨_, rfl, rfl, rfl, rfl, rd_bump_self _ _ _ _⟩
  · rw [show (begun s).tm = s.pkg.tm from rfl, hfound]

/-- A command on an entry that the dictionary lets through is its owner's write, answered (R405). -/
theorem entryCommand_open {s : State} {e : Entry} {sub : Nat} (f : Pkg → Pkg × Answer) (hopen : gate s.pkg e 0 sub = none) :
    entryCommand e sub f (begun s) = answered e sub (f (begun s)) := by
  rw [entryCommand, gated, show gate (begun s) e 0 sub = none from hopen]

theorem rdB_wr_ne (p : Pkg) {e e' : Entry} {sub sub' : Nat} (v : Nat) (h : e.index ≠ e'.index) (hs : sub < 256) (hs' : sub' < 256) :
    rdB (wr p e' sub' v) e sub = rdB p e sub := by
  simp [rdB, wr, wrAt, tfind_tput_ne _ _ (keyAt_ne h hs hs')]

section
variable {p : Pkg} {pp : Nat} {data : Bytes}

/-- Whether fixed ranges keep their layout (R249). -/
def fixedRangesOk (p : Pkg) (pp : Nat) (data : Bytes) : Prop :=
  data.length % 16 = 0 ∧ data.length ≤ 4096 ∧ (records 16 data).all (fun b => fixedRangeOk p pp (leAt b 0 8, leAt b 8 8)) = true

theorem writeFixedRanges_taken (h : fixedRangesOk p pp data) :
    writeFixedRanges p pp data = (reclaimNeeded (wrB p Ix.tmFixedRanges pp data), accepted) := by
  obtain ⟨hwhole, hlength, hranges⟩ := h
  rw [writeFixedRanges, if_neg]
  simp [hwhole, hranges, Nat.not_lt.2 hlength]

theorem writeFixedRanges_refused (h : ¬ fixedRangesOk p pp data) :
    writeFixedRanges p pp data = (last p Ix.tmLastStatus 0 0x0902, invalid 0x0902) := by
  rw [writeFixedRanges, if_pos]
  · rfl
  · rw [fixedRangesOk, not_and_or, not_and_or, Bool.not_eq_true, Nat.not_le] at h
    exact h

end

section
variable {p : Pkg} {pp v : Nat} {size : Bool}

/-- The pool's base and size with the value written. -/
def spillBase (p : Pkg) (pp : Nat) (size : Bool) (v : Nat) : Nat := if size then rd p Ix.tmSpillBase pp else v
def spillBytes (p : Pkg) (pp : Nat) (size : Bool) (v : Nat) : Nat := if size then v else rd p Ix.tmSpillBytes pp

/-- Whether the spill pool is whole slots inside a fixed range of T1 (R250). -/
def spillPoolOk (p : Pkg) (pp : Nat) (size : Bool) (v : Nat) : Prop :=
  spillBase p pp size v % 4096 = 0 ∧ spillBytes p pp size v % slotSize p pp = 0
  ∧ (spillBytes p pp size v = 0 ∨ (inFixedRange p pp (spillBase p pp size v) (spillBytes p pp size v) = true ∧ rangeNo (spillBase p pp size v) = 1))

theorem writeSpillPool_taken (h : spillPoolOk p pp size v) :
    writeSpillPool p pp size v = (wr p (if size then Ix.tmSpillBytes else Ix.tmSpillBase) pp v, accepted) := by
  obtain ⟨hbase, hslots, hplace⟩ := h
  have hplaced : ¬ (spillBytes p pp size v ≠ 0
      ∧ (inFixedRange p pp (spillBase p pp size v) (spillBytes p pp size v) = false ∨ rangeNo (spillBase p pp size v) ≠ 1)) := by
    rw [← Bool.not_eq_true]
    tauto
  rw [writeSpillPool]
  exact if_neg (not_or.2 ⟨not_not.2 hbase, not_or.2 ⟨not_not.2 hslots, hplaced⟩⟩)

theorem writeSpillPool_refused (h : ¬ spillPoolOk p pp size v) :
    writeSpillPool p pp size v = (last p Ix.tmLastStatus 0 0x0903, invalid 0x0903) := by
  rw [writeSpillPool]
  refine if_pos ?_
  rw [spillPoolOk] at h
  show spillBase p pp size v % 4096 ≠ 0 ∨ spillBytes p pp size v % slotSize p pp ≠ 0 ∨ (spillBytes p pp size v ≠ 0
    ∧ (inFixedRange p pp (spillBase p pp size v) (spillBytes p pp size v) = false ∨ rangeNo (spillBase p pp size v) ≠ 1))
  rw [← Bool.not_eq_true]
  tauto

end

/-- A pool's base and size after a write of either. -/
theorem rd_wr_spill (p : Pkg) {pp : Nat} (hpp : pp < 12) (size : Bool) (v : DWord) :
    rd (wr p (if size then Ix.tmSpillBytes else Ix.tmSpillBase) pp v.toNat) Ix.tmSpillBase pp = spillBase p pp size v.toNat
    ∧ rd (wr p (if size then Ix.tmSpillBytes else Ix.tmSpillBase) pp v.toNat) Ix.tmSpillBytes pp = spillBytes p pp size v.toNat := by
  have hv : v.toNat % 2 ^ 64 = v.toNat := Nat.mod_eq_of_lt v.isLt
  cases size with
  | true => exact ⟨rd_wr_ne _ _ (by decide) (by omega) (by omega), (rd_wr_self _ _ _ _).trans hv⟩
  | false => exact ⟨(rd_wr_self _ _ _ _).trans hv, rd_wr_ne _ _ (by decide) (by omega) (by omega)⟩

/-- Settles O30, by the entry written and by whether the layout is kept. Two of its clauses are choices of the model: lent units that the
ranges need are reclaimed (entry 103 of its log), and 0x0902 answers a table that breaks its layout (entry 110). -/
theorem rangeWritesComplete : Obligations.RangeWritesComplete := by
  unfold Obligations.RangeWritesComplete
  intro s pp hp
  refine ⟨fun data hopen => ⟨fun hok => ?_, fun hbad => ?_⟩, fun size v hopen => ⟨fun hok => ?_, fun hbad => ?_⟩⟩
  · refine completes_of hp (exec_fixedRangesWrite pp data s) ?_
    rw [entryCommand_open _ hopen, writeFixedRanges_taken (p := begun s) hok]
    exact ⟨wrB (begun s) Ix.tmFixedRanges pp data, rdB_wrB_self _ _ _ _, wrB_mem _ _ _ _, wrB_tm _ _ _ _, wrB_parts _ _ _ _, rfl⟩
  · refine completes_of hp (exec_fixedRangesWrite pp data s) ?_
    rw [entryCommand_open _ hopen, writeFixedRanges_refused (p := begun s) hbad]
    exact ⟨rd_last_self _ _ _ _, rdB_wr_ne _ _ (by decide) (by omega) (by omega), emit_last _ _⟩
  · refine completes_of hp (exec_spillPoolWrite pp size v s) ?_
    rw [entryCommand_open _ hopen, writeSpillPool_taken (p := begun s) hok]
    obtain ⟨hbase, hbytes⟩ := rd_wr_spill (begun s) pp.isLt size v
    refine ⟨hbase, hbytes, rfl, rfl, ?_⟩
    cases size <;> exact emit_last _ _
  · refine completes_of hp (exec_spillPoolWrite pp size v s) ?_
    rw [entryCommand_open _ hopen, writeSpillPool_refused (p := begun s) hbad]
    refine ⟨rd_last_ne _ _ (by decide) (by omega) (by omega), rd_last_ne _ _ (by decide) (by omega) (by omega), rd_last_self _ _ _ _, ?_⟩
    cases size <;> exact emit_last _ _

end Sys2Proof.Machine
end

section
/-! How lending ends (O32). -/

namespace Sys2Proof.Machine

@[simp] theorem begun_tm (s : State) : (begun s).tm = s.pkg.tm := rfl
@[simp] theorem begun_mem (s : State) : (begun s).mem = s.pkg.mem := rfl
@[simp] theorem begun_parts (s : State) : (begun s).parts = s.pkg.parts := rfl
@[simp] theorem ownId_begun (s : State) : ownId (begun s) = ownId s.pkg := rfl

/-- What changes of the loans leave: everything but the loans, and the entries that show them. -/
@[simp] theorem modLoans_tm (p : Pkg) (f : List Loan → List Loan) : (modLoans p f).tm = { p.tm with loans := f p.tm.loans } := by
  simp [modLoans, showLoans]

@[simp] theorem modLoans_mem (p : Pkg) (f : List Loan → List Loan) : (modLoans p f).mem = p.mem := by
  simp [modLoans, showLoans]

@[simp] theorem modLoans_parts (p : Pkg) (f : List Loan → List Loan) : (modLoans p f).parts = p.parts := by
  simp [modLoans, showLoans]

@[simp] theorem setWindows_tm (p : Pkg) (l : List Bytes) : (setWindows p l).tm = p.tm := by simp [setWindows]
@[simp] theorem setWindows_mem (p : Pkg) (l : List Bytes) : (setWindows p l).mem = p.mem := by simp [setWindows]
@[simp] theorem setWindows_parts (p : Pkg) (l : List Bytes) : (setWindows p l).parts = p.parts := by simp [setWindows]

/-- A borrowed unit's window goes with its loan. -/
theorem unmapUnit_keeps {p : Pkg} {l : Loan} {w : Nat} (hslot : l.slot = some w) :
    l ∉ (unmapUnit p l 0).tm.loans ∧ (unmapUnit p l 0).mem = p.mem ∧ (unmapUnit p l 0).parts = p.parts := by
  simp [unmapUnit, hslot]

/-- The borrowed unit of a lender whose deadline has passed (R258). -/
def dueLoan (p : Pkg) (lender unit : Nat) : Option Loan :=
  p.tm.loans.find? (fun l => l.slot.isSome && l.partner == lender && (l.unit == unit && l.state == 1 && decide (l.deadlineNs ≤ p.now)))

/-- Settles O32, by the command and by the loan that it finds. -/
theorem lendingEnds : Obligations.LendingEnds := by
  unfold Obligations.LendingEnds
  intro s unit hp
  refine ⟨?_, fun lender l hother hdue => ?_, fun lender hother hdue => ?_, fun lender l w hfound hslot hempty hmoves => ?_, fun l hfound => ?_,
    fun hfound => ?_, fun count hopen => ?_⟩
  · refine completes_of hp (exec_reclaimDeadline _ unit s) ?_
    simp only [ownId_begun, if_true, modLoans_tm, modLoans_mem, modLoans_parts]
    exact ⟨rfl, rfl, rfl⟩
  · refine completes_of hp (exec_reclaimDeadline lender unit s) ?_
    have hdue : dueLoan (begun s) lender unit = some l := hdue
    unfold dueLoan at hdue
    simp only [ownId_begun, hother, if_false, hdue]
  · refine completes_of hp (exec_reclaimDeadline lender unit s) ?_
    have hdue : dueLoan (begun s) lender unit = none := hdue
    unfold dueLoan at hdue
    simp only [ownId_begun, hother, if_false, hdue]
  · refine completes_of hp (exec_unitIdleRelease lender unit s) ?_
    have huntargeted : s.pkg.tm.moves.any (fun m => decide (0x040000000000 + l.slot.getD 0 * 0x40000000 ≤ m.dest)
        && decide (m.dest < 0x040000000000 + l.slot.getD 0 * 0x40000000 + 0x40000000)) = false := List.any_eq_false.2 fun m hm => by
      have := hmoves m hm
      simp [hslot]
      omega
    have hnopage : pagesInUnit (begun s) l = [] := hempty
    simp only [begun_tm, hfound, huntargeted, hnopage, List.isEmpty_nil, Bool.not_false, Bool.and_self, if_true]
    obtain ⟨hgone, hmem, hparts⟩ := unmapUnit_keeps (p := begun s) hslot
    exact ⟨_, hgone, hmem, hparts, rfl⟩
  · refine completes_of hp (exec_unitPoisonFillDone unit s) ?_
    simp only [begun_tm, hfound, modLoans_tm, modLoans_mem, modLoans_parts]
    exact ⟨by simp, rfl, rfl⟩
  · refine completes_of hp (exec_unitPoisonFillDone unit s) ?_
    simp only [begun_tm, hfound]
  · refine completes_of hp (exec_reclaimUnitsWrite count s) ?_
    rw [entryCommand_open _ hopen]
    exact ⟨_, rfl, rfl⟩

end Sys2Proof.Machine
end

section
/-! Messages of the mailbox (O31). -/

namespace Sys2Proof.Machine

/-- A violation entry leaves the Tier Manager's state. -/
theorem logViolation_tm (p : Pkg) (kind port partner status step : Nat) (header : Bytes) :
    (logViolation p kind port partner status step header).tm = p.tm := by
  unfold logViolation
  dsimp only
  split
  · split
    · rfl
    · rw [raiseAs, (raise_keeps _ _ _ _ _).tm]; rfl
  · rw [raiseAs, (raise_keeps _ _ _ _ _).tm]; rfl

/-- Messages that still have their place in the mailbox (R256, R257). -/
def mailboxNow (p : Pkg) : List (Nat × TmMessage) := p.tm.mailbox.filter (fun e => decide (p.now < e.1 + 1000000))

/-- A message has its place in the mailbox. -/
def taken (p : Pkg) (m : TmMessage) : Pkg := { p with tm := { p.tm with mailbox := mailboxNow p ++ [(p.now, m)] } }

section
variable {p : Pkg} {m : TmMessage}

theorem tmArrives_full (hfull : 256 ≤ (mailboxNow p).length) : (tmArrives p m).1 = last p Ix.tmLastStatus 0 0x0904 := by
  unfold tmArrives
  exact congrArg Prod.fst (if_pos hfull)

theorem tmArrives_malformed (hroom : (mailboxNow p).length < 256) (hbad : tmOk m = false) :
    (tmArrives p m).1 = logViolation p 2 0xFF m.sender 0x0E07 0 ((tmBytes m).take 12) := by
  unfold tmArrives
  exact congrArg Prod.fst ((if_neg (Nat.not_le.2 hroom)).trans (if_pos (by rw [hbad]; rfl)))

theorem tmArrives_taken (hroom : (mailboxNow p).length < 256) (hok : tmOk m = true) : (tmArrives p m).1 = tmAct (taken p m) m := by
  unfold tmArrives
  exact congrArg Prod.fst ((if_neg (Nat.not_le.2 hroom)).trans (if_neg (by rw [hok]; decide)))

end

/-- The loans' count is shown in bytes (0x4413). -/
theorem rd_modLoans_lent (p : Pkg) (f : List Loan → List Loan) :
    rd (modLoans p f) Ix.tmLentBytes 0 = ((lentUnits (modLoans p f)).length * 0x40000000) % 2 ^ 64 := by
  have hlent : lentUnits (modLoans p f) = lentUnits { p with tm := { p.tm with loans := f p.tm.loans } } := by
    simp [lentUnits]
  rw [hlent, modLoans, showLoans]
  rw [rd_wrB_ne _ _ (keyAt_ne (by decide) (by omega) (by omega)), rd_wr_self]
  rfl

/-- The six messages of R256 reach the mailbox in one way. -/
theorem exec_mailed (m : TmMessage) (s : State) :
    ∀ c ∈ [((1 : Nat), Instr.advert m), (2, .borrow m), (3, .grant m), (4, .refuse m), (5, .reclaim m), (6, .release m)],
      exec c.2 s = onPkgF (mailed c.1 m) s := by
  intro c hc
  simp only [List.mem_cons, List.not_mem_nil, or_false] at hc
  rcases hc with rfl | rfl | rfl | rfl | rfl | rfl <;> rfl

/-- A message that is acted on. -/
theorem mail_taken {s : State} {m : TmMessage} {t : Nat} {i : Instr} {effect : Pkg → Prop} (hp : powered s.pkg = true)
    (hexec : exec i s = onPkgF (mailed t m) s)
    (hroom : (s.pkg.tm.mailbox.filter (fun e => decide (s.clock.ns < e.1 + 1000000))).length < 256) (hok : tmOk { m with type := t } = true)
    (heffect : effect (tmAct (taken (begun s) { m with type := t }) { m with type := t })) : Completes i s effect :=
  completes_of hp hexec (by rw [mailed, tmArrives_taken (p := begun s) hroom hok]; exact heffect)

section
variable {p : Pkg} {m : TmMessage}

/-- The units that answer a BORROW (R257). -/
def grantable (p : Pkg) (m : TmMessage) : List Nat := ((List.range 2048).filter (unitFree p)).take (min m.units (offer p))

theorem grantable_taken (s : State) (m m' : TmMessage) (t : Nat) : grantable (taken (begun s) m') { m with type := t } = grantable s.pkg m := rfl

theorem borrowRequest_refused (h : grantable p m = []) : borrowRequest p m = sendTm p m.sender { type := 4 } (some m.sequence) := by
  unfold borrowRequest
  exact if_pos (List.isEmpty_iff.2 h)

theorem borrowRequest_granted (h : grantable p m ≠ []) : borrowRequest p m
    = sendTm (modLoans p (· ++ (grantable p m).map (fun u => { partner := m.sender, unit := u }))) m.sender
        { type := 3, units := (grantable p m).length, unitList := grantable p m } (some m.sequence) := by
  unfold borrowRequest
  exact if_neg (mt List.isEmpty_iff.1 h)

/-- The borrower once a GRANT has answered its wish `w`: the wish is over, and the lender has that much less to offer. -/
def wishAnswered (p : Pkg) (m : TmMessage) (w : Nat × Nat × Nat × Nat) : Pkg :=
  lessOffer { p with tm := { p.tm with wanted := p.tm.wanted.filter (· != w) } } m.sender m.unitList.length

/-- A GRANT that answers a BORROW (R257). -/
theorem grantArrives_asked {w : Nat × Nat × Nat × Nat} (h : p.tm.wanted.find? (fun w => w.1 == m.sequence && w.2.1 == m.sender) = some w) :
    grantArrives p m = giveBack ((m.unitList.take (rd p Ix.tmBorrowMaxGib 0 - mappedUnits p)).foldl (mapUnit w.2.2.1 m.sender)
      (wishAnswered p m w)) m.sender (m.unitList.drop (rd p Ix.tmBorrowMaxGib 0 - mappedUnits p)) := by
  unfold grantArrives
  rw [h]
  rfl

/-- A GRANT that answers none. -/
theorem grantArrives_unasked (h : p.tm.wanted.find? (fun w => w.1 == m.sequence && w.2.1 == m.sender) = none) :
    grantArrives p m = giveBack p m.sender m.unitList := by
  unfold grantArrives
  rw [h]

end

/-- RECLAIM at the borrower: the named units go under reclaim, with the earlier of two deadlines (R258). -/
theorem reclaimNotice_shows (p : Pkg) (m : TmMessage) :
    (reclaimNotice p m).tm.loans = p.tm.loans.map (fun l => if l.slot.isSome && l.partner == m.sender && m.unitList.contains l.unit
      then { l with state := 1, deadlineNs := if l.state = 1 then min l.deadlineNs m.deadlineNs else m.deadlineNs } else l)
    ∧ rd (reclaimNotice p m) Ix.tmLastStatus 0 = 0x0912 ∧ (reclaimNotice p m).mem = p.mem ∧ (reclaimNotice p m).parts = p.parts := by
  unfold reclaimNotice
  have hkept := fun q => raiseAs_keeps q Ix.tmLastStatus 0 0x0912 0xFF m.sender 0
  refine ⟨?_, ?_, ?_, ?_⟩
  · rw [(hkept _).tm, last_tm, modLoans_tm]
  · rw [(hkept _).rd _ _ (commsKey_low (by decide) (by omega)), rd_last_self]
    rfl
  · rw [(hkept _).mem, last_mem, modLoans_mem]
  · rw [(hkept _).parts, last_parts, modLoans_parts]

/-- RELEASE at the lender: the named units go to their fill (R258). -/
theorem releaseArrives_shows (p : Pkg) (m : TmMessage) :
    (releaseArrives p m).tm.loans
      = p.tm.loans.map (fun l => if l.slot.isNone && l.partner == m.sender && m.unitList.contains l.unit then { l with state := 2 } else l)
    ∧ (releaseArrives p m).mem = p.mem ∧ (releaseArrives p m).parts = p.parts := by
  rw [releaseArrives, modLoans_tm, modLoans_mem, modLoans_parts]
  exact ⟨rfl, rfl, rfl⟩

/-- Settles O31, by the timer or the message, and by what the message finds. Two of its clauses are choices of the model: a GRANT that
answers no BORROW goes back (entry 60 of its log), and a message keeps its place in the mailbox for 1 ms (entry 20). -/
theorem lendingMessagesComplete : Obligations.LendingMessagesComplete := by
  unfold Obligations.LendingMessagesComplete
  refine ⟨fun s hp => ⟨fun hlend => ?_, fun hlend => ?_, fun m hroom hok => ?_⟩, fun s m hp => ⟨fun c hc => ⟨fun hfull => ?_, fun hroom hbad => ?_⟩,
    fun hroom => ⟨fun hok => ⟨grantable s.pkg m, rfl, fun hnone => ?_, fun hsome => ?_⟩, fun hok => ⟨fun w hfound => ?_, fun hfound => ?_⟩, fun hok => ?_, fun hok => ?_,
      fun hok => ?_⟩⟩⟩
  · refine completes_of hp (exec_advertTimer s) ?_
    rw [if_pos (show rd (begun s) Ix.tmLendEnable 0 = 1 from hlend)]
    exact ⟨{ begun s with tm := { s.pkg.tm with advertised := offer s.pkg } }, rfl, rfl, rfl, rfl⟩
  · exact completes_of hp (exec_advertTimer s) (if_neg hlend)
  · exact mail_taken hp (exec_advert m s) hroom hok ⟨tget_tput_self _ _ _ _, rfl, rfl, rfl, rfl⟩
  · refine completes_of hp (exec_mailed m s c hc) ?_
    rw [mailed, tmArrives_full (p := begun s) hfull]
    exact ⟨rd_last_self _ _ _ _, rfl, rfl, rfl⟩
  · refine completes_of hp (exec_mailed m s c hc) ?_
    rw [mailed, tmArrives_malformed (p := begun s) hroom hbad]
    exact ⟨logViolation_tm _ _ _ _ _ _ _, logViolation_mem _ _ _ _ _ _ _, logViolation_parts _ _ _ _ _ _ _⟩
  · refine mail_taken hp (exec_borrow m s) hroom hok ⟨taken (begun s) { m with type := 2 }, rfl, rfl, rfl, ?_⟩
    exact borrowRequest_refused ((grantable_taken s m _ 2).trans hnone)
  · refine mail_taken hp (exec_borrow m s) hroom hok
      ⟨modLoans (taken (begun s) { m with type := 2 }) (· ++ (grantable s.pkg m).map (fun u => { partner := m.sender, unit := u })), ?_,
        rd_modLoans_lent _ _, modLoans_mem _ _, ?_⟩
    · rw [modLoans_tm]
      rfl
    · have hgranted := borrowRequest_granted (p := taken (begun s) { m with type := 2 }) (m := { m with type := 2 })
        (by rw [grantable_taken]; exact hsome)
      rw [grantable_taken] at hgranted
      exact hgranted
  · refine mail_taken hp (exec_grant m s) hroom hok ⟨wishAnswered (taken (begun s) { m with type := 3 }) { m with type := 3 } w, _, rfl, ?_, rfl, rfl, rfl,
      grantArrives_asked hfound⟩
    simp [wishAnswered, lessOffer]
  · exact mail_taken hp (exec_grant m s) hroom hok ⟨taken (begun s) { m with type := 3 }, rfl, rfl, rfl, grantArrives_unasked hfound⟩
  · exact mail_taken hp (exec_refuse m s) hroom hok ⟨rfl, rfl, rfl, rfl⟩
  · refine mail_taken hp (exec_reclaim m s) hroom hok ?_
    obtain ⟨hloans, hlast, hmem, hparts⟩ := reclaimNotice_shows (taken (begun s) { m with type := 5 }) { m with type := 5 }
    exact ⟨hloans, hlast, hmem, hparts⟩
  · refine mail_taken hp (exec_release m s) hroom hok ?_
    obtain ⟨hloans, hmem, hparts⟩ := releaseArrives_shows (taken (begun s) { m with type := 6 }) { m with type := 6 }
    exact ⟨hloans, hmem, hparts⟩

end Sys2Proof.Machine
end

section
/-! Channels of DDR5 DIMMs and HBM4 stacks that fail (O27). -/

namespace Sys2Proof.Machine

/-- What noting a fault of a channel leaves: memory, partitions, the Tier Manager, the owners of regions and the entries below 0x5800. -/
structure FaultNoted (p q : Pkg) : Prop where
  mem : q.mem = p.mem
  parts : q.parts = p.parts
  tm : q.tm = p.tm
  rdAt : ∀ (e : Entry) (u sub : Nat), e.index + u < 0x5800 → sub < 256 → rdAt q e u sub = rdAt p e u sub
  owner : ∀ r, partOfRegion q r = partOfRegion p r

theorem FaultNoted.trans {p q r : Pkg} (h : FaultNoted p q) (g : FaultNoted q r) : FaultNoted p r where
  mem := g.mem.trans h.mem
  parts := g.parts.trans h.parts
  tm := g.tm.trans h.tm
  rdAt := fun e u sub he hs => (g.rdAt e u sub he hs).trans (h.rdAt e u sub he hs)
  owner := fun s => (g.owner s).trans (h.owner s)

/-- Keys below those of 0x5800 are no counters of transactions and events. -/
theorem commsKey_below {e : Entry} {u sub : Nat} (h : e.index + u < 0x5800) (hs : sub < 256) : commsKey (keyAt e u sub) = false :=
  commsKey_low (by omega) hs

theorem raise_faultNoted (p : Pkg) (code pp unit detail : Nat) : FaultNoted p (raise p code pp unit detail) where
  mem := (raise_keeps _ _ _ _ _).mem
  parts := (raise_keeps _ _ _ _ _).parts
  tm := (raise_keeps _ _ _ _ _).tm
  rdAt := fun e u sub he hs => (raise_keeps _ _ _ _ _).rdAt e u sub (commsKey_below he hs)
  owner := fun r => partOfRegion_congr r fun q hq => (raise_keeps _ _ _ _ _).rd _ _ (commsKey_far (.inr (by simp only [keyAt, Ix.pcRegionMask]; omega)))

theorem recordHistory_tm (p : Pkg) (kind origin unit status step : Nat) : (recordHistory p kind origin unit status step).tm = p.tm := by
  rcases recordHistory_cases p kind origin unit status step with h | ⟨l, h⟩
  · rw [h]
    exact (raise0_keeps _ _).tm
  · rw [h]
    rfl

theorem recordHistory_faultNoted (p : Pkg) (kind origin unit status step : Nat) : FaultNoted p (recordHistory p kind origin unit status step) where
  mem := recordHistory_mem _ _ _ _ _ _
  parts := recordHistory_parts _ _ _ _ _ _
  tm := recordHistory_tm _ _ _ _ _ _
  rdAt := fun e u sub he hs => recordHistory_rdAt _ _ _ _ _ _ _ _ _ (commsKey_below he hs) (by simp only [keyAt, Ix.ruHistoryCount]; omega)
  owner := fun r => partOfRegion_congr r fun q hq => recordHistory_rd _ _ _ _ _ _ _ _ (by omega) (.inr (by decide)) (by decide)

/-- Writes that complete at once leave everything but the completions that wait. -/
theorem foldl_completeHere (l : List Txn) (st : Txn → Nat) (p : Pkg) :
    l.foldl (fun p t => completeHere p t (st t)) p = { p with ms := { p.ms with failed := p.ms.failed ++ l.map (fun t => (t, st t)) } } := by
  induction l generalizing p with
  | nil => simp
  | cons t l ih =>
    rw [List.foldl_cons, ih]
    simp [completeHere]

/-- The writes held outside a range (R261, R478). -/
def heldOutside (p : Pkg) (base n : Nat) : List Txn := p.tm.held.filter (fun t => decide (t.addr < base) || decide (base + n ≤ t.addr))

/-- Dropping the writes held in a range changes the queue and the completions that wait. -/
theorem dropHeld_keeps (p : Pkg) (base n : Nat) (status : Nat → Nat) :
    (dropHeld p base n status).tm.held = heldOutside p base n ∧ (dropHeld p base n status).dict = p.dict
    ∧ (dropHeld p base n status).mem = p.mem ∧ (dropHeld p base n status).parts = p.parts
    ∧ (dropHeld p base n status).tm.poisonFill = p.tm.poisonFill := by
  have houtside : p.tm.held.filter (fun t => !(decide (base ≤ t.addr) && decide (t.addr < base + n))) = heldOutside p base n :=
    List.filter_congr fun t _ => by simp [← decide_not]
  unfold dropHeld
  dsimp only
  rw [foldl_completeHere _ (fun t => status t.addr)]
  exact ⟨houtside, rfl, rfl, rfl, rfl⟩

/-- A failed DDR5 channel before its losses are reported: state 3, and no zero fill (R260, R263). -/
def ddrFailed (p : Pkg) (c : Nat) : Pkg :=
  let q := raise (recordHistory (wr p Ix.ddChannelState c 3) 5 1 c 0x0B10 0) 0x0B10 0xFF c 0
  { q with tm := { q.tm with zeroFill := tdel q.tm.zeroFill c, skip := tdel q.tm.skip c } }

theorem failDdr_eq (p : Pkg) (c : Nat) :
    failDdr p c = reportLoss (ddrFailed p c) 0xFF 3 1 c (0x010000000000 + c * 0x002000000000) (rd p Ix.ddDimmBytes c) := rfl

theorem ddrFailed_shows (p : Pkg) {c : Nat} (hc : c < 16) :
    rd (ddrFailed p c) Ix.ddChannelState c = 3 ∧ tfind (ddrFailed p c).tm.zeroFill c = none
    ∧ rd (ddrFailed p c) Ix.ddRetries c = rd p Ix.ddRetries c ∧ (ddrFailed p c).tm.held = p.tm.held
    ∧ (ddrFailed p c).mem = p.mem ∧ (ddrFailed p c).parts = p.parts := by
  have hnoted : FaultNoted (wr p Ix.ddChannelState c 3) _ :=
    (recordHistory_faultNoted (wr p Ix.ddChannelState c 3) 5 1 c 0x0B10 0).trans (raise_faultNoted _ 0x0B10 0xFF c 0)
  have hheld := congrArg Tm.held hnoted.tm
  refine ⟨?_, tfind_tdel_self _ _, ?_, hheld, hnoted.mem, hnoted.parts⟩
  · exact (hnoted.rdAt _ _ _ (by decide) (by omega)).trans (rd_wr_self _ _ _ _)
  · exact (hnoted.rdAt _ _ _ (by decide) (by omega)).trans (rd_wr_ne _ _ (by decide) (by omega) (by omega))

/-- A DDR5 channel that works fails (R260, R263). -/
theorem failChannel_ddr {p : Pkg} {unit : Nat} (ch : Nat) (hunit : unit < 16) (hworks : rd p Ix.ddChannelState unit ≤ 1) :
    ∃ q, rd q Ix.ddChannelState unit = 3 ∧ tfind q.tm.zeroFill unit = none ∧ rd q Ix.ddRetries unit = rd p Ix.ddRetries unit
      ∧ q.tm.held = heldOutside p (0x010000000000 + unit * 0x002000000000) 0x002000000000 ∧ q.mem = p.mem ∧ q.parts = p.parts
      ∧ failChannel p true unit ch = reportLoss q 0xFF 3 1 unit (0x010000000000 + unit * 0x002000000000) (rd p Ix.ddDimmBytes unit) := by
  obtain ⟨hheld, hdict, hmem, hparts, -⟩ :=
    dropHeld_keeps (forgetBadLines p true unit) (0x010000000000 + unit * 0x002000000000) 0x002000000000 (fun _ => 0x0B02)
  obtain ⟨hstate, hfill, hretries, hheld', hmem', hparts'⟩ :=
    ddrFailed_shows (dropHeld (forgetBadLines p true unit) (0x010000000000 + unit * 0x002000000000) 0x002000000000 (fun _ => 0x0B02)) hunit
  refine ⟨_, hstate, hfill, hretries.trans (rd_of_dict hdict _ _), hheld'.trans hheld, hmem'.trans hmem, hparts'.trans hparts, ?_⟩
  rw [failChannel, if_pos rfl, if_pos (show rd (forgetBadLines p true unit) Ix.ddChannelState unit ≤ 1 from hworks), failDdr_eq, rd_of_dict hdict]
  rfl

/-- One that is empty or has failed already loses its bad lines alone. -/
theorem failChannel_ddr_again {p : Pkg} {unit : Nat} (ch : Nat) (hfailed : 2 ≤ rd p Ix.ddChannelState unit) :
    failChannel p true unit ch = forgetBadLines p true unit := by
  rw [failChannel, if_pos rfl]
  exact if_neg (Nat.not_le.2 hfailed)

/-- A channel of a stack that is hidden, or that has failed already, loses its bad lines alone. -/
theorem failChannel_hbm_again {p : Pkg} {stack ch : Nat} (h : regionHidden p stack = true ∨ rdAt p Ix.hbChannelState stack ch = 1) :
    failChannel p false stack ch = forgetBadLines p false stack := by
  rw [failChannel, if_neg Bool.false_ne_true]
  exact if_pos (.inr h)

/-- A degraded stack before its losses are reported (R261). -/
def stackDegraded (p : Pkg) (s ch : Nat) : Pkg :=
  let q := wrAt (wr (wr p Ix.hbStackState s 3) Ix.hbFailedChannel s ch) Ix.hbChannelState s ch 1
  { q with tm := { q.tm with poisonFill := tput q.tm.poisonFill s 0 } }

theorem degradeStack_eq (p : Pkg) (s ch : Nat) : degradeStack p s ch
    = reportLoss (stackDegraded p s ch) ((partOfRegion (stackDegraded p s ch) s).getD 0xFF) 1 0 (ch * 256 + s) (s * 0x001000000000) 0x001000000000 := rfl

theorem stackDegraded_shows (p : Pkg) {s ch : Nat} (hs : s < 12) (hch : ch < 32) :
    rd (stackDegraded p s ch) Ix.hbStackState s = 3 ∧ rd (stackDegraded p s ch) Ix.hbFailedChannel s = ch
    ∧ rdAt (stackDegraded p s ch) Ix.hbChannelState s ch = 1 ∧ tfind (stackDegraded p s ch).tm.poisonFill s = some 0
    ∧ partOfRegion (stackDegraded p s ch) s = partOfRegion p s := by
  have hfar : ∀ e sub, e.index < 0x4820 ∨ 0x4830 ≤ e.index → sub < 256 → keyAt e 0 sub ≠ keyAt Ix.hbChannelState s ch := fun e sub he hsub => by
    simp only [keyAt, Ix.hbChannelState]
    omega
  refine ⟨?_, ?_, rdAt_wrAt_self _ _ _ _ _, tfind_tput_self _ _ _, partOfRegion_congr s fun pp hpp => ?_⟩
  · refine (rdAt_wrAt_ne _ _ (hfar _ _ (.inl (by decide)) (by omega))).trans ((rd_wr_ne _ _ (by decide) (by omega) (by omega)).trans ?_)
    exact rd_wr_self _ _ _ _
  · refine (rdAt_wrAt_ne _ _ (hfar _ _ (.inl (by decide)) (by omega))).trans ((rd_wr_self _ _ _ _).trans ?_)
    exact Nat.mod_eq_of_lt (by simp only [Ix.hbFailedChannel, EType.width]; omega)
  · exact (rdAt_wrAt_ne _ _ (hfar _ _ (.inr (by decide)) (by omega))).trans ((rd_wr_ne _ _ (by decide) (by omega) (by omega)).trans
      (rd_wr_ne _ _ (by decide) (by omega) (by omega)))

/-- A failed stack before its losses are reported: no offset is there any longer (R262). -/
def stackFailed (p : Pkg) (s ch : Nat) : Pkg :=
  let q := wrAt (wr p Ix.hbStackState s 4) Ix.hbChannelState s ch 1
  dropHeld { q with tm := { q.tm with poisonFill := tdel q.tm.poisonFill s } } (s * 0x001000000000) 0x001000000000
    (fun a => if hbChannel q s (a % 0x001000000000) = ch then 0x0A02 else 0x0A04)

theorem stackFailed_shows (p : Pkg) {s : Nat} (ch : Nat) (hs : s < 12) :
    rd (stackFailed p s ch) Ix.hbStackState s = 4 ∧ rdAt (stackFailed p s ch) Ix.hbChannelState s ch = 1
    ∧ tfind (stackFailed p s ch).tm.poisonFill s = none ∧ (stackFailed p s ch).tm.held = heldOutside p (s * 0x001000000000) 0x001000000000
    ∧ (stackFailed p s ch).mem = p.mem ∧ (stackFailed p s ch).parts = p.parts := by
  let q := wrAt (wr p Ix.hbStackState s 4) Ix.hbChannelState s ch 1
  obtain ⟨hheld, hdict, hmem, hparts, hfill⟩ := dropHeld_keeps { q with tm := { q.tm with poisonFill := tdel q.tm.poisonFill s } }
    (s * 0x001000000000) 0x001000000000 (fun a => if hbChannel q s (a % 0x001000000000) = ch then 0x0A02 else 0x0A04)
  have hfar : keyAt Ix.hbStackState 0 s ≠ keyAt Ix.hbChannelState s ch := by
    simp only [keyAt, Ix.hbStackState, Ix.hbChannelState]
    omega
  refine ⟨?_, ?_, (congrArg (tfind · s) hfill).trans (tfind_tdel_self _ _), hheld, hmem, hparts⟩
  · exact (rd_of_dict hdict _ _).trans ((rdAt_wrAt_ne _ _ hfar).trans (rd_wr_self _ _ _ _))
  · rw [stackFailed, rdAt, hdict]
    exact rdAt_wrAt_self (wr p Ix.hbStackState s 4) _ _ _ _

section
variable {p : Pkg} {stack ch : Nat} (hstack : stack < 12) (hshown : regionHidden p stack = false)
  (hworks : rdAt p Ix.hbChannelState stack ch ≠ 1)
include hstack hshown hworks

theorem failChannel_hbm_whole (hwhole : rd p Ix.hbStackState stack = 0) :
    failChannel p false stack ch = failHbmFirst (forgetBadLines p false stack) stack ch := by
  have hopen : ¬ (12 ≤ stack ∨ regionHidden (forgetBadLines p false stack) stack = true ∨ rdAt (forgetBadLines p false stack) Ix.hbChannelState stack ch = 1) :=
    not_or.2 ⟨Nat.not_le.2 hstack, not_or.2 ⟨Bool.eq_false_iff.1 hshown, hworks⟩⟩
  rw [failChannel, if_neg Bool.false_ne_true, if_neg hopen]
  simp only [show rd (forgetBadLines p false stack) Ix.hbStackState stack = 0 from hwhole]

theorem failChannel_hbm_degraded (hdegraded : rd p Ix.hbStackState stack = 2 ∨ rd p Ix.hbStackState stack = 3) :
    failChannel p false stack ch = failStack (forgetBadLines p false stack) stack ch := by
  have hopen : ¬ (12 ≤ stack ∨ regionHidden (forgetBadLines p false stack) stack = true ∨ rdAt (forgetBadLines p false stack) Ix.hbChannelState stack ch = 1) :=
    not_or.2 ⟨Nat.not_le.2 hstack, not_or.2 ⟨Bool.eq_false_iff.1 hshown, hworks⟩⟩
  rw [failChannel, if_neg Bool.false_ne_true, if_neg hopen]
  rcases hdegraded with h | h
  · simp only [show rd (forgetBadLines p false stack) Ix.hbStackState stack = 2 from h]
  · simp only [show rd (forgetBadLines p false stack) Ix.hbStackState stack = 3 from h]

/-- A stack's first failed channel degrades it (R261). -/
theorem failChannel_hbm_first (hch : ch < 32) (hwhole : rd p Ix.hbStackState stack = 0) :
    ∃ q, rd q Ix.hbStackState stack = 3 ∧ rd q Ix.hbFailedChannel stack = ch ∧ rdAt q Ix.hbChannelState stack ch = 1
      ∧ tfind q.tm.poisonFill stack = some 0 ∧ q.mem = p.mem ∧ q.parts = p.parts
      ∧ failChannel p false stack ch
        = reportLoss q ((partOfRegion p stack).getD 0xFF) 1 0 (ch * 256 + stack) (stack * 0x001000000000) 0x001000000000 := by
  obtain ⟨q, hnoted, hfirst⟩ : ∃ q, FaultNoted (forgetBadLines p false stack) q ∧ failHbmFirst (forgetBadLines p false stack) stack ch = degradeStack q stack ch :=
    ⟨_, (recordHistory_faultNoted _ _ _ _ _ _).trans (raise_faultNoted _ _ _ _ _), rfl⟩
  obtain ⟨hstate, hfailed, hmarked, hfill, howner⟩ := stackDegraded_shows q hstack hch
  refine ⟨stackDegraded q stack ch, hstate, hfailed, hmarked, hfill, hnoted.mem, hnoted.parts, ?_⟩
  rw [failChannel_hbm_whole hstack hshown hworks hwhole, hfirst, degradeStack_eq, howner, hnoted.owner]
  rfl

/-- A second one makes the stack absent (R262). -/
theorem failChannel_hbm_second (hdegraded : rd p Ix.hbStackState stack = 2 ∨ rd p Ix.hbStackState stack = 3) :
    ∃ q, rd q Ix.hbStackState stack = 4 ∧ rdAt q Ix.hbChannelState stack ch = 1 ∧ tfind q.tm.poisonFill stack = none
      ∧ q.tm.held = heldOutside p (stack * 0x001000000000) 0x001000000000 ∧ q.mem = p.mem ∧ q.parts = p.parts
      ∧ failChannel p false stack ch
        = fenceRegion (reportLoss q ((partOfRegion p stack).getD 0xFF) 2 0 stack (stack * 0x001000000000) 0x001000000000) stack 0x0A04 := by
  obtain ⟨q, hnoted, hsecond⟩ : ∃ q, FaultNoted (forgetBadLines p false stack) q ∧ failStack (forgetBadLines p false stack) stack ch
      = fenceRegion (reportLoss (stackFailed q stack ch) ((partOfRegion p stack).getD 0xFF) 2 0 stack (stack * 0x001000000000) 0x001000000000) stack 0x0A04 :=
    ⟨_, (recordHistory_faultNoted _ _ _ _ _ _).trans (raise_faultNoted _ _ _ _ _), rfl⟩
  obtain ⟨hstate, hmarked, hfill, hheld, hmem, hparts⟩ := stackFailed_shows q ch hstack
  refine ⟨stackFailed q stack ch, hstate, hmarked, hfill, ?_, hmem.trans hnoted.mem, hparts.trans hnoted.parts, ?_⟩
  · rw [hheld, heldOutside, hnoted.tm]
    rfl
  · rw [failChannel_hbm_degraded hstack hshown hworks hdegraded, hsecond]

end

/-- Settles O27, by the kind of unit and by its state. Two of its clauses are choices of the model: the retries are counted as used up
(entry 113 of its log), and the held writes leave the queue with the loss (entry 102). -/
theorem channelsFail : Obligations.ChannelsFail := by
  unfold Obligations.ChannelsFail
  refine ⟨fun s unit ch hp => ⟨fun hworks => ?_, fun hfailed => ?_⟩, fun s stack unit ch hunit hp => ?_⟩
  · refine completes_of hp (exec_channelFailure true unit ch s) ?_
    have hother : ∀ e, e.index ≠ Ix.ddRetries.index → rd (bump (begun s) Ix.ddRetries unit (rd s.pkg Ix.ddRetryLimit 0)) e unit = rd s.pkg e unit :=
      fun e he => rd_bump_ne _ _ he (by omega) (by omega)
    obtain ⟨q, hstate, hfill, hretries, hheld, hmem, hparts, hlost⟩ :=
      failChannel_ddr (p := bump (begun s) Ix.ddRetries unit (rd s.pkg Ix.ddRetryLimit 0)) ch unit.isLt (by rw [hother _ (by decide)]; exact hworks)
    refine ⟨q, hstate, hfill, hretries.trans (rd_bump_self _ _ _ _), hheld, hmem, hparts, ?_⟩
    rw [if_pos ⟨rfl, hworks⟩]
    rw [hother _ (by decide)] at hlost
    exact hlost
  · refine completes_of hp (exec_channelFailure true unit ch s) ?_
    have hkept : ¬ (true = true ∧ rd (begun s) Ix.ddChannelState unit ≤ 1) := not_and_of_not_right _ (Nat.not_le.2 hfailed)
    rw [if_neg hkept, failChannel_ddr_again (p := begun s) _ hfailed]
    exact ⟨rfl, rfl, rfl, rfl⟩
  · have hexec : exec (.channelFailure false unit ch) s = onPkgF (fun p => failChannel p false stack ch) s := by
      rw [← hunit]
      rfl
    refine ⟨fun hagain => completes_of hp hexec ?_, fun hshown hworks hwhole => completes_of hp hexec ?_,
      fun hshown hworks hdegraded => completes_of hp hexec ?_⟩
    · rw [failChannel_hbm_again (p := begun s) hagain]
      exact ⟨rfl, rfl, rfl, rfl⟩
    · exact failChannel_hbm_first (p := begun s) stack.isLt hshown hworks ch.isLt hwhole
    · exact failChannel_hbm_second (p := begun s) stack.isLt hshown hworks hdegraded

end Sys2Proof.Machine
end

section
/-! Writes that fail a channel, and fills that end (O28). -/

namespace Sys2Proof.Machine

theorem launchTxn_ms (p : Pkg) (t : Txn) (k : Packet) : (launchTxn p t k).ms = p.ms := by
  unfold launchTxn
  split
  · rfl
  · exact launch_ms _ _ _

theorem transmit_failed (p : Pkg) (before : List Txn) (t : Txn) : (transmit p before t).1.ms.failed = p.ms.failed := by
  unfold transmit
  dsimp only
  rw [launchTxn_ms]
  split <;> split <;> rfl

/-- A waiting transaction's turn adds to the completions that wait. -/
theorem failed_subset_pumpOne (a : Pkg × List Txn) (t : Txn) : a.1.ms.failed ⊆ (pumpOne a t).1.ms.failed := by
  have hcomplete : ∀ st, a.1.ms.failed ⊆ (completeHere a.1 t st).ms.failed := fun _ => List.subset_append_left _ _
  unfold pumpOne
  split
  · exact List.Subset.refl _
  · split
    · exact hcomplete _
    · split
      · exact hcomplete _
      · split
        · show a.1.ms.failed ⊆ (transmit a.1 a.2 t).1.ms.failed
          rw [transmit_failed]
          exact List.Subset.refl _
        · exact List.Subset.refl _

theorem failed_subset_pump (p : Pkg) : p.ms.failed ⊆ (pump p).ms.failed := by
  have hfold : ∀ (l : List Txn) (a : Pkg × List Txn), a.1.ms.failed ⊆ (l.foldl pumpOne a).1.ms.failed := fun l => by
    induction l with
    | nil => exact fun a => List.Subset.refl _
    | cons t l ih => exact fun a => List.Subset.trans (failed_subset_pumpOne a t) (ih _)
  exact hfold p.ms.txns (p, [])

/-- Whether a write must be held turns on the fills alone. -/
theorem mustHold_of_fills {p q : Pkg} (hpoison : q.tm.poisonFill = p.tm.poisonFill) (hzero : q.tm.zeroFill = p.tm.zeroFill)
    (hskip : q.tm.skip = p.tm.skip) (a : Nat) : mustHold q a = mustHold p a := by
  unfold mustHold
  rw [hpoison, hzero, hskip]

/-- Releasing the held writes leaves everything but the queue, and what sending changes. -/
theorem releaseWrites_keeps (p : Pkg) : KeepsState { p with tm := { p.tm with held := p.tm.held.filter (fun t => mustHold p t.addr) } } (releaseWrites p) := by
  unfold releaseWrites
  dsimp only
  rw [foldl_completeHere _ (fun _ => 0)]
  exact (ms_keeps _ _).trans (pump_keeps _)

/-- Each held write is held still, or waits to be performed. -/
theorem releaseWrites_held (p : Pkg) {t : Txn} (ht : t ∈ p.tm.held) :
    if mustHold (releaseWrites p) t.addr then t ∈ (releaseWrites p).tm.held else (t, 0) ∈ (releaseWrites p).ms.failed := by
  have htm := (releaseWrites_keeps p).tm
  rw [mustHold_of_fills (p := p) (by rw [htm]) (by rw [htm]) (by rw [htm])]
  split
  · rename_i hhold
    rw [htm]
    exact List.mem_filter.2 ⟨ht, hhold⟩
  · rename_i hfree
    unfold releaseWrites
    dsimp only
    rw [foldl_completeHere _ (fun _ => 0)]
    refine failed_subset_pump _ (List.mem_append_right _ (List.mem_map.2 ⟨t, List.mem_filter.2 ⟨ht, ?_⟩, rfl⟩))
    simpa using hfree

/-- The poison fill of a degraded stack ends: it poisons what remains, and the stack works (R261). -/
theorem endPoisonFill_shows {p : Pkg} {stack f : Nat} (hstack : stack < 12) (hfill : tfind p.tm.poisonFill stack = some f)
    (hstate : rd p Ix.hbStackState stack = 3) :
    rd (endPoisonFill p stack) Ix.hbStackState stack = 2 ∧ tfind (endPoisonFill p stack).tm.poisonFill stack = none
    ∧ (endPoisonFill p stack).mem = memFill p.mem (stack * 0x001000000000) (62 * 2 ^ 30) ∧ (endPoisonFill p stack).parts = p.parts
    ∧ ∀ t ∈ p.tm.held, if mustHold (endPoisonFill p stack) t.addr then t ∈ (endPoisonFill p stack).tm.held
        else (t, 0) ∈ (endPoisonFill p stack).ms.failed := by
  have hended : endPoisonFill p stack = releaseWrites (wr { p with
      mem := memFill p.mem (stack * 0x001000000000) (62 * 2 ^ 30), tm := { p.tm with poisonFill := tdel p.tm.poisonFill stack } } Ix.hbStackState stack 2) := by
    unfold endPoisonFill
    rw [hfill]
    exact congrArg releaseWrites (if_pos hstate)
  have hkept := releaseWrites_keeps (wr { p with
      mem := memFill p.mem (stack * 0x001000000000) (62 * 2 ^ 30), tm := { p.tm with poisonFill := tdel p.tm.poisonFill stack } } Ix.hbStackState stack 2)
  rw [← hended] at hkept
  refine ⟨?_, ?_, hkept.mem, hkept.parts, fun t ht => ?_⟩
  · exact (hkept.rd _ _ (commsKey_low (by decide) (by omega))).trans (rd_wr_self _ _ _ _)
  · rw [hkept.tm]
    exact tfind_tdel_self _ _
  · rw [hended]
    exact releaseWrites_held _ ht

/-- A DDR5 channel's zero fill ends (R478). -/
theorem endZeroFill_shows (p : Pkg) (c : Nat) :
    tfind (endZeroFill p c).tm.zeroFill c = none ∧ (endZeroFill p c).mem = p.mem ∧ (endZeroFill p c).parts = p.parts
    ∧ ∀ t ∈ p.tm.held, if mustHold (endZeroFill p c) t.addr then t ∈ (endZeroFill p c).tm.held else (t, 0) ∈ (endZeroFill p c).ms.failed := by
  have hkept := releaseWrites_keeps { p with tm := { p.tm with zeroFill := tdel p.tm.zeroFill c, skip := tdel p.tm.skip c } }
  refine ⟨?_, hkept.mem, hkept.parts, fun t ht => ?_⟩
  · rw [endZeroFill, hkept.tm]
    exact tfind_tdel_self _ _
  · rw [endZeroFill]
    exact releaseWrites_held _ ht

section
variable {s : State} {unit : Fin 16} {value : Byte} (hp : powered s.pkg = true)
include hp

/-- A write of `dd_fail_channel` that the dictionary lets through (R260). -/
theorem execFailChannelWrite_ddr {effect : Pkg → Prop} (hopen : gate s.pkg Ix.ddFailChannel 0 unit = none)
    (h : effect (answered Ix.ddFailChannel unit (writeFailChannel (begun s) true unit value.toNat))) :
    Completes (.failChannelWrite true unit value) s effect := by
  refine completes_of hp (exec_failChannelWrite true unit value s) ?_
  rw [if_pos rfl, entryCommand_open _ hopen]
  exact h

/-- One of `hb_fail_channel`. -/
theorem execFailChannelWrite_hbm {stack : Fin 12} {effect : Pkg → Prop} (hunit : unit.val = stack.val)
    (hopen : gate s.pkg Ix.hbFailChannel 0 stack = none)
    (h : effect (answered Ix.hbFailChannel stack (writeFailChannel (begun s) false stack value.toNat))) :
    Completes (.failChannelWrite false unit value) s effect := by
  refine completes_of hp (exec_failChannelWrite false unit value s) ?_
  rw [if_neg Bool.false_ne_true, if_neg (by omega), hunit, entryCommand_open _ hopen]
  exact h

end

/-- Settles O28, by the entry and the value written, and by the fill that ends. -/
theorem channelCommandsComplete : Obligations.ChannelCommandsComplete := by
  unfold Obligations.ChannelCommandsComplete
  refine ⟨fun s value hp => ⟨fun unit hopen => ⟨fun hvalue hworks => ?_, fun hvalue hfailed => ?_, fun hvalue => ?_⟩,
    fun stack unit hunit hopen => ⟨fun hvalue hshown hworks hwhole => ?_, fun hvalue hshown hworks hdegraded => ?_, fun hvalue => ?_⟩, fun unit hunit => ?_⟩,
    fun s hp => ⟨fun stack f hfill hstate => ?_, fun channel => ?_⟩⟩
  · refine execFailChannelWrite_ddr hp hopen ?_
    subst hvalue
    obtain ⟨q, hstate, -, -, -, hmem, hparts, hlost⟩ := failChannel_ddr (p := begun s) 0 unit.isLt hworks
    exact ⟨q, hstate, hmem, hparts, by rw [← rd_begun s Ix.ddDimmBytes unit, ← hlost]; rfl⟩
  · refine execFailChannelWrite_ddr hp hopen ?_
    subst hvalue
    have hagain : writeFailChannel (begun s) true unit (1 : Byte).toNat = (forgetBadLines (begun s) true unit, accepted) := by
      rw [← failChannel_ddr_again (p := begun s) 0 hfailed]
      rfl
    rw [hagain]
    exact ⟨rfl, rfl, rfl, emit_last _ _⟩
  · refine execFailChannelWrite_ddr hp hopen ?_
    have hnot : value.toNat ≠ 1 := fun h => hvalue (BitVec.eq_of_toNat_eq h)
    rw [writeFailChannel, if_pos rfl, if_neg hnot]
    exact ⟨rfl, rfl, emit_last _ _⟩
  · refine execFailChannelWrite_hbm hp hunit hopen ?_
    obtain ⟨q, hstate, hfailed, -, -, hmem, hparts, hlost⟩ := failChannel_hbm_first (p := begun s) stack.isLt hshown hworks hvalue hwhole
    refine ⟨q, hstate, hfailed, hmem, hparts, ?_⟩
    rw [writeFailChannel, if_neg Bool.false_ne_true, if_pos hvalue, hlost]
    rfl
  · refine execFailChannelWrite_hbm hp hunit hopen ?_
    obtain ⟨q, hstate, -, -, -, hmem, hparts, hlost⟩ := failChannel_hbm_second (p := begun s) stack.isLt hshown hworks hdegraded
    refine ⟨q, hstate, hmem, hparts, ?_⟩
    rw [writeFailChannel, if_neg Bool.false_ne_true, if_pos hvalue, hlost]
    rfl
  · refine execFailChannelWrite_hbm hp hunit hopen ?_
    rw [writeFailChannel, if_neg Bool.false_ne_true, if_neg (Nat.not_lt.2 hvalue)]
    exact ⟨rfl, rfl, emit_last _ _⟩
  · refine completes_of hp (exec_failChannelWrite false unit value s) ?_
    rw [if_neg Bool.false_ne_true, if_pos hunit]
    exact ⟨rfl, rfl, emit_last _ _⟩
  · obtain ⟨hworks, hover, hmem, hparts, hheld⟩ := endPoisonFill_shows (p := begun s) stack.isLt hfill hstate
    exact completes_of hp (exec_poisonFillComplete stack s) ⟨_, hworks, hover, hmem, hparts, hheld, rfl⟩
  · exact completes_of hp (exec_ddrFillComplete channel s) (endZeroFill_shows (begun s) channel)

end Sys2Proof.Machine
end

section
/-! Jobs of the Weight and Model Store: what the shared changes of them show and leave (R273 to R275). -/

namespace Sys2Proof.Machine

/-- A command on an entry that the dictionary lets through completes with what its owner's write shows once it is answered (R405). -/
theorem completes_of_write {i : Instr} {s : State} {e : Entry} {sub : Nat} {f : Pkg → Pkg × Answer} {r : Pkg × Answer} {effect : Pkg → Prop}
    (hp : powered s.pkg = true) (hx : exec i s = onPkgF (entryCommand e sub f) s) (hopen : gate s.pkg e 0 sub = none) (hwrite : f (begun s) = r)
    (h : effect (answered e sub r)) : Completes i s effect := by
  refine completes_of hp hx ?_
  rw [entryCommand_open f hopen, hwrite]
  exact h

/-- What sending one thing outward leaves, sending a list of them leaves. -/
theorem foldl_emit_same {α β : Type} (g : Pkg → β) (hg : ∀ p x, g (emit p x) = g p) (f : α → Out) (l : List α) (p : Pkg) :
    g (l.foldl (fun p x => emit p (f x)) p) = g p := by
  induction l generalizing p with
  | nil => rfl
  | cons x l ih => rw [List.foldl_cons, ih, hg]

@[simp] theorem begun_wm (s : State) : (begun s).wm = s.pkg.wm := rfl

section
variable {p q : Pkg} {j : Nat}

theorem rd_of_vals (h : q.dict.vals = p.dict.vals) (e : Entry) (sub : Nat) : rd q e sub = rd p e sub := by
  simp [rd, rdAt, h]

theorem jobAt_of_wm (h : p.wm = q.wm) (j : Nat) : jobAt p j = jobAt q j := by
  simp [jobAt, h]

theorem jobAt_modJob_self (f : Job → Job) (hj : j < p.wm.jobs.length) : jobAt (modJob p j f) j = f (jobAt p j) := by
  simp [jobAt, modJob, hj]

/-- A job that runs is one of the package's jobs. -/
theorem job_lt_of_running (hrun : (jobAt p j).state = 1) : j < p.wm.jobs.length := by
  by_contra hout
  rw [jobAt, List.getD_eq_default _ _ (Nat.not_lt.1 hout)] at hrun
  exact absurd hrun (by decide)

theorem job_lt_of_findIdx {f : Job → Bool} (hfree : p.wm.jobs.findIdx? f = some j) : j < p.wm.jobs.length := by
  obtain ⟨hlt, -⟩ := List.findIdx?_eq_some_iff_getElem.1 hfree
  exact hlt

@[simp] theorem length_modJob (p : Pkg) (j : Nat) (f : Job → Job) : (modJob p j f).wm.jobs.length = p.wm.jobs.length := by
  simp [modJob]

theorem dropVersion_now (p : Pkg) (v : Nat) : (dropVersion p v).now = p.now := (raiseAs_keeps _ _ _ _ _ _ _).now

theorem evictFor_now (es : List (Nat × Nat)) (fuel : Nat) (p : Pkg) : (evictFor es fuel p).now = p.now := by
  induction fuel generalizing p with
  | zero => rfl
  | succ fuel ih =>
    unfold evictFor
    split
    · rfl
    · split
      · rfl
      · rw [ih, dropVersion_now]

/-- Room that is found takes no time (R274 step 4). -/
theorem makeExtents_now {es : List (Nat × Nat)} {r : Pkg} (h : makeExtents p es = (r, 0)) : r.now = p.now := by
  unfold makeExtents at h
  split at h
  · cases h
  · dsimp only at h
    rw [← (Prod.mk.inj h).1]
    split
    · exact evictFor_now _ _ _
    · rfl

/-- Dealing slices to a job's sources notes them as dealt, and changes nothing else of the job or of the registry (R275). -/
theorem dealSlices_shows (slices : List (Nat × Nat)) (hj : j < p.wm.jobs.length) :
    (dealSlices p j slices).wm.versions = p.wm.versions ∧ { jobAt (dealSlices p j slices) j with dealt := (jobAt p j).dealt } = jobAt p j := by
  unfold dealSlices
  dsimp only
  split
  · exact ⟨rfl, rfl⟩
  · have hwm := foldl_emit_same (·.wm) (fun _ _ => rfl) (fun d : Nat × Nat × Nat => Out.sliceRead d.2.2 j d.1 d.2.1)
    rw [jobAt_of_wm (hwm _ _), jobAt_modJob_self _ hj]
    exact ⟨(congrArg Wm.versions (hwm _ _)).trans rfl, rfl⟩

/-- Fetching a slice once more notes that in its job and sends the read: memory and every entry's value stay (R274 step 5). -/
theorem fetchAgain_shows (shard k : Nat) (hj : j < p.wm.jobs.length) :
    (fetchAgain p j shard k).mem = p.mem ∧ (fetchAgain p j shard k).dict.vals = p.dict.vals
    ∧ jobAt (fetchAgain p j shard k) j = { jobAt p j with refetched := (jobAt p j).refetched ++ [(shard, k)] } := by
  have hsame {β : Type} (g : Pkg → β) (hg : ∀ p x, g (emit p x) = g p) :
      g (fetchAgain p j shard k) = g (modJob p j (fun x => { x with refetched := x.refetched ++ [(shard, k)] })) :=
    foldl_emit_same g hg (fun d : Nat × Nat × Nat => Out.sliceRead d.2.2 j shard k) _ _
  refine ⟨hsame (·.mem) (fun _ _ => rfl), hsame (·.dict.vals) (fun _ _ => rfl), ?_⟩
  rw [jobAt_of_wm (hsame (·.wm) (fun _ _ => rfl)), jobAt_modJob_self _ hj]

end

end Sys2Proof.Machine
end

section
/-! Model loads and their slices (O33). -/

namespace Sys2Proof.Machine

section
variable {p : Pkg} {j : Nat} {b : Bytes} {image : ImageHead}

theorem writeLoadCommand_malformed (hbad : loadCommandOk b = false) :
    writeLoadCommand p b image = (last p Ix.wmLastStatus 0 0x0801, invalid 0x0801) := by
  rw [writeLoadCommand, hbad]
  rfl

theorem writeLoadCommand_busy (hok : loadCommandOk b = true) (hfull : p.wm.jobs.findIdx? (fun j => j.state != 1) = none) :
    writeLoadCommand p b image = (last p Ix.wmLastStatus 0 0x08E0, { abort := 7, status := 0x08E0 }) := by
  rw [writeLoadCommand, hok, hfull]
  rfl

theorem writeLoadCommand_starts (hok : loadCommandOk b = true) (hfree : p.wm.jobs.findIdx? (fun j => j.state != 1) = some j) :
    writeLoadCommand p b image = (startLoad p j b image, accepted) := by
  rw [writeLoadCommand, hok, hfree]
  rfl

/-- The package when a load has failed before its copy began: its job ends with the status. -/
def loadFailed (p : Pkg) (j : Nat) (b : Bytes) (st : Nat) : Pkg :=
  modJob (last p Ix.wmLastStatus 0 st) j (fun _ => { state := 3, tag := leAt b 6 2, version := leAt b 2 2, status := st })

theorem loadFailed_shows (st : Nat) (hj : j < p.wm.jobs.length) :
    jobAt (loadFailed p j b st) j = { state := 3, tag := leAt b 6 2, version := leAt b 2 2, status := st }
    ∧ (loadFailed p j b st).wm.versions = p.wm.versions ∧ rd (loadFailed p j b st) Ix.wmLastStatus 0 = st % 65536 ∧ (loadFailed p j b st).mem = p.mem :=
  ⟨jobAt_modJob_self (p := last p Ix.wmLastStatus 0 st) _ hj, rfl, rd_last_self p Ix.wmLastStatus 0 st, rfl⟩

theorem startLoad_failed {st : Nat} (hst : loadStatus p b image = st) (hne : st ≠ 0) : startLoad p j b image = loadFailed p j b st := by
  subst hst
  rw [startLoad, if_pos hne]
  rfl

theorem startLoad_noRoom {m : Bytes} {r : Pkg} {st : Nat} (hmanifest : image.manifest = some m) (hst : loadStatus p b image = 0)
    (hroom : makeExtents p ((shardsAt m (leAt b 4 2)).map Shard.extent) = (r, st)) (hne : st ≠ 0) :
    startLoad p j b image = loadFailed r j b st := by
  have hfound : (makeExtents p ((shardsAt (image.manifest.getD []) (leAt b 4 2)).map Shard.extent)) = (r, st) := by rw [hmanifest]; exact hroom
  rw [startLoad, if_neg (not_not.2 hst)]
  dsimp only
  rw [hfound, if_pos hne]
  rfl

/-- The version that a load enters, from its command, its image's header and its shards (R270, R274). -/
def loadedVersion (b h : Bytes) (shards : List Shard) : Version :=
  { version := leAt h 6 2, position := leAt b 4 2, draft := bit (leAt h 22 2) 1, signed := bit (leAt h 22 2) 0, imageId := leAt h 8 8, shards := shards }

/-- The registry with a version entered in it. -/
def versionEntered (p : Pkg) (v : Version) : Pkg := touch { p with wm := { p.wm with versions := insertVersion v p.wm.versions } } Ix.wmRegistry 0

/-- The slices of shards, by shard and slice (R271). -/
def slicesOf (shards : List Shard) : List (Nat × Nat) := shards.zipIdx.flatMap (fun s => (List.range s.1.digests.length).map (fun k => (s.2, k)))

/-- The job of a load that begins to copy (R273, R274). -/
def loadJob (b h m signature : Bytes) (shards : List Shard) (now : Nat) : Job :=
  { state := 1, tag := leAt b 6 2, version := leAt h 6 2, fullRate := bit (leAt b 1 1) 0, startNs := now,
    sources := ((records 2 (slice b 8 12)).map leNat).filter (· != 0xFFFF), stored := h ++ m ++ signature, todo := slicesOf shards,
    toCopy := (shards.map (·.bytes)).sum }

/-- The package when a load's version is entered, its job runs and its slices are dealt (R274 steps 4 and 5). -/
def loadBegun (r : Pkg) (j : Nat) (b h m signature : Bytes) (shards : List Shard) : Pkg :=
  dealSlices (modJob (versionEntered r (loadedVersion b h shards)) j (fun _ => loadJob b h m signature shards r.now)) j (slicesOf shards)

theorem startLoad_begins {h m : Bytes} {r : Pkg} (hheader : image.header = some h) (hmanifest : image.manifest = some m) (hst : loadStatus p b image = 0)
    (hroom : makeExtents p ((shardsAt m (leAt b 4 2)).map Shard.extent) = (r, 0)) :
    startLoad p j b image = finishLoad (showProfile (loadBegun r j b h m image.signature (shardsAt m (leAt b 4 2)))) j := by
  have hfound : (makeExtents p ((shardsAt (image.manifest.getD []) (leAt b 4 2)).map Shard.extent)) = (r, 0) := by rw [hmanifest]; exact hroom
  rw [startLoad, if_neg (not_not.2 hst)]
  dsimp only
  rw [hfound, if_neg (not_not.2 rfl), hheader, hmanifest]
  rfl

/-- A load that begins has its version entered; its job shows what the command and the image name, but for the slices dealt. -/
theorem loadBegun_shows {r : Pkg} (b h m signature : Bytes) (shards : List Shard) (hj : j < r.wm.jobs.length) :
    (loadBegun r j b h m signature shards).wm.versions = insertVersion (loadedVersion b h shards) r.wm.versions
    ∧ { jobAt (loadBegun r j b h m signature shards) j with dealt := [] } = loadJob b h m signature shards r.now := by
  have hjob : jobAt (modJob (versionEntered r (loadedVersion b h shards)) j (fun _ => loadJob b h m signature shards r.now)) j
      = loadJob b h m signature shards r.now := jobAt_modJob_self (p := versionEntered r (loadedVersion b h shards)) _ hj
  obtain ⟨hversions, hdealt⟩ := dealSlices_shows (p := modJob (versionEntered r (loadedVersion b h shards)) j
    (fun _ => loadJob b h m signature shards r.now)) (j := j) (slicesOf shards) (by simpa [versionEntered] using hj)
  rw [hjob] at hdealt
  exact ⟨hversions, hdealt⟩

end

section
variable {p : Pkg} {j shard k : Nat}

theorem sliceLands_idle (data : SliceRead) (h : (jobAt p j).state ≠ 1 ∨ (shard, k) ∉ (jobAt p j).todo) : sliceLands p j shard k data = p := by
  unfold sliceLands
  rw [if_pos]
  simpa using h

variable (hrun : (jobAt p j).state = 1) (htodo : (shard, k) ∈ (jobAt p j).todo)
include hrun htodo

theorem sliceLands_lacks (hsources : (jobAt p j).sources ≠ []) : sliceLands p j shard k .lacks = showProfile (failJob p j 0x0809) := by
  unfold sliceLands
  rw [if_neg (by simp [hrun, htodo]), if_pos (by simpa using hsources)]

variable {v : Version} {x : Shard} (hversion : findVersion p (jobAt p j).version = some v) (hshard : v.shards[shard]? = some x)
include hversion hshard

theorem sliceLands_good (b : Bytes) : sliceLands p j shard k (.good b) = landSlice p j shard k x (b.take (sliceBytes x k)) := by
  unfold sliceLands
  rw [if_neg (by simp [hrun, htodo]), if_neg (by simp), hversion, Option.bind_some, hshard]

theorem sliceLands_failed_first (hfirst : (shard, k) ∉ (jobAt p j).refetched) : sliceLands p j shard k .failed = fetchAgain p j shard k := by
  unfold sliceLands
  rw [if_neg (by simp [hrun, htodo]), if_neg (by simp), hversion, Option.bind_some, hshard]
  dsimp only
  rw [if_neg (by simpa using hfirst)]

theorem sliceLands_failed_again (hagain : (shard, k) ∈ (jobAt p j).refetched) : sliceLands p j shard k .failed = showProfile (failJob p j 0x0808) := by
  unfold sliceLands
  rw [if_neg (by simp [hrun, htodo]), if_neg (by simp), hversion, Option.bind_some, hshard]
  dsimp only
  rw [if_pos (by simpa using hagain)]

end

/-- The package when a slice of a load has landed with the right digest (R274 step 5). -/
def sliceTaken (p : Pkg) (j shard k n : Nat) : Pkg :=
  modJob (bump p Ix.wmBytesLoaded 0 n) j (fun x =>
    { x with todo := x.todo.filter (· != (shard, k)), landed := x.landed ++ [(shard, k)], copied := x.copied + n })

theorem sliceTaken_shows {p : Pkg} {j : Nat} (shard k n : Nat) (hj : j < p.wm.jobs.length) :
    (sliceTaken p j shard k n).mem = p.mem ∧ rd (sliceTaken p j shard k n) Ix.wmBytesLoaded 0 = (rd p Ix.wmBytesLoaded 0 + n) % 2 ^ 64
    ∧ jobAt (sliceTaken p j shard k n) j = { jobAt p j with
        todo := (jobAt p j).todo.filter (· != (shard, k)), landed := (jobAt p j).landed ++ [(shard, k)], copied := (jobAt p j).copied + n } :=
  ⟨rfl, rd_bump_self p Ix.wmBytesLoaded 0 n, jobAt_modJob_self (p := bump p Ix.wmBytesLoaded 0 n) _ hj⟩

/-- The package when a slice's digest has been found wrong for the first time (R274 step 5). -/
def sliceMismatched (p : Pkg) (j shard k : Nat) : Pkg :=
  bump (modJob p j (fun x => { x with mismatched := x.mismatched ++ [(shard, k)] })) Ix.wmDigestFailures 0 1

theorem sliceMismatched_shows {p : Pkg} {j : Nat} (shard k : Nat) (hj : j < p.wm.jobs.length) :
    (sliceMismatched p j shard k).mem = p.mem ∧ rd (sliceMismatched p j shard k) Ix.wmDigestFailures 0 = (rd p Ix.wmDigestFailures 0 + 1) % 2 ^ 32
    ∧ jobAt (sliceMismatched p j shard k) j = { jobAt p j with mismatched := (jobAt p j).mismatched ++ [(shard, k)] }
    ∧ j < (sliceMismatched p j shard k).wm.jobs.length := by
  refine ⟨rfl, rd_bump_self _ Ix.wmDigestFailures 0 1, ?_, by simpa [sliceMismatched] using hj⟩
  rw [sliceMismatched, jobAt_of_wm (bump_wm _ _ _ _), jobAt_modJob_self _ hj]

section
variable {p p' : Pkg} {j shard k : Nat} {x : Shard} {b : Bytes}
  (hstored : storeLocal p (x.target + k * 0x1000000) b false false 0x093 0xFF 0 = (p', 0))
include hstored

theorem landSlice_verified (hlength : b.length = sliceBytes x k) (hdigest : sha256 b = x.digests.getD k []) (hload : (jobAt p j).refill = false) :
    landSlice p j shard k x b = finishLoad (sliceTaken p' j shard k b.length) j := by
  rw [landSlice, hstored, if_neg (not_not.2 rfl), if_pos ⟨hlength, hdigest⟩, hload]
  rfl

theorem landSlice_mismatched (hdigest : sha256 b ≠ x.digests.getD k []) (hnew : (shard, k) ∉ (jobAt p j).mismatched)
    (hfirst : (shard, k) ∉ (jobAt p j).refetched) : landSlice p j shard k x b = fetchAgain (sliceMismatched p' j shard k) j shard k := by
  rw [landSlice, hstored, if_neg (not_not.2 rfl), if_neg (fun h => hdigest h.2), if_neg (by simpa using hfirst), if_neg (by simpa using hnew)]
  rfl

theorem landSlice_mismatched_again (hdigest : sha256 b ≠ x.digests.getD k []) (hagain : (shard, k) ∈ (jobAt p j).refetched) :
    ∃ q, q.mem = p'.mem ∧ landSlice p j shard k x b = showProfile (failJob q j 0x0807) := by
  rw [landSlice, hstored, if_neg (not_not.2 rfl), if_neg (fun h => hdigest h.2)]
  dsimp only
  rw [if_pos (by simpa using hagain)]
  refine ⟨_, ?_, rfl⟩
  split <;> rfl

end

/-- Settles O33, by what the load command and its image come to, and by what is read of the slice. Two of its clauses are choices of the model:
a slice stands in memory before its shard is verified, so one with a wrong digest does too (entry 56 of its log), and the slices are dealt by
their places among those dealt, and read again from the same source (entry 182). -/
theorem loadsComplete : Obligations.LoadsComplete := by
  unfold Obligations.LoadsComplete
  refine ⟨fun s data image hp hopen => ⟨fun hbad => ?_, fun hok hfull => ?_, fun j hok hfree => ?_⟩,
    fun s j shard k hp => ⟨fun d hidle => completes_of hp (exec_sliceLanded j shard k d s) (sliceLands_idle (p := begun s) d hidle), fun hrun htodo => ?_⟩⟩
  · exact completes_of_write hp (exec_loadCommand data image s) hopen (writeLoadCommand_malformed hbad)
      ⟨rfl, rfl, rd_last_self _ Ix.wmLastStatus 0 0x0801, emit_last _ _⟩
  · exact completes_of_write hp (exec_loadCommand data image s) hopen (writeLoadCommand_busy hok hfull)
      ⟨rfl, rfl, rd_last_self _ Ix.wmLastStatus 0 0x08E0, emit_last _ _⟩
  · have hwrite : writeLoadCommand (begun s) data image = (startLoad (begun s) j data image, accepted) := writeLoadCommand_starts hok hfree
    have hj := job_lt_of_findIdx hfree
    refine ⟨fun st hst hne => ?_, fun m r st _ hmanifest hst hroom hne hjobs => ?_, fun h m r shards hheader hmanifest hst hshards hroom hjobs => ?_⟩
    · rw [startLoad_failed hst hne] at hwrite
      obtain ⟨hjob, hversions, hstatus, hmem⟩ := loadFailed_shows (p := begun s) (b := data) st hj
      exact completes_of_write hp (exec_loadCommand data image s) hopen hwrite ⟨hjob, hversions, hstatus, hmem, emit_last _ _⟩
    · rw [startLoad_noRoom hmanifest hst hroom hne] at hwrite
      obtain ⟨hjob, hversions, hstatus, hmem⟩ := loadFailed_shows (p := r) (b := data) st (hjobs ▸ hj)
      exact completes_of_write hp (exec_loadCommand data image s) hopen hwrite ⟨hjob, hversions, hstatus, hmem, emit_last _ _⟩
    · subst hshards
      rw [startLoad_begins hheader hmanifest hst hroom] at hwrite
      obtain ⟨hversions, hjob⟩ := loadBegun_shows data h m image.signature (shardsAt m (leAt data 4 2)) (hjobs ▸ hj)
      rw [makeExtents_now hroom] at hjob
      exact completes_of_write hp (exec_loadCommand data image s) hopen hwrite
        ⟨_, loadedVersion data h (shardsAt m (leAt data 4 2)), hversions, rfl, rfl, rfl, rfl, congrArg Job.state hjob, congrArg Job.version hjob,
          congrArg Job.tag hjob, congrArg Job.landed hjob, congrArg Job.startNs hjob, congrArg Job.todo hjob, rfl⟩
  · have hj := job_lt_of_running hrun
    refine ⟨fun hsources => completes_of hp (exec_sliceLanded j shard k .lacks s) (sliceLands_lacks (p := begun s) hrun htodo hsources),
      fun v x hversion hshard hload => ⟨fun b p hlength hstored hwm => ?_, fun hfirst => ?_, fun hagain => ?_⟩⟩
    · have hlands : sliceLands (begun s) j shard k (.good b) = landSlice (begun s) j shard k x b := by
        rw [sliceLands_good (p := begun s) hrun htodo hversion hshard, List.take_of_length_le hlength.le]
      have hjob : jobAt p j = jobAt s.pkg j := jobAt_of_wm hwm j
      have hj' : j < p.wm.jobs.length := hwm ▸ hj
      refine ⟨fun hdigest => completes_of hp (exec_sliceLanded j shard k (.good b) s) ?_,
        fun hdigest hnew hfirst => completes_of hp (exec_sliceLanded j shard k (.good b) s) ?_,
        fun hdigest hagain => completes_of hp (exec_sliceLanded j shard k (.good b) s) ?_⟩
      · rw [hlands, landSlice_verified hstored hlength hdigest hload, ← hjob]
        obtain ⟨hmem, hloaded, htaken⟩ := sliceTaken_shows shard k b.length hj'
        exact ⟨_, hmem, hloaded, congrArg Job.todo htaken, congrArg Job.landed htaken, congrArg Job.copied htaken, rfl⟩
      · rw [hlands, landSlice_mismatched hstored hdigest hnew hfirst, ← hjob]
        obtain ⟨hmem, hfailures, hnoted, hin⟩ := sliceMismatched_shows shard k hj'
        obtain ⟨hmem', hvals, hrefetched⟩ := fetchAgain_shows shard k hin
        rw [hnoted] at hrefetched
        exact ⟨hmem'.trans hmem, (rd_of_vals hvals _ _).trans hfailures, (congrArg Job.todo hrefetched).trans rfl, congrArg Job.refetched hrefetched⟩
      · rw [hlands]
        exact landSlice_mismatched_again hstored hdigest hagain
    · refine completes_of hp (exec_sliceLanded j shard k .failed s) ?_
      rw [sliceLands_failed_first (p := begun s) hrun htodo hversion hshard hfirst]
      obtain ⟨hmem, hvals, hjob⟩ := fetchAgain_shows (p := begun s) shard k hj
      exact ⟨hmem, hvals, (congrArg Job.todo hjob).trans rfl, congrArg Job.refetched hjob⟩
    · exact completes_of hp (exec_sliceLanded j shard k .failed s) (sliceLands_failed_again (p := begun s) hrun htodo hversion hshard hagain)

end Sys2Proof.Machine
end

section
/-! Unloads and version switches (O34). -/

namespace Sys2Proof.Machine

section
variable (p : Pkg) (v : Nat)

/-- Ending the parked requests of a version changes partitions alone. -/
theorem endParked_keeps : (endParked p v).wm = p.wm ∧ (endParked p v).mem = p.mem := by
  unfold endParked
  refine List.foldlRecOn (motive := fun q : Pkg => q.wm = p.wm ∧ q.mem = p.mem) _ _ ⟨rfl, rfl⟩ (fun q hq pp _ => ?_)
  dsimp only
  split
  · exact hq
  · exact hq

/-- What it makes of the partitions does not turn on a last status. -/
theorem endParked_last (e : Entry) (sub n : Nat) : endParked (last p e sub n) v = last (endParked p v) e sub n := by
  unfold endParked
  refine List.foldl_hom (fun q => last q e sub n) (fun q pp => ?_)
  dsimp only
  rw [part_last]
  split
  · rfl
  · rfl

/-- The package when a version is out of the registry and its eviction is counted, before the event is raised (R279). -/
def versionDropped : Pkg := bump (forgetVersion p v) Ix.wmEvictions 0 1

theorem dropVersion_eq : dropVersion p v = raiseAs (versionDropped p v) Ix.wmLastStatus 0 0x0812 0xFF 0xFFFFFFFF 0 := rfl

@[simp] theorem versionDropped_versions : (versionDropped p v).wm.versions = p.wm.versions.filter (fun x => x.version != v) := rfl
@[simp] theorem versionDropped_mem : (versionDropped p v).mem = p.mem := rfl
@[simp] theorem versionDropped_parts : (versionDropped p v).parts = p.parts := rfl

theorem versionDropped_evictions : rd (versionDropped p v) Ix.wmEvictions 0 = (rd p Ix.wmEvictions 0 + 1) % 2 ^ 32 :=
  rd_bump_self (forgetVersion p v) Ix.wmEvictions 0 1

end

section
variable {p : Pkg} {value : Nat} {v : Version} (hfound : findVersion p (value % 65536) = some v)
include hfound

theorem writeUnload_evictable (hbits : value / 65536 < 2) (hfree : evictable' p v = true) :
    writeUnload p value
      = (raiseAs (versionDropped p v.version) Ix.wmLastStatus 0 0x0812 0xFF 0xFFFFFFFF 0, accepted) := by
  rw [writeUnload, hfound]
  dsimp only
  rw [if_neg (Nat.not_le.2 hbits), if_pos hfree, dropVersion_eq]

theorem writeUnload_parked (hbits : value / 65536 = 1) (hheld : evictable' p v = false) (hparked : onlyParked p v = true) :
    writeUnload p value
      = (raiseAs (versionDropped (last (endParked p v.version) Ix.wmLastStatus 0 0x080D) v.version) Ix.wmLastStatus 0 0x0812 0xFF 0xFFFFFFFF 0, accepted) := by
  rw [writeUnload, hfound]
  dsimp only
  rw [if_neg (by omega), hheld, if_neg Bool.false_ne_true, if_pos ⟨hbits, hparked⟩, dropVersion_eq, endParked_last]

theorem writeUnload_held (hheld : evictable' p v = false) (hwhy : value / 65536 = 0 ∨ value / 65536 = 1 ∧ onlyParked p v = false) :
    writeUnload p value = (last p Ix.wmLastStatus 0 0x080B, invalid 0x080B) := by
  have hkept : ¬ (value / 65536 = 1 ∧ onlyParked p v = true) := by
    rintro ⟨hone, hparked⟩
    obtain hzero | ⟨-, hnot⟩ := hwhy
    · omega
    · exact absurd (hparked.symm.trans hnot) (by decide)
  rw [writeUnload, hfound]
  dsimp only
  rw [if_neg (by omega), hheld, if_neg Bool.false_ne_true, if_neg hkept]
  rfl

end

theorem writeUnload_refused {p : Pkg} {value : Nat} (h : findVersion p (value % 65536) = none ∨ 2 ≤ value / 65536) :
    writeUnload p value = (p, invalid 0x1006) := by
  rw [writeUnload]
  split
  case h_1 => rfl
  case h_2 v hfound => rw [if_pos (h.resolve_left (by simp [hfound]))]; rfl

section
variable {p : Pkg} {b : Bytes}

/-- Whether a switch record keeps its layout (R281). -/
def switchShaped (b : Bytes) : Prop := b.length = 16 ∧ leAt b 6 1 ≤ 1 ∧ leAt b 7 1 ≤ 1 ∧ allZero (slice b 8 8) = true

theorem switchCheck_misshapen (h : ¬ switchShaped b) : switchCheck p b = some (invalid 0x080C) := by
  rw [switchCheck, if_pos]
  by_contra hnone
  simp only [not_or, not_not, Nat.not_lt, Bool.not_eq_false] at hnone
  exact h hnone

theorem not_misshapen (h : switchShaped b) : ¬ (b.length ≠ 16 ∨ 1 < leAt b 6 1 ∨ 1 < leAt b 7 1 ∨ allZero (slice b 8 8) = false) := by
  obtain ⟨hlength, hmode, hflags, hzero⟩ := h
  simp [hlength, hzero, hmode, hflags]

theorem switchCheck_draft {v : Version} (h : switchShaped b) (hfound : findVersion p (leAt b 4 2) = some v) (hdraft : v.draft = true) :
    switchCheck p b = some (invalid 0x080C) := by
  rw [switchCheck, if_neg (not_misshapen h), hfound]
  dsimp only
  rw [if_pos hdraft]

theorem switchCheck_absent (h : switchShaped b) (habsent : ∀ v, findVersion p (leAt b 4 2) = some v → v.draft = false ∧ v.state ≠ 1) :
    switchCheck p b = some (invalid 0x08E2) := by
  rw [switchCheck, if_neg (not_misshapen h)]
  split
  case h_1 => rfl
  case h_2 v hfound =>
    obtain ⟨hdraft, hstate⟩ := habsent v hfound
    rw [hdraft, if_neg Bool.false_ne_true, if_pos hstate]

/-- An accepted record waits in shadow where its partition runs and nothing is armed (R383). -/
theorem writeSwitch_waits {pp : Nat} (hcheck : switchCheck p b = none) (harm : tfind p.wm.arms pp = none) (hruns : pcState p pp = 2) :
    writeSwitch p pp b = (putShadow p Ix.wmSwitch pp (.bytes b), { pending := true }) := by
  rw [writeSwitch, hcheck]
  dsimp only
  rw [shadowed, writeClassB, harm, hruns]
  rfl

theorem writeSwitch_refused {pp : Nat} {a : Answer} (hcheck : switchCheck p b = some a) :
    writeSwitch p pp b = (last p Ix.wmLastStatus 0 a.status, a) := by
  rw [writeSwitch, hcheck]
  rfl

end

/-- A switch record that is refused with a status changes the store's last status alone. -/
theorem switchWrite_refused {s : State} {pp : Fin 12} {data : Bytes} {st : Nat} (hp : powered s.pkg = true) (hopen : gate s.pkg Ix.wmSwitch 0 pp = none)
    (hst : st < 2 ^ 16) (hcheck : switchCheck s.pkg data = some (invalid st)) :
    Completes (.switchWrite pp data) s (fun q => q.wm = s.pkg.wm ∧ q.dict.shadows = s.pkg.dict.shadows ∧ rd q Ix.wmLastStatus 0 = st
      ∧ q.out.getLast? = some (.answer 0x4001 pp 6 st false)) :=
  completes_of_write hp (exec_switchWrite pp data s) hopen (writeSwitch_refused (p := begun s) hcheck)
    ⟨rfl, rfl, (rd_last_self (begun s) Ix.wmLastStatus 0 st).trans (Nat.mod_eq_of_lt hst), emit_last _ _⟩

/-- Settles O34, by who holds the version to unload, and by what the checks say of the switch record. Two of its clauses are choices of the
model: an unknown version or a stray bit is refused with 0x1006 (entry 107 of its log), and 0x080B refuses every other version that is not
evictable, also one that is not resident or that only a neighbour's load holds, of which R279 does not speak. -/
theorem versionCommandsComplete : Obligations.VersionCommandsComplete := by
  unfold Obligations.VersionCommandsComplete
  refine ⟨fun s value hp hopen => ⟨fun v hfound hbits hfree => ?_, fun v hfound hbits hheld hparked => ?_, fun v hfound hheld hwhy => ?_, fun hrefused => ?_⟩,
    fun s pp data hp hopen => ⟨fun hcheck harm hruns => ?_, fun hbad => ?_, fun v hshaped hfound hdraft => ?_, fun hshaped habsent => ?_⟩⟩
  · exact completes_of_write hp (exec_unloadWrite value s) hopen (writeUnload_evictable hfound hbits hfree)
      ⟨versionDropped (begun s) v.version, versionDropped_versions _ _, versionDropped_evictions _ _, versionDropped_mem _ _, versionDropped_parts _ _, rfl⟩
  · obtain ⟨hwm, hmem⟩ := endParked_keeps (begun s) v.version
    exact completes_of_write hp (exec_unloadWrite value s) hopen (writeUnload_parked (p := begun s) hfound hbits hheld hparked)
      ⟨_, by rw [versionDropped_versions, last_wm, hwm, begun_wm], by rw [versionDropped_mem, last_mem, hmem, begun_mem],
        by rw [versionDropped_parts, last_parts], rfl⟩
  · exact completes_of_write hp (exec_unloadWrite value s) hopen (writeUnload_held (p := begun s) hfound hheld hwhy)
      ⟨rfl, rd_last_self _ Ix.wmLastStatus 0 0x080B, rfl, emit_last _ _⟩
  · exact completes_of_write hp (exec_unloadWrite value s) hopen (writeUnload_refused (p := begun s) hrefused) ⟨rfl, rfl, emit_last _ _⟩
  · exact completes_of_write hp (exec_switchWrite pp data s) hopen (writeSwitch_waits (p := begun s) hcheck harm hruns)
      ⟨tfind_tput_self _ _ _, rfl, rfl, rfl, emit_last _ _⟩
  · exact switchWrite_refused hp hopen (by decide) (switchCheck_misshapen hbad)
  · exact switchWrite_refused hp hopen (by decide) (switchCheck_draft hshaped hfound hdraft)
  · exact switchWrite_refused hp hopen (by decide) (switchCheck_absent hshaped habsent)

end Sys2Proof.Machine
end

section
/-! DMA channels: what reading a channel finds after the shared updates, what granting slots leaves of a channel that does not run
(R290, R421), and what a halt shows (R300). -/

namespace Sys2Proof.Machine

@[simp] theorem chan_begun (s : State) (c : Nat) : chan (begun s) c = chan s.pkg c := rfl
@[simp] theorem chanState_begun (s : State) (c : Nat) : chanState (begun s) c = chanState s.pkg c := rfl

theorem chan_of_dm {p q : Pkg} (h : q.dm = p.dm) (c : Nat) : chan q c = chan p c := by
  rw [chan, h, chan]

@[simp] theorem chan_last (p : Pkg) (e : Entry) (sub v c : Nat) : chan (last p e sub v) c = chan p c := rfl
@[simp] theorem chan_setChanState (p : Pkg) (c st c' : Nat) : chan (setChanState p c st) c' = chan p c' := rfl

@[simp] theorem chan_modChan_self (p : Pkg) (c : Nat) (f : Channel → Channel) : chan (modChan p c f) c = f (chan p c) := by
  simp [chan, modChan]

theorem chan_modChan_ne (p : Pkg) {c c' : Nat} (f : Channel → Channel) (h : c' ≠ c) : chan (modChan p c f) c' = chan p c' := by
  simp [chan, modChan, tget_tmod_ne _ _ _ h]

/-- A channel enters a state of R301. -/
theorem chanState_setChanState (p : Pkg) (c : Nat) {st : Nat} (h : st < 2 ^ 8) : chanState (setChanState p c st) c = st :=
  (rd_wr_self p Ix.dmChannelState c st).trans (Nat.mod_eq_of_lt h)

theorem rd_setChanState_ne (p : Pkg) {e : Entry} {c sub : Nat} (st : Nat) (h : e.index ≠ Ix.dmChannelState.index) (hs : sub < 256) (hc : c < 256) :
    rd (setChanState p c st) e sub = rd p e sub := rd_wr_ne p st h hs hc

@[simp] theorem charge_dict (p : Pkg) (pp resource region n : Nat) : (charge p pp resource region n).dict = p.dict := by
  unfold charge
  dsimp only
  split <;> rfl

@[simp] theorem charge_dm (p : Pkg) (pp resource region n : Nat) : (charge p pp resource region n).dm = p.dm := by
  unfold charge
  dsimp only
  split <;> rfl

/-- What granting slots leaves of a channel that does not run: every entry below those of the pool (0x5010), and all of the channel but
whether it waits for a grant. -/
structure GrantsKeep (c : Nat) (p q : Pkg) : Prop where
  entries : ∀ (e : Entry) (sub : Nat), e.index < 0x5010 → sub < 256 → rd q e sub = rd p e sub
  channel : { chan q c with waiting := (chan p c).waiting } = chan p c

section
variable {c : Nat} {p q r : Pkg}

theorem GrantsKeep.rfl : GrantsKeep c p p := ⟨fun _ _ _ _ => by rfl, by rfl⟩

theorem GrantsKeep.trans (h : GrantsKeep c p q) (g : GrantsKeep c q r) : GrantsKeep c p r where
  entries := fun e sub he hs => (g.entries e sub he hs).trans (h.entries e sub he hs)
  channel := by rw [← h.channel, ← g.channel]

theorem GrantsKeep.state (h : GrantsKeep c p q) (hc : c < 256) : chanState q c = chanState p c := h.entries _ _ (by decide) hc

theorem GrantsKeep.pieces (h : GrantsKeep c p q) : (chan q c).pieces = (chan p c).pieces := by rw [← h.channel]
theorem GrantsKeep.halting (h : GrantsKeep c p q) : (chan q c).halting = (chan p c).halting := by rw [← h.channel]

theorem GrantsKeep.of_channels (hdict : q.dict = p.dict) (hchannels : q.dm.channels = p.dm.channels) : GrantsKeep c p q where
  entries := fun e sub _ _ => rd_of_dict hdict e sub
  channel := by rw [chan, hchannels, ← chan]

theorem pool_keeps {e : Entry} (v : Nat) (he : 0x5010 ≤ e.index) : GrantsKeep c p (wr p e 0 v) where
  entries := fun e' sub he' hs => rd_wr_ne p v (by omega) hs (by omega)
  channel := by rfl

theorem modChan_other_keeps {c' : Nat} (f : Channel → Channel) (h : c ≠ c') : GrantsKeep c p (modChan p c' f) where
  entries := fun _ _ _ _ => by rfl
  channel := by rw [chan_modChan_ne p f h]

theorem modChan_waiting_keeps (c' : Nat) : GrantsKeep c p (modChan p c' (fun k => { k with waiting := true })) where
  entries := fun _ _ _ _ => by rfl
  channel := by
    by_cases h : c = c'
    case pos => rw [← h, chan_modChan_self]
    case neg => rw [chan_modChan_ne p _ h]

theorem waitForSlot_keeps (c' : Nat) : GrantsKeep c p (waitForSlot p c') := by
  unfold waitForSlot
  split
  case isTrue => exact .rfl
  case isFalse => exact (modChan_waiting_keeps c').trans (pool_keeps _ (by decide))

theorem foldl_waitForSlot_keeps (l : List Nat) (p : Pkg) : GrantsKeep c p (l.foldl waitForSlot p) := by
  induction l generalizing p with
  | nil => exact .rfl
  | cons c' l ih => exact (waitForSlot_keeps c').trans (ih _)

theorem issuePiece_keeps {c' : Nat} (h : c ≠ c') : GrantsKeep c p (issuePiece p c') := by
  have hchannels := congrArg Dm.channels (charge_dm p (rd p Ix.dmChannelPartition c') 4 0 ((chan p c').pieceBytes (chan p c').nextPiece))
  refine GrantsKeep.trans ?_ (modChan_other_keeps _ h)
  exact .of_channels (charge_dict _ _ _ _ _) hchannels

/-- Only a running channel wants a piece (R296). -/
theorem wantsPiece_runs (h : wantsPiece p c = true) : chanState p c = 2 := by
  simp only [wantsPiece, Bool.and_eq_true, beq_iff_eq] at h
  obtain ⟨⟨⟨⟨⟨hruns, -⟩, -⟩, -⟩, -⟩, -⟩ := h
  exact hruns

/-- A channel that is granted a slot is one of those that want a piece. -/
theorem runs_of_ready {order : List Nat} {f g : Nat → Bool} {c' : Nat} (h : ((order.filter (wantsPiece p)).filter f).find? g = some c') :
    chanState p c' = 2 :=
  wantsPiece_runs (List.mem_filter.1 (List.mem_filter.1 (List.mem_of_find?_eq_some h)).1).2

/-- Granting slots leaves a channel that does not run as it was. -/
theorem serveChannels_keeps (fuel : Nat) {p : Pkg} (hc : c < 256) (hidle : chanState p c ≠ 2) : GrantsKeep c p (serveChannels fuel p) := by
  induction fuel generalizing p with
  | zero => exact .rfl
  | succ fuel ih =>
    have next : ∀ {q}, GrantsKeep c p q → GrantsKeep c p (serveChannels fuel q) := fun h => h.trans (ih (by rwa [h.state hc]))
    have other : ∀ {c'}, chanState p c' = 2 → c ≠ c' := fun hruns h => hidle (h ▸ hruns)
    rw [serveChannels]
    dsimp only
    split
    case isTrue => exact (GrantsKeep.of_channels (by rfl) (by rfl)).trans (foldl_waitForSlot_keeps _ _)
    case isFalse =>
      split
      next hfirmware => exact next (issuePiece_keeps (other (runs_of_ready hfirmware)))
      next hturn =>
        split
        case isTrue => exact next ((GrantsKeep.of_channels (by rfl) (by rfl)).trans (issuePiece_keeps (other (runs_of_ready hturn))))
        case isFalse => exact next (GrantsKeep.of_channels (by rfl) (by rfl))
      next => exact next (GrantsKeep.of_channels (by rfl) (by rfl))

theorem serve_keeps (hc : c < 256) (hidle : chanState p c ≠ 2) : GrantsKeep c p (serve p) :=
  (serveChannels_keeps _ hc hidle).trans (pool_keeps _ (by decide))

end

/-- Raising an event leaves the DMA engine's entries and channels. -/
theorem raise_grantsKeep (c : Nat) (p : Pkg) (code partition unit detail : Nat) : GrantsKeep c p (raise p code partition unit detail) where
  entries := fun e sub he hs => (raise_keeps _ _ _ _ _).rd e sub (commsKey_far (.inl (by rw [keyAt]; omega)))
  channel := by rw [chan_of_dm (raise_keeps _ _ _ _ _).dm]

/-- The channel's own part of a halt: its pieces are gone, the fault is recorded and it is halted (R300). -/
def channelHalted (p : Pkg) (c : Nat) (f : DmaFault) : Pkg :=
  setChanState (last (wrB (modChan p c (fun k => { k with pieces := [], halting := none, waiting := false })) Ix.dmChannelFault c f.bytes)
    Ix.dmChannelLastStatus c f.haltStatus) c 5

/-- A halted channel shows state 5 and its status, and has nothing in flight (R300). -/
theorem haltNow_shows (p : Pkg) {c : Nat} (f : DmaFault) (hc : c < 256) :
    let q := haltNow p c f
    chanState q c = 5 ∧ rd q Ix.dmChannelLastStatus c = f.haltStatus % 2 ^ 16 ∧ (chan q c).pieces = [] ∧ (chan q c).halting = none := by
  have hstate : chanState (channelHalted p c f) c = 5 := chanState_setChanState _ c (by decide)
  have hlast : rd (channelHalted p c f) Ix.dmChannelLastStatus c = f.haltStatus % 2 ^ 16 :=
    (rd_setChanState_ne _ 5 (by decide) hc hc).trans (rd_last_self _ _ _ _)
  have hchan : chan (channelHalted p c f) c = { chan p c with pieces := [], halting := none, waiting := false } := by
    rw [channelHalted, chan_setChanState, chan_last, chan_of_dm (wrB_dm _ _ _ _), chan_modChan_self]
  have hkeep : GrantsKeep c (channelHalted p c f) (haltNow p c f) := by
    unfold haltNow
    dsimp only
    split
    case isTrue =>
      have hraised := raise_grantsKeep c (channelHalted p c f) 0x0C11 (rd (channelHalted p c f) Ix.dmChannelPartition c) c 0
      exact hraised.trans (serve_keeps hc (by rw [hraised.state hc, hstate]; decide))
    case isFalse => exact serve_keeps hc (hstate ▸ by decide)
  exact ⟨(hkeep.state hc).trans hstate, (hkeep.entries _ _ (by decide) hc).trans hlast, by rw [hkeep.pieces, hchan], by rw [hkeep.halting, hchan]⟩

end Sys2Proof.Machine
end

section
/-! The host's stores to a channel's control registers: what CONTROL, PRODUCED and DST_CONSUMED make of them (O35). -/

namespace Sys2Proof.Machine

@[simp] theorem registerAnswer_dm (r : Pkg × Nat) (type : Nat) (data : Bytes) : (registerAnswer r type data).dm = r.1.dm := by
  have noteMs_dm : ∀ p st, (noteMs p st).dm = p.dm := fun p st => by unfold noteMs; split <;> rfl
  unfold registerAnswer respondError respond
  dsimp only
  split <;> split <;> simp [noteMs_dm]

theorem abandonSource_keeps (p : Pkg) (source : Nat) : KeepsState p (abandonSource p source) :=
  (ms_keeps _ _).trans (pump_keeps _)

theorem showFences_dm (p : Pkg) : (showFences p).dm = p.dm :=
  List.foldlRecOn (motive := fun q : Pkg => q.dm = p.dm) _ _ rfl fun _ h _ _ => h

/-- Resetting a source's fence leaves the channels (R354). -/
theorem retireSource_dm (p : Pkg) (source : Nat) : (retireSource p source).dm = p.dm := by
  have habandoned := (abandonSource_keeps p source).dm
  unfold retireSource
  dsimp only
  split
  case isTrue => exact (showFences_dm _).trans habandoned
  case isFalse =>
    refine List.foldlRecOn (motive := fun q : Pkg => q.dm = p.dm) _ _ habandoned fun q hq _ _ => ?_
    exact List.foldlRecOn (motive := fun q : Pkg => q.dm = p.dm) _ _ hq fun r hr _ _ => (send_keeps r _).dm.trans hr

/-- Whether a channel's registers belong to a partition that resets and absorbs what reaches them (R424). -/
def channelAbsorbs (p : Pkg) (c : Nat) : Prop := rd p Ix.dmChannelPartition c < 12 ∧ pcState p (rd p Ix.dmChannelPartition c) = 6

section
variable {p : Pkg} {c offset value : Nat} {wide : Bool}

theorem channelStore_absorbed (h : channelAbsorbs p c) : channelStore c offset wide value p = registerAnswer (p, 0x0EE1) 0x41 [] := by
  rw [channelStore, if_pos h.1, unlessAbsorbed, if_pos h.2]

theorem channelStore_taken (h : ¬ channelAbsorbs p c) :
    channelStore c offset wide value p = registerAnswer (dmaStore p c offset wide value false) 0x41 [] := by
  unfold channelStore unlessAbsorbed
  dsimp only
  split
  case isTrue howned => rw [if_neg fun hresets => h ⟨howned, hresets⟩]
  case isFalse => rfl

/-- A channel of the firmware refuses the host's stores (R289). -/
theorem dmaStore_firmware (hfw : firmwareChannel c = true) : dmaStore p c offset wide value false = (p, 0x0C02) := by
  simp [dmaStore, hfw]

theorem dmaStore_control (hfw : firmwareChannel c = false) : dmaStore p c 0x90 false value false = chanControl p c value := by
  simp [dmaStore, hfw, narrowRegs]

/-- A channel whose DST_CONSUMED is put (R294). -/
def dstConsumedPut (p : Pkg) (c n : Nat) : Pkg := modChan p c (fun k => { k with dstConsumed := n })

theorem dmaStore_dstConsumed (hfw : firmwareChannel c = false) : dmaStore p c 0x88 true value false
    = (pace (((chan (dstConsumedPut p c value) c).pieces.map (·.number)).foldl (fun p n => writePiece p c n) (dstConsumedPut p c value)) c, 0) := by
  simp [dmaStore, hfw, wideRegs, dstConsumedPut]

/-- A channel that START or RESUME has put in state 1, before the pacing rule (R301, R354). -/
def channelRestarted (p : Pkg) (c : Nat) (f : Channel → Channel) : Pkg :=
  setChanState (modChan (retireSource p (chanSource c)) c (fun k => { f k with pieces := [], delivered := [], halting := none, waiting := false })) c 1

theorem channelRestarted_state (f : Channel → Channel) : chanState (channelRestarted p c f) c = 1 := chanState_setChanState _ c (by decide)

theorem channelRestarted_chan (f : Channel → Channel) : chan (channelRestarted p c f) c
    = { f (chan p c) with pieces := [], delivered := [], halting := none, waiting := false } := by
  rw [channelRestarted, chan_setChanState, chan_modChan_self, chan_of_dm (retireSource_dm _ _)]

/-- START begins with all counts 0 (R301). -/
def Channel.fromStart (k : Channel) : Channel := { k with consumed := 0, written := 0, signalled := 0, nextPiece := 0 }

/-- RESUME goes on from the first line not consumed (R301). -/
def Channel.fromConsumed (k : Channel) : Channel := { k with nextPiece := k.consumed * max 1 k.perLine }

theorem chanControl_start (hstate : chanState p c ∈ [0, 4, 5, 6]) (hok : startOk p c = true) :
    chanControl p c 1 = (pace (channelRestarted p c Channel.fromStart) c, 0) := by
  rw [chanControl, if_pos (by simpa using hstate), if_pos hok]
  rfl

theorem chanControl_start_unfit (hstate : chanState p c ∈ [0, 4, 5, 6]) (hbad : startOk p c = false) :
    chanControl p c 1 = (last p Ix.dmChannelLastStatus c 0x0C01, 0x0C01) := by
  rw [chanControl, if_pos (by simpa using hstate), if_neg (by simp [hbad])]

theorem chanControl_stop (hstate : chanState p c ∈ [1, 2]) : chanControl p c 2 = (setChanState p c 3, 0) := by
  rw [chanControl, if_pos (by simpa using hstate)]

theorem chanControl_resume (hstate : chanState p c ∈ [4, 5]) :
    chanControl p c 3 = (pace (channelRestarted p c Channel.fromConsumed) c, 0) := by
  rw [chanControl, if_pos (by simpa using hstate)]
  rfl

/-- A channel that ABORT has put in state 0, its pieces dropped (R301). -/
def channelAborted (p : Pkg) (c : Nat) : Pkg :=
  setChanState (last (modChan (abandonSource p (chanSource c)) c (fun k => { k with pieces := [], delivered := [], halting := none, waiting := false }))
    Ix.dmChannelLastStatus c 0x0C07) c 0

theorem chanControl_abort (hstate : chanState p c ≤ 5) : chanControl p c 4 = (serve (channelAborted p c), 0) := by
  rw [chanControl, if_neg (by omega)]
  rfl

theorem chanControl_abort_done (hstate : chanState p c = 6) :
    chanControl p c 4 = (setChanState (last p Ix.dmChannelLastStatus c 0x0C07) c 0, 0) := by
  rw [chanControl, if_pos (.inl hstate), if_pos hstate]

/-- States in which a command of CONTROL is not accepted (R301). -/
def statesRefusing : Nat → List Nat
  | 1 => [1, 2, 3]
  | 2 => [0, 3, 4, 5, 6]
  | 3 => [0, 1, 2, 3, 6]
  | 4 => [7]
  | _ => []

theorem chanControl_refused (hstate : chanState p c ∈ statesRefusing value) :
    chanControl p c value = (last p Ix.dmChannelLastStatus c 0x0C08, 0x0C08) := by
  unfold statesRefusing at hstate
  split at hstate <;> simp only [List.mem_cons, List.not_mem_nil, or_false] at hstate
  case h_1 | h_2 | h_3 => rw [chanControl, if_neg (by omega)]
  case h_4 => rw [chanControl, if_pos (by omega), if_neg (by omega)]

theorem channelAborted_shows (hc : c < 256) :
    let q := channelAborted p c
    chanState q c = 0 ∧ rd q Ix.dmChannelLastStatus c = 0x0C07 ∧ (chan q c).pieces = [] ∧ (chan q c).halting = none := by
  refine ⟨chanState_setChanState _ c (by decide), (rd_setChanState_ne _ 0 (by decide) hc hc).trans (rd_last_self _ _ _ _), ?_, ?_⟩ <;>
    rw [channelAborted, chan_setChanState, chan_last, chan_modChan_self]

end

/-- A control command is a store of its code to CONTROL (R301). -/
theorem exec_channelControl {c : Fin 256} {i : Instr} (hi : i ∈ [Instr.dmaStart c, .dmaStop c, .dmaResume c, .dmaAbort c]) (s : State) :
    ∃ v, exec i s = onPkgF (channelStore c 0x90 false v) s := by
  simp only [List.mem_cons, List.not_mem_nil, or_false] at hi
  obtain rfl | rfl | rfl | rfl := hi
  exacts [⟨1, exec_dmaStart c s⟩, ⟨2, exec_dmaStop c s⟩, ⟨3, exec_dmaResume c s⟩, ⟨4, exec_dmaAbort c s⟩]

/-- What an answered store shows of the channel. -/
theorem registerAnswer_chanState (r : Pkg × Nat) (type : Nat) (data : Bytes) {c : Nat} (hc : c < 256) :
    chanState (registerAnswer r type data) c = chanState r.1 c := registerAnswer_rd_low r type data (by decide) hc

/-- A command that the channel refuses changes its last status alone, and is answered with it (R337). -/
theorem channelRefused_shows (p : Pkg) {c code : Nat} (hc : c < 256) (hcode : code < 2 ^ 16) (hne : code ≠ 0) :
    let q := registerAnswer (last p Ix.dmChannelLastStatus c code, code) 0x41 []
    q.dm = p.dm ∧ q.mem = p.mem ∧ chanState q c = chanState p c ∧ rd q Ix.dmChannelLastStatus c = code
    ∧ ∃ k : Packet, q.out.getLast? = some (.packet k) ∧ k.type = 0x43 ∧ k.status = code := by
  obtain ⟨hlast, -, hanswer⟩ := registerAnswer_refused p (e := Ix.dmChannelLastStatus) (sub := c) 0x41 [] rfl (by decide) hc hcode hne
  refine ⟨registerAnswer_dm _ _ _, registerAnswer_mem _ _ _, ?_, hlast, hanswer⟩
  exact (registerAnswer_chanState _ _ _ hc).trans (rd_last_ne _ _ (by decide) hc hc)

/-- A store that does not reach the channel changes nothing of it, and is answered with the status. -/
theorem channelUnreached_shows (p : Pkg) {c code : Nat} (type : Nat) (data : Bytes) (hc : c < 256) (hne : code ≠ 0) :
    let q := registerAnswer (p, code) type data
    q.dm = p.dm ∧ q.mem = p.mem ∧ chanState q c = chanState p c ∧ rd q Ix.dmChannelLastStatus c = rd p Ix.dmChannelLastStatus c
    ∧ ∃ k : Packet, q.out.getLast? = some (.packet k) ∧ k.type = 0x43 ∧ k.status = code :=
  ⟨registerAnswer_dm _ _ _, registerAnswer_mem _ _ _, registerAnswer_chanState _ _ _ hc, registerAnswer_rd_low _ _ _ (by decide) hc,
    registerAnswer_error _ _ _ _ hne⟩

section
variable {i : Instr} {s : State} {c : Fin 256} {offset value : Nat} {wide : Bool} {effect : Pkg → Prop} (hp : powered s.pkg = true)
  (hx : exec i s = onPkgF (channelStore c offset wide value) s)
include hp hx

/-- A host's store to a channel whose partition does not reset completes with what the channel makes of it. -/
theorem completes_of_channelStore (hopen : ¬ channelAbsorbs s.pkg c) {r : Pkg × Nat} (hstore : dmaStore (begun s) c offset wide value false = r)
    (h : effect (registerAnswer r 0x41 [])) : Completes i s effect := by
  refine completes_of hp hx ?_
  rw [channelStore_taken (p := begun s) hopen, hstore]
  exact h

theorem completes_of_absorbed (hresets : channelAbsorbs s.pkg c) (h : effect (registerAnswer (begun s, 0x0EE1) 0x41 [])) : Completes i s effect := by
  refine completes_of hp hx ?_
  rw [channelStore_absorbed (p := begun s) hresets]
  exact h

end

section
variable {i : Instr} {s : State} {c : Fin 256} {value : Nat} {effect : Pkg → Prop} (hp : powered s.pkg = true)
  (hx : exec i s = onPkgF (channelStore c 0x90 false value) s) (hopen : ¬ channelAbsorbs s.pkg c) (hfw : firmwareChannel c = false)
include hp hx hopen hfw

/-- A control command that the channel takes completes with what CONTROL makes of it. -/
theorem completes_of_control {r : Pkg × Nat} (hcontrol : chanControl (begun s) c value = r) (h : effect (registerAnswer r 0x41 [])) :
    Completes i s effect :=
  completes_of_channelStore hp hx hopen ((dmaStore_control hfw).trans hcontrol) h

/-- A control command is refused in the states that do not accept it (R301). -/
theorem control_refused (hstate : chanState s.pkg c ∈ statesRefusing value) :
    Completes i s (fun q => q.dm = s.pkg.dm ∧ q.mem = s.pkg.mem ∧ chanState q c = chanState s.pkg c ∧ rd q Ix.dmChannelLastStatus c = 0x0C08
      ∧ ∃ k : Packet, q.out.getLast? = some (.packet k) ∧ k.type = 0x43 ∧ k.status = 0x0C08) :=
  completes_of_control hp hx hopen hfw (chanControl_refused (p := begun s) hstate)
    (channelRefused_shows (begun s) c.isLt (by decide) (by decide))

end

/-- The address of a channel's PRODUCED register in the control window (R237, R292). -/
def producedAddr (c : Nat) : Nat := 0x3FF001000000 + c * 0x100 + 0x80

section
variable {p : Pkg} {c n : Nat} (hc : c < 256)
include hc

theorem regAt_produced : regAt (0x1000000 + c * 0x100 + 0x80) = .dma c 0x80 := by
  have hchannel : (0x1000000 + c * 0x100 + 0x80 - 0x1000000) / 0x100 = c := by omega
  have hoffset : (0x1000000 + c * 0x100 + 0x80) % 0x100 = 0x80 := by omega
  rw [regAt, if_neg (by omega), if_neg (by omega), if_neg (by omega), if_neg (by omega), if_pos (by omega), hchannel, hoffset]

theorem controlOffset_produced : controlOffset (producedAddr c) = some (0x1000000 + c * 0x100 + 0x80) := by
  unfold controlOffset producedAddr
  rw [if_pos (by omega)]
  exact congrArg some (by omega)

theorem place_produced : place (producedAddr c) = .control (0x1000000 + c * 0x100 + 0x80) := by
  unfold place producedAddr
  rw [if_neg (by omega), if_neg (by omega), if_neg (by omega), if_neg (by omega), if_pos (by omega)]
  exact congrArg Place.control (by omega)

theorem absorbing_produced (hopen : ¬ channelAbsorbs p c) : absorbing p (partOfAddr p (producedAddr c)) = false := by
  rw [partOfAddr, place_produced hc]
  dsimp only
  rw [regAt_produced hc]
  dsimp only
  split
  case isTrue howned => exact beq_eq_false_iff_ne.2 fun hresets => hopen ⟨howned, hresets⟩
  case isFalse => rfl

theorem homeAtomic_produced (hopen : ¬ channelAbsorbs p c) : homeAtomic p (producedAddr c) true 0 n 0 true false 0x200 0
    = if firmwareChannel c then (p, 0x0C02, 0) else (producedAdd p c n, 0, (chan p c).produced) := by
  have haligned : ¬ producedAddr c % 8 ≠ 0 := by
    unfold producedAddr
    omega
  simp [homeAtomic, haligned, absorbing_produced hc hopen, controlOffset_produced hc, controlAtomic, regAt_produced hc]

end

/-- Settles O35, by whether the channel's partition resets, whose the channel is, and the states that accept the command. -/
theorem dmaCommandsComplete : Obligations.DmaCommandsComplete := by
  unfold Obligations.DmaCommandsComplete
  refine ⟨fun s c hp => ⟨fun hopen hfw => ⟨fun hstate hok => ?start, fun hstate hbad => ?unfit, fun hstate => ?stop, fun hstate => ?resume, fun hstate => ?abort,
    fun hstate => ?abortDone, fun i hi hstate => ?refused⟩, fun i hi => ⟨fun hresets => ?absorbed, fun hopen hfw => ?firmware⟩⟩,
    fun s c n hp hopen => ⟨fun hfw => ?add, fun hfw => ?dstConsumed, fun hfw i hi => ?firmwareCounts⟩⟩
  case start =>
    have hchan := channelRestarted_chan (p := begun s) (c := c) Channel.fromStart
    exact completes_of_control hp (exec_dmaStart c s) hopen hfw (chanControl_start (p := begun s) hstate hok)
      ⟨_, channelRestarted_state _, by rw [hchan]; rfl, by rw [hchan]; rfl, by rw [hchan]; rfl, by rw [hchan]; rfl, by rw [hchan], by rw [hchan], rfl⟩
  case unfit =>
    obtain ⟨hdm, -, hkept, hlast, hanswer⟩ := channelRefused_shows (begun s) c.isLt (code := 0x0C01) (by decide) (by decide)
    exact completes_of_control hp (exec_dmaStart c s) hopen hfw (chanControl_start_unfit (p := begun s) hstate hbad) ⟨hdm, hkept, hlast, hanswer⟩
  case stop =>
    obtain ⟨k, hk, htype, -⟩ := registerAnswer_ok (setChanState (begun s) c 3) 0x41 []
    exact completes_of_control hp (exec_dmaStop c s) hopen hfw (chanControl_stop (p := begun s) hstate)
      ⟨(registerAnswer_chanState _ _ _ c.isLt).trans (chanState_setChanState _ c (by decide)), registerAnswer_dm _ _ _, registerAnswer_mem _ _ _, k, hk, htype⟩
  case resume =>
    have hchan := channelRestarted_chan (p := begun s) (c := c) Channel.fromConsumed
    exact completes_of_control hp (exec_dmaResume c s) hopen hfw (chanControl_resume (p := begun s) hstate)
      ⟨_, channelRestarted_state _, by rw [hchan]; rfl, by rw [hchan]; rfl, by rw [hchan], by rw [hchan], rfl⟩
  case abort =>
    obtain ⟨hzero, hlast, hpieces, hhalting⟩ := channelAborted_shows (p := begun s) c.isLt
    exact completes_of_control hp (exec_dmaAbort c s) hopen hfw (chanControl_abort (p := begun s) hstate) ⟨_, hzero, hlast, hpieces, hhalting, rfl⟩
  case abortDone =>
    refine completes_of_control hp (exec_dmaAbort c s) hopen hfw (chanControl_abort_done (p := begun s) hstate)
      ⟨?_, ?_, registerAnswer_dm _ _ _, registerAnswer_mem _ _ _⟩
    · exact (registerAnswer_chanState _ _ _ c.isLt).trans (chanState_setChanState _ c (by decide))
    · exact (registerAnswer_rd_low _ _ _ (by decide) c.isLt).trans ((rd_setChanState_ne _ 0 (by decide) c.isLt c.isLt).trans (rd_last_self _ _ _ _))
  case refused =>
    simp only [List.mem_cons, List.not_mem_nil, or_false] at hi
    obtain rfl | rfl | rfl | rfl := hi
    · exact control_refused (value := 1) hp (exec_dmaStart c s) hopen hfw hstate
    · exact control_refused (value := 2) hp (exec_dmaStop c s) hopen hfw hstate
    · exact control_refused (value := 3) hp (exec_dmaResume c s) hopen hfw hstate
    · exact control_refused (value := 4) hp (exec_dmaAbort c s) hopen hfw hstate
  case absorbed =>
    obtain ⟨v, hx⟩ := exec_channelControl hi s
    obtain ⟨hdm, hmem, hkept, -, hanswer⟩ := channelUnreached_shows (begun s) 0x41 [] c.isLt (code := 0x0EE1) (by decide)
    exact completes_of_absorbed hp hx hresets ⟨hdm, hmem, hkept, hanswer⟩
  case firmware =>
    obtain ⟨v, hx⟩ := exec_channelControl hi s
    exact completes_of_channelStore hp hx hopen (dmaStore_firmware hfw) (channelUnreached_shows (begun s) 0x41 [] c.isLt (by decide))
  case add =>
    refine completes_of hp (exec_dmaProducedAdd c n s) ?_
    rw [← producedAddr, homeAtomic_produced (p := begun s) c.isLt hopen, if_neg (by simp [hfw])]
    exact ⟨modChan (begun s) c (fun k => { k with produced := (k.produced + n.toNat) % 2 ^ 64 }), by rw [chan_modChan_self]; rfl,
      by rw [chan_modChan_self]; rfl, rfl, rfl, rfl⟩
  case dstConsumed =>
    refine completes_of_channelStore hp (exec_dmaDstConsumedStore c n s) hopen (dmaStore_dstConsumed hfw) ⟨dstConsumedPut (begun s) c n.toNat, ?_⟩
    rw [dstConsumedPut, chan_modChan_self]
    exact ⟨rfl, rfl, rfl, rfl, rfl, rfl, rfl⟩
  case firmwareCounts =>
    simp only [List.mem_cons, List.not_mem_nil, or_false] at hi
    obtain rfl | rfl := hi
    · refine completes_of hp (exec_dmaProducedAdd c n s) ?_
      rw [← producedAddr, homeAtomic_produced (p := begun s) c.isLt hopen, if_pos hfw]
      obtain ⟨hdm, hmem, -, hlast, hanswer⟩ :=
        channelUnreached_shows (begun s) 0x42 (padTo (leBytes 8 0) 16) c.isLt (code := 0x0C02) (by decide)
      exact ⟨hdm, hmem, hlast, hanswer⟩
    · obtain ⟨hdm, hmem, -, hlast, hanswer⟩ := channelUnreached_shows (begun s) 0x41 [] c.isLt (code := 0x0C02) (by decide)
      exact completes_of_channelStore hp (exec_dmaDstConsumedStore c n s) hopen (dmaStore_firmware hfw) ⟨hdm, hmem, hlast, hanswer⟩

end Sys2Proof.Machine
end

section
/-! Pieces of a DMA channel: how a read lands (R290, R293), and what an error, the retry timer and the end of a drain do (O36). -/

namespace Sys2Proof.Machine

theorem chargeDma_dict (p : Pkg) (c : Nat) (host : Bool) (a n : Nat) : (chargeDma p c host a n).dict = p.dict := by
  unfold chargeDma
  dsimp only
  split
  case isTrue => exact charge_dict _ _ _ _ _
  case isFalse =>
    split
    case isTrue => exact charge_dict _ _ _ _ _
    case isFalse => split <;> simp only [charge_dict]

@[simp] theorem flyingPiece_begun (s : State) (c n : Nat) : flyingPiece (begun s) c n = flyingPiece s.pkg c n := rfl

section
variable {p : Pkg} {c n a status : Nat} {x : Piece}

theorem movePiece_resets (hresets : chanResets p c = true) (lost : Option Nat) : movePiece p c n lost = p := by
  rw [movePiece, if_pos hresets]

/-- The words of a piece with their places in the stream (R293). -/
def landedWords (k : Channel) (n : Nat) (words : List (Except Nat Bytes)) : List (Nat × Option Bytes) :=
  words.zipIdx.map (fun w => (k.posOf n + 4 * w.2, w.1.toOption))

/-- A channel whose piece has words to write (R290). -/
def pieceLanded (p : Pkg) (c n : Nat) (words : List (Nat × Option Bytes)) : Pkg :=
  modChan (bump p Ix.dmChannelPoisonPassed c (words.filter (fun w => w.2.isNone)).length) c (fun k => { k with pieces := k.pieces.map (fun x =>
    if x.number = n then { x with writing := true, retrying := false, attempts := 0, words := words } else x) })

/-- Words that were all read name no error. -/
theorem filterMap_errors_none {α : Type} {words : List (Except Nat Bytes)} {f : Except Nat Bytes × Nat → Option α}
    (hread : ∀ w ∈ words, w.toOption.isSome = true) (hf : ∀ b i, f (.ok b, i) = none) : words.zipIdx.filterMap f = [] := by
  refine List.filterMap_eq_nil_iff.2 fun ⟨w, i⟩ hw => ?_
  have hok := hread w (List.fst_mem_of_mem_zipIdx hw)
  cases w with
  | error st => simp [Except.toOption] at hok
  | ok b => exact hf b i

/-- A piece read from this package's memory without error goes on to be written (R290, R293). -/
theorem movePiece_lands {q : Pkg} {words : List (Except Nat Bytes)} (hopen : chanResets p c = false) (hlocal : (chan p c).inHost 0 = false)
    (hwords : readWords (rd p Ix.dmChannelPartition c) false ((chan p c).sourceOf n) ((chan p c).pieceBytes n / 4)
      (chargeDma p c false ((chan p c).sourceOf n) ((chan p c).pieceBytes n)) [] = (q, words, none))
    (hread : ∀ w ∈ words, w.toOption.isSome = true) :
    movePiece p c n none = writePiece (pieceLanded q c n (landedWords (chan p c) n words)) c n := by
  rw [← rd_of_dict (chargeDma_dict p c false ((chan p c).sourceOf n) ((chan p c).pieceBytes n))] at hwords
  rw [movePiece, if_neg (by simp [hopen])]
  simp only [hlocal, Bool.false_eq_true, if_false, hwords]
  rw [filterMap_errors_none hread fun _ _ => rfl]
  rfl

/-- A piece in flight waits for no retry. -/
theorem flyingPiece_retrying (hx : flyingPiece p c n = some x) : x.retrying = false := by
  have h := List.find?_some hx
  simp only [Bool.and_eq_true, Bool.not_eq_true'] at h
  exact h.2

/-- A piece that waits for its retry: to read it again, or to repeat the write that failed (R299). -/
def Piece.waiting (x : Piece) (run : Option (Nat × Bool × Bytes)) : Piece :=
  { x with attempts := x.attempts + 1, retrying := true, writing := x.writing && run.isSome, again := x.again ++ run.toList,
           words := if run.isSome then x.words else [] }

theorem Piece.waiting_read (x : Piece) :
    x.waiting none = { x with attempts := x.attempts + 1, retrying := true, writing := false, words := [] } := by
  simp [Piece.waiting]

theorem Piece.waiting_write (x : Piece) (run : Nat × Bool × Bytes) :
    x.waiting (some run) = { x with attempts := x.attempts + 1, retrying := true, again := x.again ++ [run] } := by
  simp [Piece.waiting]

/-- Below the retry limit an error that is retried has its piece wait (R299). -/
theorem pieceError_retried {side : Nat} (run : Option (Nat × Bool × Bytes)) (hfound : (chan p c).pieces.find? (fun x => x.number == n) = some x)
    (hflies : x.retrying = false) (hretried : retriedStatus side status = true) (hlimit : x.attempts < rd p Ix.dmChannelRetryLimit c) :
    pieceError p c n side a status run
      = modChan p c (fun k => { k with pieces := (chan p c).pieces.filter (fun x => x.number != n) ++ [x.waiting run] }) := by
  simp only [pieceError, hfound, Option.getD_some, hflies, Bool.false_eq_true, if_false]
  rw [if_pos ⟨hretried, hlimit⟩]
  rfl

/-- With nothing in flight a halt takes place at once (R300). -/
theorem haltChannel_drained (f : DmaFault) (hrunning : (chan p c).halting = none) (hempty : (chan p c).pieces = []) :
    haltChannel p c f = haltNow p c f := by
  simp [haltChannel, hrunning, hempty]

/-- An error of a read that is neither retried nor poison halts the channel with 0x0C04 (R299). -/
theorem pieceError_halts (hfound : (chan p c).pieces.find? (fun x => x.number == n) = some x) (honly : (chan p c).pieces = [x])
    (hrunning : (chan p c).halting = none) (hretried : retriedStatus 0 status = false) (hpoison : poisonedStatus status = false) :
    ∃ f, f.haltStatus = 0x0C04 ∧ pieceError p c n 0 a status none = haltNow (modChan p c (fun k => { k with pieces := [] })) c f := by
  have hnumber : x.number = n := by simpa using List.find?_some hfound
  have hothers : (chan p c).pieces.filter (fun x => x.number != n) = [] := by simp [honly, hnumber]
  simp only [pieceError, hothers, hretried, hpoison, Bool.false_eq_true, false_and, Bool.false_and, if_false, if_true]
  rw [haltChannel_drained _ (by rw [chan_modChan_self]; exact hrunning) (by rw [chan_modChan_self])]
  exact ⟨_, rfl, rfl⟩

/-- An error of a read: a poisoned word goes on with POISON_PASS, any other is a piece error (R299). -/
theorem pieceFails_read (hx : flyingPiece p c n = some x) (hreads : x.writing = false) (hst : status ≠ 0) :
    pieceFails p c n 0 a status
      = if poisonedStatus status = true ∧ bit ((chan p c).reg 0x34) 1 = true then movePiece p c n (some a) else pieceError p c n 0 a status none := by
  have hnone : p.ms.txns.find? (fun _ => false) = none := List.find?_eq_none.2 (by simp)
  simp [pieceFails, hx, hreads, hst, hnone]

/-- The write of a piece to an address, among the transactions outstanding. -/
def writeOut (p : Pkg) (c n a : Nat) : Option Txn := p.ms.txns.find? (fun t => t.purpose == .dmaPiece c n 1 && (pieceRun p t).1 == a)

/-- An error of a write ends its transaction, and is a piece error of that write alone (R299). -/
theorem pieceFails_write {t : Txn} (hx : flyingPiece p c n = some x) (hst : status ≠ 0) (ht : writeOut p c n a = some t) :
    pieceFails p c n 1 a status
      = pieceError { p with ms := { p.ms with txns := p.ms.txns.filter (· != t) } } c n 1 a status (some (pieceRun p t)) := by
  rw [writeOut] at ht
  simp [pieceFails, hx, hst, ht]

/-- The piece of a channel that waits for its retry. -/
def waitingPiece (p : Pkg) (c n : Nat) : Option Piece := (chan p c).pieces.find? (fun x => x.number == n && x.retrying)

theorem retryPiece_stays (h : waitingPiece p c n = none ∨ chanResets p c = true) : retryPiece p c n = p := by
  rw [retryPiece, ← waitingPiece]
  cases hx : waitingPiece p c n with
  | none => rfl
  | some x =>
    have hresets := h.resolve_left (by simp [hx])
    simp [hresets]

/-- A channel whose piece is tried again: counted, and waiting no longer (R299). -/
def pieceRetried (p : Pkg) (c n : Nat) : Pkg :=
  bump (modChan p c (fun k => { k with pieces := k.pieces.map (fun x => if x.number = n then { x with retrying := false, again := [] } else x) }))
    Ix.dmChannelRetries c 1

theorem retryPiece_repeats (hx : waitingPiece p c n = some x) (hopen : chanResets p c = false)
    (hmay : n = signalPiece ∨ x.writing = true ∨ (chan p c).halting = none) :
    retryPiece p c n = if n = signalPiece then signalChannel (pieceRetried p c n) c
      else if x.writing then finishPiece (x.again.foldl (writeRuns c n) (pieceRetried p c n)) c n else movePiece (pieceRetried p c n) c n none := by
  have hgoes : (chanResets p c || (n != signalPiece && !x.writing && (chan p c).halting.isSome)) = false := by
    obtain h | h | h := hmay <;> simp [hopen, h]
  rw [retryPiece, ← waitingPiece, hx]
  dsimp only
  rw [hgoes, if_neg Bool.false_ne_true]
  rfl

end

/-- The read of a piece in flight lands (R290). -/
theorem completes_of_movePiece {s : State} {c : Fin 256} {n : Nat} {x : Piece} {effect : Pkg → Prop} (hp : powered s.pkg = true)
    (hx : flyingPiece s.pkg c n = some x) (hreads : x.writing = false) (hpiece : n ≠ signalPiece) (h : effect (movePiece (begun s) c n none)) :
    Completes (.dmaPieceComplete c n) s effect := by
  refine completes_of hp (exec_dmaPieceComplete c n s) ?_
  simpa only [flyingPiece_begun, hx, hreads, beq_eq_false_iff_ne.2 hpiece, Bool.or_self, Bool.false_eq_true, if_false] using h

/-- A piece error completes with what the channel makes of it (R299). -/
theorem completes_of_pieceFails {s : State} {c : Fin 256} {n a status : Nat} {side : Fin 2} {effect : Pkg → Prop} {q : Pkg} (hp : powered s.pkg = true)
    (hfails : pieceFails (begun s) c n side a status = q) (h : effect q) : Completes (.dmaPieceError c n side a status) s effect :=
  completes_of hp (exec_dmaPieceError c n side a status s) (by rwa [hfails])

/-- Settles O36, by the command and by the piece that it finds. That a read is tried again as a whole piece, and a failed write alone, is the
model's choice (entry 61 of its log). -/
theorem dmaPiecesComplete : Obligations.DmaPiecesComplete := by
  unfold Obligations.DmaPiecesComplete
  refine fun s c n hp => ⟨fun x hx hreads hpiece => ⟨fun hresets => ?resets, fun p words hopen hlocal hwords hread => ?lands⟩, fun hnone => ?noRead,
    fun x a st hx hreads hfound => ⟨fun hretried hclean hst hlimit => ?readWaits, fun hpoison hst hpass => ?poison,
      fun honly hrunning hretried hclean hst => ?readHalts⟩,
    fun x t a st hx hfound ht hretried hst hlimit => ?writeWaits, fun x hx hopen hmay => ?retried, fun hnone => ?noRetry, fun f hf => ?drainOver,
    fun hrunning => ?noDrain, fun hstate hempty => ?stopped, fun hnone => ?notStopped⟩
  case resets => exact completes_of_movePiece hp hx hreads hpiece (movePiece_resets (p := begun s) hresets none)
  case lands =>
    refine completes_of_movePiece hp hx hreads hpiece ?_
    rw [movePiece_lands (p := begun s) hopen hlocal hwords hread]
    exact ⟨pieceLanded p c n (landedWords (chan s.pkg c) n words), rfl, by rw [pieceLanded, chan_modChan_self]; rfl, rfl⟩
  case noRead =>
    refine completes_of hp (exec_dmaPieceComplete c n s) ?_
    cases hx : flyingPiece s.pkg c n with
    | none => simp only [flyingPiece_begun, hx]
    | some x =>
      have hstays : (x.writing || n == signalPiece) = true := by
        obtain h | h | ⟨y, hy, h⟩ := hnone
        · cases hx.symm.trans h
        · simp [h]
        · cases hx.symm.trans hy
          simp [h]
      simp only [flyingPiece_begun, hx, hstays, if_true]
  case readWaits =>
    refine completes_of_pieceFails hp ((pieceFails_read (p := begun s) hx hreads hst).trans ((if_neg (by simp [hclean])).trans
      (pieceError_retried (p := begun s) none hfound (flyingPiece_retrying hx) hretried hlimit))) ⟨rfl, rfl, ?_⟩
    rw [chan_modChan_self, Piece.waiting_read]
    rfl
  case poison =>
    exact completes_of_pieceFails hp ((pieceFails_read (p := begun s) hx hreads hst).trans (if_pos ⟨hpoison, hpass⟩)) rfl
  case readHalts =>
    obtain ⟨f, hstatus, hhalts⟩ := pieceError_halts (p := begun s) (a := a) hfound honly hrunning hretried hclean
    obtain ⟨hstate, hlast, hempty, -⟩ := haltNow_shows (modChan (begun s) c (fun k => { k with pieces := [] })) f c.isLt
    exact completes_of_pieceFails hp ((pieceFails_read (p := begun s) hx hreads hst).trans ((if_neg (by simp [hclean])).trans hhalts))
      ⟨hstate, hlast.trans (by rw [hstatus]; rfl), hempty⟩
  case writeWaits =>
    refine completes_of_pieceFails hp ((pieceFails_write (p := begun s) hx hst ht).trans
      (pieceError_retried (some (pieceRun (begun s) t)) hfound (flyingPiece_retrying hx) hretried hlimit)) ⟨rfl, rfl, ?_, ?_⟩
    · exact fun hmem => by simpa using (List.mem_filter.1 hmem).2
    · rw [chan_modChan_self, Piece.waiting_write]
      rfl
  case retried =>
    refine completes_of hp (exec_dmaRetryTimer c n s) ⟨pieceRetried (begun s) c n, rd_bump_self _ _ _ _, ?_, rfl, retryPiece_repeats (p := begun s) hx hopen hmay⟩
    rw [pieceRetried]
    exact congrArg Channel.pieces (chan_modChan_self _ _ _)
  case noRetry => exact completes_of hp (exec_dmaRetryTimer c n s) (retryPiece_stays (p := begun s) hnone)
  case drainOver =>
    obtain ⟨hstate, hlast, hempty, hover⟩ := haltNow_shows (abandonSource (begun s) (chanSource c)) f c.isLt
    refine completes_of hp (exec_dmaHaltDrainTimeout c s) ?_
    rw [haltDrainOver, chan_begun, hf]
    exact ⟨hstate, hlast, hempty, hover, rfl⟩
  case noDrain =>
    refine completes_of hp (exec_dmaHaltDrainTimeout c s) ?_
    rw [haltDrainOver, chan_begun, hrunning]
  case stopped =>
    refine completes_of hp (exec_dmaStopDrained c s) ?_
    rw [chanState_begun, chan_begun, if_pos ⟨hstate, hempty⟩]
    exact ⟨chanState_setChanState _ c (by decide), rfl, rfl, rfl⟩
  case notStopped =>
    refine completes_of hp (exec_dmaStopDrained c s) ?_
    rw [chanState_begun, chan_begun, if_neg fun h => hnone.elim (absurd h.1) (absurd h.2)]

end Sys2Proof.Machine
end

section
/-! Packages on which nothing waits (O6). -/

namespace Sys2Proof.Machine

section
variable {p : Pkg}

theorem failBadChannels_none (h : ∀ e ∈ p.tm.badLines, linesFail p e = false) : failBadChannels p = p := by
  have hnone : p.tm.badLines.filter (linesFail p) = [] := List.filter_eq_nil_iff.2 fun e he => by simp [h e he]
  rw [failBadChannels, hnone, List.foldl_nil]

/-- A left fold whose steps all leave the start as it is. -/
theorem foldl_stays {α β : Type} {f : β → α → β} {b : β} {l : List α} (h : ∀ a ∈ l, f b a = b) : l.foldl f b = b := by
  induction l with
  | nil => rfl
  | cons a l ih => rw [List.foldl_cons, h a List.mem_cons_self, ih fun x hx => h x (List.mem_cons_of_mem _ hx)]

/-- The Tier Manager does nothing unasked where no move may be committed, no unit is under reclaim, the offer is told and nothing may be
borrowed (R252, R257, R258). -/
theorem tierWork_none (hmoves : ∀ m ∈ p.tm.moves, commitsFreely p m.partition = false)
    (hloans : ∀ l ∈ p.tm.loans, l.slot.isSome = true → l.state ≠ 1)
    (hoffer : offer p = p.tm.advertised ∨ rd p Ix.tmLendEnable 0 ≠ 1 ∧ p.tm.advertised = 0) (hborrow : rd p Ix.tmBorrowEnable 0 ≠ 1) :
    tierWork p = p := by
  have hcommits : (p.tm.moves.map (·.partition)).eraseDups.foldl
      (fun p pp => if commitsFreely p pp then commitMoves p pp p.tm.moves.length else p) p = p := by
    refine foldl_stays fun pp hpp => ?_
    obtain ⟨m, hm, rfl⟩ := List.mem_map.1 (List.mem_eraseDups.1 hpp)
    rw [if_neg (by simp [hmoves m hm])]
  have hreclaims : p.tm.loans.filter (fun l => l.slot.isSome && l.state == 1) = [] :=
    List.filter_eq_nil_iff.2 fun l hl => by simpa using hloans l hl
  have hempty : returnEmpty p = p := by rw [returnEmpty, hreclaims, List.foldl_nil]
  have hadverts : readvertise p = p := if_pos hoffer.symm
  unfold tierWork
  dsimp only
  rw [hcommits, hreclaims, List.foldl_nil, hempty, hadverts, if_neg hborrow]

theorem retrainNext_none (n : Nat) (hnone : p.tf.retraining = none) (hempty : p.tf.toRetrain = []) : retrainNext n p = p := by
  cases n with
  | zero => rfl
  | succ n =>
    unfold retrainNext
    rw [hnone, Option.map_none, Option.getD_none, if_neg Bool.false_ne_true, hempty]
    simp [← hnone]

theorem returnKept_none (h : ∀ l < 24, ∀ e ∈ (link p l).kept,
      e.2 = 0 ∨ p.tf.heldColl.any (fun c => (c.via.map (fun v => (v.1, v.2.1))) == some (l, e.1)) = true) : returnKept p = p := by
  unfold returnKept
  refine foldl_stays fun l hl => ?_
  rw [List.filter_eq_nil_iff.2, List.foldl_nil]
  intro e he
  obtain h0 | hheld := h l (List.mem_range.1 hl) e he
  · simp [h0]
  · rw [hheld, Bool.not_true, Bool.and_false]
    exact Bool.false_ne_true

end

/-- Settles O6: each part of what ends a command finds nothing to do. -/
theorem settledPackageStays : Obligations.SettledPackageStays := by
  unfold Obligations.SettledPackageStays
  rintro p ⟨hfailed, hpackets, hserving, hlines, hmoves, hloans, hoffer, hborrow, hprofile, hretraining, hretrain, hkept⟩
  have hsettle := settle_none 4096 p hfailed
  have hprofile : followProfile p = p := if_pos hprofile
  rw [finish, hsettle, failServing_all _ p fun pp hpp => hserving pp (List.mem_range.1 hpp), failBadChannels_none hlines,
    tierWork_none hmoves hloans hoffer hborrow, hsettle, flushPackets_none 4096 p hpackets, hprofile, retrainNext_none 25 hretraining hretrain,
    returnKept_none hkept]

end Sys2Proof.Machine
end

section
/-! Links and lanes: what reading a link, its state and its lanes finds after the shared updates, and what changes of a link's lanes leave. -/

namespace Sys2Proof.Machine

@[simp] theorem link_modLink_self (p : Pkg) (l : Nat) (f : Link → Link) : link (modLink p l f) l = f (link p l) := by simp [link, modLink]

theorem link_modLink_ne (p : Pkg) {l l' : Nat} (f : Link → Link) (h : l' ≠ l) : link (modLink p l f) l' = link p l' := by
  simp [link, modLink, tget_tmod_ne _ _ _ h]

theorem link_of_links {p q : Pkg} (h : q.tf.links = p.tf.links) (l : Nat) : link q l = link p l := by rw [link, link, h]

@[simp] theorem link_begun (s : State) (l : Nat) : link (begun s) l = link s.pkg l := rfl
@[simp] theorem link_wrAt (p : Pkg) (e : Entry) (u sub v l : Nat) : link (wrAt p e u sub v) l = link p l := rfl
@[simp] theorem link_wr (p : Pkg) (e : Entry) (sub v l : Nat) : link (wr p e sub v) l = link p l := rfl
@[simp] theorem link_bump (p : Pkg) (e : Entry) (sub n l : Nat) : link (bump p e sub n) l = link p l := rfl
@[simp] theorem link_last (p : Pkg) (e : Entry) (sub n l : Nat) : link (last p e sub n) l = link p l := rfl
@[simp] theorem link_emit (p : Pkg) (x : Out) (l : Nat) : link (emit p x) l = link p l := rfl
@[simp] theorem linkState_emit (p : Pkg) (x : Out) (l : Nat) : linkState (emit p x) l = linkState p l := rfl
@[simp] theorem laneState_emit (p : Pkg) (x : Out) (l n : Nat) : laneState (emit p x) l n = laneState p l n := rfl
@[simp] theorem modLink_mem (p : Pkg) (l : Nat) (f : Link → Link) : (modLink p l f).mem = p.mem := rfl
@[simp] theorem modLink_parts (p : Pkg) (l : Nat) (f : Link → Link) : (modLink p l f).parts = p.parts := rfl
@[simp] theorem modLink_dict (p : Pkg) (l : Nat) (f : Link → Link) : (modLink p l f).dict = p.dict := rfl
@[simp] theorem modLink_out (p : Pkg) (l : Nat) (f : Link → Link) : (modLink p l f).out = p.out := rfl
@[simp] theorem modLink_flash (p : Pkg) (l : Nat) (f : Link → Link) : (modLink p l f).flash = p.flash := rfl
@[simp] theorem rd_modLink (p : Pkg) (l : Nat) (f : Link → Link) (e : Entry) (sub : Nat) : rd (modLink p l f) e sub = rd p e sub := rfl
@[simp] theorem linkState_begun (s : State) (l : Nat) : linkState (begun s) l = linkState s.pkg l := rfl
@[simp] theorem linkState_modLink (p : Pkg) (l l' : Nat) (f : Link → Link) : linkState (modLink p l f) l' = linkState p l' := rfl
@[simp] theorem laneState_begun (s : State) (l n : Nat) : laneState (begun s) l n = laneState s.pkg l n := rfl
@[simp] theorem laneState_modLink (p : Pkg) (l l' n : Nat) (f : Link → Link) : laneState (modLink p l f) l' n = laneState p l' n := rfl
@[simp] theorem lanesIn_modLink (p : Pkg) (l l' st : Nat) (f : Link → Link) : lanesIn (modLink p l f) l' st = lanesIn p l' st := rfl
@[simp] theorem minLanes_modLink (p : Pkg) (l : Nat) (f : Link → Link) : minLanes (modLink p l f) = minLanes p := rfl
@[simp] theorem minLanes_begun (s : State) : minLanes (begun s) = minLanes s.pkg := rfl
@[simp] theorem begun_tf (s : State) : (begun s).tf = s.pkg.tf := rfl
@[simp] theorem begun_dict (s : State) : (begun s).dict = s.pkg.dict := rfl
@[simp] theorem begun_out (s : State) : (begun s).out = s.pkg.out := rfl
@[simp] theorem begun_flash (s : State) : (begun s).flash = s.pkg.flash := rfl

theorem linkState_wr_ne (p : Pkg) {e : Entry} {sub l : Nat} (v : Nat) (h : e.index ≠ Ix.tfLinkState.index) (hs : sub < 256) (hl : l < 24) :
    linkState (wr p e sub v) l = linkState p l := rd_wr_ne _ _ h.symm (by omega) hs

theorem linkState_wr_self (p : Pkg) (l : Nat) {v : Nat} (hv : v < 256) : linkState (wr p Ix.tfLinkState l v) l = v := by
  rw [linkState, rd_wr_self]
  exact Nat.mod_eq_of_lt hv

theorem laneState_wr_ne (p : Pkg) {e : Entry} {sub l n : Nat} (v : Nat) (h : e.index < Ix.tfLaneState.index) (hs : sub < 256) (hn : n < 256) :
    laneState (wr p e sub v) l n = laneState p l n := rdAt_wrAt_ne _ _ (keyAt_ne_of_index (by omega) hn hs)

theorem lanesIn_congr {p q : Pkg} {l : Nat} (h : ∀ n < 8, laneState q l n = laneState p l n) (st : Nat) : lanesIn q l st = lanesIn p l st :=
  List.filter_congr fun n hn => by rw [h n (List.mem_range.1 hn)]

/-- `q` differs from `p` in its links, in entries under keys that satisfy `K`, and in what it has sent. -/
structure FabricFrame (K : Nat → Prop) (p q : Pkg) : Prop where
  rest : { q with dict := p.dict, tf := p.tf, out := p.out } = p
  tf : { q.tf with links := p.tf.links } = p.tf
  dict : { q.dict with vals := p.dict.vals } = p.dict
  vals : ∀ k, ¬ K k → tfind q.dict.vals k = tfind p.dict.vals k

section
variable {K : Nat → Prop} {p q r : Pkg}

theorem FabricFrame.rfl : FabricFrame K p p := ⟨by rfl, by rfl, by rfl, fun _ _ => by rfl⟩

theorem FabricFrame.trans (h : FabricFrame K p q) (g : FabricFrame K q r) : FabricFrame K p r where
  rest := by rw [← h.rest, ← g.rest]
  tf := by rw [← h.tf, ← g.tf]
  dict := by rw [← h.dict, ← g.dict]
  vals k hk := (g.vals k hk).trans (h.vals k hk)

theorem FabricFrame.mono {K' : Nat → Prop} (h : FabricFrame K p q) (hK : ∀ k, K k → K' k) : FabricFrame K' p q :=
  ⟨h.rest, h.tf, h.dict, fun k hk => h.vals k fun hk' => hk (hK k hk')⟩

theorem FabricFrame.mem (h : FabricFrame K p q) : q.mem = p.mem := (congrArg Pkg.mem h.rest :)
theorem FabricFrame.parts (h : FabricFrame K p q) : q.parts = p.parts := (congrArg Pkg.parts h.rest :)
theorem FabricFrame.flash (h : FabricFrame K p q) : q.flash = p.flash := (congrArg Pkg.flash h.rest :)
theorem FabricFrame.holes (h : FabricFrame K p q) : q.tf.holes = p.tf.holes := (congrArg Tf.holes h.tf :)
theorem FabricFrame.suspects (h : FabricFrame K p q) : q.tf.suspects = p.tf.suspects := (congrArg Tf.suspects h.tf :)

theorem FabricFrame.rdAt (h : FabricFrame K p q) {e : Entry} {u sub : Nat} (hk : ¬ K (keyAt e u sub)) :
    Machine.rdAt q e u sub = Machine.rdAt p e u sub := by rw [Machine.rdAt, h.vals _ hk, Machine.rdAt]

theorem FabricFrame.rd (h : FabricFrame K p q) {e : Entry} {sub : Nat} (hk : ¬ K (keyAt e 0 sub)) : Machine.rd q e sub = Machine.rd p e sub :=
  h.rdAt hk

theorem FabricFrame.foldl {α : Type} {f : Pkg → α → Pkg} {xs : List α} (h : ∀ p, ∀ x ∈ xs, FabricFrame K p (f p x)) (p : Pkg) :
    FabricFrame K p (xs.foldl f p) :=
  List.foldlRecOn (motive := FabricFrame K p) xs f FabricFrame.rfl fun _ hq x hx => hq.trans (h _ x hx)

theorem modLink_fabricFrame (p : Pkg) (l : Nat) (f : Link → Link) : FabricFrame K p (modLink p l f) := ⟨by rfl, by rfl, by rfl, fun _ _ => by rfl⟩

theorem emit_fabricFrame (p : Pkg) (x : Out) : FabricFrame K p (emit p x) := ⟨by rfl, by rfl, by rfl, fun _ _ => by rfl⟩

theorem wrAt_fabricFrame (p : Pkg) {e : Entry} {u sub : Nat} (v : Nat) (hk : K (keyAt e u sub)) : FabricFrame K p (wrAt p e u sub v) :=
  ⟨by rfl, by rfl, by rfl, fun _ hk' => tfind_tput_ne _ _ fun h => hk' (h ▸ hk)⟩

end

/-- Keys of the entries that show the lanes of link `l`: 0x5431 and 0x5460 + `l` (R334). -/
def laneKey (l k : Nat) : Prop := k = keyAt Ix.tfLinkLanes 0 l ∨ k / 256 = Ix.tfLaneState.index + l

theorem laneKey_of_lane (l : Nat) {n : Nat} (hn : n < 256) : laneKey l (keyAt Ix.tfLaneState l n) := by
  refine .inr ?_
  simp only [keyAt]
  omega

theorem not_laneKey {l u sub : Nat} {e : Entry} (hl : l < 24) (hs : sub < 256) (hlanes : e.index + u ≠ Ix.tfLinkLanes.index)
    (hlane : e.index + u ≠ Ix.tfLaneState.index + l) : ¬ laneKey l (keyAt e u sub) := by
  simp only [laneKey, keyAt] at *
  omega

theorem not_laneKey_below {l sub : Nat} {e : Entry} (hl : l < 24) (hs : sub < 256) (hlanes : e.index ≠ Ix.tfLinkLanes.index)
    (hbelow : e.index < Ix.tfLaneState.index) : ¬ laneKey l (keyAt e 0 sub) := not_laneKey hl hs hlanes (by omega)

/-- What a change of lanes may change: the entries that show them, and which lane takes a link's next unit (R307, R315). -/
structure LaneFrame (K : Nat → Prop) (p q : Pkg) : Prop extends FabricFrame K p q where
  out : q.out = p.out
  links : ∀ l, ∃ t, link q l = { link p l with turn := t }

section
variable {K : Nat → Prop} {p q r : Pkg}

theorem LaneFrame.rfl : LaneFrame K p p := ⟨.rfl, by rfl, fun l => ⟨(link p l).turn, by rfl⟩⟩

theorem LaneFrame.trans (h : LaneFrame K p q) (g : LaneFrame K q r) : LaneFrame K p r where
  toFabricFrame := h.toFabricFrame.trans g.toFabricFrame
  out := g.out.trans h.out
  links l := by
    obtain ⟨t, ht⟩ := h.links l
    obtain ⟨t', ht'⟩ := g.links l
    exact ⟨t', by rw [ht', ht]⟩

theorem LaneFrame.mono {K' : Nat → Prop} (h : LaneFrame K p q) (hK : ∀ k, K k → K' k) : LaneFrame K' p q :=
  ⟨h.toFabricFrame.mono hK, h.out, h.links⟩

theorem LaneFrame.foldl {α : Type} {f : Pkg → α → Pkg} {xs : List α} (h : ∀ p, ∀ x ∈ xs, LaneFrame K p (f p x)) (p : Pkg) :
    LaneFrame K p (xs.foldl f p) :=
  List.foldlRecOn (motive := LaneFrame K p) xs f LaneFrame.rfl fun _ hq x hx => hq.trans (h _ x hx)

/-- A part of a link that is not the lane of its next unit is as it was. -/
theorem LaneFrame.link_eq {α : Type} (h : LaneFrame K p q) (g : Link → α) (hg : ∀ k t, g { k with turn := t } = g k) (l : Nat) :
    g (link q l) = g (link p l) := by
  obtain ⟨t, ht⟩ := h.links l
  rw [ht, hg]

theorem wrAt_laneFrame (p : Pkg) {e : Entry} {u sub : Nat} (v : Nat) (hk : K (keyAt e u sub)) : LaneFrame K p (wrAt p e u sub v) :=
  ⟨wrAt_fabricFrame p v hk, by rfl, fun l => ⟨(link p l).turn, by rfl⟩⟩

theorem modLink_turn_laneFrame (p : Pkg) (l : Nat) (t : Link → Nat) : LaneFrame K p (modLink p l (fun k => { k with turn := t k })) where
  toFabricFrame := modLink_fabricFrame p l _
  out := by rfl
  links l' := by
    by_cases h : l' = l
    · exact ⟨t (link p l), by rw [h, link_modLink_self]⟩
    · exact ⟨(link p l').turn, by rw [link_modLink_ne _ _ h]⟩

end

section
variable {l : Nat}

theorem showLanes_laneFrame (p : Pkg) (l : Nat) : LaneFrame (laneKey l) p (showLanes p l) := by
  unfold showLanes
  dsimp only
  refine LaneFrame.trans ?_ (wrAt_laneFrame _ _ (.inl rfl))
  split
  · exact .rfl
  · exact modLink_turn_laneFrame p l (fun _ => 0)

theorem setLane_laneFrame (p : Pkg) (l : Nat) {n : Nat} (st : Nat) (hn : n < 8) : LaneFrame (laneKey l) p (setLane p l n st) :=
  (wrAt_laneFrame p st (laneKey_of_lane l (by omega))).trans (showLanes_laneFrame _ l)

/-- Showing a link's lanes changes no lane's state. -/
theorem laneState_showLanes (p : Pkg) (l l' : Nat) {n : Nat} (hl : l < 24) (hn : n < 8) : laneState (showLanes p l) l' n = laneState p l' n := by
  unfold showLanes
  dsimp only
  rw [laneState_wr_ne _ _ (by decide) (by omega) (by omega)]
  split <;> rfl

theorem laneState_setLane_self (p : Pkg) {n st : Nat} (hl : l < 24) (hn : n < 8) (hst : st < 256) : laneState (setLane p l n st) l n = st := by
  rw [setLane, laneState_showLanes _ _ _ hl hn, laneState, rdAt_wrAt_self]
  exact Nat.mod_eq_of_lt hst

theorem laneState_setLane_ne (p : Pkg) {n m : Nat} (st : Nat) (hl : l < 24) (hm : m < 8) (h : m ≠ n) :
    laneState (setLane p l n st) l m = laneState p l m := by
  rw [setLane, laneState_showLanes _ _ _ hl hm]
  exact rdAt_wrAt_ne _ _ (by simp only [keyAt]; omega)

/-- The lit lanes of a link of which one lane has left the stripe (R315). -/
theorem lanesIn_setLane_two (p : Pkg) {n : Nat} (hl : l < 24) :
    lanesIn (setLane p l n 2) l 0 = (List.range 8).filter (fun m => m != n && laneState p l m == 0) := by
  refine List.filter_congr fun m hm => ?_
  have hm8 : m < 8 := List.mem_range.1 hm
  by_cases h : m = n
  · subst h
    rw [laneState_setLane_self p hl hm8 (by decide)]
    simp
  · rw [laneState_setLane_ne p 2 hl hm8 h, bne_iff_ne.2 h, Bool.true_and]

/-- Every lane of a link that has not failed is put in the state given for it. -/
def putLanes (p : Pkg) (l : Nat) (st : Nat → Nat) (ns : List Nat) : Pkg :=
  ns.foldl (fun p n => if laneState p l n = 3 then p else setLane p l n (st n)) p

theorem allLanes_eq_putLanes (p : Pkg) (l st : Nat) : allLanes p l st = putLanes p l (fun _ => st) (List.range 8) := rfl

theorem putLanes_laneFrame (p : Pkg) (l : Nat) (st : Nat → Nat) {ns : List Nat} (hns : ∀ n ∈ ns, n < 8) :
    LaneFrame (laneKey l) p (putLanes p l st ns) :=
  LaneFrame.foldl (fun p n hn => by
    split
    · exact .rfl
    · exact setLane_laneFrame p l _ (hns n hn)) p

theorem allLanes_laneFrame (p : Pkg) (l st : Nat) : LaneFrame (laneKey l) p (allLanes p l st) :=
  putLanes_laneFrame p l _ fun _ => List.mem_range.1

theorem laneState_putLanes (p : Pkg) {st : Nat → Nat} {ns : List Nat} (hl : l < 24) (hns : ∀ n ∈ ns, n < 8) (hst : ∀ n, st n < 3) {m : Nat}
    (hm : m < 8) : laneState (putLanes p l st ns) l m = if m ∈ ns ∧ laneState p l m ≠ 3 then st m else laneState p l m := by
  induction ns generalizing p with
  | nil => simp [putLanes]
  | cons n ns ih =>
    have hn := hns n List.mem_cons_self
    have htail := fun q => ih q fun k hk => hns k (List.mem_cons_of_mem _ hk)
    have hstm := hst m
    change laneState (putLanes (if laneState p l n = 3 then p else setLane p l n (st n)) l st ns) l m = _
    rw [htail]
    by_cases hfailed : laneState p l n = 3
    · rw [if_pos hfailed]
      by_cases hmn : m = n
      · subst hmn
        simp [hfailed]
      · simp [hmn]
    · rw [if_neg hfailed]
      by_cases hmn : m = n
      · subst hmn
        rw [laneState_setLane_self p hl hm (by omega)]
        simp [hfailed]
      · rw [laneState_setLane_ne p _ hl hm hmn]
        simp [hmn]

theorem laneState_allLanes (p : Pkg) {st n : Nat} (hl : l < 24) (hst : st < 3) (hn : n < 8) :
    laneState (allLanes p l st) l n = if laneState p l n = 3 then 3 else st := by
  rw [allLanes_eq_putLanes, laneState_putLanes p hl (fun _ => List.mem_range.1) (fun _ => hst) hn]
  by_cases h : laneState p l n = 3
  · simp [h]
  · simp [h, hn]

/-- Lanes lit and parked in turn: each that is dealt is lit or parked, and the others stay as they are (R315, R317). -/
theorem laneState_deal (wanted : Pkg → Nat) (xs : List (Nat × Nat)) (p : Pkg) (m : Nat) :
    (m ∈ xs.map Prod.fst ∨ laneState p l m ≤ 1 →
      laneState (xs.foldl (fun p x => wrAt p Ix.tfLaneState l x.1 (if x.2 < wanted p then 0 else 1)) p) l m ≤ 1)
    ∧ (m ∉ xs.map Prod.fst →
      laneState (xs.foldl (fun p x => wrAt p Ix.tfLaneState l x.1 (if x.2 < wanted p then 0 else 1)) p) l m = laneState p l m) := by
  induction xs generalizing p with
  | nil => simp
  | cons x xs ih =>
    obtain ⟨hdealt, hstays⟩ := ih (wrAt p Ix.tfLaneState l x.1 (if x.2 < wanted p then 0 else 1))
    rw [List.foldl_cons, List.map_cons, List.mem_cons]
    by_cases hmx : m = x.1
    · have hone : laneState (wrAt p Ix.tfLaneState l x.1 (if x.2 < wanted p then 0 else 1)) l m ≤ 1 := by
        rw [hmx, laneState, rdAt_wrAt_self]
        split <;> decide
      exact ⟨fun _ => hdealt (.inr hone), fun h => absurd (.inl hmx) h⟩
    · have hsame : laneState (wrAt p Ix.tfLaneState l x.1 (if x.2 < wanted p then 0 else 1)) l m = laneState p l m :=
        rdAt_wrAt_ne _ _ (by simp only [keyAt]; omega)
      rw [hsame] at hdealt hstays
      exact ⟨fun h => hdealt (h.imp_left (Or.resolve_left · hmx)), fun h => hstays fun h' => h (.inr h')⟩

theorem dealLanes_laneFrame (p : Pkg) (l : Nat) : LaneFrame (laneKey l) p (dealLanes p l) := by
  unfold dealLanes
  dsimp only
  refine LaneFrame.trans (LaneFrame.foldl (fun p x hx => wrAt_laneFrame p _ (laneKey_of_lane l ?_)) p) (showLanes_laneFrame _ l)
  have hmem := List.fst_mem_of_mem_zipIdx hx
  have := List.mem_range.1 (List.mem_filter.1 hmem).1
  omega

/-- A good lane is lit or parked by the deal (R315, R317). -/
theorem laneState_dealLanes_good (p : Pkg) {n : Nat} (hl : l < 24) (hn : n < 8) (h : laneState p l n ≤ 1) :
    laneState (dealLanes p l) l n ≤ 1 := by
  unfold dealLanes
  dsimp only
  rw [laneState_showLanes _ _ _ hl hn]
  exact (laneState_deal (fun p => lanesWanted p l) _ p n).1 (.inr h)

/-- A lane that retrains or has failed is not dealt (R315). -/
theorem laneState_dealLanes_bad (p : Pkg) {n : Nat} (hl : l < 24) (hn : n < 8) (h : 2 ≤ laneState p l n) :
    laneState (dealLanes p l) l n = laneState p l n := by
  unfold dealLanes
  dsimp only
  rw [laneState_showLanes _ _ _ hl hn]
  refine (laneState_deal (fun p => lanesWanted p l) _ p n).2 ?_
  rw [List.zipIdx_map_fst, List.mem_filter, decide_eq_true_iff]
  omega

end

section
variable {K : Nat → Prop} {p q : Pkg} {l : Nat}

theorem LaneFrame.linkState (h : LaneFrame (laneKey l) p q) (hl : l < 24) {l' : Nat} (hl' : l' < 24) : Machine.linkState q l' = Machine.linkState p l' :=
  h.rd (not_laneKey_below hl (by omega) (by decide) (by decide))

theorem LaneFrame.minLanes (h : LaneFrame (laneKey l) p q) (hl : l < 24) : Machine.minLanes q = Machine.minLanes p := by
  rw [Machine.minLanes, h.rd (not_laneKey_below hl (by decide) (by decide) (by decide)), Machine.minLanes]

end

end Sys2Proof.Machine
end

section
/-! Lanes that fail and retrain, training, capability records and profiles (O39). -/

namespace Sys2Proof.Machine

/-- What an event leaves of the links. -/
theorem KeepsState.link {p q : Pkg} (h : KeepsState p q) (l : Nat) : Machine.link q l = Machine.link p l :=
  link_of_links (congrArg Tf.links h.tf :) l

theorem KeepsState.linkState {p q : Pkg} (h : KeepsState p q) {l : Nat} (hl : l < 24) : Machine.linkState q l = Machine.linkState p l :=
  h.rd _ _ (commsKey_low (by decide) (by omega))

theorem KeepsState.laneState {p q : Pkg} (h : KeepsState p q) {l n : Nat} (hl : l < 24) (hn : n < 8) :
    Machine.laneState q l n = Machine.laneState p l n :=
  h.rdAt _ _ _ (commsKey_low (by simp only [Ix.tfLaneState]; omega) (by omega))

section
variable {p : Pkg} {l n : Nat}

/-- A lit lane that fails leaves the stripe, and a parked one may take its place (R315). -/
theorem failLane_stays (hup : linkState p l = 2) (hlit : laneState p l n = 0) (henough : minLanes (setLane p l n 2) ≤ (lanesIn (setLane p l n 2) l 0).length) :
    failLane p l n = dealLanes (setLane p l n 2) l := by
  unfold failLane
  rw [if_neg (by simp [hup, hlit])]
  exact if_neg (Nat.not_lt.2 henough)

/-- Below the fewest lit lanes the link goes down (R316). -/
theorem failLane_drops (hup : linkState p l = 2) (hlit : laneState p l n = 0) (hfew : (lanesIn (setLane p l n 2) l 0).length < minLanes (setLane p l n 2)) :
    failLane p l n = loseLink (setLane p l n 2) l 1 := by
  unfold failLane
  rw [if_neg (by simp [hup, hlit])]
  exact if_pos hfew

theorem failLane_none (h : linkState p l ≠ 2 ∨ laneState p l n ≠ 0) : failLane p l n = p := if_pos h

theorem retrainLane_none (h : linkState p l ≠ 2 ∨ laneState p l n ≠ 2) (passed : Bool) : retrainLane p l n passed = p := if_pos h

/-- A lane that passes has no failure to its name (R315). -/
def triesForgotten (p : Pkg) (l n : Nat) : Pkg := modLink p l (fun k => { k with laneTries := tput k.laneTries n 0 })

theorem retrainLane_passes (hup : linkState p l = 2) (hlane : laneState p l n = 2) :
    retrainLane p l n true = raiseAs (dealLanes (triesForgotten (setLane p l n 1) l n) l) Ix.tfLastStatus 0 0x0D03 0xFF (l * 8 + n) 0 := by
  unfold retrainLane
  rw [if_neg (by simp [hup, hlane]), if_pos rfl]
  rfl

theorem retrainLane_fails_once (hup : linkState p l = 2) (hlane : laneState p l n = 2) (hfirst : tget (link p l).laneTries n 0 = 0) :
    retrainLane p l n false = modLink p l (fun k => { k with laneTries := tput k.laneTries n 1 }) := by
  unfold retrainLane
  rw [if_neg (by simp [hup, hlane]), if_neg Bool.false_ne_true]
  dsimp only
  rw [hfirst]
  exact if_pos (by decide)

/-- The second failure is final (R315). -/
theorem retrainLane_fails_again (hup : linkState p l = 2) (hlane : laneState p l n = 2) (hagain : 1 ≤ tget (link p l).laneTries n 0) :
    ∃ t, retrainLane p l n false
      = raiseAs (recordHistory (setLane (modLink p l (fun k => { k with laneTries := tput k.laneTries n t })) l n 3) 6 1 (l * 8 + n) 0x0D02 0)
          Ix.tfLastStatus 0 0x0D02 0xFF (l * 8 + n) 0 := by
  refine ⟨tget (link p l).laneTries n 0 + 1, ?_⟩
  unfold retrainLane
  rw [if_neg (by simp [hup, hlane]), if_neg Bool.false_ne_true]
  exact if_neg (by omega)

end

/-- A record of fault history with room for it is the newest (R453, R454). -/
theorem recordHistory_appends (p : Pkg) (kind origin unit status step : Nat) (hroom : p.flash.history.length < 16384) :
    ∃ r : HistRecord, (recordHistory p kind origin unit status step).flash.history = p.flash.history ++ [r]
      ∧ r.kind = kind ∧ r.unit = unit ∧ r.status = status := by
  unfold recordHistory
  dsimp only
  rw [show makeRoom (rd p Ix.btPoweredS 0) p.flash.history = some p.flash.history from if_pos hroom]
  exact ⟨_, rfl, rfl, rfl, rfl⟩

/-- Keys of the entries that training link `l` writes: its lanes, its state and its partner. -/
def trainKey (l k : Nat) : Prop := laneKey l k ∨ k = keyAt Ix.tfLinkState 0 l ∨ k = keyAt Ix.tfLinkPartner 0 l

theorem not_trainKey {l u sub : Nat} {e : Entry} (hl : l < 24) (hs : sub < 256) (hlanes : e.index + u ≠ Ix.tfLinkLanes.index)
    (hlane : e.index + u ≠ Ix.tfLaneState.index + l) (hstate : e.index + u ≠ Ix.tfLinkState.index)
    (hpartner : e.index + u ≠ Ix.tfLinkPartner.index) : ¬ trainKey l (keyAt e u sub) := by
  simp only [trainKey, laneKey, keyAt] at *
  omega

section
variable {l : Nat}

/-- A link whose session is new (R313): what its lanes and its quarantine have been through is known still. -/
def sessionBegun (p : Pkg) (l : Nat) : Pkg :=
  wr (wr (modLink p l (fun k => { laneTries := k.laneTries, violations := k.violations, quarantineNs := k.quarantineNs }))
    Ix.tfLinkPartner l 0) Ix.tfLinkState l 1

theorem beginTraining_eq (p : Pkg) (l : Nat) : beginTraining p l
    = emit (allLanes (sessionBegun p l) l 2) (.capability l (ownCapability (allLanes (sessionBegun p l) l 2) l)) := rfl

theorem beginTraining_frame (p : Pkg) (l : Nat) : FabricFrame (trainKey l) p (beginTraining p l) := by
  rw [beginTraining_eq]
  refine FabricFrame.trans ?_ (emit_fabricFrame _ _)
  refine FabricFrame.trans ?_ ((allLanes_laneFrame _ _ _).toFabricFrame.mono fun k hk => .inl hk)
  exact ((modLink_fabricFrame p l _).trans (wrAt_fabricFrame _ _ (.inr (.inr rfl)))).trans (wrAt_fabricFrame _ _ (.inr (.inl rfl)))

theorem linkState_beginTraining (p : Pkg) (hl : l < 24) : linkState (beginTraining p l) l = 1 := by
  rw [beginTraining_eq, linkState_emit, (allLanes_laneFrame _ l 2).linkState hl hl, sessionBegun, linkState_wr_self _ _ (by decide)]

theorem laneState_beginTraining (p : Pkg) (hl : l < 24) {n : Nat} (hn : n < 8) :
    laneState (beginTraining p l) l n = if laneState p l n = 3 then 3 else 2 := by
  have hbegun : laneState (sessionBegun p l) l n = laneState p l n := by
    rw [sessionBegun, laneState_wr_ne _ _ (by decide) (by omega) (by omega), laneState_wr_ne _ _ (by decide) (by omega) (by omega),
      laneState_modLink]
  rw [beginTraining_eq, laneState_emit, laneState_allLanes _ hl (by decide) hn, hbegun]

theorem link_beginTraining (p : Pkg) (l : Nat) : ∃ t, link (beginTraining p l) l
    = { laneTries := (link p l).laneTries, violations := (link p l).violations, quarantineNs := (link p l).quarantineNs, turn := t } := by
  obtain ⟨t, ht⟩ := (allLanes_laneFrame (sessionBegun p l) l 2).links l
  refine ⟨t, ?_⟩
  rw [beginTraining_eq, link_emit, ht, sessionBegun, link_wr, link_wr, link_modLink_self]

/-- A link that R314's check holds down (assumption 21): its lanes are parked, and it waits in state 4. -/
theorem holdMisfit_shows (p : Pkg) {status : Nat} (hl : l < 24) (hst : status < 2 ^ 16) :
    linkState (holdMisfit p l status) l = 4 ∧ rd (holdMisfit p l status) Ix.tfLastStatus 0 = status ∧ (link (holdMisfit p l status) l).misfit = true
    ∧ (∀ n < 8, laneState p l n ≠ 3 → laneState (holdMisfit p l status) l n = 1)
    ∧ (holdMisfit p l status).mem = p.mem ∧ (holdMisfit p l status).parts = p.parts := by
  have hframe := allLanes_laneFrame (modLink p l (fun k => { k with misfit := true })) l 1
  rw [holdMisfit]
  refine ⟨?_, ?_, ?_, fun n hn h => ?_, ?_, ?_⟩
  · rw [last, linkState_wr_ne _ _ (by decide) (by omega) hl, linkState_wr_self _ _ (by decide)]
  · rw [rd_last_self]
    exact Nat.mod_eq_of_lt hst
  · rw [link_last, link_wr, hframe.link_eq Link.misfit (fun _ _ => rfl), link_modLink_self]
  · rw [last, laneState_wr_ne _ _ (by decide) (by omega) (by omega), laneState_wr_ne _ _ (by decide) (by omega) (by omega),
      laneState_allLanes _ hl (by decide) hn, laneState_modLink, if_neg h]
  · rw [last_mem, wr_mem, hframe.mem, modLink_mem]
  · rw [last_parts, wr_parts, hframe.parts, modLink_parts]

end

/-- The neighbour of a package turns on the torus sizes alone (R319). -/
theorem neighbour_congr {p q : Pkg} (h : rd q Ix.tfTorusSize 0 = rd p Ix.tfTorusSize 0) (id d : Nat) : neighbour q id d = neighbour p id d := by
  simp only [neighbour, ringSize, torus, h]

theorem suspected_congr {p q : Pkg} (hsize : rd q Ix.tfTorusSize 0 = rd p Ix.tfTorusSize 0) (hholes : q.tf.holes = p.tf.holes)
    (hsuspects : q.tf.suspects = p.tf.suspects) (id : Nat) : suspected q id = suspected p id := by
  simp only [suspected, hholes, hsuspects, neighbour_congr hsize]

/-- The package as a capability record finds it: a link that the check of another record held down trains anew (R314). -/
def checkedAgain (p : Pkg) (l : Nat) : Pkg := if (link p l).misfit then beginTraining p l else p

section
variable {p : Pkg} {l : Nat}

theorem checkedAgain_shows (hl : l < 24) (h : training p l = true ∨ (link p l).misfit = true) :
    training (checkedAgain p l) l = true ∧ linkState (checkedAgain p l) l = (if (link p l).misfit then 1 else linkState p l)
    ∧ (∀ n < 8, laneState p l n ≠ 3 → laneState (checkedAgain p l) l n ≠ 3) := by
  unfold checkedAgain
  split
  · have hstate := linkState_beginTraining p hl
    refine ⟨by simp [training, hstate], hstate, fun n hn hgood => ?_⟩
    rw [laneState_beginTraining p hl hn, if_neg hgood]
    decide
  · exact ⟨h.resolve_right ‹_›, rfl, fun _ _ hgood => hgood⟩

theorem checkedAgain_frame (p : Pkg) (l : Nat) : FabricFrame (trainKey l) p (checkedAgain p l) := by
  unfold checkedAgain
  split
  · exact beginTraining_frame p l
  · exact .rfl

theorem checkedAgain_neighbour (p : Pkg) (hl : l < 24) (d : Nat) :
    neighbour (checkedAgain p l) (ownId (checkedAgain p l)) d = neighbour p (ownId p) d := by
  have hframe := checkedAgain_frame p l
  rw [neighbour_congr (hframe.rd (not_trainKey hl (by decide) (by decide) (by simp only [Ix.tfTorusSize, Ix.tfLaneState]; omega) (by decide) (by decide))), ownId,
    hframe.rd (not_trainKey hl (by decide) (by decide) (by simp only [Ix.tfPackageId, Ix.tfLaneState]; omega) (by decide) (by decide)), ownId]

/-- Where the place of a partner lies that the cabling of link `l` gives (R314). -/
def placed (p : Pkg) (l : Nat) (c : Capability) : Prop :=
  idOf c.x c.y c.z = neighbour p (ownId p) (dirOf l) ∧ c.link = opposite (dirOf l) * 4 + l % 4

/-- Whether both ends support a level (R314). -/
def levelInCommon (c : Capability) : Prop := max c.lowest (Config.fabricLevel - 1) ≤ min c.highest Config.fabricLevel

theorem takeCapability_none {c : Capability} (htraining : training p l = false) (hfit : (link p l).misfit = false) : takeCapability p l c = p := by
  unfold takeCapability
  simp [hfit, htraining]

/-- A partner's record in training is checked, and kept where it fits (R314). -/
theorem takeCapability_checks {c : Capability} (htraining : training (checkedAgain p l) l = true) :
    (¬ levelInCommon c → takeCapability p l c = holdMisfit (checkedAgain p l) l 0x0D05)
    ∧ (levelInCommon c → ¬ placed (checkedAgain p l) l c → takeCapability p l c = holdMisfit (checkedAgain p l) l 0x0D06)
    ∧ (levelInCommon c → placed (checkedAgain p l) l c → takeCapability p l c
        = wr (modLink (checkedAgain p l) l (fun k => { k with partner := some c })) Ix.tfLinkPartner l
            (idOf c.x c.y c.z + c.link * 2 ^ 10 + min c.highest Config.fabricLevel * 2 ^ 16)) := by
  have hopen : ¬ (!training (checkedAgain p l) l) = true := by simp [htraining]
  have hplaced : placed (checkedAgain p l) l c ↔ ¬ (idOf c.x c.y c.z ≠ neighbour (checkedAgain p l) (ownId (checkedAgain p l)) (dirOf l)
      ∨ c.link ≠ opposite (dirOf l) * 4 + l % 4) := by rw [placed, not_or, not_not, not_not]
  unfold takeCapability levelInCommon
  refine ⟨fun hlevel => ?_, fun hlevel hplace => ?_, fun hlevel hplace => ?_⟩
  · exact (if_neg hopen).trans (if_pos (Nat.not_le.1 hlevel))
  · exact (if_neg hopen).trans ((if_neg (Nat.not_lt.2 hlevel)).trans (if_pos (not_not.1 (mt hplaced.2 hplace))))
  · exact (if_neg hopen).trans ((if_neg (Nat.not_lt.2 hlevel)).trans (if_neg (hplaced.1 hplace)))

end

section
variable {p : Pkg} {l passed : Nat}

/-- Lanes of a training link that have passed (R313). -/
def passedLanes (p : Pkg) (l passed : Nat) : List Nat := (List.range 8).filter (fun n => laneState p l n != 3 && bit passed n)

/-- A link that comes up uses the lanes that passed; the others retrain (R313, R315). -/
def litUp (p : Pkg) (l passed : Nat) : Pkg :=
  dealLanes (wr (putLanes p l (fun n => if bit passed n then 1 else 2) (List.range 8)) Ix.tfLinkState l 2) l

/-- Keys of what a link that comes up shows: its lanes and its state. -/
theorem litUp_frame (p : Pkg) (l passed : Nat) : FabricFrame (trainKey l) p (litUp p l passed) :=
  (((putLanes_laneFrame p l _ fun _ => List.mem_range.1).toFabricFrame.mono fun _ => .inl).trans
    (wrAt_fabricFrame _ _ (.inr (.inl rfl)))).trans ((dealLanes_laneFrame _ l).toFabricFrame.mono fun _ => .inl)

theorem linkState_litUp (p : Pkg) (hl : l < 24) (passed : Nat) : linkState (litUp p l passed) l = 2 :=
  ((dealLanes_laneFrame _ l).linkState hl hl).trans (linkState_wr_self _ _ (by decide))

theorem laneState_litUp (p : Pkg) (hl : l < 24) {n : Nat} (hn : n < 8) (passed : Nat) :
    (laneState p l n ≠ 3 → (bit passed n = false → laneState (litUp p l passed) l n = 2) ∧ (bit passed n = true → laneState (litUp p l passed) l n ≤ 1))
    ∧ (laneState p l n = 3 → laneState (litUp p l passed) l n = 3) := by
  have hput : laneState (wr (putLanes p l (fun n => if bit passed n then 1 else 2) (List.range 8)) Ix.tfLinkState l 2) l n
      = if laneState p l n = 3 then 3 else if bit passed n then 1 else 2 := by
    rw [laneState_wr_ne _ _ (by decide) (by omega) (by omega), laneState_putLanes p hl (fun _ => List.mem_range.1) (fun n => by split <;> decide) hn]
    by_cases h : laneState p l n = 3 <;> simp [h, hn]
  unfold litUp
  refine ⟨fun hgood => ⟨fun hbit => ?_, fun hbit => ?_⟩, fun hfailed => ?_⟩
  · rw [if_neg hgood, hbit, if_neg Bool.false_ne_true] at hput
    rw [laneState_dealLanes_bad _ hl hn (by rw [hput]), hput]
  · rw [if_neg hgood, hbit, if_pos rfl] at hput
    exact laneState_dealLanes_good _ hl hn (by rw [hput])
  · rw [if_pos hfailed] at hput
    rw [laneState_dealLanes_bad _ hl hn (by rw [hput]; decide), hput]

theorem linkTrained_up {c : Capability} (htraining : training p l = true) (hpartner : (link p l).partner = some c) (hlicence : c.licensed = true)
    (henough : minLanes p ≤ (passedLanes p l passed).length) :
    linkTrained p l passed = drainLink (checkDirection (if suspected (litUp p l passed) (idOf c.x c.y c.z) then
      flood (clearHole (litUp p l passed) (idOf c.x c.y c.z)) 2 (idOf c.x c.y c.z) 0 else litUp p l passed) (dirOf l)) l := by
  have hfew : ¬ (!training p l || !c.licensed || decide ((passedLanes p l passed).length < minLanes p)) = true := by
    rw [htraining, hlicence]
    simpa using henough
  unfold linkTrained
  rw [hpartner]
  exact if_neg hfew

theorem linkTrained_none (h : training p l = false ∨ (link p l).partner = none ∨ (∃ c, (link p l).partner = some c ∧ c.licensed = false)
      ∨ (passedLanes p l passed).length < minLanes p) : linkTrained p l passed = p := by
  unfold linkTrained
  cases hpartner : (link p l).partner with
  | none => rfl
  | some c =>
    refine if_pos ?_
    obtain h | h | ⟨c', hc', hlicence⟩ | hfew := h
    · rw [h]
      rfl
    · cases hpartner.symm.trans h
    · cases hpartner.symm.trans hc'
      rw [hlicence, Bool.not_false, Bool.or_true, Bool.true_or]
    · rw [Bool.or_eq_true, decide_eq_true_iff]
      exact .inr hfew

end

/-- Keys of the entries that show the lanes of the package's links. -/
def lanesKey (k : Nat) : Prop := ∃ l < 24, laneKey l k

/-- The lanes of every link that is up, dealt (R317). -/
def lanesDealt (p : Pkg) : Pkg := (List.range 24).foldl (fun p l => if linkState p l = 2 then dealLanes p l else p) p

theorem dealLanes_lanesFrame (p : Pkg) {l : Nat} (hl : l < 24) : LaneFrame lanesKey p (if linkState p l = 2 then dealLanes p l else p) := by
  split
  · exact (dealLanes_laneFrame p l).mono fun k hk => ⟨l, hl, hk⟩
  · exact .rfl

theorem lanesDealt_frame (p : Pkg) : LaneFrame lanesKey p (lanesDealt p) :=
  LaneFrame.foldl (fun p _ hl => dealLanes_lanesFrame p (List.mem_range.1 hl)) p

theorem not_lanesKey {sub : Nat} {e : Entry} (hs : sub < 256) (hlanes : e.index ≠ Ix.tfLinkLanes.index) (hbelow : e.index < Ix.tfLaneState.index) :
    ¬ lanesKey (keyAt e 0 sub) := fun ⟨_, hl, hk⟩ => not_laneKey_below hl hs hlanes hbelow hk

theorem LaneFrame.linkState_of_lanes {p q : Pkg} (h : LaneFrame lanesKey p q) {l : Nat} (hl : l < 24) :
    Machine.linkState q l = Machine.linkState p l := h.rd (not_lanesKey (by omega) (by decide) (by decide))

/-- The partner of link `l` asks for a profile (R317). -/
def asksFull (full : Bool) (k : Link) : Link := { k with partner := k.partner.map (fun c => { c with full := full }) }

theorem partnerProfile_eq (p : Pkg) (l : Nat) (full : Bool) : partnerProfile p l full
    = if linkState (modLink p l (asksFull full)) l = 2 then dealLanes (modLink p l (asksFull full)) l else modLink p l (asksFull full) := rfl

/-- The partner's request is kept, and this package's own is shown (R317). -/
theorem profileChange_shows (p : Pkg) {l : Nat} (hl : l < 24) (full : Bool) {q : Pkg} (hq : q = partnerProfile (showProfile p) l full) :
    (link q l).partner = (link p l).partner.map (fun c => { c with full := full }) ∧ rd q Ix.tfProfileActive 0 = profileAsked p % 256
    ∧ linkState q l = linkState p l ∧ q.mem = p.mem ∧ q.parts = p.parts := by
  have hshown : LaneFrame lanesKey (wr p Ix.tfProfileActive 0 (profileAsked p)) (showProfile p) := lanesDealt_frame _
  have hdealt : LaneFrame lanesKey (modLink (showProfile p) l (asksFull full)) q := by
    rw [hq, partnerProfile_eq]
    exact dealLanes_lanesFrame _ hl
  refine ⟨?_, ?_, ?_, ?_, ?_⟩
  · rw [hdealt.link_eq Link.partner (fun _ _ => rfl), link_modLink_self, asksFull, hshown.link_eq Link.partner (fun _ _ => rfl), link_wr]
  · have hkey : ¬ lanesKey (keyAt Ix.tfProfileActive 0 0) := not_lanesKey (by decide) (by decide) (by decide)
    rw [hdealt.rd hkey, rd_modLink, hshown.rd hkey, rd_wr_self]
    rfl
  · rw [hdealt.linkState_of_lanes hl, linkState_modLink, hshown.linkState_of_lanes hl, linkState_wr_ne _ _ (by decide) (by decide) hl]
  · rw [hdealt.mem, modLink_mem, hshown.mem, wr_mem]
  · rw [hdealt.parts, modLink_parts, hshown.parts, wr_parts]

section
variable {s : State} {l : Fin 24} {n : Fin 8} (hp : powered s.pkg = true)
include hp

/-- A lane that fails (R315, R316). -/
theorem laneFailure_completes (hup : linkState s.pkg l = 2) (hlit : laneState s.pkg l n = 0) :
    (minLanes s.pkg ≤ ((List.range 8).filter (fun m => m != n.val && laneState s.pkg l m == 0)).length →
      Completes (.laneFailure l n) s (fun q => laneState q l n = 2 ∧ linkState q l = 2 ∧ (∀ m < 8, m ≠ n.val → 2 ≤ laneState s.pkg l m → laneState q l m = laneState s.pkg l m)
        ∧ q.mem = s.pkg.mem ∧ q.parts = s.pkg.parts ∧ q.out = s.pkg.out))
    ∧ (((List.range 8).filter (fun m => m != n.val && laneState s.pkg l m == 0)).length < minLanes s.pkg →
      Completes (.laneFailure l n) s (fun q => ∃ p, laneState p l n = 2 ∧ (∀ m < 8, m ≠ n.val → laneState p l m = laneState s.pkg l m)
        ∧ (link p l).queue = (link s.pkg l).queue ∧ (link p l).sending = (link s.pkg l).sending ∧ p.mem = s.pkg.mem ∧ p.out = s.pkg.out
        ∧ q = loseLink p l 1)) := by
  have hset := setLane_laneFrame (begun s) l 2 n.isLt
  have hself := laneState_setLane_self (begun s) (l := l) (n := n) (st := 2) l.isLt n.isLt (by decide)
  have hlit' : lanesIn (setLane (begun s) l n 2) l 0 = (List.range 8).filter (fun m => m != n.val && laneState s.pkg l m == 0) :=
    lanesIn_setLane_two (begun s) l.isLt
  have hmin : minLanes (setLane (begun s) l n 2) = minLanes s.pkg := hset.minLanes l.isLt
  refine ⟨fun henough => completes_of hp (exec_laneFailure l n s) ?_, fun hfew => completes_of hp (exec_laneFailure l n s) ?_⟩
  · have hdeal := dealLanes_laneFrame (setLane (begun s) l n 2) l
    rw [failLane_stays (p := begun s) hup hlit (by rw [hmin, hlit']; exact henough)]
    refine ⟨?_, ?_, fun m hm hmn hbad => ?_, hdeal.mem.trans hset.mem, hdeal.parts.trans hset.parts, hdeal.out.trans hset.out⟩
    · rw [laneState_dealLanes_bad _ l.isLt n.isLt (by rw [hself]), hself]
    · rw [hdeal.linkState l.isLt l.isLt, hset.linkState l.isLt l.isLt]
      exact hup
    · have hother := laneState_setLane_ne (begun s) (l := l) 2 l.isLt hm hmn
      rw [laneState_dealLanes_bad _ l.isLt hm (by rw [hother]; exact hbad), hother, laneState_begun]
  · rw [failLane_drops (p := begun s) hup hlit (by rw [hmin, hlit']; exact hfew)]
    exact ⟨_, hself, fun m hm hmn => laneState_setLane_ne (begun s) 2 l.isLt hm hmn, hset.link_eq Link.queue (fun _ _ => rfl) l,
      hset.link_eq Link.sending (fun _ _ => rfl) l, hset.mem, hset.out, rfl⟩

/-- A retraining lane that passes (R315). -/
theorem laneRetrain_passes (hup : linkState s.pkg l = 2) (hlane : laneState s.pkg l n = 2) :
    Completes (.laneRetrainComplete l n true) s (fun q => laneState q l n ≤ 1 ∧ tget (link q l).laneTries n 0 = 0 ∧ rd q Ix.tfLastStatus 0 = 0x0D03
      ∧ linkState q l = 2 ∧ q.mem = s.pkg.mem) := by
  have hset := setLane_laneFrame (begun s) l 1 n.isLt
  have hdeal := dealLanes_laneFrame (triesForgotten (setLane (begun s) l n 1) l n) l
  refine completes_of hp (exec_laneRetrainComplete l n true s) ?_
  rw [retrainLane_passes (p := begun s) hup hlane]
  have hraise := raiseAs_keeps (dealLanes (triesForgotten (setLane (begun s) l n 1) l n) l) Ix.tfLastStatus 0 0x0D03 0xFF (l * 8 + n) 0
  refine ⟨?_, ?_, ?_, ?_, ?_⟩
  · rw [hraise.laneState l.isLt n.isLt, last, laneState_wr_ne _ _ (by decide) (by decide) (by omega)]
    refine laneState_dealLanes_good _ l.isLt n.isLt ?_
    rw [triesForgotten, laneState_modLink, laneState_setLane_self _ l.isLt n.isLt (by decide)]
  · rw [hraise.link, link_last, hdeal.link_eq Link.laneTries (fun _ _ => rfl), triesForgotten, link_modLink_self, tget_tput_self]
  · rw [hraise.rd _ _ (commsKey_low (by decide) (by decide)), rd_last_self]
    rfl
  · rw [hraise.linkState l.isLt, last, linkState_wr_ne _ _ (by decide) (by decide) l.isLt, hdeal.linkState l.isLt l.isLt, triesForgotten,
      linkState_modLink, hset.linkState l.isLt l.isLt]
    exact hup
  · rw [hraise.mem, last_mem, hdeal.mem, triesForgotten, modLink_mem, hset.mem, begun_mem]

/-- A retraining lane that fails for the first time, and for the second (R315). -/
theorem laneRetrain_fails (hup : linkState s.pkg l = 2) (hlane : laneState s.pkg l n = 2) :
    (tget (link s.pkg l).laneTries n 0 = 0 → Completes (.laneRetrainComplete l n false) s (fun q => laneState q l n = 2
      ∧ tget (link q l).laneTries n 0 = 1 ∧ q.dict = s.pkg.dict ∧ q.mem = s.pkg.mem ∧ q.flash = s.pkg.flash))
    ∧ (1 ≤ tget (link s.pkg l).laneTries n 0 → s.pkg.flash.history.length < 16384 → Completes (.laneRetrainComplete l n false) s (fun q =>
      laneState q l n = 3 ∧ rd q Ix.tfLastStatus 0 = 0x0D02 ∧ q.mem = s.pkg.mem
      ∧ ∃ r : HistRecord, q.flash.history = s.pkg.flash.history ++ [r] ∧ r.kind = 6 ∧ r.unit = l * 8 + n ∧ r.status = 0x0D02)) := by
  refine ⟨fun hfirst => completes_of hp (exec_laneRetrainComplete l n false s) ?_, fun hagain hroom => completes_of hp (exec_laneRetrainComplete l n false s) ?_⟩
  · rw [retrainLane_fails_once (p := begun s) hup hlane hfirst]
    exact ⟨hlane, by rw [link_modLink_self, tget_tput_self], rfl, rfl, rfl⟩
  · obtain ⟨t, ht⟩ := retrainLane_fails_again (p := begun s) hup hlane hagain
    have hset := setLane_laneFrame (modLink (begun s) l (fun k => { k with laneTries := tput k.laneTries n t })) l 3 n.isLt
    have hself := laneState_setLane_self (modLink (begun s) l (fun k => { k with laneTries := tput k.laneTries n t })) l.isLt n.isLt (st := 3) (by decide)
    rw [ht]
    generalize setLane (modLink (begun s) l (fun k => { k with laneTries := tput k.laneTries n t })) l n 3 = p at hset hself ⊢
    have hflash : p.flash = s.pkg.flash := hset.flash
    obtain ⟨r, hr, hkind, hunit, hstatus⟩ := recordHistory_appends p 6 1 (l * 8 + n) 0x0D02 0 (by rw [hflash]; exact hroom)
    have hraise := raiseAs_keeps (recordHistory p 6 1 (l * 8 + n) 0x0D02 0) Ix.tfLastStatus 0 0x0D02 0xFF (l * 8 + n) 0
    refine ⟨?_, ?_, ?_, r, ?_, hkind, hunit, hstatus⟩
    · rw [hraise.laneState l.isLt n.isLt, last, laneState_wr_ne _ _ (by decide) (by decide) (by omega), laneState,
        recordHistory_rdAt _ _ _ _ _ _ _ _ _ (commsKey_low (by simp only [Ix.tfLaneState]; omega) (by omega)) (by simp only [keyAt, Ix.tfLaneState, Ix.ruHistoryCount]; omega)]
      exact hself
    · rw [hraise.rd _ _ (commsKey_low (by decide) (by decide)), rd_last_self]
      rfl
    · rw [hraise.mem, last_mem, recordHistory_mem, hset.mem, modLink_mem, begun_mem]
    · rw [hraise.flash, last_flash, hr, hflash]

end

section
variable {s : State} {l : Fin 24} (hp : powered s.pkg = true)
include hp

/-- A link that comes up (R313 to R315). -/
theorem linkTraining_completes {passed : Byte} {c : Capability} (htraining : training s.pkg l = true) (hpartner : (link s.pkg l).partner = some c)
    (hlicence : c.licensed = true) (henough : minLanes s.pkg ≤ (passedLanes s.pkg l passed.toNat).length) :
    Completes (.linkTrainingComplete l passed) s (fun q => ∃ p, linkState p l = 2
      ∧ (∀ n < 8, laneState s.pkg l n ≠ 3 → (bit passed.toNat n = false → laneState p l n = 2) ∧ (bit passed.toNat n = true → laneState p l n ≤ 1))
      ∧ (∀ n < 8, laneState s.pkg l n = 3 → laneState p l n = 3) ∧ p.tf.holes = s.pkg.tf.holes ∧ p.tf.suspects = s.pkg.tf.suspects ∧ p.mem = s.pkg.mem
      ∧ q = drainLink (checkDirection (if suspected s.pkg (idOf c.x c.y c.z) then flood (clearHole p (idOf c.x c.y c.z)) 2 (idOf c.x c.y c.z) 0 else p) (dirOf l)) l) := by
  have hframe := litUp_frame (begun s) l passed.toNat
  have hsize := hframe.rd (not_trainKey (e := Ix.tfTorusSize) (u := 0) (sub := 0) l.isLt (by decide) (by decide)
    (by simp only [Ix.tfTorusSize, Ix.tfLaneState]; omega) (by decide) (by decide))
  refine completes_of hp (exec_linkTrainingComplete l passed s) ?_
  rw [linkTrained_up (p := begun s) htraining hpartner hlicence henough, suspected_congr hsize hframe.holes hframe.suspects]
  exact ⟨_, linkState_litUp _ l.isLt _, fun n hn => (laneState_litUp (begun s) l.isLt hn _).1, fun n hn => (laneState_litUp (begun s) l.isLt hn _).2,
    hframe.holes, hframe.suspects, hframe.mem, rfl⟩

/-- A partner's capability record (R314). -/
theorem capabilityRecord_completes {c : Capability} (h : training s.pkg l = true ∨ (link s.pkg l).misfit = true) :
    (¬ levelInCommon c → Completes (.capabilityRecord l c) s (fun q => linkState q l = 4 ∧ rd q Ix.tfLastStatus 0 = 0x0D05 ∧ (link q l).misfit = true
      ∧ (∀ n < 8, laneState s.pkg l n ≠ 3 → laneState q l n = 1) ∧ q.mem = s.pkg.mem ∧ q.parts = s.pkg.parts))
    ∧ (levelInCommon c → ¬ placed s.pkg l c → Completes (.capabilityRecord l c) s (fun q => linkState q l = 4 ∧ rd q Ix.tfLastStatus 0 = 0x0D06
      ∧ (link q l).misfit = true ∧ (∀ n < 8, laneState s.pkg l n ≠ 3 → laneState q l n = 1) ∧ q.mem = s.pkg.mem ∧ q.parts = s.pkg.parts))
    ∧ (levelInCommon c → placed s.pkg l c → Completes (.capabilityRecord l c) s (fun q => (link q l).partner = some c
      ∧ rd q Ix.tfLinkPartner l = (idOf c.x c.y c.z + c.link * 2 ^ 10 + min c.highest Config.fabricLevel * 2 ^ 16) % 2 ^ 32
      ∧ linkState q l = (if (link s.pkg l).misfit then 1 else linkState s.pkg l) ∧ q.mem = s.pkg.mem ∧ q.parts = s.pkg.parts)) := by
  obtain ⟨htraining, hstate, hlanes⟩ := checkedAgain_shows (p := begun s) l.isLt h
  have hframe := checkedAgain_frame (begun s) l
  have hplaced : placed (checkedAgain (begun s) l) l c ↔ placed s.pkg l c := by
    rw [placed, checkedAgain_neighbour (begun s) l.isLt, placed]
    rfl
  have hmisfit : ∀ status < 2 ^ 16, takeCapability (begun s) l c = holdMisfit (checkedAgain (begun s) l) l status →
      Completes (.capabilityRecord l c) s (fun q => linkState q l = 4 ∧ rd q Ix.tfLastStatus 0 = status ∧ (link q l).misfit = true
        ∧ (∀ n < 8, laneState s.pkg l n ≠ 3 → laneState q l n = 1) ∧ q.mem = s.pkg.mem ∧ q.parts = s.pkg.parts) := by
    intro status hst heq
    obtain ⟨hheld, hlast, hmis, hparked, hmem, hparts⟩ := holdMisfit_shows (checkedAgain (begun s) l) l.isLt hst
    refine completes_of hp (exec_capabilityRecord l c s) ?_
    rw [heq]
    exact ⟨hheld, hlast, hmis, fun n hn hgood => hparked n hn (hlanes n hn hgood), hmem.trans hframe.mem, hparts.trans hframe.parts⟩
  obtain ⟨hlevel, hplace, hfits⟩ := takeCapability_checks (c := c) htraining
  refine ⟨fun hc => hmisfit _ (by decide) (hlevel hc), fun hc hat => hmisfit _ (by decide) (hplace hc (mt hplaced.1 hat)), fun hc hat => ?_⟩
  refine completes_of hp (exec_capabilityRecord l c s) ?_
  rw [hfits hc (hplaced.2 hat)]
  refine ⟨by rw [link_wr, link_modLink_self], rd_wr_self _ _ _ _, ?_, hframe.mem, hframe.parts⟩
  rw [linkState_wr_ne _ _ (by decide) (by omega) l.isLt, linkState_modLink, hstate]
  rfl

end

/-- Settles O39, by the state of the link and of the lane. Three of its clauses are choices of the model: the fewest lit lanes are judged
before a parked lane takes the failed one's place (entry 116 of its log), the lanes of a link that is held down are parked (entry 21), and
a partner without a licence keeps the link in training (entry 118). -/
theorem linksComplete : Obligations.LinksComplete := by
  unfold Obligations.LinksComplete
  refine ⟨fun s l n hp => ⟨fun hup hlit => laneFailure_completes hp hup hlit, fun hnone => ?_, fun hup hlane => ?_, fun hnone passed => ?_⟩,
    fun s l hp => ⟨fun htraining passed c hpartner hlicence henough => linkTraining_completes hp htraining hpartner hlicence henough,
      fun passed hnone => ?_, fun c h => capabilityRecord_completes hp h, fun c htraining hfit => ?_, fun full => ?_⟩⟩
  · exact completes_of hp (exec_laneFailure l n s) (failLane_none (p := begun s) hnone)
  · exact ⟨laneRetrain_passes hp hup hlane, laneRetrain_fails hp hup hlane⟩
  · exact completes_of hp (exec_laneRetrainComplete l n passed s) (retrainLane_none (p := begun s) hnone passed)
  · exact completes_of hp (exec_linkTrainingComplete l passed s) (linkTrained_none (p := begun s) hnone)
  · exact completes_of hp (exec_capabilityRecord l c s) (takeCapability_none (p := begun s) htraining hfit)
  · exact completes_of hp (exec_profileChange l full s) (profileChange_shows (begun s) l.isLt full rfl)

end Sys2Proof.Machine
end

section
/-! Writes of the fabric's own entries (O40). -/

namespace Sys2Proof.Machine

/-- The value of an axis remap without the bits of no field (R2, R319). -/
def remapValue (v : Nat) : Nat := bits v 15 15 * 2 ^ 15 + bits v 12 8 * 2 ^ 8 + bits v 4 0

/-- The fields of an axis remap are kept, and the bits of no field are 0 (R2, R319). -/
theorem remapValue_fields (v : Nat) : bit (remapValue v % 2 ^ 16) 15 = bit v 15 ∧ bits (remapValue v % 2 ^ 16) 12 8 = bits v 12 8
    ∧ bits (remapValue v % 2 ^ 16) 4 0 = bits v 4 0 ∧ bits (remapValue v % 2 ^ 16) 14 13 = 0 ∧ bits (remapValue v % 2 ^ 16) 7 5 = 0 := by
  simp only [remapValue, bit, bits, Nat.testBit_eq_decide_div_mod_eq, Nat.shiftRight_eq_div_pow, decide_eq_decide]
  omega

section
variable {p : Pkg} {l v : Nat}

theorem writeLinkHold_refused (hv : 1 < v) : writeLinkHold p l v = (p, invalid 0x1006) := if_pos hv

/-- A link without a licence stays so, and one that is not held goes on where the hold is taken back (R311, R318). -/
theorem writeLinkHold_stays (hl : l < 24) (hv : v ≤ 1) (h : linkState p l = 5 ∨ (v = 0 ∧ linkState p l ≠ 4)) :
    writeLinkHold p l v = (wr p Ix.tfLinkHold l v, accepted) := by
  have hstate : linkState (wr p Ix.tfLinkHold l v) l = linkState p l := linkState_wr_ne _ _ (by decide) (by omega) hl
  unfold writeLinkHold
  rw [if_neg (by omega)]
  dsimp only
  rw [hstate]
  by_cases h5 : linkState p l = 5
  · exact if_pos h5
  · obtain ⟨rfl, h4⟩ := h.resolve_left h5
    rw [if_neg h5, if_neg (by decide), if_neg h4]

theorem writeLinkHold_down (hl : l < 24) (hup : linkState p l = 2) :
    writeLinkHold p l 1 = (loseLink (wr p Ix.tfLinkHold l 1) l 4, accepted) := by
  have hstate : linkState (wr p Ix.tfLinkHold l 1) l = 2 := (linkState_wr_ne _ _ (by decide) (by omega) hl).trans hup
  unfold writeLinkHold
  rw [if_neg (by decide)]
  dsimp only
  rw [hstate, if_neg (by decide), if_pos rfl, if_pos rfl]

/-- A link that is held without traffic: its lanes are parked (R311; assumption 21). -/
def heldDown (p : Pkg) (l : Nat) : Pkg := wr (allLanes (modLink p l (fun k => { k with misfit := false })) l 1) Ix.tfLinkState l 4

theorem writeLinkHold_held (hl : l < 24) (hdown : linkState p l ≠ 2) (hlicence : linkState p l ≠ 5) :
    writeLinkHold p l 1 = (heldDown (wr p Ix.tfLinkHold l 1) l, accepted) := by
  have hstate : linkState (wr p Ix.tfLinkHold l 1) l = linkState p l := linkState_wr_ne _ _ (by decide) (by omega) hl
  unfold writeLinkHold
  rw [if_neg (by decide)]
  dsimp only
  rw [hstate, if_neg hlicence, if_pos rfl, if_neg hdown, heldDown]

theorem writeLinkHold_released (hl : l < 24) (hheld : linkState p l = 4) :
    writeLinkHold p l 0 = (beginTraining (modLink (wr p Ix.tfLinkHold l 0) l (fun k => { k with quarantineNs := none })) l, accepted) := by
  have hstate : linkState (wr p Ix.tfLinkHold l 0) l = 4 := (linkState_wr_ne _ _ (by decide) (by omega) hl).trans hheld
  unfold writeLinkHold
  rw [if_neg (by decide)]
  dsimp only
  rw [hstate, if_neg (by decide), if_neg (by decide), if_pos rfl]

end

section
variable {p : Pkg} {l n v : Nat}

theorem writeLaneRetrain_refused (hv : v ≠ 1) : writeLaneRetrain p l n v = (p, invalid 0x1006) := if_pos hv

theorem writeLaneRetrain_resting (hdown : linkState (triesForgotten (setLane p l n 2) l n) l ≠ 2) :
    writeLaneRetrain p l n 1 = (triesForgotten (setLane p l n 2) l n, accepted) := if_pos hdown

theorem writeLaneRetrain_stays (hup : linkState (triesForgotten (setLane p l n 2) l n) l = 2)
    (henough : minLanes (triesForgotten (setLane p l n 2) l n) ≤ (lanesIn (triesForgotten (setLane p l n 2) l n) l 0).length) :
    writeLaneRetrain p l n 1 = (dealLanes (triesForgotten (setLane p l n 2) l n) l, accepted) :=
  (if_neg (not_not.2 hup)).trans (if_neg (Nat.not_lt.2 henough))

theorem writeLaneRetrain_drops (hup : linkState (triesForgotten (setLane p l n 2) l n) l = 2)
    (hfew : (lanesIn (triesForgotten (setLane p l n 2) l n) l 0).length < minLanes (triesForgotten (setLane p l n 2) l n)) :
    writeLaneRetrain p l n 1 = (loseLink (triesForgotten (setLane p l n 2) l n) l 1, accepted) :=
  (if_neg (not_not.2 hup)).trans (if_pos hfew)

end

/-- The entry of a lane's retraining on link `l` (R389). -/
def laneRetrainEntry (l : Nat) : Entry := { Ix.tfLaneRetrain with index := Ix.tfLaneRetrain.index + l }

theorem laneRetrainEntry_index (l : Nat) : (laneRetrainEntry l).index = 0x5480 + l := rfl

theorem exec_laneRetrainWrite_answered (l : Fin 24) (n : Fin 8) (v : Byte) (s : State) : exec (.laneRetrainWrite l n v) s
    = onPkgF (fun p => answered (laneRetrainEntry l) n (writeLaneRetrain p l n v.toNat)) s := exec_laneRetrainWrite l n v s

theorem answered_accepted (e : Entry) (sub : Nat) (p : Pkg) : answered e sub (p, accepted) = emit p (.answer e.index sub 0 0 false) := rfl

/-- The answer of a write ends what it has sent. -/
theorem answered_last (e : Entry) (sub : Nat) (r : Pkg × Answer) :
    (answered e sub r).out.getLast? = some (.answer e.index sub r.2.abort r.2.status r.2.pending) := emit_last _ _

theorem answered_laneRetrain_last (l n : Nat) (r : Pkg × Answer) :
    (answered (laneRetrainEntry l) n r).out.getLast? = some (.answer (0x5480 + l) n r.2.abort r.2.status r.2.pending) := by
  rw [answered_last, laneRetrainEntry_index]

@[simp] theorem answered_mem (e : Entry) (sub : Nat) (r : Pkg × Answer) : (answered e sub r).mem = r.1.mem := rfl
@[simp] theorem answered_parts (e : Entry) (sub : Nat) (r : Pkg × Answer) : (answered e sub r).parts = r.1.parts := rfl
@[simp] theorem rd_answered (e e' : Entry) (sub sub' : Nat) (r : Pkg × Answer) : rd (answered e sub r) e' sub' = rd r.1 e' sub' := rfl
@[simp] theorem link_answered (e : Entry) (sub l : Nat) (r : Pkg × Answer) : link (answered e sub r) l = link r.1 l := rfl
@[simp] theorem linkState_answered (e : Entry) (sub l : Nat) (r : Pkg × Answer) : linkState (answered e sub r) l = linkState r.1 l := rfl
@[simp] theorem laneState_answered (e : Entry) (sub l n : Nat) (r : Pkg × Answer) : laneState (answered e sub r) l n = laneState r.1 l n := rfl

section
variable {s : State} (hp : powered s.pkg = true)
include hp

/-- Writes of a link's hold (R311). -/
theorem linkHoldWrite_completes {l : Fin 24} {v : Byte} (hopen : gate s.pkg Ix.tfLinkHold 0 l = none) :
    (v = 1 → linkState s.pkg l = 2 → Completes (.linkHoldWrite l v) s (fun q => ∃ p, rd p Ix.tfLinkHold l = 1 ∧ p.tf = s.pkg.tf ∧ linkState p l = 2
      ∧ q = answered Ix.tfLinkHold l (loseLink p l 4, accepted)))
    ∧ (v = 1 → linkState s.pkg l ≠ 2 → linkState s.pkg l ≠ 5 → Completes (.linkHoldWrite l v) s (fun q => rd q Ix.tfLinkHold l = 1 ∧ linkState q l = 4
      ∧ (link q l).misfit = false ∧ q.mem = s.pkg.mem ∧ q.parts = s.pkg.parts ∧ q.out.getLast? = some (.answer 0x543B l 0 0 false)))
    ∧ (v = 0 → linkState s.pkg l = 4 → Completes (.linkHoldWrite l v) s (fun q => rd q Ix.tfLinkHold l = 0 ∧ linkState q l = 1
      ∧ (link q l).quarantineNs = none ∧ (link q l).rxNext = 1 ∧ (link q l).partner = none ∧ q.out.getLast? = some (.answer 0x543B l 0 0 false)))
    ∧ (v.toNat ≤ 1 → linkState s.pkg l = 5 ∨ (v = 0 ∧ linkState s.pkg l ≠ 4) → Completes (.linkHoldWrite l v) s (fun q => rd q Ix.tfLinkHold l = v.toNat
      ∧ linkState q l = linkState s.pkg l ∧ q.tf = s.pkg.tf ∧ q.mem = s.pkg.mem ∧ q.parts = s.pkg.parts
      ∧ q.out.getLast? = some (.answer 0x543B l 0 0 false)))
    ∧ (1 < v.toNat → Completes (.linkHoldWrite l v) s (fun q => q.dict = s.pkg.dict ∧ q.tf = s.pkg.tf
      ∧ q.out.getLast? = some (.answer 0x543B l 6 0x1006 false))) := by
  have hwrites : ∀ {effect : Pkg → Prop}, effect (answered Ix.tfLinkHold l (writeLinkHold (begun s) l v.toNat)) → Completes (.linkHoldWrite l v) s effect :=
    fun heffect => completes_of hp (exec_linkHoldWrite l v s) (by rw [entryCommand_open _ hopen]; exact heffect)
  have hrd : ∀ n < 2 ^ 8, rd (wr (begun s) Ix.tfLinkHold l n) Ix.tfLinkHold l = n := fun n hn => (rd_wr_self _ _ _ _).trans (Nat.mod_eq_of_lt hn)
  refine ⟨?up, ?held, ?released, fun hv hstays => hwrites ?_, fun hv => hwrites ?_⟩
  case up =>
    rintro rfl hup
    refine hwrites ?_
    rw [show (1 : Byte).toNat = 1 from rfl, writeLinkHold_down (p := begun s) l.isLt hup]
    exact ⟨_, hrd 1 (by decide), rfl, (linkState_wr_ne _ _ (by decide) (by omega) l.isLt).trans hup, rfl⟩
  case held =>
    rintro rfl hdown hlicence
    refine hwrites ?_
    have hlanes := allLanes_laneFrame (modLink (wr (begun s) Ix.tfLinkHold l 1) l (fun k => { k with misfit := false })) l 1
    rw [show (1 : Byte).toNat = 1 from rfl, writeLinkHold_held (p := begun s) l.isLt hdown hlicence, heldDown]
    refine ⟨?_, ?_, ?_, ?_, ?_, answered_last _ _ _⟩
    · rw [rd_answered, rd_wr_ne _ _ (by decide) (by omega) (by omega), hlanes.rd (not_laneKey_below l.isLt (by omega) (by decide) (by decide)),
        rd_modLink, hrd 1 (by decide)]
    · rw [linkState_answered, linkState_wr_self _ _ (by decide)]
    · rw [link_answered, link_wr, hlanes.link_eq Link.misfit (fun _ _ => rfl), link_modLink_self]
    · rw [answered_mem, wr_mem, hlanes.mem, modLink_mem, wr_mem, begun_mem]
    · rw [answered_parts, wr_parts, hlanes.parts, modLink_parts, wr_parts, begun_parts]
  case released =>
    rintro rfl hheld
    refine hwrites ?_
    obtain ⟨t, ht⟩ := link_beginTraining (modLink (wr (begun s) Ix.tfLinkHold l 0) l (fun k => { k with quarantineNs := none })) l
    have htrain := beginTraining_frame (modLink (wr (begun s) Ix.tfLinkHold l 0) l (fun k => { k with quarantineNs := none })) l
    rw [show (0 : Byte).toNat = 0 from rfl, writeLinkHold_released (p := begun s) l.isLt hheld, link_answered, ht, link_modLink_self, rd_answered, linkState_answered,
      linkState_beginTraining _ l.isLt,
      htrain.rd (not_trainKey l.isLt (by omega) (by decide) (by simp only [Ix.tfLinkHold, Ix.tfLaneState]; omega) (by decide) (by decide)),
      rd_modLink, hrd 0 (by decide)]
    exact ⟨rfl, rfl, rfl, rfl, rfl, answered_last _ _ _⟩
  · rw [writeLinkHold_stays (p := begun s) l.isLt hv (hstays.imp_right fun h => ⟨by rw [h.1]; rfl, h.2⟩)]
    exact ⟨hrd _ v.isLt, linkState_wr_ne _ _ (by decide) (by omega) l.isLt, rfl, rfl, rfl, answered_last _ _ _⟩
  · rw [writeLinkHold_refused hv]
    exact ⟨rfl, rfl, answered_last _ _ _⟩

/-- Writes of a lane's retraining (R315). -/
theorem laneRetrainWrite_completes (l : Fin 24) (n : Fin 8) (v : Byte) :
    (v = 1 → linkState s.pkg l ≠ 2 → Completes (.laneRetrainWrite l n v) s (fun q => laneState q l n = 2 ∧ tget (link q l).laneTries n 0 = 0
      ∧ q.out.getLast? = some (.answer (0x5480 + l) n 0 0 false)))
    ∧ (v = 1 → linkState s.pkg l = 2 → minLanes s.pkg ≤ ((List.range 8).filter (fun m => m != n.val && laneState s.pkg l m == 0)).length →
        Completes (.laneRetrainWrite l n v) s (fun q => laneState q l n = 2 ∧ linkState q l = 2 ∧ tget (link q l).laneTries n 0 = 0
          ∧ q.out.getLast? = some (.answer (0x5480 + l) n 0 0 false)))
    ∧ (v = 1 → linkState s.pkg l = 2 → ((List.range 8).filter (fun m => m != n.val && laneState s.pkg l m == 0)).length < minLanes s.pkg →
        Completes (.laneRetrainWrite l n v) s (fun q => ∃ p, laneState p l n = 2 ∧ tget (link p l).laneTries n 0 = 0 ∧ (link p l).queue = (link s.pkg l).queue
          ∧ q = emit (loseLink p l 1) (.answer (0x5480 + l) n 0 0 false)))
    ∧ (v ≠ 1 → Completes (.laneRetrainWrite l n v) s (fun q => q.dict = s.pkg.dict ∧ q.tf = s.pkg.tf
      ∧ q.out.getLast? = some (.answer (0x5480 + l) n 6 0x1006 false))) := by
  have hset := setLane_laneFrame (begun s) l 2 n.isLt
  have hself : laneState (triesForgotten (setLane (begun s) l n 2) l n) l n = 2 := by
    rw [triesForgotten, laneState_modLink, laneState_setLane_self (begun s) l.isLt n.isLt (by decide)]
  have hlit : lanesIn (triesForgotten (setLane (begun s) l n 2) l n) l 0 = (List.range 8).filter (fun m => m != n.val && laneState s.pkg l m == 0) := by
    rw [triesForgotten, lanesIn_modLink, lanesIn_setLane_two (begun s) l.isLt]
    rfl
  have hmin : minLanes (triesForgotten (setLane (begun s) l n 2) l n) = minLanes s.pkg := by
    rw [triesForgotten, minLanes_modLink, hset.minLanes l.isLt, minLanes_begun]
  have hstate : linkState (triesForgotten (setLane (begun s) l n 2) l n) l = linkState s.pkg l := by
    rw [triesForgotten, linkState_modLink, hset.linkState l.isLt l.isLt, linkState_begun]
  have htries : tget (link (triesForgotten (setLane (begun s) l n 2) l n) l).laneTries n 0 = 0 := by
    rw [triesForgotten, link_modLink_self, tget_tput_self]
  have hwrites : ∀ {effect : Pkg → Prop}, effect (answered (laneRetrainEntry l) n (writeLaneRetrain (begun s) l n v.toNat)) →
      Completes (.laneRetrainWrite l n v) s effect := fun heffect => completes_of hp (exec_laneRetrainWrite_answered l n v s) heffect
  refine ⟨?resting, ?stays, ?drops, fun hv => hwrites ?_⟩
  case resting =>
    rintro rfl hdown
    refine hwrites ?_
    rw [show (1 : Byte).toNat = 1 from rfl, writeLaneRetrain_resting (by rw [hstate]; exact hdown), laneState_answered, link_answered]
    exact ⟨hself, htries, answered_laneRetrain_last _ _ _⟩
  case stays =>
    rintro rfl hup henough
    refine hwrites ?_
    have hdeal := dealLanes_laneFrame (triesForgotten (setLane (begun s) l n 2) l n) l
    rw [show (1 : Byte).toNat = 1 from rfl, writeLaneRetrain_stays (hstate.trans hup) (by rw [hmin, hlit]; exact henough), laneState_answered,
      linkState_answered, link_answered, laneState_dealLanes_bad _ l.isLt n.isLt (by rw [hself]), hdeal.linkState l.isLt l.isLt,
      hdeal.link_eq Link.laneTries (fun _ _ => rfl)]
    exact ⟨hself, hstate.trans hup, htries, answered_laneRetrain_last _ _ _⟩
  case drops =>
    rintro rfl hup hfew
    refine hwrites ?_
    rw [show (1 : Byte).toNat = 1 from rfl, writeLaneRetrain_drops (hstate.trans hup) (by rw [hmin, hlit]; exact hfew)]
    refine ⟨triesForgotten (setLane (begun s) l n 2) l n, hself, htries, ?_, by rw [answered_accepted, laneRetrainEntry_index]⟩
    rw [triesForgotten, link_modLink_self]
    exact hset.link_eq Link.queue (fun _ _ => rfl) l
  · rw [writeLaneRetrain_refused fun h => hv (BitVec.eq_of_toNat_eq h)]
    exact ⟨rfl, rfl, answered_laneRetrain_last _ _ _⟩

/-- Writes of collective groups (R327, R383). -/
theorem collectiveGroupsWrite_completes {pp : Fin 12} {data : Bytes} (hopen : gate s.pkg Ix.tfCollectiveGroups 0 pp = none)
    (harm : tfind s.pkg.wm.arms pp = none) {ok : Prop}
    (hok : ok ↔ data.length % 32 = 0 ∧ data.length ≤ 8192 ∧ ((records 32 data).zipIdx).all (fun e => groupOk s.pkg e.1 e.2) = true) :
    (ok → pcState s.pkg pp = 2 → Completes (.collectiveGroupsWrite pp data) s (fun q => shadowOf q Ix.tfCollectiveGroups pp = some (.bytes data)
      ∧ q.dict.vals = s.pkg.dict.vals ∧ q.out.getLast? = some (.answer 0x5420 pp 0 0 true)))
    ∧ (¬ ok → Completes (.collectiveGroupsWrite pp data) s (fun q => q.dict.shadows = s.pkg.dict.shadows ∧ rd q Ix.tfLastStatus 0 = 0x0D08
      ∧ q.out.getLast? = some (.answer 0x5420 pp 6 0x0D08 false))) := by
  have hwrites : ∀ {effect : Pkg → Prop}, effect (answered Ix.tfCollectiveGroups pp (writeGroups (begun s) pp data)) →
      Completes (.collectiveGroupsWrite pp data) s effect :=
    fun heffect => completes_of hp (exec_collectiveGroupsWrite pp data s) (by rw [entryCommand_open _ hopen]; exact heffect)
  refine ⟨fun h hruns => hwrites ?_, fun h => hwrites ?_⟩
  · have hclass : writeClassB (begun s) pp Ix.tfCollectiveGroups (.bytes data) = (putShadow (begun s) Ix.tfCollectiveGroups pp (.bytes data), true) := by
      unfold writeClassB
      dsimp only
      rw [show tfind (begun s).wm.arms pp = none from harm, show pcState (begun s) pp = 2 from hruns]
      rfl
    rw [show writeGroups (begun s) pp data = shadowed (begun s) pp Ix.tfCollectiveGroups (.bytes data) from if_pos (hok.1 h), shadowed, hclass]
    exact ⟨tfind_tput_self _ _ _, rfl, answered_last _ _ _⟩
  · rw [show writeGroups (begun s) pp data = refuse (last (begun s) Ix.tfLastStatus 0 0x0D08) (invalid 0x0D08) from if_neg (mt hok.2 h)]
    exact ⟨rfl, rd_last_self _ _ _ _, answered_last _ _ _⟩

end

/-- Settles O40, by the entry and by the state of the link that the write meets. Two of its clauses are choices of the model: an up link
that is held goes down as R316 takes links down (entry 186 of its log), and links retrain one by one after a remap (entry 177). Bits of no
field are ignored, as R2 has it and against entry 121. -/
theorem fabricEntriesComplete : Obligations.FabricEntriesComplete := by
  unfold Obligations.FabricEntriesComplete
  refine fun s hp => ⟨fun d v hopen => ?_, fun l v hopen => linkHoldWrite_completes hp hopen, fun l n v => laneRetrainWrite_completes hp l n v,
    fun pp data hopen harm => collectiveGroupsWrite_completes hp hopen harm Iff.rfl⟩
  refine completes_of hp (exec_axisRemapWrite d v s) ?_
  rw [entryCommand_open _ hopen]
  obtain ⟨hflag, hfrom, hto, hhigh, hlow⟩ := remapValue_fields v.toNat
  have hrd : rd (wr (begun s) Ix.tfAxisRemap d (remapValue v.toNat)) Ix.tfAxisRemap d = remapValue v.toNat % 2 ^ 16 := rd_wr_self _ _ _ _
  refine ⟨wr (begun s) Ix.tfAxisRemap d (remapValue v.toNat), ?_, ?_, ?_, ?_, ?_, rfl, rfl, rfl⟩ <;> rw [hrd]
  exacts [hflag, hfrom, hto, hhigh, hlow]

end Sys2Proof.Machine
end

section
/-! Flits sent on a link: what they carry, and what sending leaves (R307 to R309). -/

namespace Sys2Proof.Machine

theorem length_padTo (b : Bytes) (n : Nat) : (padTo b n).length = n := by
  simp only [padTo, List.length_append, List.length_take, List.length_replicate]
  omega

theorem flitBytes_length (ftype vc seq ack : Nat) (nak : Bool) (creditVc credits first : Nat) (payload : Bytes) :
    (flitBytes ftype vc seq ack nak creditVc credits first payload).length = 256 := by
  simp only [flitBytes, List.length_append, leBytes_length, length_padTo]

/-- The first word of an IDLE flit is the acknowledgement that it carries (R308). -/
theorem leAt_idle {ack : Nat} (hack : ack < 4096) (nak : Bool) (creditVc credits first : Nat) (payload : Bytes) :
    leAt (flitBytes 0 0 0 ack nak creditVc credits first payload) 0 4 = ack := by
  have htake : ((flitBytes 0 0 0 ack nak creditVc credits first payload).drop 0).take 4 = leBytes 4 ack := by
    simp only [flitBytes, List.append_assoc, List.drop_zero]
    rw [List.take_left' (leBytes_length 4 _)]
    congr 1
    omega
  rw [leAt, htake, leNat_leBytes 4 ack (by omega)]

/-- The lanes of a link's next eight units follow from its turn and its lit lanes alone (R307). -/
theorem unitLanes_congr {p q : Pkg} {l : Nat} (hturn : (link q l).turn = (link p l).turn) (hlit : lanesIn q l 0 = lanesIn p l 0) :
    unitLanes q l = unitLanes p l := by rw [unitLanes, hturn, hlit, unitLanes]

theorem unitLanes_modLink (p : Pkg) (l : Nat) {f : Link → Link} (hf : (f (link p l)).turn = (link p l).turn) :
    unitLanes (modLink p l f) l = unitLanes p l := unitLanes_congr (by rw [link_modLink_self, hf]) (lanesIn_modLink p l l 0 f)

/-- What an IDLE flit is, and what sending it leaves: it acknowledges every sequence before the expected one (R309). -/
theorem sendFlit_idle (p : Pkg) (l : Nat) (nak : Bool) {q : Pkg} (hq : q = sendFlit p l 0 0 0 nak 15 []) :
    q.dict = p.dict ∧ q.mem = p.mem ∧ q.parts = p.parts
    ∧ (∃ t o, link q l = { link p l with turn := t, owed := o, sinceAck := 0 })
    ∧ ∃ g, q.out = p.out ++ [.flit l g (unitLanes p l)] ∧ g.length = 256 ∧ bits (leAt g 0 4) 31 28 = 0
        ∧ bits (leAt g 0 4) 11 0 = ((link p l).rxNext + 4095) % 4096 := by
  have hack : ((link p l).rxNext + 4095) % 4096 < 4096 := Nat.mod_lt _ (by decide)
  subst hq
  refine ⟨rfl, rfl, rfl, ?_, flitBytes 0 0 0 (((link p l).rxNext + 4095) % 4096) nak (creditDue (link p l)).1 (creditDue (link p l)).2 15 [], ?_,
    flitBytes_length _ _ _ _ _ _ _ _ _, ?_, ?_⟩
  · unfold sendFlit emitFlit
    dsimp only
    rw [link_emit, link_modLink_self, if_pos rfl, link_modLink_self]
    exact ⟨_, _, rfl⟩
  · unfold sendFlit emitFlit
    dsimp only
    rw [if_pos rfl, unitLanes_modLink _ _ (by rfl)]
    rfl
  · rw [leAt_idle hack]
    simp only [bits, Nat.shiftRight_eq_div_pow]
    omega
  · rw [leAt_idle hack]
    simp only [bits, Nat.shiftRight_eq_div_pow]
    omega

/-- The part of a link that sending and acknowledgements leave: what it receives and what it knows of its partner. -/
def receiveSide (k : Link) : Link :=
  { k with txNext := 0, unacked := [], queue := [], sending := [], credits := [], owed := [], sinceAck := 0, rounds := 0, turn := 0 }

/-- The key of the counter of flits sent on link `l` (0x5438). -/
def flitsKey (l k : Nat) : Prop := k = keyAt Ix.tfLinkFlits 0 l

/-- What sending on link `l` may change: the sending side of its links, its counter of flits, and what has been sent. -/
structure SendFrame (l : Nat) (p q : Pkg) : Prop extends FabricFrame (flitsKey l) p q where
  receives : ∀ l', receiveSide (link q l') = receiveSide (link p l')

section
variable {p q r : Pkg} {l : Nat}

theorem SendFrame.rfl : SendFrame l p p := ⟨.rfl, fun _ => by rfl⟩

theorem SendFrame.trans (h : SendFrame l p q) (g : SendFrame l q r) : SendFrame l p r :=
  ⟨h.toFabricFrame.trans g.toFabricFrame, fun l' => (g.receives l').trans (h.receives l')⟩

theorem SendFrame.linkState (h : SendFrame l p q) (hl : l < 24) {l' : Nat} (hl' : l' < 24) : Machine.linkState q l' = Machine.linkState p l' := by
  refine h.rd ?_
  simp only [flitsKey, keyAt, Ix.tfLinkState, Ix.tfLinkFlits]
  omega

/-- A part of a link that is none of its sending side is as it was. -/
theorem SendFrame.link_eq {α : Type} (h : SendFrame l p q) (g : Link → α) (hg : ∀ k, g (receiveSide k) = g k) (l' : Nat) :
    g (link q l') = g (link p l') := by rw [← hg (link q l'), h.receives l', hg]

theorem modLink_sendFrame (p : Pkg) (l : Nat) {f : Link → Link} (hf : ∀ k, receiveSide (f k) = receiveSide k) : SendFrame l p (modLink p l f) where
  toFabricFrame := modLink_fabricFrame p l f
  receives l' := by
    by_cases h : l' = l
    · rw [h, link_modLink_self, hf]
    · rw [link_modLink_ne _ _ h]

theorem emitFlit_sendFrame (p : Pkg) (l : Nat) (f : Bytes) : SendFrame l p (emitFlit p l f) :=
  (modLink_sendFrame p l fun _ => by rfl).trans ⟨emit_fabricFrame _ _, fun _ => by rfl⟩

theorem bump_flits_sendFrame (p : Pkg) (l : Nat) : SendFrame l p (bump p Ix.tfLinkFlits l 1) := ⟨wrAt_fabricFrame _ _ (by rfl), fun _ => by rfl⟩

theorem sendFlit_sendFrame (p : Pkg) (l ftype vc seq : Nat) (nak : Bool) (first : Nat) (payload : Bytes) :
    SendFrame l p (sendFlit p l ftype vc seq nak first payload) := by
  unfold sendFlit
  dsimp only
  refine SendFrame.trans ?_ (emitFlit_sendFrame _ _ _)
  split
  · exact modLink_sendFrame p l fun _ => by rfl
  · exact (modLink_sendFrame p l fun _ => by rfl).trans (bump_flits_sendFrame _ _)

theorem sendPacket_sendFrame (p : Pkg) (l : Nat) (k : Packet) : SendFrame l p (sendPacket p l k) := by
  unfold sendPacket
  refine SendFrame.trans ?_ (modLink_sendFrame _ l fun _ => by rfl)
  refine List.foldlRecOn (motive := SendFrame l p) _ _ .rfl fun q hq f _ => hq.trans ?_
  exact (modLink_sendFrame q l fun _ => by rfl).trans (sendFlit_sendFrame _ _ _ _ _ _ _ _)

theorem drainLink_sendFrame (p : Pkg) (l : Nat) : SendFrame l p (drainLink p l) := by
  unfold drainLink
  refine List.foldlRecOn (motive := fun acc : Pkg × List Nat => SendFrame l p acc.1) _ _ (modLink_sendFrame p l fun _ => by rfl)
    fun acc hacc k _ => hacc.trans ?_
  dsimp only
  split
  · exact sendPacket_sendFrame _ _ _
  · exact modLink_sendFrame _ l fun _ => by rfl

theorem ackLink_sendFrame (p : Pkg) (l ack : Nat) : SendFrame l p (ackLink p l ack) :=
  (modLink_sendFrame p l fun _ => by rfl).trans (drainLink_sendFrame _ _)

end

end Sys2Proof.Machine
end

section
/-! The replay timer and the idle timer of a link (O38). -/

namespace Sys2Proof.Machine

theorem holesAfter_up {p q : Pkg} {l : Nat} (h : linkState q l = 2) : holesAfter p q l = q := if_neg fun h' => h'.2 h

/-- The lanes of eight units of a link from a turn on (R307). -/
def lanesFrom (p : Pkg) (l turn : Nat) : List Nat :=
  (List.range 8).map (fun i => (lanesIn p l 0).getD ((turn + i) % max 1 (lanesIn p l 0).length) 0)

theorem lanesFrom_congr (p : Pkg) (l : Nat) {t t' : Nat} (h : t % max 1 (lanesIn p l 0).length = t' % max 1 (lanesIn p l 0).length) :
    lanesFrom p l t = lanesFrom p l t' :=
  List.map_congr_left fun i _ => by rw [Nat.add_mod, h, ← Nat.add_mod]

/-- Flits put on a link's lanes one after the other take its lit lanes in turn (R307). -/
theorem emitFlits_out (l : Nat) (us : List (Nat × Bytes)) (p : Pkg) (t n : Nat)
    (hturn : (link p l).turn % max 1 (lanesIn p l 0).length = (t + 8 * n) % max 1 (lanesIn p l 0).length) :
    (us.foldl (fun p u => emitFlit p l u.2) p).out = p.out ++ (us.zipIdx n).map (fun u => .flit l u.1.2 (lanesFrom p l (t + 8 * u.2))) := by
  induction us generalizing p n with
  | nil => simp
  | cons u us ih =>
    have hlanes : unitLanes p l = lanesFrom p l (t + 8 * n) := lanesFrom_congr p l hturn
    have hnext : (link (emitFlit p l u.2) l).turn % max 1 (lanesIn p l 0).length = (t + 8 * (n + 1)) % max 1 (lanesIn p l 0).length := by
      rw [emitFlit, link_emit, link_modLink_self, Nat.mod_mod, Nat.add_mod, hturn, ← Nat.add_mod, Nat.mul_succ, Nat.add_assoc]
    have hout : (emitFlit p l u.2).out = p.out ++ [.flit l u.2 (unitLanes p l)] := rfl
    rw [List.foldl_cons, ih (emitFlit p l u.2) (n + 1) hnext, hout, hlanes, List.zipIdx_cons, List.map_cons, List.append_assoc, List.singleton_append]
    rfl

/-- Putting flits on a link's lanes changes which lane is next, and what has been sent. -/
theorem emitFlits_keeps (l : Nat) (us : List (Nat × Bytes)) (p : Pkg) :
    (us.foldl (fun p u => emitFlit p l u.2) p).dict = p.dict
    ∧ ∃ t, link (us.foldl (fun p u => emitFlit p l u.2) p) l = { link p l with turn := t } := by
  induction us generalizing p with
  | nil => exact ⟨rfl, _, rfl⟩
  | cons u us ih =>
    obtain ⟨hdict, t, ht⟩ := ih (emitFlit p l u.2)
    refine ⟨hdict, t, ?_⟩
    rw [List.foldl_cons, ht, emitFlit, link_emit, link_modLink_self]

/-- The package when a replay round of a link has been counted (R309). -/
def roundCounted (p : Pkg) (l : Nat) : Pkg := bump (modLink p l (fun k => { k with rounds := k.rounds + 1 })) Ix.tfLinkReplays l 1

theorem link_roundCounted (p : Pkg) (l : Nat) : link (roundCounted p l) l = { link p l with rounds := (link p l).rounds + 1 } := by
  rw [roundCounted, link_bump, link_modLink_self]

theorem rd_roundCounted (p : Pkg) {l : Nat} (hl : l < 24) : rd (roundCounted p l) Ix.tfReplayRounds 0 = rd p Ix.tfReplayRounds 0 := by
  rw [roundCounted, rd_bump_ne _ _ (by decide) (by decide) (by omega), rd_modLink]

/-- Below the limit of rounds every unacknowledged flit is sent again (R309). -/
theorem replayRound_repeats {p : Pkg} {l : Nat} (hl : l < 24) (h : (link p l).rounds + 1 < rd p Ix.tfReplayRounds 0) :
    replayRound p l = (link p l).unacked.foldl (fun p u => emitFlit p l u.2) (roundCounted p l) := by
  have hrounds : ¬ rd (roundCounted p l) Ix.tfReplayRounds 0 ≤ (link (roundCounted p l) l).rounds := by
    rw [rd_roundCounted p hl, link_roundCounted]
    exact Nat.not_le.2 h
  have hround : replayRound p l = (link (roundCounted p l) l).unacked.foldl (fun p u => emitFlit p l u.2) (roundCounted p l) := if_neg hrounds
  rw [hround, link_roundCounted]

/-- At the limit the link goes down (R316). -/
theorem replayRound_drops {p : Pkg} {l : Nat} (hl : l < 24) (h : rd p Ix.tfReplayRounds 0 ≤ (link p l).rounds + 1) :
    replayRound p l = takeDown (roundCounted p l) l 1 := by
  have hrounds : rd (roundCounted p l) Ix.tfReplayRounds 0 ≤ (link (roundCounted p l) l).rounds := by
    rw [rd_roundCounted p hl, link_roundCounted]
    exact h
  exact if_pos hrounds

section
variable {s : State} {l : Fin 24} (hp : powered s.pkg = true) (hup : linkState s.pkg l = 2)
include hp hup

/-- A replay round below the limit (R307, R309). -/
theorem replayTimeout_repeats (hunacked : (link s.pkg l).unacked ≠ []) (hrounds : (link s.pkg l).rounds + 1 < rd s.pkg Ix.tfReplayRounds 0) :
    Completes (.replayTimeout l) s (fun q =>
      q.out = s.pkg.out ++ (link s.pkg l).unacked.zipIdx.map (fun u => .flit l u.1.2 (lanesFrom s.pkg l ((link s.pkg l).turn + 8 * u.2)))
      ∧ (link q l).rounds = (link s.pkg l).rounds + 1
      ∧ rd q Ix.tfLinkReplays l = (rd s.pkg Ix.tfLinkReplays l + 1) % 2 ^ 64 ∧ (link q l).unacked = (link s.pkg l).unacked ∧ linkState q l = 2) := by
  have hlit : lanesIn (roundCounted (begun s) l) l 0 = lanesIn s.pkg l 0 :=
    lanesIn_congr (fun n hn => laneState_wr_ne _ _ (by decide) (by omega) (by omega)) 0
  have hlanes : ∀ t, lanesFrom (roundCounted (begun s) l) l t = lanesFrom s.pkg l t := fun t => by rw [lanesFrom, hlit, lanesFrom]
  obtain ⟨hdict, t, ht⟩ := emitFlits_keeps l (link s.pkg l).unacked (roundCounted (begun s) l)
  have hout := emitFlits_out l (link s.pkg l).unacked (roundCounted (begun s) l) (link s.pkg l).turn 0 (by rw [link_roundCounted]; rfl)
  have hround : replayRound (begun s) l = _ := replayRound_repeats (p := begun s) l.isLt hrounds
  rw [link_begun] at hround
  rw [← hround] at hdict ht hout
  rw [link_roundCounted, link_begun] at ht
  simp only [hlanes] at hout
  have hstate : linkState (replayRound (begun s) l) l = 2 :=
    (rd_of_dict hdict _ _).trans ((linkState_wr_ne _ _ (by decide) (by omega) l.isLt).trans hup)
  refine completes_of hp (exec_replayTimeout l s) ?_
  rw [if_pos ⟨hup, hunacked⟩, holesAfter_up hstate]
  exact ⟨hout, by rw [ht], (rd_of_dict hdict _ _).trans (rd_bump_self _ _ _ _), by rw [ht], hstate⟩

/-- The replay round at the limit (R316). -/
theorem replayTimeout_drops (hunacked : (link s.pkg l).unacked ≠ []) (hrounds : rd s.pkg Ix.tfReplayRounds 0 ≤ (link s.pkg l).rounds + 1) :
    Completes (.replayTimeout l) s (fun q => ∃ p,
      rd p Ix.tfLinkReplays l = (rd s.pkg Ix.tfLinkReplays l + 1) % 2 ^ 64 ∧ (link p l).queue = (link s.pkg l).queue ∧ (link p l).sending = (link s.pkg l).sending
      ∧ p.out = s.pkg.out ∧ q = holesAfter (begun s) (takeDown p l 1) l) := by
  refine completes_of hp (exec_replayTimeout l s) ?_
  rw [if_pos ⟨hup, hunacked⟩, replayRound_drops (p := begun s) l.isLt hrounds]
  exact ⟨roundCounted (begun s) l, rd_bump_self _ _ _ _, by rw [link_roundCounted, link_begun], by rw [link_roundCounted, link_begun],
    by rw [roundCounted, bump_out, modLink_out, begun_out], rfl⟩

/-- The idle timer (R309). -/
theorem ackIdleTimer_completes : Completes (.ackIdleTimer l) s (fun q => ∃ f, q.out = s.pkg.out ++ [.flit l f (lanesFrom s.pkg l (link s.pkg l).turn)]
    ∧ f.length = 256 ∧ (link q l).sinceAck = 0
    ∧ bits (leAt f 0 4) 31 28 = 0 ∧ bits (leAt f 0 4) 11 0 = ((link s.pkg l).rxNext + 4095) % 4096
    ∧ q.dict = s.pkg.dict ∧ q.mem = s.pkg.mem ∧ (link q l).unacked = (link s.pkg l).unacked) := by
  refine completes_of hp (exec_ackIdleTimer l s) ?_
  rw [linkState_begun, if_pos hup]
  obtain ⟨hdict, hmem, -, ⟨t, o, hlink⟩, f, hout, hlength, hkind, hack⟩ := sendFlit_idle (begun s) l false rfl
  exact ⟨f, hout, hlength, by rw [hlink], hkind, hack, hdict, hmem, by rw [hlink, link_begun]⟩

end

/-- Settles O38, by the link's state and by the replay rounds so far. That the lanes' turn goes on from flit to flit is a choice of the
model (entry 163 of its log). -/
theorem linkTimersComplete : Obligations.LinkTimersComplete := by
  unfold Obligations.LinkTimersComplete
  refine fun s l hp => ⟨fun hdown => ⟨?_, ?_⟩, fun hnone => ?_, fun hup hunacked hrounds => replayTimeout_repeats hp hup hunacked hrounds,
    fun hup hunacked hrounds => replayTimeout_drops hp hup hunacked hrounds, fun hup => ackIdleTimer_completes hp hup⟩
  · exact completes_of hp (exec_replayTimeout l s) (if_neg fun h => hdown h.1)
  · exact completes_of hp (exec_ackIdleTimer l s) (if_neg hdown)
  · exact completes_of hp (exec_replayTimeout l s) (if_neg fun h => h.2 hnone)

end Sys2Proof.Machine
end

section
/-! What a link's receiver does with a flit (O37). -/

namespace Sys2Proof.Machine

/-- What the words of a flit spell (R308): its kind, virtual channel, sequence, acknowledgement and NAK, the channel and number of the
credits that it grants, where its first packet begins, and its payload. -/
def flitKind (f : Bytes) : Nat := bits (leAt f 0 4) 31 28
def flitChannel (f : Bytes) : Nat := bits (leAt f 0 4) 27 24
def flitSeq (f : Bytes) : Nat := bits (leAt f 0 4) 23 12
def flitAck (f : Bytes) : Nat := bits (leAt f 0 4) 11 0
def flitNak (f : Bytes) : Bool := bit (leAt f 4 4) 31
def flitCredits (f : Bytes) : Nat := bits (leAt f 4 4) 26 19
def flitCreditChannel (f : Bytes) : Nat := bits (leAt f 4 4) 30 27
def flitFirst (f : Bytes) : Nat := bits (leAt f 4 4) 3 0

/-- Whether a flit is damaged (R309). -/
def damaged (f : Bytes) : Prop := f.length ≠ 256 ∨ (crc32 (f.take 252)).toNat ≠ leAt f 252 4

/-- Credits that a link's sender would have with those of a flit (R310). -/
def creditSum (k : Link) (f : Bytes) : Nat := tget k.credits (flitCreditChannel f) 64 + flitCredits f

/-- Whether the fields of a flit are valid where it finds the link (R310, R311). -/
def fieldsValid (k : Link) (f : Bytes) : Prop := flitKind f ≤ 2 ∧ bits (leAt f 4 4) 18 4 = 0 ∧ leAt f 8 4 = 0 ∧ creditSum k f ≤ 64

theorem not_fieldsValid {k : Link} {f : Bytes} :
    ¬ fieldsValid k f ↔ 2 < flitKind f ∨ bits (leAt f 4 4) 18 4 ≠ 0 ∨ leAt f 8 4 ≠ 0 ∨ 64 < creditSum k f := by
  rw [fieldsValid, not_and_or, not_and_or, not_and_or, Nat.not_le, Nat.not_le]

/-- Whether a flit's sequence lies behind the one expected (R309). -/
def isBehind (k : Link) (f : Bytes) : Prop :=
  (flitKind f = 1 ∨ flitKind f = 2) ∧ flitSeq f ≠ k.rxNext ∧ seqBehind (flitSeq f) k.rxNext = true

/-- The packets that a flit's payload completes on its channel, and what is then under way (R308, R311). -/
def flitCut (p : Pkg) (k : Link) (f : Bytes) : Option (List Bytes × Bytes) :=
  assemble p (tget k.assembly (flitChannel f) []) (flitFirst f) (slice f 12 240)

/-- The package when the sequence of a flit has been noted (R309). -/
def noted (p : Pkg) (l : Nat) (f : Bytes) : Pkg := if flitKind f = 1 ∨ flitKind f = 2 then noteRound p l (flitSeq f) else p

section
variable (p : Pkg) (l : Nat) (f : Bytes)

theorem noted_dict : (noted p l f).dict = p.dict := by unfold noted; split <;> rfl
theorem noted_out : (noted p l f).out = p.out := by unfold noted; split <;> rfl
theorem noted_mem : (noted p l f).mem = p.mem := by unfold noted; split <;> rfl
theorem noted_parts : (noted p l f).parts = p.parts := by unfold noted; split <;> rfl
theorem noted_now : (noted p l f).now = p.now := by unfold noted; split <;> rfl

theorem link_noted : ∃ r n, link (noted p l f) l = { link p l with rxLast := r, nakSent := n } := by
  unfold noted
  split
  · exact ⟨_, _, link_modLink_self _ _ _⟩
  · exact ⟨_, _, rfl⟩

theorem linkState_noted (l' : Nat) : linkState (noted p l f) l' = linkState p l' := rd_of_dict (noted_dict p l f) _ _

end

/-- Headers are judged by the torus sizes alone (R321). -/
theorem headerOk_congr {p q : Pkg} (h : q.dict = p.dict) (b : Bytes) : headerOk q b = headerOk p b := by
  have htorus : torus q = torus p := by rw [torus, rd_of_dict h, torus]
  unfold headerOk inTorus ringSize
  rw [htorus]

theorem cutPackets_congr {p q : Pkg} (h : q.dict = p.dict) (n : Nat) (under rest : Bytes) : cutPackets q n under rest = cutPackets p n under rest := by
  induction n generalizing under rest with
  | zero => rfl
  | succ n ih => simp only [cutPackets, headerOk_congr h, ih]

theorem assemble_congr {p q : Pkg} (h : q.dict = p.dict) (under : Bytes) (first : Nat) (payload : Bytes) :
    assemble q under first payload = assemble p under first payload := by simp only [assemble, cutPackets_congr h]

section
variable {p : Pkg} {l : Nat} {f : Bytes}

/-- The credits that a flit grants are put, the acknowledgement frees the replay buffer (R309, R310). -/
def granting (p : Pkg) (l : Nat) (f : Bytes) : Pkg :=
  modLink p l (fun k => { k with credits := if flitCredits f = 0 then k.credits else tput k.credits (flitCreditChannel f) (creditSum k f) })

/-- A flit of the expected sequence is taken (R309, R310): the next is expected, the buffer of a DATA flit is owed or kept, and its channel
holds what is under way. -/
def sequenceTaken (p : Pkg) (l : Nat) (f : Bytes) (under : Bytes) : Pkg :=
  modLink p l (fun k => { k with
    rxNext := (k.rxNext + 1) % 4096, nakSent := false, sinceAck := k.sinceAck + 1,
    owed := if flitKind f = 1 ∧ flitChannel f / 4 ≠ 2 then tput k.owed (flitChannel f) (tget k.owed (flitChannel f) 0 + 1) else k.owed,
    kept := if flitKind f = 1 ∧ flitChannel f / 4 = 2 then tput k.kept (flitChannel f) (tget k.kept (flitChannel f) 0 + 1) else k.kept,
    assembly := if flitKind f = 1 then tput k.assembly (flitChannel f) under else k.assembly })

/-- An IDLE flit acknowledges after 64 flits without one (R309). -/
def ackDue (p : Pkg) (l : Nat) : Pkg := if 64 ≤ (link p l).sinceAck then sendFlit p l 0 0 0 false 15 [] else p

/-- A flit with valid fields and no unexpected sequence, by what its payload has been cut into (R309 to R311). -/
def flitTaken (p : Pkg) (l : Nat) (f : Bytes) : Option (List Bytes × Bytes) → Pkg × List Packet
  | none => (malformedFlit p l f, [])
  | some (packets, under) =>
    let p := ackLink (granting p l f) l (flitAck f)
    let p := if flitNak f && !(link p l).unacked.isEmpty then replayRound p l else p
    if flitKind f = 0 ∨ linkState p l ≠ 2 then (p, []) else (ackDue (sequenceTaken p l f under) l, packets.map packetOfBytes)

theorem receiveFlit_down (hdown : linkState p l ≠ 2) : receiveFlit p l f = (p, []) := if_pos hdown

section
variable (hup : linkState p l = 2)
include hup

theorem receiveFlit_damaged (hdamaged : damaged f) : receiveFlit p l f = (nakOnce (bump p Ix.tfLinkCrcErrors l 1) l, []) :=
  (if_neg (not_not.2 hup)).trans (if_pos hdamaged)

variable (hwhole : ¬ damaged f)
include hwhole

theorem receiveFlit_behind (hbehind : isBehind (link (noted p l f) l) f) : receiveFlit p l f = (noted p l f, []) :=
  (if_neg (not_not.2 hup)).trans ((if_neg hwhole).trans (if_pos hbehind))

variable (hahead : ¬ isBehind (link (noted p l f) l) f)
include hahead

theorem receiveFlit_invalid (hinvalid : ¬ fieldsValid (link (noted p l f) l) f) : receiveFlit p l f = (malformedFlit (noted p l f) l f, []) :=
  (if_neg (not_not.2 hup)).trans ((if_neg hwhole).trans ((if_neg hahead).trans (if_pos (not_fieldsValid.1 hinvalid))))

variable (hvalid : fieldsValid (link (noted p l f) l) f)
include hvalid

theorem receiveFlit_ahead (hkind : flitKind f ≠ 0) (hseq : flitSeq f ≠ (link (noted p l f) l).rxNext) :
    receiveFlit p l f = (nakLink (noted p l f) l, []) :=
  (if_neg (not_not.2 hup)).trans ((if_neg hwhole).trans ((if_neg hahead).trans
    ((if_neg fun h => not_fieldsValid.2 h hvalid).trans (if_pos ⟨hkind, hseq⟩))))

variable (hexpected : ¬ (flitKind f ≠ 0 ∧ flitSeq f ≠ (link (noted p l f) l).rxNext))
include hexpected

theorem receiveFlit_taken : receiveFlit p l f
    = flitTaken (noted p l f) l f (if flitKind f = 1 then flitCut (noted p l f) (link (noted p l f) l) f else some ([], [])) :=
  (if_neg (not_not.2 hup)).trans ((if_neg hwhole).trans ((if_neg hahead).trans
    ((if_neg fun h => not_fieldsValid.2 h hvalid).trans ((if_neg hexpected).trans (by rfl)))))

end

/-- An IDLE flit only acknowledges, grants and asks for a replay (R309). -/
theorem flitTaken_idle (hkind : flitKind f = 0) {r : Pkg} (hr : r = ackLink (granting p l f) l (flitAck f)) :
    flitTaken p l f (some ([], [])) = (if flitNak f = true ∧ (link r l).unacked ≠ [] then replayRound r l else r, []) := by
  subst hr
  have hasks : (flitNak f && !(link (ackLink (granting p l f) l (flitAck f)) l).unacked.isEmpty) = true
      ↔ flitNak f = true ∧ (link (ackLink (granting p l f) l (flitAck f)) l).unacked ≠ [] := by simp
  unfold flitTaken
  simp only [hasks]
  exact if_pos (.inl hkind)

/-- A DATA flit that asks for no replay is taken (R309, R310). -/
theorem flitTaken_data (hkind : flitKind f = 1) (hnak : flitNak f = false) {packets : List Bytes} {under : Bytes} {r : Pkg}
    (hr : r = ackLink (granting p l f) l (flitAck f)) (hstays : linkState r l = 2) :
    flitTaken p l f (some (packets, under)) = (ackDue (sequenceTaken r l f under) l, packets.map packetOfBytes) := by
  subst hr
  unfold flitTaken
  dsimp only
  rw [hnak, Bool.false_and, if_neg Bool.false_ne_true, if_neg]
  rintro (h | h)
  · omega
  · exact h hstays

end

/-- A violation entry leaves the links. -/
theorem link_logViolation (p : Pkg) (kind port partner status step : Nat) (header : Bytes) (l : Nat) :
    link (logViolation p kind port partner status step header) l = link p l := by
  have hraise : ∀ q : Pkg, link (raiseAs (touch (bump q Ix.msViolationHead 0 1) Ix.msViolationLog 0) Ix.msLastStatus 0 0x0E10 0xFF 0xFFFFFFFF 0) l
      = link q l := fun q => (raiseAs_keeps _ _ _ _ _ _ _).link l
  unfold logViolation
  dsimp only
  split
  · split
    · rfl
    · exact hraise _
  · exact hraise _

/-- A malformed flit is noted on its link with those of the window (R311). -/
def violationKept (p : Pkg) (l : Nat) : Pkg :=
  modLink p l (fun k => { k with
    violations := k.violations.filter (fun t => decide (p.now - 1000 * rd p Ix.tfViolationWindowUs 0 ≤ t)) ++ [p.now] })

/-- The package when a malformed flit has been answered by NAK, counted and logged (R311, R357). -/
def violationLogged (p : Pkg) (l : Nat) (f : Bytes) : Pkg :=
  logViolation (bump (nakLink (violationKept p l) l) Ix.tfLinkViolations l 1) 1 l
    (((link (violationKept p l) l).partner.map (fun c => idOf c.x c.y c.z)).getD 0xFFFF) 0x0D04 0 (f.take 12)

theorem malformedFlit_eq (p : Pkg) (l : Nat) (f : Bytes) : malformedFlit p l f
    = if rd (violationLogged p l f) Ix.tfViolationThreshold 0 < (link (violationLogged p l f) l).violations.length then
        quarantine (violationLogged p l f) l else violationLogged p l f := rfl

section
variable (p : Pkg) {l : Nat} (f : Bytes)

/-- Asking for a replay (R309): NAK stands in an IDLE flit, and nothing else of the link changes but what is owed. -/
theorem nakLink_shows (p : Pkg) (l : Nat) : (nakLink p l).dict = p.dict ∧ (nakLink p l).mem = p.mem ∧ (nakLink p l).parts = p.parts
    ∧ (∃ t o, link (nakLink p l) l = { link p l with nakSent := true, turn := t, owed := o, sinceAck := 0 })
    ∧ ∃ g, (nakLink p l).out = p.out ++ [.flit l g (unitLanes p l)] ∧ bits (leAt g 0 4) 31 28 = 0 := by
  obtain ⟨hdict, hmem, hparts, ⟨t, o, hlink⟩, g, hout, -, hkind, -⟩ := sendFlit_idle (modLink p l (fun k => { k with nakSent := true })) l true
    (q := nakLink p l) rfl
  rw [link_modLink_self] at hlink
  rw [unitLanes_modLink p l (by rfl)] at hout
  exact ⟨hdict, hmem, hparts, ⟨t, o, hlink⟩, g, hout, hkind⟩

theorem rd_violationLogged {e : Entry} {sub : Nat} (hs : sub < 256) (he : e.index < 0x5800) :
    rd (violationLogged p l f) e sub = rd (bump (nakLink (violationKept p l) l) Ix.tfLinkViolations l 1) e sub :=
  logViolation_rdAt _ _ _ _ _ _ _ _ _ _ (commsKey_low (by omega) hs) (by simp only [keyAt, Ix.msViolationHead]; omega)
    (by simp only [keyAt, Ix.msLastStatus]; omega)

theorem rd_violationLogged_of_ne {e : Entry} {sub : Nat} (hs : sub < 256) (hl : l < 24) (he : e.index < 0x5800)
    (hne : e.index ≠ Ix.tfLinkViolations.index) : rd (violationLogged p l f) e sub = rd p e sub := by
  rw [rd_violationLogged p f hs he, rd_bump_ne _ _ hne hs (by omega), rd_of_dict (nakLink_shows _ _).1]
  rfl

/-- What a malformed flit shows before the violations of its link are counted (R311). -/
theorem violationLogged_shows (hl : l < 24) :
    rd (violationLogged p l f) Ix.tfLinkViolations l = (rd p Ix.tfLinkViolations l + 1) % 2 ^ 32
    ∧ (∃ t o, link (violationLogged p l f) l
        = { link (violationKept p l) l with nakSent := true, turn := t, owed := o, sinceAck := 0 })
    ∧ linkState (violationLogged p l f) l = linkState p l
    ∧ (violationLogged p l f).mem = p.mem ∧ (violationLogged p l f).parts = p.parts := by
  obtain ⟨hdict, hmem, hparts, hlink, -⟩ := nakLink_shows (violationKept p l) l
  refine ⟨?_, ?_, rd_violationLogged_of_ne p f (by omega) hl (by decide) (by decide), ?_, ?_⟩
  · rw [rd_violationLogged p f (by omega) (by decide), rd_bump_self, rd_of_dict hdict]
    rfl
  · rw [violationLogged, link_logViolation, link_bump]
    exact hlink
  · rw [violationLogged, logViolation_mem, bump_mem, hmem]
    rfl
  · rw [violationLogged, logViolation_parts, bump_parts, hparts]
    rfl

/-- A malformed flit is counted on its link, and past the threshold the link is quarantined (R311). -/
theorem malformedFlit_counts (hl : l < 24) : malformedFlit p l f
    = if rd p Ix.tfViolationThreshold 0 < ((link p l).violations.filter (fun t => decide (p.now - 1000 * rd p Ix.tfViolationWindowUs 0 ≤ t))).length + 1 then
        quarantine (violationLogged p l f) l else violationLogged p l f := by
  obtain ⟨-, ⟨t, o, hlink⟩, -⟩ := violationLogged_shows p f hl
  rw [malformedFlit_eq, rd_violationLogged_of_ne p f (by decide) hl (by decide) (by decide), hlink, violationKept, link_modLink_self]
  dsimp only
  rw [List.length_append, List.length_singleton]

end

section
variable {p : Pkg} {l : Nat} {f : Bytes}

theorem isBehind_noted : isBehind (link (noted p l f) l) f ↔ isBehind (link p l) f := by
  obtain ⟨r, n, h⟩ := link_noted p l f
  rw [h]
  rfl

theorem fieldsValid_noted : fieldsValid (link (noted p l f) l) f ↔ fieldsValid (link p l) f := by
  obtain ⟨r, n, h⟩ := link_noted p l f
  rw [h]
  rfl

theorem rxNext_noted : (link (noted p l f) l).rxNext = (link p l).rxNext := by
  obtain ⟨r, n, h⟩ := link_noted p l f
  rw [h]

theorem flitCut_noted : flitCut (noted p l f) (link (noted p l f) l) f = flitCut p (link p l) f := by
  obtain ⟨r, n, h⟩ := link_noted p l f
  rw [h]
  exact assemble_congr (noted_dict p l f) _ _ _

/-- A flit that leaves its link up makes no new hole; the packets that it completes arrive (R309, R324). -/
theorem takeFlit_up {q : Pkg} {ks : List Packet} (h : receiveFlit p l f = (q, ks)) (hup : linkState q l = 2) :
    takeFlit p l f = ks.foldl (fun p k => packetArrives p (some l) k) q := by rw [takeFlit, h, holesAfter_up hup]

theorem takeFlit_no_packets {q : Pkg} (h : receiveFlit p l f = (q, [])) : takeFlit p l f = holesAfter p q l := by rw [takeFlit, h, List.foldl_nil]

theorem ackDue_sendFrame (p : Pkg) (l : Nat) : SendFrame l p (ackDue p l) := by
  unfold ackDue
  split
  · exact sendFlit_sendFrame _ _ _ _ _ _ _ _
  · exact .rfl

end

section
variable {s : State} {l : Fin 24} {f : Bytes} (hp : powered s.pkg = true) (hup : linkState s.pkg l = 2)
include hp hup

/-- A damaged flit (R309). -/
theorem flitReceive_damaged (hdamaged : damaged f) : Completes (.flitReceive l f) s (fun q =>
    rd q Ix.tfLinkCrcErrors l = (rd s.pkg Ix.tfLinkCrcErrors l + 1) % 2 ^ 64 ∧ (link q l).nakSent = true ∧ (link q l).rxNext = (link s.pkg l).rxNext
    ∧ q.mem = s.pkg.mem ∧ q.parts = s.pkg.parts ∧ ((link s.pkg l).nakSent = true → q.out = s.pkg.out ∧ q.tf = s.pkg.tf)) := by
  have hstate : linkState (bump (begun s) Ix.tfLinkCrcErrors l 1) l = 2 := (linkState_wr_ne _ _ (by decide) (by omega) l.isLt).trans hup
  have hcount : rd (bump (begun s) Ix.tfLinkCrcErrors l 1) Ix.tfLinkCrcErrors l = (rd s.pkg Ix.tfLinkCrcErrors l + 1) % 2 ^ 64 := rd_bump_self _ _ _ _
  have hreceive := receiveFlit_damaged (p := begun s) hup hdamaged
  refine completes_of hp (exec_flitReceive l f s) ?_
  by_cases hsent : (link s.pkg l).nakSent = true
  · rw [nakOnce, link_bump, link_begun, if_pos hsent] at hreceive
    rw [takeFlit_up hreceive hstate]
    exact ⟨hcount, hsent, rfl, rfl, rfl, fun _ => ⟨rfl, rfl⟩⟩
  · rw [nakOnce, link_bump, link_begun, if_neg hsent] at hreceive
    obtain ⟨hdict, hmem, hparts, ⟨t, o, hlink⟩, -⟩ := nakLink_shows (bump (begun s) Ix.tfLinkCrcErrors l 1) l
    rw [takeFlit_up hreceive ((rd_of_dict hdict _ _).trans hstate), List.foldl_nil]
    exact ⟨(rd_of_dict hdict _ _).trans hcount, by rw [hlink], by rw [hlink, link_bump, link_begun], hmem, hparts, fun h => absurd h hsent⟩

variable (hwhole : ¬ damaged f)
include hwhole

/-- A flit of a sequence behind (R309). -/
theorem flitReceive_behind (hbehind : isBehind (link s.pkg l) f) : Completes (.flitReceive l f) s (fun q =>
    q.dict = s.pkg.dict ∧ q.out = s.pkg.out ∧ q.mem = s.pkg.mem ∧ q.parts = s.pkg.parts
    ∧ (link q l).rxNext = (link s.pkg l).rxNext ∧ (link q l).unacked = (link s.pkg l).unacked ∧ (link q l).assembly = (link s.pkg l).assembly) := by
  refine completes_of hp (exec_flitReceive l f s) ?_
  rw [takeFlit_up (receiveFlit_behind (p := begun s) hup hwhole (isBehind_noted.2 hbehind)) ((linkState_noted _ _ _ _).trans hup), List.foldl_nil]
  obtain ⟨r, n, h⟩ := link_noted (begun s) l f
  refine ⟨noted_dict _ _ _, noted_out _ _ _, noted_mem _ _ _, noted_parts _ _ _, ?_, ?_, ?_⟩ <;> rw [h, link_begun]

omit hwhole in
/-- A malformed flit (R311). -/
theorem flitReceive_malformed (hreceive : receiveFlit (begun s) l f = (malformedFlit (noted (begun s) l f) l f, [])) :
    Completes (.flitReceive l f) s (fun q => ∃ p, rd p Ix.tfLinkViolations l = (rd s.pkg Ix.tfLinkViolations l + 1) % 2 ^ 32
      ∧ (link p l).nakSent = true ∧ (link p l).rxNext = (link s.pkg l).rxNext ∧ linkState p l = 2 ∧ p.mem = s.pkg.mem ∧ p.parts = s.pkg.parts
      ∧ q = if rd s.pkg Ix.tfViolationThreshold 0
          < ((link s.pkg l).violations.filter (fun t => decide (s.clock.ns - 1000 * rd s.pkg Ix.tfViolationWindowUs 0 ≤ t))).length + 1 then
          holesAfter (begun s) (quarantine p l) l else p) := by
  obtain ⟨r, n, hnoted⟩ := link_noted (begun s) l f
  have hrd : ∀ e sub, rd (noted (begun s) l f) e sub = rd s.pkg e sub := rd_of_dict (noted_dict _ _ _)
  have hcounts := malformedFlit_counts (noted (begun s) l f) f l.isLt
  rw [hrd, hrd, hnoted, noted_now, link_begun, begun_now] at hcounts
  obtain ⟨hcount, ⟨t, o, hlink⟩, hstate, hmem, hparts⟩ := violationLogged_shows (noted (begun s) l f) f l.isLt
  have hup' : linkState (violationLogged (noted (begun s) l f) l f) l = 2 := hstate.trans ((linkState_noted _ _ _ _).trans hup)
  rw [violationKept, link_modLink_self, hnoted] at hlink
  refine completes_of hp (exec_flitReceive l f s) ?_
  rw [takeFlit_no_packets hreceive, hcounts]
  refine ⟨violationLogged (noted (begun s) l f) l f, by rw [hcount, hrd], by rw [hlink], by rw [hlink, link_begun], hup', ?_, ?_, ?_⟩
  · rw [hmem, noted_mem, begun_mem]
  · rw [hparts, noted_parts, begun_parts]
  · split
    · rfl
    · exact holesAfter_up hup'

variable (hahead : ¬ isBehind (link s.pkg l) f)
include hahead

omit hp in
theorem flitReceive_invalid (hinvalid : ¬ fieldsValid (link s.pkg l) f) :
    receiveFlit (begun s) l f = (malformedFlit (noted (begun s) l f) l f, []) :=
  receiveFlit_invalid (p := begun s) hup hwhole (mt isBehind_noted.1 hahead) (mt fieldsValid_noted.1 hinvalid)

omit hp in
theorem flitReceive_uncut (hvalid : fieldsValid (link s.pkg l) f) (hkind : flitKind f = 1) (hseq : flitSeq f = (link s.pkg l).rxNext)
    (hcut : flitCut (begun s) (link s.pkg l) f = none) : receiveFlit (begun s) l f = (malformedFlit (noted (begun s) l f) l f, []) := by
  rw [receiveFlit_taken (p := begun s) hup hwhole (mt isBehind_noted.1 hahead) (fieldsValid_noted.2 hvalid)
    (fun h => h.2 (by rw [rxNext_noted]; exact hseq)), if_pos hkind, flitCut_noted, link_begun, hcut]
  rfl

/-- A flit of a sequence ahead (R309, R311). -/
theorem flitReceive_ahead (hvalid : fieldsValid (link s.pkg l) f) (hkind : flitKind f ≠ 0) (hseq : flitSeq f ≠ (link s.pkg l).rxNext) :
    Completes (.flitReceive l f) s (fun q => q.dict = s.pkg.dict ∧ q.mem = s.pkg.mem ∧ q.parts = s.pkg.parts
      ∧ (link q l).nakSent = true ∧ (link q l).rxNext = (link s.pkg l).rxNext
      ∧ ∃ g, q.out = s.pkg.out ++ [.flit l g (unitLanes s.pkg l)] ∧ bits (leAt g 0 4) 31 28 = 0) := by
  have hreceive := receiveFlit_ahead (p := begun s) hup hwhole (mt isBehind_noted.1 hahead) (fieldsValid_noted.2 hvalid) hkind
    (by rw [rxNext_noted]; exact hseq)
  obtain ⟨r, n, hnoted⟩ := link_noted (begun s) l f
  obtain ⟨hdict, hmem, hparts, ⟨t, o, hlink⟩, g, hout, hidle⟩ := nakLink_shows (noted (begun s) l f) l
  rw [noted_dict] at hdict
  have hlanes : unitLanes (noted (begun s) l f) l = unitLanes s.pkg l :=
    unitLanes_congr (by rw [hnoted, link_begun]) (lanesIn_congr (fun n _ => by rw [laneState, rdAt, noted_dict]; rfl) 0)
  refine completes_of hp (exec_flitReceive l f s) ?_
  rw [takeFlit_up hreceive ((rd_of_dict hdict _ _).trans hup), List.foldl_nil, hlink, hnoted]
  refine ⟨hdict, hmem.trans (noted_mem _ _ _), hparts.trans (noted_parts _ _ _), rfl, rfl, g, ?_, hidle⟩
  rw [hout, noted_out, hlanes, begun_out]

end

section
variable {s : State} {l : Fin 24} {f : Bytes} (hp : powered s.pkg = true) (hup : linkState s.pkg l = 2) (hwhole : ¬ damaged f)
  (hvalid : fieldsValid (link s.pkg l) f)
include hp hup hwhole hvalid

/-- An IDLE flit (R309, R310). -/
theorem flitReceive_idle (hkind : flitKind f = 0) : Completes (.flitReceive l f) s (fun q => ∃ p r,
    (link p l).credits = (if flitCredits f = 0 then (link s.pkg l).credits else tput (link s.pkg l).credits (flitCreditChannel f) (creditSum (link s.pkg l) f))
    ∧ (link p l).rxNext = (link s.pkg l).rxNext ∧ (link p l).unacked = (link s.pkg l).unacked ∧ p.dict = s.pkg.dict
    ∧ r = ackLink p l (flitAck f)
    ∧ q = if flitNak f = true ∧ (link r l).unacked ≠ [] then holesAfter (begun s) (replayRound r l) l else r) := by
  have hnoted : noted (begun s) l f = begun s := if_neg (by omega)
  have hreceive := receiveFlit_taken (p := begun s) hup hwhole (fun h => by have := h.1; omega) (fieldsValid_noted.2 hvalid) (fun h => h.1 hkind)
  rw [if_neg (by omega), hnoted, flitTaken_idle hkind rfl] at hreceive
  have hgranted : link (granting (begun s) l f) l = _ := link_modLink_self _ _ _
  have hstays : linkState (ackLink (granting (begun s) l f) l (flitAck f)) l = 2 := ((ackLink_sendFrame _ _ _).linkState l.isLt l.isLt).trans hup
  refine completes_of hp (exec_flitReceive l f s) ?_
  rw [takeFlit_no_packets hreceive]
  refine ⟨granting (begun s) l f, ackLink (granting (begun s) l f) l (flitAck f), by rw [hgranted, link_begun], by rw [hgranted, link_begun],
    by rw [hgranted, link_begun], rfl, rfl, ?_⟩
  split
  · rfl
  · exact holesAfter_up hstays

/-- A DATA flit of the sequence expected that asks for no replay (R308 to R310). -/
theorem flitReceive_data {packets : List Bytes} {under : Bytes} (hkind : flitKind f = 1) (hnak : flitNak f = false)
    (hseq : flitSeq f = (link s.pkg l).rxNext) (hcut : flitCut (begun s) (link s.pkg l) f = some (packets, under)) :
    Completes (.flitReceive l f) s (fun q => ∃ p, (link p l).rxNext = ((link s.pkg l).rxNext + 1) % 4096
      ∧ tget (link p l).assembly (flitChannel f) [] = under ∧ p.mem = s.pkg.mem ∧ p.parts = s.pkg.parts
      ∧ q = (packets.map packetOfBytes).foldl (fun p k => packetArrives p (some l) k) p) := by
  have hexpected : flitSeq f = (link (noted (begun s) l f) l).rxNext := by
    rw [rxNext_noted]
    exact hseq
  have hreceive := receiveFlit_taken (p := begun s) hup hwhole (fun h => h.2.1 hexpected) (fieldsValid_noted.2 hvalid) (fun h => h.2 hexpected)
  rw [if_pos hkind, flitCut_noted, link_begun, hcut] at hreceive
  obtain ⟨x, n, hnoted⟩ := link_noted (begun s) l f
  generalize hr : ackLink (granting (noted (begun s) l f) l f) l (flitAck f) = r at hreceive
  have hack : SendFrame l (noted (begun s) l f) r := hr ▸ (modLink_sendFrame _ _ fun _ => by rfl).trans (ackLink_sendFrame _ _ _)
  have hstays : linkState r l = 2 := (hack.linkState l.isLt l.isLt).trans ((linkState_noted _ _ _ _).trans hup)
  have hnext : (link r l).rxNext = (link s.pkg l).rxNext := by rw [hack.link_eq Link.rxNext (fun _ => rfl), hnoted, link_begun]
  have hdue : SendFrame l (sequenceTaken r l f under) (ackDue (sequenceTaken r l f under) l) := ackDue_sendFrame _ _
  have htaken : link (sequenceTaken r l f under) l = _ := link_modLink_self _ _ _
  rw [flitTaken_data hkind hnak hr.symm hstays] at hreceive
  refine completes_of hp (exec_flitReceive l f s) ?_
  rw [takeFlit_up hreceive ((hdue.linkState l.isLt l.isLt).trans hstays)]
  refine ⟨ackDue (sequenceTaken r l f under) l, ?_, ?_, ?_, ?_, rfl⟩
  · rw [hdue.link_eq Link.rxNext (fun _ => rfl), htaken, hnext]
  · rw [hdue.link_eq Link.assembly (fun _ => rfl), htaken, if_pos hkind, tget_tput_self]
  · rw [hdue.mem, sequenceTaken, modLink_mem, hack.mem, noted_mem, begun_mem]
  · rw [hdue.parts, sequenceTaken, modLink_parts, hack.parts, noted_parts, begun_parts]

end

/-- Settles O37, by the flit's CRC, sequence, fields and kind. The 64 flits of a receive buffer are a value that the model presumes (entry 54
of its log). -/
theorem flitsReceived : Obligations.FlitsReceived := by
  unfold Obligations.FlitsReceived
  refine fun s l f hp => ⟨fun hdown => ?down, fun hup hdamaged => flitReceive_damaged hp hup hdamaged, fun hup hlength hcrc => ?_⟩
  case down =>
    refine completes_of hp (exec_flitReceive l f s) ?_
    rw [takeFlit_no_packets (receiveFlit_down (p := begun s) hdown)]
    exact if_neg fun h => hdown h.1
  have hwhole : ¬ damaged f := not_or.2 ⟨not_not.2 hlength, not_not.2 hcrc⟩
  intro kind seq expected channel sum fields behind
  have hfields : fields ↔ fieldsValid (link s.pkg l) f := Iff.rfl
  have hbehind : behind ↔ isBehind (link s.pkg l) f := Iff.rfl
  rw [hfields, hbehind]
  refine ⟨fun h => flitReceive_behind hp hup hwhole h, fun hahead h => flitReceive_malformed hp hup ?malformed,
    fun hahead hvalid hkind hseq => flitReceive_ahead hp hup hwhole hahead hvalid hkind hseq, fun hvalid hkind => flitReceive_idle hp hup hwhole hvalid hkind,
    fun packets under hvalid hkind hnak hseq hcut => flitReceive_data hp hup hwhole hvalid hkind hnak hseq hcut⟩
  case malformed =>
    by_cases hvalid : fieldsValid (link s.pkg l) f
    · obtain ⟨hkind, hseq, hcut⟩ := h.resolve_left (not_not.2 hvalid)
      exact flitReceive_uncut hup hwhole hahead hvalid hkind hseq hcut
    · exact flitReceive_invalid hup hwhole hahead hvalid

end Sys2Proof.Machine
end

section
/-! Refuting O41: a package whose parking of the links counts a flit in the entry of a lane, and what the end of a command leaves of it. -/

namespace Sys2Proof.Machine

/-- Entries of which each part of what ends a command writes one whenever it goes beyond sending: commits and abandoned moves, losses, the profile
asked for, and the status of a partition that halts. -/
def endMarks : List Nat :=
  [keyAt Ix.tmMovesCommitted 0 0, keyAt Ix.tmMovesAbandoned 0 0, keyAt Ix.tmLossHead 0 0, keyAt Ix.tfProfileActive 0 0]
    ++ (List.range 12).map (keyAt Ix.pcLastStatus 0)

/-- A package with lane 0 of link 0 retraining that shows no trace of what ends a command: the last thing sent is the capability record of link 1,
which is in state 0, no transaction has completed and a READ still waits, no region is fenced, and no entry of `endMarks` was ever written. -/
structure Unmarked (p : Pkg) : Prop where
  lane : laneState p 0 0 = 2
  linkParked : linkState p 1 = 0
  lastOut : ∃ c, p.out.getLast? = some (.capability 1 c)
  noneDone : p.ms.failed = []
  unsent : ∃ t ∈ p.ms.txns, t.type = 0 ∧ t.flag = false ∧ t.sent = false
  unfenced : p.tp.fenced = []
  unwritten : ∀ k ∈ endMarks, tfind p.dict.vals k = none

/-- An entry has been written. -/
def Written (p : Pkg) (k : Nat) : Prop := tfind p.dict.vals k ≠ none

section
variable {p q : Pkg}

theorem Unmarked.of_fields (h : Unmarked q) (hdict : q.dict = p.dict) (hout : q.out = p.out) (hms : q.ms = p.ms) (htp : q.tp = p.tp) : Unmarked p where
  lane := by rw [← h.lane, laneState, laneState, rdAt, rdAt, hdict]
  linkParked := by rw [← h.linkParked, linkState, linkState, rd_of_dict hdict]
  lastOut := hout ▸ h.lastOut
  noneDone := hms ▸ h.noneDone
  unsent := hms ▸ h.unsent
  unfenced := htp ▸ h.unfenced
  unwritten := hdict ▸ h.unwritten

theorem Unmarked.of_ite {a b : Pkg} {c : Prop} [Decidable c] (h : Unmarked (if c then a else b)) (ha : Unmarked a → Unmarked p)
    (hb : Unmarked b → Unmarked p) : Unmarked p := by
  split at h
  · exact ha h
  · exact hb h

theorem Written.not_unmarked {k : Nat} (h : Written p k) (hk : k ∈ endMarks) : ¬ Unmarked p := fun hp => h (hp.unwritten k hk)

theorem written_wr_self (p : Pkg) (e : Entry) (sub v : Nat) : Written (wr p e sub v) (keyAt e 0 sub) := by
  rw [Written, wr, wrAt, tfind_tput_self]
  exact Option.some_ne_none _

theorem Written.wr {k : Nat} (h : Written p k) (e : Entry) (sub v : Nat) : Written (wr p e sub v) k := by
  by_cases hk : k = keyAt e 0 sub
  · exact hk ▸ written_wr_self p e sub v
  · rwa [Written, Machine.wr, wrAt, tfind_tput_ne _ _ hk]

theorem Written.keeps {k : Nat} (h : Written p k) (hq : KeepsState p q) (hk : commsKey k = false) : Written q k := by rwa [Written, hq.vals k hk]

theorem Unmarked.of_wr {e : Entry} {sub v : Nat} (h : Unmarked (wr p e sub v)) (hlane : keyAt Ix.tfLaneState 0 0 ≠ keyAt e 0 sub)
    (hlink : keyAt Ix.tfLinkState 0 1 ≠ keyAt e 0 sub) : Unmarked p where
  lane := (rdAt_wrAt_ne p v hlane).symm.trans h.lane
  linkParked := (rdAt_wrAt_ne p v hlink).symm.trans h.linkParked
  lastOut := h.lastOut
  noneDone := h.noneDone
  unsent := h.unsent
  unfenced := h.unfenced
  unwritten _ hk := Classical.byContradiction fun hw => (Written.wr hw e sub v).not_unmarked hk h

/-- Steps none of which leaves an unmarked package but of an unmarked one leave none together. -/
theorem unmarked_of_foldl {α : Type} {f : Pkg → α → Pkg} {l : List α} (hf : ∀ p, ∀ a ∈ l, Unmarked (f p a) → Unmarked p) {p : Pkg}
    (h : Unmarked (l.foldl f p)) : Unmarked p := by
  induction l generalizing p with
  | nil => exact h
  | cons a l ih => exact hf p a List.mem_cons_self (ih (fun q b hb => hf q b (List.mem_cons_of_mem _ hb)) h)

/-! What sends transactions sends the READ that waits. -/

theorem mayGo_read (before : List Txn) {t : Txn} (htype : t.type = 0) (hflag : t.flag = false) : mayGo before t = true := by simp [mayGo, htype, hflag]

/-- No READ without a flag waits behind the pump. -/
theorem pumpOne_sends {a : Pkg × List Txn} {t : Txn} (h : ∀ u ∈ a.2, u.type = 0 → u.flag = false → u.sent = true) :
    ∀ u ∈ (pumpOne a t).2, u.type = 0 → u.flag = false → u.sent = true := by
  have hadd : ∀ v : Txn, (v.type = 0 → v.flag = false → v.sent = true) → ∀ u ∈ a.2 ++ [v], u.type = 0 → u.flag = false → u.sent = true :=
    fun v hv u hu => (List.mem_append.1 hu).elim (h u) fun hu => List.mem_singleton.1 hu ▸ hv
  unfold pumpOne
  split
  next hrests =>
    refine hadd t fun _ hflag => ?_
    simpa [behindHeld, hflag] using hrests
  next =>
    split
    · exact h
    · split
      · exact h
      · split
        · exact hadd _ fun _ _ => rfl
        next hstays => exact hadd t fun htype hflag => absurd (mayGo_read a.2 htype hflag) hstays

theorem pump_sends (p : Pkg) : ∀ t ∈ (pump p).ms.txns, t.type = 0 → t.flag = false → t.sent = true :=
  List.foldlRecOn (motive := fun a => ∀ t ∈ a.2, t.type = 0 → t.flag = false → t.sent = true) p.ms.txns pumpOne (by simp)
    fun _ h _ _ => pumpOne_sends h

theorem pump_not_unmarked (p : Pkg) : ¬ Unmarked (pump p) := fun h => by
  obtain ⟨t, ht, htype, hflag, hunsent⟩ := h.unsent
  exact Bool.false_ne_true (hunsent.symm.trans (pump_sends p t ht htype hflag))

theorem completeHere_not_unmarked (p : Pkg) (t : Txn) (status : Nat) : ¬ Unmarked (completeHere p t status) := fun h => by
  simpa [completeHere] using h.noneDone

theorem send_not_unmarked (p : Pkg) (t : Txn) : ¬ Unmarked (send p t) := by
  unfold send
  split
  · exact completeHere_not_unmarked _ _ _
  · split
    · exact completeHere_not_unmarked _ _ _
    · exact pump_not_unmarked _

/-- Acting on completions ends in the pump, or has not begun. -/
theorem settle_pumps (n : Nat) (p : Pkg) : settle n p = p ∨ ∃ q, settle n p = pump q := by
  induction n generalizing p with
  | zero => exact .inl rfl
  | succ n ih =>
    unfold settle
    split
    · exact .inl rfl
    next f rest _ =>
      obtain hnone | ⟨q, hq⟩ := ih (pump (settleOne { p with ms := { p.ms with failed := rest } } f))
      · exact .inr ⟨_, hnone⟩
      · exact .inr ⟨q, hq⟩

theorem unmarked_of_settle {n : Nat} (h : Unmarked (settle n p)) : Unmarked p := by
  obtain hnone | ⟨q, hq⟩ := settle_pumps n p
  · rwa [hnone] at h
  · exact absurd (hq ▸ h) (pump_not_unmarked q)

/-! What halts, loses or moves something writes an entry. -/

theorem haltPartition_not_unmarked (p : Pkg) {pp : Nat} (hpp : pp < 12) (status : Nat) : ¬ Unmarked (haltPartition p pp status) := by
  have hstatus : Written (modPc (last p Ix.pcLastStatus pp status) pp (fun q => { q with stepRunning := false })) (keyAt Ix.pcLastStatus 0 pp) :=
    written_wr_self p Ix.pcLastStatus pp status
  have hmark : keyAt Ix.pcLastStatus 0 pp ∈ endMarks := List.mem_append_right _ (List.mem_map_of_mem (List.mem_range.2 hpp))
  unfold haltPartition
  dsimp only
  split
  · exact hstatus.not_unmarked hmark
  · refine ((hstatus.wr Ix.pcState pp 7).keeps (raise_keeps _ _ _ _ _) ?_).not_unmarked hmark
    simp only [keyAt, commsKey, Ix.pcLastStatus]
    simp
    omega

theorem unmarked_of_failServing {pp : Nat} (hpp : pp < 12) (h : Unmarked (failServing p pp)) : Unmarked p := by
  unfold failServing at h
  split at h
  · exact h
  · dsimp only at h
    split at h
    · exact h.of_fields rfl rfl rfl rfl
    · split at h <;> exact absurd h (haltPartition_not_unmarked _ hpp _)

theorem reportLoss_not_unmarked (p : Pkg) (pp cause tier unit base length : Nat) : ¬ Unmarked (reportLoss p pp cause tier unit base length) :=
  Written.not_unmarked (k := keyAt Ix.tmLossHead 0 0)
    (Written.keeps (p := touch (bump _ Ix.tmLossHead 0 1) Ix.tmLossLog 0) (written_wr_self _ _ _ _) (raise_keeps _ _ _ _ _) (by decide)) (by decide)

theorem fenceRegion_not_unmarked (p : Pkg) {r : Nat} (hr : r < 12) (status : Nat) (h : ¬ Unmarked p) : ¬ Unmarked (fenceRegion p r status) := by
  by_cases hclosed : (p.tp.fenced.contains r || regionHidden p r) = true
  · rwa [fenceRegion, if_pos hclosed]
  · intro hbare
    obtain ⟨hopen, hshown⟩ := Bool.or_eq_false_iff.1 (Bool.eq_false_iff.2 hclosed)
    have hfenced := (fenceRegion_effect (r := ⟨r, hr⟩) status hopen hshown).1
    exact List.append_ne_nil_of_right_ne_nil _ (List.cons_ne_nil _ _) (hfenced.symm.trans hbare.unfenced)

theorem unmarked_of_failChannel {ddr : Bool} {unit ch : Nat} (h : Unmarked (failChannel p ddr unit ch)) : Unmarked p := by
  have hforgets : Unmarked (forgetBadLines p ddr unit) → Unmarked p := fun h => h.of_fields rfl rfl rfl rfl
  unfold failChannel at h
  dsimp only at h
  split at h
  · split at h
    · exact absurd h (reportLoss_not_unmarked _ _ _ _ _ _ _)
    · exact hforgets h
  · split at h
    · exact hforgets h
    next hworks =>
      have hunit : unit < 12 := by omega
      split at h
      · exact absurd h (reportLoss_not_unmarked _ _ _ _ _ _ _)
      · exact absurd h (fenceRegion_not_unmarked _ hunit _ (reportLoss_not_unmarked _ _ _ _ _ _ _))
      · exact absurd h (fenceRegion_not_unmarked _ hunit _ (reportLoss_not_unmarked _ _ _ _ _ _ _))
      · exact hforgets h

theorem unmarked_of_failBadChannels (h : Unmarked (failBadChannels p)) : Unmarked p :=
  unmarked_of_foldl (fun _ _ _ hq => hq.of_ite unmarked_of_failChannel unmarked_of_failChannel) h

theorem commitMove_not_unmarked (p : Pkg) (m : Move) : ¬ Unmarked (commitMove p m) :=
  ((((written_wr_self _ Ix.tmMovesCommitted 0 _).wr Ix.tmBytesMoved 0 _).wr Ix.akPagesFree _ _).wr Ix.akPagesInUse _ _).not_unmarked (by decide)

theorem unmarked_of_abandonMoves {f : Move → Bool} (h : Unmarked (abandonMoves p f)) : Unmarked p := by
  unfold abandonMoves at h
  dsimp only at h
  split at h
  · exact h
  · exact absurd h ((written_wr_self _ Ix.tmMovesAbandoned 0 _).not_unmarked (by decide))

theorem unmarked_of_bringHome {l : Loan} (h : Unmarked (bringHome p l)) : Unmarked p := by
  refine unmarked_of_abandonMoves (Unmarked.of_fields (unmarked_of_foldl (fun q s _ hq => ?_) h) rfl rfl rfl rfl)
  split at hq
  · exact hq
  · split at hq
    · exact hq.of_fields rfl rfl rfl rfl
    · exact hq

theorem sendTm_not_unmarked (p : Pkg) (dest : Nat) (m : TmMessage) (echo : Option Nat) : ¬ Unmarked (sendTm p dest m echo) := send_not_unmarked _ _

theorem unmarked_of_returnEmpty (h : Unmarked (returnEmpty p)) : Unmarked p :=
  unmarked_of_foldl (fun _ _ _ hq => hq.of_ite (fun hsent => absurd hsent (sendTm_not_unmarked _ _ _ _)) id) h

theorem unmarked_of_readvertise (h : Unmarked (readvertise p)) : Unmarked p := by
  unfold readvertise at h
  split at h
  · exact h
  · exact Unmarked.of_fields (unmarked_of_foldl (fun _ _ _ hq => absurd hq (sendTm_not_unmarked _ _ _ _)) h) rfl rfl rfl rfl

theorem unmarked_of_borrowIfShort {pp : Nat} (h : Unmarked (borrowIfShort p pp)) : Unmarked p := by
  unfold borrowIfShort at h
  dsimp only at h
  split at h
  · exact h
  · split at h
    · exact h
    · exact absurd h (sendTm_not_unmarked _ _ _ _)

theorem unmarked_of_tierWork (h : Unmarked (tierWork p)) : Unmarked p := by
  unfold tierWork at h
  dsimp only at h
  have hoffer := unmarked_of_readvertise (h.of_ite (unmarked_of_foldl fun _ _ _ => unmarked_of_borrowIfShort) id)
  have hmoves := unmarked_of_foldl (fun _ _ _ => unmarked_of_bringHome) (unmarked_of_returnEmpty hoffer)
  exact unmarked_of_foldl (fun _ _ _ hq => hq.of_ite (unmarked_of_foldl fun _ _ _ hr => absurd hr (commitMove_not_unmarked _ _)) id) hmoves

/-! What the links do sends something other than that capability record. -/

theorem emit_not_unmarked {x : Out} (hx : ∀ c, x ≠ .capability 1 c) : ¬ Unmarked (emit p x) := fun h => by
  obtain ⟨c, hc⟩ := h.lastOut
  rw [emit, List.getLast?_concat] at hc
  exact hx c (Option.some.inj hc)

theorem sendFlit_not_unmarked (p : Pkg) (l ftype vc seq : Nat) (nak : Bool) (first : Nat) (payload : Bytes) :
    ¬ Unmarked (sendFlit p l ftype vc seq nak first payload) := emit_not_unmarked fun _ => Out.noConfusion

theorem unmarked_of_sendPacket {l : Nat} {k : Packet} (h : Unmarked (sendPacket p l k)) : Unmarked p :=
  unmarked_of_foldl (fun _ _ _ hq => absurd hq (sendFlit_not_unmarked _ _ _ _ _ _ _ _)) (h.of_fields rfl rfl rfl rfl)

theorem unmarked_of_drainLink {l : Nat} (h : Unmarked (drainLink p l)) : Unmarked p := by
  unfold drainLink at h
  revert h
  refine List.foldlRecOn (motive := fun a : Pkg × List Nat => Unmarked a.1 → Unmarked p) _ _ (fun h => h.of_fields rfl rfl rfl rfl) fun a ih k _ h => ih ?_
  dsimp only at h
  split at h
  · exact unmarked_of_sendPacket h
  · exact h.of_fields rfl rfl rfl rfl

theorem unmarked_of_forward {k : Packet} {d : Nat} {arrived : Option Nat} (h : Unmarked (forward p k d arrived)) : Unmarked p := by
  unfold forward at h
  dsimp only at h
  split at h
  · exact h
  · exact (unmarked_of_drainLink h).of_fields rfl rfl rfl rfl

theorem unmarked_of_noteMs {status : Nat} (h : Unmarked (noteMs p status)) : Unmarked p := by
  unfold noteMs at h
  exact h.of_ite (fun h => h.of_wr (by decide) (by decide)) id

theorem unmarked_of_respondError {k : Packet} {status : Nat} (h : Unmarked (respondError p false k status)) : Unmarked p := by
  have hnoted : Unmarked (noteMs (bump p Ix.msErrorsSent 0 1) status) := h.of_fields rfl rfl rfl rfl
  exact (unmarked_of_noteMs hnoted).of_wr (by decide) (by decide)

theorem unmarked_of_bounce {k : Packet} {status : Nat} (h : Unmarked (bounce p k status)) : Unmarked p := by
  unfold bounce at h
  split at h
  · exact h
  · split at h
    · split at h
      · exact absurd h (completeHere_not_unmarked _ _ _)
      · exact h
    · exact unmarked_of_respondError h

theorem unmarked_of_detour {k : Packet} {blocked : Nat} {arrived : Option Nat} (h : Unmarked (detour p k blocked arrived)) : Unmarked p := by
  unfold detour at h
  dsimp only at h
  split at h
  · exact (unmarked_of_forward h).of_wr (by decide) (by decide)
  · exact ((unmarked_of_bounce h).of_wr (by decide) (by decide)).of_wr (by decide) (by decide)

theorem unmarked_of_route {k : Packet} {arrived : Option Nat} (h : Unmarked (route p k arrived)) : Unmarked p := by
  unfold route at h
  dsimp only at h
  split at h
  · exact h
  · split at h
    · exact unmarked_of_bounce h
    · exact h.of_ite unmarked_of_forward unmarked_of_detour

theorem unmarked_of_flushPackets {n : Nat} (h : Unmarked (flushPackets n p)) : Unmarked p := by
  induction n generalizing p with
  | zero => exact h
  | succ n ih =>
    unfold flushPackets at h
    split at h
    · exact h
    · exact (unmarked_of_route (ih h)).of_fields rfl rfl rfl rfl

theorem showProfile_eq (p : Pkg) : showProfile p = lanesDealt (wr p Ix.tfProfileActive 0 (profileAsked p)) := rfl

/-- Asking for a profile writes the one asked for, whatever the lanes then dealt write. -/
theorem showProfile_not_unmarked (p : Pkg) : ¬ Unmarked (showProfile p) := by
  have hasked := written_wr_self p Ix.tfProfileActive 0 (profileAsked p)
  have hlanes := (lanesDealt_frame (wr p Ix.tfProfileActive 0 (profileAsked p))).vals _
    (not_lanesKey (e := Ix.tfProfileActive) (sub := 0) (by decide) (by decide) (by decide))
  rw [← showProfile_eq] at hlanes
  exact Written.not_unmarked (k := keyAt Ix.tfProfileActive 0 0) (by rwa [Written, hlanes]) (by decide)

theorem unmarked_of_followProfile (h : Unmarked (followProfile p)) : Unmarked p := by
  unfold followProfile at h
  exact h.of_ite id fun h => absurd h (showProfile_not_unmarked p)

theorem unmarked_of_flood {kind id d : Nat} (h : Unmarked (flood p kind id d)) : Unmarked p := by
  refine unmarked_of_foldl (fun q x _ hq => ?_) h
  split at hq
  · exact absurd hq (emit_not_unmarked fun _ => Out.noConfusion)
  · exact hq

theorem unmarked_of_checkDirection {d : Nat} (h : Unmarked (checkDirection p d)) : Unmarked p := by
  unfold checkDirection at h
  dsimp only at h
  split at h
  · split at h
    · exact h
    · exact (unmarked_of_flood h).of_fields rfl rfl rfl rfl
  · split at h
    · exact (unmarked_of_flood h).of_fields rfl rfl rfl rfl
    · exact h

/-- A link that retrains sends its own capability record, and is in state 1. -/
theorem handBack_not_unmarked (p : Pkg) (l : Nat) : ¬ Unmarked (handBack p l 1) := fun h => by
  have htrains := unmarked_of_foldl (fun _ _ _ => unmarked_of_route) (unmarked_of_checkDirection h)
  obtain ⟨c, hc⟩ := htrains.lastOut
  have hone : l = 1 := by
    change (_ ++ [Out.capability l _]).getLast? = _ at hc
    rw [List.getLast?_concat] at hc
    exact (Out.capability.inj (Option.some.inj hc)).1
  subst hone
  exact absurd (htrains.linkParked.symm.trans (linkState_wr_self _ 1 (by decide))) (by decide)

theorem unmarked_of_retrainNext {n : Nat} (h : Unmarked (retrainNext n p)) : Unmarked p := by
  induction n generalizing p with
  | zero => exact h
  | succ n ih =>
    unfold retrainNext at h
    split at h
    · exact h
    · split at h
      · exact h.of_fields rfl rfl rfl rfl
      · exact (ih h).of_ite (fun hback => absurd hback (handBack_not_unmarked _ _)) fun hnext => hnext.of_fields rfl rfl rfl rfl

theorem unmarked_of_modLink {l : Nat} {f : Link → Link} (h : Unmarked (modLink p l f)) : Unmarked p := h.of_fields rfl rfl rfl rfl

theorem unmarked_of_returnKept (h : Unmarked (returnKept p)) : Unmarked p := by
  unfold returnKept at h
  exact unmarked_of_foldl (fun _ _ _ => unmarked_of_foldl fun _ _ _ => unmarked_of_modLink) h

/-- What ends a command leaves no unmarked package but of an unmarked one. -/
theorem unmarked_of_finish (h : Unmarked (finish p)) : Unmarked p := by
  have hfabric := unmarked_of_flushPackets (unmarked_of_followProfile (unmarked_of_retrainNext (unmarked_of_returnKept h)))
  have hmemory := unmarked_of_failBadChannels (unmarked_of_tierWork (unmarked_of_settle hfabric))
  exact unmarked_of_settle (unmarked_of_foldl (fun _ pp hpp => unmarked_of_failServing (List.mem_range.1 hpp)) hmemory)

end

/-- A departing package with links 0 and 1 up. A packet waits on link 0 whose PRIO names no dimension of the torus, and the dictionary holds state 2
for the link 10,240 that PRIO leads to. A READ has not been sent. -/
def strayPkg : Pkg :=
  let p := wr (wr (wr (wr {} Ix.btStartState 0 8) Ix.tfLinkState 0 2) Ix.tfLinkState 1 2) Ix.tfLinkState 10240 2
  { p with
    tf := { p.tf with departing := true, links := [(0, { queue := [{ dest := 64, prio := 1281 }] })] }
    ms := { p.ms with txns := [{ type := 0, sent := false }] } }

def strayState : State := { pkg := strayPkg }

set_option maxRecDepth 20000 in
/-- Parking link 0 sends the packet on link 10,240, whose count of flits is kept where lane 0 of link 0 is: the parked lane shows as retraining. -/
theorem strayState_parks_unmarked : Unmarked (parkLinks (begun strayState)) where
  lane := by decide +kernel
  linkParked := by decide +kernel
  lastOut := ⟨_, by rfl⟩
  noneDone := by decide +kernel
  unsent := by decide +kernel
  unfenced := by decide +kernel
  unwritten := by decide +kernel

theorem strayState_parks_settled : Settled (parkLinks (begun strayState)) := by
  unfold Settled
  decide +kernel

theorem pkg_eq_of_next {s : State} {p q : Pkg}
    (h : (.next { s with pkg := p } : Host.Outcome State Fault Refusal) = .next { s with pkg := q }) : p = q :=
  congrArg State.pkg (Host.Outcome.next.inj h)

theorem finish_eq_of_next {s : State} {f : Pkg → Pkg} {q : Pkg} (hp : powered s.pkg = true) (h : onPkgF f s = .next { s with pkg := finish q }) :
    finish (f (begun s)) = finish q := by
  rw [onPkgF_powered f s hp] at h
  exact pkg_eq_of_next h

/-- Refutes O41: its clause on the links that park gives no bound on a packet's PRIO. Where PRIO leads a packet of the parked link 0 to a link
that the fabric does not have, the count of that link's flits lies on the entry of lane 0 of link 0, which then shows as retraining and not as
parked; and no package on which that lane is parked ends as this one does. -/
theorem not_noticesComplete : ¬ Obligations.NoticesComplete := by
  unfold Obligations.NoticesComplete
  intro h
  have hon : powered strayState.pkg = true := by decide
  obtain ⟨-, -, -, hparks, -⟩ := h strayState 0 hon
  obtain ⟨q, ⟨-, hlanes⟩, hstep⟩ := hparks rfl
  have hends := finish_eq_of_next hon hstep
  rw [settledPackageStays _ strayState_parks_settled] at hends
  have hq : Unmarked q := unmarked_of_finish (hends ▸ strayState_parks_unmarked)
  exact absurd ((hlanes 0 (by decide) 0 (by decide) (by decide) (by decide)).symm.trans hq.lane) (by decide)

end Sys2Proof.Machine
end

section
/-! Requests of other packages: what their arrival changes, and what answering one leaves (R337, R348). -/

namespace Sys2Proof.Machine

@[simp] theorem putDedup_mem (p : Pkg) (key : Nat) (d : Dedup) : (putDedup p key d).mem = p.mem := rfl
@[simp] theorem putDedup_parts (p : Pkg) (key : Nat) (d : Dedup) : (putDedup p key d).parts = p.parts := rfl
@[simp] theorem putDedup_tf (p : Pkg) (key : Nat) (d : Dedup) : (putDedup p key d).tf = p.tf := rfl
@[simp] theorem putDedup_tp (p : Pkg) (key : Nat) (d : Dedup) : (putDedup p key d).tp = p.tp := rfl
@[simp] theorem putDedup_tm (p : Pkg) (key : Nat) (d : Dedup) : (putDedup p key d).tm = p.tm := rfl
@[simp] theorem part_putDedup (p : Pkg) (key : Nat) (d : Dedup) (pp : Nat) : part (putDedup p key d) pp = part p pp := rfl
@[simp] theorem blk_putDedup (p : Pkg) (key : Nat) (d : Dedup) (b : Nat) : blk (putDedup p key d) b = blk p b := rfl

/-- What a request's INCARNATION and TSEQ make of the package (R348): nothing, or its pair's entry is put, and a duplicate is counted. -/
theorem arrive_cases (p : Pkg) (k : Packet) :
    arrive p k = (p, .stale)
    ∨ (∃ d st v, arrive p k = (bump (putDedup p (pairKey k) d) Ix.msDuplicatesDiscarded 0 1, .duplicate st v))
    ∨ ∃ d, arrive p k = (putDedup p (pairKey k) d, .fresh) := by
  unfold arrive
  extract_lets key start old ahead
  split
  · exact .inl rfl
  · split
    · exact .inr (.inl ⟨_, _, _, rfl⟩)
    · exact .inr (.inr ⟨_, rfl⟩)

variable {p q : Pkg} {k : Packet}

theorem arrive_stale (h : arrive p k = (q, .stale)) : q = p := by
  rcases arrive_cases p k with hc | ⟨d, st, v, hc⟩ | ⟨d, hc⟩ <;> rw [hc] at h <;> cases h
  rfl

theorem arrive_duplicate {st : Nat} {v : DWord} (h : arrive p k = (q, .duplicate st v)) :
    ∃ d, q = bump (putDedup p (pairKey k) d) Ix.msDuplicatesDiscarded 0 1 := by
  rcases arrive_cases p k with hc | ⟨d, st, v, hc⟩ | ⟨d, hc⟩ <;> rw [hc] at h <;> cases h
  exact ⟨d, rfl⟩

theorem arrive_fresh (h : arrive p k = (q, .fresh)) : ∃ d, q = putDedup p (pairKey k) d := by
  rcases arrive_cases p k with hc | ⟨d, st, v, hc⟩ | ⟨d, hc⟩ <;> rw [hc] at h <;> cases h
  exact ⟨d, rfl⟩

@[simp] theorem keepAnswer_dict (p : Pkg) (k : Packet) (st : Nat) (v : Option DWord) : (keepAnswer p k st v).dict = p.dict := rfl
@[simp] theorem keepAnswer_mem (p : Pkg) (k : Packet) (st : Nat) (v : Option DWord) : (keepAnswer p k st v).mem = p.mem := rfl
@[simp] theorem keepAnswer_parts (p : Pkg) (k : Packet) (st : Nat) (v : Option DWord) : (keepAnswer p k st v).parts = p.parts := rfl
@[simp] theorem keepAnswer_tf (p : Pkg) (k : Packet) (st : Nat) (v : Option DWord) : (keepAnswer p k st v).tf = p.tf := rfl
@[simp] theorem keepAnswer_tp (p : Pkg) (k : Packet) (st : Nat) (v : Option DWord) : (keepAnswer p k st v).tp = p.tp := rfl

@[simp] theorem noteMs_tf (p : Pkg) (st : Nat) : (noteMs p st).tf = p.tf := by unfold noteMs; split <;> rfl
@[simp] theorem noteMs_tp (p : Pkg) (st : Nat) : (noteMs p st).tp = p.tp := by unfold noteMs; split <;> rfl

@[simp] theorem respond_tp (toHost : Bool) (k : Packet) (type st : Nat) (data : Bytes) : (respond p toHost k type st data).tp = p.tp := by
  unfold respond
  dsimp only
  split <;> simp

/-- An answer that is no ERROR leaves the dictionary. -/
theorem respond_dict (toHost : Bool) (k : Packet) {type : Nat} (st : Nat) (data : Bytes) (h : type ≠ 0x43) :
    (respond p toHost k type st data).dict = p.dict := by
  unfold respond
  dsimp only
  rw [launch_dict, if_neg h]

/-- What an answer to a request of another package carries (R337). -/
structure Answers (k : Packet) (type st : Nat) (data : Bytes) (a : Packet) : Prop where
  type : a.type = type
  dest : a.dest = k.src
  srcUnit : a.srcUnit = k.srcUnit
  tag : a.tag = k.tag
  status : a.status = st
  data : a.data = data

theorem respond_sends (p : Pkg) (k : Packet) (type st : Nat) (data : Bytes) :
    ∃ a, (respond p false k type st data).tf.outgoing = p.tf.outgoing ++ [a] ∧ Answers k type st data a := by
  unfold respond launch
  extract_lets q
  have htf : q.tf = p.tf := by
    unfold q
    split <;> simp
  rw [if_neg Bool.false_ne_true]
  refine ⟨_, congrArg (·.outgoing ++ [_]) htf, ?_⟩
  exact ⟨rfl, rfl, rfl, rfl, rfl, rfl⟩

theorem respondError_sends (p : Pkg) (k : Packet) (st : Nat) :
    ∃ a, (respondError p false k st).tf.outgoing = p.tf.outgoing ++ [a] ∧ Answers k 0x43 st [] a :=
  respond_sends p k 0x43 st []

/-- An ERROR is the last packet that the package has sent. -/
theorem respondError_last (p : Pkg) (k : Packet) (st : Nat) :
    ∃ a, (respondError p false k st).tf.outgoing.getLast? = some a ∧ Answers k 0x43 st [] a := by
  obtain ⟨a, hsent, ha⟩ := respondError_sends p k st
  exact ⟨a, by rw [hsent, List.getLast?_concat], ha⟩

@[simp] theorem respondError_mem (p : Pkg) (k : Packet) (st : Nat) : (respondError p false k st).mem = p.mem := respond_mem ..
@[simp] theorem respondError_parts (p : Pkg) (k : Packet) (st : Nat) : (respondError p false k st).parts = p.parts := respond_parts ..

theorem respondError_counts (p : Pkg) (k : Packet) (st : Nat) :
    rd (respondError p false k st) Ix.msErrorsSent 0 = (rd p Ix.msErrorsSent 0 + 1) % 2 ^ 64 := by
  have hnoted : rd (noteMs (bump p Ix.msErrorsSent 0 1) st) Ix.msErrorsSent 0 = rd (bump p Ix.msErrorsSent 0 1) Ix.msErrorsSent 0 := by
    rw [rd, rd, rdAt, rdAt, noteMs_vals _ _ (by decide)]
  exact ((rd_launch _ _ _ _ _).trans hnoted).trans (rd_bump_self p Ix.msErrorsSent 0 1)

end Sys2Proof.Machine
end

section
/-! A request of another package at its home, case by case (R340 to R349, R357). -/

namespace Sys2Proof.Machine

section
variable {p : Pkg} {port : Nat} {k : Packet}

theorem requestArrives_hole (h : k.src ∈ p.tf.holes) : requestArrives p port k = p := by
  rw [requestArrives, if_pos (List.contains_iff_mem.2 h)]

variable (hknown : k.src ∉ p.tf.holes)
include hknown

theorem requestArrives_malformed (hform : malformed k = true) :
    requestArrives p port k = respondError (logViolation p 2 port k.src 0x0E07 k.step (routeHeader k)) false k 0x0E07 := by
  rw [requestArrives, if_neg (by simpa using hknown), if_pos hform]

variable (hform : malformed k = false)
include hform

section
variable (htype : k.type = 0) {q : Pkg}
include htype

theorem requestArrives_read {b : Bytes} (hread : servedRead p k = (q, .ok b)) : requestArrives p port k = respond q false k 0x40 0 b := by
  rw [requestArrives, if_neg (by simpa using hknown), if_neg (by simp [hform]), if_pos htype, hread]

theorem requestArrives_unread {st : Nat} (hread : servedRead p k = (q, .error st)) : requestArrives p port k = respondError q false k st := by
  rw [requestArrives, if_neg (by simpa using hknown), if_neg (by simp [hform]), if_pos htype, hread]

end

variable (htype : k.type ≠ 0) {q : Pkg}
include htype

theorem requestArrives_stale (h : arrive p k = (q, .stale)) : requestArrives p port k = q := by
  rw [requestArrives, if_neg (by simpa using hknown), if_neg (by simp [hform]), if_neg htype, h]

section
variable {st : Nat} {v : DWord} (h : arrive p k = (q, .duplicate st v))
include h

theorem requestArrives_pending (hpending : answerPending q k = true) : requestArrives p port k = q := by
  simp only [requestArrives, if_neg (show ¬ p.tf.holes.contains k.src = true by simpa using hknown), hform, if_neg htype, h, hpending,
    Bool.false_eq_true, if_false, if_true]

theorem requestArrives_duplicate (hpending : answerPending q k = false) : requestArrives p port k
    = if st ≠ 0 then respondError q false k st
      else respond q false k (answerType k.type) 0 (if k.type = 2 then padTo (leBytes 8 v.toNat) 16 else []) := by
  simp only [requestArrives, if_neg (show ¬ p.tf.holes.contains k.src = true by simpa using hknown), hform, if_neg htype, h, hpending,
    Bool.false_eq_true, if_false]

end

variable (h : arrive p k = (q, .fresh))
include h

theorem requestArrives_held {pp : Nat} (hturn : returnTurn q k = some (pp, .hold)) :
    requestArrives p port k = modEr q pp (fun e => { e with heldReturns := e.heldReturns ++ [k] }) := by
  rw [requestArrives, if_neg (by simpa using hknown), if_neg (by simp [hform]), if_neg htype, h]
  dsimp only
  rw [hturn]

theorem requestArrives_refused {pp : Nat} (hturn : returnTurn q k = some (pp, .refuse)) :
    requestArrives p port k = respondError (keepAnswer q k 0x0E0B none) false k 0x0E0B := by
  rw [requestArrives, if_neg (by simpa using hknown), if_neg (by simp [hform]), if_neg htype, h]
  dsimp only
  rw [hturn]

variable (hturn : returnTurn q k = none ∨ ∃ pp, returnTurn q k = some (pp, .take)) {r : Pkg} {st : Nat} {data : Bytes}
  (hperformed : performRequest q k = (r, st, data))
include hturn hperformed

/-- A fresh request that its router does not keep back is performed; a write that completes later is answered then. -/
theorem requestArrives_performed : requestArrives p port k =
    if st = 0 ∧ k.type = 1 ∧ homeDefers q k.addr = true then r
    else
      let n := if badAtomic k then logViolation r 2 port k.src st k.step (routeHeader k) else r
      let n := keepAnswer n k st (if k.type = 2 then some (BitVec.ofNat 64 (leAt data 0 8)) else none)
      if st ≠ 0 then respondError n false k st else respond n false k (answerType k.type) 0 data := by
  rw [requestArrives, if_neg (by simpa using hknown), if_neg (by simp [hform]), if_neg htype, h]
  obtain hturn | ⟨pp, hturn⟩ := hturn
  · dsimp only
    rw [hturn, hperformed]
  · dsimp only
    rw [hturn, hperformed]

/-- The package that a performed request leaves before its answer is kept: a bad atomic's violation is logged. -/
theorem requestArrives_done (hst : st = 0) (hgood : badAtomic k = false) (hnow : ¬ (k.type = 1 ∧ homeDefers q k.addr = true)) :
    requestArrives p port k = respond (keepAnswer r k 0 (if k.type = 2 then some (BitVec.ofNat 64 (leAt data 0 8)) else none)) false k
      (answerType k.type) 0 data := by
  rw [requestArrives_performed hknown hform htype h hturn hperformed, if_neg fun hd => hnow hd.2]
  simp only [hgood, hst, Bool.false_eq_true, if_false, ne_eq, not_true_eq_false]

theorem requestArrives_later (hst : st = 0) (hwrite : k.type = 1) (hlater : homeDefers q k.addr = true) : requestArrives p port k = r := by
  rw [requestArrives_performed hknown hform htype h hturn hperformed, if_pos ⟨hst, hwrite, hlater⟩]

theorem requestArrives_failed (hst : st ≠ 0) :
    ∃ n, requestArrives p port k = respondError n false k st ∧ n.mem = r.mem ∧ n.parts = r.parts := by
  rw [requestArrives_performed hknown hform htype h hturn hperformed, if_neg fun hd => hst hd.1]
  dsimp only
  rw [if_pos hst]
  refine ⟨_, rfl, ?_, ?_⟩
  · rw [keepAnswer_mem]
    split
    · exact logViolation_mem ..
    · rfl
  · rw [keepAnswer_parts]
    split
    · exact logViolation_parts ..
    · rfl

end

end Sys2Proof.Machine
end

section
/-! Requests of other packages are answered (O42). -/

namespace Sys2Proof.Machine

/-- A command that is the arrival of a request (R337). -/
structure Brings (i : Instr) (k : Packet) : Prop where
  type : k.type < 5
  exec : ∀ s, exec i s = onPkgF (fun p => packetArrives p none k) s

theorem brings_request {k : Packet} {i : Instr × Nat}
    (hi : i ∈ [(Instr.read k, 0), (.write k, 1), (.atomic k, 2), (.counterInc k, 3), (.retire k, 4)]) : Brings i.1 { k with type := i.2 } := by
  simp only [List.mem_cons, List.not_mem_nil, or_false] at hi
  rcases hi with rfl | rfl | rfl | rfl | rfl <;> exact ⟨by simp, fun _ => rfl⟩

/-- The requests but READ are not idempotent (R348). -/
theorem brings_store {k : Packet} {i : Instr × Nat} (hi : i ∈ [(Instr.write k, 1), (.atomic k, 2), (.counterInc k, 3), (.retire k, 4)]) :
    Brings i.1 { k with type := i.2 } ∧ i.2 ≠ 0 := by
  refine ⟨brings_request (List.mem_cons_of_mem _ hi), ?_⟩
  simp only [List.mem_cons, List.not_mem_nil, or_false] at hi
  rcases hi with rfl | rfl | rfl | rfl <;> exact Nat.succ_ne_zero _

theorem packetArrives_request {p : Pkg} {k : Packet} (hdest : k.dest = ownId p) (htype : k.type < 5) :
    packetArrives p none k = requestArrives p 0xFF k := by
  rw [packetArrives, if_neg (not_not.2 hdest), if_neg (by omega), if_neg (by omega)]
  rfl

section
variable {s : State} {k : Packet} {i : Instr} (hp : powered s.pkg = true) (hi : Brings i k)
include hp hi

theorem request_routed (hdest : k.dest ≠ ownId s.pkg) : Completes i s (fun q => q = route (begun s) k none) :=
  completes_of hp (hi.exec s) (if_pos hdest)

variable (hdest : k.dest = ownId s.pkg)
include hdest

/-- A request completes with what its arrival at this package shows. -/
theorem completes_of_request {effect : Pkg → Prop} (h : effect (requestArrives (begun s) 0xFF k)) : Completes i s effect := by
  refine completes_of hp (hi.exec s) ?_
  rwa [packetArrives_request (p := begun s) hdest hi.type]

theorem request_of_hole (hhole : k.src ∈ s.pkg.tf.holes) : Completes i s (fun q => q = begun s) :=
  completes_of_request hp hi hdest (requestArrives_hole hhole)

variable (hknown : k.src ∉ s.pkg.tf.holes)
include hknown

theorem request_malformed (hform : malformed k = true) : Completes i s (fun q => q.mem = s.pkg.mem ∧ q.parts = s.pkg.parts
    ∧ ∃ a : Packet, q.tf.outgoing.getLast? = some a ∧ a.type = 0x43 ∧ a.dest = k.src ∧ a.tag = k.tag ∧ a.status = 0x0E07) := by
  refine completes_of_request hp hi hdest ?_
  rw [requestArrives_malformed (p := begun s) hknown hform]
  obtain ⟨a, hlast, ha⟩ := respondError_last (logViolation (begun s) 2 0xFF k.src 0x0E07 k.step (routeHeader k)) k 0x0E07
  exact ⟨by rw [respondError_mem, logViolation_mem, begun_mem], by rw [respondError_parts, logViolation_parts, begun_parts],
    a, hlast, ha.type, ha.dest, ha.tag, ha.status⟩

variable (hform : malformed k = false)
include hform

section
variable (htype : k.type = 0) {p : Pkg}
include htype

theorem read_answered {b : Bytes} (hread : servedRead (begun s) k = (p, .ok b)) :
    Completes i s (fun q => q.mem = p.mem ∧ q.parts = p.parts ∧ q.dict = p.dict
      ∧ ∃ a : Packet, q.tf.outgoing = p.tf.outgoing ++ [a] ∧ a.type = 0x40 ∧ a.dest = k.src ∧ a.srcUnit = k.srcUnit ∧ a.tag = k.tag ∧ a.status = 0
        ∧ a.data = b) := by
  refine completes_of_request hp hi hdest ?_
  rw [requestArrives_read (p := begun s) hknown hform htype hread]
  obtain ⟨a, hsent, ha⟩ := respond_sends p k 0x40 0 b
  exact ⟨respond_mem .., respond_parts .., respond_dict _ _ _ _ (by decide), a, hsent, ha.type, ha.dest, ha.srcUnit, ha.tag, ha.status, ha.data⟩

theorem read_refused {st : Nat} (hread : servedRead (begun s) k = (p, .error st)) :
    Completes i s (fun q => q.mem = p.mem ∧ q.parts = p.parts ∧ rd q Ix.msErrorsSent 0 = (rd p Ix.msErrorsSent 0 + 1) % 2 ^ 64
      ∧ ∃ a : Packet, q.tf.outgoing = p.tf.outgoing ++ [a] ∧ a.type = 0x43 ∧ a.dest = k.src ∧ a.srcUnit = k.srcUnit ∧ a.tag = k.tag
        ∧ a.status = st) := by
  refine completes_of_request hp hi hdest ?_
  rw [requestArrives_unread (p := begun s) hknown hform htype hread]
  obtain ⟨a, hsent, ha⟩ := respondError_sends p k st
  exact ⟨respondError_mem .., respondError_parts .., respondError_counts .., a, hsent, ha.type, ha.dest, ha.srcUnit, ha.tag, ha.status⟩

end

section
variable (htype : k.type ≠ 0) {p : Pkg}
include htype

theorem request_stale (h : arrive (begun s) k = (p, .stale)) : Completes i s (fun q => q = begun s) :=
  completes_of_request hp hi hdest ((requestArrives_stale (p := begun s) hknown hform htype h).trans (arrive_stale h))

section
variable {st : Nat} {v : DWord} (h : arrive (begun s) k = (p, .duplicate st v))
include h

/-- The answer to a duplicate whose write has not completed still waits. -/
theorem request_pending (hpending : answerPending p k = true) :
    Completes i s (fun q => q.mem = s.pkg.mem ∧ q.parts = s.pkg.parts ∧ q.tf.outgoing = s.pkg.tf.outgoing) := by
  refine completes_of_request hp hi hdest ?_
  rw [requestArrives_pending (p := begun s) hknown hform htype h hpending]
  obtain ⟨d, rfl⟩ := arrive_duplicate h
  exact ⟨rfl, rfl, rfl⟩

theorem request_duplicate (hpending : answerPending p k = false) :
    Completes i s (fun q => q.mem = s.pkg.mem ∧ q.parts = s.pkg.parts
      ∧ ∃ a : Packet, q.tf.outgoing = s.pkg.tf.outgoing ++ [a] ∧ a.dest = k.src ∧ a.srcUnit = k.srcUnit ∧ a.tag = k.tag
        ∧ (st = 0 → a.type = (if k.type = 2 then 0x42 else 0x41) ∧ (k.type = 2 → a.data = padTo (leBytes 8 v.toNat) 16))
        ∧ (st ≠ 0 → a.type = 0x43 ∧ a.status = st)) := by
  refine completes_of_request hp hi hdest ?_
  rw [requestArrives_duplicate (p := begun s) hknown hform htype h hpending]
  obtain ⟨d, rfl⟩ := arrive_duplicate h
  split
  next hst =>
    obtain ⟨a, hsent, ha⟩ := respondError_sends (bump (putDedup (begun s) (pairKey k) d) Ix.msDuplicatesDiscarded 0 1) k st
    exact ⟨respondError_mem .., respondError_parts .., a, hsent, ha.dest, ha.srcUnit, ha.tag, fun h0 => absurd h0 hst,
      fun _ => ⟨ha.type, ha.status⟩⟩
  next hst =>
    obtain ⟨a, hsent, ha⟩ := respond_sends (bump (putDedup (begun s) (pairKey k) d) Ix.msDuplicatesDiscarded 0 1) k (answerType k.type) 0
      (if k.type = 2 then padTo (leBytes 8 v.toNat) 16 else [])
    refine ⟨respond_mem .., respond_parts .., a, hsent, ha.dest, ha.srcUnit, ha.tag, fun _ => ⟨?_, fun hatomic => ?_⟩, fun h0 => absurd h0 hst⟩
    · rw [ha.type, answerType, if_neg htype]
    · rw [ha.data, if_pos hatomic]

end

section
variable (h : arrive (begun s) k = (p, .fresh))
include h

theorem request_held {pp : Nat} (hturn : returnTurn p k = some (pp, .hold)) :
    Completes i s (fun q => q = modEr p pp (fun e => { e with heldReturns := e.heldReturns ++ [k] })) :=
  completes_of_request hp hi hdest (requestArrives_held (p := begun s) hknown hform htype h hturn)

theorem request_refused {pp : Nat} (hturn : returnTurn p k = some (pp, .refuse)) :
    Completes i s (fun q => q.mem = s.pkg.mem ∧ q.parts = s.pkg.parts
      ∧ ∃ a : Packet, q.tf.outgoing = p.tf.outgoing ++ [a] ∧ a.type = 0x43 ∧ a.dest = k.src ∧ a.srcUnit = k.srcUnit ∧ a.tag = k.tag
        ∧ a.status = 0x0E0B) := by
  refine completes_of_request hp hi hdest ?_
  rw [requestArrives_refused (p := begun s) hknown hform htype h hturn]
  obtain ⟨d, rfl⟩ := arrive_fresh h
  obtain ⟨a, hsent, ha⟩ := respondError_sends (keepAnswer (putDedup (begun s) (pairKey k) d) k 0x0E0B none) k 0x0E0B
  exact ⟨respondError_mem .., respondError_parts .., a, hsent, ha.type, ha.dest, ha.srcUnit, ha.tag, ha.status⟩

variable (hturn : returnTurn p k = none ∨ ∃ pp, returnTurn p k = some (pp, .take))
  {r : Pkg} {st : Nat} {data : Bytes} (hperformed : performRequest p k = (r, st, data))
include hturn hperformed

theorem request_later (hst : st = 0) (hwrite : k.type = 1) (hlater : homeDefers p k.addr = true) : Completes i s (fun q => q = r) :=
  completes_of_request hp hi hdest (requestArrives_later (p := begun s) hknown hform htype h hturn hperformed hst hwrite hlater)

theorem request_done (hst : st = 0) (hgood : badAtomic k = false) (hnow : ¬ (k.type = 1 ∧ homeDefers p k.addr = true)) :
    Completes i s (fun q => q.mem = r.mem ∧ q.parts = r.parts ∧ q.tp = r.tp ∧ q.dict = r.dict
      ∧ ∃ a : Packet, q.tf.outgoing = r.tf.outgoing ++ [a] ∧ Answers k (if k.type = 2 then 0x42 else 0x41) 0 data a) := by
  refine completes_of_request hp hi hdest ?_
  rw [requestArrives_done (p := begun s) hknown hform htype h hturn hperformed hst hgood hnow,
    show answerType k.type = if k.type = 2 then 0x42 else 0x41 from if_neg htype]
  have hanswer : (if k.type = 2 then 0x42 else 0x41) ≠ 0x43 := by split <;> decide
  obtain ⟨a, hsent, ha⟩ := respond_sends
    (keepAnswer r k 0 (if k.type = 2 then some (BitVec.ofNat 64 (leAt data 0 8)) else none)) k (if k.type = 2 then 0x42 else 0x41) 0 data
  exact ⟨respond_mem .., respond_parts .., respond_tp .., respond_dict _ _ _ _ hanswer, a, hsent,
    ⟨ha.type, ha.dest, ha.srcUnit, ha.tag, ha.status, ha.data⟩⟩

theorem request_failed (hst : st ≠ 0) : Completes i s (fun q => q.mem = r.mem ∧ q.parts = r.parts
    ∧ ∃ a : Packet, q.tf.outgoing.getLast? = some a ∧ a.type = 0x43 ∧ a.dest = k.src ∧ a.srcUnit = k.srcUnit ∧ a.tag = k.tag ∧ a.status = st) := by
  refine completes_of_request hp hi hdest ?_
  obtain ⟨n, hn, hmem, hparts⟩ := requestArrives_failed (p := begun s) (port := 0xFF) hknown hform htype h hturn hperformed hst
  obtain ⟨a, hlast, ha⟩ := respondError_last n k st
  rw [hn]
  exact ⟨by rw [respondError_mem, hmem], by rw [respondError_parts, hparts], a, hlast, ha.type, ha.dest, ha.srcUnit, ha.tag, ha.status⟩

end

end

end

/-- Settles O42, by where the request is sent, its form and what its arrival finds. That what a hole sends is discarded is R356; that a return
of the next step waits for it, and one beyond it is refused, rests on entry 93 of the model's log. -/
theorem requestsAnswered : Obligations.RequestsAnswered := by
  unfold Obligations.RequestsAnswered
  intro s k hp
  refine ⟨fun i hi => ?any, fun hdest hknown hform => ?read, fun hdest hknown i hi hform => ?store⟩
  case any =>
    have hi := brings_request hi
    exact ⟨request_routed hp hi, request_of_hole (k := { k with type := i.2 }) hp hi, request_malformed hp hi⟩
  case read =>
    have hi : Brings (.read k) { k with type := 0 } := brings_request List.mem_cons_self
    exact ⟨fun p b => read_answered hp hi hdest hknown hform rfl, fun p st => read_refused hp hi hdest hknown hform rfl⟩
  case store =>
    obtain ⟨hi, htype⟩ := brings_store hi
    refine ⟨fun p h => ⟨fun pp => request_held hp hi hdest hknown hform htype h, fun pp => request_refused hp hi hdest hknown hform htype h,
        fun r st d hturn hperformed => ⟨request_later hp hi hdest hknown hform htype h hturn hperformed, fun hst hgood hnow => ?_,
          request_failed hp hi hdest hknown hform htype h hturn hperformed⟩⟩,
      fun p st v => request_duplicate hp hi hdest hknown hform htype, fun p st v => request_pending hp hi hdest hknown hform htype,
      fun p => request_stale hp hi hdest hknown hform htype⟩
    refine (request_done hp hi hdest hknown hform htype h hturn hperformed hst hgood hnow).mono ?_
    rintro q ⟨hmem, hparts, -, hdict, a, hsent, ha⟩
    exact ⟨hmem, hparts, hdict, a, hsent, ha.type, ha.dest, ha.srcUnit, ha.tag, ha.data⟩

end Sys2Proof.Machine
end

section
/-! A home in HBM4 whose memory holds no error and no fill: what a load finds there, and what a store leaves (R239, R246). -/

namespace Sys2Proof.Machine

section
variable {m : Mem} (hraw : m.raw = []) (hfills : m.fills = [])
include hraw hfills

theorem badWords_clean (a n : Nat) : badWords m a n = [] := by
  rw [badWords_of_no_fill (by simp [hfills]), hraw]
  rfl

theorem memBytes_clean (a n : Nat) : memBytes m a n = rawBytes m a n := by
  unfold memBytes
  dsimp only
  rw [badWords_clean hraw hfills]
  rfl

theorem memWrite_clean (a : Nat) (b : Bytes) : memWrite m a b = putBytes m a b := by
  unfold memWrite writeAround
  rw [badWords_clean hraw hfills, List.foldl_nil, hraw, hfills]
  rfl

end

/-- Bytes put over clean words are there, and every other byte is as it was. -/
theorem memByte_putBytes {m : Mem} (hm : bytesOk m.data) (a : Nat) (b : Bytes) (x : Nat) :
    memByte (putBytes m a b) x = if a ≤ x ∧ x < a + b.length then b.getD (x - a) 0 else memByte m x := by
  split
  next hx =>
    have hlt : x - a < b.length := by omega
    have hdefined := defined_cut m a b.length (x - a) hlt
    have hput := getByte_setBytes_in m.data a b (x - a) hlt hm
    rw [show a + (x - a) = x by omega] at hdefined hput
    unfold memByte putBytes
    dsimp only
    rw [hdefined]
    exact hput.trans (List.getD_eq_getElem b 0 hlt).symm
  next hx => exact memByte_defined (raw := (m.defined a b.length).raw) (by omega) (getByte_setBytes_out _ _ _ _ (by omega))

theorem place_t0 {a st off : Nat} (h : place a = .t0 st off) : a < 0x00C000000000 ∧ st = a / 0x001000000000 := by
  unfold place at h
  split at h
  · injection h with hst
    exact ⟨by assumption, hst.symm⟩
  · repeat' split at h
    all_goals cases h

/-- An address of a stack that works, in a region that is here and answers, over memory that holds no error and no fill. -/
structure CleanHome (p : Pkg) (a st off : Nat) : Prop where
  placed : place a = .t0 st off
  works : rd p Ix.hbStackState st = 0
  shown : regionHidden p st = false
  unfenced : p.tp.fenced.contains st = false
  answers : ∀ pp, partOfRegion p st = some pp → pcState p pp ≠ 6
  unfilled : tfind p.tm.poisonFill st = none
  raw : p.mem.raw = []
  fills : p.mem.fills = []
  wf : Memory.wf p.mem = true

/-- The entries that say whether a home answers. -/
def homeEntries : List Entry := [Ix.hbStackState, Ix.btHiddenRegions, Ix.pcRegionMask, Ix.pcState]

section
variable {p q : Pkg} {a st off : Nat} (h : CleanHome p a st off)
include h

theorem CleanHome.lt : st < 12 := by
  obtain ⟨ha, rfl⟩ := place_t0 h.placed
  omega

/-- A home stays clean where memory, fills, fences and those entries are as they were. -/
theorem CleanHome.of_entries (hrd : ∀ e ∈ homeEntries, ∀ sub < 256, rd q e sub = rd p e sub) (htp : q.tp = p.tp) (htm : q.tm = p.tm)
    (hmem : q.mem = p.mem) : CleanHome q a st off where
  placed := h.placed
  works := (hrd _ (by simp [homeEntries]) _ (by have := h.lt; omega)).trans h.works
  shown := by rw [regionHidden, hrd _ (by simp [homeEntries]) _ (by omega), ← regionHidden, h.shown]
  unfenced := htp ▸ h.unfenced
  answers pp hpp := by
    rw [partOfRegion_congr st fun pp hpp => hrd _ (by simp [homeEntries]) _ (by omega)] at hpp
    rw [pcState, hrd _ (by simp [homeEntries]) _ (by have := partOfRegion_lt hpp; omega)]
    exact h.answers pp hpp
  unfilled := htm ▸ h.unfilled
  raw := hmem ▸ h.raw
  fills := hmem ▸ h.fills
  wf := hmem ▸ h.wf

theorem CleanHome.putDedup (key : Nat) (d : Dedup) : CleanHome (putDedup p key d) a st off := by
  refine h.of_entries (fun e he sub hs => rd_wr_ne _ _ ?_ hs (by omega)) rfl rfl rfl
  simp only [homeEntries, List.mem_cons, List.not_mem_nil, or_false] at he
  rcases he with rfl | rfl | rfl | rfl <;> decide

theorem CleanHome.countMoved (n : Nat) : CleanHome (countMoved p a n) a st off := by
  refine h.of_entries (fun e he sub hs => rd_countMoved _ _ _ ?_ hs) ?_ (countMoved_tm _ _ _) (countMoved_mem _ _ _)
  · simp only [homeEntries, List.mem_cons, List.not_mem_nil, or_false] at he
    rcases he with rfl | rfl | rfl | rfl <;> decide
  · rw [Machine.countMoved, h.placed]
    rfl

theorem CleanHome.absorbs_not : absorbing p (partOfAddr p a) = false := by
  rw [partOfAddr, h.placed]
  dsimp only
  rw [if_neg (by rw [h.unfenced]; exact Bool.false_ne_true)]
  unfold absorbing
  split
  next pp hpp => exact beq_eq_false_iff_ne.2 (h.answers pp hpp)
  next => rfl

theorem CleanHome.rangeNo : rangeNo a = 0 := by rw [Machine.rangeNo, h.placed]

theorem CleanHome.controlOffset : controlOffset a = none := by
  obtain ⟨ha, -⟩ := place_t0 h.placed
  exact if_neg (by omega)

theorem CleanHome.accessStatus (write : Bool) : accessStatus p a write true = 0 := by
  rw [Machine.accessStatus, h.placed]
  dsimp only
  rw [h.unfenced, h.shown, h.works, h.unfilled]
  cases write <;> rfl

theorem CleanHome.mustHold : mustHold p a = false := by rw [Machine.mustHold, h.placed]; simp [h.unfilled]

theorem CleanHome.defers : defers p a = false := by rw [Machine.defers, h.rangeNo, h.mustHold]; rfl

theorem CleanHome.atomicReach : atomicReach p a = true := by rw [Machine.atomicReach, h.placed]

/-- No place begins or ends inside a range within a 256-byte boundary. -/
theorem CleanHome.rangeStatus {n : Nat} (hn : a % 256 + n ≤ 256) (write : Bool) : rangeStatus p a n write true = 0 := by
  have hparts : rangeParts a n = [a] := by
    have hsame : (a + n - 1) / 0x80000 - a / 0x80000 = 0 := by omega
    rw [rangeParts, h.rangeNo, if_neg (by decide), hsame]
    rfl
  rw [Machine.rangeStatus, hparts]
  exact h.accessStatus write

theorem CleanHome.loadLocal {n : Nat} (hn : a % 256 + n ≤ 256) : loadLocal p a n true = (Machine.countMoved p a n, .ok (rawBytes p.mem a n)) := by
  unfold Machine.loadLocal
  rw [h.rangeStatus hn, h.rangeNo, badWords_clean h.raw h.fills]
  dsimp only [List.foldl_nil]
  rw [memBytes_clean h.raw h.fills]
  rfl

/-- A store is one part, which is performed at once. -/
theorem CleanHome.storeLocal {b : Bytes} (hb : b ≠ []) (hn : a % 256 + b.length ≤ 256) (source partition step : Nat) (purpose : Purpose) :
    storeLocal p a b false true source partition step purpose = (storeNow p a b false, 0) := by
  have hpos := List.length_pos_of_ne_nil hb
  have hcut : cut 4096 (b.length / 4096 + 2) a b = [(a, b)] := by
    have hwhole : b.length ≤ 4096 - a % 4096 := by omega
    rw [cut, if_neg (by simpa using hb)]
    dsimp only
    rw [List.take_of_length_le hwhole, List.drop_of_length_le hwhole]
    rfl
  unfold Machine.storeLocal
  rw [h.rangeStatus hn, h.rangeNo]
  dsimp only
  rw [if_neg (by decide), if_neg (by decide)]
  split
  · rfl
  · rw [hcut, List.foldl_cons, List.foldl_nil, storePart, if_neg (by rw [h.mustHold]; exact Bool.false_ne_true)]

theorem CleanHome.storeNow_shows {b : Bytes} : (storeNow p a b false).parts = p.parts ∧ (storeNow p a b false).tf = p.tf
    ∧ ∀ x, memByte (storeNow p a b false).mem x = if a ≤ x ∧ x < a + b.length then b.getD (x - a) 0 else memByte p.mem x := by
  have hskip : enterSkip p a = p := by rw [enterSkip, h.placed]
  have hmarked : ∀ r : Pkg, (markDirty r a b.length).mem = r.mem ∧ (markDirty r a b.length).tf = r.tf := fun r => by
    unfold markDirty
    split <;> exact ⟨rfl, rfl⟩
  obtain ⟨hmem, htf⟩ := hmarked (Machine.countMoved p a b.length)
  refine ⟨storeNow_parts _ _ _ _, ?_, fun x => ?_⟩
  · show (markDirty (Machine.countMoved (enterSkip p a) a b.length) a b.length).tf = p.tf
    rw [hskip, htf, Machine.countMoved, h.placed]
    rfl
  · show memByte (memWrite (markDirty (Machine.countMoved (enterSkip p a) a b.length) a b.length).mem a b) x = _
    rw [hskip, hmem, countMoved_mem, memWrite_clean h.raw h.fills]
    exact memByte_putBytes ((wf_iff _).1 h.wf).1 a b x

theorem CleanHome.homeStore {b : Bytes} (hb : b ≠ []) (hn : a % 256 + b.length ≤ 256) (flag firmware : Bool) (source step : Nat) (purpose : Purpose) :
    homeStore p a b false flag firmware source step purpose = (storeNow p a b false, 0) := by
  rw [Machine.homeStore, h.absorbs_not, if_neg Bool.false_ne_true, h.controlOffset]
  exact h.storeLocal hb hn source 0xFF step purpose

theorem CleanHome.homeDefers : homeDefers p a = false := by
  rw [Machine.homeDefers, h.defers, Bool.and_false]

/-- An aligned atomic of a valid operation (R342). -/
theorem CleanHome.homeAtomic {wide : Bool} {aop n old : Nat} (hn : n = if wide then 8 else 4) (haligned : a % n = 0) (hop : aop ≤ 6)
    (hold : old = leNat (rawBytes p.mem a n)) (operand swap : Nat) (flag firmware : Bool) (source step : Nat) :
    homeAtomic p a wide aop operand swap flag firmware source step
      = (storeNow (Machine.countMoved p a n) a (leBytes n (atomicNew (8 * n) aop old (operand % 2 ^ (8 * n)) (swap % 2 ^ (8 * n)))) false, 0, old) := by
  have hwithin : a % 256 + n ≤ 256 := by
    cases wide <;> simp only [Bool.false_eq_true, if_false, if_true] at hn <;> subst hn <;> omega
  have hpos : 0 < n := by rw [hn]; split <;> decide
  have hstore := fun b (hlen : b.length = n) => (h.countMoved n).storeLocal (b := b) (by rintro rfl; simp at hlen; omega) (by rwa [hlen]) source 0xFF step .plain
  unfold Machine.homeAtomic
  rw [← hn]
  dsimp only
  rw [if_neg (by omega), if_neg (by omega), h.absorbs_not, if_neg Bool.false_ne_true, h.controlOffset]
  dsimp only
  rw [h.atomicReach, if_neg (by decide), h.loadLocal hwithin]
  dsimp only
  rw [hstore _ (leBytes_length _ _), ← hold]

end

end Sys2Proof.Machine
end

section
/-! What the source region's router does with a return (R156) does not turn on the entries of the sequence pairs (R348). -/

namespace Sys2Proof.Machine

theorem rdAt_putDedup (p : Pkg) (key : Nat) (d : Dedup) {e : Entry} {u sub : Nat} (he : e.index + u ≠ 0x5806) (hs : sub < 256) :
    rdAt (putDedup p key d) e u sub = rdAt p e u sub := rdAt_wrAt_ne _ _ (keyAt_ne_of_index he hs (by omega))

theorem rd_putDedup (p : Pkg) (key : Nat) (d : Dedup) {e : Entry} {sub : Nat} (he : e.index ≠ 0x5806) (hs : sub < 256) :
    rd (putDedup p key d) e sub = rd p e sub := rdAt_putDedup p key d he hs

theorem rdB_putDedup (p : Pkg) (key : Nat) (d : Dedup) {e : Entry} {sub : Nat} (he : e.index ≠ 0x5806) (hs : sub < 256) :
    rdB (putDedup p key d) e sub = rdB p e sub := rdB_wr_ne _ _ he hs (by omega)

/-- The numbers of stacks, channels and blocks that a place can name (R34, R236). -/
def Place.Bounded : Place → Prop
  | .t0 s _ => s < 12
  | .t1 c _ => c < 16
  | .sram b off => b < 96 ∧ off < 0x01000000
  | _ => True

theorem place_bounded (a : Nat) : (place a).Bounded := by
  unfold place
  split
  · show _ < 12
    omega
  · split
    · show _ < 16
      omega
    · split
      · trivial
      · split
        · exact ⟨by omega, by omega⟩
        · split <;> trivial

variable (key : Nat) (d : Dedup) (p : Pkg)

theorem t2Window_putDedup (a : Nat) : t2Window (putDedup p key d) a = t2Window p a := by
  rw [t2Window, windowRecords, rdB_putDedup p key d (by decide) (by omega)]
  rfl

theorem t2Target_putDedup (a : Nat) : t2Target (putDedup p key d) a = t2Target p a := by
  unfold t2Target
  split
  · rw [t2Window_putDedup]
  · rfl

theorem regionHidden_putDedup (r : Nat) : regionHidden (putDedup p key d) r = regionHidden p r := by
  rw [regionHidden, rd_putDedup p key d (by decide) (by omega)]
  rfl

theorem accessStatus_putDedup (a : Nat) (write : Bool) : accessStatus (putDedup p key d) a write false = accessStatus p a write false := by
  have hbounds := place_bounded a
  unfold accessStatus
  split <;> rename_i hplace <;> rw [hplace] at hbounds
  case h_1 s off =>
    have hs : s < 12 := hbounds
    rw [regionHidden_putDedup, rd_putDedup p key d (e := Ix.hbStackState) (by decide) (by omega)]
    rfl
  case h_2 c off =>
    have hc : c < 16 := hbounds
    rw [rd_putDedup p key d (e := Ix.ddChannelState) (by decide) (by omega), rd_putDedup p key d (e := Ix.ddDimmBytes) (by decide) (by omega)]
  case h_3 w off =>
    rw [t2Window_putDedup]
    rfl
  case h_4 b off =>
    obtain ⟨hb, hoff⟩ : b < 96 ∧ off < 0x01000000 := hbounds
    have hblock : blockHidden (putDedup p key d) b = blockHidden p b := by
      rw [blockHidden, rd_putDedup p key d (by decide) (by omega), regionHidden_putDedup]
      rfl
    have hcell : ∀ c, bufferCell off = some c → cellHidden (putDedup p key d) (b * 8 + c) = cellHidden p (b * 8 + c) := fun c hc => by
      have hlt : c < 8 := by
        unfold bufferCell at hc
        split at hc
        · cases hc
        · cases hc
          omega
      rw [cellHidden, rdAt_putDedup p key d (by simp only [Ix.cellState]; omega) (by omega)]
      rfl
    rw [hblock]
    cases hbuffer : bufferCell off with
    | none => rfl
    | some c =>
      dsimp only
      rw [hcell c hbuffer]
      rfl

theorem rangeStatus_putDedup (a n : Nat) (write : Bool) : rangeStatus (putDedup p key d) a n write false = rangeStatus p a n write false := by
  unfold rangeStatus
  simp only [accessStatus_putDedup]

/-- Putting the entry of a pair, after whatever has been read. -/
def pairPut (acc : Pkg × Except Nat Bytes) : Pkg × Except Nat Bytes := Prod.map (fun p => putDedup p key d) id acc

theorem remoteByte_putDedup (a : Nat) (acc : Pkg × Except Nat Bytes) : remoteByte (pairPut key d acc) a = pairPut key d (remoteByte acc a) := by
  obtain ⟨p, r⟩ := acc
  simp only [remoteByte, pairPut, Prod.map, id]
  cases r with
  | error e => rfl
  | ok l =>
    rw [show (putDedup p key d).ms.remoteReads = p.ms.remoteReads from rfl]
    cases Config.remoteRead p.ms.remoteReads a <;> rfl

theorem remoteRead_putDedup (a n : Nat) : remoteRead (putDedup p key d) a n = pairPut key d (remoteRead p a n) := by
  unfold remoteRead
  rw [putDedup_tf]
  split
  · rfl
  · exact List.foldl_hom (init := (p, Except.ok [])) (pairPut key d) fun acc i => remoteByte_putDedup key d (a + i) acc

theorem loadT2_putDedup (a n : Nat) : loadT2 (putDedup p key d) a n = pairPut key d (loadT2 p a n) := by
  unfold loadT2
  refine List.foldl_hom (init := (p, Except.ok [])) (pairPut key d) fun acc c => ?_
  obtain ⟨p, r⟩ := acc
  cases r with
  | error e => rfl
  | ok l =>
    simp only [pairPut, Prod.map, id]
    rw [t2Target_putDedup]
    cases t2Target p c.1 with
    | none => rfl
    | some x =>
      dsimp only
      rw [remoteRead_putDedup]
      rfl

theorem loadLocal_putDedup (a n : Nat) : (loadLocal (putDedup p key d) a n false).2 = (loadLocal p a n false).2 := by
  unfold loadLocal
  dsimp only
  rw [rangeStatus_putDedup]
  split
  · rfl
  · split
    · rw [loadT2_putDedup]
      rfl
    · rw [putDedup_mem, foldl_readBad_status _ (countMoved (putDedup p key d) a n) (countMoved p a n)]
      split <;> rfl

theorem returnBlockIn_putDedup (l : RouterLayer) (a : Nat) : returnBlockIn (putDedup p key d) l a = returnBlockIn p l a := by
  have hown : ownId (putDedup p key d) = ownId p := rd_putDedup p key d (by decide) (by omega)
  have hsource : ∀ s, sourcePackage (putDedup p key d) l s = sourcePackage p l s := fun s => by rw [sourcePackage, loadLocal_putDedup]; rfl
  unfold returnBlockIn
  simp only [hown, hsource, loadLocal_putDedup]

theorem routerLayerAt_putDedup {pp : Nat} (hpp : pp < 12) (i : Nat) : routerLayerAt (putDedup p key d) pp i = routerLayerAt p pp i := by
  rw [routerLayerAt, rdB_putDedup p key d (by decide) (by omega)]
  rfl

theorem findSome?_congr {α β : Type} {l : List α} {f g : α → Option β} (h : ∀ x ∈ l, f x = g x) : l.findSome? f = l.findSome? g := by
  induction l with
  | nil => rfl
  | cons x l ih => rw [List.findSome?_cons, List.findSome?_cons, h x List.mem_cons_self, ih fun y hy => h y (List.mem_cons_of_mem _ hy)]

theorem returnTarget_putDedup (a : Nat) : returnTarget (putDedup p key d) a = returnTarget p a := by
  refine findSome?_congr fun pp hpp => ?_
  have hpp := List.mem_range.1 hpp
  simp only [rdB_putDedup p key d (e := Ix.erLayerTable) (sub := pp) (by decide) (by omega), routerLayerAt_putDedup key d p hpp,
    returnBlockIn_putDedup]

theorem returnTurn_putDedup (k : Packet) : returnTurn (putDedup p key d) k = returnTurn p k := by
  rw [returnTurn, returnTarget_putDedup]
  rfl

end Sys2Proof.Machine
end

section
/-! What fresh requests do at a clean home (O43). -/

namespace Sys2Proof.Machine

/-- Only writes of another router are returns of expert rows (R156). -/
theorem returnTurn_of_type {p : Pkg} {k : Packet} (h : k.type ≠ 1) : returnTurn p k = none := if_pos (.inl h)

/-- A WRITE of valid form lies within a 256-byte boundary and moves at least one byte (R336). -/
theorem write_form {k : Packet} (htype : k.type = 1) (hform : malformed k = false) : 0 < k.bytes ∧ k.addr % 256 + k.bytes ≤ 256 := by
  simp only [malformed, htype, Bool.or_eq_false_iff, bne_eq_false_iff_eq, beq_eq_false_iff_ne, decide_eq_false_iff_not] at hform
  omega

section
variable {p q : Pkg} {k : Packet} {st off : Nat} (h : CleanHome p k.addr st off)
include h

theorem performRequest_write (htype : k.type = 1) (hform : malformed k = false) (hclean : k.poison = false) (hlength : k.data.length = k.bytes) :
    performRequest p k = (storeNow p k.addr k.data false, 0, []) := by
  obtain ⟨hpos, hwithin⟩ := write_form htype hform
  unfold performRequest
  rw [htype]
  dsimp only
  rw [hclean, if_neg Bool.false_ne_true, h.homeStore (by rintro hnil; simp [hnil] at hlength; omega) (by omega)]
  rfl

theorem performRequest_atomic {n old : Nat} (htype : k.type = 2) (hop : k.aop ≤ 6) (haligned : k.addr % n = 0) (hn : n = if k.asize then 8 else 4)
    (hold : old = leNat (rawBytes p.mem k.addr n)) :
    performRequest p k = (storeNow (countMoved p k.addr n) k.addr
      (leBytes n (atomicNew (8 * n) k.aop old (leAt k.data 0 8 % 2 ^ (8 * n)) (leAt k.data 8 8 % 2 ^ (8 * n)))) false, 0, padTo (leBytes 8 old) 16) := by
  unfold performRequest
  rw [htype]
  dsimp only
  rw [h.homeAtomic hn haligned hop hold]
  rfl

end

/-- A block of a partition that answers increments and runs step `c`. -/
structure CountsStep (p : Pkg) (b pp c : Nat) : Prop where
  lt : b < 96
  owned : partOfBlock p b = some pp
  answers : pcState p pp ≠ 6
  shown : blockHidden p b = false
  unfenced : p.tp.fenced.contains (b / 8) = false
  step : (blk p b).step = some c

section
variable {p : Pkg} {b pp c : Nat} (h : CountsStep p b pp c)
include h

theorem CountsStep.putDedup (key : Nat) (d : Dedup) : CountsStep (putDedup p key d) b pp c where
  lt := h.lt
  owned := (partOfRegion_congr _ fun pp hpp => rd_putDedup p key d (by decide) (by omega)).trans h.owned
  answers := by
    rw [pcState, rd_putDedup p key d (by decide) (by have := partOfBlock_lt h.owned; omega)]
    exact h.answers
  shown := by
    rw [blockHidden, rd_putDedup p key d (by decide) (by have := h.lt; omega), regionHidden_putDedup]
    exact h.shown
  unfenced := h.unfenced
  step := h.step

variable {a n step : Nat} (hblock : bits a 12 6 = b)
include hblock

/-- An increment at a block that answers (R343). -/
theorem CountsStep.homeInc : homeInc p a n step = incCounter p b (bits a 5 0) n step ((part p pp).ru.poison.isSome) := by
  have hregion : regionHidden p (b / 8) = false := (Bool.or_eq_false_iff.1 h.shown).2
  unfold Machine.homeInc
  dsimp only
  rw [hblock, if_pos h.lt, h.owned]
  dsimp only
  rw [hregion, h.unfenced, if_neg Bool.false_ne_true, if_neg Bool.false_ne_true, if_neg h.answers]

/-- An increment of the running step goes to the counter (R69). -/
theorem CountsStep.counts (hstep : step = c) (hclear : (blk p b).beforeClear = none) (hgood : (part p pp).ru.poison = none) :
    Machine.homeInc p a n step
      = (modBlk p b (fun k => { k with counters := tput k.counters (bits a 5 0) ((tget k.counters (bits a 5 0) 0 + n) % 2 ^ 32) }), 0) := by
  subst hstep
  rw [h.homeInc hblock, hgood]
  unfold incCounter
  dsimp only
  rw [h.step, hclear]
  dsimp only
  rw [if_neg (by omega), stepAhead_self, if_neg Bool.false_ne_true, if_neg (by simp)]

/-- One of the next step goes to the pending tally while there is room (R69). -/
theorem CountsStep.tallies (hstep : step = (c + 1) % 2 ^ 32) (hroom : tget (blk p b).tallies (bits a 5 0) 0 + n ≤ 65535) :
    Machine.homeInc p a n step
      = (modBlk p b (fun k => { k with tallies := tput k.tallies (bits a 5 0) (tget (blk p b).tallies (bits a 5 0) 0 + n) }), 0) := by
  rw [h.homeInc hblock]
  unfold incCounter addTally
  dsimp only
  rw [h.step]
  dsimp only
  rw [if_pos hstep, if_neg (by omega)]

end

section
variable {s : State} {k : Packet} {p : Pkg} (hp : powered s.pkg = true) (hdest : k.dest = ownId s.pkg) (hknown : k.src ∉ s.pkg.tf.holes)
include hp hdest hknown

section
variable {st off : Nat} (hhome : CleanHome (begun s) k.addr st off)
include hhome

/-- A WRITE puts its bytes and leaves every other (R341). -/
theorem write_puts (hform : malformed { k with type := 1 } = false) (h : arrive (begun s) { k with type := 1 } = (p, .fresh)) (hclean : k.poison = false)
    (hlength : k.data.length = k.bytes) (hturn : returnTurn (begun s) { k with type := 1 } = none) :
    Completes (.write k) s (fun q => q.parts = s.pkg.parts ∧ ∀ x, memByte q.mem x =
      if k.addr ≤ x ∧ x < k.addr + k.data.length then k.data.getD (x - k.addr) 0 else memByte s.pkg.mem x) := by
  obtain ⟨d, rfl⟩ := arrive_fresh h
  have hhome := hhome.putDedup (pairKey { k with type := 1 }) d
  rw [← returnTurn_putDedup (pairKey { k with type := 1 }) d] at hturn
  have hperformed := performRequest_write (k := { k with type := 1 }) hhome rfl hform hclean hlength
  refine (request_done (k := { k with type := 1 }) hp (brings_store (k := k) (i := (.write k, 1)) (by simp)).1 hdest hknown hform (Nat.succ_ne_zero _) h
    (.inl hturn) hperformed rfl rfl ?_).mono ?_
  · rintro ⟨-, hlater⟩
    exact Bool.false_ne_true (hhome.homeDefers.symm.trans hlater)
  · rintro q ⟨hmem, hparts, -⟩
    obtain ⟨hpartsKept, -, hbytes⟩ := hhome.storeNow_shows (b := k.data)
    exact ⟨hparts.trans hpartsKept, fun x => hmem ▸ hbytes x⟩

/-- An ATOMIC puts the new value of its operation and answers the old one (R342, R349). -/
theorem atomic_puts (hform : malformed { k with type := 2 } = false) (h : arrive (begun s) { k with type := 2 } = (p, .fresh)) (hop : k.aop ≤ 6) {n old : Nat}
    (hn : n = if k.asize then 8 else 4) (haligned : k.addr % n = 0) (hold : old = leNat (rawBytes s.pkg.mem k.addr n)) :
    Completes (.atomic k) s (fun q => q.parts = s.pkg.parts
      ∧ (∀ x, memByte q.mem x = if k.addr ≤ x ∧ x < k.addr + n then
          (leBytes n (atomicNew (8 * n) k.aop old (leAt k.data 0 8 % 2 ^ (8 * n)) (leAt k.data 8 8 % 2 ^ (8 * n)))).getD (x - k.addr) 0 else memByte s.pkg.mem x)
      ∧ ∃ a : Packet, q.tf.outgoing = s.pkg.tf.outgoing ++ [a] ∧ a.type = 0x42 ∧ a.data = padTo (leBytes 8 old) 16) := by
  obtain ⟨d, rfl⟩ := arrive_fresh h
  have hhome := hhome.putDedup (pairKey { k with type := 2 }) d
  have hperformed := performRequest_atomic (k := { k with type := 2 }) hhome rfl hop haligned hn hold
  have hgood : badAtomic { k with type := 2 } = false := by
    simp only [badAtomic, beq_self_eq_true, Bool.true_and, Bool.or_eq_false_iff, bne_eq_false_iff_eq, decide_eq_false_iff_not]
    exact ⟨hn ▸ haligned, by omega⟩
  refine (request_done (k := { k with type := 2 }) hp (brings_store (k := k) (i := (.atomic k, 2)) (by simp)).1 hdest hknown hform (Nat.succ_ne_zero _) h
    (.inl (returnTurn_of_type (by simp))) hperformed rfl hgood (fun hw => by simp at hw)).mono ?_
  rintro q ⟨hmem, hparts, -, -, a, hsent, ha⟩
  obtain ⟨hpartsKept, htf, hbytes⟩ := (hhome.countMoved n).storeNow_shows
    (b := leBytes n (atomicNew (8 * n) k.aop old (leAt k.data 0 8 % 2 ^ (8 * n)) (leAt k.data 8 8 % 2 ^ (8 * n))))
  rw [leBytes_length] at hbytes
  refine ⟨hparts.trans (hpartsKept.trans (countMoved_parts _ _ _)), fun x => ?_, a, ?_, ha.type, ha.data⟩
  · rw [hmem, hbytes, countMoved_mem]
    rfl
  · rw [hsent, htf, countMoved, hhome.placed]
    rfl

end

section
variable {b pp c : Nat} (hcounts : CountsStep (begun s) b pp c) (hblock : bits k.addr 12 6 = b) (hform : malformed { k with type := 3 } = false)
  (h : arrive (begun s) { k with type := 3 } = (p, .fresh))
include hcounts hblock hform h

omit hcounts hblock in
/-- A COUNTER_INC that changes its block alone shows what it makes of the block. -/
theorem counterInc_changes {f : Blk → Blk} (hinc : homeInc p k.addr k.bytes k.step = (modBlk p b f, 0)) :
    Completes (.counterInc k) s (fun q => q.mem = s.pkg.mem ∧ q.parts = s.pkg.parts ∧ blk q b = f (blk s.pkg b)) := by
  have hperformed : performRequest p { k with type := 3 } = (modBlk p b f, 0, []) := by
    unfold performRequest
    dsimp only
    rw [hinc]
    rfl
  refine (request_done (k := { k with type := 3 }) hp (brings_store (k := k) (i := (.counterInc k, 3)) (by simp)).1 hdest hknown hform (Nat.succ_ne_zero _) h
    (.inl (returnTurn_of_type (by simp))) hperformed rfl rfl (fun hw => by simp at hw)).mono ?_
  obtain ⟨d, rfl⟩ := arrive_fresh h
  rintro q ⟨hmem, hparts, htp, -⟩
  exact ⟨hmem, hparts, by rw [blk_of_tp htp, blk_modBlk_self]; rfl⟩

theorem counterInc_counts (hstep : k.step = c) (hclear : (blk s.pkg b).beforeClear = none) (hgood : (part s.pkg pp).ru.poison = none) :
    Completes (.counterInc k) s (fun q => q.mem = s.pkg.mem ∧ q.parts = s.pkg.parts
      ∧ tget (blk q b).counters (bits k.addr 5 0) 0 = (tget (blk s.pkg b).counters (bits k.addr 5 0) 0 + k.bytes) % 2 ^ 32
      ∧ (∀ i, i ≠ bits k.addr 5 0 → tget (blk q b).counters i 0 = tget (blk s.pkg b).counters i 0)) := by
  obtain ⟨d, hd⟩ := arrive_fresh h
  have hinc := (hcounts.putDedup (pairKey { k with type := 3 }) d).counts (n := k.bytes) hblock hstep hclear hgood
  rw [← hd] at hinc
  refine (counterInc_changes hp hdest hknown hform h hinc).mono ?_
  rintro q ⟨hmem, hparts, hq⟩
  rw [hq]
  exact ⟨hmem, hparts, tget_tput_self _ _ _ _, fun i hi => tget_tput_ne _ _ _ hi⟩

theorem counterInc_tallies (hstep : k.step = (c + 1) % 2 ^ 32) (hroom : tget (blk s.pkg b).tallies (bits k.addr 5 0) 0 + k.bytes ≤ 65535) :
    Completes (.counterInc k) s (fun q => q.mem = s.pkg.mem ∧ q.parts = s.pkg.parts
      ∧ tget (blk q b).tallies (bits k.addr 5 0) 0 = tget (blk s.pkg b).tallies (bits k.addr 5 0) 0 + k.bytes
      ∧ (blk q b).counters = (blk s.pkg b).counters) := by
  obtain ⟨d, hd⟩ := arrive_fresh h
  have hinc := (hcounts.putDedup (pairKey { k with type := 3 }) d).tallies (n := k.bytes) hblock hstep hroom
  rw [← hd] at hinc
  refine (counterInc_changes hp hdest hknown hform h hinc).mono ?_
  rintro q ⟨hmem, hparts, hq⟩
  rw [hq]
  refine ⟨hmem, hparts, (tget_tput_self _ _ _ _).trans ?_, rfl⟩
  rw [hd]
  rfl

end

end

/-- Settles O43, by the request: each is fresh, finds its home clean or its block counting, and is performed there and then. -/
theorem requestsPerformed : Obligations.RequestsPerformed := by
  unfold Obligations.RequestsPerformed
  intro s k p hp hwf hdest hknown
  refine ⟨fun st off hplace hworks hshown hunfenced hanswers hunfilled hraw hfills => ?_,
    fun b pp c hblock howned hanswers hshown hunfenced hrun hform h => ?_⟩
  · have hhome : CleanHome (begun s) k.addr st off := ⟨hplace, hworks, hshown, hunfenced, hanswers, hunfilled, hraw, hfills, hwf⟩
    exact ⟨fun hform h => write_puts hp hdest hknown hhome hform h,
      fun hform h hop haligned n old hn hold => atomic_puts hp hdest hknown hhome hform h hop hn (hn ▸ haligned) hold⟩
  · have hcounts : CountsStep (begun s) b pp c := ⟨b.isLt, howned, hanswers, hshown, hunfenced, hrun⟩
    exact ⟨counterInc_counts hp hdest hknown hcounts hblock hform h, counterInc_tallies hp hdest hknown hcounts hblock hform h⟩

end Sys2Proof.Machine
end

section
/-! Refuting O44: a dispatched row that is sent again, and what the end of a command leaves of a package whose last output it is (R151, R351). -/

namespace Sys2Proof.Machine

/-- A package that a row or an end notice left last and that shows no trace of what ends a command: no packet waits for the router, no link is
lit and no hole known, no transaction has completed and a READ still waits, no region is fenced, and no entry of `endMarks`, nor a count of
packets led around a link or unreachable, was ever written. -/
structure Quiet (p : Pkg) : Prop where
  lastOut : ∃ k pp item, p.out.getLast? = some (.routeStore k pp item)
  noneOutgoing : p.tf.outgoing = []
  noHole : p.tf.holes = []
  unlit : ∀ l, linkState p l ≠ 2
  noneDone : p.ms.failed = []
  unsent : ∃ t ∈ p.ms.txns, t.type = 0 ∧ t.flag = false ∧ t.sent = false
  unfenced : p.tp.fenced = []
  unwritten : ∀ k ∈ keyAt Ix.tfDetoured 0 0 :: keyAt Ix.tfUnreachable 0 0 :: endMarks, tfind p.dict.vals k = none

section
variable {p q : Pkg}

theorem Quiet.of_fields (h : Quiet q) (hdict : q.dict = p.dict) (hout : q.out = p.out) (hms : q.ms = p.ms) (htp : q.tp = p.tp)
    (houtgoing : q.tf.outgoing = p.tf.outgoing) (hholes : q.tf.holes = p.tf.holes) : Quiet p where
  lastOut := hout ▸ h.lastOut
  noneOutgoing := houtgoing ▸ h.noneOutgoing
  noHole := hholes ▸ h.noHole
  unlit l := by rw [linkState, ← rd_of_dict hdict]; exact h.unlit l
  noneDone := hms ▸ h.noneDone
  unsent := hms ▸ h.unsent
  unfenced := htp ▸ h.unfenced
  unwritten := hdict ▸ h.unwritten

theorem Quiet.of_ite {a b : Pkg} {c : Prop} [Decidable c] (h : Quiet (if c then a else b)) (ha : Quiet a → Quiet p) (hb : Quiet b → Quiet p) :
    Quiet p := by
  split at h
  · exact ha h
  · exact hb h

theorem Written.not_quiet {k : Nat} (h : Written p k) (hk : k ∈ endMarks) : ¬ Quiet p := fun hp =>
  h (hp.unwritten k (List.mem_cons_of_mem _ (List.mem_cons_of_mem _ hk)))

/-- Steps none of which leaves a quiet package but of a quiet one leave none together. -/
theorem quiet_of_foldl {α : Type} {f : Pkg → α → Pkg} {l : List α} (hf : ∀ p, ∀ a ∈ l, Quiet (f p a) → Quiet p) {p : Pkg}
    (h : Quiet (l.foldl f p)) : Quiet p := by
  induction l generalizing p with
  | nil => exact h
  | cons a l ih => exact hf p a List.mem_cons_self (ih (fun q b hb => hf q b (List.mem_cons_of_mem _ hb)) h)

/-! What sends transactions sends the READ that waits. -/

theorem pump_not_quiet (p : Pkg) : ¬ Quiet (pump p) := fun h => by
  obtain ⟨t, ht, htype, hflag, hunsent⟩ := h.unsent
  exact Bool.false_ne_true (hunsent.symm.trans (pump_sends p t ht htype hflag))

theorem completeHere_not_quiet (p : Pkg) (t : Txn) (status : Nat) : ¬ Quiet (completeHere p t status) := fun h => by
  simpa [completeHere] using h.noneDone

theorem send_not_quiet (p : Pkg) (t : Txn) : ¬ Quiet (send p t) := by
  unfold send
  split
  · exact completeHere_not_quiet _ _ _
  · split
    · exact completeHere_not_quiet _ _ _
    · exact pump_not_quiet _

theorem quiet_of_settle {n : Nat} (h : Quiet (settle n p)) : Quiet p := by
  obtain hnone | ⟨q, hq⟩ := settle_pumps n p
  · rwa [hnone] at h
  · exact absurd (hq ▸ h) (pump_not_quiet q)

/-! What halts, loses or moves something writes an entry. -/

theorem haltPartition_not_quiet (p : Pkg) {pp : Nat} (hpp : pp < 12) (status : Nat) : ¬ Quiet (haltPartition p pp status) := by
  have hstatus : Written (modPc (last p Ix.pcLastStatus pp status) pp (fun q => { q with stepRunning := false })) (keyAt Ix.pcLastStatus 0 pp) :=
    written_wr_self p Ix.pcLastStatus pp status
  have hmark : keyAt Ix.pcLastStatus 0 pp ∈ endMarks := List.mem_append_right _ (List.mem_map_of_mem (List.mem_range.2 hpp))
  unfold haltPartition
  dsimp only
  split
  · exact hstatus.not_quiet hmark
  · refine ((hstatus.wr Ix.pcState pp 7).keeps (raise_keeps _ _ _ _ _) ?_).not_quiet hmark
    simp only [keyAt, commsKey, Ix.pcLastStatus]
    simp
    omega

theorem quiet_of_failServing {pp : Nat} (hpp : pp < 12) (h : Quiet (failServing p pp)) : Quiet p := by
  unfold failServing at h
  split at h
  · exact h
  · dsimp only at h
    split at h
    · exact h.of_fields rfl rfl rfl rfl rfl rfl
    · split at h <;> exact absurd h (haltPartition_not_quiet _ hpp _)

theorem reportLoss_not_quiet (p : Pkg) (pp cause tier unit base length : Nat) : ¬ Quiet (reportLoss p pp cause tier unit base length) :=
  Written.not_quiet (k := keyAt Ix.tmLossHead 0 0)
    (Written.keeps (p := touch (bump _ Ix.tmLossHead 0 1) Ix.tmLossLog 0) (written_wr_self _ _ _ _) (raise_keeps _ _ _ _ _) (by decide)) (by decide)

theorem fenceRegion_not_quiet (p : Pkg) {r : Nat} (hr : r < 12) (status : Nat) (h : ¬ Quiet p) : ¬ Quiet (fenceRegion p r status) := by
  by_cases hclosed : (p.tp.fenced.contains r || regionHidden p r) = true
  · rwa [fenceRegion, if_pos hclosed]
  · intro hbare
    obtain ⟨hopen, hshown⟩ := Bool.or_eq_false_iff.1 (Bool.eq_false_iff.2 hclosed)
    have hfenced := (fenceRegion_effect (r := ⟨r, hr⟩) status hopen hshown).1
    exact List.append_ne_nil_of_right_ne_nil _ (List.cons_ne_nil _ _) (hfenced.symm.trans hbare.unfenced)

theorem quiet_of_failChannel {ddr : Bool} {unit ch : Nat} (h : Quiet (failChannel p ddr unit ch)) : Quiet p := by
  have hforgets : Quiet (forgetBadLines p ddr unit) → Quiet p := fun h => h.of_fields rfl rfl rfl rfl rfl rfl
  unfold failChannel at h
  dsimp only at h
  split at h
  · split at h
    · exact absurd h (reportLoss_not_quiet _ _ _ _ _ _ _)
    · exact hforgets h
  · split at h
    · exact hforgets h
    next hworks =>
      have hunit : unit < 12 := by omega
      split at h
      · exact absurd h (reportLoss_not_quiet _ _ _ _ _ _ _)
      · exact absurd h (fenceRegion_not_quiet _ hunit _ (reportLoss_not_quiet _ _ _ _ _ _ _))
      · exact absurd h (fenceRegion_not_quiet _ hunit _ (reportLoss_not_quiet _ _ _ _ _ _ _))
      · exact hforgets h

theorem quiet_of_failBadChannels (h : Quiet (failBadChannels p)) : Quiet p :=
  quiet_of_foldl (fun _ _ _ hq => hq.of_ite quiet_of_failChannel quiet_of_failChannel) h

theorem commitMove_not_quiet (p : Pkg) (m : Move) : ¬ Quiet (commitMove p m) :=
  ((((written_wr_self _ Ix.tmMovesCommitted 0 _).wr Ix.tmBytesMoved 0 _).wr Ix.akPagesFree _ _).wr Ix.akPagesInUse _ _).not_quiet (by decide)

theorem quiet_of_abandonMoves {f : Move → Bool} (h : Quiet (abandonMoves p f)) : Quiet p := by
  unfold abandonMoves at h
  dsimp only at h
  split at h
  · exact h
  · exact absurd h ((written_wr_self _ Ix.tmMovesAbandoned 0 _).not_quiet (by decide))

theorem quiet_of_bringHome {l : Loan} (h : Quiet (bringHome p l)) : Quiet p := by
  refine quiet_of_abandonMoves (Quiet.of_fields (quiet_of_foldl (fun q s _ hq => ?_) h) rfl rfl rfl rfl rfl rfl)
  split at hq
  · exact hq
  · split at hq
    · exact hq.of_fields rfl rfl rfl rfl rfl rfl
    · exact hq

theorem sendTm_not_quiet (p : Pkg) (dest : Nat) (m : TmMessage) (echo : Option Nat) : ¬ Quiet (sendTm p dest m echo) := send_not_quiet _ _

theorem quiet_of_returnEmpty (h : Quiet (returnEmpty p)) : Quiet p :=
  quiet_of_foldl (fun _ _ _ hq => hq.of_ite (fun hsent => absurd hsent (sendTm_not_quiet _ _ _ _)) id) h

theorem quiet_of_readvertise (h : Quiet (readvertise p)) : Quiet p := by
  unfold readvertise at h
  split at h
  · exact h
  · exact Quiet.of_fields (quiet_of_foldl (fun _ _ _ hq => absurd hq (sendTm_not_quiet _ _ _ _)) h) rfl rfl rfl rfl rfl rfl

theorem quiet_of_borrowIfShort {pp : Nat} (h : Quiet (borrowIfShort p pp)) : Quiet p := by
  unfold borrowIfShort at h
  dsimp only at h
  split at h
  · exact h
  · split at h
    · exact h
    · exact absurd h (sendTm_not_quiet _ _ _ _)

theorem quiet_of_tierWork (h : Quiet (tierWork p)) : Quiet p := by
  unfold tierWork at h
  dsimp only at h
  have hoffer := quiet_of_readvertise (h.of_ite (quiet_of_foldl fun _ _ _ => quiet_of_borrowIfShort) id)
  have hmoves := quiet_of_foldl (fun _ _ _ => quiet_of_bringHome) (quiet_of_returnEmpty hoffer)
  exact quiet_of_foldl (fun _ _ _ hq => hq.of_ite (quiet_of_foldl fun _ _ _ hr => absurd hr (commitMove_not_quiet _ _)) id) hmoves

/-! What the links do sends something other than a row or an end notice. -/

/-- An entry that is given another value than 2 lights no link. -/
theorem unlit_wr {e : Entry} {sub v l : Nat} (h : linkState p l ≠ 2) (hv : v % 2 ^ e.type.width ≠ 2) : linkState (wr p e sub v) l ≠ 2 := by
  by_cases hkey : keyAt Ix.tfLinkState 0 l = keyAt e 0 sub
  · rw [linkState, rd, rdAt, wr, wrAt, hkey, tfind_tput_self]
    exact hv
  · rwa [linkState, rd, wr, rdAt_wrAt_ne p v hkey]

theorem emit_not_quiet {x : Out} (hx : ∀ k pp item, x ≠ .routeStore k pp item) : ¬ Quiet (emit p x) := fun h => by
  obtain ⟨k, pp, item, hlast⟩ := h.lastOut
  rw [emit, List.getLast?_concat] at hlast
  exact hx k pp item (Option.some.inj hlast)

theorem quiet_of_modLink {l : Nat} {f : Link → Link} (h : Quiet (modLink p l f)) : Quiet p := h.of_fields rfl rfl rfl rfl rfl rfl

theorem sendFlit_not_quiet (p : Pkg) (l ftype vc seq : Nat) (nak : Bool) (first : Nat) (payload : Bytes) :
    ¬ Quiet (sendFlit p l ftype vc seq nak first payload) := emit_not_quiet fun _ _ _ => Out.noConfusion

theorem quiet_of_sendPacket {l : Nat} {k : Packet} (h : Quiet (sendPacket p l k)) : Quiet p :=
  quiet_of_foldl (fun _ _ _ hq => absurd hq (sendFlit_not_quiet _ _ _ _ _ _ _ _)) (quiet_of_modLink h)

theorem quiet_of_drainLink {l : Nat} (h : Quiet (drainLink p l)) : Quiet p := by
  unfold drainLink at h
  revert h
  refine List.foldlRecOn (motive := fun a : Pkg × List Nat => Quiet a.1 → Quiet p) _ _ quiet_of_modLink fun a ih k _ h => ih ?_
  dsimp only at h
  split at h
  · exact quiet_of_sendPacket h
  · exact quiet_of_modLink h

theorem quiet_of_forward {k : Packet} {d : Nat} {arrived : Option Nat} (h : Quiet (forward p k d arrived)) : Quiet p := by
  unfold forward at h
  dsimp only at h
  split at h
  · exact h
  · exact quiet_of_modLink (quiet_of_drainLink h)

theorem respondError_not_quiet (p : Pkg) (k : Packet) (status : Nat) : ¬ Quiet (respondError p false k status) := fun h =>
  List.append_ne_nil_of_right_ne_nil _ (List.cons_ne_nil _ _) h.noneOutgoing

theorem quiet_of_bounce {k : Packet} {status : Nat} (h : Quiet (bounce p k status)) : Quiet p := by
  unfold bounce at h
  split at h
  · exact h
  · split at h
    · split at h
      · exact absurd h (completeHere_not_quiet _ _ _)
      · exact h
    · exact absurd h (respondError_not_quiet _ _ _)

/-- A packet led around a link is counted, and one that no link leads on as well. -/
theorem detour_not_quiet (p : Pkg) (k : Packet) (blocked : Nat) (arrived : Option Nat) : ¬ Quiet (detour p k blocked arrived) := fun h => by
  unfold detour at h
  dsimp only at h
  split at h
  · exact written_wr_self p Ix.tfDetoured 0 _ ((quiet_of_forward h).unwritten _ List.mem_cons_self)
  · exact (written_wr_self p Ix.tfUnreachable 0 _).wr Ix.tfLastStatus 0 _ ((quiet_of_bounce h).unwritten _ (by simp))

theorem Quiet.closed (h : Quiet p) (d : Nat) : open' p d = false := by
  have hlit : litLinks p d = [] := List.filter_eq_nil_iff.2 fun l _ => by simpa using h.unlit l
  simp [open', hlit]

/-- A package without a hole and without a lit link cannot route a packet unseen. -/
theorem route_not_quiet (p : Pkg) (k : Packet) (arrived : Option Nat) : ¬ Quiet (route p k arrived) := fun h => by
  have hholes {n : Nat} (hp : Quiet p) : p.tf.holes.contains n ≠ true := by simp [hp.noHole]
  unfold route at h
  split at h
  next hsrc => exact hholes h hsrc
  next =>
    split at h
    next hdest => exact hholes (quiet_of_bounce h) hdest
    next =>
      extract_lets dim k d at h
      by_cases hopen : open' p d = true
      · rw [if_pos hopen] at h
        exact Bool.false_ne_true (((quiet_of_forward h).closed d).symm.trans hopen)
      · rw [if_neg hopen] at h
        exact detour_not_quiet _ _ _ _ h

theorem quiet_of_flushPackets {n : Nat} (h : Quiet (flushPackets n p)) : Quiet p := by
  induction n generalizing p with
  | zero => exact h
  | succ n ih =>
    unfold flushPackets at h
    split at h
    · exact h
    · exact absurd (ih h) (route_not_quiet _ _ _)

/-- Asking for a profile writes the one asked for, whatever the lanes then dealt write. -/
theorem showProfile_not_quiet (p : Pkg) : ¬ Quiet (showProfile p) := by
  have hasked := written_wr_self p Ix.tfProfileActive 0 (profileAsked p)
  have hlanes := (lanesDealt_frame (wr p Ix.tfProfileActive 0 (profileAsked p))).vals _
    (not_lanesKey (e := Ix.tfProfileActive) (sub := 0) (by decide) (by decide) (by decide))
  rw [← showProfile_eq] at hlanes
  exact Written.not_quiet (k := keyAt Ix.tfProfileActive 0 0) (by rwa [Written, hlanes]) (by decide)

theorem quiet_of_followProfile (h : Quiet (followProfile p)) : Quiet p := by
  unfold followProfile at h
  exact h.of_ite id fun h => absurd h (showProfile_not_quiet p)

theorem quiet_of_flood {kind id d : Nat} (h : Quiet (flood p kind id d)) : Quiet p := by
  refine quiet_of_foldl (fun q x _ hq => ?_) h
  split at hq
  · exact absurd hq (emit_not_quiet fun _ _ _ => Out.noConfusion)
  · exact hq

theorem quiet_of_checkDirection {d : Nat} (h : Quiet (checkDirection p d)) : Quiet p := by
  unfold checkDirection at h
  dsimp only at h
  split at h
  · split at h
    · exact h
    · exact (quiet_of_flood h).of_fields rfl rfl rfl rfl rfl rfl
  · split at h
    · exact (quiet_of_flood h).of_fields rfl rfl rfl rfl rfl rfl
    · exact h

/-- A link that retrains sends its own capability record. -/
theorem handBack_not_quiet (p : Pkg) (l : Nat) : ¬ Quiet (handBack p l 1) := fun h => by
  have htrains := quiet_of_foldl (fun _ _ _ hq => absurd hq (route_not_quiet _ _ _)) (quiet_of_checkDirection h)
  obtain ⟨k, pp, item, hlast⟩ := htrains.lastOut
  change (_ ++ [Out.capability l _]).getLast? = _ at hlast
  rw [List.getLast?_concat] at hlast
  exact Out.noConfusion (Option.some.inj hlast)

theorem quiet_of_retrainNext {n : Nat} (h : Quiet (retrainNext n p)) : Quiet p := by
  induction n generalizing p with
  | zero => exact h
  | succ n ih =>
    unfold retrainNext at h
    split at h
    · exact h
    · split at h
      · exact h.of_fields rfl rfl rfl rfl rfl rfl
      · exact (ih h).of_ite (fun hback => absurd hback (handBack_not_quiet _ _)) fun hnext => hnext.of_fields rfl rfl rfl rfl rfl rfl

theorem quiet_of_returnKept (h : Quiet (returnKept p)) : Quiet p := by
  unfold returnKept at h
  exact quiet_of_foldl (fun _ _ _ => quiet_of_foldl fun _ _ _ => quiet_of_modLink) h

/-- What ends a command leaves no quiet package but of a quiet one. -/
theorem quiet_of_finish (h : Quiet (finish p)) : Quiet p := by
  have hfabric := quiet_of_flushPackets (quiet_of_followProfile (quiet_of_retrainNext (quiet_of_returnKept h)))
  have hmemory := quiet_of_failBadChannels (quiet_of_tierWork (quiet_of_settle hfabric))
  exact quiet_of_settle (quiet_of_foldl (fun _ pp hpp => quiet_of_failServing (List.mem_range.1 hpp)) hmemory)

end

/-- A row's WRITE to package 5, outstanding under tag 0 and never sent again so far. -/
def rowTxn : Txn := { source := 0x100, dest := 5, purpose := .route 0 0 0 (.row {}) }

/-- A running package with a row outstanding, and a READ that has not been sent. -/
def rowState : State :=
  let p := wr {} Ix.btStartState 0 8
  { pkg := { p with ms := { p.ms with txns := [rowTxn, { type := 0, sent := false }] } } }

set_option maxRecDepth 20000 in
/-- At its response time-out the row leaves as a row again, and no packet waits for the router. -/
theorem rowState_late_quiet : Quiet (responseLate (begun rowState) 5 0) where
  lastOut := ⟨_, _, _, by rfl⟩
  noneOutgoing := by decide +kernel
  noHole := by decide +kernel
  unlit l := unlit_wr (p := wr {} Ix.btStartState 0 8) (e := Ix.msResends)
    (unlit_wr (p := {}) (show Ix.tfLinkState.dflt ≠ 2 by decide) (by decide)) (by decide)
  noneDone := by decide +kernel
  unsent := by decide +kernel
  unfenced := by decide +kernel
  unwritten := by decide +kernel

theorem rowState_late_settled : Settled (responseLate (begun rowState) 5 0) := by
  unfold Settled
  decide +kernel

/-- Refutes O44: its clause on resends has the packet of a transaction go to the host die or wait for the router. The packet of a dispatched
row or end notice does neither: at its time-out it leaves as what it carries (R151, assumption 166), and no package in which a packet waits
for the router ends as this one does. -/
theorem not_responsesComplete : ¬ Obligations.ResponsesComplete := by
  unfold Obligations.ResponsesComplete
  intro h
  have hon : powered rowState.pkg = true := by decide
  obtain ⟨-, -, hlate⟩ := h rowState {} hon (.inr (by decide))
  obtain ⟨q, ⟨a, -, -, -, -, -, -, -, -, hwaits⟩, hstep⟩ := (hlate 5 0 0 rowTxn rfl rfl).1 (by decide)
  rw [exec_responseTimeout, execResponseTimeout] at hstep
  have hends := finish_eq_of_next hon hstep
  rw [settledPackageStays _ rowState_late_settled] at hends
  have hq : Quiet q := quiet_of_finish (hends ▸ rowState_late_quiet)
  exact List.append_ne_nil_of_right_ne_nil _ (List.cons_ne_nil _ _) (hwaits.symm.trans hq.noneOutgoing)

end Sys2Proof.Machine
end

section
/-! Requests of the host die (O45). -/

namespace Sys2Proof.Machine

@[simp] theorem countFailure_mem (p : Pkg) (status : Nat) : (countFailure p status).mem = p.mem := by
  simp only [countFailure, apply_ite Pkg.mem, bump_mem, last_mem, noteMs_mem, ite_self]

@[simp] theorem countFailure_parts (p : Pkg) (status : Nat) : (countFailure p status).parts = p.parts := by
  simp only [countFailure, apply_ite Pkg.parts, bump_parts, last_parts, noteMs_parts, ite_self]

/-- An ERROR to the host die is the last thing sent, and changes neither memory nor partitions (R363). -/
theorem respondError_toHost (p : Pkg) (k : Packet) (status : Nat) :
    (respondError p true k status).mem = p.mem ∧ (respondError p true k status).parts = p.parts
    ∧ ∃ a : Packet, (respondError p true k status).out.getLast? = some (.packet a) ∧ a.type = 0x43 ∧ a.status = status := by
  obtain ⟨a, hlast, htype, hstatus, -⟩ := respond_last (p := p) k 0x43 status []
  exact ⟨respond_mem .., respond_parts .., a, hlast, htype, hstatus⟩

/-- The package when a request of the host die is counted (0x5C19). -/
def hostCounted (p : Pkg) : Pkg := bump p Ix.hiHostRequests 0 1

/-- Partition of the host source that a request names (0x5808). -/
def hostPartition (p : Pkg) (k : Packet) : Nat := rd p Ix.msHostSourcePartition (k.srcUnit - 0x200)

/-- The width to which the address of an atomic is aligned (R342). -/
def atomicWidth (k : Packet) : Nat := if k.asize then 8 else 4

section
variable {p : Pkg} {k : Packet}

@[simp] theorem hostCounted_mem : (hostCounted p).mem = p.mem := rfl
@[simp] theorem hostCounted_parts : (hostCounted p).parts = p.parts := rfl

@[simp] theorem ownId_hostCounted : ownId (hostCounted p) = ownId p := rd_bump_ne _ _ (by decide) (by decide) (by decide)

@[simp] theorem hostFormOk_hostCounted : hostFormOk (hostCounted p) k = hostFormOk p k := by
  rw [hostFormOk, hostFormOk, ownId_hostCounted]

@[simp] theorem pcState_hostCounted (pp : Nat) : pcState (hostCounted p) pp = pcState p pp := by
  refine rdAt_wrAt_ne _ _ ?_
  simp only [keyAt, Ix.pcState, Ix.hiHostRequests]
  omega

theorem hostPartition_hostCounted (hform : hostFormOk p k = true) : hostPartition (hostCounted p) k = hostPartition p k := by
  have hunit : k.srcUnit < 0x240 := by
    simp only [hostFormOk, Bool.and_eq_true, decide_eq_true_eq] at hform
    omega
  exact rd_bump_ne _ _ (by decide) (by omega) (by decide)

/-- With every module down no request of the host die arrives (R366). -/
theorem hostAsks_unheard (hdown : anyModuleUp p = false) : hostAsks p k = p := by simp [hostAsks, hdown]

variable (hup : anyModuleUp p = true)
include hup

/-- With a module up a request is counted and then judged, check by check. -/
theorem hostAsks_heard : hostAsks p k
    = if !hostFormOk (hostCounted p) k then
        respondError (logViolation (last (hostCounted p) Ix.hiLastStatus 0 0x0F06) 3 0xFF k.srcUnit 0x0F06 k.step (routeHeader k)) true k 0x0F06
      else if malformed k then respondError (logViolation (hostCounted p) 3 0xFF k.srcUnit 0x0E07 k.step (routeHeader k)) true k 0x0E07
      else if absorbing (hostCounted p) (some (hostPartition (hostCounted p) k)) then respondError (hostCounted p) true k 0x0EE1
      else if k.type = 2 ∧ k.addr % atomicWidth k ≠ 0 then respondError (countFailure (hostCounted p) 0x0E04) true k 0x0E04
      else if k.type = 2 ∧ 6 < k.aop then respondError (countFailure (hostCounted p) 0x0E05) true k 0x0E05
      else if k.dest = ownId (hostCounted p) then send (hostCounted p) (hostTxn (hostCounted p) k)
      else sendFabric (hostCounted p) (hostTxn (hostCounted p) k) :=
  if_neg (by simp [hup])

theorem hostAsks_misformed (hform : hostFormOk p k = false) : hostAsks p k
    = respondError (logViolation (last (hostCounted p) Ix.hiLastStatus 0 0x0F06) 3 0xFF k.srcUnit 0x0F06 k.step (routeHeader k)) true k 0x0F06 := by
  rw [hostAsks_heard hup, hostFormOk_hostCounted, hform]
  rfl

variable (hform : hostFormOk p k = true)
include hform

theorem hostAsks_malformed (hmal : malformed k = true) :
    hostAsks p k = respondError (logViolation (hostCounted p) 3 0xFF k.srcUnit 0x0E07 k.step (routeHeader k)) true k 0x0E07 := by
  rw [hostAsks_heard hup, hostFormOk_hostCounted, hform, hmal]
  rfl

variable (hwell : malformed k = false)
include hwell

theorem hostAsks_resetting (hreset : pcState p (hostPartition p k) = 6) : hostAsks p k = respondError (hostCounted p) true k 0x0EE1 := by
  simp [hostAsks_heard hup, hform, hwell, absorbing, hostPartition_hostCounted hform, hreset]

/-- What becomes of a request whose source's partition does not reset, by its atomic and its destination. -/
theorem hostAsks_open (hopen : pcState p (hostPartition p k) ≠ 6) : hostAsks p k
    = if k.type = 2 ∧ k.addr % atomicWidth k ≠ 0 then respondError (countFailure (hostCounted p) 0x0E04) true k 0x0E04
      else if k.type = 2 ∧ 6 < k.aop then respondError (countFailure (hostCounted p) 0x0E05) true k 0x0E05
      else if k.dest = ownId p then send (hostCounted p) (hostTxn (hostCounted p) k)
      else sendFabric (hostCounted p) (hostTxn (hostCounted p) k) := by
  simp [hostAsks_heard hup, hform, hwell, absorbing, hostPartition_hostCounted hform, hopen]

end

section
variable {s : State} {k : Packet} (hp : powered s.pkg = true)
include hp

theorem hostRequest_unheard (hdown : anyModuleUp s.pkg = false) : Completes (.hostRequest k) s (fun q => q = begun s) :=
  completes_of hp (exec_hostRequest k s) (hostAsks_unheard (p := begun s) hdown)

/-- A request that its check answers with an ERROR, from a package with the same memory and partitions. -/
theorem hostRequest_refused {q : Pkg} {status : Nat} (h : hostAsks (begun s) k = respondError q true k status) (hmem : q.mem = s.pkg.mem)
    (hparts : q.parts = s.pkg.parts) : Completes (.hostRequest k) s (fun q => q.mem = s.pkg.mem ∧ q.parts = s.pkg.parts
      ∧ ∃ a : Packet, q.out.getLast? = some (.packet a) ∧ a.type = 0x43 ∧ a.status = status) := by
  refine completes_of hp (exec_hostRequest k s) ?_
  obtain ⟨hsame, hstay, hanswer⟩ := respondError_toHost q k status
  rw [h]
  exact ⟨hsame.trans hmem, hstay.trans hparts, hanswer⟩

variable (hup : anyModuleUp s.pkg = true)
include hup

theorem hostRequest_misformed (hform : hostFormOk s.pkg k = false) : Completes (.hostRequest k) s (fun q => rd q Ix.hiLastStatus 0 = 0x0F06
    ∧ q.mem = s.pkg.mem ∧ q.parts = s.pkg.parts ∧ ∃ a : Packet, q.out.getLast? = some (.packet a) ∧ a.type = 0x43 ∧ a.status = 0x0F06) := by
  refine completes_of hp (exec_hostRequest k s) ?_
  rw [hostAsks_misformed (p := begun s) hup hform]
  obtain ⟨hmem, hparts, hanswer⟩ := respondError_toHost
    (logViolation (last (hostCounted (begun s)) Ix.hiLastStatus 0 0x0F06) 3 0xFF k.srcUnit 0x0F06 k.step (routeHeader k)) k 0x0F06
  refine ⟨?_, hmem.trans (logViolation_mem ..), hparts.trans (logViolation_parts ..), hanswer⟩
  rw [respondError, respond_rd _ _ _ _ _ _ _ (by decide) (by decide), rd, logViolation_rdAt _ _ _ _ _ _ _ _ _ _ (by decide) (by decide) (by decide)]
  exact rd_last_self _ _ _ _

variable (hform : hostFormOk s.pkg k = true)
include hform

theorem hostRequest_malformed (hmal : malformed k = true) : Completes (.hostRequest k) s (fun q => q.mem = s.pkg.mem ∧ q.parts = s.pkg.parts
    ∧ ∃ a : Packet, q.out.getLast? = some (.packet a) ∧ a.type = 0x43 ∧ a.status = 0x0E07) :=
  hostRequest_refused hp (hostAsks_malformed (p := begun s) hup hform hmal) (logViolation_mem ..) (logViolation_parts ..)

variable (hwell : malformed k = false)
include hwell

theorem hostRequest_resetting (hreset : pcState s.pkg (hostPartition s.pkg k) = 6) : Completes (.hostRequest k) s (fun q => q.mem = s.pkg.mem
    ∧ q.parts = s.pkg.parts ∧ ∃ a : Packet, q.out.getLast? = some (.packet a) ∧ a.type = 0x43 ∧ a.status = 0x0EE1) :=
  hostRequest_refused hp (hostAsks_resetting (p := begun s) hup hform hwell hreset) rfl rfl

variable (hopen : pcState s.pkg (hostPartition s.pkg k) ≠ 6)
include hopen

theorem hostRequest_badAtomic (htype : k.type = 2) (hbad : k.addr % atomicWidth k ≠ 0 ∨ 6 < k.aop) : Completes (.hostRequest k) s (fun q =>
    q.mem = s.pkg.mem ∧ q.parts = s.pkg.parts ∧ ∃ a : Packet, q.out.getLast? = some (.packet a) ∧ a.type = 0x43
      ∧ a.status = if k.addr % atomicWidth k ≠ 0 then 0x0E04 else 0x0E05) := by
  have hcase := hostAsks_open (p := begun s) hup hform hwell hopen
  by_cases haligned : k.addr % atomicWidth k = 0
  · rw [if_neg (not_not.2 haligned)]
    rw [if_neg fun h => h.2 haligned, if_pos ⟨htype, hbad.resolve_left (not_not.2 haligned)⟩] at hcase
    exact hostRequest_refused hp hcase (countFailure_mem ..) (countFailure_parts ..)
  · rw [if_pos haligned]
    rw [if_pos ⟨htype, haligned⟩] at hcase
    exact hostRequest_refused hp hcase (countFailure_mem ..) (countFailure_parts ..)

/-- A valid request is this package's own, as its source's. -/
theorem hostRequest_issued (hvalid : k.type = 2 → k.addr % atomicWidth k = 0 ∧ k.aop ≤ 6) : Completes (.hostRequest k) s (fun q =>
    q = if k.dest = ownId s.pkg then send (hostCounted (begun s)) (hostTxn (hostCounted (begun s)) k)
        else sendFabric (hostCounted (begun s)) (hostTxn (hostCounted (begun s)) k)) := by
  refine completes_of hp (exec_hostRequest k s) ?_
  rw [hostAsks_open (p := begun s) hup hform hwell hopen, if_neg fun h => h.2 (hvalid h.1).1,
    if_neg fun h => Nat.not_lt.2 (hvalid h.1).2 h.2]
  rfl

end

end Sys2Proof.Machine
end

section
/-! Sideband frames (O45). -/

namespace Sys2Proof.Machine

/-- The frame that carries a datagram (R367). -/
def frameOf (d : Bytes) : Bytes := leBytes 2 d.length ++ [0, 0] ++ leBytes 4 (crc32 d).toNat ++ d

/-- Whether a frame is dropped (R367). -/
def frameBroken (b : Bytes) : Prop :=
  b.length < 8 ∨ 1280 < leAt b 0 2 ∨ leAt b 2 1 ≠ 0 ∨ (slice b 8 (leAt b 0 2)).length ≠ leAt b 0 2
  ∨ (crc32 (slice b 8 (leAt b 0 2))).toNat ≠ leAt b 4 4

theorem takeFrame_broken {p : Pkg} {b : Bytes} (h : frameBroken b) : takeFrame p b = bump p Ix.hiSidebandDropped 0 1 := if_pos h

theorem takeFrame_whole {p : Pkg} {b : Bytes} (h : ¬ frameBroken b) : takeFrame p b = emit p (.datagram (slice b 8 (leAt b 0 2))) := if_neg h

section
variable {d : Bytes} (hd : d.length ≤ 1280)
include hd

theorem frameOf_size : leAt (frameOf d) 0 2 = d.length := leNat_leBytes 2 _ (by omega)

theorem frameOf_datagram : slice (frameOf d) 8 (leAt (frameOf d) 0 2) = d := by
  rw [frameOf_size hd]
  exact List.take_length

theorem frameOf_whole : ¬ frameBroken (frameOf d) := by
  have hlength : (frameOf d).length = 8 + d.length := by simp [frameOf, leBytes_length]; omega
  have hcrc : leAt (frameOf d) 4 4 = (crc32 d).toNat := leNat_leBytes 4 _ (crc32 d).isLt
  have hchannel : leAt (frameOf d) 2 1 = 0 := rfl
  rw [frameBroken, frameOf_datagram hd, frameOf_size hd, hlength, hcrc, hchannel]
  omega

end

end Sys2Proof.Machine
end

section
/-! Window tables, and stores to the control window (O45). -/

namespace Sys2Proof.Machine

/-- Whether a window table keeps its layout (R339). -/
def windowTableOk (p : Pkg) (data : Bytes) : Prop :=
  data.length % 32 = 0 ∧ data.length ≤ 131072 ∧ (records 32 data).all (windowOk p) = true ∧ windowsApart (records 32 data) = true

theorem writeWindowTable_taken {p : Pkg} {data : Bytes} (h : windowTableOk p data) :
    writeWindowTable p data = (setWindows p (records 32 data), accepted) := if_pos h

theorem writeWindowTable_refused {p : Pkg} {data : Bytes} (h : ¬ windowTableOk p data) :
    writeWindowTable p data = (last p Ix.msLastStatus 0 0x0E06, invalid 0x0E06) := if_neg h

theorem setWindows_table (p : Pkg) (l : List Bytes) : rdB (setWindows p l) Ix.msWindowTable 0 = l.flatten :=
  (rdB_wr_ne _ _ (by decide) (by decide) (by decide)).trans (rdB_wrB_self _ _ _ _)

/-- An address of the control window is a control register's place (R236, R237). -/
theorem place_of_controlOffset {a o : Nat} (h : controlOffset a = some o) : place a = .control o := by
  unfold controlOffset at h
  split at h
  case isTrue hwindow =>
    obtain rfl := Option.some.inj h
    rw [place, if_neg (by omega), if_neg (by omega), if_neg (by omega), if_neg (by omega), if_pos hwindow]
  case isFalse => cases h

/-- What a home makes of a store to COMPLETION_CONSUMED outside its partition's reset (R186, R212, R341). -/
theorem homeStore_completion {p : Pkg} {a o pp : Nat} {b : Bytes} {poison flag firmware : Bool} {source step : Nat} (hoffset : controlOffset a = some o)
    (hreg : regAt o = .completion pp) (hopen : pcState p pp ≠ 6) :
    homeStore p a b poison flag firmware source step = if b.length = 8 then (completionConsumed p pp (leNat b), 0) else (p, 0x0E05) := by
  have hpart : partOfAddr p a = some pp := by simp only [partOfAddr, place_of_controlOffset hoffset, hreg]
  simp [homeStore, hpart, absorbing, hopen, hoffset, controlStore, hreg]

section
variable {s : State} {a : Nat} {wide firmware : Bool} {v : DWord} (hp : powered s.pkg = true)
include hp

/-- A store that its register does not take is answered with 0x0E05 and changes nothing more (R341). -/
theorem controlRegisterWrite_untaken (h : (if (controlOffset a).isSome then
      homeStore (begun s) a (leBytes (if wide then 8 else 4) v.toNat) false false firmware 0x092 0 else (begun s, 0x0E05)) = (begun s, 0x0E05)) :
    Completes (.controlRegisterWrite a wide v firmware) s (fun q => q.mem = s.pkg.mem ∧ q.parts = s.pkg.parts
      ∧ ∃ k : Packet, q.out.getLast? = some (.packet k) ∧ k.type = 0x43 ∧ k.status = 0x0E05) := by
  refine completes_of hp (exec_controlRegisterWrite a wide v firmware s) ?_
  rw [h]
  exact ⟨registerAnswer_mem _ _ _, registerAnswer_parts _ _ _, registerAnswer_error _ _ _ _ (by decide)⟩

variable {o pp : Nat} (hoffset : controlOffset a = some o) (hreg : regAt o = .completion pp) (hopen : pcState s.pkg pp ≠ 6)
include hoffset hreg hopen

theorem controlRegisterWrite_completion : Completes (.controlRegisterWrite a true v firmware) s (fun q => ∃ p,
    (part p pp).sc.completionConsumed = v.toNat ∧ p.dict = s.pkg.dict ∧ p.mem = s.pkg.mem ∧ q = registerAnswer (pumpCompletions p pp, 0) 0x41 []) := by
  refine completes_of hp (exec_controlRegisterWrite a true v firmware s) ?_
  rw [if_pos (by rw [hoffset]; rfl), homeStore_completion (p := begun s) hoffset hreg hopen, if_pos rfl, if_pos (leBytes_length 8 _),
    leNat_leBytes 8 _ v.isLt]
  exact ⟨modSc (begun s) pp (fun q => { q with completionConsumed := v.toNat }), by rw [part_modSc], rfl, rfl, rfl⟩

theorem controlRegisterWrite_narrow : Completes (.controlRegisterWrite a false v firmware) s (fun q => q.mem = s.pkg.mem ∧ q.parts = s.pkg.parts
    ∧ ∃ k : Packet, q.out.getLast? = some (.packet k) ∧ k.type = 0x43 ∧ k.status = 0x0E05) := by
  refine controlRegisterWrite_untaken hp ?_
  rw [if_pos (by rw [hoffset]; rfl), homeStore_completion (p := begun s) hoffset hreg hopen, leBytes_length]
  rfl

end

/-- Settles O45, by the command and by what its checks find. -/
theorem hostSideCompletes : Obligations.HostSideCompletes := by
  unfold Obligations.HostSideCompletes
  intro s hp
  refine ⟨fun k => ⟨fun hup hform hwell hopen hvalid => ?issued, hostRequest_misformed hp, hostRequest_malformed hp, hostRequest_resetting hp,
    hostRequest_badAtomic hp, hostRequest_unheard hp⟩, fun d hd => ?frame, fun b hbroken => ?dropped, fun hbatch => ?announced, fun hnone => ?silent,
    fun n => ?consumed, fun data hopen => ⟨fun hok => ?windows, fun hbad => ?refused⟩, fun mask hopen => ?fences, fun a wide firmware v =>
    ⟨fun hout => ?outside, fun o pp hoffset hreg hopen => ⟨?wide, ?narrow⟩⟩⟩
  case issued =>
    refine (hostRequest_issued hp hup hform hwell hopen hvalid).mono fun q hq => ⟨hostCounted (begun s), hostTxn (hostCounted (begun s)) k, ?_⟩
    exact ⟨rd_bump_self _ _ _ _, rfl, rfl, rfl, rfl, rfl, rfl, rfl, rfl, rfl, rfl, rfl, rfl, rfl, hq⟩
  case frame =>
    refine completes_of hp (exec_sidebandFrame _ s) ?_
    rw [← frameOf, takeFrame_whole (frameOf_whole hd), frameOf_datagram hd]
    exact ⟨rfl, rfl, rfl, rfl⟩
  case dropped =>
    refine completes_of hp (exec_sidebandFrame b s) ?_
    rw [takeFrame_broken hbroken]
    exact ⟨rd_bump_self _ _ _ _, rfl, rfl, rfl⟩
  case announced =>
    exact completes_of hp (exec_eventRingAnnounce s) ⟨{ begun s with hi := { s.pkg.hi with unannounced := 0 } }, rfl, rfl, rfl, if_neg hbatch⟩
  case silent => exact completes_of hp (exec_eventRingAnnounce s) (if_pos hnone)
  case consumed =>
    exact completes_of hp (exec_eventConsumedStore n s) ⟨{ begun s with hi := { s.pkg.hi with consumed := n.toNat } }, rfl, rfl, rfl, rfl, rfl⟩
  case windows =>
    refine completes_of_write hp (exec_windowTableWrite data s) hopen (writeWindowTable_taken (p := begun s) hok) ?_
    exact ⟨setWindows_table _ _, setWindows_mem _ _, setWindows_parts _ _, answered_last _ _ _⟩
  case refused =>
    refine completes_of_write hp (exec_windowTableWrite data s) hopen (writeWindowTable_refused (p := begun s) hbad) ?_
    exact ⟨rdB_wr_ne _ _ (by decide) (by decide) (by decide), rd_last_self _ _ _ _, answered_last _ _ _⟩
  case fences => exact completes_of_write hp (exec_hostFenceReset mask s) hopen rfl rfl
  case outside => exact controlRegisterWrite_untaken hp (by rw [hout]; rfl)
  case wide =>
    rintro rfl
    exact controlRegisterWrite_completion hp hoffset hreg hopen
  case narrow =>
    rintro rfl
    exact controlRegisterWrite_narrow hp hoffset hreg hopen

end Sys2Proof.Machine
end

section
/-! UCIe modules, and the loss of the host die (O46). -/

namespace Sys2Proof.Machine

/-- A transaction that is outstanding after a turn of the pump was so before, or has had the turn: it still waits, or it has been sent. -/
theorem mem_pumpOne {a : Pkg × List Txn} {t u : Txn} (h : u ∈ (pumpOne a t).2) : u ∈ a.2 ∨ u = t ∨ u = (transmit a.1 a.2 t).2 := by
  have hadd : ∀ v : Txn, u ∈ a.2 ++ [v] → u ∈ a.2 ∨ u = v := fun v hu => (List.mem_append.1 hu).imp_right List.mem_singleton.1
  unfold pumpOne at h
  split at h
  · exact (hadd t h).imp_right .inl
  · split at h
    · exact .inl h
    · split at h
      · exact .inl h
      · split at h
        · exact (hadd _ h).imp_right .inr
        · exact (hadd t h).imp_right .inl

theorem pumpOne_toHost {a : Pkg × List Txn} {t : Txn} (h : ∀ u ∈ a.2, u.toHost = false) (ht : t.toHost = false) :
    ∀ u ∈ (pumpOne a t).2, u.toHost = false := fun u hu => by
  obtain hrest | rfl | rfl := mem_pumpOne hu
  · exact h u hrest
  · exact ht
  · exact ht

/-- The pump makes no transaction one to the host die. -/
theorem pump_toHost {p : Pkg} (h : ∀ t ∈ p.ms.txns, t.toHost = false) : ∀ t ∈ (pump p).ms.txns, t.toHost = false :=
  List.foldlRecOn (motive := fun a => ∀ t ∈ a.2, t.toHost = false) p.ms.txns pumpOne (by simp) fun _ hrest t ht => pumpOne_toHost hrest (h t ht)

theorem anyModuleUp_iff (p : Pkg) : anyModuleUp p = true ↔ ∃ n < 4, moduleUp p n = true := by
  simp [anyModuleUp]

theorem noModule_some {p : Pkg} (h : anyModuleUp p = true) : noModule p = p := if_pos h

theorem noModule_none {p : Pkg} (h : anyModuleUp p = false) : noModule p
    = pump ((p.ms.txns.filter (·.toHost)).foldl (fun p t => completeHere p t 0x0F05)
        { p with ms := { p.ms with txns := p.ms.txns.filter (fun t => !t.toHost) } }) :=
  if_neg (by simp [h])

/-- Without a module nothing to the host die stays outstanding (R366). -/
theorem noModule_toHost {p : Pkg} (h : anyModuleUp p = false) : ∀ t ∈ (noModule p).ms.txns, t.toHost = false := by
  rw [noModule_none h]
  refine pump_toHost fun t ht => ?_
  rw [foldl_completeHere] at ht
  simpa using (List.mem_filter.1 ht).2

/-- The package when a module has left service for a state, before what is bound for the host is looked at (R365). -/
def moduleLost (p : Pkg) (m st : Nat) : Pkg :=
  raiseAs (bump (wr p Ix.hiModuleState m st) Ix.hiModuleDownCount m 1) Ix.hiLastStatus 0 0x0F03 0xFF m 0

/-- The package when a module has returned, before the waiting events follow (R365). -/
def moduleReturned (p : Pkg) (m rate repaired : Nat) : Pkg :=
  raiseAs (wr (wr (wr p Ix.hiModuleState m (if repaired = 0 then 2 else 3)) Ix.hiModuleRate m rate) Ix.hiModuleRepairedLanes m repaired)
    Ix.hiLastStatus 0 0x0F04 0xFF m 0

section
variable {p : Pkg} {m : Nat}

theorem dropModule_down (st : Nat) (h : moduleUp p m = false) : dropModule p m st = p := if_pos (by rw [h]; rfl)

theorem dropModule_up (st : Nat) (h : moduleUp p m = true) : dropModule p m st = noModule (moduleLost p m st) := if_neg (by rw [h]; decide)

theorem restoreModule_ignored {rate repaired : Nat} (h : rd p Ix.hiModuleState m ≠ 1 ∨ moduleRateOk p rate = false) :
    restoreModule p m rate repaired = p := if_pos h

theorem restoreModule_trained {rate repaired : Nat} (htraining : rd p Ix.hiModuleState m = 1) (hrate : moduleRateOk p rate = true) :
    restoreModule p m rate repaired = drainEvents 1025 (moduleReturned p m rate repaired) :=
  if_neg (by simp [htraining, hrate])

variable (hm : m < 256)
include hm

/-- Entries of a module are not among the counters that an event advances. -/
theorem moduleKey_quiet {e : Entry} (he : e.index < 0x5C14) (hms : e.index ≠ 0x5810) : commsKey (keyAt e 0 m) = false :=
  commsKey_false hm ⟨hms, by omega, by omega, by omega, by omega⟩

theorem moduleLost_shows {st : Nat} (hst : st < 2 ^ 8) :
    rd (moduleLost p m st) Ix.hiModuleState m = st
    ∧ rd (moduleLost p m st) Ix.hiModuleDownCount m = (rd p Ix.hiModuleDownCount m + 1) % 2 ^ 32
    ∧ rd (moduleLost p m st) Ix.hiLastStatus 0 = 0x0F03 ∧ (moduleLost p m st).mem = p.mem ∧ (moduleLost p m st).parts = p.parts := by
  have hkeeps : KeepsState _ (moduleLost p m st) := raiseAs_keeps _ Ix.hiLastStatus 0 0x0F03 0xFF m 0
  refine ⟨?_, ?_, ?_, hkeeps.mem, hkeeps.parts⟩
  · rw [hkeeps.rd _ _ (moduleKey_quiet hm (by decide) (by decide)), rd_last_ne _ _ (by decide) hm (by decide),
      rd_bump_ne _ _ (by decide) hm hm, rd_wr_self]
    exact Nat.mod_eq_of_lt hst
  · rw [hkeeps.rd _ _ (moduleKey_quiet hm (by decide) (by decide)), rd_last_ne _ _ (by decide) hm (by decide),
      rd_bump_self, rd_wr_ne _ _ (by decide) hm hm]
    rfl
  · rw [hkeeps.rd _ _ (by decide), rd_last_self]
    rfl

/-- The other modules stay as they are. -/
theorem moduleUp_moduleLost {n st : Nat} (hn : n < 256) (hne : n ≠ m) : moduleUp (moduleLost p m st) n = moduleUp p n := by
  have hstate : rd (moduleLost p m st) Ix.hiModuleState n = rd p Ix.hiModuleState n := by
    rw [moduleLost, (raiseAs_keeps _ _ _ _ _ _ _).rd _ _ (moduleKey_quiet hn (by decide) (by decide)), rd_last_ne _ _ (by decide) hn (by decide),
      rd_bump_ne _ _ (by decide) hn hm]
    exact rdAt_wrAt_ne _ _ (keyAt_sub_ne hne)
  rw [moduleUp, moduleUp, hstate]

theorem moduleReturned_shows {rate repaired : Nat} (hrate : rate < 2 ^ 8) :
    let q := drainEvents 1025 (moduleReturned p m rate repaired)
    rd q Ix.hiModuleState m = (if repaired = 0 then 2 else 3) ∧ rd q Ix.hiModuleRate m = rate ∧ rd q Ix.hiLastStatus 0 = 0x0F04 ∧ q.mem = p.mem
    ∧ q.parts = p.parts := by
  have hkeeps : KeepsState _ (drainEvents 1025 (moduleReturned p m rate repaired)) :=
    (raiseAs_keeps _ Ix.hiLastStatus 0 0x0F04 0xFF m 0).trans (drainEvents_keeps 1025 _)
  refine ⟨?_, ?_, ?_, hkeeps.mem, hkeeps.parts⟩
  · rw [hkeeps.rd _ _ (moduleKey_quiet hm (by decide) (by decide)), rd_last_ne _ _ (by decide) hm (by decide),
      rd_wr_ne _ _ (by decide) hm hm, rd_wr_ne _ _ (by decide) hm hm, rd_wr_self]
    split <;> rfl
  · rw [hkeeps.rd _ _ (moduleKey_quiet hm (by decide) (by decide)), rd_last_ne _ _ (by decide) hm (by decide),
      rd_wr_ne _ _ (by decide) hm hm, rd_wr_self]
    exact Nat.mod_eq_of_lt hrate
  · rw [hkeeps.rd _ _ (by decide), rd_last_self]
    rfl

end

theorem moduleRate_lt {p : Pkg} {rate : Nat} (h : moduleRateOk p rate = true) : rate < 2 ^ 8 := by
  have hrates : rate = 8 ∨ rate = 16 ∨ rate = 32 := by simpa using (Bool.and_eq_true_iff.1 h).1
  omega

/-- The package when Drydown has begun, before its partitions are told to stop (R458). -/
def drydownBegun (p : Pkg) (causing : Option FailedUnit) (restart : Bool) : Pkg :=
  raise0 (wr { p with ru := { p.ru with causingUnit := causing, restartWhenDrained := restart } } Ix.ruDrydownState 0 1) 0x120D

section
variable {p : Pkg} {causing : Option FailedUnit} {restart : Bool}

theorem drydownBegun_keeps : KeepsState (wr { p with ru := { p.ru with causingUnit := causing, restartWhenDrained := restart } } Ix.ruDrydownState 0 1)
    (drydownBegun p causing restart) := raise0_keeps _ _

theorem pcState_drydownBegun {pp : Nat} (hpp : pp < 12) : pcState (drydownBegun p causing restart) pp = pcState p pp := by
  rw [pcState, drydownBegun_keeps.rd _ _ (commsKey_false (by omega) (by decide))]
  exact rd_wr_ne _ _ (by decide) (by omega) (by decide)

/-- Where no partition works, Drydown has none to stop (R459). -/
theorem startDrydown_idle (hnew : rd p Ix.ruDrydownState 0 = 0) (hidle : ∀ pp < 12, pcState p pp ∈ [0, 1, 7]) :
    startDrydown p causing restart = drydownBegun p causing restart := by
  rw [startDrydown, if_neg (not_not.2 hnew)]
  refine foldl_stays fun pp hpp => if_pos ?_
  have hlt : pp < 12 := List.mem_range.1 hpp
  rw [← drydownBegun, pcState_drydownBegun hlt]
  simpa using hidle pp hlt

theorem hostLost_heard (h : anyModuleUp p = true) : hostLost p = p := if_pos h

theorem hostLost_gone (h : anyModuleUp p = false) : hostLost p = startDrydown p none true := if_neg (by simp [h])

end

section
variable {s : State} (hp : powered s.pkg = true)
include hp

theorem ucieModuleDown_other (m : Fin 4) (hup : moduleUp s.pkg m = true) (hother : ∃ n < 4, n ≠ m.val ∧ moduleUp s.pkg n = true) :
    Completes (.ucieModuleDown m) s (fun q => rd q Ix.hiModuleState m = 1
      ∧ rd q Ix.hiModuleDownCount m = (rd s.pkg Ix.hiModuleDownCount m + 1) % 2 ^ 32 ∧ rd q Ix.hiLastStatus 0 = 0x0F03
      ∧ q.mem = s.pkg.mem ∧ q.parts = s.pkg.parts) := by
  refine completes_of hp (exec_ucieModuleDown m s) ?_
  obtain ⟨n, hn, hne, hnup⟩ := hother
  have hlit : anyModuleUp (moduleLost (begun s) m 1) = true :=
    (anyModuleUp_iff _).2 ⟨n, hn, (moduleUp_moduleLost (by omega) (by omega) hne).trans hnup⟩
  rw [dropModule_up (p := begun s) 1 hup, noModule_some hlit]
  exact moduleLost_shows (by omega) (by decide)

theorem ucieModuleDown_only (m : Fin 4) (hup : moduleUp s.pkg m = true) (hothers : ∀ n < 4, n ≠ m.val → moduleUp s.pkg n = false) :
    Completes (.ucieModuleDown m) s (fun q => ∃ p, rd p Ix.hiModuleState m = 1
      ∧ rd p Ix.hiModuleDownCount m = (rd s.pkg Ix.hiModuleDownCount m + 1) % 2 ^ 32 ∧ rd p Ix.hiLastStatus 0 = 0x0F03
      ∧ p.mem = s.pkg.mem ∧ p.parts = s.pkg.parts ∧ q = noModule p ∧ ∀ t ∈ q.ms.txns, t.toHost = false) := by
  refine completes_of hp (exec_ucieModuleDown m s) ?_
  obtain ⟨hstate, hcount, hlast, hmem, hparts⟩ := moduleLost_shows (p := begun s) (m := m) (by omega) (st := 1) (by decide)
  have hdark : anyModuleUp (moduleLost (begun s) m 1) = false := by
    refine Bool.eq_false_iff.2 fun hany => ?_
    obtain ⟨n, hn, hnup⟩ := (anyModuleUp_iff _).1 hany
    by_cases hne : n = m.val
    · rw [hne, moduleUp, hstate] at hnup
      exact absurd hnup (by decide)
    · rw [moduleUp_moduleLost (by omega) (by omega) hne] at hnup
      exact Bool.false_ne_true ((hothers n hn hne).symm.trans hnup)
  rw [dropModule_up (p := begun s) 1 hup]
  exact ⟨_, hstate, hcount, hlast, hmem, hparts, rfl, noModule_toHost hdark⟩

theorem ucieModuleRestored_trained (m : Fin 4) {rate repaired : Nat} (htraining : rd s.pkg Ix.hiModuleState m = 1)
    (hrate : moduleRateOk s.pkg rate = true) : Completes (.ucieModuleRestored m rate repaired) s (fun q =>
      rd q Ix.hiModuleState m = (if repaired = 0 then 2 else 3) ∧ rd q Ix.hiModuleRate m = rate ∧ rd q Ix.hiLastStatus 0 = 0x0F04
      ∧ q.mem = s.pkg.mem ∧ q.parts = s.pkg.parts) := by
  refine completes_of hp (exec_ucieModuleRestored m rate repaired s) ?_
  rw [restoreModule_trained (p := begun s) htraining hrate]
  exact moduleReturned_shows (p := begun s) (by omega) (moduleRate_lt hrate)

theorem hostDieLoss_drains (hdown : anyModuleUp s.pkg = false) (hnew : rd s.pkg Ix.ruDrydownState 0 = 0)
    (hidle : ∀ pp < 12, pcState s.pkg pp ∈ [0, 1, 7]) : Completes .hostDieLoss s (fun q =>
      rd q Ix.ruDrydownState 0 = 1 ∧ q.ru.restartWhenDrained = true ∧ q.mem = s.pkg.mem ∧ q.parts = s.pkg.parts) := by
  refine completes_of hp (exec_hostDieLoss s) ?_
  have hkeeps := drydownBegun_keeps (p := begun s) (causing := none) (restart := true)
  rw [hostLost_gone (p := begun s) hdown, startDrydown_idle (p := begun s) hnew hidle]
  exact ⟨(hkeeps.rd _ _ (by decide)).trans (rd_wr_self _ _ _ _), congrArg Ru.restartWhenDrained hkeeps.ru, hkeeps.mem, hkeeps.parts⟩

end

end Sys2Proof.Machine
end

section
/-! Management ports, rack messages, replica rounds and telemetry (O46). -/

namespace Sys2Proof.Machine

/-- Key under which the last accepted sequence of a sender, type and key epoch stands (R373). -/
def rackKey (m : RackMessage) : Nat := (m.sender * 256 + m.type) * 2 ^ 32 + m.keyEpoch

/-- Whether a message keeps R372, for a receiver of its type. -/
structure RackForm (m : RackMessage) (type : Nat) : Prop where
  magic : m.magic = 0xC1A7
  version : m.version = 1
  type : m.type = type
  reserved : m.reserved = 0
  whole : m.bodyBytes = m.body.length
  bounded : m.bodyBytes ≤ 1404

/-- The package when a datagram has come in on a port (0x101A). -/
def rackCounted (p : Pkg) (port : Nat) : Pkg := bump p Ix.mpRxDatagrams port 1

/-- The package when a message is accepted: its sequence is the last one of its sender, type and epoch (R373). -/
def rackTaken (p : Pkg) (port : Nat) (m : RackMessage) : Pkg :=
  { rackCounted p port with mp := { p.mp with rackSeen := tput p.mp.rackSeen (rackKey m) m.sequence } }

theorem rackTaken_counts (p : Pkg) (port : Nat) (m : RackMessage) :
    rd (rackTaken p port m) Ix.mpRxDatagrams port = (rd p Ix.mpRxDatagrams port + 1) % 2 ^ 64 := rd_bump_self p _ _ _

theorem rackTaken_seen (p : Pkg) (port : Nat) (m : RackMessage) : tget (rackTaken p port m).mp.rackSeen (rackKey m) 0 = m.sequence :=
  tget_tput_self _ _ _ _

/-- Only a CAP is bound to its sender (R373). -/
theorem RackForm.sender_free {m : RackMessage} {type : Nat} (h : RackForm m type) (htype : type ≠ 1) : m.type = 1 → m.sender = 0xFFFF :=
  fun hcap => absurd (h.type.symm.trans hcap) htype

section
variable {p : Pkg} {port type : Nat} {m : RackMessage} {f : Pkg → Pkg}

theorem ownId_rackTaken (hport : port < 256) : ownId (rackTaken p port m) = ownId p := rd_bump_ne p _ (by decide) (by decide) hport

/-- The last cap accepted is in force or waits for its tick; taking a message in changes neither. -/
theorem lastCapEpoch_rackTaken (hport : port < 256) : lastCapEpoch (rackTaken p port m) = lastCapEpoch p := by
  have hforce : rd (rackTaken p port m) Ix.pwCapEpoch 0 = rd p Ix.pwCapEpoch 0 := rd_bump_ne p _ (by decide) (by decide) hport
  rw [lastCapEpoch, lastCapEpoch, hforce]
  rfl

variable (hup : rd p Ix.mpPortState port = 2) (hform : RackForm m type)
include hup hform

/-- On a port that is up a well-formed message is counted, and judged by its tag, its sequence and its sender (R373). -/
theorem rackArrives_formed : rackArrives port type m f p
    = if !m.tagVerifies || !((p.flash.rackKeys.take 2).map (·.1)).contains m.keyEpoch then
        rackDrop (bump (rackCounted p port) Ix.mpRxDropped port 1) 1
      else if m.sequence ≤ tget p.mp.rackSeen (rackKey m) 0 then rackDrop (rackCounted p port) 2
      else if m.type = 1 ∧ m.sender ≠ 0xFFFF then rackDrop (rackCounted p port) 3
      else f (rackTaken p port m) := by
  obtain ⟨hmagic, hversion, htype, hreserved, hwhole, hbounded⟩ := hform
  rw [rackArrives, if_neg (not_not.2 hup)]
  exact if_neg (by simp [hmagic, hversion, htype, hreserved, hwhole, hwhole ▸ hbounded])

theorem rackArrives_unverified (htag : m.tagVerifies = false) :
    rackArrives port type m f p = rackDrop (bump (rackCounted p port) Ix.mpRxDropped port 1) 1 := by
  rw [rackArrives_formed hup hform, htag]
  rfl

theorem rackArrives_accepted (htag : m.tagVerifies = true) (hepoch : ((p.flash.rackKeys.take 2).map (·.1)).contains m.keyEpoch = true)
    (hnew : tget p.mp.rackSeen (rackKey m) 0 < m.sequence) (hsender : m.type = 1 → m.sender = 0xFFFF) :
    rackArrives port type m f p = f (rackTaken p port m) := by
  rw [rackArrives_formed hup hform, htag, hepoch]
  exact (if_neg (Nat.not_le.2 hnew)).trans (if_neg fun h => h.2 (hsender h.1))

end

/-- Whether a CAP body keeps its layout, is meant for this package and is newer than the last one accepted (R374). -/
def capAccepted (p : Pkg) (b : Bytes) : Prop :=
  leAt b 12 2 ≤ 512 ∧ b.length = 16 + 2 * leAt b 12 2
  ∧ (leAt b 12 2 = 0 ∨ ((records 2 (b.drop 16)).map leNat).contains (ownId p) = true) ∧ lastCapEpoch p < leAt b 0 4

theorem capAccepted_rackTaken {p : Pkg} {port : Nat} {m : RackMessage} {b : Bytes} (hport : port < 256) :
    capAccepted (rackTaken p port m) b ↔ capAccepted p b := by
  rw [capAccepted, capAccepted, ownId_rackTaken hport, lastCapEpoch_rackTaken hport]

/-- An accepted cap of at least 800 W waits for the tick, held to 2,800 W (R374, R494). -/
theorem takeCap_accepted {p : Pkg} {b : Bytes} (h : capAccepted p b) (hwatts : 800 ≤ leAt b 4 4) :
    takeCap p b = { p with pw := { p.pw with capPending := some (min (leAt b 4 4) 2800, some (leAt b 0 4), leAt b 8 4) } } := by
  rw [show takeCap p b = (acceptCap p (leAt b 4 4) (some (leAt b 0 4)) (leAt b 8 4)).1 from if_pos h, acceptCap, if_neg (Nat.not_lt.2 hwatts)]
  rfl

theorem digestLate_found {p : Pkg} {record round : Nat} {r : ReplicaRound}
    (h : p.ru.rounds.find? (fun r => r.record == record && r.round == round) = some r) : digestLate p record round = endRound p r := by
  rw [digestLate, h]

/-- The values of the telemetry list that can be read (R376). -/
def telemetryValues (p : Pkg) : List Bytes :=
  ((records 4 (rdB p Ix.mpTelemetryList 0)).map (telemetryEntry p)).filter (fun b => !b.isEmpty)

theorem sendTelemetry_nowhere {p : Pkg} (h : rdB p Ix.mpTelemetryDestination 0 = []) : sendTelemetry p = p := if_pos (by rw [h]; rfl)

/-- Body of a TELEMETRY message (R376). -/
def telemetryBody (p : Pkg) (l : List Bytes) : Bytes :=
  leBytes 2 l.length ++ leBytes 2 0 ++ leBytes 4 (rd p Ix.mpTelemetryPeriodMs 0) ++ l.flatMap id

/-- With a destination set the values go out, at most 116 a message. -/
theorem sendTelemetry_batches {p : Pkg} (hdest : rdB p Ix.mpTelemetryDestination 0 ≠ []) : sendTelemetry p
    = (List.range (((telemetryValues p).length + 115) / 116)).foldl
        (fun p' i => sendRack p' 4 (anyStep p') (telemetryBody p' (((telemetryValues p).drop (116 * i)).take 116))) p :=
  if_neg (by simpa using hdest)

/-- Values that fit one message go out in it. -/
theorem sendTelemetry_one {p : Pkg} (hdest : rdB p Ix.mpTelemetryDestination 0 ≠ []) (hsome : telemetryValues p ≠ [])
    (hfit : (telemetryValues p).length ≤ 116) : sendTelemetry p = sendRack p 4 (anyStep p) (telemetryBody p (telemetryValues p)) := by
  have hpos := List.length_pos_iff.2 hsome
  have hone : ((telemetryValues p).length + 115) / 116 = 1 := by omega
  rw [sendTelemetry_batches hdest, hone, List.range_one, List.foldl_cons, List.foldl_nil, Nat.mul_zero, List.drop_zero, List.take_of_length_le hfit]

section
variable {s : State} (hp : powered s.pkg = true)
include hp

theorem mgmtPortUp_completes (port : Fin 2) (fec : Fin 3) : Completes (.mgmtPortUp port fec) s (fun q =>
    rd q Ix.mpPortState port = 2 ∧ rd q Ix.mpPortFec port = fec.val ∧ q.mem = s.pkg.mem ∧ q.parts = s.pkg.parts ∧ q.out = s.pkg.out) := by
  refine completes_of hp (exec_mgmtPortUp port fec s) ⟨?_, ?_, rfl, rfl, rfl⟩
  · rw [rd_wr_ne _ _ (by decide) (by omega) (by omega), rd_wr_self]
    rfl
  · rw [rd_wr_self]
    exact Nat.mod_eq_of_lt (show fec.val < 2 ^ 8 by omega)

section
variable {port : Fin 2} {m : RackMessage} (hup : rd s.pkg Ix.mpPortState port = 2)
include hup

/-- A message whose tag fails is dropped and counted under its cause (R373). -/
theorem rackMessage_unverified {i : Instr} {type : Nat} {f : Pkg → Pkg} (hx : exec i s = onPkgF (rackArrives port type m f) s) (hform : RackForm m type)
    (htag : m.tagVerifies = false) (hnone : s.pkg.mp.rackDropped = [0, 0, 0, 0]) : Completes i s (fun q =>
      q.mp.rackDropped = [0, 1, 0, 0] ∧ q.mp.rackSeen = s.pkg.mp.rackSeen ∧ q.pw = s.pkg.pw ∧ q.ru = s.pkg.ru ∧ q.mem = s.pkg.mem
      ∧ q.parts = s.pkg.parts) := by
  refine completes_of hp hx ?_
  rw [rackArrives_unverified (p := begun s) hup hform htag]
  refine ⟨?_, rfl, rfl, rfl, rfl, rfl⟩
  show s.pkg.mp.rackDropped.zipIdx.map _ = _
  rw [hnone]
  rfl

variable (htag : m.tagVerifies = true) (hepoch : ((s.pkg.flash.rackKeys.take 2).map (·.1)).contains m.keyEpoch = true)
  (hnew : tget s.pkg.mp.rackSeen (rackKey m) 0 < m.sequence)
include htag hepoch hnew

theorem cap_waits (hform : RackForm m 1) (hsender : m.sender = 0xFFFF) (hcap : capAccepted s.pkg m.body) (hwatts : 800 ≤ leAt m.body 4 4) :
    Completes (.cap port m) s (fun q => q.pw.capPending = some (min (leAt m.body 4 4) 2800, some (leAt m.body 0 4), leAt m.body 8 4)
      ∧ rd q Ix.mpRxDatagrams port = (rd s.pkg Ix.mpRxDatagrams port + 1) % 2 ^ 64 ∧ tget q.mp.rackSeen (rackKey m) 0 = m.sequence
      ∧ q.mem = s.pkg.mem ∧ q.parts = s.pkg.parts) := by
  refine completes_of hp (exec_cap port m s) ?_
  rw [rackArrives_accepted (p := begun s) hup hform htag hepoch hnew fun _ => hsender,
    takeCap_accepted ((capAccepted_rackTaken (p := begun s) (by omega)).2 hcap) hwatts]
  exact ⟨rfl, rackTaken_counts (begun s) port m, rackTaken_seen (begun s) port m, rfl, rfl⟩

theorem digest_enters (hform : RackForm m 2) (hbody : digestBodyOk m.body = true) : Completes (.digest port m) s (fun q => ∃ p,
    rd p Ix.mpRxDatagrams port = (rd s.pkg Ix.mpRxDatagrams port + 1) % 2 ^ 64 ∧ tget p.mp.rackSeen (rackKey m) 0 = m.sequence ∧ p.ru = s.pkg.ru
    ∧ p.mem = s.pkg.mem ∧ q = takeDigests p m.sender m.body) := by
  refine completes_of hp (exec_digest port m s) ⟨rackTaken (begun s) port m, rackTaken_counts _ _ _, rackTaken_seen _ _ _, rfl, rfl, ?_⟩
  rw [rackArrives_accepted (p := begun s) hup hform htag hepoch hnew (hform.sender_free (by decide))]
  exact if_pos hbody

theorem replica_counted (hform : RackForm m 3) (hbody : m.body.length = 32) : Completes (.replica port m) s (fun q =>
    q.mp.replicasSeen = s.pkg.mp.replicasSeen + 1 ∧ tget q.mp.rackSeen (rackKey m) 0 = m.sequence ∧ q.mem = s.pkg.mem ∧ q.parts = s.pkg.parts) := by
  refine completes_of hp (exec_replica port m s) ?_
  rw [rackArrives_accepted (p := begun s) hup hform htag hepoch hnew (hform.sender_free (by decide)), if_pos hbody]
  exact ⟨rfl, rackTaken_seen (begun s) port m, rfl, rfl⟩

end

end

/-- Settles O46, by the command and by what its checks find. That what is outstanding to the host die completes as soon as the last module
goes down is a choice of the model (entry 125 of its log): R366 says so of what is sent from then on. -/
theorem modulesAndRackComplete : Obligations.ModulesAndRackComplete := by
  unfold Obligations.ModulesAndRackComplete
  intro s hp
  refine ⟨ucieModuleDown_other hp, ucieModuleDown_only hp, fun m hdown => ?down, fun m rate repaired hidle => ?untrained,
    fun m rate repaired => ucieModuleRestored_trained hp m, hostDieLoss_drains hp, fun hup => ?heard,
    fun port => ⟨?portDown, mgmtPortUp_completes hp port⟩, fun port m key hup hkey hmagic hversion hreserved hwhole hbounded => ?rack,
    fun record round r hfound => ?timeout, fun hnowhere => ?nowhere, ?telemetry⟩
  case down => exact completes_of hp (exec_ucieModuleDown m s) (dropModule_down (p := begun s) 1 hdown)
  case untrained => exact completes_of hp (exec_ucieModuleRestored m rate repaired s) (restoreModule_ignored (p := begun s) hidle)
  case heard => exact completes_of hp (exec_hostDieLoss s) (hostLost_heard (p := begun s) hup)
  case portDown => exact completes_of hp (exec_mgmtLinkLoss port s) ⟨rd_wr_self _ _ _ _, rfl, rfl, rfl⟩
  case rack =>
    obtain rfl : key = rackKey m := hkey
    have hform : ∀ type, m.type = type → RackForm m type := fun type htype => ⟨hmagic, hversion, htype, hreserved, hwhole, hbounded⟩
    refine ⟨fun htag hepoch hnew => ⟨fun htype hsender hcount hlength htarget hcap => ?_,
      fun htype => digest_enters hp hup htag hepoch hnew (hform 2 htype),
      fun htype => replica_counted hp hup htag hepoch hnew (hform 3 htype)⟩, fun htag hnone i hi htype => ?_⟩
    · exact cap_waits hp hup htag hepoch hnew (hform 1 htype) hsender ⟨hcount, hlength, htarget.imp_right List.contains_iff_mem.2, hcap⟩
    · simp only [List.mem_cons, List.not_mem_nil, or_false] at hi
      obtain rfl | rfl | rfl := hi
      · exact rackMessage_unverified hp hup (exec_cap port m s) (hform 1 htype) htag hnone
      · exact rackMessage_unverified hp hup (exec_digest port m s) (hform 2 htype) htag hnone
      · exact rackMessage_unverified hp hup (exec_replica port m s) (hform 3 htype) htag hnone
  case timeout => exact completes_of hp (exec_digestTimeout record round s) (digestLate_found (p := begun s) hfound)
  case nowhere => exact completes_of hp (exec_telemetryPeriod s) (sendTelemetry_nowhere (p := begun s) hnowhere)
  case telemetry =>
    rintro l rfl hsome hfit hdest
    exact completes_of hp (exec_telemetryPeriod s) (sendTelemetry_one (p := begun s) hdest hsome hfit)

end Sys2Proof.Machine
end

section
/-! The first step of a queue, a package that is off, and the state after reset (O1, O3, O5). -/

namespace Sys2Proof.Machine

/-- Settles O1: the two rules of a step, on a queue with a command and on an empty one. That an empty queue lets one RCLK cycle pass is the
model's choice (entry 2 of the log). -/
theorem stepRunsFrontCommand : Obligations.StepRunsFrontCommand := by
  unfold Obligations.StepRunsFrontCommand
  exact ⟨fun c s rest => step_of_pending_cons (s := { s with pending := c :: rest }) rfl,
    fun s => step_of_pending_nil (s := { s with pending := [] }) rfl⟩

theorem onPkgF_off (f : Pkg → Pkg) {s : State} (h : powered s.pkg = false) : onPkgF f s = .next s := by
  simp [onPkgF, onPkg, h]

theorem onClockF_off (f : Clock → Pkg → Clock × Pkg) {s : State} (h : powered s.pkg = false) : onClockF f s = .next s := by
  simp [onClockF, onClock, h]

/-- Settles O3, by the three forms of a command's meaning. That a package that is off takes no command but its start is the model's choice
(entry 1 of the log). -/
theorem unpoweredIgnoresCommands : Obligations.UnpoweredIgnoresCommands := by
  unfold Obligations.UnpoweredIgnoresCommands
  refine ⟨fun s c hoff hc => ?off, fun s hon => ?on⟩
  case off =>
    obtain ⟨f, hf⟩ | ⟨f, hf⟩ | hstart := exec_forms c
    · rw [hf, onPkgF_off f hoff]
    · rw [hf, onClockF_off f hoff]
    · exact absurd hstart hc
  case on =>
    rw [exec_powerOnStart, execPowerOnStart, hon]
    rfl

/-- Settles O5: every field of the state after reset is its default, and the tables and the memory are empty. That the package is off until its
first start is the model's choice (entry 1 of the log). -/
theorem resetState : Obligations.ResetState := by
  unfold Obligations.ResetState
  refine ⟨rfl, by simp [Clock.sound, State.reset], rfl, by decide, fun _ _ _ => rfl, fun _ _ => rfl, by decide, fun _ => rfl, rfl, rfl, ?settled⟩
  exact ⟨rfl, rfl, by decide, by decide, by decide, by decide, by decide, by decide, by decide, rfl, rfl, by decide⟩

end Sys2Proof.Machine
end

section
/-! Writes of class B tables and of the ring table (O21). -/

namespace Sys2Proof.Machine

theorem answered_pending (e : Entry) (sub : Nat) (r : Pkg × Bool) :
    (answered e sub (r.1, { pending := r.2 })).out.getLast? = some (.answer e.index sub 0 0 r.2) := emit_last _ _

theorem admitTenant_mem (pp : Nat) (old new : Bytes) (p : Pkg) (t : Nat) : (admitTenant pp old new p t).mem = p.mem := by
  unfold admitTenant
  dsimp only
  split
  · rfl
  · split
    · rfl
    · rw [apply_ite Pkg.mem, (raise_keeps _ _ _ _ _).mem]
      exact ite_self _

/-- A tenant table that comes into force changes the tenants and the requests, and raises events (R202). -/
theorem applyTenants_mem (p : Pkg) (pp : Nat) (new : Bytes) : (applyTenants p pp new).mem = p.mem := by
  show (List.foldl _ p _).mem = p.mem
  exact List.foldlRecOn (motive := fun q : Pkg => q.mem = p.mem) _ _ rfl (fun q hq t _ => (admitTenant_mem pp _ _ q t).trans hq)

/-- The class B tables that commands of their own write. -/
def ownTables : List Entry := [Ix.qrRecipeOverrides, Ix.akLayerTable, Ix.erLayerTable, Ix.scEngineConfigs, Ix.scTenantTable]

/-- A table that comes into force is what is read, and memory is as it was. -/
theorem bringInForce_table (p : Pkg) {pp : Nat} (hpp : pp < 12) (next : Nat) {e : Entry} (he : e ∈ ownTables) (b : Bytes) :
    rdB (bringInForce p pp next e (.bytes b)) e pp = b ∧ (bringInForce p pp next e (.bytes b)).mem = p.mem := by
  have hput : ∀ q : Pkg, rdB (wrB q e pp b) e pp = b := fun q => rdB_wrB_self q e pp b
  have hkeep : ∀ (q : Pkg) (x : Entry) (v : Nat), e.index ≠ x.index → rdB (wr q x pp v) e pp = rdB q e pp :=
    fun q x v h => rdB_wr_ne q v h (by omega) (by omega)
  simp only [ownTables, List.mem_cons, List.not_mem_nil, or_false] at he
  obtain rfl | rfl | rfl | rfl | rfl := he
  · refine ⟨?_, ?_⟩
    · show rdB (raiseStep _ _ _ _ _ _) _ _ = _
      rw [(raiseStep_keeps _ _ _ _ _ _).rdB _ _ (commsKey_low (by decide) (by omega)), hkeep _ _ _ (by decide), bump, bumpAt]
      exact (hkeep _ Ix.qrRecipeGeneration _ (by decide)).trans (hput p)
    · show (raiseStep _ _ _ _ _ _).mem = _
      rw [(raiseStep_keeps _ _ _ _ _ _).mem]
      exact wrB_mem _ _ _ _
  · exact ⟨hput p, wrB_mem _ _ _ _⟩
  · exact ⟨(hkeep _ Ix.erLayerGeneration _ (by decide)).trans (hput p), wrB_mem _ _ _ _⟩
  · exact ⟨(hkeep _ Ix.scActiveConfig _ (by decide)).trans (hput p), wrB_mem _ _ _ _⟩
  · exact ⟨hput _, (wrB_mem _ _ _ _).trans (applyTenants_mem p pp b)⟩

section
variable {p : Pkg} {pp : Nat} {e : Entry} {v : DVal}

/-- A write that no armed switch holds, to a partition that runs or of a value not yet due, waits in shadow (R383, R107). -/
theorem writeClassB_waits (harm : ∀ a, tfind p.wm.arms pp = some a → heldBySwitch e = false)
    (hwait : (pcState p pp ≠ 0 ∧ pcState p pp ≠ 1 ∧ pcState p pp ≠ 7) ∨ dueAt e v ((stepOf p pp + 1) % 2 ^ 32) = false) :
    writeClassB p pp e v = (putShadow p e pp v, true) := by
  have hstopped : ((pcState p pp == 0 || pcState p pp == 1 || pcState p pp == 7) && dueAt e v ((stepOf p pp + 1) % 2 ^ 32)) = false := by
    obtain ⟨h0, h1, h7⟩ | hdue := hwait
    · simp [h0, h1, h7]
    · rw [hdue, Bool.and_false]
  unfold writeClassB
  cases hfind : tfind p.wm.arms pp with
  | none => simp only [hstopped, Bool.false_eq_true, if_false]
  | some a => simp only [harm a hfind, hstopped, Bool.false_eq_true, if_false]

/-- A due value comes into force at once where the partition does not run (R383). -/
theorem writeClassB_applies (harm : ∀ a, tfind p.wm.arms pp = some a → heldBySwitch e = false)
    (hstill : pcState p pp = 0 ∨ pcState p pp = 1 ∨ pcState p pp = 7) (hdue : dueAt e v ((stepOf p pp + 1) % 2 ^ 32) = true) :
    writeClassB p pp e v = (bringInForce (dropShadow p e pp) pp ((stepOf p pp + 1) % 2 ^ 32) e v, false) := by
  have hstopped : ((pcState p pp == 0 || pcState p pp == 1 || pcState p pp == 7) && dueAt e v ((stepOf p pp + 1) % 2 ^ 32)) = true := by
    obtain h | h | h := hstill <;> rw [h, hdue] <;> rfl
  unfold writeClassB
  cases hfind : tfind p.wm.arms pp with
  | none => simp only [hstopped, if_true]
  | some a => simp only [harm a hfind, hstopped, Bool.false_eq_true, if_false, if_true]

/-- An armed switch holds the writes of its tables (R283). -/
theorem writeClassB_held {a : Arm} (hfind : tfind p.wm.arms pp = some a) (hheld : heldBySwitch e = true) :
    writeClassB p pp e v
      = ({ dropShadow p e pp with wm := { p.wm with arms := tput p.wm.arms pp { a with held := tput a.held (keyAt e 0 pp) v } } }, true) := by
  unfold writeClassB
  rw [hfind]
  exact if_pos hheld

end

section
variable (s : State) (pp : Fin 12) (data : Bytes) (i : Instr) (e : Entry) (ok : Bool)

/-- A table is taken, with no armed switch that holds it: it waits in shadow, or it is in force at once. -/
def TableTaken : Prop :=
  (pcState s.pkg pp ≠ 0 ∧ pcState s.pkg pp ≠ 1 ∧ pcState s.pkg pp ≠ 7 ∨ dueAt e (.bytes data) ((stepOf s.pkg pp + 1) % 2 ^ 32) = false →
    Completes i s (fun q => shadowOf q e pp = some (.bytes data) ∧ q.dict.vals = s.pkg.dict.vals ∧ q.mem = s.pkg.mem
      ∧ q.parts = s.pkg.parts ∧ q.out.getLast? = some (.answer e.index pp 0 0 true)))
  ∧ (pcState s.pkg pp = 0 ∨ pcState s.pkg pp = 1 ∨ pcState s.pkg pp = 7 → dueAt e (.bytes data) ((stepOf s.pkg pp + 1) % 2 ^ 32) = true →
    Completes i s (fun q => rdB q e pp = data ∧ q.mem = s.pkg.mem ∧ q.out.getLast? = some (.answer e.index pp 0 0 false)))

/-- A table is held with its partition's armed switch. -/
def TableHeld : Prop :=
  ∀ a, tfind s.pkg.wm.arms pp = some a →
    Completes i s (fun q => (∃ b, tfind q.wm.arms pp = some b ∧ b.version = a.version ∧ tfind b.held (keyAt e 0 pp) = some (.bytes data))
      ∧ q.dict.vals = s.pkg.dict.vals ∧ q.mem = s.pkg.mem ∧ q.parts = s.pkg.parts ∧ q.out.getLast? = some (.answer e.index pp 0 0 true))

/-- A refused table leaves every value. -/
def TableRefused : Prop :=
  Completes i s (fun q => (∀ e, shadowOf q e pp = shadowOf s.pkg e pp) ∧ rdB q e pp = rdB s.pkg e pp
    ∧ q.mem = s.pkg.mem ∧ q.parts = s.pkg.parts ∧ ∃ st, st ≠ 0 ∧ q.out.getLast? = some (.answer e.index pp 6 st false))

variable {s pp data i e} {f : Pkg → Pkg × Answer} (hp : powered s.pkg = true) (hx : exec i s = onPkgF (entryCommand e pp f) s)
  (hopen : gate s.pkg e 0 pp = none)
include hp hx hopen

theorem tableWrite_taken (he : e ∈ ownTables) (hf : f (begun s) = shadowed (begun s) pp e (.bytes data))
    (harm : ∀ a, tfind s.pkg.wm.arms pp = some a → heldBySwitch e = false) : TableTaken s pp data i e := by
  refine ⟨fun hwait => completes_of_write hp hx hopen hf ?_, fun hstill hdue => completes_of_write hp hx hopen hf ?_⟩
  · rw [shadowed, writeClassB_waits (p := begun s) harm hwait]
    exact ⟨tfind_tput_self _ _ _, rfl, rfl, rfl, answered_pending e pp (_, true)⟩
  · rw [shadowed, writeClassB_applies (p := begun s) harm hstill hdue]
    obtain ⟨hvalue, hmem⟩ := bringInForce_table (dropShadow (begun s) e pp) pp.isLt ((stepOf s.pkg pp + 1) % 2 ^ 32) he data
    exact ⟨hvalue, hmem, answered_pending e pp (_, false)⟩

theorem tableWrite_held (hf : f (begun s) = shadowed (begun s) pp e (.bytes data)) (hheld : heldBySwitch e = true) : TableHeld s pp data i e := by
  refine fun a hfind => completes_of_write hp hx hopen hf ?_
  rw [shadowed, writeClassB_held (p := begun s) hfind hheld]
  exact ⟨⟨_, tfind_tput_self _ _ _, rfl, tfind_tput_self _ _ _⟩, rfl, rfl, rfl, answered_pending e pp (_, true)⟩

/-- A refusal that shows its status nowhere but in the answer. -/
theorem tableWrite_refused {st : Nat} (hst : st ≠ 0) (hf : f (begun s) = refuse (begun s) (invalid st)) : TableRefused s pp i e :=
  completes_of_write hp hx hopen hf ⟨fun _ => rfl, rfl, rfl, rfl, st, hst, answered_last _ _ _⟩

/-- What a write does whose refusal is also its unit's last status. -/
theorem tableWrite_checked {ok : Bool} {st : Nat} {x : Entry} (he : e ∈ ownTables) (hst : st ≠ 0) (hindex : e.index ≠ x.index)
    (hf : f (begun s) = if ok = true then shadowed (begun s) pp e (.bytes data) else refuse (last (begun s) x pp st) (invalid st)) :
    (ok = true → (∀ a, tfind s.pkg.wm.arms pp = some a → heldBySwitch e = false) → TableTaken s pp data i e)
    ∧ (ok = true → heldBySwitch e = true → TableHeld s pp data i e) ∧ (ok = false → TableRefused s pp i e) := by
  refine ⟨fun h => tableWrite_taken hp hx hopen he (hf.trans (if_pos h)), fun h => tableWrite_held hp hx hopen (hf.trans (if_pos h)),
    fun h => completes_of_write hp hx hopen (hf.trans (if_neg (by simp [h]))) ?_⟩
  exact ⟨fun _ => rfl, rdB_wr_ne (begun s) st hindex (by omega) (by omega), rfl, rfl, st, hst, answered_last _ _ _⟩

end

/-- Settles O21, by whether the table passes its checks and by what holds it. That a set whose first step lies ahead waits in shadow even in a
partition that does not run is the model's choice (entry 30 of the log). -/
theorem tableWritesComplete : Obligations.TableWritesComplete := by
  unfold Obligations.TableWritesComplete
  refine ⟨fun s pp data hp x hx => ?classB, fun s pp data hp hopen => ⟨fun hok => ?rings, fun hok => ?ringsRefused⟩⟩
  case classB =>
    simp only [List.mem_cons, List.not_mem_nil, or_false] at hx
    obtain rfl | rfl | rfl | rfl | rfl := hx
    · intro hopen
      have hform := exec_recipeOverrideWrite pp data s
      have htaken : overridesOk s.pkg pp data = true → writeOverrides (begun s) pp data = shadowed (begun s) pp Ix.qrRecipeOverrides (.bytes data) :=
        fun h => if_neg (by rw [show overridesOk (begun s) pp data = true from h]; decide)
      exact ⟨fun h => tableWrite_taken hp hform hopen (List.mem_cons_self ..) (htaken h), fun h => tableWrite_held hp hform hopen (htaken h),
        fun h => tableWrite_refused hp hform hopen (st := 0x0220) (by decide) (if_pos h)⟩
    · exact fun hopen => tableWrite_checked hp (exec_layerTableWrite pp data s) hopen (st := 0x030A) (x := Ix.akLastStatus)
        (show Ix.akLayerTable ∈ ownTables by decide) (by decide) (show 0x2800 ≠ Ix.akLastStatus.index by decide) rfl
    · exact fun hopen => tableWrite_checked hp (exec_routerLayerTableWrite pp data s) hopen (st := 0x0401) (x := Ix.erLastStatus)
        (show Ix.erLayerTable ∈ ownTables by decide) (by decide) (show 0x2C00 ≠ Ix.erLastStatus.index by decide) rfl
    · exact fun hopen => tableWrite_checked hp (exec_engineConfigsWrite pp data s) hopen (st := 0x060A) (x := Ix.scLastStatus)
        (show Ix.scEngineConfigs ∈ ownTables by decide) (by decide) (show 0x3402 ≠ Ix.scLastStatus.index by decide) rfl
    · exact fun hopen => tableWrite_checked hp (exec_tenantTableWrite pp data s) hopen (st := 0x060B) (x := Ix.scLastStatus)
        (show Ix.scTenantTable ∈ ownTables by decide) (by decide) (show 0x3420 ≠ Ix.scLastStatus.index by decide) rfl
  case rings =>
    refine completes_of_write hp (exec_ringTableWrite pp data s) hopen (if_pos hok) ?_
    exact ⟨rdB_wrB_self _ _ _ _, wrB_parts _ _ _ _, wrB_mem _ _ _ _, answered_last _ _ _⟩
  case ringsRefused =>
    refine completes_of_write hp (exec_ringTableWrite pp data s) hopen (if_neg (by simp [hok])) ?_
    exact ⟨rdB_wr_ne (begun s) _ (show Ix.seRingTable.index ≠ Ix.seLastStatus.index by decide) (by omega) (by omega),
      rd_last_self (begun s) Ix.seLastStatus pp 0x0701, rfl, rfl, answered_last _ _ _⟩

end Sys2Proof.Machine
end

section
/-! Requests of the dictionary's sessions (O47). -/

namespace Sys2Proof.Machine

/-- The commands that carry a request, with its operation (R401). -/
def requestsOf (q : DapRequest) : List (Instr × Nat) :=
  [(.dapRead q, 1), (.dapWrite q, 2), (.readSegment q, 3), (.writeBegin q, 4), (.writeSegment q, 5), (.writeCommit q, 6), (.writeAbandon q, 7),
   (.domainWrite q, 8), (.readPending q, 9), (.describe q, 10), (.next q, 11), (.keepalive q, 12)]

/-- Whether a session is open. -/
def sessionOpen (p : Pkg) (n : Nat) : Bool := p.mp.sessions.any (fun t => t.number == n)

theorem sessionOpen_of_mp {p p' : Pkg} (h : p'.mp = p.mp) (n : Nat) : sessionOpen p' n = sessionOpen p n := by
  rw [sessionOpen, h, sessionOpen]

/-- A change of a session that keeps its number leaves every session open. -/
theorem sessionOpen_modSession (p : Pkg) (m : Nat) {f : Session → Session} (hf : ∀ t, (f t).number = t.number) (n : Nat) :
    sessionOpen (modSession p m f) n = sessionOpen p n := by
  simp only [sessionOpen, modSession, List.any_map]
  refine congrArg (List.any p.mp.sessions) (funext fun t => ?_)
  simp only [Function.comp_apply]
  split
  · rw [hf]
  · rfl

section
variable {s : State} {q : DapRequest} {p : Pkg} {se : Session} {r : Pkg × Response}

/-- A new request of a session that stays open is performed, answered once, and its answer kept (R402). -/
theorem serveRequest_replies (ha : Admits s q p se) {op : Nat} (hr : perform p op q se = r) (hopen : sessionOpen r.1 se.number = true) :
    serveRequest op q (begun s) = (replied r.1 q se r.2, some r.2) := by
  obtain ⟨hadmit, hnew, hlate⟩ := ha
  subst hr
  have hstays : (!(perform p op q se).1.mp.sessions.any (fun t => t.number == se.number)) = false := by
    rw [Bool.not_eq_false']
    exact hopen
  simp only [serveRequest, hadmit, hnew, hlate, hstays, Bool.false_eq_true, if_false]
  rfl

variable (hp : powered s.pkg = true) (ha : Admits s q p se)
include hp ha

/-- Every request but an accepted write of the restart entry leaves the clock. -/
theorem request_answered {i : Instr} {op : Nat} (hi : (i, op) ∈ requestsOf q) (hr : perform p op q se = r) (hopen : sessionOpen r.1 se.number = true)
    (hkeep : ¬ (op = 2 ∧ q.index = Ix.btRestart.index ∧ r.2.abort = 0)) : Completes i s (fun x => x = replied r.1 q se r.2) := by
  have hserve := serveRequest_replies ha hr hopen
  have hplain : ∀ {i : Instr}, exec i s = onPkgF (fun p => (serveRequest op q p).1) s → Completes i s (fun x => x = replied r.1 q se r.2) :=
    fun hx => completes_of hp hx (by rw [hserve])
  simp only [requestsOf, List.mem_cons, Prod.mk.injEq, List.not_mem_nil, or_false] at hi
  obtain ⟨rfl, rfl⟩ | ⟨rfl, rfl⟩ | ⟨rfl, rfl⟩ | ⟨rfl, rfl⟩ | ⟨rfl, rfl⟩ | ⟨rfl, rfl⟩ | ⟨rfl, rfl⟩ | ⟨rfl, rfl⟩ | ⟨rfl, rfl⟩ | ⟨rfl, rfl⟩ | ⟨rfl, rfl⟩ | ⟨rfl, rfl⟩ := hi
  case inr.inl =>
    refine ⟨replied r.1 q se r.2, rfl, ?_⟩
    rw [exec_dapWrite, execDapWrite, onClockF_powered _ _ hp, hserve]
    dsimp only
    rw [if_neg fun h => hkeep ⟨rfl, h⟩]
  all_goals exact hplain rfl

/-- An accepted write of the restart entry starts the package anew behind its answer (R465). -/
theorem dapWrite_restarts (hr : perform p 2 q se = r) (hopen : sessionOpen r.1 se.number = true) (hindex : q.index = Ix.btRestart.index)
    (htaken : r.2.abort = 0) : CompletesAt (.dapWrite q) s {} (fun x =>
      x = beginStart (replied r.1 q se r.2) 2 (leNat q.data == 2 || warmNeedsFull (replied r.1 q se r.2))) := by
  refine ⟨_, rfl, ?_⟩
  rw [exec_dapWrite, execDapWrite, onClockF_powered _ _ hp, serveRequest_replies ha hr hopen]
  dsimp only
  rw [if_pos ⟨hindex, htaken⟩]

end

section
variable {p : Pkg} {op : Nat} {q : DapRequest} {se : Session}

/-- Every refusal of steps 2 to 5 has an abort code. -/
theorem checkEntry_error {a : Answer} (h : checkEntry p op q se = .error a) : a.abort ≠ 0 := by
  have hcode : ∀ n : Nat, n ≠ 0 → (ownAbort n).abort ≠ 0 := fun n hn => hn
  have haccess : ∀ e, accessAbort op e = some a → a.abort ≠ 0 := by
    intro e he
    unfold accessAbort at he
    split at he
    · cases he; exact hcode 3 (by decide)
    · split at he
      · cases he; exact hcode 4 (by decide)
      · cases he
  have hrole : ∀ e, roleAbort p se op e q.subindex = some a → a.abort ≠ 0 := by
    intro e he
    have : a = ownAbort 8 := by
      unfold roleAbort at he
      dsimp only at he
      grind
    rw [this]
    exact hcode 8 (by decide)
  have htype : ∀ e, typeAbort op q e = some a → a.abort ≠ 0 := by
    intro e he
    have : a = ownAbort 5 ∨ a = ownAbort 0x10 := by
      unfold typeAbort at he
      dsimp only at he
      grind
    obtain rfl | rfl := this
    · exact hcode 5 (by decide)
    · exact hcode 0x10 (by decide)
  unfold checkEntry at h
  split at h
  · cases h; exact hcode 1 (by decide)
  · cases h; exact hcode 2 (by decide)
  · split at h
    · cases h; exact haccess _ ‹_›
    · split at h
      · cases h; exact hrole _ ‹_›
      · split at h
        · cases h; exact htype _ ‹_›
        · cases h

/-- Operations that name an entry (R401). -/
def namesEntry (op : Nat) : Prop := op ≠ 5 ∧ op ≠ 6 ∧ op ≠ 7 ∧ op ≠ 11 ∧ op ≠ 12

theorem namesEntry_of_mem {i : Instr × Nat} (hi : i ∈ [(Instr.dapRead q, 1), (.dapWrite q, 2), (.readSegment q, 3), (.writeBegin q, 4),
    (.domainWrite q, 8), (.readPending q, 9), (.describe q, 10)]) : i ∈ requestsOf q ∧ namesEntry i.2 := by
  simp only [List.mem_cons, List.not_mem_nil, or_false] at hi
  obtain rfl | rfl | rfl | rfl | rfl | rfl | rfl := hi
  all_goals simp [requestsOf, namesEntry]

theorem perform_malformed (h : requestMalformed op q = true) : perform p op q se = (p, abortWith q (ownAbort 0x11)) := if_pos h

theorem perform_refused (hop : namesEntry op) (h : requestMalformed op q = false) {a : Answer} (hcheck : checkEntry p op q se = .error a) :
    perform p op q se = (p, abortWith q a) := by
  obtain ⟨h5, h6, h7, h11, h12⟩ := hop
  simp [perform, h, hcheck]

theorem perform_named (hop : namesEntry op) (h : requestMalformed op q = false) {e : Entry} {u : Nat} (hcheck : checkEntry p op q se = .ok (e, u)) :
    perform p op q se = onEntry p op q se e u := by
  obtain ⟨h5, h6, h7, h11, h12⟩ := hop
  simp [perform, h, hcheck]

theorem perform_next (h : requestMalformed 11 q = false) {k : Nat} (hk : nextKey (q.index * 256 + q.subindex) = some k) :
    perform p 11 q se = (p, { requestId := q.requestId, data := leBytes 2 (k / 256) ++ leBytes 1 (k % 256) }) := by
  simp [perform, h, hk]

theorem perform_next_none (h : requestMalformed 11 q = false) (hk : nextKey (q.index * 256 + q.subindex) = none) :
    perform p 11 q se = (p, abortWith q (ownAbort 1)) := by
  simp [perform, h, hk]

theorem perform_keepalive (h : requestMalformed 12 q = false) : perform p 12 q se = (p, plainOk q) := by simp [perform, h]

end

section
variable {s : State} {q : DapRequest} {p : Pkg} {se : Session} (hp : powered s.pkg = true) (ha : Admits s q p se) (hopen : sessionOpen p se.number = true)
  {i : Instr} {op : Nat} {a : Response}
include hp ha hopen

/-- A request that leaves the package is answered with what it finds. -/
theorem request_reads (hi : (i, op) ∈ requestsOf q) (hop : op ≠ 2) (hr : perform p op q se = (p, a)) :
    Completes i s (fun r => r = replied p q se a) :=
  request_answered (r := (p, a)) hp ha hi hr hopen (fun h => hop h.1)

theorem request_reads_entry (hi : (i, op) ∈ requestsOf q) (hop : op ≠ 2) (hnames : namesEntry op) (hform : requestMalformed op q = false)
    {e : Entry} {u : Nat} (hcheck : checkEntry p op q se = .ok (e, u)) (hr : onEntry p op q se e u = (p, a)) :
    Completes i s (fun r => r = replied p q se a) :=
  request_reads hp ha hopen hi hop ((perform_named hnames hform hcheck).trans hr)

end

/-- Settles O47, by the request's form, its entry and its operation. -/
theorem requestsServed : Obligations.RequestsServed := by
  unfold Obligations.RequestsServed
  intro s q p se hp ha hopen
  refine ⟨fun i hi hbroken => ?malformed, fun i hi a hform hcheck => ?refused, fun e u hform hcheck => ?read, fun e u hform hcheck => ?segment,
    fun e u hform hcheck => ?pending, fun e u hform hcheck => ?describe, fun hform => ⟨fun k hk => ?next, fun hk => ?last⟩, fun hform => ?keepalive⟩
  case malformed =>
    exact request_answered (r := (p, abortWith q (ownAbort 0x11))) hp ha hi (perform_malformed hbroken) hopen (fun ⟨_, _, h⟩ => absurd h (by decide : 0x11 ≠ 0))
  case refused =>
    obtain ⟨hmem, hnames⟩ := namesEntry_of_mem hi
    exact request_answered (r := (p, abortWith q a)) hp ha hmem (perform_refused hnames hform hcheck) hopen (fun ⟨_, _, h⟩ => checkEntry_error hcheck h)
  case read => exact request_reads_entry hp ha hopen (op := 1) (by simp [requestsOf]) (by decide) (by simp [namesEntry]) hform hcheck rfl
  case segment => exact request_reads_entry hp ha hopen (op := 3) (by simp [requestsOf]) (by decide) (by simp [namesEntry]) hform hcheck rfl
  case pending => exact request_reads_entry hp ha hopen (op := 9) (by simp [requestsOf]) (by decide) (by simp [namesEntry]) hform hcheck rfl
  case describe => exact request_reads_entry hp ha hopen (op := 10) (by simp [requestsOf]) (by decide) (by simp [namesEntry]) hform hcheck rfl
  case next => exact request_reads hp ha hopen (op := 11) (by simp [requestsOf]) (by decide) (perform_next hform hk)
  case last => exact request_reads hp ha hopen (op := 11) (by simp [requestsOf]) (by decide) (perform_next_none hform hk)
  case keepalive => exact request_reads hp ha hopen (op := 12) (by simp [requestsOf]) (by decide) (perform_keepalive hform)

end Sys2Proof.Machine
end

section
/-! Writes over the dictionary's sessions (O48). -/

namespace Sys2Proof.Machine

@[simp] theorem sessionOpen_endTransfer (p : Pkg) (m t n : Nat) : sessionOpen (endTransfer p m t) n = sessionOpen p n :=
  by
  refine sessionOpen_modSession p m ?_ n
  exact fun _ => rfl

/-- A refusal that is noted changes last statuses alone. -/
theorem refuseNoted_keeps (p : Pkg) (e : Entry) (u sub : Nat) (a : Answer) :
    (refuseNoted p e u sub a).1.mp = p.mp ∧ (refuseNoted p e u sub a).1.flash = p.flash ∧ (refuseNoted p e u sub a).2 = a := by
  unfold refuseNoted
  split
  · exact ⟨rfl, rfl, rfl⟩
  · split
    all_goals exact ⟨rfl, rfl, rfl⟩

theorem writeSlot_mp (p : Pkg) (offset : Nat) (b : Bytes) : (writeSlot p offset b).1.mp = p.mp := by
  unfold writeSlot
  dsimp only
  split
  · rfl
  · split
    · split <;> rfl
    · split <;> rfl

/-- A slot's bytes with a segment put over them (R508). -/
def slotWith (old : Bytes) (offset : Nat) (b : Bytes) : Bytes := overlay (padTo old (max old.length (offset + b.length))) offset b

/-- Flash with a segment put into the slot that is not active. -/
def slotPut (f : Flash) (offset : Nat) (b : Bytes) : Flash :=
  if f.activeSlot = 0 then { f with slotB := slotWith f.slotB offset b } else { f with slotA := slotWith f.slotA offset b }

theorem writeSlot_put (p : Pkg) (offset : Nat) {b : Bytes} (hb : b ≠ []) :
    (writeSlot p offset b).1.flash.slotA = (slotPut p.flash offset b).slotA ∧ (writeSlot p offset b).1.flash.slotB = (slotPut p.flash offset b).slotB := by
  have hform : (writeSlot p offset b).1 = if slotPut p.flash offset b = p.flash then p
      else touch (wroteFlash { p with flash := slotPut p.flash offset b } (areaSlot (p.flash.activeSlot == 0))) Ix.btFirmwareSlot 0 := by
    rw [writeSlot, if_neg hb]
    rfl
  rw [hform]
  split
  case isTrue h => rw [h]; exact ⟨rfl, rfl⟩
  case isFalse => exact ⟨rfl, rfl⟩

/-- A segment goes to the slot that is not active, and the other stays. -/
theorem writeSlot_slots (p : Pkg) (offset : Nat) {b : Bytes} (hb : b ≠ []) :
    if p.flash.activeSlot = 0 then
      (writeSlot p offset b).1.flash.slotB = slotWith p.flash.slotB offset b ∧ (writeSlot p offset b).1.flash.slotA = p.flash.slotA
    else (writeSlot p offset b).1.flash.slotA = slotWith p.flash.slotA offset b ∧ (writeSlot p offset b).1.flash.slotB = p.flash.slotB := by
  obtain ⟨hslotA, hslotB⟩ := writeSlot_put p offset hb
  rw [hslotA, hslotB, slotPut]
  split
  case isTrue => exact ⟨rfl, rfl⟩
  case isFalse => exact ⟨rfl, rfl⟩

section
variable {p : Pkg} {q : DapRequest} {se : Session}

theorem perform_segment (h : requestMalformed 5 q = false) : perform p 5 q se = placeSegment p q se := by simp [perform, h]
theorem perform_commit (h : requestMalformed 6 q = false) : perform p 6 q se = commitTransfer p q se := by simp [perform, h]
theorem perform_abandon (h : requestMalformed 7 q = false) : perform p 7 q se = abandonTransfer p q se := by simp [perform, h]

theorem perform_begin (h : requestMalformed 4 q = false) {e : Entry} {u : Nat} (hcheck : checkEntry p 4 q se = .ok (e, u)) :
    perform p 4 q se = openTransfer p q se := perform_named (by simp [namesEntry]) h hcheck

/-- The package when a transfer has been opened (R403). -/
def transferOpened (p : Pkg) (q : DapRequest) (se : Session) : Pkg :=
  modSession { p with mp := { p.mp with nextTransfer := p.mp.nextTransfer + 1 } } se.number (fun s => { s with transfers := s.transfers
    ++ [{ number := p.mp.nextTransfer, index := q.index, subindex := q.subindex, total := q.arg2, lastNs := p.now }] })

theorem openTransfer_opens (hroom : se.transfers.length < 4) :
    openTransfer p q se = (transferOpened p q se, { requestId := q.requestId, type := 8, total := p.mp.nextTransfer }) :=
  if_neg (by omega)

theorem openTransfer_full (hfull : 4 ≤ se.transfers.length) : openTransfer p q se = (p, abortWith q (ownAbort 0x10)) := if_pos hfull

theorem sessionOpen_transferOpened (n : Nat) : sessionOpen (transferOpened p q se) n = sessionOpen p n := by
  refine sessionOpen_modSession _ _ ?_ n
  exact fun _ => rfl

/-- The opened transfer stands in its session. -/
theorem transferOpened_transfer {t : Session} (ht : t ∈ (transferOpened p q se).mp.sessions) (hn : t.number = se.number) :
    ∃ b ∈ t.transfers, b.number = p.mp.nextTransfer ∧ b.index = q.index ∧ b.subindex = q.subindex ∧ b.total = q.arg2 ∧ b.segments = [] := by
  obtain ⟨y, -, rfl⟩ := List.mem_map.1 ht
  rw [if_pos (by by_contra h; rw [if_neg h] at hn; exact h hn)]
  exact ⟨_, List.mem_concat_self, rfl, rfl, rfl, rfl, rfl⟩

/-- What WRITE_COMMIT writes as: the transfer's entry and total length (R403). -/
def committed (q : DapRequest) (t : Transfer) : DapRequest := { q with index := t.index, subindex := t.subindex, arg2 := t.total }

/-- The package when a segment has been placed (R403). -/
def segmentPlaced (p : Pkg) (q : DapRequest) (se : Session) : Pkg :=
  modSession p se.number (fun y => { y with transfers := y.transfers.map (fun t =>
    if t.number = q.arg then { t with segments := t.segments ++ [(q.arg2, q.data)], lastNs := p.now } else t) })

theorem sessionOpen_segmentPlaced (n : Nat) : sessionOpen (segmentPlaced p q se) n = sessionOpen p n := by
  refine sessionOpen_modSession _ _ ?_ n
  exact fun _ => rfl

variable {t : Transfer} (hfind : transferOf se q.arg = some t)
include hfind

theorem placeSegment_places (hroom : q.arg2 + q.data.length ≤ t.total) : placeSegment p q se = (segmentPlaced p q se, plainOk q) := by
  simp only [placeSegment, hfind]
  exact if_neg (by omega)

theorem placeSegment_beyond (hroom : t.total < q.arg2 + q.data.length) : placeSegment p q se = (p, abortWith q (ownAbort 14)) := by
  simp only [placeSegment, hfind]
  exact if_pos hroom

theorem abandonTransfer_ends : abandonTransfer p q se = (endTransfer p se.number t.number, plainOk q) := by
  simp only [abandonTransfer, hfind]

theorem commitTransfer_missing (hb : assembled t = none) : commitTransfer p q se = (endTransfer p se.number t.number, abortWith q (ownAbort 14)) := by
  simp only [commitTransfer, hfind, hb]

variable {b : Bytes} (hb : assembled t = some b)
include hb

theorem commitTransfer_damaged (hcrc : (crc32 b).toNat ≠ q.arg2) :
    commitTransfer p q se = (endTransfer p se.number t.number, abortWith q (ownAbort 15)) := by
  simp only [commitTransfer, hfind, hb]
  exact if_pos hcrc

variable (hcrc : (crc32 b).toNat = q.arg2)
include hcrc

theorem commitTransfer_refused {a : Answer} (hcheck : checkEntry (endTransfer p se.number t.number) 4 (committed q t) se = .error a) :
    commitTransfer p q se = (endTransfer p se.number t.number, abortWith q a) := by
  simp only [commitTransfer, hfind, hb, hcrc, ne_eq, not_true, if_false]
  rw [committed] at hcheck
  rw [hcheck]

theorem commitTransfer_writes {e : Entry} {u : Nat} (hcheck : checkEntry (endTransfer p se.number t.number) 4 (committed q t) se = .ok (e, u)) :
    commitTransfer p q se = writeAnswer q e u t.subindex (entryWrite (endTransfer p se.number t.number) e u t.subindex (.bytes b) q) := by
  simp only [commitTransfer, hfind, hb, hcrc, ne_eq, not_true, if_false]
  rw [committed] at hcheck
  rw [hcheck]

end

/-- With no open transfer of that number the operations on a transfer are refused (R403). -/
theorem perform_noTransfer {p : Pkg} {q : DapRequest} {se : Session} (hnone : transferOf se q.arg = none) {i : Instr × Nat}
    (hi : i ∈ [(Instr.writeSegment q, 5), (.writeCommit q, 6), (.writeAbandon q, 7)]) (hform : requestMalformed i.2 q = false) :
    i ∈ requestsOf q ∧ i.2 ≠ 2 ∧ perform p i.2 q se = (p, abortWith q (ownAbort 13)) := by
  simp only [List.mem_cons, List.not_mem_nil, or_false] at hi
  obtain rfl | rfl | rfl := hi
  · exact ⟨by simp [requestsOf], (by decide : 5 ≠ 2), (perform_segment hform).trans (by simp only [placeSegment, hnone])⟩
  · exact ⟨by simp [requestsOf], (by decide : 6 ≠ 2), (perform_commit hform).trans (by simp only [commitTransfer, hnone])⟩
  · exact ⟨by simp [requestsOf], (by decide : 7 ≠ 2), (perform_abandon hform).trans (by simp only [abandonTransfer, hnone])⟩

section
variable {s : State} {q : DapRequest} {p : Pkg} {se : Session} (hp : powered s.pkg = true) (ha : Admits s q p se)
include hp ha

/-- A request other than WRITE is answered by what performing it answers, where its session stays open. -/
theorem request_performed {i : Instr} {op : Nat} {p' : Pkg} {a : Response} (hi : (i, op) ∈ requestsOf q) (hop : op ≠ 2)
    (hr : perform p op q se = (p', a)) (hopen : sessionOpen p' se.number = true) : Completes i s (fun x => x = replied p' q se a) :=
  request_answered (r := (p', a)) hp ha hi hr hopen (fun h => hop h.1)

variable (hopen : sessionOpen p se.number = true)
include hopen

theorem domainWrite_puts {e : Entry} {u : Nat} (hform : requestMalformed 8 q = false) (hcheck : checkEntry p 8 q se = .ok (e, u))
    {r : Pkg × Answer} (hr : gated p e u q.subindex (fun p => writeSlot p q.arg2 q.data) = r) :
    Completes (.domainWrite q) s (fun x => x = replied r.1 q se (writeAnswer q e u q.subindex r).2
      ∧ (gate p e u q.subindex = none → q.data ≠ [] →
        if p.flash.activeSlot = 0 then r.1.flash.slotB = slotWith p.flash.slotB q.arg2 q.data ∧ r.1.flash.slotA = p.flash.slotA
        else r.1.flash.slotA = slotWith p.flash.slotA q.arg2 q.data ∧ r.1.flash.slotB = p.flash.slotB)) := by
  have hmp : r.1.mp = p.mp := by
    rw [← hr, gated]
    split
    · exact (refuseNoted_keeps _ _ _ _ _).1
    · exact writeSlot_mp _ _ _
  have hfirst : (writeAnswer q e u q.subindex r).1 = r.1 := by
    unfold writeAnswer
    split <;> rfl
  have hperform : perform p 8 q se = (r.1, (writeAnswer q e u q.subindex r).2) := by
    rw [perform_named (by simp [namesEntry]) hform hcheck]
    refine Prod.ext ?_ ?_
    · rw [← hfirst, ← hr]; rfl
    · rw [← hr]; rfl
  refine (request_performed hp ha (by simp [requestsOf]) (by decide) hperform ?_).mono fun x hx => ⟨hx, fun hgate hdata => ?_⟩
  · rw [sessionOpen_of_mp hmp]
    exact hopen
  · rw [← hr, gated, hgate]
    exact writeSlot_slots p q.arg2 hdata

end

/-- Settles O48, by the operation and by what it finds of its transfer. Two of its clauses are choices of the model: that the inactive slot
grows with its segments (entry 142 of the log), and that the restart entry's write is answered before the start (entry 143). -/
theorem writesServed : Obligations.WritesServed := by
  unfold Obligations.WritesServed
  intro s q p se hp ha hopen
  refine ⟨fun e u r hform hcheck hr hstays => ⟨fun hplain => ?write, fun hindex htaken => ?restart⟩, fun e u r hform hcheck hr => ?domain,
    fun e u hform hcheck => ⟨fun hroom => ?begins, fun hfull => ?full⟩, fun t hform hfind => ⟨fun hroom => ?segment, fun hover => ?beyond⟩,
    fun t hform hfind => ⟨fun b hb hcrc => ⟨fun a hcheck => ?commitRefused, fun e u r hcheck hr hstays => ?commit⟩, fun b hb hcrc => ?damaged, fun hb => ?missing⟩,
    fun t hform hfind => ?abandon, fun i hi hform hnone => ?noTransfer⟩
  case write =>
    exact request_answered hp ha (op := 2) (by simp [requestsOf]) ((perform_named (by simp [namesEntry]) hform hcheck).trans hr) hstays
      (fun ⟨_, h⟩ => hplain h)
  case restart =>
    exact dapWrite_restarts hp ha ((perform_named (by simp [namesEntry]) hform hcheck).trans hr) hstays hindex htaken
  case domain => exact domainWrite_puts hp ha hopen hform hcheck hr
  case begins =>
    refine (request_performed hp ha (op := 4) (by simp [requestsOf]) (by decide) ((perform_begin hform hcheck).trans (openTransfer_opens hroom))
      ((sessionOpen_transferOpened _).trans hopen)).mono fun x hx => ?_
    exact ⟨transferOpened p q se, rfl, rfl, rfl, fun t ht hn => transferOpened_transfer ht hn, hx⟩
  case full => exact request_reads hp ha hopen (op := 4) (by simp [requestsOf]) (by decide) ((perform_begin hform hcheck).trans (openTransfer_full hfull))
  case segment =>
    exact request_performed hp ha (op := 5) (by simp [requestsOf]) (by decide) ((perform_segment hform).trans (placeSegment_places hfind hroom))
      ((sessionOpen_segmentPlaced _).trans hopen)
  case beyond => exact request_reads hp ha hopen (op := 5) (by simp [requestsOf]) (by decide) ((perform_segment hform).trans (placeSegment_beyond hfind hover))
  case commitRefused =>
    exact request_performed hp ha (op := 6) (by simp [requestsOf]) (by decide) ((perform_commit hform).trans (commitTransfer_refused hfind hb hcrc hcheck))
      ((sessionOpen_endTransfer _ _ _ _).trans hopen)
  case commit =>
    exact request_performed hp ha (op := 6) (by simp [requestsOf]) (by decide) ((perform_commit hform).trans ((commitTransfer_writes hfind hb hcrc hcheck).trans hr)) hstays
  case damaged =>
    exact request_performed hp ha (op := 6) (by simp [requestsOf]) (by decide) ((perform_commit hform).trans (commitTransfer_damaged hfind hb hcrc))
      ((sessionOpen_endTransfer _ _ _ _).trans hopen)
  case missing =>
    exact request_performed hp ha (op := 6) (by simp [requestsOf]) (by decide) ((perform_commit hform).trans (commitTransfer_missing hfind hb))
      ((sessionOpen_endTransfer _ _ _ _).trans hopen)
  case abandon =>
    exact request_performed hp ha (op := 7) (by simp [requestsOf]) (by decide) ((perform_abandon hform).trans (abandonTransfer_ends hfind))
      ((sessionOpen_endTransfer _ _ _ _).trans hopen)
  case noTransfer =>
    obtain ⟨hmem, hop, hperform⟩ := perform_noTransfer hnone hi hform
    exact request_reads hp ha hopen hmem hop hperform

end Sys2Proof.Machine
end

section
/-! What is sent stays sent: the outputs after a transaction, an event or a violation hold those before it. -/

namespace Sys2Proof.Machine

/-- Everything sent outward so far is still among what has been sent. -/
structure KeepsOut (p q : Pkg) : Prop where
  sub : p.out ⊆ q.out

theorem KeepsOut.of_eq {p q : Pkg} (h : q.out = p.out) : KeepsOut p q := ⟨by rw [h]; exact List.Subset.refl _⟩
theorem KeepsOut.rfl (p : Pkg) : KeepsOut p p := of_eq (Eq.refl p.out)
theorem KeepsOut.trans {p q r : Pkg} (h : KeepsOut p q) (g : KeepsOut q r) : KeepsOut p r := ⟨List.Subset.trans h.sub g.sub⟩
theorem KeepsOut.ms (p : Pkg) (m : Ms) : KeepsOut p { p with ms := m } := of_eq (Eq.refl p.out)
theorem KeepsOut.hi (p : Pkg) (h : Hi) : KeepsOut p { p with hi := h } := of_eq (Eq.refl p.out)
theorem KeepsOut.wr (p : Pkg) (e : Entry) (sub v : Nat) : KeepsOut p (wr p e sub v) := of_eq (Eq.refl p.out)
theorem KeepsOut.bump (p : Pkg) (e : Entry) (sub n : Nat) : KeepsOut p (bump p e sub n) := of_eq (Eq.refl p.out)
theorem KeepsOut.touch (p : Pkg) (e : Entry) (sub : Nat) : KeepsOut p (touch p e sub) := of_eq (Eq.refl p.out)
theorem KeepsOut.last (p : Pkg) (e : Entry) (sub n : Nat) : KeepsOut p (last p e sub n) := of_eq (Eq.refl p.out)

theorem KeepsOut.ite {p a b : Pkg} (c : Prop) [Decidable c] (h : KeepsOut p a) (g : KeepsOut p b) : KeepsOut p (if c then a else b) := by
  split
  · exact h
  · exact g

theorem KeepsOut.foldl {α : Type} {f : Pkg → α → Pkg} (hf : ∀ q x, KeepsOut q (f q x)) (l : List α) (p : Pkg) : KeepsOut p (l.foldl f p) :=
  List.foldlRecOn (motive := fun q : Pkg => KeepsOut p q) _ _ (KeepsOut.rfl p) (fun q hq x _ => hq.trans (hf q x))

theorem emit_keepsOut (p : Pkg) (x : Out) : KeepsOut p (emit p x) := ⟨List.subset_append_left _ _⟩
theorem mem_emit (p : Pkg) (x : Out) : x ∈ (emit p x).out := List.mem_append_right _ (List.mem_singleton_self x)

theorem launch_keepsOut (p : Pkg) (b : Bool) (k : Packet) : KeepsOut p (launch p b k) :=
  KeepsOut.ite _ (emit_keepsOut _ _) (KeepsOut.of_eq (Eq.refl p.out))

theorem launchTxn_keepsOut (p : Pkg) (t : Txn) (k : Packet) : KeepsOut p (launchTxn p t k) := by
  unfold launchTxn
  split
  · exact emit_keepsOut _ _
  · exact launch_keepsOut _ _ _

theorem transmit_keepsOut (p : Pkg) (before : List Txn) (t : Txn) : KeepsOut p (transmit p before t).1 := by
  unfold transmit
  dsimp only
  refine KeepsOut.trans ?_ (launchTxn_keepsOut _ _ _)
  have hnumbered : ∀ c [Decidable c] (m : Ms), KeepsOut p (bump (if c then p else { p with ms := m }) Ix.msTransactionsSent 0 1) :=
    fun c _ m => (KeepsOut.ite c (KeepsOut.rfl p) (KeepsOut.ms p m)).trans (KeepsOut.bump _ _ _ _)
  exact KeepsOut.ite _ (hnumbered _ _) (KeepsOut.ite _ ((hnumbered _ _).trans (KeepsOut.bump _ _ _ _)) ((hnumbered _ _).trans (KeepsOut.bump _ _ _ _)))

theorem pumpOne_keepsOut (a : Pkg × List Txn) (t : Txn) : KeepsOut a.1 (pumpOne a t).1 := by
  unfold pumpOne
  split
  · exact KeepsOut.rfl _
  · split
    · exact KeepsOut.ms _ _
    · split
      · exact KeepsOut.ms _ _
      · split
        · exact transmit_keepsOut _ _ _
        · exact KeepsOut.rfl _

theorem pump_keepsOut (p : Pkg) : KeepsOut p (pump p) := by
  have hfold : ∀ (l : List Txn) (a : Pkg × List Txn), KeepsOut a.1 (l.foldl pumpOne a).1 := by
    intro l
    induction l with
    | nil => exact fun a => KeepsOut.rfl a.1
    | cons t l ih => exact fun a => (pumpOne_keepsOut a t).trans (ih _)
  exact (hfold p.ms.txns (p, [])).trans (KeepsOut.ms _ _)

theorem send_keepsOut (p : Pkg) (t : Txn) : KeepsOut p (send p t) := by
  unfold send
  split
  · exact KeepsOut.ms _ _
  · split
    · exact KeepsOut.ms _ _
    · exact (KeepsOut.ms _ _).trans (pump_keepsOut _)

theorem hostStore_keepsOut (p : Pkg) (source partition addr : Nat) (data : Bytes) (step : Nat) (u : Purpose) :
    KeepsOut p (hostStore p source partition addr data step u) := send_keepsOut _ _

theorem announceEvents_keepsOut (p : Pkg) : KeepsOut p (announceEvents p) := by
  unfold announceEvents
  split
  · exact KeepsOut.rfl _
  · exact (KeepsOut.hi _ _).trans (send_keepsOut _ _)

theorem putEvent_keepsOut (p : Pkg) (e : EventEntry) : KeepsOut p (putEvent p e) := by
  unfold putEvent
  dsimp only
  have hput := ((hostStore_keepsOut p eventSource 0xFF (rd p Ix.hiEventRingBase 0 + p.hi.seq % rd p Ix.hiEventRingSlots 0 * 32) e.bytes e.step .event).trans
    (KeepsOut.hi _ { (hostStore p eventSource 0xFF (rd p Ix.hiEventRingBase 0 + p.hi.seq % rd p Ix.hiEventRingSlots 0 * 32) e.bytes e.step .event).hi with
      seq := p.hi.seq + 1, unannounced := p.hi.unannounced + 1 })).trans (KeepsOut.bump _ Ix.hiEventsWritten 0 1)
  split
  · exact hput.trans (announceEvents_keepsOut _)
  · exact hput

theorem drainEvents_keepsOut (fuel : Nat) (p : Pkg) : KeepsOut p (drainEvents fuel p) := by
  induction fuel generalizing p with
  | zero => exact KeepsOut.rfl _
  | succ n ih =>
    unfold drainEvents
    split
    · exact KeepsOut.rfl _
    · split
      · exact ((KeepsOut.hi _ _).trans (putEvent_keepsOut _ _)).trans (ih _)
      · split
        · exact KeepsOut.rfl _
        · exact ((KeepsOut.hi _ _).trans (putEvent_keepsOut _ _)).trans (ih _)

theorem raiseStep_keepsOut (p : Pkg) (step code partition unit detail : Nat) : KeepsOut p (raiseStep p step code partition unit detail) := by
  unfold raiseStep
  split
  · exact KeepsOut.rfl _
  · dsimp only
    split
    · exact (KeepsOut.hi _ _).trans (KeepsOut.bump _ _ _ _)
    · exact (KeepsOut.hi _ _).trans (drainEvents_keepsOut _ _)

theorem raise_keepsOut (p : Pkg) (code partition unit detail : Nat) : KeepsOut p (raise p code partition unit detail) := raiseStep_keepsOut _ _ _ _ _ _

theorem raise0_keepsOut (p : Pkg) (code : Nat) : KeepsOut p (raise0 p code) := raise_keepsOut _ _ _ _ _

theorem raiseAs_keepsOut (p : Pkg) (e : Entry) (sub code partition unit detail : Nat) : KeepsOut p (raiseAs p e sub code partition unit detail) :=
  (KeepsOut.last _ _ _ _).trans (raise_keepsOut _ _ _ _ _)

/-- The log with one entry more, or with the newest one repeated. -/
theorem logViolation_cases (p : Pkg) (kind port partner status step : Nat) (header : Bytes) : ∃ m : Ms,
    logViolation p kind port partner status step header = touch { p with ms := m } Ix.msViolationLog 0
    ∨ logViolation p kind port partner status step header
      = raiseAs (touch (bump { p with ms := m } Ix.msViolationHead 0 1) Ix.msViolationLog 0) Ix.msLastStatus 0 0x0E10 0xFF 0xFFFFFFFF 0 := by
  unfold logViolation
  dsimp only
  split
  · split
    · exact ⟨_, .inl rfl⟩
    · exact ⟨_, .inr rfl⟩
  · exact ⟨_, .inr rfl⟩

theorem logViolation_keepsOut (p : Pkg) (kind port partner status step : Nat) (header : Bytes) :
    KeepsOut p (logViolation p kind port partner status step header) := by
  obtain ⟨m, h | h⟩ := logViolation_cases p kind port partner status step header
  · rw [h]
    exact (KeepsOut.ms p m).trans (KeepsOut.touch _ _ _)
  · rw [h]
    exact (((KeepsOut.ms p m).trans (KeepsOut.bump _ _ _ _)).trans (KeepsOut.touch _ _ _)).trans (raiseAs_keepsOut _ _ _ _ _ _ _)

theorem logViolation_mp (p : Pkg) (kind port partner status step : Nat) (header : Bytes) :
    (logViolation p kind port partner status step header).mp = p.mp := by
  obtain ⟨m, h | h⟩ := logViolation_cases p kind port partner status step header
  · rw [h]; rfl
  · rw [h, raiseAs, (raise_keeps _ _ _ _ _).mp]; rfl

end Sys2Proof.Machine
end

section
/-! Handshakes and sessions (O49). -/

namespace Sys2Proof.Machine

/-- What counting datagrams leaves: everything but the three counters of a management port. -/
structure CountsOnly (p q : Pkg) : Prop where
  rest : { q with dict := p.dict } = p
  vals : ∀ k, k / 256 ≠ 0x101A → k / 256 ≠ 0x101B → k / 256 ≠ 0x101C → tfind q.dict.vals k = tfind p.dict.vals k

theorem CountsOnly.rfl (p : Pkg) : CountsOnly p p := ⟨Eq.refl p, fun _ _ _ _ => Eq.refl _⟩

theorem CountsOnly.trans {p q r : Pkg} (h : CountsOnly p q) (g : CountsOnly q r) : CountsOnly p r where
  rest := by rw [← h.rest, ← g.rest]
  vals k h1 h2 h3 := (g.vals k h1 h2 h3).trans (h.vals k h1 h2 h3)

theorem CountsOnly.bump (p : Pkg) {e : Entry} (he : e.index = 0x101A ∨ e.index = 0x101B ∨ e.index = 0x101C) {sub : Nat} (hs : sub < 2) (n : Nat) :
    CountsOnly p (bump p e sub n) where
  rest := Eq.refl p
  vals k h1 h2 h3 := tfind_tput_ne _ _ (by simp only [keyAt]; omega)

section
variable (p : Pkg) (t n : Nat)

theorem rxCount_counts : CountsOnly p (rxCount p t) := by
  unfold rxCount
  split
  · exact CountsOnly.bump p (.inl (Eq.refl _)) ‹_› 1
  · exact CountsOnly.rfl p

theorem rxDrop_counts : CountsOnly p (rxDrop p t) := by
  unfold rxDrop
  split
  · exact CountsOnly.bump p (.inr (.inl (Eq.refl _))) ‹_› 1
  · exact CountsOnly.rfl p

theorem txCount_counts : CountsOnly p (txCount p t n) := by
  unfold txCount
  split
  · exact CountsOnly.bump p (.inr (.inr (Eq.refl _))) ‹_› n
  · exact CountsOnly.rfl p

end

section
variable {p q : Pkg} (h : CountsOnly p q)
include h

theorem CountsOnly.now : q.now = p.now := (congrArg Pkg.now h.rest :)
theorem CountsOnly.mp : q.mp = p.mp := (congrArg Pkg.mp h.rest :)
theorem CountsOnly.out : q.out = p.out := (congrArg Pkg.out h.rest :)
theorem CountsOnly.mem : q.mem = p.mem := (congrArg Pkg.mem h.rest :)
theorem CountsOnly.parts : q.parts = p.parts := (congrArg Pkg.parts h.rest :)
theorem CountsOnly.flash : q.flash = p.flash := (congrArg Pkg.flash h.rest :)

theorem CountsOnly.rd {e : Entry} (he : 0x101C < e.index) {sub : Nat} (hs : sub < 256) : Machine.rd q e sub = Machine.rd p e sub := by
  rw [Machine.rd, rdAt, h.vals _ (by simp only [keyAt]; omega) (by simp only [keyAt]; omega) (by simp only [keyAt]; omega)]
  rfl

theorem CountsOnly.rdB {e : Entry} (he : 0x101C < e.index) {sub : Nat} (hs : sub < 256) : Machine.rdB q e sub = Machine.rdB p e sub := by
  rw [Machine.rdB, h.vals _ (by simp only [keyAt]; omega) (by simp only [keyAt]; omega) (by simp only [keyAt]; omega)]
  rfl

end

section
variable (p : Pkg) (t n : Nat) (x : Out)

theorem emit_txCount_mp : (emit (txCount p t n) x).mp = p.mp := (txCount_counts p t n).mp
theorem emit_txCount_mem : (emit (txCount p t n) x).mem = p.mem := (txCount_counts p t n).mem
theorem emit_txCount_parts : (emit (txCount p t n) x).parts = p.parts := (txCount_counts p t n).parts

end

/-- What an ERROR that ends a handshake shows and leaves (R406, R407). -/
theorem refuseHandshake_shows (p : Pkg) (t client session : Nat) {abort : Nat} (ha : abort < 0xF000) (header : Bytes) :
    (refuseHandshake p t client session abort header).mp = p.mp ∧ rd (refuseHandshake p t client session abort header) Ix.mpLastStatus 0 = 0x1000 + abort
    ∧ Out.errorDatagram t client session abort ∈ (refuseHandshake p t client session abort header).out
    ∧ (refuseHandshake p t client session abort header).mem = p.mem ∧ (refuseHandshake p t client session abort header).parts = p.parts := by
  have hsent : ∀ q : Pkg, q = emit (last (bump (txCount p t 1) Ix.mpAbortsSent 0 1) Ix.mpLastStatus 0 (0x1000 + abort)) (.errorDatagram t client session abort) →
      q.mp = p.mp ∧ rd q Ix.mpLastStatus 0 = 0x1000 + abort ∧ Out.errorDatagram t client session abort ∈ q.out ∧ q.mem = p.mem ∧ q.parts = p.parts := by
    rintro q rfl
    have hcount := txCount_counts p t 1
    refine ⟨hcount.mp, ?_, mem_emit _ _, hcount.mem, hcount.parts⟩
    rw [rd_emit, rd_last_self]
    exact Nat.mod_eq_of_lt (by simp only [Ix.mpLastStatus, EType.width]; omega)
  unfold refuseHandshake
  dsimp only
  split
  case isFalse => exact hsent _ rfl
  case isTrue =>
    obtain ⟨hmp, hstatus, hout, hmem, hparts⟩ := hsent _ rfl
    generalize emit (last (bump (txCount p t 1) Ix.mpAbortsSent 0 1) Ix.mpLastStatus 0 (0x1000 + abort)) (.errorDatagram t client session abort) = q at *
    have hraise := raise0_keeps (bump (clientViolation q t 0xFFFF abort header) Ix.mpAuthFailures 0 1) 0x1020
    refine ⟨?_, ?_, ?_, ?_, ?_⟩
    · rw [hraise.mp, bump_mp]
      exact (logViolation_mp _ _ _ _ _ _ _).trans hmp
    · rw [hraise.rd _ _ (commsKey_low (by decide) (by omega)), rd_bump_ne _ _ (by decide) (by omega) (by omega), ← hstatus]
      exact logViolation_rdAt _ _ _ _ _ _ _ _ _ _ (commsKey_low (by decide) (by omega)) (by decide) (by decide)
    · exact (((logViolation_keepsOut _ _ _ _ _ _ _).trans (KeepsOut.bump _ _ _ _)).trans (raise0_keepsOut _ _)).sub hout
    · rw [hraise.mem, bump_mem]
      exact (logViolation_mem _ _ _ _ _ _ _).trans hmem
    · rw [hraise.parts, bump_parts]
      exact (logViolation_parts _ _ _ _ _ _ _).trans hparts

/-- No violation is logged but for a refused credential: the ERROR is the last thing sent. -/
theorem refuseHandshake_last (p : Pkg) (t client session : Nat) {abort : Nat} (ha : abort ≠ 0x13) (header : Bytes) :
    (refuseHandshake p t client session abort header).out.getLast? = some (.errorDatagram t client session abort) := by
  unfold refuseHandshake
  dsimp only
  rw [if_neg ha]
  exact emit_last _ _

section
variable {p : Pkg} {t client : Nat} {d : Bytes}

theorem takeHello_dropped (h : helloOk d = false) : takeHello p t client d = rxDrop (rxCount p t) t := by
  rw [takeHello, h]
  rfl

variable (h : helloOk d = true)
include h

/-- A HELLO that cannot be served is refused (R396, R398, R410). -/
theorem takeHello_refused {abort : Nat} (hcause : commonLevel (leAt d 17 1) (leAt d 2 1) = none ∧ abort = 0x14
    ∨ commonLevel (leAt d 17 1) (leAt d 2 1) ≠ none ∧ (leAt d 16 1 = 0 ∨ 3 < leAt d 16 1) ∧ abort = 0x13
    ∨ commonLevel (leAt d 17 1) (leAt d 2 1) ≠ none ∧ 1 ≤ leAt d 16 1 ∧ leAt d 16 1 ≤ 3 ∧ 8 ≤ p.mp.handshakes.length ∧ abort = 0x12) :
    takeHello p t client d = refuseHandshake (rxCount p t) t client 0 abort (d.take 12) := by
  rw [takeHello, h]
  cases hlevel : commonLevel (leAt d 17 1) (leAt d 2 1) with
  | none =>
    obtain ⟨-, rfl⟩ | ⟨hsome, -⟩ | ⟨hsome, -⟩ := hcause
    · rfl
    · exact absurd hlevel hsome
    · exact absurd hlevel hsome
  | some level =>
    obtain ⟨hnone, -⟩ | ⟨-, hrole, rfl⟩ | ⟨-, hlow, hhigh, hfull, rfl⟩ := hcause
    · rw [hlevel] at hnone
      cases hnone
    · exact if_pos hrole
    · have hfull' : 8 ≤ (rxCount p t).mp.handshakes.length := by rw [(rxCount_counts p t).mp]; exact hfull
      dsimp only
      rw [if_neg (show ¬(leAt d 16 1 = 0 ∨ 3 < leAt d 16 1) by omega), if_pos hfull']
      rfl

theorem takeHello_opens {level : Nat} (hlevel : commonLevel (leAt d 17 1) (leAt d 2 1) = some level) (hlow : 1 ≤ leAt d 16 1) (hhigh : leAt d 16 1 ≤ 3)
    (hroom : p.mp.handshakes.length < 8) : takeHello p t client d = openHandshake (rxCount p t) t client level d := by
  rw [takeHello, h, hlevel]
  have hroom' : ¬ 8 ≤ (rxCount p t).mp.handshakes.length := by rw [(rxCount_counts p t).mp]; omega
  dsimp only
  rw [if_neg (show ¬(leAt d 16 1 = 0 ∨ 3 < leAt d 16 1) by omega), if_neg hroom']
  rfl

end

/-- What a handshake that opens shows and leaves (R393 to R395). -/
theorem openHandshake_shows (p : Pkg) (t client level : Nat) (d : Bytes) :
    (openHandshake p t client level d).mp.nextSession = p.mp.nextSession + 1 ∧ (openHandshake p t client level d).mp.sessions = p.mp.sessions
    ∧ (∃ h : Handshake, (openHandshake p t client level d).mp.handshakes = p.mp.handshakes ++ [h] ∧ h.number = p.mp.nextSession ∧ h.role = leAt d 16 1
        ∧ h.credential = leAt d 18 2 ∧ h.transport = t ∧ h.client = client ∧ h.helloNs = p.now ∧ h.level = level
        ∧ h.keys = hkdf256 h.transcript (h.x25519Secret ++ h.kemSecret) [0x44, 0x41, 0x50, 0x31] 88)
    ∧ (∃ b, (openHandshake p t client level d).out.getLast? = some (.helloReply p.mp.nextSession b))
    ∧ (openHandshake p t client level d).mem = p.mem ∧ (openHandshake p t client level d).parts = p.parts := by
  unfold openHandshake
  dsimp only
  rw [emit_txCount_mp, emit_txCount_mem, emit_txCount_parts]
  exact ⟨rfl, rfl, ⟨_, rfl, rfl, rfl, rfl, rfl, rfl, rfl, rfl, rfl⟩, ⟨_, emit_last _ _⟩, rfl, rfl⟩

section
variable {p : Pkg} {n t client sequence : Nat}

theorem takeFinish_dropped {tag verify : Bool}
    (h : tag = false ∨ p.mp.handshakes.find? (fun h => h.number == n && h.transport == t && h.client == client) = none) :
    takeFinish p n t client sequence tag verify = rxDrop (rxCount p t) t := by
  unfold takeFinish
  dsimp only
  rw [(rxCount_counts p t).mp]
  cases hfind : p.mp.handshakes.find? (fun h => h.number == n && h.transport == t && h.client == client) with
  | none => rfl
  | some h' =>
    obtain rfl | hnone := h
    · exact if_pos rfl
    · rw [hfind] at hnone
      cases hnone

/-- The package when a handshake ends. -/
def handshakeEnded (p : Pkg) (n : Nat) : Pkg := { p with mp := { p.mp with handshakes := p.mp.handshakes.filter (fun g => g.number != n) } }

theorem roleAllowed_ended (h : Handshake) (verify : Bool) : roleAllowed (handshakeEnded (rxCount p t) n) h verify = roleAllowed p h verify := by
  have hcredentials : rdB (handshakeEnded (rxCount p t) n) Ix.mpCredentials 0 = rdB p Ix.mpCredentials 0 :=
    (rxCount_counts p t).rdB (by decide) (by omega)
  simp only [roleAllowed, anyCredential, credentialAt, hcredentials]

theorem handshakeEnded_counted (p : Pkg) (n t : Nat) : (handshakeEnded (rxCount p t) n).mp.sessions = p.mp.sessions
    ∧ (handshakeEnded (rxCount p t) n).mp.handshakes = p.mp.handshakes.filter (fun g => g.number != n) := by
  simp only [handshakeEnded, (rxCount_counts p t).mp, and_self]

theorem sessionRoom_ended (role : Nat) : sessionRoom (handshakeEnded (rxCount p t) n) role = sessionRoom p role := by
  have hlimit : rd (handshakeEnded (rxCount p t) n) Ix.mpSessionLimit 0 = rd p Ix.mpSessionLimit 0 := (rxCount_counts p t).rd (by decide) (by omega)
  simp only [sessionRoom, hlimit, (handshakeEnded_counted p n t).1]

variable {h : Handshake} (hfind : p.mp.handshakes.find? (fun h => h.number == n && h.transport == t && h.client == client) = some h) (verify : Bool)
include hfind

/-- A FINISH that finds its handshake ends it: in time, with a role that its credential allows and with room, in a session (R393, R396). -/
theorem takeFinish_found : takeFinish p n t client sequence true verify =
    if h.helloNs + 2000000000 ≤ (rxCount p t).now then
      refuseHandshake (handshakeEnded (rxCount p t) n) t client n 0x15 (dapHeader h.level 3 n sequence)
    else if roleAllowed p h verify = false then refuseHandshake (handshakeEnded (rxCount p t) n) t client n 0x13 (dapHeader h.level 3 n sequence)
    else if sessionRoom p h.role = false then refuseHandshake (handshakeEnded (rxCount p t) n) t client n 0x12 (dapHeader h.level 3 n sequence)
    else openSession (handshakeEnded (rxCount p t) n) h sequence := by
  rw [← (rxCount_counts p t).mp] at hfind
  rw [← roleAllowed_ended h verify, ← sessionRoom_ended h.role]
  simp only [takeFinish, hfind, Bool.not_true, Bool.not_eq_true', Bool.false_eq_true, if_false]
  rfl

theorem takeFinish_refused {abort : Nat} (hcause : h.helloNs + 2000000000 ≤ p.now ∧ abort = 0x15
    ∨ p.now < h.helloNs + 2000000000 ∧ roleAllowed p h verify = false ∧ abort = 0x13
    ∨ p.now < h.helloNs + 2000000000 ∧ roleAllowed p h verify = true ∧ sessionRoom p h.role = false ∧ abort = 0x12) :
    takeFinish p n t client sequence true verify
      = refuseHandshake (handshakeEnded (rxCount p t) n) t client n abort (dapHeader h.level 3 n sequence) := by
  rw [takeFinish_found hfind verify, (rxCount_counts p t).now]
  obtain ⟨hlate, rfl⟩ | ⟨hsoon, hrole, rfl⟩ | ⟨hsoon, hrole, hroom, rfl⟩ := hcause
  · exact if_pos hlate
  · rw [if_neg (Nat.not_le.2 hsoon), if_pos hrole]
  · rw [if_neg (Nat.not_le.2 hsoon), if_neg (by simp [hrole]), if_pos hroom]

theorem takeFinish_opens (hsoon : p.now < h.helloNs + 2000000000) (hrole : roleAllowed p h verify = true) (hroom : sessionRoom p h.role = true) :
    takeFinish p n t client sequence true verify = openSession (handshakeEnded (rxCount p t) n) h sequence := by
  rw [takeFinish_found hfind verify, (rxCount_counts p t).now, if_neg (Nat.not_le.2 hsoon), if_neg (by simp [hrole]), if_neg (by simp [hroom])]

end

/-- What a session that opens shows and leaves (R393). -/
theorem openSession_shows (p : Pkg) (h : Handshake) (sequence : Nat) :
    (openSession p h sequence).mp.handshakes = p.mp.handshakes
    ∧ (∃ e : Session, (openSession p h sequence).mp.sessions = p.mp.sessions ++ [e] ∧ e.number = h.number ∧ e.role = h.role ∧ e.credential = h.credential
        ∧ e.keys = h.keys ∧ e.highest = sequence ∧ e.transfers = [] ∧ e.lastNs = p.now)
    ∧ (∃ b, (openSession p h sequence).out.getLast? = some (.response h.number {} b))
    ∧ (openSession p h sequence).mem = p.mem ∧ (openSession p h sequence).parts = p.parts := by
  unfold openSession
  dsimp only
  rw [emit_txCount_mp, emit_txCount_mem, emit_txCount_parts]
  exact ⟨rfl, ⟨_, rfl, rfl, rfl, rfl, rfl, rfl, rfl, rfl⟩, ⟨_, emit_last _ _⟩, rfl, rfl⟩

/-- Admitting a datagram leaves memory and the partitions. -/
theorem admitDatagram_keeps (p : Pkg) (n t client sequence : Nat) (tag : Bool) {q : Pkg} {e : Session}
    (h : admitDatagram p n t client sequence tag = (q, some e)) : q.mem = p.mem ∧ q.parts = p.parts := by
  have hcount := rxCount_counts p t
  unfold admitDatagram at h
  dsimp only at h
  split at h
  · cases h
  · split at h
    · cases h
    · split at h
      · cases h
      · split at h
        · cases h
        · cases h
          exact ⟨hcount.mem, hcount.parts⟩

/-- Ending an open session closes it toward its client (R408). -/
theorem endSession_closes (p : Pkg) {n : Nat} {e : Session} (h : p.mp.sessions.find? (fun s => s.number == n) = some e) :
    ∃ b, endSession p n = emit (touch { p with mp := { p.mp with sessions := p.mp.sessions.filter (fun s => s.number != n) } } Ix.mpSessions 0) (.close n b) := by
  refine ⟨sealDatagram e 6 [], ?_⟩
  rw [endSession, h]

/-- Settles O49, by the datagram or the timer and by what it finds. That the package sends a CLOSE when it ends a session itself is the model's
choice (entry 132 of the log): R408 lists only the causes. -/
theorem sessionsComplete : Obligations.SessionsComplete := by
  unfold Obligations.SessionsComplete
  intro s hp
  refine ⟨fun t client d level hform hlevel hlow hhigh hroom => ?opens, fun t client d hform => ?helloDropped, fun t client d abort hform hcause => ?helloRefused,
    fun n t client sequence h hfind => ⟨fun verify hsoon hrole hroom => ?finishes, fun verify abort hcause => ?finishRefused⟩,
    fun n t client sequence tag verify hcause => ?finishDropped,
    fun n t client sequence tag p => ⟨fun e hadmit => ?closes, fun hadmit => ?closeDropped⟩,
    fun n h hfind => ⟨fun hlate => ?givenUp, fun hsoon => ?handshakeStays⟩,
    fun n e hfind => ⟨fun hlate => ?idle, fun hsoon => ?sessionStays, fun t x hx => ⟨fun hlate => ?transferEnds, fun hsoon => ?transferStays⟩⟩,
    fun n t => ⟨fun hnone => ?noHandshake, fun hnone => ?noSession, fun hnone => ?noTransfer⟩,
    fun w hopen => ⟨fun hany => ?sessionClosed, fun hnone => ?closeRefused⟩⟩
  case opens =>
    refine completes_of hp (exec_hello t client d s) ?_
    rw [takeHello_opens (p := begun s) hform hlevel hlow hhigh hroom]
    have hcount := rxCount_counts (begun s) t
    obtain ⟨hnext, hsessions, hshake, hout, hmem, hparts⟩ := openHandshake_shows (rxCount (begun s) t) t client level d
    rw [hcount.mp] at hnext hsessions hshake hout
    rw [hcount.now] at hshake
    exact ⟨hnext, hsessions, hshake, hout, hmem.trans hcount.mem, hparts.trans hcount.parts⟩
  case helloDropped =>
    refine completes_of hp (exec_hello t client d s) ?_
    rw [takeHello_dropped hform]
    have hcount := (rxCount_counts (begun s) t).trans (rxDrop_counts _ t)
    exact ⟨hcount.mp, hcount.out, hcount.mem, hcount.parts⟩
  case helloRefused =>
    refine completes_of hp (exec_hello t client d s) ?_
    rw [takeHello_refused (p := begun s) hform hcause]
    have hcount := rxCount_counts (begun s) t
    obtain ⟨hmp, hstatus, hout, hmem, hparts⟩ := refuseHandshake_shows (rxCount (begun s) t) t client 0 (abort := abort) (by omega) (d.take 12)
    rw [hmp, hcount.mp]
    exact ⟨rfl, rfl, hstatus, hout, hmem.trans hcount.mem, hparts.trans hcount.parts⟩
  case finishes =>
    refine completes_of hp (exec_finish n t client sequence true verify s) ?_
    rw [takeFinish_opens (p := begun s) hfind verify hsoon hrole hroom]
    have hcount := rxCount_counts (begun s) t
    obtain ⟨hshakes, hsession, hout, hmem, hparts⟩ := openSession_shows (handshakeEnded (rxCount (begun s) t) n) h sequence
    obtain ⟨hkept, hended⟩ := handshakeEnded_counted (begun s) n t
    rw [hkept, show (handshakeEnded (rxCount (begun s) t) n).now = s.clock.ns from hcount.now] at hsession
    exact ⟨hshakes.trans hended, hsession, hout, hmem.trans hcount.mem, hparts.trans hcount.parts⟩
  case finishRefused =>
    refine completes_of hp (exec_finish n t client sequence true verify s) ?_
    rw [takeFinish_refused (p := begun s) hfind verify hcause]
    have hcount := rxCount_counts (begun s) t
    obtain ⟨hmp, hstatus, hout, hmem, hparts⟩ := refuseHandshake_shows (handshakeEnded (rxCount (begun s) t) n) t client n (abort := abort) (by omega)
      (dapHeader h.level 3 n sequence)
    obtain ⟨hkept, hended⟩ := handshakeEnded_counted (begun s) n t
    rw [hmp]
    exact ⟨hended, hkept, hstatus, hout, hmem.trans hcount.mem, hparts.trans hcount.parts⟩
  case finishDropped =>
    refine completes_of hp (exec_finish n t client sequence tag verify s) ?_
    rw [takeFinish_dropped (p := begun s) hcause]
    have hcount := (rxCount_counts (begun s) t).trans (rxDrop_counts _ t)
    exact ⟨hcount.mp, hcount.out, hcount.mem, hcount.parts⟩
  case closes =>
    refine completes_of hp (exec_close n t client sequence tag s) ?_
    obtain ⟨hmem, hparts⟩ := admitDatagram_keeps _ _ _ _ _ _ hadmit
    rw [hadmit]
    exact ⟨rfl, rfl, hmem, hparts⟩
  case closeDropped => exact completes_of hp (exec_close n t client sequence tag s) (by rw [hadmit])
  case givenUp =>
    refine completes_of hp (exec_dapHandshakeTimeout n s) ?_
    have hfind' : (begun s).mp.handshakes.find? (fun h => h.number == n) = some h := hfind
    rw [hfind']
    dsimp only
    rw [begun_now, if_neg (Nat.not_lt.2 hlate)]
    obtain ⟨hmp, hstatus, -, hmem, hparts⟩ := refuseHandshake_shows (handshakeEnded (begun s) n) h.transport h.client n (abort := 0x15) (by omega) []
    exact ⟨congrArg Mp.handshakes hmp, refuseHandshake_last _ _ _ _ (by decide) _, hstatus, hmem, hparts⟩
  case handshakeStays =>
    refine completes_of hp (exec_dapHandshakeTimeout n s) ?_
    have hfind' : (begun s).mp.handshakes.find? (fun h => h.number == n) = some h := hfind
    rw [hfind']
    exact if_pos hsoon
  case idle =>
    refine completes_of hp (exec_sessionIdleTimeout n s) ?_
    have hfind' : (begun s).mp.sessions.find? (fun s => s.number == n) = some e := hfind
    obtain ⟨b, hb⟩ := endSession_closes (begun s) hfind'
    rw [hfind']
    dsimp only
    rw [rd_begun, begun_now, if_neg (Nat.not_lt.2 hlate), hb]
    exact ⟨rfl, ⟨b, emit_last _ _⟩, rfl, rfl⟩
  case sessionStays =>
    refine completes_of hp (exec_sessionIdleTimeout n s) ?_
    have hfind' : (begun s).mp.sessions.find? (fun s => s.number == n) = some e := hfind
    rw [hfind']
    exact if_pos hsoon
  case transferEnds =>
    refine completes_of hp (exec_transferIdleTimeout n t s) ?_
    have hfind' : ((begun s).mp.sessions.find? (fun s => s.number == n)).bind (fun s => transferOf s t) = some x := by
      rw [show (begun s).mp.sessions.find? (fun s => s.number == n) = some e from hfind]
      exact hx
    rw [hfind']
    exact if_neg (Nat.not_lt.2 hlate)
  case transferStays =>
    refine completes_of hp (exec_transferIdleTimeout n t s) ?_
    have hfind' : ((begun s).mp.sessions.find? (fun s => s.number == n)).bind (fun s => transferOf s t) = some x := by
      rw [show (begun s).mp.sessions.find? (fun s => s.number == n) = some e from hfind]
      exact hx
    rw [hfind']
    exact if_pos hsoon
  case noHandshake =>
    refine completes_of hp (exec_dapHandshakeTimeout n s) ?_
    rw [show (begun s).mp.handshakes.find? (fun h => h.number == n) = none from hnone]
  case noSession =>
    refine completes_of hp (exec_sessionIdleTimeout n s) ?_
    rw [show (begun s).mp.sessions.find? (fun s => s.number == n) = none from hnone]
  case noTransfer =>
    refine completes_of hp (exec_transferIdleTimeout n t s) ?_
    rw [show ((begun s).mp.sessions.find? (fun s => s.number == n)).bind (fun s => transferOf s t) = none from hnone]
  case sessionClosed =>
    obtain ⟨e, he⟩ := Option.isSome_iff_exists.1 ((List.find?_isSome (p := fun e : Session => e.number == w.toNat)).2 (List.any_eq_true.1 hany))
    obtain ⟨b, hb⟩ := endSession_closes (begun s) he
    refine completes_of_write hp (exec_sessionCloseWrite w s) hopen (if_pos hany) ?_
    rw [hb]
    exact ⟨rfl, ⟨b, List.mem_append_left _ (mem_emit _ _)⟩, answered_last _ _ _⟩
  case closeRefused =>
    refine completes_of_write hp (exec_sessionCloseWrite w s) hopen (if_neg (Bool.eq_false_iff.1 hnone)) ?_
    exact ⟨rfl, answered_last _ _ _⟩

end Sys2Proof.Machine
end

section
/-! Credentials, counter clears and packages declared lost (O50). -/

namespace Sys2Proof.Machine

/-- Ending a session removes every session of its number, and changes no entry (R408). -/
theorem endSession_shows (p : Pkg) (n : Nat) :
    (endSession p n).mp.sessions = p.mp.sessions.filter (fun x => x.number != n) ∧ (endSession p n).dict.vals = p.dict.vals := by
  unfold endSession
  split
  case h_1 hnone =>
    refine ⟨(List.filter_eq_self.2 fun x hx => ?_).symm, rfl⟩
    have := List.find?_eq_none.1 hnone x hx
    simpa using this
  case h_2 => exact ⟨rfl, rfl⟩

/-- Ending several sessions leaves those of other numbers, and changes no entry. -/
theorem endSessions_shows (l : List Session) (p : Pkg) :
    (∀ x, x ∈ (l.foldl (fun p s => endSession p s.number) p).mp.sessions ↔ x ∈ p.mp.sessions ∧ ∀ e ∈ l, x.number ≠ e.number)
    ∧ (l.foldl (fun p s => endSession p s.number) p).dict.vals = p.dict.vals := by
  induction l generalizing p with
  | nil => simp
  | cons e l ih =>
    obtain ⟨hsessions, hvals⟩ := endSession_shows p e.number
    obtain ⟨hmem, hkept⟩ := ih (endSession p e.number)
    refine ⟨fun x => ?_, hkept.trans hvals⟩
    rw [List.foldl_cons, hmem, hsessions, List.mem_filter, List.forall_mem_cons, and_assoc, bne_iff_ne]

/-- Whether a credential table keeps its layout (R397). -/
def credentialsOk (data : Bytes) : Prop := data.length % 2048 = 0 ∧ data.length ≤ 32768 ∧ (records 2048 data).all credentialOk = true

/-- The package when a credential table is in force and kept, and its event raised (R397). -/
def credentialsPut (p : Pkg) (data : Bytes) : Pkg :=
  let b := (records 2048 data).flatMap credentialClean
  raise0 (last (keep (wrB p Ix.mpCredentials 0 b) Ix.mpCredentials 0 (.bytes b)) Ix.mpLastStatus 0 0x1021) 0x1021

/-- Whether a session ends with a new credential table: `p` the package before, `q` with the table in force (R408). -/
def endsWith (p q : Pkg) (e : Session) : Bool :=
  if e.credential = 0xFFFF then !anyCredential p && anyCredential q && !(e.role == 1 && e.transport == 2)
  else credentialAt q e.credential != credentialAt p e.credential

theorem writeCredentials_taken {p : Pkg} {data : Bytes} (h : credentialsOk data) : writeCredentials p data
    = (((credentialsPut p data).mp.sessions.filter (endsWith p (credentialsPut p data))).foldl (fun p s => endSession p s.number) (credentialsPut p data), accepted) := by
  obtain ⟨hsize, hroom, hform⟩ := h
  rw [writeCredentials, if_neg (by simp [hsize, hform]; omega)]
  rfl

theorem writeCredentials_refused {p : Pkg} {data : Bytes} (h : ¬ credentialsOk data) : writeCredentials p data = refuse p (invalid 0x1006) := by
  refine if_pos ?_
  rw [credentialsOk] at h
  by_contra hnot
  simp only [not_or, not_not, Nat.not_lt, Bool.not_eq_false] at hnot
  exact h hnot

theorem credentialsPut_shows (p : Pkg) (data : Bytes) : rdB (credentialsPut p data) Ix.mpCredentials 0 = (records 2048 data).flatMap credentialClean
    ∧ rd (credentialsPut p data) Ix.mpLastStatus 0 = 0x1021 ∧ (credentialsPut p data).mp = p.mp := by
  unfold credentialsPut
  dsimp only
  have hraise := raise0_keeps (last (keep (wrB p Ix.mpCredentials 0 ((records 2048 data).flatMap credentialClean)) Ix.mpCredentials 0
    (.bytes ((records 2048 data).flatMap credentialClean))) Ix.mpLastStatus 0 0x1021) 0x1021
  refine ⟨?_, ?_, ?_⟩
  · rw [hraise.rdB _ _ (commsKey_low (by decide) (by omega)), last, rdB_wr_ne _ _ (by decide) (by omega) (by omega)]
    exact rdB_wrB_self p Ix.mpCredentials 0 _
  · rw [hraise.rd _ _ (commsKey_low (by decide) (by omega)), rd_last_self]
    rfl
  · rw [hraise.mp]
    exact wrB_mp _ _ _ _

/-- Credentials are read from the dictionary alone. -/
theorem credentialAt_of_vals {p q : Pkg} (h : q.dict.vals = p.dict.vals) (i : Nat) : credentialAt q i = credentialAt p i := by
  simp only [credentialAt, rdB, h]

theorem anyCredential_of_vals {p q : Pkg} (h : q.dict.vals = p.dict.vals) : anyCredential q = anyCredential p := by
  simp only [anyCredential, rdB, h]

theorem endsWith_of_vals {p q r : Pkg} (h : r.dict.vals = q.dict.vals) (e : Session) : endsWith p r e = endsWith p q e := by
  simp only [endsWith, credentialAt_of_vals h, anyCredential_of_vals h]

/-- What an accepted credential table shows. -/
theorem credentialsWrite_taken {s : State} {data : Bytes} (hp : powered s.pkg = true) (hopen : gate s.pkg Ix.mpCredentials 0 0 = none) (h : credentialsOk data) :
    Completes (.credentialsWrite data) s (fun q =>
      rdB q Ix.mpCredentials 0 = (records 2048 data).flatMap credentialClean ∧ rd q Ix.mpLastStatus 0 = 0x1021 ∧ q.out.getLast? = some (.answer 0x1024 0 0 0 false)
      ∧ ∀ e ∈ s.pkg.mp.sessions, (endsWith s.pkg q e = true → ∀ x ∈ q.mp.sessions, x.number ≠ e.number)
          ∧ ((∀ x ∈ s.pkg.mp.sessions, x.number = e.number → x = e) → endsWith s.pkg q e = false → e ∈ q.mp.sessions)) := by
  refine completes_of_write hp (exec_credentialsWrite data s) hopen (writeCredentials_taken h) ?_
  obtain ⟨htable, hstatus, hmp⟩ := credentialsPut_shows (begun s) data
  generalize credentialsPut (begun s) data = p at *
  obtain ⟨hsessions, hvals⟩ := endSessions_shows (p.mp.sessions.filter (endsWith (begun s) p)) p
  have hends : ∀ e, endsWith s.pkg (answered Ix.mpCredentials 0 ((p.mp.sessions.filter (endsWith (begun s) p)).foldl (fun p s => endSession p s.number) p, accepted)) e
      = endsWith (begun s) p e := fun e => endsWith_of_vals hvals e
  have hsame : p.mp.sessions = s.pkg.mp.sessions := congrArg Mp.sessions hmp
  refine ⟨?_, ?_, answered_last _ _ _, fun e he => ⟨fun hgone x hx => ?_, fun honly hstays => ?_⟩⟩
  · exact (congrArg (fun v => ((tfind v (keyAt Ix.mpCredentials 0 0)).bind DVal.bytes?).getD []) hvals).trans htable
  · exact (congrArg (fun v => ((tfind v (keyAt Ix.mpLastStatus 0 0)).bind DVal.num?).getD Ix.mpLastStatus.dflt) hvals).trans hstatus
  · rw [hends] at hgone
    exact ((hsessions x).1 hx).2 e (List.mem_filter.2 ⟨by rw [hsame]; exact he, hgone⟩)
  · rw [hends] at hstays
    refine (hsessions e).2 ⟨by rw [hsame]; exact he, fun g hg heq => ?_⟩
    obtain ⟨hgmem, hgone⟩ := List.mem_filter.1 hg
    rw [honly g (by rw [← hsame]; exact hgmem) heq.symm, hstays] at hgone
    cases hgone

section
variable (p : Pkg)

/-- A counter of the ranges that are cleared reads as its default (R387). -/
theorem rd_clearRanges_in {l : List (Nat × Nat)} {e : Entry} {sub : Nat} (h : ∃ r ∈ l, r.1 ≤ keyAt e 0 sub / 256 ∧ keyAt e 0 sub / 256 ≤ r.2) :
    rd (clearRanges p l) e sub = e.dflt := by
  have hdrop : tfind (clearRanges p l).dict.vals (keyAt e 0 sub) = none := by
    refine tfind_filter_of_drops _ _ fun _ => ?_
    simpa using h
  rw [rd, rdAt, hdrop]
  rfl

theorem rd_clearRanges_out {l : List (Nat × Nat)} {e : Entry} {sub : Nat} (h : ∀ r ∈ l, ¬(r.1 ≤ keyAt e 0 sub / 256 ∧ keyAt e 0 sub / 256 ≤ r.2)) :
    rd (clearRanges p l) e sub = rd p e sub := by
  have hkeep : tfind (clearRanges p l).dict.vals (keyAt e 0 sub) = tfind p.dict.vals (keyAt e 0 sub) := by
    refine tfind_filter_of_keeps _ _ fun _ => ?_
    simpa using h
  rw [rd, rdAt, hkeep, rd, rdAt]

/-- But for the alert log, what is cleared beside the ranges is no entry. -/
theorem clearOther_dict {index : Nat} (h : index ≠ 0x2420) : (clearOther p index).dict = p.dict := by
  unfold clearOther
  split
  · rfl
  · exact absurd rfl h
  · exact List.foldlRecOn (motive := fun q : Pkg => q.dict = p.dict) _ _ rfl (fun q hq _ _ => hq)
  · rfl
  · rfl

/-- Clearing a partition's alert log: no alert, and none counted. -/
def clearAlerts (p : Pkg) (pp : Nat) : Pkg := wrB (wr p Ix.qrAlertHead pp 0) Ix.qrAlertLog pp []

theorem clearAlerts_self (pp : Nat) : rd (clearAlerts p pp) Ix.qrAlertHead pp = 0 ∧ rdB (clearAlerts p pp) Ix.qrAlertLog pp = [] := by
  refine ⟨?_, rdB_wrB_self _ _ _ _⟩
  rw [clearAlerts, rd_wrB_ne _ _ (by simp only [keyAt, Ix.qrAlertHead, Ix.qrAlertLog]; omega), rd_wr_self, Nat.zero_mod]

theorem clearAlerts_other {pp pp' : Nat} (h : pp' ≠ pp) (hpp : pp < 12) (hpp' : pp' < 12) :
    rd (clearAlerts p pp) Ix.qrAlertHead pp' = rd p Ix.qrAlertHead pp' ∧ rdB (clearAlerts p pp) Ix.qrAlertLog pp' = rdB p Ix.qrAlertLog pp' := by
  refine ⟨?_, ?_⟩
  · rw [clearAlerts, rd_wrB_ne _ _ (by simp only [keyAt, Ix.qrAlertHead, Ix.qrAlertLog]; omega)]
    exact rdAt_wrAt_ne _ _ (keyAt_sub_ne h)
  · rw [clearAlerts, rdB_wrB_ne _ _ (keyAt_sub_ne h)]
    exact rdB_wr_ne _ _ (by decide) (by omega) (by omega)

/-- Clearing several partitions' alert logs. -/
theorem clearAlerts_fold (l : List Nat) (hl : ∀ pp ∈ l, pp < 12) : ∀ pp < 12, pp ∈ l ∨ (rd p Ix.qrAlertHead pp = 0 ∧ rdB p Ix.qrAlertLog pp = []) →
    rd (l.foldl clearAlerts p) Ix.qrAlertHead pp = 0 ∧ rdB (l.foldl clearAlerts p) Ix.qrAlertLog pp = [] := by
  induction l generalizing p with
  | nil => exact fun pp _ h => h.resolve_left (List.not_mem_nil)
  | cons a l ih =>
    refine fun pp hpp h => ih (clearAlerts p a) (fun x hx => hl x (List.mem_cons_of_mem a hx)) pp hpp ?_
    by_cases ha : pp = a
    · subst ha
      exact .inr (clearAlerts_self p pp)
    · refine h.imp (fun hmem => (List.mem_cons.1 hmem).resolve_left ha) (fun hclear => ?_)
      obtain ⟨hhead, hlog⟩ := clearAlerts_other p ha (hl a List.mem_cons_self) hpp
      exact ⟨hhead.trans hclear.1, hlog.trans hclear.2⟩

/-- Clearing a partition's wait times. -/
theorem clearWaits_fold (l : List Nat) : ∀ pp, pp ∈ l ∨ (part p pp).pc.waitNs = [0, 0, 0, 0, 0] →
    (part (l.foldl (fun p pp => modPc p pp (fun q => { q with waitNs := [0, 0, 0, 0, 0] })) p) pp).pc.waitNs = [0, 0, 0, 0, 0] := by
  induction l generalizing p with
  | nil => exact fun pp h => h.resolve_left (List.not_mem_nil)
  | cons a l ih =>
    refine fun pp h => ih (modPc p a (fun q => { q with waitNs := [0, 0, 0, 0, 0] })) pp ?_
    by_cases ha : pp = a
    · subst ha
      exact .inr (by rw [part_modPc])
    · refine h.imp (fun hmem => (List.mem_cons.1 hmem).resolve_left ha) (fun hclear => ?_)
      rw [modPc, part_modPart_ne _ _ ha]
      exact hclear

end

theorem clearOther_alerts (p : Pkg) : clearOther p 0x2420 = (List.range 12).foldl clearAlerts p := rfl

theorem clearOther_waits (p : Pkg) :
    clearOther p 0x6020 = (List.range 12).foldl (fun p pp => modPc p pp (fun q => { q with waitNs := [0, 0, 0, 0, 0] })) p := rfl

/-- What an accepted write of a counters-clear entry shows (R387). -/
theorem clearOther_shows (p : Pkg) (l : List (Nat × Nat)) (index : Nat) :
    (∀ (e : Entry) (sub : Nat), (∃ r ∈ l, r.1 ≤ keyAt e 0 sub / 256 ∧ keyAt e 0 sub / 256 ≤ r.2) → index ≠ 0x2420 →
      rd (clearOther (clearRanges p l) index) e sub = e.dflt)
    ∧ (∀ (e : Entry) (sub : Nat), (∀ r ∈ l, ¬(r.1 ≤ keyAt e 0 sub / 256 ∧ keyAt e 0 sub / 256 ≤ r.2)) → index ≠ 0x2420 →
      rd (clearOther (clearRanges p l) index) e sub = rd p e sub)
    ∧ (index = 0x2420 → ∀ pp < 12, rd (clearOther (clearRanges p l) index) Ix.qrAlertHead pp = 0 ∧ rdB (clearOther (clearRanges p l) index) Ix.qrAlertLog pp = [])
    ∧ (index = 0x6020 → ∀ pp < 12, (part (clearOther (clearRanges p l) index) pp).pc.waitNs = [0, 0, 0, 0, 0])
    ∧ (index = 0x1030 → (clearOther (clearRanges p l) index).mp.rackDropped = [0, 0, 0, 0])
    ∧ (index = 0x7040 → ∀ r ∈ (clearOther (clearRanges p l) index).pw.reasons, r.cumulativeNs = 0) := by
  refine ⟨fun e sub hin hindex => ?_, fun e sub hout hindex => ?_, ?_, ?_, ?_, ?_⟩
  · rw [rd_of_dict (clearOther_dict _ hindex), rd_clearRanges_in p hin]
  · rw [rd_of_dict (clearOther_dict _ hindex), rd_clearRanges_out p hout]
  · rintro rfl pp hpp
    rw [clearOther_alerts]
    exact clearAlerts_fold _ (List.range 12) (fun x hx => List.mem_range.1 hx) pp hpp (.inl (List.mem_range.2 hpp))
  · rintro rfl pp hpp
    rw [clearOther_waits]
    exact clearWaits_fold _ (List.range 12) pp (.inl (List.mem_range.2 hpp))
  · rintro rfl
    rfl
  · rintro rfl r hr
    obtain ⟨x, -, rfl⟩ := List.mem_map.1 hr
    rfl

/-- Settles O50, by the entry written and by whether the value keeps its form. Two of its clauses are choices of the model: that an index that
clears nothing has no object (entry 130 of the log), and that packages declared lost depart, this package's own id skipped (entry 120). -/
theorem ownersWritesComplete : Obligations.OwnersWritesComplete := by
  unfold Obligations.OwnersWritesComplete
  intro s hp
  refine ⟨fun data hopen => ⟨fun hsize hroom hform => ?credentials, fun hbroken => ?refused⟩,
    fun index v => ⟨fun l hl => ⟨fun hv => ?clears, fun hv => ?clearRefused⟩, fun hnone => ?noObject⟩,
    fun data hopen => ⟨fun heven hroom => ?lost, fun hbroken => ?lostRefused⟩⟩
  case credentials =>
    refine (credentialsWrite_taken hp hopen ⟨hsize, hroom, hform⟩).mono fun q ⟨htable, hstatus, hout, hsessions⟩ => ?_
    refine ⟨htable, hstatus, hout, fun e he hcredential => ?_, fun e he hcredential => ?_⟩
    · obtain ⟨hends, hstays⟩ := hsessions e he
      simp only [endsWith, if_neg hcredential, bne_iff_ne, bne_eq_false_iff_eq] at hends hstays
      exact ⟨hends, hstays⟩
    · obtain ⟨hends, hstays⟩ := hsessions e he
      simp only [endsWith, if_pos hcredential] at hends hstays
      refine ⟨fun hfirst hany hrole => hends ?_, fun honly hcause => hstays honly ?_⟩
      · simpa [hfirst, hany, imp_iff_not_or] using hrole
      · obtain h | h | ⟨hrole, htransport⟩ := hcause
        · simp [h]
        · simp [h]
        · simp [hrole, htransport]
  case refused =>
    exact completes_of_write hp (exec_credentialsWrite data s) hopen (writeCredentials_refused hbroken) ⟨rfl, rfl, answered_last _ _ _⟩
  case clears =>
    subst hv
    refine completes_of hp (exec_countersClear index 1 s) ?_
    simp only [clearCounters, hl]
    obtain ⟨hin, hout, halerts, hwaits, hdropped, hreasons⟩ := clearOther_shows (begun s) l index.toNat
    have hindex : ∀ n : BitVec 16, index = n ↔ index.toNat = n.toNat := fun n => ⟨congrArg BitVec.toNat, BitVec.eq_of_toNat_eq⟩
    exact ⟨_, rfl, rfl, fun e sub h hne => hin e sub h (fun heq => hne ((hindex _).2 heq)), fun e sub h hne => hout e sub h (fun heq => hne ((hindex _).2 heq)),
      fun h => halerts ((hindex _).1 h), fun h => hwaits ((hindex _).1 h), fun h => hdropped ((hindex _).1 h), fun h => hreasons ((hindex _).1 h)⟩
  case clearRefused =>
    refine completes_of hp (exec_countersClear index v s) ?_
    have hv' : v.toNat ≠ 1 := fun h => hv (BitVec.eq_of_toNat_eq h)
    simp only [clearCounters, hl, if_neg hv']
    rfl
  case noObject =>
    refine completes_of hp (exec_countersClear index v s) ?_
    simp only [clearCounters, hnone]
    rfl
  case lost =>
    exact completes_of_write hp (exec_declareLostWrite data s) hopen (if_neg (by omega)) rfl
  case lostRefused =>
    exact completes_of_write hp (exec_declareLostWrite data s) hopen (if_pos (by omega)) ⟨rfl, rfl, answered_last _ _ _⟩

end Sys2Proof.Machine
end

section
/-! What memory accesses leave: the partitions, the blocks' own state and the entries from 0x6000 on (chapters 17 to 21). -/

namespace Sys2Proof.Machine

/-- The partitions, the Reliability Unit's own state and the entries from 0x6000 on are as they were. -/
structure UpperKept (p q : Pkg) : Prop where
  ru : q.ru = p.ru
  parts : q.parts = p.parts
  vals : ∀ k, 0x600000 ≤ k → tfind q.dict.vals k = tfind p.dict.vals k

theorem UpperKept.rfl (p : Pkg) : UpperKept p p := ⟨Eq.refl _, Eq.refl _, fun _ _ => Eq.refl _⟩

theorem UpperKept.trans {p q r : Pkg} (h : UpperKept p q) (g : UpperKept q r) : UpperKept p r :=
  ⟨g.ru.trans h.ru, g.parts.trans h.parts, fun k hk => (g.vals k hk).trans (h.vals k hk)⟩

theorem UpperKept.of_dict {p q : Pkg} (hparts : q.parts = p.parts) (hdict : q.dict = p.dict) (hru : q.ru = p.ru := by rfl) : UpperKept p q :=
  ⟨hru, hparts, fun _ _ => by rw [hdict]⟩

theorem UpperKept.of_keeps {p q : Pkg} (h : KeepsState p q) : UpperKept p q :=
  ⟨h.ru, h.parts, fun k hk => h.vals k (by simp [commsKey]; omega)⟩

theorem UpperKept.wrAt (p : Pkg) {e : Entry} {u sub : Nat} (v : Nat) (hlow : keyAt e u sub < 0x600000) : UpperKept p (wrAt p e u sub v) :=
  ⟨Eq.refl _, Eq.refl _, fun k hk => by simp [Machine.wrAt, tfind_tput_ne _ _ (show k ≠ keyAt e u sub by omega)]⟩

theorem UpperKept.foldl {α : Type} {f : Pkg → α → Pkg} (hf : ∀ p x, UpperKept p (f p x)) (l : List α) (p : Pkg) : UpperKept p (l.foldl f p) := by
  induction l generalizing p with
  | nil => exact UpperKept.rfl p
  | cons x l ih => exact (hf p x).trans (ih (f p x))

theorem UpperKept.rd {p q : Pkg} (h : UpperKept p q) (e : Entry) (sub : Nat) (he : 0x6000 ≤ e.index) : Machine.rd q e sub = Machine.rd p e sub := by
  simp [Machine.rd, Machine.rdAt, h.vals _ (show 0x600000 ≤ keyAt e 0 sub by simp only [keyAt]; omega)]

theorem UpperKept.part {p q : Pkg} (h : UpperKept p q) (pp : Nat) : Machine.part q pp = Machine.part p pp := part_of_parts h.parts pp

theorem UpperKept.regionHidden {p q : Pkg} (h : UpperKept p q) (r : Nat) : Machine.regionHidden q r = Machine.regionHidden p r := by
  rw [Machine.regionHidden, h.rd Ix.btHiddenRegions 0 (by decide), Machine.regionHidden]

theorem UpperKept.blocksOf {p q : Pkg} (h : UpperKept p q) (pp : Nat) : Machine.blocksOf q pp = Machine.blocksOf p pp := by
  rw [Machine.blocksOf, regionsOf, h.rd Ix.pcRegionMask pp (by decide)]
  exact Eq.refl _

/-- A memory access leaves the upper entries, the partitions, the blocks' own state and the fabric but for the packets that travel. -/
structure AccessKept (p q : Pkg) : Prop where
  upper : UpperKept p q
  blocks : q.tp.blocks = p.tp.blocks
  tf : { q.tf with outgoing := p.tf.outgoing } = p.tf

theorem AccessKept.rfl (p : Pkg) : AccessKept p p := ⟨UpperKept.rfl p, Eq.refl _, Eq.refl _⟩

theorem AccessKept.trans {p q r : Pkg} (h : AccessKept p q) (g : AccessKept q r) : AccessKept p r :=
  ⟨h.upper.trans g.upper, g.blocks.trans h.blocks, by rw [← h.tf, ← g.tf]⟩

theorem AccessKept.of_dict {p q : Pkg} (hparts : q.parts = p.parts) (hdict : q.dict = p.dict) (hblocks : q.tp.blocks = p.tp.blocks)
    (htf : q.tf = p.tf) (hru : q.ru = p.ru := by rfl) : AccessKept p q :=
  ⟨UpperKept.of_dict hparts hdict hru, hblocks, by rw [htf]⟩

theorem AccessKept.of_keeps {p q : Pkg} (h : KeepsState p q) : AccessKept p q := ⟨UpperKept.of_keeps h, congrArg Tp.blocks h.tp, h.tf⟩

theorem AccessKept.wrAt (p : Pkg) {e : Entry} {u sub : Nat} (v : Nat) (hlow : keyAt e u sub < 0x600000) : AccessKept p (wrAt p e u sub v) :=
  ⟨UpperKept.wrAt p v hlow, Eq.refl _, Eq.refl _⟩

theorem AccessKept.last (p : Pkg) {e : Entry} {sub : Nat} (v : Nat) (hlow : keyAt e 0 sub < 0x600000) : AccessKept p (last p e sub v) :=
  AccessKept.wrAt p v hlow

theorem AccessKept.raiseAs (p : Pkg) {e : Entry} {sub : Nat} (code partition unit detail : Nat) (hlow : keyAt e 0 sub < 0x600000) :
    AccessKept p (raiseAs p e sub code partition unit detail) :=
  (AccessKept.last p code hlow).trans (AccessKept.of_keeps (raiseAs_keeps p e sub code partition unit detail))

theorem AccessKept.foldl {α : Type} {f : Pkg → α → Pkg} (hf : ∀ p x, AccessKept p (f p x)) (l : List α) (p : Pkg) : AccessKept p (l.foldl f p) := by
  induction l generalizing p with
  | nil => exact AccessKept.rfl p
  | cons x l ih => exact (hf p x).trans (ih (f p x))

theorem AccessKept.foldl_fst {α β : Type} {f : Pkg × β → α → Pkg × β} (hf : ∀ a x, AccessKept a.1 (f a x).1) (l : List α) (a : Pkg × β) :
    AccessKept a.1 (l.foldl f a).1 := by
  induction l generalizing a with
  | nil => exact AccessKept.rfl _
  | cons x l ih => exact (hf a x).trans (ih (f a x))

theorem AccessKept.blk {p q : Pkg} (h : AccessKept p q) (b : Nat) : Machine.blk q b = Machine.blk p b := by
  simp [Machine.blk, h.blocks]

theorem countMoved_access (p : Pkg) (a n : Nat) : AccessKept p (countMoved p a n) := by
  rcases countMoved_cases p a n with h | ⟨s, hs, h⟩ <;> rw [h]
  · exact AccessKept.rfl p
  · exact AccessKept.wrAt p _ (by simp only [keyAt, Ix.hbBytesMoved]; omega)

theorem noteAccess_access (p : Pkg) (a status : Nat) : AccessKept p (noteAccess p a status) := by
  unfold noteAccess
  split
  · exact AccessKept.rfl p
  · have hbounds := place_bounded a
    split
    · rw [‹place a = _›] at hbounds
      have hs : _ < 12 := hbounds
      exact AccessKept.wrAt p _ (by simp only [keyAt, Ix.regionLastStatus]; omega)
    · rw [‹place a = _›] at hbounds
      have hb : _ < 96 := hbounds.1
      exact AccessKept.wrAt p _ (by simp only [keyAt, Ix.regionLastStatus]; omega)
    · exact AccessKept.rfl p

theorem countCorrected_access (p : Pkg) {cell : Nat} (hcell : cell < 2 ^ 16) : AccessKept p (countCorrected p cell) := by
  have hbump : AccessKept p (bumpAt p Ix.cellCorrectedCount (cell / 64) (cell % 64) 1) :=
    AccessKept.wrAt p _ (by simp only [keyAt, Ix.cellCorrectedCount]; omega)
  have hlow : keyAt Ix.regionLastStatus 0 (cell / 64) < 0x600000 := by simp only [keyAt, Ix.regionLastStatus]; omega
  unfold countCorrected
  generalize bumpAt p Ix.cellCorrectedCount (cell / 64) (cell % 64) 1 = q at hbump ⊢
  dsimp only
  split
  · refine hbump.trans (AccessKept.trans (AccessKept.of_dict ?_ ?_ ?_ ?_) (AccessKept.raiseAs _ _ _ _ _ hlow)) <;> rfl
  · exact hbump.trans (AccessKept.of_dict (Eq.refl _) (Eq.refl _) (Eq.refl _) (Eq.refl _))

theorem hbChannel_lt (p : Pkg) (stack offset : Nat) : hbChannel p stack offset < 32 := by
  unfold hbChannel
  dsimp only
  split
  · omega
  · split <;> omega

theorem bufferCell_lt {off c : Nat} (hoff : off < 0x01000000) (h : bufferCell off = some c) : c < 8 := by
  unfold bufferCell at h
  split at h
  · exact absurd h (by simp)
  · injection h
    omega

theorem countWord_access (p : Pkg) (a kind : Nat) : AccessKept p (countWord p a kind) := by
  have hbounds := place_bounded a
  unfold countWord
  split
  case h_1 =>
    rename_i s off hplace
    rw [hplace] at hbounds
    have hs : s < 12 := hbounds
    have hc := hbChannel_lt (bump p Ix.hbCorrected s 1) s off
    have hc' := hbChannel_lt p s off
    exact (AccessKept.wrAt p _ (by simp only [keyAt, Ix.hbCorrected]; omega)).trans
      (AccessKept.wrAt _ _ (by simp only [keyAt, Ix.hbChannelCorrected]; omega))
  case h_2 =>
    rename_i s off hplace
    rw [hplace] at hbounds
    have hs : s < 12 := hbounds
    exact AccessKept.wrAt p _ (by simp only [keyAt, Ix.hbUncorrectable]; omega)
  case h_3 =>
    rename_i s off hplace _ _
    rw [hplace] at hbounds
    have hs : s < 12 := hbounds
    exact AccessKept.wrAt p _ (by simp only [keyAt, Ix.hbPoisonReads]; omega)
  case h_4 =>
    rename_i c off hplace
    rw [hplace] at hbounds
    have hc : c < 16 := hbounds
    exact AccessKept.wrAt p _ (by simp only [keyAt, Ix.ddCorrected]; omega)
  case h_5 =>
    rename_i c off hplace
    rw [hplace] at hbounds
    have hc : c < 16 := hbounds
    exact AccessKept.wrAt p _ (by simp only [keyAt, Ix.ddUncorrectable]; omega)
  case h_6 =>
    rename_i c off hplace _ _
    rw [hplace] at hbounds
    have hc : c < 16 := hbounds
    exact AccessKept.wrAt p _ (by simp only [keyAt, Ix.ddPoisonReads]; omega)
  case h_7 =>
    rename_i b off hplace
    rw [hplace] at hbounds
    obtain ⟨hb, hoff⟩ := hbounds
    split
    · exact AccessKept.wrAt p _ (by simp only [keyAt, Ix.blockSramCorrected]; omega)
    · rename_i c hc
      have := bufferCell_lt hoff hc
      exact countCorrected_access p (by omega)
  case h_8 =>
    rename_i b off hplace
    rw [hplace] at hbounds
    obtain ⟨hb, hoff⟩ := hbounds
    split
    · exact AccessKept.rfl p
    · rename_i c hc
      have := bufferCell_lt hoff hc
      exact AccessKept.wrAt p _ (by simp only [keyAt, Ix.cellUncorrectableCount]; omega)
  case h_9 => exact AccessKept.rfl p

theorem noteBadLine_access (p : Pkg) (a : Nat) : AccessKept p (noteBadLine p a) := by
  obtain ⟨-, hparts, hdict⟩ := noteBadLine_keeps p a
  refine AccessKept.of_dict hparts hdict ?_ ?_ ?_ <;>
  · unfold noteBadLine
    dsimp only
    split <;> rfl

theorem readBad_access (acc : Pkg × Nat) (e : Nat × StoredWord) : AccessKept acc.1 (readBad acc e).1 := by
  unfold readBad
  dsimp only
  split
  · dsimp only
    split
    · exact countWord_access _ _ _
    · exact AccessKept.rfl _
  · dsimp only
    split
    · exact (countWord_access _ _ _).trans (countWord_access _ _ _)
    · exact countWord_access _ _ _
  · exact ((countWord_access _ _ _).trans (noteBadLine_access _ _)).trans (AccessKept.of_dict (Eq.refl _) (Eq.refl _) (Eq.refl _) (Eq.refl _))

theorem remoteByte_access (acc : Pkg × Except Nat Bytes) (a : Nat) : AccessKept acc.1 (remoteByte acc a).1 := by
  unfold remoteByte
  dsimp only
  split <;> exact AccessKept.of_dict (Eq.refl _) (Eq.refl _) (Eq.refl _) (Eq.refl _)

theorem remoteRead_access (p : Pkg) (a n : Nat) : AccessKept p (remoteRead p a n).1 := by
  unfold remoteRead
  split
  · exact AccessKept.rfl p
  · exact AccessKept.foldl_fst (fun acc i => remoteByte_access acc (a + i)) _ (p, .ok [])

theorem loadT2_access (p : Pkg) (a n : Nat) : AccessKept p (loadT2 p a n).1 := by
  unfold loadT2
  refine AccessKept.foldl_fst (fun acc c => ?_) _ (p, Except.ok [])
  split
  · exact remoteRead_access _ _ _
  · exact AccessKept.rfl _
  · exact AccessKept.rfl _

/-- A local read (R239). -/
theorem loadLocal_access (p : Pkg) (a n : Nat) (outside : Bool) : AccessKept p (loadLocal p a n outside).1 := by
  have hread : AccessKept p ((badWords p.mem a n).foldl readBad (countMoved p a n, 0)).1 :=
    (countMoved_access p a n).trans (AccessKept.foldl_fst readBad_access _ (countMoved p a n, 0))
  unfold loadLocal
  dsimp only
  split
  · exact noteAccess_access _ _ _
  · split
    · exact loadT2_access _ _ _
    · split
      · exact hread.trans (noteAccess_access _ _ _)
      · exact hread

theorem markDirty_access (p : Pkg) (a n : Nat) : AccessKept p (markDirty p a n) := by
  unfold markDirty
  split
  · exact AccessKept.rfl p
  · exact AccessKept.of_dict (Eq.refl _) (Eq.refl _) (Eq.refl _) (Eq.refl _)

theorem enterSkip_access (p : Pkg) (a : Nat) : AccessKept p (enterSkip p a) := by
  unfold enterSkip
  split
  · split
    · dsimp only
      split
      · exact AccessKept.of_dict (Eq.refl _) (Eq.refl _) (Eq.refl _) (Eq.refl _)
      · exact AccessKept.rfl p
    · exact AccessKept.rfl p
  · exact AccessKept.rfl p

theorem storeNow_access (p : Pkg) (a : Nat) (b : Bytes) (poison : Bool) : AccessKept p (storeNow p a b poison) :=
  (((enterSkip_access p a).trans (countMoved_access _ _ _)).trans (markDirty_access _ _ _)).trans
    (AccessKept.of_dict (Eq.refl _) (Eq.refl _) (Eq.refl _) (Eq.refl _))

theorem storePart_access (t : Txn) (p : Pkg) (w : Nat × Bytes) : AccessKept p (storePart t p w) := by
  unfold storePart
  split
  · exact AccessKept.of_dict (Eq.refl _) (Eq.refl _) (Eq.refl _) (Eq.refl _)
  · exact storeNow_access _ _ _ _

theorem sendPart_access (t : Txn) (p : Pkg) (w : Nat × Bytes) : AccessKept p (sendPart t p w) := by
  unfold sendPart
  split
  · exact AccessKept.of_keeps (send_keeps _ _)
  · exact AccessKept.rfl p

/-- A local write (R239). -/
theorem storeLocal_access (p : Pkg) (a : Nat) (b : Bytes) (poison outside : Bool) (source partition step : Nat) (purpose : Purpose) :
    AccessKept p (storeLocal p a b poison outside source partition step purpose).1 := by
  unfold storeLocal
  dsimp only
  split
  · exact noteAccess_access _ _ _
  · split
    · exact (markDirty_access _ _ _).trans (AccessKept.foldl (sendPart_access _) _ _)
    · split
      · exact storeNow_access _ _ _ _
      · exact AccessKept.foldl (storePart_access _) _ _

end Sys2Proof.Machine
end

section
/-! What the changes of a block's state show and leave in the blocks (R70, R78, R79, R416, R425), and what they leave of the members of a
partition (R414). -/

namespace Sys2Proof.Machine

/-- A step of a fold that brings something about for its own element, and never undoes it, has brought it about for every element. -/
theorem foldl_establishes {α : Type} {P : α → Pkg → Prop} {f : Pkg → α → Pkg} (hself : ∀ p x, P x (f p x)) (hkeep : ∀ p x y, P x p → P x (f p y))
    (l : List α) (p : Pkg) : ∀ x ∈ l, P x (l.foldl f p) := by
  induction l using List.reverseRecOn with
  | nil => simp
  | append_singleton l y ih =>
    intro x hx
    rw [List.foldl_append, List.foldl_cons, List.foldl_nil]
    rcases List.mem_append.1 hx with h | h
    · exact hkeep _ _ _ (ih x h)
    · rw [List.mem_singleton.1 h]
      exact hself _ _

/-- What one step of a fold leaves, the fold leaves. -/
theorem foldl_same {α β : Type} (g : Pkg → β) {f : Pkg → α → Pkg} (hf : ∀ p x, g (f p x) = g p) (l : List α) (p : Pkg) : g (l.foldl f p) = g p := by
  induction l generalizing p with
  | nil => rfl
  | cons x l ih => exact (ih (f p x)).trans (hf p x)

theorem blk_modBlk_ne (p : Pkg) {b c : Nat} (f : Blk → Blk) (h : c ≠ b) : blk (modBlk p b f) c = blk p c := by
  simp [blk, modBlk, tget_tmod_ne _ _ _ h]

theorem blk_setAct_ne (p : Pkg) {b c : Nat} (st : Nat) (h : c ≠ b) : blk (setAct p b st) c = blk p c := by
  unfold setAct
  dsimp only
  split
  next => exact blk_modBlk_ne _ _ h
  next => split <;> exact blk_modBlk_ne _ _ h

theorem blk_countBusy_ne (p : Pkg) {b c : Nat} (h : c ≠ b) : blk (countBusy p b) c = blk p c := by
  unfold countBusy
  split
  · rfl
  · dsimp only
    split <;> exact blk_modBlk_ne _ _ h

theorem blk_idleBlock_ne (p : Pkg) {b c : Nat} (h : c ≠ b) : blk (idleBlock p b) c = blk p c := by
  unfold idleBlock
  dsimp only
  rw [blk_modBlk_ne _ _ h]
  split
  · exact blk_countBusy_ne p h
  · rw [blk_setAct_ne _ _ h, blk_countBusy_ne p h]

/-- An idled block runs no pass and waits for no mark. -/
def Blk.idle (k : Blk) : Prop := k.passes = [] ∧ k.stopAt = none

theorem idleBlock_idle (p : Pkg) (b : Nat) : (blk (idleBlock p b) b).idle := by
  unfold idleBlock
  dsimp only
  rw [blk_modBlk_self]
  exact ⟨rfl, rfl⟩

/-- Idling another block does not wake one. -/
theorem idleBlock_keeps_idle (p : Pkg) (b c : Nat) (h : (blk p c).idle) : (blk (idleBlock p b) c).idle := by
  rcases eq_or_ne c b with rfl | hne
  · exact idleBlock_idle p c
  · rwa [blk_idleBlock_ne p hne]

/-- With its saved state discarded a partition's blocks are idle (R416). -/
theorem discardSaved_idle (p : Pkg) (pp : Nat) : ∀ b ∈ blocksOf p pp, (blk (discardSaved p pp) b).idle :=
  foldl_establishes (P := fun b p => (blk p b).idle) idleBlock_idle (fun p x y => idleBlock_keeps_idle p y x) _ _

theorem discardSaved_frame (p : Pkg) (pp : Nat) : BlockFrame p (discardSaved p pp) := idle_fold p pp p

/-- A block whose state is cleared has no counters, no tallies, no p and no current step (R70). -/
def Blk.cleared (k : Blk) : Prop := k.counters = [] ∧ k.tallies = [] ∧ k.p = 0 ∧ k.step = none

theorem clearBlock_cleared (l : Option Nat) (p : Pkg) (b : Nat) : (blk (clearBlock l p b) b).cleared := by
  unfold clearBlock
  dsimp only
  rw [blk_modBlk_self]
  exact ⟨rfl, rfl, rfl, rfl⟩

theorem clearBlock_keeps_cleared (l : Option Nat) (p : Pkg) (b c : Nat) (h : (blk p c).cleared) : (blk (clearBlock l p b) c).cleared := by
  rcases eq_or_ne c b with rfl | hne
  · exact clearBlock_cleared l p c
  · unfold clearBlock
    dsimp only
    rwa [blk_modBlk_ne _ _ hne, blk_setAct_ne _ _ hne]

theorem clearBlock_frame (l : Option Nat) (p : Pkg) {b : Nat} (hb : b < 96) : BlockFrame p (clearBlock l p b) :=
  (setAct_frame p hb 0).trans (modBlk_frame _ _ _)

theorem clearStepState_cleared (p : Pkg) (pp : Nat) : ∀ b ∈ blocksOf p pp, (blk (clearStepState p pp) b).cleared :=
  foldl_establishes (P := fun b p => (blk p b).cleared) (clearBlock_cleared _) (fun p x y => clearBlock_keeps_cleared _ p y x) _ _

theorem clearStepState_frame (p : Pkg) (pp : Nat) : BlockFrame p (clearStepState p pp) :=
  fold_frame (fun p _ hb => clearBlock_frame _ p hb) _ (blocksOf_lt p pp) p

/-- A preemption sends every block of the partition the mark it runs to (R78). -/
theorem beginPreempt_stopAt (p : Pkg) (pp : Nat) : ∀ b ∈ blocksOf p pp,
    (blk (beginPreempt p pp) b).stopAt = some (((blocksOf p pp).map (fun b => (blk p b).marks)).foldl max 0 + 1) := by
  refine foldl_establishes (P := fun b q => (blk q b).stopAt = some _) (fun q b => ?_) (fun q b c h => ?_) _ _
  · rw [blk_modBlk_self]
  · rcases eq_or_ne b c with rfl | hne
    · rw [blk_modBlk_self]
    · rwa [blk_modBlk_ne _ _ hne]

theorem beginPreempt_frame (p : Pkg) (pp : Nat) : BlockFrame p (beginPreempt p pp) := by
  unfold beginPreempt
  exact fold_frame (fun q b _ => modBlk_frame q b _) _ (blocksOf_lt p pp) p

theorem BlockFrame.blocksOf {p q : Pkg} (h : BlockFrame p q) {pp : Nat} (hpp : pp < 12) : Machine.blocksOf q pp = Machine.blocksOf p pp := by
  rw [Machine.blocksOf, regionsOf, h.rd Ix.pcRegionMask pp (blockKey_false (by omega) (by decide) (by decide) (by decide) (by decide) (by decide))]
  rfl

/-- The members of a partition turn on its record, the torus and the own id alone (R414). -/
theorem otherMembers_of {p q : Pkg} {pp : Nat} (hrecord : rdB q Ix.pcRackPartition pp = rdB p Ix.pcRackPartition pp)
    (htorus : rd q Ix.tfTorusSize 0 = rd p Ix.tfTorusSize 0) (hown : rd q Ix.tfPackageId 0 = rd p Ix.tfPackageId 0) :
    otherMembers q pp = otherMembers p pp := by
  unfold otherMembers membersOf isRack ownId torus
  rw [hrecord, htorus, hown]

theorem BlockFrame.otherMembers {p q : Pkg} (h : BlockFrame p q) {pp : Nat} (hpp : pp < 12) : Machine.otherMembers q pp = Machine.otherMembers p pp := by
  refine otherMembers_of ?_ (h.rd _ _ (by decide)) (h.rd _ _ (by decide))
  simp [rdB, h.vals _ (blockKey_false (e := Ix.pcRackPartition) (sub := pp) (by omega) (by decide) (by decide) (by decide) (by decide) (by decide))]

/-- What is left by undoing a step's KV writes: the Partition Controller's and the Reliability Unit's state, the entries from 0x6000 on, the blocks' own
state and the fabric but for the packets that travel. -/
structure KvKept (p q : Pkg) : Prop where
  ru : q.ru = p.ru
  control : ∀ k, (part q k).pc = (part p k).pc ∧ (part q k).ru = (part p k).ru
  vals : ∀ k, 0x600000 ≤ k → tfind q.dict.vals k = tfind p.dict.vals k
  blocks : q.tp.blocks = p.tp.blocks
  tf : { q.tf with outgoing := p.tf.outgoing } = p.tf

theorem KvKept.trans {p q r : Pkg} (h : KvKept p q) (g : KvKept q r) : KvKept p r :=
  ⟨g.ru.trans h.ru, fun k => ⟨(g.control k).1.trans (h.control k).1, (g.control k).2.trans (h.control k).2⟩, fun k hk => (g.vals k hk).trans (h.vals k hk),
    g.blocks.trans h.blocks, by rw [← h.tf, ← g.tf]⟩

theorem KvKept.of_parts {p q : Pkg} (hru : q.ru = p.ru) (hcontrol : ∀ k, (part q k).pc = (part p k).pc ∧ (part q k).ru = (part p k).ru) (hdict : q.dict = p.dict)
    (htp : q.tp = p.tp) (htf : q.tf = p.tf) : KvKept p q :=
  ⟨hru, hcontrol, fun _ _ => by rw [hdict], by rw [htp], by rw [htf]⟩

theorem KvKept.rfl (p : Pkg) : KvKept p p := KvKept.of_parts (Eq.refl _) (fun _ => ⟨Eq.refl _, Eq.refl _⟩) (Eq.refl _) (Eq.refl _) (Eq.refl _)

theorem KvKept.foldl {α : Type} {f : Pkg → α → Pkg} (hf : ∀ p x, KvKept p (f p x)) (l : List α) (p : Pkg) : KvKept p (l.foldl f p) := by
  induction l generalizing p with
  | nil => exact KvKept.rfl p
  | cons x l ih => exact (hf p x).trans (ih (f p x))

theorem KvKept.rd {p q : Pkg} (h : KvKept p q) (e : Entry) (sub : Nat) (he : 0x6000 ≤ e.index) : Machine.rd q e sub = Machine.rd p e sub := by
  simp [Machine.rd, Machine.rdAt, h.vals _ (show 0x600000 ≤ keyAt e 0 sub by simp only [keyAt]; omega)]

theorem kvWrite_kept (p : Pkg) (a : Nat) (b : Bytes) : KvKept p (kvWrite p a b) :=
  have h := storeLocal_access p a b false false 0x092 0xFF 0 .plain
  ⟨h.upper.ru, fun k => ⟨congrArg Part.pc (h.upper.part k), congrArg Part.ru (h.upper.part k)⟩, h.upper.vals, h.blocks, h.tf⟩

theorem setVector_kept (p : Pkg) (pp handle layer head page v : Nat) : KvKept p (setVector p pp handle layer head page v) := by
  unfold setVector
  split
  · exact kvWrite_kept _ _ _
  · exact KvKept.rfl p

theorem modAk_kept (p : Pkg) (pp : Nat) (f : AkPart → AkPart) : KvKept p (modAk p pp f) := by
  refine KvKept.of_parts rfl (fun k => ?_) rfl rfl rfl
  rcases eq_or_ne k pp with rfl | hne
  · rw [part_modAk]
    exact ⟨rfl, rfl⟩
  · rw [modAk, part_modPart_ne _ _ hne]
    exact ⟨rfl, rfl⟩

theorem rollbackPage_kept (pp step : Nat) (p : Pkg) (k : KvSlot) : KvKept p (rollbackPage pp step p k) := by
  have hite : ∀ (c : Prop) [Decidable c] (q : Pkg) (a : Nat) (b : Bytes), KvKept q (if c then kvWrite q a b else q) := by
    intro c _ q a b
    split
    · exact kvWrite_kept q a b
    · exact KvKept.rfl q
  unfold rollbackPage
  dsimp only
  split
  · exact (((hite _ _ _ _).trans (hite _ _ _ _)).trans (setVector_kept _ _ _ _ _ _ _)).trans (modAk_kept _ _ _)
  · exact (hite _ _ _ _).trans (hite _ _ _ _)

theorem recountPages_kept (p : Pkg) (pp handle layer head : Nat) : KvKept p (recountPages p pp handle layer head) := by
  unfold recountPages setPageCount
  dsimp only
  split
  · exact kvWrite_kept _ _ _
  · exact KvKept.rfl p

/-- Undoing a step's KV writes (R122). -/
theorem kvRollback_kept (p : Pkg) (pp step : Nat) : KvKept p (kvRollback p pp step) := by
  unfold kvRollback
  dsimp only
  refine (KvKept.foldl (rollbackPage_kept pp step) _ p).trans (KvKept.foldl (fun q h => ?_) _ _)
  exact KvKept.foldl (fun q (lh : Nat × Nat) => recountPages_kept q pp h lh.1 lh.2) _ q

theorem restoreBlock_keeps_idle (p : Pkg) (b c : Nat) (h : (blk p c).idle) : (blk (restoreBlock p b) c).idle := by
  unfold restoreBlock
  rcases eq_or_ne c b with rfl | hne
  · rw [blk_modBlk_self]
    exact ⟨rfl, h.2⟩
  · rwa [blk_modBlk_ne _ _ hne]

/-- Discarding what the step made wakes no block. -/
theorem discardProducts_keeps_idle (p : Pkg) (pp : Nat) {c : Nat} (h : (blk p c).idle) : (blk (discardProducts p pp) c).idle := by
  have hrestored : (blk ((blocksOf p pp).foldl restoreBlock p) c).idle :=
    List.foldlRecOn (motive := fun q => (blk q c).idle) _ _ h fun q hq b _ => restoreBlock_keeps_idle q b c hq
  unfold discardProducts
  generalize (blocksOf p pp).foldl restoreBlock p = q at hrestored ⊢
  have hblocks := (kvRollback_kept q pp (stepOf p pp)).blocks
  generalize kvRollback q pp (stepOf p pp) = r at hblocks ⊢
  show (tget r.tp.blocks c {}).idle
  rw [hblocks]
  exact hrestored

end Sys2Proof.Machine
end

section
/-! A preempted partition resumes: what its blocks restore (R79). -/

namespace Sys2Proof.Machine

theorem showBlock_upper (p : Pkg) {h : Nat} (hh : h < 96) : UpperKept p (showBlock p h) :=
  UpperKept.wrAt p _ (by simp only [keyAt, Ix.blockState]; omega)

theorem setAct_upper (p : Pkg) {b : Nat} (hb : b < 96) (st : Nat) : UpperKept p (setAct p b st) := by
  have hmod : UpperKept p (modBlk p b fun k => { k with act := st }) := UpperKept.of_dict rfl rfl
  unfold setAct
  dsimp only
  split
  · exact hmod
  · rename_i h hhost
    split
    · exact hmod.trans (showBlock_upper _ hb)
    · exact (hmod.trans (showBlock_upper _ hb)).trans (showBlock_upper _ (hostOf_lt hb hhost))

theorem restoreRange_access (b : Nat) (p : Pkg) (r : LiveRange) : AccessKept p (restoreRange b p r) := by
  have hload := loadLocal_access p ((blk p b).saveBase + 512 + r.save) r.length false
  unfold restoreRange
  split <;> rename_i hres <;> rw [hres] at hload
  · exact hload.trans (AccessKept.of_dict rfl rfl rfl rfl)
  · exact hload.trans (AccessKept.of_dict rfl rfl rfl rfl)

/-- A block that has restored waits for no mark, has not reported and holds nothing saved (R79). -/
def Blk.released (k : Blk) : Prop := k.stopAt = none ∧ k.reported = false ∧ k.saved = []

theorem modBlk_upper (p : Pkg) (b : Nat) (f : Blk → Blk) : UpperKept p (modBlk p b f) := UpperKept.of_dict rfl rfl

/-- A block that restores is released, keeps its current step, and touches no other block. -/
theorem restoreSavedBlock_shows (p : Pkg) (b : Nat) :
    UpperKept p (restoreSavedBlock p b) ∧ (blk (restoreSavedBlock p b) b).released ∧ (blk (restoreSavedBlock p b) b).step = (blk p b).step
    ∧ ∀ c, c ≠ b → blk (restoreSavedBlock p b) c = blk p c := by
  unfold restoreSavedBlock
  dsimp only
  have hranges : AccessKept p ((blk p b).saved.foldl (restoreRange b) { p with mem := memUndefine p.mem (sramBase b) 0x01000000 }) := by
    refine AccessKept.trans (q := { p with mem := memUndefine p.mem (sramBase b) 0x01000000 }) (AccessKept.of_dict rfl rfl rfl rfl) ?_
    exact AccessKept.foldl (restoreRange_access b) _ _
  generalize (blk p b).saved.foldl (restoreRange b) { p with mem := memUndefine p.mem (sramBase b) 0x01000000 } = q at hranges ⊢
  have hreleased : (blk (modBlk q b fun k => { k with stopAt := none, reported := false, saved := [] }) b).released := by
    rw [blk_modBlk_self]
    exact ⟨rfl, rfl, rfl⟩
  have hstep : (blk (modBlk q b fun k => { k with stopAt := none, reported := false, saved := [] }) b).step = (blk p b).step := by
    rw [blk_modBlk_self, ← hranges.blk]
  have hne : ∀ c, c ≠ b → blk (modBlk q b fun k => { k with stopAt := none, reported := false, saved := [] }) c = blk p c :=
    fun c hc => (blk_modBlk_ne _ _ hc).trans (hranges.blk c)
  have hupper := hranges.upper.trans (modBlk_upper q b fun k => { k with stopAt := none, reported := false, saved := [] })
  generalize (modBlk q b fun k => { k with stopAt := none, reported := false, saved := [] }) = r at hreleased hstep hne hupper ⊢
  split
  · exact ⟨hupper, hreleased, hstep, hne⟩
  · have hload := loadLocal_access r (blk p b).saveBase 512 false
    split <;> rename_i hres <;> rw [hres] at hload
    · refine ⟨(hupper.trans hload.upper).trans (modBlk_upper _ _ _), ?_, ?_, fun c hc => ?_⟩
      · rw [blk_modBlk_self, hload.blk]
        exact hreleased
      · rw [blk_modBlk_self, hload.blk]
        exact hstep
      · rw [blk_modBlk_ne _ _ hc, hload.blk, hne c hc]
    · refine ⟨hupper.trans hload.upper, ?_, ?_, fun c hc => ?_⟩
      · rw [hload.blk]
        exact hreleased
      · rw [hload.blk]
        exact hstep
      · rw [hload.blk, hne c hc]

/-- One block of a resumed partition restores and runs on, where it has a step and is not hidden (R79). -/
def resumeBlock (p : Pkg) (b : Nat) : Pkg :=
  if regionHidden p (b / 8) || (blk p b).step.isNone then p
  else
    let p := restoreSavedBlock p b
    if (blk p b).act = 3 ∨ (blk p b).stepDone = true then p else setAct p b 1

theorem restoreSaved_eq (p : Pkg) (pp : Nat) : restoreSaved p pp = (blocksOf p pp).foldl resumeBlock p := rfl

theorem resumeBlock_shows (p : Pkg) {b : Nat} (hb : b < 96) :
    UpperKept p (resumeBlock p b) ∧ (regionHidden p (b / 8) = false → (blk p b).step ≠ none → (blk (resumeBlock p b) b).released)
    ∧ (blk (resumeBlock p b) b).step = (blk p b).step ∧ ∀ c, c ≠ b → blk (resumeBlock p b) c = blk p c := by
  obtain ⟨hupper, hreleased, hstep, hne⟩ := restoreSavedBlock_shows p b
  unfold resumeBlock
  by_cases hskip : (regionHidden p (b / 8) || (blk p b).step.isNone) = true
  · rw [if_pos hskip]
    refine ⟨UpperKept.rfl p, fun hhidden hsome => ?_, rfl, fun c _ => rfl⟩
    simp [hhidden, hsome] at hskip
  · rw [if_neg hskip]
    dsimp only
    split
    · exact ⟨hupper, fun _ _ => hreleased, hstep, hne⟩
    · refine ⟨hupper.trans (setAct_upper _ hb 1), fun _ _ => ?_, ?_, fun c hc => (blk_setAct_ne _ _ hc).trans (hne c hc)⟩
      · rw [blk_setAct]
        exact hreleased
      · rw [blk_setAct]
        exact hstep

/-- What a released partition shows: its upper entries as before, and every block with a step in a region not hidden released (R79). -/
theorem restoreSaved_shows (p : Pkg) (pp : Nat) :
    UpperKept p (restoreSaved p pp)
    ∧ ∀ b ∈ blocksOf p pp, regionHidden p (b / 8) = false → (blk p b).step ≠ none → (blk (restoreSaved p pp) b).released := by
  have hfold : ∀ l : List Nat, (∀ b ∈ l, b < 96) → UpperKept p (l.foldl resumeBlock p) ∧ (∀ c, (blk (l.foldl resumeBlock p) c).step = (blk p c).step)
      ∧ ∀ b ∈ l, regionHidden p (b / 8) = false → (blk p b).step ≠ none → (blk (l.foldl resumeBlock p) b).released := by
    intro l
    induction l using List.reverseRecOn with
    | nil => exact fun _ => ⟨UpperKept.rfl p, fun _ => rfl, by simp⟩
    | append_singleton l d ih =>
      intro hl
      obtain ⟨hupper, hsteps, hdone⟩ := ih fun b hb => hl b (List.mem_append_left _ hb)
      rw [List.foldl_append, List.foldl_cons, List.foldl_nil]
      generalize l.foldl resumeBlock p = q at hupper hsteps hdone ⊢
      obtain ⟨hupper', hreleased, hstep, hne⟩ := resumeBlock_shows q (hl d (by simp))
      have hself : regionHidden p (d / 8) = false → (blk p d).step ≠ none → (blk (resumeBlock q d) d).released := fun hhidden hsome =>
        hreleased ((hupper.regionHidden _).trans hhidden) (by rwa [hsteps])
      refine ⟨hupper.trans hupper', fun c => ?_, fun b hb hhidden hsome => ?_⟩
      · rcases eq_or_ne c d with rfl | hc
        · exact hstep.trans (hsteps c)
        · rw [hne c hc, hsteps]
      · rcases eq_or_ne b d with rfl | hbd
        · exact hself hhidden hsome
        · rw [hne b hbd]
          exact hdone b ((List.mem_append.1 hb).resolve_right (by simpa using hbd)) hhidden hsome
  rw [restoreSaved_eq]
  obtain ⟨hupper, -, hdone⟩ := hfold (blocksOf p pp) (blocksOf_lt p pp)
  exact ⟨hupper, hdone⟩

end Sys2Proof.Machine
end

section
/-! The partition commands (O51): what each command's owner does, by the partition's state. -/

namespace Sys2Proof.Machine

/-- A state that is entered is shown, at its width (R415). -/
theorem pcState_setPcState (p : Pkg) (pp st : Nat) : pcState (setPcState p pp st) pp = st % 256 := by
  simp [pcState, setPcState, Ix.pcState, EType.width]

theorem pcState_of_dict {p q : Pkg} (h : p.dict = q.dict) (pp : Nat) : pcState p pp = pcState q pp := rd_of_dict h Ix.pcState pp

theorem torus_of_dict {p q : Pkg} (h : p.dict = q.dict) : torus p = torus q := by
  rw [torus, torus, rd_of_dict h]

theorem inTorus_of_dict {p q : Pkg} (h : p.dict = q.dict) (id : Nat) : inTorus p id = inTorus q id := by
  unfold inTorus ringSize
  rw [torus_of_dict h]

theorem membersOf_of_dict {p q : Pkg} (h : p.dict = q.dict) (pp : Nat) : membersOf p pp = membersOf q pp := by
  unfold membersOf isRack ownId
  rw [rdB_of_dict h, rd_of_dict h, torus_of_dict h]

theorem wrB_dict_of_dict {p q : Pkg} (h : p.dict = q.dict) (e : Entry) (sub : Nat) (b : Bytes) : (wrB p e sub b).dict = (wrB q e sub b).dict := by
  unfold wrB
  rw [rdB_of_dict h]
  split
  · exact h
  · simp only [genOf, h]

/-- Whether a rack partition's record is valid turns on the dictionary alone (R414). -/
theorem rackRecordOk_of_dict {p q : Pkg} (h : p.dict = q.dict) (pp : Nat) : rackRecordOk p pp = rackRecordOk q pp := by
  unfold rackRecordOk rackPartitionOk isRack ownId
  dsimp only
  rw [rdB_of_dict h, rd_of_dict h, torus_of_dict h, inTorus_of_dict h, membersOf_of_dict (wrB_dict_of_dict h _ _ _)]

/-- Clearing a power pause's bit changes at most that entry (R497). -/
theorem clearPowerBit_cases (p : Pkg) (pp : Nat) :
    clearPowerBit p pp = p ∨ clearPowerBit p pp = wr p Ix.pwPowerPaused 0 (rd p Ix.pwPowerPaused 0 - 2 ^ pp) := by
  unfold clearPowerBit
  split
  · exact .inr rfl
  · exact .inl rfl

/-- What clearing a power pause's bit leaves. -/
structure PowerBitOnly (p q : Pkg) : Prop where
  mem : q.mem = p.mem
  tp : q.tp = p.tp
  parts : q.parts = p.parts
  now : q.now = p.now
  entry : ∀ (e : Entry) (sub : Nat), e.index ≠ Ix.pwPowerPaused.index → sub < 256 → rd q e sub = rd p e sub

theorem clearPowerBit_only (p : Pkg) (pp : Nat) : PowerBitOnly p (clearPowerBit p pp) := by
  rcases clearPowerBit_cases p pp with h | h <;> rw [h]
  · exact ⟨rfl, rfl, rfl, rfl, fun _ _ _ _ => rfl⟩
  · exact ⟨rfl, rfl, rfl, rfl, fun e sub he hs => rd_wr_ne p _ he hs (by omega)⟩

/-- A partition whose power pause ends: its bit is clear, and the controller no longer counts it as paused or to be paused (R497). -/
def powerFreed (p : Pkg) (pp : Nat) : Pkg := modPc (clearPowerBit p pp) pp (fun q => { q with powerPaused := false, powerPending := false })

theorem powerFreed_pc (p : Pkg) (pp : Nat) :
    (part (powerFreed p pp) pp).pc = { (part p pp).pc with powerPaused := false, powerPending := false } := by
  rw [powerFreed, part_modPc, part_of_parts (clearPowerBit_only p pp).parts]

theorem pcState_powerFreed (p : Pkg) {pp : Nat} (hpp : pp < 12) : pcState (powerFreed p pp) pp = pcState p pp := by
  show pcState (clearPowerBit p pp) pp = _
  exact (clearPowerBit_only p pp).entry Ix.pcState pp (by decide) (by omega)

/-- What a STOP leaves of a partition's power pause and held actions (R416, R497). -/
def stopFreed (p : Pkg) (pp : Nat) : Pkg :=
  modPc (clearPowerBit p pp) pp (fun q => { q with powerPaused := false, powerPending := false, heldActions := false })

theorem stopFreed_mem (p : Pkg) (pp : Nat) : (stopFreed p pp).mem = p.mem := (clearPowerBit_only p pp).mem
theorem stopFreed_tp (p : Pkg) (pp : Nat) : (stopFreed p pp).tp = p.tp := (clearPowerBit_only p pp).tp

theorem stopFreed_pc (p : Pkg) (pp : Nat) :
    (part (stopFreed p pp) pp).pc = { (part p pp).pc with powerPaused := false, powerPending := false, heldActions := false } := by
  rw [stopFreed, part_modPc, part_of_parts (clearPowerBit_only p pp).parts]

theorem stopFreed_entry (p : Pkg) (pp : Nat) (e : Entry) (sub : Nat) (he : e.index ≠ Ix.pwPowerPaused.index) (hs : sub < 256) :
    rd (stopFreed p pp) e sub = rd p e sub := (clearPowerBit_only p pp).entry e sub he hs

section
variable {p : Pkg} {pp : Nat}

theorem pcStop_between (hstate : pcState p pp = 2) (hidle : (part p pp).pc.stepRunning = false) :
    pcStop p pp = (setPcState (stopFreed p pp) pp 1, accepted) := by
  rw [pcStop, if_pos hstate, if_neg (by rw [hidle]; decide)]
  rfl

theorem pcStop_running (hstate : pcState p pp = 2) (hrun : (part p pp).pc.stepRunning = true) :
    pcStop p pp = (modPc (stopFreed p pp) pp (fun q => { q with stopPending := true }), accepted) := by
  rw [pcStop, if_pos hstate, if_pos hrun]
  rfl

theorem pcStop_paused (hstate : pcState p pp = 3) : pcStop p pp = (setPcState (stopFreed p pp) pp 1, accepted) := by
  rw [pcStop, if_neg (by omega), if_pos hstate]
  rfl

theorem pcStop_preempted (hstate : pcState p pp = 5) : pcStop p pp = (setPcState (endPreempted (stopFreed p pp) pp) pp 1, accepted) := by
  rw [pcStop, if_neg (by omega), if_neg (by omega), if_pos hstate]
  rfl

theorem pcStop_refused (hstate : pcState p pp ∈ [0, 1, 4, 7]) : pcStop p pp = refuse p (invalid 0x1105) := by
  simp only [List.mem_cons, List.not_mem_nil, or_false] at hstate
  rw [pcStop, if_neg (by omega), if_neg (by omega), if_neg (by omega)]

theorem pcPause_running (hstate : pcState p pp = 2) : pcPause p pp = (modPc p pp (fun q => { q with pausePending := true }), accepted) := if_pos hstate

theorem pcPause_refused (hstate : pcState p pp ∈ [0, 1, 3, 4, 5, 7]) : pcPause p pp = refuse p (invalid 0x1105) := by
  simp only [List.mem_cons, List.not_mem_nil, or_false] at hstate
  exact if_neg (by omega)

theorem pcResume_paused (hpp : pp < 12) (hstate : pcState p pp = 3) : pcResume p pp = setPcState (powerFreed p pp) pp 2 := by
  have hfreed := pcState_powerFreed p hpp
  exact if_neg (show ¬pcState (powerFreed p pp) pp = 5 by omega)

/-- A preempted partition that resumes, with the time it was off its step left out of the step's (R418). -/
def preemptionExcluded (p : Pkg) (pp : Nat) : Pkg :=
  modPc (powerFreed p pp) pp (fun q => { q with excludedNs := q.excludedNs + ((powerFreed p pp).now - q.excludedFrom) })

theorem pcResume_preempted (hpp : pp < 12) (hstate : pcState p pp = 5) :
    pcResume p pp = setPcState (restoreSaved (preemptionExcluded p pp) pp) pp 2 := by
  have hfreed := pcState_powerFreed p hpp
  exact if_pos (show pcState (powerFreed p pp) pp = 5 by omega)

theorem pcResumeCommand_taken (hstate : pcState p pp = 3 ∨ pcState p pp = 5) (hdrydown : rd p Ix.ruDrydownState 0 = 0) :
    pcResumeCommand p pp = (pcResume p pp, accepted) := if_pos ⟨hstate, hdrydown⟩

theorem pcResumeCommand_refused (h : pcState p pp ∈ [0, 1, 2, 4, 7] ∨ rd p Ix.ruDrydownState 0 ≠ 0) :
    pcResumeCommand p pp = refuse p (invalid 0x1105) := by
  simp only [List.mem_cons, List.not_mem_nil, or_false] at h
  refine if_neg fun ⟨hstate, hdrydown⟩ => ?_
  omega

/-- A partition that is to be preempted: no pause is pending, and its step's time stands still (R416, R418). -/
def preemptionBegun (p : Pkg) (pp : Nat) : Pkg := modPc p pp (fun q => { q with pausePending := false, excludedFrom := p.now })

theorem pcPreempt_running (hstate : pcState p pp = 2) : pcPreempt p pp = (setPcState (beginPreempt (preemptionBegun p pp) pp) pp 4, accepted) := by
  rw [pcPreempt, if_pos hstate]
  rfl

theorem pcPreempt_refused (hstate : pcState p pp ∈ [0, 1, 3, 4, 5]) : pcPreempt p pp = refuse p (invalid 0x1105) := by
  simp only [List.mem_cons, List.not_mem_nil, or_false] at hstate
  rw [pcPreempt, if_neg (by omega), if_neg (by omega)]

/-- PREEMPT of a halted partition is answered with the code of the rejection that stopped it (R80). -/
theorem pcPreempt_halted (hstate : pcState p pp = 7) : pcPreempt p pp = refuse p (invalid
    (if (blocksOf p pp).any (fun b => (blk p b).act == 3) then (part p pp).pc.stepFailed.getD 0x1105 else 0x1105)) := by
  rw [pcPreempt, if_neg (by omega)]
  split
  · rename_i h
    rw [if_pos h.2]
  · rename_i h
    rw [if_neg fun hany => h ⟨hstate, hany⟩]

/-- What a START makes of a partition before it enters state 2 (R416). -/
def startCleared (p : Pkg) (pp : Nat) : Pkg :=
  let p := clearStepState p pp
  let p := modPc p pp (fun q => { q with firstStep := true, stepRunning := false, stepFailed := none, heldActions := false, heldFive := false,
                                         pausePending := false, stopPending := false, watchdogStep := none })
  let p := modRu p pp (fun q => { q with poison := none, reports := [], reported := false, recomputing := false, votes := [],
                                         captureUsed := 0 })
  modSc p pp (fun q => { q with starting := none, writeFailed := none })

theorem pcStart_taken (hstate : pcState p pp ∈ [1, 7]) (hready : rd p Ix.btStartState 0 = 8) (hflag : rd p Ix.ruPackageFlag 0 ≠ 2)
    (hdrydown : rd p Ix.ruDrydownState 0 = 0) (htable : programTableOk p pp = true) (hrecord : rackRecordOk p pp = true)
    (htick : isRack p pp = true → p.pw.tickAdopted = true) : pcStart p pp = (setPcState (startCleared p pp) pp 2, accepted) := by
  simp only [List.mem_cons, List.not_mem_nil, or_false] at hstate
  have hrack : ¬ (isRack p pp && !p.pw.tickAdopted) = true := by
    cases h : isRack p pp
    · simp
    · simp [htick h]
  rw [pcStart, if_neg (by omega), if_neg (by omega), if_neg hflag, if_neg (by omega), if_neg (by simp [htable, hrecord]), if_neg hrack]
  rfl

theorem pcStart_notReady (hstate : pcState p pp ∈ [1, 7]) (hready : rd p Ix.btStartState 0 ≠ 8) :
    pcStart p pp = refuse (last p Ix.btLastStatus 0 0x1309) (invalid 0x1309) := by
  simp only [List.mem_cons, List.not_mem_nil, or_false] at hstate
  rw [pcStart, if_neg (by omega), if_pos hready]

theorem pcStart_flagged (hstate : pcState p pp ∈ [1, 7]) (hready : rd p Ix.btStartState 0 = 8) (hflag : rd p Ix.ruPackageFlag 0 = 2) :
    pcStart p pp = refuse (last p Ix.ruLastStatus pp 0x1214) (invalid 0x1214) := by
  simp only [List.mem_cons, List.not_mem_nil, or_false] at hstate
  rw [pcStart, if_neg (by omega), if_neg (by omega), if_pos hflag]

theorem pcStart_refused (hstate : pcState p pp ∈ [1, 7]) (hready : rd p Ix.btStartState 0 = 8) (hflag : rd p Ix.ruPackageFlag 0 ≠ 2)
    (h : rd p Ix.ruDrydownState 0 ≠ 0 ∨ programTableOk p pp = false ∨ rackRecordOk p pp = false ∨ isRack p pp = true ∧ p.pw.tickAdopted = false) :
    pcStart p pp = refuse p (invalid 0x1105) := by
  simp only [List.mem_cons, List.not_mem_nil, or_false] at hstate
  rw [pcStart, if_neg (by omega), if_neg (by omega), if_neg hflag]
  split
  · rfl
  · rename_i hdrydown
    split
    · rfl
    · rename_i hplace
      refine if_pos ?_
      rcases h with h | h | h | ⟨hrack, htick⟩
      · exact absurd h hdrydown
      · simp [h] at hplace
      · simp [h] at hplace
      · simp [hrack, htick]

theorem pcStart_otherState (hstate : pcState p pp ∈ [0, 2, 3, 4, 5]) : pcStart p pp = refuse p (invalid 0x1105) := by
  simp only [List.mem_cons, List.not_mem_nil, or_false] at hstate
  rw [pcStart, if_pos (by omega)]

end

end Sys2Proof.Machine
end

section
/-! A partition reset begins (R425, R426). -/

namespace Sys2Proof.Machine

/-- The package with what a preempted partition saved discarded, before a reset of it begins (R416). -/
def resetPrepared (p : Pkg) (pp : Nat) : Pkg := if pcState p pp = 4 ∨ pcState p pp = 5 then discardSaved p pp else p

/-- A partition that begins a reset asked for by a command or a notice (R425 phase 1). -/
def resetBegun (p : Pkg) (pp : Nat) : Pkg :=
  bump (setPcState (modPc (stopPasses (resetPrepared p pp) pp) pp (fun q => { q with
    resetPhase := 1, resetStartNs := (resetPrepared p pp).now, pausePending := false, stopPending := false, heldActions := false, resetFault := false })) pp 6)
    Ix.pcResets pp 1

theorem beginReset_silent {p : Pkg} {pp : Nat} (hstate : pcState p pp ≠ 6) : beginReset p pp 0 false = resetBegun p pp := by
  rw [beginReset, if_neg hstate]
  rfl

theorem beginReset_notifies {p : Pkg} {pp : Nat} (hstate : pcState p pp ≠ 6) :
    beginReset p pp 0 true = (otherMembers (resetBegun p pp) pp).foldl (fun p m => emit p (.resetNotice m pp)) (resetBegun p pp) := by
  rw [beginReset, if_neg hstate]
  rfl

theorem resetPrepared_frame (p : Pkg) (pp : Nat) : BlockFrame p (resetPrepared p pp) := by
  unfold resetPrepared
  split
  · exact discardSaved_frame p pp
  · exact BlockFrame.rfl p

theorem BlockFrame.now {p q : Pkg} (h : BlockFrame p q) : q.now = p.now := (congrArg Pkg.now h.rest :)
theorem BlockFrame.out {p q : Pkg} (h : BlockFrame p q) : q.out = p.out := (congrArg Pkg.out h.rest :)

/-- The package whose passes are idle as a reset begins, before its copy slots are abandoned. -/
def resetIdled (p : Pkg) (pp : Nat) : Pkg := (blocksOf (resetPrepared p pp) pp).foldl idleBlock (resetPrepared p pp)

theorem resetIdled_frame (p : Pkg) (pp : Nat) : BlockFrame p (resetIdled p pp) := (resetPrepared_frame p pp).trans (idle_fold _ _ _)

section
variable (p : Pkg) {pp : Nat} (hpp : pp < 12)

theorem resetBegun_mem : (resetBegun p pp).mem = p.mem := by
  show (resetIdled p pp).mem = _
  exact (resetIdled_frame p pp).mem

theorem resetBegun_out : (resetBegun p pp).out = p.out := by
  show (resetIdled p pp).out = _
  exact (resetIdled_frame p pp).out

theorem resetBegun_pc : (part (resetBegun p pp) pp).pc = { (part p pp).pc with
    resetPhase := 1, resetStartNs := p.now, pausePending := false, stopPending := false, heldActions := false, resetFault := false } := by
  have hparts : (stopPasses (resetPrepared p pp) pp).parts = p.parts := (resetIdled_frame p pp).parts
  rw [resetBegun, part_bump, setPcState, part_wr, part_modPc, part_of_parts hparts, (resetPrepared_frame p pp).now]

include hpp

theorem resetBegun_state : pcState (resetBegun p pp) pp = 6 := by
  rw [resetBegun, pcState, rd_bump_ne _ _ (by decide) (by omega) (by omega)]
  exact pcState_setPcState _ _ _

/-- An entry that neither idling blocks nor the begin of a reset writes. -/
theorem resetBegun_rd {e : Entry} {sub : Nat} (hs : sub < 256) (hblock : blockKey (keyAt e 0 sub) = false) (hstate : e.index ≠ Ix.pcState.index)
    (hresets : e.index ≠ Ix.pcResets.index) : rd (resetBegun p pp) e sub = rd p e sub := by
  rw [resetBegun, rd_bump_ne _ _ hresets hs (by omega), setPcState, rd_wr_ne _ _ hstate hs (by omega)]
  exact (resetIdled_frame p pp).rd e sub hblock

theorem resetBegun_resets : rd (resetBegun p pp) Ix.pcResets pp = (rd p Ix.pcResets pp + 1) % 2 ^ 32 := by
  rw [resetBegun, rd_bump_self, setPcState, rd_wr_ne _ _ (by decide) (by omega) (by omega)]
  have hkey : blockKey (keyAt Ix.pcResets 0 pp) = false := blockKey_false (by omega) (by decide) (by decide) (by decide) (by decide) (by decide)
  have h : rd (modPc (stopPasses (resetPrepared p pp) pp) pp (fun q => { q with
      resetPhase := 1, resetStartNs := (resetPrepared p pp).now, pausePending := false, stopPending := false, heldActions := false, resetFault := false }))
      Ix.pcResets pp = rd p Ix.pcResets pp := (resetIdled_frame p pp).rd Ix.pcResets pp hkey
  rw [h]
  rfl

theorem resetBegun_otherMembers : otherMembers (resetBegun p pp) pp = otherMembers p pp := by
  have hkey : blockKey (keyAt Ix.pcRackPartition 0 pp) = false := blockKey_false (by omega) (by decide) (by decide) (by decide) (by decide) (by decide)
  refine otherMembers_of ?_ (resetBegun_rd p hpp (by omega) (by decide) (by decide) (by decide)) (resetBegun_rd p hpp (by omega) (by decide) (by decide) (by decide))
  have hbump : rdB (resetBegun p pp) Ix.pcRackPartition pp = rdB (resetIdled p pp) Ix.pcRackPartition pp := by
    unfold resetBegun bump bumpAt
    exact (rdB_wr_ne _ _ (by decide) (by omega) (by omega)).trans (rdB_wr_ne _ _ (by decide) (by omega) (by omega))
  rw [hbump]
  simp [rdB, (resetIdled_frame p pp).vals _ hkey]

end

/-- Every thing of a list that is sent outward is sent. -/
theorem foldl_emit_mem {α : Type} (f : α → Out) (l : List α) (p : Pkg) : ∀ x ∈ l, f x ∈ (l.foldl (fun p x => emit p (f x)) p).out :=
  foldl_establishes (P := fun x p => f x ∈ p.out) (fun p x => by simp [emit]) (fun p x y h => List.mem_append_left _ h) l p

end Sys2Proof.Machine
end

section
/-! The partition commands (O51): each command completes. -/

namespace Sys2Proof.Machine

theorem pcCommand_open {p : Pkg} {pp : Nat} (hstate : pcState p pp ≠ 6) :
    pcCommand p pp 1 = pcStart p pp ∧ pcCommand p pp 2 = pcStop p pp ∧ pcCommand p pp 3 = pcPause p pp ∧ pcCommand p pp 4 = pcResumeCommand p pp
    ∧ pcCommand p pp 5 = pcPreempt p pp
    ∧ pcCommand p pp 6 = if pcState p pp = 0 then refuse p (invalid 0x1105) else (beginReset p pp 0 true, accepted) :=
  ⟨if_neg hstate, if_neg hstate, if_neg hstate, if_neg hstate, if_neg hstate, if_neg hstate⟩

/-- While a partition resets every command is answered RESETTING (R416). -/
theorem pcCommand_resetting {p : Pkg} {pp : Nat} (hstate : pcState p pp = 6) (v : Nat) : pcCommand p pp v = refuse p { abort := 10, status := 0x11E1 } :=
  if_pos hstate

section
variable {s : State} {pp : Fin 12} {i : Instr} {v : Nat} {effect : Pkg → Prop} (hp : powered s.pkg = true)
  (hx : exec i s = onPkgF (fun p => answered Ix.pcCommand pp (pcCommand p pp v)) s)
include hp hx

/-- A partition command completes with what its owner's answer shows. -/
theorem completes_of_pcCommand {r : Pkg × Answer} (hr : pcCommand (begun s) pp v = r) (h : effect (answered Ix.pcCommand pp r)) : Completes i s effect :=
  completes_of hp hx (by rw [hr]; exact h)

/-- A partition command that is refused changes nothing, and is answered with the refusal (R405, R416). -/
theorem completes_of_pcRefusal {a : Answer} (hr : pcCommand (begun s) pp v = refuse (begun s) a) :
    Completes i s (fun q => q.dict = s.pkg.dict ∧ q.parts = s.pkg.parts ∧ q.tp = s.pkg.tp ∧ q.mem = s.pkg.mem
      ∧ q.out = s.pkg.out ++ [.answer 0x6002 pp a.abort a.status a.pending]) :=
  completes_of_pcCommand hp hx hr ⟨rfl, rfl, rfl, rfl, rfl⟩

end

/-- Sending the members their reset notices leaves the dictionary, the partitions and memory. -/
theorem notify_leaves (pp : Nat) (l : List Nat) (p : Pkg) :
    (l.foldl (fun p m => emit p (.resetNotice m pp)) p).dict = p.dict ∧ (l.foldl (fun p m => emit p (.resetNotice m pp)) p).parts = p.parts
    ∧ (l.foldl (fun p m => emit p (.resetNotice m pp)) p).mem = p.mem :=
  ⟨foldl_emit_same Pkg.dict (fun _ _ => rfl) _ l p, foldl_emit_same Pkg.parts (fun _ _ => rfl) _ l p, foldl_emit_same Pkg.mem (fun _ _ => rfl) _ l p⟩

/-- A preempted partition whose step ends runs none, and its blocks are idle. -/
theorem endPreempted_shows (p : Pkg) (pp : Nat) :
    (part (endPreempted p pp) pp).pc.stepRunning = false ∧ ∀ b ∈ blocksOf p pp, (blk (endPreempted p pp) b).idle := by
  have hidle := discardSaved_idle p pp
  unfold endPreempted
  generalize discardSaved p pp = q at hidle ⊢
  dsimp only
  refine ⟨by rw [part_modPc], fun b hb => ?_⟩
  show (blk (if (part q pp).pc.stepRunning = true then discardProducts q pp else q) b).idle
  split
  · exact discardProducts_keeps_idle q pp (hidle b hb)
  · exact hidle b hb

theorem startCleared_tp (p : Pkg) (pp : Nat) : (startCleared p pp).tp = (clearStepState p pp).tp := rfl

theorem startCleared_mem (p : Pkg) (pp : Nat) : (startCleared p pp).mem = p.mem := (clearStepState_frame p pp).mem

theorem startCleared_part (p : Pkg) (pp : Nat) : (part (startCleared p pp) pp).pc.firstStep = true ∧ (part (startCleared p pp) pp).pc.stepRunning = false
    ∧ (part (startCleared p pp) pp).ru.poison = none := by
  simp [startCleared]

theorem startCleared_cleared (p : Pkg) (pp : Nat) : ∀ b ∈ blocksOf p pp, (blk (startCleared p pp) b).cleared := fun b hb => by
  rw [blk_of_tp (startCleared_tp p pp)]
  exact clearStepState_cleared p pp b hb

section
variable {s : State} {pp : Fin 12} (hp : powered s.pkg = true)
include hp

theorem partitionStart_taken (hstate : pcState s.pkg pp ∈ [1, 7]) (hready : rd s.pkg Ix.btStartState 0 = 8) (hflag : rd s.pkg Ix.ruPackageFlag 0 ≠ 2)
    (hdrydown : rd s.pkg Ix.ruDrydownState 0 = 0) (htable : programTableOk s.pkg pp = true) (hrecord : rackRecordOk s.pkg pp = true)
    (htick : isRack s.pkg pp = true → s.pkg.pw.tickAdopted = true) :
    Completes (.partitionStart pp) s (fun q => pcState q pp = 2 ∧ (part q pp).pc.firstStep = true ∧ (part q pp).pc.stepRunning = false
      ∧ (part q pp).ru.poison = none ∧ (∀ b ∈ blocksOf s.pkg pp, (blk q b).counters = [] ∧ (blk q b).tallies = [] ∧ (blk q b).p = 0 ∧ (blk q b).step = none)
      ∧ q.mem = s.pkg.mem ∧ q.out.getLast? = some (.answer 0x6002 pp 0 0 false)) := by
  have hne : pcState (begun s) pp ≠ 6 := fun h => by
    rw [show pcState s.pkg pp = 6 from h] at hstate
    simp at hstate
  rw [← rackRecordOk_of_dict (show (begun s).dict = s.pkg.dict from rfl) pp] at hrecord
  refine completes_of_pcCommand (v := 1) hp (exec_partitionStart pp s) ((pcCommand_open hne).1.trans
    (pcStart_taken (p := begun s) hstate hready hflag hdrydown htable hrecord htick)) ?_
  rw [answered_accepted]
  have hcleared := startCleared_cleared (begun s) pp
  have hmem := startCleared_mem (begun s) pp
  obtain ⟨hfirst, hidle, hpoison⟩ := startCleared_part (begun s) pp
  generalize startCleared (begun s) pp = q at hcleared hmem hfirst hidle hpoison ⊢
  exact ⟨pcState_setPcState _ _ _, hfirst, hidle, hpoison, hcleared, hmem, emit_last _ _⟩

theorem partitionStart_refused (hstate : pcState s.pkg pp ∈ [1, 7]) {status : Nat}
    (h : rd s.pkg Ix.btStartState 0 ≠ 8 ∧ status = 0x1309
      ∨ rd s.pkg Ix.btStartState 0 = 8 ∧ rd s.pkg Ix.ruPackageFlag 0 = 2 ∧ status = 0x1214
      ∨ rd s.pkg Ix.btStartState 0 = 8 ∧ rd s.pkg Ix.ruPackageFlag 0 ≠ 2 ∧ status = 0x1105
        ∧ (rd s.pkg Ix.ruDrydownState 0 ≠ 0 ∨ programTableOk s.pkg pp = false ∨ rackRecordOk s.pkg pp = false ∨ isRack s.pkg pp = true ∧ s.pkg.pw.tickAdopted = false)) :
    Completes (.partitionStart pp) s (fun q => (status = 0x1105 → q.dict = s.pkg.dict) ∧ (status = 0x1309 → rd q Ix.btLastStatus 0 = status)
      ∧ (status = 0x1214 → rd q Ix.ruLastStatus pp = status) ∧ q.parts = s.pkg.parts ∧ q.tp = s.pkg.tp ∧ q.mem = s.pkg.mem
      ∧ q.out = s.pkg.out ++ [.answer 0x6002 pp 6 status false]) := by
  have hne : pcState (begun s) pp ≠ 6 := fun h => by
    rw [show pcState s.pkg pp = 6 from h] at hstate
    simp at hstate
  have hx := exec_partitionStart pp s
  have hcommand := (pcCommand_open hne).1
  rw [← rackRecordOk_of_dict (show (begun s).dict = s.pkg.dict from rfl) pp] at h
  rcases h with ⟨hready, rfl⟩ | ⟨hready, hflag, rfl⟩ | ⟨hready, hflag, rfl, hother⟩
  · refine completes_of_pcCommand (v := 1) hp hx (hcommand.trans (pcStart_notReady (p := begun s) hstate hready)) ?_
    exact ⟨fun h => absurd h (by decide), fun _ => rd_last_self (begun s) Ix.btLastStatus 0 0x1309, fun h => absurd h (by decide), rfl, rfl, rfl, rfl⟩
  · refine completes_of_pcCommand (v := 1) hp hx (hcommand.trans (pcStart_flagged (p := begun s) hstate hready hflag)) ?_
    exact ⟨fun h => absurd h (by decide), fun h => absurd h (by decide), fun _ => rd_last_self (begun s) Ix.ruLastStatus pp 0x1214, rfl, rfl, rfl, rfl⟩
  · refine completes_of_pcCommand (v := 1) hp hx (hcommand.trans (pcStart_refused (p := begun s) hstate hready hflag hother)) ?_
    exact ⟨fun _ => rfl, fun h => absurd h (by decide), fun h => absurd h (by decide), rfl, rfl, rfl, rfl⟩

theorem partitionStop_between (hstate : pcState s.pkg pp = 2) (hidle : (part s.pkg pp).pc.stepRunning = false) :
    Completes (.partitionStop pp) s (fun q => pcState q pp = 1 ∧ q.mem = s.pkg.mem ∧ q.tp = s.pkg.tp ∧ q.out.getLast? = some (.answer 0x6002 pp 0 0 false)) := by
  refine completes_of_pcCommand (v := 2) hp (exec_partitionStop pp s) ((pcCommand_open (p := begun s) (show pcState s.pkg pp ≠ 6 by omega)).2.1.trans
    (pcStop_between (p := begun s) hstate hidle)) ?_
  rw [answered_accepted]
  exact ⟨pcState_setPcState _ _ _, stopFreed_mem (begun s) pp, stopFreed_tp (begun s) pp, emit_last _ _⟩

theorem partitionStop_running (hstate : pcState s.pkg pp = 2) (hrun : (part s.pkg pp).pc.stepRunning = true) :
    Completes (.partitionStop pp) s (fun q => pcState q pp = 2 ∧ (part q pp).pc.stopPending = true ∧ (part q pp).pc.stepRunning = true ∧ q.mem = s.pkg.mem
      ∧ q.out.getLast? = some (.answer 0x6002 pp 0 0 false)) := by
  refine completes_of_pcCommand (v := 2) hp (exec_partitionStop pp s) ((pcCommand_open (p := begun s) (show pcState s.pkg pp ≠ 6 by omega)).2.1.trans
    (pcStop_running (p := begun s) hstate hrun)) ?_
  rw [answered_accepted]
  refine ⟨?_, by simp, ?_, stopFreed_mem (begun s) pp, emit_last _ _⟩
  · exact (stopFreed_entry (begun s) pp Ix.pcState pp (by decide) (by omega)).trans hstate
  · rw [part_emit, part_modPc, stopFreed_pc]
    exact hrun

theorem partitionStop_paused (hstate : pcState s.pkg pp ∈ [3, 5]) :
    Completes (.partitionStop pp) s (fun q => pcState q pp = 1 ∧ q.out.getLast? = some (.answer 0x6002 pp 0 0 false)
      ∧ (pcState s.pkg pp = 3 → q.mem = s.pkg.mem ∧ q.tp = s.pkg.tp)
      ∧ (pcState s.pkg pp = 5 → (part q pp).pc.stepRunning = false ∧ ∀ b ∈ blocksOf s.pkg pp, (blk q b).passes = [] ∧ (blk q b).stopAt = none)) := by
  have hx := exec_partitionStop pp s
  simp only [List.mem_cons, List.not_mem_nil, or_false] at hstate
  have hcommand := (pcCommand_open (show pcState (begun s) pp ≠ 6 from fun h => by rw [show pcState s.pkg pp = 6 from h] at hstate; omega)).2.1
  rcases hstate with hpaused | hpreempted
  · refine completes_of_pcCommand (v := 2) hp hx (hcommand.trans (pcStop_paused (p := begun s) hpaused)) ?_
    rw [answered_accepted]
    exact ⟨pcState_setPcState _ _ _, emit_last _ _, fun _ => ⟨stopFreed_mem (begun s) pp, stopFreed_tp (begun s) pp⟩, fun h => absurd (hpaused.symm.trans h) (by decide)⟩
  · refine completes_of_pcCommand (v := 2) hp hx (hcommand.trans (pcStop_preempted (p := begun s) hpreempted)) ?_
    rw [answered_accepted]
    have hblocks : blocksOf (stopFreed (begun s) pp) pp = blocksOf s.pkg pp := by
      rw [blocksOf, regionsOf, stopFreed_entry _ _ Ix.pcRegionMask _ (by decide) (by omega)]
      rfl
    obtain ⟨hover, hidle⟩ := endPreempted_shows (stopFreed (begun s) pp) pp
    rw [hblocks] at hidle
    generalize endPreempted (stopFreed (begun s) pp) pp = q at hover hidle ⊢
    exact ⟨pcState_setPcState _ _ _, emit_last _ _, fun h => absurd (hpreempted.symm.trans h) (by decide), fun _ => ⟨hover, hidle⟩⟩

theorem partitionPause_taken (hstate : pcState s.pkg pp = 2) :
    Completes (.partitionPause pp) s (fun q => (part q pp).pc.pausePending = true ∧ q.dict = s.pkg.dict ∧ q.mem = s.pkg.mem
      ∧ q.out.getLast? = some (.answer 0x6002 pp 0 0 false)) := by
  refine completes_of_pcCommand (v := 3) hp (exec_partitionPause pp s) ((pcCommand_open (p := begun s) (show pcState s.pkg pp ≠ 6 by omega)).2.2.1.trans
    (pcPause_running (p := begun s) hstate)) ?_
  rw [answered_accepted]
  exact ⟨by simp, rfl, rfl, emit_last _ _⟩

theorem partitionResume_paused (hstate : pcState s.pkg pp = 3) (hdrydown : rd s.pkg Ix.ruDrydownState 0 = 0) :
    Completes (.partitionResume pp) s (fun q => pcState q pp = 2 ∧ (part q pp).pc.powerPaused = false ∧ q.mem = s.pkg.mem
      ∧ q.tp = s.pkg.tp ∧ q.out.getLast? = some (.answer 0x6002 pp 0 0 false)) := by
  refine completes_of_pcCommand (v := 4) hp (exec_partitionResume pp s) ((pcCommand_open (p := begun s) (show pcState s.pkg pp ≠ 6 by omega)).2.2.2.1.trans
    (pcResumeCommand_taken (p := begun s) (.inl hstate) hdrydown)) ?_
  rw [answered_accepted, pcResume_paused (p := begun s) pp.isLt hstate]
  refine ⟨pcState_setPcState _ _ _, ?_, (clearPowerBit_only (begun s) pp).mem, (clearPowerBit_only (begun s) pp).tp, emit_last _ _⟩
  rw [part_emit, setPcState, part_wr, powerFreed_pc]

theorem partitionResume_preempted (hstate : pcState s.pkg pp = 5) (hdrydown : rd s.pkg Ix.ruDrydownState 0 = 0) :
    Completes (.partitionResume pp) s (fun q => pcState q pp = 2 ∧ (part q pp).pc.powerPaused = false
      ∧ (∀ b ∈ blocksOf s.pkg pp, regionHidden s.pkg (b / 8) = false → (blk s.pkg b).step ≠ none → (blk q b).stopAt = none ∧ (blk q b).reported = false ∧ (blk q b).saved = [])
      ∧ q = answered Ix.pcCommand pp (pcResume (begun s) pp, accepted)) := by
  refine completes_of_pcCommand (v := 4) hp (exec_partitionResume pp s) ((pcCommand_open (p := begun s) (show pcState s.pkg pp ≠ 6 by omega)).2.2.2.1.trans
    (pcResumeCommand_taken (p := begun s) (.inr hstate) hdrydown)) ?_
  have hfreed := clearPowerBit_only (begun s) pp
  have hentry : ∀ (e : Entry) (sub : Nat), e.index ≠ Ix.pwPowerPaused.index → sub < 256 → rd (preemptionExcluded (begun s) pp) e sub = rd s.pkg e sub :=
    fun e sub he hs => hfreed.entry e sub he hs
  have hpc : (part (preemptionExcluded (begun s) pp) pp).pc.powerPaused = false := by
    rw [preemptionExcluded, part_modPc, powerFreed_pc]
  have htp : (preemptionExcluded (begun s) pp).tp = s.pkg.tp := hfreed.tp
  obtain ⟨hupper, hreleased⟩ := restoreSaved_shows (preemptionExcluded (begun s) pp) pp
  refine ⟨?_, ?_, fun b hb hhidden hstep => ?_, rfl⟩
  · rw [answered_accepted, pcResume_preempted (p := begun s) pp.isLt hstate]
    exact pcState_setPcState _ _ _
  · rw [answered_accepted, pcResume_preempted (p := begun s) pp.isLt hstate, part_emit, setPcState, part_wr, hupper.part]
    exact hpc
  · rw [answered_accepted, pcResume_preempted (p := begun s) pp.isLt hstate]
    refine hreleased b ?_ ?_ ?_
    · rw [blocksOf, regionsOf, hentry Ix.pcRegionMask _ (by decide) (by omega)]
      exact hb
    · rw [regionHidden, hentry Ix.btHiddenRegions _ (by decide) (by omega)]
      exact hhidden
    · rw [blk_of_tp htp]
      exact hstep

theorem partitionPreempt_taken (hstate : pcState s.pkg pp = 2) :
    Completes (.partitionPreempt pp) s (fun q => pcState q pp = 4 ∧ (part q pp).pc.pausePending = false ∧ (part q pp).pc.excludedFrom = s.clock.ns
      ∧ (∀ b ∈ blocksOf s.pkg pp, (blk q b).stopAt = some (((blocksOf s.pkg pp).map (fun b => (blk s.pkg b).marks)).foldl max 0 + 1)) ∧ q.mem = s.pkg.mem
      ∧ q.out.getLast? = some (.answer 0x6002 pp 0 0 false)) := by
  refine completes_of_pcCommand (v := 5) hp (exec_partitionPreempt pp s) ((pcCommand_open (p := begun s) (show pcState s.pkg pp ≠ 6 by omega)).2.2.2.2.1.trans
    (pcPreempt_running (p := begun s) hstate)) ?_
  rw [answered_accepted]
  have hframe := beginPreempt_frame (preemptionBegun (begun s) pp) pp
  have hpc : (part (beginPreempt (preemptionBegun (begun s) pp) pp) pp).pc = { (part s.pkg pp).pc with pausePending := false, excludedFrom := s.clock.ns } := by
    rw [part_of_parts hframe.parts, preemptionBegun, part_modPc]
    rfl
  refine ⟨pcState_setPcState _ _ _, ?_, ?_, beginPreempt_stopAt (preemptionBegun (begun s) pp) pp, hframe.mem, emit_last _ _⟩
  · rw [part_emit, setPcState, part_wr, hpc]
  · rw [part_emit, setPcState, part_wr, hpc]

theorem partitionReset_taken (hconfigured : pcState s.pkg pp ≠ 0) (hstate : pcState s.pkg pp ≠ 6) :
    Completes (.partitionReset pp) s (fun q => pcState q pp = 6 ∧ (part q pp).pc.resetPhase = 1 ∧ (part q pp).pc.resetStartNs = s.clock.ns
      ∧ rd q Ix.pcResets pp = (rd s.pkg Ix.pcResets pp + 1) % 2 ^ 32 ∧ q.mem = s.pkg.mem ∧ q.out.getLast? = some (.answer 0x6002 pp 0 0 false)
      ∧ ∀ m ∈ otherMembers s.pkg pp, Out.resetNotice m pp ∈ q.out) := by
  refine completes_of_pcCommand (v := 6) hp (exec_partitionReset pp s) (((pcCommand_open (p := begun s) hstate).2.2.2.2.2).trans (if_neg hconfigured)) ?_
  rw [answered_accepted, beginReset_notifies (p := begun s) hstate, resetBegun_otherMembers (begun s) pp.isLt]
  have hentered := resetBegun_state (begun s) pp.isLt
  have hresets := resetBegun_resets (begun s) pp.isLt
  have hpc := resetBegun_pc (begun s) (pp := pp)
  have hmem := resetBegun_mem (begun s) (pp := pp)
  generalize resetBegun (begun s) pp = q at hentered hresets hpc hmem ⊢
  obtain ⟨hdict, hparts, hmem'⟩ := notify_leaves pp (otherMembers (begun s) pp) q
  have hsent := foldl_emit_mem (fun m => Out.resetNotice m pp) (otherMembers (begun s) pp) q
  generalize (otherMembers (begun s) pp).foldl (fun p m => emit p (.resetNotice m pp)) q = r at hdict hparts hmem' hsent ⊢
  refine ⟨(rd_of_dict hdict _ _).trans hentered, ?_, ?_, (rd_of_dict hdict _ _).trans hresets, hmem'.trans hmem, emit_last _ _,
    fun m hm => List.mem_append_left _ (hsent m hm)⟩
  · rw [part_emit, part_of_parts hparts, hpc]
  · rw [part_emit, part_of_parts hparts, hpc]
    rfl

end

/-- Settles O51, by what each command's owner does in each state. The refusals of START before ready and of a package under REPLACE are R481's
and R457's; that STOP of a preempted partition ends its step is the model's choice (entry 184 of the log). -/
theorem partitionCommandsComplete : Obligations.PartitionCommandsComplete := by
  unfold Obligations.PartitionCommandsComplete
  intro s pp hp
  refine ⟨fun hstate => ⟨fun hready hflag hdrydown htable hrecord htick => partitionStart_taken hp hstate hready hflag hdrydown htable hrecord htick,
    fun _ h => partitionStart_refused hp hstate h⟩,
    partitionStop_between hp, partitionStop_running hp, partitionStop_paused hp, partitionPause_taken hp,
    fun hdrydown => ⟨fun h => partitionResume_paused hp h hdrydown, fun h => partitionResume_preempted hp h hdrydown⟩,
    partitionPreempt_taken hp, partitionReset_taken hp, fun i hi hstate => ?resetting, fun i hi hstate => ?otherState, fun hstate hdrydown => ?drydown,
    fun status hstate hstatus => ?halted⟩
  case resetting =>
    have hrefused (v : Nat) := pcCommand_resetting (p := begun s) hstate v
    simp only [List.mem_cons, List.not_mem_nil, or_false] at hi
    rcases hi with rfl | rfl | rfl | rfl | rfl | rfl
    · exact completes_of_pcRefusal hp (exec_partitionStart pp s) (hrefused 1)
    · exact completes_of_pcRefusal hp (exec_partitionStop pp s) (hrefused 2)
    · exact completes_of_pcRefusal hp (exec_partitionPause pp s) (hrefused 3)
    · exact completes_of_pcRefusal hp (exec_partitionResume pp s) (hrefused 4)
    · exact completes_of_pcRefusal hp (exec_partitionPreempt pp s) (hrefused 5)
    · exact completes_of_pcRefusal hp (exec_partitionReset pp s) (hrefused 6)
  case otherState =>
    have hne : pcState (begun s) pp ≠ 6 := fun h => by
      rw [show pcState s.pkg pp = 6 from h] at hstate
      simp only [List.mem_cons, List.not_mem_nil, or_false] at hi
      rcases hi with rfl | rfl | rfl | rfl | rfl | rfl <;> simp at hstate
    obtain ⟨hstart, hstop, hpause, hresume, hpreempt, hreset⟩ := pcCommand_open hne
    simp only [List.mem_cons, List.not_mem_nil, or_false] at hi
    rcases hi with rfl | rfl | rfl | rfl | rfl | rfl
    · exact completes_of_pcRefusal hp (exec_partitionStart pp s) (hstart.trans (pcStart_otherState (p := begun s) hstate))
    · exact completes_of_pcRefusal hp (exec_partitionStop pp s) (hstop.trans (pcStop_refused (p := begun s) hstate))
    · exact completes_of_pcRefusal hp (exec_partitionPause pp s) (hpause.trans (pcPause_refused (p := begun s) hstate))
    · exact completes_of_pcRefusal hp (exec_partitionResume pp s) (hresume.trans (pcResumeCommand_refused (p := begun s) (.inl hstate)))
    · exact completes_of_pcRefusal hp (exec_partitionPreempt pp s) (hpreempt.trans (pcPreempt_refused (p := begun s) hstate))
    · exact completes_of_pcRefusal hp (exec_partitionReset pp s) (hreset.trans (if_pos (List.mem_singleton.1 hstate)))
  case drydown =>
    have hne : pcState (begun s) pp ≠ 6 := fun h => by
      rw [show pcState s.pkg pp = 6 from h] at hstate
      exact absurd hstate (by decide)
    exact completes_of_pcRefusal hp (exec_partitionResume pp s) ((pcCommand_open hne).2.2.2.1.trans (pcResumeCommand_refused (p := begun s) (.inr hdrydown)))
  case halted =>
    have hne : pcState (begun s) pp ≠ 6 := fun h => absurd (hstate.symm.trans h) (by decide)
    rw [hstatus]
    exact completes_of_pcRefusal hp (exec_partitionPreempt pp s) ((pcCommand_open hne).2.2.2.2.1.trans (pcPreempt_halted (p := begun s) hstate))

end Sys2Proof.Machine
end

section
/-! A preemption and a reset of a partition end phase by phase (O52). -/

namespace Sys2Proof.Machine

theorem saveBlock_upper (p : Pkg) {b : Nat} (hb : b < 96) : UpperKept p (saveBlock p b) := by
  have hact : UpperKept p (if (blk p b).act = 3 then p else setAct p b 0) := by
    split
    · exact UpperKept.rfl p
    · exact setAct_upper p hb 0
  unfold saveBlock
  dsimp only
  split
  · exact hact
  · exact hact.trans (storeLocal_access _ _ _ _ _ _ _ _ _).upper

theorem savePreempted_upper (p : Pkg) (pp : Nat) : UpperKept p (savePreempted p pp) :=
  List.foldlRecOn (motive := UpperKept p) _ _ (UpperKept.rfl p) fun _ hq b hb => hq.trans (saveBlock_upper _ (blocksOf_lt p pp b hb))

/-! ### Broken fences -/

/-- What the Memory-Semantic Layer holds that sending does not touch: the broken fences and the violation log. -/
def Ms.logs (m : Ms) : List Nat × List Violation := (m.broken, m.violations)

theorem transmit_logs (p : Pkg) (before : List Txn) (t : Txn) : (transmit p before t).1.ms.logs = p.ms.logs := by
  have hlaunch : ∀ (q : Pkg) (b : Bool) (k : Packet), (launch q b k).ms = q.ms := by
    intro q b k
    unfold launch
    split <;> rfl
  have hsent : ∀ (q : Pkg) (t : Txn) (k : Packet), (launchTxn q t k).ms = q.ms := by
    intro q t k
    unfold launchTxn
    split
    · rfl
    · exact hlaunch _ _ _
  unfold transmit
  dsimp only
  rw [hsent]
  split <;> split <;> rfl

theorem pumpOne_logs (a : Pkg × List Txn) (t : Txn) : (pumpOne a t).1.ms.logs = a.1.ms.logs := by
  unfold pumpOne
  split
  · rfl
  · split
    · rfl
    · split
      · rfl
      · split
        · exact transmit_logs _ _ _
        · rfl

/-- Sending what may go breaks no fence, heals none, and logs nothing. -/
theorem pump_logs (p : Pkg) : (pump p).ms.logs = p.ms.logs := by
  have hfold : ∀ (l : List Txn) (a : Pkg × List Txn), (l.foldl pumpOne a).1.ms.logs = a.1.ms.logs := by
    intro l
    induction l with
    | nil => exact fun _ => rfl
    | cons t l ih => exact fun a => (ih (pumpOne a t)).trans (pumpOne_logs a t)
  exact hfold p.ms.txns (p, [])

theorem send_logs (p : Pkg) (t : Txn) : (send p t).ms.logs = p.ms.logs := by
  unfold send
  split
  · rfl
  · split
    · rfl
    · exact pump_logs _

theorem putEvent_logs (p : Pkg) (e : EventEntry) : (putEvent p e).ms.logs = p.ms.logs := by
  have hstore := send_logs p
    { source := eventSource, partition := 0xFF, toHost := true, type := 1, addr := rd p Ix.hiEventRingBase 0 + p.hi.seq % rd p Ix.hiEventRingSlots 0 * 32,
      data := e.bytes, bytes := e.bytes.length, step := e.step, purpose := .event }
  unfold putEvent announceEvents
  dsimp only
  split
  · split
    · exact hstore
    · exact (send_logs _ _).trans hstore
  · exact hstore

theorem drainEvents_logs (fuel : Nat) (p : Pkg) : (drainEvents fuel p).ms.logs = p.ms.logs := by
  induction fuel generalizing p with
  | zero => rfl
  | succ fuel ih =>
    unfold drainEvents
    split
    · rfl
    · split
      · exact (ih _).trans (putEvent_logs _ _)
      · split
        · rfl
        · exact (ih _).trans (putEvent_logs _ _)

theorem raise_logs (p : Pkg) (code partition unit detail : Nat) : (raise p code partition unit detail).ms.logs = p.ms.logs := by
  unfold raise raiseStep
  split
  · rfl
  · dsimp only
    split
    · rfl
    · exact drainEvents_logs _ _

theorem pump_broken (p : Pkg) : (pump p).ms.broken = p.ms.broken := congrArg Prod.fst (pump_logs p)

theorem raise_broken (p : Pkg) (code partition unit detail : Nat) : (raise p code partition unit detail).ms.broken = p.ms.broken :=
  congrArg Prod.fst (raise_logs p code partition unit detail)

theorem raise_violations (p : Pkg) (code partition unit detail : Nat) : (raise p code partition unit detail).ms.violations = p.ms.violations :=
  congrArg Prod.snd (raise_logs p code partition unit detail)

theorem showFences_broken (p : Pkg) : (showFences p).ms.broken = p.ms.broken := by
  unfold showFences
  exact foldl_same (fun q => q.ms.broken) (f := fun p pp => wr p Ix.msBrokenFences pp (p.ms.broken.filter (fun s => partOfSource p s == pp)).length)
    (fun _ _ => rfl) _ p

theorem breakFence_broken (p : Pkg) (x : Nat) : x ∈ (breakFence p x).ms.broken ∧ ∀ y ∈ p.ms.broken, y ∈ (breakFence p x).ms.broken := by
  unfold breakFence
  split
  · rename_i hbroken
    exact ⟨List.contains_iff_mem.1 hbroken, fun _ h => h⟩
  · rw [showFences_broken, pump_broken]
    exact ⟨List.mem_append_right _ (List.mem_singleton_self x), fun _ h => List.mem_append_left _ h⟩

/-- The fences of the RETIREs not answered are broken (R425 phase 3). -/
theorem retiresOver_broken (p : Pkg) (pp : Nat) (u : List Nat) : ∀ x ∈ u, x ∈ (retiresOver p pp u).ms.broken := by
  refine foldl_establishes (P := fun x q => x ∈ q.ms.broken) (fun q x => ?_) (fun q x y h => ?_) u p
  · rw [raise_broken]
    exact (breakFence_broken q x).1
  · rw [raise_broken]
    exact (breakFence_broken q y).2 x h

/-! ### Phase 4 -/

theorem charge_tf (p : Pkg) (pp resource region bytes : Nat) : (charge p pp resource region bytes).tf = p.tf := by
  unfold charge
  dsimp only
  split <;> rfl

theorem serveChannels_tf (fuel : Nat) (p : Pkg) : (serveChannels fuel p).tf = p.tf := by
  have hwait : ∀ (q : Pkg) (c : Nat), (waitForSlot q c).tf = q.tf := by
    intro q c
    unfold waitForSlot
    split <;> rfl
  have hissue : ∀ (q : Pkg) (c : Nat), (issuePiece q c).tf = q.tf := fun q c => charge_tf _ _ _ _ _
  induction fuel generalizing p with
  | zero => rfl
  | succ fuel ih =>
    rw [serveChannels]
    dsimp only
    split
    · exact foldl_same Pkg.tf hwait _ _
    · split
      · exact (ih _).trans (hissue _ _)
      · split
        · exact (ih _).trans (hissue _ _)
        · exact (ih _).trans rfl
      · exact (ih _).trans rfl

/-- What is left of the fabric by what halts, abandons and discards: all but the packets that travel. -/
def FabricKept (p q : Pkg) : Prop := { q.tf with outgoing := p.tf.outgoing } = p.tf

theorem FabricKept.trans {p q r : Pkg} (h : FabricKept p q) (g : FabricKept q r) : FabricKept p r := by
  unfold FabricKept at *
  rw [← h, ← g]

theorem FabricKept.of_tf {p q : Pkg} (h : q.tf = p.tf) : FabricKept p q := by
  unfold FabricKept
  rw [h]

theorem FabricKept.colls {p q : Pkg} (h : FabricKept p q) : q.tf.colls = p.tf.colls := (congrArg Tf.colls h :)

theorem FabricKept.foldl {α : Type} {f : Pkg → α → Pkg} (hf : ∀ p x, FabricKept p (f p x)) (l : List α) (p : Pkg) : FabricKept p (l.foldl f p) := by
  induction l generalizing p with
  | nil => exact FabricKept.of_tf rfl
  | cons x l ih => exact (hf p x).trans (ih (f p x))

theorem FabricKept.of_keeps {p q : Pkg} (h : KeepsState p q) : FabricKept p q := h.tf

theorem serve_fabric (p : Pkg) : FabricKept p (serve p) := FabricKept.of_tf (serveChannels_tf _ p)

/-- A halt's own record, before its event and the grants that it frees (R300). -/
theorem haltRecord_tf (p : Pkg) (c : Nat) (f : DmaFault) (g : Channel → Channel) :
    (setChanState (last (wrB (modChan p c g) Ix.dmChannelFault c f.bytes) Ix.dmChannelLastStatus c f.haltStatus) c 5).tf = p.tf := by
  show (wrB (modChan p c g) Ix.dmChannelFault c f.bytes).tf = p.tf
  rw [wrB_tf]
  rfl

theorem haltNow_fabric (p : Pkg) (c : Nat) (f : DmaFault) : FabricKept p (haltNow p c f) := by
  have hrecord := haltRecord_tf p c f (fun k => { k with pieces := [], halting := none, waiting := false })
  unfold haltNow
  dsimp only
  generalize setChanState _ c 5 = q at hrecord ⊢
  refine FabricKept.trans ?_ (serve_fabric _)
  split
  · exact (FabricKept.of_tf hrecord).trans (FabricKept.of_keeps (raise_keeps _ _ _ _ _))
  · exact FabricKept.of_tf hrecord

theorem abandonMoves_fabric (p : Pkg) (f : Move → Bool) : FabricKept p (abandonMoves p f) := by
  unfold abandonMoves
  dsimp only
  split <;> exact FabricKept.of_tf rfl

theorem launch_fabric (p : Pkg) (b : Bool) (k : Packet) : FabricKept p (launch p b k) := FabricKept.of_keeps (launch_keeps p b k)

theorem respond_fabric (p : Pkg) (b : Bool) (k : Packet) (type status : Nat) (data : Bytes) : FabricKept p (respond p b k type status data) := by
  have hnoted : FabricKept p (if type = 0x43 then noteMs (bump p Ix.msErrorsSent 0 1) status else p) := by
    unfold noteMs
    split
    · split <;> exact FabricKept.of_tf rfl
    · exact FabricKept.of_tf rfl
  unfold respond
  exact hnoted.trans (launch_fabric _ _ _)

theorem keepAnswer_fabric (p : Pkg) (k : Packet) (status : Nat) (result : Option DWord) : FabricKept p (keepAnswer p k status result) :=
  FabricKept.of_tf rfl

/-- What a reset makes of a partition's discarded step, before its requests end: its channels halted, its moves abandoned and its held returns
answered (R302, R425). -/
def resetHandsOff (p : Pkg) (pp : Nat) : Pkg :=
  let p := haltPartitionChannels (abandonPartitionMoves p pp) pp
  (part p pp).er.heldReturns.foldl (fun p k => respondError (keepAnswer p k 0x0EE1 none) false k 0x0EE1) p

theorem resetHandsOff_fabric (p : Pkg) (pp : Nat) : FabricKept p (resetHandsOff p pp) := by
  have hhalted : FabricKept p (haltPartitionChannels (abandonPartitionMoves p pp) pp) :=
    (abandonMoves_fabric p _).trans (FabricKept.foldl (fun q c => haltNow_fabric q c _) _ _)
  unfold resetHandsOff
  generalize haltPartitionChannels (abandonPartitionMoves p pp) pp = q at hhalted ⊢
  exact hhalted.trans (FabricKept.foldl (fun q k => (keepAnswer_fabric _ _ _ _).trans (respond_fabric _ _ _ _ _ _)) _ _)

/-- The step's products discarded, where one runs. -/
def stepDiscarded (p : Pkg) (pp : Nat) : Pkg :=
  let p := abortCollectives p pp
  if (part p pp).pc.stepRunning then discardProducts p pp else p

/-- A partition whose requests and state end with its reset (R211, R425 phase 4). -/
def resetEnded (p : Pkg) (pp : Nat) : Pkg :=
  let p := modSe (modEr p pp (fun _ => {})) pp (fun q => { q with voided := [], lag0 := [], haveEstimate := false })
  modSc (endAll p pp 0x06E1) pp (fun q => { q with masks := [[], []], notices := [], resetPending := true, cancelWords := [] })

theorem discardStep_eq (p : Pkg) (pp : Nat) : discardStep p pp =
    if pcState (stepDiscarded p pp) pp = 6 then resetEnded (resetHandsOff (stepDiscarded p pp) pp) pp else stepDiscarded p pp := rfl

/-- An entry from 0x6000 on reads as before. -/
def UpperVals (p q : Pkg) : Prop := ∀ k, 0x600000 ≤ k → tfind q.dict.vals k = tfind p.dict.vals k

theorem UpperVals.state {p q : Pkg} (h : UpperVals p q) (pp : Nat) : pcState q pp = pcState p pp := by
  simp [pcState, rd, rdAt, h _ (show 0x600000 ≤ keyAt Ix.pcState 0 pp by simp only [keyAt, Ix.pcState]; omega)]

theorem sendColl_upper (p : Pkg) (dest type : Nat) (h : CollHeader) (data : Bytes) : UpperKept p (sendColl p dest type h data) :=
  UpperKept.of_keeps (launch_keeps _ _ _)

theorem abortCollectives_upper (p : Pkg) (pp : Nat) : UpperKept p (abortCollectives p pp) := by
  refine UpperKept.trans (UpperKept.foldl (fun q c => ?_) _ p) (UpperKept.of_dict rfl rfl)
  exact UpperKept.foldl (fun q m => sendColl_upper _ _ _ _ _) _ q

theorem discardProducts_shows (p : Pkg) (pp : Nat) : UpperVals p (discardProducts p pp) ∧ FabricKept p (discardProducts p pp) := by
  have hrestored : ((blocksOf p pp).foldl restoreBlock p).dict = p.dict ∧ ((blocksOf p pp).foldl restoreBlock p).tf = p.tf :=
    ⟨foldl_same Pkg.dict (f := restoreBlock) (fun _ _ => rfl) _ p, foldl_same Pkg.tf (f := restoreBlock) (fun _ _ => rfl) _ p⟩
  unfold discardProducts
  generalize (blocksOf p pp).foldl restoreBlock p = q at hrestored ⊢
  obtain ⟨hdict, htf⟩ := hrestored
  have hkept := kvRollback_kept q pp (stepOf p pp)
  generalize kvRollback q pp (stepOf p pp) = r at hkept ⊢
  exact ⟨fun k hk => (hkept.vals k hk).trans (by rw [hdict]), (FabricKept.of_tf htf).trans hkept.tf⟩

theorem stepDiscarded_shows (p : Pkg) (pp : Nat) :
    pcState (stepDiscarded p pp) pp = pcState p pp ∧ ∀ c ∈ (stepDiscarded p pp).tf.colls, c.pp ≠ pp := by
  have hstate : pcState (abortCollectives p pp) pp = pcState p pp := (abortCollectives_upper p pp).rd Ix.pcState pp (by decide)
  have hcolls : ∀ c ∈ (abortCollectives p pp).tf.colls, c.pp ≠ pp := fun c hc => by
    simpa using (List.mem_filter.1 hc).2
  unfold stepDiscarded
  generalize abortCollectives p pp = q at hstate hcolls ⊢
  dsimp only
  split
  · obtain ⟨hvals, hfabric⟩ := discardProducts_shows q pp
    refine ⟨(hvals.state pp).trans hstate, ?_⟩
    rw [hfabric.colls]
    exact hcolls
  · exact ⟨hstate, hcolls⟩

/-- What is left of a partition whose step a reset has discarded: no mask, no notice, no live request, no router's state and no product held. -/
def ResetDiscarded (x : Part) : Prop :=
  x.sc.masks = [[], []] ∧ x.sc.notices = [] ∧ x.sc.resetPending = true ∧ (∀ r ∈ x.sc.requests, r.ended.isSome = true) ∧ x.er = {} ∧ x.se.lag0 = []

/-- With its step discarded a partition has no collective, and one that resets has ended its requests and cleared its masks and notices. -/
theorem discardStep_shows (p : Pkg) (pp : Nat) :
    (∀ c ∈ (discardStep p pp).tf.colls, c.pp ≠ pp) ∧ (pcState p pp = 6 → ResetDiscarded (part (discardStep p pp) pp)) := by
  obtain ⟨hstate, hcolls⟩ := stepDiscarded_shows p pp
  rw [discardStep_eq]
  generalize stepDiscarded p pp = q at hstate hcolls ⊢
  split
  · have hfabric := resetHandsOff_fabric q pp
    generalize resetHandsOff q pp = r at hfabric ⊢
    refine ⟨?_, fun _ => ?_⟩
    · show ∀ c ∈ r.tf.colls, c.pp ≠ pp
      rw [hfabric.colls]
      exact hcolls
    · refine ⟨by simp [resetEnded], by simp [resetEnded], by simp [resetEnded], fun x hx => ?_, by simp [resetEnded, endAll], by simp [resetEnded, endAll]⟩
      simp only [resetEnded, endAll, part_modSc, List.mem_map] at hx
      obtain ⟨y, -, rfl⟩ := hx
      split
      · rfl
      · rename_i hlive
        simpa [Req.live, Option.isSome_iff_ne_none] using hlive
  · rename_i hne
    exact ⟨hcolls, fun h => absurd (hstate.trans h) hne⟩

end Sys2Proof.Machine
end

section
/-! A preemption and a reset of a partition end phase by phase (O52): the commands. -/

namespace Sys2Proof.Machine

theorem preemptSaved_begun (s : State) (pp : Nat) : preemptSaved (begun s) pp = preemptSaved s.pkg pp := rfl

section
variable {s : State} {pp : Fin 12} (hp : powered s.pkg = true)
include hp

theorem preemptSave_done (hstate : pcState s.pkg pp = 4) (hsaved : preemptSaved s.pkg pp = true) :
    Completes (.preemptSaveComplete pp) s (fun q => pcState q pp = 5 ∧ rd q Ix.pcPreemptions pp = (rd s.pkg Ix.pcPreemptions pp + 1) % 2 ^ 32) := by
  refine completes_of hp (exec_preemptSaveComplete pp s) ?_
  rw [if_pos ⟨hstate, hsaved⟩]
  have hraised := raise_keeps (bump (setPcState (savePreempted (begun s) pp) pp 5) Ix.pcPreemptions pp 1) 0x1112 pp 0xFFFFFFFF 0
  have hsame := (savePreempted_upper (begun s) pp).rd Ix.pcPreemptions pp (by decide)
  generalize raise _ 0x1112 pp 0xFFFFFFFF 0 = q at hraised ⊢
  refine ⟨?_, ?_⟩
  · rw [pcState, hraised.rd _ _ (commsKey_far (by simp only [keyAt, Ix.pcState]; omega)), rd_bump_ne _ _ (by decide) (by omega) (by omega)]
    exact pcState_setPcState _ _ _
  · rw [hraised.rd _ _ (commsKey_far (by simp only [keyAt, Ix.pcPreemptions]; omega)), rd_bump_self, setPcState,
      rd_wr_ne _ _ (by decide) (by omega) (by omega), hsame]
    rfl

theorem preemptSave_waits (h : pcState s.pkg pp ≠ 4 ∨ preemptSaved s.pkg pp = false) :
    Completes (.preemptSaveComplete pp) s (fun q => q = begun s) := by
  refine completes_of hp (exec_preemptSaveComplete pp s) (if_neg fun ⟨hstate, hsaved⟩ => ?_)
  rcases h with h | h
  · exact h hstate
  · rw [preemptSaved_begun, h] at hsaved
    exact absurd hsaved (by decide)

end

/-- A partition reset that is over, before its event (R425). -/
def resetOver (p : Pkg) (pp st : Nat) : Pkg :=
  setPcState (wr (modPc p pp (fun q => { q with resetPhase := 0 })) Ix.pcResetDurationUs pp ((p.now - (part p pp).pc.resetStartNs) / 1000)) pp st

/-- Without requests that the reset ended, closing it is entering the state and raising the event (R425). -/
theorem closeReset_plain {p : Pkg} {pp : Nat} (st code : Nat) (hpending : (part p pp).sc.resetPending = false) :
    closeReset p pp st code = raise (resetOver p pp st) code pp 0xFFFFFFFF 0 := by
  have hraised := (raise_keeps (resetOver p pp st) code pp 0xFFFFFFFF 0).part pp
  have hpart : (part (resetOver p pp st) pp).sc.resetPending = false := by
    rw [resetOver, setPcState, part_wr, part_wr, part_modPc]
    exact hpending
  rw [← hraised] at hpart
  exact if_neg (show ¬(part (raise (resetOver p pp st) code pp 0xFFFFFFFF 0) pp).sc.resetPending = true by rw [hpart]; decide)

/-- What a reset that is over shows: its state and no phase; the blocks, memory and the upper entries but those two are as before. -/
theorem closeReset_shows {p : Pkg} {pp : Nat} (hpp : pp < 12) (st code : Nat) (hpending : (part p pp).sc.resetPending = false) :
    pcState (closeReset p pp st code) pp = st % 256 ∧ (part (closeReset p pp st code) pp).pc.resetPhase = 0 ∧ (closeReset p pp st code).tp = p.tp
    ∧ (closeReset p pp st code).mem = p.mem
    ∧ ∀ (e : Entry) (sub : Nat), 0x6000 ≤ e.index → e.index ≠ Ix.pcState.index → e.index ≠ Ix.pcResetDurationUs.index → sub < 256 →
      rd (closeReset p pp st code) e sub = rd p e sub := by
  rw [closeReset_plain st code hpending]
  have hraised := raise_keeps (resetOver p pp st) code pp 0xFFFFFFFF 0
  have hupper := UpperKept.of_keeps hraised
  refine ⟨?_, ?_, hraised.tp, hraised.mem, fun e sub he hstate hduration hs => ?_⟩
  · exact (hupper.rd Ix.pcState pp (by decide)).trans (pcState_setPcState _ _ _)
  · rw [hupper.part, resetOver, setPcState, part_wr, part_wr, part_modPc]
  · rw [hupper.rd e sub he, resetOver, setPcState, rd_wr_ne _ _ hstate hs (by omega), rd_wr_ne _ _ hduration hs (by omega), rd_modPc]

/-- What the last phase of a reset leaves to close: SRAM zeroed and the blocks cleared (R425 phase 7). -/
def resetCleared (p : Pkg) (pp : Nat) : Pkg := clearStepState (zeroSram p (regionsOf p pp)) pp

/-- One block's SRAM zeroed (R425, R428). -/
def zeroBlock (p : Pkg) (b : Nat) : Pkg := { p with mem := memZero p.mem (sramBase b) 0x01000000 }

theorem zeroSram_eq (p : Pkg) (rs : List Nat) : zeroSram p rs = (rs.flatMap blocksOfRegion).foldl zeroBlock p := rfl

theorem phaseEntered (p : Pkg) (pp n : Nat) : (part (modPc p pp fun q => { q with resetPhase := n }) pp).pc.resetPhase = n := by rw [part_modPc]

theorem zeroSram_keeps (p : Pkg) (rs : List Nat) : (zeroSram p rs).dict = p.dict ∧ (zeroSram p rs).parts = p.parts ∧ (zeroSram p rs).tp = p.tp := by
  rw [zeroSram_eq]
  exact ⟨foldl_same Pkg.dict (f := zeroBlock) (fun _ _ => rfl) _ p, foldl_same Pkg.parts (f := zeroBlock) (fun _ _ => rfl) _ p,
    foldl_same Pkg.tp (f := zeroBlock) (fun _ _ => rfl) _ p⟩

theorem blocksOf_of_dict {p q : Pkg} (h : p.dict = q.dict) (pp : Nat) : blocksOf p pp = blocksOf q pp := by
  rw [blocksOf, blocksOf, regionsOf, regionsOf, rd_of_dict h]

theorem resetCleared_shows (p : Pkg) {pp : Nat} (hpp : pp < 12) :
    (part (resetCleared p pp) pp) = part p pp ∧ (resetCleared p pp).mem = (zeroSram p (regionsOf p pp)).mem
    ∧ rd (resetCleared p pp) Ix.pcAutoStart pp = rd p Ix.pcAutoStart pp ∧ ∀ b ∈ blocksOf p pp, (blk (resetCleared p pp) b).cleared := by
  obtain ⟨hdict, hparts, -⟩ := zeroSram_keeps p (regionsOf p pp)
  have hcleared := clearStepState_cleared (zeroSram p (regionsOf p pp)) pp
  have hframe := clearStepState_frame (zeroSram p (regionsOf p pp)) pp
  rw [blocksOf_of_dict hdict] at hcleared
  refine ⟨?_, hframe.mem, ?_, hcleared⟩
  · exact (part_of_parts hframe.parts pp).trans (part_of_parts hparts pp)
  · exact (hframe.rd _ _ (blockKey_false (by omega) (by decide) (by decide) (by decide) (by decide) (by decide))).trans (rd_of_dict hdict _ _)

theorem finishReset_eq (p : Pkg) (pp : Nat) :
    finishReset p pp = if rd (closeReset p pp 1 0x1110) Ix.pcAutoStart pp = 1 then (pcStart (closeReset p pp 1 0x1110) pp).1 else closeReset p pp 1 0x1110 := rfl

section
variable {s : State} {pp : Fin 12} {f : List FailedUnit} {u : List Nat} (hp : powered s.pkg = true)
include hp

theorem resetPhase1_ends (hphase : (part s.pkg pp).pc.resetPhase = 1) :
    Completes (.resetPhaseComplete pp f u) s (fun q => (part q pp).pc.resetPhase = 2 ∧ q.dict = s.pkg.dict ∧ q.mem = s.pkg.mem ∧ q.tp = s.pkg.tp) := by
  refine completes_of hp (exec_resetPhaseComplete pp f u s) ?_
  dsimp only
  rw [show (part (begun s) pp).pc.resetPhase = 1 from hphase]
  exact ⟨phaseEntered (begun s) pp 2, rfl, rfl, rfl⟩

theorem resetPhase2_ends (hphase : (part s.pkg pp).pc.resetPhase = 2) :
    Completes (.resetPhaseComplete pp f u) s (fun q => ∃ p, p = retireUnresolved (abandonOutstanding (begun s) pp) pp
      ∧ (part q pp).pc.resetPhase = 3 ∧ q = modPc p pp (fun x => { x with resetPhase := 3 })) := by
  refine completes_of hp (exec_resetPhaseComplete pp f u s) ?_
  dsimp only
  rw [show (part (begun s) pp).pc.resetPhase = 2 from hphase]
  exact ⟨_, rfl, phaseEntered (retireUnresolved (abandonOutstanding (begun s) pp) pp) pp 3, rfl⟩

theorem resetPhase3_ends (hphase : (part s.pkg pp).pc.resetPhase = 3) :
    Completes (.resetPhaseComplete pp f u) s (fun q => (part q pp).pc.resetPhase = 4 ∧ (∀ x ∈ u, x ∈ q.ms.broken)) := by
  refine completes_of hp (exec_resetPhaseComplete pp f u s) ?_
  dsimp only
  rw [show (part (begun s) pp).pc.resetPhase = 3 from hphase]
  exact ⟨phaseEntered (retiresOver (begun s) pp u) pp 4, retiresOver_broken (begun s) pp u⟩

theorem resetPhase4_ends (hphase : (part s.pkg pp).pc.resetPhase = 4) :
    Completes (.resetPhaseComplete pp f u) s (fun q => (part q pp).pc.resetPhase = 5 ∧ (∀ c ∈ q.tf.colls, c.pp ≠ pp.val)
      ∧ (pcState s.pkg pp = 6 → (part q pp).sc.masks = [[], []] ∧ (part q pp).sc.notices = [] ∧ (part q pp).sc.resetPending = true
        ∧ (∀ r ∈ (part q pp).sc.requests, r.ended.isSome = true) ∧ (part q pp).er = {} ∧ (part q pp).se.lag0 = [])) := by
  refine completes_of hp (exec_resetPhaseComplete pp f u s) ?_
  dsimp only
  rw [show (part (begun s) pp).pc.resetPhase = 4 from hphase]
  obtain ⟨hcolls, hreset⟩ := discardStep_shows (begun s) pp
  generalize discardStep (begun s) pp = q at hcolls hreset ⊢
  refine ⟨phaseEntered q pp 5, hcolls, fun hstate => ?_⟩
  show ResetDiscarded (part (modPc q pp fun x => { x with resetPhase := 5 }) pp)
  rw [part_modPc]
  exact hreset hstate

theorem resetPhase5_ends (hphase : (part s.pkg pp).pc.resetPhase = 5) :
    Completes (.resetPhaseComplete pp f u) s (fun q => (part q pp).pc.resetPhase = 6 ∧ q.mem = s.pkg.mem ∧ q.dict = s.pkg.dict
      ∧ q.tp.fenced = s.pkg.tp.fenced.filter (fun r => !(regionsOf s.pkg pp).contains r)) := by
  refine completes_of hp (exec_resetPhaseComplete pp f u s) ?_
  dsimp only
  rw [show (part (begun s) pp).pc.resetPhase = 5 from hphase]
  exact ⟨phaseEntered (relock (begun s) pp) pp 6, rfl, rfl, rfl⟩

/-- The end of phase 6, by whether the test leaves a region of the partition hidden (R425, R474). -/
theorem completes_of_resetPhase6 (hphase : (part s.pkg pp).pc.resetPhase = 6) {p : Pkg}
    (htested : p = (regionsOf (begun s) pp).foldl (returnUnits f) (f.foldl takeDefect (begun s))) {effect : Pkg → Prop}
    (h : effect (if (regionsOf p pp).any (regionHidden p) then closeReset (last p Ix.pcLastStatus pp 0x1106) pp 7 0x1111
      else modPc p pp (fun q => { q with resetPhase := 7 }))) : Completes (.resetPhaseComplete pp f u) s effect := by
  subst htested
  refine completes_of hp (exec_resetPhaseComplete pp f u s) ?_
  dsimp only
  rw [show (part (begun s) pp).pc.resetPhase = 6 from hphase]
  exact h

theorem resetPhase6_ends (hphase : (part s.pkg pp).pc.resetPhase = 6) {p : Pkg}
    (htested : p = (regionsOf (begun s) pp).foldl (returnUnits f) (f.foldl takeDefect (begun s))) :
    ((∀ r ∈ regionsOf p pp, regionHidden p r = false) → Completes (.resetPhaseComplete pp f u) s (fun q =>
      (part q pp).pc.resetPhase = 7 ∧ q = modPc p pp (fun x => { x with resetPhase := 7 })))
    ∧ ((∃ r ∈ regionsOf p pp, regionHidden p r = true) → (part p pp).sc.resetPending = false → Completes (.resetPhaseComplete pp f u) s (fun q =>
      pcState q pp = 7 ∧ rd q Ix.pcLastStatus pp = 0x1106 ∧ (part q pp).pc.resetPhase = 0))
    ∧ ((∃ r ∈ regionsOf p pp, regionHidden p r = true) → Completes (.resetPhaseComplete pp f u) s (fun q =>
      q = closeReset (last p Ix.pcLastStatus pp 0x1106) pp 7 0x1111)) := by
  refine ⟨fun hnone => completes_of_resetPhase6 hp hphase htested ?_, fun hsome hpending => completes_of_resetPhase6 hp hphase htested ?_,
    fun hsome => completes_of_resetPhase6 hp hphase htested (if_pos (List.any_eq_true.2 hsome))⟩
  · rw [if_neg (by simpa using hnone)]
    exact ⟨by rw [part_modPc], rfl⟩
  · rw [if_pos (List.any_eq_true.2 hsome)]
    obtain ⟨hstate, hover, -, -, hentries⟩ := closeReset_shows (p := last p Ix.pcLastStatus pp 0x1106) pp.isLt 7 0x1111 (by rw [part_last]; exact hpending)
    refine ⟨hstate, ?_, hover⟩
    rw [hentries _ _ (by decide) (by decide) (by decide) (by omega), rd_last_self]
    rfl

/-- The end of phase 7 (R425). -/
theorem completes_of_resetPhase7 (hphase : (part s.pkg pp).pc.resetPhase = 7) {effect : Pkg → Prop}
    (h : effect (finishReset (resetCleared (begun s) pp) pp)) : Completes (.resetPhaseComplete pp f u) s effect := by
  refine completes_of hp (exec_resetPhaseComplete pp f u s) ?_
  dsimp only
  rw [show (part (begun s) pp).pc.resetPhase = 7 from hphase]
  exact h

theorem resetPhase7_ends (hphase : (part s.pkg pp).pc.resetPhase = 7) (hpending : (part s.pkg pp).sc.resetPending = false)
    (hauto : rd s.pkg Ix.pcAutoStart pp ≠ 1) : Completes (.resetPhaseComplete pp f u) s (fun q => pcState q pp = 1 ∧ (part q pp).pc.resetPhase = 0
      ∧ q.mem = (zeroSram (begun s) (regionsOf s.pkg pp)).mem ∧ (∀ b ∈ blocksOf s.pkg pp, (blk q b).counters = [] ∧ (blk q b).p = 0)) := by
  refine completes_of_resetPhase7 hp hphase ?_
  obtain ⟨hpart, hmem, hstart, hcleared⟩ := resetCleared_shows (begun s) pp.isLt
  obtain ⟨hstate, hover, htp, hmem', hentries⟩ := closeReset_shows (p := resetCleared (begun s) pp) pp.isLt 1 0x1110 (by rw [hpart]; exact hpending)
  have hoff : rd (closeReset (resetCleared (begun s) pp) pp 1 0x1110) Ix.pcAutoStart pp ≠ 1 := by
    rw [hentries _ _ (by decide) (by decide) (by decide) (by omega), hstart]
    exact hauto
  rw [finishReset_eq, if_neg hoff]
  refine ⟨hstate, hover, hmem'.trans hmem, fun b hb => ?_⟩
  obtain ⟨hcounters, -, hpval, -⟩ := hcleared b hb
  rw [blk_of_tp htp]
  exact ⟨hcounters, hpval⟩

theorem resetPhase_none (hphase : (part s.pkg pp).pc.resetPhase ∉ [1, 2, 3, 4, 5, 6, 7]) :
    Completes (.resetPhaseComplete pp f u) s (fun q => q = begun s) := by
  refine completes_of hp (exec_resetPhaseComplete pp f u s) ?_
  simp only [List.mem_cons, List.not_mem_nil, or_false, not_or] at hphase
  obtain ⟨h1, h2, h3, h4, h5, h6, h7⟩ := hphase
  dsimp only
  split <;> rename_i hphase
  · exact absurd hphase h1
  · exact absurd hphase h2
  · exact absurd hphase h3
  · exact absurd hphase h4
  · exact absurd hphase h5
  · exact absurd hphase h6
  · exact absurd hphase h7
  · rfl

theorem resetNotice_begins (hconfigured : pcState s.pkg pp ≠ 0) (hstate : pcState s.pkg pp ≠ 6) :
    Completes (.resetNoticeArrival pp) s (fun q => pcState q pp = 6 ∧ (part q pp).pc.resetPhase = 1
      ∧ rd q Ix.pcResets pp = (rd s.pkg Ix.pcResets pp + 1) % 2 ^ 32 ∧ q.mem = s.pkg.mem ∧ q.out = s.pkg.out) := by
  refine completes_of hp (exec_resetNoticeArrival pp s) ?_
  rw [if_neg fun h => h.elim hstate hconfigured, beginReset_silent (p := begun s) hstate]
  refine ⟨resetBegun_state _ pp.isLt, ?_, resetBegun_resets (begun s) pp.isLt, resetBegun_mem (begun s), resetBegun_out (begun s)⟩
  rw [resetBegun_pc]

end

/-- Settles O52, phase by phase: the end of each is one branch of the command. -/
theorem partitionPhasesComplete : Obligations.PartitionPhasesComplete := by
  unfold Obligations.PartitionPhasesComplete
  intro s pp f u hp
  exact ⟨preemptSave_done hp, preemptSave_waits hp, resetPhase1_ends hp, resetPhase2_ends hp, resetPhase3_ends hp, resetPhase4_ends hp, resetPhase5_ends hp,
    fun hphase _ htested => resetPhase6_ends hp hphase htested,
    fun hphase => ⟨resetPhase7_ends hp hphase, fun c hc => completes_of_resetPhase7 hp hphase (by rw [hc]; exact finishReset_eq _ _)⟩,
    resetPhase_none hp, resetNotice_begins hp, fun h => completes_of hp (exec_resetNoticeArrival pp s) (if_pos h.symm)⟩

end Sys2Proof.Machine
end

section
/-! Bandwidth buckets refill (R420), a halt shows itself (R415), and a region mask is taken or refused (R413, R428). -/

namespace Sys2Proof.Machine

/-- A halted partition shows state 7 and its status, and runs no step (R415). -/
theorem haltPartition_shows (p : Pkg) {pp : Nat} (hpp : pp < 12) (status : Nat) :
    pcState (haltPartition p pp status) pp = 7 ∧ rd (haltPartition p pp status) Ix.pcLastStatus pp = status % 2 ^ 16
    ∧ (part (haltPartition p pp status) pp).pc.stepRunning = false := by
  unfold haltPartition
  dsimp only
  split
  · rename_i hstate
    refine ⟨hstate, ?_, by rw [part_modPc]⟩
    rw [rd_modPc, rd_last_self]
    rfl
  · have hraised := UpperKept.of_keeps (raise_keeps (setPcState (modPc (last p Ix.pcLastStatus pp status) pp fun q => { q with stepRunning := false }) pp 7)
      0x1111 pp 0xFFFFFFFF 0)
    refine ⟨(hraised.rd Ix.pcState pp (by decide)).trans (pcState_setPcState _ _ _), ?_, ?_⟩
    · rw [hraised.rd Ix.pcLastStatus pp (by decide), setPcState, rd_wr_ne _ _ (by decide) (by omega) (by omega), rd_modPc, rd_last_self]
      rfl
    · rw [hraised.part, setPcState, part_wr, part_modPc]

/-! ### Buckets -/

/-- A bucket: its partition, its resource and its target region (R419). -/
def refillAt (p : Pkg) (x : Nat × Nat × Nat) : Pkg := refillBucket x.1 x.2.1 p x.2.2

/-- Every bucket of every partition. -/
def allBuckets : List (Nat × Nat × Nat) :=
  (List.range 12).flatMap fun pp => (List.range 5).flatMap fun r => (bucketsOf r).map fun g => (pp, r, g)

theorem mem_allBuckets {pp r g : Nat} : (pp, r, g) ∈ allBuckets ↔ pp < 12 ∧ r < 5 ∧ g ∈ bucketsOf r := by
  simp [allBuckets]

theorem bucketsOf_nodup (r : Nat) : (bucketsOf r).Nodup := by
  unfold bucketsOf
  split
  · exact List.nodup_range
  · exact List.nodup_singleton 0

theorem bucketsOf_lt {r g : Nat} (h : g ∈ bucketsOf r) : g < 16 := by
  unfold bucketsOf at h
  split at h
  · exact (List.mem_range.1 h).trans (by decide)
  · rw [List.mem_singleton.1 h]
    decide

theorem allBuckets_nodup : allBuckets.Nodup := by
  have hresources : ∀ pp : Nat, ((List.range 5).flatMap fun r => (bucketsOf r).map fun g => (pp, r, g)).Nodup := fun pp => by
    refine List.nodup_flatMap.2 ⟨fun r _ => (bucketsOf_nodup r).map fun a b h => by simpa using h, ?_⟩
    refine List.pairwise_lt_range.imp fun {a b} hab x hx hy => ?_
    obtain ⟨u, -, rfl⟩ := List.mem_map.1 hx
    obtain ⟨v, -, hv⟩ := List.mem_map.1 hy
    simp only [Prod.mk.injEq] at hv
    omega
  refine List.nodup_flatMap.2 ⟨fun pp _ => hresources pp, ?_⟩
  refine List.pairwise_lt_range.imp fun {a b} hab x hx hy => ?_
  simp only [List.mem_flatMap, List.mem_map] at hx hy
  obtain ⟨_, _, u, -, rfl⟩ := hx
  obtain ⟨_, _, v, -, hv⟩ := hy
  simp only [Prod.mk.injEq] at hv
  omega

/-- What refilling leaves: everything but the partitions' credit. -/
theorem refillAt_same {β : Type} (h : Pkg → β) (hh : ∀ p pp f, h (modPc p pp f) = h p) (p : Pkg) (x : Nat × Nat × Nat) : h (refillAt p x) = h p := by
  unfold refillAt refillBucket
  dsimp only
  split
  · rfl
  · exact hh _ _ _

theorem regulator_of_dict {p q : Pkg} (h : p.dict = q.dict) (pp r : Nat) : regulator p pp r = regulator q pp r := by
  rw [regulator, regulator, rdB_of_dict h]

theorem regulator_modPc (p : Pkg) (x : Nat) (f : PcPart → PcPart) (pp r : Nat) : regulator (modPc p x f) pp r = regulator p pp r := rfl

/-- The credit of a bucket after its refill (R420). -/
def refilledCredit (p : Pkg) (x : Nat × Nat × Nat) : Int :=
  if (regulator p x.1 x.2.1).1 = 0 then creditOf p x.1 x.2.1 x.2.2
  else min (creditOf p x.1 x.2.1 x.2.2 + (((regulator p x.1 x.2.1).1 * 100 / 1000 : Nat) : Int)) ((regulator p x.1 x.2.1).2.1 : Int)

theorem refillAt_self (p : Pkg) (x : Nat × Nat × Nat) : creditOf (refillAt p x) x.1 x.2.1 x.2.2 = refilledCredit p x := by
  unfold refilledCredit refillAt refillBucket
  dsimp only
  split
  · rfl
  · rw [creditOf, part_modPc]
    exact tget_tput_self _ _ _ _

theorem refillAt_ne (p : Pkg) {x y : Nat × Nat × Nat} (hne : y ≠ x) (hx : x.2.2 < 16) (hy : y.2.2 < 16) :
    creditOf (refillAt p x) y.1 y.2.1 y.2.2 = creditOf p y.1 y.2.1 y.2.2 := by
  unfold refillAt refillBucket
  dsimp only
  split
  · rfl
  · unfold creditOf
    rw [regulator_modPc]
    by_cases hpp : y.1 = x.1
    · have hkey : y.2.1 * 16 + y.2.2 ≠ x.2.1 * 16 + x.2.2 := fun h => hne (Prod.ext hpp (Prod.ext (by omega) (by omega)))
      rw [hpp, part_modPc]
      exact tget_tput_ne _ _ _ hkey
    · rw [modPc, part_modPart_ne _ _ hpp]

/-- Refilling each of some buckets once gives each its credit, and leaves the others. -/
theorem foldl_refillAt (l : List (Nat × Nat × Nat)) (hnodup : l.Nodup) (hl : ∀ x ∈ l, x.2.2 < 16) (p : Pkg) (y : Nat × Nat × Nat) (hy : y.2.2 < 16) :
    creditOf (l.foldl refillAt p) y.1 y.2.1 y.2.2 = if y ∈ l then refilledCredit p y else creditOf p y.1 y.2.1 y.2.2 := by
  induction l generalizing p with
  | nil => rfl
  | cons x l ih =>
    obtain ⟨hx, hrest⟩ := List.nodup_cons.1 hnodup
    rw [List.foldl_cons, ih hrest fun z hz => hl z (List.mem_cons_of_mem _ hz)]
    rcases eq_or_ne y x with rfl | hne
    · rw [if_neg hx, if_pos List.mem_cons_self, refillAt_self]
    · have hsame := refillAt_ne p hne (hl x List.mem_cons_self) hy
      have hcredit : refilledCredit (refillAt p x) y = refilledCredit p y := by
        unfold refilledCredit
        rw [hsame, regulator_of_dict (refillAt_same Pkg.dict (fun _ _ _ => rfl) p x)]
      rw [hsame, hcredit]
      simp [hne]

/-- Every bucket of every partition refilled, the channels not yet served. -/
def refilled (p : Pkg) : Pkg := allBuckets.foldl refillAt p

theorem refilled_eq (p : Pkg) : (List.range 12).foldl (fun p pp => (List.range 5).foldl (fun p resource =>
    (bucketsOf resource).foldl (refillBucket pp resource) p) p) p = refilled p := by
  unfold refilled allBuckets
  simp only [List.foldl_flatMap, List.foldl_map, refillAt]

theorem refilled_same {β : Type} (h : Pkg → β) (hh : ∀ p pp f, h (modPc p pp f) = h p) (p : Pkg) : h (refilled p) = h p :=
  foldl_same h (refillAt_same h hh) _ p

theorem refilled_credit (p : Pkg) {pp r g : Nat} (hpp : pp < 12) (hr : r < 5) (hg : g ∈ bucketsOf r) :
    creditOf (refilled p) pp r g = refilledCredit p (pp, r, g) := by
  have hall : ∀ x ∈ allBuckets, x.2.2 < 16 := fun ⟨_, _, _⟩ hx => bucketsOf_lt (mem_allBuckets.1 hx).2.2
  exact (foldl_refillAt allBuckets allBuckets_nodup hall p (pp, r, g) (bucketsOf_lt hg)).trans (if_pos (mem_allBuckets.2 ⟨hpp, hr, hg⟩))

end Sys2Proof.Machine
end

section
/-! Step watchdog, bandwidth refill and region masks (O53). -/

namespace Sys2Proof.Machine

theorem stepOf_last (p : Pkg) (pp : Nat) (hpp : pp < 12) (status : Nat) : stepOf (last p Ix.pcLastStatus pp status) pp = stepOf p pp :=
  rd_last_ne _ _ (by decide) (by omega) (by omega)

section
variable {s : State} {pp : Fin 12} (hp : powered s.pkg = true)
include hp

theorem stepWatchdog_fails (hstate : pcState s.pkg pp ≠ 6) (hrun : (part s.pkg pp).pc.stepRunning = true)
    (htime : 1000 * rd s.pkg Ix.pcStepWatchdogUs pp ≤ stepRunNs (begun s) pp) (hfirst : (part s.pkg pp).pc.watchdogStep ≠ some (stepOf s.pkg pp)) :
    Completes (.stepWatchdogExpiry pp) s (fun q => ∃ p, rd p Ix.pcLastStatus pp = 0x1101 ∧ (part p pp).pc.watchdogStep = some (stepOf s.pkg pp)
      ∧ p.mem = s.pkg.mem ∧ (part p pp).ru = (part s.pkg pp).ru ∧ q = causeRollback p pp 4 0xFF 0xFF 0 0) := by
  refine completes_of hp (exec_stepWatchdogExpiry pp s) ?_
  dsimp only
  have hlate : ¬(pcState (begun s) pp = 6 ∨ (part (begun s) pp).pc.stepRunning = false ∨ stepRunNs (begun s) pp < 1000 * rd (begun s) Ix.pcStepWatchdogUs pp) := by
    rintro (h | h | h)
    · exact hstate h
    · exact absurd (hrun.symm.trans h) (by decide)
    · exact absurd h (Nat.not_lt.2 htime)
  rw [if_neg hlate, stepOf_last _ _ pp.isLt, if_neg (show (part (begun s) pp).pc.watchdogStep ≠ some (stepOf (begun s) pp) from hfirst)]
  refine ⟨modPc (last (begun s) Ix.pcLastStatus pp 0x1101) pp (fun q => { q with watchdogStep := some (stepOf s.pkg pp) }), ?_, ?_, rfl, ?_, rfl⟩
  · rw [rd_modPc]
    exact rd_last_self (begun s) Ix.pcLastStatus pp 0x1101
  · rw [part_modPc]
  · rw [part_modPc]
    rfl

theorem stepWatchdog_halts (hstate : pcState s.pkg pp ≠ 6) (hrun : (part s.pkg pp).pc.stepRunning = true)
    (htime : 1000 * rd s.pkg Ix.pcStepWatchdogUs pp ≤ stepRunNs (begun s) pp) (hagain : (part s.pkg pp).pc.watchdogStep = some (stepOf s.pkg pp)) :
    Completes (.stepWatchdogExpiry pp) s (fun q => pcState q pp = 7 ∧ rd q Ix.pcLastStatus pp = 0x1101 ∧ (part q pp).pc.stepRunning = false) := by
  refine completes_of hp (exec_stepWatchdogExpiry pp s) ?_
  dsimp only
  have hlate : ¬(pcState (begun s) pp = 6 ∨ (part (begun s) pp).pc.stepRunning = false ∨ stepRunNs (begun s) pp < 1000 * rd (begun s) Ix.pcStepWatchdogUs pp) := by
    rintro (h | h | h)
    · exact hstate h
    · exact absurd (hrun.symm.trans h) (by decide)
    · exact absurd h (Nat.not_lt.2 htime)
  rw [if_neg hlate, stepOf_last _ _ pp.isLt, if_pos (show (part (begun s) pp).pc.watchdogStep = some (stepOf (begun s) pp) from hagain)]
  exact haltPartition_shows _ pp.isLt 0x1101

theorem stepWatchdog_early (htime : stepRunNs (begun s) pp < 1000 * rd s.pkg Ix.pcStepWatchdogUs pp) :
    Completes (.stepWatchdogExpiry pp) s (fun q => q = begun s) :=
  completes_of hp (exec_stepWatchdogExpiry pp s) (if_pos (.inr (.inr htime)))

theorem stepWatchdog_noStep (h : pcState s.pkg pp = 6 ∨ (part s.pkg pp).pc.stepRunning = false) :
    Completes (.stepWatchdogExpiry pp) s (fun q => q = begun s) :=
  completes_of hp (exec_stepWatchdogExpiry pp s) (if_pos (h.imp id .inl))

theorem regulatorRefill_refills : Completes .regulatorRefill s (fun q => ∃ p, q = serve p ∧ p.dict = s.pkg.dict ∧ p.mem = s.pkg.mem ∧ p.dm = s.pkg.dm
    ∧ ∀ pp < 12, ∀ r < 5, ∀ g ∈ bucketsOf r, ((regulator s.pkg pp r).1 = 0 → creditOf p pp r g = creditOf s.pkg pp r g)
      ∧ ((regulator s.pkg pp r).1 ≠ 0 → creditOf p pp r g = min (creditOf s.pkg pp r g + (((regulator s.pkg pp r).1 * 100 / 1000 : Nat) : Int)) ((regulator s.pkg pp r).2.1 : Int))) := by
  refine completes_of hp (exec_regulatorRefill s) ⟨refilled (begun s), congrArg serve (refilled_eq (begun s)), ?_, ?_, ?_, fun pp hpp r hr g hg => ?_⟩
  · exact refilled_same Pkg.dict (fun _ _ _ => rfl) (begun s)
  · exact refilled_same Pkg.mem (fun _ _ _ => rfl) (begun s)
  · exact refilled_same Pkg.dm (fun _ _ _ => rfl) (begun s)
  · rw [refilled_credit (begun s) hpp hr hg]
    exact ⟨fun hnone => if_pos hnone, fun hsome => if_neg hsome⟩

end

/-! ### Region masks -/

/-- The other partitions that hold regions (R413). -/
def otherHolders (p : Pkg) (pp : Nat) : List Nat := (List.range 12).filter (fun q => q != pp && rd p Ix.pcRegionMask q != 0)

/-- A region of a mask that may not be taken: hidden, or held by another partition (R428). -/
def regionTaken (p : Pkg) (pp mask r : Nat) : Bool :=
  bit mask r && (regionHidden p r || (otherHolders p pp).any (fun q => bit (rd p Ix.pcRegionMask q) r))

/-- A package whose partition takes a mask, before its state is entered (R428). -/
def maskTaken (p : Pkg) (pp mask : Nat) : Pkg :=
  touch (wr (clearRegionBlocks (zeroSram p (gained p pp mask)) (gained p pp mask)) Ix.pcRegionMask pp mask) Ix.pcRegionOwner 0

section
variable {p : Pkg} {pp mask : Nat}

theorem writeRegionMask_busy (hstate : pcState p pp ∉ [0, 1, 7]) : writeRegionMask p pp mask = refuse p { abort := 7, status := 0x11E0 } := by
  simp only [List.mem_cons, List.not_mem_nil, or_false, not_or] at hstate
  exact if_pos hstate

variable (hstate : pcState p pp ∈ [0, 1, 7])
include hstate

theorem stateNotBusy : ¬(pcState p pp ≠ 0 ∧ pcState p pp ≠ 1 ∧ pcState p pp ≠ 7) := by
  simp only [List.mem_cons, List.not_mem_nil, or_false] at hstate
  omega

theorem writeRegionMask_held (h : 4096 ≤ mask ∨ (List.range 12).any (regionTaken p pp mask) = true) :
    writeRegionMask p pp mask = refuse p (invalid 0x1102) := by
  rw [writeRegionMask]
  dsimp only
  rw [if_neg (stateNotBusy hstate)]
  exact if_pos h

section
variable (hfree : ¬(4096 ≤ mask ∨ (List.range 12).any (regionTaken p pp mask) = true))
include hfree

theorem writeRegionMask_unlicensed (h : mask ≠ 0 ∧ 4 ≤ (otherHolders p pp).length ∧ granted p 2 = false) :
    writeRegionMask p pp mask = refuse p { abort := 9, status := 0x11E3 } := by
  rw [writeRegionMask]
  dsimp only
  rw [if_neg (stateNotBusy hstate)]
  refine (if_neg hfree).trans ?_
  exact if_pos h

variable (hlicensed : ¬(mask ≠ 0 ∧ 4 ≤ (otherHolders p pp).length ∧ granted p 2 = false))
include hlicensed

theorem writeRegionMask_inUse (h : (gained p pp mask).any (regionInUse p pp) = true) : writeRegionMask p pp mask = refuse p (invalid 0x1104) := by
  rw [writeRegionMask]
  dsimp only
  rw [if_neg (stateNotBusy hstate)]
  refine (if_neg hfree).trans ?_
  refine (if_neg hlicensed).trans ?_
  exact if_pos h

theorem writeRegionMask_taken (h : ¬(gained p pp mask).any (regionInUse p pp) = true) : writeRegionMask p pp mask =
    (if mask = 0 then setPcState (maskTaken p pp mask) pp 0 else if pcState p pp = 0 then setPcState (maskTaken p pp mask) pp 1 else maskTaken p pp mask,
      accepted) := by
  rw [writeRegionMask]
  dsimp only
  rw [if_neg (stateNotBusy hstate)]
  refine (if_neg hfree).trans ?_
  refine (if_neg hlicensed).trans ?_
  exact if_neg h

end
end

theorem regionTaken_iff {p : Pkg} {pp mask r : Nat} : regionTaken p pp mask r = true ↔
    bit mask r = true ∧ (regionHidden p r = true ∨ ∃ x < 12, x ≠ pp ∧ bit (rd p Ix.pcRegionMask x) r = true) := by
  have hzero : ∀ x, bit (rd p Ix.pcRegionMask x) r = true → rd p Ix.pcRegionMask x ≠ 0 := fun x h hz => by
    rw [hz, bit, Nat.zero_testBit] at h
    exact absurd h (by decide)
  simp only [regionTaken, otherHolders, Bool.and_eq_true, Bool.or_eq_true, List.any_eq_true, List.mem_filter, List.mem_range, bne_iff_ne, ne_eq]
  refine and_congr_right fun _ => or_congr_right ⟨?_, ?_⟩
  · rintro ⟨x, ⟨hx, hne, -⟩, hbit⟩
    exact ⟨x, hx, hne, hbit⟩
  · rintro ⟨x, hx, hne, hbit⟩
    exact ⟨x, ⟨hx, hne, hzero x hbit⟩, hbit⟩

theorem clearRegionBlocks_cleared (p : Pkg) (rs : List Nat) : ∀ b ∈ rs.flatMap blocksOfRegion, (blk (clearRegionBlocks p rs) b).cleared :=
  foldl_establishes (P := fun b p => (blk p b).cleared) (clearBlock_cleared _) (fun p x y => clearBlock_keeps_cleared _ p y x) _ _

theorem gained_lt (p : Pkg) (pp mask : Nat) : ∀ b ∈ (gained p pp mask).flatMap blocksOfRegion, b < 96 := by
  intro b hb
  obtain ⟨r, hr, hb⟩ := List.mem_flatMap.1 hb
  exact blocksOfRegion_lt ⟨r, List.mem_range.1 (List.mem_filter.1 hr).1⟩ b hb

/-- A mask that is taken: the entry, the gained regions' SRAM zeroed and their blocks cleared (R428). -/
theorem maskTaken_shows (p : Pkg) {pp mask : Nat} (hpp : pp < 12) (hmask : mask < 2 ^ 16) :
    rd (maskTaken p pp mask) Ix.pcRegionMask pp = mask ∧ pcState (maskTaken p pp mask) pp = pcState p pp
    ∧ (maskTaken p pp mask).mem = (zeroSram p (gained p pp mask)).mem
    ∧ ∀ b ∈ (gained p pp mask).flatMap blocksOfRegion, (blk (maskTaken p pp mask) b).counters = [] := by
  obtain ⟨hdict, -, -⟩ := zeroSram_keeps p (gained p pp mask)
  have hframe : BlockFrame (zeroSram p (gained p pp mask)) (clearRegionBlocks (zeroSram p (gained p pp mask)) (gained p pp mask)) :=
    fold_frame (fun q _ hb => clearBlock_frame _ q hb) _ (gained_lt p pp mask) _
  have hcleared := clearRegionBlocks_cleared (zeroSram p (gained p pp mask)) (gained p pp mask)
  unfold maskTaken
  generalize clearRegionBlocks (zeroSram p (gained p pp mask)) (gained p pp mask) = q at hframe hcleared ⊢
  refine ⟨?_, ?_, hframe.mem, fun b hb => (hcleared b hb).1⟩
  · rw [rd_touch]
    exact (rd_wr_self _ _ _ _).trans (Nat.mod_eq_of_lt hmask)
  · rw [pcState, rd_touch, rd_wr_ne _ _ (by decide) (by omega) (by omega)]
    exact (hframe.rd Ix.pcState pp (blockKey_false (by omega) (by decide) (by decide) (by decide) (by decide) (by decide))).trans (rd_of_dict hdict _ _)

section
variable {s : State} {pp : Fin 12} {mask : BitVec 16} (hp : powered s.pkg = true)
include hp

/-- A region mask that is refused changes nothing. -/
theorem completes_of_maskRefusal {a : Answer} (hr : writeRegionMask (begun s) pp mask.toNat = refuse (begun s) a) :
    Completes (.regionMaskWrite pp mask) s (fun q => q.dict = s.pkg.dict ∧ q.mem = s.pkg.mem
      ∧ q.out.getLast? = some (.answer 0x6000 pp a.abort a.status a.pending)) := by
  refine completes_of hp (exec_regionMaskWrite pp mask s) ?_
  rw [hr]
  exact ⟨rfl, rfl, emit_last _ _⟩

theorem regionMask_busy (hstate : pcState s.pkg pp ∉ [0, 1, 7]) :
    Completes (.regionMaskWrite pp mask) s (fun q => q.dict = s.pkg.dict ∧ q.mem = s.pkg.mem ∧ q.out.getLast? = some (.answer 0x6000 pp 7 0x11E0 false)) :=
  completes_of_maskRefusal hp (writeRegionMask_busy (p := begun s) hstate)

theorem regionMask_held (hstate : pcState s.pkg pp ∈ [0, 1, 7])
    (h : 4096 ≤ mask.toNat ∨ ∃ r < 12, bit mask.toNat r = true ∧ (regionHidden s.pkg r = true ∨ ∃ x < 12, x ≠ pp.val ∧ bit (rd s.pkg Ix.pcRegionMask x) r = true)) :
    Completes (.regionMaskWrite pp mask) s (fun q => q.dict = s.pkg.dict ∧ q.mem = s.pkg.mem ∧ q.out.getLast? = some (.answer 0x6000 pp 6 0x1102 false)) := by
  refine completes_of_maskRefusal hp (writeRegionMask_held (p := begun s) hstate (h.imp id fun ⟨r, hr, hbit, htaken⟩ => ?_))
  exact List.any_eq_true.2 ⟨r, List.mem_range.2 hr, regionTaken_iff.2 ⟨hbit, htaken⟩⟩

section
variable (hstate : pcState s.pkg pp ∈ [0, 1, 7]) (hlow : mask.toNat < 4096)
  (hfree : ∀ r < 12, bit mask.toNat r = true → regionHidden s.pkg r = false ∧ ∀ x < 12, x ≠ pp.val → bit (rd s.pkg Ix.pcRegionMask x) r = false)
include hstate hlow hfree

omit hp hstate in
/-- No region of the mask is hidden or held by another partition. -/
theorem maskFree : ¬(4096 ≤ mask.toNat ∨ (List.range 12).any (regionTaken (begun s) pp mask.toNat) = true) := by
  rintro (h | h)
  · omega
  · obtain ⟨r, hr, htaken⟩ := List.any_eq_true.1 h
    obtain ⟨hbit, hhidden | ⟨x, hx, hne, hheld⟩⟩ := regionTaken_iff.1 htaken
    · exact absurd (hhidden.symm.trans (hfree r (List.mem_range.1 hr) hbit).1) (by decide)
    · exact absurd (hheld.symm.trans ((hfree r (List.mem_range.1 hr) hbit).2 x hx hne)) (by decide)

theorem regionMask_unlicensed (hmask : mask ≠ 0) (hmany : 4 ≤ ((List.range 12).filter (fun x => x != pp.val && rd s.pkg Ix.pcRegionMask x != 0)).length)
    (hlicence : granted s.pkg 2 = false) :
    Completes (.regionMaskWrite pp mask) s (fun q => q.dict = s.pkg.dict ∧ q.mem = s.pkg.mem ∧ q.out.getLast? = some (.answer 0x6000 pp 9 0x11E3 false)) :=
  completes_of_maskRefusal hp (writeRegionMask_unlicensed (p := begun s) hstate (maskFree hlow hfree)
    ⟨fun h => hmask (BitVec.eq_of_toNat_eq h), hmany, hlicence⟩)

variable (hlicensed : mask = 0 ∨ ((List.range 12).filter (fun x => x != pp.val && rd s.pkg Ix.pcRegionMask x != 0)).length < 4 ∨ granted s.pkg 2 = true)
include hlicensed

omit hp hstate hlow hfree in
theorem maskLicensed : ¬(mask.toNat ≠ 0 ∧ 4 ≤ (otherHolders (begun s) pp).length ∧ granted (begun s) 2 = false) := by
  rintro ⟨hmask, hmany, hnone⟩
  rcases hlicensed with rfl | hfew | hgranted
  · exact hmask rfl
  · exact absurd hmany (Nat.not_le.2 hfew)
  · exact absurd (hgranted.symm.trans hnone) (by decide)

theorem regionMask_inUse (huse : ∃ r ∈ gained s.pkg pp mask.toNat, regionInUse s.pkg pp r = true) :
    Completes (.regionMaskWrite pp mask) s (fun q => q.dict = s.pkg.dict ∧ q.mem = s.pkg.mem ∧ q.out.getLast? = some (.answer 0x6000 pp 6 0x1104 false)) :=
  completes_of_maskRefusal hp (writeRegionMask_inUse (p := begun s) hstate (maskFree hlow hfree) (maskLicensed hlicensed) (List.any_eq_true.2 huse))

theorem regionMask_taken (hfreed : ∀ r ∈ gained s.pkg pp mask.toNat, regionInUse s.pkg pp r = false) :
    Completes (.regionMaskWrite pp mask) s (fun q => rd q Ix.pcRegionMask pp = mask.toNat
      ∧ pcState q pp = (if mask = 0 then 0 else if pcState s.pkg pp = 0 then 1 else pcState s.pkg pp) ∧ q.mem = (zeroSram (begun s) (gained s.pkg pp mask.toNat)).mem
      ∧ (∀ b ∈ (gained s.pkg pp mask.toNat).flatMap blocksOfRegion, (blk q b).counters = []) ∧ q.out.getLast? = some (.answer 0x6000 pp 0 0 false)) := by
  have hnone : ¬(gained (begun s) pp mask.toNat).any (regionInUse (begun s) pp) = true := fun h => by
    obtain ⟨r, hr, huse⟩ := List.any_eq_true.1 h
    exact absurd (huse.symm.trans (hfreed r hr)) (by decide)
  have hzero : mask.toNat = 0 ↔ mask = 0 := ⟨fun h => BitVec.eq_of_toNat_eq h, fun h => by rw [h]; rfl⟩
  refine completes_of hp (exec_regionMaskWrite pp mask s) ?_
  rw [writeRegionMask_taken (p := begun s) hstate (maskFree hlow hfree) (maskLicensed hlicensed) hnone, answered_accepted]
  obtain ⟨hentry, hsame, hmem, hcleared⟩ := maskTaken_shows (begun s) (mask := mask.toNat) pp.isLt (by omega)
  generalize maskTaken (begun s) pp mask.toNat = q at hentry hsame hmem hcleared ⊢
  have hentered : ∀ st, rd (setPcState q pp st) Ix.pcRegionMask pp = mask.toNat := fun st =>
    (rd_wr_ne _ _ (by decide) (by omega) (by omega)).trans hentry
  by_cases hmask : mask = 0
  · rw [if_pos (hzero.2 hmask), if_pos hmask]
    exact ⟨hentered 0, pcState_setPcState _ _ _, hmem, hcleared, emit_last _ _⟩
  · rw [if_neg (mt hzero.1 hmask), if_neg hmask]
    by_cases hnew : pcState s.pkg pp = 0
    · rw [if_pos (show pcState (begun s) pp = 0 from hnew), if_pos hnew]
      exact ⟨hentered 1, pcState_setPcState _ _ _, hmem, hcleared, emit_last _ _⟩
    · rw [if_neg (show ¬pcState (begun s) pp = 0 from hnew), if_neg hnew]
      exact ⟨hentry, hsame, hmem, hcleared, emit_last _ _⟩

end
end

/-- Settles O53, by the branches of the three commands; that the refill of a rate is rounded down to whole bytes in 100 ns is the model's choice. -/
theorem watchdogRefillMaskComplete : Obligations.WatchdogRefillMaskComplete := by
  unfold Obligations.WatchdogRefillMaskComplete
  intro s hp
  refine ⟨fun pp hstate hrun => ⟨fun htime => ⟨stepWatchdog_fails hp hstate hrun htime, stepWatchdog_halts hp hstate hrun htime⟩, stepWatchdog_early hp⟩,
    fun pp => stepWatchdog_noStep hp, regulatorRefill_refills hp, fun pp mask => ⟨fun hstate hlow hfree => ⟨fun hlicensed =>
      ⟨regionMask_taken hp hstate hlow hfree hlicensed, regionMask_inUse hp hstate hlow hfree hlicensed⟩, regionMask_unlicensed hp hstate hlow hfree⟩,
      regionMask_busy hp, regionMask_held hp⟩⟩

end Sys2Proof.Machine
end

section
/-! Step boundaries at the lead (O19). -/

namespace Sys2Proof.Machine

/-- Passing a notice on along the tree only sends (R198). -/
theorem passNotice_same {β : Type} (g : Pkg → β) (hg : ∀ p x, g (emit p x) = g p) (p : Pkg) (pp : Nat) (n : StepNotice) : g (passNotice p pp n) = g p :=
  foldl_emit_same g hg _ _ p

theorem sendBuffer_same {β : Type} (g : Pkg → β) (hg : ∀ p x, g (emit p x) = g p) (pp : Nat) (n : StepNotice) (p : Pkg) (e : Nat) :
    g (sendBuffer pp n p e) = g p := by
  refine (passNotice_same g hg _ pp n).trans ?_
  unfold sendTable
  split
  · rfl
  · exact foldl_emit_same g hg _ _ p

/-- What a sent notice leaves is what sending leaves of the package, with the notice as the one that starts (R198). -/
def noticeSent (p : Pkg) (pp : Nat) (n : StepNotice) : Pkg :=
  let engines := (if n.hasGen then [0] else []) ++ (if n.hasPre then [1] else [])
  if engines.isEmpty then passNotice p pp n else engines.foldl (sendBuffer pp n) p

theorem sendNotice_eq (p : Pkg) (pp : Nat) (n : StepNotice) : sendNotice p pp n = modSc (noticeSent p pp n) pp (fun q => { q with starting := some n }) := rfl

theorem noticeSent_same {β : Type} (g : Pkg → β) (hg : ∀ p x, g (emit p x) = g p) (p : Pkg) (pp : Nat) (n : StepNotice) : g (noticeSent p pp n) = g p := by
  have hengines : ∀ l : List Nat, g (if l.isEmpty then passNotice p pp n else l.foldl (sendBuffer pp n) p) = g p := fun l => by
    split
    · exact passNotice_same g hg p pp n
    · exact foldl_same g (sendBuffer_same g hg pp n) l p
  exact hengines _

theorem restartStep_shows (p : Pkg) (pp : Nat) :
    (part (restartStep p pp) pp).sc.starting = some { (part p pp).sc.running with drained := drainedNow p pp }
    ∧ (part (restartStep p pp) pp).ru.recomputing = true ∧ (part (restartStep p pp) pp).ru.rolledTimes = (part p pp).ru.rolledTimes
    ∧ (restartStep p pp).dict = p.dict ∧ (restartStep p pp).mem = p.mem := by
  have hparts := noticeSent_same Pkg.parts (fun _ _ => rfl) p pp { (part p pp).sc.running with drained := drainedNow p pp }
  have hdict := noticeSent_same Pkg.dict (fun _ _ => rfl) p pp { (part p pp).sc.running with drained := drainedNow p pp }
  have hmem := noticeSent_same Pkg.mem (fun _ _ => rfl) p pp { (part p pp).sc.running with drained := drainedNow p pp }
  unfold restartStep
  rw [sendNotice_eq]
  refine ⟨?_, ?_, ?_, hdict, hmem⟩
  · rw [part_modRu, part_modSc]
  · rw [part_modRu]
  · rw [part_modRu, part_modSc, part_of_parts hparts]

/-- At a lead whose members have all reported a step that has been rolled back, the step starts again (R445, R462). -/
theorem recomputeIfReady_restarts {p : Pkg} {pp : Nat} (hlead : isLead p pp = true) (hstate : pcState p pp = 2) (hwhole : versionsWhole p pp = true)
    (hrun : (part p pp).pc.stepRunning = true) (hpoison : (part p pp).ru.poison.isSome = true) (hrecut : (part p pp).ru.recut = [])
    (hreports : ∀ m ∈ membersOf p pp, m ∈ p.tf.holes ∨ ∃ r ∈ (part p pp).ru.reports, r.sender = m ∧ r.verdict = 1 ∧ r.step = stepOf p pp) :
    recomputeIfReady p pp = restartStep p pp := by
  have hready : (membersOf p pp).all (fun m => p.tf.holes.contains m || (part p pp).ru.reports.any (fun r => r.sender == m && r.verdict == 1 && r.step == stepOf p pp)) = true := by
    refine List.all_eq_true.2 fun m hm => ?_
    rcases hreports m hm with hhole | ⟨r, hr, hsender, hverdict, hstep⟩
    · simp [hhole]
    · refine Bool.or_eq_true_iff.2 (.inr (List.any_eq_true.2 ⟨r, hr, ?_⟩))
      simp [hsender, hverdict, hstep]
  exact if_pos (by rw [hlead, hpoison, hready, hrecut, hrun, hstate, hwhole]; rfl)

theorem leadBoundary_recomputes {p : Pkg} {pp : Nat} (hlead : isLead p pp = true) (hstate : pcState p pp = 2) (hwhole : versionsWhole p pp = true)
    (hnoticed : (part p pp).sc.noticed = false)
    (hrun : (part p pp).pc.stepRunning = true) (hpoison : (part p pp).ru.poison.isSome = true) (hrecut : (part p pp).ru.recut = [])
    (hreports : ∀ m ∈ membersOf p pp, m ∈ p.tf.holes ∨ ∃ r ∈ (part p pp).ru.reports, r.sender = m ∧ r.verdict = 1 ∧ r.step = stepOf p pp) :
    leadBoundary p pp = restartStep p pp := by
  have hfilter : (part p pp).sc.starting.filter (fun _ => (part p pp).sc.noticed) = none := by simp [hnoticed]
  have hopen : ¬closable p pp = true := by
    have : (part p pp).ru.poison.isNone = false := by simpa [Option.isSome_iff_ne_none] using hpoison
    simp [closable, this]
  have hstays : ¬mayStart (restartStep p pp) pp = true := by
    simp [mayStart, (restartStep_shows p pp).1]
  unfold leadBoundary
  rw [hfilter]
  dsimp only
  rw [if_neg (by rw [hstate]; decide), if_pos hrun, if_neg hopen, recomputeIfReady_restarts hlead hstate hwhole hrun hpoison hrecut hreports, if_neg hstays]

/-- What a boundary that may start a step leaves at the lead: the next step's notice sent, or an entry or a failed write that it waits for. -/
def LeadWent (p : Pkg) (pp next : Nat) : Prop :=
  (∃ r n, n.step = next ∧ p = sendNotice r pp n ∧ (part p pp).sc.starting = some n) ∨ (part p pp).pc.heldFive = true
    ∨ (part p pp).sc.writeFailed.isSome = true

theorem leadAdmit_went (p : Pkg) (pp next : Nat) (drained : Bool) : LeadWent (leadAdmit p pp next drained) pp next := by
  unfold leadAdmit
  split
  · exact .inr (.inl (by rw [part_modPc]))
  · dsimp only
    split
    · rename_i hfailed
      exact .inr (.inr hfailed)
    · refine .inl ⟨_, _, rfl, rfl, ?_⟩
      rw [sendNotice_eq, part_modSc]

theorem leadStart_went (p : Pkg) (pp : Nat) : LeadWent (leadStart p pp) pp (nextStep p pp) := by
  unfold leadStart
  dsimp only
  split <;> exact leadAdmit_went _ _ _ _

/-- Where the lead may start a step its boundary does (R16, R192). -/
theorem leadBoundary_starts {p : Pkg} {pp : Nat} (hmay : mayStart p pp = true) : leadBoundary p pp = leadStart p pp := by
  have hparts := hmay
  simp only [mayStart, Bool.and_eq_true, beq_iff_eq, Bool.not_eq_true', Option.isNone_iff_eq_none] at hparts
  obtain ⟨⟨⟨⟨⟨⟨hstate, hidle⟩, hnone⟩, -⟩, -⟩, -⟩, -⟩ := hparts
  unfold leadBoundary
  rw [hnone]
  show (if pcState p pp ≠ 2 then p else _) = _
  rw [if_neg (by rw [hstate]; decide), hidle]
  exact if_pos hmay

/-- Settles O19, by the two ways a boundary at the lead goes. That the rolled-back step starts again with the drained condition taken anew, with
nothing applied at the boundary, and waits for whole versions, is the model's choice (entry 178 of the log). -/
theorem boundariesComplete : Obligations.BoundariesComplete := by
  unfold Obligations.BoundariesComplete
  refine ⟨fun s pp hp hlead hstate hwhole hnoticed hrun hpoison hrecut hreports => completes_of hp (exec_stepBoundary pp s) ?again,
    fun s pp hp hlead hmay hstate hfirst => completes_of hp (exec_stepBoundary pp s) ?next⟩
  case again =>
    rw [if_pos (show isLead (begun s) pp = true from hlead), leadBoundary_recomputes (p := begun s) hlead hstate hwhole hnoticed hrun hpoison hrecut hreports]
    exact restartStep_shows (begun s) pp
  case next =>
    have hnext : nextStep (begun s) pp = (stepOf s.pkg pp + 1) % 2 ^ 32 :=
      if_neg fun h => absurd (hfirst.symm.trans h.1) (by decide)
    rw [if_pos (show isLead (begun s) pp = true from hlead), leadBoundary_starts (p := begun s) hmay]
    have hwent := leadStart_went (begun s) pp
    rw [hnext] at hwent
    exact hwent

end Sys2Proof.Machine
end

section
/-! Resets and starts of the package (O55). -/

namespace Sys2Proof.Machine

/-- A command that puts the clock completes with that clock and with every effect that its meaning's function shows. -/
theorem completesAt_of {i : Instr} {s : State} {f : Clock → Pkg → Clock × Pkg} {c : Clock} {q : Pkg} {effect : Pkg → Prop} (hp : powered s.pkg = true)
    (hx : exec i s = onClockF f s) (hf : f s.clock (begun s) = (c, q)) (h : effect q) : CompletesAt i s c effect :=
  ⟨q, h, by rw [hx, onClockF_powered f s hp, hf]⟩

/-- A command that may put the clock and leaves it completes as one that does not. -/
theorem completes_of_clock {i : Instr} {s : State} {f : Clock → Pkg → Clock × Pkg} {q : Pkg} {effect : Pkg → Prop} (hp : powered s.pkg = true)
    (hx : exec i s = onClockF f s) (hf : f s.clock (begun s) = (s.clock, q)) (h : effect q) : Completes i s effect :=
  ⟨q, h, by rw [hx, onClockF_powered f s hp, hf]⟩

/-- Every region island at its nominal rate (R11). -/
def islandsNominal (p : Pkg) : Pkg := (List.range 12).foldl (fun q i => wr q Ix.pwIslandFreqKhz i 1050000) p

theorem islandsNominal_same {β : Type} (g : Pkg → β) (hg : ∀ p e sub v, g (wr p e sub v) = g p) (p : Pkg) : g (islandsNominal p) = g p :=
  foldl_same g (fun p i => hg p Ix.pwIslandFreqKhz i 1050000) _ p

theorem islandsNominal_rate (p : Pkg) {i : Nat} (hi : i < 12) : rd (islandsNominal p) Ix.pwIslandFreqKhz i = 1050000 := by
  refine foldl_establishes (P := fun i q => rd q Ix.pwIslandFreqKhz i = 1050000) (fun q i => rd_wr_self _ _ _ _) (fun q i j h => ?_) _ p i (List.mem_range.2 hi)
  rcases eq_or_ne i j with rfl | hne
  · exact rd_wr_self _ _ _ _
  · exact (rdAt_wrAt_ne q _ (keyAt_sub_ne hne)).trans h

/-- A reset package with the scalars that flash keeps, before its islands are set and it enters phase 1 (R385, R387, R466). -/
def startBase (p : Pkg) (fullTest : Bool) : Pkg :=
  let q := resetPkg p
  let q := { q with pins := { q.pins with thermtrip := false }, bt := { q.bt with fullTest := fullTest } }
  let q := wr (wr q Ix.mpStartCount 0 (keptNum p Ix.mpStartCount 0)) Ix.btPoweredS 0 (keptNum p Ix.btPoweredS 0)
  let q := wr (wr q Ix.ruPackageFlag 0 (keptNum p Ix.ruPackageFlag 0)) Ix.ruHistoryCount 0 q.flash.history.length
  let q := wr (wr q Ix.btDefectCount 0 q.flash.defects.length) Ix.btSecurityEpoch 0 q.flash.minEpoch
  { q with flash := { q.flash with sagNext := false } }

theorem startBase_out (p : Pkg) (full : Bool) : (startBase p full).out = p.out := by
  simp only [startBase, wr_out, resetPkg]

theorem beginStart_eq (p : Pkg) (kind : Nat) (fullTest : Bool) :
    beginStart p kind fullTest = enterPhase (wr (wr (islandsNominal (startBase p fullTest)) Ix.btStartKind 0 kind) Ix.pwRefState 0 3) 1 := rfl

/-- What a start that has begun shows (R465, R466). -/
structure StartBegan (kind : Nat) (full : Bool) (p q : Pkg) : Prop where
  phase : q.bt.phase = 1
  state : rd q Ix.btStartState 0 = 1
  kind : rd q Ix.btStartKind 0 = kind
  full : q.bt.fullTest = full
  flash : q.flash = { p.flash with sagNext := false }
  ready : q.pins.readyReleased = false
  thermtrip : q.pins.thermtrip = false
  mem : q.mem = {}
  parts : q.parts = []
  ref : rd q Ix.pwRefState 0 = 3
  waiting : q.bt.waitingFrame = false
  islands : ∀ i < 12, rd q Ix.pwIslandFreqKhz i = 1050000
  out : q.out = p.out
  taken : q.pins.flashTaken = p.pins.flashTaken

theorem beginStart_began (p : Pkg) {kind : Nat} (hkind : kind < 256) (full : Bool) : StartBegan kind full p (beginStart p kind full) := by
  rw [beginStart_eq]
  have hbt := islandsNominal_same Pkg.bt (fun _ _ _ _ => rfl) (startBase p full)
  have hflash := islandsNominal_same Pkg.flash (fun _ _ _ _ => rfl) (startBase p full)
  have hpins := islandsNominal_same Pkg.pins (fun _ _ _ _ => rfl) (startBase p full)
  have hmem := islandsNominal_same Pkg.mem (fun _ _ _ _ => rfl) (startBase p full)
  have hparts := islandsNominal_same Pkg.parts (fun _ _ _ _ => rfl) (startBase p full)
  have hout := islandsNominal_same Pkg.out (fun _ _ _ _ => rfl) (startBase p full)
  have hislands : ∀ i < 12, rd (islandsNominal (startBase p full)) Ix.pwIslandFreqKhz i = 1050000 := fun i hi => islandsNominal_rate _ hi
  generalize islandsNominal (startBase p full) = q at hbt hflash hpins hmem hparts hout hislands ⊢
  refine
    { phase := rfl
      state := rd_wr_self _ _ _ _
      kind := ?_
      full := (congrArg Bt.fullTest hbt :)
      flash := hflash
      ready := (congrArg Pins.readyReleased hpins :)
      thermtrip := (congrArg Pins.thermtrip hpins :)
      mem := hmem
      parts := hparts
      ref := ?_
      waiting := (congrArg Bt.waitingFrame hbt :)
      islands := fun i hi => ?_
      out := hout.trans (startBase_out p full)
      taken := (congrArg Pins.flashTaken hpins :) }
  · refine ((rd_wr_ne _ _ (by decide) (by omega) (by omega)).trans (rd_wr_ne _ _ (by decide) (by omega) (by omega))).trans ?_
    exact (rd_wr_self _ _ _ _).trans (Nat.mod_eq_of_lt hkind)
  · exact (rd_wr_ne _ _ (by decide) (by omega) (by omega)).trans (rd_wr_self _ _ _ _)
  · refine (rd_wr_ne _ _ (by decide) (by omega) (by omega)).trans ((rd_wr_ne _ _ (by decide) (by omega) (by omega)).trans ((rd_wr_ne _ _ (by decide) (by omega) (by omega)).trans (hislands i hi)))

/-- A package whose rails are off is unpowered and keeps its flash alone (R499, R528). -/
theorem railsOff_shows (p : Pkg) : powered (railsOff p) = false ∧ (railsOff p).flash = p.flash ∧ (railsOff p).mem = {} ∧ (railsOff p).parts = []
    ∧ (railsOff p).pins.flashTaken = false :=
  ⟨rfl, rfl, rfl, rfl, rfl⟩

theorem warmNeedsFull_begun (s : State) : warmNeedsFull (begun s) = warmNeedsFull s.pkg := rfl

section
variable {s : State}

theorem powerOnStart_powered (hp : powered s.pkg = true) : exec .powerOnStart s = .next s := by
  rw [exec_powerOnStart, execPowerOnStart, if_pos hp]

theorem powerOnStart_unpowered (hp : powered s.pkg = false) :
    exec .powerOnStart s = .next { s with clock := {}, pkg := beginStart s.pkg (if s.pkg.flash.sagNext then 3 else 1) true } := by
  rw [exec_powerOnStart, execPowerOnStart, if_neg (by rw [hp]; decide)]

variable (hp : powered s.pkg = true)
include hp

theorem pkgReset_starts : CompletesAt .pkgReset s {} (StartBegan 2 (warmNeedsFull s.pkg) { begun s with pins := { s.pkg.pins with flashTaken := false } }) :=
  completesAt_of hp (exec_pkgReset s) rfl (beginStart_began { begun s with pins := { s.pkg.pins with flashTaken := false } } (by decide) (warmNeedsFull s.pkg))

theorem sagReset_starts : CompletesAt .sagReset s {} (StartBegan 3 true (begun s)) :=
  completesAt_of hp (exec_sagReset s) rfl (beginStart_began (begun s) (by decide) true)

theorem overvoltageReset_starts : CompletesAt .overvoltageReset s {} (StartBegan 3 true
    { begun s with flash := { s.pkg.flash with pendingEvents := s.pkg.flash.pendingEvents ++ [0x141A] } }) :=
  completesAt_of hp (exec_overvoltageReset s) rfl
    (beginStart_began { begun s with flash := { s.pkg.flash with pendingEvents := s.pkg.flash.pendingEvents ++ [0x141A] } } (by decide) true)

theorem btRestart_starts {value : Byte} (hvalue : value = 1 ∨ value = 2) (hready : rd s.pkg Ix.btStartState 0 = 8) :
    CompletesAt (.btRestart value) s {} (StartBegan 2 (value == 2 || warmNeedsFull s.pkg) (answered Ix.btRestart 0 (begun s, accepted))) := by
  refine completesAt_of hp (exec_btRestart value s) ?_ (beginStart_began (answered Ix.btRestart 0 (begun s, accepted)) (by decide) (value == 2 || warmNeedsFull s.pkg))
  rw [if_neg (fun h => hvalue.elim h.1 h.2), if_neg (show ¬rd (begun s) Ix.btStartState 0 ≠ 8 from fun h => h hready), warmNeedsFull_begun]

theorem btRestart_early {value : Byte} (hvalue : value = 1 ∨ value = 2) (hready : rd s.pkg Ix.btStartState 0 ≠ 8) :
    Completes (.btRestart value) s (fun q => q = emit (last (begun s) Ix.btLastStatus 0 0x13E0) (.answer 0x6810 0 7 0x13E0 false)) := by
  refine completes_of_clock hp (exec_btRestart value s) (q := emit (last (begun s) Ix.btLastStatus 0 0x13E0) (.answer 0x6810 0 7 0x13E0 false)) ?_ rfl
  rw [if_neg (fun h => hvalue.elim h.1 h.2), if_pos (show rd (begun s) Ix.btStartState 0 ≠ 8 from hready)]
  rfl

theorem btRestart_invalid {value : Byte} (h1 : value ≠ 1) (h2 : value ≠ 2) :
    Completes (.btRestart value) s (fun q => q = emit (begun s) (.answer 0x6810 0 6 0x1006 false)) := by
  refine completes_of_clock hp (exec_btRestart value s) (q := emit (begun s) (.answer 0x6810 0 6 0x1006 false)) ?_ rfl
  rw [if_pos ⟨h1, h2⟩]
  rfl

end

/-- Settles O55, by what a start begun from any package shows. That a start clears the clock is the model's choice (entry 45 of the log), as are the
kinds of a start after a trip that met a sag (entry 181) and of one after an overvoltage (entry 39, presumed). -/
theorem resetsBeginStarts : Obligations.ResetsBeginStarts := by
  unfold Obligations.ResetsBeginStarts
  intro s began
  have hbegan : ∀ {kind : Nat} {full : Bool} {p q : Pkg} {flash : Flash}, StartBegan kind full p q → flash = p.flash → began kind full flash q :=
    fun h hflash => ⟨h.phase, h.state, h.kind, h.full, hflash ▸ h.flash, h.ready, h.thermtrip, h.mem, h.parts, h.ref, h.waiting, h.islands⟩
  refine ⟨fun hoff => ?off, fun hp => ⟨powerOnStart_powered hp, ?reset, ?sag, ?overvoltage, ?low, ?trip, fun value => ⟨fun hvalue hready => ?restart,
    btRestart_early hp, btRestart_invalid hp⟩, ?take⟩⟩
  case off =>
    have h := beginStart_began s.pkg (kind := if s.pkg.flash.sagNext then 3 else 1) (by split <;> decide) true
    exact ⟨_, powerOnStart_unpowered hoff, hbegan h rfl, h.out⟩
  case reset =>
    obtain ⟨q, h, hx⟩ := pkgReset_starts hp
    exact ⟨q, ⟨hbegan h rfl, h.taken, h.out⟩, hx⟩
  case sag =>
    obtain ⟨q, h, hx⟩ := sagReset_starts hp
    exact ⟨q, ⟨hbegan h rfl, h.out⟩, hx⟩
  case overvoltage =>
    obtain ⟨q, h, hx⟩ := overvoltageReset_starts hp
    exact ⟨q, ⟨hbegan h rfl, h.out⟩, hx⟩
  case low =>
    obtain ⟨hoff, hflash, hmem, hparts, htaken⟩ := railsOff_shows { begun s with flash := { s.pkg.flash with sagNext := false } }
    exact completesAt_of hp (exec_pwrEnLow s) rfl ⟨hoff, hflash, hmem, hparts, htaken⟩
  case trip => exact completesAt_of hp (exec_thermalTrip s) rfl ⟨rfl, rfl, rfl, rfl⟩
  case restart =>
    obtain ⟨q, h, hx⟩ := btRestart_starts hp hvalue hready
    exact ⟨q, ⟨hbegan h rfl, h.out⟩, hx⟩
  case take =>
    refine completes_of hp (exec_flashTake s) ?_
    split
    · rename_i hphase
      exact if_pos hphase
    · rename_i hphase
      exact if_neg hphase

end Sys2Proof.Machine
end

section
/-! Licences, keys, firmware slots, attestation and the defect list (O57). -/

namespace Sys2Proof.Machine

/-- What a licence for more links lights (R318): each link that waited for one trains anew. -/
theorem releaseHeldLinks_frame (p : Pkg) : FabricFrame (fun k => ∃ l < 24, trainKey l k) p (releaseHeldLinks p) := by
  refine FabricFrame.foldl (fun p l hl => ?_) p
  split
  · exact (beginTraining_frame p l).mono fun _ hk => ⟨l, List.mem_range.1 hl, hk⟩
  · exact FabricFrame.rfl

theorem releaseHeldLinks_rd (p : Pkg) {e : Entry} {sub : Nat} (he : 0x6000 ≤ e.index) (hs : sub < 256) :
    rd (releaseHeldLinks p) e sub = rd p e sub := by
  refine (releaseHeldLinks_frame p).rd ?_
  rintro ⟨l, hl, hk⟩
  refine not_trainKey hl hs ?_ ?_ ?_ ?_ hk <;> simp [Ix.tfLinkLanes, Ix.tfLaneState, Ix.tfLinkState, Ix.tfLinkPartner] <;> omega

/-- The package that has taken a licence (R514): it is stored, and its features are granted. -/
def licenceTaken (p : Pkg) (data : Bytes) : Pkg :=
  let q := wroteFlash { p with flash := { p.flash with licences := p.flash.licences ++ [data] } } areaLicences
  raise0 (wr (touch q Ix.btLicences 0) Ix.btFeaturesGranted 0 (rd p Ix.btFeaturesGranted 0 ||| licFeatures data)) 0x1320

theorem licenceTaken_shows (p : Pkg) (data : Bytes) : (licenceTaken p data).flash.licences = p.flash.licences ++ [data]
    ∧ rd (licenceTaken p data) Ix.btFeaturesGranted 0 = (rd p Ix.btFeaturesGranted 0 ||| licFeatures data) % 2 ^ 16
    ∧ (licenceTaken p data).mem = p.mem ∧ (licenceTaken p data).parts = p.parts := by
  unfold licenceTaken
  dsimp only
  have hkeeps := raise0_keeps (wr (touch (wroteFlash { p with flash := { p.flash with licences := p.flash.licences ++ [data] } } areaLicences) Ix.btLicences 0)
    Ix.btFeaturesGranted 0 (rd p Ix.btFeaturesGranted 0 ||| licFeatures data)) 0x1320
  exact ⟨(congrArg Flash.licences hkeeps.flash :), (hkeeps.rd _ _ (commsKey_far (.inr (by decide)))).trans (rd_wr_self _ _ _ _), hkeeps.mem, hkeeps.parts⟩

section
variable {p : Pkg} {data : Bytes} {ok : Bool}

theorem installLicence_taken (hvalid : (ok && licValid (rd p Ix.btPoweredS 0) data) = true) (hroom : p.flash.licences.length < 16)
    (hnew : ∀ l ∈ p.flash.licences, licSerial l ≠ licSerial data) : installLicence p data ok
      = (if !granted p 0 && granted (licenceTaken p data) 0 then releaseHeldLinks (licenceTaken p data) else licenceTaken p data, accepted) := by
  rw [installLicence, if_neg (by simp [hvalid]), if_neg (by simpa using ⟨hroom, hnew⟩)]
  rfl

theorem installLicence_invalid (hvalid : (ok && licValid (rd p Ix.btPoweredS 0) data) = false) :
    installLicence p data ok = refuse p (invalid 0x1321) := if_pos (by rw [hvalid]; rfl)

theorem installLicence_held (hvalid : (ok && licValid (rd p Ix.btPoweredS 0) data) = true)
    (hheld : 16 ≤ p.flash.licences.length ∨ ∃ l ∈ p.flash.licences, licSerial l = licSerial data) :
    installLicence p data ok = refuse p (invalid 0x1329) := by
  rw [installLicence, if_neg (by simp [hvalid]), if_pos (by simpa using hheld)]

/-- What a licence that is taken shows, whether links train anew with it or not. -/
theorem installLicence_shows (hvalid : (ok && licValid (rd p Ix.btPoweredS 0) data) = true) (hroom : p.flash.licences.length < 16)
    (hnew : ∀ l ∈ p.flash.licences, licSerial l ≠ licSerial data) : ∃ q, installLicence p data ok = (q, accepted)
      ∧ q.flash.licences = p.flash.licences ++ [data] ∧ rd q Ix.btFeaturesGranted 0 = (rd p Ix.btFeaturesGranted 0 ||| licFeatures data) % 2 ^ 16
      ∧ q.mem = p.mem ∧ q.parts = p.parts := by
  obtain ⟨hlicences, hfeatures, hmem, hparts⟩ := licenceTaken_shows p data
  refine ⟨_, installLicence_taken hvalid hroom hnew, ?_⟩
  generalize licenceTaken p data = q at hlicences hfeatures hmem hparts ⊢
  split
  · have hframe := releaseHeldLinks_frame q
    exact ⟨(congrArg Flash.licences hframe.flash).trans hlicences, (releaseHeldLinks_rd q (by decide) (by decide)).trans hfeatures,
      hframe.mem.trans hmem, hframe.parts.trans hparts⟩
  · exact ⟨hlicences, hfeatures, hmem, hparts⟩

end

theorem removeLicence_taken {p : Pkg} {index : Nat} (h : index < p.flash.licences.length) : removeLicence p index
    = (touch (wroteFlash { p with flash := { p.flash with licences := p.flash.licences.eraseIdx index } } areaLicences) Ix.btLicences 0, accepted) := if_pos h

/-- Customer keys in force and kept (R509). -/
def keysTaken (p : Pkg) (data : Bytes) : Pkg := keep (wrB p Ix.btCustomerKeys 0 data) Ix.btCustomerKeys 0 (.bytes data)

theorem keysTaken_kept (p : Pkg) (data : Bytes) : tfind (keysTaken p data).flash.kept 0x691000 = some (.bytes data) := tfind_tput_self _ _ _

/-- The package once the inactive slot has been made active (R508). -/
def slotCommitted (p : Pkg) (v : FirmwareVerdict) : Pkg :=
  wroteFlash { p with flash := { p.flash with
    activeSlot := 1 - p.flash.activeSlot
    minEpoch := if v.raiseEpoch then max p.flash.minEpoch v.epoch else p.flash.minEpoch } } areaSelector

theorem commitFirmware_taken {p : Pkg} {v : FirmwareVerdict} (hready : rd p Ix.btStartState 0 = 8) (hverified : v.verified = true) :
    commitFirmware p v = (raise0 (wr (slotCommitted p v) Ix.btSecurityEpoch 0 (slotCommitted p v).flash.minEpoch) 0x1323, accepted) := by
  rw [commitFirmware, if_neg (not_not_intro hready), if_neg (by simp [hverified])]
  rfl

/-! The lengths of what an attestation report is made of (R516). -/

theorem length_beBytes (n v : Nat) : (beBytes n v).length = n := by rw [beBytes, List.length_reverse, leBytes_length]

theorem length_sha256 (b : Bytes) : (sha256 b).length = 32 := by
  simp only [sha256, List.flatMap_cons, List.flatMap_nil, List.length_append, length_beBytes, List.length_nil]

theorem length_attestBody (p : Pkg) (nonce : Bytes) : (attestBody p nonce).length = 192 := by
  simp only [attestBody, List.length_append, leBytes_length, length_padTo, length_sha256, List.length_replicate]

/-- A nonce of 32 bytes stands at byte 72 of its report. -/
theorem attestBody_nonce (p : Pkg) {nonce : Bytes} (h : nonce.length = 32) (rest : Bytes) :
    slice (attestBody p nonce ++ rest) 72 32 = nonce := by
  have hpad : padTo nonce 32 = nonce := by rw [padTo, h, List.take_of_length_le h.le]; simp
  rw [slice, attestBody, hpad]
  simp only [List.append_assoc]
  iterate 4 rw [← List.append_assoc]
  rw [List.drop_left' (by simp only [List.length_append, leBytes_length, length_padTo]), List.take_left' h]

/-- The package once a report has been made (R516). -/
def attested (p : Pkg) (nonce : Bytes) : Pkg :=
  touch { p with bt := { p.bt with report := attestBody p nonce ++ dualSign p (attestBody p nonce) ++ [0, 0, 0] } } Ix.btAttestReport 0

theorem attest_taken {p : Pkg} {nonce : Bytes} (h : nonce.length = 32) : attest p nonce = (attested p nonce, accepted) := if_neg (not_not_intro h)

theorem attested_report (p : Pkg) {nonce : Bytes} (h : nonce.length = 32) :
    slice (attested p nonce).bt.report 72 32 = nonce ∧ slice (attested p nonce).bt.report 0 192 = attestBody p nonce := by
  show slice (attestBody p nonce ++ dualSign p (attestBody p nonce) ++ [0, 0, 0]) 72 32 = _ ∧ slice (attestBody p nonce ++ dualSign p (attestBody p nonce) ++ [0, 0, 0]) 0 192 = _
  rw [List.append_assoc]
  exact ⟨attestBody_nonce p h _, List.take_left' (length_attestBody p nonce)⟩

/-- The package once a defect record has left the list (R476). -/
def defectLeft (p : Pkg) (index : Nat) : Pkg :=
  let q := wroteFlash { p with flash := { p.flash with defects := p.flash.defects.eraseIdx index } } areaDefects
  touch (wr q Ix.btDefectCount 0 q.flash.defects.length) Ix.btDefectList 0

theorem recordHistory_defects (p : Pkg) (kind origin unit status step : Nat) :
    (recordHistory p kind origin unit status step).flash.defects = p.flash.defects := by
  rcases recordHistory_cases p kind origin unit status step with h | ⟨l, h⟩
  · rw [h]
    exact congrArg Flash.defects (raise0_keeps _ _).flash
  · rw [h]
    rfl

theorem removeDefect_shows {p : Pkg} {index : Nat} (h : index < p.flash.defects.length) : ∃ q, removeDefect p index = (q, accepted)
    ∧ q.flash.defects = p.flash.defects.eraseIdx index ∧ rd q Ix.btDefectCount 0 = (p.flash.defects.length - 1) % 2 ^ 16 ∧ q.mem = p.mem ∧ q.parts = p.parts := by
  obtain ⟨d, hd⟩ : ∃ d, p.flash.defects[index]? = some d := ⟨_, List.getElem?_eq_getElem h⟩
  refine ⟨recordHistory (defectLeft p index) d.kind 1 d.unit 0x1308 0, ?_, recordHistory_defects _ _ _ _ _ _, ?_, recordHistory_mem _ _ _ _ _ _, recordHistory_parts _ _ _ _ _ _⟩
  · rw [removeDefect, hd]
    rfl
  · refine (recordHistory_rd _ _ _ _ _ _ _ _ (by decide) (.inr (by decide)) (by decide)).trans ?_
    refine (rd_wr_self _ _ _ _).trans ?_
    rw [show (wroteFlash { p with flash := { p.flash with defects := p.flash.defects.eraseIdx index } } areaDefects).flash.defects
      = p.flash.defects.eraseIdx index from rfl, List.length_eraseIdx_of_lt h]
    rfl

theorem removeDefect_none {p : Pkg} {index : Nat} (h : p.flash.defects.length ≤ index) : removeDefect p index = refuse p (invalid 0x1006) := by
  rw [removeDefect, List.getElem?_eq_none h]

section
variable {s : State} (hp : powered s.pkg = true)
include hp

theorem licenceInstall_completes (data : Bytes) (ok : Bool) :
    ((ok && licValid (rd s.pkg Ix.btPoweredS 0) data) = true → s.pkg.flash.licences.length < 16 → (∀ l ∈ s.pkg.flash.licences, licSerial l ≠ licSerial data) →
      Completes (.licenceInstall data ok) s (fun q => q.flash.licences = s.pkg.flash.licences ++ [data]
        ∧ rd q Ix.btFeaturesGranted 0 = (rd s.pkg Ix.btFeaturesGranted 0 ||| licFeatures data) % 2 ^ 16 ∧ q.mem = s.pkg.mem ∧ q.parts = s.pkg.parts
        ∧ q.out.getLast? = some (.answer 0x6914 0 0 0 false)))
    ∧ ((ok && licValid (rd s.pkg Ix.btPoweredS 0) data) = false → Completes (.licenceInstall data ok) s (fun q => q = emit (begun s) (.answer 0x6914 0 6 0x1321 false)))
    ∧ ((ok && licValid (rd s.pkg Ix.btPoweredS 0) data) = true → (16 ≤ s.pkg.flash.licences.length ∨ ∃ l ∈ s.pkg.flash.licences, licSerial l = licSerial data) →
      Completes (.licenceInstall data ok) s (fun q => q = emit (begun s) (.answer 0x6914 0 6 0x1329 false))) := by
  refine ⟨fun hvalid hroom hnew => ?_, fun hinvalid => ?_, fun hvalid hheld => ?_⟩ <;> refine completes_of hp (exec_licenceInstall data ok s) ?_
  · obtain ⟨q, hq, hlicences, hfeatures, hmem, hparts⟩ := installLicence_shows (p := begun s) hvalid hroom hnew
    rw [hq]
    exact ⟨hlicences, hfeatures, hmem, hparts, answered_last _ _ _⟩
  · rw [installLicence_invalid (p := begun s) hinvalid]
    rfl
  · rw [installLicence_held (p := begun s) hvalid hheld]
    rfl

theorem licenceExpired_completes {index : Nat} {l : Bytes} (hl : s.pkg.flash.licences[index]? = some l) :
    (licExpires l ≠ 0 → licExpires l ≤ rd s.pkg Ix.btPoweredS 0 → licSerial l ∉ s.pkg.bt.expired → Completes (.licenceExpired index) s (fun q => ∃ p,
      p.bt.expired = s.pkg.bt.expired ++ [licSerial l] ∧ p.flash = s.pkg.flash ∧ p.dict.vals = s.pkg.dict.vals ∧ p.mem = s.pkg.mem ∧ q = raise0 p 0x1322))
    ∧ (licExpires l = 0 ∨ rd s.pkg Ix.btPoweredS 0 < licExpires l ∨ licSerial l ∈ s.pkg.bt.expired → Completes (.licenceExpired index) s (fun q => q = begun s)) := by
  have hbegun : (begun s).flash.licences[index]? = some l := hl
  refine ⟨fun hlimit hpast hnew => ?_, fun hstays => ?_⟩ <;> refine completes_of hp (exec_licenceExpired index s) ?_ <;> rw [hbegun] <;> dsimp only
  · have hnew : licSerial l ∉ (begun s).bt.expired := hnew
    rw [if_pos (show licExpires l ≠ 0 ∧ licExpires l ≤ rd (begun s) Ix.btPoweredS 0 ∧ (!(begun s).bt.expired.contains (licSerial l)) = true from
      ⟨hlimit, hpast, by simpa using hnew⟩)]
    refine ⟨_, ?_, ?_, ?_, ?_, rfl⟩ <;> rfl
  · refine if_neg ?_
    rintro ⟨hlimit, hpast, hnew⟩
    have hpast : licExpires l ≤ rd s.pkg Ix.btPoweredS 0 := hpast
    have hnew : licSerial l ∉ (begun s).bt.expired := by simpa using hnew
    rcases hstays with h | h | h
    · exact hlimit h
    · omega
    · exact hnew h

theorem attestNonce_completes {data : Bytes} (h : data.length = 32) : Completes (.attestNonce data) s (fun q => slice q.bt.report 72 32 = data
    ∧ slice q.bt.report 0 192 = attestBody (begun s) data ∧ q.dict.vals = s.pkg.dict.vals ∧ q.flash = s.pkg.flash
    ∧ q.out = s.pkg.out ++ [.answer 0x6930 0 0 0 false]) := by
  refine completes_of hp (exec_attestNonce data s) ?_
  rw [attest_taken h]
  obtain ⟨hnonce, hbody⟩ := attested_report (begun s) h
  exact ⟨hnonce, hbody, rfl, rfl, rfl⟩

theorem firmwareCommit_completes {v : FirmwareVerdict} (hready : rd s.pkg Ix.btStartState 0 = 8) (hverified : v.verified = true) :
    Completes (.firmwareCommit 1 v) s (fun q => q.flash = { s.pkg.flash with
        activeSlot := 1 - s.pkg.flash.activeSlot, minEpoch := if v.raiseEpoch then max s.pkg.flash.minEpoch v.epoch else s.pkg.flash.minEpoch, generations := q.flash.generations }
      ∧ rd q Ix.btSecurityEpoch 0 = q.flash.minEpoch % 2 ^ 32 ∧ q.out.getLast? = some (.answer 0x6921 0 0 0 false)) := by
  refine completes_of hp (exec_firmwareCommit 1 v s) ?_
  rw [if_pos rfl, commitFirmware_taken (p := begun s) hready hverified]
  have hkeeps := raise0_keeps (wr (slotCommitted (begun s) v) Ix.btSecurityEpoch 0 (slotCommitted (begun s) v).flash.minEpoch) 0x1323
  have hflash := hkeeps.flash
  have hepoch := (hkeeps.rd _ _ (commsKey_far (.inr (by decide)))).trans (rd_wr_self (slotCommitted (begun s) v) Ix.btSecurityEpoch 0 (slotCommitted (begun s) v).flash.minEpoch)
  generalize raise0 (wr (slotCommitted (begun s) v) Ix.btSecurityEpoch 0 (slotCommitted (begun s) v).flash.minEpoch) 0x1323 = q at hflash hepoch ⊢
  refine ⟨?_, ?_, answered_last _ _ _⟩
  · show q.flash = { s.pkg.flash with
      activeSlot := 1 - s.pkg.flash.activeSlot, minEpoch := if v.raiseEpoch then max s.pkg.flash.minEpoch v.epoch else s.pkg.flash.minEpoch, generations := q.flash.generations }
    rw [hflash]
    rfl
  · show rd q Ix.btSecurityEpoch 0 = q.flash.minEpoch % 2 ^ 32
    rw [hflash]
    exact hepoch

end

/-- Settles O57, by the lemmas above, one for each command that takes effect; a refused one is answered and changes nothing. -/
theorem trustCommandsComplete : Obligations.TrustCommandsComplete := by
  unfold Obligations.TrustCommandsComplete
  intro s hp
  refine ⟨fun data ok => licenceInstall_completes hp data ok, fun index => ⟨fun h => ?remove, fun h => ?removeNone⟩, fun index l hl => licenceExpired_completes hp hl,
    fun index hnone => ?unknown, fun data => ⟨fun hsize hroom hform => ?keys, fun h => ?keysRefused, fun hsize hepoch => ?rackKey, fun h => ?rackRefused,
    attestNonce_completes hp, fun h => ?nonceRefused⟩, fun v => ⟨firmwareCommit_completes hp, fun hready hbad => ?unverified, fun hready => ?early, fun value hvalue => ?commitValue⟩,
    fun index => ⟨fun h => ?defect, fun h => ?defectNone⟩⟩
  case remove =>
    refine completes_of hp (exec_licenceRemove index s) ?_
    rw [removeLicence_taken (p := begun s) h]
    exact ⟨rfl, rfl, rfl, rfl⟩
  case removeNone =>
    refine completes_of hp (exec_licenceRemove index s) ?_
    rw [removeLicence, if_neg (show ¬ index.toNat < (begun s).flash.licences.length from Nat.not_lt.2 h)]
    rfl
  case unknown =>
    refine completes_of hp (exec_licenceExpired index s) ?_
    rw [show (begun s).flash.licences[index]? = none from hnone]
  case keys =>
    refine completes_of hp (exec_customerKeysWrite data s) ?_
    rw [writeCustomerKeys, if_pos ⟨hsize, hroom, hform⟩]
    exact ⟨rdB_wrB_self _ _ _ _, keysTaken_kept (begun s) data, wrB_mem _ _ _ _, (congrArg (· ++ [_]) (wrB_out _ _ _ _) :)⟩
  case keysRefused =>
    refine completes_of hp (exec_customerKeysWrite data s) ?_
    rw [writeCustomerKeys, if_neg (by rintro ⟨hsize, hroom, hform⟩; rw [hform] at h; simp at h; omega)]
    rfl
  case rackKey =>
    refine completes_of hp (exec_rackKeyInstall data s) ?_
    rw [installRackKey, if_pos ⟨hsize, hepoch⟩]
    exact ⟨rfl, rfl, rfl, rfl⟩
  case rackRefused =>
    refine completes_of hp (exec_rackKeyInstall data s) ?_
    rw [installRackKey, if_neg (fun hboth => h.elim (fun hsize => hsize hboth.1) (fun hepoch => Nat.not_lt.2 hepoch hboth.2))]
    rfl
  case nonceRefused =>
    refine completes_of hp (exec_attestNonce data s) ?_
    rw [attest, if_pos h]
    rfl
  case unverified =>
    refine completes_of hp (exec_firmwareCommit 1 v s) ?_
    rw [if_pos rfl, commitFirmware, if_neg (show ¬ rd (begun s) Ix.btStartState 0 ≠ 8 from not_not_intro hready), if_pos (by rw [hbad]; rfl)]
    rfl
  case early =>
    refine completes_of hp (exec_firmwareCommit 1 v s) ?_
    rw [if_pos rfl, commitFirmware, if_pos (show rd (begun s) Ix.btStartState 0 ≠ 8 from hready)]
    rfl
  case commitValue =>
    refine completes_of hp (exec_firmwareCommit value v s) ?_
    rw [if_neg hvalue]
    rfl
  case defect =>
    refine completes_of hp (exec_defectRemove index s) ?_
    obtain ⟨q, hq, hdefects, hcount, hmem, hparts⟩ := removeDefect_shows (p := begun s) h
    rw [hq]
    exact ⟨hdefects, hcount, hmem, hparts, answered_last _ _ _⟩
  case defectNone =>
    refine completes_of hp (exec_defectRemove index s) ?_
    rw [removeDefect_none (p := begun s) h]
    rfl

end Sys2Proof.Machine
end

section
/-! The rack cap held against a draw (R495, R496, R501). -/

namespace Sys2Proof.Machine

/-- A status of the power controller that is also an event changes, beside that status, what an event does. -/
theorem raisePw_keeps (p : Pkg) (code pp unit : Nat) : KeepsState (last p Ix.pwLastStatus 0 code) (raisePw p code pp unit) := raiseAs_keeps _ _ _ _ _ _ _

theorem raisePw_rd (p : Pkg) (code pp unit : Nat) {e : Entry} {sub : Nat} (he : 0x6000 ≤ e.index) (hne : e.index ≠ Ix.pwLastStatus.index) (hs : sub < 256) :
    rd (raisePw p code pp unit) e sub = rd p e sub :=
  ((raisePw_keeps p code pp unit).rd _ _ (commsKey_far (.inr (by rw [keyAt]; omega)))).trans (rd_last_ne _ _ hne hs (by omega))

theorem raisePw_pw (p : Pkg) (code pp unit : Nat) : (raisePw p code pp unit).pw = p.pw := (raisePw_keeps p code pp unit).pw
theorem raisePw_parts (p : Pkg) (code pp unit : Nat) : (raisePw p code pp unit).parts = p.parts := (raisePw_keeps p code pp unit).parts
theorem raisePw_mem (p : Pkg) (code pp unit : Nat) : (raisePw p code pp unit).mem = p.mem := (raisePw_keeps p code pp unit).mem
theorem raisePw_bt (p : Pkg) (code pp unit : Nat) : (raisePw p code pp unit).bt = p.bt := (raisePw_keeps p code pp unit).bt
theorem raisePw_pins (p : Pkg) (code pp unit : Nat) : (raisePw p code pp unit).pins = p.pins := (raisePw_keeps p code pp unit).pins

/-! Throttle reasons and the clamp change what the power controller holds, and nothing else. -/

section
variable (p : Pkg) (i : Nat)

theorem reasonStart_rest : { reasonStart p i with pw := p.pw } = p := rfl
theorem reasonEnd_rest : { reasonEnd p i with pw := p.pw } = p := rfl
theorem reasonStart_pw : { (reasonStart p i).pw with reasons := p.pw.reasons } = p.pw := rfl
theorem reasonEnd_pw : { (reasonEnd p i).pw with reasons := p.pw.reasons } = p.pw := rfl

end

/-! Pauses for power (R495, R496). -/

/-- What choosing one partition leaves, choosing several leaves. -/
theorem choosePauses_same {α : Type} (g : Pkg → α) (hg : ∀ p pp, g (powerPause p pp) = g p) (fuel : Nat) (p : Pkg) : g (choosePauses fuel p) = g p := by
  induction fuel generalizing p with
  | zero => rfl
  | succ fuel ih =>
    rw [choosePauses]
    split
    · rfl
    · split
      · rfl
      · rw [ih, hg]

theorem powerPause_dict (p : Pkg) (pp : Nat) : (powerPause p pp).dict = p.dict := by unfold powerPause; dsimp only; split <;> rfl

/-- The package with what choosing partitions to pause changes left out. -/
def withoutPauses (p : Pkg) : Pkg := { p with parts := {}, out := [], pw := { p.pw with clampedW := {} } }

/-- A partition chosen to pause is noted with the draw it leaves, and changes nothing beside. -/
theorem withoutPauses_powerPause (p : Pkg) (pp : Nat) : withoutPauses (powerPause p pp) = withoutPauses p := by
  unfold powerPause
  dsimp only
  split <;> rfl

theorem choosePauses_dict (fuel : Nat) (p : Pkg) : (choosePauses fuel p).dict = p.dict := choosePauses_same Pkg.dict powerPause_dict fuel p

theorem choosePauses_rest (fuel : Nat) (p : Pkg) : withoutPauses (choosePauses fuel p) = withoutPauses p :=
  choosePauses_same withoutPauses withoutPauses_powerPause fuel p

/-- Partitions that draw power still (R495). -/
def drawing (p : Pkg) : List Nat := (List.range 12).filter (drawsPower p)

theorem drawsPower_powerPause (p : Pkg) {pp k : Nat} : drawsPower (powerPause p pp) k = (drawsPower p k && k != pp) := by
  have hstate : pcState (powerPause p pp) k = pcState p k := rd_of_dict (powerPause_dict p pp) _ _
  have hpending : (part (powerPause p pp) k).pc.powerPending = (decide (k = pp) || (part p k).pc.powerPending) := by
    have hsame : (powerPause p pp).parts = (modPc p pp (fun q => { q with powerPending := true })).parts := by
      unfold powerPause
      dsimp only
      split <;> rfl
    rw [part_of_parts hsame]
    by_cases h : k = pp
    · subst h
      rw [modPc, part_modPart_self]
      simp
    · rw [modPc, part_modPart_ne _ _ h]
      simp [h]
  rw [drawsPower, drawsPower, hstate, hpending]
  by_cases h : k = pp <;> simp [h]

/-- One step of a choice among partitions: the better of the best so far and this one, where it may be chosen (R421, R497). -/
def better (may : Nat → Bool) (beats : Nat → Nat → Prop) [∀ a b, Decidable (beats a b)] (best : Option Nat) (pp : Nat) : Option Nat :=
  if !may pp then best
  else match best with
    | none => some pp
    | some b => if beats pp b then some pp else some b

section
variable {may : Nat → Bool} {beats : Nat → Nat → Prop} [∀ a b, Decidable (beats a b)]

theorem better_cases (best : Option Nat) (pp : Nat) :
    (better may beats best pp = best ∧ (may pp = true → best ≠ none)) ∨ (better may beats best pp = some pp ∧ may pp = true) := by
  unfold better
  cases hmay : may pp with
  | false => exact .inl ⟨rfl, by simp⟩
  | true =>
    cases best with
    | none => exact .inr ⟨rfl, rfl⟩
    | some b =>
      show (if beats pp b then some pp else some b) = some b ∧ _ ∨ (if beats pp b then some pp else some b) = some pp ∧ _
      by_cases h : beats pp b
      · exact .inr ⟨if_pos h, rfl⟩
      · exact .inl ⟨if_neg h, by simp⟩

/-- A choice that falls on a partition falls on the best so far or on one that may be chosen. -/
theorem foldl_better_some {l : List Nat} {best : Option Nat} {b : Nat} (h : l.foldl (better may beats) best = some b) :
    best = some b ∨ (b ∈ l ∧ may b = true) := by
  induction l generalizing best with
  | nil => exact .inl h
  | cons k l ih =>
    rcases ih h with hk | ⟨hb, hmay⟩
    · rcases better_cases (may := may) (beats := beats) best k with ⟨hsame, -⟩ | ⟨hsome, hmay⟩
      · exact .inl (hsame ▸ hk)
      · rw [hsome] at hk
        cases hk
        exact .inr ⟨List.mem_cons_self, hmay⟩
    · exact .inr ⟨List.mem_cons_of_mem _ hb, hmay⟩

/-- A choice that falls on none had none to fall on. -/
theorem foldl_better_none {l : List Nat} {best : Option Nat} (h : l.foldl (better may beats) best = none) :
    best = none ∧ ∀ k ∈ l, may k = false := by
  induction l generalizing best with
  | nil => exact ⟨h, by simp⟩
  | cons k l ih =>
    obtain ⟨hk, hl⟩ := ih h
    rcases better_cases (may := may) (beats := beats) best k with ⟨hsame, hnot⟩ | ⟨hsome, -⟩
    · rw [hsame] at hk
      exact ⟨hk, List.forall_mem_cons.2 ⟨by simpa [hk] using hnot, hl⟩⟩
    · rw [hsome] at hk
      cases hk

end

theorem nextToPause_some {p : Pkg} {pp : Nat} (h : nextToPause p = some pp) : pp ∈ drawing p := by
  rcases foldl_better_some (may := drawsPower p) (beats := fun pp b => rd p Ix.pcShare pp ≤ rd p Ix.pcShare b) h with h | ⟨hpp, hdraws⟩
  · cases h
  · exact List.mem_filter.2 ⟨hpp, hdraws⟩

theorem nextToPause_none {p : Pkg} (h : nextToPause p = none) : ∀ k < 12, drawsPower p k = false := fun k hk =>
  (foldl_better_none (may := drawsPower p) (beats := fun pp b => rd p Ix.pcShare pp ≤ rd p Ix.pcShare b) h).2 k (List.mem_range.2 hk)

theorem nextToResume_lt {p : Pkg} {pp : Nat} (h : nextToResume p = some pp) : pp < 12 := by
  unfold nextToResume at h
  split at h
  · cases h
  · rcases foldl_better_some (may := bit (rd p Ix.pwPowerPaused 0)) (beats := fun pp b => rd p Ix.pcShare b < rd p Ix.pcShare pp) h with h | ⟨hpp, -⟩
    · cases h
    · exact List.mem_range.1 hpp

/-- A chosen partition draws power no more, so each choice leaves fewer to choose. -/
theorem drawing_powerPause {p : Pkg} {pp : Nat} (h : pp ∈ drawing p) : (drawing (powerPause p pp)).length < (drawing p).length := by
  have hsub : drawing (powerPause p pp) = (drawing p).filter (· != pp) := by
    rw [drawing, drawing, List.filter_filter]
    exact List.filter_congr fun k _ => by rw [drawsPower_powerPause, Bool.and_comm]
  rw [hsub]
  exact List.length_filter_lt_length_iff_exists.2 ⟨pp, h, by simp⟩

/-- The choice goes on until the prediction meets the cap or no partition draws power (R495). -/
theorem choosePauses_meets {fuel : Nat} {p : Pkg} (hfuel : (drawing p).length ≤ fuel) :
    predictedTenths (choosePauses fuel p) ≤ 10 * rd p Ix.pwRackCapW 0 ∨ ∀ pp < 12, drawsPower (choosePauses fuel p) pp = false := by
  induction fuel generalizing p with
  | zero =>
    refine .inr fun pp hpp => ?_
    have hnone : drawing p = [] := List.length_eq_zero_iff.1 (by omega)
    rw [choosePauses]
    simpa using List.filter_eq_nil_iff.1 hnone pp (List.mem_range.2 hpp)
  | succ fuel ih =>
    rw [choosePauses]
    split
    · exact .inl ‹_›
    · split
      · exact .inr (nextToPause_none ‹_›)
      · rename_i pp hpp
        have hless := drawing_powerPause (nextToPause_some hpp)
        rw [← rd_of_dict (powerPause_dict p pp) Ix.pwRackCapW 0]
        exact ih (by omega)

/-! The cap held against the power of the last millisecond (R495, R496). -/

/-- Watts that the package drew before the clamp (R493). -/
def capReference (p : Pkg) : Nat := if p.pw.clampActive then p.pw.referenceW else rd p Ix.pwInputPowerW 0

/-- The package clamped at its cap (R496). -/
def capClamped (p : Pkg) : Pkg := clamp p (capLimit p) (capReference p) 2

/-- The package clamped at its cap, with the cap shown as exceeded (R496). -/
def capExceeded (p : Pkg) : Pkg :=
  if rd p Ix.pwCapState 0 = 2 then capClamped p else raisePw (wr (capClamped p) Ix.pwCapState 0 2) 0x1412 0xFF 0xFFFFFFFF

section
variable {p : Pkg}

theorem evaluateCap_met (h : rd p Ix.pwInputPowerW 0 ≤ rd p Ix.pwRackCapW 0) : evaluateCap p
    = (if rd p Ix.pwCapState 0 = 2 then raisePw (wr p Ix.pwCapState 0 1) 0x1413 0xFF 0xFFFFFFFF
      else if rd p Ix.pwCapState 0 = 1 then reasonEnd (wr p Ix.pwCapState 0 0) 2 else reasonEnd p 2) := if_pos h

theorem evaluateCap_clamps (h : rd p Ix.pwRackCapW 0 < rd p Ix.pwInputPowerW 0) (href : 7 * capReference p ≤ 10 * rd p Ix.pwRackCapW 0) :
    evaluateCap p = wr (capClamped p) Ix.pwCapState 0 1 :=
  (if_neg (Nat.not_le.2 h)).trans (if_neg (Nat.not_lt.2 href))

theorem evaluateCap_pauses (h : rd p Ix.pwRackCapW 0 < rd p Ix.pwInputPowerW 0) (href : 10 * rd p Ix.pwRackCapW 0 < 7 * capReference p) :
    evaluateCap p = choosePauses 12 (capExceeded p) :=
  (if_neg (Nat.not_le.2 h)).trans (if_pos href)

theorem capExceeded_shows : rd (capExceeded p) Ix.pwCapState 0 = 2 ∧ rd (capExceeded p) Ix.pwRackCapW 0 = rd p Ix.pwRackCapW 0
    ∧ (capExceeded p).pw = (capClamped p).pw := by
  unfold capExceeded
  split
  · exact ⟨‹_›, rfl, rfl⟩
  · refine ⟨(raisePw_rd _ _ _ _ (by decide) (by decide) (by decide)).trans (rd_wr_self _ _ _ _), ?_, raisePw_pw _ _ _ _⟩
    exact (raisePw_rd _ _ _ _ (by decide) (by decide) (by decide)).trans (rd_wr_ne _ _ (by decide) (by omega) (by omega))

/-- A draw at or below the cap leaves it met (R496). -/
theorem capState_met (h : rd p Ix.pwInputPowerW 0 ≤ rd p Ix.pwRackCapW 0) : rd (evaluateCap p) Ix.pwCapState 0
    = (if rd p Ix.pwCapState 0 = 2 then 1 else if rd p Ix.pwCapState 0 = 1 then 0 else rd p Ix.pwCapState 0) := by
  rw [evaluateCap_met h]
  split
  · exact (raisePw_rd _ _ _ _ (by decide) (by decide) (by decide)).trans (rd_wr_self _ _ _ _)
  · split
    · exact rd_wr_self _ _ _ _
    · rfl

end

/-- What holding the cap leaves as it was (R495, R496): all but the clamp, the throttle reasons, the partitions chosen to pause, and the
cap's state and event. -/
structure CapKept (p q : Pkg) : Prop where
  now : q.now = p.now
  mem : q.mem = p.mem
  bt : q.bt = p.bt
  flash : q.flash = p.flash
  pending : q.pw.capPending = p.pw.capPending
  accepted : q.pw.capAcceptedNs = p.pw.capAcceptedNs
  rd : ∀ (e : Entry) (sub : Nat), 0x6000 ≤ e.index → e.index ≠ Ix.pwCapState.index → e.index ≠ Ix.pwLastStatus.index → sub < 256 →
    Machine.rd q e sub = Machine.rd p e sub

section
variable {p q r : Pkg}

theorem CapKept.trans (h : CapKept p q) (g : CapKept q r) : CapKept p r where
  now := g.now.trans h.now
  mem := g.mem.trans h.mem
  bt := g.bt.trans h.bt
  flash := g.flash.trans h.flash
  pending := g.pending.trans h.pending
  accepted := g.accepted.trans h.accepted
  rd e sub he h1 h2 hs := (g.rd e sub he h1 h2 hs).trans (h.rd e sub he h1 h2 hs)

theorem reasonEnd_capKept (p : Pkg) (i : Nat) : CapKept p (reasonEnd p i) :=
  ⟨Eq.refl _, Eq.refl _, Eq.refl _, Eq.refl _, Eq.refl _, Eq.refl _, fun _ _ _ _ _ _ => Eq.refl _⟩

theorem capClamped_capKept (p : Pkg) : CapKept p (capClamped p) :=
  ⟨Eq.refl _, Eq.refl _, Eq.refl _, Eq.refl _, Eq.refl _, Eq.refl _, fun _ _ _ _ _ _ => Eq.refl _⟩

theorem wrCapState_capKept (p : Pkg) (v : Nat) : CapKept p (wr p Ix.pwCapState 0 v) :=
  ⟨Eq.refl _, Eq.refl _, Eq.refl _, Eq.refl _, Eq.refl _, Eq.refl _, fun _ _ _ h1 _ hs => rd_wr_ne _ _ h1 hs (by omega)⟩

theorem raisePw_capKept (p : Pkg) (code pp unit : Nat) : CapKept p (raisePw p code pp unit) where
  now := (raisePw_keeps p code pp unit).now
  mem := raisePw_mem p code pp unit
  bt := raisePw_bt p code pp unit
  flash := (raisePw_keeps p code pp unit).flash
  pending := congrArg Pw.capPending (raisePw_pw p code pp unit)
  accepted := congrArg Pw.capAcceptedNs (raisePw_pw p code pp unit)
  rd _ _ he _ h2 hs := raisePw_rd p code pp unit he h2 hs

theorem choosePauses_capKept (fuel : Nat) (p : Pkg) : CapKept p (choosePauses fuel p) := by
  have hrest := choosePauses_rest fuel p
  exact ⟨(congrArg Pkg.now hrest :), (congrArg Pkg.mem hrest :), (congrArg Pkg.bt hrest :), (congrArg Pkg.flash hrest :),
    (congrArg (fun p => p.pw.capPending) hrest :), (congrArg (fun p => p.pw.capAcceptedNs) hrest :),
    fun _ _ _ _ _ _ => rd_of_dict (choosePauses_dict fuel p) _ _⟩

theorem capExceeded_capKept (p : Pkg) : CapKept p (capExceeded p) := by
  unfold capExceeded
  split
  · exact capClamped_capKept p
  · exact ((capClamped_capKept p).trans (wrCapState_capKept _ 2)).trans (raisePw_capKept _ _ _ _)

theorem evaluateCap_capKept (p : Pkg) : CapKept p (evaluateCap p) := by
  rcases Nat.lt_or_ge (rd p Ix.pwRackCapW 0) (rd p Ix.pwInputPowerW 0) with hover | hmet
  · rcases Nat.lt_or_ge (10 * rd p Ix.pwRackCapW 0) (7 * capReference p) with hpause | hclamp
    · rw [evaluateCap_pauses hover hpause]
      exact (capExceeded_capKept p).trans (choosePauses_capKept 12 _)
    · rw [evaluateCap_clamps hover hclamp]
      exact (capClamped_capKept p).trans (wrCapState_capKept _ 1)
  · rw [evaluateCap_met hmet]
    split
    · exact (wrCapState_capKept p 1).trans (raisePw_capKept _ _ _ _)
    · split
      · exact (wrCapState_capKept p 0).trans (reasonEnd_capKept _ 2)
      · exact reasonEnd_capKept p 2

end

end Sys2Proof.Machine
end

section
/-! Rack ticks, REF_SYNC frames and the lost reference (O58). -/

namespace Sys2Proof.Machine

/-- What a part of a rack tick leaves (R483): rack time, memory, and every entry from 0x6000 but those of `S`. -/
structure TickFrame (S : List Nat) (p q : Pkg) : Prop where
  now : q.now = p.now
  mem : q.mem = p.mem
  rd : ∀ (e : Entry) (sub : Nat), 0x6000 ≤ e.index → e.index ∉ S → sub < 256 → Machine.rd q e sub = Machine.rd p e sub

section
variable {p q r : Pkg} {S : List Nat}

theorem TickFrame.rfl : TickFrame S p p := ⟨Eq.refl _, Eq.refl _, fun _ _ _ _ _ => Eq.refl _⟩

theorem TickFrame.trans (h : TickFrame S p q) (g : TickFrame S q r) : TickFrame S p r :=
  ⟨g.now.trans h.now, g.mem.trans h.mem, fun e sub he hS hs => (g.rd e sub he hS hs).trans (h.rd e sub he hS hs)⟩

theorem TickFrame.of_dict (hnow : q.now = p.now) (hmem : q.mem = p.mem) (hdict : q.dict = p.dict) : TickFrame S p q :=
  ⟨hnow, hmem, fun _ _ _ _ _ => rd_of_dict hdict _ _⟩

theorem wr_tickFrame (p : Pkg) {e : Entry} {sub : Nat} (v : Nat) (he : e.index ∈ S) (hsub : sub < 256) : TickFrame S p (wr p e sub v) :=
  ⟨Eq.refl _, Eq.refl _, fun _ _ _ hS hs => rd_wr_ne _ _ (fun h => hS (h ▸ he)) hs hsub⟩

theorem wrKept_tickFrame (p : Pkg) {e : Entry} {sub : Nat} (v : Nat) (he : e.index ∈ S) (hsub : sub < 256) : TickFrame S p (wrKept p e sub v) :=
  (wr_tickFrame p v he hsub).trans (TickFrame.of_dict (Eq.refl _) (Eq.refl _) (Eq.refl _))

theorem rd_wrKept_self (p : Pkg) (e : Entry) (sub v : Nat) : rd (wrKept p e sub v) e sub = v % 2 ^ e.type.width := rd_wr_self p e sub v

end

/-- Entries that the parts of a rack tick write. -/
def referenceEntries : List Nat := [Ix.pwRefState.index, Ix.pwLastStatus.index]
def poweredEntries : List Nat := [Ix.btPoweredS.index, Ix.ruRequalifyRemainingS.index]
def keyEntries : List Nat := [Ix.btRackKeyEpoch.index]
def capEntries : List Nat := [Ix.pwRackCapW.index, Ix.pwCapHoldMs.index, Ix.pwCapEpoch.index]

section
variable (p : Pkg)

theorem referenceCheck_shows (c : Clock) : TickFrame referenceEntries p (referenceCheck c p)
    ∧ rd (referenceCheck c p) Ix.pwRefState 0 = (if c.missed = 2 ∧ rd p Ix.pwRefState 0 = 0 then 1 else rd p Ix.pwRefState 0)
    ∧ (referenceCheck c p).bt = p.bt ∧ (referenceCheck c p).flash = p.flash ∧ (referenceCheck c p).pw = p.pw := by
  unfold referenceCheck
  split
  · have hkeeps := raisePw_keeps (wr p Ix.pwRefState 0 1) 0x1419 0xFF 0xFFFFFFFF
    refine ⟨(wr_tickFrame p 1 (by decide) (by decide)).trans ⟨hkeeps.now, hkeeps.mem, fun e sub he hS hs => raisePw_rd _ _ _ _ he ?_ hs⟩,
      (raisePw_rd _ _ _ _ (by decide) (by decide) (by decide)).trans (rd_wr_self _ _ _ _), hkeeps.bt, hkeeps.flash, hkeeps.pw⟩
    exact fun h => hS (by simp [referenceEntries, h])
  · exact ⟨TickFrame.rfl, rfl, rfl, rfl, rfl⟩

theorem requalifySecond_shows : TickFrame poweredEntries p (requalifySecond p) ∧ (requalifySecond p).bt = p.bt
    ∧ (requalifySecond p).flash = p.flash ∧ (requalifySecond p).pw = p.pw ∧ rd (requalifySecond p) Ix.btPoweredS 0 = rd p Ix.btPoweredS 0 := by
  unfold requalifySecond
  split
  · exact ⟨wr_tickFrame p _ (by decide) (by decide), rfl, rfl, rfl, rd_wr_ne _ _ (by decide) (by decide) (by decide)⟩
  · exact ⟨TickFrame.rfl, rfl, rfl, rfl, rfl⟩

/-- A completed second of powered time (R455). -/
def secondCounted : Pkg := wrKept { p with bt := { p.bt with poweredMs := 0 } } Ix.btPoweredS 0 (rd p Ix.btPoweredS 0 + 1)

theorem secondCounted_frame : TickFrame poweredEntries p (secondCounted p) := by
  have hbegun : TickFrame poweredEntries p { p with bt := { p.bt with poweredMs := 0 } } := TickFrame.of_dict rfl rfl rfl
  exact hbegun.trans (wrKept_tickFrame _ _ (by decide) (by decide))

/-- A millisecond of powered time counts (R455); a thousand of them are a second. -/
theorem countPowered_shows : TickFrame poweredEntries p (countPowered p) ∧ (countPowered p).pw = p.pw
    ∧ (countPowered p).flash.rackKeys = p.flash.rackKeys ∧ (countPowered p).bt.pendingRackKey = p.bt.pendingRackKey
    ∧ (p.bt.poweredMs < 999 → (countPowered p).bt.poweredMs = p.bt.poweredMs + 1 ∧ rd (countPowered p) Ix.btPoweredS 0 = rd p Ix.btPoweredS 0)
    ∧ (999 ≤ p.bt.poweredMs → (countPowered p).bt.poweredMs = 0 ∧ rd (countPowered p) Ix.btPoweredS 0 = (rd p Ix.btPoweredS 0 + 1) % 2 ^ 32) := by
  rcases Nat.lt_or_ge p.bt.poweredMs 999 with hless | hfull
  · rw [countPowered, if_pos (by omega)]
    exact ⟨TickFrame.of_dict rfl rfl rfl, rfl, rfl, rfl, fun _ => ⟨rfl, rfl⟩, fun h => by omega⟩
  · rw [countPowered, if_neg (by omega)]
    obtain ⟨hframe, hbt, hflash, hpw, hpowered⟩ := requalifySecond_shows (secondCounted p)
    refine ⟨(secondCounted_frame p).trans hframe, hpw, (congrArg Flash.rackKeys hflash :),
      (congrArg Bt.pendingRackKey hbt :), fun h => by omega, fun _ => ⟨(congrArg Bt.poweredMs hbt :), ?_⟩⟩
    exact hpowered.trans (rd_wrKept_self _ _ _ _)

/-- A rack key in force (R510). -/
def rackKeyTaken (e : Nat) (k : Bytes) : Pkg :=
  wrKept { p with bt := { p.bt with pendingRackKey := none }, flash := { p.flash with rackKeys := (e, k) :: p.flash.rackKeys.take 1 } } Ix.btRackKeyEpoch 0 e

theorem rackKeyTaken_frame (e : Nat) (k : Bytes) : TickFrame keyEntries p (rackKeyTaken p e k) := by
  have hbegun : TickFrame keyEntries p { p with bt := { p.bt with pendingRackKey := none }, flash := { p.flash with rackKeys := (e, k) :: p.flash.rackKeys.take 1 } } :=
    TickFrame.of_dict rfl rfl rfl
  exact hbegun.trans (wrKept_tickFrame _ _ (by decide) (by decide))

/-- A rack key that waited comes into force with its epoch (R510). -/
theorem applyRackKey_shows : TickFrame keyEntries p (applyRackKey p) ∧ (applyRackKey p).pw = p.pw ∧ (applyRackKey p).bt = { p.bt with pendingRackKey := none }
    ∧ (∀ e k, p.bt.pendingRackKey = some (e, k) → (applyRackKey p).flash.rackKeys = (e, k) :: p.flash.rackKeys.take 1
      ∧ rd (applyRackKey p) Ix.btRackKeyEpoch 0 = e % 2 ^ 32) := by
  unfold applyRackKey
  split
  · rename_i hnone
    exact ⟨TickFrame.rfl, rfl, by rw [← hnone], fun e k h => by rw [hnone] at h; cases h⟩
  · rename_i e k hsome
    refine ⟨rackKeyTaken_frame p e k, rfl, rfl, fun e' k' h => ?_⟩
    rw [hsome] at h
    cases h
    exact ⟨rfl, rd_wrKept_self _ _ _ _⟩

/-- A cap that waited is in force (R494). -/
def capApplied (p : Pkg) (w hold : Nat) : Pkg :=
  wr (wr { p with pw := { p.pw with capPending := none, capAcceptedNs := p.now } } Ix.pwRackCapW 0 w) Ix.pwCapHoldMs 0 hold

theorem capApplied_shows (w hold : Nat) : TickFrame capEntries p (capApplied p w hold) ∧ rd (capApplied p w hold) Ix.pwRackCapW 0 = w % 2 ^ 32
    ∧ rd (capApplied p w hold) Ix.pwCapHoldMs 0 = hold % 2 ^ 32 := by
  have hbegun : TickFrame capEntries p { p with pw := { p.pw with capPending := none, capAcceptedNs := p.now } } := TickFrame.of_dict rfl rfl rfl
  have hcap := hbegun.trans (wr_tickFrame _ (e := Ix.pwRackCapW) (sub := 0) w (by decide) (by decide))
  refine ⟨hcap.trans (wr_tickFrame _ (e := Ix.pwCapHoldMs) (sub := 0) hold (by decide) (by decide)), ?_, rd_wr_self _ _ _ _⟩
  exact (rd_wr_ne _ _ (by decide) (by decide) (by decide)).trans (rd_wr_self _ _ _ _)

theorem applyCap_shows : TickFrame capEntries p (applyCap p) ∧ (applyCap p).bt = p.bt ∧ (applyCap p).flash = p.flash ∧ (applyCap p).pw.capPending = none
    ∧ (∀ w e hold, p.pw.capPending = some (w, e, hold) → rd (applyCap p) Ix.pwRackCapW 0 = w % 2 ^ 32 ∧ rd (applyCap p) Ix.pwCapHoldMs 0 = hold % 2 ^ 32
      ∧ (applyCap p).pw.capAcceptedNs = p.now)
    ∧ (p.pw.capPending = none → rd (applyCap p) Ix.pwRackCapW 0 = rd p Ix.pwRackCapW 0) := by
  rcases hcap : p.pw.capPending with _ | ⟨w, epoch, hold⟩
  · have happly : applyCap p = p := by rw [applyCap, hcap]
    rw [happly]
    exact ⟨TickFrame.rfl, rfl, rfl, hcap, by simp, fun _ => rfl⟩
  · obtain ⟨hframe, hw, hhold⟩ := capApplied_shows p w hold
    have hvalues : ∀ {q : Pkg}, TickFrame [Ix.pwCapEpoch.index] (capApplied p w hold) q → q.pw.capAcceptedNs = p.now →
        ∀ w' e' hold', some (w, epoch, hold) = some (w', e', hold') → rd q Ix.pwRackCapW 0 = w' % 2 ^ 32 ∧ rd q Ix.pwCapHoldMs 0 = hold' % 2 ^ 32
          ∧ q.pw.capAcceptedNs = p.now := by
      intro q hq hns w' e' hold' h
      cases h
      exact ⟨(hq.rd _ _ (by decide) (by decide) (by decide)).trans hw, (hq.rd _ _ (by decide) (by decide) (by decide)).trans hhold, hns⟩
    cases epoch with
    | none =>
      rw [show applyCap p = capApplied p w hold from by rw [applyCap, hcap]; rfl]
      exact ⟨hframe, rfl, rfl, rfl, hvalues TickFrame.rfl rfl, by simp⟩
    | some e =>
      rw [show applyCap p = wr (capApplied p w hold) Ix.pwCapEpoch 0 e from by rw [applyCap, hcap]; rfl]
      exact ⟨hframe.trans (wr_tickFrame _ _ (by decide) (by decide)), rfl, rfl, rfl, hvalues (wr_tickFrame _ _ (by decide) (by decide)) rfl, by simp⟩

end

/-- The package once a rack tick has been counted at a clock (R483, R494). -/
def ticked (c : Clock) (p : Pkg) : Pkg := evaluateCap (applyCap (applyRackKey (countPowered (referenceCheck c p))))

/-- What a rack tick shows. -/
structure TickShown (c : Clock) (p q : Pkg) : Prop where
  now : q.now = p.now
  mem : q.mem = p.mem
  capNone : q.pw.capPending = none
  keyNone : q.bt.pendingRackKey = none
  cap : ∀ w e hold, p.pw.capPending = some (w, e, hold) → rd q Ix.pwRackCapW 0 = w % 2 ^ 32 ∧ rd q Ix.pwCapHoldMs 0 = hold % 2 ^ 32 ∧ q.pw.capAcceptedNs = q.now
  capStays : p.pw.capPending = none → rd q Ix.pwRackCapW 0 = rd p Ix.pwRackCapW 0
  key : ∀ e k, p.bt.pendingRackKey = some (e, k) → q.flash.rackKeys = (e, k) :: p.flash.rackKeys.take 1 ∧ rd q Ix.btRackKeyEpoch 0 = e % 2 ^ 32
  millisecond : p.bt.poweredMs < 999 → q.bt.poweredMs = p.bt.poweredMs + 1 ∧ rd q Ix.btPoweredS 0 = rd p Ix.btPoweredS 0
  second : 999 ≤ p.bt.poweredMs → q.bt.poweredMs = 0 ∧ rd q Ix.btPoweredS 0 = (rd p Ix.btPoweredS 0 + 1) % 2 ^ 32
  reference : rd q Ix.pwRefState 0 = (if c.missed = 2 ∧ rd p Ix.pwRefState 0 = 0 then 1 else rd p Ix.pwRefState 0)

theorem ticked_shown (c : Clock) (p : Pkg) : TickShown c p (ticked c p) := by
  unfold ticked
  obtain ⟨f1, href, bt1, flash1, pw1⟩ := referenceCheck_shows p c
  generalize referenceCheck c p = p1 at *
  obtain ⟨f2, pw2, keys2, pending2, hms, hs⟩ := countPowered_shows p1
  generalize countPowered p1 = p2 at *
  obtain ⟨f3, pw3, bt3, hkey⟩ := applyRackKey_shows p2
  generalize applyRackKey p2 = p3 at *
  obtain ⟨f4, bt4, flash4, capNone, hcap, hstays⟩ := applyCap_shows p3
  generalize applyCap p3 = p4 at *
  have f5 := evaluateCap_capKept p4
  generalize evaluateCap p4 = q at *
  have hpending : p3.pw.capPending = p.pw.capPending := by rw [pw3, pw2, pw1]
  have hbt : q.bt = { p2.bt with pendingRackKey := none } := by rw [f5.bt, bt4, bt3]
  have hpowered : rd q Ix.btPoweredS 0 = rd p2 Ix.btPoweredS 0 :=
    (f5.rd _ _ (by decide) (by decide) (by decide) (by decide)).trans
      ((f4.rd _ _ (by decide) (by decide) (by decide)).trans (f3.rd _ _ (by decide) (by decide) (by decide)))
  have hbefore : rd p1 Ix.btPoweredS 0 = rd p Ix.btPoweredS 0 := f1.rd _ _ (by decide) (by decide) (by decide)
  refine
    { now := by rw [f5.now, f4.now, f3.now, f2.now, f1.now]
      mem := by rw [f5.mem, f4.mem, f3.mem, f2.mem, f1.mem]
      capNone := f5.pending.trans capNone
      keyNone := by rw [hbt]
      cap := fun w e hold h => ?cap
      capStays := fun h => ?stays
      key := fun e k h => ?key
      millisecond := fun h => ?ms
      second := fun h => ?s
      reference := ?reference }
  case cap =>
    obtain ⟨hw, hhold, hns⟩ := hcap w e hold (hpending.trans h)
    exact ⟨(f5.rd _ _ (by decide) (by decide) (by decide) (by decide)).trans hw, (f5.rd _ _ (by decide) (by decide) (by decide) (by decide)).trans hhold,
      by rw [f5.accepted, hns, f5.now, f4.now]⟩
  case stays =>
    rw [f5.rd _ _ (by decide) (by decide) (by decide) (by decide), hstays (hpending.trans h), f3.rd _ _ (by decide) (by decide) (by decide),
      f2.rd _ _ (by decide) (by decide) (by decide), f1.rd _ _ (by decide) (by decide) (by decide)]
  case key =>
    obtain ⟨hkeys, hepoch⟩ := hkey e k (by rw [pending2, bt1, h])
    refine ⟨by rw [f5.flash, flash4, hkeys, keys2, flash1], ?_⟩
    rw [f5.rd _ _ (by decide) (by decide) (by decide) (by decide), f4.rd _ _ (by decide) (by decide) (by decide), hepoch]
  case ms =>
    obtain ⟨hcount, hsame⟩ := hms (by rw [bt1]; exact h)
    exact ⟨by rw [hbt, ← bt1]; exact hcount, by rw [hpowered, hsame, hbefore]⟩
  case s =>
    obtain ⟨hcount, hmore⟩ := hs (by rw [bt1]; exact h)
    exact ⟨by rw [hbt]; exact hcount, by rw [hpowered, hmore, hbefore]⟩
  case reference =>
    rw [f5.rd _ _ (by decide) (by decide) (by decide) (by decide), f4.rd _ _ (by decide) (by decide) (by decide), f3.rd _ _ (by decide) (by decide) (by decide),
      f2.rd _ _ (by decide) (by decide) (by decide), href]

/-- The package that takes the rack's tick from a frame (R484, R485). -/
def frameTaken (c : Clock) (p : Pkg) : Pkg := wr { p with now := c.ns, pw := { p.pw with tickAdopted := true } } Ix.pwRefState 0 0

/-- The package that waits for a frame no more (R485). -/
def frameAwaited (p : Pkg) : Pkg := { p with bt := { p.bt with waitingFrame := false } }

/-- Entering a phase up to 7 shows it (R482). -/
theorem enterPhase_shows (p : Pkg) {n : Nat} (hn : n ≤ 7) : (enterPhase p n).bt = { p.bt with phase := n } ∧ rd (enterPhase p n) Ix.btStartState 0 = n ∧ (enterPhase p n).mem = p.mem
    ∧ (enterPhase p n).now = p.now ∧ (enterPhase p n).pw = p.pw ∧ rd (enterPhase p n) Ix.pwRefState 0 = rd p Ix.pwRefState 0 := by
  refine ⟨rfl, ?_, rfl, rfl, rfl, rd_wr_ne _ _ (by decide) (by decide) (by decide)⟩
  rw [enterPhase, rd_wr_self, Nat.min_eq_left hn]
  exact Nat.mod_eq_of_lt (Nat.lt_of_le_of_lt hn (by decide))

section
variable {s : State} (hp : powered s.pkg = true)
include hp

theorem rackTick_completes (pulse : Bool) : ∃ q, exec (.rackTick pulse) s = .next { s with clock := s.clock.onTick pulse, pkg := finish q }
    ∧ TickShown (s.clock.onTick pulse) { begun s with now := (s.clock.onTick pulse).ns } q :=
  ⟨_, by rw [exec_rackTick, execRackTick, onClockF_powered _ s hp]; rfl, ticked_shown _ _⟩

theorem refSyncFrame_agrees {tick : DWord} (hrunning : s.clock.running = true) (hadopted : s.clock.adopted = true) (hheld : rd s.pkg Ix.pwRefState 0 = 0)
    (h : s.clock.tick = tick.toNat + 63 ∨ s.clock.heldFor = some (tick.toNat + 63)) : Completes (.refSyncFrame tick) s (fun q => q = begun s) := by
  refine completes_of_clock hp (exec_refSyncFrame tick s) (q := begun s) ?_ rfl
  rw [if_pos ⟨hrunning, hadopted, hheld⟩, if_pos h]

theorem refSyncFrame_disagrees {tick : DWord} (hrunning : s.clock.running = true) (hadopted : s.clock.adopted = true) (hheld : rd s.pkg Ix.pwRefState 0 = 0)
    (htick : s.clock.tick ≠ tick.toNat + 63) (hwaits : s.clock.heldFor ≠ some (tick.toNat + 63)) :
    Completes (.refSyncFrame tick) s (fun q => q = raisePw (wr (begun s) Ix.pwRefState 0 1) 0x1419 0xFF 0xFFFFFFFF) := by
  refine completes_of_clock hp (exec_refSyncFrame tick s) (q := raisePw (wr (begun s) Ix.pwRefState 0 1) 0x1419 0xFF 0xFFFFFFFF) ?_ rfl
  rw [if_pos ⟨hrunning, hadopted, hheld⟩, if_neg (fun h => h.elim htick hwaits)]

theorem refSyncFrame_adopts {tick : DWord} (h : s.clock.running = false ∨ s.clock.adopted = false ∨ rd s.pkg Ix.pwRefState 0 ≠ 0) :
    CompletesAt (.refSyncFrame tick) s (s.clock.adopt (tick.toNat + 63)) (fun q => q.now = (s.clock.adopt (tick.toNat + 63)).ns ∧ q.pw.tickAdopted = true
      ∧ rd q Ix.pwRefState 0 = 0 ∧ q.bt.waitingFrame = false ∧ (s.pkg.bt.waitingFrame = true → q.bt.phase = 6 ∧ rd q Ix.btStartState 0 = 6)
      ∧ (s.pkg.bt.waitingFrame = false → q.bt = s.pkg.bt) ∧ q.mem = s.pkg.mem) := by
  have hopen : ¬ (s.clock.running = true ∧ s.clock.adopted = true ∧ rd (begun s) Ix.pwRefState 0 = 0) := by
    rintro ⟨hrunning, hadopted, hheld⟩
    rcases h with h | h | h
    · rw [h] at hrunning
      cases hrunning
    · rw [h] at hadopted
      cases hadopted
    · exact h hheld
  have hreference : rd (frameTaken (s.clock.adopt (tick.toNat + 63)) (begun s)) Ix.pwRefState 0 = 0 := rd_wr_self _ _ _ _
  cases hwaits : s.pkg.bt.waitingFrame with
  | true =>
    refine completesAt_of hp (exec_refSyncFrame tick s) (q := enterPhase (frameAwaited (frameTaken (s.clock.adopt (tick.toNat + 63)) (begun s))) 6) ?_ ?_
    · rw [if_neg hopen]
      exact if_pos hwaits
    · obtain ⟨hbt, hstate, hmem, hnow, hpw, href⟩ := enterPhase_shows (frameAwaited (frameTaken (s.clock.adopt (tick.toNat + 63)) (begun s))) (n := 6) (by decide)
      exact ⟨hnow, (congrArg Pw.tickAdopted hpw :), href.trans hreference, (congrArg Bt.waitingFrame hbt :), fun _ => ⟨(congrArg Bt.phase hbt :), hstate⟩,
        (by simp), hmem⟩
  | false =>
    refine completesAt_of hp (exec_refSyncFrame tick s) (q := frameTaken (s.clock.adopt (tick.toNat + 63)) (begun s)) ?_ ?_
    · rw [if_neg hopen]
      refine if_neg ?_
      rw [show (wr { begun s with now := (s.clock.adopt (tick.toNat + 63)).ns, pw := { (begun s).pw with tickAdopted := true } } Ix.pwRefState 0 0).bt.waitingFrame = false from hwaits]
      exact Bool.false_ne_true
    · exact ⟨rfl, rfl, hreference, hwaits, (by simp), fun _ => rfl, rfl⟩

theorem referenceLost_completes (stopped : Bool) : Completes (.referenceLost stopped) s (fun q => rd q Ix.pwRefState 0 = (if stopped then 2 else 1)
    ∧ q.mem = s.pkg.mem ∧ q.parts = s.pkg.parts ∧ q.bt = s.pkg.bt ∧ q.pw = s.pkg.pw) := by
  refine completes_of hp (exec_referenceLost stopped s) ⟨?_, raisePw_mem _ _ _ _, raisePw_parts _ _ _ _, raisePw_bt _ _ _ _, raisePw_pw _ _ _ _⟩
  rw [raisePw_rd _ _ _ _ (by decide) (by decide) (by decide), rd_wr_self]
  cases stopped <;> rfl

theorem refFrameWaitExpiry_completes (hwaits : s.pkg.bt.waitingFrame = true) : CompletesAt .refFrameWaitExpiry s { s.clock with running := true } (fun q => q.bt.phase = 6
    ∧ rd q Ix.btStartState 0 = 6 ∧ q.bt.waitingFrame = false ∧ rd q Ix.pwRefState 0 = 1 ∧ q.mem = s.pkg.mem) := by
  have hkeeps := raisePw_keeps (wr (frameAwaited (begun s)) Ix.pwRefState 0 1) 0x1419 0xFF 0xFFFFFFFF
  have hreference := (raisePw_rd (wr (frameAwaited (begun s)) Ix.pwRefState 0 1) 0x1419 0xFF 0xFFFFFFFF (e := Ix.pwRefState) (sub := 0) (by decide) (by decide) (by decide)).trans
    (rd_wr_self _ _ _ _)
  refine completesAt_of hp (exec_refFrameWaitExpiry s) (q := enterPhase (raisePw (wr (frameAwaited (begun s)) Ix.pwRefState 0 1) 0x1419 0xFF 0xFFFFFFFF) 6) ?_ ?_
  · rw [if_neg (by rw [show (begun s).bt.waitingFrame = true from hwaits]; decide)]
    refine congrArg (·, _) ?_
    split
    · rename_i hrunning
      rw [← hrunning]
    · rfl
  · obtain ⟨hbt, hstate, hmem, hnow, hpw, href⟩ := enterPhase_shows (raisePw (wr (frameAwaited (begun s)) Ix.pwRefState 0 1) 0x1419 0xFF 0xFFFFFFFF) (n := 6) (by decide)
    refine ⟨(congrArg Bt.phase hbt :), hstate, ?_, href.trans hreference, hmem.trans hkeeps.mem⟩
    rw [hbt]
    exact (congrArg Bt.waitingFrame hkeeps.bt :)

end

/-- Settles O58, by the frame of each part of a rack tick, and by the cases of a frame: locked and agreeing, locked and not, and not held. -/
theorem rackTimeCompletes : Obligations.RackTimeCompletes := by
  unfold Obligations.RackTimeCompletes
  intro s hp
  refine ⟨fun pulse => ?tick, fun hrunning hheld pulse => ?count, fun tick => ⟨fun hrunning hadopted hheld => ⟨refSyncFrame_agrees hp hrunning hadopted hheld,
    refSyncFrame_disagrees hp hrunning hadopted hheld⟩, refSyncFrame_adopts hp⟩, referenceLost_completes hp, refFrameWaitExpiry_completes hp, fun hwaits => ?settled⟩
  case tick =>
    obtain ⟨q, hx, h⟩ := rackTick_completes hp pulse
    exact ⟨q, hx, h.now, h.mem, h.capNone, h.keyNone, h.cap, h.capStays, h.key, h.millisecond, h.second, h.reference⟩
  case count => simp [Clock.onTick, hrunning, hheld, Clock.ns]
  case settled =>
    refine completes_of_clock hp (exec_refFrameWaitExpiry s) (q := begun s) ?_ rfl
    rw [if_pos (by rw [show (begun s).bt.waitingFrame = false from hwaits]; rfl)]

end Sys2Proof.Machine
end

section
/-! Caps, supply sags and power pauses (O60). -/

namespace Sys2Proof.Machine

/-- A partition's bit that is cleared is clear (R497). -/
theorem bit_clearPowerBit (p : Pkg) (pp : Nat) : bit (rd (clearPowerBit p pp) Ix.pwPowerPaused 0) pp = false := by
  unfold clearPowerBit
  split
  · rename_i hset
    rw [rd_wr_self]
    have hle : 2 ^ pp ≤ rd p Ix.pwPowerPaused 0 := Nat.ge_two_pow_of_testBit hset
    have hset : (2 ^ pp + (rd p Ix.pwPowerPaused 0 - 2 ^ pp)).testBit pp = true := by rw [Nat.add_sub_cancel' hle]; exact hset
    rw [Nat.testBit_two_pow_add_eq] at hset
    rw [bit, Nat.testBit_mod_two_pow, Bool.and_eq_false_iff]
    exact .inr (by simpa using hset)
  · exact Bool.eq_false_of_not_eq_true ‹_›

section
variable (p : Pkg) (pp : Nat)

theorem rdB_clearPowerBit {e : Entry} (he : e.index ≠ Ix.pwPowerPaused.index) (hpp : pp < 256) : rdB (clearPowerBit p pp) e pp = rdB p e pp := by
  rcases clearPowerBit_cases p pp with h | h <;> rw [h]
  exact rdB_wr_ne _ _ he hpp (by omega)

theorem isRack_powerFreed (hpp : pp < 12) : isRack (powerFreed p pp) pp = isRack p pp := by
  have hrecord : rdB (powerFreed p pp) Ix.pcRackPartition pp = rdB p Ix.pcRackPartition pp := rdB_clearPowerBit p pp (by decide) (by omega)
  rw [isRack, hrecord, isRack]

theorem leadOf_powerFreed (hpp : pp < 12) : leadOf (powerFreed p pp) pp = leadOf p pp := by
  have hlead : rd (powerFreed p pp) Ix.scLeadPackage pp = rd p Ix.scLeadPackage pp := (clearPowerBit_only p pp).entry _ _ (by decide) (by omega)
  have hown : ownId (powerFreed p pp) = ownId p := (clearPowerBit_only p pp).entry _ _ (by decide) (by omega)
  rw [leadOf, isRack_powerFreed p pp hpp, hlead, hown, leadOf]

theorem isLead_powerFreed (hpp : pp < 12) : isLead (powerFreed p pp) pp = isLead p pp := by
  have hown : ownId (powerFreed p pp) = ownId p := (clearPowerBit_only p pp).entry _ _ (by decide) (by omega)
  rw [isLead, leadOf_powerFreed p pp hpp, hown, isLead]

theorem powerFreed_pw : (powerFreed p pp).pw = p.pw := by
  rcases clearPowerBit_cases p pp with h | h <;> rw [powerFreed, h] <;> rfl

theorem powerFreed_mem : (powerFreed p pp).mem = p.mem := (clearPowerBit_only p pp).mem

theorem bit_powerFreed : bit (rd (powerFreed p pp) Ix.pwPowerPaused 0) pp = false := bit_clearPowerBit p pp

end

theorem nextToResume_of_dict {p q : Pkg} (h : p.dict = q.dict) : nextToResume p = nextToResume q := by
  unfold nextToResume
  simp only [rd_of_dict h]

/-- A partition that resumes for power, noted with the time of its resume (R497). -/
def resumeBegun (p : Pkg) (pp : Nat) : Pkg := powerFreed { p with pw := { p.pw with lastResumeNs := p.now, everResumed := true } } pp

/-- A partition that does not resume here stays paused for power while it is in state 3 (R497). -/
def pausedStill (p : Pkg) (pp : Nat) : Pkg := modPc p pp (fun q => { q with powerPaused := pcState p pp == 3 })

/-- A partition's resume, here or through its lead (R497). -/
def resumed (p : Pkg) (pp : Nat) : Pkg :=
  if isRack p pp && !isLead p pp then pausedStill (emit p (.pauseRequest (leadOf p pp) pp true)) pp
  else if pcState p pp = 3 ∧ (part p pp).pc.pauseRequests = [] then pcResume p pp else pausedStill p pp

section
variable {p : Pkg} {pp : Nat}

theorem resumed_through (hrack : isRack p pp = true) (hlead : isLead p pp = false) :
    resumed p pp = pausedStill (emit p (.pauseRequest (leadOf p pp) pp true)) pp := if_pos (by rw [hrack, hlead]; rfl)

theorem resumed_here (hlead : isRack p pp = false ∨ isLead p pp = true) (hstate : pcState p pp = 3) (hrequests : (part p pp).pc.pauseRequests = []) :
    resumed p pp = pcResume p pp := by
  rw [resumed, if_neg (by rcases hlead with h | h <;> simp [h]), if_pos ⟨hstate, hrequests⟩]

theorem resumed_cases (p : Pkg) (pp : Nat) : resumed p pp = pausedStill (emit p (.pauseRequest (leadOf p pp) pp true)) pp
    ∨ (pcState p pp = 3 ∧ resumed p pp = pcResume p pp) ∨ resumed p pp = pausedStill p pp := by
  unfold resumed
  split
  · exact .inl rfl
  · split
    · rename_i h
      exact .inr (.inl ⟨h.1, rfl⟩)
    · exact .inr (.inr rfl)

/-- A resumed partition's bit is clear, and what the power controller holds and memory are as they were. -/
theorem resumed_shows (hpp : pp < 12) (hclear : bit (rd p Ix.pwPowerPaused 0) pp = false) : (resumed p pp).pw = p.pw ∧ (resumed p pp).mem = p.mem
    ∧ bit (rd (resumed p pp) Ix.pwPowerPaused 0) pp = false := by
  rcases resumed_cases p pp with h | ⟨hstate, h⟩ | h
  · rw [h]
    exact ⟨rfl, rfl, hclear⟩
  · rw [h, pcResume_paused hpp hstate]
    refine ⟨powerFreed_pw p pp, powerFreed_mem p pp, ?_⟩
    rw [setPcState, rd_wr_ne _ _ (by decide) (by omega) (by omega)]
    exact bit_powerFreed p pp
  · rw [h]
    exact ⟨rfl, rfl, hclear⟩

end

section
variable {s : State} (hp : powered s.pkg = true)
include hp

theorem rackCapWrite_refused {watts : Word} (h : watts.toNat < 800) : Completes (.rackCapWrite watts) s (fun q => rd q Ix.pwLastStatus 0 = 0x1401
    ∧ q.pw = s.pkg.pw ∧ rd q Ix.pwRackCapW 0 = rd s.pkg Ix.pwRackCapW 0 ∧ q.out = s.pkg.out ++ [.answer 0x7006 0 6 0x1401 false]) := by
  refine completes_of hp (exec_rackCapWrite watts s) ?_
  rw [acceptCap, if_pos h]
  exact ⟨rd_last_self _ _ _ _, rfl, rd_last_ne _ _ (by decide) (by decide) (by decide), rfl⟩

theorem rackCapWrite_waits {watts : Word} (h : 800 ≤ watts.toNat) : Completes (.rackCapWrite watts) s (fun q =>
    q.pw = { s.pkg.pw with capPending := some (min watts.toNat 2800, s.pkg.pw.capPending.bind (fun c => c.2.1), 0) } ∧ q.dict = s.pkg.dict
    ∧ q.mem = s.pkg.mem ∧ q.out = s.pkg.out ++ [.answer 0x7006 0 0 0 false]) := by
  refine completes_of hp (exec_rackCapWrite watts s) ?_
  rw [acceptCap, if_neg (Nat.not_lt.2 h)]
  exact ⟨rfl, rfl, rfl, rfl⟩

/-- The package whose cap's hold has lapsed (R494). -/
theorem capExpired_lapses (hhold : rd s.pkg Ix.pwCapHoldMs 0 ≠ 0) (hnone : s.pkg.pw.capPending = none) : Completes .capExpired s (fun q => ∃ p,
    rd p Ix.pwCapHoldMs 0 = 0 ∧ p.mem = s.pkg.mem ∧ p.pw = s.pkg.pw
    ∧ rd p Ix.pwRackCapW 0 = (if rd s.pkg Ix.pwCapFallbackW 0 = 0 then rd s.pkg Ix.pwRackCapW 0 else rd s.pkg Ix.pwCapFallbackW 0 % 2 ^ 32) ∧ q = evaluateCap p) := by
  refine completes_of hp (exec_capExpired s) ?_
  rw [if_neg (show ¬(rd (begun s) Ix.pwCapHoldMs 0 = 0 ∨ (begun s).pw.capPending.isSome = true) by
    rintro (h | h)
    · exact hhold h
    · rw [show (begun s).pw.capPending = none from hnone] at h
      cases h)]
  have hkept : ∀ e : Entry, 0x6000 ≤ e.index → e.index ≠ Ix.pwLastStatus.index → e.index ≠ Ix.pwCapHoldMs.index →
      rd (raisePw (wr (begun s) Ix.pwCapHoldMs 0 0) 0x1418 0xFF 0xFFFFFFFF) e 0 = rd s.pkg e 0 := fun e he hlast hhold =>
    (raisePw_rd _ _ _ _ he hlast (by decide)).trans (rd_wr_ne _ _ hhold (by decide) (by decide))
  have hzero : rd (raisePw (wr (begun s) Ix.pwCapHoldMs 0 0) 0x1418 0xFF 0xFFFFFFFF) Ix.pwCapHoldMs 0 = 0 :=
    (raisePw_rd _ _ _ _ (by decide) (by decide) (by decide)).trans (rd_wr_self _ _ _ _)
  have hmem := raisePw_mem (wr (begun s) Ix.pwCapHoldMs 0 0) 0x1418 0xFF 0xFFFFFFFF
  have hpw := raisePw_pw (wr (begun s) Ix.pwCapHoldMs 0 0) 0x1418 0xFF 0xFFFFFFFF
  have hfallback := hkept Ix.pwCapFallbackW (by decide) (by decide) (by decide)
  have hcap := hkept Ix.pwRackCapW (by decide) (by decide) (by decide)
  generalize raisePw (wr (begun s) Ix.pwCapHoldMs 0 0) 0x1418 0xFF 0xFFFFFFFF = q at *
  refine ⟨_, ?_, ?_, ?_, ?_, rfl⟩ <;> rw [hfallback] <;> split
  · exact hzero
  · exact (rd_wr_ne _ _ (by decide) (by decide) (by decide)).trans hzero
  · exact hmem
  · exact hmem
  · exact hpw
  · exact hpw
  · exact hcap
  · exact rd_wr_self _ _ _ _

theorem capExpired_stays (h : rd s.pkg Ix.pwCapHoldMs 0 = 0 ∨ s.pkg.pw.capPending ≠ none) : Completes .capExpired s (fun q => q = begun s) := by
  refine completes_of hp (exec_capExpired s) (if_pos ?_)
  exact h.imp id (fun h => Option.isSome_iff_ne_none.2 h)

theorem sagWarning_clamps (hsag : s.pkg.pw.sagActive = false) : Completes .sagWarning s (fun q => q.pw.sagActive = true ∧ q.pins.alert = true ∧ q.pw.clampActive = true
    ∧ q.pw.clampLimitW = (if s.pkg.pw.clampActive then min (rd s.pkg Ix.pwSagPowerW 0) s.pkg.pw.clampLimitW else rd s.pkg Ix.pwSagPowerW 0)
    ∧ q.pw.referenceW = rd s.pkg Ix.pwInputPowerW 0 ∧ q.mem = s.pkg.mem ∧ q.parts = s.pkg.parts) := by
  refine completes_of hp (exec_sagWarning s) ?_
  rw [if_neg (show ¬ (begun s).pw.sagActive = true by rw [show (begun s).pw.sagActive = false from hsag]; decide), raisePw_pw, raisePw_pins, raisePw_mem, raisePw_parts]
  exact ⟨rfl, rfl, rfl, rfl, rfl, rfl, rfl⟩

theorem sagCleared_ends (hsag : s.pkg.pw.sagActive = true) : Completes .sagCleared s (fun q => q.pw.sagActive = false
    ∧ q.pins.alert = s.pkg.pw.thermal.any (fun e => e.2 != 0) ∧ q.pw.clampActive = s.pkg.pw.clampActive ∧ q.mem = s.pkg.mem ∧ q.parts = s.pkg.parts) := by
  refine completes_of hp (exec_sagCleared s) ?_
  rw [if_neg (show ¬ (!(begun s).pw.sagActive) = true by rw [show (begun s).pw.sagActive = true from hsag]; decide), raisePw_pw, raisePw_pins, raisePw_mem, raisePw_parts]
  exact ⟨rfl, rfl, rfl, rfl, rfl⟩

end

/-- A partition's requests to pause, with those of a package left out (R496). -/
def requestsWithout (p : Pkg) (pp package : Nat) : List Nat := (part p pp).pc.pauseRequests.filter (· != package)

/-- The package whose lead no longer holds a package's request (R497). -/
def requestWithdrawn (p : Pkg) (pp package : Nat) : Pkg := modPc p pp (fun q => { q with pauseRequests := requestsWithout p pp package })

theorem requestWithdrawn_pc (p : Pkg) (pp package : Nat) :
    (part (requestWithdrawn p pp package) pp).pc = { (part p pp).pc with pauseRequests := requestsWithout p pp package } := part_modPc _ _ _ ▸ rfl

section
variable {s : State} (hp : powered s.pkg = true) (pp : Fin 12) (package : Nat)
include hp

theorem pauseRequest_held : Completes (.pauseRequest pp package false) s (fun q =>
    (part q pp).pc.pauseRequests = (part s.pkg pp).pc.pauseRequests.filter (· != package) ++ [package] ∧ q.dict = s.pkg.dict ∧ q.mem = s.pkg.mem) := by
  refine completes_of hp (exec_pauseRequest pp package false s) ?_
  rw [if_pos (by decide), part_modPc]
  exact ⟨rfl, rfl, rfl⟩

/-- A request withdrawn is held no more; with the last, a partition paused for power resumes where it is not this package that pauses it (R497). -/
theorem pauseRequest_withdrawn : Completes (.pauseRequest pp package true) s (fun q =>
    (part q pp).pc.pauseRequests = (part s.pkg pp).pc.pauseRequests.filter (· != package) ∧ q.mem = s.pkg.mem
    ∧ ((part s.pkg pp).pc.pauseRequests.filter (· != package) = [] → pcState s.pkg pp = 3 → (part s.pkg pp).pc.powerPaused = true →
        bit (rd s.pkg Ix.pwPowerPaused 0) pp = false → pcState q pp = 2)) := by
  refine completes_of hp (exec_pauseRequest pp package true s) ?_
  rw [if_neg (by decide)]
  have hpc := requestWithdrawn_pc (begun s) pp package
  dsimp only
  split
  · rename_i hresumes
    simp only [Bool.and_eq_true, beq_iff_eq] at hresumes
    obtain ⟨⟨⟨-, hstate⟩, -⟩, -⟩ := hresumes
    have hfreed := pcResume_paused (p := modPc (requestWithdrawn (begun s) pp package) pp (fun q => { q with powerPaused := false })) pp.isLt hstate
    refine ⟨?_, ?_, fun _ _ _ _ => ?_⟩
    · refine (congrArg (fun q => (part q pp).pc.pauseRequests) hfreed).trans ?_
      rw [setPcState, part_wr, powerFreed_pc, part_modPc, hpc]
      rfl
    · exact (congrArg Pkg.mem hfreed).trans (powerFreed_mem _ _)
    · exact (congrArg (fun q => pcState q pp) hfreed).trans (pcState_setPcState _ _ _)
  · rename_i hstays
    refine ⟨congrArg PcPart.pauseRequests hpc, rfl, fun hnone hstate hpaused hbit => absurd ?_ hstays⟩
    have hnone : requestsWithout (begun s) pp package = [] := hnone
    have hpaused : (part (requestWithdrawn (begun s) pp package) pp).pc.powerPaused = true := by rw [hpc]; exact hpaused
    have hstate : pcState (requestWithdrawn (begun s) pp package) pp = 3 := hstate
    have hbit : bit (rd (requestWithdrawn (begun s) pp package) Ix.pwPowerPaused 0) pp = false := hbit
    show ((requestsWithout (begun s) pp package).isEmpty && pcState (requestWithdrawn (begun s) pp package) pp == 3
      && (part (requestWithdrawn (begun s) pp package) pp).pc.powerPaused && !bit (rd (requestWithdrawn (begun s) pp package) Ix.pwPowerPaused 0) pp) = true
    rw [hnone, hpaused, hstate, hbit]
    rfl

end

section
variable {s : State} (hp : powered s.pkg = true) {pp : Nat}
include hp

theorem powerResume_resumes (hnext : nextToResume s.pkg = some pp) (hpace : s.pkg.pw.everResumed = false ∨ s.pkg.pw.lastResumeNs + 100000000 ≤ s.clock.ns)
    (hfits : 100 * (rd s.pkg Ix.pwInputPowerW 0 + tget s.pkg.pw.clampedW pp 0) ≤ 95 * rd s.pkg Ix.pwRackCapW 0) :
    Completes .powerResume s (fun q => q = raisePw (resumed (resumeBegun (begun s) pp) pp) 0x1415 pp 0xFFFFFFFF) := by
  refine completes_of hp (exec_powerResume s) ?_
  rw [show nextToResume (begun s) = some pp from (nextToResume_of_dict rfl).trans hnext]
  dsimp only
  rw [if_neg (show ¬ ((begun s).pw.everResumed && decide ((begun s).now < (begun s).pw.lastResumeNs + 100000000)) = true by
    rw [Bool.and_eq_true, decide_eq_true_eq]
    rintro ⟨hever, hearly⟩
    rcases hpace with h | h
    · exact absurd (hever.symm.trans h) (by decide)
    · exact absurd hearly (Nat.not_lt.2 h)), if_pos (show 100 * (rd (begun s) Ix.pwInputPowerW 0 + tget (begun s).pw.clampedW pp 0)
      ≤ 95 * rd (begun s) Ix.pwRackCapW 0 from hfits)]
  rfl

theorem powerResume_exceeds (hnext : nextToResume s.pkg = some pp)
    (hover : 95 * rd s.pkg Ix.pwRackCapW 0 < 100 * (rd s.pkg Ix.pwInputPowerW 0 + tget s.pkg.pw.clampedW pp 0)) :
    Completes .powerResume s (fun q => q = begun s) := by
  refine completes_of hp (exec_powerResume s) ?_
  rw [show nextToResume (begun s) = some pp from (nextToResume_of_dict rfl).trans hnext]
  dsimp only
  split
  · rfl
  · exact if_neg (Nat.not_le.2 hover)

theorem powerResume_waits (h : nextToResume s.pkg = none ∨ (s.pkg.pw.everResumed = true ∧ s.clock.ns < s.pkg.pw.lastResumeNs + 100000000)) :
    Completes .powerResume s (fun q => q = begun s) := by
  refine completes_of hp (exec_powerResume s) ?_
  rw [nextToResume_of_dict (p := begun s) (q := s.pkg) rfl]
  split
  · rfl
  · rename_i hsome
    rcases h with h | ⟨hever, hearly⟩
    · rw [h] at hsome
      cases hsome
    · exact if_pos (show (s.pkg.pw.everResumed && decide (s.clock.ns < s.pkg.pw.lastResumeNs + 100000000)) = true by rw [hever, decide_eq_true hearly]; rfl)

end

/-- What the package shows once a partition has resumed for power (R497). -/
theorem powerResume_completes {s : State} (hp : powered s.pkg = true) {pp : Nat} (hnext : nextToResume s.pkg = some pp)
    (hpace : s.pkg.pw.everResumed = false ∨ s.pkg.pw.lastResumeNs + 100000000 ≤ s.clock.ns)
    (hfits : 100 * (rd s.pkg Ix.pwInputPowerW 0 + tget s.pkg.pw.clampedW pp 0) ≤ 95 * rd s.pkg Ix.pwRackCapW 0) :
    Completes .powerResume s (fun q => q.pw.everResumed = true ∧ q.pw.lastResumeNs = s.clock.ns ∧ bit (rd q Ix.pwPowerPaused 0) pp = false ∧ q.mem = s.pkg.mem
      ∧ (isRack s.pkg pp = false ∨ isLead s.pkg pp = true → pcState s.pkg pp = 3 → (part s.pkg pp).pc.pauseRequests = [] → pcState q pp = 2)
      ∧ (isRack s.pkg pp = true → isLead s.pkg pp = false → Out.pauseRequest (leadOf s.pkg pp) pp true ∈ q.out)) := by
  refine (powerResume_resumes hp hnext hpace hfits).mono fun q hq => ?_
  subst hq
  have hpp := nextToResume_lt hnext
  obtain ⟨hpw, hmem, hclear⟩ := resumed_shows (p := resumeBegun (begun s) pp) hpp (bit_powerFreed _ pp)
  have hrack : isRack (resumeBegun (begun s) pp) pp = isRack s.pkg pp := isRack_powerFreed _ pp hpp
  have hlead : isLead (resumeBegun (begun s) pp) pp = isLead s.pkg pp := isLead_powerFreed _ pp hpp
  have hpackage : leadOf (resumeBegun (begun s) pp) pp = leadOf s.pkg pp := leadOf_powerFreed _ pp hpp
  have hstate : pcState (resumeBegun (begun s) pp) pp = pcState s.pkg pp := pcState_powerFreed _ hpp
  have hrequests : (part (resumeBegun (begun s) pp) pp).pc.pauseRequests = (part s.pkg pp).pc.pauseRequests :=
    (congrArg PcPart.pauseRequests (powerFreed_pc _ pp) :)
  have hbegun : (resumeBegun (begun s) pp).pw = { s.pkg.pw with lastResumeNs := s.clock.ns, everResumed := true } := powerFreed_pw _ pp
  have hbefore : (resumeBegun (begun s) pp).mem = s.pkg.mem := powerFreed_mem _ pp
  generalize resumeBegun (begun s) pp = p at *
  refine ⟨?_, ?_, ?_, ?_, fun hhere hpaused hnone => ?_, fun hother haway => ?_⟩
  · rw [raisePw_pw, hpw, hbegun]
  · rw [raisePw_pw, hpw, hbegun]
  · rw [raisePw_rd _ _ _ _ (by decide) (by decide) (by decide)]
    exact hclear
  · rw [raisePw_mem, hmem, hbefore]
  · rw [resumed_here (p := p) (hhere.imp hrack.trans hlead.trans) (hstate.trans hpaused) (hrequests.trans hnone), pcResume_paused hpp (hstate.trans hpaused)]
    exact (raisePw_rd _ _ _ _ (by decide) (by decide) (by omega)).trans (pcState_setPcState _ _ _)
  · rw [resumed_through (p := p) (hrack.trans hother) (hlead.trans haway), hpackage]
    exact (raiseAs_keepsOut _ _ _ _ _ _ _).sub (List.mem_append_right _ (List.mem_singleton.2 rfl))

theorem drawing_length (p : Pkg) : (drawing p).length ≤ 12 := (List.length_filter_le _ _).trans List.length_range.le

theorem choosePauses_clamp (fuel : Nat) (p : Pkg) : (choosePauses fuel p).pw.clampActive = p.pw.clampActive
    ∧ (choosePauses fuel p).pw.clampLimitW = p.pw.clampLimitW := by
  have hrest := choosePauses_rest fuel p
  exact ⟨(congrArg (fun p => p.pw.clampActive) hrest :), (congrArg (fun p => p.pw.clampLimitW) hrest :)⟩

/-- What the cap's clamp and its choice of partitions show when the draw is above the cap (R495, R496, R501). -/
theorem evaluateCap_over {p : Pkg} (hover : rd p Ix.pwRackCapW 0 < rd p Ix.pwInputPowerW 0) : (evaluateCap p).pw.clampActive = true
    ∧ (evaluateCap p).pw.clampLimitW = capLimit p
    ∧ (7 * capReference p ≤ 10 * rd p Ix.pwRackCapW 0 → rd (evaluateCap p) Ix.pwCapState 0 = 1 ∧ (evaluateCap p).parts = p.parts)
    ∧ (10 * rd p Ix.pwRackCapW 0 < 7 * capReference p → rd (evaluateCap p) Ix.pwCapState 0 = 2
      ∧ (predictedTenths (evaluateCap p) ≤ 10 * rd p Ix.pwRackCapW 0 ∨ ∀ pp < 12, drawsPower (evaluateCap p) pp = false)) := by
  rcases Nat.lt_or_ge (10 * rd p Ix.pwRackCapW 0) (7 * capReference p) with hpause | hclamp
  · rw [evaluateCap_pauses hover hpause]
    obtain ⟨hstate, hcap, hpw⟩ := capExceeded_shows (p := p)
    obtain ⟨hactive, hlimit⟩ := choosePauses_clamp 12 (capExceeded p)
    have hclamped : (capExceeded p).pw.clampActive = true ∧ (capExceeded p).pw.clampLimitW = capLimit p := by
      rw [hpw]
      exact ⟨rfl, rfl⟩
    refine ⟨hactive.trans hclamped.1, hlimit.trans hclamped.2, fun h => by omega, fun _ => ⟨?_, ?_⟩⟩
    · rw [rd_of_dict (choosePauses_dict 12 _)]
      exact hstate
    · have hmeets := choosePauses_meets (drawing_length (capExceeded p))
      rw [hcap] at hmeets
      exact hmeets
  · rw [evaluateCap_clamps hover hclamp]
    exact ⟨rfl, rfl, fun _ => ⟨rd_wr_self _ _ _ _, rfl⟩, fun h => by omega⟩

/-- Settles O60, by the lemmas above for each command, and for the cap by the cases of the draw and of its prediction. That the cap's state goes back to 0 at
the first sample not above it, and that a resume is judged on one sample, are the model's choices. -/
theorem capsHeld : Obligations.CapsHeld := by
  unfold Obligations.CapsHeld
  intro s hp
  refine ⟨fun watts => ⟨rackCapWrite_refused hp, rackCapWrite_waits hp⟩, capExpired_lapses hp, capExpired_stays hp, fun p => capState_met, fun p => evaluateCap_over,
    sagWarning_clamps hp, fun hsag => ?sagOn, sagCleared_ends hp, fun hsag => ?sagOff, fun pp package => ⟨pauseRequest_held hp pp package, pauseRequest_withdrawn hp pp package⟩,
    fun pp => powerResume_completes hp, fun pp => powerResume_exceeds hp, powerResume_waits hp⟩
  case sagOn => exact completes_of hp (exec_sagWarning s) (if_pos hsag)
  case sagOff =>
    refine completes_of hp (exec_sagCleared s) (if_pos ?_)
    rw [show (begun s).pw.sagActive = false from hsag]
    rfl

end Sys2Proof.Machine
end

section
/-! Monitors, regulation, droop and heat (O59). -/

namespace Sys2Proof.Machine

/-- What holds before a fold over a range and is carried on by each of its steps holds after it. -/
theorem foldl_range_rec {P : Nat → Pkg → Prop} {f : Pkg → Nat → Pkg} {p : Pkg} (n : Nat) (h0 : P 0 p) (hstep : ∀ i < n, ∀ q, P i q → P (i + 1) (f q i)) :
    P n ((List.range n).foldl f p) := by
  induction n with
  | zero => exact h0
  | succ n ih =>
    rw [List.range_succ, List.foldl_append, List.foldl_cons, List.foldl_nil]
    exact hstep n (Nat.lt_succ_self n) _ (ih fun i hi => hstep i (Nat.lt_succ_of_lt hi))

/-- What the power controller's own changes leave: all but the dictionary and what the controller holds. -/
def PowerOnly (p q : Pkg) : Prop := { q with dict := p.dict, pw := p.pw } = p

section
variable {p q r : Pkg}

theorem PowerOnly.trans (h : PowerOnly p q) (g : PowerOnly q r) : PowerOnly p r := by
  unfold PowerOnly at *
  rw [← h, ← g]

theorem PowerOnly.mem (h : PowerOnly p q) : q.mem = p.mem := (congrArg Pkg.mem h :)
theorem PowerOnly.parts (h : PowerOnly p q) : q.parts = p.parts := (congrArg Pkg.parts h :)
theorem PowerOnly.now (h : PowerOnly p q) : q.now = p.now := (congrArg Pkg.now h :)
theorem PowerOnly.pins (h : PowerOnly p q) : q.pins = p.pins := (congrArg Pkg.pins h :)

end

/-! A sample of the monitors (R490). -/

/-- Entries that the readings of a region fill. -/
def regionEntries : List Nat := [Ix.pwRegionTemp.index, Ix.pwRegionVoltage.index, Ix.pwRegionProcess.index, Ix.pwRegionPowerW.index]

/-- What sampling region `r` leaves: all but its own readings and its thermal answer. -/
structure RegionOnly (r : Nat) (p q : Pkg) : Prop where
  rest : PowerOnly p q
  pw : { q.pw with thermal := p.pw.thermal } = p.pw
  thermal : ∀ k, k ≠ r → tget q.pw.thermal k 0 = tget p.pw.thermal k 0
  vals : ∀ (e : Entry) (sub : Nat), sub < 256 → e.index ∉ regionEntries ∨ sub ≠ r → tfind q.dict.vals (keyAt e 0 sub) = tfind p.dict.vals (keyAt e 0 sub)

theorem rd_of_val {p q : Pkg} {e : Entry} {sub : Nat} (h : tfind q.dict.vals (keyAt e 0 sub) = tfind p.dict.vals (keyAt e 0 sub)) : rd q e sub = rd p e sub := by
  rw [rd, rdAt, h, rd, rdAt]

theorem rdB_of_val {p q : Pkg} {e : Entry} {sub : Nat} (h : tfind q.dict.vals (keyAt e 0 sub) = tfind p.dict.vals (keyAt e 0 sub)) : rdB q e sub = rdB p e sub := by
  rw [rdB, h, rdB]

section
variable {r : Nat} {p q t : Pkg}

theorem RegionOnly.rfl : RegionOnly r p p := ⟨Eq.refl _, Eq.refl _, fun _ _ => Eq.refl _, fun _ _ _ _ => Eq.refl _⟩

theorem RegionOnly.trans (h : RegionOnly r p q) (g : RegionOnly r q t) : RegionOnly r p t where
  rest := h.rest.trans g.rest
  pw := by rw [← h.pw, ← g.pw]
  thermal k hk := (g.thermal k hk).trans (h.thermal k hk)
  vals e sub hs hne := (g.vals e sub hs hne).trans (h.vals e sub hs hne)

theorem regionKey_ne {e e' : Entry} {sub r : Nat} (hs : sub < 256) (hr : r < 256) (he' : e'.index ∈ regionEntries) (h : e.index ∉ regionEntries ∨ sub ≠ r) :
    keyAt e 0 sub ≠ keyAt e' 0 r := by
  rcases h with h | h
  · exact keyAt_ne (fun heq => h (heq ▸ he')) hs hr
  · simp only [keyAt]
    omega

theorem wr_regionOnly (p : Pkg) {e : Entry} (v : Nat) (hr : r < 256) (he : e.index ∈ regionEntries) : RegionOnly r p (wr p e r v) :=
  ⟨Eq.refl _, Eq.refl _, fun _ _ => Eq.refl _, fun _ _ hs hne => tfind_tput_ne _ _ (regionKey_ne hs hr he hne)⟩

theorem wrB_regionOnly (p : Pkg) {e : Entry} (b : Bytes) (hr : r < 256) (he : e.index ∈ regionEntries) : RegionOnly r p (wrB p e r b) := by
  unfold wrB
  split
  · exact RegionOnly.rfl
  · exact ⟨Eq.refl _, Eq.refl _, fun _ _ => Eq.refl _, fun _ _ hs hne => tfind_tput_ne _ _ (regionKey_ne hs hr he hne)⟩

theorem coolIsland_regionOnly (p : Pkg) (r : Nat) (t : List Int) : RegionOnly r p (coolIsland p r t) := by
  unfold coolIsland
  split
  · exact ⟨Eq.refl _, Eq.refl _, fun _ hk => tget_tput_ne _ _ _ hk, fun _ _ _ _ => Eq.refl _⟩
  · exact RegionOnly.rfl

theorem coolIsland_dict (p : Pkg) (i : Nat) (t : List Int) : (coolIsland p i t).dict = p.dict := by
  unfold coolIsland
  split <;> rfl

theorem coolIsland_thermal (p : Pkg) (i : Nat) (t : List Int) :
    tget (coolIsland p i t).pw.thermal i 0 = (if hottest t < 94 * 16 then 0 else tget p.pw.thermal i 0) := by
  unfold coolIsland
  split
  · exact tget_tput_self _ _ _ _
  · rfl

end

/-! The four readings of a region, one after another (R490). -/

def sampleTemps (m : MonitorReadings) (p : Pkg) (r : Nat) : Pkg :=
  match m.temps[r]? with
  | none => p
  | some t => coolIsland (wrB p Ix.pwRegionTemp r (t.flatMap i16Bytes)) r t

def sampleVolts (m : MonitorReadings) (p : Pkg) (r : Nat) : Pkg :=
  match m.volts[r]? with
  | none => p
  | some v => wrB p Ix.pwRegionVoltage r (leBytes 2 v.1 ++ leBytes 2 v.2)

def sampleProcess (m : MonitorReadings) (p : Pkg) (r : Nat) : Pkg :=
  match m.process[r]? with
  | none => p
  | some v => wr p Ix.pwRegionProcess r (v % 4294967296).toNat

def samplePower (m : MonitorReadings) (p : Pkg) (r : Nat) : Pkg :=
  match m.powerW[r]? with
  | none => p
  | some w => wr p Ix.pwRegionPowerW r w

theorem sampleRegion_eq (m : MonitorReadings) (p : Pkg) (r : Nat) :
    sampleRegion m p r = samplePower m (sampleProcess m (sampleVolts m (sampleTemps m p r) r) r) r := rfl

/-- A region's readings on show, and its thermal answer, which was `n` before (R490, R499). -/
structure RegionShown (m : MonitorReadings) (r n : Nat) (q : Pkg) : Prop where
  power : ∀ w, m.powerW[r]? = some w → rd q Ix.pwRegionPowerW r = w % 2 ^ 32
  volts : ∀ v, m.volts[r]? = some v → rdB q Ix.pwRegionVoltage r = leBytes 2 v.1 ++ leBytes 2 v.2
  temps : ∀ t, m.temps[r]? = some t → rdB q Ix.pwRegionTemp r = t.flatMap i16Bytes ∧ tget q.pw.thermal r 0 = (if hottest t < 94 * 16 then 0 else n)

/-- A region's readings stay on show while its entries and its answer do. -/
theorem RegionShown.of_kept {m : MonitorReadings} {r n : Nat} {p q : Pkg} (h : RegionShown m r n p)
    (hvals : ∀ e : Entry, tfind q.dict.vals (keyAt e 0 r) = tfind p.dict.vals (keyAt e 0 r)) (hthermal : tget q.pw.thermal r 0 = tget p.pw.thermal r 0) :
    RegionShown m r n q where
  power w hw := (rd_of_val (hvals _)).trans (h.power w hw)
  volts v hv := (rdB_of_val (hvals _)).trans (h.volts v hv)
  temps t ht := ⟨(rdB_of_val (hvals _)).trans (h.temps t ht).1, hthermal.trans (h.temps t ht).2⟩

section
variable (m : MonitorReadings) (p : Pkg) {r : Nat} (hr : r < 256)
include hr

theorem sampleTemps_shows : RegionOnly r p (sampleTemps m p r) ∧ ∀ t, m.temps[r]? = some t → rdB (sampleTemps m p r) Ix.pwRegionTemp r = t.flatMap i16Bytes
    ∧ tget (sampleTemps m p r).pw.thermal r 0 = (if hottest t < 94 * 16 then 0 else tget p.pw.thermal r 0) := by
  unfold sampleTemps
  split
  · exact ⟨RegionOnly.rfl, by simp [*]⟩
  · rename_i t ht
    refine ⟨(wrB_regionOnly p _ hr (by decide)).trans (coolIsland_regionOnly _ _ _), fun t' ht' => ?_⟩
    rw [ht] at ht'
    cases ht'
    refine ⟨(rdB_of_dict (coolIsland_dict _ _ _) _ _).trans (rdB_wrB_self _ _ _ _), ?_⟩
    rw [coolIsland_thermal, wrB_pw]

theorem sampleVolts_shows : RegionOnly r p (sampleVolts m p r) ∧ (sampleVolts m p r).pw = p.pw
    ∧ (∀ v, m.volts[r]? = some v → rdB (sampleVolts m p r) Ix.pwRegionVoltage r = leBytes 2 v.1 ++ leBytes 2 v.2)
    ∧ rdB (sampleVolts m p r) Ix.pwRegionTemp r = rdB p Ix.pwRegionTemp r := by
  unfold sampleVolts
  split
  · exact ⟨RegionOnly.rfl, rfl, by simp [*], rfl⟩
  · rename_i v hv
    refine ⟨wrB_regionOnly p _ hr (by decide), wrB_pw _ _ _ _, fun v' hv' => ?_, rdB_wrB_ne _ _ (keyAt_ne (by decide) hr hr)⟩
    rw [hv] at hv'
    cases hv'
    exact rdB_wrB_self _ _ _ _

theorem sampleProcess_shows : RegionOnly r p (sampleProcess m p r) ∧ (sampleProcess m p r).pw = p.pw
    ∧ ∀ e : Entry, e.index ≠ Ix.pwRegionProcess.index → tfind (sampleProcess m p r).dict.vals (keyAt e 0 r) = tfind p.dict.vals (keyAt e 0 r) := by
  unfold sampleProcess
  split
  · exact ⟨RegionOnly.rfl, rfl, fun _ _ => rfl⟩
  · exact ⟨wr_regionOnly p _ hr (by decide), rfl, fun e he => tfind_tput_ne _ _ (keyAt_ne he hr hr)⟩

theorem samplePower_shows : RegionOnly r p (samplePower m p r) ∧ (samplePower m p r).pw = p.pw
    ∧ (∀ w, m.powerW[r]? = some w → rd (samplePower m p r) Ix.pwRegionPowerW r = w % 2 ^ 32)
    ∧ ∀ e : Entry, e.index ≠ Ix.pwRegionPowerW.index → tfind (samplePower m p r).dict.vals (keyAt e 0 r) = tfind p.dict.vals (keyAt e 0 r) := by
  unfold samplePower
  split
  · exact ⟨RegionOnly.rfl, rfl, by simp [*], fun _ _ => rfl⟩
  · rename_i w hw
    refine ⟨wr_regionOnly p _ hr (by decide), rfl, fun w' hw' => ?_, fun e he => tfind_tput_ne _ _ (keyAt_ne he hr hr)⟩
    rw [hw] at hw'
    cases hw'
    exact rd_wr_self _ _ _ _

theorem sampleRegion_shows : RegionOnly r p (sampleRegion m p r) ∧ RegionShown m r (tget p.pw.thermal r 0) (sampleRegion m p r) := by
  rw [sampleRegion_eq]
  obtain ⟨only1, temps⟩ := sampleTemps_shows m p hr
  generalize sampleTemps m p r = p1 at *
  obtain ⟨only2, pw2, volts, temps2⟩ := sampleVolts_shows m p1 hr
  generalize sampleVolts m p1 r = p2 at *
  obtain ⟨only3, pw3, vals3⟩ := sampleProcess_shows m p2 hr
  generalize sampleProcess m p2 r = p3 at *
  obtain ⟨only4, pw4, power, vals4⟩ := samplePower_shows m p3 hr
  refine ⟨((only1.trans only2).trans only3).trans only4, power, fun v hv => ?_, fun t ht => ⟨?_, ?_⟩⟩
  · rw [rdB_of_val (vals4 _ (by decide)), rdB_of_val (vals3 _ (by decide)), volts v hv]
  · rw [rdB_of_val (vals4 _ (by decide)), rdB_of_val (vals3 _ (by decide)), temps2, (temps t ht).1]
  · rw [pw4, pw3, pw2, (temps t ht).2]

end

/-- What sampling the regions below `n` shows and leaves. -/
structure RegionsSampled (m : MonitorReadings) (n : Nat) (p q : Pkg) : Prop where
  rest : PowerOnly p q
  pw : { q.pw with thermal := p.pw.thermal } = p.pw
  thermal : ∀ k, n ≤ k → tget q.pw.thermal k 0 = tget p.pw.thermal k 0
  vals : ∀ (e : Entry) (sub : Nat), sub < 256 → e.index ∉ regionEntries → tfind q.dict.vals (keyAt e 0 sub) = tfind p.dict.vals (keyAt e 0 sub)
  shown : ∀ r < n, RegionShown m r (tget p.pw.thermal r 0) q

theorem regions_sampled (m : MonitorReadings) (p : Pkg) : RegionsSampled m 12 p ((List.range 12).foldl (sampleRegion m) p) := by
  refine foldl_range_rec (P := fun n q => RegionsSampled m n p q) 12 ?_ fun i hi q h => ?_
  · exact ⟨rfl, rfl, fun _ _ => rfl, fun _ _ _ _ => rfl, by simp⟩
  · obtain ⟨only, hshown⟩ := sampleRegion_shows m q (r := i) (by omega)
    refine ⟨h.rest.trans only.rest, by rw [← h.pw, ← only.pw], fun k hk => ?_, fun e sub hs he => ?_, fun r hr => ?_⟩
    · rw [only.thermal k (by omega), h.thermal k (by omega)]
    · rw [only.vals e sub hs (.inl he), h.vals e sub hs he]
    · rcases Nat.lt_succ_iff_lt_or_eq.1 hr with hlt | rfl
      · exact (h.shown r hlt).of_kept (fun e => only.vals e r (by omega) (.inr (by omega))) (only.thermal r (by omega))
      · rw [h.thermal r (Nat.le_refl r)] at hshown
        exact hshown

/-- What sampling the dies leaves: all but the thermal answers of islands 12 and 13. -/
structure DiesSampled (b : Bytes) (n : Nat) (p q : Pkg) : Prop where
  rest : PowerOnly p q
  dict : q.dict = p.dict
  pw : { q.pw with thermal := p.pw.thermal } = p.pw
  thermal : ∀ k < 12, tget q.pw.thermal k 0 = tget p.pw.thermal k 0
  cooled : ∀ x < n, 24 + 18 * (x + 1) ≤ b.length → hottest (dieTemps b x) < 94 * 16 → tget q.pw.thermal (12 + x) 0 = 0

theorem sampleDie_only (b : Bytes) (p : Pkg) (x : Nat) : RegionOnly (12 + x) p (sampleDie b p x) ∧ (sampleDie b p x).dict = p.dict := by
  unfold sampleDie
  split
  · exact ⟨RegionOnly.rfl, rfl⟩
  · exact ⟨coolIsland_regionOnly _ _ _, coolIsland_dict _ _ _⟩

theorem dies_sampled (b : Bytes) (p : Pkg) : DiesSampled b 2 p ((List.range 2).foldl (sampleDie b) p) := by
  refine foldl_range_rec (P := fun n q => DiesSampled b n p q) 2 ?_ fun i hi q h => ?_
  · exact ⟨rfl, rfl, rfl, fun _ _ => rfl, by simp⟩
  · obtain ⟨only, hdict⟩ := sampleDie_only b q i
    refine ⟨h.rest.trans only.rest, hdict.trans h.dict, by rw [← h.pw, ← only.pw], fun k hk => ?_, fun x hx hlen hcool => ?_⟩
    · rw [only.thermal k (by omega), h.thermal k hk]
    · rcases Nat.lt_succ_iff_lt_or_eq.1 hx with hlt | rfl
      · rw [only.thermal _ (by omega)]
        exact h.cooled x hlt hlen hcool
      · rw [sampleDie, if_neg (by omega), coolIsland_thermal, if_pos hcool]

end Sys2Proof.Machine
end

section
/-! Island rates (R492, R499, R501), and the commands of O59. -/

namespace Sys2Proof.Machine

/-- The package once a sample's own readings are on show (R490). -/
def inputShown (m : MonitorReadings) (p : Pkg) : Pkg :=
  wrB (wr (wr (wr (wr { p with pw := { p.pw with monitorsNs := p.now } } Ix.pwInputVoltageMv 0 m.inputMv) Ix.pwInputCurrentMa 0 m.inputMa)
    Ix.pwInputPowerW 0 m.inputW) Ix.pwAveragePowerW 0 m.averageW) Ix.pwDieMonitors 0 m.dieMonitors

theorem inputShown_only (m : MonitorReadings) (p : Pkg) : PowerOnly p (inputShown m p) ∧ (inputShown m p).pw = { p.pw with monitorsNs := p.now } := by
  unfold inputShown wrB
  split <;> exact ⟨rfl, rfl⟩

theorem inputShown_shows (m : MonitorReadings) (p : Pkg) : rd (inputShown m p) Ix.pwInputVoltageMv 0 = m.inputMv % 2 ^ 32
    ∧ rd (inputShown m p) Ix.pwInputCurrentMa 0 = m.inputMa % 2 ^ 32 ∧ rd (inputShown m p) Ix.pwInputPowerW 0 = m.inputW % 2 ^ 32
    ∧ rd (inputShown m p) Ix.pwAveragePowerW 0 = m.averageW % 2 ^ 32 ∧ rdB (inputShown m p) Ix.pwDieMonitors 0 = m.dieMonitors
    ∧ rd (inputShown m p) Ix.pwRackCapW 0 = rd p Ix.pwRackCapW 0 := by
  unfold inputShown
  refine ⟨?_, ?_, ?_, ?_, rdB_wrB_self _ _ _ _, ?_⟩
  · rw [rd_wrB_ne _ _ (by decide), rd_wr_ne _ _ (by decide) (by decide) (by decide), rd_wr_ne _ _ (by decide) (by decide) (by decide),
      rd_wr_ne _ _ (by decide) (by decide) (by decide)]
    exact rd_wr_self _ _ _ _
  · rw [rd_wrB_ne _ _ (by decide), rd_wr_ne _ _ (by decide) (by decide) (by decide), rd_wr_ne _ _ (by decide) (by decide) (by decide)]
    exact rd_wr_self _ _ _ _
  · rw [rd_wrB_ne _ _ (by decide), rd_wr_ne _ _ (by decide) (by decide) (by decide)]
    exact rd_wr_self _ _ _ _
  · rw [rd_wrB_ne _ _ (by decide)]
    exact rd_wr_self _ _ _ _
  · rw [rd_wrB_ne _ _ (by decide), rd_wr_ne _ _ (by decide) (by decide) (by decide), rd_wr_ne _ _ (by decide) (by decide) (by decide),
      rd_wr_ne _ _ (by decide) (by decide) (by decide), rd_wr_ne _ _ (by decide) (by decide) (by decide)]
    rfl

/-- The package once every monitor has been read, before the cap is held against the power (R490). -/
def sampled (m : MonitorReadings) (p : Pkg) : Pkg :=
  wr ((List.range 2).foldl (sampleDie m.dieMonitors) ((List.range 12).foldl (sampleRegion m) (inputShown m p))) Ix.pwCapAchievedW 0 m.inputW

/-- What a sample shows before the thermal reason and ALERT_N follow it. -/
structure Sampled (m : MonitorReadings) (p q : Pkg) : Prop where
  rest : PowerOnly p q
  ns : q.pw.monitorsNs = p.now
  voltage : rd q Ix.pwInputVoltageMv 0 = m.inputMv % 2 ^ 32
  current : rd q Ix.pwInputCurrentMa 0 = m.inputMa % 2 ^ 32
  power : rd q Ix.pwInputPowerW 0 = m.inputW % 2 ^ 32
  average : rd q Ix.pwAveragePowerW 0 = m.averageW % 2 ^ 32
  achieved : rd q Ix.pwCapAchievedW 0 = m.inputW % 2 ^ 32
  dies : rdB q Ix.pwDieMonitors 0 = m.dieMonitors
  cap : rd q Ix.pwRackCapW 0 = rd p Ix.pwRackCapW 0
  regions : ∀ r < 12, RegionShown m r (tget p.pw.thermal r 0) q
  cooled : ∀ x < 2, 24 + 18 * (x + 1) ≤ m.dieMonitors.length → hottest (dieTemps m.dieMonitors x) < 94 * 16 → tget q.pw.thermal (12 + x) 0 = 0

theorem sampled_shown (m : MonitorReadings) (p : Pkg) : Sampled m p (sampled m p) := by
  unfold sampled
  obtain ⟨only0, pw0⟩ := inputShown_only m p
  obtain ⟨voltage, current, power, average, dies, cap⟩ := inputShown_shows m p
  generalize inputShown m p = p0 at *
  have hregions := regions_sampled m p0
  generalize (List.range 12).foldl (sampleRegion m) p0 = p1 at *
  have hdies := dies_sampled m.dieMonitors p1
  generalize (List.range 2).foldl (sampleDie m.dieMonitors) p1 = p2 at *
  have hvals : ∀ (e : Entry) (sub : Nat), sub < 256 → e.index ∉ regionEntries → e.index ≠ Ix.pwCapAchievedW.index →
      tfind (wr p2 Ix.pwCapAchievedW 0 m.inputW).dict.vals (keyAt e 0 sub) = tfind p0.dict.vals (keyAt e 0 sub) := fun e sub hs he hne =>
    (tfind_tput_ne _ _ (keyAt_ne hne hs (by decide))).trans ((congrArg (fun d : Dict => tfind d.vals (keyAt e 0 sub)) hdies.dict).trans (hregions.vals e sub hs he))
  refine
    { rest := (only0.trans hregions.rest).trans (hdies.rest.trans (show PowerOnly p2 _ from rfl))
      ns := ?ns
      voltage := (rd_of_val (hvals _ _ (by decide) (by decide) (by decide))).trans voltage
      current := (rd_of_val (hvals _ _ (by decide) (by decide) (by decide))).trans current
      power := (rd_of_val (hvals _ _ (by decide) (by decide) (by decide))).trans power
      average := (rd_of_val (hvals _ _ (by decide) (by decide) (by decide))).trans average
      achieved := rd_wr_self _ _ _ _
      dies := (rdB_of_val (hvals _ _ (by decide) (by decide) (by decide))).trans dies
      cap := (rd_of_val (hvals _ _ (by decide) (by decide) (by decide))).trans cap
      regions := fun r hr => ?regions
      cooled := hdies.cooled }
  case ns =>
    have h1 : p1.pw.monitorsNs = p0.pw.monitorsNs := (congrArg Pw.monitorsNs hregions.pw :)
    have h2 : p2.pw.monitorsNs = p1.pw.monitorsNs := (congrArg Pw.monitorsNs hdies.pw :)
    show p2.pw.monitorsNs = p.now
    rw [h2, h1, pw0]
  case regions =>
    have hshown := hregions.shown r hr
    rw [pw0] at hshown
    refine ⟨fun w hw => ?_, fun v hv => ?_, fun t ht => ⟨?_, (hdies.thermal r hr).trans (hshown.temps t ht).2⟩⟩
    · exact ((rd_wr_ne _ _ (by decide) (by omega) (by decide)).trans (rd_of_dict hdies.dict _ _)).trans (hshown.power w hw)
    · exact ((rdB_wr_ne _ _ (by decide) (by omega) (by decide)).trans (rdB_of_dict hdies.dict _ _)).trans (hshown.volts v hv)
    · exact ((rdB_wr_ne _ _ (by decide) (by omega) (by decide)).trans (rdB_of_dict hdies.dict _ _)).trans (hshown.temps t ht).1

/-! The thermal and average-cap reasons end or go on, and change nothing else (R500). -/

theorem endThermal_cases (p : Pkg) : endThermal p = p ∨ endThermal p = reasonEnd p 0 := by
  unfold endThermal
  split
  · exact .inl rfl
  · exact .inr rfl

theorem endAverage_cases (p : Pkg) : endAverage p = p ∨ endAverage p = reasonEnd p 1 := by
  unfold endAverage
  split
  · exact .inl rfl
  · exact .inr rfl

/-! The rates of the islands. -/

/-- What the island entry of a region shows of its rate and its droop (R498). -/
def shownRate (q : Pkg) (i : Nat) : Nat := (105000000 * islandFreq q i / (32 * (100 + (tget q.pw.droop i (0, 0)).1))) % 2 ^ 32

theorem showFreq_only (p : Pkg) (i : Nat) : PowerOnly p (showFreq p i) ∧ (showFreq p i).pw = p.pw := by
  unfold showFreq
  split <;> exact ⟨rfl, rfl⟩

theorem islandFreq_of_pw {p q : Pkg} (h : q.pw = p.pw) (i : Nat) : islandFreq q i = islandFreq p i := by
  rw [islandFreq, regulatorRate, heatRate, h, islandFreq, regulatorRate, heatRate]

theorem shownRate_of_pw {p q : Pkg} (h : q.pw = p.pw) (i : Nat) : shownRate q i = shownRate p i := by
  rw [shownRate, islandFreq_of_pw h, h, shownRate]

theorem showFreq_self (p : Pkg) {i : Nat} (hi : i < 12) : rd (showFreq p i) Ix.pwIslandFreqKhz i = shownRate (showFreq p i) i := by
  rw [shownRate_of_pw (showFreq_only p i).2, showFreq, if_pos hi]
  exact rd_wr_self _ _ _ _

theorem showFreq_ne (p : Pkg) {i : Nat} {e : Entry} {sub : Nat} (hs : sub < 256) (h : e.index ≠ Ix.pwIslandFreqKhz.index ∨ sub ≠ i) :
    rd (showFreq p i) e sub = rd p e sub := by
  unfold showFreq
  split
  · refine rdAt_wrAt_ne _ _ ?_
    rcases h with h | h
    · exact keyAt_ne h hs (by omega)
    · simp only [keyAt]
      omega
  · rfl

section
variable (p : Pkg) (i f : Nat)

theorem setFreq_only : PowerOnly p (setFreq p i f) ∧ (setFreq p i f).pw = { p.pw with freq32 := tput p.pw.freq32 i f } := by
  obtain ⟨hrest, hpw⟩ := showFreq_only { p with pw := { p.pw with freq32 := tput p.pw.freq32 i f } } i
  exact ⟨PowerOnly.trans (q := { p with pw := { p.pw with freq32 := tput p.pw.freq32 i f } }) rfl hrest, hpw⟩

theorem setHeat_only : PowerOnly p (setHeat p i f) ∧ (setHeat p i f).pw = { p.pw with heat32 := tput p.pw.heat32 i f } := by
  obtain ⟨hrest, hpw⟩ := showFreq_only { p with pw := { p.pw with heat32 := tput p.pw.heat32 i f } } i
  exact ⟨PowerOnly.trans (q := { p with pw := { p.pw with heat32 := tput p.pw.heat32 i f } }) rfl hrest, hpw⟩

theorem regulatorRate_setFreq (k : Nat) : regulatorRate (setFreq p i f) k = if k = i then f else regulatorRate p k := by
  rw [regulatorRate, (setFreq_only p i f).2]
  split
  · subst k
    exact tget_tput_self _ _ _ _
  · exact tget_tput_ne _ _ _ ‹_›

theorem heatRate_setHeat (k : Nat) : heatRate (setHeat p i f) k = if k = i then f else heatRate p k := by
  rw [heatRate, (setHeat_only p i f).2]
  split
  · subst k
    exact tget_tput_self _ _ _ _
  · exact tget_tput_ne _ _ _ ‹_›

end

/-- The regulator's rates of the islands below `n` put anew (R492). -/
structure Regulated (g : Nat → Nat) (n : Nat) (p q : Pkg) : Prop where
  rest : PowerOnly p q
  pw : { q.pw with freq32 := p.pw.freq32 } = p.pw
  rate : ∀ k, regulatorRate q k = if k < n then g (regulatorRate p k) else regulatorRate p k
  shown : ∀ k < n, k < 12 → rd q Ix.pwIslandFreqKhz k = shownRate q k

theorem regulated (g : Nat → Nat) (p : Pkg) : Regulated g 14 p ((List.range 14).foldl (fun p i => setFreq p i (g (regulatorRate p i))) p) := by
  refine foldl_range_rec (P := fun n q => Regulated g n p q) 14 ?_ fun i hi q h => ?_
  · exact ⟨rfl, rfl, fun _ => rfl, by simp⟩
  · obtain ⟨hrest, hpw⟩ := setFreq_only q i (g (regulatorRate q i))
    refine ⟨h.rest.trans hrest, ?_, fun k => ?_, fun k hk h12 => ?_⟩
    · rw [hpw]
      exact h.pw
    · rw [regulatorRate_setFreq]
      rcases Nat.lt_trichotomy k i with hlt | rfl | hgt
      · rw [if_neg (by omega), h.rate k, if_pos hlt, if_pos (by omega)]
      · rw [if_pos rfl, h.rate k, if_neg (by omega), if_pos (by omega)]
      · rw [if_neg (by omega), h.rate k, if_neg (by omega), if_neg (by omega)]
    · rcases Nat.lt_succ_iff_lt_or_eq.1 hk with hlt | rfl
      · have hsame : shownRate (setFreq q i (g (regulatorRate q i))) k = shownRate q k := by
          rw [shownRate, islandFreq, regulatorRate_setFreq, if_neg (by omega), heatRate, hpw, shownRate, islandFreq, heatRate]
        rw [hsame, ← h.shown k hlt h12]
        exact showFreq_ne _ (by omega) (.inr (by omega))
      · exact showFreq_self _ h12

/-- The rate at which heat lets an island run after a millisecond (R499). -/
def heated (p : Pkg) (i : Nat) : Nat := if tget p.pw.thermal i 0 = 0 ∧ heatRate p i < 32 then heatRate p i + 1 else heatRate p i

/-- The heat rates of the cooled islands below `n` risen (R499). -/
structure HeatRisen (n : Nat) (p q : Pkg) : Prop where
  rest : PowerOnly p q
  pw : { q.pw with heat32 := p.pw.heat32 } = p.pw
  rate : ∀ k, heatRate q k = if k < n then heated p k else heatRate p k

theorem heat_risen (p : Pkg) : HeatRisen 14 p
    ((List.range 14).foldl (fun p i => if tget p.pw.thermal i 0 = 0 ∧ heatRate p i < 32 then setHeat p i (heatRate p i + 1) else p) p) := by
  refine foldl_range_rec (P := fun n q => HeatRisen n p q) 14 ?_ fun i hi q h => ?_
  · exact ⟨rfl, rfl, fun _ => rfl⟩
  · have hthermal : q.pw.thermal = p.pw.thermal := (congrArg Pw.thermal h.pw :)
    have hheated : heated p i = if tget q.pw.thermal i 0 = 0 ∧ heatRate q i < 32 then heatRate q i + 1 else heatRate q i := by
      rw [hthermal, h.rate i, if_neg (Nat.lt_irrefl i)]
      rfl
    split
    · rename_i hcool
      rw [if_pos hcool] at hheated
      obtain ⟨hrest, hpw⟩ := setHeat_only q i (heatRate q i + 1)
      refine ⟨h.rest.trans hrest, ?_, fun k => ?_⟩
      · rw [hpw]
        exact h.pw
      · rw [heatRate_setHeat]
        rcases Nat.lt_trichotomy k i with hlt | rfl | hgt
        · rw [if_neg (by omega), h.rate k, if_pos hlt, if_pos (by omega)]
        · rw [if_pos rfl, if_pos (by omega), hheated]
        · rw [if_neg (by omega), h.rate k, if_neg (by omega), if_neg (by omega)]
    · rename_i hstays
      rw [if_neg hstays] at hheated
      refine ⟨h.rest, h.pw, fun k => ?_⟩
      rcases Nat.lt_trichotomy k i with hlt | rfl | hgt
      · rw [h.rate k, if_pos hlt, if_pos (by omega)]
      · rw [if_pos (by omega), hheated]
      · rw [h.rate k, if_neg (by omega), if_neg (by omega)]

/-- What a millisecond of heat leaves, the thermal reason apart (R499, R500). -/
structure HeatRose (p q : Pkg) : Prop where
  rest : PowerOnly p q
  freq : q.pw.freq32 = p.pw.freq32
  rate : ∀ i < 14, heatRate q i = heated p i
  clampActive : q.pw.clampActive = p.pw.clampActive
  clampDepth : q.pw.clampDepth = p.pw.clampDepth
  sagActive : q.pw.sagActive = p.pw.sagActive

theorem heatRise_rose (p : Pkg) : HeatRose p (heatRise p) := by
  have h := heat_risen p
  unfold heatRise
  generalize (List.range 14).foldl (fun p i => if tget p.pw.thermal i 0 = 0 ∧ heatRate p i < 32 then setHeat p i (heatRate p i + 1) else p) p = q at *
  have hrate : ∀ i < 14, heatRate q i = heated p i := fun i hi => (h.rate i).trans (if_pos hi)
  have hrose : HeatRose p q := ⟨h.rest, (congrArg Pw.freq32 h.pw :), hrate, (congrArg Pw.clampActive h.pw :), (congrArg Pw.clampDepth h.pw :), (congrArg Pw.sagActive h.pw :)⟩
  rcases endThermal_cases q with he | he <;> rw [he]
  · exact hrose
  · exact ⟨hrose.rest.trans (q := q) rfl, hrose.freq, hrose.rate, hrose.clampActive, hrose.clampDepth, hrose.sagActive⟩

end Sys2Proof.Machine
end

section
/-! The commands of O59. -/

namespace Sys2Proof.Machine

theorem tfind_mem {α : Type} {t : Tbl α} {k : Nat} {v : α} (h : tfind t k = some v) : (k, v) ∈ t := by
  induction t with
  | nil => cases h
  | cons e t ih =>
    obtain ⟨k', v'⟩ := e
    rw [tfind] at h
    split at h
    · rename_i heq
      cases h
      exact heq ▸ List.mem_cons_self
    · exact List.mem_cons_of_mem _ (ih h)

/-- A table that holds a value but 0 has some value but 0. -/
theorem tput_any (t : Tbl Nat) (k : Nat) {v : Nat} (hv : v ≠ 0) : (tput t k v).any (fun e => e.2 != 0) = true :=
  List.any_eq_true.2 ⟨(k, v), tfind_mem (tfind_tput_self t k v), bne_iff_ne.2 hv⟩

/-! The slow regulator's tick (R492, R493, R499). -/

/-- The clamp as a millisecond leaves it (R488, R493). -/
theorem releaseClamp_shows (p : Pkg) : PowerOnly p (releaseClamp p) ∧ (releaseClamp p).pw.freq32 = p.pw.freq32 ∧ (releaseClamp p).pw.heat32 = p.pw.heat32
    ∧ (p.pw.clampActive = true → p.pw.sagActive = false →
        (releaseClamp p).pw.clampActive = decide (1 < p.pw.clampDepth) ∧ (releaseClamp p).pw.clampDepth = p.pw.clampDepth - 1)
    ∧ (p.pw.clampActive = false ∨ p.pw.sagActive = true → releaseClamp p = p) := by
  unfold releaseClamp
  split
  · rename_i hstays
    refine ⟨rfl, rfl, rfl, fun hclamp hsag => ?_, fun _ => rfl⟩
    rw [hclamp, hsag] at hstays
    exact absurd hstays (by decide)
  · rename_i hreleases
    have hnot : ¬(p.pw.clampActive = false ∨ p.pw.sagActive = true) := by simpa using hreleases
    split
    · rename_i hlast
      refine ⟨rfl, rfl, rfl, fun hclamp _ => ⟨?_, ?_⟩, fun h => absurd h hnot⟩
      · rw [decide_eq_false (by omega)]
        rfl
      · show 0 = p.pw.clampDepth - 1
        omega
    · rename_i hmore
      refine ⟨rfl, rfl, rfl, fun hclamp _ => ⟨?_, rfl⟩, fun h => absurd h hnot⟩
      rw [decide_eq_true (by omega)]
      exact hclamp

/-- The rates and the clamp after a part of the regulator's tick. -/
structure RatesAre (rate heat : Nat → Nat) (active : Bool) (depth : Nat) (p q : Pkg) : Prop where
  rest : PowerOnly p q
  rate : ∀ i < 14, regulatorRate q i = rate i
  heat : ∀ i < 14, heatRate q i = heat i
  clampActive : q.pw.clampActive = active
  clampDepth : q.pw.clampDepth = depth

section
variable {rate heat : Nat → Nat} {active : Bool} {depth : Nat} {p q : Pkg}

/-- The regulator takes every island's rate through `g`, and shows it. -/
theorem RatesAre.regulated (h : RatesAre rate heat active depth p q) (g : Nat → Nat) :
    let t := (List.range 14).foldl (fun p i => setFreq p i (g (regulatorRate p i))) q
    RatesAre (fun i => g (rate i)) heat active depth p t ∧ ∀ i < 12, rd t Ix.pwIslandFreqKhz i = shownRate t i := by
  have hr := Machine.regulated g q
  dsimp only
  generalize (List.range 14).foldl (fun p i => setFreq p i (g (regulatorRate p i))) q = t at *
  have hheat : ∀ i, heatRate t i = heatRate q i := fun i => (congrArg (fun w : Pw => tget w.heat32 i 32) hr.pw :)
  refine ⟨⟨h.rest.trans hr.rest, fun i hi => ?_, fun i hi => (hheat i).trans (h.heat i hi), (congrArg Pw.clampActive hr.pw :).trans h.clampActive,
    (congrArg Pw.clampDepth hr.pw :).trans h.clampDepth⟩, fun i hi => hr.shown i (by omega) hi⟩
  rw [hr.rate i, if_pos hi, h.rate i hi]

/-- Reasons of throttling say nothing of the rates (R500). -/
theorem RatesAre.reasonStart (h : RatesAre rate heat active depth p q) (i : Nat) : RatesAre rate heat active depth p (reasonStart q i) :=
  ⟨h.rest.trans (q := q) (Eq.refl _), h.rate, h.heat, h.clampActive, h.clampDepth⟩

theorem RatesAre.endAverage (h : RatesAre rate heat active depth p q) : RatesAre rate heat active depth p (endAverage q) ∧ (Machine.endAverage q).dict = q.dict
    ∧ ∀ i, shownRate (Machine.endAverage q) i = shownRate q i := by
  rcases endAverage_cases q with he | he <;> rw [he]
  · exact ⟨h, Eq.refl _, fun _ => Eq.refl _⟩
  · exact ⟨⟨h.rest.trans (q := q) (Eq.refl _), h.rate, h.heat, h.clampActive, h.clampDepth⟩, Eq.refl _, fun _ => Eq.refl _⟩

end

theorem heatRise_rates (p : Pkg) : RatesAre (regulatorRate p) (heated p) p.pw.clampActive p.pw.clampDepth p (heatRise p) := by
  have h := heatRise_rose p
  exact ⟨h.rest, fun i _ => congrArg (fun t => tget t i 32) h.freq, h.rate, h.clampActive, h.clampDepth⟩

/-- The clamp after a millisecond: its state and depth (R488, R493). -/
def clampReleases (p : Pkg) : Bool := p.pw.clampActive && !p.pw.sagActive

theorem clampReleased_rates (p : Pkg) : RatesAre (regulatorRate p) (heated p) (if clampReleases p then decide (1 < p.pw.clampDepth) else p.pw.clampActive)
    (if clampReleases p then p.pw.clampDepth - 1 else p.pw.clampDepth) p (releaseClamp (heatRise p)) := by
  have h := heatRise_rose p
  have hrates := heatRise_rates p
  generalize heatRise p = q at *
  obtain ⟨hrest, hfreq, hheat, hreleases, hstays⟩ := releaseClamp_shows q
  rw [h.clampActive, h.sagActive] at hreleases hstays
  rw [h.clampDepth] at hreleases
  have hrate : ∀ i < 14, regulatorRate (releaseClamp q) i = regulatorRate p i := fun i hi => (congrArg (fun t => tget t i 32) hfreq).trans (hrates.rate i hi)
  have hrise : ∀ i < 14, heatRate (releaseClamp q) i = heated p i := fun i hi => (congrArg (fun t => tget t i 32) hheat).trans (hrates.heat i hi)
  refine ⟨hrates.rest.trans hrest, hrate, hrise, ?_, ?_⟩ <;> unfold clampReleases <;> split
  · rename_i hboth
    rw [Bool.and_eq_true, Bool.not_eq_true'] at hboth
    exact (hreleases hboth.1 hboth.2).1
  · rename_i hnot
    rw [hstays (by simpa [Decidable.imp_iff_not_or] using hnot)]
    exact hrates.clampActive
  · rename_i hboth
    rw [Bool.and_eq_true, Bool.not_eq_true'] at hboth
    exact (hreleases hboth.1 hboth.2).2
  · rename_i hnot
    rw [hstays (by simpa [Decidable.imp_iff_not_or] using hnot)]
    exact hrates.clampDepth

section
variable {s : State} (hp : powered s.pkg = true)
include hp

theorem slowRegulatorTick_lowers {w : Nat} (h : rd s.pkg Ix.pwAvgLimitW 0 < w) : Completes (.slowRegulatorTick w) s (fun q =>
    RatesAre (fun i => max 8 (regulatorRate s.pkg i - 1)) (heated s.pkg) s.pkg.pw.clampActive s.pkg.pw.clampDepth (begun s) q
    ∧ ∀ i < 12, rd q Ix.pwIslandFreqKhz i = shownRate q i) := by
  refine completes_of hp (exec_slowRegulatorTick w s) ?_
  rw [if_pos (show rd (begun s) Ix.pwAvgLimitW 0 < w from h)]
  obtain ⟨hrates, hshown⟩ := (heatRise_rates (begun s)).regulated (fun v => max 8 (v - 1))
  generalize (List.range 14).foldl (fun p i => setFreq p i (max 8 (regulatorRate p i - 1))) (heatRise (begun s)) = t at *
  exact ⟨hrates.reasonStart 1, hshown⟩

theorem slowRegulatorTick_rises {w : Nat} (h : 100 * w < 98 * rd s.pkg Ix.pwAvgLimitW 0) : Completes (.slowRegulatorTick w) s (fun q =>
    RatesAre (fun i => min 32 (regulatorRate s.pkg i + 1)) (heated s.pkg) (if clampReleases s.pkg then decide (1 < s.pkg.pw.clampDepth) else s.pkg.pw.clampActive)
      (if clampReleases s.pkg then s.pkg.pw.clampDepth - 1 else s.pkg.pw.clampDepth) (begun s) q
    ∧ ∀ i < 12, rd q Ix.pwIslandFreqKhz i = shownRate q i) := by
  refine completes_of hp (exec_slowRegulatorTick w s) ?_
  rw [if_neg (show ¬rd (begun s) Ix.pwAvgLimitW 0 < w from Nat.not_lt.2 (show w ≤ rd s.pkg Ix.pwAvgLimitW 0 by omega)),
    if_pos (show 100 * w < 98 * rd (begun s) Ix.pwAvgLimitW 0 from h)]
  obtain ⟨hrates, hshown⟩ := (clampReleased_rates (begun s)).regulated (fun v => min 32 (v + 1))
  obtain ⟨hends, hdict, hsame⟩ := hrates.endAverage
  exact ⟨hends, fun i hi => ((rd_of_dict hdict _ _).trans (hshown i hi)).trans (hsame i).symm⟩

theorem slowRegulatorTick_holds {w : Nat} (hle : w ≤ rd s.pkg Ix.pwAvgLimitW 0) (h : 98 * rd s.pkg Ix.pwAvgLimitW 0 ≤ 100 * w) :
    Completes (.slowRegulatorTick w) s (fun q =>
      RatesAre (regulatorRate s.pkg) (heated s.pkg) (if clampReleases s.pkg then decide (1 < s.pkg.pw.clampDepth) else s.pkg.pw.clampActive)
        (if clampReleases s.pkg then s.pkg.pw.clampDepth - 1 else s.pkg.pw.clampDepth) (begun s) q) := by
  refine completes_of hp (exec_slowRegulatorTick w s) ?_
  rw [if_neg (show ¬rd (begun s) Ix.pwAvgLimitW 0 < w from Nat.not_lt.2 hle), if_neg (show ¬100 * w < 98 * rd (begun s) Ix.pwAvgLimitW 0 from Nat.not_lt.2 h)]
  exact clampReleased_rates (begun s)

end

/-! Droop (R498) and heat (R499). -/

/-- A package with an island's period stretched. -/
def drooped (p : Pkg) (i : Nat) (v : Nat × Nat) : Pkg := showFreq { p with pw := { p.pw with droop := tput p.pw.droop i v } } i

theorem drooped_shows (p : Pkg) (i : Nat) (v : Nat × Nat) : (drooped p i v).pw = { p.pw with droop := tput p.pw.droop i v } ∧ (drooped p i v).mem = p.mem
    ∧ (drooped p i v).parts = p.parts ∧ (i < 12 → rd (drooped p i v) Ix.pwIslandFreqKhz i = shownRate (drooped p i v) i) := by
  obtain ⟨hrest, hpw⟩ := showFreq_only { p with pw := { p.pw with droop := tput p.pw.droop i v } } i
  exact ⟨hpw, hrest.mem, hrest.parts, fun hi => showFreq_self _ hi⟩

/-- A package with an island's period whole again. -/
def recovered (p : Pkg) (i : Nat) : Pkg := showFreq { p with pw := { p.pw with droop := tdel p.pw.droop i } } i

/-- The same with the time of the stretch counted. -/
def recoveryCounted (p : Pkg) (i began : Nat) : Pkg := if i < 12 then bump (recovered p i) Ix.pwIslandStretchNs i ((recovered p i).now - began) else recovered p i

theorem recoveryCounted_shows (p : Pkg) (i began : Nat) : (recoveryCounted p i began).pw = { p.pw with droop := tdel p.pw.droop i }
    ∧ (recoveryCounted p i began).mem = p.mem ∧ (recoveryCounted p i began).parts = p.parts
    ∧ (i < 12 → rd (recoveryCounted p i began) Ix.pwIslandFreqKhz i = shownRate (recoveryCounted p i began) i
      ∧ rd (recoveryCounted p i began) Ix.pwIslandStretchNs i = (rd p Ix.pwIslandStretchNs i + (p.now - began)) % 2 ^ 64) := by
  obtain ⟨hrest, hpw⟩ := showFreq_only { p with pw := { p.pw with droop := tdel p.pw.droop i } } i
  have hpw : (recovered p i).pw = { p.pw with droop := tdel p.pw.droop i } := hpw
  unfold recoveryCounted
  split
  · rename_i hi
    refine ⟨hpw, hrest.mem, hrest.parts, fun _ => ⟨?_, ?_⟩⟩
    · rw [rd_bump_ne _ _ (by decide) (by omega) (by omega), recovered, showFreq_self _ hi]
      rfl
    · refine (rd_bump_self _ _ _ _).trans ?_
      rw [show rd (recovered p i) Ix.pwIslandStretchNs i = rd p Ix.pwIslandStretchNs i from showFreq_ne _ (by omega) (.inl (by decide)),
        show (recovered p i).now = p.now from hrest.now]
      rfl
  · exact ⟨hpw, hrest.mem, hrest.parts, fun h => absurd h ‹_›⟩

/-- The thermal answer of an island that heat slows (R499). -/
def thermalState (p : Pkg) (i : Nat) (hundred : Bool) : Nat := if hundred then 2 else max (tget p.pw.thermal i 0) 1

theorem thermalState_ne (p : Pkg) (i : Nat) (hundred : Bool) : thermalState p i hundred ≠ 0 := by
  unfold thermalState
  split <;> omega

/-- The rate at which heat lets an island run once it slows it (R499). -/
def throttledRate (p : Pkg) (i : Nat) (hundred : Bool) : Nat := if hundred || tget p.pw.thermal i 0 == 2 then 8 else max 8 (islandFreq p i - 1)

/-- A package with an island slowed for heat, ALERT_N low. -/
def throttled (p : Pkg) (i : Nat) (hundred : Bool) : Pkg :=
  setAlert (reasonStart (setHeat { p with pw := { p.pw with thermal := tput p.pw.thermal i (thermalState p i hundred) } } i (throttledRate p i hundred)) 0)

/-- What a throttled island shows. -/
structure Throttled (p : Pkg) (i : Nat) (hundred : Bool) (q : Pkg) : Prop where
  heat : ∀ k, heatRate q k = if k = i then throttledRate p i hundred else heatRate p k
  rate : ∀ k, regulatorRate q k = regulatorRate p k
  thermal : tget q.pw.thermal i 0 = thermalState p i hundred
  alert : q.pins.alert = true
  mem : q.mem = p.mem
  parts : q.parts = p.parts

theorem throttled_shows (p : Pkg) (i : Nat) (hundred : Bool) : Throttled p i hundred (throttled p i hundred) := by
  obtain ⟨hrest, hpw⟩ := setHeat_only { p with pw := { p.pw with thermal := tput p.pw.thermal i (thermalState p i hundred) } } i (throttledRate p i hundred)
  have hheat := heatRate_setHeat { p with pw := { p.pw with thermal := tput p.pw.thermal i (thermalState p i hundred) } } i (throttledRate p i hundred)
  unfold throttled
  generalize setHeat { p with pw := { p.pw with thermal := tput p.pw.thermal i (thermalState p i hundred) } } i (throttledRate p i hundred) = q at *
  have hthermal : q.pw.thermal = tput p.pw.thermal i (thermalState p i hundred) := by rw [hpw]
  refine ⟨hheat, fun k => ?_, ?_, ?_, hrest.mem, hrest.parts⟩
  · show tget q.pw.freq32 k 32 = _
    rw [hpw]
    rfl
  · show tget q.pw.thermal i 0 = _
    rw [hthermal]
    exact tget_tput_self _ _ _ _
  · show (q.pw.sagActive || q.pw.thermal.any (fun e => e.2 != 0)) = true
    rw [hthermal, tput_any _ _ (thermalState_ne p i hundred), Bool.or_true]

theorem Throttled.of_kept {p q r : Pkg} {i : Nat} {hundred : Bool} (h : Throttled p i hundred q) (hpw : r.pw = q.pw) (hpins : r.pins = q.pins) (hmem : r.mem = q.mem)
    (hparts : r.parts = q.parts) : Throttled p i hundred r where
  heat k := by rw [heatRate, hpw]; exact h.heat k
  rate k := by rw [regulatorRate, hpw]; exact h.rate k
  thermal := by rw [hpw]; exact h.thermal
  alert := by rw [hpins]; exact h.alert
  mem := hmem.trans h.mem
  parts := hparts.trans h.parts

/-! Ageing (R491). -/

/-- An island named `n` times in an ageing check gets 5 mV for each. -/
theorem foldl_setpoint (slow : List Nat) (t : Tbl Nat) {i : Nat} (hi : i < 14) :
    tget (slow.foldl (fun t i => if i < 14 then tmod t i 0 (fun v => v + 5) else t) t) i 0 = tget t i 0 + 5 * slow.count i := by
  induction slow generalizing t with
  | nil => rfl
  | cons k slow ih =>
    rw [List.foldl_cons, ih, List.count_cons]
    by_cases hki : k = i
    · subst k
      rw [if_pos hi, tget_tmod_self, if_pos (beq_self_eq_true i)]
      omega
    · rw [if_neg (c := (k == i) = true) (by simpa using hki), Nat.add_zero]
      split
      · rw [tget_tmod_ne _ _ _ (Ne.symm hki)]
      · rfl

section
variable {s : State} (hp : powered s.pkg = true)
include hp

theorem monitorSample_completes (m : MonitorReadings) : Completes (.monitorSample m) s (fun q => ∃ p, p.pw.monitorsNs = s.clock.ns ∧ Sampled m (begun s) { p with pins := s.pkg.pins }
    ∧ p.pins.alert = (p.pw.sagActive || p.pw.thermal.any (fun e => e.2 != 0)) ∧ q = evaluateCap p) := by
  refine completes_of hp (exec_monitorSample m s) ⟨setAlert (endThermal (sampled m (begun s))), ?_⟩
  have h := sampled_shown m (begun s)
  generalize hq : sampled m (begun s) = q at *
  have hall : ∀ t, Sampled m (begun s) t → t.pins = s.pkg.pins → (setAlert t).pw.monitorsNs = s.clock.ns ∧ Sampled m (begun s) { setAlert t with pins := s.pkg.pins }
      ∧ (setAlert t).pins.alert = ((setAlert t).pw.sagActive || (setAlert t).pw.thermal.any (fun e => e.2 != 0)) := by
    intro t ht hpins
    refine ⟨ht.ns, ?_, rfl⟩
    rw [show ({ setAlert t with pins := s.pkg.pins } : Pkg) = t by rw [← hpins]; rfl]
    exact ht
  have hend : Sampled m (begun s) (endThermal q) := by
    rcases endThermal_cases q with he | he <;> rw [he]
    · exact h
    · exact ⟨h.rest.trans (q := q) rfl, h.ns, h.voltage, h.current, h.power, h.average, h.achieved, h.dies, h.cap,
        fun r hr => (h.regions r hr).of_kept (fun _ => rfl) rfl, h.cooled⟩
  obtain ⟨hns, hsampled, halert⟩ := hall _ hend (hend.rest.pins.trans rfl)
  refine ⟨hns, hsampled, halert, ?_⟩
  rw [← hq]
  rfl

theorem fastClamp_completes (limit : Fin 6) (w : Nat) : Completes (.fastClamp limit w) s (fun q => q.pw.clampActive = true ∧ q.pw.clampDepth = 32 ∧ q.pw.referenceW = w
    ∧ q.pw.clampLimitW = (if s.pkg.pw.clampActive then min (limitWatts s.pkg limit) s.pkg.pw.clampLimitW else limitWatts s.pkg limit)
    ∧ q.pw.clampIssue = (if w = 0 then 16 else max 4 (min 16 (16 * q.pw.clampLimitW / w)))
    ∧ (∀ r, s.pkg.pw.reasons[limitReason limit]? = some r → ∃ r', q.pw.reasons[limitReason limit]? = some r' ∧ r'.active = true)
    ∧ q.dict = s.pkg.dict ∧ q.mem = s.pkg.mem ∧ q.parts = s.pkg.parts) := by
  refine completes_of hp (exec_fastClamp limit w s) ⟨rfl, rfl, rfl, rfl, rfl, fun r hr => ?_, rfl, rfl, rfl⟩
  have hmap : ∀ f : Nat → Reason → Reason, (s.pkg.pw.reasons.mapIdx f)[limitReason limit]? = some (f (limitReason limit) r) := fun f => by
    rw [List.getElem?_mapIdx, hr]
    rfl
  refine ⟨_, hmap _, ?_⟩
  split
  · rfl
  · rename_i hnot
    simpa using hnot

theorem thermalThrottle_completes (i : Fin 14) (hundred : Bool) : Completes (.thermalThrottle i hundred) s (Throttled (begun s) i hundred) := by
  refine completes_of hp (exec_thermalThrottle i hundred s) ?_
  have h := throttled_shows (begun s) i hundred
  show Throttled (begun s) i hundred (if tget (begun s).pw.thermal i 0 = 0 then raisePw (throttled (begun s) i hundred) 0x1416 0xFF i else throttled (begun s) i hundred)
  split
  · exact h.of_kept (raisePw_pw _ _ _ _) (raisePw_pins _ _ _ _) (raisePw_mem _ _ _ _) (raisePw_parts _ _ _ _)
  · exact h

theorem droopStretch_completes (i : Fin 14) (six : Bool) : Completes (.droopStretch i six) s (fun q =>
    tget q.pw.droop i (0, 0) = (if six then 50 else 25, (tget s.pkg.pw.droop i (0, s.clock.ns)).2) ∧ (i.val < 12 → rd q Ix.pwIslandFreqKhz i = shownRate q i)
    ∧ islandFreq q i = islandFreq s.pkg i ∧ q.mem = s.pkg.mem ∧ q.parts = s.pkg.parts) := by
  refine completes_of hp (exec_droopStretch i six s) ?_
  obtain ⟨hpw, hmem, hparts, hshown⟩ := drooped_shows (begun s) i (if six then 50 else 25, (tget s.pkg.pw.droop i (0, s.clock.ns)).2)
  refine ⟨?_, hshown, ?_, hmem, hparts⟩
  · exact (congrArg (fun w : Pw => tget w.droop i (0, 0)) hpw :).trans (tget_tput_self _ _ _ _)
  · exact (congrArg (fun w : Pw => min (tget w.freq32 i 32) (tget w.heat32 i 32)) hpw :)

theorem droopRecovery_completes {i : Fin 14} {d began : Nat} (h : tfind s.pkg.pw.droop i = some (d, began)) : Completes (.droopRecovery i) s (fun q =>
    q.pw.droop = tdel s.pkg.pw.droop i ∧ (i.val < 12 → rd q Ix.pwIslandFreqKhz i = shownRate q i) ∧ islandFreq q i = islandFreq s.pkg i
    ∧ (i.val < 12 → rd q Ix.pwIslandStretchNs i = (rd s.pkg Ix.pwIslandStretchNs i + (s.clock.ns - began)) % 2 ^ 64) ∧ q.mem = s.pkg.mem ∧ q.parts = s.pkg.parts) := by
  refine completes_of hp (exec_droopRecovery i s) ?_
  rw [show tfind (begun s).pw.droop i = some (d, began) from h]
  obtain ⟨hpw, hmem, hparts, hshown⟩ := recoveryCounted_shows (begun s) i began
  have hdroop : (recoveryCounted (begun s) i began).pw.droop = tdel s.pkg.pw.droop i := (congrArg Pw.droop hpw :)
  have hfreq : islandFreq (recoveryCounted (begun s) i began) i = islandFreq s.pkg i :=
    (congrArg (fun w : Pw => min (tget w.freq32 i 32) (tget w.heat32 i 32)) hpw :)
  show (fun q : Pkg => q.pw.droop = tdel s.pkg.pw.droop i ∧ (i.val < 12 → rd q Ix.pwIslandFreqKhz i = shownRate q i) ∧ islandFreq q i = islandFreq s.pkg i
    ∧ (i.val < 12 → rd q Ix.pwIslandStretchNs i = (rd s.pkg Ix.pwIslandStretchNs i + (s.clock.ns - began)) % 2 ^ 64) ∧ q.mem = s.pkg.mem ∧ q.parts = s.pkg.parts)
    (if (recoveryCounted (begun s) i began).pw.droop.isEmpty then reasonEnd (recoveryCounted (begun s) i began) 3 else recoveryCounted (begun s) i began)
  split <;> exact ⟨hdroop, fun hi => (hshown hi).1, hfreq, fun hi => (hshown hi).2, hmem, hparts⟩

end

theorem ageingCheck_completes {s : State} (hp : powered s.pkg = true) (slow : List Nat) : Completes (.ageingCheck slow) s (fun q =>
    (∀ i < 14, tget q.pw.setpointMv i 0 = tget s.pkg.pw.setpointMv i 0 + 5 * slow.count i) ∧ q.dict = s.pkg.dict ∧ q.mem = s.pkg.mem ∧ q.parts = s.pkg.parts) :=
  completes_of hp (exec_ageingCheck slow s) ⟨fun _ hi => foldl_setpoint slow s.pkg.pw.setpointMv hi, rfl, rfl, rfl⟩

/-- Settles O59, by what each part of a sample, of a regulator's tick and of a throttling shows of the islands. The clamp's issue slots (entry 13 of the log)
and the two rates of an island, of which the lower runs (entry 180), are the model's choices. -/
theorem powerCompletes : Obligations.PowerCompletes := by
  unfold Obligations.PowerCompletes
  intro s hp shown
  refine ⟨fun m => ?monitor, ageingCheck_completes hp, fun w => ?tick, fastClamp_completes hp, droopStretch_completes hp,
    fun i d began => droopRecovery_completes hp, fun i hnone => ?steady, fun i hundred => ?heat⟩
  case monitor =>
    refine (monitorSample_completes hp m).mono fun q hq => ?_
    obtain ⟨p, hns, h, halert, rfl⟩ := hq
    exact ⟨p, hns, h.voltage, h.current, h.power, h.average, h.achieved, h.dies, fun r hr => (h.regions r hr).power, fun r hr => (h.regions r hr).volts,
      fun r hr => (h.regions r hr).temps, h.cooled, halert, h.cap, h.rest.mem, h.rest.parts, rfl⟩
  case tick =>
    intro heated
    refine ⟨fun hover => ?_, fun hle => ?_⟩
    · refine (slowRegulatorTick_lowers hp hover).mono fun q hq => ?_
      obtain ⟨h, hshown⟩ := hq
      exact ⟨fun i hi => ⟨h.rate i hi, h.heat i hi, rfl⟩, hshown, h.clampActive, h.clampDepth, h.rest.mem, h.rest.parts⟩
    · have hreleases : ∀ {active : Bool} {depth : Nat},
          active = (if clampReleases s.pkg then decide (1 < s.pkg.pw.clampDepth) else s.pkg.pw.clampActive) →
          depth = (if clampReleases s.pkg then s.pkg.pw.clampDepth - 1 else s.pkg.pw.clampDepth) →
          (s.pkg.pw.clampActive = true → s.pkg.pw.sagActive = false → active = decide (1 < s.pkg.pw.clampDepth) ∧ depth = s.pkg.pw.clampDepth - 1)
          ∧ (s.pkg.pw.clampActive = false ∨ s.pkg.pw.sagActive = true → active = s.pkg.pw.clampActive ∧ depth = s.pkg.pw.clampDepth) := by
        rintro active depth rfl rfl
        refine ⟨fun hclamp hsag => ?_, fun hstays => ?_⟩
        · rw [clampReleases, hclamp, hsag]
          exact ⟨rfl, rfl⟩
        · have hnot : clampReleases s.pkg = false := by rcases hstays with h | h <;> simp [clampReleases, h]
          rw [hnot]
          exact ⟨rfl, rfl⟩
      rcases Nat.lt_or_ge (100 * w) (98 * rd s.pkg Ix.pwAvgLimitW 0) with hlow | hhigh
      · refine (slowRegulatorTick_rises hp hlow).mono fun q hq => ?_
        obtain ⟨h, hshown⟩ := hq
        obtain ⟨hends, hstays⟩ := hreleases h.clampActive h.clampDepth
        exact ⟨fun i hi => ⟨(h.rate i hi).trans (if_pos hlow).symm, h.heat i hi, rfl⟩, fun _ => hshown, hends, hstays, h.rest.mem, h.rest.parts⟩
      · refine (slowRegulatorTick_holds hp hle hhigh).mono fun q h => ?_
        obtain ⟨hends, hstays⟩ := hreleases h.clampActive h.clampDepth
        exact ⟨fun i hi => ⟨(h.rate i hi).trans (if_neg (Nat.not_lt.2 hhigh)).symm, h.heat i hi, rfl⟩, fun hlow => absurd hlow (Nat.not_lt.2 hhigh), hends, hstays, h.rest.mem, h.rest.parts⟩
  case steady =>
    refine completes_of hp (exec_droopRecovery i s) ?_
    rw [show tfind (begun s).pw.droop i = none from hnone]
  case heat =>
    refine (thermalThrottle_completes hp i hundred).mono fun q h => ?_
    have hself := h.heat i
    rw [if_pos rfl] at hself
    refine ⟨?_, ?_, h.thermal, h.alert, h.mem, h.parts, fun k hk => ?_⟩
    · rw [hself, throttledRate]
      simp only [Bool.or_eq_true, beq_iff_eq]
      rfl
    · rw [islandFreq, h.rate]
      rfl
    · have hother := h.heat k
      rw [if_neg hk] at hother
      rw [islandFreq, h.rate, hother]
      rfl

end Sys2Proof.Machine
end

section
/-! What ending a step leaves of the controllers, and what a rollback shows (R443 to R445, for O54). -/

namespace Sys2Proof.Machine

/-- What the Partition Controller and the Reliability Unit hold of a partition's step and of its stop. -/
def stepControl (x : Part) : RuPart × Bool × Bool := (x.ru, x.pc.stepRunning, x.pc.stopPending)

/-- What ending a step leaves: the Reliability Unit's state, every partition's control, and the entries from 0x6000 on but the engines' time. -/
structure StepKept (p q : Pkg) : Prop where
  ru : q.ru = p.ru
  control : ∀ k, stepControl (part q k) = stepControl (part p k)
  vals : ∀ k, 0x600000 ≤ k → k / 256 ≠ Ix.pcEngineNs.index → tfind q.dict.vals k = tfind p.dict.vals k

section
variable {p q r : Pkg}

theorem StepKept.rfl (p : Pkg) : StepKept p p := ⟨Eq.refl _, fun _ => Eq.refl _, fun _ _ _ => Eq.refl _⟩

theorem StepKept.trans (h : StepKept p q) (g : StepKept q r) : StepKept p r :=
  ⟨g.ru.trans h.ru, fun k => (g.control k).trans (h.control k), fun k hk hne => (g.vals k hk hne).trans (h.vals k hk hne)⟩

theorem StepKept.of_upper (h : UpperKept p q) : StepKept p q := ⟨h.ru, fun k => congrArg stepControl (h.part k), fun k hk _ => h.vals k hk⟩

theorem StepKept.of_keeps (h : KeepsState p q) : StepKept p q := StepKept.of_upper (UpperKept.of_keeps h)

theorem StepKept.of_dict (hparts : q.parts = p.parts) (hdict : q.dict = p.dict) (hru : q.ru = p.ru := by rfl) : StepKept p q :=
  StepKept.of_upper (UpperKept.of_dict hparts hdict hru)

/-- A change of a partition that is not of its control. -/
theorem StepKept.modPart (p : Pkg) (pp : Nat) (f : Part → Part) (hf : stepControl (f (part p pp)) = stepControl (part p pp)) : StepKept p (modPart p pp f) := by
  refine ⟨Eq.refl _, fun k => ?_, fun _ _ _ => Eq.refl _⟩
  rcases eq_or_ne k pp with h | hne
  · rw [h, part_modPart_self, hf]
  · rw [part_modPart_ne _ _ hne]

theorem StepKept.foldl {α : Type} {f : Pkg → α → Pkg} {l : List α} (hf : ∀ p, ∀ x ∈ l, StepKept p (f p x)) (p : Pkg) : StepKept p (l.foldl f p) :=
  List.foldlRecOn (motive := StepKept p) _ _ (StepKept.rfl p) fun _ hq x hx => hq.trans (hf _ x hx)

/-- The blocks' entries lie below 0x6000, but for the engines' time. -/
theorem StepKept.of_block (h : BlockFrame p q) : StepKept p q := by
  refine ⟨(congrArg Pkg.ru h.rest :), fun k => congrArg stepControl (part_of_parts h.parts k), fun k hk hne => h.vals k ?_⟩
  have h1 : k / 256 ≠ Ix.blockState.index := by simp only [Ix.blockState]; omega
  have h2 : k / 256 ≠ Ix.blockBusyAclk.index := by simp only [Ix.blockBusyAclk]; omega
  have h3 : k / 256 ≠ Ix.blockLastStatus.index := by simp only [Ix.blockLastStatus]; omega
  have h4 : k / 256 ≠ Ix.regionLastStatus.index := by simp only [Ix.regionLastStatus]; omega
  simp only [blockKey]
  simp_all

theorem StepKept.rd (h : StepKept p q) (e : Entry) {sub : Nat} (hs : sub < 256) (he : 0x6000 ≤ e.index) (hne : e.index ≠ Ix.pcEngineNs.index) :
    Machine.rd q e sub = Machine.rd p e sub :=
  rd_of_val (h.vals _ (by simp only [keyAt]; omega) (by simp only [keyAt]; omega))

theorem StepKept.state (h : StepKept p q) {k : Nat} (hk : k < 12) : pcState q k = pcState p k := h.rd Ix.pcState (by omega) (by decide) (by decide)

theorem StepKept.partRu (h : StepKept p q) (k : Nat) : (Machine.part q k).ru = (Machine.part p k).ru := congrArg Prod.fst (h.control k)
theorem StepKept.running (h : StepKept p q) (k : Nat) : (Machine.part q k).pc.stepRunning = (Machine.part p k).pc.stepRunning :=
  congrArg (fun x => x.2.1) (h.control k)

end

theorem dm_upper (p : Pkg) (d : Dm) : UpperKept p { p with dm := d } := UpperKept.of_dict rfl rfl
theorem ms_upper (p : Pkg) (m : Ms) : UpperKept p { p with ms := m } := UpperKept.of_dict rfl rfl
theorem tm_upper (p : Pkg) (t : Tm) : UpperKept p { p with tm := t } := UpperKept.of_dict rfl rfl

/-- An entry below 0x6000 written. -/
theorem wr_upper (p : Pkg) {e : Entry} {sub : Nat} (v : Nat) (he : e.index < 0x6000) (hs : sub < 256) : UpperKept p (wr p e sub v) :=
  UpperKept.wrAt p v (by simp only [keyAt]; omega)

theorem bump_upper (p : Pkg) {e : Entry} {sub : Nat} (n : Nat) (he : e.index < 0x6000) (hs : sub < 256) : UpperKept p (bump p e sub n) := wr_upper p _ he hs

section
variable (p : Pkg) (pp : Nat)

theorem modSc_kept (f : ScPart → ScPart) : StepKept p (modSc p pp f) := StepKept.modPart p pp _ rfl
theorem modSe_kept (f : SePart → SePart) : StepKept p (modSe p pp f) := StepKept.modPart p pp _ rfl
theorem modEr_kept (f : ErPart → ErPart) : StepKept p (modEr p pp f) := StepKept.modPart p pp _ rfl
theorem modSv_kept (f : SvPart → SvPart) : StepKept p (modSv p pp f) := StepKept.modPart p pp _ rfl

end

/-! ### What a step that ends calls on -/

theorem stopPasses_kept (p : Pkg) (pp : Nat) : StepKept p (stopPasses p pp) :=
  (StepKept.of_block (idle_fold p pp p)).trans (StepKept.of_upper (ms_upper _ _))

theorem kvRollback_stepKept (p : Pkg) (pp step : Nat) : StepKept p (kvRollback p pp step) := by
  have h := kvRollback_kept p pp step
  exact ⟨h.ru, fun k => by rw [stepControl, (h.control k).1, (h.control k).2, stepControl], fun k hk _ => h.vals k hk⟩

theorem restoreBlocks_kept (p : Pkg) (l : List Nat) : StepKept p (l.foldl restoreBlock p) :=
  StepKept.foldl (fun q b _ => StepKept.of_dict (q := restoreBlock q b) rfl rfl) p

theorem discardProducts_kept (p : Pkg) (pp : Nat) : StepKept p (discardProducts p pp) := by
  have hrolled := (restoreBlocks_kept p (blocksOf p pp)).trans (kvRollback_stepKept _ pp (stepOf p pp))
  unfold discardProducts voidStep
  dsimp only
  generalize kvRollback ((blocksOf p pp).foldl restoreBlock p) pp (stepOf p pp) = q at hrolled ⊢
  exact hrolled.trans ((((modSv_kept q pp _).trans (modEr_kept _ pp _)).trans (modSc_kept _ pp _)).trans (modSe_kept _ pp _))

theorem stepDiscarded_kept (p : Pkg) (pp : Nat) : StepKept p (stepDiscarded p pp) := by
  unfold stepDiscarded
  dsimp only
  split
  · exact (StepKept.of_upper (abortCollectives_upper p pp)).trans (discardProducts_kept _ pp)
  · exact StepKept.of_upper (abortCollectives_upper p pp)

theorem charge_kept (p : Pkg) (pp resource region bytes : Nat) : StepKept p (charge p pp resource region bytes) := by
  unfold charge
  dsimp only
  split
  · exact StepKept.modPart p pp (fun x => { x with pc := _ }) rfl
  · exact StepKept.rfl p

theorem waitForSlot_kept (p : Pkg) (c : Nat) : StepKept p (waitForSlot p c) := by
  unfold waitForSlot
  split
  · exact StepKept.rfl p
  · exact StepKept.of_upper ((dm_upper p _).trans (bump_upper _ 1 (by decide) (by decide)))

theorem issuePiece_kept (p : Pkg) (c : Nat) : StepKept p (issuePiece p c) :=
  (charge_kept p _ _ _ _).trans (StepKept.of_upper ((dm_upper _ _).trans (dm_upper _ _)))

theorem nextTurn_kept (p : Pkg) (ready : List Nat) : StepKept p (nextTurn p ready) := StepKept.of_upper (dm_upper p _)

theorem serveChannels_kept (fuel : Nat) (p : Pkg) : StepKept p (serveChannels fuel p) := by
  induction fuel generalizing p with
  | zero => exact StepKept.rfl p
  | succ fuel ih =>
    rw [serveChannels]
    dsimp only
    split
    · exact (StepKept.of_upper (dm_upper p _)).trans (StepKept.foldl (fun q c _ => waitForSlot_kept q c) _)
    · split
      · exact (issuePiece_kept p _).trans (ih _)
      · split
        · exact ((StepKept.of_upper (dm_upper p _)).trans (issuePiece_kept _ _)).trans (ih _)
        · exact (nextTurn_kept p _).trans (ih _)
      · exact (nextTurn_kept p _).trans (ih _)

theorem serve_kept (p : Pkg) : StepKept p (serve p) :=
  (serveChannels_kept _ p).trans (StepKept.of_upper (wr_upper _ _ (by decide) (by decide)))

/-- A string written below 0x6000 leaves the upper entries. -/
theorem UpperKept.wrB (p : Pkg) {e : Entry} {sub : Nat} (b : Bytes) (hlow : keyAt e 0 sub < 0x600000) : UpperKept p (wrB p e sub b) := by
  refine ⟨?_, wrB_parts _ _ _ _, fun k hk => ?_⟩
  · unfold Machine.wrB
    split <;> exact Eq.refl _
  · unfold Machine.wrB
    split
    · exact Eq.refl _
    · exact tfind_tput_ne _ _ (show k ≠ keyAt e 0 sub by omega)

theorem haltNow_kept (p : Pkg) {c : Nat} (hc : c < 256) (f : DmaFault) : StepKept p (haltNow p c f) := by
  have hkey : ∀ e : Entry, e.index < 0x6000 → keyAt e 0 c < 0x600000 := fun e he => by simp only [keyAt]; omega
  have hrecord : UpperKept p (setChanState (last (Machine.wrB (modChan p c (fun k => { k with pieces := [], halting := none, waiting := false })) Ix.dmChannelFault c f.bytes)
      Ix.dmChannelLastStatus c f.haltStatus) c 5) :=
    (((dm_upper p _).trans (UpperKept.wrB _ _ (hkey Ix.dmChannelFault (by decide)))).trans (wr_upper _ _ (by decide) hc)).trans (wr_upper _ _ (by decide) hc)
  unfold haltNow
  dsimp only
  generalize setChanState _ c 5 = q at hrecord ⊢
  refine ((StepKept.of_upper hrecord).trans ?_).trans (serve_kept _)
  split
  · exact StepKept.of_keeps (raise_keeps _ _ _ _ _)
  · exact StepKept.rfl q

theorem haltPartitionChannels_kept (p : Pkg) (pp : Nat) : StepKept p (haltPartitionChannels p pp) :=
  StepKept.foldl (fun _ _ hc => haltNow_kept _ (List.mem_range.1 (List.mem_filter.1 hc).1) _) p

theorem abandonMoves_kept (p : Pkg) (f : Move → Bool) : StepKept p (abandonMoves p f) := by
  unfold abandonMoves
  dsimp only
  split
  · exact StepKept.rfl p
  · exact StepKept.of_upper ((tm_upper p _).trans (bump_upper _ _ (by decide) (by decide)))

theorem respondError_kept (p : Pkg) (b : Bool) (k : Packet) (status : Nat) : StepKept p (respondError p b k status) := by
  have hnoted : UpperKept p (noteMs (bump p Ix.msErrorsSent 0 1) status) := by
    refine (bump_upper p (e := Ix.msErrorsSent) (sub := 0) 1 (by decide) (by decide)).trans ?_
    unfold noteMs
    split
    · exact wr_upper _ _ (by decide) (by decide)
    · exact UpperKept.rfl _
  exact (StepKept.of_upper hnoted).trans (StepKept.of_keeps (launch_keeps _ _ _))

theorem resetHandsOff_kept (p : Pkg) (pp : Nat) : StepKept p (resetHandsOff p pp) := by
  have hhalted : StepKept p (haltPartitionChannels (abandonPartitionMoves p pp) pp) := (abandonMoves_kept p _).trans (haltPartitionChannels_kept _ pp)
  unfold resetHandsOff
  generalize haltPartitionChannels (abandonPartitionMoves p pp) pp = q at hhalted ⊢
  exact hhalted.trans (StepKept.foldl (fun r k _ => (StepKept.of_upper (ms_upper r _)).trans (respondError_kept _ _ _ _)) q)

theorem resetEnded_kept (p : Pkg) (pp : Nat) : StepKept p (resetEnded p pp) := by
  unfold resetEnded endAll
  exact (((modEr_kept p pp _).trans (modSe_kept _ pp _)).trans (modSc_kept _ pp _)).trans (modSc_kept _ pp _)

theorem discardStep_kept (p : Pkg) (pp : Nat) : StepKept p (discardStep p pp) := by
  rw [discardStep_eq]
  split
  · exact (stepDiscarded_kept p pp).trans ((resetHandsOff_kept _ pp).trans (resetEnded_kept _ pp))
  · exact stepDiscarded_kept p pp

theorem showFences_kept (p : Pkg) : StepKept p (showFences p) :=
  StepKept.foldl (fun _ pp hpp => StepKept.of_upper (wr_upper _ _ (by decide) (by have := List.mem_range.1 hpp; omega))) p

theorem retireSource_kept (p : Pkg) (x : Nat) : StepKept p (retireSource p x) := by
  have habandoned : StepKept p (abandonSource p x) := (StepKept.of_upper (ms_upper p _)).trans (StepKept.of_keeps (pump_keeps _))
  unfold retireSource
  dsimp only
  generalize abandonSource p x = q at habandoned ⊢
  split
  · exact (habandoned.trans (StepKept.of_upper (ms_upper q _))).trans (showFences_kept _)
  · exact (habandoned.trans (StepKept.of_upper (ms_upper q _))).trans
      (StepKept.foldl (fun r d _ => StepKept.foldl (fun t l _ => StepKept.of_keeps (send_keeps _ _)) r) _)

theorem retireUnresolved_kept (p : Pkg) (pp : Nat) : StepKept p (retireUnresolved p pp) := StepKept.foldl (fun q x _ => retireSource_kept q x) p

/-- Lanes lie below 0x6000. -/
theorem lanesKey_lt {k : Nat} (h : lanesKey k) : k < 0x600000 := by
  obtain ⟨l, hl, h⟩ := h
  simp only [laneKey, keyAt, Ix.tfLinkLanes, Ix.tfLaneState] at h
  omega

theorem lanesDealt_kept (p : Pkg) : StepKept p (lanesDealt p) := by
  have hframe := lanesDealt_frame p
  generalize lanesDealt p = q at hframe ⊢
  exact ⟨(congrArg Pkg.ru hframe.rest :), fun k => congrArg stepControl (part_of_parts hframe.parts k),
    fun k hk _ => hframe.vals k fun hlane => absurd (lanesKey_lt hlane) (by omega)⟩

theorem showProfile_kept (p : Pkg) : StepKept p (showProfile p) := by
  rw [showProfile_eq]
  have hshown := wr_upper p (e := Ix.tfProfileActive) (sub := 0) (profileAsked p) (by decide) (by decide)
  exact (StepKept.of_upper hshown).trans (lanesDealt_kept _)

end Sys2Proof.Machine
end

section
/-! What a rollback shows and leaves (R443 to R445, for O54). -/

namespace Sys2Proof.Machine

/-- Entries of its own that a partition's rollback writes. -/
def rollbackEntries : List Nat := [Ix.pcState.index, Ix.pcStepsFailed.index, Ix.ruRollbacks.index, Ix.ruLastStatus.index, Ix.pcLastStatus.index]

/-- What a change of partition `pp` leaves: the package's own Drydown, the control of every other partition, and the entries from 0x6000 on but the engines'
time and the partition's own of a rollback. -/
structure RollFrame (pp : Nat) (p q : Pkg) : Prop where
  ru : q.ru = p.ru
  control : ∀ k, k ≠ pp → stepControl (part q k) = stepControl (part p k)
  vals : ∀ (e : Entry) (sub : Nat), sub < 256 → 0x6000 ≤ e.index → e.index ≠ Ix.pcEngineNs.index → e.index ∉ rollbackEntries ∨ sub ≠ pp →
    tfind q.dict.vals (keyAt e 0 sub) = tfind p.dict.vals (keyAt e 0 sub)

section
variable {pp : Nat} {p q r : Pkg}

theorem RollFrame.trans (h : RollFrame pp p q) (g : RollFrame pp q r) : RollFrame pp p r :=
  ⟨g.ru.trans h.ru, fun k hk => (g.control k hk).trans (h.control k hk), fun e sub hs he hne ho => (g.vals e sub hs he hne ho).trans (h.vals e sub hs he hne ho)⟩

theorem StepKept.roll (h : StepKept p q) (pp : Nat) : RollFrame pp p q :=
  ⟨h.ru, fun k _ => h.control k, fun _ _ _ he hne _ => h.vals _ (by simp only [keyAt]; omega) (by simp only [keyAt]; omega)⟩

theorem RollFrame.rfl (pp : Nat) (p : Pkg) : RollFrame pp p p := (StepKept.rfl p).roll pp

theorem RollFrame.rd (h : RollFrame pp p q) (e : Entry) {sub : Nat} (hs : sub < 256) (he : 0x6000 ≤ e.index) (hne : e.index ≠ Ix.pcEngineNs.index)
    (ho : e.index ∉ rollbackEntries ∨ sub ≠ pp) : Machine.rd q e sub = Machine.rd p e sub := rd_of_val (h.vals e sub hs he hne ho)

theorem RollFrame.isRack (h : RollFrame pp p q) {k : Nat} (hk : k < 12) : Machine.isRack q k = Machine.isRack p k := by
  rw [Machine.isRack, rdB_of_val (h.vals Ix.pcRackPartition k (by omega) (by decide) (by decide) (.inl (by decide))), Machine.isRack]

theorem RollFrame.state (h : RollFrame pp p q) {k : Nat} (hk : k < 12) (hne : k ≠ pp) : pcState q k = pcState p k :=
  h.rd Ix.pcState (by omega) (by decide) (by decide) (.inr hne)

theorem modPart_roll (p : Pkg) (pp : Nat) (f : Part → Part) : RollFrame pp p (modPart p pp f) :=
  ⟨Eq.refl _, fun _ hk => congrArg stepControl (part_modPart_ne p f hk), fun _ _ _ _ _ _ => Eq.refl _⟩

theorem wr_roll (p : Pkg) {pp : Nat} (hpp : pp < 12) {e : Entry} (v : Nat) (he : e.index ∈ rollbackEntries) : RollFrame pp p (wr p e pp v) := by
  refine ⟨Eq.refl _, fun _ _ => Eq.refl _, fun e' sub hs _ _ ho => tfind_tput_ne _ _ ?_⟩
  rcases ho with ho | ho
  · exact keyAt_ne (fun h => ho (h ▸ he)) hs (by omega)
  · simp only [keyAt]
    omega

end

theorem raiseRu_roll (p : Pkg) {pp : Nat} (hpp : pp < 12) (code unit detail : Nat) : RollFrame pp p (raiseRu p pp code unit detail) :=
  (wr_roll p hpp code (by decide)).trans ((StepKept.of_keeps (raise_keeps _ _ _ _ _)).roll pp)

theorem raiseRu_parts (p : Pkg) (pp code unit detail : Nat) : (raiseRu p pp code unit detail).parts = p.parts := (raiseAs_keeps p Ix.ruLastStatus pp code pp unit detail).parts

theorem haltPartition_roll (p : Pkg) {pp : Nat} (hpp : pp < 12) (status : Nat) : RollFrame pp p (haltPartition p pp status) := by
  have hrecord := (wr_roll p hpp (e := Ix.pcLastStatus) status (by decide)).trans (modPart_roll _ pp (fun x => { x with pc := { x.pc with stepRunning := false } }))
  unfold haltPartition
  dsimp only
  split
  · exact hrecord
  · exact (hrecord.trans (wr_roll _ hpp 7 (by decide))).trans ((StepKept.of_keeps (raise_keeps _ _ _ _ _)).roll pp)

theorem sendReport_roll (p : Pkg) (pp : Nat) (r : ReportRecord) : RollFrame pp p (sendReport p pp r) := by
  unfold sendReport
  split
  · exact modPart_roll p pp _
  · exact (StepKept.of_keeps (emit_keeps _ _)).roll pp

/-- A report changes of its partition the reports that the lead holds, and nothing else. -/
theorem sendReport_part (p : Pkg) (pp : Nat) (r : ReportRecord) : ∃ l, part (sendReport p pp r) pp = { part p pp with ru := { (part p pp).ru with reports := l } } := by
  unfold sendReport
  split
  · exact ⟨_, part_modRu _ _ _⟩
  · exact ⟨_, rfl⟩

/-! ### The count of rollbacks (R445) -/

/-- How often the running step has been rolled back, this rollback among them. -/
def timesRolled (p : Pkg) (pp : Nat) : Nat := if (part p pp).ru.rolledStep = stepOf p pp then (part p pp).ru.rolledTimes + 1 else 1

/-- A rollback counted, before the limit is judged. -/
def rollbackCounted (p : Pkg) (pp : Nat) : Pkg :=
  raiseRu (bump (bump (modRu p pp (fun q => { q with rolledStep := stepOf p pp, rolledTimes := timesRolled p pp })) Ix.pcStepsFailed pp 1) Ix.ruRollbacks pp 1) pp 0x1207 0xFFFFFFFF 0

theorem countRollback_eq (p : Pkg) (pp : Nat) : countRollback p pp = if rd (rollbackCounted p pp) Ix.ruRollbackLimit pp ≤ timesRolled p pp
    then haltPartition (last (rollbackCounted p pp) Ix.ruLastStatus pp 0x1208) pp 0x1208 else rollbackCounted p pp := rfl

theorem rollbackCounted_roll (p : Pkg) {pp : Nat} (hpp : pp < 12) : RollFrame pp p (rollbackCounted p pp) :=
  (((modPart_roll p pp _).trans (wr_roll _ hpp _ (by decide))).trans (wr_roll _ hpp _ (by decide))).trans (raiseRu_roll _ hpp _ _ _)

theorem rollbackCounted_shows (p : Pkg) {pp : Nat} (hpp : pp < 12) :
    (part (rollbackCounted p pp) pp).ru = { (part p pp).ru with rolledStep := stepOf p pp, rolledTimes := timesRolled p pp }
    ∧ rd (rollbackCounted p pp) Ix.ruRollbacks pp = (rd p Ix.ruRollbacks pp + 1) % 2 ^ 32 := by
  have hkeeps := raiseAs_keeps (bump (bump (modRu p pp (fun q => { q with rolledStep := stepOf p pp, rolledTimes := timesRolled p pp })) Ix.pcStepsFailed pp 1) Ix.ruRollbacks pp 1)
    Ix.ruLastStatus pp 0x1207 pp 0xFFFFFFFF 0
  refine ⟨?_, ?_⟩
  · show (part (raiseAs _ Ix.ruLastStatus pp 0x1207 pp 0xFFFFFFFF 0) pp).ru = _
    rw [part_of_parts hkeeps.parts, part_last, part_bump, part_bump, part_modRu]
  · refine (hkeeps.rd _ _ (commsKey_far (.inr (by simp only [keyAt, Ix.ruRollbacks]; omega)))).trans ?_
    rw [rd_last_ne _ _ (by decide) (by omega) (by omega), rd_bump_self, rd_bump_ne _ _ (by decide) (by omega) (by omega)]
    rfl

/-- What the count of a rollback shows. -/
structure RollbackCounted (pp : Nat) (p q : Pkg) : Prop where
  frame : RollFrame pp p q
  ru : (part q pp).ru = { (part p pp).ru with rolledStep := stepOf p pp, rolledTimes := timesRolled p pp }
  count : rd q Ix.ruRollbacks pp = (rd p Ix.ruRollbacks pp + 1) % 2 ^ 32
  halts : rd p Ix.ruRollbackLimit pp ≤ timesRolled p pp → pcState q pp = 7 ∧ (part q pp).pc.stepRunning = false ∧ rd q Ix.pcLastStatus pp = 0x1208
    ∧ rd q Ix.ruLastStatus pp = 0x1208

theorem haltPartition_ruLast (p : Pkg) {pp : Nat} (hpp : pp < 12) (status : Nat) : rd (haltPartition p pp status) Ix.ruLastStatus pp = rd p Ix.ruLastStatus pp
    ∧ rd (haltPartition p pp status) Ix.ruRollbacks pp = rd p Ix.ruRollbacks pp := by
  have hkept : ∀ e : Entry, 0x6000 ≤ e.index → e.index ≠ Ix.pcLastStatus.index → e.index ≠ Ix.pcState.index → rd (haltPartition p pp status) e pp = rd p e pp := by
    intro e he hlast hstate
    unfold haltPartition
    dsimp only
    split
    · exact rd_last_ne _ _ hlast (by omega) (by omega)
    · refine ((raise_keeps _ _ _ _ _).rd _ _ (commsKey_far (.inr (by simp only [keyAt]; omega)))).trans ?_
      exact (rd_wr_ne _ _ hstate (by omega) (by omega)).trans (rd_last_ne _ _ hlast (by omega) (by omega))
  exact ⟨hkept _ (by decide) (by decide) (by decide), hkept _ (by decide) (by decide) (by decide)⟩

theorem countRollback_shows (p : Pkg) {pp : Nat} (hpp : pp < 12) : RollbackCounted pp p (countRollback p pp) := by
  have hframe := rollbackCounted_roll p hpp
  obtain ⟨hru, hcount⟩ := rollbackCounted_shows p hpp
  have hlimit := hframe.rd Ix.ruRollbackLimit (sub := pp) (by omega) (by decide) (by decide) (.inl (by decide))
  rw [countRollback_eq]
  generalize rollbackCounted p pp = q at *
  rw [hlimit]
  split
  · rename_i hover
    obtain ⟨hstate, hstatus, hrunning⟩ := haltPartition_shows (last q Ix.ruLastStatus pp 0x1208) hpp 0x1208
    obtain ⟨hlast, hkept⟩ := haltPartition_ruLast (last q Ix.ruLastStatus pp 0x1208) hpp 0x1208
    refine ⟨(hframe.trans (wr_roll q hpp 0x1208 (by decide))).trans (haltPartition_roll _ hpp _), ?_, ?_, fun _ => ⟨hstate, hrunning, hstatus, hlast.trans (rd_last_self _ _ _ _)⟩⟩
    · rw [haltPartition_ru, part_last, hru]
    · rw [hkept, rd_last_ne _ _ (by decide) (by omega) (by omega), hcount]
  · exact ⟨hframe, hru, hcount, fun h => absurd h ‹_›⟩

/-! ### A rollback, part by part (R444) -/

/-- The cause recorded, the votes given up. -/
def rollbackBegun (p : Pkg) (pp : Nat) (r : PoisonRecord) : Pkg := modRu p pp (fun q => { q with poison := some r, votes := [], captureUsed := 0 })

/-- A leaving member noted for the profile (R317). -/
def memberNoted (p : Pkg) (pp : Nat) (r : PoisonRecord) : Pkg :=
  if r.cause = 5 ∧ p.tf.memberLost.contains pp = false then showProfile { p with tf := { p.tf with memberLost := p.tf.memberLost ++ [pp] } } else p

/-- What a preemption has saved, dropped (R462). -/
def savedDropped (p : Pkg) (pp : Nat) : Pkg := if pcState p pp = 4 ∨ pcState p pp = 5 then setPcState (discardSaved p pp) pp 3 else p

/-- The step discarded and its fences reset. -/
def stepEnded (p : Pkg) (pp : Nat) : Pkg := retireUnresolved (discardStep (stopPasses p pp) pp) pp

/-- The member's report of verdict 1 sent. -/
def failureReported (p : Pkg) (pp : Nat) : Pkg :=
  sendReport (modRu p pp (fun q => { q with reported := true })) pp (ownReport p pp 1)

theorem rollback_eq {p : Pkg} {pp : Nat} {r : PoisonRecord} (hfirst : (part p pp).ru.poison = none) (hstep : r.step = stepOf p pp) :
    rollback p pp r = countRollback (failureReported (stepEnded (savedDropped (memberNoted (rollbackBegun p pp r) pp r) pp) pp) pp) pp := by
  rw [rollback, if_neg (by simp [hfirst, hstep])]
  rfl

theorem memberNoted_kept (p : Pkg) (pp : Nat) (r : PoisonRecord) : StepKept p (memberNoted p pp r) := by
  have hnoted : StepKept p { p with tf := { p.tf with memberLost := p.tf.memberLost ++ [pp] } } := StepKept.of_dict rfl rfl
  unfold memberNoted
  split
  · exact hnoted.trans (showProfile_kept _)
  · exact StepKept.rfl p

theorem savedDropped_roll (p : Pkg) {pp : Nat} (hpp : pp < 12) : RollFrame pp p (savedDropped p pp) ∧ stepControl (part (savedDropped p pp) pp) = stepControl (part p pp)
    ∧ rd (savedDropped p pp) Ix.ruRollbacks pp = rd p Ix.ruRollbacks pp := by
  have hdropped := StepKept.of_block (discardSaved_frame p pp)
  unfold savedDropped
  split
  · refine ⟨(hdropped.roll pp).trans (wr_roll _ hpp 3 (by decide)), hdropped.control pp, ?_⟩
    exact (rd_wr_ne _ _ (by decide) (by omega) (by omega)).trans (hdropped.rd _ (by omega) (by decide) (by decide))
  · exact ⟨RollFrame.rfl pp p, rfl, rfl⟩

theorem stepEnded_kept (p : Pkg) (pp : Nat) : StepKept p (stepEnded p pp) :=
  ((stopPasses_kept p pp).trans (discardStep_kept _ pp)).trans (retireUnresolved_kept _ pp)

theorem failureReported_roll (p : Pkg) (pp : Nat) : RollFrame pp p (failureReported p pp) := (modPart_roll p pp _).trans (sendReport_roll _ pp _)

theorem failureReported_part (p : Pkg) (pp : Nat) : ∃ l, (part (failureReported p pp) pp).ru = { (part p pp).ru with reported := true, reports := l } := by
  obtain ⟨l, hl⟩ := sendReport_part (modRu p pp (fun q => { q with reported := true })) pp (ownReport p pp 1)
  refine ⟨l, ?_⟩
  rw [failureReported, hl, part_modRu]

theorem failureReported_rd (p : Pkg) (pp : Nat) (e : Entry) (sub : Nat) : rd (failureReported p pp) e sub = rd p e sub := by
  unfold failureReported sendReport
  split <;> rfl

/-- What the first rollback of a running step shows (R444, R445). -/
structure RolledBack (pp : Nat) (r : PoisonRecord) (p q : Pkg) : Prop where
  frame : RollFrame pp p q
  poison : (part q pp).ru.poison = some r
  votes : (part q pp).ru.votes = []
  reported : (part q pp).ru.reported = true
  count : rd q Ix.ruRollbacks pp = (rd p Ix.ruRollbacks pp + 1) % 2 ^ 32
  rolledStep : (part q pp).ru.rolledStep = stepOf p pp
  rolledTimes : (part q pp).ru.rolledTimes = timesRolled p pp
  halts : rd p Ix.ruRollbackLimit pp ≤ timesRolled p pp → pcState q pp = 7 ∧ (part q pp).pc.stepRunning = false ∧ rd q Ix.pcLastStatus pp = 0x1208
    ∧ rd q Ix.ruLastStatus pp = 0x1208

theorem rollback_shows {p : Pkg} {pp : Nat} (hpp : pp < 12) {r : PoisonRecord} (hfirst : (part p pp).ru.poison = none) (hstep : r.step = stepOf p pp) :
    RolledBack pp r p (rollback p pp r) := by
  rw [rollback_eq hfirst hstep]
  have f1 : RollFrame pp p (rollbackBegun p pp r) := modPart_roll p pp _
  have ru1 : (part (rollbackBegun p pp r) pp).ru = { (part p pp).ru with poison := some r, votes := [], captureUsed := 0 } := by rw [rollbackBegun, part_modRu]
  have count1 : rd (rollbackBegun p pp r) Ix.ruRollbacks pp = rd p Ix.ruRollbacks pp := rfl
  generalize rollbackBegun p pp r = p1 at *
  have k2 := memberNoted_kept p1 pp r
  generalize memberNoted p1 pp r = p2 at *
  obtain ⟨f3, control3, count3⟩ := savedDropped_roll p2 hpp
  generalize savedDropped p2 pp = p3 at *
  have k4 := stepEnded_kept p3 pp
  generalize stepEnded p3 pp = p4 at *
  have f5 := failureReported_roll p4 pp
  obtain ⟨l, ru5⟩ := failureReported_part p4 pp
  have count5 := failureReported_rd p4 pp Ix.ruRollbacks pp
  generalize failureReported p4 pp = p5 at *
  have h := countRollback_shows p5 hpp
  generalize countRollback p5 pp = q at *
  have f := (((f1.trans (k2.roll pp)).trans f3).trans (k4.roll pp)).trans f5
  have ru3 : (part p3 pp).ru = (part p2 pp).ru := congrArg Prod.fst control3
  have ru : (part p5 pp).ru = { (part p pp).ru with poison := some r, votes := [], captureUsed := 0, reported := true, reports := l } := by
    rw [ru5, k4.partRu, ru3, k2.partRu, ru1]
  have hstep : stepOf p5 pp = stepOf p pp := f.rd Ix.pcStepNumber (by omega) (by decide) (by decide) (.inl (by decide))
  have htimes : timesRolled p5 pp = timesRolled p pp := by rw [timesRolled, hstep, ru, timesRolled]
  have hlimit : rd p5 Ix.ruRollbackLimit pp = rd p Ix.ruRollbackLimit pp := f.rd Ix.ruRollbackLimit (by omega) (by decide) (by decide) (.inl (by decide))
  refine ⟨f.trans h.frame, ?_, ?_, ?_, ?_, ?_, ?_, fun hover => h.halts (by rw [hlimit, htimes]; exact hover)⟩
  · rw [h.ru, ru]
  · rw [h.ru, ru]
  · rw [h.ru, ru]
  · rw [h.count, count5, k4.rd _ (by omega) (by decide) (by decide), count3, k2.rd _ (by omega) (by decide) (by decide), count1]
  · rw [h.ru, hstep]
  · rw [h.ru, htimes]

/-- A rollback that finds another cause recorded, or another step, changes nothing (R443, R444). -/
theorem rollback_idle {p : Pkg} {pp : Nat} {r : PoisonRecord} (h : (part p pp).ru.poison.isSome = true ∨ r.step ≠ stepOf p pp) : rollback p pp r = p := if_pos h

/-- The notice of a cause found here (R443). -/
def ownPoison (p : Pkg) (pp cause region block descriptor tile : Nat) : PoisonRecord :=
  { step := stepOf p pp, rackId := leAt (rdB p Ix.pcRackPartition pp) 0 2, sender := ownId p, cause, region, block, descriptor, tile }

/-- A cause found here leaves the other partitions be, and a running step poisoned (R443). -/
theorem causeRollback_shows (p : Pkg) {pp : Nat} (hpp : pp < 12) (cause region block descriptor tile : Nat) :
    RollFrame pp p (causeRollback p pp cause region block descriptor tile)
    ∧ ((part p pp).pc.stepRunning = true → (part (causeRollback p pp cause region block descriptor tile) pp).ru.poison ≠ none) := by
  unfold causeRollback
  split
  · rename_i hidle
    refine ⟨RollFrame.rfl pp p, fun hrunning hnone => ?_⟩
    rw [hrunning, hnone] at hidle
    simp at hidle
  · rename_i hnot
    rw [not_or] at hnot
    obtain ⟨hfirst, -⟩ := hnot
    have hfirst : (part p pp).ru.poison = none := by simpa using hfirst
    show RollFrame pp p (rollback ((otherMembers p pp).foldl (fun p' m => emit p' (.poison m pp (ownPoison p pp cause region block descriptor tile))) p) pp
        (ownPoison p pp cause region block descriptor tile))
      ∧ (_ → (part (rollback ((otherMembers p pp).foldl (fun p' m => emit p' (.poison m pp (ownPoison p pp cause region block descriptor tile))) p) pp
        (ownPoison p pp cause region block descriptor tile)) pp).ru.poison ≠ none)
    have hrecord : (ownPoison p pp cause region block descriptor tile).step = stepOf p pp := rfl
    generalize ownPoison p pp cause region block descriptor tile = r at hrecord ⊢
    have hsent : KeepsState p ((otherMembers p pp).foldl (fun p m => emit p (.poison m pp r)) p) :=
      List.foldlRecOn (motive := KeepsState p) _ _ (KeepsState.rfl p) fun _ hq _ _ => hq.trans (emit_keeps _ _)
    generalize (otherMembers p pp).foldl (fun p m => emit p (.poison m pp r)) p = q at hsent ⊢
    have hkept := StepKept.of_keeps hsent
    have hq : (part q pp).ru.poison = none := by rw [part_of_parts hsent.parts]; exact hfirst
    have hstep : r.step = stepOf q pp := hrecord.trans (hkept.rd Ix.pcStepNumber (by omega) (by decide) (by decide)).symm
    have h := rollback_shows hpp hq hstep
    exact ⟨(hkept.roll pp).trans h.frame, fun _ => by rw [h.poison]; simp⟩

end Sys2Proof.Machine
end

section
/-! Audit votes and the arbiter's result (R436 to R439, for O54). -/

namespace Sys2Proof.Machine

section
variable (p : Pkg) (pp : Nat)

theorem sendReport_rest (r : ReportRecord) : (sendReport p pp r).dict = p.dict ∧ (sendReport p pp r).mem = p.mem ∧ (sendReport p pp r).flash = p.flash := by
  unfold sendReport
  split <;> exact ⟨rfl, rfl, rfl⟩

/-- What may follow the end of a vote (R441): the tail's time, and the report. -/
structure ReportMayFollow (p : Pkg) (pp : Nat) (q : Pkg) : Prop where
  ru : ∃ b l, (part q pp).ru = { (part p pp).ru with reported := b, reports := l }
  mem : q.mem = p.mem
  flash : q.flash = p.flash
  rd : ∀ e : Entry, e.index ≠ Ix.ruAuditTailNs.index → Machine.rd q e pp = Machine.rd p e pp

theorem reportIfDone_shows (hpp : pp < 12) : ReportMayFollow p pp (reportIfDone p pp) := by
  unfold reportIfDone
  dsimp only
  split
  · generalize ownReport _ pp 0 = r
    obtain ⟨l, hl⟩ := sendReport_part (modRu (wr p Ix.ruAuditTailNs pp (p.now - (part p pp).ru.lastPassNs)) pp (fun q => { q with reported := true })) pp r
    obtain ⟨hdict, hmem, hflash⟩ := sendReport_rest (modRu (wr p Ix.ruAuditTailNs pp (p.now - (part p pp).ru.lastPassNs)) pp (fun q => { q with reported := true })) pp r
    refine ⟨⟨true, l, ?_⟩, hmem, hflash, fun e he => ?_⟩
    · rw [hl, part_modRu, part_wr]
    · exact (rd_of_dict hdict e pp).trans (rd_wr_ne _ _ he (by omega) (by omega))
  · exact ⟨⟨_, _, rfl⟩, rfl, rfl, fun _ _ => rfl⟩

/-- What ending a vote shows (R435). -/
structure VoteEnded (p : Pkg) (pp : Nat) (v : Vote) (q : Pkg) : Prop where
  ru : ∃ c b l, (part q pp).ru = { (part p pp).ru with votes := (part p pp).ru.votes.filter (· != v), captureUsed := c, reported := b, reports := l }
  mem : q.mem = p.mem
  flash : q.flash = p.flash
  rd : ∀ e : Entry, e.index ≠ Ix.ruAuditTailNs.index → Machine.rd q e pp = Machine.rd p e pp

theorem endVote_shows (hpp : pp < 12) (v : Vote) : VoteEnded p pp v (endVote p pp v) := by
  have h := reportIfDone_shows (modRu p pp (fun q => { q with votes := q.votes.filter (· != v), captureUsed := q.captureUsed - v.captureBytes })) pp hpp
  obtain ⟨b, l, hru⟩ := h.ru
  rw [part_modRu] at hru
  exact ⟨⟨_, b, l, hru⟩, h.mem, h.flash, h.rd⟩

end

theorem raiseRu_mem (p : Pkg) (pp code unit detail : Nat) : (raiseRu p pp code unit detail).mem = p.mem := (raiseAs_keeps p Ix.ruLastStatus pp code pp unit detail).mem
theorem raiseRu_flash (p : Pkg) (pp code unit detail : Nat) : (raiseRu p pp code unit detail).flash = p.flash := (raiseAs_keeps p Ix.ruLastStatus pp code pp unit detail).flash

theorem raiseRu_rd (p : Pkg) {pp : Nat} (hpp : pp < 12) (code unit detail : Nat) {e : Entry} (he : 0x6000 ≤ e.index) (hne : e.index ≠ Ix.ruLastStatus.index) :
    rd (raiseRu p pp code unit detail) e pp = rd p e pp :=
  ((raiseAs_keeps p Ix.ruLastStatus pp code pp unit detail).rd _ _ (commsKey_far (.inr (by simp only [keyAt]; omega)))).trans (rd_last_ne _ _ hne (by omega) (by omega))

theorem raiseRu_last (p : Pkg) {pp : Nat} (hpp : pp < 12) (code unit detail : Nat) : rd (raiseRu p pp code unit detail) Ix.ruLastStatus pp = code % 2 ^ 16 :=
  ((raiseAs_keeps p Ix.ruLastStatus pp code pp unit detail).rd _ _ (commsKey_far (.inr (by simp only [keyAt, Ix.ruLastStatus]; omega)))).trans (rd_last_self _ _ _ _)

/-! ### The auditor's result (R436 to R438) -/

/-- The oldest vote on a tile that awaits a block, `offset` regions on from the producing one (R434). -/
def voteAwaiting (p : Pkg) (pp block descriptor tile : Nat) (arbiter : Bool) (offset : Nat) : Option Vote :=
  (part p pp).ru.votes.find? (fun v => v.descriptor == descriptor && v.tile == tile && v.fromArbiter == arbiter && auditorRegion p pp (v.block / 8) offset == block / 8)

/-- The package with one tile more audited. -/
def tileAudited (p : Pkg) (pp : Nat) : Pkg := bump (modRu p pp (fun q => { q with stepAudited := q.stepAudited + 1 })) Ix.ruTilesAudited pp 1

/-- The package whose auditor disagrees on a tile, which its block makes again (R438). -/
def disagreed (p : Pkg) (pp : Nat) (v : Vote) (auditor : Nat) (fp : Bytes) : Pkg :=
  bump (raiseRu (bump (modRu p pp (fun q => { q with
    votes := q.votes.map (fun w => if w = v then { v with auditor := some fp, auditorBlock := auditor, fromArbiter := true } else w)
    stepDisagreements := q.stepDisagreements + 1 })) Ix.ruDisagreements pp 1) pp 0x1201 v.block 0) Ix.blockTileReexecutions v.block 1

theorem toArbiter_eq (p : Pkg) (pp : Nat) (v : Vote) (auditor : Nat) (fp : Bytes) : toArbiter p pp v auditor fp = requalifyFailed (disagreed p pp v auditor fp) := rfl

section
variable (p : Pkg) {pp : Nat} (hpp : pp < 12)
include hpp

theorem countUnaudited_shows : (part (countUnaudited p pp) pp).ru = { (part p pp).ru with stepUnaudited := (part p pp).ru.stepUnaudited + 1 }
    ∧ rd (countUnaudited p pp) Ix.ruTilesUnaudited pp = (rd p Ix.ruTilesUnaudited pp + 1) % 2 ^ 64 ∧ (countUnaudited p pp).mem = p.mem := by
  have hcount : rd (bump (modRu p pp (fun q => { q with stepUnaudited := q.stepUnaudited + 1 })) Ix.ruTilesUnaudited pp 1) Ix.ruTilesUnaudited pp
      = (rd p Ix.ruTilesUnaudited pp + 1) % 2 ^ 64 := rd_bump_self _ _ _ _
  have hpart : (part (bump (modRu p pp (fun q => { q with stepUnaudited := q.stepUnaudited + 1 })) Ix.ruTilesUnaudited pp 1) pp).ru
      = { (part p pp).ru with stepUnaudited := (part p pp).ru.stepUnaudited + 1 } := by rw [part_bump, part_modRu]
  unfold countUnaudited
  dsimp only
  split
  · exact ⟨by rw [part_of_parts (raiseRu_parts _ _ _ _ _), hpart], (raiseRu_rd _ hpp _ _ _ (by decide) (by decide)).trans hcount, raiseRu_mem _ _ _ _ _⟩
  · exact ⟨hpart, hcount, rfl⟩

theorem disagreed_shows (v : Vote) (hv : v.block < 96) (auditor : Nat) (fp : Bytes) :
    (part (disagreed p pp v auditor fp) pp).ru = { (part p pp).ru with
      votes := (part p pp).ru.votes.map (fun w => if w = v then { v with auditor := some fp, auditorBlock := auditor, fromArbiter := true } else w)
      stepDisagreements := (part p pp).ru.stepDisagreements + 1 }
    ∧ rd (disagreed p pp v auditor fp) Ix.ruDisagreements pp = (rd p Ix.ruDisagreements pp + 1) % 2 ^ 64 ∧ (disagreed p pp v auditor fp).mem = p.mem := by
  unfold disagreed
  refine ⟨?_, ?_, raiseRu_mem _ _ _ _ _⟩
  · rw [part_bump, part_of_parts (raiseRu_parts _ _ _ _ _), part_bump, part_modRu]
  · rw [rd_bump_ne _ _ (by decide) (by omega) (by omega), raiseRu_rd _ hpp _ _ _ (by decide) (by decide)]
    exact rd_bump_self _ _ _ _

end

/-- What the auditor's result makes of a package (R436 to R438). -/
def auditJudged (p : Pkg) (pp block : Nat) (v : Vote) (fingerprint : Option Bytes) : Pkg :=
  match fingerprint with
  | none => endVote (countUnaudited p pp) pp v
  | some fp => if fp = v.original then endVote (tileAudited p pp) pp v else toArbiter (tileAudited p pp) pp v block fp

section
variable {s : State} (hp : powered s.pkg = true) (pp : Fin 12) (block : Fin 96) (descriptor tile : Nat)
include hp

theorem auditTileComputed_judges {v : Vote} (hv : voteAwaiting (begun s) pp block descriptor tile false 1 = some v) (fp : Option Bytes) :
    Completes (.auditTileComputed pp block descriptor tile fp) s (fun q => q = auditJudged (begun s) pp block v fp) := by
  refine completes_of hp (exec_auditTileComputed pp block descriptor tile fp s) ?_
  simp only [voteAwaiting, beq_false] at hv
  rw [hv]
  cases fp <;> rfl

theorem auditTileComputed_stray (hnone : voteAwaiting (begun s) pp block descriptor tile false 1 = none) (fp : Option Bytes) :
    Completes (.auditTileComputed pp block descriptor tile fp) s (fun q => q = begun s) := by
  refine completes_of hp (exec_auditTileComputed pp block descriptor tile fp s) ?_
  simp only [voteAwaiting, beq_false] at hnone
  rw [hnone]

end

/-! ### The arbiter's result (R438, R439) -/

/-- A block charged for an audit where the history has room (R453). -/
theorem chargeBlock_shows (p : Pkg) (block status : Nat) (hroom : p.flash.history.length < 16384) : ∃ r : HistRecord,
    (chargeBlock p block status).flash.history = p.flash.history ++ [r] ∧ r.kind = 2 ∧ r.origin = 3 ∧ r.unit = block ∧ r.status = status := by
  unfold chargeBlock recordHistory
  dsimp only
  rw [show makeRoom (rd p Ix.btPoweredS 0) p.flash.history = some p.flash.history from if_pos hroom]
  exact ⟨_, rfl, rfl, rfl, rfl, rfl⟩

theorem chargeBlock_parts (p : Pkg) (block status : Nat) : (chargeBlock p block status).parts = p.parts := recordHistory_parts _ _ _ _ _ _
theorem chargeBlock_mem (p : Pkg) (block status : Nat) : (chargeBlock p block status).mem = p.mem := recordHistory_mem _ _ _ _ _ _

/-- The auditor outvoted (R438). -/
def auditorOutvoted (p : Pkg) (pp : Nat) (v : Vote) : Pkg :=
  endVote (raiseRu (bump (chargeBlock p v.auditorBlock 0x1205) Ix.ruAuditorOutvoted pp 1) pp 0x1205 v.auditorBlock 0) pp v

/-- The producing block found wrong (R439). -/
def blockCharged (p : Pkg) (pp : Nat) (v : Vote) : Pkg := chargeBlock (raiseRu p pp 0x1203 v.block 0) v.block 0x1203

/-- All three blocks under suspicion (R439). -/
def threeCharged (p : Pkg) (pp block : Nat) (v : Vote) : Pkg :=
  chargeBlock (chargeBlock (chargeBlock (raiseRu p pp 0x1204 v.block 0) v.block 0x1204) v.auditorBlock 0x1204) block 0x1204

/-- A vote that no arbiter could settle (R438). -/
def voteUnsettled (p : Pkg) (pp : Nat) (v : Vote) : Pkg := raiseRu (endVote p pp v) pp 0x1206 v.block 0

/-- What the arbiter's result makes of a package. -/
def arbiterJudged (p : Pkg) (pp block : Nat) (v : Vote) (fingerprint : Option Bytes) : Pkg :=
  match fingerprint with
  | none => causeRollback (voteUnsettled p pp v) pp 3 (v.block / 8) v.block v.descriptor v.tile
  | some fp =>
    if fp = v.original then auditorOutvoted p pp v
    else if some fp = v.auditor then confirmedWrong (blockCharged p pp v) pp 1 0x1203 v
    else confirmedWrong (threeCharged p pp block v) pp 2 0x1204 v

section
variable (p : Pkg) {pp : Nat} (v : Vote)

theorem auditorOutvoted_shows (hpp : pp < 12) (hroom : p.flash.history.length < 16384) : (part (auditorOutvoted p pp v) pp).ru.votes = (part p pp).ru.votes.filter (· != v)
    ∧ rd (auditorOutvoted p pp v) Ix.ruAuditorOutvoted pp = (rd p Ix.ruAuditorOutvoted pp + 1) % 2 ^ 32 ∧ (auditorOutvoted p pp v).mem = p.mem
    ∧ ∃ r : HistRecord, (auditorOutvoted p pp v).flash.history = p.flash.history ++ [r] ∧ r.kind = 2 ∧ r.origin = 3 ∧ r.unit = v.auditorBlock ∧ r.status = 0x1205 := by
  obtain ⟨r, hhistory, hkind, horigin, hunit, hstatus⟩ := chargeBlock_shows p v.auditorBlock 0x1205 hroom
  have hcount : rd (chargeBlock p v.auditorBlock 0x1205) Ix.ruAuditorOutvoted pp = rd p Ix.ruAuditorOutvoted pp :=
    recordHistory_rd _ _ _ _ _ _ _ _ (by omega) (.inr (by decide)) (by decide)
  have hparts := chargeBlock_parts p v.auditorBlock 0x1205
  have hmem := chargeBlock_mem p v.auditorBlock 0x1205
  unfold auditorOutvoted
  generalize chargeBlock p v.auditorBlock 0x1205 = q at *
  have hended := endVote_shows (raiseRu (bump q Ix.ruAuditorOutvoted pp 1) pp 0x1205 v.auditorBlock 0) pp hpp v
  obtain ⟨c, b, l, hru⟩ := hended.ru
  refine ⟨?_, ?_, ?_, r, ?_, hkind, horigin, hunit, hstatus⟩
  · rw [hru, part_of_parts (raiseRu_parts _ _ _ _ _), part_bump, part_of_parts hparts]
  · rw [hended.rd _ (by decide), raiseRu_rd _ hpp _ _ _ (by decide) (by decide), rd_bump_self, hcount]
    rfl
  · rw [hended.mem, raiseRu_mem, bump_mem, hmem]
  · rw [hended.flash, raiseRu_flash]
    exact hhistory

theorem blockCharged_shows (hroom : p.flash.history.length < 16384) : (∃ r : HistRecord, (blockCharged p pp v).flash.history = p.flash.history ++ [r]
      ∧ r.kind = 2 ∧ r.origin = 3 ∧ r.unit = v.block ∧ r.status = 0x1203)
    ∧ (blockCharged p pp v).parts = p.parts ∧ (blockCharged p pp v).mem = p.mem := by
  have hflash := raiseRu_flash p pp 0x1203 v.block 0
  have hparts := raiseRu_parts p pp 0x1203 v.block 0
  have hmem := raiseRu_mem p pp 0x1203 v.block 0
  unfold blockCharged
  generalize raiseRu p pp 0x1203 v.block 0 = q at *
  rw [← hflash] at hroom ⊢
  exact ⟨chargeBlock_shows q v.block 0x1203 hroom, (chargeBlock_parts q _ _).trans hparts, (chargeBlock_mem q _ _).trans hmem⟩

theorem threeCharged_shows (block : Nat) (hroom : p.flash.history.length + 3 ≤ 16384) : (∃ a b c : HistRecord, (threeCharged p pp block v).flash.history = p.flash.history ++ [a, b, c]
      ∧ a.unit = v.block ∧ b.unit = v.auditorBlock ∧ c.unit = block ∧ ∀ r ∈ [a, b, c], r.kind = 2 ∧ r.origin = 3 ∧ r.status = 0x1204)
    ∧ (threeCharged p pp block v).parts = p.parts ∧ (threeCharged p pp block v).mem = p.mem := by
  have hflash := raiseRu_flash p pp 0x1204 v.block 0
  have hparts := raiseRu_parts p pp 0x1204 v.block 0
  have hmem := raiseRu_mem p pp 0x1204 v.block 0
  unfold threeCharged
  generalize raiseRu p pp 0x1204 v.block 0 = q0 at *
  rw [← hflash] at hroom ⊢
  obtain ⟨a, ha, ka, oa, ua, sa⟩ := chargeBlock_shows q0 v.block 0x1204 (by omega)
  have parts1 := chargeBlock_parts q0 v.block 0x1204
  have mem1 := chargeBlock_mem q0 v.block 0x1204
  generalize chargeBlock q0 v.block 0x1204 = q1 at *
  obtain ⟨b, hb, kb, ob, ub, sb⟩ := chargeBlock_shows q1 v.auditorBlock 0x1204 (by rw [ha, List.length_append, List.length_singleton]; omega)
  have parts2 := chargeBlock_parts q1 v.auditorBlock 0x1204
  have mem2 := chargeBlock_mem q1 v.auditorBlock 0x1204
  generalize chargeBlock q1 v.auditorBlock 0x1204 = q2 at *
  obtain ⟨c, hc, kc, oc, uc, sc⟩ := chargeBlock_shows q2 block 0x1204 (by rw [hb, ha]; simp only [List.length_append, List.length_singleton]; omega)
  refine ⟨⟨a, b, c, by rw [hc, hb, ha]; simp, ua, ub, uc, ?_⟩, by rw [chargeBlock_parts, parts2, parts1, hparts], by rw [chargeBlock_mem, mem2, mem1, hmem]⟩
  simp [ka, oa, sa, kb, ob, sb, kc, oc, sc]

theorem voteUnsettled_shows (hpp : pp < 12) : (part (voteUnsettled p pp v) pp).ru.votes = (part p pp).ru.votes.filter (· != v)
    ∧ rd (voteUnsettled p pp v) Ix.ruLastStatus pp = 0x1206 ∧ (voteUnsettled p pp v).mem = p.mem := by
  have hended := endVote_shows p pp hpp v
  obtain ⟨c, b, l, hru⟩ := hended.ru
  unfold voteUnsettled
  exact ⟨by rw [part_of_parts (raiseRu_parts _ _ _ _ _), hru], raiseRu_last _ hpp _ _ _, (raiseRu_mem _ _ _ _ _).trans hended.mem⟩

end

section
variable {s : State} (hp : powered s.pkg = true) (pp : Fin 12) (block : Fin 96) (descriptor tile : Nat)
include hp

theorem arbiterResult_judges {v : Vote} (hv : voteAwaiting (begun s) pp block descriptor tile true 2 = some v) (fp : Option Bytes) :
    Completes (.arbiterResult pp block descriptor tile fp) s (fun q => q = arbiterJudged (begun s) pp block v fp) := by
  refine completes_of hp (exec_arbiterResult pp block descriptor tile fp s) ?_
  simp only [voteAwaiting, beq_true] at hv
  rw [hv]
  cases fp <;> rfl

theorem arbiterResult_stray (hnone : voteAwaiting (begun s) pp block descriptor tile true 2 = none) (fp : Option Bytes) :
    Completes (.arbiterResult pp block descriptor tile fp) s (fun q => q = begun s) := by
  refine completes_of hp (exec_arbiterResult pp block descriptor tile fp s) ?_
  simp only [voteAwaiting, beq_true] at hnone
  rw [hnone]

end

end Sys2Proof.Machine
end

section
/-! Poison notices, audit reports and re-cuts (R442 to R447, for O54). -/

namespace Sys2Proof.Machine

/-- A violation is in the log, as its newest entry or folded into it (R357). -/
theorem logViolation_logs (p : Pkg) (kind port partner status step : Nat) (header : Bytes) :
    ∃ v ∈ (logViolation p kind port partner status step header).ms.violations, v.kind = kind ∧ v.partner = partner ∧ v.status = status := by
  unfold logViolation
  dsimp only
  split
  · split
    · rename_i w _ hsame
      exact ⟨{ w with repeats := (w.repeats + 1) % 65536 }, List.mem_append_right _ (List.mem_singleton.2 rfl), hsame.1, hsame.2.1, hsame.2.2.1⟩
    · rw [raiseAs, raise_violations]
      exact ⟨_, List.mem_append_right _ (List.mem_singleton.2 rfl), rfl, rfl, rfl⟩
  · rw [raiseAs, raise_violations]
    exact ⟨_, List.mem_singleton.2 rfl, rfl, rfl, rfl⟩

/-- A malformed record is discarded and logged (R442). -/
theorem malformed_logged (p : Pkg) (sender step : Nat) (header : Bytes) :
    (logViolation p 2 0xFF sender 0x0E07 step header).parts = p.parts ∧ (logViolation p 2 0xFF sender 0x0E07 step header).mem = p.mem
    ∧ ∃ v ∈ (logViolation p 2 0xFF sender 0x0E07 step header).ms.violations, v.kind = 2 ∧ v.partner = sender ∧ v.status = 0x0E07 :=
  ⟨logViolation_parts _ _ _ _ _ _ _, logViolation_mem _ _ _ _ _ _ _, logViolation_logs _ _ _ _ _ _ _⟩

section
variable {p : Pkg} {pp : Nat}

theorem fromMember_iff (sender reserved : Nat) : fromMember p pp sender reserved = true ↔ sender ∈ membersOf p pp ∧ reserved = 0 := by
  simp [fromMember]

/-- Whether a poison notice is of valid form (R442). -/
theorem poison_valid_iff (r : PoisonRecord) : (fromMember p pp r.sender r.reserved && (!isRack p pp || r.rackId == leAt (rdB p Ix.pcRackPartition pp) 0 2)) = true
    ↔ r.sender ∈ membersOf p pp ∧ r.reserved = 0 ∧ (isRack p pp = true → r.rackId = leAt (rdB p Ix.pcRackPartition pp) 0 2) := by
  rw [Bool.and_eq_true, fromMember_iff, and_assoc]
  cases isRack p pp <;> simp

theorem poisonArrives_valid {r : PoisonRecord}
    (h : r.sender ∈ membersOf p pp ∧ r.reserved = 0 ∧ (isRack p pp = true → r.rackId = leAt (rdB p Ix.pcRackPartition pp) 0 2)) :
    poisonArrives p pp r = if (part p pp).pc.stepRunning then rollback p pp r else p := if_pos ((poison_valid_iff r).2 h)

theorem poisonArrives_malformed {r : PoisonRecord}
    (h : ¬(r.sender ∈ membersOf p pp ∧ r.reserved = 0 ∧ (isRack p pp = true → r.rackId = leAt (rdB p Ix.pcRackPartition pp) 0 2))) :
    poisonArrives p pp r = logViolation p 2 0xFF r.sender 0x0E07 r.step (leBytes 4 r.step ++ leBytes 2 r.rackId ++ leBytes 2 r.sender ++ leBytes 4 r.cause) :=
  if_neg (mt (poison_valid_iff r).1 h)

theorem reportArrives_malformed {r : ReportRecord} (h : ¬(r.sender ∈ membersOf p pp ∧ r.reserved = 0)) : reportArrives p pp r
    = logViolation p 2 0xFF r.sender 0x0E07 r.step (leBytes 4 r.step ++ leBytes 2 r.sender ++ leBytes 2 r.verdict) := by
  have hbad : fromMember p pp r.sender r.reserved = false := Bool.eq_false_of_not_eq_true (mt (fromMember_iff _ _).1 h)
  exact if_pos (by rw [hbad]; rfl)

/-- The lead's list with a member's newest report (R441). -/
def reportTaken (p : Pkg) (pp : Nat) (r : ReportRecord) : Pkg := modRu p pp (fun q => { q with reports := q.reports.filter (fun x => x.sender != r.sender) ++ [r] })

theorem reportArrives_lead {r : ReportRecord} (hsender : r.sender ∈ membersOf p pp) (hreserved : r.reserved = 0) (hlead : isLead p pp = true) :
    reportArrives p pp r = recomputeIfReady (if r.verdict = 2 then requireRecut (causeRollback (reportTaken p pp r) pp 5 0xFF 0xFF 0 0) pp r.sender else reportTaken p pp r) pp := by
  have hvalid : fromMember p pp r.sender r.reserved = true := (fromMember_iff _ _).2 ⟨hsender, hreserved⟩
  have htaken : sendReport p pp r = reportTaken p pp r := if_pos hlead
  rw [reportArrives, if_neg (by rw [hvalid]; decide), if_neg (by rw [hlead]; decide), htaken]

theorem reportArrives_away {r : ReportRecord} (hsender : r.sender ∈ membersOf p pp) (hreserved : r.reserved = 0) (hlead : isLead p pp = false) : reportArrives p pp r = p := by
  have hvalid : fromMember p pp r.sender r.reserved = true := (fromMember_iff _ _).2 ⟨hsender, hreserved⟩
  rw [reportArrives, if_neg (by rw [hvalid]; decide), if_pos (by rw [hlead]; rfl)]

theorem reportTaken_shows (p : Pkg) (pp : Nat) (r : ReportRecord) :
    (part (reportTaken p pp r) pp).ru = { (part p pp).ru with reports := (part p pp).ru.reports.filter (fun x => x.sender != r.sender) ++ [r] } := by
  rw [reportTaken, part_modRu]

/-- A partition that is not at a lead, has no failed step or awaits a re-cut does not start a step again. -/
theorem recomputeIfReady_stays (h : isLead p pp = false ∨ (part p pp).ru.poison = none ∨ (part p pp).ru.recut ≠ [] ∨ (part p pp).pc.stepRunning = false ∨ pcState p pp ≠ 2) :
    recomputeIfReady p pp = p := by
  refine if_neg fun hall => ?_
  simp only [Bool.and_eq_true, beq_iff_eq, List.isEmpty_iff] at hall
  obtain ⟨⟨⟨⟨⟨⟨hlead, hpoison⟩, -⟩, hrecut⟩, hrunning⟩, hstate⟩, -⟩ := hall
  rcases h with h | h | h | h | h
  · rw [h] at hlead
    cases hlead
  · rw [h] at hpoison
    cases hpoison
  · exact h hrecut
  · rw [h] at hrunning
    cases hrunning
  · exact h hstate

end

/-- The package whose hole a re-cut has cleared (R324, R356, R447). -/
def recutTaken (p : Pkg) (pp package : Nat) : Pkg := modRu (purgePackage (clearHole p package) package) pp (fun q => { q with recut := q.recut.filter (· != package) })

theorem recutTaken_shows (p : Pkg) (pp package : Nat) : (part (recutTaken p pp package) pp).ru.recut = (part p pp).ru.recut.filter (· != package)
    ∧ package ∉ (recutTaken p pp package).tf.holes ∧ (∀ e ∈ (recutTaken p pp package).ms.dedup, e.1 / 2 ≠ package) ∧ (recutTaken p pp package).mem = p.mem := by
  have hparts : (purgePackage (clearHole p package) package).parts = p.parts := (wrB_parts _ _ _ _ :)
  have hholes : (purgePackage (clearHole p package) package).tf.holes = p.tf.holes.filter (· != package) := (congrArg Tf.holes (wrB_tf _ _ _ _) :)
  refine ⟨?_, ?_, fun e he => ?_, (wrB_mem _ _ _ _ :)⟩
  · rw [recutTaken, part_modRu, part_of_parts hparts]
  · show package ∉ (purgePackage (clearHole p package) package).tf.holes
    rw [hholes]
    simp
  · simpa using (List.mem_filter.1 he).2

section
variable {s : State} (hp : powered s.pkg = true) (pp : Fin 12)
include hp

/-- The first poison notice of a running step rolls it back (R444). -/
theorem poisonNotice_rollsBack {r : PoisonRecord}
    (hvalid : r.sender ∈ membersOf s.pkg pp ∧ r.reserved = 0 ∧ (isRack s.pkg pp = true → r.rackId = leAt (rdB s.pkg Ix.pcRackPartition pp) 0 2))
    (hrunning : (part s.pkg pp).pc.stepRunning = true) (hfirst : (part s.pkg pp).ru.poison = none) (hstep : r.step = stepOf s.pkg pp) :
    Completes (.poisonNotice pp r) s (RolledBack pp r (begun s)) := by
  refine completes_of hp (exec_poisonNotice pp r s) ?_
  rw [poisonArrives_valid (p := begun s) hvalid, if_pos (show (part (begun s) pp).pc.stepRunning = true from hrunning)]
  exact rollback_shows pp.isLt hfirst hstep

theorem poisonNotice_idle {r : PoisonRecord}
    (hvalid : r.sender ∈ membersOf s.pkg pp ∧ r.reserved = 0 ∧ (isRack s.pkg pp = true → r.rackId = leAt (rdB s.pkg Ix.pcRackPartition pp) 0 2))
    (h : (part s.pkg pp).pc.stepRunning = false ∨ (part s.pkg pp).ru.poison.isSome = true ∨ r.step ≠ stepOf s.pkg pp) :
    Completes (.poisonNotice pp r) s (fun q => q = begun s) := by
  refine completes_of hp (exec_poisonNotice pp r s) ?_
  rw [poisonArrives_valid (p := begun s) hvalid]
  split
  · rename_i hrunning
    refine rollback_idle (h.resolve_left fun hstopped => ?_)
    have hrunning : (part s.pkg pp).pc.stepRunning = true := hrunning
    rw [hstopped] at hrunning
    cases hrunning
  · rfl

theorem auditReport_taken {r : ReportRecord} (hsender : r.sender ∈ membersOf s.pkg pp) (hreserved : r.reserved = 0) (hlead : isLead s.pkg pp = true) :
    Completes (.auditReport pp r) s (fun q => ∃ p, (part p pp).ru.reports = (part s.pkg pp).ru.reports.filter (fun x => x.sender != r.sender) ++ [r]
      ∧ (part p pp).ru.poison = (part s.pkg pp).ru.poison ∧ p.dict = s.pkg.dict ∧ p.mem = s.pkg.mem
      ∧ q = recomputeIfReady (if r.verdict = 2 then requireRecut (causeRollback p pp 5 0xFF 0xFF 0 0) pp r.sender else p) pp) := by
  refine completes_of hp (exec_auditReport pp r s) ⟨reportTaken (begun s) pp r, ?_, ?_, rfl, rfl, reportArrives_lead (p := begun s) hsender hreserved hlead⟩
  · rw [reportTaken_shows]
    rfl
  · rw [reportTaken_shows]
    rfl

theorem recutComplete_completes (package : Nat) : Completes (.recutComplete pp package) s (fun q => ∃ p, (part p pp).ru.recut = (part s.pkg pp).ru.recut.filter (· != package)
    ∧ package ∉ p.tf.holes ∧ (∀ e ∈ p.ms.dedup, e.1 / 2 ≠ package) ∧ p.mem = s.pkg.mem ∧ q = recomputeIfReady p pp) := by
  obtain ⟨hrecut, hholes, hdedup, hmem⟩ := recutTaken_shows (begun s) pp package
  exact completes_of hp (exec_recutComplete pp package s) ⟨recutTaken (begun s) pp package, hrecut, hholes, hdedup, hmem, rfl⟩

end

end Sys2Proof.Machine
end

section
/-! The start of Drydown (R458, for O54). -/

namespace Sys2Proof.Machine

/-- A partition told to stop at the start of Drydown: the running step of a rack partition rolls back and its report says so, a package partition's step ends
at its boundary (R458). -/
def drydownTold (p : Pkg) (pp : Nat) : Pkg :=
  if pcState p pp = 0 ∨ pcState p pp = 1 ∨ pcState p pp = 7 then p
  else if isRack p pp then
    sendReport (causeRollback p pp 5 0xFF 0xFF 0 0) pp (ownReport (causeRollback p pp 5 0xFF 0xFF 0 0) pp 2)
  else modPc p pp (fun q => { q with stopPending := true })

theorem startDrydown_new {p : Pkg} (causing : Option FailedUnit) (restart : Bool) (hnew : rd p Ix.ruDrydownState 0 = 0) :
    startDrydown p causing restart = (List.range 12).foldl drydownTold (drydownBegun p causing restart) := if_neg (not_not.2 hnew)

/-- What a partition told shows when it was neither unassigned, stopped nor halted. -/
structure ToldToStop (pp : Nat) (p q : Pkg) : Prop where
  package : isRack p pp = false → (part q pp).pc.stopPending = true
  rack : isRack p pp = true → (part p pp).pc.stepRunning = true → (part q pp).ru.poison ≠ none

theorem drydownTold_shows (p : Pkg) {pp : Nat} (hpp : pp < 12) : RollFrame pp p (drydownTold p pp)
    ∧ (pcState p pp ∉ [0, 1, 7] → ToldToStop pp p (drydownTold p pp)) ∧ (isRack p pp = false → (drydownTold p pp).mem = p.mem) := by
  unfold drydownTold
  split
  · rename_i hidle
    exact ⟨RollFrame.rfl pp p, fun hstate => absurd hidle (by simpa using hstate), fun _ => rfl⟩
  · split
    · rename_i hrack
      obtain ⟨hroll, hpoison⟩ := causeRollback_shows p hpp 5 0xFF 0xFF 0 0
      generalize causeRollback p pp 5 0xFF 0xFF 0 0 = q at hroll hpoison ⊢
      obtain ⟨l, hl⟩ := sendReport_part q pp (ownReport q pp 2)
      refine ⟨hroll.trans (sendReport_roll q pp _), fun _ => ⟨fun hpackage => ?_, fun _ hrunning => ?_⟩, fun hpackage => ?_⟩
      · exact absurd (hpackage.symm.trans hrack) (by decide)
      · rw [hl]
        exact hpoison hrunning
      · exact absurd (hpackage.symm.trans hrack) (by decide)
    · rename_i hpackage
      refine ⟨modPart_roll p pp _, fun _ => ⟨fun _ => ?_, fun hrack => absurd hrack hpackage⟩, fun _ => rfl⟩
      rw [part_modPc]

/-- What has been done after the first `n` partitions have been told. -/
structure ToldUpTo (n : Nat) (p q : Pkg) : Prop where
  ru : q.ru = p.ru
  drydown : rd q Ix.ruDrydownState 0 = rd p Ix.ruDrydownState 0
  isRack : ∀ k < 12, isRack q k = isRack p k
  later : ∀ k < 12, n ≤ k → stepControl (part q k) = stepControl (part p k) ∧ pcState q k = pcState p k
  told : ∀ k < n, pcState p k ∉ [0, 1, 7] → ToldToStop k p q
  mem : (∀ k < 12, Machine.isRack p k = false) → q.mem = p.mem

theorem ToldToStop.of_control {pp : Nat} {p q r : Pkg} (h : ToldToStop pp p q) (hcontrol : stepControl (part r pp) = stepControl (part q pp)) : ToldToStop pp p r := by
  have hpoison : (part r pp).ru = (part q pp).ru := congrArg Prod.fst hcontrol
  have hpending : (part r pp).pc.stopPending = (part q pp).pc.stopPending := congrArg (fun x => x.2.2) hcontrol
  exact ⟨fun hpackage => hpending.trans (h.package hpackage), fun hrack hrunning => by rw [hpoison]; exact h.rack hrack hrunning⟩

theorem ToldUpTo.step {n : Nat} (hn : n < 12) {p q : Pkg} (h : ToldUpTo n p q) : ToldUpTo (n + 1) p (drydownTold q n) := by
  obtain ⟨hroll, htold, hmem⟩ := drydownTold_shows q hn
  obtain ⟨hcontrol, hstate⟩ := h.later n hn (Nat.le_refl n)
  have hrack := h.isRack n hn
  refine ⟨hroll.ru.trans h.ru, ?_, fun k hk => (hroll.isRack hk).trans (h.isRack k hk), fun k hk hle => ?_, fun k hk hworks => ?_, fun hnone => ?_⟩
  · exact (hroll.rd Ix.ruDrydownState (by decide) (by decide) (by decide) (.inl (by decide))).trans h.drydown
  · obtain ⟨hcontrol, hstate⟩ := h.later k hk (by omega)
    exact ⟨(hroll.control k (by omega)).trans hcontrol, (hroll.state hk (by omega)).trans hstate⟩
  · rcases Nat.lt_succ_iff_lt_or_eq.1 hk with hlt | rfl
    · exact (h.told k hlt hworks).of_control (hroll.control k (by omega))
    · have hnow := htold (by rw [hstate]; exact hworks)
      have hrunning : (part q k).pc.stepRunning = (part p k).pc.stepRunning := congrArg (fun x => x.2.1) hcontrol
      exact ⟨fun hp => hnow.package (hrack.trans hp), fun hr hrun => hnow.rack (hrack.trans hr) (hrunning.trans hrun)⟩
  · exact (hmem (hrack.trans (hnone n hn))).trans (h.mem hnone)

theorem all_told (p : Pkg) : ToldUpTo 12 p ((List.range 12).foldl drydownTold p) := by
  refine foldl_range_rec (P := fun n q => ToldUpTo n p q) 12 ?_ fun n hn q h => h.step hn
  exact ⟨rfl, rfl, fun _ _ => rfl, fun _ _ _ => ⟨rfl, rfl⟩, fun k hk => absurd hk (Nat.not_lt_zero k), fun _ => rfl⟩

/-- The start of Drydown (R458). -/
structure DrydownStarted (causing : Option FailedUnit) (restart : Bool) (p q : Pkg) : Prop where
  drydown : rd q Ix.ruDrydownState 0 = 1
  causing : q.ru.causingUnit = causing
  restart : q.ru.restartWhenDrained = restart
  told : ∀ pp < 12, pcState p pp ∉ [0, 1, 7] → ToldToStop pp p q
  mem : (∀ pp < 12, isRack p pp = false) → q.mem = p.mem

theorem startDrydown_shows {p : Pkg} (causing : Option FailedUnit) (restart : Bool) (hnew : rd p Ix.ruDrydownState 0 = 0) :
    DrydownStarted causing restart p (startDrydown p causing restart) := by
  rw [startDrydown_new causing restart hnew]
  have hkeeps := drydownBegun_keeps (p := p) (causing := causing) (restart := restart)
  have hstate : ∀ pp < 12, pcState (drydownBegun p causing restart) pp = pcState p pp := fun pp hpp => pcState_drydownBegun hpp
  have hone : rd (drydownBegun p causing restart) Ix.ruDrydownState 0 = 1 := (hkeeps.rd _ _ (by decide)).trans (rd_wr_self _ _ _ _)
  have hupper := StepKept.of_keeps hkeeps
  generalize drydownBegun p causing restart = b at *
  have hrack : ∀ pp < 12, isRack b pp = isRack p pp := fun pp hpp => by
    rw [(hupper.roll pp).isRack hpp, isRack, rdB_wr_ne _ _ (by decide) (by omega) (by decide)]
    rfl
  have hpart : ∀ pp, part b pp = part p pp := fun pp => part_of_parts hkeeps.parts pp
  have htold := all_told b
  generalize (List.range 12).foldl drydownTold b = q at *
  refine ⟨htold.drydown.trans hone, ?_, ?_, fun pp hpp hworks => ?_, fun hnone => ?_⟩
  · rw [htold.ru, hkeeps.ru]
    rfl
  · rw [htold.ru, hkeeps.ru]
    rfl
  · have h := htold.told pp hpp (by rw [hstate pp hpp]; exact hworks)
    exact ⟨fun hp => h.package ((hrack pp hpp).trans hp), fun hr hrun => h.rack ((hrack pp hpp).trans hr) (by rw [hpart]; exact hrun)⟩
  · exact (htold.mem fun pp hpp => (hrack pp hpp).trans (hnone pp hpp)).trans hkeeps.mem

section
variable {s : State} (hp : powered s.pkg = true)
include hp

theorem drydownStart_begins (u : Option FailedUnit) (hnew : rd s.pkg Ix.ruDrydownState 0 = 0) :
    Completes (.drydownStart u) s (fun q => DrydownStarted u false (begun s) q) :=
  completes_of hp (exec_drydownStart u s) (startDrydown_shows (p := begun s) u false hnew)

theorem drydownStart_once (u : Option FailedUnit) (hstarted : rd s.pkg Ix.ruDrydownState 0 ≠ 0) : Completes (.drydownStart u) s (fun q => q = begun s) :=
  completes_of hp (exec_drydownStart u s) (if_pos hstarted)

end

end Sys2Proof.Machine
end

section
/-! Ending every request of a partition (R211, R459, for O54). -/

namespace Sys2Proof.Machine

/-- Whether every request of a partition has ended. -/
def AllEnded (x : Part) : Prop := ∀ r ∈ x.sc.requests, r.ended.isSome = true

/-- What writing out the ends of requests leaves: every partition's control, requests that have ended, and the entries from 0x6000 on but the Reliability
Unit's last status and the engines' time. -/
structure EndKept (p q : Pkg) : Prop where
  control : ∀ k, stepControl (part q k) = stepControl (part p k)
  ended : ∀ k, AllEnded (part p k) → AllEnded (part q k)
  vals : ∀ k, 0x600000 ≤ k → k / 256 ≠ Ix.ruLastStatus.index → k / 256 ≠ Ix.pcEngineNs.index → tfind q.dict.vals k = tfind p.dict.vals k

section
variable {p q r : Pkg}

theorem EndKept.rfl (p : Pkg) : EndKept p p := ⟨fun _ => Eq.refl _, fun _ h => h, fun _ _ _ _ => Eq.refl _⟩

theorem EndKept.trans (h : EndKept p q) (g : EndKept q r) : EndKept p r :=
  ⟨fun k => (g.control k).trans (h.control k), fun k hk => g.ended k (h.ended k hk), fun k hk hl he => (g.vals k hk hl he).trans (h.vals k hk hl he)⟩

theorem EndKept.of_step (h : StepKept p q) (hparts : q.parts = p.parts) : EndKept p q :=
  ⟨h.control, fun k hk => by rw [part_of_parts hparts]; exact hk, fun k hk _ he => h.vals k hk he⟩

theorem EndKept.of_upper (h : UpperKept p q) : EndKept p q := EndKept.of_step (StepKept.of_upper h) h.parts

theorem EndKept.of_keeps (h : KeepsState p q) : EndKept p q := EndKept.of_upper (UpperKept.of_keeps h)

theorem EndKept.of_block (h : BlockFrame p q) : EndKept p q := EndKept.of_step (StepKept.of_block h) h.parts

/-- A change of a partition that is not of its control and ends no ended request anew. -/
theorem EndKept.modPart (p : Pkg) (pp : Nat) (f : Part → Part) (hcontrol : stepControl (f (part p pp)) = stepControl (part p pp))
    (hended : AllEnded (part p pp) → AllEnded (f (part p pp))) : EndKept p (modPart p pp f) := by
  refine ⟨(StepKept.modPart p pp f hcontrol).control, fun k hk => ?_, fun _ _ _ _ => Eq.refl _⟩
  rcases eq_or_ne k pp with rfl | hne
  · rw [part_modPart_self]
    exact hended hk
  · rw [part_modPart_ne _ _ hne]
    exact hk

theorem EndKept.foldl {α : Type} {f : Pkg → α → Pkg} (hf : ∀ p x, EndKept p (f p x)) (l : List α) (p : Pkg) : EndKept p (l.foldl f p) :=
  List.foldlRecOn (motive := EndKept p) _ _ (EndKept.rfl p) fun _ hq x _ => hq.trans (hf _ x)

theorem EndKept.foldl_fst {α β : Type} {f : Pkg × β → α → Pkg × β} (hf : ∀ a x, EndKept a.1 (f a x).1) (l : List α) (a : Pkg × β) : EndKept a.1 (l.foldl f a).1 :=
  List.foldlRecOn (motive := fun (b : Pkg × β) => EndKept a.1 b.1) _ _ (EndKept.rfl a.1) fun _ hb x _ => hb.trans (hf _ x)

theorem EndKept.state (h : EndKept p q) {k : Nat} (hk : k < 12) : pcState q k = pcState p k :=
  rd_of_val (h.vals _ (by simp only [keyAt, Ix.pcState]; omega) (by simp only [keyAt, Ix.pcState, Ix.ruLastStatus]; omega)
    (by simp only [keyAt, Ix.pcState, Ix.pcEngineNs]; omega))

theorem EndKept.isRack (h : EndKept p q) {k : Nat} (hk : k < 12) : Machine.isRack q k = Machine.isRack p k := by
  rw [Machine.isRack, rdB_of_val (h.vals (keyAt Ix.pcRackPartition 0 k) (by simp only [keyAt, Ix.pcRackPartition]; omega)
    (by simp only [keyAt, Ix.pcRackPartition, Ix.ruLastStatus]; omega) (by simp only [keyAt, Ix.pcRackPartition, Ix.pcEngineNs]; omega)), Machine.isRack]

theorem EndKept.running (h : EndKept p q) (k : Nat) : (part q k).pc.stepRunning = (part p k).pc.stepRunning := congrArg (fun x => x.2.1) (h.control k)

end

section
variable (p : Pkg) (pp : Nat)

theorem modSe_end (f : SePart → SePart) : EndKept p (modSe p pp f) := EndKept.modPart p pp _ rfl id
theorem modAk_end (f : AkPart → AkPart) : EndKept p (modAk p pp f) := EndKept.modPart p pp _ rfl id

theorem modSc_end (f : ScPart → ScPart) (hf : (f (part p pp).sc).requests = (part p pp).sc.requests) : EndKept p (modSc p pp f) :=
  EndKept.modPart p pp _ rfl fun h r hr => h r (hf ▸ hr)

/-- A change of requests that takes no end back. -/
theorem modSc_requests_end (f : Req → Req) (hf : ∀ r, r.ended.isSome = true → (f r).ended.isSome = true) :
    EndKept p (modSc p pp (fun q => { q with requests := q.requests.map f })) := by
  refine EndKept.modPart p pp _ rfl fun h r hr => ?_
  obtain ⟨a, ha, rfl⟩ := List.mem_map.1 hr
  exact hf a (h a ha)

variable {pp} (hpp : pp < 12)
include hpp

theorem bump_end {e : Entry} (n : Nat) (he : e.index < 0x6000) : EndKept p (bump p e pp n) := EndKept.of_upper (bump_upper p n he (by omega))

theorem last_end {e : Entry} (v : Nat) (he : e.index < 0x6000) : EndKept p (last p e pp v) := EndKept.of_upper (wr_upper p v he (by omega))

/-- An event of the partition with its status, of a unit below 0x6000. -/
theorem raise_end {e : Entry} (code partition unit detail v : Nat) (he : e.index < 0x6000) : EndKept p (raise (last p e pp v) code partition unit detail) :=
  (last_end p hpp v he).trans (EndKept.of_keeps (raise_keeps _ _ _ _ _))

theorem completionsFull_end : EndKept p (completionsFull p pp) := by
  unfold completionsFull
  split
  · exact EndKept.rfl p
  · exact (modSc_end p pp _ rfl).trans (raise_end _ hpp _ _ _ _ _ (by decide))

theorem ringFull_end (r : Nat) : EndKept p (ringFull p pp r) := by
  unfold ringFull
  split
  · exact EndKept.rfl p
  · exact ((modSe_end p pp _).trans (bump_end _ hpp 1 (by decide))).trans (raise_end _ hpp _ _ _ _ _ (by decide))

theorem holdServing_end (egress : Bool) (w : HostWrite) : EndKept p (holdServing p pp egress w) := by
  unfold holdServing
  split
  · have hheld := modSe_end p pp (fun q => { q with refused := q.refused ++ [w] })
    generalize modSe p pp (fun q => { q with refused := q.refused ++ [w] }) = q at hheld ⊢
    dsimp only
    split
    · split
      · exact hheld.trans (ringFull_end q hpp _)
      · exact hheld
    · exact hheld
  · have hheld := modSc_end p pp (fun q => { q with refused := q.refused ++ [w] }) rfl
    generalize modSc p pp (fun q => { q with refused := q.refused ++ [w] }) = q at hheld ⊢
    dsimp only
    split
    · exact hheld.trans (completionsFull_end q hpp)
    · exact hheld

omit hpp in
theorem sendServing_end (egress : Bool) (w : HostWrite) : EndKept p (sendServing p pp egress w) := by
  unfold sendServing
  dsimp only
  split <;> exact EndKept.of_keeps (send_keeps _ _)

theorem writeServing_end (egress : Bool) (w : HostWrite) : EndKept p (writeServing p pp egress w) := by
  unfold writeServing
  dsimp only
  generalize (if egress then (part p pp).se.refused else (part p pp).sc.refused) = waiting
  split
  · exact holdServing_end p hpp egress w
  · exact sendServing_end p egress w

theorem writeEntry_end (e : Entry64) : EndKept p (writeEntry p pp e) := by
  unfold writeEntry
  split
  · exact EndKept.rfl p
  · exact ((writeServing_end p hpp _ _).trans (modSe_end _ pp _)).trans (bump_end _ hpp 1 (by decide))

/-- An entry that waits outside the hold queue; the first one raises event 0x0716 (R232). -/
theorem entryWaits_end (e : Entry64) (first : Bool) : EndKept p
    (if first then raise (last (modSe p pp (fun q => { q with waiting := q.waiting ++ [e] })) Ix.seLastStatus pp 0x0716) 0x0716 pp 0xFFFFFFFF 0
      else modSe p pp (fun q => { q with waiting := q.waiting ++ [e] })) := by
  split
  · exact (modSe_end p pp _).trans (raise_end _ hpp _ _ _ _ _ (by decide))
  · exact modSe_end p pp _

theorem putEntry_end (e : Entry64) : EndKept p (putEntry p pp e).1 := by
  unfold putEntry
  dsimp only
  split
  · exact writeEntry_end p hpp e
  · have hfull : ∀ b : Bool, EndKept p (if b then ringFull p pp e.ring else p) := by
      intro b
      split
      · exact ringFull_end p hpp _
      · exact EndKept.rfl p
    have hring := hfull (!ringRoom p pp e.ring || (part p pp).se.hold.any (fun h => h.ring == e.ring))
    generalize (if (!ringRoom p pp e.ring || (part p pp).se.hold.any (fun h => h.ring == e.ring)) = true then ringFull p pp e.ring else p) = q at hring ⊢
    split
    · exact hring.trans (modSe_end q pp fun x => { x with hold := x.hold ++ [e] })
    · split
      · exact hring.trans (bump_end q hpp 1 (by decide))
      · exact hring.trans (entryWaits_end q hpp e _)

theorem addRing_end (rn : Nat × Nat) : EndKept p (addRing pp p rn) := by
  unfold addRing
  split
  · split
    · exact EndKept.rfl p
    · exact writeServing_end p hpp _ _
  · exact EndKept.rfl p

theorem emitEvent_end (es : List Entry64) : EndKept p (emitEvent p pp es) := by
  have hput : ∀ (a : Pkg × Tbl Nat) (e : Entry64), EndKept a.1 (putEntry a.1 pp e).1 := fun a e => putEntry_end a.1 hpp e
  unfold emitEvent
  exact (EndKept.foldl_fst hput es (p, [])).trans (EndKept.foldl (fun p x => addRing_end p hpp x) _ _)

omit hpp in
theorem noteWrite_end {r : Pkg × Nat} (h : EndKept p r.1) : EndKept p (noteWrite pp r) := by
  unfold noteWrite
  split
  · exact h
  · exact h.trans (modSc_end _ pp _ rfl)

omit hpp in
theorem unbindStream_end (n : Nat) : EndKept p (unbindStream p pp n) := by
  unfold unbindStream putStream modStream
  exact (modSe_end p pp _).trans (noteWrite_end _ (EndKept.of_upper (storeLocal_access _ _ _ _ _ _ _ _ _).upper))

theorem showPool_end : EndKept p (showPool p pp) :=
  EndKept.of_upper ((wr_upper p _ (by decide) (by omega)).trans (wr_upper _ _ (by decide) (by omega)))

theorem showRequests_end : EndKept p (showRequests p pp) :=
  EndKept.of_upper ((wr_upper p _ (by decide) (by omega)).trans (wr_upper _ _ (by decide) (by omega)))

omit hpp in
theorem dropMoves_end (addr : Nat) : EndKept p (dropMoves p addr) := by
  unfold dropMoves abandonMoves
  dsimp only
  split
  · exact EndKept.rfl p
  · exact EndKept.of_upper ((tm_upper p _).trans (bump_upper _ _ (by decide) (by decide)))

theorem freeRequest_end (handle : Nat) : EndKept p (freeRequest p pp handle) := by
  unfold freeRequest
  exact ((EndKept.foldl (fun p (s : KvSlot) => dropMoves_end p s.addr) _ p).trans (modAk_end _ pp _)).trans (showPool_end _ hpp)

theorem noteSc_end (status : Nat) : EndKept p (noteSc p pp status) := by
  unfold noteSc
  split
  · exact last_end p hpp _ (by decide)
  · split
    · refine ⟨fun _ => rfl, fun _ h => h, fun k _ hk _ => tfind_tput_ne _ _ ?_⟩
      rintro rfl
      exact hk (by simp only [keyAt]; omega)
    · exact EndKept.rfl p

theorem finishRequest_end (acc : Pkg × List Entry64) (r : Req) : EndKept acc.1 (finishRequest pp acc r).1 := by
  unfold finishRequest
  split
  · exact EndKept.rfl _
  · split
    · exact EndKept.rfl _
    · dsimp only
      rename_i status reason _ _
      have hqueued : EndKept acc.1 (queueCompletion (modReq acc.1 pp r.handle (fun r => { r with finalQueued := true })) pp
          { handle := r.handle, final := true, bytes := completionBytes 2 reason status r.handle r.sequence r.clientTag r.generated r.promptDone
              (stepOf (modReq acc.1 pp r.handle (fun r => { r with finalQueued := true })) pp) }) := by
        refine (modSc_requests_end acc.1 pp _ fun a ha => ?_).trans (modSc_end _ pp _ rfl)
        split <;> exact ha
      generalize queueCompletion _ pp _ = q at hqueued ⊢
      have hcounted : EndKept q (if status = 0x0602 then bump q Ix.scCancelled pp 1 else q) := by
        split
        · exact bump_end q hpp 1 (by decide)
        · exact EndKept.rfl q
      generalize (if status = 0x0602 then bump q Ix.scCancelled pp 1 else q) = c at hcounted ⊢
      have hnoted := noteSc_end c hpp status
      generalize noteSc c pp status = n at hnoted ⊢
      have hfreed : EndKept n (if r.stream = 0xFFFFFFFF then n else unbindStream n pp r.stream) := by
        split
        · exact EndKept.rfl n
        · exact unbindStream_end n _
      exact (((hqueued.trans hcounted).trans hnoted).trans hfreed).trans (freeRequest_end _ hpp _)

theorem finishRequests_end : EndKept p (finishRequests p pp) := by
  unfold finishRequests
  exact ((EndKept.foldl_fst (fun a r => finishRequest_end hpp a r) _ (p, [])).trans (emitEvent_end _ hpp _)).trans (showRequests_end _ hpp)

theorem writeCompletions_end (fuel n : Nat) : EndKept p (writeCompletions pp fuel n p).1 := by
  induction fuel generalizing n p with
  | zero => exact EndKept.rfl p
  | succ fuel ih =>
    unfold writeCompletions
    dsimp only
    split
    · exact EndKept.rfl p
    · split
      · exact ((writeServing_end p hpp _ _).trans (modSc_end _ pp _ rfl)).trans (ih _ _)
      · exact EndKept.rfl p

theorem pumpCompletions_end : EndKept p (pumpCompletions p pp) := by
  unfold pumpCompletions
  have hwritten := writeCompletions_end p hpp (part p pp).sc.completions.length 0
  generalize writeCompletions pp (part p pp).sc.completions.length 0 p = r at hwritten ⊢
  have hadded : EndKept r.1 (if r.2 = 0 then r.1 else writeServing r.1 pp false { addr := rd r.1 Ix.scCompletionCounterAddr pp, add := r.2 }) := by
    split
    · exact EndKept.rfl _
    · exact writeServing_end _ hpp _ _
  dsimp only
  generalize (if r.2 = 0 then r.1 else writeServing r.1 pp false { addr := rd r.1 Ix.scCompletionCounterAddr pp, add := r.2 }) = q at hadded ⊢
  have h := hwritten.trans hadded
  split
  · exact h.trans (completionsFull_end q hpp)
  · split
    · exact h.trans (modSc_end q pp _ rfl)
    · exact h

omit hpp in
theorem endAll_end (status : Nat) : EndKept p (endAll p pp status) := by
  refine modSc_requests_end p pp _ fun r hr => ?_
  split
  · rfl
  · exact hr

omit hpp in
theorem endAll_allEnded (status : Nat) : AllEnded (part (endAll p pp status) pp) := by
  intro r hr
  rw [endAll, part_modSc] at hr
  obtain ⟨a, -, rfl⟩ := List.mem_map.1 hr
  split
  · rfl
  · rename_i hlive
    simpa [Req.live, Option.isSome_iff_ne_none] using hlive

/-- All requests of a partition ended, with their records written (R459). -/
theorem endAllRequests_shows (status : Nat) : EndKept p (endAllRequests p pp status) ∧ AllEnded (part (endAllRequests p pp status) pp) := by
  have hwritten := (finishRequests_end (endAll p pp status) hpp).trans (pumpCompletions_end _ hpp)
  exact ⟨(endAll_end p status).trans hwritten, hwritten.ended pp (endAll_allEnded p status)⟩

end

end Sys2Proof.Machine
end

section
/-! The stages of Drydown (R459, for O54). -/

namespace Sys2Proof.Machine

/-! ### Stage 1: every partition stops -/

/-- A partition stopped at the end of stage 1: no pass and no step runs any more. -/
def stoppedNow (p : Pkg) (pp : Nat) : Pkg :=
  setPcState (modPc (stopPasses p pp) pp (fun q => { q with stopPending := false, stepRunning := false })) pp 1

/-- A package partition's requests ended; a rack partition's are its lead's. -/
def requestsEnded (p : Pkg) (pp : Nat) : Pkg := if isRack p pp then p else endAllRequests p pp 0x1209

/-- What the end of stage 1 does to a partition (R459). -/
def stopOne (p : Pkg) (pp : Nat) : Pkg :=
  if pcState p pp = 0 then p
  else if pcState (requestsEnded p pp) pp = 1 ∨ pcState (requestsEnded p pp) pp = 7 then requestsEnded p pp
  else stoppedNow (requestsEnded p pp) pp

theorem stopAll_eq (p : Pkg) : stopAll p = (List.range 12).foldl stopOne p := rfl

/-- What stopping partition `pp` leaves of the others, and of every partition's kind and ended requests. -/
structure StopFrame (pp : Nat) (p q : Pkg) : Prop where
  state : ∀ k < 12, k ≠ pp → pcState q k = pcState p k
  running : ∀ k, k ≠ pp → (part q k).pc.stepRunning = (part p k).pc.stepRunning
  isRack : ∀ k < 12, isRack q k = isRack p k
  ended : ∀ k, AllEnded (part p k) → AllEnded (part q k)

section
variable {p q r : Pkg} {pp : Nat}

theorem StopFrame.trans (h : StopFrame pp p q) (g : StopFrame pp q r) : StopFrame pp p r :=
  ⟨fun k hk hne => (g.state k hk hne).trans (h.state k hk hne), fun k hne => (g.running k hne).trans (h.running k hne),
    fun k hk => (g.isRack k hk).trans (h.isRack k hk), fun k hk => g.ended k (h.ended k hk)⟩

theorem EndKept.stop (h : EndKept p q) (pp : Nat) : StopFrame pp p q := ⟨fun _ hk _ => h.state hk, fun k _ => h.running k, fun _ hk => h.isRack hk, h.ended⟩

theorem stopPasses_end (p : Pkg) (pp : Nat) : EndKept p (stopPasses p pp) :=
  (EndKept.of_block (idle_fold p pp p)).trans (EndKept.of_upper (ms_upper _ _))

theorem stoppedNow_shows (p : Pkg) (hpp : pp < 12) :
    StopFrame pp p (stoppedNow p pp) ∧ pcState (stoppedNow p pp) pp = 1 ∧ (part (stoppedNow p pp) pp).pc.stepRunning = false := by
  have hidle := stopPasses_end p pp
  unfold stoppedNow
  generalize stopPasses p pp = q at hidle ⊢
  refine ⟨(hidle.stop pp).trans ⟨fun k hk hne => ?_, fun k hne => ?_, fun k hk => ?_, fun k hk => ?_⟩, rd_wr_self _ _ _ _, ?_⟩
  · exact rd_of_val (p := q) (tfind_tput_ne _ _ (by simp only [keyAt]; omega))
  · rw [setPcState, part_wr, modPc, part_modPart_ne _ _ hne]
  · show isRack (setPcState _ pp 1) k = _
    rw [isRack, setPcState, rdB_wr_ne _ _ (by decide) (by omega) (by omega)]
    rfl
  · rcases eq_or_ne k pp with rfl | hne
    · rw [setPcState, part_wr, part_modPc]
      exact hk
    · rw [setPcState, part_wr, modPc, part_modPart_ne _ _ hne]
      exact hk
  · rw [setPcState, part_wr, part_modPc]

theorem requestsEnded_shows (p : Pkg) (hpp : pp < 12) : EndKept p (requestsEnded p pp) ∧ (isRack p pp = false → AllEnded (part (requestsEnded p pp) pp)) := by
  unfold requestsEnded
  split
  · rename_i hrack
    exact ⟨EndKept.rfl p, fun h => absurd (h.symm.trans hrack) (by decide)⟩
  · obtain ⟨hkept, hended⟩ := endAllRequests_shows p hpp 0x1209
    exact ⟨hkept, fun _ => hended⟩

/-- What a partition shows at the end of stage 1. -/
structure StoppedNow (pp : Nat) (p q : Pkg) : Prop where
  state : pcState p pp ∉ [0, 1, 7] → pcState q pp = 1 ∧ (part q pp).pc.stepRunning = false
  ended : isRack p pp = false → pcState p pp ≠ 0 → AllEnded (part q pp)

theorem stopOne_shows (p : Pkg) (hpp : pp < 12) : StopFrame pp p (stopOne p pp) ∧ StoppedNow pp p (stopOne p pp) := by
  unfold stopOne
  split
  · rename_i hnone
    exact ⟨(EndKept.rfl p).stop pp, fun h => absurd (by simp [hnone]) h, fun _ h => absurd hnone h⟩
  · obtain ⟨hkept, hended⟩ := requestsEnded_shows p hpp
    have hstate := hkept.state hpp
    generalize requestsEnded p pp = q at hkept hended hstate ⊢
    split
    · rename_i hidle
      refine ⟨hkept.stop pp, fun h => absurd ?_ h, fun hpackage _ => hended hpackage⟩
      rw [← hstate]
      rcases hidle with h | h <;> simp [h]
    · obtain ⟨hframe, hone, hrunning⟩ := stoppedNow_shows q hpp
      exact ⟨(hkept.stop pp).trans hframe, fun _ => ⟨hone, hrunning⟩, fun hpackage _ => hframe.ended pp (hended hpackage)⟩

/-- What has been done after the first `n` partitions have been stopped. -/
structure StoppedUpTo (n : Nat) (p q : Pkg) : Prop where
  isRack : ∀ k < 12, isRack q k = isRack p k
  later : ∀ k < 12, n ≤ k → pcState q k = pcState p k
  stopped : ∀ k < n, StoppedNow k p q

theorem StoppedUpTo.step {n : Nat} (hn : n < 12) (h : StoppedUpTo n p q) : StoppedUpTo (n + 1) p (stopOne q n) := by
  obtain ⟨hframe, hnow⟩ := stopOne_shows q hn
  refine ⟨fun k hk => (hframe.isRack k hk).trans (h.isRack k hk), fun k hk hle => ?_, fun k hk => ?_⟩
  · exact (hframe.state k hk (by omega)).trans (h.later k hk (by omega))
  · rcases Nat.lt_succ_iff_lt_or_eq.1 hk with hlt | rfl
    · have hbefore := h.stopped k hlt
      refine ⟨fun hworks => ?_, fun hpackage hset => hframe.ended k (hbefore.ended hpackage hset)⟩
      rw [hframe.state k (by omega) (by omega), hframe.running k (by omega)]
      exact hbefore.state hworks
    · have hstate := h.later k hn (Nat.le_refl k)
      have hrack := h.isRack k hn
      exact ⟨fun hworks => hnow.state (hstate.symm ▸ hworks), fun hpackage hset => hnow.ended (hrack.trans hpackage) (hstate.symm ▸ hset)⟩

theorem stopAll_shows (p : Pkg) : StoppedUpTo 12 p (stopAll p) := by
  rw [stopAll_eq]
  refine foldl_range_rec (P := fun n q => StoppedUpTo n p q) 12 ?_ fun n hn q h => h.step hn
  exact ⟨fun _ _ => rfl, fun _ _ _ => rfl, fun k hk => absurd hk (Nat.not_lt_zero k)⟩

end

/-! ### Stages 3 to 6 -/

theorem flood_keeps (p : Pkg) (kind id d : Nat) : KeepsState p (flood p kind id d) := by
  refine List.foldlRecOn (motive := KeepsState p) _ _ (KeepsState.rfl p) fun q hq x _ => ?_
  split
  · exact hq.trans (emit_keeps _ _)
  · exact hq

theorem flood_departing (p : Pkg) (kind id d : Nat) : (flood p kind id d).tf.departing = p.tf.departing := by
  have h := (flood_keeps p kind id d).tf
  generalize flood p kind id d = q at h ⊢
  exact (congrArg Tf.departing h :)

theorem departLinks_departs (p : Pkg) : (departLinks p).tf.departing = true := by rw [departLinks, flood_departing]

/-- The package when it begins to depart: it is ready no more. -/
def departing (p : Pkg) : Pkg := { wr p Ix.ruDrydownState 0 5 with pins := { p.pins with readyReleased := false } }

theorem drydownStage_departs (p : Pkg) : drydownStage p 5 = departLinks (departing p) := rfl

/-- What Drydown's stage 4 makes the package's flag (R455, R459). -/
def drydownFlag (p : Pkg) (u : FailedUnit) : Nat :=
  if unitPermanent p.flash.history u.kind u.unit then 2 else if rd p Ix.ruPackageFlag 0 = 2 then 2 else 1

theorem drydownFlag_lt (p : Pkg) (u : FailedUnit) : drydownFlag p u < 2 ^ 8 := by
  unfold drydownFlag
  split
  · decide
  · split <;> decide

/-- Stage 4 flags the package for the unit that caused the Drydown. -/
theorem drydownStage_flags {p : Pkg} {u : FailedUnit} (hcausing : p.ru.causingUnit = some u) :
    rd (drydownStage p 4) Ix.ruDrydownState 0 = 4 ∧ rd (drydownStage p 4) Ix.ruPackageFlag 0 = drydownFlag p u
    ∧ (drydownStage p 4).parts = p.parts ∧ (drydownStage p 4).mem = p.mem := by
  have hstage : drydownStage p 4 = wrKept (wr p Ix.ruDrydownState 0 4) Ix.ruPackageFlag 0 (drydownFlag (wr p Ix.ruDrydownState 0 4) u) := by
    show (match p.ru.causingUnit with | none => _ | some u => _) = _
    rw [hcausing]
    rfl
  have hflag : drydownFlag (wr p Ix.ruDrydownState 0 4) u = drydownFlag p u := by
    rw [drydownFlag, rd_wr_ne _ _ (by decide) (by decide) (by decide)]
    rfl
  rw [hstage, hflag]
  refine ⟨?_, ?_, rfl, rfl⟩
  · exact (rd_wr_ne _ _ (by decide) (by decide) (by decide)).trans (rd_wr_self _ _ _ _)
  · exact (rd_wrKept_self _ _ _ _).trans (Nat.mod_eq_of_lt (drydownFlag_lt p u))

/-- Without a causing unit stage 4 flags nothing. -/
theorem drydownStage_unflagged {p : Pkg} (hcausing : p.ru.causingUnit = none) :
    rd (drydownStage p 4) Ix.ruDrydownState 0 = 4 ∧ rd (drydownStage p 4) Ix.ruPackageFlag 0 = rd p Ix.ruPackageFlag 0
    ∧ (drydownStage p 4).parts = p.parts ∧ (drydownStage p 4).mem = p.mem := by
  have hstage : drydownStage p 4 = wr p Ix.ruDrydownState 0 4 := by
    show (match p.ru.causingUnit with | none => _ | some u => _) = _
    rw [hcausing]
  rw [hstage]
  exact ⟨rd_wr_self _ _ _ _, rd_wr_ne _ _ (by decide) (by decide) (by decide), rfl, rfl⟩

/-- Stage 6 is the end: the package is drained, and event 0x120E says so. -/
theorem drydownStage_drained (p : Pkg) : rd (drydownStage p 6) Ix.ruDrydownState 0 = 6 ∧ (drydownStage p 6).parts = p.parts ∧ (drydownStage p 6).mem = p.mem
    ∧ (drydownStage p 6).ru.restartWhenDrained = p.ru.restartWhenDrained := by
  have hkeeps : KeepsState (wr p Ix.ruDrydownState 0 6) (drydownStage p 6) := raise0_keeps _ _
  exact ⟨(hkeeps.rd _ _ (by decide)).trans (rd_wr_self _ _ _ _), hkeeps.parts, hkeeps.mem, congrArg Ru.restartWhenDrained hkeeps.ru⟩

/-! ### The command -/

/-- What the end of a stage begins, and the clock with which it goes on. -/
def drydownNext (c : Clock) (p : Pkg) : Clock × Pkg :=
  match rd p Ix.ruDrydownState 0 with
  | 1 => (c, drydownStage (stopAll p) 2)
  | 2 => (c, drydownStage p 3)
  | 3 => (c, drydownStage p 4)
  | 4 => (c, drydownStage p 5)
  | 5 => if (drydownStage p 6).ru.restartWhenDrained then ({}, beginStart (drydownStage p 6) 2 (warmNeedsFull (drydownStage p 6))) else (c, drydownStage p 6)
  | _ => (c, p)

theorem drydownNext_five {c : Clock} {p : Pkg} (hstage : rd p Ix.ruDrydownState 0 = 5) : drydownNext c p =
    if (drydownStage p 6).ru.restartWhenDrained then ({}, beginStart (drydownStage p 6) 2 (warmNeedsFull (drydownStage p 6))) else (c, drydownStage p 6) := by
  simp only [drydownNext, hstage]

theorem exec_drydownNext (s : State) : exec .drydownStageComplete s = onClockF drydownNext s := rfl

section
variable {s : State} (hp : powered s.pkg = true)
include hp

theorem drydownStage1_ends (hstage : rd s.pkg Ix.ruDrydownState 0 = 1) : Completes .drydownStageComplete s (fun q => ∃ p, rd p Ix.ruDrydownState 0 = 2
    ∧ (∀ pp < 12, StoppedNow pp s.pkg p) ∧ q = handOff p) := by
  have hnext : drydownNext s.clock (begun s) = (s.clock, drydownStage (stopAll (begun s)) 2) := by
    simp only [drydownNext, show rd (begun s) Ix.ruDrydownState 0 = 1 from hstage]
  have hstopped := (stopAll_shows (begun s)).stopped
  refine completes_of_clock hp (exec_drydownNext s) hnext ⟨wr (stopAll (begun s)) Ix.ruDrydownState 0 2, rd_wr_self _ _ _ _, fun pp hpp => ?_, rfl⟩
  have h := hstopped pp hpp
  generalize stopAll (begun s) = q at h ⊢
  refine ⟨fun hworks => ?_, fun hpackage hset => h.ended hpackage hset⟩
  exact ⟨(rd_wr_ne q _ (by decide) (by omega) (by decide)).trans (h.state hworks).1, (h.state hworks).2⟩

theorem drydownStage2_ends (hstage : rd s.pkg Ix.ruDrydownState 0 = 2) : Completes .drydownStageComplete s (fun q => ∃ p, rd p Ix.ruDrydownState 0 = 3
    ∧ p.parts = s.pkg.parts ∧ p.mem = s.pkg.mem ∧ p.tm = s.pkg.tm ∧ q = reclaimAllUnits p) := by
  have hnext : drydownNext s.clock (begun s) = (s.clock, drydownStage (begun s) 3) := by
    simp only [drydownNext, show rd (begun s) Ix.ruDrydownState 0 = 2 from hstage]
  exact completes_of_clock hp (exec_drydownNext s) hnext ⟨wr (begun s) Ix.ruDrydownState 0 3, rd_wr_self _ _ _ _, rfl, rfl, rfl, rfl⟩

theorem drydownStage3_ends (hstage : rd s.pkg Ix.ruDrydownState 0 = 3) {effect : Pkg → Prop} (he : effect (drydownStage (begun s) 4)) :
    Completes .drydownStageComplete s effect := by
  have hnext : drydownNext s.clock (begun s) = (s.clock, drydownStage (begun s) 4) := by
    simp only [drydownNext, show rd (begun s) Ix.ruDrydownState 0 = 3 from hstage]
  exact completes_of_clock hp (exec_drydownNext s) hnext he

theorem drydownStage4_ends (hstage : rd s.pkg Ix.ruDrydownState 0 = 4) : Completes .drydownStageComplete s (fun q => ∃ p, rd p Ix.ruDrydownState 0 = 5
    ∧ p.pins.readyReleased = false ∧ p.tf = s.pkg.tf ∧ p.mem = s.pkg.mem ∧ q = departLinks p ∧ q.tf.departing = true) := by
  have hnext : drydownNext s.clock (begun s) = (s.clock, departLinks (departing (begun s))) := by
    simp only [drydownNext, show rd (begun s) Ix.ruDrydownState 0 = 4 from hstage, drydownStage_departs]
  exact completes_of_clock hp (exec_drydownNext s) hnext ⟨departing (begun s), rd_wr_self _ _ _ _, rfl, rfl, rfl, rfl, departLinks_departs _⟩

theorem drydownStage5_ends (hstage : rd s.pkg Ix.ruDrydownState 0 = 5) (hstays : s.pkg.ru.restartWhenDrained = false) :
    Completes .drydownStageComplete s (fun q => rd q Ix.ruDrydownState 0 = 6 ∧ q.parts = s.pkg.parts ∧ q.mem = s.pkg.mem) := by
  obtain ⟨hsix, hparts, hmem, hrestart⟩ := drydownStage_drained (begun s)
  have hnext := drydownNext_five (c := s.clock) (p := begun s) hstage
  generalize drydownStage (begun s) 6 = q at hsix hparts hmem hrestart hnext
  have hstays : q.ru.restartWhenDrained = false := hrestart.trans hstays
  simp only [hstays, Bool.false_eq_true, if_false] at hnext
  exact completes_of_clock hp (exec_drydownNext s) hnext ⟨hsix, hparts, hmem⟩

/-- A package drained after the loss of its host die starts warm at once (R366). -/
theorem drydownStage5_restarts (hstage : rd s.pkg Ix.ruDrydownState 0 = 5) (hrestarts : s.pkg.ru.restartWhenDrained = true) :
    CompletesAt .drydownStageComplete s {} (fun q => ∃ p, rd p Ix.ruDrydownState 0 = 6 ∧ p.parts = s.pkg.parts ∧ p.mem = s.pkg.mem
      ∧ q = beginStart p 2 (warmNeedsFull p)) := by
  obtain ⟨hsix, hparts, hmem, hrestart⟩ := drydownStage_drained (begun s)
  have hnext := drydownNext_five (c := s.clock) (p := begun s) hstage
  generalize drydownStage (begun s) 6 = q at hsix hparts hmem hrestart hnext
  have hrestarts : q.ru.restartWhenDrained = true := hrestart.trans hrestarts
  simp only [hrestarts, if_true] at hnext
  exact completesAt_of hp (exec_drydownNext s) hnext ⟨_, hsix, hparts, hmem, rfl⟩

theorem drydownStage_none (hstage : rd s.pkg Ix.ruDrydownState 0 ∉ [1, 2, 3, 4, 5]) : Completes .drydownStageComplete s (fun q => q = begun s) := by
  have hnext : drydownNext s.clock (begun s) = (s.clock, begun s) := by
    have hout : rd (begun s) Ix.ruDrydownState 0 ∉ [1, 2, 3, 4, 5] := hstage
    unfold drydownNext
    split
    all_goals simp_all
  exact completes_of_clock hp (exec_drydownNext s) hnext rfl

end

end Sys2Proof.Machine
end

section
/-! The results of an audit, the package flag and the settling of O54. -/

namespace Sys2Proof.Machine

/-! ### Audit votes (R436 to R439) -/

theorem voteAwaiting_auditor (p : Pkg) (pp block descriptor tile : Nat) : voteAwaiting p pp block descriptor tile false 1
    = (part p pp).ru.votes.find? (fun v => v.descriptor == descriptor && v.tile == tile && !v.fromArbiter && auditorRegion p pp (v.block / 8) 1 == block / 8) := by
  simp only [voteAwaiting, beq_false]

theorem voteAwaiting_arbiter (p : Pkg) (pp block descriptor tile : Nat) : voteAwaiting p pp block descriptor tile true 2
    = (part p pp).ru.votes.find? (fun v => v.descriptor == descriptor && v.tile == tile && v.fromArbiter && auditorRegion p pp (v.block / 8) 2 == block / 8) := by
  simp only [voteAwaiting, beq_true]

theorem tileAudited_shows (p : Pkg) (pp : Nat) : (part (tileAudited p pp) pp).ru = { (part p pp).ru with stepAudited := (part p pp).ru.stepAudited + 1 }
    ∧ rd (tileAudited p pp) Ix.ruTilesAudited pp = (rd p Ix.ruTilesAudited pp + 1) % 2 ^ 64 ∧ (tileAudited p pp).mem = p.mem := by
  refine ⟨?_, rd_bump_self _ _ _ _, rfl⟩
  rw [tileAudited, part_bump, part_modRu]

section
variable {s : State} (hp : powered s.pkg = true) {pp : Fin 12} {block : Fin 96} {descriptor tile : Nat} {v : Vote}
include hp

section
variable (hv : voteAwaiting (begun s) pp block descriptor tile false 1 = some v)
include hv

theorem auditTileComputed_agrees : Completes (.auditTileComputed pp block descriptor tile (some v.original)) s (fun q =>
    (part q pp).ru.votes = (part s.pkg pp).ru.votes.filter (· != v) ∧ rd q Ix.ruTilesAudited pp = (rd s.pkg Ix.ruTilesAudited pp + 1) % 2 ^ 64
    ∧ (part q pp).ru.stepAudited = (part s.pkg pp).ru.stepAudited + 1 ∧ q.mem = s.pkg.mem) := by
  refine (auditTileComputed_judges hp pp block descriptor tile hv _).mono fun q hq => ?_
  obtain ⟨hru, hcount, hmem⟩ := tileAudited_shows (begun s) pp
  have hended := endVote_shows (tileAudited (begun s) pp) pp pp.isLt v
  obtain ⟨c, b, l, hvotes⟩ := hended.ru
  rw [hq, auditJudged, if_pos rfl, hvotes, hru]
  exact ⟨rfl, (hended.rd _ (by decide)).trans hcount, rfl, hended.mem.trans hmem⟩

theorem auditTileComputed_disagrees (fp : Bytes) (hne : fp ≠ v.original) (hblock : v.block < 96) :
    Completes (.auditTileComputed pp block descriptor tile (some fp)) s (fun q => ∃ p,
      (part p pp).ru.votes = (part s.pkg pp).ru.votes.map (fun w => if w = v then { v with auditor := some fp, auditorBlock := block, fromArbiter := true } else w)
      ∧ rd p Ix.ruDisagreements pp = (rd s.pkg Ix.ruDisagreements pp + 1) % 2 ^ 64 ∧ (part p pp).ru.stepDisagreements = (part s.pkg pp).ru.stepDisagreements + 1
      ∧ p.mem = s.pkg.mem ∧ q = requalifyFailed p) := by
  refine (auditTileComputed_judges hp pp block descriptor tile hv _).mono fun q hq => ?_
  obtain ⟨hru, -, hmem⟩ := tileAudited_shows (begun s) pp
  obtain ⟨hdisagreed, hcount, hmem'⟩ := disagreed_shows (tileAudited (begun s) pp) pp.isLt v hblock block fp
  have hbefore : rd (tileAudited (begun s) pp) Ix.ruDisagreements pp = rd s.pkg Ix.ruDisagreements pp := rd_bump_ne _ _ (by decide) (by omega) (by omega)
  refine ⟨disagreed (tileAudited (begun s) pp) pp v block fp, ?_, ?_, ?_, hmem'.trans hmem, ?_⟩
  · rw [hdisagreed, hru]
    rfl
  · rw [hcount, hbefore]
  · rw [hdisagreed, hru]
    rfl
  · rw [hq, auditJudged, if_neg hne, toArbiter_eq]

theorem auditTileComputed_unaudited : Completes (.auditTileComputed pp block descriptor tile none) s (fun q =>
    (part q pp).ru.votes = (part s.pkg pp).ru.votes.filter (· != v) ∧ rd q Ix.ruTilesUnaudited pp = (rd s.pkg Ix.ruTilesUnaudited pp + 1) % 2 ^ 64
    ∧ (part q pp).ru.stepUnaudited = (part s.pkg pp).ru.stepUnaudited + 1 ∧ q.mem = s.pkg.mem) := by
  refine (auditTileComputed_judges hp pp block descriptor tile hv _).mono fun q hq => ?_
  obtain ⟨hru, hcount, hmem⟩ := countUnaudited_shows (begun s) pp.isLt
  have hended := endVote_shows (countUnaudited (begun s) pp) pp pp.isLt v
  obtain ⟨c, b, l, hvotes⟩ := hended.ru
  rw [hq, auditJudged, hvotes, hru]
  exact ⟨rfl, (hended.rd _ (by decide)).trans hcount, rfl, hended.mem.trans hmem⟩

end

section
variable (hv : voteAwaiting (begun s) pp block descriptor tile true 2 = some v)
include hv

theorem arbiterResult_outvotes (hroom : s.pkg.flash.history.length < 16384) : Completes (.arbiterResult pp block descriptor tile (some v.original)) s (fun q =>
    (part q pp).ru.votes = (part s.pkg pp).ru.votes.filter (· != v) ∧ rd q Ix.ruAuditorOutvoted pp = (rd s.pkg Ix.ruAuditorOutvoted pp + 1) % 2 ^ 32
    ∧ q.mem = s.pkg.mem
    ∧ ∃ r : HistRecord, q.flash.history = s.pkg.flash.history ++ [r] ∧ r.kind = 2 ∧ r.origin = 3 ∧ r.unit = v.auditorBlock ∧ r.status = 0x1205) := by
  refine (arbiterResult_judges hp pp block descriptor tile hv _).mono fun q hq => ?_
  rw [hq, arbiterJudged, if_pos rfl]
  exact auditorOutvoted_shows (begun s) v pp.isLt hroom

theorem arbiterResult_confirms (fp : Bytes) (hne : fp ≠ v.original) (hauditor : v.auditor = some fp) (hroom : s.pkg.flash.history.length < 16384) :
    Completes (.arbiterResult pp block descriptor tile (some fp)) s (fun q => ∃ p,
      (∃ r : HistRecord, p.flash.history = s.pkg.flash.history ++ [r] ∧ r.kind = 2 ∧ r.origin = 3 ∧ r.unit = v.block ∧ r.status = 0x1203)
      ∧ p.parts = s.pkg.parts ∧ p.mem = s.pkg.mem ∧ q = confirmedWrong p pp 1 0x1203 v) := by
  refine (arbiterResult_judges hp pp block descriptor tile hv _).mono fun q hq => ?_
  obtain ⟨hrecord, hparts, hmem⟩ := blockCharged_shows (begun s) (pp := pp) v hroom
  exact ⟨blockCharged (begun s) pp v, hrecord, hparts, hmem, by rw [hq, arbiterJudged, if_neg hne, if_pos hauditor.symm]⟩

theorem arbiterResult_suspects (fp : Bytes) (hne : fp ≠ v.original) (hauditor : v.auditor ≠ some fp) (hroom : s.pkg.flash.history.length + 3 ≤ 16384) :
    Completes (.arbiterResult pp block descriptor tile (some fp)) s (fun q => ∃ p,
      (∃ a b c : HistRecord, p.flash.history = s.pkg.flash.history ++ [a, b, c] ∧ a.unit = v.block ∧ b.unit = v.auditorBlock ∧ c.unit = block
        ∧ ∀ r ∈ [a, b, c], r.kind = 2 ∧ r.origin = 3 ∧ r.status = 0x1204)
      ∧ p.parts = s.pkg.parts ∧ p.mem = s.pkg.mem ∧ q = confirmedWrong p pp 2 0x1204 v) := by
  refine (arbiterResult_judges hp pp block descriptor tile hv _).mono fun q hq => ?_
  obtain ⟨hrecords, hparts, hmem⟩ := threeCharged_shows (begun s) (pp := pp) v block hroom
  exact ⟨threeCharged (begun s) pp block v, hrecords, hparts, hmem, by rw [hq, arbiterJudged, if_neg hne, if_neg (Ne.symm hauditor)]⟩

theorem arbiterResult_unsettled : Completes (.arbiterResult pp block descriptor tile none) s (fun q => ∃ p,
    (part p pp).ru.votes = (part s.pkg pp).ru.votes.filter (· != v) ∧ rd p Ix.ruLastStatus pp = 0x1206 ∧ p.mem = s.pkg.mem
    ∧ q = causeRollback p pp 3 (v.block / 8) v.block v.descriptor v.tile) := by
  refine (arbiterResult_judges hp pp block descriptor tile hv _).mono fun q hq => ?_
  obtain ⟨hvotes, hstatus, hmem⟩ := voteUnsettled_shows (begun s) v pp.isLt
  exact ⟨voteUnsettled (begun s) pp v, hvotes, hstatus, hmem, hq⟩

end

end

/-! ### The package flag (R456, R457) -/

/-- The flag and its time cleared. -/
def flagCleared (p : Pkg) : Pkg := wr (wrKept p Ix.ruPackageFlag 0 0) Ix.ruRequalifyRemainingS 0 0

theorem flagCleared_shows (p : Pkg) : rd (flagCleared p) Ix.ruPackageFlag 0 = 0 ∧ rd (flagCleared p) Ix.ruRequalifyRemainingS 0 = 0
    ∧ (flagCleared p).flash.history = p.flash.history :=
  ⟨(rd_wr_ne _ _ (by decide) (by decide) (by decide)).trans (rd_wrKept_self _ _ _ _), rd_wr_self _ _ _ _, rfl⟩

theorem clearPackageFlag_eq (p : Pkg) : clearPackageFlag p = (recordHistory (flagCleared p) 0 1 0 0x1214 0, accepted) := rfl

/-- What a cleared package shows. -/
structure FlagClear (p q : Pkg) : Prop where
  flag : rd q Ix.ruPackageFlag 0 = 0
  remaining : rd q Ix.ruRequalifyRemainingS 0 = 0
  mem : q.mem = p.mem
  parts : q.parts = p.parts

theorem clearRecorded_shows (p : Pkg) : FlagClear p (recordHistory (flagCleared p) 0 1 0 0x1214 0) := by
  obtain ⟨hflag, hremaining, -⟩ := flagCleared_shows p
  refine ⟨?_, ?_, recordHistory_mem _ _ _ _ _ _, recordHistory_parts _ _ _ _ _ _⟩
  · exact (recordHistory_rd _ _ _ _ _ _ _ _ (by decide) (.inr (by decide)) (by decide)).trans hflag
  · exact (recordHistory_rd _ _ _ _ _ _ _ _ (by decide) (.inr (by decide)) (by decide)).trans hremaining

section
variable {s : State} (hp : powered s.pkg = true)
include hp

theorem packageFlagClear_clears : Completes (.packageFlagClear 1) s (FlagClear s.pkg) := by
  refine completes_of hp (exec_packageFlagClear 1 s) ?_
  have h := clearRecorded_shows (begun s)
  rw [if_pos rfl, clearPackageFlag_eq]
  exact ⟨h.flag, h.remaining, h.mem, h.parts⟩

/-- Where the history has room the clearing is recorded with status 0x1214 (R457). -/
theorem packageFlagClear_recorded (hroom : s.pkg.flash.history.length < 16384) : Completes (.packageFlagClear 1) s (fun q => FlagClear s.pkg q
    ∧ (∃ r : HistRecord, q.flash.history = s.pkg.flash.history ++ [r] ∧ r.kind = 0 ∧ r.status = 0x1214) ∧ q.out.getLast? = some (.answer 0x6443 0 0 0 false)) := by
  refine completes_of hp (exec_packageFlagClear 1 s) ?_
  have h := clearRecorded_shows (begun s)
  obtain ⟨-, -, hhistory⟩ := flagCleared_shows (begun s)
  obtain ⟨r, hr, hkind, -, hstatus⟩ := recordHistory_appends (flagCleared (begun s)) 0 1 0 0x1214 0 (by rw [hhistory]; exact hroom)
  rw [if_pos rfl, clearPackageFlag_eq]
  exact ⟨⟨h.flag, h.remaining, h.mem, h.parts⟩, ⟨r, hr.trans (congrArg (· ++ [r]) hhistory), hkind, hstatus⟩, answered_last _ _ _⟩

theorem packageFlagClear_refused {v : Byte} (hv : v ≠ 1) : Completes (.packageFlagClear v) s (fun q =>
    q.dict = s.pkg.dict ∧ q.flash = s.pkg.flash ∧ q.out.getLast? = some (.answer 0x6443 0 6 0x1006 false)) := by
  refine completes_of hp (exec_packageFlagClear v s) ?_
  rw [if_neg hv]
  exact ⟨rfl, rfl, answered_last _ _ _⟩

/-- At the end of its time a requalifying flag clears, with event 0x1210 (R456). -/
theorem requalifyTimer_clears (hflag : rd s.pkg Ix.ruPackageFlag 0 = 3) : Completes .requalifyTimer s (FlagClear s.pkg) := by
  refine completes_of hp (exec_requalifyTimer s) ?_
  obtain ⟨hclear, hremaining, -⟩ := flagCleared_shows (begun s)
  have hkeeps := raise0_keeps (flagCleared (begun s)) 0x1210
  rw [if_pos (show rd (begun s) Ix.ruPackageFlag 0 = 3 from hflag)]
  exact ⟨(hkeeps.rd _ _ (by decide)).trans hclear, (hkeeps.rd _ _ (by decide)).trans hremaining, hkeeps.mem, hkeeps.parts⟩

theorem requalifyTimer_idle (hflag : rd s.pkg Ix.ruPackageFlag 0 ≠ 3) : Completes .requalifyTimer s (fun q => q = begun s) :=
  completes_of hp (exec_requalifyTimer s) (if_neg hflag)

end

/-! ### The obligation -/

theorem report_recomputes {p : Pkg} {pp : Nat} (hlead : isLead p pp = true) (hpoison : (part p pp).ru.poison ≠ none) (hrecut : (part p pp).ru.recut = [])
    (hrunning : (part p pp).pc.stepRunning = true) (hstate : pcState p pp = 2) (hwhole : versionsWhole p pp = true)
    (hreports : ∀ m ∈ membersOf p pp, p.tf.holes.contains m = true ∨ ∃ r ∈ (part p pp).ru.reports, r.sender = m ∧ r.verdict = 1 ∧ r.step = stepOf p pp) :
    (part (recomputeIfReady p pp) pp).ru.recomputing = true
    ∧ (part (recomputeIfReady p pp) pp).sc.starting = some { (part p pp).sc.running with drained := drainedNow p pp } := by
  obtain ⟨hstarting, hrecomputing, -⟩ := restartStep_shows p pp
  rw [recomputeIfReady_restarts hlead hstate hwhole hrunning (Option.isSome_iff_ne_none.2 hpoison) hrecut
    (fun m hm => (hreports m hm).imp_left List.contains_iff_mem.1)]
  exact ⟨hrecomputing, hstarting⟩

/-- Settles O54, by the model's choices on Drydown's stage 1 of log entry 149 and on the rollback's limit of log entry 147: a vote's end, a rollback and a
partition's stop each shown once (`endVote_shows`, `rollback_shows`, `stopOne_shows`), the partitions taken in turn by a fold over what has been told or stopped
so far. -/
theorem faultRecoveryComplete : Obligations.FaultRecoveryComplete := by
  unfold Obligations.FaultRecoveryComplete
  refine ⟨fun s pp block descriptor tile hp => ⟨fun v hv => ?_, fun fp hnone => ?_, fun v hv hroom => ?_, fun fp hnone => ?_, fun r hsender hreserved hrack => ⟨fun hrun hfirst hstep => ?_, ?_⟩,
      fun r hbad => ?_, fun r hbad => ?_, fun r hsender hreserved => ⟨auditReport_taken hp pp hsender hreserved, fun haway => ?_⟩, recutComplete_completes hp pp, fun p => ⟨?_, ?_⟩⟩,
    fun s hp => ⟨fun u hnew => ?_, fun u => drydownStart_once hp u, fun hstage => ?_, drydownStage2_ends hp, fun hstage => ⟨fun u hu => ?_, fun hnone => ?_⟩,
      drydownStage4_ends hp, fun hstage => ⟨drydownStage5_ends hp hstage, drydownStage5_restarts hp hstage⟩, drydownStage_none hp, fun hroom => ?_, ?_,
      fun v hv => packageFlagClear_refused hp hv, fun hflag => ?_, requalifyTimer_idle hp⟩⟩
  · have hv := (voteAwaiting_auditor (begun s) pp block descriptor tile).trans hv
    exact ⟨auditTileComputed_agrees hp hv, auditTileComputed_disagrees hp hv, auditTileComputed_unaudited hp hv⟩
  · exact auditTileComputed_stray hp pp block descriptor tile ((voteAwaiting_auditor (begun s) pp block descriptor tile).trans hnone) fp
  · have hv := (voteAwaiting_arbiter (begun s) pp block descriptor tile).trans hv
    exact ⟨arbiterResult_outvotes hp hv (by omega), fun fp hne hauditor => arbiterResult_confirms hp hv fp hne hauditor (by omega),
      fun fp hne hauditor => arbiterResult_suspects hp hv fp hne hauditor hroom, arbiterResult_unsettled hp hv⟩
  · exact arbiterResult_stray hp pp block descriptor tile ((voteAwaiting_arbiter (begun s) pp block descriptor tile).trans hnone) fp
  · refine (poisonNotice_rollsBack hp pp ⟨hsender, hreserved, hrack⟩ hrun hfirst hstep).mono fun q h => ?_
    exact ⟨h.poison, h.votes, h.reported, h.count, h.rolledStep, h.rolledTimes, fun hover => h.halts (h.rolledTimes ▸ hover)⟩
  · exact poisonNotice_idle hp pp ⟨hsender, hreserved, hrack⟩
  · exact completes_of hp (exec_poisonNotice pp r s) ((poisonArrives_malformed (p := begun s) hbad).symm ▸ malformed_logged (begun s) _ _ _)
  · exact completes_of hp (exec_auditReport pp r s) ((reportArrives_malformed (p := begun s) hbad).symm ▸ malformed_logged (begun s) _ _ _)
  · exact completes_of hp (exec_auditReport pp r s) (reportArrives_away (p := begun s) hsender hreserved haway)
  · exact report_recomputes
  · exact recomputeIfReady_stays
  · refine (drydownStart_begins hp u hnew).mono fun q h => ?_
    exact ⟨h.drydown, h.causing, h.restart, fun pp hpp hworks => ⟨(h.told pp hpp hworks).package, (h.told pp hpp hworks).rack⟩, h.mem⟩
  · refine (drydownStage1_ends hp hstage).mono fun q ⟨p, hstage, hstopped, hq⟩ => ?_
    exact ⟨p, hstage, fun pp hpp => (hstopped pp hpp).state, fun pp hpp => (hstopped pp hpp).ended, hq⟩
  · exact drydownStage3_ends hp hstage (drydownStage_flags (p := begun s) hu)
  · exact drydownStage3_ends hp hstage (drydownStage_unflagged (p := begun s) hnone)
  · refine (packageFlagClear_recorded hp hroom).mono fun q ⟨h, hrecord, hanswer⟩ => ?_
    exact ⟨h.flag, h.remaining, h.mem, h.parts, hrecord, hanswer⟩
  · exact (packageFlagClear_clears hp).mono fun q h => ⟨h.flag, h.remaining, h.mem, h.parts⟩
  · exact (requalifyTimer_clears hp hflag).mono fun q h => ⟨h.flag, h.remaining, h.mem, h.parts⟩

end Sys2Proof.Machine
end

section
/-! Refuting O56: what the end of a command leaves of the package's flag (R456, R474). -/

namespace Sys2Proof.Machine

/-- Entries that stay unwritten where what ends a command has moved, lost, halted and routed nothing; the profile asked for is not among them. -/
def hushMarks : List Nat :=
  [keyAt Ix.tfDetoured 0 0, keyAt Ix.tfUnreachable 0 0, keyAt Ix.tmMovesCommitted 0 0, keyAt Ix.tmMovesAbandoned 0 0, keyAt Ix.tmLossHead 0 0]
    ++ (List.range 12).map (keyAt Ix.pcLastStatus 0)

/-- A package that shows no trace of what ends a command but, perhaps, of the profile asked for: the counterpart of `Quiet` for a package in a phase of its
start, which asks for the Full profile (R317). -/
structure Hushed (p : Pkg) : Prop where
  lastOut : ∃ k pp item, p.out.getLast? = some (.routeStore k pp item)
  noneOutgoing : p.tf.outgoing = []
  noHole : p.tf.holes = []
  unlit : ∀ l, linkState p l ≠ 2
  noneDone : p.ms.failed = []
  unsent : ∃ t ∈ p.ms.txns, t.type = 0 ∧ t.flag = false ∧ t.sent = false
  unfenced : p.tp.fenced = []
  unwritten : ∀ k ∈ hushMarks, tfind p.dict.vals k = none

/-- A step that leaves a hushed package began with one, and left its flag as it was. -/
def Silent (p q : Pkg) : Prop := Hushed q → Hushed p ∧ rd q Ix.ruPackageFlag 0 = rd p Ix.ruPackageFlag 0

section
variable {p q r : Pkg}

theorem Silent.rfl : Silent p p := fun h => ⟨h, Eq.refl _⟩

theorem Silent.trans (h : Silent p q) (g : Silent q r) : Silent p r := fun hr =>
  have ⟨hq, hrq⟩ := g hr
  have ⟨hp, hqp⟩ := h hq
  ⟨hp, hrq.trans hqp⟩

theorem Silent.of_not (h : ¬ Hushed q) : Silent p q := fun hq => absurd hq h

/-- A step that touches neither the entries, what was sent, the transactions, the fences nor the fabric's packets and holes. -/
theorem Silent.of_fields (hdict : q.dict = p.dict) (hout : q.out = p.out) (hms : q.ms = p.ms) (htp : q.tp = p.tp)
    (houtgoing : q.tf.outgoing = p.tf.outgoing) (hholes : q.tf.holes = p.tf.holes) : Silent p q := fun h =>
  { left := {
      lastOut := hout ▸ h.lastOut
      noneOutgoing := houtgoing ▸ h.noneOutgoing
      noHole := hholes ▸ h.noHole
      unlit := fun l => by rw [linkState, ← rd_of_dict hdict]; exact h.unlit l
      noneDone := hms ▸ h.noneDone
      unsent := hms ▸ h.unsent
      unfenced := htp ▸ h.unfenced
      unwritten := hdict ▸ h.unwritten }
    right := rd_of_dict hdict _ _ }

theorem Silent.ite {c : Prop} [Decidable c] (h : Silent p q) (g : Silent p r) : Silent p (if c then q else r) := by
  split
  · exact h
  · exact g

theorem Silent.foldl {α : Type} {f : Pkg → α → Pkg} {l : List α} (hf : ∀ p, ∀ a ∈ l, Silent p (f p a)) (p : Pkg) : Silent p (l.foldl f p) :=
  List.foldlRecOn (motive := Silent p) _ _ Silent.rfl fun _ hq a ha => hq.trans (hf _ a ha)

theorem hushed_of_foldl {α : Type} {f : Pkg → α → Pkg} {l : List α} (hf : ∀ p, ∀ a ∈ l, Silent p (f p a)) (h : Hushed (l.foldl f p)) : Hushed p :=
  (Silent.foldl hf p h).1

theorem Written.not_hushed {k : Nat} (h : Written p k) (hk : k ∈ hushMarks) : ¬ Hushed p := fun hp => h (hp.unwritten k hk)

theorem Hushed.written {k : Nat} (h : Hushed p) (hk : k ∈ hushMarks) : ¬ Written p k := fun hw => hw (h.unwritten k hk)

/-! What sends transactions sends the READ that waits. -/

theorem pump_not_hushed (p : Pkg) : ¬ Hushed (pump p) := fun h => by
  obtain ⟨t, ht, htype, hflag, hunsent⟩ := h.unsent
  exact Bool.false_ne_true (hunsent.symm.trans (pump_sends p t ht htype hflag))

theorem completeHere_not_hushed (p : Pkg) (t : Txn) (status : Nat) : ¬ Hushed (completeHere p t status) := fun h =>
  List.append_ne_nil_of_right_ne_nil _ (List.cons_ne_nil _ _) h.noneDone

theorem sendTm_not_hushed (p : Pkg) (dest : Nat) (m : TmMessage) (echo : Option Nat) : ¬ Hushed (sendTm p dest m echo) := by
  unfold sendTm send
  dsimp only
  split
  · exact completeHere_not_hushed _ _ _
  · split
    · exact completeHere_not_hushed _ _ _
    · exact pump_not_hushed _

theorem settle_silent (n : Nat) (p : Pkg) : Silent p (settle n p) := by
  obtain hnone | ⟨q, hq⟩ := settle_pumps n p
  · rw [hnone]
    exact Silent.rfl
  · rw [hq]
    exact Silent.of_not (pump_not_hushed q)

/-! What halts, loses or moves something writes an entry. -/

theorem haltPartition_not_hushed (p : Pkg) {pp : Nat} (hpp : pp < 12) (status : Nat) : ¬ Hushed (haltPartition p pp status) := by
  have hstatus : Written (modPc (last p Ix.pcLastStatus pp status) pp (fun q => { q with stepRunning := false })) (keyAt Ix.pcLastStatus 0 pp) :=
    written_wr_self p Ix.pcLastStatus pp status
  have hmark : keyAt Ix.pcLastStatus 0 pp ∈ hushMarks := List.mem_append_right _ (List.mem_map_of_mem (List.mem_range.2 hpp))
  unfold haltPartition
  dsimp only
  split
  · exact hstatus.not_hushed hmark
  · exact ((hstatus.wr Ix.pcState pp 7).keeps (raise_keeps _ _ _ _ _) (commsKey_false (by omega) (by decide))).not_hushed hmark

theorem failServing_silent (p : Pkg) {pp : Nat} (hpp : pp < 12) : Silent p (failServing p pp) := by
  unfold failServing
  split
  · exact Silent.rfl
  · dsimp only
    split
    · exact Silent.of_fields (Eq.refl _) (Eq.refl _) (Eq.refl _) (Eq.refl _) (Eq.refl _) (Eq.refl _)
    · split <;> exact Silent.of_not (haltPartition_not_hushed _ hpp _)

theorem reportLoss_not_hushed (p : Pkg) (pp cause tier unit base length : Nat) : ¬ Hushed (reportLoss p pp cause tier unit base length) :=
  Written.not_hushed (k := keyAt Ix.tmLossHead 0 0)
    (Written.keeps (p := touch (bump _ Ix.tmLossHead 0 1) Ix.tmLossLog 0) (written_wr_self _ _ _ _) (raise_keeps _ _ _ _ _) (by decide)) (by decide)

theorem fenceRegion_not_hushed (p : Pkg) {r : Nat} (hr : r < 12) (status : Nat) (h : ¬ Hushed p) : ¬ Hushed (fenceRegion p r status) := by
  by_cases hclosed : (p.tp.fenced.contains r || regionHidden p r) = true
  · rwa [fenceRegion, if_pos hclosed]
  · intro hbare
    obtain ⟨hopen, hshown⟩ := Bool.or_eq_false_iff.1 (Bool.eq_false_iff.2 hclosed)
    have hfenced := (fenceRegion_effect (r := ⟨r, hr⟩) status hopen hshown).1
    exact List.append_ne_nil_of_right_ne_nil _ (List.cons_ne_nil _ _) (hfenced.symm.trans hbare.unfenced)

theorem failChannel_silent (p : Pkg) (ddr : Bool) (unit ch : Nat) : Silent p (failChannel p ddr unit ch) := by
  have hforgets : Silent p (forgetBadLines p ddr unit) :=
    Silent.of_fields (Eq.refl _) (Eq.refl _) (Eq.refl _) (Eq.refl _) (Eq.refl _) (Eq.refl _)
  unfold failChannel
  dsimp only
  split
  · exact Silent.ite (Silent.of_not (reportLoss_not_hushed _ _ _ _ _ _ _)) hforgets
  · split
    · exact hforgets
    next hworks =>
      have hunit : unit < 12 := by omega
      split
      · exact Silent.of_not (reportLoss_not_hushed _ _ _ _ _ _ _)
      · exact Silent.of_not (fenceRegion_not_hushed _ hunit _ (reportLoss_not_hushed _ _ _ _ _ _ _))
      · exact Silent.of_not (fenceRegion_not_hushed _ hunit _ (reportLoss_not_hushed _ _ _ _ _ _ _))
      · exact hforgets

theorem failBadChannels_silent (p : Pkg) : Silent p (failBadChannels p) :=
  Silent.foldl (fun _ _ _ => (failChannel_silent _ _ _ _).ite (failChannel_silent _ _ _ _)) p

theorem commitMove_not_hushed (p : Pkg) (m : Move) : ¬ Hushed (commitMove p m) :=
  ((((written_wr_self _ Ix.tmMovesCommitted 0 _).wr Ix.tmBytesMoved 0 _).wr Ix.akPagesFree _ _).wr Ix.akPagesInUse _ _).not_hushed (by decide)

theorem abandonMoves_silent (p : Pkg) (f : Move → Bool) : Silent p (abandonMoves p f) := by
  unfold abandonMoves
  dsimp only
  split
  · exact Silent.rfl
  · exact Silent.of_not ((written_wr_self _ Ix.tmMovesAbandoned 0 _).not_hushed (by decide))

theorem bringHome_silent (p : Pkg) (l : Loan) : Silent p (bringHome p l) := by
  unfold bringHome
  dsimp only
  have habandoned := abandonMoves_silent p fun m => decide (0x040000000000 + l.slot.getD 0 * 0x40000000 ≤ m.dest) &&
    decide (m.dest < 0x040000000000 + l.slot.getD 0 * 0x40000000 + 0x40000000)
  generalize abandonMoves p _ = q at habandoned ⊢
  refine habandoned.trans (Silent.trans ?_ (Silent.foldl (fun q k _ => ?_) _))
  · exact Silent.of_fields (Eq.refl _) (Eq.refl _) (Eq.refl _) (Eq.refl _) (Eq.refl _) (Eq.refl _)
  · split
    · exact Silent.rfl
    · split
      · exact Silent.of_fields (Eq.refl _) (Eq.refl _) (Eq.refl _) (Eq.refl _) (Eq.refl _) (Eq.refl _)
      · exact Silent.rfl

theorem returnEmpty_silent (p : Pkg) : Silent p (returnEmpty p) :=
  Silent.foldl (fun _ _ _ => (Silent.of_not (sendTm_not_hushed _ _ _ _)).ite Silent.rfl) p

theorem readvertise_silent (p : Pkg) : Silent p (readvertise p) := by
  unfold readvertise
  split
  · exact Silent.rfl
  · unfold advertise
    refine Silent.trans ?_ (Silent.foldl (fun _ _ _ => Silent.of_not (sendTm_not_hushed _ _ _ _)) _)
    exact Silent.of_fields (Eq.refl _) (Eq.refl _) (Eq.refl _) (Eq.refl _) (Eq.refl _) (Eq.refl _)

theorem borrowIfShort_silent (p : Pkg) (pp : Nat) : Silent p (borrowIfShort p pp) := by
  unfold borrowIfShort
  dsimp only
  split
  · exact Silent.rfl
  · split
    · exact Silent.rfl
    · exact Silent.of_not (sendTm_not_hushed _ _ _ _)

theorem tierWork_silent (p : Pkg) : Silent p (tierWork p) := by
  unfold tierWork
  dsimp only
  have hcommits : ∀ q : Pkg, ∀ pp, Silent q (if commitsFreely q pp then commitMoves q pp q.tm.moves.length else q) := fun q pp =>
    (Silent.foldl (fun _ _ _ => Silent.of_not (commitMove_not_hushed _ _)) q).ite Silent.rfl
  have hmoved := Silent.foldl (fun q pp _ => hcommits q pp) (l := (p.tm.moves.map (·.partition)).eraseDups) p
  generalize (p.tm.moves.map (·.partition)).eraseDups.foldl _ p = moved at hmoved ⊢
  have hhome := Silent.foldl (fun q l _ => bringHome_silent q l) (l := moved.tm.loans.filter (fun l => l.slot.isSome && l.state == 1)) moved
  generalize (moved.tm.loans.filter (fun l => l.slot.isSome && l.state == 1)).foldl bringHome moved = home at hhome ⊢
  have hoffered := (hmoved.trans hhome).trans ((returnEmpty_silent home).trans (readvertise_silent _))
  generalize readvertise (returnEmpty home) = offered at hoffered ⊢
  exact hoffered.trans ((Silent.foldl (fun q pp _ => borrowIfShort_silent q pp) offered).ite Silent.rfl)

/-! What the links do sends something other than a row or an end notice. -/

theorem emit_not_hushed {x : Out} (hx : ∀ k pp item, x ≠ .routeStore k pp item) : ¬ Hushed (emit p x) := fun h => by
  obtain ⟨k, pp, item, hlast⟩ := h.lastOut
  rw [emit, List.getLast?_concat] at hlast
  exact hx k pp item (Option.some.inj hlast)

theorem modLink_silent (p : Pkg) (l : Nat) (f : Link → Link) : Silent p (modLink p l f) :=
  Silent.of_fields (Eq.refl _) (Eq.refl _) (Eq.refl _) (Eq.refl _) (Eq.refl _) (Eq.refl _)

theorem sendPacket_silent (p : Pkg) (l : Nat) (k : Packet) : Silent p (sendPacket p l k) :=
  (Silent.foldl (fun _ _ _ => Silent.of_not (emit_not_hushed fun _ _ _ => Out.noConfusion)) p).trans (modLink_silent _ _ _)

theorem drainLink_silent (p : Pkg) (l : Nat) : Silent p (drainLink p l) := by
  unfold drainLink
  refine List.foldlRecOn (motive := fun a : Pkg × List Nat => Silent p a.1) _ _ (modLink_silent _ _ _) fun a ih k _ => ih.trans ?_
  dsimp only
  split
  · exact sendPacket_silent _ _ _
  · exact modLink_silent _ _ _

theorem forward_silent (p : Pkg) (k : Packet) (d : Nat) (arrived : Option Nat) : Silent p (forward p k d arrived) := by
  unfold forward
  dsimp only
  split
  · exact Silent.rfl
  · exact (modLink_silent _ _ _).trans (drainLink_silent _ _)

theorem respondError_not_hushed (p : Pkg) (k : Packet) (status : Nat) : ¬ Hushed (respondError p false k status) := fun h =>
  List.append_ne_nil_of_right_ne_nil _ (List.cons_ne_nil _ _) h.noneOutgoing

theorem bounce_silent (p : Pkg) (k : Packet) (status : Nat) : Silent p (bounce p k status) := by
  unfold bounce
  split
  · exact Silent.rfl
  · split
    · split
      · exact Silent.of_not (completeHere_not_hushed _ _ _)
      · exact Silent.rfl
    · exact Silent.of_not (respondError_not_hushed _ _ _)

/-- A packet led around a link is counted, and one that no link leads on as well. -/
theorem detour_not_hushed (p : Pkg) (k : Packet) (blocked : Nat) (arrived : Option Nat) : ¬ Hushed (detour p k blocked arrived) := fun h => by
  unfold detour at h
  dsimp only at h
  split at h
  · exact (forward_silent _ _ _ _ h).1.written (by decide) (written_wr_self p Ix.tfDetoured 0 _)
  · exact (bounce_silent _ _ _ h).1.written (by decide) ((written_wr_self p Ix.tfUnreachable 0 _).wr Ix.tfLastStatus 0 _)

theorem Hushed.closed (h : Hushed p) (d : Nat) : open' p d = false := by
  have hlit : litLinks p d = [] := List.filter_eq_nil_iff.2 fun l _ => by simpa using h.unlit l
  simp [open', hlit]

/-- A package without a hole and without a lit link cannot route a packet unseen. -/
theorem route_not_hushed (p : Pkg) (k : Packet) (arrived : Option Nat) : ¬ Hushed (route p k arrived) := fun h => by
  have hholes {n : Nat} (hp : Hushed p) : p.tf.holes.contains n ≠ true := by simp [hp.noHole]
  unfold route at h
  split at h
  next hsrc => exact hholes h hsrc
  next =>
    split at h
    next hdest => exact hholes (bounce_silent _ _ _ h).1 hdest
    next =>
      extract_lets dim k d at h
      by_cases hopen : open' p d = true
      · rw [if_pos hopen] at h
        exact Bool.false_ne_true (((forward_silent _ _ _ _ h).1.closed d).symm.trans hopen)
      · rw [if_neg hopen] at h
        exact detour_not_hushed _ _ _ _ h

theorem flushPackets_silent (n : Nat) (p : Pkg) : Silent p (flushPackets n p) := by
  induction n generalizing p with
  | zero => exact Silent.rfl
  | succ n ih =>
    unfold flushPackets
    split
    · exact Silent.rfl
    · exact (Silent.of_not (route_not_hushed _ _ _)).trans (ih _)

/-! The profile asked for (R317): with no link lit no lane is dealt, and what is asked is all that changes. -/

theorem lanesDealt_unlit (h : ∀ l, linkState (lanesDealt p) l ≠ 2) : lanesDealt p = p :=
  foldl_stays fun l hl => if_neg fun hlit => h l (((lanesDealt_frame p).linkState_of_lanes (List.mem_range.1 hl)).trans hlit)

theorem askProfile_silent (p : Pkg) (v : Nat) : Silent p (wr p Ix.tfProfileActive 0 v) := fun h => by
  have hkept : ∀ k, k ≠ keyAt Ix.tfProfileActive 0 0 → tfind (wr p Ix.tfProfileActive 0 v).dict.vals k = tfind p.dict.vals k := fun k hk => tfind_tput_ne _ _ hk
  refine ⟨⟨h.lastOut, h.noneOutgoing, h.noHole, fun l => ?_, h.noneDone, h.unsent, h.unfenced, fun k hk => ?_⟩, rd_of_val (hkept _ (by decide))⟩
  · rw [linkState, ← rd_of_val (hkept (keyAt Ix.tfLinkState 0 l) (by simp only [keyAt, Ix.tfLinkState, Ix.tfProfileActive]; omega))]
    exact h.unlit l
  · rw [← hkept k (ne_of_mem_of_not_mem hk (by decide))]
    exact h.unwritten k hk

theorem followProfile_silent (p : Pkg) : Silent p (followProfile p) := by
  refine Silent.rfl.ite fun h => ?_
  rw [showProfile_eq] at h ⊢
  have hidle := lanesDealt_unlit (p := wr p Ix.tfProfileActive 0 (profileAsked p)) h.unlit
  rw [hidle] at h ⊢
  exact askProfile_silent p _ h

/-! A link that retrains sends its own capability record. -/

theorem flood_silent (p : Pkg) (kind id d : Nat) : Silent p (flood p kind id d) := by
  refine Silent.foldl (fun q x _ => ?_) p
  split
  · exact Silent.of_not (emit_not_hushed fun _ _ _ => Out.noConfusion)
  · exact Silent.rfl

theorem checkDirection_silent (p : Pkg) (d : Nat) : Silent p (checkDirection p d) := by
  have hsuspects : ∀ l, Silent p { p with tf := { p.tf with suspects := l } } := fun _ =>
    Silent.of_fields (Eq.refl _) (Eq.refl _) (Eq.refl _) (Eq.refl _) (Eq.refl _) (Eq.refl _)
  unfold checkDirection
  dsimp only
  split
  · exact Silent.rfl.ite ((hsuspects _).trans (flood_silent _ _ _ _))
  · exact ((hsuspects _).trans (flood_silent _ _ _ _)).ite Silent.rfl

theorem handBack_not_hushed (p : Pkg) (l : Nat) : ¬ Hushed (handBack p l 1) := fun h => by
  have htrains := hushed_of_foldl (fun _ _ _ => Silent.of_not (route_not_hushed _ _ _)) (checkDirection_silent _ _ h).1
  obtain ⟨k, pp, item, hlast⟩ := htrains.lastOut
  change (_ ++ [Out.capability l _]).getLast? = _ at hlast
  rw [List.getLast?_concat] at hlast
  exact Out.noConfusion (Option.some.inj hlast)

theorem retrainNext_silent (n : Nat) (p : Pkg) : Silent p (retrainNext n p) := by
  induction n generalizing p with
  | zero => exact Silent.rfl
  | succ n ih =>
    unfold retrainNext
    split
    · exact Silent.rfl
    · split
      · exact Silent.of_fields (Eq.refl _) (Eq.refl _) (Eq.refl _) (Eq.refl _) (Eq.refl _) (Eq.refl _)
      · refine Silent.trans ((Silent.of_not (handBack_not_hushed _ _)).ite ?_) (ih _)
        exact Silent.of_fields (Eq.refl _) (Eq.refl _) (Eq.refl _) (Eq.refl _) (Eq.refl _) (Eq.refl _)

theorem returnKept_silent (p : Pkg) : Silent p (returnKept p) :=
  Silent.foldl (fun _ _ _ => Silent.foldl (fun _ _ _ => modLink_silent _ _ _) _) p

/-- What ends a command leaves hushed only what was hushed, and then with the same flag. -/
theorem finish_silent (p : Pkg) : Silent p (finish p) := by
  have hserving : Silent p ((List.range 12).foldl failServing (settle 4096 p)) :=
    (settle_silent 4096 p).trans (Silent.foldl (fun q pp hpp => failServing_silent q (List.mem_range.1 hpp)) _)
  have hmemory := ((hserving.trans (failBadChannels_silent _)).trans (tierWork_silent _)).trans (settle_silent 4096 _)
  exact (((hmemory.trans (flushPackets_silent 4096 _)).trans (followProfile_silent _)).trans (retrainNext_silent 25 _)).trans (returnKept_silent _)

end

/-- A package flagged REQUALIFY in phase 6 of a full test, whose defect list names a block out of range: hiding it writes the flag's own entry. A row is the last
thing that it sent, and a READ waits. -/
def flaggedPkg : Pkg :=
  { wr (wr {} Ix.btStartState 0 6) Ix.ruPackageFlag 0 1 with
    out := [Out.routeStore {} 0 (.row {})]
    bt := { phase := 6, fullTest := true }
    flash := { defects := [{ kind := 2, unit := (Ix.ruPackageFlag.index - Ix.blockState.index) * 256 }] }
    ms := { txns := [{ type := 0, sent := false }] } }

def flaggedState : State := { pkg := flaggedPkg }

/-- The package when its test has passed. -/
def testedPkg : Pkg := phase6 (begun flaggedState) {}

/-- No link is lit where no entry from the links' states on holds 2. -/
theorem unlit_of_vals {p : Pkg} (h : ∀ e ∈ p.dict.vals, keyAt Ix.tfLinkState 0 0 ≤ e.1 → e.2 ≠ .num 2) (l : Nat) : linkState p l ≠ 2 := by
  intro hlit
  rw [linkState, rd, rdAt] at hlit
  cases hv : tfind p.dict.vals (keyAt Ix.tfLinkState 0 l) with
  | none =>
    rw [hv] at hlit
    exact absurd hlit (by decide)
  | some v =>
    rw [hv] at hlit
    cases v with
    | num n => exact h _ (tfind_mem hv) (by simp only [keyAt]; omega) (congrArg DVal.num hlit)
    | bytes b => exact absurd (show Ix.tfLinkState.dflt = 2 from hlit) (by decide)

/-- What the model's run of the test shows, evaluated. -/
theorem testedPkg_shows : (finish testedPkg).out.getLast? = some (.routeStore {} 0 (.row {})) ∧ (finish testedPkg).tf.outgoing = [] ∧ (finish testedPkg).tf.holes = []
    ∧ (∀ e ∈ (finish testedPkg).dict.vals, keyAt Ix.tfLinkState 0 0 ≤ e.1 → e.2 ≠ .num 2) ∧ (finish testedPkg).ms.failed = []
    ∧ (∃ t ∈ (finish testedPkg).ms.txns, t.type = 0 ∧ t.flag = false ∧ t.sent = false) ∧ (finish testedPkg).tp.fenced = []
    ∧ (∀ k ∈ hushMarks, tfind (finish testedPkg).dict.vals k = none) ∧ rd (finish testedPkg) Ix.ruPackageFlag 0 = 4 := by
  decide +kernel

theorem testedPkg_hushed : Hushed (finish testedPkg) := by
  obtain ⟨hout, houtgoing, hholes, hvals, hfailed, htxns, hfenced, hmarks, -⟩ := testedPkg_shows
  exact ⟨⟨_, _, _, hout⟩, houtgoing, hholes, unlit_of_vals hvals, hfailed, htxns, hfenced, hmarks⟩

theorem testedPkg_flag : rd (finish testedPkg) Ix.ruPackageFlag 0 = 4 := by
  obtain ⟨-, -, -, -, -, -, -, -, hflag⟩ := testedPkg_shows
  exact hflag

theorem exec_of_phase6 {s : State} (hp : powered s.pkg = true) (hphase : s.pkg.bt.phase = 6) (r : PhaseResult) :
    exec (.startPhaseComplete r) s = .next { s with pkg := finish (phase6 (begun s) r) } := by
  have hbegun : (begun s).bt.phase = 6 := hphase
  rw [exec_startPhaseComplete, execStartPhaseComplete, onClockF_powered _ _ hp]
  simp [hbegun]

/-- Refutes O56: its clause on a package flagged REQUALIFY has the flag at 3 after a passed full test, and gives no bound on the defect list. Where a defect
names a block out of range, hiding it before the test (R473) writes the entry of the flag: the flag is then 4, the test makes nothing REQUALIFYING, and no
package whose flag is 3 ends as this one does. -/
theorem not_startPhasesComplete : ¬ Obligations.StartPhasesComplete := by
  unfold Obligations.StartPhasesComplete
  intro h
  have hon : powered flaggedState.pkg = true := by decide
  obtain ⟨-, -, -, -, -, -, -, -, -, -, hpasses, -⟩ := h flaggedState {} hon
  obtain ⟨q, ⟨-, -, -, -, hflagged⟩, hstep⟩ := hpasses rfl rfl rfl
  obtain ⟨hflag, -⟩ := hflagged (by decide) rfl rfl
  have hends : finish testedPkg = finish q := pkg_eq_of_next ((exec_of_phase6 hon rfl {}).symm.trans hstep)
  obtain ⟨-, hsame⟩ := finish_silent q (hends ▸ testedPkg_hushed)
  rw [← hends, testedPkg_flag, hflag] at hsame
  exact absurd hsame (by decide)

end Sys2Proof.Machine
end
